-- ==== Sys2Proof/Word.lean ====
section
/-! DEFINITION. The word types of the block: bytes, the 32-bit register word (R5), and the short names used for the four
quadrants, the two hosts and the 76 ports (R1). -/

namespace Sys2Proof

/-- One byte of a frame, a descriptor or a parameter block. -/
abbrev Byte := BitVec 8

/-- A device register, 32 bits, little-endian (R5). -/
abbrev Word := BitVec 32

/-- A string of bytes: a frame, a parameter block, an event entry. -/
abbrev Bytes := List Byte

/-- A port number P0 to P75 (R1). -/
abbrev Port := Fin 76

/-- A quadrant Q0 to Q3 (R15). -/
abbrev Quad := Fin 4

/-- A traffic class TC0 to TC7 (R261). -/
abbrev Tc := Fin 8

/-- A byte from a number (its low eight bits). -/
abbrev byte (n : Nat) : Byte := BitVec.ofNat 8 n

/-- A register word from a number (its low 32 bits). -/
abbrev word (n : Nat) : Word := BitVec.ofNat 32 n

end Sys2Proof
end

