-- ==== Sys2Proof/Syntax.lean ====
section
/-! DEFINITION. The commands of the block: one constructor of `Instr` for each row of spec/opcode_table.json, with what the row
brings from outside the block as its operands (log entry 4): the bytes of a frame, the value written to a register, what a
measurement or the far side of a bus found. -/

namespace Sys2Proof

/-- The four sources of register accesses (R37, in the order of its rotation). -/
inductive Src where
  | ha | hb | spi | fw
deriving DecidableEq, Repr

/-- A host: 0 is HA, 1 is HB. -/
abbrev HostId := Fin 2

/-- Who commands: a host through a CMDQ of one of its queue sets, or the firmware. -/
inductive Who where
  | host (h : HostId) (qs : Nat)
  | firmware
deriving DecidableEq, Repr

/-- A command entry as the device has fetched it (R103, R104): who commands, the tag, the size and address of the reply
buffer, and the parameter bytes. -/
structure CmdCtx where
  who : Who
  tag : Nat
  rlen : Nat
  raddr : Nat
  par : Bytes
deriving DecidableEq, Repr

/-- A timestamp: the three scales latched in one tick, in ns (R230). -/
structure Stamp where
  lt : Nat := 0
  d0 : Nat := 0
  d1 : Nat := 0
deriving DecidableEq, Repr

/-- A memory error that a step meets (R153 to R155, R191, R222): the memory (0 packet, 1 BD, 2 link, 3 a forwarding table of the
frame's quadrant, 4 the hedge), the item (`TABLE` code or hedge `ITEM`), the index (in packet memory the byte address of the word), and whether it
was corrected. -/
structure EccHit where
  mem : Nat
  item : Nat
  index : Nat
  corrected : Bool
deriving DecidableEq, Repr

/-- When a frame stood on its medium (R230, R243): how many ns before its end point its start point came, and whether the end point fell in the
second half of its tick. -/
structure Span where
  ago : Nat := 0
  late : Bool := false
deriving DecidableEq, Repr

/-- A CAN, LIN or FlexRay PDU as its slice has received it (R382): `KIND`, the header fields, the data, and the latched start point. -/
structure LegPdu where
  kind : Nat
  flags : Nat
  id : Nat
  dlc : Nat
  xlSdt : Nat := 0
  xlVcid : Nat := 0
  xlAf : Nat := 0
  frCycle : Nat := 0
  frFlags : Nat := 0
  data : Bytes
  start : Stamp := {}
deriving DecidableEq, Repr

/-- How a CAN transmission ends (R388). -/
inductive CanResult where
  | sent | arbitrationLost | error
deriving DecidableEq, Repr

/-- How a LIN slot ends (R418). -/
inductive LinResult where
  | done | noResponse | checksum | framing | collision
deriving DecidableEq, Repr

/-- What comes with a job from memory (R442): the bytes at `SRC`, at `CTX` and at `KEYADDR`. -/
structure JobData where
  src : Bytes
  ctx : Bytes
  key : Bytes
deriving DecidableEq, Repr

/-- A path record (R343): the first-hop port, then fabric address and egress port of every later hop. -/
structure PathRec where
  first : Nat
  hops : List (Nat × Nat)
deriving DecidableEq, Repr

/-- One hop of a stream at a device (R309, R317): the path (0 A, 1 B), the port it enters by, the egress port, the upstream sum
of R321 and the least upstream time of R322, the bound reserved, the skew hold in it, whether the bound rests on the preemption residue
(R290), whether it belongs to a re-run that is not yet Committed (R316), and the line rate in bit/s at which it was reserved (R604). -/
structure Hop where
  path : Nat
  inPort : Nat
  outPort : Nat
  aUp : Nat
  low : Nat := 0
  bound : Nat := 0
  skew : Nat := 0
  residue : Bool := false
  tent : Bool := false
  rate : Nat := 0
deriving DecidableEq, Repr

/-- A Committed stream in a checkpoint (R366): its records, quota and path records, its epoch and next number, and the skew hold of its
recovery state where the unit is a destination. -/
structure CkStream where
  handle : Nat
  contract : Bytes
  ingress : Bool
  transit : Bool
  dests : List Nat
  paths : List PathRec
  hops : List Hop
  len : Nat
  pool : Nat
  bufs : Nat
  links : Nat
  energy : Nat
  stated : Nat
  sumA : Nat
  sumB : Nat
  skew : Nat
  epoch : Nat
  next : Nat
  recov : Option Nat
deriving DecidableEq, Repr

/-- A record that a checkpoint takes away (R366): a stream, a route entry, a pinned or stream-owned entry of a quadrant, an image's value. -/
inductive CkGone where
  | stream (handle : Nat)
  | route (index : Nat)
  | pin (quad word : Nat)
  | image (index : Nat)
deriving DecidableEq, Repr

/-- A checkpoint (R366): one in full holds every record, any other the records that are new or have changed and those that are gone. Its content,
section by section: streams, route entries, pinned and stream-owned entries as (quadrant, word),
generation and section digests, the rates of D0 and D1, bus-off CAN controllers, LIN positions as (controller, table, entry), and the values
that the signal mover last wrote, by image; and the host votes (R608). -/
structure Ckpt where
  seq : Nat
  size : Nat
  full : Bool := false
  streams : List CkStream := []
  routes : List (Nat × Nat) := []
  pins : List (Nat × Nat) := []
  gen : Nat := 0
  secs : List Bytes := []
  rate0 : Int := 0
  rate1 : Int := 0
  servo : Nat := 0
  busOff : List Nat := []
  lin : List (Nat × Nat × Nat) := []
  images : List (Nat × Bytes) := []
  votes : Nat := 0xFFFFFFFF
  gone : List CkGone := []
deriving DecidableEq, Repr

/-- A heartbeat on the pair bus (R363 to R365): role, draining and fenced flags, sequence number of the last checkpoint, and the mode,
`PREFER` and identity that the units compare. -/
structure Heartbeat where
  role : Nat
  draining : Bool := false
  fenced : Bool := false
  seq : Nat := 0
  mode : Nat
  prefer : Bool := false
  uid : Nat
deriving DecidableEq, Repr

/-- A HELLO body (R458). -/
structure Hello where
  uid : Nat
  addr : Nat
  addrValid : Bool
  seat : Bool
  coord : Bool := false
  successor : Bool := false
  withdrawing : Bool := false
  large : Bool := false
  mode : Nat := 0
  prio : Nat := 1
  port : Nat := 0
  gen : Nat := 0
  peer : Nat := 0
deriving DecidableEq, Repr

/-- A link as its sender announces it (R457): the sending port, its cost, the neighbour's identity and the neighbour's port. -/
structure LsLink where
  port : Nat
  cost : Nat
  nbr : Nat
  nbrPort : Nat
deriving DecidableEq, Repr

/-- A LINK_STATE body (R457): the sender, its links, and a sequence number per sender. -/
structure LinkState where
  uid : Nat
  addr : Nat
  addrValid : Bool
  seat : Bool
  prio : Nat
  withdrawing : Bool
  peer : Nat := 0
  seq : Nat
  links : List LsLink
deriving DecidableEq, Repr

/-- A GOSSIP body (R472). -/
structure Gossip where
  addr : Nat
  liveOk : Nat
  gen : Nat
  root : Bytes
deriving DecidableEq, Repr

/-- A COORD body (R457, R468): coordinator and successor by identity and address, the assigned addresses by identity, the size mode, and
the D0 time in ns at which the mode is to be taken. -/
structure CoordMsg where
  coord : Nat
  coordAddr : Nat
  prio : Nat := 1
  succ : Nat := 0
  succAddr : Nat := 0
  assigned : List (Nat × Nat) := []
  large : Bool := false
  devices : Nat := 0
  at_ : Nat := 0
deriving DecidableEq, Repr

/-- An ADMIT message (R310, R313 to R316), relayed hop by hop along a path: a request with the *LEN* of R318, the path, the hop it is at,
the upstream sum and the least upstream time (R321, R322); a verdict on its way back (R312, R328); a commit with epoch and next number
(R357); an acknowledgement; a withdrawal. -/
inductive AdmMsg where
  | request (contract : Bytes) (len path : Nat) (rec_ : PathRec) (hop up low : Nat) (rerun : Bool)
  | verdict (handle path verdict atDev atPort stated sumA sumB skew : Nat)
  | commit (handle path epoch next : Nat)
  | ack (handle path device : Nat) (ok : Bool)
  | withdraw (handle path : Nat)
deriving DecidableEq, Repr

/-- A PATHS message (R457, R466, R467, R590): a request for paths of an ingress device; the coordinator's answer, or its choice of a new
path; a stream's record to the coordinator; the coordinator's copy to its successor and the acknowledgement; the path states; the call
for committed records; the withdrawal of a stream whose handle clashes. -/
inductive PathsMsg where
  | request (ingress : Nat) (contract : Bytes)
  | records (handle : Nat) (path : Option Nat) (paths : List PathRec)
  | report (ingress : Nat) (contract : Bytes) (paths : List PathRec) (upA upB gone : Bool)
  | copy (ingress : Nat) (contract : Bytes) (paths : List PathRec) (upA upB window gone : Bool)
  | copyAck (handle : Nat)
  | states (handle : Nat) (upA upB window : Bool)
  | collect (coord : Nat)
  | clash (handle : Nat)
deriving DecidableEq, Repr

/-- A DIGEST message (R474): a query, or the reply of 824 bytes. -/
inductive DigestMsg where
  | query (asker : Nat)
  | reply (bytes : Bytes)
deriving DecidableEq, Repr

/-- A RESET message (R475): the request, and the answer: the drain has started, or the reset is denied. -/
inductive ResetMsg where
  | request (asker : Nat)
  | answer (ok : Bool)
deriving DecidableEq, Repr

/-- A SLEEP message (R537): kind 0 vote, 1 commit, 2 wake; the commit time on D0 in ns; `MAY_SLEEP` as a mask of addresses. -/
structure SleepMsg where
  kind : Nat
  addr : Nat
  clusters : Nat
  part : Nat := 0
  cause : Nat := 0
  at_ : Nat := 0
  may : Nat := 0
deriving DecidableEq, Repr

/-- A Transom request (R478, R479): the asking device and host, its tag, the window with the settings that matter at the target, the
target address, which of the bytes from there on are covered, and the data of a write in the order of window offsets; whether it belongs to
a locked sequence, and the tag of the request before it in its channel while that was unanswered (R478). -/
structure TrnReq where
  src : Nat
  host : Nat
  tag : Nat
  window : Nat
  space : Nat
  target : Nat
  width : Nat
  burst : Nat
  lane : Bool
  write : Bool
  addr : Nat
  cover : List Bool
  data : Bytes
  locked : Bool := false
  prev : Option Nat := none
deriving DecidableEq, Repr

/-- A TRANSOM message (R478, R482 to R486): a request; an answer with its cause (0 done) and the data read; the requests and answers of locked
sequences over a bus (0 to 3 an SPI master, 4 the parallel bus); a side-band change. -/
inductive TrnMsg where
  | request (r : TrnReq)
  | answer (host tag cause : Nat) (data : Bytes)
  | lock (src host bus : Nat)
  | granted (dev host bus : Nat)
  | retry (dev host bus : Nat)
  | unlock (src host bus : Nat)
  | broken (dev host bus : Nat)
  | sideband (src entry value : Nat)
deriving DecidableEq, Repr

/-- A write of a core of the triad outside its own SRAM (R493): address, data, byte enables. -/
structure BusWrite where
  addr : Nat
  data : Nat
  be : Nat
deriving DecidableEq, Repr

/-- A control message of DFP (R457). -/
inductive DfpMsg where
  | hello (h : Hello)
  | linkState (l : LinkState)
  | gossip (g : Gossip)
  | coord (c : CoordMsg)
  | adm (m : AdmMsg)
  | paths (m : PathsMsg)
  | withdraw (sender drainLimit : Nat)
  | transom (m : TrnMsg)
  | digest (m : DigestMsg)
  | reset (m : ResetMsg)
  | sleep (m : SleepMsg)
deriving DecidableEq, Repr

/-- The commands, in the order of the table. -/
inductive Instr where
  /-- ETHERNET_FRAME_RECEIVED (R124). An Ethernet slice completes a frame, checks length then FCS, counts it and stages it or discards it. -/
  | ethernetFrameReceived (p : Port) (frame : Bytes) (phyErr : Bool) (w : Span := {})
  /-- LEGACY_PDU_RECEIVED (R384). A legacy slice passes a CAN, LIN or FlexRay PDU, which is offered to the signal mover and routed or counted in GW_NO_ROUTE. -/
  | legacyPduReceived (p : Port) (ok : Bool) (u : LegPdu) (w : Span := {})
  /-- PIPELINE_FRAME (R26). A staged frame enters its home quadrant pipeline and passes stages 1 to 8. -/
  | pipelineFrame (p : Port) (ecc : List EccHit)
  /-- LEARN_REQUEST (R177). The learn engine serves one queued learn request: insert, refresh, move, lock or refuse. -/
  | learnRequest (q : Quad)
  /-- RECOVERY_COPY (R352). A copy arriving at the destination device passes sequence recovery and is delivered, held, pended or eliminated. -/
  | recoveryCopy
  /-- SKEW_TICK (R352). Every 100 ns recovery declares gaps for expired holds and closes an old epoch when due. -/
  | skewTick
  /-- BATCH_ADD (R399). The batch builder takes one internal-frame copy into its channel's batch, opening or closing batches. -/
  | batchAdd
  /-- BATCH_TICK (R399). A channel's open batch is closed when its collection timeout has passed. -/
  | batchTick
  /-- EGRESS_SELECT (R266). When a port is free, the scheduler picks the highest eligible class and starts its head frame. -/
  | egressSelect (p : Port) (ecc : Option EccHit)
  /-- FRAME_DEPART (R43). A copy's last bit passes the egress boundary; its owner bit is released and completions and counters follow. -/
  | frameDepart (p : Port)
  /-- SV_FRAME_TAKE (R148). The supervisor island reads one frame from the head of an SV queue into triad memory and releases it. -/
  | svFrameTake (ecc : Option EccHit) (servo : Option (Nat × Int × Bool))
  /-- HOST_RX_DELIVER (R102). A frame for HA or HB is written into a posted RXQ buffer with its write-back. -/
  | hostRxDeliver (h : HostId) (entry : Bytes)
  /-- EVENT_WRITE (R109). A waiting event or completion is written to its EVQ once an unreserved entry is free. -/
  | eventWrite (h : HostId) (failed : Bool := false)
  /-- MSIX_TIME_FIRE (R117). A vector fires when TIME µs have passed since its first counted entry. -/
  | msixTimeFire (h : HostId) (v : Nat)
  /-- DOORBELL_POLL_TIMER (R91). The DB_POLL or IDLE_POLL period expires and a doorbell fetch is issued. -/
  | doorbellPollTimer (h : HostId)
  /-- DOORBELL_SLOT_READ (R90). A doorbell slot copy arrives and is accepted or rejected by its generation words, updating ring indices. -/
  | doorbellSlotRead (h : HostId) (slot : Nat) (page : Bytes)
  /-- DOORBELL_REREAD (R90). A rejected slot is read again 250 ns later. -/
  | doorbellReread (h : HostId) (slot : Nat)
  /-- TXQ_DESCRIPTOR (R97). A fetched TXQ descriptor is checked and its frame copied into staging or completed with PARAM. -/
  | txqDescriptor (h : HostId) (qs : Nat) (desc : Bytes) (data : Bytes)
  /-- CMDQ_FETCH (R644). A fetched CMDQ entry has its parameters read and is checked and started in order. -/
  | cmdqFetch (h : HostId) (qs : Nat) (entry : Bytes) (par : Option Bytes)
  /-- DMA_ERROR (R122). A DMA read or write ends in UR, CA or timeout and the affected rings enter Error. -/
  | dmaError (h : HostId) (qs : Option Nat) (r : Nat) (cause : Nat)
  /-- HOST_WAKE_HINT (R92). A write to HOST_WAKE_HINT causes a read of the named slot within 500 ns. -/
  | hostWakeHint (h : HostId) (value : Nat)
  /-- RING_ENABLE (R87). Writing EN 1 to RING_CFG moves a disabled ring to Running or Error. -/
  | ringEnable (h : HostId) (qs : Nat) (r : Nat) (value : Nat)
  /-- RING_STOP (R88). Writing EN 0 to RING_CFG stops a Running ring or clears an Error ring to Disabled. -/
  | ringStop (h : HostId) (qs : Nat) (r : Nat) (value : Nat)
  /-- RING_STOPPING_DONE (R87). A Stopping ring finishes its fetched entries and becomes Disabled. -/
  | ringStoppingDone (h : HostId) (qs : Nat) (r : Nat)
  /-- BUS_MASTER_DISABLE (R78). Bus Master Enable is cleared and every ring of that host goes to Stopping. -/
  | busMasterDisable (h : HostId)
  /-- HOST_FLR (R79). An FLR returns the host's per-host, queue-set and MSI-X state to defaults and discards its queued frames and events. -/
  | hostFlr (h : HostId)
  /-- PCIE_LINK_DOWN (R79). A PCIe link goes down with the same effect as an FLR on that host. -/
  | pcieLinkDown (h : HostId)
  /-- PCIE_LINK_UP (R642). An endpoint's PCIe link trains up and register access through it is served. -/
  | pcieLinkUp (h : HostId) (gen : Nat) (lanes : Nat) (bme : Bool)
  /-- SPI_WRITE_FRAME (R82). An SPI write frame is checked by CRC and performs a register write. -/
  | spiWriteFrame (frame : Bytes)
  /-- SPI_READ_FRAME (R82). An SPI read frame is checked by CRC and returns a register word with its CRC. -/
  | spiReadFrame (frame : Bytes)
  /-- SPI_STATUS_FRAME (R80). An SPI status frame returns CRC_ERR and FRAME_ERR. -/
  | spiStatusFrame
  /-- SPI_FRAME_ERROR (R82). Chip select rises at a wrong byte count and the access is discarded with FRAME_ERR. -/
  | spiFrameError (count : Nat)
  /-- REGISTER_WRITE (R37). A granted write to a register without its own row stores, clears or sets per its access code. -/
  | registerWrite (src : Src) (addr : Nat) (data : Nat) (be : Nat)
  /-- UNMAPPED_READ (R35). A read of a reserved address returns 0 and sets UNMAP_RD. `be` holds four byte enables for each word of the read, the
  lowest address first (R34). -/
  | unmappedRead (src : Src) (addr : Nat) (be : Nat) (core : Fin 3 := 0)
  /-- COUNTER_LOW_READ (R36). A read of a 64-bit counter's low word copies the high word into a shadow. -/
  | counterLowRead (src : Src) (addr : Nat) (be : Nat) (core : Fin 3 := 0)
  /-- TIME_IN_LAST_NS_READ (R258). A read of TIME_INn_LAST_NS copies the seconds words into a shadow. -/
  | timeInLastNsRead (src : Src) (pin : Fin 4)
  /-- FWD_EN_SET (R38). Writing 1 to FWD_EN enables normal forwarding until S5 or POR. -/
  | fwdEnSet (src : Src)
  /-- HOST_FAILSAFE_WRST (R83). An SPI write of WRST starts a warm reset with drain. -/
  | hostFailsafeWrst
  /-- HOST_FAILSAFE_FENCE (R83). An SPI write of FENCE fences every external output while keeping forwarding state. -/
  | hostFailsafeFence
  /-- BUF_BD_SNAPSHOT (R162). A write to BUF_BD_SEL snapshots one BD into BUF_BD_DATA0-3. -/
  | bufBdSnapshot (src : Src) (value : Nat)
  /-- BUF_DBG_RELEASE (R163). While debug is unlocked, a write performs one buffer release. -/
  | bufDbgRelease (src : Src) (value : Nat)
  /-- BUF_SILL_WRITE (R147). A write to BUF_POOLk_SILL is stored or discarded with BAD_WR when it breaks the threshold order. -/
  | bufSillWrite (src : Src) (k : Fin 6) (value : Nat)
  /-- MAX_LEN_WRITE (R650). A write to PORT_RX_CFG MAX_LEN is clamped, or discarded when a reserved stream or a BURST relies on it. -/
  | maxLenWrite (src : Src) (p : Port) (value : Nat)
  /-- DOMAIN_NUMBER_WRITE (R236). A write to TIME_DOMd_CFG is stored or its DOMAIN_NUMBER discarded with BAD_WR. -/
  | domainNumberWrite (src : Src) (d : Fin 2) (value : Nat)
  /-- CAN_BIT_TIMING_WRITE (R378). A write to a CAN bit-timing register is discarded with BAD_WR unless MODE is 0. -/
  | canBitTimingWrite (src : Src) (n : Fin 24) (r : Fin 3) (value : Nat)
  /-- FLEXRAY_CONFIG_WRITE (R381). A write to LEG_FR registers acts only in default config state, else BAD_WR. -/
  | flexrayConfigWrite (src : Src) (r : Fin 4) (value : Nat)
  /-- MACSEC_ENABLE_WRITE (R421). A write changing ENABLE is discarded with BAD_WR while an admitted reservation uses the port. -/
  | macsecEnableWrite (src : Src) (p : Port) (value : Nat)
  /-- TIME_SNAP_TAKE (R227). Writing TAKE latches LT, D0 and D1 in one tick into the snapshot registers. -/
  | timeSnapTake (src : Src)
  /-- EGR_HIST_SNAPSHOT (R302). A write to EGR_HIST_SEL copies one queue's bins and optionally clears them. -/
  | egrHistSnapshot (src : Src) (value : Nat)
  /-- PATH_SNAPSHOT (R374). A write to PATH_SEL snapshots one stream's path or recovery state. -/
  | pathSnapshot (src : Src) (value : Nat)
  /-- KEY_SLOT_SNAPSHOT (R433). A write to KEY_SLOT_SEL snapshots one slot's info and nonce counter. -/
  | keySlotSnapshot (src : Src) (value : Nat)
  /-- FLT_HIST_SNAPSHOT (R519). A write to FLT_HIST_SEL snapshots one history entry. -/
  | fltHistSnapshot (src : Src) (value : Nat)
  /-- FLT_ACK (R514). Writing group bits to FLT_ACK handles those groups and stops their grace timers. -/
  | fltAck (src : Src) (value : Nat)
  /-- FLT_FIRST_CLEAR (R518). Writing CLEAR empties FLT_FIRST so the next F1-F3 event is captured. -/
  | fltFirstClear (src : Src) (value : Nat)
  /-- SUP_RESTART (R498). Writing RESTART starts a supervisor restart. -/
  | supRestart (src : Src) (value : Nat)
  /-- CRY_LOCK_TAKE (R445). Writing TAKE gives the lookaside engine lock to a free requester. -/
  | cryLockTake (src : Src)
  /-- CRY_LOCK_RELEASE (R445). The owner writes RELEASE and the lock is freed. -/
  | cryLockRelease (src : Src)
  /-- TRANSOM_LOCK (R484). Writing LOCK with a WINMASK starts a locked sequence over its target buses. -/
  | transomLock (src : Src) (h : HostId) (mask : Nat)
  /-- TRANSOM_UNLOCK (R484). Writing UNLOCK releases the sequence's locks after its earlier writes. -/
  | transomUnlock (src : Src) (h : HostId)
  /-- TRANSOM_READ (R479). A host read through a BAR 2 window is split into units and sent or performed locally. -/
  | transomRead (h : HostId) (off : Nat) (cover : List Bool) (rd : Bytes) (busErr : Bool)
  /-- TRANSOM_WRITE (R482). A posted host write through a window takes a tag and is sent, or is fenced and discarded. -/
  | transomWrite (h : HostId) (off : Nat) (cover : List Bool) (data : Bytes) (busErr : Bool)
  /-- TRANSOM_ANSWER (R482). An answer to a Transom request arrives, completing a read or recording a posted-write failure. -/
  | transomAnswer (p : Port) (dst : Nat) (host : Nat) (tag : Nat) (cause : Nat) (data : Bytes)
  /-- TRANSOM_RETRANSMIT (R478). An unanswered Transom request is sent again after 1 ms, ending with TIMEOUT after three. -/
  | transomRetransmit (h : HostId)
  /-- TRANSOM_READ_TIMEOUT (R481). A read unanswered within TIMEOUT µs completes with Completer Abort. -/
  | transomReadTimeout (h : HostId) (tag : Nat)
  /-- TRANSOM_FAR_REQUEST (R477). A far device performs or refuses a Transom request and answers it. -/
  | transomFarRequest (p : Port) (dst : Nat) (r : TrnReq) (rd : Bytes) (busErr : Bool)
  /-- TRANSOM_LOCK_REQUEST (R485). A lock request reaches a bus, is granted, waits, or resolves deadlock by yielding. -/
  | transomLockRequest (p : Port) (dst : Nat) (m : TrnMsg)
  /-- TRANSOM_LOCK_BACKOFF (R485). A yielding sequence's random back-off ends and it restarts from its first lock. -/
  | transomLockBackoff (h : HostId)
  /-- TRANSOM_LOCK_EXPIRY (R484). A far device releases a lock after LOCK_MAX and the sequence is broken. -/
  | transomLockExpiry (bus : Fin 5)
  /-- SIDEBAND_POLL (R486). A poll entry samples its register or pin and raises EV_TRANSOM_SIDEBAND on a change. -/
  | sidebandPoll (e : Fin 16) (value : Nat)
  /-- TBL_SEARCH (R187). Command reads one table entry from one quadrant. -/
  | tblSearch (c : CmdCtx)
  /-- TBL_NEXT (R188). Command walks a table from a cursor. -/
  | tblNext (c : CmdCtx)
  /-- TBL_INSERT (R182). Command writes an entry, unpinned for L2, into named quadrants. -/
  | tblInsert (c : CmdCtx)
  /-- TBL_DELETE (R187). Command removes an entry from named quadrants. -/
  | tblDelete (c : CmdCtx)
  /-- TBL_FLUSH_PORT (R190). Command removes L2 entries of a port or remote device and port. -/
  | tblFlushPort (c : CmdCtx)
  /-- TBL_REHASH (R184). Command starts migration of named quadrants' L2 tables to a new seed. -/
  | tblRehash (c : CmdCtx)
  /-- TBL_PIN (R182). Command writes a pinned L2 entry into named quadrants. -/
  | tblPin (c : CmdCtx)
  /-- REHASH_CHECK_DONE (R184). The pinned-entry check ends and the rehash aborts or makes its opening stop. -/
  | rehashCheckDone (q : Quad)
  /-- REHASH_COPY_DONE (R184). The copy ends and the closing stop swaps banks and raises EV_TBL_REHASH_DONE. -/
  | rehashCopyDone (q : Quad)
  /-- RAKE_VISIT (R180). The rake visits one group, ages entries and commits unless the group changed. -/
  | rakeVisit (q : Quad) (changed : Bool)
  /-- MOVE_INTERVAL_END (R179). A 1 s move-counting interval ends and station move counts restart. -/
  | moveIntervalEnd (q : Quad)
  /-- HEDGE_STAGE (R216). Command writes hedge items into shadow sets of named quadrants. -/
  | hedgeStage (c : CmdCtx)
  /-- HEDGE_FLIP (R218). Command checks shadow sets and swaps active and shadow hedge sets in named quadrants. -/
  | hedgeFlip (c : CmdCtx)
  /-- HEDGE_SHADOW_COPY_DONE (R219). The new active hedge set has been copied into the shadow set and COPYING clears. -/
  | hedgeShadowCopyDone (q : Quad)
  /-- HEDGE_READ (R220). Command returns hedge entries or counters. -/
  | hedgeRead (c : CmdCtx)
  /-- HEDGE_PINHOLE_LIST (R221). Pinhole operation LIST returns valid entries from FIRST. -/
  | hedgePinholeList (c : CmdCtx)
  /-- HEDGE_PINHOLE_CLOSE (R221). Pinhole operation CLOSE removes one index. -/
  | hedgePinholeClose (c : CmdCtx)
  /-- HEDGE_PINHOLE_CLOSE_ALL (R221). Pinhole operation CLOSE_ALL removes every pinhole. -/
  | hedgePinholeCloseAll (c : CmdCtx)
  /-- HEDGE_PINHOLE_OPEN (R221). Pinhole operation OPEN inserts a host pinhole. -/
  | hedgePinholeOpen (c : CmdCtx)
  /-- PINHOLE_SWEEP (R214). Every 100 ms the sweeper decrements REMAIN and removes expired pinholes. -/
  | pinholeSweep (hit : List Nat)
  /-- TIME_STEP (R235). Command steps a domain once after a timekeeper start. -/
  | timeStep (c : CmdCtx)
  /-- TIME_RATE (R241). Command sets a domain's RATE with an optional temporary adjustment. -/
  | timeRate (c : CmdCtx)
  /-- TIME_PULSE_ARM (R252). Command gives a TIME_OUT pin a once or periodic programme. -/
  | timePulseArm (c : CmdCtx)
  /-- TIME_EFFECT_TICK (R237). A pending step or rate change takes effect at the effect tick. -/
  | timeEffectTick (d : Fin 2)
  /-- TIME_ADJ_END (R241). A temporary adjustment runs out and EV_TIME_ADJ_DONE is raised. -/
  | timeAdjEnd (d : Fin 2)
  /-- PULSE_LEADING_EDGE (R252). A programme's leading edge time is reached and the pin goes active. -/
  | pulseLeadingEdge (pin : Fin 4)
  /-- PULSE_TRAILING_EDGE (R252). WIDTH after a leading edge the pin returns idle. -/
  | pulseTrailingEdge (pin : Fin 4)
  /-- TIME_IN_CAPTURE (R256). A filtered edge on TIME_INn is captured and queued. -/
  | timeInCapture (pin : Fin 4) (falling : Bool) (late : Bool) (held : Nat := 500)
  /-- TIME_CAPTURE_EVENT (R257). The next queued capture raises EV_TIME_CAPTURE, or EV_TIME_CAPTURE_LOST. -/
  | timeCaptureEvent (pin : Fin 4)
  /-- SHUTTER_STAGE (R278). Command writes a port's shadow egress set. -/
  | shutterStage (c : CmdCtx)
  /-- SHUTTER_FLIP (R280). Command re-checks bounds and fixes flip time F for a port. -/
  | shutterFlip (c : CmdCtx)
  /-- SHUTTER_FLIP_TIME (R283). At F the new egress set becomes active with tokens and credit set. -/
  | shutterFlipTime (p : Port)
  /-- SHUTTER_SHADOW_COPY_DONE (R283). The active egress set is copied into the shadow and FLIP_PENDING clears. -/
  | shutterShadowCopyDone (p : Port)
  /-- SHUTTER_READ (R285). Command returns egress set entries or live shaper state. -/
  | shutterRead (c : CmdCtx)
  /-- GATE_ENTRY_CHANGE (R273). A shutter list entry's interval ends and the next entry takes force. -/
  | gateEntryChange (p : Port)
  /-- PREEMPT_VERIFY_RESULT (R287). MAC merge verification succeeds or fails after its attempts. -/
  | preemptVerifyResult (p : Port) (ok : Bool)
  /-- PFC_RECEIVED (R294). A received PFC frame pauses the named classes of the egress port. -/
  | pfcReceived (p : Port) (enable : Nat) (quanta : List Nat)
  /-- PFC_PAUSE_EXPIRY (R294). A received pause's quanta run out and the class resumes. -/
  | pfcPauseExpiry (p : Port) (c : Fin 5)
  /-- PFC_PAUSE_STUCK (R294). A class paused for 100 ms raises EV_EGR_PAUSE_STUCK and may be discarded. -/
  | pfcPauseStuck (p : Port) (c : Fin 5)
  /-- PFC_REFRESH (R293). A standing pause is refreshed every 32 768 quanta. -/
  | pfcRefresh (p : Port)
  /-- ENERGY_EMPTY (R295). The energy level stays at or below 0 for 10 ms and EV_EGR_ENERGY_EMPTY is raised. -/
  | energyEmpty
  /-- THERMAL_SENSOR_READ (R575). Every 100 µs junction sensors are read, bands updated and hot or overtemp raised. -/
  | thermalSensorRead (q0 : Nat) (q1 : Nat) (q2 : Nat) (q3 : Nat) (centre : Nat)
  /-- LANE_WAKE_TIMER (R300). WAKE_LEAD before a TC5/TC6 opening or BE_WAIT_MAX passes and the lane wakes. -/
  | laneWakeTimer (p : Port)
  /-- LANE_READY (R300). WAKE_LEAD after the wake starts the lane can send. -/
  | laneReady (p : Port)
  /-- HISTOGRAM_SAMPLE (R302). Every SAMPLE µs each queue's depth and head age add to their bins. -/
  | histogramSample
  /-- ADMIT_REQUEST (R310). Command offers a stream contract and runs the ingress hop of the reservation. -/
  | admitRequest (c : CmdCtx)
  /-- ADMIT_COMMIT (R313). Command commits a Tentative stream along every path. -/
  | admitCommit (c : CmdCtx)
  /-- ADMIT_WITHDRAW (R314). Command removes identification and frees the stream at every hop after draining. -/
  | admitWithdraw (c : CmdCtx)
  /-- ADMIT_QUERY (R341). Command returns a stream's contract counter set. -/
  | admitQuery (c : CmdCtx)
  /-- ADMIT_IMAGE (R338). Command verifies a Findar admission section and admits its records. -/
  | admitImage (c : CmdCtx) (image : Option Bytes)
  /-- ADMIT_MESSAGE (R310). An ADMIT control message (request, verdict, commit, ack or withdrawal) is handled at a hop. -/
  | admitMessage (p : Port) (m : AdmMsg)
  /-- ADMIT_TIMEOUT (R310). No verdict or acknowledgement within ADM_TIMEOUT frees the stream with TIMEOUT or STATE. -/
  | admitTimeout (h : Nat)
  /-- RSV_HOLD_EXPIRY (R315). A Tentative state not committed within RSV_HOLD is freed with EV_ADM_RSV_EXPIRED. -/
  | rsvHoldExpiry (h : Nat)
  /-- WITHDRAW_DRAINED (R314). The withdrawn stream has departed everywhere or its bound has passed and state is freed. -/
  | withdrawDrained (h : Nat) (gone : Bool)
  /-- PATH_SET (R358). Command replaces a stream path and re-runs its reservation. -/
  | pathSet (c : CmdCtx)
  /-- PAIR_HANDOVER (R370). Command starts a planned handover to the Cold unit. -/
  | pairHandover (c : CmdCtx)
  /-- HANDOVER_FENCE (R370). At most 400 µs after tH the old Active unit fences itself and discards its queued copies. -/
  | handoverFence
  /-- HEARTBEAT_SEND (R363). The always-on island sends a heartbeat on the pair bus. -/
  | heartbeatSend
  /-- HEARTBEAT_RECEIVED (R363). A peer heartbeat renews liveness and reports role, flags and mode. -/
  | heartbeatReceived (hb : Heartbeat)
  /-- PEER_LOST (R363). HB_MISS periods pass without a heartbeat and the peer is declared lost. -/
  | peerLost
  /-- FENCE_WAIT_EXPIRY (R367). After FENCE_WAIT the Cold unit drives FORCE_FENCE_N low and enters Waking. -/
  | fenceWaitExpiry
  /-- FENCE_LINE_LOW (R360). A FENCE_N line falls and the unit's outputs are fenced in hardware; takeover or Fenced role follows. -/
  | fenceLineLow (own : Bool) (held : Nat)
  /-- FENCE_LINE_HIGH (R360). A FENCE_N line rises and the fence ends. -/
  | fenceLineHigh (own : Bool) (held : Nat)
  /-- CHECKPOINT_SEND (R366). Every CKPT_PERIOD the Active unit sends a delta checkpoint. -/
  | checkpointSend
  /-- CHECKPOINT_RECEIVED (R366). A checkpoint's last chunk and CRC arrive and it is applied or discarded. -/
  | checkpointReceived (ck : Ckpt) (bad : Fin 3)
  /-- TAKEOVER_RESTORE_DONE (R368). A Waking unit finishes S4 exit and restore, takes epochs and releases its line. -/
  | takeoverRestoreDone
  /-- BUS_FENCE_ELAPSED (R368). The peer line has been low for BUS_FENCE and bus ports may transmit. -/
  | busFenceElapsed
  /-- GW_STAGE (R412). Command writes gateway items into the shadow set. -/
  | gwStage (c : CmdCtx)
  /-- GW_FLIP (R414). Command checks and swaps the gateway sets. -/
  | gwFlip (c : CmdCtx)
  /-- GW_SHADOW_COPY_DONE (R415). The active gateway set is copied into the shadow and COPYING clears. -/
  | gwShadowCopyDone
  /-- GW_READ (R416). Command returns gateway set entries. -/
  | gwRead (c : CmdCtx)
  /-- GW_IMAGE_READ (R416). Image operation read returns an image's data and age. -/
  | gwImageRead (c : CmdCtx)
  /-- GW_IMAGE_WRITE (R416). Image operation write updates a transmit image, optionally triggering it. -/
  | gwImageWrite (c : CmdCtx)
  /-- GW_IMAGE_SEND (R416). Image operation send triggers a transmit image. -/
  | gwImageSend (c : CmdCtx)
  /-- GW_BUS_SELECT_TABLE (R392). Bus operation switches a LIN commander's table at the end of the current slot. -/
  | gwBusSelectTable (c : CmdCtx)
  /-- GW_BUS_RECOVER (R390). Bus operation starts CAN bus-off recovery. -/
  | gwBusRecover (c : CmdCtx)
  /-- GW_BUS_SET_MODE (R379). Bus operation sets a CAN controller MODE. -/
  | gwBusSetMode (c : CmdCtx)
  /-- GW_BUS_POC_COMMAND (R416). Bus operation issues a FlexRay POC command. -/
  | gwBusPocCommand (c : CmdCtx)
  /-- SIGNAL_PERIOD_TRIGGER (R409). A transmit image's PERIOD elapses and it is triggered. -/
  | signalPeriodTrigger (ix : Nat)
  /-- SIGNAL_DEFERRED_SEND (R409). MIN_GAP after the last send a deferred trigger makes one send. -/
  | signalDeferredSend (ix : Nat)
  /-- SIGNAL_TIMEOUT_TICK (R410). The 1 ms check times out routes whose source image went unwritten and writes DEFAULT. -/
  | signalTimeoutTick
  /-- CAN_TX_ATTEMPT_END (R388). A CAN transmission ends in success, lost arbitration or an error, updating counters. -/
  | canTxAttemptEnd (p : Port) (r : CanResult) (w : Span := {})
  /-- BUS_OFF_DELAY_EXPIRY (R390). BO_DELAY after bus-off automatic recovery starts. -/
  | busOffDelayExpiry (p : Port)
  /-- BUS_OFF_RECOVERED (R390). After 128 × 11 recessive bits the controller returns error active. -/
  | busOffRecovered (p : Port)
  /-- LIN_SLOT_END (R392). A LIN schedule slot ends and the commander moves to the next entry. -/
  | linSlotEnd (p : Port) (r : LinResult) (w : Span := {})
  /-- FLEXRAY_SLOT (R391). A FlexRay static or dynamic slot is due and fresh data, a null frame or nothing is sent. -/
  | flexraySlot (slot : Nat) (cycle : Fin 64) (w : Span := {})
  /-- KEY_LOAD_BLOB (R434). Command loads a key from a blob or plain key into a slot. -/
  | keyLoadBlob (c : CmdCtx) (flash : Bool)
  /-- KEY_REPLACE (R434). Command loads a key into a slot's pending half. -/
  | keyReplace (c : CmdCtx) (flash : Bool)
  /-- KEY_VERIFY_COMMIT (R439). Command verifies the pending key by KCV and commits it. -/
  | keyVerifyCommit (c : CmdCtx)
  /-- KEY_COMMIT_RECORD_WRITTEN (R441). The commit record program completes and the active half switches. -/
  | keyCommitRecordWritten (n : Nat) (ok : Bool)
  /-- KEY_DERIVE_KDF (R437). Derive operation runs the SP 800-108 KDF into a slot. -/
  | keyDeriveKdf (c : CmdCtx) (flash : Bool)
  /-- KEY_DERIVE_RANDOM (R434). Random operation draws a key from the random source into a slot. -/
  | keyDeriveRandom (c : CmdCtx) (flash : Bool)
  /-- KEY_EXPORT (R450). Command wraps an exportable slot's key into a format 0 blob. -/
  | keyExport (c : CmdCtx)
  /-- CRYPTO_GCM_ENCRYPT (R443). Job operation 0 encrypts with a device-chosen IV. -/
  | cryptoGcmEncrypt (c : CmdCtx) (data : Option JobData)
  /-- CRYPTO_GCM_DECRYPT (R442). Job operation 1 decrypts and checks the tag. -/
  | cryptoGcmDecrypt (c : CmdCtx) (data : Option JobData)
  /-- CRYPTO_CMAC_GENERATE (R442). Job operation 2 computes a CMAC. -/
  | cryptoCmacGenerate (c : CmdCtx) (data : Option JobData)
  /-- CRYPTO_CMAC_VERIFY (R442). Job operation 3 verifies a CMAC. -/
  | cryptoCmacVerify (c : CmdCtx) (data : Option JobData)
  /-- CRYPTO_SHA384 (R442). Job operation 4 computes SHA-384. -/
  | cryptoSha384 (c : CmdCtx) (data : Option JobData)
  /-- CRYPTO_ECDSA_VERIFY (R442). Job operation 5 verifies an ECDSA P-384 signature. -/
  | cryptoEcdsaVerify (c : CmdCtx) (data : Option JobData)
  /-- CRYPTO_CMAC_FRESH_GENERATE (R444). Job operation 6 advances a freshness counter and computes its CMAC. -/
  | cryptoCmacFreshGenerate (c : CmdCtx) (data : Option JobData)
  /-- CRYPTO_CMAC_FRESH_VERIFY (R444). Job operation 7 checks a candidate freshness value and MAC and stores it. -/
  | cryptoCmacFreshVerify (c : CmdCtx) (data : Option JobData)
  /-- MACSEC_SA_INSTALL (R425). SA operation install places a transmit or receive SA. -/
  | macsecSaInstall (c : CmdCtx)
  /-- MACSEC_SA_REMOVE (R425). SA operation remove deletes an SA. -/
  | macsecSaRemove (c : CmdCtx)
  /-- MACSEC_SA_TX_COMMIT (R426). SA operation transmit commit switches the transmit SA at the next frame boundary and releases a hold. -/
  | macsecSaTxCommit (c : CmdCtx)
  /-- MACSEC_SA_READ (R424). SA operation read returns an SA's PN. -/
  | macsecSaRead (c : CmdCtx)
  /-- TRNG_HEALTH_FAIL (R432). A random-source health test fails, TRNG_OK clears and EV_CRY_TRNG_FAIL is raised. -/
  | trngHealthFail (kind : Fin 2)
  /-- CRY_LOCK_IDLE_EXPIRY (R445). A lock idle for LOCK_IDLE ms is released and contexts cleared. -/
  | cryLockIdleExpiry
  /-- FAB_DIGEST_QUERY (R474). Command returns local or remote configuration digests. -/
  | fabDigestQuery (c : CmdCtx)
  /-- FAB_RESET (R475). Command asks a far device for a fabric-commanded warm reset. -/
  | fabReset (c : CmdCtx)
  /-- TRANSOM_CLEAR_ERR (R489). Command clears a window's ERR, CAUSE and ERR_TAG. -/
  | transomClearErr (c : CmdCtx)
  /-- HELLO_SEND (R457). Every 1 ms a HELLO is sent on each fabric port. -/
  | helloSend
  /-- HELLO_RECEIVED (R459). A received HELLO updates the neighbour, seats and conflicts. -/
  | helloReceived (p : Port) (h : Hello)
  /-- HELLO_MISS_EXPIRY (R459). HELLO_MISS periods pass without a hello and the neighbour is lost. -/
  | helloMissExpiry (p : Port)
  /-- FABRIC_LINK_DOWN (R459). A fabric port's link goes down and its neighbour is lost. -/
  | fabricLinkDown (p : Port)
  /-- LINK_STATE_SEND (R457). Every 1 s a LINK_STATE is flooded. -/
  | linkStateSend
  /-- LINK_STATE_RECEIVED (R463). A LINK_STATE updates the database, routes and flood tree. -/
  | linkStateReceived (p : Port) (l : LinkState)
  /-- GOSSIP_SEND (R472). Every 100 ms the device floods its GOSSIP body. -/
  | gossipSend
  /-- GOSSIP_RECEIVED (R473). The coordinator compares gossip and reports digest divergences. -/
  | gossipReceived (p : Port) (g : Gossip)
  /-- COORD_SEND (R457). The coordinator sends COORD every 100 ms. -/
  | coordSend
  /-- COORD_RECEIVED (R460). A COORD message updates coordinator, successor, addresses and size mode. -/
  | coordReceived (p : Port) (m : CoordMsg)
  /-- COORD_TIMEOUT (R467). 300 ms without COORD makes the successor or first-ranked device coordinator. -/
  | coordTimeout
  /-- SIZE_MODE_SWITCH (R468). At the announced commit time every device switches fabric size mode. -/
  | sizeModeSwitch
  /-- PATHS_MESSAGE (R590). A PATHS message carries path requests, records and path states. -/
  | pathsMessage (p : Port) (dst : Nat) (m : PathsMsg)
  /-- WITHDRAW_RECEIVED (R457). A neighbour's WITHDRAW message is received. -/
  | withdrawReceived (p : Port) (sender : Nat) (drainLimit : Nat)
  /-- DIGEST_MESSAGE (R474). A DIGEST query or reply is handled. -/
  | digestMessage (p : Port) (src : Nat) (dst : Nat) (m : DigestMsg)
  /-- RESET_MESSAGE (R475). A fabric RESET message starts a warm reset when REMOTE_RST is 1. -/
  | resetMessage (p : Port) (src : Nat) (dst : Nat) (m : ResetMsg)
  /-- IMG_BEGIN (R501). Command checks an image header and starts receiving into the non-running slot. -/
  | imgBegin (c : CmdCtx)
  /-- IMG_BLOCK (R502). Command programs one 4096-byte body block. -/
  | imgBlock (c : CmdCtx) (block : Option Bytes)
  /-- IMG_END (R503). Command verifies the received body and makes the slot Valid. -/
  | imgEnd (c : CmdCtx) (flashErr : Bool)
  /-- IMG_ACTIVATE (R507). Command runs sealed handover and the activation pause. -/
  | imgActivate (c : CmdCtx)
  /-- ACTIVATION_WATCHDOG (R509). New firmware not running by t0 + 30 ms triggers fallback. -/
  | activationWatchdog
  /-- FIRMWARE_FALLBACK (R510). Unreadable settings make the device boot the previous slot and mark the new one Bad. -/
  | firmwareFallback (version : Nat)
  /-- TRIAL_CONFIRM (R511). A Trial image that ran CONFIRM_S seconds is confirmed. -/
  | trialConfirm
  /-- SUP_WINDOW_CLOSE (R493). A triad write window closes and its writes are released by majority. -/
  | supWindowClose (a : List BusWrite) (b : List BusWrite) (c : List BusWrite) (priv : List (Fin 3 × Nat × Nat) := [])
  /-- SUP_LATE_CORE (R494). A core has not closed a window 10 µs after the others and is odd. -/
  | supLateCore (core : Fin 3)
  /-- SUP_RESYNC_DONE (R494). An odd core's resynchronisation completes and it rejoins. -/
  | supResyncDone
  /-- SUP_RESTART_DONE (R498). A supervisor restart finishes and firmware runs again. -/
  | supRestartDone (fail : Fin 16) (badA : Bool) (badB : Bool)
  /-- GRACE_EXPIRY (R515). A group's grace timer expires and the device escalates to a function or warm reset. -/
  | graceExpiry (g : Fin 16) (ok : Bool)
  /-- PORT_WAKE_DETECT (R527). A port recogniser detects a wake pattern and wakes its clusters. -/
  | portWakeDetect (p : Port) (alt : Bool) (held : Nat)
  /-- WAKE_IN_DETECT (R527). A filtered WAKE_INn level or edge wakes its clusters. -/
  | wakeInDetect (n : Fin 4) (level : Bool) (held : Nat)
  /-- PORT_STATE_REACHED (R524). A port transceiver reaches its new state after its transition time. -/
  | portStateReached (p : Port)
  /-- PORT_STATE_FORCED (R524). A port not in standby or sleep after 20 ms is forced and EV_WAKE_PORT_STUCK raised. -/
  | portStateForced (p : Port)
  /-- WAKE_HOLD_TICK (R532). The 1 ms tick confirms or ends wake holds and reports false wakes. -/
  | wakeHoldTick
  /-- NET_SLEEP_VOTE (R544). Command sets the host's votes for named clusters. -/
  | netSleepVote (c : CmdCtx)
  /-- SLEEP_VOTE_SEND (R536). Every 100 ms the device floods its SLEEP vote. -/
  | sleepVoteSend
  /-- SLEEP_MESSAGE_RECEIVED (R537). A SLEEP vote, commit or wake message is handled. -/
  | sleepMessageReceived (p : Port) (m : SleepMsg)
  /-- SLEEP_SETTLE_EXPIRY (R536). The coordinator has had no awake vote for SETTLE and commits the cluster. -/
  | sleepSettleExpiry
  /-- SLEEP_COMMIT_TIME (R538). At the commit time ports move to their committed states. -/
  | sleepCommitTime
  /-- SLEEP_STATE_RETRY (R539). A refused sleep-logic state request is repeated every 10 ms. -/
  | sleepStateRetry
  /-- IDLE_ENTRY_TIMER (R552). AUTO_IDLE µs of idleness requests S1 or S2. -/
  | idleEntryTimer
  /-- PWR_REQUEST_STATE (R555). Command requests a device state and begins entry or is refused. -/
  | pwrRequestState (c : CmdCtx)
  /-- STATE_ENTRY_COMMIT (R555). Ports settled and islands turned off, the entry reaches its commit point. -/
  | stateEntryCommit
  /-- EXIT_TRIGGER (R559). A trigger of the present state starts an exit. -/
  | exitTrigger (cause : Fin 9)
  /-- ISLAND_RAMP_DONE (R565). An island ramp completes and a queued ramp is granted. -/
  | islandRampDone
  /-- STATE_EXIT_DONE (R563). The exit's restore ends and the device is in S0 forwarding. -/
  | stateExitDone (straps : Nat)
  /-- RAIL_WARNING_ENTER (R568). A rail below warning for FILTER enters warning and brace begins. -/
  | railWarningEnter (r : Fin 11) (mv : Nat) (held : Nat)
  /-- RAIL_WARNING_EXIT (R571). A rail 100 µs at or above warning leaves warning; brace may end and deferred writes start. -/
  | railWarningExit (r : Fin 11) (mv : Nat)
  /-- RAIL_RESET_LEVEL (R572). A rail below its reset level for 1 µs causes a POR. -/
  | railResetLevel (r : Fin 11) (mv : Nat)
  /-- CLOCK_LOSS (R574). Loss of reference or PLL lock raises EV_PWR_CLOCK, an F3 fault. -/
  | clockLoss (k : Fin 4)
  /-- POWER_ON_RESET (R598). PORESET_N rises after its filter and the start-up sequence runs. -/
  | powerOnReset (torn : Bool) (straps : Nat) (rails : List Nat) (test : Bool) (held : Nat)
  /-- PORESET_ASSERT (R579). PORESET_N falls and the device is reset at once with outputs fenced. -/
  | poresetAssert (held : Nat)
  /-- WRESET_N_ASSERT (R583). WRESET_N falls and a warm reset with drain starts. -/
  | wresetNAssert (held : Nat)
  /-- WRESET_N_RELEASE (R584). WRESET_N rises and a held warm reset continues. -/
  | wresetNRelease (held : Nat)
  /-- WARM_RESET (R65). Command starts a warm reset with drain. -/
  | warmReset (c : CmdCtx)
  /-- DRAIN_END (R583). The drain finishes and the warm reset clears and restarts the data plane. -/
  | drainEnd
  /-- DRAIN_LIMIT_EXPIRY (R67). At the drain limit held admitted copies are discarded. -/
  | drainLimitExpiry
  /-- FN_QUIESCE_FLIP (R589). Command with RESET 0 flips a function's shadow set at its boundary. -/
  | fnQuiesceFlip (c : CmdCtx)
  /-- FN_QUIESCE_RESET (R586). Command with RESET 1 performs a function reset. -/
  | fnQuiesceReset (c : CmdCtx) (testsPass : Bool)
  /-- CARVING_FLIP_DRAINED (R159). All buffers free or 5 ms passed, the staged carving is made active. -/
  | carvingFlipDrained
  /-- FN_RESUME (R591). Command ends a function hold. -/
  | fnResume (c : CmdCtx)
  /-- CFG_STORE (R597). Command checks and stores a configuration image in flash. -/
  | cfgStore (c : CmdCtx) (image : Option Bytes)
  /-- JTAG_INSTRUCTION_LOAD (R634). A JTAG instruction is loaded and acts or is refused. -/
  | jtagInstructionLoad (code : Fin 256)
  /-- DBG_CHALLENGE_READ (R635). A DBG_CHALLENGE read starts a new 32-byte challenge. -/
  | dbgChallengeRead
  /-- DBG_RESPONSE_LOAD (R635). A DBG_RESPONSE load starts signature verification. -/
  | dbgResponseLoad (response : Bytes)
  /-- DBG_VERIFY_DONE (R637). Verification ends and the port unlocks or counts a failure. -/
  | dbgVerifyDone
  /-- DBG_CHALLENGE_EXPIRY (R635). A challenge expires 60 s after it was issued. -/
  | dbgChallengeExpiry
  /-- ETHERNET_LINK_UP (R604). An Ethernet port's link trains up, its fused latencies are written and preemption verification starts, with admitted streams kept off it at a changed rate. -/
  | ethernetLinkUp (p : Port) (rate : Nat) (eee : Bool)
  /-- ETHERNET_LINK_DOWN (R649). An Ethernet port that is not a fabric port loses its link and stops being up, so its queued copies are discarded. -/
  | ethernetLinkDown (p : Port)
  /-- FLEXRAY_POC_STATE_CHANGE (R381). The FlexRay POC changes state by itself (startup done, normal passive, halt) and raises EV_GW_FR_POC. -/
  | flexrayPocStateChange (poc : Fin 16)
  /-- LIN_HEADER_RECEIVED (R391). A LIN responder receives a header and answers it from its publish buffer, fresh or stale, or not at all. -/
  | linHeaderReceived (p : Port) (id : Fin 64) (baud : Nat)
  /-- TC10_SLEEP_REQUEST (R529). A T1 or T1S link partner sends a TC10 sleep request, which the device answers while the port stays in normal. -/
  | tc10SleepRequest (p : Port)
  /-- GPTP_TIMER_EXPIRY (R248). A gPTP instance's Sync, Pdelay or Announce interval or receipt timeout expires and firmware sends messages or updates the servo state. -/
  | gptpTimerExpiry (d : Fin 2) (kind : Fin 4) (send : List (Port × Bytes)) (lock : Bool)
  /-- QUOTA_DISCARD_INTERVAL_END (R121). The 1 ms after an EV_ADM_QUOTA_DISCARD ends with discards counted and the event is raised with their count. -/
  | quotaDiscardIntervalEnd (h : Nat)
  /-- SIDEBAND_NOTIFY_RECEIVED (R486). A side-band change relayed from another device's poll entry arrives and EV_TRANSOM_SIDEBAND is raised here. -/
  | sidebandNotifyReceived (p : Port) (dst : Nat) (src : Nat) (entry : Nat) (value : Nat)
  /-- FAB_REMOTE_COMMAND_TIMEOUT (R474). A remote FAB_DIGEST_QUERY or FAB_RESET is not answered within 20 ms and completes with STATE. -/
  | fabRemoteCommandTimeout
  /-- EPOCH_RECORD_WRITTEN (R357). The flash program of new epoch records ends and admitted streams entering here are numbered again instead of refused. -/
  | epochRecordWritten
  /-- CFG_STORE_DONE (R597). The checks and flash write of a stored configuration image end and EV_CFG_STORED reports the outcome. -/
  | cfgStoreDone (flashErr : Bool)
  /-- SEALED_HANDOVER_DONE (R508). Phase 1 of IMG_ACTIVATE ends with every bound key re-wrapped, and the activation pause starts once no stop window runs. -/
  | sealedHandoverDone
  /-- ACTIVATION_PAUSE_END (R509). New firmware runs after the activation pause, commands start again and IMG_ACTIVATE completes with EV_FW_ACTIVATED. -/
  | activationPauseEnd
  /-- IMAGE_SLOT_ERASE_DONE (R502). The background erase of a receiving slot's flash sector ends and waiting IMG_BLOCK programs proceed. -/
  | imageSlotEraseDone (slot : Fin 2)
  /-- SHAPER_ELIGIBLE (R266). A waiting class's credit, tokens or the energy level refill to the point where its head frame may start, and the scheduler re-evaluates. -/
  | shaperEligible (p : Port)
  /-- TAP_RESET (R633). The JTAG TAP is reset by TRST_N or TMS, IDCODE is loaded and boundary-scan pins return to their functions. -/
  | tapReset
deriving DecidableEq, Repr

end Sys2Proof
end

