-- ==== Sys2Proof/Decode.lean ====
section
/-! DEFINITION. The words of the opcode table: no row of it gives bits, so no word spells a command (log entry 3). -/

namespace Sys2Proof

/-- The command that a word of the table spells. (DESIGN CHOICE, log entry 3) -/
def decodeTableWord (_nbits _w : Nat) : Option Instr := none

end Sys2Proof
end

