-- ==== Sys2Proof/Config.lean ====
section
/-! DEFINITION. What one part or one implementation fixes and the spec does not: values fused at manufacture, and the free
values. Every constant here is bodiless, so no proof can rest on a value of it (log entries 6 and 7). -/

namespace Sys2Proof.Config

/-- The free value number n: where the spec leaves a value open, the step takes the next one (`State.free` counts). (DESIGN CHOICE, log entry 6) -/
opaque freeValue : Nat → Nat

/-- The 64-bit unique identity in `GLB_UID_LO` and `GLB_UID_HI` (chapter 01). (DESIGN CHOICE, log entry 7) -/
opaque uid : Nat

/-- The fused ingress and egress latencies of a T1 port in ns, at 1000BASE-T1 (true) or 100BASE-T1 (R244). (DESIGN CHOICE, log entry 7) -/
opaque t1RxLat : Nat → Bool → Nat
opaque t1TxLat : Nat → Bool → Nat

/-- A fused latency within the range that R244 gives its mode: ingress 150 to 400 ns and 400 to 1000 ns, egress 60 to 200 ns and 200 to 600 ns. -/
def fusedRx (p : Nat) (fast : Bool) : Nat := if fast then 150 + t1RxLat p fast % 251 else 400 + t1RxLat p fast % 601
def fusedTx (p : Nat) (fast : Bool) : Nat := if fast then 60 + t1TxLat p fast % 141 else 200 + t1TxLat p fast % 401

/-- How far ahead of the wire the scheduler of a port works at a line rate, in ns (R274: fixed for each port and mode, at most 308).
(DESIGN CHOICE, log entry 7, DESIGN CHOICE, log entry 88) -/
opaque egrAhead : Nat → Nat → Nat

/-- The fused source address of the gateway, 48 bits (`GW_SRC_MAC`). (DESIGN CHOICE, log entry 7) -/
opaque gwMac : Nat

/-- The fused image-signing key, word n of x and of y (R448). (DESIGN CHOICE, log entry 7) -/
opaque iskX : Nat → Nat
opaque iskY : Nat → Nat

/-- The device root key of key slot 0, 256 bits (R433). (DESIGN CHOICE, log entry 7) -/
opaque rootKey : Nat

/-- The fused key under which firmware bodies are encrypted, 256 bits (R499). (DESIGN CHOICE, log entry 7) -/
opaque imageKey : Nat

/-- The digest of the boot ROM, 384 bits (R436). (DESIGN CHOICE, log entry 7) -/
opaque bootDigest : Nat

/-- The PLCA settings of a T1S port: nodes and transmit-opportunity timer, 0 nodes without PLCA. R324 rests on them and no register holds
them. (DESIGN CHOICE, log entry 7) -/
opaque plcaNodes : Nat → Nat
opaque plcaTimer : Nat → Nat

/-- The fused debug-authority key, a point on P-384 (R635), and Weirapra's JEDEC manufacturer code in IDCODE (R633). (DESIGN CHOICE, log entry 7) -/
opaque debugX : Nat
opaque debugY : Nat
opaque jedecCode : Nat

/-- The status of the TX completion of a frame that the pipeline or the memory dropped, by the number of its descriptor: R98 puts the reason there and
gives no codes. (DESIGN CHOICE, log entry 133) -/
opaque dropStatus : Nat → Nat

/-- The host (0 or 1) whose time domain and sequence number a history entry shows; R519 names neither. (DESIGN CHOICE, log entry 10) -/
opaque histHost : Nat

end Sys2Proof.Config
end

