-- ==== Sys2Proof/Machine/Keyed.lean ====
section
/-! DEFINITION. Sparse tables: lists of (key, value) pairs whose keys rise strictly, and the operations that keep them so.
The registers, the counters, the buffer descriptors, the queues and every table of records are held in this form. -/

namespace Sys2Proof.Machine

/-- A sparse table. -/
abbrev Keyed (α : Type) := List (Nat × α)

/-- The value at a key. -/
def kget {α : Type} : Keyed α → Nat → Option α
  | [], _ => none
  | (k, v) :: r, i => if k = i then some v else kget r i

/-- The value at a key, or a default. -/
def kgetD {α : Type} (m : Keyed α) (i : Nat) (d : α) : α := (kget m i).getD d

/-- Put a value at a key, keeping the keys in rising order. -/
def kput {α : Type} : Keyed α → Nat → α → Keyed α
  | [], i, x => [(i, x)]
  | (k, v) :: r, i, x =>
    if i < k then (i, x) :: (k, v) :: r
    else if i = k then (k, x) :: r
    else (k, v) :: kput r i x

/-- Remove a key. -/
def kdel {α : Type} : Keyed α → Nat → Keyed α
  | [], _ => []
  | (k, v) :: r, i => if k = i then r else (k, v) :: kdel r i

/-- Put a value at a key, or remove the key. -/
def kset {α : Type} : Keyed α → Nat → Option α → Keyed α
  | [], i, o => o.toList.map (fun x => (i, x))
  | (k, v) :: r, i, o =>
    if i < k then o.toList.map (fun x => (i, x)) ++ (k, v) :: r
    else if i = k then o.toList.map (fun x => (k, x)) ++ r
    else (k, v) :: kset r i o

/-- Change the value at a key, starting from a default where there is none. -/
def kmod {α : Type} (m : Keyed α) (i : Nat) (d : α) (f : α → α) : Keyed α := kput m i (f (kgetD m i d))

/-- Change the value at a key where there is one. -/
def kmapAt {α : Type} (m : Keyed α) (i : Nat) (f : α → α) : Keyed α :=
  match kget m i with
  | some v => kput m i (f v)
  | none => m

/-- Keep the entries that satisfy a condition on key and value. -/
def kfilter {α : Type} (p : Nat → α → Bool) (m : Keyed α) : Keyed α := m.filter (fun e => p e.1 e.2)

/-- Is a key present? -/
def khas {α : Type} (m : Keyed α) (i : Nat) : Bool := (kget m i).isSome

/-- The keys rise strictly. -/
def Keyed.rising {α : Type} : Keyed α → Bool
  | [] => true
  | [_] => true
  | (a, _) :: (b, y) :: r => decide (a < b) && Keyed.rising ((b, y) :: r)

/-- The lowest number from n on that is not a key of a rising table whose smaller keys have been passed. -/
def kfirstFree {α : Type} : Keyed α → Nat → Nat
  | [], n => n
  | (k, _) :: r, n => if k < n then kfirstFree r n else if k = n then kfirstFree r (n + 1) else n

end Sys2Proof.Machine
end

