-- ==== Sys2Proof/Machine/Bits.lean ====
section
/-! DEFINITION. Bit fields, byte orders, masks and the checksums that the spec names, over numbers and byte strings. -/

namespace Sys2Proof.Machine

/-- Bits [hi:lo] of a number. -/
def bits (v hi lo : Nat) : Nat := (v / 2 ^ lo) % 2 ^ (hi + 1 - lo)

/-- Bit n of a number. -/
def bit (v n : Nat) : Bool := v.testBit n

/-- A number with its bits [hi:lo] replaced by x. -/
def setBits (v hi lo x : Nat) : Nat :=
  v - (bits v hi lo <<< lo) + ((x % 2 ^ (hi + 1 - lo)) <<< lo)

/-- 1 for true, 0 for false. -/
def b2n (b : Bool) : Nat := if b then 1 else 0

/-- The number whose bits [hi:lo] are all ones. -/
def onesMask (hi lo : Nat) : Nat := (2 ^ (hi + 1 - lo) - 1) * 2 ^ lo

/-- The members 0 … n−1 whose bit is set in a mask (R2), ascending. -/
def maskList (m n : Nat) : List Nat := (List.range n).filter (fun i => m.testBit i)

/-- The mask of a list of members. -/
def listMask (l : List Nat) : Nat := l.foldl (fun m i => m ||| (1 <<< i)) 0

/-- Set one bit. -/
def orBit (m i : Nat) : Nat := m ||| (1 <<< i)

/-- Clear one bit. -/
def clrBit (m i : Nat) : Nat := if m.testBit i then m - 2 ^ i else m

/-- The number of ones among bits 0 … n−1. -/
def popCount (m n : Nat) : Nat := (maskList m n).length

/-- Bring a value into a range: below the least it is the least, above the greatest the greatest. -/
def clamp (lo hi v : Nat) : Nat := if v < lo then lo else if hi < v then hi else v

/-- Little-endian number of a byte string (R5). -/
def le : Bytes → Nat
  | [] => 0
  | b :: r => b.toNat + 256 * le r

/-- n bytes, little-endian, of a number (R5). -/
def toLe : Nat → Nat → Bytes
  | 0, _ => []
  | n + 1, v => byte v :: toLe n (v / 256)

/-- Big-endian number of a byte string (network order, R5). -/
def be (bs : Bytes) : Nat := bs.foldl (fun a b => a * 256 + b.toNat) 0

/-- n bytes, network order, of a number (R5). -/
def toBe (n v : Nat) : Bytes := (toLe n v).reverse

/-- The bytes [off, off + n) of a string; bytes beyond its end read as 0. -/
def slice (bs : Bytes) (off n : Nat) : Bytes :=
  let t := (bs.drop off).take n
  t ++ List.replicate (n - t.length) 0

/-- The little-endian number in bytes [off, off + n). -/
def leAt (bs : Bytes) (off n : Nat) : Nat := le (slice bs off n)

/-- The network-order number in bytes [off, off + n). -/
def beAt (bs : Bytes) (off n : Nat) : Nat := be (slice bs off n)

/-- One byte as a number; beyond the end it is 0. -/
def byteAt (bs : Bytes) (off : Nat) : Nat := ((bs[off]?).getD 0).toNat

/-- Replace the bytes from off on by r (the string grows with zeros where it is too short). -/
def patch (bs : Bytes) (off : Nat) (r : Bytes) : Bytes :=
  slice bs 0 off ++ r ++ bs.drop (off + r.length)

/-- n zero bytes. -/
def zeros (n : Nat) : Bytes := List.replicate n 0

/-- Two's complement: the signed value of the low n bits. -/
def toSigned (n v : Nat) : Int :=
  let w := v % 2 ^ n
  if w < 2 ^ (n - 1) then (w : Int) else (w : Int) - (2 ^ n : Nat)

/-- The low n bits of a signed value. -/
def ofSigned (n : Nat) (i : Int) : Nat := (i % ((2 ^ n : Nat) : Int)).toNat

/-- Round a quotient up. -/
def divUp (a b : Nat) : Nat := if b = 0 then 0 else if a % b = 0 then a / b else a / b + 1

/-- One bit step of a checksum register that shifts left, of width n and polynomial p. -/
def crcShl (n p c : Nat) : Nat :=
  let d := (c * 2) % 2 ^ n
  if c.testBit (n - 1) then d ^^^ p else d

/-- k bit steps. -/
def crcShlK (n p : Nat) : Nat → Nat → Nat
  | 0, c => c
  | k + 1, c => crcShlK n p k (crcShl n p c)

/-- A checksum over bytes taken most significant bit first: width n (at least 8), polynomial p, start value. -/
def crcMsb (n p init : Nat) (bs : Bytes) : Nat :=
  bs.foldl (fun c b => crcShlK n p 8 (c ^^^ (b.toNat * 2 ^ (n - 8)))) init

/-- One bit step of a checksum register that shifts right, polynomial p reversed. -/
def crcShr (p c : Nat) : Nat := if c.testBit 0 then (c / 2) ^^^ p else c / 2

/-- k bit steps. -/
def crcShrK (p : Nat) : Nat → Nat → Nat
  | 0, c => c
  | k + 1, c => crcShrK p k (crcShr p c)

/-- A checksum over bytes taken least significant bit first. -/
def crcLsb (p init : Nat) (bs : Bytes) : Nat :=
  bs.foldl (fun c b => crcShrK p 8 (c ^^^ b.toNat)) init

/-- The FCS of IEEE 802.3 over a frame, least significant byte first (log entry 13). -/
def fcsOf (bs : Bytes) : Bytes := toLe 4 (crcLsb 0xEDB88320 (2 ^ 32 - 1) bs ^^^ (2 ^ 32 - 1))

end Sys2Proof.Machine
end

