-- ==== Sys2Proof/Machine/RegMap.lean ====
section
/-! DEFINITION. The names of the registers and of their fields, with the addresses that the register tables of the
chapters give them (R33). A register is its byte address, a field its address and bit range; an index that the spec writes
as a subscript (a port p, a host h, a queue set s, a ring r, a window n ...) is an argument. Generated from the spec's tables. -/

namespace Sys2Proof.Machine

/-- A register field: the address of its word and its bits [hi:lo]. -/
structure Fld where
  addr : Nat
  hi : Nat
  lo : Nat
deriving DecidableEq, Repr

/-! Registers of 01_architecture.md. -/

def GLB_ID : Nat := 0
def GLB_ID.PART : Fld := ⟨0, 31, 16⟩
def GLB_ID.REV_MAJOR : Fld := ⟨0, 15, 12⟩
def GLB_ID.REV_MINOR : Fld := ⟨0, 11, 8⟩
def GLB_UID_LO : Nat := 4
def GLB_UID_LO.UID : Fld := ⟨4, 31, 0⟩
def GLB_UID_HI : Nat := 8
def GLB_UID_HI.UID : Fld := ⟨8, 31, 0⟩
def GLB_CTRL : Nat := 0x10
def GLB_CTRL.FWD_EN : Fld := ⟨0x10, 0, 0⟩
def GLB_STATUS : Nat := 0x14
def GLB_STATUS.AON_OK : Fld := ⟨0x14, 12, 12⟩
def GLB_STATUS.SUP_RUN : Fld := ⟨0x14, 11, 11⟩
def GLB_STATUS.MEM_READY : Fld := ⟨0x14, 10, 10⟩
def GLB_STATUS.TK_RUN : Fld := ⟨0x14, 9, 9⟩
def GLB_STATUS.MSEC_READY : Fld := ⟨0x14, 7, 4⟩
def GLB_STATUS.QUAD_READY : Fld := ⟨0x14, 3, 0⟩
def GLB_ERR_STATUS : Nat := 0x18
def GLB_ERR_STATUS.SRC : Fld := ⟨0x18, 5, 4⟩
def GLB_ERR_STATUS.PART_WR : Fld := ⟨0x18, 2, 2⟩
def GLB_ERR_STATUS.UNMAP_WR : Fld := ⟨0x18, 1, 1⟩
def GLB_ERR_STATUS.UNMAP_RD : Fld := ⟨0x18, 0, 0⟩
def GLB_ERR_ADDR : Nat := 0x1c
def GLB_ERR_ADDR.ADDR : Fld := ⟨0x1c, 21, 2⟩
def GLB_SCRATCH : Nat := 0x20
def GLB_SCRATCH.VALUE : Fld := ⟨0x20, 31, 0⟩
/-! Registers of 03_host_rings.md. -/

def HOST_FAILSAFE : Nat := 0x14000
def HOST_FAILSAFE.WRST : Fld := ⟨0x14000, 1, 1⟩
def HOST_FAILSAFE.FENCE : Fld := ⟨0x14000, 0, 0⟩
def HOST_SPI_STATUS : Nat := 0x14004
def HOST_SPI_STATUS.FRAME_ERR : Fld := ⟨0x14004, 1, 1⟩
def HOST_SPI_STATUS.CRC_ERR : Fld := ⟨0x14004, 0, 0⟩
def HOST_CTRL (h : Nat) : Nat := 0x10000 + h * 0x100
def HOST_CTRL.TS_DOM (h : Nat) : Fld := ⟨0x10000 + h * 0x100, 2, 2⟩
def HOST_CTRL.DB_EN (h : Nat) : Fld := ⟨0x10000 + h * 0x100, 1, 1⟩
def HOST_CTRL.EN (h : Nat) : Fld := ⟨0x10000 + h * 0x100, 0, 0⟩
def HOST_DB_BASE_LO (h : Nat) : Nat := 0x10004 + h * 0x100
def HOST_DB_BASE_LO.ADDR (h : Nat) : Fld := ⟨0x10004 + h * 0x100, 31, 12⟩
def HOST_DB_BASE_HI (h : Nat) : Nat := 0x10008 + h * 0x100
def HOST_DB_BASE_HI.ADDR (h : Nat) : Fld := ⟨0x10008 + h * 0x100, 31, 0⟩
def HOST_DB_POLL (h : Nat) : Nat := 0x1000c + h * 0x100
def HOST_DB_POLL.IDLE_POLL (h : Nat) : Fld := ⟨0x1000c + h * 0x100, 31, 16⟩
def HOST_DB_POLL.DB_POLL (h : Nat) : Fld := ⟨0x1000c + h * 0x100, 8, 0⟩
def HOST_WAKE_HINT (h : Nat) : Nat := 0x10010 + h * 0x100
def HOST_WAKE_HINT.QS (h : Nat) : Fld := ⟨0x10010 + h * 0x100, 5, 0⟩
def HOST_CMD_ALLOW (h : Nat) : Nat := 0x10014 + h * 0x100
def HOST_CMD_ALLOW.GROUP (h : Nat) : Fld := ⟨0x10014 + h * 0x100, 15, 1⟩
def HOST_EVROUTE (h : Nat) (k : Nat) : Nat := 0x10018 + h * 0x100 + k * 4
def HOST_EVROUTE.EN0 (h : Nat) (k : Nat) : Fld := ⟨0x10018 + h * 0x100 + k * 4, 7, 7⟩
def HOST_EVROUTE.EN1 (h : Nat) (k : Nat) : Fld := ⟨0x10018 + h * 0x100 + k * 4, 15, 15⟩
def HOST_EVROUTE.EN2 (h : Nat) (k : Nat) : Fld := ⟨0x10018 + h * 0x100 + k * 4, 23, 23⟩
def HOST_EVROUTE.EN3 (h : Nat) (k : Nat) : Fld := ⟨0x10018 + h * 0x100 + k * 4, 31, 31⟩
def HOST_EVROUTE.QS0 (h : Nat) (k : Nat) : Fld := ⟨0x10018 + h * 0x100 + k * 4, 5, 0⟩
def HOST_EVROUTE.QS1 (h : Nat) (k : Nat) : Fld := ⟨0x10018 + h * 0x100 + k * 4, 13, 8⟩
def HOST_EVROUTE.QS2 (h : Nat) (k : Nat) : Fld := ⟨0x10018 + h * 0x100 + k * 4, 21, 16⟩
def HOST_EVROUTE.QS3 (h : Nat) (k : Nat) : Fld := ⟨0x10018 + h * 0x100 + k * 4, 29, 24⟩
def HOST_RXSTEER (h : Nat) (k : Nat) : Nat := 0x10028 + h * 0x100 + k * 4
def HOST_RXSTEER.QS0 (h : Nat) (k : Nat) : Fld := ⟨0x10028 + h * 0x100 + k * 4, 5, 0⟩
def HOST_RXSTEER.QS1 (h : Nat) (k : Nat) : Fld := ⟨0x10028 + h * 0x100 + k * 4, 13, 8⟩
def HOST_RXSTEER.QS2 (h : Nat) (k : Nat) : Fld := ⟨0x10028 + h * 0x100 + k * 4, 21, 16⟩
def HOST_RXSTEER.QS3 (h : Nat) (k : Nat) : Fld := ⟨0x10028 + h * 0x100 + k * 4, 29, 24⟩
def HOST_STATUS (h : Nat) : Nat := 0x10030 + h * 0x100
def HOST_STATUS.BME (h : Nat) : Fld := ⟨0x10030 + h * 0x100, 7, 7⟩
def HOST_STATUS.WIDTH (h : Nat) : Fld := ⟨0x10030 + h * 0x100, 6, 4⟩
def HOST_STATUS.SPEED (h : Nat) : Fld := ⟨0x10030 + h * 0x100, 3, 1⟩
def HOST_STATUS.LINK_UP (h : Nat) : Fld := ⟨0x10030 + h * 0x100, 0, 0⟩
def HOST_EVQ_LOST (h : Nat) : Nat := 0x10034 + h * 0x100
def HOST_EVQ_LOST.COUNT (h : Nat) : Fld := ⟨0x10034 + h * 0x100, 31, 0⟩
def RING_BASE_LO (h : Nat) (s : Nat) (r : Nat) : Nat := 0x11000 + h * 0x1000 + s * 0x40 + r * 0x10
def RING_BASE_LO.ADDR (h : Nat) (s : Nat) (r : Nat) : Fld := ⟨0x11000 + h * 0x1000 + s * 0x40 + r * 0x10, 31, 12⟩
def RING_BASE_HI (h : Nat) (s : Nat) (r : Nat) : Nat := 0x11004 + h * 0x1000 + s * 0x40 + r * 0x10
def RING_BASE_HI.ADDR (h : Nat) (s : Nat) (r : Nat) : Fld := ⟨0x11004 + h * 0x1000 + s * 0x40 + r * 0x10, 31, 0⟩
def RING_CFG (h : Nat) (s : Nat) (r : Nat) : Nat := 0x11008 + h * 0x1000 + s * 0x40 + r * 0x10
def RING_CFG.VEC (h : Nat) (s : Nat) (r : Nat) : Fld := ⟨0x11008 + h * 0x1000 + s * 0x40 + r * 0x10, 21, 16⟩
def RING_CFG.SIZE_LOG2 (h : Nat) (s : Nat) (r : Nat) : Fld := ⟨0x11008 + h * 0x1000 + s * 0x40 + r * 0x10, 12, 8⟩
def RING_CFG.IRQ_EN (h : Nat) (s : Nat) (r : Nat) : Fld := ⟨0x11008 + h * 0x1000 + s * 0x40 + r * 0x10, 1, 1⟩
def RING_CFG.EN (h : Nat) (s : Nat) (r : Nat) : Fld := ⟨0x11008 + h * 0x1000 + s * 0x40 + r * 0x10, 0, 0⟩
def RING_STATUS (h : Nat) (s : Nat) (r : Nat) : Nat := 0x1100c + h * 0x1000 + s * 0x40 + r * 0x10
def RING_STATUS.STATE (h : Nat) (s : Nat) (r : Nat) : Fld := ⟨0x1100c + h * 0x1000 + s * 0x40 + r * 0x10, 31, 30⟩
def RING_STATUS.CAUSE (h : Nat) (s : Nat) (r : Nat) : Fld := ⟨0x1100c + h * 0x1000 + s * 0x40 + r * 0x10, 29, 24⟩
def RING_STATUS.DEV_IDX (h : Nat) (s : Nat) (r : Nat) : Fld := ⟨0x1100c + h * 0x1000 + s * 0x40 + r * 0x10, 19, 0⟩
def HOST_MOD (h : Nat) (v : Nat) : Nat := 0x18800 + h * 0x4000 + v * 4
def HOST_MOD.TIME (h : Nat) (v : Nat) : Fld := ⟨0x18800 + h * 0x4000 + v * 4, 25, 16⟩
def HOST_MOD.COUNT (h : Nat) (v : Nat) : Fld := ⟨0x18800 + h * 0x4000 + v * 4, 7, 0⟩
/-! Registers of 04_frame_path_and_buffers.md. -/

def BUF_CTRL : Nat := 0x200000
def BUF_CTRL.SILL_EV : Fld := ⟨0x200000, 8, 8⟩
def BUF_CTRL.STEPUP : Fld := ⟨0x200000, 7, 0⟩
def BUF_SILL_STATE : Nat := 0x200004
def BUF_SILL_STATE.LEVEL0 : Fld := ⟨0x200004, 1, 0⟩
def BUF_SILL_STATE.LEVEL1 : Fld := ⟨0x200004, 3, 2⟩
def BUF_SILL_STATE.LEVEL2 : Fld := ⟨0x200004, 5, 4⟩
def BUF_SILL_STATE.LEVEL3 : Fld := ⟨0x200004, 7, 6⟩
def BUF_SILL_STATE.LEVEL4 : Fld := ⟨0x200004, 9, 8⟩
def BUF_SILL_STATE.LEVEL5 : Fld := ⟨0x200004, 11, 10⟩
def BUF_LINK_STATUS : Nat := 0x200008
def BUF_LINK_STATUS.LINK_RSV : Fld := ⟨0x200008, 31, 16⟩
def BUF_LINK_STATUS.LINK_FREE : Fld := ⟨0x200008, 15, 0⟩
def BUF_LINK_CFG : Nat := 0x20000c
def BUF_LINK_CFG.LINK_FLOOR : Fld := ⟨0x20000c, 15, 0⟩
def BUF_BAD_FREE_CNT : Nat := 0x200010
def BUF_BAD_FREE_CNT.COUNT : Fld := ⟨0x200010, 31, 0⟩
def BUF_ECC_CORR_CNT : Nat := 0x200018
def BUF_ECC_CORR_CNT.COUNT : Fld := ⟨0x200018, 31, 0⟩
def BUF_ECC_UNCORR_CNT : Nat := 0x20001c
def BUF_ECC_UNCORR_CNT.COUNT : Fld := ⟨0x20001c, 31, 0⟩
def BUF_CARVE_STATUS : Nat := 0x200014
def BUF_CARVE_STATUS.PLOTS_USED : Fld := ⟨0x200014, 24, 16⟩
def BUF_CARVE_STATUS.TOTAL_BUF : Fld := ⟨0x200014, 15, 0⟩
def BUF_BD_SEL : Nat := 0x200020
def BUF_BD_SEL.IS_FREE : Fld := ⟨0x200020, 31, 31⟩
def BUF_BD_SEL.INDEX : Fld := ⟨0x200020, 15, 0⟩
def BUF_BD_DATA (n : Nat) : Nat := 0x200024 + n * 4
def BUF_BD_DATA.DATA (n : Nat) : Fld := ⟨0x200024 + n * 4, 31, 0⟩
def BUF_DBG_RELEASE : Nat := 0x200040
def BUF_DBG_RELEASE.PORT : Fld := ⟨0x200040, 22, 16⟩
def BUF_DBG_RELEASE.INDEX : Fld := ⟨0x200040, 15, 0⟩
def BUF_POOL_CFG (k : Nat) : Nat := 0x200100 + k * 0x40
def BUF_POOL_CFG.PLOTS (k : Nat) : Fld := ⟨0x200100 + k * 0x40, 24, 16⟩
def BUF_POOL_CFG.PLOT_BASE (k : Nat) : Fld := ⟨0x200100 + k * 0x40, 7, 0⟩
def BUF_POOL_ACT (k : Nat) : Nat := 0x200104 + k * 0x40
def BUF_POOL_ACT.PLOTS (k : Nat) : Fld := ⟨0x200104 + k * 0x40, 24, 16⟩
def BUF_POOL_ACT.PLOT_BASE (k : Nat) : Fld := ⟨0x200104 + k * 0x40, 7, 0⟩
def BUF_POOL_SIZE (k : Nat) : Nat := 0x200108 + k * 0x40
def BUF_POOL_SIZE.PER_PLOT (k : Nat) : Fld := ⟨0x200108 + k * 0x40, 31, 16⟩
def BUF_POOL_SIZE.SIZE (k : Nat) : Fld := ⟨0x200108 + k * 0x40, 15, 0⟩
def BUF_POOL_SILL (k : Nat) : Nat := 0x20010c + k * 0x40
def BUF_POOL_SILL.SILL3 (k : Nat) : Fld := ⟨0x20010c + k * 0x40, 29, 20⟩
def BUF_POOL_SILL.SILL2 (k : Nat) : Fld := ⟨0x20010c + k * 0x40, 19, 10⟩
def BUF_POOL_SILL.SILL1 (k : Nat) : Fld := ⟨0x20010c + k * 0x40, 9, 0⟩
def BUF_POOL_COUNT (k : Nat) : Nat := 0x200110 + k * 0x40
def BUF_POOL_COUNT.FIRST (k : Nat) : Fld := ⟨0x200110 + k * 0x40, 31, 16⟩
def BUF_POOL_COUNT.BUFFERS (k : Nat) : Fld := ⟨0x200110 + k * 0x40, 15, 0⟩
def BUF_POOL_FREE (k : Nat) : Nat := 0x200114 + k * 0x40
def BUF_POOL_FREE.FREE (k : Nat) : Fld := ⟨0x200114 + k * 0x40, 15, 0⟩
def BUF_POOL_RSV (k : Nat) : Nat := 0x200118 + k * 0x40
def BUF_POOL_RSV.RSV_HELD (k : Nat) : Fld := ⟨0x200118 + k * 0x40, 31, 16⟩
def BUF_POOL_RSV.RSV_TOTAL (k : Nat) : Fld := ⟨0x200118 + k * 0x40, 15, 0⟩
def BUF_POOL_REFUSE (k : Nat) : Nat := 0x200120 + k * 0x40
def BUF_POOL_STEPUP (k : Nat) : Nat := 0x200128 + k * 0x40
def BUF_POOL_STATUS (k : Nat) : Nat := 0x200130 + k * 0x40
def BUF_POOL_STATUS.BAD_WR (k : Nat) : Fld := ⟨0x200130 + k * 0x40, 0, 0⟩
def PORT_RX_OK (p : Nat) : Nat := 0x280000 + p * 0x400
def PORT_RX_CRC_ERR (p : Nat) : Nat := 0x280008 + p * 0x400
def PORT_RX_LEN_ERR (p : Nat) : Nat := 0x280010 + p * 0x400
def PORT_RX_DROP (p : Nat) : Nat := 0x280018 + p * 0x400
def PORT_RX_BUF_REFUSE (p : Nat) : Nat := 0x280020 + p * 0x400
def PORT_RX_CFG (p : Nat) : Nat := 0x280028 + p * 0x400
def PORT_RX_CFG.MAX_LEN (p : Nat) : Fld := ⟨0x280028 + p * 0x400, 13, 0⟩
/-! Registers of 05_forwarding_tables.md. -/

def QD_L2_CTRL (q : Nat) : Nat := 0x100000 + q * 0x40000
def QD_L2_CTRL.AGE_EN (q : Nat) : Fld := ⟨0x100000 + q * 0x40000, 1, 1⟩
def QD_L2_CTRL.LEARN_EN (q : Nat) : Fld := ⟨0x100000 + q * 0x40000, 0, 0⟩
def QD_L2_SEED (q : Nat) : Nat := 0x100004 + q * 0x40000
def QD_L2_SEED.SEED (q : Nat) : Fld := ⟨0x100004 + q * 0x40000, 31, 0⟩
def QD_L2_SEED_NEXT (q : Nat) : Nat := 0x100008 + q * 0x40000
def QD_L2_SEED_NEXT.SEED (q : Nat) : Fld := ⟨0x100008 + q * 0x40000, 31, 0⟩
def QD_L2_STATUS (q : Nat) : Nat := 0x10000c + q * 0x40000
def QD_L2_STATUS.MIGRATING (q : Nat) : Fld := ⟨0x10000c + q * 0x40000, 31, 31⟩
def QD_L2_STATUS.GEN (q : Nat) : Fld := ⟨0x10000c + q * 0x40000, 27, 24⟩
def QD_L2_STATUS.OVF_USED (q : Nat) : Fld := ⟨0x10000c + q * 0x40000, 8, 0⟩
def QD_L2_COUNT (q : Nat) : Nat := 0x100010 + q * 0x40000
def QD_L2_COUNT.PINNED (q : Nat) : Fld := ⟨0x100010 + q * 0x40000, 31, 16⟩
def QD_L2_COUNT.ENTRIES (q : Nat) : Fld := ⟨0x100010 + q * 0x40000, 15, 0⟩
def QD_RAKE_CFG (q : Nat) : Nat := 0x100014 + q * 0x40000
def QD_RAKE_CFG.PERIOD (q : Nat) : Fld := ⟨0x100014 + q * 0x40000, 15, 0⟩
def QD_MOVE_CFG (q : Nat) : Nat := 0x100018 + q * 0x40000
def QD_MOVE_CFG.MOVE_LIMIT (q : Nat) : Fld := ⟨0x100018 + q * 0x40000, 23, 16⟩
def QD_MOVE_CFG.MOVE_GUARD (q : Nat) : Fld := ⟨0x100018 + q * 0x40000, 15, 0⟩
def QD_PATH_SEED (q : Nat) : Nat := 0x10001c + q * 0x40000
def QD_PATH_SEED.PATH_SEED (q : Nat) : Fld := ⟨0x10001c + q * 0x40000, 31, 0⟩
def QD_PORT_FWD (q : Nat) (p : Nat) : Nat := 0x101000 + q * 0x40000 + p * 4
def QD_PORT_FWD.LEARN (q : Nat) (p : Nat) : Fld := ⟨0x101000 + q * 0x40000 + p * 4, 13, 13⟩
def QD_PORT_FWD.DROP_UNTAGGED (q : Nat) (p : Nat) : Fld := ⟨0x101000 + q * 0x40000 + p * 4, 12, 12⟩
def QD_PORT_FWD.PVID (q : Nat) (p : Nat) : Fld := ⟨0x101000 + q * 0x40000 + p * 4, 11, 0⟩
/-! Registers of 06_hedge.md. -/

def QD_HEDGE_CTRL (q : Nat) : Nat := 0x120000 + q * 0x40000
def QD_HEDGE_CTRL.LOG_EN (q : Nat) : Fld := ⟨0x120000 + q * 0x40000, 1, 1⟩
def QD_HEDGE_CTRL.PH_EN (q : Nat) : Fld := ⟨0x120000 + q * 0x40000, 0, 0⟩
def QD_HEDGE_STATUS (q : Nat) : Nat := 0x120004 + q * 0x40000
def QD_HEDGE_STATUS.ACT_GEN (q : Nat) : Fld := ⟨0x120004 + q * 0x40000, 31, 16⟩
def QD_HEDGE_STATUS.COPYING (q : Nat) : Fld := ⟨0x120004 + q * 0x40000, 15, 15⟩
def QD_HEDGE_STATUS.DIRTY (q : Nat) : Fld := ⟨0x120004 + q * 0x40000, 14, 14⟩
def QD_HEDGE_STATUS.RULES (q : Nat) : Fld := ⟨0x120004 + q * 0x40000, 12, 0⟩
def QD_PH_STATUS (q : Nat) : Nat := 0x13f000 + q * 0x40000
def QD_PH_STATUS.IN_USE (q : Nat) : Fld := ⟨0x13f000 + q * 0x40000, 14, 0⟩
/-! Registers of 07_time.md. -/

def TIME_DOM_CFG (d : Nat) : Nat := 0x40010 + d * 0x10
def TIME_DOM_CFG.STEP_THRESH (d : Nat) : Fld := ⟨0x40010 + d * 0x10, 31, 16⟩
def TIME_DOM_CFG.SERVO (d : Nat) : Fld := ⟨0x40010 + d * 0x10, 8, 8⟩
def TIME_DOM_CFG.DOMAIN_NUMBER (d : Nat) : Fld := ⟨0x40010 + d * 0x10, 6, 0⟩
def TIME_DOM_STATUS (d : Nat) : Nat := 0x40014 + d * 0x10
def TIME_DOM_STATUS.STEP_ARMED (d : Nat) : Fld := ⟨0x40014 + d * 0x10, 31, 31⟩
def TIME_DOM_STATUS.SET (d : Nat) : Fld := ⟨0x40014 + d * 0x10, 30, 30⟩
def TIME_DOM_STATUS.LOCKED (d : Nat) : Fld := ⟨0x40014 + d * 0x10, 29, 29⟩
def TIME_DOM_STATUS.ADJ (d : Nat) : Fld := ⟨0x40014 + d * 0x10, 28, 28⟩
def TIME_DOM_STATUS.BAD_WR (d : Nat) : Fld := ⟨0x40014 + d * 0x10, 0, 0⟩
def TIME_DOM_RATE (d : Nat) : Nat := 0x40018 + d * 0x10
def TIME_DOM_RATE.RATE (d : Nat) : Fld := ⟨0x40018 + d * 0x10, 31, 0⟩
def TIME_DOM_ADJ (d : Nat) : Nat := 0x4001c + d * 0x10
def TIME_DOM_ADJ.ADJ_LEFT (d : Nat) : Fld := ⟨0x4001c + d * 0x10, 31, 0⟩
def TIME_SNAP_CTRL : Nat := 0x40040
def TIME_SNAP_CTRL.TAKE : Fld := ⟨0x40040, 0, 0⟩
def TIME_OUT_CFG (n : Nat) : Nat := 0x40100 + n * 0x20
def TIME_OUT_CFG.POL (n : Nat) : Fld := ⟨0x40100 + n * 0x20, 1, 1⟩
def TIME_OUT_CFG.OE (n : Nat) : Fld := ⟨0x40100 + n * 0x20, 0, 0⟩
def TIME_OUT_STATUS (n : Nat) : Nat := 0x40104 + n * 0x20
def TIME_OUT_STATUS.ARMED (n : Nat) : Fld := ⟨0x40104 + n * 0x20, 31, 31⟩
def TIME_OUT_STATUS.ACTIVE (n : Nat) : Fld := ⟨0x40104 + n * 0x20, 30, 30⟩
def TIME_OUT_STATUS.MODE (n : Nat) : Fld := ⟨0x40104 + n * 0x20, 29, 28⟩
def TIME_OUT_STATUS.DOM (n : Nat) : Fld := ⟨0x40104 + n * 0x20, 27, 26⟩
def TIME_IN_CFG (n : Nat) : Nat := 0x40200 + n * 0x20
def TIME_IN_CFG.FILTER (n : Nat) : Fld := ⟨0x40200 + n * 0x20, 13, 8⟩
def TIME_IN_CFG.DOM (n : Nat) : Fld := ⟨0x40200 + n * 0x20, 5, 4⟩
def TIME_IN_CFG.EDGE (n : Nat) : Fld := ⟨0x40200 + n * 0x20, 3, 2⟩
def TIME_IN_CFG.EV_EN (n : Nat) : Fld := ⟨0x40200 + n * 0x20, 0, 0⟩
def TIME_IN_STATUS (n : Nat) : Nat := 0x40204 + n * 0x20
def TIME_IN_STATUS.DEPTH (n : Nat) : Fld := ⟨0x40204 + n * 0x20, 11, 8⟩
def TIME_IN_STATUS.OVF (n : Nat) : Fld := ⟨0x40204 + n * 0x20, 0, 0⟩
def TIME_IN_LAST_SEC_HI (n : Nat) : Nat := 0x40210 + n * 0x20
def TIME_IN_LAST_SEC_HI.EDGE (n : Nat) : Fld := ⟨0x40210 + n * 0x20, 17, 17⟩
def TIME_IN_LAST_SEC_HI.VALID (n : Nat) : Fld := ⟨0x40210 + n * 0x20, 16, 16⟩
def TIME_IN_LAST_SEC_HI.SEC_HI (n : Nat) : Fld := ⟨0x40210 + n * 0x20, 15, 0⟩
def TIME_PORT_CFG (p : Nat) : Nat := 0x41000 + p * 4
def TIME_PORT_CFG.TX_LAT (p : Nat) : Fld := ⟨0x41000 + p * 4, 27, 18⟩
def TIME_PORT_CFG.RX_LAT (p : Nat) : Fld := ⟨0x41000 + p * 4, 17, 8⟩
def TIME_PORT_CFG.PTP_SECURE (p : Nat) : Fld := ⟨0x41000 + p * 4, 2, 2⟩
def TIME_PORT_CFG.AS_EN1 (p : Nat) : Fld := ⟨0x41000 + p * 4, 1, 1⟩
def TIME_PORT_CFG.AS_EN0 (p : Nat) : Fld := ⟨0x41000 + p * 4, 0, 0⟩
/-! Registers of 08_queues_and_shutters.md. -/

def EGR_CTRL : Nat := 0x210000
def EGR_CTRL.ENERGY_EN : Fld := ⟨0x210000, 1, 1⟩
def EGR_CTRL.THERM_EN : Fld := ⟨0x210000, 0, 0⟩
def EGR_ENERGY_CFG : Nat := 0x210004
def EGR_ENERGY_CFG.BURST : Fld := ⟨0x210004, 31, 16⟩
def EGR_ENERGY_CFG.BUDGET_MW : Fld := ⟨0x210004, 15, 0⟩
def EGR_ENERGY_STATUS : Nat := 0x210008
def EGR_ENERGY_STATUS.RESERVED_MW : Fld := ⟨0x210008, 15, 0⟩
def EGR_ENERGY_LEVEL : Nat := 0x21000c
def EGR_ENERGY_LEVEL.LEVEL : Fld := ⟨0x21000c, 31, 0⟩
def EGR_BRACE_CFG : Nat := 0x210010
def EGR_BRACE_CFG.BRACE_PM : Fld := ⟨0x210010, 9, 0⟩
def EGR_COST (k : Nat) : Nat := 0x210020 + k * 4
def EGR_COST.FIXED (k : Nat) : Fld := ⟨0x210020 + k * 4, 31, 16⟩
def EGR_COST.BYTE (k : Nat) : Fld := ⟨0x210020 + k * 4, 15, 0⟩
def EGR_THERM_CFG : Nat := 0x210040
def EGR_THERM_CFG.THROTTLE_PM : Fld := ⟨0x210040, 25, 16⟩
def EGR_THERM_CFG.H1 : Fld := ⟨0x210040, 15, 8⟩
def EGR_THERM_CFG.H2 : Fld := ⟨0x210040, 7, 0⟩
def EGR_THERM_LIMIT : Nat := 0x210044
def EGR_THERM_LIMIT.THERM_LIMIT : Fld := ⟨0x210044, 7, 0⟩
def EGR_THERM_Q (q : Nat) : Nat := 0x210050 + q * 4
def EGR_THERM_Q.BAND (q : Nat) : Fld := ⟨0x210050 + q * 4, 31, 30⟩
def EGR_THERM_Q.HEADROOM (q : Nat) : Fld := ⟨0x210050 + q * 4, 8, 0⟩
def EGR_HIST_CFG : Nat := 0x210060
def EGR_HIST_CFG.SAMPLE : Fld := ⟨0x210060, 31, 16⟩
def EGR_HIST_CFG.DEPTH_LOG2 : Fld := ⟨0x210060, 15, 8⟩
def EGR_HIST_CFG.AGE_LOG2 : Fld := ⟨0x210060, 7, 0⟩
def EGR_HIST_SEL : Nat := 0x210064
def EGR_HIST_SEL.CLEAR : Fld := ⟨0x210064, 31, 31⟩
def EGR_HIST_SEL.PORT : Fld := ⟨0x210064, 14, 8⟩
def EGR_HIST_SEL.TC : Fld := ⟨0x210064, 2, 0⟩
def EGR_HIST_DEPTH (b : Nat) : Nat := 0x210080 + b * 4
def EGR_HIST_DEPTH.COUNT (b : Nat) : Fld := ⟨0x210080 + b * 4, 31, 0⟩
def EGR_HIST_AGE (b : Nat) : Nat := 0x2100c0 + b * 4
def EGR_HIST_AGE.COUNT (b : Nat) : Fld := ⟨0x2100c0 + b * 4, 31, 0⟩
def EGR_PORT_CTRL (p : Nat) : Nat := 0x211000 + p * 0x100
def EGR_PORT_CTRL.HOLD_BE (p : Nat) : Fld := ⟨0x211000 + p * 0x100, 11, 11⟩
def EGR_PORT_CTRL.PARK_EN (p : Nat) : Fld := ⟨0x211000 + p * 0x100, 10, 10⟩
def EGR_PORT_CTRL.PFC_WD_DROP (p : Nat) : Fld := ⟨0x211000 + p * 0x100, 9, 9⟩
def EGR_PORT_CTRL.PFC_EN (p : Nat) : Fld := ⟨0x211000 + p * 0x100, 8, 8⟩
def EGR_PORT_CTRL.MARK_EN (p : Nat) : Fld := ⟨0x211000 + p * 0x100, 0, 0⟩
def EGR_PORT_STATUS (p : Nat) : Nat := 0x211004 + p * 0x100
def EGR_PORT_STATUS.PARK (p : Nat) : Fld := ⟨0x211004 + p * 0x100, 31, 30⟩
def EGR_PORT_STATUS.SHUTTER_ON (p : Nat) : Fld := ⟨0x211004 + p * 0x100, 29, 29⟩
def EGR_PORT_STATUS.FLIP_PENDING (p : Nat) : Fld := ⟨0x211004 + p * 0x100, 28, 28⟩
def EGR_PORT_STATUS.PREEMPT_ACTIVE (p : Nat) : Fld := ⟨0x211004 + p * 0x100, 27, 27⟩
def EGR_PORT_STATUS.VERIFY (p : Nat) : Fld := ⟨0x211004 + p * 0x100, 26, 25⟩
def EGR_PORT_STATUS.GATES (p : Nat) : Fld := ⟨0x211004 + p * 0x100, 23, 16⟩
def EGR_PORT_STATUS.PAUSED (p : Nat) : Fld := ⟨0x211004 + p * 0x100, 15, 8⟩
def EGR_PORT_ENTRY (p : Nat) : Nat := 0x211008 + p * 0x100
def EGR_PORT_ENTRY.ENTRY (p : Nat) : Fld := ⟨0x211008 + p * 0x100, 25, 16⟩
def EGR_PORT_ENTRY.ACT_GEN (p : Nat) : Fld := ⟨0x211008 + p * 0x100, 15, 0⟩
def EGR_TB_CTRL (p : Nat) : Nat := 0x21100c + p * 0x100
def EGR_TB_CTRL.RESET_FULL (p : Nat) : Fld := ⟨0x21100c + p * 0x100, 7, 0⟩
def EGR_MARK_CFG (p : Nat) : Nat := 0x211010 + p * 0x100
def EGR_MARK_CFG.MARK_THRESH (p : Nat) : Fld := ⟨0x211010 + p * 0x100, 23, 0⟩
def EGR_PFC_CFG (p : Nat) : Nat := 0x211014 + p * 0x100
def EGR_PFC_CFG.XON (p : Nat) : Fld := ⟨0x211014 + p * 0x100, 31, 16⟩
def EGR_PFC_CFG.XOFF (p : Nat) : Fld := ⟨0x211014 + p * 0x100, 15, 0⟩
def EGR_PARK_CFG (p : Nat) : Nat := 0x211018 + p * 0x100
def EGR_PARK_CFG.BE_WAIT_MAX (p : Nat) : Fld := ⟨0x211018 + p * 0x100, 31, 24⟩
def EGR_PARK_CFG.MIN_QUIET (p : Nat) : Fld := ⟨0x211018 + p * 0x100, 15, 8⟩
def EGR_PARK_CFG.WAKE_LEAD (p : Nat) : Fld := ⟨0x211018 + p * 0x100, 7, 0⟩
def EGR_QDEPTH (p : Nat) (c : Nat) : Nat := 0x211020 + p * 0x100 + c * 4
def EGR_QDEPTH.FRAMES (p : Nat) (c : Nat) : Fld := ⟨0x211020 + p * 0x100 + c * 4, 31, 16⟩
def EGR_QDEPTH.DEPTH (p : Nat) (c : Nat) : Fld := ⟨0x211020 + p * 0x100 + c * 4, 15, 0⟩
/-! Registers of 09_admission_and_policing.md. -/

def ADM_CTRL : Nat := 0x220000
def ADM_CTRL.ADMIT_EN : Fld := ⟨0x220000, 0, 0⟩
def ADM_TIMERS : Nat := 0x220004
def ADM_TIMERS.RSV_HOLD : Fld := ⟨0x220004, 31, 16⟩
def ADM_TIMERS.ADM_TIMEOUT : Fld := ⟨0x220004, 15, 0⟩
def ADM_STATUS : Nat := 0x220008
def ADM_STATUS.ENGINE_BUSY : Fld := ⟨0x220008, 31, 31⟩
def ADM_STATUS.TENTATIVE : Fld := ⟨0x220008, 28, 16⟩
def ADM_STATUS.ADMITTED : Fld := ⟨0x220008, 12, 0⟩
def ADM_ENGINE_TIME : Nat := 0x22000c
def ADM_ENGINE_TIME.MAX_US : Fld := ⟨0x22000c, 31, 16⟩
def ADM_ENGINE_TIME.LAST_US : Fld := ⟨0x22000c, 15, 0⟩
def ADM_LINK_ALLOW (p : Nat) : Nat := 0x220040 + p * 4
def ADM_LINK_ALLOW.LINK_ALLOW (p : Nat) : Fld := ⟨0x220040 + p * 4, 15, 0⟩
def ADM_CAN (n : Nat) : Nat := 0x220080 + n * 4
def ADM_CAN.ERR_FRAMES (n : Nat) : Fld := ⟨0x220080 + n * 4, 31, 24⟩
def ADM_CAN.DECLARED (n : Nat) : Fld := ⟨0x220080 + n * 4, 5, 0⟩
def ADM_FOREIGN0 (n : Nat) (m : Nat) : Nat := 0x221000 + n * 0x100 + m * 8
def ADM_FOREIGN0.VALID (n : Nat) (m : Nat) : Fld := ⟨0x221000 + n * 0x100 + m * 8, 31, 31⟩
def ADM_FOREIGN0.IDE (n : Nat) (m : Nat) : Fld := ⟨0x221000 + n * 0x100 + m * 8, 30, 30⟩
def ADM_FOREIGN0.ID (n : Nat) (m : Nat) : Fld := ⟨0x221000 + n * 0x100 + m * 8, 28, 0⟩
def ADM_FOREIGN1 (n : Nat) (m : Nat) : Nat := 0x221004 + n * 0x100 + m * 8
def ADM_FOREIGN1.FMT (n : Nat) (m : Nat) : Fld := ⟨0x221004 + n * 0x100 + m * 8, 31, 30⟩
def ADM_FOREIGN1.BYTES (n : Nat) (m : Nat) : Fld := ⟨0x221004 + n * 0x100 + m * 8, 29, 18⟩
def ADM_FOREIGN1.PERIOD (n : Nat) (m : Nat) : Fld := ⟨0x221004 + n * 0x100 + m * 8, 17, 0⟩
/-! Registers of 10_redundancy.md. -/

def PATH_CTRL : Nat := 0x230000
def PATH_CTRL.EPOCH_EV : Fld := ⟨0x230000, 1, 1⟩
def PATH_CTRL.GAP_EV : Fld := ⟨0x230000, 0, 0⟩
def PATH_STATUS : Nat := 0x230004
def PATH_STATUS.HELD : Fld := ⟨0x230004, 31, 16⟩
def PATH_STATUS.STREAMS : Fld := ⟨0x230004, 12, 0⟩
def PATH_SEL : Nat := 0x230008
def PATH_SEL.HANDLE : Fld := ⟨0x230008, 15, 0⟩
def PATH_SNAP0 : Nat := 0x23000c
def PATH_SNAP0.VALID : Fld := ⟨0x23000c, 31, 31⟩
def PATH_SNAP0.SYNCED : Fld := ⟨0x23000c, 30, 30⟩
def PATH_SNAP0.CLOSING : Fld := ⟨0x23000c, 29, 29⟩
def PATH_SNAP0.INGRESS : Fld := ⟨0x23000c, 28, 28⟩
def PATH_SNAP0.EPOCH : Fld := ⟨0x23000c, 27, 26⟩
def PATH_SNAP0.NEW_EPOCH : Fld := ⟨0x23000c, 25, 24⟩
def PATH_SNAP0.NEXT : Fld := ⟨0x23000c, 13, 0⟩
def PATH_SNAP1 : Nat := 0x230010
def PATH_SNAP1.SKEW : Fld := ⟨0x230010, 31, 0⟩
def PATH_SNAP2 : Nat := 0x230014
def PATH_SNAP2.PENDED : Fld := ⟨0x230014, 24, 16⟩
def PATH_SNAP2.HELD : Fld := ⟨0x230014, 8, 0⟩
def PAIR_CFG : Nat := 0x240000
def PAIR_CFG.PREFER : Fld := ⟨0x240000, 2, 2⟩
def PAIR_CFG.MODE : Fld := ⟨0x240000, 1, 0⟩
def PAIR_TIMERS : Nat := 0x240004
def PAIR_TIMERS.CKPT_PERIOD : Fld := ⟨0x240004, 31, 22⟩
def PAIR_TIMERS.HB_MISS : Fld := ⟨0x240004, 15, 12⟩
def PAIR_TIMERS.FENCE_WAIT : Fld := ⟨0x240004, 7, 0⟩
def PAIR_BUS_FENCE : Nat := 0x240008
def PAIR_BUS_FENCE.BUS_FENCE : Fld := ⟨0x240008, 15, 0⟩
def PAIR_STATUS : Nat := 0x24000c
def PAIR_STATUS.ROLE : Fld := ⟨0x24000c, 31, 28⟩
def PAIR_STATUS.PEER_SEEN : Fld := ⟨0x24000c, 27, 27⟩
def PAIR_STATUS.PEER_FENCED : Fld := ⟨0x24000c, 26, 26⟩
def PAIR_STATUS.SELF_FENCED : Fld := ⟨0x24000c, 25, 25⟩
def PAIR_STATUS.FORCING : Fld := ⟨0x24000c, 24, 24⟩
def PAIR_CKPT_STATUS : Nat := 0x240010
def PAIR_CKPT_STATUS.SEQ : Fld := ⟨0x240010, 31, 18⟩
def PAIR_CKPT_STATUS.SIZE : Fld := ⟨0x240010, 17, 0⟩
def PAIR_TWIN (p : Nat) : Nat := 0x240100 + p * 4
def PAIR_TWIN.RTAG_STD (p : Nat) : Fld := ⟨0x240100 + p * 4, 8, 8⟩
def PAIR_TWIN.VALID (p : Nat) : Fld := ⟨0x240100 + p * 4, 7, 7⟩
def PAIR_TWIN.PEER_PORT (p : Nat) : Fld := ⟨0x240100 + p * 4, 6, 0⟩
/-! Registers of 11_bus_gateway.md. -/

def GW_CTRL : Nat := 0x2c0000
def GW_CTRL.SIG_EN : Fld := ⟨0x2c0000, 4, 4⟩
def GW_CTRL.TS_DOM : Fld := ⟨0x2c0000, 1, 0⟩
def GW_STATUS : Nat := 0x2c0004
def GW_STATUS.ACT_GEN : Fld := ⟨0x2c0004, 31, 16⟩
def GW_STATUS.COPYING : Fld := ⟨0x2c0004, 15, 15⟩
def GW_STATUS.DIRTY : Fld := ⟨0x2c0004, 14, 14⟩
def GW_SRC_MAC_LO : Nat := 0x2c0008
def GW_SRC_MAC_LO.MAC : Fld := ⟨0x2c0008, 31, 0⟩
def GW_SRC_MAC_HI : Nat := 0x2c000c
def GW_SRC_MAC_HI.MAC : Fld := ⟨0x2c000c, 15, 0⟩
def GW_CH_STATUS (n : Nat) : Nat := 0x2c0400 + n * 4
def GW_CH_STATUS.SEQ (n : Nat) : Fld := ⟨0x2c0400 + n * 4, 31, 24⟩
def GW_CH_STATUS.PDUS (n : Nat) : Fld := ⟨0x2c0400 + n * 4, 21, 16⟩
def GW_CH_STATUS.BYTES (n : Nat) : Fld := ⟨0x2c0400 + n * 4, 15, 0⟩
def LEG_CAN_MODE (n : Nat) : Nat := 0x2d0000 + n * 0x100
def LEG_CAN_MODE.BO_DELAY (n : Nat) : Fld := ⟨0x2d0000 + n * 0x100, 31, 16⟩
def LEG_CAN_MODE.BO_AUTO (n : Nat) : Fld := ⟨0x2d0000 + n * 0x100, 15, 15⟩
def LEG_CAN_MODE.TMS_EN (n : Nat) : Fld := ⟨0x2d0000 + n * 0x100, 14, 14⟩
def LEG_CAN_MODE.XL_ERRS (n : Nat) : Fld := ⟨0x2d0000 + n * 0x100, 13, 13⟩
def LEG_CAN_MODE.XL_EN (n : Nat) : Fld := ⟨0x2d0000 + n * 0x100, 12, 12⟩
def LEG_CAN_MODE.FD_EN (n : Nat) : Fld := ⟨0x2d0000 + n * 0x100, 11, 11⟩
def LEG_CAN_MODE.MODE (n : Nat) : Fld := ⟨0x2d0000 + n * 0x100, 1, 0⟩
def LEG_CAN_NBT (n : Nat) : Nat := 0x2d0004 + n * 0x100
def LEG_CAN_NBT.BRP_M1 (n : Nat) : Fld := ⟨0x2d0004 + n * 0x100, 31, 24⟩
def LEG_CAN_NBT.TSEG1_M1 (n : Nat) : Fld := ⟨0x2d0004 + n * 0x100, 23, 16⟩
def LEG_CAN_NBT.TSEG2_M1 (n : Nat) : Fld := ⟨0x2d0004 + n * 0x100, 15, 9⟩
def LEG_CAN_NBT.SJW_M1 (n : Nat) : Fld := ⟨0x2d0004 + n * 0x100, 8, 2⟩
def LEG_CAN_DBT (n : Nat) : Nat := 0x2d0008 + n * 0x100
def LEG_CAN_DBT.BRP_M1 (n : Nat) : Fld := ⟨0x2d0008 + n * 0x100, 31, 24⟩
def LEG_CAN_DBT.TSEG1_M1 (n : Nat) : Fld := ⟨0x2d0008 + n * 0x100, 23, 16⟩
def LEG_CAN_DBT.TSEG2_M1 (n : Nat) : Fld := ⟨0x2d0008 + n * 0x100, 15, 9⟩
def LEG_CAN_DBT.SJW_M1 (n : Nat) : Fld := ⟨0x2d0008 + n * 0x100, 8, 2⟩
def LEG_CAN_XBT (n : Nat) : Nat := 0x2d000c + n * 0x100
def LEG_CAN_XBT.BRP_M1 (n : Nat) : Fld := ⟨0x2d000c + n * 0x100, 31, 24⟩
def LEG_CAN_XBT.TSEG1_M1 (n : Nat) : Fld := ⟨0x2d000c + n * 0x100, 23, 16⟩
def LEG_CAN_XBT.TSEG2_M1 (n : Nat) : Fld := ⟨0x2d000c + n * 0x100, 15, 9⟩
def LEG_CAN_XBT.SJW_M1 (n : Nat) : Fld := ⟨0x2d000c + n * 0x100, 8, 2⟩
def LEG_CAN_TDC (n : Nat) : Nat := 0x2d0010 + n * 0x100
def LEG_CAN_TDC.TDCO_FD (n : Nat) : Fld := ⟨0x2d0010 + n * 0x100, 15, 8⟩
def LEG_CAN_TDC.TDCO_XL (n : Nat) : Fld := ⟨0x2d0010 + n * 0x100, 7, 0⟩
def LEG_CAN_STATUS (n : Nat) : Nat := 0x2d0014 + n * 0x100
def LEG_CAN_STATUS.STATE (n : Nat) : Fld := ⟨0x2d0014 + n * 0x100, 31, 30⟩
def LEG_CAN_STATUS.BAD_WR (n : Nat) : Fld := ⟨0x2d0014 + n * 0x100, 29, 29⟩
def LEG_CAN_STATUS.LOADED (n : Nat) : Fld := ⟨0x2d0014 + n * 0x100, 28, 24⟩
def LEG_CAN_STATUS.REC (n : Nat) : Fld := ⟨0x2d0014 + n * 0x100, 23, 16⟩
def LEG_CAN_STATUS.SLOT_FULL (n : Nat) : Fld := ⟨0x2d0014 + n * 0x100, 9, 9⟩
def LEG_CAN_STATUS.TEC (n : Nat) : Fld := ⟨0x2d0014 + n * 0x100, 8, 0⟩
def LEG_LIN_CFG (n : Nat) : Nat := 0x2d2000 + n * 0x100
def LEG_LIN_CFG.BAUD (n : Nat) : Fld := ⟨0x2d2000 + n * 0x100, 31, 16⟩
def LEG_LIN_CFG.AUTOBAUD (n : Nat) : Fld := ⟨0x2d2000 + n * 0x100, 15, 15⟩
def LEG_LIN_CFG.ROLE (n : Nat) : Fld := ⟨0x2d2000 + n * 0x100, 1, 0⟩
def LEG_LIN_STATUS (n : Nat) : Nat := 0x2d2004 + n * 0x100
def LEG_LIN_STATUS.TABLE (n : Nat) : Fld := ⟨0x2d2004 + n * 0x100, 30, 28⟩
def LEG_LIN_STATUS.ENTRY (n : Nat) : Fld := ⟨0x2d2004 + n * 0x100, 21, 16⟩
def LEG_LIN_STATUS.BAD_WR (n : Nat) : Fld := ⟨0x2d2004 + n * 0x100, 0, 0⟩
def LEG_LIN_ID (n : Nat) (k : Nat) : Nat := 0x2d2080 + n * 0x100 + k * 4
def LEG_LIN_ID.LEN (n : Nat) (k : Nat) : Fld := ⟨0x2d2080 + n * 0x100 + k * 4, 11, 8⟩
def LEG_LIN_ID.DIR (n : Nat) (k : Nat) : Fld := ⟨0x2d2080 + n * 0x100 + k * 4, 5, 4⟩
def LEG_LIN_ID.ENHANCED (n : Nat) (k : Nat) : Fld := ⟨0x2d2080 + n * 0x100 + k * 4, 0, 0⟩
def LEG_FR_CFG : Nat := 0x2d4000
def LEG_FR_CFG.RATE : Fld := ⟨0x2d4000, 31, 30⟩
def LEG_FR_CFG.CHANNELS : Fld := ⟨0x2d4000, 29, 28⟩
def LEG_FR_CFG.COLDSTART : Fld := ⟨0x2d4000, 27, 27⟩
def LEG_FR_CFG.SYNC : Fld := ⟨0x2d4000, 26, 26⟩
def LEG_FR_CFG.KEY_SLOT : Fld := ⟨0x2d4000, 25, 16⟩
def LEG_FR_CYCLE : Nat := 0x2d4004
def LEG_FR_CYCLE.CYCLE_MT : Fld := ⟨0x2d4004, 31, 16⟩
def LEG_FR_CYCLE.MT_NS : Fld := ⟨0x2d4004, 15, 0⟩
def LEG_FR_SEGMENTS : Nat := 0x2d4008
def LEG_FR_SEGMENTS.STATIC_SLOTS : Fld := ⟨0x2d4008, 31, 22⟩
def LEG_FR_SEGMENTS.SLOT_MT : Fld := ⟨0x2d4008, 21, 12⟩
def LEG_FR_SEGMENTS.MINISLOT_MT : Fld := ⟨0x2d4008, 11, 7⟩
def LEG_FR_SEGMENTS.PAYLOAD_WORDS : Fld := ⟨0x2d4008, 6, 0⟩
def LEG_FR_DYN : Nat := 0x2d400c
def LEG_FR_DYN.MINISLOTS : Fld := ⟨0x2d400c, 12, 0⟩
def LEG_FR_STATUS : Nat := 0x2d4010
def LEG_FR_STATUS.POC : Fld := ⟨0x2d4010, 31, 28⟩
def LEG_FR_STATUS.CYCLE : Fld := ⟨0x2d4010, 21, 16⟩
def LEG_FR_STATUS.BAD_WR : Fld := ⟨0x2d4010, 0, 0⟩
/-! Registers of 12_security_and_keys.md. -/

def KEY_STATUS : Nat := 0x70000
def KEY_STATUS.USED : Fld := ⟨0x70000, 24, 16⟩
def KEY_STATUS.TRNG_OK : Fld := ⟨0x70000, 2, 2⟩
def KEY_STATUS.RESTORED : Fld := ⟨0x70000, 1, 1⟩
def KEY_STATUS.COMMIT_BUSY : Fld := ⟨0x70000, 0, 0⟩
def KEY_SLOT_SEL : Nat := 0x70004
def KEY_SLOT_SEL.SLOT : Fld := ⟨0x70004, 7, 0⟩
def KEY_SLOT_INFO : Nat := 0x70008
def KEY_SLOT_INFO.VALID : Fld := ⟨0x70008, 31, 31⟩
def KEY_SLOT_INFO.ATTR : Fld := ⟨0x70008, 30, 29⟩
def KEY_SLOT_INFO.BOUND : Fld := ⟨0x70008, 28, 28⟩
def KEY_SLOT_INFO.EXPORTABLE : Fld := ⟨0x70008, 27, 27⟩
def KEY_SLOT_INFO.HALF : Fld := ⟨0x70008, 26, 26⟩
def KEY_SLOT_INFO.PENDING : Fld := ⟨0x70008, 25, 24⟩
def KEY_SLOT_INFO.SA_REFS : Fld := ⟨0x70008, 23, 20⟩
def KEY_SLOT_INFO.GEN : Fld := ⟨0x70008, 15, 0⟩
def KEY_MEAS (n : Nat) : Nat := 0x70040 + n * 4
def KEY_MEAS.M (n : Nat) : Fld := ⟨0x70040 + n * 4, 31, 0⟩
def KEY_ISK_X (n : Nat) : Nat := 0x70100 + n * 4
def KEY_ISK_X.K (n : Nat) : Fld := ⟨0x70100 + n * 4, 31, 0⟩
def KEY_ISK_Y (n : Nat) : Nat := 0x70130 + n * 4
def KEY_ISK_Y.K (n : Nat) : Fld := ⟨0x70130 + n * 4, 31, 0⟩
def KEY_FRESH_CTL (n : Nat) : Nat := 0x71000 + n * 0x10
def KEY_FRESH_CTL.VALID (n : Nat) : Fld := ⟨0x71000 + n * 0x10, 31, 31⟩
def KEY_FRESH_CTL.WIDTH (n : Nat) : Fld := ⟨0x71000 + n * 0x10, 30, 24⟩
def KEY_FRESH_RSV (n : Nat) : Nat := 0x71004 + n * 0x10
def KEY_FRESH_VALUE (n : Nat) : Nat := 0x71008 + n * 0x10
def CRY_LOCK : Nat := 0x80000
def CRY_LOCK.HELD : Fld := ⟨0x80000, 31, 31⟩
def CRY_LOCK.OWNER : Fld := ⟨0x80000, 30, 29⟩
def CRY_LOCK.RELEASE : Fld := ⟨0x80000, 1, 1⟩
def CRY_LOCK.TAKE : Fld := ⟨0x80000, 0, 0⟩
def CRY_CTRL : Nat := 0x80004
def CRY_CTRL.LOCK_IDLE : Fld := ⟨0x80004, 31, 16⟩
def CRY_CTRL.DUMMY_MAX : Fld := ⟨0x80004, 3, 0⟩
def CRY_STATUS : Nat := 0x80008
def CRY_STATUS.SERVICE : Fld := ⟨0x80008, 31, 31⟩
def CRY_STATUS.BUSY : Fld := ⟨0x80008, 30, 30⟩
def CRY_MSEC_CTRL (p : Nat) : Nat := 0x81000 + p * 0x100
def CRY_MSEC_CTRL.ENABLE (p : Nat) : Fld := ⟨0x81000 + p * 0x100, 31, 31⟩
def CRY_MSEC_CTRL.VALIDATE (p : Nat) : Fld := ⟨0x81000 + p * 0x100, 30, 29⟩
def CRY_MSEC_CTRL.REPLAY (p : Nat) : Fld := ⟨0x81000 + p * 0x100, 28, 28⟩
def CRY_MSEC_CTRL.WINDOW (p : Nat) : Fld := ⟨0x81000 + p * 0x100, 23, 0⟩
def CRY_MSEC_CTRL_PL : Nat := 0x85b00
def CRY_MSEC_CTRL_PL.ENABLE : Fld := ⟨0x85b00, 31, 31⟩
def CRY_MSEC_CTRL_PL.VALIDATE : Fld := ⟨0x85b00, 30, 29⟩
def CRY_MSEC_CTRL_PL.REPLAY : Fld := ⟨0x85b00, 28, 28⟩
def CRY_MSEC_CTRL_PL.WINDOW : Fld := ⟨0x85b00, 23, 0⟩
def CRY_MSEC_SCI_LO (p : Nat) : Nat := 0x81004 + p * 0x100
def CRY_MSEC_SCI_LO.SCI (p : Nat) : Fld := ⟨0x81004 + p * 0x100, 31, 0⟩
def CRY_MSEC_SCI_LO_PL : Nat := 0x85b04
def CRY_MSEC_SCI_LO_PL.SCI : Fld := ⟨0x85b04, 31, 0⟩
def CRY_MSEC_SCI_HI (p : Nat) : Nat := 0x81008 + p * 0x100
def CRY_MSEC_SCI_HI.SCI (p : Nat) : Fld := ⟨0x81008 + p * 0x100, 31, 0⟩
def CRY_MSEC_SCI_HI_PL : Nat := 0x85b08
def CRY_MSEC_SCI_HI_PL.SCI : Fld := ⟨0x85b08, 31, 0⟩
def CRY_MSEC_STATUS (p : Nat) : Nat := 0x8100c + p * 0x100
def CRY_MSEC_STATUS.HOLD (p : Nat) : Fld := ⟨0x8100c + p * 0x100, 31, 31⟩
def CRY_MSEC_STATUS.SOFT (p : Nat) : Fld := ⟨0x8100c + p * 0x100, 30, 30⟩
def CRY_MSEC_STATUS.TX_AN (p : Nat) : Fld := ⟨0x8100c + p * 0x100, 29, 28⟩
def CRY_MSEC_STATUS.TX_VALID (p : Nat) : Fld := ⟨0x8100c + p * 0x100, 27, 27⟩
def CRY_MSEC_STATUS.BAD_WR (p : Nat) : Fld := ⟨0x8100c + p * 0x100, 26, 26⟩
def CRY_MSEC_STATUS.TX_SAS (p : Nat) : Fld := ⟨0x8100c + p * 0x100, 11, 8⟩
def CRY_MSEC_STATUS.RX_SAS (p : Nat) : Fld := ⟨0x8100c + p * 0x100, 7, 0⟩
def CRY_MSEC_STATUS_PL : Nat := 0x85b0c
def CRY_MSEC_STATUS_PL.HOLD : Fld := ⟨0x85b0c, 31, 31⟩
def CRY_MSEC_STATUS_PL.SOFT : Fld := ⟨0x85b0c, 30, 30⟩
def CRY_MSEC_STATUS_PL.TX_AN : Fld := ⟨0x85b0c, 29, 28⟩
def CRY_MSEC_STATUS_PL.TX_VALID : Fld := ⟨0x85b0c, 27, 27⟩
def CRY_MSEC_STATUS_PL.BAD_WR : Fld := ⟨0x85b0c, 26, 26⟩
def CRY_MSEC_STATUS_PL.TX_SAS : Fld := ⟨0x85b0c, 11, 8⟩
def CRY_MSEC_STATUS_PL.RX_SAS : Fld := ⟨0x85b0c, 7, 0⟩
/-! Registers of 13_fabric_and_transom.md. -/

def FAB_CFG : Nat := 0x250000
def FAB_CFG.SEAT_VALID : Fld := ⟨0x250000, 31, 31⟩
def FAB_CFG.SEAT : Fld := ⟨0x250000, 23, 16⟩
def FAB_CFG.COORD_PRIO : Fld := ⟨0x250000, 15, 8⟩
def FAB_CFG.REMOTE_RST : Fld := ⟨0x250000, 3, 3⟩
def FAB_CFG.SIZE_MODE : Fld := ⟨0x250000, 2, 1⟩
def FAB_CFG.DFP_EN : Fld := ⟨0x250000, 0, 0⟩
def FAB_PORTS : Nat := 0x250004
def FAB_PORTS.PL : Fld := ⟨0x250004, 8, 8⟩
def FAB_PORTS.BB : Fld := ⟨0x250004, 7, 0⟩
def FAB_TIMERS : Nat := 0x250008
def FAB_TIMERS.HELLO_MISS : Fld := ⟨0x250008, 19, 16⟩
def FAB_TIMERS.GEN_GRACE : Fld := ⟨0x250008, 15, 0⟩
def FAB_STATUS : Nat := 0x25000c
def FAB_STATUS.ADDR_VALID : Fld := ⟨0x25000c, 31, 31⟩
def FAB_STATUS.COORD : Fld := ⟨0x25000c, 30, 30⟩
def FAB_STATUS.SUCCESSOR : Fld := ⟨0x25000c, 29, 29⟩
def FAB_STATUS.LARGE : Fld := ⟨0x25000c, 28, 28⟩
def FAB_STATUS.WITHDRAWING : Fld := ⟨0x25000c, 27, 27⟩
def FAB_STATUS.DEVICES : Fld := ⟨0x25000c, 24, 16⟩
def FAB_STATUS.ADDR : Fld := ⟨0x25000c, 15, 8⟩
def FAB_STATUS.COORD_ADDR : Fld := ⟨0x25000c, 7, 0⟩
def FAB_LIVE : Nat := 0x250014
def FAB_LIVE.LIVE_OK : Fld := ⟨0x250014, 15, 0⟩
def FAB_ROOT (n : Nat) : Nat := 0x250020 + n * 4
def FAB_ROOT.ROOT (n : Nat) : Fld := ⟨0x250020 + n * 4, 31, 0⟩
def FAB_COST (p : Nat) : Nat := 0x250080 + p * 4
def FAB_COST.COST (p : Nat) : Fld := ⟨0x250080 + p * 4, 15, 0⟩
def FAB_NBR (p : Nat) : Nat := 0x250100 + p * 4
def FAB_NBR.UP (p : Nat) : Fld := ⟨0x250100 + p * 4, 31, 31⟩
def FAB_NBR.NBR_ADDR_VALID (p : Nat) : Fld := ⟨0x250100 + p * 4, 30, 30⟩
def FAB_NBR.NBR_PORT (p : Nat) : Fld := ⟨0x250100 + p * 4, 29, 23⟩
def FAB_NBR.NBR_ADDR (p : Nat) : Fld := ⟨0x250100 + p * 4, 15, 8⟩
def FAB_FLOOD_TREE : Nat := 0x250140
def FAB_FLOOD_TREE.TREE : Fld := ⟨0x250140, 8, 0⟩
def TRN_WIN_CFG (h : Nat) (n : Nat) : Nat := 0x260000 + h * 0x400 + n * 0x20
def TRN_WIN_CFG.VALID (h : Nat) (n : Nat) : Fld := ⟨0x260000 + h * 0x400 + n * 0x20, 31, 31⟩
def TRN_WIN_CFG.LANE (h : Nat) (n : Nat) : Fld := ⟨0x260000 + h * 0x400 + n * 0x20, 30, 30⟩
def TRN_WIN_CFG.FENCE_EN (h : Nat) (n : Nat) : Fld := ⟨0x260000 + h * 0x400 + n * 0x20, 29, 29⟩
def TRN_WIN_CFG.DEVICE (h : Nat) (n : Nat) : Fld := ⟨0x260000 + h * 0x400 + n * 0x20, 23, 16⟩
def TRN_WIN_CFG.SPACE (h : Nat) (n : Nat) : Fld := ⟨0x260000 + h * 0x400 + n * 0x20, 15, 14⟩
def TRN_WIN_CFG.TARGET (h : Nat) (n : Nat) : Fld := ⟨0x260000 + h * 0x400 + n * 0x20, 13, 12⟩
def TRN_WIN_CFG.WIDTH (h : Nat) (n : Nat) : Fld := ⟨0x260000 + h * 0x400 + n * 0x20, 11, 10⟩
def TRN_WIN_CFG.BURST_M1 (h : Nat) (n : Nat) : Fld := ⟨0x260000 + h * 0x400 + n * 0x20, 3, 0⟩
def TRN_WIN_BASE (h : Nat) (n : Nat) : Nat := 0x260004 + h * 0x400 + n * 0x20
def TRN_WIN_BASE.BASE (h : Nat) (n : Nat) : Fld := ⟨0x260004 + h * 0x400 + n * 0x20, 23, 0⟩
def TRN_WIN_STATUS (h : Nat) (n : Nat) : Nat := 0x260008 + h * 0x400 + n * 0x20
def TRN_WIN_STATUS.ERR (h : Nat) (n : Nat) : Fld := ⟨0x260008 + h * 0x400 + n * 0x20, 31, 31⟩
def TRN_WIN_STATUS.CAUSE (h : Nat) (n : Nat) : Fld := ⟨0x260008 + h * 0x400 + n * 0x20, 30, 28⟩
def TRN_WIN_STATUS.NEXT_TAG (h : Nat) (n : Nat) : Fld := ⟨0x260008 + h * 0x400 + n * 0x20, 15, 0⟩
def TRN_WIN_ERR_TAG (h : Nat) (n : Nat) : Nat := 0x26000c + h * 0x400 + n * 0x20
def TRN_WIN_ERR_TAG.TAG (h : Nat) (n : Nat) : Fld := ⟨0x26000c + h * 0x400 + n * 0x20, 15, 0⟩
def TRN_LOCK_CTRL (h : Nat) : Nat := 0x260800 + h * 0x10
def TRN_LOCK_CTRL.UNLOCK (h : Nat) : Fld := ⟨0x260800 + h * 0x10, 17, 17⟩
def TRN_LOCK_CTRL.LOCK (h : Nat) : Fld := ⟨0x260800 + h * 0x10, 16, 16⟩
def TRN_LOCK_CTRL.WINMASK (h : Nat) : Fld := ⟨0x260800 + h * 0x10, 15, 0⟩
def TRN_LOCK_STATUS (h : Nat) : Nat := 0x260804 + h * 0x10
def TRN_LOCK_STATUS.WINMASK (h : Nat) : Fld := ⟨0x260804 + h * 0x10, 31, 16⟩
def TRN_LOCK_STATUS.STATE (h : Nat) : Fld := ⟨0x260804 + h * 0x10, 2, 0⟩
def TRN_CTRL : Nat := 0x260900
def TRN_CTRL.TIMEOUT : Fld := ⟨0x260900, 31, 16⟩
def TRN_CTRL.LOCK_MAX : Fld := ⟨0x260900, 15, 8⟩
def TRN_FAR : Nat := 0x260904
def TRN_FAR.LBUS_EN : Fld := ⟨0x260904, 1, 1⟩
def TRN_FAR.REG_EN : Fld := ⟨0x260904, 0, 0⟩
def TRN_SPI (m : Nat) : Nat := 0x260a00 + m * 4
def TRN_SPI.DIV (m : Nat) : Fld := ⟨0x260a00 + m * 4, 31, 24⟩
def TRN_SPI.RD_OP (m : Nat) : Fld := ⟨0x260a00 + m * 4, 23, 16⟩
def TRN_SPI.WR_OP (m : Nat) : Fld := ⟨0x260a00 + m * 4, 15, 8⟩
def TRN_SPI.MODE (m : Nat) : Fld := ⟨0x260a00 + m * 4, 7, 6⟩
def TRN_SPI.ADDR_BYTES (m : Nat) : Fld := ⟨0x260a00 + m * 4, 5, 4⟩
def TRN_SPI.DUMMY (m : Nat) : Fld := ⟨0x260a00 + m * 4, 3, 0⟩
def TRN_CS (c : Nat) : Nat := 0x260a20 + c * 4
def TRN_CS.BIG (c : Nat) : Fld := ⟨0x260a20 + c * 4, 31, 31⟩
def TRN_CS.WAIT_EN (c : Nat) : Fld := ⟨0x260a20 + c * 4, 30, 30⟩
def TRN_CS.SETUP (c : Nat) : Fld := ⟨0x260a20 + c * 4, 23, 16⟩
def TRN_CS.STROBE (c : Nat) : Fld := ⟨0x260a20 + c * 4, 15, 8⟩
def TRN_CS.HOLD (c : Nat) : Fld := ⟨0x260a20 + c * 4, 7, 0⟩
def TRN_POLL0 (e : Nat) : Nat := 0x260b00 + e * 0x10
def TRN_POLL0.VALID (e : Nat) : Fld := ⟨0x260b00 + e * 0x10, 31, 31⟩
def TRN_POLL0.KIND (e : Nat) : Fld := ⟨0x260b00 + e * 0x10, 30, 30⟩
def TRN_POLL0.SPACE (e : Nat) : Fld := ⟨0x260b00 + e * 0x10, 29, 28⟩
def TRN_POLL0.TARGET (e : Nat) : Fld := ⟨0x260b00 + e * 0x10, 27, 26⟩
def TRN_POLL0.WIDTH (e : Nat) : Fld := ⟨0x260b00 + e * 0x10, 25, 24⟩
def TRN_POLL0.NOTIFY_DEV (e : Nat) : Fld := ⟨0x260b00 + e * 0x10, 23, 16⟩
def TRN_POLL0.NOTIFY_EN (e : Nat) : Fld := ⟨0x260b00 + e * 0x10, 15, 15⟩
def TRN_POLL0.INTERVAL (e : Nat) : Fld := ⟨0x260b00 + e * 0x10, 14, 0⟩
def TRN_POLL1 (e : Nat) : Nat := 0x260b04 + e * 0x10
def TRN_POLL1.ADDR (e : Nat) : Fld := ⟨0x260b04 + e * 0x10, 23, 0⟩
def TRN_POLL2 (e : Nat) : Nat := 0x260b08 + e * 0x10
def TRN_POLL2.MASK (e : Nat) : Fld := ⟨0x260b08 + e * 0x10, 31, 0⟩
def TRN_POLL3 (e : Nat) : Nat := 0x260b0c + e * 0x10
def TRN_POLL3.LAST (e : Nat) : Fld := ⟨0x260b0c + e * 0x10, 31, 0⟩
/-! Registers of 14_supervisor_firmware_faults.md. -/

def SUP_STATUS : Nat := 0x60000
def SUP_STATUS.STATE : Fld := ⟨0x60000, 31, 29⟩
def SUP_STATUS.RUN_SLOT : Fld := ⟨0x60000, 28, 28⟩
def SUP_STATUS.TRIAL : Fld := ⟨0x60000, 27, 27⟩
def SUP_STATUS.RESYNC : Fld := ⟨0x60000, 26, 26⟩
def SUP_STATUS.ODD : Fld := ⟨0x60000, 25, 24⟩
def SUP_CTRL : Nat := 0x60004
def SUP_CTRL.RESTART : Fld := ⟨0x60004, 0, 0⟩
def SUP_CFG : Nat := 0x60008
def SUP_CFG.CONFIRM_S : Fld := ⟨0x60008, 31, 16⟩
def SUP_CFG.RESYNC_LIMIT : Fld := ⟨0x60008, 7, 4⟩
def SUP_CORE (c : Nat) : Nat := 0x60010 + c * 4
def SUP_CORE.RESYNCS (c : Nat) : Fld := ⟨0x60010 + c * 4, 31, 16⟩
def SUP_CORE.SRAM_CORR (c : Nat) : Fld := ⟨0x60010 + c * 4, 15, 0⟩
def SUP_SLOT_STATE (s : Nat) : Nat := 0x60020 + s * 0x10
def SUP_SLOT_STATE.STATE (s : Nat) : Fld := ⟨0x60020 + s * 0x10, 31, 29⟩
def SUP_SLOT_STATE.ARC (s : Nat) : Fld := ⟨0x60020 + s * 0x10, 22, 16⟩
def SUP_SLOT_STATE.BLOCKS (s : Nat) : Fld := ⟨0x60020 + s * 0x10, 8, 0⟩
def SUP_SLOT_VERSION (s : Nat) : Nat := 0x60024 + s * 0x10
def SUP_SLOT_VERSION.VERSION (s : Nat) : Fld := ⟨0x60024 + s * 0x10, 31, 0⟩
def SUP_ARC_FUSE : Nat := 0x60040
def SUP_ARC_FUSE.ARC : Fld := ⟨0x60040, 6, 0⟩
def SUP_SETTINGS : Nat := 0x60044
def SUP_SETTINGS.VERSION : Fld := ⟨0x60044, 31, 16⟩
def SUP_SETTINGS.GEN : Fld := ⟨0x60044, 15, 0⟩
def SUP_SELFTEST : Nat := 0x60048
def SUP_SELFTEST.DONE : Fld := ⟨0x60048, 31, 31⟩
def SUP_SELFTEST.PASS : Fld := ⟨0x60048, 30, 30⟩
def SUP_SELFTEST.SEEN : Fld := ⟨0x60048, 3, 0⟩
def FLT_CTRL : Nat := 0x50000
def FLT_CTRL.GRACE : Fld := ⟨0x50000, 15, 0⟩
def FLT_STATUS : Nat := 0x50004
def FLT_STATUS.F3 : Fld := ⟨0x50004, 31, 31⟩
def FLT_STATUS.PENDING : Fld := ⟨0x50004, 15, 1⟩
def FLT_STATUS.FIRST_VALID : Fld := ⟨0x50004, 0, 0⟩
def FLT_ACK : Nat := 0x50008
def FLT_ACK.GROUP : Fld := ⟨0x50008, 15, 1⟩
def FLT_GRACE_LEFT : Nat := 0x5000c
def FLT_GRACE_LEFT.GROUP : Fld := ⟨0x5000c, 19, 16⟩
def FLT_GRACE_LEFT.LEFT : Fld := ⟨0x5000c, 15, 0⟩
def FLT_FIRST (n : Nat) : Nat := 0x50010 + n * 4
def FLT_FIRST.ENTRY (n : Nat) : Fld := ⟨0x50010 + n * 4, 31, 0⟩
def FLT_FIRST_CLR : Nat := 0x50030
def FLT_FIRST_CLR.CLEAR : Fld := ⟨0x50030, 0, 0⟩
def FLT_HIST_SEL : Nat := 0x50040
def FLT_HIST_SEL.INDEX : Fld := ⟨0x50040, 3, 0⟩
def FLT_HIST (n : Nat) : Nat := 0x50044 + n * 4
def FLT_HIST.ENTRY (n : Nat) : Fld := ⟨0x50044 + n * 4, 31, 0⟩
def FLT_CRASH (n : Nat) : Nat := 0x50080 + n * 4
def FLT_CRASH.ENTRY (n : Nat) : Fld := ⟨0x50080 + n * 4, 31, 0⟩
def FLT_CRASH_INFO : Nat := 0x500a0
def FLT_CRASH_INFO.VALID : Fld := ⟨0x500a0, 31, 31⟩
def FLT_CRASH_INFO.COUNT : Fld := ⟨0x500a0, 15, 0⟩
/-! Registers of 15_network_sleep_wake.md. -/

def WAKE_CTRL : Nat := 0x300000
def WAKE_CTRL.EN : Fld := ⟨0x300000, 8, 8⟩
def WAKE_CTRL.SLEEP_STATE : Fld := ⟨0x300000, 2, 0⟩
def WAKE_TIMERS : Nat := 0x300004
def WAKE_TIMERS.WAKE_HOLD : Fld := ⟨0x300004, 31, 16⟩
def WAKE_TIMERS.COMMIT_LEAD : Fld := ⟨0x300004, 15, 8⟩
def WAKE_TIMERS.SETTLE : Fld := ⟨0x300004, 7, 0⟩
def WAKE_HOST_VOTE : Nat := 0x300008
def WAKE_HOST_VOTE.HB : Fld := ⟨0x300008, 31, 16⟩
def WAKE_HOST_VOTE.HA : Fld := ⟨0x300008, 15, 0⟩
def WAKE_STATUS : Nat := 0x30000c
def WAKE_STATUS.FABRIC_AWAKE : Fld := ⟨0x30000c, 31, 16⟩
def WAKE_STATUS.LOCAL_VOTE : Fld := ⟨0x30000c, 15, 0⟩
def WAKE_HOLD_STATUS : Nat := 0x300010
def WAKE_HOLD_STATUS.HOLD : Fld := ⟨0x300010, 31, 16⟩
def WAKE_HOLD_STATUS.FORCED : Fld := ⟨0x300010, 15, 0⟩
def WAKE_PART : Nat := 0x300014
def WAKE_PART.SETTLING : Fld := ⟨0x300014, 31, 16⟩
def WAKE_PART.PART : Fld := ⟨0x300014, 15, 0⟩
def WAKE_INH_CTRL : Nat := 0x300018
def WAKE_INH_CTRL.LEVEL : Fld := ⟨0x300018, 23, 16⟩
def WAKE_INH_CTRL.FORCE_HIGH : Fld := ⟨0x300018, 7, 0⟩
def WAKE_IN_CFG (n : Nat) : Nat := 0x300020 + n * 4
def WAKE_IN_CFG.CLUSTERS (n : Nat) : Fld := ⟨0x300020 + n * 4, 31, 16⟩
def WAKE_IN_CFG.EN (n : Nat) : Fld := ⟨0x300020 + n * 4, 15, 15⟩
def WAKE_IN_CFG.MODE (n : Nat) : Fld := ⟨0x300020 + n * 4, 14, 13⟩
def WAKE_IN_CFG.FILTER (n : Nat) : Fld := ⟨0x300020 + n * 4, 5, 0⟩
def WAKE_LAST : Nat := 0x300030
def WAKE_LAST.SOURCE : Fld := ⟨0x300030, 31, 24⟩
def WAKE_LAST.WHICH : Fld := ⟨0x300030, 23, 16⟩
def WAKE_LAST.CLUSTERS : Fld := ⟨0x300030, 15, 0⟩
def WAKE_CLUSTER (c : Nat) (w : Nat) : Nat := 0x300100 + c * 0x10 + w * 4
def WAKE_CLUSTER.MEMBERS (c : Nat) (w : Nat) : Fld := ⟨0x300100 + c * 0x10 + w * 4, 31, 0⟩
def WAKE_PORT_CFG (p : Nat) : Nat := 0x301000 + p * 8
def WAKE_PORT_CFG.WAKE_EN (p : Nat) : Fld := ⟨0x301000 + p * 8, 31, 31⟩
def WAKE_PORT_CFG.ASLEEP (p : Nat) : Fld := ⟨0x301000 + p * 8, 30, 30⟩
def WAKE_PORT_CFG.INH_SENSE (p : Nat) : Fld := ⟨0x301000 + p * 8, 29, 29⟩
def WAKE_PORT_CFG.RXD_WAKE (p : Nat) : Fld := ⟨0x301000 + p * 8, 28, 28⟩
def WAKE_PORT_CFG.INH_VALID (p : Nat) : Fld := ⟨0x301000 + p * 8, 27, 27⟩
def WAKE_PORT_CFG.INH_GRP (p : Nat) : Fld := ⟨0x301000 + p * 8, 26, 24⟩
def WAKE_PORT_CFG.WAKE_IMG_EN (p : Nat) : Fld := ⟨0x301000 + p * 8, 23, 23⟩
def WAKE_PORT_CFG.WAKE_IMG (p : Nat) : Fld := ⟨0x301000 + p * 8, 22, 13⟩
def WAKE_PORT_CFG.FILTER (p : Nat) : Fld := ⟨0x301000 + p * 8, 5, 0⟩
def WAKE_PORT_STATUS (p : Nat) : Nat := 0x301004 + p * 8
def WAKE_PORT_STATUS.STATE (p : Nat) : Fld := ⟨0x301004 + p * 8, 31, 30⟩
def WAKE_PORT_STATUS.TARGET (p : Nat) : Fld := ⟨0x301004 + p * 8, 29, 28⟩
def WAKE_PORT_STATUS.SETTLING (p : Nat) : Fld := ⟨0x301004 + p * 8, 27, 27⟩
def WAKE_PORT_STATUS.WOKE (p : Nat) : Fld := ⟨0x301004 + p * 8, 0, 0⟩
/-! Registers of 16_power_ladder.md. -/

def PWR_CTRL : Nat := 0x20000
def PWR_CTRL.AUTO_IDLE : Fld := ⟨0x20000, 31, 16⟩
def PWR_CTRL.AUTO_STATE : Fld := ⟨0x20000, 1, 0⟩
def PWR_STATUS : Nat := 0x20004
def PWR_STATUS.BRACE : Fld := ⟨0x20004, 31, 31⟩
def PWR_STATUS.LAST_STATE : Fld := ⟨0x20004, 30, 28⟩
def PWR_STATUS.LAST_CAUSE : Fld := ⟨0x20004, 27, 24⟩
def PWR_STATUS.LAST_RESULT : Fld := ⟨0x20004, 23, 16⟩
def PWR_STATUS.LAST_EXIT_US : Fld := ⟨0x20004, 15, 0⟩
def PWR_RESTORE : Nat := 0x20008
def PWR_RESTORE.DELTA_KIB : Fld := ⟨0x20008, 31, 16⟩
def PWR_RESTORE.RESTORE_KIB : Fld := ⟨0x20008, 15, 0⟩
def PWR_CORE_INH : Nat := 0x2000c
def PWR_CORE_INH.VALID : Fld := ⟨0x2000c, 3, 3⟩
def PWR_CORE_INH.GROUP : Fld := ⟨0x2000c, 2, 0⟩
def PWR_RESET_CAUSE : Nat := 0x20010
def PWR_RESET_CAUSE.RAIL : Fld := ⟨0x20010, 11, 8⟩
def PWR_RESET_CAUSE.CAUSE : Fld := ⟨0x20010, 3, 0⟩
def PWR_THERM_CFG : Nat := 0x20020
def PWR_THERM_CFG.TJ_WARN : Fld := ⟨0x20020, 7, 0⟩
def PWR_RAIL_CFG (r : Nat) : Nat := 0x20040 + r * 8
def PWR_RAIL_CFG.FILTER (r : Nat) : Fld := ⟨0x20040 + r * 8, 23, 16⟩
def PWR_RAIL_CFG.WARN (r : Nat) : Fld := ⟨0x20040 + r * 8, 4, 0⟩
def PWR_RAIL_STATUS (r : Nat) : Nat := 0x20044 + r * 8
def PWR_RAIL_STATUS.WARNING (r : Nat) : Fld := ⟨0x20044 + r * 8, 31, 31⟩
def PWR_RAIL_STATUS.MIN_MV (r : Nat) : Fld := ⟨0x20044 + r * 8, 15, 0⟩
def PWR_TJ (n : Nat) : Nat := 0x200a0 + n * 4
def PWR_TJ.TJ (n : Nat) : Fld := ⟨0x200a0 + n * 4, 15, 0⟩
def CLK_SPREAD : Nat := 0x30000
def CLK_SPREAD.EN_SUP : Fld := ⟨0x30000, 9, 9⟩
def CLK_SPREAD.EN_CORE : Fld := ⟨0x30000, 8, 8⟩
def CLK_SPREAD.DEPTH : Fld := ⟨0x30000, 3, 0⟩
def CLK_STATUS : Nat := 0x30004
def CLK_STATUS.REF_OK : Fld := ⟨0x30004, 31, 31⟩
def CLK_STATUS.LOCK_CORE : Fld := ⟨0x30004, 30, 30⟩
def CLK_STATUS.LOCK_SUP : Fld := ⟨0x30004, 29, 29⟩
def CLK_STATUS.LOCK_AUX : Fld := ⟨0x30004, 28, 28⟩
def CLK_STATUS.SPREADING : Fld := ⟨0x30004, 27, 27⟩
def CLK_RAMP : Nat := 0x30008
def CLK_RAMP.QUEUED : Fld := ⟨0x30008, 15, 8⟩
def CLK_RAMP.ACTIVE : Fld := ⟨0x30008, 2, 0⟩
def CLK_ISLANDS : Nat := 0x30010
def CLK_ISLANDS.HOST : Fld := ⟨0x30010, 25, 24⟩
def CLK_ISLANDS.TK : Fld := ⟨0x30010, 23, 22⟩
def CLK_ISLANDS.SUP : Fld := ⟨0x30010, 21, 20⟩
def CLK_ISLANDS.LEG : Fld := ⟨0x30010, 19, 18⟩
def CLK_ISLANDS.PMEM : Fld := ⟨0x30010, 17, 16⟩
def CLK_ISLANDS.MSEC : Fld := ⟨0x30010, 15, 8⟩
def CLK_ISLANDS.QUAD : Fld := ⟨0x30010, 7, 0⟩
def CLK_SLICE (w : Nat) : Nat := 0x30014 + w * 4
def CLK_SLICE.SLICE (w : Nat) : Fld := ⟨0x30014 + w * 4, 31, 0⟩
/-! Registers of 05_forwarding_tables.md. -/

def QD_LEARN_OK (q : Nat) : Nat := 0x100040 + q * 0x40000
def QD_LEARN_DROP (q : Nat) : Nat := 0x100048 + q * 0x40000
def QD_MOVE (q : Nat) : Nat := 0x100050 + q * 0x40000
def QD_MOVE_CONTEND (q : Nat) : Nat := 0x100058 + q * 0x40000
def QD_PIN_CONFLICT (q : Nat) : Nat := 0x100060 + q * 0x40000
def QD_RAKE_REMOVED (q : Nat) : Nat := 0x100068 + q * 0x40000
def QD_RAKE_ABORT (q : Nat) : Nat := 0x100070 + q * 0x40000
def QD_FLOOD (q : Nat) : Nat := 0x100078 + q * 0x40000
def QD_FID_DROP (q : Nat) : Nat := 0x100080 + q * 0x40000
def QD_NOROUTE_DROP (q : Nat) : Nat := 0x100088 + q * 0x40000
def QD_DISCARD (q : Nat) : Nat := 0x100090 + q * 0x40000
def QD_ECC_CORR_CNT (q : Nat) : Nat := 0x100098 + q * 0x40000
def QD_REHASH_REMOVED (q : Nat) : Nat := 0x1000a0 + q * 0x40000
/-! Registers of 06_hedge.md. -/

def QD_HEDGE_RULE_DENY (q : Nat) : Nat := 0x120040 + q * 0x40000
def QD_HEDGE_ZONE_DENY (q : Nat) : Nat := 0x120048 + q * 0x40000
def QD_HEDGE_METER_DROP (q : Nat) : Nat := 0x120050 + q * 0x40000
def QD_HEDGE_REDIRECT (q : Nat) : Nat := 0x120058 + q * 0x40000
def QD_HEDGE_MIRROR (q : Nat) : Nat := 0x120060 + q * 0x40000
def QD_HEDGE_CTRL_PASS (q : Nat) : Nat := 0x120068 + q * 0x40000
def QD_HEDGE_LOG_LOST (q : Nat) : Nat := 0x120070 + q * 0x40000
def QD_HEDGE_ECC_CORR_CNT (q : Nat) : Nat := 0x120078 + q * 0x40000
def QD_PH_HIT (q : Nat) : Nat := 0x13f008 + q * 0x40000
def QD_PH_OPENED (q : Nat) : Nat := 0x13f010 + q * 0x40000
def QD_PH_REFUSED (q : Nat) : Nat := 0x13f018 + q * 0x40000
def QD_PH_EXPIRED (q : Nat) : Nat := 0x13f020 + q * 0x40000
/-! Registers of 08_queues_and_shutters.md. -/

def EGR_TX_FRAMES (p : Nat) : Nat := 0x211040 + p * 0x100
def EGR_DROP (p : Nat) : Nat := 0x211048 + p * 0x100
def EGR_GATE_TOO_SMALL (p : Nat) : Nat := 0x211050 + p * 0x100
def EGR_GATE_OVERRUN (p : Nat) : Nat := 0x211058 + p * 0x100
def EGR_MARKED (p : Nat) : Nat := 0x211060 + p * 0x100
def EGR_MARK_NOT_ECT (p : Nat) : Nat := 0x211068 + p * 0x100
def EGR_PAUSE_SENT (p : Nat) : Nat := 0x211070 + p * 0x100
def EGR_PAUSE_RCVD (p : Nat) : Nat := 0x211078 + p * 0x100
def EGR_PAUSE_IGNORED (p : Nat) : Nat := 0x211080 + p * 0x100
def EGR_PREEMPT_FRAG (p : Nat) : Nat := 0x211088 + p * 0x100
def EGR_PARK_ENTER (p : Nat) : Nat := 0x211090 + p * 0x100
def EGR_PARK_NS (p : Nat) : Nat := 0x211098 + p * 0x100
/-! Registers of 09_admission_and_policing.md. -/

def ADM_REQ_CNT : Nat := 0x220100
def ADM_REFUSE_CNT : Nat := 0x220108
def ADM_EXPIRED_CNT : Nat := 0x220110
/-! Registers of 10_redundancy.md. -/

def PATH_VOID_SENT : Nat := 0x230040
def PATH_VOID_RCVD : Nat := 0x230048
def PATH_WINDOW_GAP : Nat := 0x230050
def PATH_ELIM_TOTAL : Nat := 0x230058
def PAIR_TAKEOVERS : Nat := 0x240040
def PAIR_CKPT_OK : Nat := 0x240048
def PAIR_CKPT_BAD : Nat := 0x240050
def PAIR_HB_LOST : Nat := 0x240058
/-! Registers of 11_bus_gateway.md. -/

def GW_NO_ROUTE : Nat := 0x2c0040
def GW_NO_CHANNEL : Nat := 0x2c0048
def GW_ENCAP_TOOBIG : Nat := 0x2c0050
def GW_BATCH_SENT : Nat := 0x2c0058
def GW_BATCH_PDUS : Nat := 0x2c0060
def GW_UNPACKED : Nat := 0x2c0068
def GW_UNPACK_SKIP : Nat := 0x2c0070
def GW_UNPACK_BAD : Nat := 0x2c0078
def GW_SIG_COPIES : Nat := 0x2c0080
def GW_SIG_TIMEOUTS : Nat := 0x2c0088
def GW_SIG_SENT : Nat := 0x2c0090
/-! Registers of 12_security_and_keys.md. -/

def CRY_MSEC_TX_PROTECTED (p : Nat) : Nat := 0x81040 + p * 0x100
def CRY_MSEC_TX_PROTECTED_PL : Nat := 0x85b40
def CRY_MSEC_TX_HELD (p : Nat) : Nat := 0x81048 + p * 0x100
def CRY_MSEC_TX_HELD_PL : Nat := 0x85b48
def CRY_MSEC_RX_OK (p : Nat) : Nat := 0x81050 + p * 0x100
def CRY_MSEC_RX_OK_PL : Nat := 0x85b50
def CRY_MSEC_ICV_FAIL (p : Nat) : Nat := 0x81058 + p * 0x100
def CRY_MSEC_ICV_FAIL_PL : Nat := 0x85b58
def CRY_MSEC_NO_TAG (p : Nat) : Nat := 0x81060 + p * 0x100
def CRY_MSEC_NO_TAG_PL : Nat := 0x85b60
def CRY_MSEC_NO_SA (p : Nat) : Nat := 0x81068 + p * 0x100
def CRY_MSEC_NO_SA_PL : Nat := 0x85b68
def CRY_MSEC_LATE (p : Nat) : Nat := 0x81070 + p * 0x100
def CRY_MSEC_LATE_PL : Nat := 0x85b70
/-! Registers of 13_fabric_and_transom.md. -/

def FAB_BAD_TAG : Nat := 0x250200
def FAB_TTL_DROP : Nat := 0x250208
def FAB_NOADDR_DROP : Nat := 0x250210
def FAB_TREE_DROP : Nat := 0x250218
def FAB_RELAYED : Nat := 0x250220
def TRN_REQ (h : Nat) : Nat := 0x260c00 + h * 0x40
def TRN_ERR (h : Nat) : Nat := 0x260c08 + h * 0x40
def TRN_FENCED (h : Nat) : Nat := 0x260c10 + h * 0x40
def TRN_RETRANSMIT (h : Nat) : Nat := 0x260c18 + h * 0x40
/-! Registers of 14_supervisor_firmware_faults.md. -/

def FLT_F1_CNT : Nat := 0x50100
def FLT_F2_CNT : Nat := 0x50108
def FLT_ESC_FN : Nat := 0x50110
def FLT_ESC_WARM : Nat := 0x50118
/-! Registers of 15_network_sleep_wake.md. -/

def WAKE_EVENTS : Nat := 0x300200
def WAKE_FALSE_CNT : Nat := 0x300208
def WAKE_ABORTS : Nat := 0x300210
def WAKE_COMMITS : Nat := 0x300218
def WAKE_STUCK : Nat := 0x300220
/-! Registers of 16_power_ladder.md. -/

def PWR_ENTRIES : Nat := 0x20100
def PWR_REFUSED : Nat := 0x20108
def PWR_ABORTED : Nat := 0x20110
def PWR_BRACE_CNT : Nat := 0x20118
def PWR_BRACE_NS : Nat := 0x20120
def PWR_RESIDENCY (s : Nat) : Nat := 0x20128 + s * 8
/-! Registers of 07_time.md. -/

def TIME_PTP_DISCARD : Nat := 0x40080
/-! Registers of 11_bus_gateway.md. -/

def LEG_CAN_TX_OK (n : Nat) : Nat := 0x2d0040 + n * 0x100
def LEG_CAN_ARB_LOST (n : Nat) : Nat := 0x2d0048 + n * 0x100
def LEG_CAN_ERR_FRAMES (n : Nat) : Nat := 0x2d0050 + n * 0x100
def LEG_CAN_BUS_OFF (n : Nat) : Nat := 0x2d0058 + n * 0x100
/-! Registers of 14_supervisor_firmware_faults.md. -/

def SUP_WINDOWS : Nat := 0x60080
/-! Registers of 07_time.md. -/

def TIME_SNAP_LT_NS : Nat := 0x40044
def TIME_SNAP_LT_NS.VALUE : Fld := ⟨0x40044, 31, 0⟩
def TIME_SNAP_LT_SEC_LO : Nat := 0x40048
def TIME_SNAP_LT_SEC_LO.VALUE : Fld := ⟨0x40048, 31, 0⟩
def TIME_SNAP_LT_SEC_HI : Nat := 0x4004c
def TIME_SNAP_LT_SEC_HI.VALUE : Fld := ⟨0x4004c, 15, 0⟩
def TIME_SNAP_D0_NS : Nat := 0x40050
def TIME_SNAP_D0_NS.VALUE : Fld := ⟨0x40050, 31, 0⟩
def TIME_SNAP_D0_SEC_LO : Nat := 0x40054
def TIME_SNAP_D0_SEC_LO.VALUE : Fld := ⟨0x40054, 31, 0⟩
def TIME_SNAP_D0_SEC_HI : Nat := 0x40058
def TIME_SNAP_D0_SEC_HI.VALUE : Fld := ⟨0x40058, 15, 0⟩
def TIME_SNAP_D1_NS : Nat := 0x4005c
def TIME_SNAP_D1_NS.VALUE : Fld := ⟨0x4005c, 31, 0⟩
def TIME_SNAP_D1_SEC_LO : Nat := 0x40060
def TIME_SNAP_D1_SEC_LO.VALUE : Fld := ⟨0x40060, 31, 0⟩
def TIME_SNAP_D1_SEC_HI : Nat := 0x40064
def TIME_SNAP_D1_SEC_HI.VALUE : Fld := ⟨0x40064, 15, 0⟩
def TIME_OUT_NEXT_NS (n : Nat) : Nat := 0x40108 + n * 0x20
def TIME_OUT_NEXT_NS.VALUE (n : Nat) : Fld := ⟨0x40108 + n * 0x20, 31, 0⟩
def TIME_OUT_NEXT_SEC_LO (n : Nat) : Nat := 0x4010c + n * 0x20
def TIME_OUT_NEXT_SEC_LO.VALUE (n : Nat) : Fld := ⟨0x4010c + n * 0x20, 31, 0⟩
def TIME_OUT_NEXT_SEC_HI (n : Nat) : Nat := 0x40110 + n * 0x20
def TIME_OUT_NEXT_SEC_HI.VALUE (n : Nat) : Fld := ⟨0x40110 + n * 0x20, 15, 0⟩
def TIME_IN_LAST_NS (n : Nat) : Nat := 0x40208 + n * 0x20
def TIME_IN_LAST_NS.VALUE (n : Nat) : Fld := ⟨0x40208 + n * 0x20, 31, 0⟩
def TIME_IN_LAST_SEC_LO (n : Nat) : Nat := 0x4020c + n * 0x20
def TIME_IN_LAST_SEC_LO.VALUE (n : Nat) : Fld := ⟨0x4020c + n * 0x20, 31, 0⟩
/-! Registers of 12_security_and_keys.md. -/

def KEY_SLOT_NONCE_LO : Nat := 0x7000c
def KEY_SLOT_NONCE_LO.VALUE : Fld := ⟨0x7000c, 31, 0⟩
def KEY_SLOT_NONCE_HI : Nat := 0x70010
def KEY_SLOT_NONCE_HI.VALUE : Fld := ⟨0x70010, 31, 0⟩
/-! Registers of 03_host_rings.md. -/

def MSIX_ADDR_LO (h : Nat) (v : Nat) : Nat := 0x18000 + h * 0x4000 + v * 0x10
def MSIX_ADDR_LO.VALUE (h : Nat) (v : Nat) : Fld := ⟨0x18000 + h * 0x4000 + v * 0x10, 31, 2⟩
def MSIX_ADDR_HI (h : Nat) (v : Nat) : Nat := 0x18004 + h * 0x4000 + v * 0x10
def MSIX_ADDR_HI.VALUE (h : Nat) (v : Nat) : Fld := ⟨0x18004 + h * 0x4000 + v * 0x10, 31, 0⟩
def MSIX_DATA (h : Nat) (v : Nat) : Nat := 0x18008 + h * 0x4000 + v * 0x10
def MSIX_DATA.VALUE (h : Nat) (v : Nat) : Fld := ⟨0x18008 + h * 0x4000 + v * 0x10, 31, 0⟩
def MSIX_CTRL (h : Nat) (v : Nat) : Nat := 0x1800c + h * 0x4000 + v * 0x10
def MSIX_CTRL.MASK (h : Nat) (v : Nat) : Fld := ⟨0x1800c + h * 0x4000 + v * 0x10, 0, 0⟩
def MSIX_PBA (h : Nat) (w : Nat) : Nat := 0x18400 + h * 0x4000 + w * 4
def MSIX_PBA.VALUE (h : Nat) (w : Nat) : Fld := ⟨0x18400 + h * 0x4000 + w * 4, 31, 0⟩
/-! Registers of 13_fabric_and_transom.md. -/

def FAB_GEN : Nat := 0x250010
def FAB_GEN.GENERATION : Fld := ⟨0x250010, 31, 0⟩

end Sys2Proof.Machine
end

