-- ==== Sys2Proof/Machine/RegTable.lean ====
section
/-! DEFINITION. The register table: for every register of R33 its address, its index ranges, and for each field the bits, the
access code (R7), the retention class (R10) and the reset value, as the chapters' register tables give them. Generated from
the spec's tables; the values that depend on the index or are fused stand in `resetField`. -/

namespace Sys2Proof.Machine

/-- Access codes (R7). -/
inductive Acc where
  | ro | rw | w1c | w1s | wo | rws
deriving DecidableEq, Repr

/-- Retention classes (R10). -/
inductive Keep where
  | a | k | h | s
deriving DecidableEq, Repr

/-- One field of a register. -/
structure FieldSpec where
  hi : Nat
  lo : Nat
  acc : Acc
  keep : Keep
  reset : Nat
deriving DecidableEq, Repr

/-- One register, or an array of them: base address, index ranges as (count, stride) from the outermost, whether it is a
64-bit counter of two words (R36), and its fields. -/
structure RegRow where
  base : Nat
  dims : List (Nat × Nat)
  wide : Bool
  fields : List FieldSpec
deriving DecidableEq, Repr

/-- Registers of 01_architecture.md. -/
def regRows01a : List RegRow := [
  ⟨0, [], false, [⟨31, 16, .ro, .a, 0x872⟩, ⟨15, 12, .ro, .a, 0xb⟩, ⟨11, 8, .ro, .a, 0⟩]⟩,
  ⟨4, [], false, [⟨31, 0, .ro, .a, 0⟩]⟩,
  ⟨8, [], false, [⟨31, 0, .ro, .a, 0⟩]⟩,
  ⟨0x10, [], false, [⟨0, 0, .w1s, .k, 0⟩]⟩,
  ⟨0x14, [], false, [⟨12, 12, .ro, .s, 0⟩, ⟨11, 11, .ro, .s, 0⟩, ⟨10, 10, .ro, .s, 0⟩, ⟨9, 9, .ro, .s, 0⟩, ⟨7, 4, .ro, .s, 0⟩, ⟨3, 0, .ro, .s, 0⟩]⟩,
  ⟨0x18, [], false, [⟨5, 4, .ro, .s, 0⟩, ⟨2, 2, .w1c, .s, 0⟩, ⟨1, 1, .w1c, .s, 0⟩, ⟨0, 0, .w1c, .s, 0⟩]⟩,
  ⟨0x1c, [], false, [⟨21, 2, .ro, .s, 0⟩]⟩,
  ⟨0x20, [], false, [⟨31, 0, .rw, .h, 0⟩]⟩]

/-- Registers of 03_host_rings.md. -/
def regRows03a : List RegRow := [
  ⟨0x14000, [], false, [⟨1, 1, .rws, .s, 0⟩, ⟨0, 0, .w1s, .s, 0⟩]⟩,
  ⟨0x14004, [], false, [⟨1, 1, .w1c, .s, 0⟩, ⟨0, 0, .w1c, .s, 0⟩]⟩,
  ⟨0x10000, [(2, 0x100)], false, [⟨2, 2, .rw, .h, 0⟩, ⟨1, 1, .rw, .h, 0⟩, ⟨0, 0, .rw, .h, 0⟩]⟩,
  ⟨0x10004, [(2, 0x100)], false, [⟨31, 12, .rw, .h, 0⟩]⟩,
  ⟨0x10008, [(2, 0x100)], false, [⟨31, 0, .rw, .h, 0⟩]⟩,
  ⟨0x1000c, [(2, 0x100)], false, [⟨31, 16, .rw, .h, 0x3e8⟩, ⟨8, 0, .rw, .h, 8⟩]⟩,
  ⟨0x10010, [(2, 0x100)], false, [⟨5, 0, .wo, .s, 0⟩]⟩,
  ⟨0x10014, [(2, 0x100)], false, [⟨15, 1, .rw, .k, 0x7fff⟩]⟩,
  ⟨0x10018, [(2, 0x100), (4, 4)], false, [⟨7, 7, .rw, .h, 1⟩, ⟨15, 15, .rw, .h, 1⟩, ⟨23, 23, .rw, .h, 1⟩, ⟨31, 31, .rw, .h, 1⟩, ⟨5, 0, .rw, .h, 0⟩, ⟨13, 8, .rw, .h, 0⟩, ⟨21, 16, .rw, .h, 0⟩, ⟨29, 24, .rw, .h, 0⟩]⟩,
  ⟨0x10028, [(2, 0x100), (2, 4)], false, [⟨5, 0, .rw, .h, 0⟩, ⟨13, 8, .rw, .h, 0⟩, ⟨21, 16, .rw, .h, 0⟩, ⟨29, 24, .rw, .h, 0⟩]⟩,
  ⟨0x10030, [(2, 0x100)], false, [⟨7, 7, .ro, .s, 0⟩, ⟨6, 4, .ro, .s, 0⟩, ⟨3, 1, .ro, .s, 0⟩, ⟨0, 0, .ro, .s, 0⟩]⟩,
  ⟨0x10034, [(2, 0x100)], false, [⟨31, 0, .ro, .s, 0⟩]⟩,
  ⟨0x11000, [(2, 0x1000), (64, 0x40), (4, 0x10)], false, [⟨31, 12, .rw, .h, 0⟩]⟩,
  ⟨0x11004, [(2, 0x1000), (64, 0x40), (4, 0x10)], false, [⟨31, 0, .rw, .h, 0⟩]⟩,
  ⟨0x11008, [(2, 0x1000), (64, 0x40), (4, 0x10)], false, [⟨21, 16, .rw, .h, 0⟩, ⟨12, 8, .rw, .h, 6⟩, ⟨1, 1, .rw, .h, 0⟩, ⟨0, 0, .rw, .h, 0⟩]⟩,
  ⟨0x1100c, [(2, 0x1000), (64, 0x40), (4, 0x10)], false, [⟨31, 30, .ro, .s, 0⟩, ⟨29, 24, .ro, .s, 0⟩, ⟨19, 0, .ro, .s, 0⟩]⟩,
  ⟨0x18800, [(2, 0x4000), (64, 4)], false, [⟨25, 16, .rw, .h, 0⟩, ⟨7, 0, .rw, .h, 1⟩]⟩,
  ⟨0x18000, [(2, 0x4000), (64, 0x10)], false, [⟨31, 2, .rw, .h, 0⟩]⟩,
  ⟨0x18004, [(2, 0x4000), (64, 0x10)], false, [⟨31, 0, .rw, .h, 0⟩]⟩,
  ⟨0x18008, [(2, 0x4000), (64, 0x10)], false, [⟨31, 0, .rw, .h, 0⟩]⟩,
  ⟨0x1800c, [(2, 0x4000), (64, 0x10)], false, [⟨0, 0, .rw, .h, 1⟩]⟩,
  ⟨0x18400, [(2, 0x4000), (2, 4)], false, [⟨31, 0, .ro, .s, 0⟩]⟩]

/-- Registers of 04_frame_path_and_buffers.md. -/
def regRows04a : List RegRow := [
  ⟨0x200000, [], false, [⟨8, 8, .rw, .k, 1⟩, ⟨7, 0, .rw, .k, 0x80⟩]⟩,
  ⟨0x200004, [], false, [⟨1, 0, .ro, .s, 0⟩, ⟨3, 2, .ro, .s, 0⟩, ⟨5, 4, .ro, .s, 0⟩, ⟨7, 6, .ro, .s, 0⟩, ⟨9, 8, .ro, .s, 0⟩, ⟨11, 10, .ro, .s, 0⟩]⟩,
  ⟨0x200008, [], false, [⟨31, 16, .ro, .s, 0⟩, ⟨15, 0, .ro, .s, 0xffff⟩]⟩,
  ⟨0x20000c, [], false, [⟨15, 0, .rw, .k, 0x400⟩]⟩,
  ⟨0x200010, [], false, [⟨31, 0, .ro, .h, 0⟩]⟩,
  ⟨0x200018, [], false, [⟨31, 0, .ro, .h, 0⟩]⟩,
  ⟨0x20001c, [], false, [⟨31, 0, .ro, .h, 0⟩]⟩,
  ⟨0x200014, [], false, [⟨24, 16, .ro, .k, 0x100⟩, ⟨15, 0, .ro, .k, 0x825c⟩]⟩,
  ⟨0x200020, [], false, [⟨31, 31, .ro, .s, 0⟩, ⟨15, 0, .rw, .s, 0⟩]⟩,
  ⟨0x200024, [(4, 4)], false, [⟨31, 0, .ro, .s, 0⟩]⟩,
  ⟨0x200040, [], false, [⟨22, 16, .wo, .s, 0⟩, ⟨15, 0, .wo, .s, 0⟩]⟩,
  ⟨0x200100, [(6, 0x40)], false, [⟨24, 16, .rw, .k, 0⟩, ⟨7, 0, .rw, .k, 0⟩]⟩,
  ⟨0x200104, [(6, 0x40)], false, [⟨24, 16, .ro, .k, 0⟩, ⟨7, 0, .ro, .k, 0⟩]⟩,
  ⟨0x200108, [(6, 0x40)], false, [⟨31, 16, .ro, .a, 0⟩, ⟨15, 0, .ro, .a, 0⟩]⟩,
  ⟨0x20010c, [(6, 0x40)], false, [⟨29, 20, .rw, .k, 0x1e⟩, ⟨19, 10, .rw, .k, 0x7d⟩, ⟨9, 0, .rw, .k, 0xfa⟩]⟩,
  ⟨0x200110, [(6, 0x40)], false, [⟨31, 16, .ro, .k, 0⟩, ⟨15, 0, .ro, .k, 0⟩]⟩,
  ⟨0x200114, [(6, 0x40)], false, [⟨15, 0, .ro, .s, 0⟩]⟩,
  ⟨0x200118, [(6, 0x40)], false, [⟨31, 16, .ro, .s, 0⟩, ⟨15, 0, .ro, .k, 0⟩]⟩,
  ⟨0x200120, [(6, 0x40)], true, [⟨63, 0, .ro, .h, 0⟩]⟩,
  ⟨0x200128, [(6, 0x40)], true, [⟨63, 0, .ro, .h, 0⟩]⟩,
  ⟨0x200130, [(6, 0x40)], false, [⟨0, 0, .w1c, .s, 0⟩]⟩,
  ⟨0x280000, [(76, 0x400)], true, [⟨63, 0, .ro, .h, 0⟩]⟩,
  ⟨0x280008, [(76, 0x400)], true, [⟨63, 0, .ro, .h, 0⟩]⟩,
  ⟨0x280010, [(76, 0x400)], true, [⟨63, 0, .ro, .h, 0⟩]⟩,
  ⟨0x280018, [(76, 0x400)], true, [⟨63, 0, .ro, .h, 0⟩]⟩,
  ⟨0x280020, [(76, 0x400)], true, [⟨63, 0, .ro, .h, 0⟩]⟩,
  ⟨0x280028, [(76, 0x400)], false, [⟨13, 0, .rw, .k, 0x5f2⟩]⟩]

/-- Registers of 05_forwarding_tables.md. -/
def regRows05a : List RegRow := [
  ⟨0x100000, [(4, 0x40000)], false, [⟨1, 1, .rw, .k, 1⟩, ⟨0, 0, .rw, .k, 1⟩]⟩,
  ⟨0x100004, [(4, 0x40000)], false, [⟨31, 0, .ro, .k, 1⟩]⟩,
  ⟨0x100008, [(4, 0x40000)], false, [⟨31, 0, .ro, .s, 0⟩]⟩,
  ⟨0x10000c, [(4, 0x40000)], false, [⟨31, 31, .ro, .s, 0⟩, ⟨27, 24, .ro, .s, 0⟩, ⟨8, 0, .ro, .s, 0⟩]⟩,
  ⟨0x100010, [(4, 0x40000)], false, [⟨31, 16, .ro, .s, 0⟩, ⟨15, 0, .ro, .s, 0⟩]⟩,
  ⟨0x100014, [(4, 0x40000)], false, [⟨15, 0, .rw, .k, 0x96⟩]⟩,
  ⟨0x100018, [(4, 0x40000)], false, [⟨23, 16, .rw, .k, 0x10⟩, ⟨15, 0, .rw, .k, 0x7d0⟩]⟩,
  ⟨0x10001c, [(4, 0x40000)], false, [⟨31, 0, .rw, .k, 0⟩]⟩,
  ⟨0x101000, [(4, 0x40000), (76, 4)], false, [⟨13, 13, .rw, .k, 1⟩, ⟨12, 12, .rw, .k, 0⟩, ⟨11, 0, .rw, .k, 1⟩]⟩,
  ⟨0x100040, [(4, 0x40000)], true, [⟨63, 0, .ro, .h, 0⟩]⟩,
  ⟨0x100048, [(4, 0x40000)], true, [⟨63, 0, .ro, .h, 0⟩]⟩,
  ⟨0x100050, [(4, 0x40000)], true, [⟨63, 0, .ro, .h, 0⟩]⟩,
  ⟨0x100058, [(4, 0x40000)], true, [⟨63, 0, .ro, .h, 0⟩]⟩,
  ⟨0x100060, [(4, 0x40000)], true, [⟨63, 0, .ro, .h, 0⟩]⟩,
  ⟨0x100068, [(4, 0x40000)], true, [⟨63, 0, .ro, .h, 0⟩]⟩,
  ⟨0x100070, [(4, 0x40000)], true, [⟨63, 0, .ro, .h, 0⟩]⟩,
  ⟨0x100078, [(4, 0x40000)], true, [⟨63, 0, .ro, .h, 0⟩]⟩,
  ⟨0x100080, [(4, 0x40000)], true, [⟨63, 0, .ro, .h, 0⟩]⟩,
  ⟨0x100088, [(4, 0x40000)], true, [⟨63, 0, .ro, .h, 0⟩]⟩,
  ⟨0x100090, [(4, 0x40000)], true, [⟨63, 0, .ro, .h, 0⟩]⟩,
  ⟨0x100098, [(4, 0x40000)], true, [⟨63, 0, .ro, .h, 0⟩]⟩,
  ⟨0x1000a0, [(4, 0x40000)], true, [⟨63, 0, .ro, .h, 0⟩]⟩]

/-- Registers of 06_hedge.md. -/
def regRows06a : List RegRow := [
  ⟨0x120000, [(4, 0x40000)], false, [⟨1, 1, .rw, .k, 1⟩, ⟨0, 0, .rw, .k, 1⟩]⟩,
  ⟨0x120004, [(4, 0x40000)], false, [⟨31, 16, .ro, .k, 0⟩, ⟨15, 15, .ro, .s, 0⟩, ⟨14, 14, .ro, .k, 0⟩, ⟨12, 0, .ro, .k, 0⟩]⟩,
  ⟨0x13f000, [(4, 0x40000)], false, [⟨14, 0, .ro, .s, 0⟩]⟩,
  ⟨0x120040, [(4, 0x40000)], true, [⟨63, 0, .ro, .h, 0⟩]⟩,
  ⟨0x120048, [(4, 0x40000)], true, [⟨63, 0, .ro, .h, 0⟩]⟩,
  ⟨0x120050, [(4, 0x40000)], true, [⟨63, 0, .ro, .h, 0⟩]⟩,
  ⟨0x120058, [(4, 0x40000)], true, [⟨63, 0, .ro, .h, 0⟩]⟩,
  ⟨0x120060, [(4, 0x40000)], true, [⟨63, 0, .ro, .h, 0⟩]⟩,
  ⟨0x120068, [(4, 0x40000)], true, [⟨63, 0, .ro, .h, 0⟩]⟩,
  ⟨0x120070, [(4, 0x40000)], true, [⟨63, 0, .ro, .h, 0⟩]⟩,
  ⟨0x120078, [(4, 0x40000)], true, [⟨63, 0, .ro, .h, 0⟩]⟩,
  ⟨0x13f008, [(4, 0x40000)], true, [⟨63, 0, .ro, .h, 0⟩]⟩,
  ⟨0x13f010, [(4, 0x40000)], true, [⟨63, 0, .ro, .h, 0⟩]⟩,
  ⟨0x13f018, [(4, 0x40000)], true, [⟨63, 0, .ro, .h, 0⟩]⟩,
  ⟨0x13f020, [(4, 0x40000)], true, [⟨63, 0, .ro, .h, 0⟩]⟩]

/-- Registers of 07_time.md. -/
def regRows07a : List RegRow := [
  ⟨0x40010, [(2, 0x10)], false, [⟨31, 16, .rw, .k, 0x3e8⟩, ⟨8, 8, .rw, .k, 1⟩, ⟨6, 0, .rw, .k, 0⟩]⟩,
  ⟨0x40014, [(2, 0x10)], false, [⟨31, 31, .ro, .s, 1⟩, ⟨30, 30, .ro, .s, 0⟩, ⟨29, 29, .ro, .s, 0⟩, ⟨28, 28, .ro, .s, 0⟩, ⟨0, 0, .w1c, .s, 0⟩]⟩,
  ⟨0x40018, [(2, 0x10)], false, [⟨31, 0, .ro, .k, 0⟩]⟩,
  ⟨0x4001c, [(2, 0x10)], false, [⟨31, 0, .ro, .s, 0⟩]⟩,
  ⟨0x40040, [], false, [⟨0, 0, .rws, .s, 0⟩]⟩,
  ⟨0x40100, [(4, 0x20)], false, [⟨1, 1, .rw, .k, 0⟩, ⟨0, 0, .rw, .k, 0⟩]⟩,
  ⟨0x40104, [(4, 0x20)], false, [⟨31, 31, .ro, .s, 0⟩, ⟨30, 30, .ro, .s, 0⟩, ⟨29, 28, .ro, .s, 0⟩, ⟨27, 26, .ro, .s, 0⟩]⟩,
  ⟨0x40200, [(4, 0x20)], false, [⟨13, 8, .rw, .k, 1⟩, ⟨5, 4, .rw, .k, 0⟩, ⟨3, 2, .rw, .k, 0⟩, ⟨0, 0, .rw, .k, 0⟩]⟩,
  ⟨0x40204, [(4, 0x20)], false, [⟨11, 8, .ro, .s, 0⟩, ⟨0, 0, .w1c, .s, 0⟩]⟩,
  ⟨0x40210, [(4, 0x20)], false, [⟨17, 17, .ro, .s, 0⟩, ⟨16, 16, .ro, .s, 0⟩, ⟨15, 0, .ro, .s, 0⟩]⟩,
  ⟨0x41000, [(76, 4)], false, [⟨27, 18, .rw, .k, 0⟩, ⟨17, 8, .rw, .k, 0⟩, ⟨2, 2, .rw, .k, 0⟩, ⟨1, 1, .rw, .k, 0⟩, ⟨0, 0, .rw, .k, 1⟩]⟩,
  ⟨0x40080, [], true, [⟨63, 0, .ro, .h, 0⟩]⟩,
  ⟨0x40044, [], false, [⟨31, 0, .ro, .s, 0⟩]⟩,
  ⟨0x40048, [], false, [⟨31, 0, .ro, .s, 0⟩]⟩,
  ⟨0x4004c, [], false, [⟨15, 0, .ro, .s, 0⟩]⟩,
  ⟨0x40050, [], false, [⟨31, 0, .ro, .s, 0⟩]⟩,
  ⟨0x40054, [], false, [⟨31, 0, .ro, .s, 0⟩]⟩,
  ⟨0x40058, [], false, [⟨15, 0, .ro, .s, 0⟩]⟩,
  ⟨0x4005c, [], false, [⟨31, 0, .ro, .s, 0⟩]⟩,
  ⟨0x40060, [], false, [⟨31, 0, .ro, .s, 0⟩]⟩,
  ⟨0x40064, [], false, [⟨15, 0, .ro, .s, 0⟩]⟩,
  ⟨0x40108, [(4, 0x20)], false, [⟨31, 0, .ro, .s, 0⟩]⟩,
  ⟨0x4010c, [(4, 0x20)], false, [⟨31, 0, .ro, .s, 0⟩]⟩,
  ⟨0x40110, [(4, 0x20)], false, [⟨15, 0, .ro, .s, 0⟩]⟩,
  ⟨0x40208, [(4, 0x20)], false, [⟨31, 0, .ro, .s, 0⟩]⟩,
  ⟨0x4020c, [(4, 0x20)], false, [⟨31, 0, .ro, .s, 0⟩]⟩]

/-- Registers of 08_queues_and_shutters.md. -/
def regRows08a : List RegRow := [
  ⟨0x210000, [], false, [⟨1, 1, .rw, .k, 1⟩, ⟨0, 0, .rw, .k, 1⟩]⟩,
  ⟨0x210004, [], false, [⟨31, 16, .rw, .k, 0x1f4⟩, ⟨15, 0, .rw, .k, 0x3a98⟩]⟩,
  ⟨0x210008, [], false, [⟨15, 0, .ro, .s, 0⟩]⟩,
  ⟨0x21000c, [], false, [⟨31, 0, .ro, .s, 0⟩]⟩,
  ⟨0x210010, [], false, [⟨9, 0, .rw, .k, 0xfa⟩]⟩,
  ⟨0x210020, [(6, 4)], false, [⟨31, 16, .rw, .k, 0x7d0⟩, ⟨15, 0, .rw, .k, 0x28⟩]⟩,
  ⟨0x210040, [], false, [⟨25, 16, .rw, .k, 0xfa⟩, ⟨15, 8, .rw, .k, 0x28⟩, ⟨7, 0, .rw, .k, 0x10⟩]⟩,
  ⟨0x210044, [], false, [⟨7, 0, .rw, .k, 0x78⟩]⟩,
  ⟨0x210050, [(4, 4)], false, [⟨31, 30, .ro, .s, 0⟩, ⟨8, 0, .ro, .s, 0⟩]⟩,
  ⟨0x210060, [], false, [⟨31, 16, .rw, .k, 0xa⟩, ⟨15, 8, .rw, .k, 8⟩, ⟨7, 0, .rw, .k, 7⟩]⟩,
  ⟨0x210064, [], false, [⟨31, 31, .rw, .s, 0⟩, ⟨14, 8, .rw, .s, 0⟩, ⟨2, 0, .rw, .s, 0⟩]⟩,
  ⟨0x210080, [(16, 4)], false, [⟨31, 0, .ro, .s, 0⟩]⟩,
  ⟨0x2100c0, [(16, 4)], false, [⟨31, 0, .ro, .s, 0⟩]⟩,
  ⟨0x211000, [(76, 0x100)], false, [⟨11, 11, .rw, .k, 0⟩, ⟨10, 10, .rw, .k, 0⟩, ⟨9, 9, .rw, .k, 0⟩, ⟨8, 8, .rw, .k, 1⟩, ⟨0, 0, .rw, .k, 1⟩]⟩,
  ⟨0x211004, [(76, 0x100)], false, [⟨31, 30, .ro, .s, 0⟩, ⟨29, 29, .ro, .s, 0⟩, ⟨28, 28, .ro, .s, 0⟩, ⟨27, 27, .ro, .s, 0⟩, ⟨26, 25, .ro, .s, 0⟩, ⟨23, 16, .ro, .s, 0xff⟩, ⟨15, 8, .ro, .s, 0⟩]⟩,
  ⟨0x211008, [(76, 0x100)], false, [⟨25, 16, .ro, .s, 0⟩, ⟨15, 0, .ro, .k, 0⟩]⟩,
  ⟨0x21100c, [(76, 0x100)], false, [⟨7, 0, .rw, .k, 0⟩]⟩,
  ⟨0x211010, [(76, 0x100)], false, [⟨23, 0, .rw, .k, 0x7800⟩]⟩,
  ⟨0x211014, [(76, 0x100)], false, [⟨31, 16, .rw, .k, 0x20⟩, ⟨15, 0, .rw, .k, 0x40⟩]⟩,
  ⟨0x211018, [(76, 0x100)], false, [⟨31, 24, .rw, .k, 0xa⟩, ⟨15, 8, .rw, .k, 0xa⟩, ⟨7, 0, .rw, .k, 5⟩]⟩,
  ⟨0x211020, [(76, 0x100), (8, 4)], false, [⟨31, 16, .ro, .s, 0⟩, ⟨15, 0, .ro, .s, 0⟩]⟩,
  ⟨0x211040, [(76, 0x100)], true, [⟨63, 0, .ro, .h, 0⟩]⟩,
  ⟨0x211048, [(76, 0x100)], true, [⟨63, 0, .ro, .h, 0⟩]⟩,
  ⟨0x211050, [(76, 0x100)], true, [⟨63, 0, .ro, .h, 0⟩]⟩,
  ⟨0x211058, [(76, 0x100)], true, [⟨63, 0, .ro, .h, 0⟩]⟩,
  ⟨0x211060, [(76, 0x100)], true, [⟨63, 0, .ro, .h, 0⟩]⟩,
  ⟨0x211068, [(76, 0x100)], true, [⟨63, 0, .ro, .h, 0⟩]⟩,
  ⟨0x211070, [(76, 0x100)], true, [⟨63, 0, .ro, .h, 0⟩]⟩,
  ⟨0x211078, [(76, 0x100)], true, [⟨63, 0, .ro, .h, 0⟩]⟩,
  ⟨0x211080, [(76, 0x100)], true, [⟨63, 0, .ro, .h, 0⟩]⟩]

/-- Registers of 08_queues_and_shutters.md. -/
def regRows08b : List RegRow := [
  ⟨0x211088, [(76, 0x100)], true, [⟨63, 0, .ro, .h, 0⟩]⟩,
  ⟨0x211090, [(76, 0x100)], true, [⟨63, 0, .ro, .h, 0⟩]⟩,
  ⟨0x211098, [(76, 0x100)], true, [⟨63, 0, .ro, .h, 0⟩]⟩]

/-- Registers of 09_admission_and_policing.md. -/
def regRows09a : List RegRow := [
  ⟨0x220000, [], false, [⟨0, 0, .rw, .k, 1⟩]⟩,
  ⟨0x220004, [], false, [⟨31, 16, .rw, .k, 0x3e8⟩, ⟨15, 0, .rw, .k, 0x32⟩]⟩,
  ⟨0x220008, [], false, [⟨31, 31, .ro, .s, 0⟩, ⟨28, 16, .ro, .s, 0⟩, ⟨12, 0, .ro, .k, 0⟩]⟩,
  ⟨0x22000c, [], false, [⟨31, 16, .ro, .s, 0⟩, ⟨15, 0, .ro, .s, 0⟩]⟩,
  ⟨0x220040, [(9, 4)], false, [⟨15, 0, .rw, .k, 0x3e8⟩]⟩,
  ⟨0x220080, [(24, 4)], false, [⟨31, 24, .rw, .k, 0⟩, ⟨5, 0, .ro, .k, 0⟩]⟩,
  ⟨0x221000, [(24, 0x100), (32, 8)], false, [⟨31, 31, .rw, .k, 0⟩, ⟨30, 30, .rw, .k, 0⟩, ⟨28, 0, .rw, .k, 0⟩]⟩,
  ⟨0x221004, [(24, 0x100), (32, 8)], false, [⟨31, 30, .rw, .k, 0⟩, ⟨29, 18, .rw, .k, 0⟩, ⟨17, 0, .rw, .k, 0⟩]⟩,
  ⟨0x220100, [], true, [⟨63, 0, .ro, .h, 0⟩]⟩,
  ⟨0x220108, [], true, [⟨63, 0, .ro, .h, 0⟩]⟩,
  ⟨0x220110, [], true, [⟨63, 0, .ro, .h, 0⟩]⟩]

/-- Registers of 10_redundancy.md. -/
def regRows10a : List RegRow := [
  ⟨0x230000, [], false, [⟨1, 1, .rw, .k, 1⟩, ⟨0, 0, .rw, .k, 1⟩]⟩,
  ⟨0x230004, [], false, [⟨31, 16, .ro, .s, 0⟩, ⟨12, 0, .ro, .s, 0⟩]⟩,
  ⟨0x230008, [], false, [⟨15, 0, .rw, .s, 0⟩]⟩,
  ⟨0x23000c, [], false, [⟨31, 31, .ro, .s, 0⟩, ⟨30, 30, .ro, .s, 0⟩, ⟨29, 29, .ro, .s, 0⟩, ⟨28, 28, .ro, .s, 0⟩, ⟨27, 26, .ro, .s, 0⟩, ⟨25, 24, .ro, .s, 0⟩, ⟨13, 0, .ro, .s, 0⟩]⟩,
  ⟨0x230010, [], false, [⟨31, 0, .ro, .s, 0⟩]⟩,
  ⟨0x230014, [], false, [⟨24, 16, .ro, .s, 0⟩, ⟨8, 0, .ro, .s, 0⟩]⟩,
  ⟨0x240000, [], false, [⟨2, 2, .rw, .k, 0⟩, ⟨1, 0, .rw, .k, 0⟩]⟩,
  ⟨0x240004, [], false, [⟨31, 22, .rw, .k, 0x32⟩, ⟨15, 12, .rw, .k, 4⟩, ⟨7, 0, .rw, .k, 0xa⟩]⟩,
  ⟨0x240008, [], false, [⟨15, 0, .rw, .k, 0x3e8⟩]⟩,
  ⟨0x24000c, [], false, [⟨31, 28, .ro, .s, 0⟩, ⟨27, 27, .ro, .s, 0⟩, ⟨26, 26, .ro, .s, 0⟩, ⟨25, 25, .ro, .s, 0⟩, ⟨24, 24, .ro, .s, 0⟩]⟩,
  ⟨0x240010, [], false, [⟨31, 18, .ro, .k, 0⟩, ⟨17, 0, .ro, .k, 0⟩]⟩,
  ⟨0x240100, [(40, 4)], false, [⟨8, 8, .rw, .k, 0⟩, ⟨7, 7, .rw, .k, 0⟩, ⟨6, 0, .rw, .k, 0⟩]⟩,
  ⟨0x230040, [], true, [⟨63, 0, .ro, .h, 0⟩]⟩,
  ⟨0x230048, [], true, [⟨63, 0, .ro, .h, 0⟩]⟩,
  ⟨0x230050, [], true, [⟨63, 0, .ro, .h, 0⟩]⟩,
  ⟨0x230058, [], true, [⟨63, 0, .ro, .h, 0⟩]⟩,
  ⟨0x240040, [], true, [⟨63, 0, .ro, .h, 0⟩]⟩,
  ⟨0x240048, [], true, [⟨63, 0, .ro, .h, 0⟩]⟩,
  ⟨0x240050, [], true, [⟨63, 0, .ro, .h, 0⟩]⟩,
  ⟨0x240058, [], true, [⟨63, 0, .ro, .h, 0⟩]⟩]

/-- Registers of 11_bus_gateway.md. -/
def regRows11a : List RegRow := [
  ⟨0x2c0000, [], false, [⟨4, 4, .rw, .k, 1⟩, ⟨1, 0, .rw, .k, 0⟩]⟩,
  ⟨0x2c0004, [], false, [⟨31, 16, .ro, .k, 0⟩, ⟨15, 15, .ro, .s, 0⟩, ⟨14, 14, .ro, .k, 0⟩]⟩,
  ⟨0x2c0008, [], false, [⟨31, 0, .rw, .k, 0⟩]⟩,
  ⟨0x2c000c, [], false, [⟨15, 0, .rw, .k, 0⟩]⟩,
  ⟨0x2c0400, [(64, 4)], false, [⟨31, 24, .ro, .s, 0⟩, ⟨21, 16, .ro, .s, 0⟩, ⟨15, 0, .ro, .s, 0⟩]⟩,
  ⟨0x2d0000, [(24, 0x100)], false, [⟨31, 16, .rw, .k, 0xa⟩, ⟨15, 15, .rw, .k, 1⟩, ⟨14, 14, .rw, .k, 0⟩, ⟨13, 13, .rw, .k, 1⟩, ⟨12, 12, .rw, .k, 0⟩, ⟨11, 11, .rw, .k, 1⟩, ⟨1, 0, .rw, .k, 0⟩]⟩,
  ⟨0x2d0004, [(24, 0x100)], false, [⟨31, 24, .rw, .k, 0⟩, ⟨23, 16, .rw, .k, 0⟩, ⟨15, 9, .rw, .k, 0⟩, ⟨8, 2, .rw, .k, 0⟩]⟩,
  ⟨0x2d0008, [(24, 0x100)], false, [⟨31, 24, .rw, .k, 0⟩, ⟨23, 16, .rw, .k, 0⟩, ⟨15, 9, .rw, .k, 0⟩, ⟨8, 2, .rw, .k, 0⟩]⟩,
  ⟨0x2d000c, [(24, 0x100)], false, [⟨31, 24, .rw, .k, 0⟩, ⟨23, 16, .rw, .k, 0⟩, ⟨15, 9, .rw, .k, 0⟩, ⟨8, 2, .rw, .k, 0⟩]⟩,
  ⟨0x2d0010, [(24, 0x100)], false, [⟨15, 8, .rw, .k, 0x1e⟩, ⟨7, 0, .rw, .k, 6⟩]⟩,
  ⟨0x2d0014, [(24, 0x100)], false, [⟨31, 30, .ro, .s, 0⟩, ⟨29, 29, .w1c, .s, 0⟩, ⟨28, 24, .ro, .s, 0⟩, ⟨23, 16, .ro, .s, 0⟩, ⟨9, 9, .ro, .s, 0⟩, ⟨8, 0, .ro, .s, 0⟩]⟩,
  ⟨0x2d2000, [(6, 0x100)], false, [⟨31, 16, .rw, .k, 0x4b00⟩, ⟨15, 15, .rw, .k, 0⟩, ⟨1, 0, .rw, .k, 0⟩]⟩,
  ⟨0x2d2004, [(6, 0x100)], false, [⟨30, 28, .ro, .s, 0⟩, ⟨21, 16, .ro, .s, 0⟩, ⟨0, 0, .w1c, .s, 0⟩]⟩,
  ⟨0x2d2080, [(6, 0x100), (64, 4)], false, [⟨11, 8, .rw, .k, 8⟩, ⟨5, 4, .rw, .k, 0⟩, ⟨0, 0, .rw, .k, 1⟩]⟩,
  ⟨0x2d4000, [], false, [⟨31, 30, .rw, .k, 0⟩, ⟨29, 28, .rw, .k, 3⟩, ⟨27, 27, .rw, .k, 0⟩, ⟨26, 26, .rw, .k, 0⟩, ⟨25, 16, .rw, .k, 0⟩]⟩,
  ⟨0x2d4004, [], false, [⟨31, 16, .rw, .k, 0x1388⟩, ⟨15, 0, .rw, .k, 0x3e8⟩]⟩,
  ⟨0x2d4008, [], false, [⟨31, 22, .rw, .k, 0x3c⟩, ⟨21, 12, .rw, .k, 0x32⟩, ⟨11, 7, .rw, .k, 5⟩, ⟨6, 0, .rw, .k, 0x10⟩]⟩,
  ⟨0x2d400c, [], false, [⟨12, 0, .rw, .k, 0x12c⟩]⟩,
  ⟨0x2d4010, [], false, [⟨31, 28, .ro, .s, 0⟩, ⟨21, 16, .ro, .s, 0⟩, ⟨0, 0, .w1c, .s, 0⟩]⟩,
  ⟨0x2c0040, [], true, [⟨63, 0, .ro, .h, 0⟩]⟩,
  ⟨0x2c0048, [], true, [⟨63, 0, .ro, .h, 0⟩]⟩,
  ⟨0x2c0050, [], true, [⟨63, 0, .ro, .h, 0⟩]⟩,
  ⟨0x2c0058, [], true, [⟨63, 0, .ro, .h, 0⟩]⟩,
  ⟨0x2c0060, [], true, [⟨63, 0, .ro, .h, 0⟩]⟩,
  ⟨0x2c0068, [], true, [⟨63, 0, .ro, .h, 0⟩]⟩,
  ⟨0x2c0070, [], true, [⟨63, 0, .ro, .h, 0⟩]⟩,
  ⟨0x2c0078, [], true, [⟨63, 0, .ro, .h, 0⟩]⟩,
  ⟨0x2c0080, [], true, [⟨63, 0, .ro, .h, 0⟩]⟩,
  ⟨0x2c0088, [], true, [⟨63, 0, .ro, .h, 0⟩]⟩,
  ⟨0x2c0090, [], true, [⟨63, 0, .ro, .h, 0⟩]⟩]

/-- Registers of 11_bus_gateway.md. -/
def regRows11b : List RegRow := [
  ⟨0x2d0040, [(24, 0x100)], true, [⟨63, 0, .ro, .h, 0⟩]⟩,
  ⟨0x2d0048, [(24, 0x100)], true, [⟨63, 0, .ro, .h, 0⟩]⟩,
  ⟨0x2d0050, [(24, 0x100)], true, [⟨63, 0, .ro, .h, 0⟩]⟩,
  ⟨0x2d0058, [(24, 0x100)], true, [⟨63, 0, .ro, .h, 0⟩]⟩]

/-- Registers of 12_security_and_keys.md. -/
def regRows12a : List RegRow := [
  ⟨0x70000, [], false, [⟨24, 16, .ro, .k, 1⟩, ⟨2, 2, .ro, .s, 0⟩, ⟨1, 1, .ro, .s, 0⟩, ⟨0, 0, .ro, .s, 0⟩]⟩,
  ⟨0x70004, [], false, [⟨7, 0, .rw, .s, 0⟩]⟩,
  ⟨0x70008, [], false, [⟨31, 31, .ro, .s, 0⟩, ⟨30, 29, .ro, .s, 0⟩, ⟨28, 28, .ro, .s, 0⟩, ⟨27, 27, .ro, .s, 0⟩, ⟨26, 26, .ro, .s, 0⟩, ⟨25, 24, .ro, .s, 0⟩, ⟨23, 20, .ro, .s, 0⟩, ⟨15, 0, .ro, .s, 0⟩]⟩,
  ⟨0x70040, [(12, 4)], false, [⟨31, 0, .ro, .s, 0⟩]⟩,
  ⟨0x70100, [(12, 4)], false, [⟨31, 0, .ro, .a, 0⟩]⟩,
  ⟨0x70130, [(12, 4)], false, [⟨31, 0, .ro, .a, 0⟩]⟩,
  ⟨0x71000, [(512, 0x10)], false, [⟨31, 31, .rw, .k, 0⟩, ⟨30, 24, .rw, .k, 0x20⟩]⟩,
  ⟨0x71004, [(512, 0x10)], false, []⟩,
  ⟨0x71008, [(512, 0x10)], true, [⟨63, 0, .ro, .k, 0⟩]⟩,
  ⟨0x80000, [], false, [⟨31, 31, .ro, .s, 0⟩, ⟨30, 29, .ro, .s, 0⟩, ⟨1, 1, .wo, .s, 0⟩, ⟨0, 0, .wo, .s, 0⟩]⟩,
  ⟨0x80004, [], false, [⟨31, 16, .rw, .k, 0x64⟩, ⟨3, 0, .rw, .k, 4⟩]⟩,
  ⟨0x80008, [], false, [⟨31, 31, .ro, .s, 1⟩, ⟨30, 30, .ro, .s, 0⟩]⟩,
  ⟨0x81000, [(32, 0x100)], false, [⟨31, 31, .rw, .k, 0⟩, ⟨30, 29, .rw, .k, 2⟩, ⟨28, 28, .rw, .k, 1⟩, ⟨23, 0, .rw, .k, 0⟩]⟩,
  ⟨0x85b00, [], false, [⟨31, 31, .rw, .k, 0⟩, ⟨30, 29, .rw, .k, 2⟩, ⟨28, 28, .rw, .k, 1⟩, ⟨23, 0, .rw, .k, 0⟩]⟩,
  ⟨0x81004, [(32, 0x100)], false, [⟨31, 0, .rw, .k, 0⟩]⟩,
  ⟨0x85b04, [], false, [⟨31, 0, .rw, .k, 0⟩]⟩,
  ⟨0x81008, [(32, 0x100)], false, [⟨31, 0, .rw, .k, 0⟩]⟩,
  ⟨0x85b08, [], false, [⟨31, 0, .rw, .k, 0⟩]⟩,
  ⟨0x8100c, [(32, 0x100)], false, [⟨31, 31, .ro, .h, 0⟩, ⟨30, 30, .ro, .h, 0⟩, ⟨29, 28, .ro, .h, 0⟩, ⟨27, 27, .ro, .h, 0⟩, ⟨26, 26, .w1c, .s, 0⟩, ⟨11, 8, .ro, .h, 0⟩, ⟨7, 0, .ro, .h, 0⟩]⟩,
  ⟨0x85b0c, [], false, [⟨31, 31, .ro, .h, 0⟩, ⟨30, 30, .ro, .h, 0⟩, ⟨29, 28, .ro, .h, 0⟩, ⟨27, 27, .ro, .h, 0⟩, ⟨26, 26, .w1c, .s, 0⟩, ⟨11, 8, .ro, .h, 0⟩, ⟨7, 0, .ro, .h, 0⟩]⟩,
  ⟨0x81040, [(32, 0x100)], true, [⟨63, 0, .ro, .h, 0⟩]⟩,
  ⟨0x85b40, [], true, [⟨63, 0, .ro, .h, 0⟩]⟩,
  ⟨0x81048, [(32, 0x100)], true, [⟨63, 0, .ro, .h, 0⟩]⟩,
  ⟨0x85b48, [], true, [⟨63, 0, .ro, .h, 0⟩]⟩,
  ⟨0x81050, [(32, 0x100)], true, [⟨63, 0, .ro, .h, 0⟩]⟩,
  ⟨0x85b50, [], true, [⟨63, 0, .ro, .h, 0⟩]⟩,
  ⟨0x81058, [(32, 0x100)], true, [⟨63, 0, .ro, .h, 0⟩]⟩,
  ⟨0x85b58, [], true, [⟨63, 0, .ro, .h, 0⟩]⟩,
  ⟨0x81060, [(32, 0x100)], true, [⟨63, 0, .ro, .h, 0⟩]⟩,
  ⟨0x85b60, [], true, [⟨63, 0, .ro, .h, 0⟩]⟩]

/-- Registers of 12_security_and_keys.md. -/
def regRows12b : List RegRow := [
  ⟨0x81068, [(32, 0x100)], true, [⟨63, 0, .ro, .h, 0⟩]⟩,
  ⟨0x85b68, [], true, [⟨63, 0, .ro, .h, 0⟩]⟩,
  ⟨0x81070, [(32, 0x100)], true, [⟨63, 0, .ro, .h, 0⟩]⟩,
  ⟨0x85b70, [], true, [⟨63, 0, .ro, .h, 0⟩]⟩,
  ⟨0x7000c, [], false, [⟨31, 0, .ro, .s, 0⟩]⟩,
  ⟨0x70010, [], false, [⟨31, 0, .ro, .s, 0⟩]⟩]

/-- Registers of 13_fabric_and_transom.md. -/
def regRows13a : List RegRow := [
  ⟨0x250000, [], false, [⟨31, 31, .rw, .k, 0⟩, ⟨23, 16, .rw, .k, 0⟩, ⟨15, 8, .rw, .k, 1⟩, ⟨3, 3, .rw, .k, 0⟩, ⟨2, 1, .rw, .k, 0⟩, ⟨0, 0, .rw, .k, 1⟩]⟩,
  ⟨0x250004, [], false, [⟨8, 8, .rw, .k, 0⟩, ⟨7, 0, .rw, .k, 0xff⟩]⟩,
  ⟨0x250008, [], false, [⟨19, 16, .rw, .k, 3⟩, ⟨15, 0, .rw, .k, 0xa⟩]⟩,
  ⟨0x25000c, [], false, [⟨31, 31, .ro, .s, 0⟩, ⟨30, 30, .ro, .s, 0⟩, ⟨29, 29, .ro, .s, 0⟩, ⟨28, 28, .ro, .s, 0⟩, ⟨27, 27, .ro, .s, 0⟩, ⟨24, 16, .ro, .s, 0⟩, ⟨15, 8, .ro, .s, 0⟩, ⟨7, 0, .ro, .s, 0⟩]⟩,
  ⟨0x250014, [], false, [⟨15, 0, .ro, .s, 0⟩]⟩,
  ⟨0x250020, [(12, 4)], false, [⟨31, 0, .ro, .s, 0⟩]⟩,
  ⟨0x250080, [(9, 4)], false, [⟨15, 0, .rw, .k, 0xa⟩]⟩,
  ⟨0x250100, [(9, 4)], false, [⟨31, 31, .ro, .s, 0⟩, ⟨30, 30, .ro, .s, 0⟩, ⟨29, 23, .ro, .s, 0⟩, ⟨15, 8, .ro, .s, 0⟩]⟩,
  ⟨0x250140, [], false, [⟨8, 0, .ro, .s, 0⟩]⟩,
  ⟨0x260000, [(2, 0x400), (16, 0x20)], false, [⟨31, 31, .rw, .h, 0⟩, ⟨30, 30, .rw, .h, 0⟩, ⟨29, 29, .rw, .h, 0⟩, ⟨23, 16, .rw, .h, 0⟩, ⟨15, 14, .rw, .h, 0⟩, ⟨13, 12, .rw, .h, 0⟩, ⟨11, 10, .rw, .h, 2⟩, ⟨3, 0, .rw, .h, 0⟩]⟩,
  ⟨0x260004, [(2, 0x400), (16, 0x20)], false, [⟨23, 0, .rw, .h, 0⟩]⟩,
  ⟨0x260008, [(2, 0x400), (16, 0x20)], false, [⟨31, 31, .ro, .s, 0⟩, ⟨30, 28, .ro, .s, 0⟩, ⟨15, 0, .ro, .s, 0⟩]⟩,
  ⟨0x26000c, [(2, 0x400), (16, 0x20)], false, [⟨15, 0, .ro, .s, 0⟩]⟩,
  ⟨0x260800, [(2, 0x10)], false, [⟨17, 17, .wo, .s, 0⟩, ⟨16, 16, .wo, .s, 0⟩, ⟨15, 0, .wo, .s, 0⟩]⟩,
  ⟨0x260804, [(2, 0x10)], false, [⟨31, 16, .ro, .s, 0⟩, ⟨2, 0, .ro, .s, 0⟩]⟩,
  ⟨0x260900, [], false, [⟨31, 16, .rw, .k, 0xfa0⟩, ⟨15, 8, .rw, .k, 0x14⟩]⟩,
  ⟨0x260904, [], false, [⟨1, 1, .rw, .k, 0⟩, ⟨0, 0, .rw, .k, 0⟩]⟩,
  ⟨0x260a00, [(4, 4)], false, [⟨31, 24, .rw, .k, 4⟩, ⟨23, 16, .rw, .k, 3⟩, ⟨15, 8, .rw, .k, 2⟩, ⟨7, 6, .rw, .k, 0⟩, ⟨5, 4, .rw, .k, 3⟩, ⟨3, 0, .rw, .k, 0⟩]⟩,
  ⟨0x260a20, [(4, 4)], false, [⟨31, 31, .rw, .k, 0⟩, ⟨30, 30, .rw, .k, 0⟩, ⟨23, 16, .rw, .k, 2⟩, ⟨15, 8, .rw, .k, 0xa⟩, ⟨7, 0, .rw, .k, 2⟩]⟩,
  ⟨0x260b00, [(16, 0x10)], false, [⟨31, 31, .rw, .k, 0⟩, ⟨30, 30, .rw, .k, 0⟩, ⟨29, 28, .rw, .k, 1⟩, ⟨27, 26, .rw, .k, 0⟩, ⟨25, 24, .rw, .k, 0⟩, ⟨23, 16, .rw, .k, 0⟩, ⟨15, 15, .rw, .k, 0⟩, ⟨14, 0, .rw, .k, 0x64⟩]⟩,
  ⟨0x260b04, [(16, 0x10)], false, [⟨23, 0, .rw, .k, 0⟩]⟩,
  ⟨0x260b08, [(16, 0x10)], false, [⟨31, 0, .rw, .k, 0⟩]⟩,
  ⟨0x260b0c, [(16, 0x10)], false, [⟨31, 0, .ro, .s, 0⟩]⟩,
  ⟨0x250200, [], true, [⟨63, 0, .ro, .h, 0⟩]⟩,
  ⟨0x250208, [], true, [⟨63, 0, .ro, .h, 0⟩]⟩,
  ⟨0x250210, [], true, [⟨63, 0, .ro, .h, 0⟩]⟩,
  ⟨0x250218, [], true, [⟨63, 0, .ro, .h, 0⟩]⟩,
  ⟨0x250220, [], true, [⟨63, 0, .ro, .h, 0⟩]⟩,
  ⟨0x260c00, [(2, 0x40)], true, [⟨63, 0, .ro, .h, 0⟩]⟩,
  ⟨0x260c08, [(2, 0x40)], true, [⟨63, 0, .ro, .h, 0⟩]⟩]

/-- Registers of 13_fabric_and_transom.md. -/
def regRows13b : List RegRow := [
  ⟨0x260c10, [(2, 0x40)], true, [⟨63, 0, .ro, .h, 0⟩]⟩,
  ⟨0x260c18, [(2, 0x40)], true, [⟨63, 0, .ro, .h, 0⟩]⟩,
  ⟨0x250010, [], false, [⟨31, 0, .ro, .k, 0⟩]⟩]

/-- Registers of 14_supervisor_firmware_faults.md. -/
def regRows14a : List RegRow := [
  ⟨0x60000, [], false, [⟨31, 29, .ro, .s, 0⟩, ⟨28, 28, .ro, .s, 0⟩, ⟨27, 27, .ro, .s, 0⟩, ⟨26, 26, .ro, .s, 0⟩, ⟨25, 24, .ro, .s, 0⟩]⟩,
  ⟨0x60004, [], false, [⟨0, 0, .rws, .s, 0⟩]⟩,
  ⟨0x60008, [], false, [⟨31, 16, .rw, .k, 0x3c⟩, ⟨7, 4, .rw, .k, 3⟩]⟩,
  ⟨0x60010, [(3, 4)], false, [⟨31, 16, .ro, .h, 0⟩, ⟨15, 0, .ro, .h, 0⟩]⟩,
  ⟨0x60020, [(2, 0x10)], false, [⟨31, 29, .ro, .s, 0⟩, ⟨22, 16, .ro, .s, 0⟩, ⟨8, 0, .ro, .s, 0⟩]⟩,
  ⟨0x60024, [(2, 0x10)], false, [⟨31, 0, .ro, .s, 0⟩]⟩,
  ⟨0x60040, [], false, [⟨6, 0, .ro, .a, 0⟩]⟩,
  ⟨0x60044, [], false, [⟨31, 16, .ro, .s, 0⟩, ⟨15, 0, .ro, .s, 0⟩]⟩,
  ⟨0x60048, [], false, [⟨31, 31, .ro, .s, 0⟩, ⟨30, 30, .ro, .s, 0⟩, ⟨3, 0, .ro, .s, 0⟩]⟩,
  ⟨0x50000, [], false, [⟨15, 0, .rw, .k, 0x3e8⟩]⟩,
  ⟨0x50004, [], false, [⟨31, 31, .ro, .s, 0⟩, ⟨15, 1, .ro, .s, 0⟩, ⟨0, 0, .ro, .k, 0⟩]⟩,
  ⟨0x50008, [], false, [⟨15, 1, .wo, .s, 0⟩]⟩,
  ⟨0x5000c, [], false, [⟨19, 16, .ro, .s, 0⟩, ⟨15, 0, .ro, .s, 0⟩]⟩,
  ⟨0x50010, [(8, 4)], false, [⟨31, 0, .ro, .k, 0⟩]⟩,
  ⟨0x50030, [], false, [⟨0, 0, .wo, .s, 0⟩]⟩,
  ⟨0x50040, [], false, [⟨3, 0, .rw, .s, 0⟩]⟩,
  ⟨0x50044, [(8, 4)], false, [⟨31, 0, .ro, .s, 0⟩]⟩,
  ⟨0x50080, [(8, 4)], false, [⟨31, 0, .ro, .s, 0⟩]⟩,
  ⟨0x500a0, [], false, [⟨31, 31, .ro, .s, 0⟩, ⟨15, 0, .ro, .s, 0⟩]⟩,
  ⟨0x50100, [], true, [⟨63, 0, .ro, .h, 0⟩]⟩,
  ⟨0x50108, [], true, [⟨63, 0, .ro, .h, 0⟩]⟩,
  ⟨0x50110, [], true, [⟨63, 0, .ro, .h, 0⟩]⟩,
  ⟨0x50118, [], true, [⟨63, 0, .ro, .h, 0⟩]⟩,
  ⟨0x60080, [], true, [⟨63, 0, .ro, .h, 0⟩]⟩]

/-- Registers of 15_network_sleep_wake.md. -/
def regRows15a : List RegRow := [
  ⟨0x300000, [], false, [⟨8, 8, .rw, .k, 1⟩, ⟨2, 0, .rw, .k, 4⟩]⟩,
  ⟨0x300004, [], false, [⟨31, 16, .rw, .k, 0xfa⟩, ⟨15, 8, .rw, .k, 0x14⟩, ⟨7, 0, .rw, .k, 0x14⟩]⟩,
  ⟨0x300008, [], false, [⟨31, 16, .ro, .k, 0xffff⟩, ⟨15, 0, .ro, .k, 0xffff⟩]⟩,
  ⟨0x30000c, [], false, [⟨31, 16, .ro, .s, 0xffff⟩, ⟨15, 0, .ro, .s, 0⟩]⟩,
  ⟨0x300010, [], false, [⟨31, 16, .ro, .s, 0⟩, ⟨15, 0, .ro, .s, 0⟩]⟩,
  ⟨0x300014, [], false, [⟨31, 16, .ro, .s, 0⟩, ⟨15, 0, .ro, .s, 0⟩]⟩,
  ⟨0x300018, [], false, [⟨23, 16, .ro, .s, 0xff⟩, ⟨7, 0, .rw, .k, 0xff⟩]⟩,
  ⟨0x300020, [(4, 4)], false, [⟨31, 16, .rw, .k, 0⟩, ⟨15, 15, .rw, .k, 0⟩, ⟨14, 13, .rw, .k, 2⟩, ⟨5, 0, .rw, .k, 0xa⟩]⟩,
  ⟨0x300030, [], false, [⟨31, 24, .ro, .s, 0⟩, ⟨23, 16, .ro, .s, 0⟩, ⟨15, 0, .ro, .s, 0⟩]⟩,
  ⟨0x300100, [(16, 0x10), (3, 4)], false, [⟨31, 0, .rw, .k, 0⟩]⟩,
  ⟨0x301000, [(72, 8)], false, [⟨31, 31, .rw, .k, 1⟩, ⟨30, 30, .rw, .k, 1⟩, ⟨29, 29, .rw, .k, 0⟩, ⟨28, 28, .rw, .k, 1⟩, ⟨27, 27, .rw, .k, 0⟩, ⟨26, 24, .rw, .k, 0⟩, ⟨23, 23, .rw, .k, 0⟩, ⟨22, 13, .rw, .k, 0⟩, ⟨5, 0, .rw, .k, 5⟩]⟩,
  ⟨0x301004, [(72, 8)], false, [⟨31, 30, .ro, .s, 0⟩, ⟨29, 28, .ro, .s, 0⟩, ⟨27, 27, .ro, .s, 0⟩, ⟨0, 0, .w1c, .s, 0⟩]⟩,
  ⟨0x300200, [], true, [⟨63, 0, .ro, .h, 0⟩]⟩,
  ⟨0x300208, [], true, [⟨63, 0, .ro, .h, 0⟩]⟩,
  ⟨0x300210, [], true, [⟨63, 0, .ro, .h, 0⟩]⟩,
  ⟨0x300218, [], true, [⟨63, 0, .ro, .h, 0⟩]⟩,
  ⟨0x300220, [], true, [⟨63, 0, .ro, .h, 0⟩]⟩]

/-- Registers of 16_power_ladder.md. -/
def regRows16a : List RegRow := [
  ⟨0x20000, [], false, [⟨31, 16, .rw, .k, 0x64⟩, ⟨1, 0, .rw, .k, 0⟩]⟩,
  ⟨0x20004, [], false, [⟨31, 31, .ro, .s, 0⟩, ⟨30, 28, .ro, .k, 0⟩, ⟨27, 24, .ro, .k, 0⟩, ⟨23, 16, .ro, .s, 0⟩, ⟨15, 0, .ro, .k, 0⟩]⟩,
  ⟨0x20008, [], false, [⟨31, 16, .ro, .s, 0⟩, ⟨15, 0, .ro, .s, 0⟩]⟩,
  ⟨0x2000c, [], false, [⟨3, 3, .rw, .k, 0⟩, ⟨2, 0, .rw, .k, 0⟩]⟩,
  ⟨0x20010, [], false, [⟨11, 8, .ro, .s, 0⟩, ⟨3, 0, .ro, .s, 0⟩]⟩,
  ⟨0x20020, [], false, [⟨7, 0, .rw, .k, 0x7d⟩]⟩,
  ⟨0x20040, [(11, 8)], false, [⟨23, 16, .rw, .k, 4⟩, ⟨4, 0, .rw, .k, 0xa⟩]⟩,
  ⟨0x20044, [(11, 8)], false, [⟨31, 31, .ro, .s, 0⟩, ⟨15, 0, .ro, .s, 0⟩]⟩,
  ⟨0x200a0, [(5, 4)], false, [⟨15, 0, .ro, .s, 0⟩]⟩,
  ⟨0x30000, [], false, [⟨9, 9, .rw, .k, 0⟩, ⟨8, 8, .rw, .k, 0⟩, ⟨3, 0, .rw, .k, 0⟩]⟩,
  ⟨0x30004, [], false, [⟨31, 31, .ro, .s, 0⟩, ⟨30, 30, .ro, .s, 0⟩, ⟨29, 29, .ro, .s, 0⟩, ⟨28, 28, .ro, .s, 0⟩, ⟨27, 27, .ro, .s, 0⟩]⟩,
  ⟨0x30008, [], false, [⟨15, 8, .ro, .s, 0⟩, ⟨2, 0, .ro, .s, 0⟩]⟩,
  ⟨0x30010, [], false, [⟨25, 24, .ro, .s, 0⟩, ⟨23, 22, .ro, .s, 0⟩, ⟨21, 20, .ro, .s, 0⟩, ⟨19, 18, .ro, .s, 0⟩, ⟨17, 16, .ro, .s, 0⟩, ⟨15, 8, .ro, .s, 0⟩, ⟨7, 0, .ro, .s, 0⟩]⟩,
  ⟨0x30014, [(3, 4)], false, [⟨31, 0, .ro, .s, 0⟩]⟩,
  ⟨0x20100, [], true, [⟨63, 0, .ro, .h, 0⟩]⟩,
  ⟨0x20108, [], true, [⟨63, 0, .ro, .h, 0⟩]⟩,
  ⟨0x20110, [], true, [⟨63, 0, .ro, .h, 0⟩]⟩,
  ⟨0x20118, [], true, [⟨63, 0, .ro, .h, 0⟩]⟩,
  ⟨0x20120, [], true, [⟨63, 0, .ro, .h, 0⟩]⟩,
  ⟨0x20128, [(5, 8)], true, [⟨63, 0, .ro, .k, 0⟩]⟩]

/-- The register table. Where two rows name one address (LIN*n* `IDk` of k ≥ 32 runs into the block of LIN*n*+1), the earlier row has it (log entry 9). -/
def regTable : List RegRow :=
  regRows01a ++ regRows03a ++ regRows04a ++ regRows05a ++ regRows06a ++ regRows07a ++ regRows08a ++ regRows08b ++ regRows09a ++ regRows10a ++ regRows11a ++ regRows11b ++ regRows12a ++ regRows12b ++ regRows13a ++ regRows13b ++ regRows14a ++ regRows15a ++ regRows16a

end Sys2Proof.Machine
end

