-- ==== Sys2Proof/Machine/RegFile.lean ====
section
/-! DEFINITION. The register file: which register an address names (R33), what every register resets to, and the words that
differ from their reset value, kept as one sparse table. The retention classes of R10 act on it here, generically. -/

namespace Sys2Proof.Machine

/-- The indices that an offset stands for in an array of registers, outermost first; none when it is not a multiple of the
strides or an index is out of range. The last list element is what is left over. -/
def idxOf : List (Nat × Nat) → Nat → Option (List Nat × Nat)
  | [], off => some ([], off)
  | (c, st) :: r, off =>
    if off / st < c then (idxOf r (off % st)).map (fun p => (off / st :: p.1, p.2)) else none

/-- Does a row of the register table name this address? If so, with which indices. -/
def rowAt (r : RegRow) (a : Nat) : Option (List Nat) :=
  if a < r.base then none
  else match idxOf r.dims (a - r.base) with
    | some (is, 0) => some is
    | some (is, 4) => if r.wide then some is else none
    | _ => none

/-- The first row that names an address. -/
def findIn : List RegRow → Nat → Option (RegRow × List Nat)
  | [], _ => none
  | r :: rs, a => match rowAt r a with
    | some is => some (r, is)
    | none => findIn rs a

/-- The register at an address, with its indices; none for a reserved address (R33). (DESIGN CHOICE, log entry 9) -/
def findReg (a : Nat) : Option (RegRow × List Nat) := findIn regTable a

/-- The n-th of a list of numbers, 0 beyond its end. -/
def nth (l : List Nat) (n : Nat) : Nat := (l[n]?).getD 0

/-- The default carving of R133 as `BUF_POOLk_CFG` words. -/
def poolCfgReset : List Nat := [0x00200000, 0x00200020, 0x00280040, 0x00620068, 0x001E00CA, 0x001800E8]

/-- Buffer sizes of the six pools and buffers per plot (R130). -/
def poolSize : List Nat := [128, 256, 640, 1664, 2560, 9728]
def poolPerPlot : List Nat := [512, 256, 102, 39, 25, 6]

/-- Reset values that depend on the index or are fused; every other field resets to the value of the table. -/
def resetField (base : Nat) (is : List Nat) (f : FieldSpec) : Nat :=
  let i := nth is 0
  let fusedPort (p v : Nat) : Nat := if 16 ≤ p && p ≤ 31 then v else 0
  match base with
  | 0x4 => Config.uid % 2 ^ 32
  | 0x8 => Config.uid / 2 ^ 32 % 2 ^ 32
  | 0x200100 => bits (nth poolCfgReset i) f.hi f.lo
  | 0x200104 => bits (nth poolCfgReset i) f.hi f.lo
  | 0x200108 => if f.lo = 16 then nth poolPerPlot i else nth poolSize i
  | 0x200110 =>
    if f.lo = 16 then nth [0, 16384, 24576, 28656, 32478, 33228] i else nth [16384, 8192, 4080, 3822, 750, 144] i
  | 0x101000 => if f.lo = 13 then (if 72 ≤ nth is 1 && nth is 1 ≤ 74 then 0 else 1) else f.reset
  | 0x40010 => if f.lo = 0 then i else f.reset
  | 0x41000 =>
    if f.lo = 18 then fusedPort i (Config.fusedTx i true)
    else if f.lo = 8 then fusedPort i (Config.fusedRx i true)
    else if f.lo = 0 then (if i ≤ 7 || i = 75 then 1 else 0) else f.reset
  | 0x210020 => if f.lo = 16 then nth [2000, 5000, 5000, 20000, 0, 1000] i else nth [40, 300, 900, 4000, 0, 10] i
  | 0x211000 =>
    if f.lo = 8 then (if i ≤ 7 || i = 75 then 1 else 0)
    else if f.lo = 0 then (if i ≤ 39 || i = 75 then 1 else 0) else f.reset
  | 0x211018 => if f.lo = 0 then (if 16 ≤ i && i ≤ 31 then 20 else 5) else f.reset
  | 0x2c0008 => Config.gwMac % 2 ^ 32
  | 0x2c000c => Config.gwMac / 2 ^ 32 % 2 ^ 16
  | 0x2d0004 => bits 0x007E3E7C f.hi f.lo
  | 0x2d0008 => bits 0x001C1224 f.hi f.lo
  | 0x2d000c => bits 0x00040204 f.hi f.lo
  | 0x70100 => Config.iskX i % 2 ^ 32
  | 0x70130 => Config.iskY i % 2 ^ 32
  | 0x81004 => Config.gwMac % 2 ^ 16 * 2 ^ 16 + (i + 1)
  | 0x85b04 => Config.gwMac % 2 ^ 16 * 2 ^ 16 + 76
  | 0x81008 => Config.gwMac / 2 ^ 16 % 2 ^ 32
  | 0x85b08 => Config.gwMac / 2 ^ 16 % 2 ^ 32
  | _ => f.reset

/-- Fields that are reserved for some indices though the table's row has them: they read 0 and ignore writes. Group 0 of
`HOST_EVROUTE0`; `DOMAIN`-bound bits of `TIME_PORTp_CFG`; `PFC_EN` outside P0–P7 and P75; `MAX_LEN` of P40–P74; wake fields
of ports without the recogniser; the upper mask bits of `WAKE_CLUSTERc` and its word 3. -/
def fieldAbsent (base : Nat) (is : List Nat) (f : FieldSpec) : Bool :=
  let i := nth is 0
  match base with
  | 0x10018 => decide (nth is 1 = 0) && decide (f.hi ≤ 7)
  | 0x41000 =>
    (decide (72 ≤ i) && decide (i ≤ 74)) || (decide (32 ≤ i) && decide (i ≤ 71) && decide (f.lo ≤ 2))
  | 0x211000 => decide (f.lo = 8) && !(decide (i ≤ 7) || decide (i = 75))
  | 0x280028 => decide (40 ≤ i) && decide (i ≤ 74)
  | 0x301000 =>
    let noRec := decide (i ≤ 15) || decide (i = 70) || decide (i = 71)
    let can := decide (40 ≤ i) && decide (i ≤ 63)
    (decide (f.lo = 31) && noRec) || ((decide (f.lo = 29) || decide (f.lo = 28) || decide (f.lo = 23)) && !can)
  | _ => false

/-- The word a register resets to: the fields' reset values. -/
def rowReset (r : RegRow) (is : List Nat) : Nat :=
  r.fields.foldl (fun w f =>
    if fieldAbsent r.base is f then w
    else w ||| (resetField r.base is f % 2 ^ (f.hi + 1 - f.lo)) * 2 ^ f.lo) 0

/-- The reset word of an address (0 for a reserved one, and for a 64-bit counter). -/
def regReset (a : Nat) : Nat :=
  match findReg a with
  | some (r, is) => if r.wide then 0 else rowReset r is
  | none => 0

/-- The mask of the bits of a register whose field satisfies a condition. -/
def rowMask (r : RegRow) (is : List Nat) (p : FieldSpec → Bool) : Nat :=
  r.fields.foldl (fun m f => if p f && !fieldAbsent r.base is f then m ||| onesMask f.hi f.lo else m) 0

/-- The bits of a word that are not reserved: those of the fields that its register has there (R8). (DEDUCED, log entry 109) -/
def wordMask (a : Nat) : Nat :=
  match findReg a with
  | some (r, is) => if r.wide then 0 else rowMask r is (fun _ => true)
  | none => 0

/-- The stored word at an address. -/
def regGet (m : Keyed Word) (a : Nat) : Nat :=
  match kget m a with
  | some w => w.toNat
  | none => regReset a

/-- What a table of registers lists for a word: reserved bits are 0 (R8), and a word equal to the reset value is not listed. (DEDUCED, log entry 109) -/
def regWord (a v : Nat) : Option Word :=
  let w := v &&& wordMask a
  if w % 2 ^ 32 = regReset a % 2 ^ 32 then none else some (word w)

/-- Store a word. -/
def regSet (m : Keyed Word) (a v : Nat) : Keyed Word := kset m a (regWord a v)

/-- Which events lose a class (R10): bits say whether classes K, H and S are lost. Class A never is. -/
structure Lost where
  k : Bool
  h : Bool
  s : Bool
deriving DecidableEq, Repr

/-- Is a class lost? -/
def Lost.has (l : Lost) : Keep → Bool
  | .a => false
  | .k => l.k
  | .h => l.h
  | .s => l.s

/-- A stored word after an event that loses some classes: the lost fields read their reset value. -/
def retainWord (l : Lost) (a v : Nat) : Nat :=
  match findReg a with
  | some (r, is) =>
    let m := rowMask r is (fun f => l.has f.keep)
    (v &&& (2 ^ 32 - 1 - m)) ||| (rowReset r is &&& m)
  | none => v

/-- The register file after an event that loses some classes. -/
def regsRetain (l : Lost) : Keyed Word → Keyed Word
  | [] => []
  | (a, v) :: r =>
    let w := retainWord l a v.toNat
    if w % 2 ^ 32 = regReset a % 2 ^ 32 then regsRetain l r else (a, word w) :: regsRetain l r

/-- The counters after an event that loses some classes. -/
def ctrsRetain (l : Lost) (m : Keyed Nat) : Keyed Nat :=
  m.filter (fun e => match findReg e.1 with
    | some (r, _) => !(r.fields.any (fun f => l.has f.keep))
    | none => false)

/-- The greatest value of a 64-bit counter. -/
def ctrMax : Nat := 2 ^ 64 - 1

/-- Counters of PORT blocks wrap (R164), all others saturate. -/
def ctrAdd (a v n : Nat) : Nat :=
  if 0x280000 ≤ a && a < 0x293000 then (v + n) % 2 ^ 64 else min ctrMax (v + n)

/-- Registers listed in rising order of address, none equal to its reset value, and no reserved bit 1: the form in which equal
register files are equal data. -/
def Regs.wf (m : Keyed Word) : Bool :=
  Keyed.rising m && m.all (fun e => decide (e.2.toNat ≠ regReset e.1 % 2 ^ 32) && decide (e.2.toNat &&& wordMask e.1 = e.2.toNat))

/-- Counters listed in rising order of address, none 0 and none above 64 bits. -/
def Ctrs.wf (m : Keyed Nat) : Bool := Keyed.rising m && m.all (fun e => decide (0 < e.2) && decide (e.2 ≤ ctrMax))

end Sys2Proof.Machine
end

