-- ==== Sys2Proof/Machine/StHost.lean ====
section
/-! DEFINITION. State of the host logic (chapter 03): PCIe endpoints, rings, doorbell slots, event entries that wait,
commands in execution, interrupt vectors; and of the register bus (chapter 01). -/

namespace Sys2Proof.Machine

/-- The number of a source as `GLB_ERR_STATUS.SRC` codes it. -/
def srcCode : Src → Nat
  | .ha => 0 | .hb => 1 | .spi => 2 | .fw => 3

/-- The source that a host is on the register bus. -/
def hostSrc (h : HostId) : Src := if h.val = 0 then .ha else .hb

/-- Ring states (table after R87). -/
inductive RingState where
  | disabled | running | stopping | error
deriving DecidableEq, Repr

/-- One ring of a queue set (R84 to R94): its state, the error cause, the device's own index, the host's index as last
accepted, whether the slot's index word is ignored until a new generation, and which doorbell read gave the work not yet fetched, up to which
index, oldest first (R113). -/
structure RingSt where
  state : RingState := .disabled
  cause : Nat := 0
  dev : Nat := 0
  hostIdx : Nat := 0
  waitGen : Bool := false
  reads : List (Nat × Nat) := []
deriving DecidableEq, Repr

/-- Kinds of EVQ entry (R105). -/
inductive EntryKind where
  | command | tx | event
deriving DecidableEq, Repr

/-- An EVQ entry (R105) without its phase bit, and the queue set that it goes to; for a command's completion also the reply that is written ahead of
it with its address (R107), and the event sequence number at which its command started (R114). -/
structure Entry where
  kind : EntryKind
  qs : Nat
  code : Nat
  tag : Nat
  cls : Nat
  status : Nat
  ns : Nat
  secLo : Nat
  payload : Bytes
  reply : Bytes := []
  replyAt : Nat := 0
  since : Option Nat := none
deriving DecidableEq, Repr

/-- A command that CMDQ_FETCH has fetched and that has not completed (R103, R112, R113): its place in the order of fetching, its queue set, its
opcode and fields with the parameters as they were read (R104), the status that it completes with where the entry itself is at fault, the event
sequence number at its start once it has started. -/
structure CmdRec where
  seq : Nat
  qs : Nat
  opcode : Nat
  ctx : CmdCtx
  fence : Bool
  bad : Option Nat := none
  started : Option Nat := none
deriving DecidableEq, Repr

/-- A TX completion that waits for its frame's departure, or for its turn in ring order (R98, R99). -/
structure TxDone where
  id : Nat
  qs : Nat
  cookie : Nat
  idxAfter : Nat
  ready : Bool
  status : Nat
  ns : Nat
  secLo : Nat
deriving DecidableEq, Repr

/-- A vector's count of entries since it last fired and the LT, in ns, of the first of them (R117). -/
structure VecSt where
  count : Nat := 0
  first : Nat := 0
deriving DecidableEq, Repr

/-- One endpoint and its rings. Keys of `rings` are queue set × 4 + ring index (R84). `slotGen` is the generation last accepted of a doorbell
slot, `readNo` the doorbell reads issued, `slots` the slots whose copy is on its way, each with the number of its read and whether it is a slot's
second read, `reread` the slots to be read again and the LT of each, `fetchMore` whether a further fetch follows (R90, R91); `resv` the EVQ entries reserved, by queue set (R108); `waiting` the entries
that wait for room (R109), `lostPend` the events discarded since the last overflow entry (R110) and `lostAll` whether an FLR or link-down discarded
them (R111); `dma` the writes that wait for Bus Master Enable (R78). -/
structure HostSt where
  linkUp : Bool := false
  speed : Nat := 0
  width : Nat := 0
  bme : Bool := false
  rings : Keyed RingSt := []
  slotGen : Keyed Nat := []
  reread : List (Nat × Nat) := []
  readNo : Nat := 0
  slots : Keyed (Nat × Bool) := []
  fetchMore : Bool := false
  lastPoll : Nat := 0
  resv : Keyed Nat := []
  waiting : List Entry := []
  lostPend : Nat := 0
  lostAll : Bool := false
  dma : List (Nat × Bytes) := []
  seq : Nat := 0
  cmds : List CmdRec := []
  txqLast : Nat := 63
  txDone : List TxDone := []
  txNext : Nat := 0
  vecs : Keyed VecSt := []
deriving DecidableEq, Repr

/-- What the host logic holds beside the two endpoints: the last source granted on the register bus (R37, R645), and the shadows that the
next reads return (R36, R258): source, address of the shadowed word, and its value. `fetched` counts the commands fetched. -/
structure BusSt where
  last : Src := .fw
  shadow : List (Src × Nat × Nat) := []
  fetched : Nat := 0
deriving DecidableEq, Repr

/-- A history entry (R519): the entry, the LT at which it was raised, its flags and the device-wide number. -/
structure HistEntry where
  entry : Entry
  routedHA : Bool
  routedHB : Bool
  lost : Bool
  number : Nat
deriving DecidableEq, Repr

/-- Fault handling (R513 to R519): the history (newest first, at most 16), the first captured event, per group the LT
at which the grace timer expires and the first unhandled F2 event, the F3 flag, the crash records in flash, and the buffer whose data error
was last escalated (R515). -/
structure FltSt where
  hist : List HistEntry := []
  first : Option HistEntry := none
  number : Nat := 0
  grace : Keyed Nat := []
  unhandled : Keyed Entry := []
  f3 : Bool := false
  crash : List (Bytes × List Bytes) := []
  crashCount : Nat := 0
  badBuf : Option Nat := none
deriving DecidableEq, Repr

end Sys2Proof.Machine
end

