-- ==== Sys2Proof/Machine/StTime.lean ====
section
/-! DEFINITION. State of the timekeeper (chapter 07). LT and pulse and capture times are in ns; a domain is held in units of
2^-48 ns (R228). -/

namespace Sys2Proof.Machine

/-- What a command changes at its effect tick (R235, R241). -/
inductive TimeChange where
  | step (mode : Nat) (amount : Nat)
  | rate (r : Int) (adj : Option (Int × Nat))
deriving DecidableEq, Repr

/-- A step or rate change that waits for its effect tick (R237); `start` is the LT of the tick it started in. -/
structure TimePend where
  dom : Nat
  start : Nat
  cmd : CmdCtx
  change : TimeChange
deriving DecidableEq, Repr

/-- A temporary adjustment that runs: its rate, the LT at which it ends, its length in µs, and whether a quiesce has ended it before its time, so
that it only runs on to the effect tick (R239, R241). -/
structure AdjSt where
  rate : Int
  endLt : Nat
  us : Nat
  cut : Bool := false
deriving DecidableEq, Repr

/-- One corrected domain; `was` keeps the stretches that ended with a change of its value or rate, newest first: the LT of the change, the value
that the domain had come to, and the rate that had steered it. -/
structure DomSt where
  val : Nat := 0
  rate : Int := 0
  stepArmed : Bool := true
  set : Bool := false
  locked : Bool := false
  adj : Option AdjSt := none
  needed : Bool := false
  was : List (Nat × Nat × Int) := []
deriving DecidableEq, Repr

/-- A pulse programme (R252): scale 0 D0, 1 D1, 2 LT; times in ns of that scale; `k` is the next leading edge. -/
structure PulseProg where
  periodic : Bool
  dom : Nat
  start : Nat
  period : Nat
  width : Nat
  count : Nat
  k : Nat
deriving DecidableEq, Repr

/-- A TIME_OUT pin: its programme, whether it is at its active level, and the scale and time of the trailing edge due. -/
structure OutPin where
  prog : Option PulseProg := none
  active : Bool := false
  trail : Option (Nat × Nat) := none
deriving DecidableEq, Repr

/-- A capture on a TIME_IN pin (R256): scale, time in ns of that scale, falling edge. -/
structure Capture where
  dom : Nat
  time : Nat
  falling : Bool
deriving DecidableEq, Repr

/-- A TIME_IN pin: the last capture, the queue towards events, the captures lost since the last event. -/
structure InPin where
  last : Option Capture := none
  queue : List Capture := []
  lost : Nat := 0
deriving DecidableEq, Repr

/-- The timekeeper. `latBy` holds, as a mask, the ports whose latencies a host or the image has written since the last POR or S5 exit (R244). -/
structure TimeSt where
  running : Bool := false
  lt : Nat := 0
  d0 : DomSt := {}
  d1 : DomSt := {}
  pend : List TimePend := []
  outs : Keyed OutPin := []
  ins : Keyed InPin := []
  latBy : Nat := 0
deriving DecidableEq, Repr

end Sys2Proof.Machine
end

