-- ==== Sys2Proof/Machine/StDebug.lean ====
section
/-! DEFINITION. State of the debug port (chapter 19). -/

namespace Sys2Proof.Machine

/-- The debug port (R633 to R638): the instruction loaded (IDCODE at TAP reset), DBG_STATUS, the challenge in force with the LT at
which it expires, the response being verified, the unlock attempts since POR, and the straps as latched: bits 23 to 8 of DBG_STATUS
(R625). -/
structure DbgSt where
  instr : Nat := 0x02
  unlocked : Bool := false
  lockedOut : Bool := false
  fails : Nat := 0
  refused : Bool := false
  challenge : Option (Bytes × Nat) := none
  verifying : Option Bytes := none
  attempts : Nat := 0
  straps : Nat := 0
deriving DecidableEq, Repr

end Sys2Proof.Machine
end

