-- ==== Sys2Proof/Machine/StBuf.lean ====
section
/-! DEFINITION. State of the frame path (chapters 01, 04, 08): frames in staging, buffers, queues. -/

namespace Sys2Proof.Machine

/-- A frame in the device, from staging on: its bytes without FCS (an internal frame begins with its 48-byte header, R382), whether
it arrived on a fabric port with a DFP tag (R452), the ingress port, the scales latched at its start point (R230, R243), the LT of its last bit, whether it arrived protected and
passed MACsec, the class and the destination that its sender fixed (R95, R382), the TX completion that waits for it
(host, number), and the sequence tag of an unpacked PDU as handle, epoch and number (R404). -/
structure Pkt where
  bytes : Bytes
  internal : Bool := false
  dfp : Bool := false
  inPort : Nat
  start : Stamp := {}
  arrive : Nat := 0
  macsec : Bool := false
  cls : Option Nat := none
  dest : Option Nat := none
  tx : Option (HostId × Nat) := none
  rtag : Option (Nat × Nat × Nat) := none
deriving DecidableEq, Repr

/-- A DFP tag as R453 lays it out. -/
structure DfpTag where
  type : Nat := 0
  ce : Bool := false
  void : Bool := false
  seq : Bool := false
  ver : Nat := 0
  srcDev : Nat := 0
  dstDev : Nat := 0
  srcPort : Nat := 0
  dstPort : Nat := 0
  tc : Nat := 0
  hops : Nat := 31
  fid : Nat := 0
deriving DecidableEq, Repr

/-- A PDU that a batch frame carries (R398): the sequence tag of an admitted PDU, the TX completion that waits for it, the ingress
port, the LT of its last bit at the ingress boundary, and the bytes of its ACF messages. -/
structure Part where
  seq : Option (Nat × Nat × Nat) := none
  tx : Option (HostId × Nat) := none
  inPort : Nat
  arrive : Nat := 0
  size : Nat := 0
deriving DecidableEq, Repr

/-- A buffer (R134): the descriptor's fields, the frame and its ingress metadata, the class in which it is queued, its FID,
whether its data hold an uncorrectable error (R154), the batch channel whose quota it was drawn from (R402), the PDUs of a batch
frame, the egress port of a reserved owner, and the owners whose copy has departed. A buffer whose owner mask is 0 is free; its
descriptor stays readable (R162). -/
structure Buf where
  pkt : Pkt
  len : Nat
  owner : Nat
  handle : Nat := 0xFFFF
  ofStream : Bool := false
  seq : Option (Nat × Nat) := none
  tc : Nat := 0
  fid : Nat := 0
  bad : Bool := false
  chan : Option Nat := none
  parts : List Part := []
  departed : Nat := 0
deriving DecidableEq, Repr

/-- A link cell with what one owner's copy carries (R135, R101): the index of the cell in link SRAM, the buffer, whether the cell came from a stream's quota, `REASON`
and `RULE`, the queue set that a redirect names, the DFP tag of a copy for a fabric port, the handle, epoch and number of a void
(R347: a void has no buffer), the LT of its append, and whether it has been counted as waiting under a packet-number hold (R428). -/
structure Cell where
  link : Nat := 0
  buf : Nat
  ofStream : Bool := false
  reason : Nat := 0
  rule : Nat := 0xFFFF
  qs : Option Nat := none
  tag : Option DfpTag := none
  void : Option (Nat × Nat × Nat) := none
  at_ : Nat := 0
  held : Bool := false
deriving DecidableEq, Repr

/-- A copy that waits for recovery or for the batch builder after stage 7 (R351, R398): its quadrant, the buffer, and for the
batch builder the port, the class of the copy and its cell. -/
structure Waiting where
  quad : Nat
  buf : Nat
  port : Nat := 0
  tc : Nat := 0
  cell : Option Cell := none
deriving DecidableEq, Repr

/-- The packet memory (R128 to R156): buffers by index, queues by port × 8 + class (head first, an empty queue is not listed),
frames in staging by port (oldest first), whether the ingress slices are stopped (R65, R159), the frames of SV that wait meanwhile, the copies that wait for recovery
and for the batch builder with the quadrant last served (R351, R398), and the LT of the last corrected error event of each
memory (R153). (DESIGN CHOICE, log entry 113) -/
structure MemSt where
  bufs : Keyed Buf := []
  queues : Keyed (List Cell) := []
  staging : Keyed (List Pkt) := []
  stopped : Bool := false
  svWait : List Pkt := []
  recWait : List Waiting := []
  recLast : Nat := 3
  batchWait : List Waiting := []
  batchLast : Nat := 3
  lastEcc : Keyed Nat := []
deriving DecidableEq, Repr

end Sys2Proof.Machine
end

