-- ==== Sys2Proof/Machine/StHedge.lean ====
section
/-! DEFINITION. State of the hedge (chapter 06). -/

namespace Sys2Proof.Machine

/-- A rule (R205): key value, mask and result word. -/
structure HRule where
  value : Nat
  mask : Nat
  result : Nat
deriving DecidableEq, Repr

/-- One hedge set of a quadrant (R216): zone map by port, matrix rows by zone, extraction words by profile × 16 + extraction,
rules, meters and mirror destinations by index. What is not listed is at the default of R224. -/
structure HSet where
  zones : Keyed Nat := []
  matrix : Keyed Nat := []
  profiles : Keyed Nat := []
  rules : Keyed HRule := []
  meters : Keyed Nat := []
  mirrors : Keyed Nat := []
deriving DecidableEq, Repr

/-- The hedge of one quadrant: both sets, the items of the active set that an uncorrectable error has hit and those of them
that were staged again (R222), counters by rule (frames, bytes), by zone pair and by meter, meter buckets (tokens in the
meter's unit, LT of that level; a bucket not listed is full), and the LT of the last log and of the last corrected-error event. -/
structure HQuad where
  active : HSet := {}
  shadow : HSet := {}
  errs : List (Nat × Nat) := []
  restaged : List (Nat × Nat) := []
  ruleCtr : Keyed (Nat × Nat) := []
  zoneCtr : Keyed Nat := []
  meterCtr : Keyed Nat := []
  buckets : Keyed (Nat × Nat) := []
  lastLog : Option Nat := none
  lastEcc : Option Nat := none
deriving DecidableEq, Repr

/-- The key of a pinhole (R211, R215). -/
structure PhKey where
  type : Nat
  proto : Nat := 0
  flags : Nat := 0
  pS : Nat := 0
  pD : Nat := 0
  src : Nat := 0
  dst : Nat := 0
deriving DecidableEq, Repr

/-- A pinhole (R215). -/
structure Pinhole where
  key : PhKey
  zone : Nat
  opener : Nat
  rule : Nat
  idle : Nat
  remain : Nat
deriving DecidableEq, Repr

/-- The hedge: the quadrants, the device-wide pinhole table by index, the LT of the sweeper's next tick and of the last
`EV_HEDGE_PH_FULL`. R646 leaves the phase of the sweeper open: its first tick falls 100 ms after LT 0, and each next one 100 ms later. (DESIGN
CHOICE, log entry 127) -/
structure HedgeSt where
  quads : Keyed HQuad := []
  holes : Keyed Pinhole := []
  sweepDue : Nat := 100000000
  lastFull : Option Nat := none
deriving DecidableEq, Repr

end Sys2Proof.Machine
end

