-- ==== Sys2Proof/Machine/StEgress.lean ====
section
/-! DEFINITION. State of the egress ports (chapter 08). -/

namespace Sys2Proof.Machine

/-- A class entry of an egress set (R278): 0 strict, 1 credit-based, 2 token bucket; kb/s; bytes. -/
structure EClass where
  mode : Nat
  rate : Nat
  burst : Nat
deriving DecidableEq, Repr

/-- An egress set (R278): port settings, list entries by index (R272), class entries by class. List entries and class entries that
are not listed are at the default of R648. -/
structure ESet where
  cycle : Nat := 1000000
  base : Nat := 0
  dom : Nat := 0
  shutterEn : Bool := false
  listLen : Nat := 1
  addFrag : Nat := 0
  preemptEn : Bool := false
  verifyEn : Bool := false
  preemptable : Nat := 0
  list : Keyed Nat := []
  classes : Keyed EClass := []
deriving DecidableEq, Repr

/-- A shaper's level at an LT: tokens in 1/8 000 000 byte, or credit in 1/1 000 000 bit. -/
structure Shaper where
  lvl : Int
  at_ : Nat
deriving DecidableEq, Repr

/-- What an egress scheduler has put on the wire, or has suspended (R288): the class, the cell of the copy, the LT of the start point of its
present fragment at the boundary (R243), the bytes on the wire that this fragment and what follows it still take (R264, R288), the bytes of the frame
already sent in earlier fragments, whether it may be preempted, the bytes as they leave, and the LT of the start point of the whole frame. -/
structure Sending where
  tc : Nat
  cell : Cell
  first : Nat
  wire : Nat
  sent : Nat := 0
  preemptable : Bool := false
  bytes : Bytes := []
  started : Nat := 0
deriving DecidableEq, Repr

/-- A fixed flip (R280): the time F on a domain, and the command that completes at F; `none` for one of `FN_QUIESCE`. -/
structure EFlip where
  f : Nat
  dom : Nat
  cmd : Option CmdCtx
deriving DecidableEq, Repr

/-- An egress port. `hold` says that a Set-And-Hold-MAC entry has taken force and no Set-And-Release-MAC entry since (R289); `sending` is the frame
that was selected last, `leaving` those selected before it whose last bit has not passed, oldest first (R274). `paused` holds the LT at which a class's pause runs out, `pausedAt` since when it has been paused without a
break, `stuck` the classes reported, `ignore` the LT of the last pause of a class that ignores pauses (R294); `pfcOut` the
classes paused towards the neighbour and `pfcAt` the LT of the last pause of each (R293); `park` the lane (0 awake, 1 entering,
2 quiet, 3 waking) with the LT since when, the LT of the first best-effort arrival and of the ready point; `window` the start of
the 100 µs window of R297 and the ns spent in it; `gates` the gates as the shapers last saw them; `freeAt` the LT at which the port is next free
to start a frame. -/
structure EPort where
  active : ESet := {}
  shadow : ESet := {}
  flip : Option EFlip := none
  copying : Bool := false
  shapers : Keyed Shaper := []
  gates : Nat := 255
  hold : Bool := false
  sending : Option Sending := none
  leaving : List Sending := []
  suspended : Option Sending := none
  paused : Keyed Nat := []
  pausedAt : Keyed Nat := []
  stuck : List Nat := []
  ignore : Keyed Nat := []
  pfcOut : Nat := 0
  pfcAt : Keyed Nat := []
  verify : Nat := 0
  park : Nat := 0
  parkAt : Nat := 0
  beFirst : Option Nat := none
  readyAt : Nat := 0
  window : Nat := 0
  spent : Nat := 0
  freeAt : Nat := 0
deriving DecidableEq, Repr

/-- Egress as a whole: ports, commands that wait for a port's flip (R283), the LT at which tokens and
credit were last set to 0, the energy level in pJ at an LT, since when it has been
at or below 0 and whether that was reported, the LT of the last report, the LT of the last debit with the level before that clock and the quadrants
that have debited in it (R296), histogram bins by (port × 8 + class) × 32 + bin
(depth bins first), and the LT of the next sample. -/
structure EgrSt where
  ports : Keyed EPort := []
  waiting : List (Nat × CmdCtx) := []
  zeroAt : Nat := 0
  energy : Int := 500000000
  energyAt : Nat := 0
  emptySince : Option Nat := none
  emptyTold : Bool := false
  emptyLast : Option Nat := none
  clockAt : Nat := 0
  clockLvl : Int := 0
  clockQuads : List Nat := []
  bins : Keyed Nat := []
  histDue : Nat := 10000
deriving DecidableEq, Repr

/-- A link of an Ethernet port: its rate in kb/s and whether it has negotiated EEE. A port that is not listed has no link. -/
structure Link where
  rate : Nat
  eee : Bool := false
deriving DecidableEq, Repr

end Sys2Proof.Machine
end

