-- ==== Sys2Proof/Machine/StFab.lean ====
section
/-! DEFINITION. State of the fabric protocol (chapter 13) as firmware holds it. -/

namespace Sys2Proof.Machine

/-- A neighbour on a fabric port (R459): the last hello, its LT, the consecutive hellos of its identity, and whether it is up. -/
structure Nbr where
  hello : Hello
  last : Nat
  count : Nat
  up : Bool := false
deriving DecidableEq, Repr

/-- A stream in the coordinator's admission database (R466): its ingress device, contract and paths, which of the
paths are Committed, whether a fault window is open (R55), and whether the stream is Committed, be every path lost. -/
structure AdmRec where
  ingress : Nat
  contract : Bytes
  paths : List PathRec
  upA : Bool := false
  upB : Bool := false
  window : Bool := false
  committed : Bool := false
deriving DecidableEq, Repr

/-- A command that waits for an answer of another device (R474, R475): the opcode, the device, the LT at which it ends in `STATE`. -/
structure FarCmd where
  cmd : CmdCtx
  opcode : Nat
  device : Nat
  deadline : Nat
deriving DecidableEq, Repr

/-- The fabric protocol: neighbours by port (0 to 7, 75), the link-state database by identity, the sequence number of the own
LINK_STATE, the sequence numbers of the control messages sent by MSG (R457), the coordinator's and the successor's identity, the LT of the last COORD and of the first neighbour, the assigned
addresses by identity, the LT of the messages last sent, the size mode that the fabric has (large), the switch of it that is announced (D0 time,
large), since when
at most 16 devices hold an address, the gossip bodies by address with the LT since when their generation has been behind, the
section digests fetched by address, the findings reported (section, device, kind), the admission database and the answers that wait for
the successor, the seat that a conflict keeps from the device with its holder's identity (R461), the remote commands that wait, the HELLO
bodies by port and the GOSSIP body that firmware last sent (R498), and the digests of the sixteen sections (R470). -/
structure FabSt where
  nbrs : Keyed Nbr := []
  db : Keyed LinkState := []
  seq : Nat := 0
  msgSeq : Keyed Nat := []
  coord : Nat := 0
  succ : Nat := 0
  lastCoord : Nat := 0
  firstUp : Option Nat := none
  assigned : List (Nat × Nat) := []
  lastHello : Nat := 0
  lastLs : Nat := 0
  lastGossip : Nat := 0
  sentCoord : Nat := 0
  large : Bool := false
  switch : Option (Nat × Bool) := none
  smallSince : Option Nat := none
  gossip : Keyed Gossip := []
  behind : Keyed Nat := []
  digests : Keyed Bytes := []
  found : List (Nat × Nat × Nat) := []
  admDb : Keyed AdmRec := []
  answers : List (Nat × Nat × PathsMsg) := []
  noSeat : Option (Nat × Nat) := none
  far : List FarCmd := []
  helloSaid : Keyed Hello := []
  gossipSaid : Option Gossip := none
  secs : List Bytes := []
deriving DecidableEq, Repr

end Sys2Proof.Machine
end

