-- ==== Sys2Proof/Machine/StKeys.lean ====
section
/-! DEFINITION. State of the key store, the lookaside engine and MACsec (chapter 12). -/

namespace Sys2Proof.Machine

/-- A key in one half of a slot: 16 or 32 bytes, whether it is bound (R437) with the measurement under which its storage blob is
wrapped, and whether it may be exported. -/
structure KeyHalf where
  key : Bytes
  bound : Option Bytes := none
  exportable : Bool := false
deriving DecidableEq, Repr

/-- A key slot (R433, R438): the use attribute once its first key is loaded, the active half and its number, the pending half and
whether it is Checked, the commit generation, the nonce counter with its flash ceiling (R443), the active key's storage blob in
flash, and the measurement of its handover blob with that blob's key (R508). -/
structure Slot where
  attr : Option Nat := none
  act : Option KeyHalf := none
  half : Nat := 0
  pend : Option KeyHalf := none
  checked : Bool := false
  gen : Nat := 0
  nonce : Nat := 0
  ceil : Nat := 0
  blob : Option KeyHalf := none
  hand : Option KeyHalf := none
deriving DecidableEq, Repr

/-- A freshness counter and its flash ceiling (R444). -/
structure Fresh where
  value : Nat := 0
  ceil : Nat := 0
deriving DecidableEq, Repr

/-- The chaining state of a multi-part job (R446): the operation, the slot, the additional data and the text taken so far, the IV, and
the tag or MAC to compare with. -/
structure JobCtx where
  op : Nat
  slot : Nat
  aad : Bytes := []
  text : Bytes := []
  iv : Bytes := []
deriving DecidableEq, Repr

/-- A security association (R424): the key slot, SSCI, salt, next PN (transmit) or lowest acceptable PN (receive), and whether
`EV_KEY_PN_SOFT` has been raised for this install (R427). -/
structure Sa where
  slot : Nat
  ssci : Nat
  salt : Bytes
  pn : Nat
  soft : Bool := false
deriving DecidableEq, Repr

/-- MACsec on a port: transmit SAs by AN, receive SAs by 4 × SC + AN, the peers' SCIs by SC, the transmit AN, the frames held since the
hold began, whether `EV_KEY_PN_HOLD` has been raised for it, and the LT of the last `EV_MSEC_ICV_FAIL`. -/
structure Msec where
  tx : Keyed Sa := []
  rx : Keyed Sa := []
  sci : Keyed Nat := []
  txAn : Option Nat := none
  held : Nat := 0
  told : Bool := false
  lastIcv : Option Nat := none
deriving DecidableEq, Repr

/-- The key store and the engines: slots, freshness counters, the commit records being programmed (slot and command), the owner of the
lock with the LT since when it has been idle, the engine's context, the saved contexts of this start (bytes, context, clear
form), the measurement M (R436), and MACsec by port. -/
structure KeySt where
  slots : Keyed Slot := []
  fresh : Keyed Fresh := []
  writing : Keyed CmdCtx := []
  lock : Option (Src × Nat) := none
  ctx : Option JobCtx := none
  saved : List (Bytes × JobCtx × Bool) := []
  meas : Bytes := List.replicate 48 0
  msec : Keyed Msec := []
deriving DecidableEq, Repr

end Sys2Proof.Machine
end

