-- ==== Sys2Proof/Machine/StLegacy.lean ====
section
/-! DEFINITION. State of the bus gateway (chapter 11): the gateway sets, batches, PDU images, and the CAN, LIN and FlexRay
controllers beyond their registers. -/

namespace Sys2Proof.Machine

/-- A gateway set (R412): the bytes of every entry by `ITEM` × 4096 + index. An entry that is not listed is all zeros. -/
abbrev GwSet := Keyed Bytes

/-- An open batch of a channel (R399): the LT of its opening, the DFP destination device, the buffer that it has taken, the ACF
messages so far and the PDUs. -/
structure Batch where
  openAt : Nat
  device : Option Nat
  buf : Nat
  bytes : Bytes := []
  parts : List Part := []
deriving DecidableEq, Repr

/-- A PDU image (R406 to R410): its 64 data bytes, the LT of the last write (or of the flip), the LT of the last send, whether a
send is deferred, and the LT of the next cyclic trigger. -/
structure Image where
  data : Bytes
  written : Nat
  sent : Option Nat := none
  deferred : Bool := false
  cyclic : Nat := 0
deriving DecidableEq, Repr

/-- A frame in a CAN transmit slot, or in a LIN or FlexRay transmit buffer (R388, R391): the copy and its class, the ingress port,
the internal frame as the controller sends it, and the order of its loading. -/
structure Loaded where
  cell : Cell
  tc : Nat
  inPort : Nat
  frame : Bytes
  order : Nat
deriving DecidableEq, Repr

/-- A CAN controller (R388, R390): its transmit slots, the loading order, and the LT at which automatic recovery starts. -/
structure Can where
  slots : Keyed Loaded := []
  order : Nat := 0
  autoAt : Option Nat := none
deriving DecidableEq, Repr

/-- A transmit buffer of a LIN identifier or a FlexRay message buffer (R391): the fresh frame, and the last internal frame that departed. -/
structure TxBuf where
  fresh : Option Loaded := none
  last : Option Bytes := none
deriving DecidableEq, Repr

/-- A LIN controller (R391, R392): its buffers by identifier, the running table and entry, the table to switch to, the table and
entry to resume after a collision-resolving table, whether the table restarts at the end of the slot (R415), and what a responder answers a header
with until the response ends: the identifier, and whether its buffer was fresh (R391); the LT from which
a commander's running slot stands (R392). -/
structure Lin where
  bufs : Keyed TxBuf := []
  table : Nat := 0
  entry : Nat := 0
  switch : Option Nat := none
  resume : Option (Nat × Nat) := none
  restart : Bool := false
  answer : Option (Nat × Bool) := none
  slotAt : Nat := 0
deriving DecidableEq, Repr

/-- The gateway (R406 to R417). `sig` holds by route the LT at which its timeout was taken; `sigAt` is the LT
of the last flip, from which timeouts count; `chSeq` the last sequence_num of a channel; `frBufs` the FlexRay
transmit buffers, `frOld` the FlexRay message buffers that a flip has replaced and that act until the next cycle starts (R415); `lastDrop` the LT of the last `EV_GW_ENCAP_DROP`. -/
structure GwSt where
  active : GwSet := []
  shadow : GwSet := []
  copying : Bool := false
  images : Keyed Image := []
  sig : Keyed Nat := []
  sigAt : Nat := 0
  batches : Keyed Batch := []
  chSeq : Keyed Nat := []
  cans : Keyed Can := []
  lins : Keyed Lin := []
  frBufs : Keyed TxBuf := []
  frOld : Option GwSet := none
  lastDrop : Option Nat := none
deriving DecidableEq, Repr

end Sys2Proof.Machine
end

