-- ==== Sys2Proof/Machine/StOut.lean ====
section
/-! DEFINITION. What leaves the block: the log of outputs that State keeps (log entry 5), newest first. -/

namespace Sys2Proof.Machine

/-- One thing that left the block. (DESIGN CHOICE, log entry 5) -/
inductive Output where
  /-- The bytes an SPI read or status frame returns (R80). -/
  | spiReply (bytes : Bytes)
  /-- The word a register read returns (R34 to R36). -/
  | regRead (src : Src) (addr value : Nat)
  /-- The word that a read by a core of the triad gives it (R492). -/
  | coreRead (core addr value : Nat)
  /-- A DMA write into host memory (R101, R105, R106). -/
  | hostWrite (h : HostId) (addr : Nat) (bytes : Bytes)
  /-- An MSI-X message (R117, R118). -/
  | msix (h : HostId) (addr data : Nat)
  /-- A DMA read request to host memory: of doorbell slots (R91), of the parameters of a command (R104), of the data that a command names
  (R442, R502, R597). -/
  | hostRead (h : HostId) (addr len : Nat)
  /-- A read through BAR 2 completes (R476, R481): 0 with data, 1 Unsupported Request, 2 Completer Abort. -/
  | barRead (h : HostId) (status : Nat) (bytes : Bytes)
  /-- A transaction of an SPI master (R487): its mode and the period of its clock in ns, the bytes it sends, and how many it then reads. -/
  | spiBus (master mode period : Nat) (bytes : Bytes) (reads : Nat)
  /-- A cycle of the parallel bus (R487): chip select, its set-up, strobe and hold in ns, `LBUS_A[23:1]`, the bytes enabled (bit 0 `LBUS_D[7:0]`),
  and on a write the data. -/
  | busCycle (cs setup strobe hold addr lanes : Nat) (data : Option Nat)
  /-- Data that a job of the firmware writes (R442). -/
  | fwData (addr : Nat) (bytes : Bytes)
  /-- A command of the firmware completes (it has no EVQ). -/
  | fwComplete (opcode status : Nat) (reply : Bytes)
  /-- A TIME_OUT pin takes a level (R252, R255): high (true), low, or none, its high impedance. -/
  | pulse (pin : Nat) (level : Option Bool)
  /-- A MAC control frame that is not queued: PFC (R293). -/
  | control (port : Nat) (bytes : Bytes)
  /-- A control message of DFP leaves on a fabric port (R457); `dst` is the device that it is for, 0 for the neighbour or for all,
  `seq` the sequence number of its header. -/
  | message (port dst seq : Nat) (m : DfpMsg)
  /-- A checkpoint leaves for the pair peer, on the pair bus or in full over PL (R365, R366). -/
  | checkpoint (c : Ckpt)
  /-- A heartbeat leaves on the pair bus (R363). -/
  | heartbeat (h : Heartbeat)
  /-- A wake request of a handover leaves on the pair bus (R370). -/
  | wakePeer
  /-- A wake leaves towards the nodes of a port: TC10 pulse or request, LIN dominant pulse (R530, R542). -/
  | wakeSignal (port : Nat)
  /-- A TC10 sleep handshake begins on a trained T1 link (R524, R529). -/
  | sleepRequest (port : Nat)
  /-- A TC10 sleep request is answered (R529). -/
  | sleepAnswer (port : Nat)
  /-- What a data register of the debug port shifts out, by instruction (R633). -/
  | jtag (instr : Nat) (bytes : Bytes)
  /-- The last bit of a frame passes an egress port (R43): the bytes, of an Ethernet frame those from the first after the SFD to the last of its FCS,
  of a legacy one its internal frame; the reported start point (R244), and the LT of the end point. -/
  | frame (port : Nat) (bytes : Bytes) (start : Stamp) (last : Nat)
  /-- A LIN port sends the last data of a stale buffer again (R391): the internal frame that they came with. It departs no frame. -/
  | resend (port : Nat) (bytes : Bytes)
  /-- A FlexRay port fills a static slot whose buffer is stale with a null frame (R391). -/
  | nullFrame (port slot : Nat)
deriving DecidableEq, Repr

end Sys2Proof.Machine
end

