-- ==== Sys2Proof/Machine/StPair.lean ====
section
/-! DEFINITION. State of the pair (chapter 10) beyond its registers, and of the configuration image and the settings store in flash
(R356, R597). -/

namespace Sys2Proof.Machine

/-- The pair: the peer's identity and its last heartbeat, the LT of that heartbeat, whether the peer is declared lost, the LT at which the
unit's own watch of the peer began, whether the unit has forwarded since its start (R364), whether `EV_PAIR_MISMATCH` has been
raised, whether this unit pulls its own line, whether the peer drives it, whether the role at start is still to be decided (R365), whether the role is Cold and a checkpoint stands in the keep store, the LT of the last
checkpoint and of the last heartbeat sent, the LT at which `FENCE_WAIT` ends, the LT of the detection, since when the peer's line has been
low, whether the bus ports still wait for `BUS_FENCE`, whether the takeover is a handover, whether its event has been told, the LT at which
a handover's overlap ends, what the peer is known to hold of this unit's checkpoints and what it holds once the last one sent has arrived (R366), the LT at which the last complete one was sent (R370), and
whether `EV_PAIR_HANDOVER_READY` has been raised. -/
structure PairSt where
  peerUid : Nat := 0
  peer : Option Heartbeat := none
  lastHb : Nat := 0
  lost : Bool := false
  watch : Nat := 0
  forwarded : Bool := false
  mismatch : Bool := false
  pull : Bool := false
  ckpt : Option Ckpt := none
  lastCkpt : Nat := 0
  ckBase : Option Ckpt := none
  ckSent : Option Ckpt := none
  ckDone : Nat := 0
  sentHb : Nat := 0
  waitTill : Option Nat := none
  detected : Nat := 0
  forced : Bool := false
  deciding : Bool := false
  peerLow : Option Nat := none
  busWait : Bool := false
  handover : Bool := false
  told : Bool := true
  overlap : Option Nat := none
  readyTold : Bool := false
deriving DecidableEq, Repr

/-- What external flash holds beside firmware and keys: the newest configuration image (R597), the image whose store runs with the command, and
the epoch of every stream that enters here (R356). `loaded` is the image that the last start applied, empty where it applied none (R596, R599). -/
structure FlashSt where
  image : Bytes := []
  loaded : Bytes := []
  store : Option (CmdCtx × Bytes) := none
  epochs : Keyed Nat := []
deriving DecidableEq, Repr

/-- What the transmitter of a port puts out (R361): what its controller drives, or a state of the fence. -/
inductive TxState where
  | driven | electricalIdle | silentHighZ | offNoPlca | recessive | inactiveIdle
deriving DecidableEq, Repr

end Sys2Proof.Machine
end

