-- ==== Sys2Proof/Machine/StPower.lean ====
section
/-! DEFINITION. State of the supervisor and of firmware images (chapter 14), of the power ladder and the supplies (chapter 16), and of resets and
quiesces (chapter 17), beyond the registers. -/

namespace Sys2Proof.Machine

/-- An image slot in flash (R499, R504): its state, its header, the blocks received by index, and whether the background erase of the slot has
ended. -/
structure ImgSlot where
  state : Nat := 0
  header : Bytes := []
  blocks : Keyed Bytes := []
  erased : Bool := true
deriving DecidableEq, Repr

/-- An activation that runs (R507 to R510): its command, the slot, the slot that ran before, the phase (1 sealed handover, 2 pause, 3 the boot
of the previous slot after a failure), and the LT at which the pause started. -/
structure Activation where
  cmd : CmdCtx
  slot : Nat
  prev : Nat
  phase : Nat := 1
  pauseAt : Nat := 0
deriving DecidableEq, Repr

/-- A value in the replay buffer (R492): the address read, its value, and the cores, as a mask, that have not come to the read yet. -/
structure Replay where
  addr : Nat
  value : Nat
  left : Nat
deriving DecidableEq, Repr

/-- The supervisor: the private SRAM of the cores, by core × 2^21 + address, as far as it has been written, the replay buffer, the image slots, the activation journal (generation, slot, state; newest first), the version and generation of the settings
copy, the activation that runs, the LT at which a Trial image began to run, the LT at which a supervisor restart or boot began, the core that is
resynchronised with the LT of its start, the resynchronisations of the last second (core, LT), the core and the LT of the last restart by
`EV_SUP_UNSTABLE`, the cause of a fallback whose boot runs, the settings version whose migrated copy waits for the end of brace, and whether power loss met an activation before its record stood (R506). At
State.reset flash holds a confirmed image in slot A (log entry 12). -/
structure SupSt where
  sram : Keyed Nat := []
  replay : List Replay := []
  slots : Keyed ImgSlot := [(0, { state := 4 })]
  journal : List (Nat × Nat × Nat) := [(0, 0, 4)]
  setVersion : Nat := 1
  setGen : Nat := 0
  act : Option Activation := none
  trialAt : Option Nat := none
  restartAt : Option Nat := none
  resync : Option (Nat × Nat) := none
  recent : List (Nat × Nat) := []
  unstable : Option (Nat × Nat) := none
  fallback : Option Nat := none
  migrate : Option Nat := none
  cut : Bool := false
deriving DecidableEq, Repr

/-- An entry into a state that runs (R555): the target, who asked (0 host, 1 sleep logic, 2 idle entry), and the LT of its start. -/
structure Entering where
  target : Nat
  who : Nat
  start : Nat
deriving DecidableEq, Repr

/-- An exit that runs (R559, R563): the state left, the cause, the LT of the trigger, and whether a warm reset follows, with its kind. -/
structure Leaving where
  left : Nat
  cause : Nat
  start : Nat
  warm : Option Nat := none
deriving DecidableEq, Repr

/-- The device state, 0 to 5 for S0 to S5 and 6 while the device is held in power-on reset, the entry and the exit that run, the islands that still wait for their ramp and those that ramp (R565, R566), the
LT at which brace began and at which the present state began, the frame, ring or command activity last seen (R552), whether `EV_PWR_HOT` has been
raised (R575), and the exit whose event waits for firmware. -/
structure PwrSt where
  state : Nat := 0
  entry : Option Entering := none
  exit : Option Leaving := none
  ramps : Nat := 0
  ramping : Nat := 0
  braceAt : Nat := 0
  stateAt : Nat := 0
  active : Nat := 0
  hot : Bool := false
  tell : Option Leaving := none
deriving DecidableEq, Repr

/-- A warm reset that runs (R65 to R67, R583): its kind as `EV_RST_READY` names it, the LT of its start and of the drain limit, the copies discarded at
the limit, and whether the drain has ended. -/
structure Warm where
  kind : Nat
  start : Nat
  limit : Nat
  cut : Nat := 0
  done : Bool := false
deriving DecidableEq, Repr

/-- Resets: the warm reset that runs, one that waits for a stop window, an exit or a pause to end, whether `WRESET_N` and `PORESET_N` are low,
the start whose firmware does not run yet (kind as `EV_RST_READY` names it, µs from the start to forwarding, LT of forwarding), the
`EV_RST_READY` that waits for a link (kind, µs to forwarding, µs to firmware), and the cause of the next start with its rail, as
`PWR_RESET_CAUSE` codes them. -/
structure RstSt where
  warm : Option Warm := none
  waiting : Option Nat := none
  pinLow : Bool := false
  porLow : Bool := false
  boot : Option (Nat × Nat × Nat) := none
  ready : Option (Nat × Nat × Nat) := none
  cause : Nat := 3
  rail : Nat := 0
deriving DecidableEq, Repr

/-- A quiesce that waits for its boundary: its command (none for an escalation), the LT of its start, and for the egress function the ports
still to flip. -/
structure Quiesce where
  cmd : Option CmdCtx
  start : Nat
  ports : List Nat := []
deriving DecidableEq, Repr

/-- Function holds as (function, target, host) (R591), the carving flip that drains (R159), egress quiesces that wait for their flips,
and the LT at which the last stop window began (R610). -/
structure FnSt where
  holds : List (Nat × Nat × Nat) := []
  carve : Option Quiesce := none
  flips : List Quiesce := []
  stopAt : Option Nat := none
deriving DecidableEq, Repr

end Sys2Proof.Machine
end

