-- ==== Sys2Proof/Machine/StStream.lean ====
section
/-! DEFINITION. State of admitted streams at this device (chapters 02, 09, 10). -/

namespace Sys2Proof.Machine

/-- Where a stream stands at this device (R309 to R315): waiting for paths or for the verdict at the ingress device, Tentative,
committing, Committed, or draining after a withdrawal. -/
inductive SPhase where
  | asking | requested | tentative | committing | committed | withdrawing
deriving DecidableEq, Repr

/-- A copy that recovery holds or pends (R352): epoch, number, buffer, LT of its arrival. -/
structure HeldCopy where
  epoch : Nat
  number : Nat
  buf : Nat
  at_ : Nat
deriving DecidableEq, Repr

/-- The recovery state of a stream at a destination device (R351, R352). -/
structure Recov where
  synced : Bool := false
  epoch : Nat := 0
  next : Nat := 0
  skew : Nat := 0
  closing : Bool := false
  newEpoch : Nat := 0
  closeAt : Nat := 0
  held : List HeldCopy := []
  pended : List HeldCopy := []
deriving DecidableEq, Repr

/-- The contract counter set (R71); the last three are by destination port. -/
structure CcSet where
  offered : Nat := 0
  policeDrop : Nat := 0
  policeDemote : Nat := 0
  refused : Nat := 0
  accepted : Nat := 0
  overrun : Nat := 0
  faultDiscard : Nat := 0
  maxResidence : Nat := 0
  delivered : Keyed Nat := []
  eliminated : Keyed Nat := []
  gap : Keyed Nat := []
deriving DecidableEq, Repr

/-- A number that the ingress device has drawn and not yet settled (R44 to R46, R346, R347): the departure set, the first-hop ports in it, the ports
that are still to depart or discard, those that have departed, and the last first-hop port that was up when its copy was discarded. -/
structure HeldNum where
  epoch : Nat
  number : Nat
  set : Nat
  firsts : Nat
  left : Nat
  departed : Nat := 0
  lastUp : Option Nat := none
  accepted : Bool := false
deriving DecidableEq, Repr

/-- A stream at this device: its contract (the 64 bytes of R307), its role, paths and hops, the *LEN* of R318 and R402, the quota of R331 (pool, buffers, link
cells), the energy of R332 in µW, the figures of the verdict, timers as LT, the command that waits, the hops whose commit
acknowledgement is still missing as (path, device), the paths whose verdict is 0, the requests that a destination
has received while it waits for the other path as (path, port, upstream sum, least time), the path that is re-run with its new record, the paths whose
re-run was refused (R316), the hops that a path has left, whose copies may still wait (R359), whether the stream comes from an admission image (R338), the meter's bucket (R335) in 1/`INTERVAL` byte with the LT of that level, the
epoch and next number of R356 and whether the epoch's flash record is written (R357), the numbers not yet settled, recovery, counters, what the last PATHS
message said (both paths Committed, fault window open; R590), and the LT at which `EV_ADM_QUOTA_DISCARD` counts to (R121). -/
structure Stream where
  contract : Bytes
  phase : SPhase
  ingress : Bool := false
  transit : Bool := false
  dests : List Nat := []
  paths : List PathRec := []
  hops : List Hop := []
  len : Nat := 0
  pool : Nat := 0
  quotaBufs : Nat := 0
  quotaLinks : Nat := 0
  energy : Nat := 0
  stated : Nat := 0
  sumA : Nat := 0
  sumB : Nat := 0
  skew : Nat := 0
  since : Nat := 0
  deadline : Nat := 0
  cmd : Option (Nat × CmdCtx) := none
  acks : List (Nat × Nat) := []
  verdicts : List (Nat × Nat) := []
  got : List (Nat × Nat × Nat × Nat) := []
  rerun : Option Nat := none
  newPath : Option PathRec := none
  dead : List Nat := []
  former : List Hop := []
  meter : Nat := 0
  meterAt : Nat := 0
  epoch : Nat := 0
  next : Nat := 0
  written : Bool := true
  pend : List HeldNum := []
  recov : Option Recov := none
  cc : CcSet := {}
  pathsSaid : Option (Bool × Bool × Bool) := none
  quotaUntil : Option Nat := none
  quotaCount : Nat := 0
deriving DecidableEq, Repr

/-- The admission section that runs (R338): the records left with their `FINDAR_BOUND`, the handle now requested with its
`FINDAR_BOUND`, the counts so far, and the
records of sections that wait. -/
structure AdmJob where
  left : List (Bytes × Nat) := []
  cur : Option (Nat × Nat) := none
  running : Bool := false
  more : List (List (Bytes × Nat)) := []
  admitted : Nat := 0
  refused : Nat := 0
  skipped : Nat := 0
deriving DecidableEq, Repr

end Sys2Proof.Machine
end

