-- ==== Sys2Proof/Machine/StTables.lean ====
section
/-! DEFINITION. State of the forwarding tables of one quadrant (chapter 05). -/

namespace Sys2Proof.Machine

/-- A valid L2 entry (R169), with the LT at which its last insert or move committed (R177) and its moves in the present
interval (R179). -/
structure L2Entry where
  pin : Bool := false
  hit : Bool := true
  seenClear : Bool := false
  locked : Bool := false
  kind : Nat := 0
  tcOvrEn : Bool := false
  tcOvr : Nat := 0
  device : Nat := 0
  port : Nat := 0
  group : Nat := 0
  handle : Nat := 0xFFFF
  fid : Nat := 0
  mac : Nat := 0
  last : Nat := 0
  moves : Nat := 0
deriving DecidableEq, Repr

/-- A learn request (R175): the station and the destination that it would learn. -/
structure LearnReq where
  fid : Nat
  mac : Nat
  kind : Nat
  device : Nat
  port : Nat
deriving DecidableEq, Repr

/-- Phases of a rehash between its steps (R184): the pinned-entry check under the new seed, and the copy. -/
inductive Rehash where
  | idle
  | check (seed : Nat)
  | copy (seed : Nat)
deriving DecidableEq, Repr

/-- The tables of one quadrant (R166, R167). An L2 bank is keyed by position: bucket × 4 + slot, and 32768 + index for the
overflow store. The stream-identification table is keyed by bucket × 4 + slot, the route, FID and group tables by index;
their entries are held as the words of R185 and R186. `rakeRan` is the time in ns for which the rake has run, and `rakeDue` the rake's next visit
on that count, which alone its spacing follows (R180). `lost` lists the route and stream entries that uncorrectable errors have removed and firmware
has not restored yet (R191): table, position, word. `moveEnd` is the LT of the end of the present move interval; `lastReq` and `lastEcc`
those of the last event that R183 and R191 limit. -/
structure QTab where
  serve : Keyed L2Entry := []
  target : Keyed L2Entry := []
  sid : Keyed Nat := []
  route : Keyed Nat := []
  fid : Keyed Nat := []
  group : Keyed Nat := []
  lost : List (Nat × Nat × Nat) := []
  queue : List LearnReq := []
  rakeNext : Nat := 0
  rakeRan : Nat := 0
  rakeDue : Nat := 0
  moveEnd : Nat := 0
  gen : Nat := 0
  rehash : Rehash := .idle
  lastReq : Option Nat := none
  lastEcc : Option Nat := none
deriving DecidableEq, Repr

end Sys2Proof.Machine
end

