-- ==== Sys2Proof/Machine/StTrn.lean ====
section
/-! DEFINITION. State of Transom and LBUS (chapter 13) beyond the registers. -/

namespace Sys2Proof.Machine

/-- A request that is not answered (R478): its device, the window's tag of a posted write, the LT of its start and of the last sending, and
how often it has been sent again. -/
structure TrnOut where
  device : Nat
  req : TrnReq
  wtag : Nat
  start : Nat
  sent : Nat
  again : Nat := 0
deriving DecidableEq, Repr

/-- A lock on a bus here: the device and host of the sequence that holds it, and the LT of the grant. -/
structure BusLock where
  dev : Nat
  host : Nat
  at_ : Nat
deriving DecidableEq, Repr

/-- A locked sequence of an own host (R484, R485): the buses (device, bus) in locking order, those held, the one last asked for, and while it
yields the LT at which its back-off ends; and whether it ends once its writes have been performed. -/
structure LockSeq where
  all : List (Nat × Nat)
  held : List (Nat × Nat) := []
  asked : Option (Nat × Nat) := none
  backoff : Option Nat := none
  closing : Bool := false
deriving DecidableEq, Repr

/-- Transom: the requests outstanding, the next message tag by host, the answers kept of each source host (device × 2 + host, the newest first),
the locks on the own buses (0 to 3 the SPI masters, 4 the parallel bus), those that wait for them in order as (device, host), the sequences by
host, the references of the poll entries and the LT of their last sample. -/
structure TrnSt where
  outs : List TrnOut := []
  tags : Keyed Nat := []
  kept : Keyed (List (Nat × Nat × Bytes)) := []
  locks : Keyed BusLock := []
  waits : Keyed (List (Nat × Nat)) := []
  seqs : Keyed LockSeq := []
  refs : Keyed Nat := []
  polled : Keyed Nat := []
deriving DecidableEq, Repr

end Sys2Proof.Machine
end

