-- ==== Sys2Proof/Machine/StWake.lean ====
section
/-! DEFINITION. State of network sleep and wake (chapter 15) beyond its registers. -/

namespace Sys2Proof.Machine

/-- A sleep commit that the device has received (R536, R537): the clusters, the commit time on D0, whether this device is named in
`MAY_SLEEP`, and whether the commit time has passed. -/
structure SleepCommit where
  clusters : Nat
  at_ : Nat
  may : Bool
  done : Bool := false
deriving DecidableEq, Repr

/-- The vote of another device, as last received (R536). -/
structure FarVote where
  part : Nat
  at_ : Nat
deriving DecidableEq, Repr

/-- A wake event that waits for a state exit: source and which as `EV_WAKE_EVENT` names them, the clusters, and the LT of the event. -/
structure WakeDue where
  source : Nat
  which : Nat
  clusters : Nat
  at_ : Nat
deriving DecidableEq, Repr

/-- Network sleep and wake: wake holds by cluster with the LT of their expiry, and which of them are confirmed (R531); the commits
received; the clusters now committed; whether the last commit names this device in `MAY_SLEEP`; per port the LT at which its change of state
started (R524); the votes of other devices by address; per cluster the LT of the last awake vote (R536); the CAN ports, as a mask, whose wake
image is sent once they are in normal (R530); the wake events that wait for an exit (R542); the WAKE message that waits for a neighbour as
(clusters, cause); the LT of the last flood of the vote and the vote then sent; and the LT at which `SLEEP_STATE` is requested again
(R539). -/
structure WakeSt where
  holds : Keyed Nat := []
  confirmed : Nat := 0
  commits : List SleepCommit := []
  committed : Nat := 0
  may : Bool := false
  since : Keyed Nat := []
  sendWake : Nat := 0
  due : List WakeDue := []
  say : Option (Nat × Nat) := none
  votes : Keyed FarVote := []
  quiet : Keyed Nat := []
  lastVote : Nat := 0
  sentVote : Nat := 0
  sentPart : Nat := 0
  retry : Option Nat := none
deriving DecidableEq, Repr

end Sys2Proof.Machine
end

