-- ==== Sys2Proof/Machine/State.lean ====
section
/-! DEFINITION. The state of the block: every piece of state that the spec names, as plain data, the queue of commands that
wait, and the state after reset. -/

namespace Sys2Proof.Machine

/-- Why the machine stops with a fault. -/
inductive Fault where
  /-- ETHERNET_LINK_UP names a rate that the port kind does not have (R604); no device trains at it. Raised by that row alone (log entry 102).
  Safe: the hardware never sees such a command. -/
  | illFormed
deriving DecidableEq, Repr

/-- Why a command has no meaning in this model. -/
inductive Refusal where
  /-- A command that has no meaning yet. Raised by an arm of `exec` only. Safe. -/
  | notModelled (mnemonic : String)
deriving DecidableEq, Repr

/-- The state of the block (INVENTORY.md, State). -/
structure State where
  /-- The commands that wait, first in first out. -/
  pending : List Instr := []
  /-- Stored register words that differ from their reset value, by address (R33). -/
  regs : Keyed Word := []
  /-- 64-bit counters that are not 0, by the address of their low word (R36). -/
  ctrs : Keyed Nat := []
  /-- How many free values have been taken (log entry 6). -/
  free : Nat := 0
  /-- What left the block, newest first (log entry 5). -/
  out : List Output := []
  /-- The register bus and its shadows. -/
  bus : BusSt := {}
  /-- Endpoint HA (P72). -/
  hostA : HostSt := {}
  /-- Endpoint HB (P73). -/
  hostB : HostSt := {}
  /-- Fault handling. -/
  flt : FltSt := {}
  /-- The timekeeper. -/
  time : TimeSt := {}
  /-- The forwarding tables, by quadrant (R166). -/
  tabs : Keyed QTab := []
  /-- The pair mode in force: 0 none, 1 cold-frame, 2 hot-pair (R364). -/
  pairMode : Nat := 0
  /-- The hedge (R224). -/
  hedge : HedgeSt := {}
  /-- The egress ports (R303). -/
  egr : EgrSt := {}
  /-- The links of the Ethernet ports that are up (R649). -/
  links : Keyed Link := []
  /-- Is the device in brace (R569)? -/
  brace : Bool := false
  /-- Packet memory: buffers, queues, staging (R128 to R156). -/
  mem : MemSt := {}
  /-- The streams that this device holds, by handle (R306, R309). -/
  streams : Keyed Stream := []
  /-- The ports, as a mask, whose transmit association holds frames at its last packet number (R61, R428). -/
  pnHold : Nat := 0
  /-- The bus gateway and its controllers (R377 to R417). -/
  gw : GwSt := {}
  /-- The debug port (R633 to R638). -/
  dbg : DbgSt := {}
  /-- Network sleep and wake (R523 to R545). -/
  wake : WakeSt := {}
  /-- The key store, the lookaside engine and MACsec (R419 to R450). -/
  keys : KeySt := {}
  /-- The fabric protocol (R452 to R475). -/
  fab : FabSt := {}
  /-- The pair (R360 to R373). -/
  pair : PairSt := {}
  /-- Configuration image and settings store in flash (R356, R597). -/
  flash : FlashSt := {}
  /-- The admission section that runs (R338). -/
  admJob : AdmJob := {}
  /-- The power ladder (R547 to R575). -/
  pwr : PwrSt := {}
  /-- Supervisor and firmware images (R491 to R512). -/
  sup : SupSt := {}
  /-- Resets (R578 to R585). -/
  rst : RstSt := {}
  /-- Quiesces and holds (R586 to R592). -/
  fn : FnSt := {}
  /-- Transom and LBUS (R476 to R489). -/
  trn : TrnSt := {}
deriving DecidableEq, Repr

/-- The block right after reset: every register, counter and table at the value that the spec states for reset or, where it
states none, at the value the assumption log names (log entry 8); nothing waits. The device is held in power-on reset until POWER_ON_RESET (R579, R598). -/
def State.reset : State := { pwr := { state := 6 }, rst := { porLow := true } }

end Sys2Proof.Machine
end

