-- ==== Sys2Proof/Machine/Ops.lean ====
section
/-! DEFINITION. The shared operations over registers, counters, time, events and completions that every meaning uses. -/

namespace Sys2Proof.Machine

/-! Registers and counters. -/

/-- The stored word of a register. -/
def State.reg (s : State) (a : Nat) : Nat := regGet s.regs a

/-- Store a register word. -/
def State.setReg (s : State) (a v : Nat) : State := { s with regs := regSet s.regs a v }

/-- A field of a stored register. -/
def State.fld (s : State) (f : Fld) : Nat := bits (s.reg f.addr) f.hi f.lo

/-- A one-bit field of a stored register. -/
def State.flag (s : State) (f : Fld) : Bool := decide (s.fld f ≠ 0)

/-- Store a field of a register, the other bits unchanged. -/
def State.setFld (s : State) (f : Fld) (v : Nat) : State := s.setReg f.addr (setBits (s.reg f.addr) f.hi f.lo v)

/-- A 64-bit counter, by the address of its low word. -/
def State.ctr (s : State) (a : Nat) : Nat := kgetD s.ctrs a 0

/-- Set a counter; one that is 0 is not listed. -/
def State.setCtr (s : State) (a v : Nat) : State :=
  { s with ctrs := kset s.ctrs a (if v = 0 then none else some v) }

/-- Add to a counter. -/
def State.bumpBy (s : State) (a n : Nat) : State := s.setCtr a (ctrAdd a (s.ctr a) n)

/-- Add 1 to a counter. -/
def State.bump (s : State) (a : Nat) : State := s.bumpBy a 1

/-- Add 1 to a 32-bit counter held in a register field; it saturates at the field's greatest value. -/
def State.bumpFld (s : State) (f : Fld) (n : Nat) : State :=
  s.setFld f (min (2 ^ (f.hi + 1 - f.lo) - 1) (s.fld f + n))

/-! Outputs and free values. -/

/-- Something leaves the block. (DESIGN CHOICE, log entry 5) -/
def State.emit (s : State) (o : Output) : State := { s with out := o :: s.out }

/-- The next free value (log entry 6). -/
def State.freeVal (s : State) : Nat := Config.freeValue s.free

/-- The state after a free value has been taken. (DESIGN CHOICE, log entry 6) -/
def State.drew (s : State) : State := { s with free := s.free + 1 }

/-- A byte string of n free values below 256: what a random source gives. (DESIGN CHOICE, log entry 6) -/
def freeBytes (k : Nat) : Nat → Bytes
  | 0 => []
  | n + 1 => byte (Config.freeValue k) :: freeBytes (k + 1) n

/-- The state after n free values have been taken. (DESIGN CHOICE, log entry 6) -/
def State.drewN (s : State) (n : Nat) : State := { s with free := s.free + n }

/-! Time. -/

/-- A domain's nanoseconds. -/
def domNs (d : DomSt) : Nat := d.val / 2 ^ 48

/-- A scale in ns: 0 D0, 1 D1, any other LT. -/
def State.scale (s : State) (d : Nat) : Nat :=
  if d = 0 then domNs s.time.d0 else if d = 1 then domNs s.time.d1 else s.time.lt

/-- LT in ns. -/
def State.lt (s : State) : Nat := s.time.lt

/-- The rate that steers a domain now: the temporary adjustment's while one runs (R228, R241). -/
def domRate (x : DomSt) : Int := match x.adj with
  | some a => a.rate
  | none => x.rate

/-- What one tick adds to a domain: 2 ns × (1 + rate × 2^-40), in units of 2^-48 ns (R228). -/
def tickStep (rate : Int) : Int := 2 ^ 49 + 512 * rate

/-- Close the stretch that ends at an LT, before the domain's value or rate changes; no capture reaches back past the oldest one kept. -/
def closeStretch (lt : Nat) (x : DomSt) : DomSt :=
  { x with was := (lt, x.val, domRate x) :: x.was.filter (fun e => decide (lt < e.1 + 200000000)) }

/-- The value that a domain had in the tick of an earlier LT, in ns: counted back through the stretch that the tick lies in. -/
def domAt (now : Nat) (x : DomSt) (t : Nat) : Nat :=
  let (e, v, r) := ((x.was.filter (fun e => decide (t < e.1))).getLast?).getD (now, x.val, domRate x)
  ((v : Int) - ((e - t) / 2 : Nat) * tickStep r).toNat / 2 ^ 48

/-- The three scales as a capture point latched them at an earlier moment of LT, in ns: all in its tick, and 1 ns later when it falls in the
tick's second half (R230). (DEDUCED, log entry 131) -/
def State.latched (s : State) (t : Nat) : Stamp :=
  let k := t / 2 * 2
  { lt := t, d0 := domAt s.time.lt s.time.d0 k + t % 2, d1 := domAt s.time.lt s.time.d1 k + t % 2 }

/-- The LT of a frame's end point, which a command that stands in the end point's tick reports (R43, R51, R230). -/
def State.endPoint (s : State) (w : Span) : Nat := s.time.lt + b2n w.late

/-- The start point of that frame (R243). -/
def State.startPoint (s : State) (w : Span) : Stamp := s.latched (s.endPoint w - w.ago)

/-- A start point on its way out, corrected for the latency to the medium (R244). -/
def stampPlus (t : Stamp) (n : Nat) : Stamp := { lt := t.lt + n, d0 := t.d0 + n, d1 := t.d1 + n }

/-- A start point on its way in, corrected for the latency from the medium (R244). -/
def stampMinus (t : Stamp) (n : Nat) : Stamp := { lt := t.lt - n, d0 := t.d0 - n, d1 := t.d1 - n }

/-- A reported start point at ingress (R243, R244). -/
def rxStart (s : State) (p : Nat) (w : Span) : Stamp := stampMinus (s.startPoint w) (s.fld (TIME_PORT_CFG.RX_LAT p))

/-- A reported start point at egress, from the LT at which it was latched (R243, R244). -/
def txStart (s : State) (p lt : Nat) : Stamp := stampPlus (s.latched lt) (s.fld (TIME_PORT_CFG.TX_LAT p))

/-- The three scales latched in this tick, one ns later when the event falls in the tick's second half (R230). -/
def State.stamp (s : State) (late : Bool) : Stamp :=
  let e := b2n late
  { lt := s.scale 2 + e, d0 := s.scale 0 + e, d1 := s.scale 1 + e }

/-- A stamp's value on a scale. -/
def stampOn (t : Stamp) (d : Nat) : Nat := if d = 0 then t.d0 else if d = 1 then t.d1 else t.lt

/-- One second in ns. -/
def sec : Nat := 1000000000

/-- ns part and seconds part of a time in ns. -/
def nsOf (t : Nat) : Nat := t % sec
def secOf (t : Nat) : Nat := t / sec

/-! The register bus. -/

/-- Does the register bus serve a source? In S0 it does, HA and HB over a link that is up; in any other state the access waits for
the exit that it triggers, or is discarded (R550, R559). (DEDUCED, log entry 94) -/
def busOpen (s : State) (src : Src) : Bool :=
  decide (s.pwr.state = 0) && !s.rst.porLow && (match src with | .ha => s.hostA.linkUp | .hb => s.hostB.linkUp | _ => true)

/-- A granted access (R37). (DEDUCED, log entry 94) -/
def busRow (src : Src) (f : State → State) (s : State) : State :=
  if busOpen s src then f { s with bus := { s.bus with last := src } } else s

/-- Shadow a word for a source (R36, R258). -/
def setShadow (src : Src) (a w : Nat) (s : State) : State :=
  { s with bus := { s.bus with shadow := (src, a, w) :: s.bus.shadow.filter (fun e => !(decide (e.1 = src) && decide (e.2.1 = a))) } }

/-- A read of a word that may be shadowed for the source: the shadow, once, or the live word (R36). -/
def takeShadow (src : Src) (a live : Nat) (s : State) : Nat × State :=
  match s.bus.shadow.find? (fun e => decide (e.1 = src) && decide (e.2.1 = a)) with
  | some e => (e.2.2, { s with bus := { s.bus with shadow := s.bus.shadow.filter (fun e => !(decide (e.1 = src) && decide (e.2.1 = a))) } })
  | none => (live, s)

/-! The two endpoints. -/

/-- An endpoint. -/
def State.host (s : State) (h : HostId) : HostSt := if h.val = 0 then s.hostA else s.hostB

/-- Replace an endpoint. -/
def State.setHost (s : State) (h : HostId) (x : HostSt) : State :=
  if h.val = 0 then { s with hostA := x } else { s with hostB := x }

/-- Change an endpoint. -/
def State.modHost (s : State) (h : HostId) (f : HostSt → HostSt) : State := s.setHost h (f (s.host h))

/-- The time domain in which a host reads its entries (R101, R230). -/
def State.hostDom (s : State) (h : HostId) : Nat := s.fld (HOST_CTRL.TS_DOM h.val)

/-! Events (R105, R109, R110, R513). -/

/-- The payload bytes 16 to 27 of an event, from a list of (byte offset, bytes, value). -/
def evPay (l : List (Nat × Nat × Nat)) : Bytes :=
  l.foldl (fun b e => patch b (e.1 - 16) (toLe e.2.1 e.2.2)) (zeros 12)

/-- The route byte of an event group for a host: EN and the queue set (`HOST_EVROUTE`). -/
def State.evRoute (s : State) (h : HostId) (g : Nat) : Nat :=
  bits (s.reg (HOST_EVROUTE h.val (g / 4))) (8 * (g % 4) + 7) (8 * (g % 4))

/-- Is an event group routed to a host? -/
def State.evRouted (s : State) (h : HostId) (g : Nat) : Bool := decide (128 ≤ s.evRoute h g) && decide (g ≠ 0)

/-- The events (not completions) among waiting entries. -/
def eventCount (l : List Entry) : Nat := (l.filter (fun e => e.kind = .event)).length

/-- An event's entry for a host, at a time given on the host's scale. -/
def eventEntry (s : State) (h : HostId) (code cls : Nat) (pay : Bytes) (t : Nat) : Entry :=
  { kind := .event, qs := s.evRoute h (code / 256) % 64, code := code, tag := 0, cls := cls,
    status := (s.host h).seq % 65536, ns := nsOf t, secLo := secOf t % 2 ^ 32, payload := pay }

/-- Queue an event for a host, or count it as lost where 1024 wait (R109, R110). -/
def queueEvent (h : HostId) (code cls : Nat) (pay : Bytes) (t : Nat) (s : State) : State :=
  if s.evRouted h (code / 256) then
    let e := eventEntry s h code cls pay t
    let x := s.host h
    if eventCount x.waiting < 1024 then
      s.setHost h { x with waiting := x.waiting ++ [e], seq := (x.seq + 1) % 65536 }
    else
      (s.setHost h { x with seq := (x.seq + 1) % 65536, lostPend := x.lostPend + 1 }).bumpFld (HOST_EVQ_LOST.COUNT h.val) 1
  else s

/-- Would an event be discarded for a host (R110)? -/
def eventLost (s : State) (h : HostId) (code : Nat) : Bool :=
  s.evRouted h (code / 256) && decide (1024 ≤ eventCount (s.host h).waiting)

/-- The class reactions of R513 except F3's: history, first event, counters, grace timer. (DESIGN CHOICE, log entry 10, DEDUCED, log entry 14) -/
def recordEvent (code cls : Nat) (pay : Bytes) (t : Nat) (lost : Bool) (s : State) : State :=
  let hh : HostId := if Config.histHost % 2 = 0 then 0 else 1
  let e := eventEntry s hh code cls pay t
  let g := code / 256
  let he : HistEntry := { entry := e, routedHA := s.evRouted 0 g, routedHB := s.evRouted 1 g, lost := lost, number := s.flt.number }
  let f := s.flt
  let f := { f with hist := (he :: f.hist).take 16, number := (f.number + 1) % 65536 }
  let f := if cls ≠ 0 && f.first = none then { f with first := some he } else f
  let f := if cls = 2 && !(khas f.grace g) then
      { f with grace := kput f.grace g (s.lt + s.fld FLT_CTRL.GRACE * 1000), unhandled := kput f.unhandled g e } else f
  let f := if cls = 3 then { f with f3 := true } else f
  let s := { s with flt := f }
  if cls = 1 || cls = 3 then s.bump FLT_F1_CNT else if cls = 2 then s.bump FLT_F2_CNT else s

/-- Raise an event whose entry carries a given time (in ns, on every host's scale alike). -/
def raiseAt (code cls : Nat) (pay : Bytes) (t : Nat) (s : State) : State :=
  let lost := eventLost s 0 code || eventLost s 1 code
  queueEvent 1 code cls pay t (queueEvent 0 code cls pay t (recordEvent code cls pay t lost s))

/-- Raise an event of class F0 to F3 (R513): it enters the history, is counted and captured by its class, starts the grace
timer of its group when it is F2, stops the device when it is F3 (R517: `flt.f3` gates every pipeline and every output), and is
queued for each host that its group is routed to. -/
def raise (code cls : Nat) (pay : Bytes) (s : State) : State :=
  let lost := eventLost s 0 code || eventLost s 1 code
  let hh : HostId := if Config.histHost % 2 = 0 then 0 else 1
  let t (h : HostId) := s.scale (s.hostDom h)
  queueEvent 1 code cls pay (t 1) (queueEvent 0 code cls pay (t 0) (recordEvent code cls pay (t hh) lost s))

/-- Clear the unhandled F2 of a group and stop its timer, unless the 1 µs tick of expiry has come (R514). (DEDUCED, log entry 111) -/
def handleGroup (g : Nat) (s : State) : State :=
  match kget s.flt.grace g with
  | some e =>
    if s.lt / 1000 < e / 1000 then
      { s with flt := { s.flt with grace := kdel s.flt.grace g, unhandled := kdel s.flt.unhandled g } }
    else s
  | none => s

/-- A handling action of R515 clears its group when the group's first unhandled F2 event is the one it answers. -/
def handleIf (code : Nat) (s : State) : State :=
  match kget s.flt.unhandled (code / 256) with
  | some e => if e.code = code then handleGroup (code / 256) s else s
  | none => s

/-! Commands (R105, R107, R644). -/

/-- Completion status codes (R107). -/
def stOk : Nat := 0
def stAccepted : Nat := 1
def stParam : Nat := 2
def stOpcode : Nat := 3
def stState : Nat := 4
def stDenied : Nat := 5
def stDma : Nat := 6
def stQuiesce : Nat := 7
def stDraining : Nat := 8
def stReplyShort : Nat := 9

/-- The device reads host memory for a command of a host (R104, R442, R502, R597). -/
def hostFetch (c : CmdCtx) (addr len : Nat) (s : State) : State :=
  match c.who with
  | .host h _ => if len = 0 then s else s.emit (.hostRead h addr len)
  | .firmware => s

/-! Stop windows (R587, R610). -/

/-- May a stop window start: none runs, and 2 µs have passed since the start of the one before (R610)? -/
def stopFree (s : State) : Bool := s.fn.carve.isNone && s.fn.stopAt.all (fun t => decide (t + 2000 ≤ s.lt))

/-- A stop window starts (R610). -/
def stopBegins (s : State) : State := { s with fn := { s.fn with stopAt := some s.lt } }

/-- Remove the first record that satisfies a condition. -/
def removeFirst {α : Type} (p : α → Bool) : List α → List α
  | [] => []
  | x :: r => if p x then r else x :: removeFirst p r

/-- May the device issue DMA to a host (R78)? -/
def canDma (s : State) (h : HostId) : Bool := (s.host h).linkUp && (s.host h).bme

/-- A DMA write to host memory: at once, or once Bus Master Enable is set (R78). (DEDUCED, log entry 134) -/
def dmaWrite (h : HostId) (addr : Nat) (b : Bytes) (s : State) : State :=
  if canDma s h then s.emit (.hostWrite h addr b) else s.modHost h (fun x => { x with dma := x.dma ++ [(addr, b)] })

/-- Is a fetched record that of a command? -/
def isRec (qs : Nat) (c : CmdCtx) (opcode : Nat) (r : CmdRec) : Bool := r.qs = qs && r.opcode = opcode && decide (r.ctx = c)

/-- The record of a fetched command. -/
def cmdRec (s : State) (c : CmdCtx) (opcode : Nat) : Option CmdRec := match c.who with
  | .firmware => none
  | .host h qs => (s.host h).cmds.find? (isRec qs c opcode)

/-- A command completes: the completion entry, with the reply as it is cut at its length, waits for the host's event ring (R105, R107).
A firmware command's completion leaves through the output log. (DEDUCED, log entry 119) -/
def complete (c : CmdCtx) (opcode status : Nat) (reply : Bytes) (s : State) : State :=
  match c.who with
  | .firmware => s.emit (.fwComplete opcode status reply)
  | .host h qs =>
    let cut := reply.take c.rlen
    let st := if status = stOk && decide (c.rlen < reply.length) then stReplyShort else status
    let t := s.scale (s.hostDom h)
    let e : Entry := { kind := .command, qs := qs, code := opcode, tag := c.tag, cls := 0, status := st, ns := nsOf t,
                       secLo := secOf t % 2 ^ 32, payload := toLe 4 cut.length ++ slice cut 0 8,
                       reply := cut, replyAt := c.raddr, since := (cmdRec s c opcode).bind (fun r => r.started) }
    s.modHost h (fun x => { x with waiting := x.waiting ++ [e], cmds := removeFirst (isRec qs c opcode) x.cmds })

/-- Is the command's group allowed for its sender (`HOST_CMD_ALLOW`)? -/
def cmdAllowed (s : State) (c : CmdCtx) (opcode : Nat) : Bool :=
  match c.who with
  | .firmware => true
  | .host h _ => bit (s.reg (HOST_CMD_ALLOW h.val)) (opcode / 256)

/-- Do commands start: firmware runs in S0, or the recovery loader serves the command's group (R116, R498, R505, R549)?
(DESIGN CHOICE, log entry 2, DEDUCED, log entry 49) -/
def starts (s : State) (opcode : Nat) : Bool :=
  decide (s.pwr.state = 0) &&
  (s.flag GLB_STATUS.SUP_RUN ||
   (decide (s.fld SUP_STATUS.STATE = 5) && (decide (opcode / 256 = 0x0D) || decide (opcode = 0x0F01) || decide (opcode = 0x0F02))))

/-- Does a fetched command wait for its turn? In its own CMDQ it waits for every earlier command to start, for every earlier one of its group to
complete, and with `FENCE` for every earlier one to complete (R112); and for every earlier one of its group of another CMDQ to start (R113).
(DESIGN CHOICE, log entry 2) -/
def recWaits (s : State) (h : HostId) (r : CmdRec) : Bool :=
  (s.host h).cmds.any (fun x => x.qs = r.qs && x.seq < r.seq && (x.started.isNone || x.opcode / 256 = r.opcode / 256 || r.fence)) ||
  (s.hostA.cmds ++ s.hostB.cmds).any (fun x => x.seq < r.seq && x.opcode / 256 = r.opcode / 256 && x.started.isNone)

/-- Is it not a command's turn? A command of a host starts once it has been fetched with these fields and parameters (R103, R104) and its turn has
come; one of firmware needs no turn. (DESIGN CHOICE, log entry 2) -/
def outOfTurn (s : State) (c : CmdCtx) (opcode : Nat) : Bool := match c.who with
  | .firmware => false
  | .host h _ => match cmdRec s c opcode with
    | none => true
    | some r => r.bad.isSome || r.started.isSome || recWaits s h r

/-- A command starts. -/
def markStarted (c : CmdCtx) (opcode : Nat) (s : State) : State :=
  let s := { s with pwr := { s.pwr with active := s.lt } }
  match c.who, cmdRec s c opcode with
  | .host h _, some r => s.modHost h (fun x => { x with cmds := x.cmds.map (fun y => if y.seq = r.seq then { y with started := some x.seq } else y) })
  | _, _ => s

/-- Run a command's own checks and effect, or complete it with `DENIED` (R644). While no command starts, or while it is not its turn, it
waits, and the state is as before (log entry 2). -/
def command (c : CmdCtx) (opcode : Nat) (s : State) (body : State → State) : State :=
  if !starts s opcode || outOfTurn s c opcode then s
  else if cmdAllowed s c opcode then body (markStarted c opcode s)
  else complete c opcode stDenied [] s

/-- Does a parameter block have the length the command names (R103)? -/
def plenIs (c : CmdCtx) (n : Nat) : Bool := decide (c.par.length = n)

/-- Are all the named byte positions of the parameters 0 (reserved bytes)? -/
def parZero (c : CmdCtx) (from_ to_ : Nat) : Bool := (slice c.par from_ (to_ - from_)).all (fun b => decide (b = 0))

/-- Does the rake of a quadrant run: in S0 (R562), while `AGE_EN` is 1 and no rehash runs (R180)? -/
def rakeRuns (s : State) (q : Nat) (t : QTab) : Bool := decide (s.pwr.state = 0) && s.flag (QD_L2_CTRL.AGE_EN q) && decide (t.rehash = .idle)

/-- The rakes that run count the time of a tick. -/
def rakesRun (s : State) : Keyed QTab :=
  s.tabs.map (fun (e : Nat × QTab) => (e.1, if rakeRuns s e.1 e.2 then { e.2 with rakeRan := e.2.rakeRan + 2 } else e.2))

/-- The next state. -/
abbrev Res := Host.Outcome State Fault Refusal

/-! TIME_OUT pins (R252, R361). -/

/-- A TIME_OUT pin. -/
def State.outPin (s : State) (n : Nat) : OutPin := kgetD s.time.outs n {}

/-- Replace a TIME_OUT pin. -/
def State.setOutPin (s : State) (n : Nat) (p : OutPin) : State := { s with time := { s.time with outs := kput s.time.outs n p } }

/-- Does the fence stand by the own line (R360), which is low in reset too? -/
def lineLow (s : State) : Bool := s.pair.pull || s.pair.forced || s.rst.porLow

/-- The level of a TIME_OUT pin at its active or its idle level (R255): high or low by `POL`, high impedance while `OE` is 0 or the fence stands
(R361). -/
def timeOutLevel (s : State) (n : Nat) (active : Bool) : Option Bool :=
  if s.flag (TIME_OUT_CFG.OE n) && !lineLow s then some (active != s.flag (TIME_OUT_CFG.POL n)) else none

end Sys2Proof.Machine
end

