-- ==== Sys2Proof/Machine/Wire.lean ====
section
/-! DEFINITION. What the bytes of a frame say (R168, R203, R348, R382, R453, R651): tags, ethertypes, internal headers. -/

namespace Sys2Proof.Machine

/-- The two-byte field at an offset, network order. -/
def etype (bs : Bytes) (off : Nat) : Nat := beAt bs off 2

/-- The destination and the source address of an Ethernet frame, first byte highest. -/
def dstMac (bs : Bytes) : Nat := beAt bs 0 6
def srcMac (bs : Bytes) : Nat := beAt bs 6 6

/-- Is an address a group address? -/
def isGroupMac (m : Nat) : Bool := bit m 40

/-- The home quadrant of a port (R1, R15, R16). -/
def homeQuad (p : Nat) : Nat :=
  if p ≤ 7 then p / 2
  else if p ≤ 15 then (p - 8) / 2
  else if p ≤ 31 then (p - 16) / 4
  else if p ≤ 39 then (p - 32) / 2
  else if p ≤ 63 then (p - 40) / 6
  else if p ≤ 69 then (p - 64) / 2
  else if p ≤ 71 then 3
  else p - 72

/-- Ethernet ports with a slice: P0 to P39 and P75 (R124). -/
def isEthPort (p : Nat) : Bool := decide (p ≤ 39) || p = 75

/-- Legacy ports P40 to P71. -/
def isLegacyPort (p : Nat) : Bool := decide (40 ≤ p) && decide (p ≤ 71)

/-- CAN ports P40 to P63. -/
def isCanPort (p : Nat) : Bool := decide (40 ≤ p) && decide (p ≤ 63)

/-- LIN ports P64 to P69. -/
def isLinPort (p : Nat) : Bool := decide (64 ≤ p) && decide (p ≤ 69)

/-- Is a port a fabric port (R452)? -/
def State.fabricPort (s : State) (p : Nat) : Bool :=
  if p ≤ 7 then bit (s.fld FAB_PORTS.BB) p
  else p = 75 && s.flag FAB_PORTS.PL && decide (s.pairMode ≠ 1)

/-! The DFP tag (R453). -/

/-- The ethertype of DFP. -/
def dfpEtype : Nat := 0x88B5

/-- The DFP tag of a frame; none where the field after the source address is no DFP ethertype. -/
def dfpOf (bs : Bytes) : Option DfpTag :=
  if etype bs 12 = dfpEtype then
    let b (i : Nat) := byteAt bs (12 + i)
    some { type := b 2 / 32, ce := bit (b 2) 4, void := bit (b 2) 3, seq := bit (b 2) 2, ver := b 2 % 4, srcDev := b 3,
           dstDev := b 4, srcPort := b 5 % 128, dstPort := b 6 % 128, tc := b 7 / 32, hops := b 7 % 32,
           fid := beAt bs 20 2 % 4096 }
  else none

/-- The ten bytes of a DFP tag. -/
def dfpBytes (t : DfpTag) : Bytes :=
  toBe 2 dfpEtype ++ [byte (t.type * 32 + b2n t.ce * 16 + b2n t.void * 8 + b2n t.seq * 4 + t.ver), byte t.srcDev, byte t.dstDev,
    byte t.srcPort, byte t.dstPort, byte (t.tc * 32 + t.hops)] ++ toBe 2 t.fid

/-- The ethertype of the R-TAG (R348). -/
def rtagEtype : Nat := 0xF1C1

/-- The DFP tag of a received frame: only a frame that arrived on a fabric port has one (R201, R452). -/
def Pkt.tag (p : Pkt) : Option DfpTag := if p.dfp && !p.internal then dfpOf p.bytes else none

/-- The offset after the addresses, a DFP tag and its R-TAG. -/
def afterTags (tag : Option DfpTag) (bs : Bytes) : Nat :=
  match tag with
  | none => 12
  | some t => if t.seq && etype bs 22 = rtagEtype then 28 else 22

/-- Is this the TPID of a VLAN tag? -/
def isVlan (e : Nat) : Bool := e = 0x8100 || e = 0x88A8

/-- Anchor 1 (R203): the innermost ethertype, after at most two VLAN tags. -/
def innerEtypeOff (tag : Option DfpTag) (bs : Bytes) : Nat :=
  let o := afterTags tag bs
  let o := if isVlan (etype bs o) then o + 4 else o
  if o ≠ afterTags tag bs && isVlan (etype bs o) then o + 4 else o

/-- The outermost IEEE 802.1Q tag (TPID 0x8100), as its control word. -/
def outerQ (tag : Option DfpTag) (bs : Bytes) : Option Nat :=
  let o := afterTags tag bs
  if etype bs o = 0x8100 then some (beAt bs (o + 2) 2)
  else if etype bs o = 0x88A8 && etype bs (o + 4) = 0x8100 then some (beAt bs (o + 6) 2)
  else none

/-- The priority of the outer tag, 0 when untagged. -/
def outerPcp (tag : Option DfpTag) (bs : Bytes) : Nat :=
  let o := afterTags tag bs
  if isVlan (etype bs o) then byteAt bs (o + 2) / 32 else 0

/-- The FID of a frame (R168, R455): a tagged frame carries it; else the VID of its outermost 802.1Q tag; an untagged or
priority-tagged frame takes the `PVID` of its ingress port. (DEDUCED, log entry 87) -/
def State.pktFid (s : State) (p : Pkt) : Nat :=
  match p.tag with
  | some t => t.fid
  | none =>
    let v := if p.internal then 0 else ((outerQ none p.bytes).getD 0) % 4096
    if v ≠ 0 then v else s.fld (QD_PORT_FWD.PVID (homeQuad p.inPort) p.inPort)

/-! Internal headers (R382). -/

/-- The fields of an internal header. -/
def ihKind (bs : Bytes) : Nat := byteAt bs 0 % 8
def ihBus (bs : Bytes) : Nat := byteAt bs 2
def ihFlags (bs : Bytes) : Nat := byteAt bs 3
def ihId (bs : Bytes) : Nat := leAt bs 4 4 % 2 ^ 29
def ihDlen (bs : Bytes) : Nat := leAt bs 8 2
def ihDlc (bs : Bytes) : Nat := leAt bs 10 2 % 2048
def ihRoute (bs : Bytes) : Nat := leAt bs 22 2
def ihDest (bs : Bytes) : Nat := leAt bs 24 4
def ihTc (bs : Bytes) : Nat := byteAt bs 28 % 8
def ihData (bs : Bytes) : Bytes := slice bs 48 (ihDlen bs)
def ihIde (bs : Bytes) : Bool := bit (ihFlags bs) 0
def ihVia (bs : Bytes) : Bool := bit (ihFlags bs) 6

/-- The protected identifier of a LIN frame: its two parity bits above the six of the identifier (ISO 17987). -/
def linPid (id : Nat) : Nat :=
  let b (i : Nat) : Nat := b2n (bit id i)
  let p0 := (b 0 + b 1 + b 2 + b 4) % 2
  let p1 := (b 1 + b 3 + b 4 + b 5 + 1) % 2
  id % 64 + p0 * 64 + p1 * 128

/-- The identifier by which R185 and R201 name a PDU: of a LIN frame the protected one. -/
def ihName (bs : Bytes) : Nat := if ihKind bs = 4 then linPid (ihId bs) else ihId bs

/-- `DEST_KIND`, `DEVICE`, `PORT` and `GROUP` of a `DEST` word. -/
def destKind (d : Nat) : Nat := bits d 31 30
def destDevice (d : Nat) : Nat := bits d 29 22
def destPort (d : Nat) : Nat := bits d 21 15
def destGroup (d : Nat) : Nat := bits d 14 5

/-- A `DEST` word. -/
def mkDest (kind device port group : Nat) : Nat := kind * 2 ^ 30 + device * 2 ^ 22 + port * 2 ^ 15 + group * 2 ^ 5

/-! TCP and UDP (R651). -/

/-- The offset of the IPv4 or IPv6 header, where there is one. -/
def ipOff (tag : Option DfpTag) (bs : Bytes) : Option Nat :=
  let o := innerEtypeOff tag bs
  if etype bs o = 0x0800 || etype bs o = 0x86DD then some (o + 2) else none

/-- Is the frame IPv6? -/
def isV6 (tag : Option DfpTag) (bs : Bytes) : Bool := etype bs (innerEtypeOff tag bs) = 0x86DD

/-- The offset of the TCP or UDP header: none exactly when `L4` is 0 (R651). -/
def l4Off (tag : Option DfpTag) (bs : Bytes) : Option Nat :=
  match ipOff tag bs with
  | none => none
  | some o =>
    let ihl := byteAt bs o % 16
    let proto := byteAt bs (if isV6 tag bs then o + 6 else o + 9)
    let h := if isV6 tag bs then o + 40 else o + ihl * 4
    let v4ok := decide (5 ≤ ihl) && decide (beAt bs (o + 6) 2 % 8192 = 0)
    if (isV6 tag bs || v4ok) && (proto = 6 || proto = 17) && decide (h + 4 ≤ bs.length) && decide (h + 4 ≤ 256) then some h
    else none

/-- The protocol of the TCP or UDP header. -/
def l4Proto (tag : Option DfpTag) (bs : Bytes) : Nat :=
  match ipOff tag bs with
  | none => 0
  | some o => byteAt bs (if isV6 tag bs then o + 6 else o + 9)

/-- The length of a frame without FCS (R129). -/
def Pkt.len (p : Pkt) : Nat := p.bytes.length

end Sys2Proof.Machine
end

