-- ==== Sys2Proof/Machine/Hedge.lean ====
section
/-! DEFINITION. The hedge (chapter 06): key composition, the decision of stage 2, pinholes, the commands of group 0x03. -/

namespace Sys2Proof.Machine

/-- The hedge of a quadrant. -/
def State.hq (s : State) (q : Nat) : HQuad := kgetD s.hedge.quads q {}

/-- Change the hedge of a quadrant. -/
def State.modHq (s : State) (q : Nat) (f : HQuad → HQuad) : State :=
  { s with hedge := { s.hedge with quads := kput s.hedge.quads q (f (s.hq q)) } }

/-! The active set, with the containment of R222. -/

/-- Has an uncorrectable error hit this item of the active set? -/
def hasErr (h : HQuad) (item index : Nat) : Bool := h.errs.any (fun e => e.1 = item && e.2 = index)

/-- The zone of a port in a set (R194). -/
def setZone (x : HSet) (p : Nat) : Nat := kgetD x.zones p 0 % 16

/-- The key profile of a port in a set. -/
def setProfile (x : HSet) (p : Nat) : Nat := kgetD x.zones p 0 / 16 % 8

/-- The row of a zone pair matrix: cell (0, 0) is PERMIT by default, every other cell DENY (R224). -/
def setRow (x : HSet) (z : Nat) : Nat := kgetD x.matrix z (if z = 0 then 1 else 0)

/-- The cell of an ingress and an egress zone in a set (R195): 0 DENY, 1 PERMIT, 2 RULE. -/
def setCell (x : HSet) (zi ze : Nat) : Nat := bits (setRow x zi) (2 * ze + 1) (2 * ze)

/-- The cell that acts between an ingress port and an egress zone: DENY where the row or the ingress port's map entry cannot be
read (R222). -/
def actCell (h : HQuad) (inPort ze : Nat) : Nat :=
  let zi := setZone h.active inPort
  if hasErr h 0 inPort || hasErr h 1 zi then 0 else setCell h.active zi ze

/-- The cell that acts between two ports. -/
def portCell (h : HQuad) (inPort outPort : Nat) : Nat :=
  if hasErr h 0 outPort then 0 else actCell h inPort (setZone h.active outPort)

/-- Is the cell between two ports DENY because of an uncorrectable error (R223)? -/
def errDenies (h : HQuad) (inPort outPort : Nat) : Bool :=
  hasErr h 0 outPort || hasErr h 0 inPort || hasErr h 1 (setZone h.active inPort)

/-! Key composition (R201 to R204). -/

/-- `KIND` of the metadata vector. -/
def hedgeKind (p : Pkt) : Nat := if p.internal then ihKind p.bytes else 0

/-- The metadata vector of R201, `MISSING` 0. (DEDUCED, log entry 87) -/
def metaVector (s : State) (zone : Nat) (p : Pkt) : Nat :=
  let bs := p.bytes
  let head := zone * 2 ^ 8 + p.inPort + s.pktFid p * 2 ^ 16
  if p.internal then
    byteAt bs 12 * 2 ^ 104 + ihBus bs * 2 ^ 88 + byteAt bs 13 * 2 ^ 80 + ihDlc bs * 2 ^ 64 +
    b2n (bit (ihFlags bs) 1) * 2 ^ 62 + b2n (ihIde bs) * 2 ^ 61 + ihName bs * 2 ^ 32 + ihKind bs * 2 ^ 12 + head
  else
    let tag := p.tag
    let e := etype bs (innerEtypeOff tag bs)
    b2n tag.isSome * 2 ^ 100 + b2n p.macsec * 2 ^ 99 + b2n (l4Off tag bs).isSome * 2 ^ 98 + b2n (e = 0x86DD) * 2 ^ 97 +
    b2n (e = 0x0800) * 2 ^ 96 + outerPcp tag bs * 2 ^ 28 + b2n (isVlan (etype bs (afterTags tag bs))) * 2 ^ 15 + head

/-- The byte offset of an anchor (R203); none where it is absent. Anchor 5 is the metadata vector and has no offset. -/
def anchorOff (p : Pkt) (anchor : Nat) : Option Nat :=
  let tag := p.tag
  match anchor with
  | 0 => some 0
  | 1 => if p.internal then none else some (innerEtypeOff tag p.bytes)
  | 2 => if p.internal then none else ipOff tag p.bytes
  | 3 => if p.internal then none else l4Off tag p.bytes
  | 4 => if p.internal then some 48 else none
  | _ => none

/-- One extraction (R202): the key word; none where it is missing. -/
def extract (p : Pkt) (vec w : Nat) : Option Nat :=
  let off := bits w 26 19
  let cut (x : Nat) : Nat := x / 2 ^ bits w 18 14 % 2 ^ (bits w 13 9 + 1)
  if !bit w 31 then some 0
  else if bits w 30 27 = 5 then some (cut (bits vec (32 * (off / 4) + 31) (32 * (off / 4))))
  else match anchorOff p (bits w 30 27) with
    | none => none
    | some a => if a + off + 4 ≤ p.bytes.length && a + off + 4 ≤ 256 then some (cut (beAt p.bytes (a + off) 4)) else none

/-- The `MISSING` bits of a frame under a profile (R201): the extractions that fall outside, an unreadable word among them. -/
def missingMask (h : HQuad) (pr : Nat) (vec : Nat) (p : Pkt) : Nat :=
  listMask ((List.range 16).filter (fun e =>
    hasErr h 2 (pr * 16 + e) || (extract p vec (kgetD h.active.profiles (pr * 16 + e) 0)).isNone))

/-- The 512-bit key (R201, R202): extraction e in bits [32e + 31 : 32e]. -/
def composeKey (s : State) (h : HQuad) (p : Pkt) : Nat :=
  let pr := setProfile h.active p.inPort
  let vec0 := metaVector s (setZone h.active p.inPort) p
  let vec := vec0 + missingMask h pr vec0 p * 2 ^ 112
  (List.range 16).foldl (fun k e =>
    let w := if hasErr h 2 (pr * 16 + e) then 0 else (extract p vec (kgetD h.active.profiles (pr * 16 + e) 0)).getD 0
    k + w * 2 ^ (32 * e)) 0

/-! Rules (R205 to R207). -/

/-- `RESULT` fields (R206). -/
def hrValid (r : HRule) : Bool := bit r.result 127
def hrVerdict (r : HRule) : Nat := bits r.result 118 117
def hrCount (r : HRule) : Bool := bit r.result 116
def hrLog (r : HRule) : Bool := bit r.result 115
def hrMirror (r : HRule) : Option Nat := if bit r.result 114 then some (bits r.result 113 112) else none
def hrReclass (r : HRule) : Option Nat := if bit r.result 111 then some (bits r.result 110 108) else none
def hrMeter (r : HRule) : Option Nat := if bit r.result 107 then some (bits r.result 106 99) else none
def hrHost (r : HRule) : Nat := bits r.result 98 98
def hrQs (r : HRule) : Option Nat := if bit r.result 97 then some (bits r.result 96 91) else none
def hrOpen (r : HRule) : Bool := bit r.result 90
def hrPhType (r : HRule) : Nat := bits r.result 89 88
def hrPhIdle (r : HRule) : Nat := bits r.result 87 76
def hrPhSwap (r : HRule) : Bool := bit r.result 75
def hrPhResp (r : HRule) : Nat := bits r.result 74 46

/-- A rule that cannot be read matches every frame with verdict DENY (R222). -/
def denyAll : HRule := { value := 0, mask := 0, result := 2 ^ 127 + 255 * 2 ^ 119 + 2 * 2 ^ 117 }

/-- The first matching rule, by lowest index, with its index (R205). -/
def firstMatch (h : HQuad) (key pr : Nat) : Option (Nat × HRule) :=
  let bad := (h.errs.filter (fun e => e.1 = 3)).map (fun e => (e.2, denyAll))
  let rules := bad.foldl (fun m e => kput m e.1 e.2) h.active.rules
  rules.find? (fun e => hrValid e.2 && bit e.2.result (119 + pr) && decide (key &&& e.2.mask = e.2.value &&& e.2.mask))

/-! Pinholes (R211 to R215). -/

/-- The index and entry of a pinhole key. -/
def phFind (m : Keyed Pinhole) (k : PhKey) : Option (Nat × Pinhole) := m.find? (fun e => e.2.key = k)

/-- The keys under which stage 2 looks a frame up (R213), L2 first. -/
def lookupKeys (s : State) (p : Pkt) : List PhKey :=
  let bs := p.bytes
  if p.internal then
    if 1 ≤ ihKind bs && ihKind bs ≤ 3 then [{ type := 2, flags := b2n (ihIde bs), src := ihId bs }] else []
  else
    let tag := p.tag
    let l2 : PhKey := { type := 1, pS := s.pktFid p, pD := etype bs (innerEtypeOff tag bs), src := srcMac bs, dst := dstMac bs }
    match ipOff tag bs, l4Off tag bs with
    | some i, some l =>
      let v6 := isV6 tag bs
      let ip : PhKey := { type := 0, proto := l4Proto tag bs, flags := b2n v6, pS := beAt bs l 2, pD := beAt bs (l + 2) 2,
                          src := if v6 then beAt bs (i + 8) 16 else beAt bs (i + 12) 4,
                          dst := if v6 then beAt bs (i + 24) 16 else beAt bs (i + 16) 4 }
      [l2, ip]
    | _, _ => [l2]

/-- The reply key of a request under a rule (R211); none where the request does not qualify. -/
def replyKey (s : State) (p : Pkt) (r : HRule) : Option PhKey :=
  let flip (k : PhKey) : PhKey := { k with pS := k.pD, pD := k.pS, src := k.dst, dst := k.src }
  let ks := lookupKeys s p
  match hrPhType r with
  | 0 => (ks.find? (fun k => k.type = 0)).map flip
  | 1 => if p.internal || isGroupMac (dstMac p.bytes) then none
         else (ks.find? (fun k => k.type = 1)).map (fun k => { k with src := k.dst, dst := k.src })
  | _ => (ks.find? (fun k => k.type = 2)).map (fun k =>
      { k with src := if hrPhSwap r then setBits (setBits k.src 15 8 (bits k.src 7 0)) 7 0 (bits k.src 15 8)
                      else k.src ^^^ hrPhResp r })

/-- `EV_HEDGE_PH_FULL`, at most once in any 100 ms (R212). -/
def phFull (opener rule : Nat) (s : State) : State :=
  let s := s.bump (QD_PH_REFUSED 0)
  let due := match s.hedge.lastFull with
    | some l => decide (l + 100000000 ≤ s.lt)
    | none => true
  if due then
    raise 0x0301 0 (evPay [(16, 1, opener), (18, 2, rule)]) { s with hedge := { s.hedge with lastFull := some s.lt } }
  else s

/-- Insert a pinhole (R212): a key that stands is refreshed, a new one takes the lowest free index; the index, or none on a full
table. -/
def phInsert (key : PhKey) (zone opener rule idle : Nat) (s : State) : State × Option Nat :=
  match phFind s.hedge.holes key with
  | some (i, e) =>
    ({ s with hedge := { s.hedge with holes := kput s.hedge.holes i { e with remain := e.idle } } }, some i)
  | none =>
    let i := kfirstFree s.hedge.holes 0
    if i < 16384 then
      let e : Pinhole := { key := key, zone := zone, opener := opener, rule := rule, idle := idle, remain := idle }
      ({ s with hedge := { s.hedge with holes := kput s.hedge.holes i e } }.bump (QD_PH_OPENED 0), some i)
    else (phFull opener rule s, none)

/-- A frame's pinhole hits (R213): the mask of reply zones, every hit entry refreshed. -/
def pinholeHits (p : Pkt) (s : State) : State × Nat :=
  let hits := (lookupKeys s p).filterMap (phFind s.hedge.holes)
  if hits.isEmpty then (s, 0)
  else
    let holes := hits.foldl (fun m e => kput m e.1 { e.2 with remain := e.2.idle }) s.hedge.holes
    ({ s with hedge := { s.hedge with holes := holes } }.bump (QD_PH_HIT 0), listMask (hits.map (fun e => e.2.zone)))

/-! The decision (R199). -/

/-- What stage 2 decides: the egress zones, the rule that acted, and its modifiers. -/
structure HDec where
  bypass : Bool := false
  zones : Nat := 0
  drop : Bool := false
  rule : Option Nat := none
  dest : Option Nat := none
  qs : Option Nat := none
  mirror : Option Nat := none
  meter : Option Nat := none
  tc : Option Nat := none
deriving DecidableEq, Repr

/-- The fixed control path (R196). -/
def controlPath (s : State) (p : Pkt) : Bool :=
  let dfpCtl := match p.tag with
    | some t => t.type = 2 && t.ver = 0
    | none => false
  let ptp := isEthPort p.inPort && dstMac p.bytes = 0x0180C200000E && etype p.bytes 12 = 0x88F7 &&
    (s.flag (TIME_PORT_CFG.AS_EN0 p.inPort) || s.flag (TIME_PORT_CFG.AS_EN1 p.inPort))
  !p.internal && (dfpCtl || ptp || (p.inPort = 74 && p.cls = some 7))

/-- Count a rule hit (R207). -/
def ruleCount (q i len : Nat) (s : State) : State :=
  s.modHq q (fun h => { h with ruleCtr := kmod h.ruleCtr i (0, 0) (fun c => (min ctrMax (c.1 + 1), min ctrMax (c.2 + len))) })

/-- Log a rule hit, at most once in any 10 µs for each quadrant (R210). -/
def logEvent (q zi i : Nat) (p : Pkt) (s : State) : State :=
  if !s.flag (QD_HEDGE_CTRL.LOG_EN q) then s
  else
    let due := match (s.hq q).lastLog with
      | some l => decide (l + 10000 ≤ s.lt)
      | none => true
    if due then
      let who := if p.internal then toLe 4 (ihName p.bytes) ++ zeros 2 else slice p.bytes 6 6
      let pay := [byte q, byte zi] ++ toLe 2 i ++ [byte p.inPort, 0] ++ who
      raise 0x0302 0 pay (s.modHq q (fun h => { h with lastLog := some s.lt }))
    else s.bump (QD_HEDGE_LOG_LOST q)

/-- Open a pinhole for a request (R211). -/
def pinholeOpen (q zi i : Nat) (r : HRule) (p : Pkt) (s : State) : State :=
  match replyKey s p r with
  | some k => (phInsert k zi q i (hrPhIdle r) s).1
  | none => s.bump (QD_PH_REFUSED 0)

/-- Stage 2 (R199), in the frame's home quadrant. -/
def hedgeDecide (p : Pkt) (s : State) : State × HDec :=
  let q := homeQuad p.inPort
  if controlPath s p then (s.bump (QD_HEDGE_CTRL_PASS q), { bypass := true, zones := 0xFFFF })
  else
    let h := s.hq q
    let zi := setZone h.active p.inPort
    let found := firstMatch h (composeKey s h p) (setProfile h.active p.inPort)
    let v := match found with
      | some (_, r) => hrVerdict r
      | none => 0
    let s := match found with
      | some (i, r) => if hrCount r then ruleCount q i p.len s else s
      | none => s
    let s := match found with
      | some (i, r) => if hrLog r then logEvent q zi i p s else s
      | none => s
    let byRule := if v = 1 || v = 3 then 0xFFFF else 0
    let (s, byHole) := if v ≠ 2 then pinholeHits p s else (s, 0)
    let zones := listMask ((List.range 16).filter (fun ze =>
      let c := actCell h p.inPort ze
      (c = 1 && v ≠ 2) || (c = 2 && bit (byRule ||| byHole) ze)))
    let d : HDec := { zones := zones, drop := decide (v = 2) }
    match found with
    | none => (s, d)
    | some (i, r) =>
      let d := { d with rule := some i, mirror := hrMirror r, meter := hrMeter r, tc := hrReclass r }
      let d := if v = 3 then { d with dest := some (72 + hrHost r), qs := hrQs r } else d
      let s := if hrOpen r && byRule ≠ 0 && s.flag (QD_HEDGE_CTRL.PH_EN q) then pinholeOpen q zi i r p s else s
      (s, d)

/-- A copy that the matrix removes (R200). -/
def zoneDeny (q inPort outPort : Nat) (s : State) : State :=
  let h := s.hq q
  let i := 16 * setZone h.active inPort + setZone h.active outPort
  (s.modHq q (fun h => { h with zoneCtr := kmod h.zoneCtr i 0 (fun c => min ctrMax (c + 1)) })).bump (QD_HEDGE_ZONE_DENY q)

/-- Does the matrix let a copy leave on a port (R197, R200)? An admitted stream passes every cell that is not DENY. -/
def zoneAllows (h : HQuad) (d : HDec) (admitted : Bool) (inPort outPort : Nat) : Bool :=
  d.bypass || (if admitted then decide (portCell h inPort outPort ≠ 0)
               else bit d.zones (setZone h.active outPort) && !hasErr h 0 outPort)

/-! Meters (R208). A byte-mode bucket counts in 1/8 000 000 byte, a frame-mode bucket in 1/10^9 frame, so that a fill of `RATE`
per ns is exact. -/

/-- The scale, depth and rate of a meter word. -/
def meterScale (w : Nat) : Nat := if bit w 62 then 1000000000 else 8000000
def meterDepth (w : Nat) : Nat := bits w 23 0 * meterScale w
def meterRate (w : Nat) : Nat := bits w 55 32

/-- The level of a bucket at an LT. -/
def bucketLevel (h : HQuad) (m now : Nat) : Nat :=
  let w := kgetD h.active.meters m 0
  match kget h.buckets m with
  | none => meterDepth w
  | some (v, t) => min (meterDepth w) (v + (now - t) * meterRate w)

/-- Meter a frame: whether it conforms, with its tokens taken (R208). -/
def meterFrame (q m len : Nat) (s : State) : State × Bool :=
  let h := s.hq q
  let w := kgetD h.active.meters m 0
  let need := (if bit w 62 then 1 else len) * meterScale w
  let lvl := bucketLevel h m s.lt
  if hasErr h 4 m || lvl < need then
    ((s.modHq q (fun h => { h with meterCtr := kmod h.meterCtr m 0 (fun c => min ctrMax (c + 1)) })).bump (QD_HEDGE_METER_DROP q), false)
  else (s.modHq q (fun h => { h with buckets := kput h.buckets m (lvl - need, s.lt) }), true)

/-- A mirror destination (R209): its port and class where `VALID`. -/
def mirrorDest (h : HQuad) (i : Nat) : Option (Nat × Nat) :=
  let w := kgetD h.active.mirrors i 0
  if bit w 15 && !hasErr h 5 i then some (w % 128, bits w 10 8) else none

/-! Memory errors (R222). -/

/-- A memory error in the hedge: `item` as staged, 7 a pinhole. -/
def hedgeEcc (q item index : Nat) (corrected : Bool) (s : State) : State :=
  let pay := evPay [(16, 1, if item = 7 then 0xFF else q), (17, 1, item), (18, 2, index)]
  if corrected then
    let s := s.bump (QD_HEDGE_ECC_CORR_CNT q)
    let due := match (s.hq q).lastEcc with
      | some l => decide (l + 1000000 ≤ s.lt)
      | none => true
    if due then raise 0x0303 1 pay (s.modHq q (fun h => { h with lastEcc := some s.lt })) else s
  else
    let s := if item = 7 then { s with hedge := { s.hedge with holes := kdel s.hedge.holes index } }
             else s.modHq q (fun h => { h with errs := (item, index) :: h.errs.filter (fun e => e ≠ (item, index)),
                                               restaged := h.restaged.filter (fun e => e ≠ (item, index)) })
    raise 0x0304 2 pay s

/-! Staging (R216, R217). -/

/-- The header of `HEDGE_STAGE` and `HEDGE_READ`. -/
def hsItem (c : CmdCtx) : Nat := byteAt c.par 0
def hsQmask (c : CmdCtx) : Nat := byteAt c.par 1
def hsFirst (c : CmdCtx) : Nat := leAt c.par 2 2
def hsCount (c : CmdCtx) : Nat := leAt c.par 4 2

/-- Entry size, largest `FIRST` + `COUNT` and largest `COUNT` of an item (R216). -/
def hsSize (item : Nat) : Nat := nth [1, 4, 64, 144, 8, 4, 0] item
def hsLimit (item : Nat) : Nat := nth [76, 16, 8, 4096, 256, 4, 4096] item
def hsMax (item : Nat) : Nat := nth [76, 16, 8, 28, 256, 4, 4096] item

/-- The bytes of the k-th staged entry. -/
def hsEntry (c : CmdCtx) (k : Nat) : Bytes := slice c.par (16 + k * hsSize (hsItem c)) (hsSize (hsItem c))

/-- An extraction word that staging accepts (R202, R203, R217). -/
def extractOk (w : Nat) : Bool :=
  decide (bits w 8 0 = 0) &&
  (!bit w 31 || (decide (bits w 30 27 ≤ 5) && (bits w 30 27 ≠ 5 || (bits w 26 19 % 4 = 0 && decide (bits w 26 19 < 16)))))

/-- A result word that staging accepts (R217). -/
def resultOk (w : Nat) : Bool :=
  let r : HRule := { value := 0, mask := 0, result := w }
  decide (bits w 45 0 = 0) && decide (bits w 110 108 ≤ 4) && decide (hrPhType r ≠ 3) &&
  !(hrOpen r && hrPhIdle r = 0) && !(hrVerdict r = 3 && hrPhType r = 2 && hrOpen r)

/-- An entry that staging accepts (R217). -/
def hsEntryOk (item : Nat) (e : Bytes) : Bool :=
  let w := le e
  match item with
  | 0 => !bit w 7
  | 1 => (List.range 16).all (fun i => bits w (2 * i + 1) (2 * i) ≠ 3)
  | 2 => (List.range 16).all (fun i => extractOk (leAt e (4 * i) 4))
  | 3 => resultOk (leAt e 128 16)
  | 4 => bits w 61 56 = 0 && bits w 31 24 = 0 && !(bit w 63 && (bits w 55 32 = 0 || bits w 23 0 = 0))
  | 5 => !bit w 7 && decide (bits w 6 0 ≤ 75) && decide (bits w 10 8 ≤ 4) && bits w 14 11 = 0 && bits w 31 16 = 0
  | _ => true

/-- The checks of `HEDGE_STAGE` (R217). -/
def hsOk (c : CmdCtx) : Bool :=
  let item := hsItem c
  decide (item ≤ 6) && decide (hsQmask c ≠ 0) && decide (hsQmask c < 16) && parZero c 6 16 &&
  decide (hsFirst c + hsCount c ≤ hsLimit item) && decide (hsCount c ≤ hsMax item) && plenIs c (16 + hsCount c * hsSize item) &&
  (item = 6 || (List.range (hsCount c)).all (fun k => hsEntryOk item (hsEntry c k)))

/-- Put an entry where it differs from its default, else remove it. -/
def kputD {α : Type} [DecidableEq α] (m : Keyed α) (i : Nat) (d x : α) : Keyed α :=
  kset m i (if x = d then none else some x)

/-- The rule that an unused index holds. -/
def noRule : HRule := { value := 0, mask := 0, result := 0 }

/-- Write one entry into a set. -/
def hsWrite (item i : Nat) (e : Bytes) (x : HSet) : HSet :=
  match item with
  | 0 => { x with zones := kputD x.zones i 0 (le e) }
  | 1 => { x with matrix := kputD x.matrix i (if i = 0 then 1 else 0) (le e) }
  | 2 => (List.range 16).foldl (fun x j => { x with profiles := kputD x.profiles (i * 16 + j) 0 (leAt e (4 * j) 4) }) x
  | 3 => { x with rules := kputD x.rules i noRule { value := leAt e 0 64, mask := leAt e 64 64, result := leAt e 128 16 } }
  | 4 => { x with meters := kputD x.meters i 0 (le e) }
  | 5 => { x with mirrors := kputD x.mirrors i 0 (le e) }
  | _ =>
    match kget x.rules i with
    | some r => { x with rules := kputD x.rules i noRule { r with result := setBits r.result 127 127 0 } }
    | none => x

/-- The errors of the active set that staging entry i of an item answers (R222). -/
def hsAnswers (item i : Nat) (e : Nat × Nat) : Bool :=
  if item = 2 then e.1 = 2 && e.2 / 16 = i else (e.1 = item || (item = 6 && e.1 = 3)) && e.2 = i

/-- The copy of the active set into the shadow set ends (R219 step 5). (DEDUCED, log entry 20) -/
def endHedgeCopy (q : Nat) (s : State) : State :=
  if s.flag (QD_HEDGE_STATUS.COPYING q) then
    ((s.modHq q (fun h => { h with shadow := h.active })).setFld (QD_HEDGE_STATUS.COPYING q) 0).setFld (QD_HEDGE_STATUS.DIRTY q) 0
  else s

/-- Every copy into a shadow set has ended. -/
def hedgeCopied (s : State) : State := (List.range 4).foldl (fun s q => endHedgeCopy q s) s

/-- A group 0x03 command that arrives while `COPYING` is 1 starts after the copy (R219): the copy ends first. -/
def hedgeCommand (c : CmdCtx) (opcode : Nat) (s : State) (body : State → State) : Res :=
  .next (command c opcode s (fun s => body (hedgeCopied s)))

/-- `HEDGE_STAGE` (R216, R217). -/
def hedgeStage (c : CmdCtx) (s : State) : State :=
  if !hsOk c then complete c 0x0301 stParam [] s
  else
    let ks := List.range (hsCount c)
    let put (h : HQuad) (k : Nat) : HQuad :=
      let i := hsFirst c + k
      { h with shadow := hsWrite (hsItem c) i (hsEntry c k) h.shadow,
               restaged := h.errs.filter (hsAnswers (hsItem c) i) ++ h.restaged }
    let one (s : State) (q : Nat) : State :=
      (s.modHq q (fun h => ks.foldl put h)).setFld (QD_HEDGE_STATUS.DIRTY q) 1
    complete c 0x0301 stOk [] ((maskList (hsQmask c) 4).foldl one s)

def execHedgeStage (c : CmdCtx) (s : State) : Res := hedgeCommand c 0x0301 s (hedgeStage c)

/-! The flip (R218, R219). -/

/-- The first rule of a set that names an invalid meter or mirror destination. -/
def badRule (x : HSet) : Option Nat :=
  (x.rules.find? (fun e => hrValid e.2 &&
    ((match hrMeter e.2 with
      | some m => !bit (kgetD x.meters m 0) 63
      | none => false) ||
     (match hrMirror e.2 with
      | some m => !bit (kgetD x.mirrors m 0) 15
      | none => false)))).map (·.1)

/-- Does a set close a cell between a reserved stream's ingress port and one of its egress ports (R198)? -/
def closesPair (x : HSet) (pairs : List (Nat × Nat)) : Bool :=
  pairs.any (fun e => setCell x (setZone x e.1) (setZone x e.2) = 0)

/-- Swap the sets of a quadrant (R219 step 3). -/
def hedgeSwap (clear : Bool) (q : Nat) (s : State) : State :=
  let f (h : HQuad) : HQuad :=
    let changed (i : Nat) : Bool := kgetD h.active.meters i 0 ≠ kgetD h.shadow.meters i 0
    { h with active := h.shadow, shadow := h.active,
             errs := h.errs.filter (fun e => !(h.restaged.contains e)), restaged := [],
             buckets := h.buckets.filter (fun e => !changed e.1),
             ruleCtr := if clear then [] else h.ruleCtr, zoneCtr := if clear then [] else h.zoneCtr,
             meterCtr := if clear then [] else h.meterCtr }
  let gen := (s.fld (QD_HEDGE_STATUS.ACT_GEN q) + 1) % 65536
  ((s.modHq q f).setFld (QD_HEDGE_STATUS.ACT_GEN q) gen).setFld (QD_HEDGE_STATUS.COPYING q) 1

/-- A flip that restores an entry handles `EV_HEDGE_ECC_ENTRY` (R515): no error of the item reported stands any more. -/
def handleHedgeEcc (s : State) : State :=
  match kget s.flt.unhandled 3 with
  | some e =>
    let q := byteAt e.payload 0
    if e.code = 0x0304 && !hasErr (s.hq q) (byteAt e.payload 1) (leAt e.payload 2 2) then handleGroup 3 s else s
  | none => s

/-- The flip of named quadrants once it is accepted. -/
def hedgeFlipDo (qs : List Nat) (clear flush : Bool) (s : State) : State :=
  let s := qs.foldl (fun s q => hedgeSwap clear q s) s
  let s := if flush then
      { s with hedge := { s.hedge with holes := s.hedge.holes.filter (fun e => !qs.contains e.2.opener) } }
    else s
  handleHedgeEcc s

/-- What the checks of a flip find: a bad rule (quadrant, rule), or a closed cell (quadrant). `pairs` gives, for a quadrant, the
(ingress, egress) ports of the reserved streams that it decides. -/
def flipFault (pairs : State → Nat → List (Nat × Nat)) (qs : List Nat) (s : State) : Option (Nat × Option Nat) :=
  match qs.findSome? (fun q => (badRule (s.hq q).shadow).map (fun r => (q, some r))) with
  | some f => some f
  | none => (qs.find? (fun q => closesPair (s.hq q).shadow (pairs s q))).map (fun q => (q, none))

/-- `HEDGE_FLIP` (R218). -/
def hedgeFlip (pairs : State → Nat → List (Nat × Nat)) (c : CmdCtx) (s : State) : State :=
  let m := byteAt c.par 0
  let f := byteAt c.par 1
  let qs := maskList m 4
  let gen (s : State) : Nat := s.fld (QD_HEDGE_STATUS.ACT_GEN (nth qs 0))
  if !plenIs c 8 || m = 0 || 16 ≤ m || 4 ≤ f || !parZero c 2 8 then complete c 0x0302 stParam [] s
  else match flipFault pairs qs s with
    | some (q, r) =>
      let st := if r.isSome then stParam else stState
      complete c 0x0302 st ([0, byte q] ++ toLe 2 (r.getD 0xFFFF) ++ toLe 2 (gen s) ++ zeros 2) s
    | none =>
      let s := hedgeFlipDo qs (bit f 0) (bit f 1) (stopBegins s)
      complete c 0x0302 stOk ([byte m, 0xFF, 0xFF, 0xFF] ++ toLe 2 (gen s) ++ zeros 2) s

/-- HEDGE_SHADOW_COPY_DONE (R219 step 5). -/
def execHedgeShadowCopyDone (q : Quad) (s : State) : Res := .next (endHedgeCopy q.val s)

/-! Reading (R220). -/

/-- The bytes of one entry of a set, in its staging layout. -/
def setEntry (x : HSet) (item i : Nat) : Bytes :=
  match item with
  | 0 => toLe 1 (kgetD x.zones i 0)
  | 1 => toLe 4 (setRow x i)
  | 2 => (List.range 16).flatMap (fun j => toLe 4 (kgetD x.profiles (i * 16 + j) 0))
  | 3 =>
    let r := kgetD x.rules i noRule
    toLe 64 r.value ++ toLe 64 r.mask ++ toLe 16 r.result
  | 4 => toLe 8 (kgetD x.meters i 0)
  | _ => toLe 4 (kgetD x.mirrors i 0)

/-- The bytes of one counter entry (R220). -/
def ctrEntry (h : HQuad) (item i : Nat) : Bytes :=
  match item with
  | 8 =>
    let c := kgetD h.ruleCtr i (0, 0)
    toLe 8 c.1 ++ toLe 8 c.2
  | 9 => toLe 8 (kgetD h.zoneCtr i 0)
  | _ => toLe 8 (kgetD h.meterCtr i 0)

/-- The entries that an item of `HEDGE_READ` has; none for an item that it does not have. -/
def hrLimit (item : Nat) : Option Nat :=
  match item with
  | 0 => some 76
  | 1 => some 16
  | 2 => some 8
  | 3 => some 4096
  | 4 => some 256
  | 5 => some 4
  | 8 => some 4096
  | 9 => some 256
  | 10 => some 256
  | _ => none

/-- `HEDGE_READ` (R220, R225). -/
def execHedgeRead (c : CmdCtx) (s : State) : Res :=
  hedgeCommand c 0x0303 s fun s =>
    let item := hsItem c
    match maskList (hsQmask c) 4, hrLimit item with
    | [q], some n =>
      let most := if item ≤ 5 then hsMax item else n
      if !plenIs c 16 || 16 ≤ hsQmask c || 2 ≤ byteAt c.par 6 || !parZero c 7 16 ||
         n < hsFirst c + hsCount c || most < hsCount c then complete c 0x0303 stParam [] s
      else
        let h := s.hq q
        let x := if byteAt c.par 6 = 1 then h.shadow else h.active
        let is := (List.range (hsCount c)).map (· + hsFirst c)
        complete c 0x0303 stOk (is.flatMap (fun i => if item ≤ 5 then setEntry x item i else ctrEntry h item i)) s
    | _, _ => complete c 0x0303 stParam [] s

/-! Pinhole commands (R221). -/

/-- The 48 bytes of a pinhole (R215). -/
def phBytes (i : Nat) (e : Pinhole) : Bytes :=
  let k := e.key
  toLe 2 i ++ [byte (128 + k.type), byte (e.zone * 16 + e.opener)] ++ toLe 2 e.rule ++ toLe 2 e.idle ++ toLe 2 e.remain ++
  [byte k.proto, byte k.flags] ++ toLe 2 k.pS ++ toLe 2 k.pD ++ toLe 16 k.src ++ toLe 16 k.dst

/-- The key in an input entry of 48 bytes. -/
def phKeyOf (e : Bytes) : PhKey :=
  { type := byteAt e 2 % 4, proto := byteAt e 10, flags := byteAt e 11, pS := leAt e 12 2, pD := leAt e 14 2, src := leAt e 16 16,
    dst := leAt e 32 16 }

/-- Does `OPEN` accept an input entry (R221)? -/
def phInputOk (e : Bytes) : Bool :=
  let k := phKeyOf e
  let idle := leAt e 6 2
  let common := decide (bits (byteAt e 2) 6 2 = 0) && !bit (byteAt e 3) 3 && decide (1 ≤ idle) && decide (idle ≤ 4095)
  match k.type with
  | 0 =>
    common && (k.proto = 6 || k.proto = 17) && decide (k.flags ≤ 1) &&
    (k.flags = 1 || (decide (k.src < 2 ^ 32) && decide (k.dst < 2 ^ 32)))
  | 1 =>
    common && k.proto = 0 && k.flags = 0 && decide (k.pS < 4096) && decide (k.src < 2 ^ 48) && decide (k.dst < 2 ^ 48)
  | 2 =>
    common && k.proto = 0 && decide (k.flags ≤ 1) && k.pS = 0 && k.pD = 0 && k.dst = 0 &&
    decide (k.src < (if k.flags = 1 then 2 ^ 29 else 2 ^ 11))
  | _ => false

/-- `HEDGE_PINHOLE` `LIST`. A `COUNT` of 0 returns no entry, and as the next index the first valid one from `FIRST` on. (DESIGN CHOICE, log entry
130) -/
def phList (c : CmdCtx) (s : State) : State :=
  let rest := s.hedge.holes.filter (fun e => hsFirst c ≤ e.1)
  let now := rest.take (hsCount c)
  let next := match rest.drop (hsCount c) with
    | e :: _ => e.1
    | [] => 0xFFFFFFFF
  complete c 0x0304 stOk (toLe 4 now.length ++ toLe 4 next ++ now.flatMap (fun e => phBytes e.1 e.2)) s

/-- `HEDGE_PINHOLE` `CLOSE`. -/
def phClose (c : CmdCtx) (s : State) : State :=
  complete c 0x0304 stOk [] { s with hedge := { s.hedge with holes := kdel s.hedge.holes (hsFirst c) } }

/-- `HEDGE_PINHOLE` `CLOSE_ALL`. -/
def phCloseAll (c : CmdCtx) (s : State) : State :=
  complete c 0x0304 stOk (toLe 4 s.hedge.holes.length) { s with hedge := { s.hedge with holes := [] } }

/-- `HEDGE_PINHOLE` `OPEN`. -/
def phOpen (c : CmdCtx) (s : State) : State :=
  let e := slice c.par 16 48
  if !phInputOk e then complete c 0x0304 stParam [] s
  else
    match phInsert (phKeyOf e) (byteAt e 3 / 16) 4 0xFFFF (leAt e 6 2) s with
    | (s, some i) => complete c 0x0304 stOk (toLe 4 i) s
    | (s, none) => complete c 0x0304 stState [] s

/-- `HEDGE_PINHOLE` (R221): the operation in byte 0 is performed; the rows of the table name the four operations. -/
def hedgePinhole (c : CmdCtx) (s : State) : State :=
  let op := byteAt c.par 0
  if 3 < op || !plenIs c (if op = 3 then 64 else 16) || !parZero c 1 2 || !parZero c 6 16 then complete c 0x0304 stParam [] s
  else if op = 0 then phList c s
  else if op = 1 then phClose c s
  else if op = 2 then phCloseAll c s
  else phOpen c s

/-- HEDGE_PINHOLE_LIST (R221). -/
def execHedgePinholeList (c : CmdCtx) (s : State) : Res := hedgeCommand c 0x0304 s (hedgePinhole c)

/-- HEDGE_PINHOLE_CLOSE (R221). -/
def execHedgePinholeClose (c : CmdCtx) (s : State) : Res := hedgeCommand c 0x0304 s (hedgePinhole c)

/-- HEDGE_PINHOLE_CLOSE_ALL (R221). -/
def execHedgePinholeCloseAll (c : CmdCtx) (s : State) : Res := hedgeCommand c 0x0304 s (hedgePinhole c)

/-- HEDGE_PINHOLE_OPEN (R221). -/
def execHedgePinholeOpen (c : CmdCtx) (s : State) : Res := hedgeCommand c 0x0304 s (hedgePinhole c)

/-- PINHOLE_SWEEP (R214): once per 100 ms, the `REMAIN` of every entry is decremented, but of those that a frame hit between the
sweeper's read and its commit (the operand); an entry that reaches 0 is removed. The phase is the model's. (DESIGN CHOICE, log entry
127) -/
def execPinholeSweep (hit : List Nat) (s : State) : Res :=
  if s.lt < s.hedge.sweepDue then .next s
  else
    let dec (e : Nat × Pinhole) : Option (Nat × Pinhole) :=
      if hit.contains e.1 then some e
      else if e.2.remain ≤ 1 then none
      else some (e.1, { e.2 with remain := e.2.remain - 1 })
    let holes := s.hedge.holes.filterMap dec
    .next ({ s with hedge := { s.hedge with holes := holes, sweepDue := s.hedge.sweepDue + 100000000 } }.bumpBy
      (QD_PH_EXPIRED 0) (s.hedge.holes.length - holes.length))

/-! Resets and device states (R224). -/

/-- Hedge function reset: pinholes are removed, meter buckets are full. -/
def hedgeFnReset (s : State) : State :=
  { s with hedge := { s.hedge with holes := [], quads := s.hedge.quads.map (fun e => (e.1, { e.2 with buckets := [] })) } }

/-- Warm reset: counters are 0 as well (the registers' own classes act generically). -/
def hedgeWarm (s : State) : State :=
  let s := hedgeFnReset s
  { s with hedge := { s.hedge with quads := s.hedge.quads.map (fun e =>
      (e.1, { e.2 with ruleCtr := [], zoneCtr := [], meterCtr := [], lastLog := none, lastEcc := none })), lastFull := none } }

end Sys2Proof.Machine
end

