-- ==== Sys2Proof/Machine/Frac.lean ====
section
/-! DEFINITION. Exact non-negative fractions for the bound engine (R317 to R328), kept in lowest terms. -/

namespace Sys2Proof.Machine

/-- A fraction; the denominator is never 0 where it was made by `Fr.mk'`. -/
structure Fr where
  n : Nat
  d : Nat
deriving DecidableEq, Repr

/-- A fraction in lowest terms. -/
def Fr.mk' (n d : Nat) : Fr := ⟨n / Nat.gcd n d, d / Nat.gcd n d⟩

/-- A whole number. -/
def Fr.of (n : Nat) : Fr := ⟨n, 1⟩

/-- Sum, product, quotient. -/
def Fr.add (a b : Fr) : Fr := Fr.mk' (a.n * b.d + b.n * a.d) (a.d * b.d)
def Fr.mul (a b : Fr) : Fr := Fr.mk' (a.n * b.n) (a.d * b.d)
def Fr.div (a b : Fr) : Fr := Fr.mk' (a.n * b.d) (a.d * b.n)

/-- Difference, 0 where it would be negative. -/
def Fr.sub (a b : Fr) : Fr := Fr.mk' (a.n * b.d - b.n * a.d) (a.d * b.d)

/-- Order. -/
def Fr.le (a b : Fr) : Bool := decide (a.n * b.d ≤ b.n * a.d)
def Fr.lt (a b : Fr) : Bool := decide (a.n * b.d < b.n * a.d)
def Fr.max (a b : Fr) : Fr := if Fr.le a b then b else a
def Fr.min (a b : Fr) : Fr := if Fr.le a b then a else b

/-- The next whole number. -/
def Fr.ceil (a : Fr) : Nat := divUp a.n a.d

/-- A quotient rounded up to a multiple of 2^-10 (R323). -/
def Fr.div10 (a b : Fr) : Fr := Fr.mk' (divUp (a.n * b.d * 1024) (a.d * b.n)) 1024

/-- The sum and the largest of a list. -/
def Fr.sum (l : List Fr) : Fr := l.foldl Fr.add (Fr.of 0)
def Fr.most (l : List Fr) : Fr := l.foldl Fr.max (Fr.of 0)

end Sys2Proof.Machine
end

