-- ==== Sys2Proof/Machine/Egress.lean ====
section
/-! DEFINITION. Queues, shutters and shaping (chapter 08): rates, gates, shapers, energy, lanes, the commands of group 0x05. -/

namespace Sys2Proof.Machine

/-- An egress port. -/
def State.eport (s : State) (p : Nat) : EPort := kgetD s.egr.ports p {}

/-- Change an egress port. -/
def State.modEport (s : State) (p : Nat) (f : EPort → EPort) : State :=
  { s with egr := { s.egr with ports := kput s.egr.ports p (f (s.eport p)) } }

/-- What a port sends or has selected ahead of the wire, oldest first (R274). -/
def EPort.onWire (e : EPort) : List Sending := e.leaving ++ e.sending.toList

/-- A port without the oldest frame that it sends. -/
def EPort.departed (e : EPort) : EPort :=
  match e.leaving with
  | _ :: r => { e with leaving := r }
  | [] => { e with sending := none }

/-! Rates and lengths. -/

/-- The highest line rate of an Ethernet port in kb/s (R1). -/
def highRate (p : Nat) : Nat :=
  if p ≤ 7 then 25000000 else if p ≤ 15 || p = 75 then 10000000 else if p ≤ 31 then 1000000 else 10000

/-- The line rate of a port that is not Ethernet, in bit/s (R265): CAN from its nominal bit timing (R378), LIN and FlexRay from
their settings, hosts and SV fixed. -/
def otherRateOf (fld : Fld → Nat) (p : Nat) : Nat :=
  if isCanPort p then
    80000000 / ((fld (LEG_CAN_NBT.BRP_M1 (p - 40)) + 1) *
      (1 + fld (LEG_CAN_NBT.TSEG1_M1 (p - 40)) + 1 + fld (LEG_CAN_NBT.TSEG2_M1 (p - 40)) + 1))
  else if isLinPort p then fld (LEG_LIN_CFG.BAUD (p - 64))
  else if p ≤ 71 then nth [10000000, 5000000, 2500000, 10000000] (fld LEG_FR_CFG.RATE)
  else if p ≤ 73 then 63000000000
  else 10000000000

/-- The same now. -/
def otherRate (s : State) (p : Nat) : Nat := otherRateOf s.fld p

/-- A field of a register at its reset value. -/
def resetFld (f : Fld) : Nat := bits (regReset f.addr) f.hi f.lo

/-- The line rate of a port in bit/s now (R264, R265): an Ethernet port's link rate, or its highest rate while it has no link. -/
def State.lineRate (s : State) (p : Nat) : Nat :=
  if isEthPort p then
    (match kget s.links p with
     | some l => l.rate
     | none => highRate p) * 1000
  else otherRate s p

/-- The highest line rate of a port in bit/s. -/
def State.topRate (s : State) (p : Nat) : Nat := if isEthPort p then highRate p * 1000 else otherRate s p

/-- The wire length of a copy (R264). -/
def wireLen (p len : Nat) (macsec : Bool) : Nat :=
  if isEthPort p then max 60 len + 24 + (if macsec then 32 else 0) else len

/-- A transmission time in ns (R264). -/
def txTime (rate w : Nat) : Nat := divUp (w * 8 * sec) rate

/-- The largest wire length that a port can carry (R270, R650). -/
def maxWire (s : State) (p : Nat) : Nat :=
  if p ≤ 7 || p = 75 then s.fld (PORT_RX_CFG.MAX_LEN p) + 68
  else if p ≤ 39 then s.fld (PORT_RX_CFG.MAX_LEN p) + 52
  else 9728

/-! Egress sets (R278, R648). -/

/-- The line rate from which R262 and R648 take their defaults after POR: an Ethernet port's highest rate, and that of the reset values of the
settings of any other port. (DEDUCED, log entry 122) -/
def porRate (p : Nat) : Nat := if isEthPort p then highRate p * 1000 else otherRateOf resetFld p

/-- The default class entry (R648, R262). (DEDUCED, log entry 122) -/
def defClass (p c : Nat) : EClass :=
  if c = 7 then { mode := 2, rate := max 64 (porRate p / 100000), burst := 9728 }
  else if c = 5 then { mode := 2, rate := max 1 (porRate p / 10000), burst := 16384 }
  else { mode := 0, rate := 0, burst := 0 }

/-- A class entry of a set. -/
def eclass (x : ESet) (p c : Nat) : EClass := kgetD x.classes c (defClass p c)

/-- A list entry of a set. -/
def elist (x : ESet) (i : Nat) : Nat := kgetD x.list i (if i = 0 then 0x00FF00000001E848 else 0)

/-- Fields of a list entry (R272). -/
def leOp (w : Nat) : Nat := bits w 63 62
def leGates (w : Nat) : Nat := bits w 55 48
def leNs (w : Nat) : Nat := bits w 26 0 * 8

/-! Gates (R273, R274). -/

/-- The segments of a cycle: (start, end, entry index), from the entries on, cut at the end of the cycle; the last entry holds
until then. -/
def segmentsFrom (x : ESet) : List Nat → Nat → List (Nat × Nat × Nat)
  | [], _ => []
  | [i], t => if t < x.cycle then [(t, x.cycle, i)] else []
  | i :: r, t =>
    if t < x.cycle then (t, min x.cycle (t + leNs (elist x i)), i) :: segmentsFrom x r (t + leNs (elist x i)) else []

/-- The segments of a set's cycle. -/
def segments (x : ESet) : List (Nat × Nat × Nat) := segmentsFrom x (List.range x.listLen) 0

/-- The position of a domain time in the cycle (R273). -/
def listPos (x : ESet) (t : Nat) : Nat := ((((t : Int) - x.base) % (x.cycle : Int))).toNat

/-- The entry in force at a domain time. -/
def entryAt (x : ESet) (t : Nat) : Nat :=
  let p := listPos x t
  match (segments x).find? (fun g => decide (g.1 ≤ p) && decide (p < g.2.1)) with
  | some g => g.2.2
  | none => 0

/-- The gates in force at a domain time; all open while `SHUTTER_EN` is 0. -/
def gatesAt (x : ESet) (t : Nat) : Nat := if x.shutterEn then leGates (elist x (entryAt x t)) else 255

/-- How long a class's gate stays open over a list of segments, up to the first closed one. -/
def openRun (x : ESet) (c : Nat) : List (Nat × Nat × Nat) → Nat
  | [] => 0
  | g :: r => if bit (leGates (elist x g.2.2)) c then (g.2.1 - g.1) + openRun x c r else 0

/-- How long the gate of a class stays open from a domain time on, counted over at most two cycles (R274). -/
def openFor (x : ESet) (c t : Nat) : Nat :=
  if !x.shutterEn then 2 ^ 62
  else
    let p := listPos x t
    let gs := segments x
    let now := (gs.filter (fun g => decide (p < g.2.1))).map (fun g => (max p g.1, g.2.1, g.2.2))
    let n := openRun x c (now ++ gs ++ gs)
    if 2 * x.cycle ≤ n then 2 ^ 62 else n

/-- The longest unbroken open time of a class (R275). -/
def longestOpen (x : ESet) (c : Nat) : Nat :=
  if !x.shutterEn then 2 ^ 62
  else (segments x).foldl (fun m g => max m (openFor x c (x.base + g.1))) 0

/-- How long until the gate of a class next opens from a domain time at which it is closed; 2^62 when it never does. -/
def closedFor (x : ESet) (c t : Nat) : Nat :=
  if !x.shutterEn then 0
  else
    let p := listPos x t
    let gs := segments x
    let ahead := (gs.filter (fun g => decide (p < g.2.1))).map (fun g => (max p g.1 - p, g.2.2)) ++
      gs.map (fun g => (g.1 + x.cycle - p, g.2.2))
    match ahead.find? (fun g => bit (leGates (elist x g.2)) c) with
    | some g => g.1
    | none => 2 ^ 62

/-- The hold after an entry with an `OP` has taken force (R289): Set-And-Hold-MAC sets it, Set-And-Release-MAC ends it. -/
def holdNext (hold : Bool) (op : Nat) : Bool := if op = 1 then true else if op = 2 then false else hold

/-- The `OP` of the entry in force at a domain time; SetGateStates while no list runs. -/
def opAt (x : ESet) (t : Nat) : Nat := if x.shutterEn then leOp (elist x (entryAt x t)) else 0

/-- The hold d ns after a domain time at which it is `hold` (R289): the last Hold or Release entry that takes force in between decides. -/
def holdAfter (x : ESet) (hold : Bool) (t d : Nat) : Bool :=
  if !x.shutterEn then hold
  else
    let p := listPos x (t + d)
    let gs := segments x
    let back := ((gs.filter (fun g => decide (g.1 ≤ p))).map (fun g => (p - g.1, g.2.2))).reverse ++
      (gs.map (fun g => (p + x.cycle - g.1, g.2.2))).reverse
    match back.find? (fun g => leOp (elist x g.2) ≠ 0) with
    | some g => if g.1 < d then holdNext hold (leOp (elist x g.2)) else hold
    | none => hold

/-- The hold of a port d ns from now; from a fixed flip time on the new list decides (R280, R289). -/
def holdIn (s : State) (p d : Nat) : Bool :=
  let e := s.eport p
  let t := s.scale e.active.dom
  match e.flip with
  | none => holdAfter e.active e.hold t d
  | some f =>
    let left := f.f - s.scale f.dom
    if d < left then holdAfter e.active e.hold t d
    else
      let tn := s.scale e.shadow.dom + left
      holdAfter e.shadow (holdNext (holdAfter e.active e.hold t left) (opAt e.shadow tn)) tn (d - left)

/-- The entry in force takes force on a port: its gates, and its Hold or Release (R273, R289). -/
def takeEntry (s : State) (e : EPort) : EPort :=
  let t := s.scale e.active.dom
  { e with gates := gatesAt e.active t, hold := holdNext e.hold (opAt e.active t) }

/-- Does the gate of a class stay open from LT-distance `ahead` from now for `dur` ns? The old list counts before a fixed flip
time, the new one from it on (R274, R280). -/
def gateFits (s : State) (p c ahead dur : Nat) : Bool :=
  let e := s.eport p
  let t := s.scale e.active.dom + ahead
  match e.flip with
  | none => decide (dur ≤ openFor e.active c t)
  | some f =>
    let left := f.f - (s.scale f.dom + ahead)
    let oldOk := decide (min dur left ≤ openFor e.active c t)
    let tn := s.scale e.shadow.dom + ahead + left
    oldOk && (decide (dur ≤ left) || decide (dur - left ≤ openFor e.shadow c tn))

/-! Shapers (R262, R268, R270). -/

/-- The shaper of a class runs in credits where this is true, else in tokens. (DEDUCED, log entry 21) -/
def creditMode (x : EClass) (c : Nat) : Bool := x.mode = 1 && c ≠ 7

/-- The mode in which a class is served: TC7 always a token bucket (R262), TC6 strict; TC5 and TC6 of P40 to P71 strict (R263). -/
def serveMode (p c mode : Nat) : Nat :=
  if c = 7 then 2 else if isLegacyPort p && decide (5 ≤ c) then 0 else mode

/-- The LT of the last bit of what a port sends. (DESIGN CHOICE, log entry 88) -/
def lastBit (s : State) (p : Nat) (g : Sending) : Nat := g.first + txTime (s.lineRate p) (if isEthPort p then g.wire - 20 else g.wire)

/-- The shaper of a class; one that has not run since tokens and credit were last set to 0 (R303) starts there. -/
def State.shaper (s : State) (e : EPort) (c : Nat) : Shaper := kgetD e.shapers c { lvl := 0, at_ := s.egr.zeroAt }

/-- The level of a shaper at an LT. A token bucket fills at `RATE` up to `BURST`; a credit rises at idleSlope while a frame waits
with its gate open, falls at sendSlope while the class sends, and else holds. -/
def shaperAt (s : State) (p c : Nat) (waiting : Bool) (t : Nat) : Int :=
  let e := s.eport p
  let x := eclass e.active p c
  let h := s.shaper e c
  let dt : Nat := t - h.at_
  if creditMode x c then
    let fall : Nat := match e.sending with
      | some g => if g.tc = c then min t (lastBit s p g) - h.at_ else 0
      | none => 0
    let v := h.lvl + ((x.rate : Int) * 1000 - s.lineRate p) * fall / 1000
    if waiting && bit e.gates c then v + (x.rate : Int) * (dt - fall : Nat) else v
  else min ((x.burst : Int) * 8000000) (h.lvl + (x.rate : Int) * dt)

/-- Bring a class's shaper to an LT; one that stands at a later LT stays there. (DEDUCED, log entry 21) -/
def settleAt (p c : Nat) (waiting : Bool) (t : Nat) (s : State) : State :=
  let v := shaperAt s p c waiting t
  s.modEport p (fun e => { e with shapers := kput e.shapers c { lvl := v, at_ := max t (s.shaper e c).at_ } })

/-- Bring a class's shaper to the present LT. -/
def settle (p c : Nat) (waiting : Bool) (s : State) : State := settleAt p c waiting s.lt s

/-- May a head frame of wire length w start, by the shaper of its class, at an LT (R266)? -/
def shaperOk (s : State) (p c w t : Nat) : Bool :=
  let x := eclass (s.eport p).active p c
  match serveMode p c x.mode with
  | 0 => true
  | 1 => decide (0 ≤ shaperAt s p c true t)
  | _ => decide ((w : Int) * 8000000 ≤ shaperAt s p c true t)

/-- A frame starts at an LT: its tokens are taken (R270); credit counts on from there, and a positive one is set to 0 where the queue is now
empty (R268). -/
def chargeShaper (p c w t : Nat) (empty : Bool) (s : State) : State :=
  let x := eclass (s.eport p).active p c
  let v := shaperAt s p c true t
  let v' := if creditMode x c then (if empty && decide (0 < v) then 0 else v)
    else if serveMode p c x.mode = 2 then v - (w : Int) * 8000000 else v
  s.modEport p (fun e => { e with shapers := kput e.shapers c { lvl := v', at_ := max t (s.shaper e c).at_ } })

/-! Energy (R295, R296, R298) and heat (R297). -/

/-- Is a stream reserved here: Tentative or Committed (R647)? -/
def Stream.reserved (x : Stream) : Bool := decide (x.phase ≠ .asking)

/-- Has a stream been committed here and not yet freed (R309)? -/
def Stream.committed (x : Stream) : Bool := decide (x.phase = .committed) || decide (x.phase = .withdrawing)

/-- The reserved streams. -/
def State.reserved (s : State) : List (Nat × Stream) := s.streams.filter (fun e => e.2.reserved)

/-- `RESERVED_MW`. -/
def reservedMw (s : State) : Nat := divUp ((s.reserved.map (fun e => e.2.energy)).sum) 1000

/-- The level in pJ at the present LT. 1 mW is 1 pJ per ns. -/
def energyNow (s : State) : Int :=
  let cap := (s.fld EGR_ENERGY_CFG.BURST : Int) * 1000000
  let fill : Nat := s.fld EGR_ENERGY_CFG.BUDGET_MW - reservedMw s
  let dt := s.lt - s.egr.energyAt
  let gain := if s.brace then fill * dt * min 1000 (s.fld EGR_BRACE_CFG.BRACE_PM) / 1000 else fill * dt
  min cap (s.egr.energy + gain)

/-- Bring the energy level to the present LT; since when it is at or below 0. -/
def settleEnergy (s : State) : State :=
  let v := energyNow s
  let e := s.egr
  { s with egr := { e with energy := v, energyAt := s.lt,
                           emptySince := if 0 < v then none else some (e.emptySince.getD s.lt),
                           emptyTold := if 0 < v then false else e.emptyTold } }

/-- The kind of a port in `EGR_COSTk`. -/
def costKind (s : State) (p : Nat) : Nat :=
  if p ≤ 15 || p = 75 then 0
  else if p ≤ 31 then (if s.lineRate p = 100000000 then 2 else 1)
  else if p ≤ 39 then 3 else if p ≤ 71 then 4 else 5

/-- Debit a start (R295): classes TC0 to TC4 and TC7; never below −`BURST`. -/
def energyDebit (p c w : Nat) (s : State) : State :=
  if s.flag EGR_CTRL.ENERGY_EN && (c ≤ 4 || c = 7) then
    let k := costKind s p
    let cost := s.fld (EGR_COST.FIXED k) + s.fld (EGR_COST.BYTE k) * w
    let floor := -((s.fld EGR_ENERGY_CFG.BURST : Int) * 1000000)
    let s := settleEnergy s
    let e := s.egr
    let same := e.clockAt = s.lt && !e.clockQuads.isEmpty
    settleEnergy { s with egr := { e with energy := max floor (e.energy - cost), clockAt := s.lt, clockLvl := if same then e.clockLvl else e.energy,
                                          clockQuads := homeQuad p :: (if same then e.clockQuads else []) } }
  else s

/-- The level that a port's quadrant tests (R296): as it stood before this clock, as long as only other quadrants have debited in it. -/
def energyTested (s : State) (p : Nat) : Int :=
  let e := s.egr
  if e.clockAt = s.lt && !e.clockQuads.isEmpty && !e.clockQuads.contains (homeQuad p) then e.clockLvl else energyNow s

/-- May a best-effort frame of a port start, by the energy level (R295, R296)? -/
def energyOk (s : State) (p : Nat) : Bool := !s.flag EGR_CTRL.ENERGY_EN || decide (0 < energyTested s p)

/-- The per mille of a 100 µs window that TC0 to TC4 of a port may spend; none for no limit, some 0 for never (R297, R298). -/
def sendShare (s : State) (p : Nat) : Option Nat :=
  let band := if s.flag EGR_CTRL.THERM_EN then s.fld (EGR_THERM_Q.BAND (homeQuad p)) else 0
  let therm := if band = 0 then none else if band = 1 then some (s.fld EGR_THERM_CFG.THROTTLE_PM) else some 0
  let br := if s.brace && !s.flag EGR_CTRL.ENERGY_EN then some (s.fld EGR_BRACE_CFG.BRACE_PM) else none
  match therm, br with
  | some a, some b => some (min a b)
  | some a, none => some a
  | none, x => x

/-- The ns that a port has spent on best effort in the 100 µs window of an LT. -/
def EPort.spentAt (e : EPort) (t : Nat) : Nat := if e.window / 100000 = t / 100000 then e.spent else 0

/-- May a best-effort frame of a port start at an LT, by heat and brace (R297, R298)? It must stay within the share of every window that it
touches. (DEDUCED, log entry 141) -/
def thermalOk (s : State) (p t ns : Nat) : Bool :=
  match sendShare s p with
  | none => true
  | some m =>
    let a := (s.eport p).spentAt t
    let left := 100000 - t % 100000
    if ns ≤ left then decide (a + ns ≤ 100 * m)
    else decide (a + left ≤ 100 * m) && (decide (ns - left < 100000) || decide (1000 ≤ m)) && decide ((ns - left) % 100000 ≤ 100 * m)

/-- A best-effort frame starts at an LT: its time counts in the windows that it touches. -/
def spend (p t ns : Nat) (s : State) : State :=
  s.modEport p (fun e =>
    if (t + ns) / 100000 = t / 100000 then { e with window := t, spent := e.spentAt t + ns }
    else { e with window := t + ns, spent := (t + ns) % 100000 })

/-- The band that a headroom gives, with 2 °C (4 steps) of hysteresis on the way down (R297). -/
def bandOf (s : State) (old head : Nat) : Nat :=
  let h1 := s.fld EGR_THERM_CFG.H1
  let h2 := s.fld EGR_THERM_CFG.H2
  let raw := if h1 ≤ head then 0 else if h2 ≤ head then 1 else 2
  if old ≤ raw then raw
  else if old = 2 && decide (head < h2 + 4) then 2
  else if h1 + 4 ≤ head then 0
  else if old = 1 then 1
  else if raw = 0 then 1
  else raw

/-- A quadrant's headroom has been read (R297): register, band, event. -/
def setHeadroom (q head : Nat) (s : State) : State :=
  let old := s.fld (EGR_THERM_Q.BAND q)
  let new := bandOf s old head
  let s := (s.setFld (EGR_THERM_Q.HEADROOM q) head).setFld (EGR_THERM_Q.BAND q) new
  if new ≠ old then raise 0x0505 0 (evPay [(16, 1, q), (17, 1, new), (18, 2, head)]) s else s

/-- ENERGY_EMPTY (R295): the level has been at or below 0 for 10 ms; raised at most once in any 1 s. -/
def execEnergyEmpty (s : State) : Res :=
  let s := settleEnergy s
  match s.egr.emptySince with
  | some t =>
    let free := match s.egr.emptyLast with
      | some l => decide (l + sec ≤ s.lt)
      | none => true
    if s.flag EGR_CTRL.ENERGY_EN && t + 10000000 ≤ s.lt && !s.egr.emptyTold && free then
      .next (raise 0x0504 0 (evPay [(20, 4, ofSigned 32 (s.egr.energy / 1000))])
        { s with egr := { s.egr with emptyTold := true, emptyLast := some s.lt } })
    else .next s
  | none => .next s

/-! Preemption (R286 to R290). -/

/-- Has a port preemption (R263), at its present rate? -/
def hasPreemption (s : State) (p : Nat) : Bool := (decide (p ≤ 31) || p = 75) && decide (100000000 ≤ s.lineRate p)

/-- May `PREEMPT_EN` be staged for a port (R263, R279)? -/
def preemptPort (p : Nat) : Bool := decide (p ≤ 31) || p = 75

/-- Is preemption active under a set (R287): a verification holds until the link trains again or the settings change? -/
def preemptUnder (s : State) (p : Nat) (x : ESet) : Bool :=
  let e := s.eport p
  x.preemptEn && hasPreemption s p && (!x.verifyEn || (e.active.preemptEn && e.active.verifyEn && decide (e.verify = 2)))

/-- Is preemption active (R287)? -/
def preemptActive (s : State) (p : Nat) : Bool := preemptUnder s p (s.eport p).active

/-- May a class be preempted now (R287)? -/
def classPreemptable (s : State) (p c : Nat) : Bool := decide (c ≤ 4) && bit (s.eport p).active.preemptable c && preemptActive s p

/-- The preemption residue in bytes (R288). -/
def residueBytes (x : ESet) : Nat := 64 * (x.addFrag + 1) + 83

/-- The wire length above which R290 discards. -/
def residueLimit (x : ESet) : Nat := residueBytes x

/-- Start verification when the port's set asks for it (R287). -/
def startVerify (p : Nat) (s : State) : State :=
  s.modEport p (fun e => { e with verify := if e.active.preemptEn && e.active.verifyEn && khas s.links p then 1 else 0 })

/-! Lane parking (R299 to R301). -/

/-- The wake time of a port kind in µs. -/
def wakeTime (p : Nat) : Nat := if 16 ≤ p && p ≤ 31 then 20 else 5

/-- May `PARK_EN` be 1 on a port now (R299)? -/
def parkAllowed (s : State) (p : Nat) : Bool :=
  (decide (p ≤ 15) || p = 75 || (decide (16 ≤ p) && decide (p ≤ 31) && decide (s.lineRate p = 1000000000))) &&
  (match kget s.links p with
   | some l => l.eee
   | none => false) && (s.eport p).active.shutterEn

/-- ns until TC5 or TC6 next opens; 0 while one of them is open. -/
def tc56Opens (s : State) (p : Nat) : Nat :=
  let x := (s.eport p).active
  let t := s.scale x.dom
  let g := gatesAt x t
  if bit g 5 || bit g 6 then 0 else min (closedFor x 5 t) (closedFor x 6 t)

/-- `WAKE_LEAD`, `MIN_QUIET` and `BE_WAIT_MAX` in ns. -/
def wakeLead (s : State) (p : Nat) : Nat := s.fld (EGR_PARK_CFG.WAKE_LEAD p) * 1000
def minQuiet (s : State) (p : Nat) : Nat := s.fld (EGR_PARK_CFG.MIN_QUIET p) * 1000
def beWaitMax (s : State) (p : Nat) : Nat := s.fld (EGR_PARK_CFG.BE_WAIT_MAX p) * 10000

/-- May the lane send? -/
def laneAwake (e : EPort) : Bool := e.park = 0

/-- Enter lane-quiet where the conditions of R300 hold; `empty` says that all eight queues are empty. -/
def parkEnter (p : Nat) (empty : Bool) (s : State) : State :=
  let e := s.eport p
  if e.park = 0 && empty && e.onWire.isEmpty && s.flag (EGR_PORT_CTRL.PARK_EN p) && parkAllowed s p &&
     decide (wakeLead s p + minQuiet s p ≤ tc56Opens s p) then
    (s.modEport p (fun e => { e with park := 2, parkAt := s.lt, beFirst := none })).bump (EGR_PARK_ENTER p)
  else s

/-- The lane starts to wake (R300): its quiet time is counted, and it can send `WAKE_LEAD` later. -/
def parkWake (p : Nat) (s : State) : State :=
  let e := s.eport p
  if e.park = 2 || e.park = 1 then
    (s.modEport p (fun e => { e with park := 3, readyAt := s.lt + wakeLead s p })).bumpBy (EGR_PARK_NS p) (s.lt - e.parkAt)
  else s

/-- A frame of a class arrives in a queue of a parked port (R300): one of TC5 or TC6 waits for the wake before its gate opens. -/
def parkArrival (p c : Nat) (s : State) : State :=
  let e := s.eport p
  if (e.park = 1 || e.park = 2) && c ≠ 5 && c ≠ 6 then
    if c = 7 || !s.flag (EGR_PORT_CTRL.HOLD_BE p) then parkWake p s
    else s.modEport p (fun e => { e with beFirst := some (e.beFirst.getD s.lt) })
  else s

/-- LANE_WAKE_TIMER (R300, R301): a parked lane wakes `WAKE_LEAD` before TC5 or TC6 opens, or `BE_WAIT_MAX` after the first
best-effort arrival. -/
def execLaneWakeTimer (p : Port) (s : State) : Res :=
  let n := p.val
  let e := s.eport n
  let be := match e.beFirst with
    | some t => decide (t + beWaitMax s n ≤ s.lt)
    | none => false
  if (e.park = 1 || e.park = 2) && (be || decide (tc56Opens s n ≤ wakeLead s n)) then .next (parkWake n s) else .next s

/-- LANE_READY (R300): `WAKE_LEAD` after its wake started the lane can send; with empty queues it may park again. -/
def laneReady (empty : State → Nat → Bool) (p : Nat) (s : State) : State :=
  let e := s.eport p
  if e.park = 3 && decide (e.readyAt ≤ s.lt) then
    let s := s.modEport p (fun e => { e with park := 0, beFirst := none })
    parkEnter p (empty s p) s
  else s

/-! PFC (R293, R294). -/

/-- Is the device in large-fabric mode (R291)? -/
def largeFabric (s : State) : Bool := s.flag FAB_STATUS.LARGE

/-- Ports with back-pressure (R263). -/
def pfcPort (p : Nat) : Bool := decide (p ≤ 7) || p = 75

/-- Is a class paused by the neighbour now? -/
def isPaused (s : State) (p c : Nat) : Bool :=
  match kget (s.eport p).paused c with
  | some t => decide (s.lt < t)
  | none => false

/-- Does a class ignore pauses (R294): it was found stuck with `PFC_WD_DROP`, and no 100 ms without a pause have passed? -/
def ignoresPause (s : State) (e : EPort) (c : Nat) : Bool :=
  match kget e.ignore c with
  | some t => decide (s.lt < t + 100000000)
  | none => false

/-- One class of a received PFC frame (R294): quanta of 512 bit times at the line rate. (DEDUCED, log entry 86, DEDUCED, log entry 122) -/
def pauseClass (p c quanta : Nat) (s : State) : State :=
  let e := s.eport p
  if quanta = 0 then
    s.modEport p (fun e => { e with paused := kdel e.paused c, pausedAt := kdel e.pausedAt c, stuck := e.stuck.filter (· ≠ c) })
  else if ignoresPause s e c then s.modEport p (fun e => { e with ignore := kput e.ignore c s.lt })
  else
    let until_ := s.lt + txTime (s.lineRate p) (quanta * 64)
    s.modEport p (fun e => { e with paused := kput e.paused c until_, pausedAt := kput e.pausedAt c (kgetD e.pausedAt c s.lt) })

/-- PFC_RECEIVED (R294, R605): the class-enable vector and the quanta of the eight priorities. -/
def execPfcReceived (p : Port) (enable : Nat) (quanta : List Nat) (s : State) : Res :=
  let n := p.val
  if !pfcPort n then .next s
  else
    let s := s.bump (EGR_PAUSE_RCVD n)
    let s := (maskList enable 5).foldl (fun s c => pauseClass n c (nth quanta c % 65536) s) s
    .next (s.bumpBy (EGR_PAUSE_IGNORED n) (((List.range 3).filter (fun i => bit enable (i + 5))).length))

/-- PFC_PAUSE_EXPIRY (R294): a pause whose quanta have run out ends. -/
def execPfcPauseExpiry (p : Port) (c : Fin 5) (s : State) : Res :=
  match kget (s.eport p.val).paused c.val with
  | some t =>
    if t ≤ s.lt then .next (s.modEport p.val (fun e =>
      { e with paused := kdel e.paused c.val, pausedAt := kdel e.pausedAt c.val, stuck := e.stuck.filter (· ≠ c.val) }))
    else .next s
  | none => .next s

/-- The bytes of a PFC frame (IEEE 802.1Qbb): destination `01-80-C2-00-00-01`, source `GW_SRC_MAC`, opcode 0x0101. -/
def pfcFrame (s : State) (mask quanta : Nat) : Bytes :=
  let q (i : Nat) : Bytes := toBe 2 (if bit mask i then quanta else 0)
  let mac := s.reg GW_SRC_MAC_HI % 65536 * 2 ^ 32 + s.reg GW_SRC_MAC_LO
  toBe 6 0x0180C2000001 ++ toBe 6 mac ++ toBe 2 0x8808 ++ toBe 2 0x0101 ++ toBe 2 mask ++ (List.range 8).flatMap q ++ zeros 26

/-- Send PFC for classes: pause (true) or lift (R293). -/
def sendPfc (p mask : Nat) (pause : Bool) (s : State) : State :=
  if mask = 0 then s
  else
    let s := s.modEport p (fun e => { e with
      pfcOut := if pause then e.pfcOut ||| mask else e.pfcOut - (e.pfcOut &&& mask),
      pfcAt := (maskList mask 5).foldl (fun m c => if pause then kput m c s.lt else kdel m c) e.pfcAt })
    (s.bump (EGR_PAUSE_SENT p)).emit (.control p (pfcFrame s mask (if pause then 0xFFFF else 0)))

/-! Staging (R278, R279). -/

/-- The header of the commands of group 0x05. -/
def shItem (c : CmdCtx) : Nat := byteAt c.par 0
def shPort (c : CmdCtx) : Nat := byteAt c.par 1
def shFirst (c : CmdCtx) : Nat := leAt c.par 2 2
def shCount (c : CmdCtx) : Nat := leAt c.par 4 2

/-- Entry size, largest `FIRST` + `COUNT`, largest `COUNT` (R278). -/
def shSize (item : Nat) : Nat := nth [32, 16, 8] item
def shLimit (item : Nat) : Nat := nth [1, 8, 1024] item
def shMax (item : Nat) : Nat := nth [1, 8, 510] item

/-- The bytes of the k-th staged entry. -/
def shEntry (c : CmdCtx) (k : Nat) : Bytes := slice c.par (16 + k * shSize (shItem c)) (shSize (shItem c))

/-- Write one entry into a set. -/
def shWrite (item i : Nat) (e : Bytes) (x : ESet) : ESet :=
  match item with
  | 0 => { x with cycle := leAt e 0 4, base := leAt e 8 6 * sec + leAt e 4 4, dom := byteAt e 14, shutterEn := bit (byteAt e 15) 0,
                  listLen := leAt e 16 2, addFrag := byteAt e 18 % 4, preemptEn := bit (byteAt e 18) 2,
                  verifyEn := bit (byteAt e 18) 3, preemptable := byteAt e 19 }
  | 1 => { x with classes := kput x.classes i { mode := byteAt e 0, rate := leAt e 4 4, burst := leAt e 8 4 } }
  | _ => { x with list := kput x.list i (le e) }

/-- Ports that have shutters and credit-based shaping (R263). -/
def shutterPort (p : Nat) : Bool := isEthPort p

/-- Port settings that staging accepts (R263, R273, R278, R279). -/
def portSettingsOk (p : Nat) (e : Bytes) : Bool :=
  let cycle := leAt e 0 4
  let pre := byteAt e 18
  cycle % 8 = 0 && decide (8 ≤ cycle) && decide (cycle ≤ sec) && decide (byteAt e 14 ≤ 1) && decide (byteAt e 15 ≤ 1) &&
  decide (1 ≤ leAt e 16 2) && decide (leAt e 16 2 ≤ 1024) && decide (pre < 16) && decide (byteAt e 19 < 32) &&
  (slice e 20 12).all (fun b => b = 0) && (byteAt e 15 = 0 || shutterPort p) &&
  (preemptPort p || (!bit pre 2 && byteAt e 19 = 0))

/-- A class entry that staging accepts for class c of a port (R263, R270, R278, R279). (DEDUCED, log entry 20) -/
def classOk (s : State) (p c : Nat) (e : Bytes) : Bool :=
  let mode := byteAt e 0
  let rate := leAt e 4 4
  let burst := leAt e 8 4
  let used := c = 7 || mode = 1 || mode = 2
  let bucket := c = 7 || mode = 2
  (slice e 1 3).all (fun b => b = 0) && (slice e 12 4).all (fun b => b = 0) &&
  (c = 7 || decide (mode ≤ 2)) && (c ≠ 6 || mode = 0) && !(c = 5 && mode = 0 && isEthPort p) &&
  !(mode = 1 && c ≠ 7 && !isEthPort p) && (!used || (decide (1 ≤ rate) && decide (rate ≤ 25000000))) &&
  (!bucket || decide (maxWire s p ≤ burst))

/-- A list entry that staging accepts (R272, R279). -/
def listOk (preemptEn : Bool) (w : Nat) : Bool :=
  leOp w ≠ 3 && (leOp w = 0 || preemptEn) && bits w 61 56 = 0 && bits w 47 27 = 0 &&
  decide (1 ≤ bits w 26 0) && decide (bits w 26 0 ≤ 125000000)

/-- The credit-based rates of a set add up to at most 90 % of the port's highest rate (R269). -/
def creditSumOk (s : State) (p : Nat) (x : ESet) : Bool :=
  let sum := ((List.range 7).map (fun c =>
    let k := eclass x p c
    if k.mode = 1 then k.rate else 0)).sum
  decide (sum * 1000 * 10 ≤ s.topRate p * 9)

/-- The checks of `SHUTTER_STAGE` (R279, R304). -/
def shOk (s : State) (c : CmdCtx) : Bool :=
  let item := shItem c
  let p := shPort c
  let x := (s.eport p).shadow
  let ks := List.range (shCount c)
  let ok (k : Nat) : Bool :=
    match item with
    | 0 => portSettingsOk p (shEntry c k)
    | 1 => classOk s p (shFirst c + k) (shEntry c k)
    | _ => listOk x.preemptEn (le (shEntry c k))
  decide (item ≤ 2) && decide (p ≤ 75) && parZero c 6 16 && decide (shFirst c + shCount c ≤ shLimit item) &&
  decide (shCount c ≤ shMax item) && plenIs c (16 + shCount c * shSize item) && ks.all ok &&
  creditSumOk s p (ks.foldl (fun x k => shWrite item (shFirst c + k) (shEntry c k) x) x)

/-- Is a flip of the port pending (`FLIP_PENDING`, R283)? -/
def flipPending (e : EPort) : Bool := e.flip.isSome || e.copying

/-- `SHUTTER_STAGE` (R278, R279) once it starts. -/
def shutterStage (c : CmdCtx) (s : State) : State :=
  if !shOk s c then complete c 0x0501 stParam [] s
  else
    let put (x : ESet) (k : Nat) : ESet := shWrite (shItem c) (shFirst c + k) (shEntry c k) x
    complete c 0x0501 stOk [] (s.modEport (shPort c) (fun e => { e with shadow := (List.range (shCount c)).foldl put e.shadow }))

/-! The flip (R280 to R283). -/

/-- Where the shadow set of a port may not become active: the handle of the first stream that fails the re-check, 0xFFFF when no
stream is to blame (R281). -/
abbrev Recheck := State → Nat → ESet → Option Nat

/-- The flip time F for an E (R280). -/
def flipAt (x : ESet) (e : Nat) : Nat :=
  if x.shutterEn then e + ((((x.base : Int) - e) % (x.cycle : Int))).toNat else e

/-- The domain on which `CHANGE` is read (R280). -/
def flipDom (e : EPort) : Nat := if e.active.shutterEn then e.active.dom else e.shadow.dom

/-- Fix F for a port (R280, R283 step 2). -/
def fixFlip (p change : Nat) (cmd : Option CmdCtx) (s : State) : State :=
  let e := s.eport p
  let d := flipDom e
  let f := flipAt e.active (max change (s.scale d + 1000))
  s.modEport p (fun e => { e with flip := some { f := f, dom := d, cmd := cmd } })

/-- One run of the bound engine: it takes at most 200 µs (R330); how long is a free value. (DESIGN CHOICE, log entry 47) -/
def engineRun (s : State) : State :=
  let t := s.freeVal % 201
  ((s.drew).setFld ADM_ENGINE_TIME.LAST_US t).setFld ADM_ENGINE_TIME.MAX_US (max t (s.fld ADM_ENGINE_TIME.MAX_US))

/-- `SHUTTER_FLIP` (R280, R281) once it starts. -/
def shutterFlip (re : Recheck) (c : CmdCtx) (s : State) : State :=
  let p := byteAt c.par 0
  let change := leAt c.par 8 6 * sec + leAt c.par 4 4
  let bad (h : Nat) : Bytes := zeros 14 ++ toLe 2 h
  if !plenIs c 16 || 75 < p || !parZero c 1 4 || !parZero c 14 16 || s.scale (flipDom (s.eport p)) + 10 * sec < change then
    complete c 0x0502 stParam [] s
  else if flipPending (s.eport p) then complete c 0x0502 stState (bad 0xFFFF) s
  else match re s p (s.eport p).shadow with
    | some h => complete c 0x0502 stState (bad h) (engineRun s)
    | none => fixFlip p change (some c) (engineRun s)

/-- A class's shaper at the flip (R271). -/
def flipShaper (s : State) (p : Nat) (old new : ESet) (m : Keyed Shaper) (c : Nat) : Keyed Shaper :=
  let a := eclass old p c
  let b := eclass new p c
  let changed := a.rate ≠ b.rate || a.mode ≠ b.mode || (a.burst ≠ b.burst && !creditMode b c)
  if !changed then m
  else if creditMode b c then kput m c { lvl := 0, at_ := s.lt }
  else kput m c { lvl := if bit (s.reg (EGR_TB_CTRL p)) c then (b.burst : Int) * 8000000 else 0, at_ := s.lt }

/-- The flip takes place (R283 step 3): the sets swap, `ACT_GEN` advances, tokens and credit are set, the command completes. -/
def flipNow (p : Nat) (waiting : State → Nat → Nat → Bool) (s : State) : State :=
  match (s.eport p).flip with
  | none => s
  | some f =>
    let s := (List.range 8).foldl (fun s c => settle p c (waiting s p c) s) s
    let e := s.eport p
    let sh := (List.range 8).foldl (flipShaper s p e.active e.shadow) e.shapers
    let gen := (s.fld (EGR_PORT_ENTRY.ACT_GEN p) + 1) % 65536
    let entry := if e.shadow.shutterEn then entryAt e.shadow (s.scale e.shadow.dom - (s.scale f.dom - f.f)) else 0
    let was := preemptActive s p
    let e' : EPort := takeEntry s { e with active := e.shadow, shadow := e.active, flip := none, copying := true, shapers := sh }
    let s := (s.modEport p (fun _ => e')).setFld (EGR_PORT_ENTRY.ACT_GEN p) gen
    let s := if e.active.preemptEn = e.shadow.preemptEn && e.active.verifyEn = e.shadow.verifyEn && was then s else startVerify p s
    let s := if !e.shadow.shutterEn then s.setFld (EGR_PORT_CTRL.PARK_EN p) 0 else s
    let s := if decide ((s.eport p).park = 2) && decide (tc56Opens s p < wakeTime p * 1000) then parkWake p s else s
    match f.cmd with
    | some c => complete c 0x0502 stOk (toLe 4 (nsOf f.f) ++ toLe 6 (secOf f.f) ++ toLe 2 gen ++ toLe 2 entry ++ zeros 2) s
    | none => s

/-- Is the flip of a port due: has the domain reached F (R280)? -/
def flipDue (s : State) (p : Nat) : Bool :=
  match (s.eport p).flip with
  | some f => decide (f.f ≤ s.scale f.dom)
  | none => false

/-! Reading (R285). -/

/-- The bytes of one entry in its staging layout. -/
def shBytes (x : ESet) (p item i : Nat) : Bytes :=
  match item with
  | 0 => toLe 4 x.cycle ++ toLe 4 (nsOf x.base) ++ toLe 6 (secOf x.base) ++ [byte x.dom, byte (b2n x.shutterEn)] ++ toLe 2 x.listLen ++
         [byte (x.addFrag + 4 * b2n x.preemptEn + 8 * b2n x.verifyEn), byte x.preemptable] ++ zeros 12
  | 1 =>
    let k := eclass x p i
    [byte k.mode, 0, 0, 0] ++ toLe 4 k.rate ++ toLe 4 k.burst ++ zeros 4
  | _ => toLe 8 (elist x i)

/-- The live shaper state of a class (R285): credit in bits or tokens in bytes. -/
def shaperBytes (s : State) (p c : Nat) (waiting : Bool) : Bytes :=
  let v := shaperAt s p c waiting s.lt
  let unit : Int := if creditMode (eclass (s.eport p).active p c) c then 1000000 else 8000000
  toLe 8 (ofSigned 64 (v / unit)) ++ zeros 8

/-- `SHUTTER_READ` (R285, R304) once it starts. -/
def shutterRead (waiting : State → Nat → Nat → Bool) (c : CmdCtx) (s : State) : State :=
  let item := shItem c
  let p := shPort c
  let n := if item = 3 then 8 else shLimit item
  let most := if item = 3 then 8 else shMax item
  if 3 < item || 75 < p || !plenIs c 16 || 2 ≤ byteAt c.par 6 || !parZero c 7 16 || n < shFirst c + shCount c || most < shCount c then
    complete c 0x0503 stParam [] s
  else
    let x := if byteAt c.par 6 = 1 then (s.eport p).shadow else (s.eport p).active
    let is := (List.range (shCount c)).map (· + shFirst c)
    complete c 0x0503 stOk (is.flatMap (fun i => if item = 3 then shaperBytes s p i (waiting s p i) else shBytes x p item i)) s

/-- Start a group 0x05 command, or let it wait while `FLIP_PENDING` of its port is 1 (R283); a flip does not wait (R281). (DEDUCED, log entry 20) -/
def shutterStart (re : Recheck) (waiting : State → Nat → Nat → Bool) (opcode : Nat) (c : CmdCtx) (s : State) : State :=
  if opcode ≠ 0x0502 && flipPending (s.eport (shPort c)) then { s with egr := { s.egr with waiting := s.egr.waiting ++ [(opcode, c)] } }
  else if opcode = 0x0501 then shutterStage c s
  else if opcode = 0x0502 then shutterFlip re c s
  else shutterRead waiting c s

/-- The copy into the shadow set ends (R283 step 4), and the commands that waited for the port start. -/
def shutterCopyDone (re : Recheck) (waiting : State → Nat → Nat → Bool) (p : Nat) (s : State) : State :=
  if (s.eport p).copying then
    let s := s.modEport p (fun e => { e with shadow := e.active, copying := false })
    let w := s.egr.waiting
    w.foldl (fun s x => shutterStart re waiting x.1 x.2 s) { s with egr := { s.egr with waiting := [] } }
  else s

/-! Histograms (R302). -/

/-- The bin of a value for a base B. -/
def histBin (b v : Nat) : Nat := if v < 2 ^ b then 0 else min 15 (Nat.log2 v - b + 1)

/-- Add a sample to a bin; 32 bits, saturating. -/
def addBin (m : Keyed Nat) (k : Nat) : Keyed Nat := kmod m k 0 (fun v => min (2 ^ 32 - 1) (v + 1))

/-- Sample one queue of depth d bytes and head age a ns. -/
def sampleQueue (s : State) (m : Keyed Nat) (k d a : Nat) : Keyed Nat :=
  addBin (addBin m (k * 32 + histBin (s.fld EGR_HIST_CFG.DEPTH_LOG2 % 32) d)) (k * 32 + 16 + histBin (s.fld EGR_HIST_CFG.AGE_LOG2 % 32) a)

/-- HISTOGRAM_SAMPLE over all 608 queues; `depth` and `age` of a queue by port × 8 + class. -/
def histogramSample (depth age : State → Nat → Nat) (s : State) : State :=
  if s.lt < s.egr.histDue then s
  else
    let b := (List.range 608).foldl (fun m k => sampleQueue s m k (depth s k) (age s k)) s.egr.bins
    { s with egr := { s.egr with bins := b, histDue := s.egr.histDue + max 1 (s.fld EGR_HIST_CFG.SAMPLE) * 1000 } }

/-- A write to `EGR_HIST_SEL` copies one queue's bins into the snapshot, and clears them where `CLEAR` is set. -/
def histSnapshot (v : Nat) (s : State) : State :=
  let p := bits v 14 8
  let k := p * 8 + bits v 2 0
  let s := ((s.setFld EGR_HIST_SEL.CLEAR (bits v 31 31)).setFld EGR_HIST_SEL.PORT p).setFld EGR_HIST_SEL.TC (bits v 2 0)
  let val (i : Nat) : Nat := if p ≤ 75 then kgetD s.egr.bins (k * 32 + i) 0 else 0
  let s := (List.range 16).foldl (fun t i => (t.setReg (EGR_HIST_DEPTH i) (val i)).setReg (EGR_HIST_AGE i) (val (16 + i))) s
  if bit v 31 then { s with egr := { s.egr with bins := s.egr.bins.filter (fun e => e.1 / 32 ≠ k) } } else s

/-- EGR_HIST_SNAPSHOT (R302): the value written to `EGR_HIST_SEL`. -/
def execEgrHistSnapshot (src : Src) (value : Nat) (s : State) : Res :=
  .next (busRow src (histSnapshot value) s)

/-! Resets (R303). -/

/-- Tokens, credit, pauses, energy and lanes of a port after a warm reset. -/
def eportWarm (e : EPort) : EPort :=
  { e with flip := none, copying := false, shadow := if e.copying then e.active else e.shadow, shapers := [], sending := none,
           leaving := [], suspended := none, paused := [], pausedAt := [], stuck := [], ignore := [], pfcOut := 0, pfcAt := [], verify := 0, park := 0,
           parkAt := 0, beFirst := none, readyAt := 0, window := 0, spent := 0 }

/-- Egress after a warm reset, or in S3 and S4 (R303): lists and holds stand, the energy level is full, tokens and credit are 0; the bins are 0 unless
they are kept (S3). -/
def egrWarm (keepBins : Bool) (s : State) : State :=
  { s with egr := { s.egr with ports := s.egr.ports.map (fun e => (e.1, eportWarm e.2)), waiting := [], zeroAt := s.lt,
                               energy := (s.fld EGR_ENERGY_CFG.BURST : Int) * 1000000, energyAt := s.lt, emptySince := none,
                               emptyTold := false, emptyLast := none, clockQuads := [],
                               bins := if keepBins then s.egr.bins else [] } }

/-- Tokens and credit of a class at an egress function reset (R303, R271). (DEDUCED, log entry 85) -/
def resetShaper (s : State) (p : Nat) (m : Keyed Shaper) (c : Nat) : Keyed Shaper :=
  let k := eclass (s.eport p).active p c
  kput m c { lvl := if !creditMode k c && bit (s.reg (EGR_TB_CTRL p)) c then (k.burst : Int) * 8000000 else 0, at_ := s.lt }

/-- The snapshot of the histograms back at its default (R581). -/
def histUnsel (s : State) : State :=
  (List.range 16).foldl (fun t i => (t.setReg (EGR_HIST_DEPTH i) 0).setReg (EGR_HIST_AGE i) 0) (s.setReg EGR_HIST_SEL 0)

/-- The egress function reset of the named ports (R303): tokens and credit per R271; the energy level is full. -/
def egrFnReset (ports : List Nat) (s : State) : State :=
  let s := histUnsel s
  let s := ports.foldl (fun s p => s.modEport p (fun e => { e with shapers := (List.range 8).foldl (resetShaper s p) e.shapers })) s
  { s with egr := { s.egr with energy := (s.fld EGR_ENERGY_CFG.BURST : Int) * 1000000, energyAt := s.lt, emptySince := none,
                               emptyTold := false } }

end Sys2Proof.Machine
end

