-- ==== Sys2Proof/Machine/Buffers.lean ====
section
/-! DEFINITION. Packet memory (chapter 04), the counters and settlement of admitted frames (chapter 02), and the queues. -/

namespace Sys2Proof.Machine

/-! Streams. -/

/-- A stream that this device holds. -/
def State.stream (s : State) (h : Nat) : Option Stream := kget s.streams h

/-- Change a stream where it is held. -/
def State.modStream (s : State) (h : Nat) (f : Stream → Stream) : State := { s with streams := kmapAt s.streams h f }

/-- Change the contract counters of a stream. -/
def State.modCc (s : State) (h : Nat) (f : CcSet → CcSet) : State := s.modStream h (fun x => { x with cc := f x.cc })

/-- Fields of a contract (R307). -/
def Stream.tc (x : Stream) : Nat := byteAt x.contract 2
def Stream.protect (x : Stream) : Bool := bit (byteAt x.contract 3) 0
def Stream.demote (x : Stream) : Bool := bit (byteAt x.contract 3) 1
def Stream.demoteTc (x : Stream) : Nat := bits (byteAt x.contract 3) 4 2
def Stream.gateEn (x : Stream) : Bool := bit (byteAt x.contract 3) 5
def Stream.batched (x : Stream) : Bool := bit (byteAt x.contract 3) 6
def Stream.maxLen (x : Stream) : Nat := leAt x.contract 4 2
def Stream.frames (x : Stream) : Nat := leAt x.contract 6 2
def Stream.interval (x : Stream) : Nat := leAt x.contract 8 4
def Stream.reqBound (x : Stream) : Nat := leAt x.contract 12 4
def Stream.inPort (x : Stream) : Nat := byteAt x.contract 16
def Stream.idType (x : Stream) : Nat := byteAt x.contract 17
def Stream.nDest (x : Stream) : Nat := byteAt x.contract 18
def Stream.jitter (x : Stream) : Nat := leAt x.contract 20 4
def Stream.idKey (x : Stream) : Nat := leAt x.contract 24 8
def Stream.dest (x : Stream) (i : Nat) : Nat × Nat := (byteAt x.contract (32 + 2 * i), byteAt x.contract (33 + 2 * i))
def Stream.gateCycle (x : Stream) : Nat := leAt x.contract 40 4
def Stream.gateStart (x : Stream) : Nat := leAt x.contract 44 4
def Stream.gateLen (x : Stream) : Nat := leAt x.contract 48 4
def Stream.gateDom (x : Stream) : Nat := byteAt x.contract 52

/-- The egress ports of a stream at this device, as a mask. -/
def Stream.outMask (x : Stream) : Nat := listMask (x.hops.map (·.outPort) ++ x.dests ++ (if x.ingress then x.paths.map (·.first) else []))

/-- The records of the paths that carry a stream from here: without those whose re-run was refused, as long as another is left (R316). -/
def Stream.livePaths (x : Stream) : List PathRec :=
  let l := ((x.paths.zipIdx).filter (fun e => !x.dead.contains e.2)).map (·.1)
  if l.isEmpty then x.paths else l

/-- Is path A, is path B live at the ingress device (R316)? -/
def Stream.upA (x : Stream) : Bool := !x.dead.contains 0
def Stream.upB (x : Stream) : Bool := decide (x.paths.length = 2) && !x.dead.contains 1

/-- The first-hop ports of a stream that enters here, as a mask (R343). -/
def Stream.firstMask (x : Stream) : Nat := if x.ingress then listMask (x.livePaths.map (·.first)) else 0

/-! Ports that are up (R649, R360, R361). -/

/-- Are the unit's outputs fenced: its own line is low, whatever pulls it, after an F3 fault, or by `HOST_FAILSAFE`, or is the
device held in power-on reset (R360, R362, R579)? -/
def fenced (s : State) : Bool := s.flag PAIR_STATUS.SELF_FENCED || s.flt.f3 || s.flag HOST_FAILSAFE.FENCE || s.rst.porLow

/-- Is the transceiver of an external port in normal (R523), with no change of state running? -/
def inNormal (s : State) (p : Nat) : Bool := s.fld (WAKE_PORT_STATUS.STATE p) = 0 && !khas s.wake.since p

/-- Has an Ethernet port a link? A 10BASE-T1S segment trains none: it is there whenever its PHY is on (R523, R543). (DEDUCED, log entry 101) -/
def hasLink (s : State) (p : Nat) : Bool := khas s.links p || (decide (32 ≤ p) && decide (p ≤ 39))

/-- Is a port up (R649)? SV always is. Bus ports wait for `BUS_FENCE` after a takeover (R368), after a handover T1 and T1S ports do too
(R370). (DEDUCED, log entry 84) -/
def portUp (s : State) (p : Nat) : Bool :=
  if p = 75 then khas s.links p && decide (s.pairMode ≠ 1) && !fenced s
  else if p ≤ 39 then hasLink s p && inNormal s p && !fenced s && !(decide (16 ≤ p) && s.pair.busWait && s.pair.handover)
  else if p ≤ 63 then
    s.fld (LEG_CAN_MODE.MODE (p - 40)) = 1 && decide (s.fld (LEG_CAN_STATUS.STATE (p - 40)) < 2) && inNormal s p && !fenced s && !s.pair.busWait
  else if p ≤ 71 then inNormal s p && !fenced s && !s.pair.busWait
  else if p ≤ 73 then (s.host (if p = 72 then 0 else 1)).linkUp
  else true

/-- Is a port down for a stream: the rate of its link is not the one at which the bound engine last reserved the stream on it (R604)?
(DEDUCED, log entry 101) -/
def keptOff (s : State) (h p : Nat) : Bool :=
  isEthPort p && (match s.stream h with
    | some x => x.reserved && x.hops.any (fun g => decide (g.outPort = p) && decide (g.rate ≠ s.lineRate p))
    | none => false)

/-! Destinations that are lost (R58). -/

/-- `EV_ADM_DEST_LOST`: the handle of the stream, the device and the port of the destination (R58). -/
def destLost (h : Nat) (d : Nat × Nat) (s : State) : State :=
  raise 0x0602 0 (evPay [(16, 2, h), (18, 1, d.1), (19, 1, d.2)]) s

/-- The destinations of the Committed streams that enter here: the handle, the stream, the device and the port. -/
def committedDests (s : State) : List (Nat × Stream × Nat × Nat) :=
  (s.streams.filter (fun e => e.2.ingress && e.2.committed)).flatMap (fun e => (List.range e.2.nDest).map (fun i => (e.1, e.2, e.2.dest i)))

/-- A port of this device stops being up by a fault: the streams that enter here and have it as a destination tell it (R58). Routing is
firmware's work in S0 (R463). (DEDUCED, log entry 118) -/
def portDestsLost (p : Nat) (s : State) : State :=
  if s.flag GLB_STATUS.SUP_RUN && s.flag FAB_STATUS.ADDR_VALID && decide (s.pwr.state = 0) then
    ((committedDests s).filter (fun e => decide (e.2.2 = (s.fld FAB_STATUS.ADDR, p)))).foldl (fun s e => destLost e.1 e.2.2 s) s
  else s

/-- Ports that were up are so no longer. -/
def portsDestsLost (l : List Nat) (s : State) : State := l.foldl (fun s p => portDestsLost p s) s

/-- The external ports that are up. -/
def portsUp (s : State) : List Nat := (List.range 72).filter (portUp s)

/-! TX completions (R98, R99). -/

/-- The completions of a TXQ that have come to their turn leave for the EVQ, in ring order. Their `CODE` is 0. (DESIGN CHOICE, log entry 128) -/
def txFlush (h : HostId) (qs : Nat) : Nat → State → State
  | 0, s => s
  | n + 1, s =>
    let x := s.host h
    match x.txDone.find? (fun d => d.qs = qs) with
    | some d =>
      if d.ready then
        let e : Entry := { kind := .tx, qs := qs, code := 0, tag := 0, cls := 0, status := d.status, ns := d.ns, secLo := d.secLo,
                           payload := toLe 4 d.cookie ++ toLe 4 d.idxAfter ++ zeros 4 }
        txFlush h qs n (s.modHost h (fun x => { x with
          txDone := removeFirst (fun y => y.id = d.id) x.txDone,
          waiting := x.waiting ++ [e] }))
      else s
    | none => s

/-- A descriptor is done with a status, at `adj` ns from the present moment; one that is already done stays as it is. -/
def txReady (t : Option (HostId × Nat)) (status : Nat) (adj : Int) (s : State) : State :=
  match t with
  | none => s
  | some (h, id) =>
    match (s.host h).txDone.find? (fun d => d.id = id) with
    | some d =>
      if d.ready then s
      else
        let now := ((s.scale (s.hostDom h) : Int) + adj).toNat
        let d' := { d with ready := true, status := status, ns := nsOf now, secLo := secOf now % 2 ^ 32 }
        let s := s.modHost h (fun x => { x with txDone := x.txDone.map (fun y => if y.id = id then d' else y) })
        txFlush h d.qs (s.host h).txDone.length s
    | none => s

/-- The frame of a descriptor is dropped, with no copy departed: its completion carries a status of the device's (R98). (DESIGN CHOICE, log entry
133) -/
def txDropped (t : Option (HostId × Nat)) (s : State) : State :=
  match t with
  | none => s
  | some (_, id) => txReady t (Config.dropStatus id % 65536) 0 s

/-! Pools (R130, R131, R143). -/

/-- Buffers of a pool and the first index of a pool, under the active carving. -/
def poolBufs (s : State) (k : Nat) : Nat := s.fld (BUF_POOL_ACT.PLOTS k) * nth poolPerPlot k
def poolFirst (s : State) (k : Nat) : Nat := ((List.range k).map (poolBufs s)).sum

/-- The bank of packet memory in which a byte address lies: lines of 128 bytes go round 64 banks (R128). -/
def memBank (addr : Nat) : Nat := addr / 128 % 64

/-- The plot of buffer `j` of a pool, and its offset there (R131). -/
def bufPlot (s : State) (k j : Nat) : Nat := s.fld (BUF_POOL_ACT.PLOT_BASE k) + j / nth poolPerPlot k
def bufOffset (k j : Nat) : Nat := j % nth poolPerPlot k * nth poolSize k

/-- The byte address of buffer `j` of a pool (R131): plots of 64 KiB. -/
def bufAddr (s : State) (k j : Nat) : Nat := bufPlot s k j * 65536 + bufOffset k j

/-- The buffer of a pool whose bytes hold a byte address (R131, R153). -/
def poolHolds (s : State) (addr k : Nat) : Option Nat :=
  let base := s.fld (BUF_POOL_ACT.PLOT_BASE k)
  let slot := addr % 65536 / nth poolSize k
  if base ≤ addr / 65536 && addr / 65536 < base + s.fld (BUF_POOL_ACT.PLOTS k) && slot < nth poolPerPlot k then
    some (poolFirst s k + (addr / 65536 - base) * nth poolPerPlot k + slot)
  else none

/-- The index of an error in packet memory, by the byte address of the word: the buffer that holds it, or `0xFFFF` in a plot tail or an unused
plot (R153). -/
def memIndex (s : State) (addr : Nat) : Nat := ((List.range 6).findSome? (poolHolds s addr)).getD 0xFFFF

/-- All buffers of the active carving. -/
def totalBufs (s : State) : Nat := poolFirst s 6

/-- The pool of a buffer index; 6 for an index beyond the carving. -/
def poolOf (s : State) (b : Nat) : Nat :=
  ((List.range 6).find? (fun k => decide (poolFirst s k ≤ b) && decide (b < poolFirst s k + poolBufs s k))).getD 6

/-- Is a buffer allocated: does it have an owner? -/
def allocated (b : Buf) : Bool := decide (b.owner ≠ 0)

/-- The allocated buffers, by index. -/
def inUse (s : State) : List (Nat × Buf) := s.mem.bufs.filter (fun e => allocated e.2)

/-- The allocated buffers of a pool. -/
def poolUse (s : State) (k : Nat) : List (Nat × Buf) :=
  (inUse s).filter (fun e => decide (poolFirst s k ≤ e.1) && decide (e.1 < poolFirst s k + poolBufs s k))

/-- `FREE`, `RSV_HELD`. -/
def poolFree (s : State) (k : Nat) : Nat := poolBufs s k - (poolUse s k).length
def rsvHeld (s : State) (k : Nat) : Nat := ((poolUse s k).filter (fun e => e.2.ofStream)).length

/-- Smallest pool whose buffers hold n bytes; 6 when none does (R136). -/
def fitPool (n : Nat) : Nat := ((List.range 6).find? (fun k => decide (n ≤ nth poolSize k))).getD 6

/-! Batch channels (R397, R402). -/

/-- An entry of a gateway set. -/
def gwEntry (g : GwSet) (item i : Nat) : Bytes := kgetD g (item * 4096 + i) []

/-- Fields of a channel entry. -/
def chValid (e : Bytes) : Bool := bit (byteAt e 0) 7
def chTc (e : Bytes) : Nat := byteAt e 0 % 8
def chPort (e : Bytes) : Nat := byteAt e 1
def chMaxPdus (e : Bytes) : Nat := byteAt e 2
def chMaxBytes (e : Bytes) : Nat := leAt e 4 2
def chTimeout (e : Bytes) : Nat := leAt e 6 2

/-- The valid channel of a key (`PORT`, `TC`) in a set. -/
def chanIn (g : GwSet) (p c : Nat) : Option Nat :=
  (List.range 64).find? (fun i => chValid (gwEntry g 1 i) && decide (chPort (gwEntry g 1 i) = p) && decide (chTc (gwEntry g 1 i) = c))

/-- The reserved streams that a channel serves: they are batched here and leave by its port in its class. -/
def chanStreams (s : State) (e : Bytes) : List (Nat × Stream) :=
  s.reserved.filter (fun x => x.2.ingress && x.2.batched && decide (x.2.tc = chTc e) && bit x.2.outMask (chPort e))

/-- The quota of a channel in buffers: the sum of the buffer counts of its streams. -/
def chanQuota (s : State) (e : Bytes) : Nat := ((chanStreams s e).map (fun x => x.2.quotaBufs)).sum

/-- The channels with a quota, as (channel, pool, buffers). -/
def chanQuotas (s : State) (g : GwSet) : List (Nat × Nat × Nat) :=
  (List.range 64).filterMap (fun i =>
    let e := gwEntry g 1 i
    let q := chanQuota s e
    if chValid e && decide (q ≠ 0) then some (i, fitPool (chMaxBytes e + 16), q) else none)

/-- `RSV_TOTAL` of a pool (R143, R402). -/
def rsvTotal (s : State) (k : Nat) : Nat :=
  ((s.reserved.filter (fun e => e.2.pool = k)).map (fun e => e.2.quotaBufs)).sum +
  (((chanQuotas s s.gw.active).filter (fun q => q.2.1 = k)).map (fun q => q.2.2)).sum

/-- U, F, the thresholds and the hysteresis of a pool (R143, R145). -/
def poolU (s : State) (k : Nat) : Nat := poolBufs s k - rsvTotal s k
def poolF (s : State) (k : Nat) : Nat := poolFree s k - (rsvTotal s k - rsvHeld s k)
def sillPm (s : State) (k n : Nat) : Nat :=
  if n = 1 then s.fld (BUF_POOL_SILL.SILL1 k) else if n = 2 then s.fld (BUF_POOL_SILL.SILL2 k) else s.fld (BUF_POOL_SILL.SILL3 k)
def poolT (s : State) (k n : Nat) : Nat := poolU s k * sillPm s k n / 1000
def poolH (s : State) (k : Nat) : Nat := poolU s k / 64 + 1

/-! Link cells (R135, R139). -/

/-- The cells in all queues. -/
def allCells (s : State) : List Cell := s.mem.queues.flatMap (fun e => e.2)

/-- The owners of a buffer whose copies pass recovery: the stream's local destination ports (a mirror copy does not, R209). -/
def recOwners (s : State) (x : Buf) : List Nat :=
  match s.stream x.handle with
  | some y => (maskList x.owner 76).filter (fun p => y.dests.contains p)
  | none => maskList x.owner 76

/-- The copies that hold their cells outside a queue, as (buffer, cells): those that wait for recovery, are held or pended there,
or wait for the batch builder. -/
def parked (s : State) : List (Nat × Nat) :=
  let owners (b : Nat) : Nat := match kget s.mem.bufs b with
    | some x => (recOwners s x).length
    | none => 0
  let rec_ := s.mem.recWait.map (·.buf) ++ s.streams.flatMap (fun e => match e.2.recov with
    | some r => (r.held ++ r.pended).map (·.buf)
    | none => [])
  rec_.map (fun b => (b, owners b)) ++ s.mem.batchWait.map (fun w => (w.buf, 1))

/-- Cells in use by copies of a stream drawn from its quota. -/
def linksOf (s : State) (h : Nat) : Nat :=
  let mine (b : Nat) : Bool := match kget s.mem.bufs b with
    | some x => x.ofStream && decide (x.handle = h)
    | none => false
  ((allCells s).filter (fun c => c.ofStream && mine c.buf)).length + (((parked s).filter (fun e => mine e.1)).map (·.2)).sum

/-- Cells in use. -/
def linksUsed (s : State) : Nat := (allCells s).length + ((parked s).map (·.2)).sum

/-- `LINK_FREE`, and the free cells that streams have reserved and do not use (`LINK_RSV`). -/
def linkFree (s : State) : Nat := 65535 - linksUsed s
def linkRsv (s : State) : Nat := (s.reserved.map (fun e => e.2.quotaLinks - linksOf s e.1)).sum

/-- Free unreserved cells. -/
def linkUnres (s : State) : Nat := linkFree s - linkRsv s

/-! Sills (R144 to R146). -/

/-- The level of a pool. -/
def sillLevel (s : State) (k : Nat) : Nat := bits (s.reg BUF_SILL_STATE) (2 * k + 1) (2 * k)

/-- Set the level of a pool and raise its event. -/
def setSill (k level shown dir : Nat) (s : State) : State :=
  let f := poolF s k
  let s := s.setReg BUF_SILL_STATE (setBits (s.reg BUF_SILL_STATE) (2 * k + 1) (2 * k) level)
  if s.flag BUF_CTRL.SILL_EV then raise 0x0102 0 (evPay [(16, 1, k), (17, 1, shown), (18, 1, dir), (20, 2, f)]) s else s

/-- Enter the levels whose threshold F has fallen below, lowest first. -/
def sillEnter (k : Nat) : Nat → State → State
  | 0, s => s
  | n + 1, s =>
    let l := sillLevel s k
    if l < 3 && poolF s k < poolT s k (l + 1) then sillEnter k n (setSill k (l + 1) (l + 1) 0 s) else s

/-- Leave the levels whose threshold plus H F has reached, highest first. -/
def sillLeave (k : Nat) : Nat → State → State
  | 0, s => s
  | n + 1, s =>
    let l := sillLevel s k
    if 0 < l && poolT s k l + poolH s k ≤ poolF s k then sillLeave k n (setSill k (l - 1) l 1 s) else s

/-- Evaluate the level of a pool. -/
def sillUpdate (k : Nat) (s : State) : State := sillLeave k 3 (sillEnter k 3 s)

/-- Is any pool at Sill 2 or higher? -/
def anySill2 (s : State) : Bool := (List.range 6).any (fun k => decide (2 ≤ sillLevel s k))

/-! Back-pressure (R293). -/

/-- The bytes of buffers still held for frames that arrived on a port in a class. -/
def heldBytes (s : State) (p c : Nat) : Nat :=
  (((inUse s).filter (fun e => decide (e.2.pkt.inPort = p) && decide (e.2.tc = c) && e.2.parts.isEmpty)).map (fun e => e.2.len)).sum

/-- Does a port send PFC (R263, R291, R293)? -/
def pfcRuns (s : State) (p : Nat) : Bool := pfcPort p && largeFabric s && s.flag (EGR_PORT_CTRL.PFC_EN p) && portUp s p

/-- Pause and lift the classes of one port. What still stands where the port no longer sends PFC is lifted. (DESIGN CHOICE, log entry 141) -/
def pfcPortUpdate (p : Nat) (s : State) : State :=
  let out := (s.eport p).pfcOut
  if pfcRuns s p then
    let a := anySill2 s
    let up := listMask ((List.range 5).filter (fun c => !bit out c && (a || decide (s.fld (EGR_PFC_CFG.XOFF p) * 256 < heldBytes s p c))))
    let down := listMask ((List.range 5).filter (fun c => bit out c && !a && decide (heldBytes s p c < s.fld (EGR_PFC_CFG.XON p) * 256)))
    sendPfc p down false (sendPfc p up true s)
  else if portUp s p then sendPfc p out false s
  else if out = 0 then s
  else s.modEport p (fun e => { e with pfcOut := 0, pfcAt := [] })

/-- Pause and lift after a change of buffers, of a sill or of the size mode. -/
def pfcUpdate (s : State) : State := [0, 1, 2, 3, 4, 5, 6, 7, 75].foldl (fun s p => pfcPortUpdate p s) s

/-- All sills anew, with what follows for PFC. -/
def sillAll (s : State) : State := pfcUpdate ((List.range 6).foldl (fun s k => sillUpdate k s) s)

/-- PFC_REFRESH (R293): a standing pause is sent again every 32 768 quanta. -/
def execPfcRefresh (p : Port) (s : State) : Res :=
  let n := p.val
  let e := s.eport n
  let due := (List.range 5).filter (fun c => bit e.pfcOut c && decide (kgetD e.pfcAt c 0 + txTime (s.lineRate n) (32768 * 64) ≤ s.lt))
  .next (if pfcRuns s n then sendPfc n (listMask due) true s else s)

/-- What follows a change of the free counts of a pool. -/
def poolChanged (k : Nat) (s : State) : State := pfcUpdate (sillUpdate k s)

/-! Allocation (R136 to R142). -/

/-- The lowest free index of a pool (R141); none when the pool is full. -/
def lowestFree (s : State) (k : Nat) : Option Nat :=
  let n := kfirstFree (poolUse s k) (poolFirst s k)
  if n < poolFirst s k + poolBufs s k then some n else none

/-- May an unreserved frame of class c take a buffer from pool k (R138)? -/
def classLimitOk (s : State) (k c : Nat) : Bool :=
  decide (1 ≤ poolF s k) && (c = 7 || decide (poolT s k 3 ≤ poolF s k))

/-- May an unreserved frame of class c take m cells (R139)? -/
def linksOk (s : State) (m c : Nat) : Bool :=
  if c = 7 then decide (m ≤ linkUnres s) else decide (m + s.fld BUF_LINK_CFG.LINK_FLOOR ≤ linkUnres s)

/-- A refusal: counted at the pool asked for first and at the ingress port (R140). -/
def countRefuse (k inPort : Nat) (s : State) : State :=
  (s.bump (BUF_POOL_REFUSE (min k 5))).bump (PORT_RX_BUF_REFUSE inPort)

/-- Take a buffer for an unreserved frame with m owners and n bytes in class c, stepping up once (R142). -/
def allocUnreserved (n m c inPort : Nat) (s : State) : Option Nat × State :=
  let first := fitPool n
  let try_ (k : Nat) : Option Nat := if k < 6 && classLimitOk s k c && linksOk s m c then lowestFree s k else none
  match try_ first with
  | some b => (some b, s)
  | none =>
    if bit (s.fld BUF_CTRL.STEPUP) c && decide (first < 5) then
      match try_ (first + 1) with
      | some b => (some b, s.bump (BUF_POOL_STEPUP first))
      | none => (none, countRefuse first inPort s)
    else (none, countRefuse first inPort s)

/-- The buffers that a stream's quota has in use. -/
def quotaUsed (s : State) (h : Nat) : Nat := ((inUse s).filter (fun e => e.2.ofStream && decide (e.2.handle = h))).length

/-- Take a buffer and m cells from a stream's quota (R137). -/
def allocReserved (h m : Nat) (s : State) : Option Nat :=
  match s.stream h with
  | some x =>
    if quotaUsed s h < x.quotaBufs && linksOf s h + m ≤ x.quotaLinks then lowestFree s x.pool else none
  | none => none

/-- One frame more in `CC_REFUSED` (R71). -/
def oneRefused (c : CcSet) : CcSet := { c with refused := c.refused + 1 }

/-- The port that byte 18 of `EV_ADM_QUOTA_DISCARD` names (R121): the lowest one in a packet-number hold whose queues hold frames of the stream. -/
def holdPort (s : State) (h : Nat) : Nat :=
  let mine (c : Cell) : Bool := match s.mem.bufs.find? (fun e => e.1 = c.buf) with
    | some (_, b) => c.void.isNone && (decide (b.ofStream ∧ b.handle = h) || b.parts.any (fun q => q.seq.any (fun t => t.1 = h)))
    | none => false
  ((List.range 76).find? (fun p => bit s.pnHold p && (s.mem.queues.any (fun e => decide (e.1 / 8 = p) && e.2.any mine)))).getD 0xFF

/-- Raise `EV_ADM_QUOTA_DISCARD` for a count of discards. -/
def quotaEvent (h n : Nat) (s : State) : State :=
  raise 0x0603 0 (evPay [(16, 2, h), (18, 1, holdPort s h), (20, 4, n)])
    (s.modStream h (fun x => { x with quotaUntil := some (s.lt + 1000000), quotaCount := 0 }))

/-- A copy is discarded at stage 7 because the stream's quota ran out (R63, R121, R137). -/
def quotaDiscard (h : Nat) (s : State) : State :=
  match s.stream h with
  | none => s
  | some x =>
    let s := if x.ingress then s.modCc h oneRefused
      else s.modCc h (fun c => { c with faultDiscard := c.faultDiscard + 1 })
    let free := match x.quotaUntil with
      | some t => decide (t ≤ s.lt)
      | none => true
    if free && x.quotaCount = 0 then quotaEvent h 1 s else s.modStream h (fun x => { x with quotaCount := x.quotaCount + 1 })

/-- QUOTA_DISCARD_INTERVAL_END (R121): the 1 ms after the last event of a stream ends; discards counted meanwhile are reported. -/
def execQuotaDiscardIntervalEnd (h : Nat) (s : State) : Res :=
  match s.stream h with
  | none => .next s
  | some x =>
    match x.quotaUntil with
    | none => .next s
    | some t =>
      if s.lt < t then .next s
      else if x.quotaCount = 0 then .next (s.modStream h (fun x => { x with quotaUntil := none }))
      else .next (quotaEvent h x.quotaCount s)

/-- Store a buffer at an index. -/
def putBuf (b : Nat) (x : Buf) (s : State) : State := { s with mem := { s.mem with bufs := kput s.mem.bufs b x } }

/-- The buffer at an index. -/
def State.buf (s : State) (b : Nat) : Option Buf := kget s.mem.bufs b

/-! Settlement of numbers drawn at the ingress device (R44 to R46, R346, R347). -/

/-- The ports that count as departed (R44, R346): a copy discarded from a first-hop queue counts once the other path has departed. -/
def effDeparted (n : HeldNum) : Nat :=
  let firsts := n.firsts
  let gone := firsts &&& (n.set - (n.left &&& n.set))
  if n.departed &&& firsts ≠ 0 then n.departed ||| gone else n.departed

/-- Append at the head of a queue a void for a number of a stream (R347). (DEDUCED, log entry 23) -/
def sendVoid (h e n p : Nat) (s : State) : State :=
  match s.stream h with
  | none => s
  | some x =>
    let path := ((x.paths.map (·.first)).findIdx? (fun q => q = p)).getD 0
    let dst := match x.paths[path]? with
      | some r => (r.hops.getLast?).getD (0xFF, 0x7F)
      | none => (0xFF, 0x7F)
    let tag : DfpTag := { type := 0, void := true, seq := true, srcDev := s.fld FAB_STATUS.ADDR, dstDev := dst.1, srcPort := x.inPort,
                          dstPort := dst.2, tc := x.tc }
    let cell : Cell := { buf := 0xFFFF, tag := some tag, void := some (h, e, n), at_ := s.lt }
    let k := p * 8 + x.tc
    ({ s with mem := { s.mem with queues := kput s.mem.queues k (cell :: kgetD s.mem.queues k []) } }).bump PATH_VOID_SENT

/-- One port of a number's departure set has departed or discarded its copy: acceptance, refusal and void follow. -/
def settleNum (h e n p : Nat) (departed drain : Bool) (s : State) : State :=
  match s.stream h with
  | none => s
  | some x =>
    match x.pend.find? (fun y => y.epoch = e && y.number = n) with
    | none => s
    | some y =>
      if !bit y.left p then s
      else
        let up := !departed && bit y.firsts p && portUp s p && !keptOff s h p
        let y' := { y with left := clrBit y.left p, departed := if departed then orBit y.departed p else y.departed,
                           lastUp := if up then some p else y.lastUp }
        let acc := decide (y'.set = effDeparted y' &&& y'.set)
        let s := if acc && !y.accepted then s.modCc h (fun c => { c with accepted := c.accepted + 1 }) else s
        let y' := { y' with accepted := y.accepted || acc }
        if y'.left ≠ 0 then
          s.modStream h (fun x => { x with pend := x.pend.map (fun z => if z.epoch = e && z.number = n then y' else z) })
        else
          let s := s.modStream h (fun x => { x with pend := removeFirst (fun z => z.epoch = e && z.number = n) x.pend })
          let s := if y'.accepted then s else s.modCc h oneRefused
          match y'.departed, y'.lastUp, drain with
          | 0, some q, false => sendVoid h e n q s
          | _, _, _ => s

/-! Release (R148 to R152). -/

/-- What a buffer carries for acceptance and completions: its PDUs for a batch frame, else the one frame. -/
def Buf.carries (b : Buf) : List Part :=
  if b.parts.isEmpty then
    [{ seq := b.seq.map (fun q => (b.handle, q.1, q.2)), tx := b.pkt.tx, inPort := b.pkt.inPort, arrive := b.pkt.arrive }]
  else b.parts

/-- Free a buffer whose last owner has released it; a frame from a host none of whose copies departed has been dropped (R98).
(DEDUCED, log entry 29) -/
def freed (b : Nat) (x : Buf) (s : State) : State :=
  let k := poolOf s b
  let s := if x.departed = 0 then x.carries.foldl (fun s q => txDropped q.tx s) s else s
  poolChanged k s

/-- Release a buffer for a port (R152); `departed` says that its copy departed. -/
def release (b p : Nat) (departed : Bool) (s : State) : State :=
  match s.buf b with
  | some x =>
    if bit x.owner p then
      let x' := { x with owner := clrBit x.owner p, departed := if departed then orBit x.departed p else x.departed }
      if x'.owner = 0 then freed b x' (putBuf b { x' with pkt := { x'.pkt with bytes := [] }, parts := [], bad := false } s)
      else putBuf b x' s
    else raise 0x0101 1 (evPay [(16, 2, b), (18, 1, p)]) (s.bumpFld BUF_BAD_FREE_CNT.COUNT 1)
  | none => raise 0x0101 1 (evPay [(16, 2, b), (18, 1, p)]) (s.bumpFld BUF_BAD_FREE_CNT.COUNT 1)

/-- Is a cell's copy a mirror copy, which is no frame of a stream (R207)? -/
def isMirror (x : Cell) : Bool := decide (x.reason = 2)

/-- A copy of an admitted stream is lost at this device: `CC_FAULT_DISCARD`, and its number settles here. A mirror copy counts nowhere. -/
def faultDiscard (p : Nat) (mirror drain : Bool) (q : Part) (s : State) : State :=
  match q.seq with
  | some (h, e, n) =>
    if mirror then s else settleNum h e n p false drain (s.modCc h (fun c => { c with faultDiscard := c.faultDiscard + 1 }))
  | none => s

/-- A copy that has left its queue is discarded (R148, R346, R649): `EGR_DROP`, the stream's counter, the release. -/
def discardCopy (p : Nat) (cell : Cell) (drain : Bool) (s : State) : State :=
  let s := s.bump (EGR_DROP p)
  match cell.void, s.buf cell.buf with
  | none, some x => release cell.buf p false (x.carries.foldl (fun s q => faultDiscard p (isMirror cell) drain q s) s)
  | _, _ => s

/-! Queues (R156). -/

/-- A queue, head first. -/
def State.queue (s : State) (p c : Nat) : List Cell := kgetD s.mem.queues (p * 8 + c) []

/-- Replace a queue. -/
def State.setQueue (s : State) (p c : Nat) (q : List Cell) : State :=
  { s with mem := { s.mem with queues := kset s.mem.queues (p * 8 + c) (if q.isEmpty then none else some q) } }

/-- Unlink the head cell. -/
def State.unqueue (s : State) (p c : Nat) : State := s.setQueue p c ((s.queue p c).drop 1)

/-- The frame length of a cell's copy. -/
def cellLen (s : State) (x : Cell) : Nat :=
  match x.void with
  | some _ => 60
  | none => match s.buf x.buf with
    | some b => b.len
    | none => 0

/-- The LT of the ingress end point of a cell's frame; a void has none but its append. -/
def cellArrive (s : State) (x : Cell) : Nat :=
  match x.void, s.buf x.buf with
  | none, some b => b.pkt.arrive
  | _, _ => x.at_

/-- The bytes that wait in a queue, and the age of its head since its ingress end point (R302). -/
def queueBytes (s : State) (p c : Nat) : Nat := ((s.queue p c).map (cellLen s)).sum
def headAge (s : State) (p c : Nat) : Nat :=
  match s.queue p c with
  | x :: _ => s.lt - cellArrive s x
  | [] => 0

/-- Are all eight queues of a port empty? -/
def portEmpty (s : State) (p : Nat) : Bool := (List.range 8).all (fun c => (s.queue p c).isEmpty)

/-- Does a frame wait in a class? -/
def waits (s : State) (p c : Nat) : Bool := !(s.queue p c).isEmpty

/-- Discard the cells of a list. -/
def discardAll (p : Nat) (drain : Bool) (l : List Cell) (s : State) : State := l.foldl (fun s x => discardCopy p x drain s) s

/-- A queue that has become empty sets positive credit of its class to 0 (R268). -/
def emptied (p c : Nat) (s : State) : State :=
  let e := s.eport p
  let h := s.shaper e c
  if (s.queue p c).isEmpty && creditMode (eclass e.active p c) c && decide (0 < h.lvl) then
    s.modEport p (fun e => { e with shapers := kput e.shapers c { h with lvl := 0 } })
  else s

/-- Copies are taken out of a queue that are not sent: what is left of it. -/
def keepInQueue (p c : Nat) (q : List Cell) (s : State) : State := emptied p c ((settle p c (waits s p c) s).setQueue p c q)

/-- The head of a queue is taken out and not sent. -/
def dropHead (p c : Nat) (s : State) : State := keepInQueue p c ((s.queue p c).drop 1) s

/-- Discard every copy of one queue. -/
def flushQueue (p c : Nat) (drain : Bool) (s : State) : State := discardAll p drain (s.queue p c) (keepInQueue p c [] s)

/-- Discard every copy queued on a port (R649). -/
def flushPort (p : Nat) (s : State) : State := (List.range 8).foldl (fun s c => flushQueue p c false s) s

/-- The admitted streams whose copies a cell carries. -/
def cellStreams (s : State) (c : Cell) : List Nat :=
  match c.void with
  | some v => [v.1]
  | none => match s.buf c.buf with
    | some b => (if b.ofStream then [b.handle] else []) ++ b.parts.filterMap (fun q => q.seq.map (·.1))
    | none => []

/-- May a copy stand in a queue of a port: the port is up, and up for its streams (R604, R649)? -/
def copyUp (s : State) (p : Nat) (c : Cell) : Bool := portUp s p && !(cellStreams s c).any (fun h => keptOff s h p)

/-- The link cell that the next append takes: R135 leaves open which free one. (DESIGN CHOICE, log entry 136) -/
def freeLink (s : State) : Nat :=
  let used := (allCells s).map (fun c => c.link)
  ((List.range (used.length + 1)).find? (fun i => !used.contains i)).getD 0

/-- The word of a link cell in a queue: `NEXT`, `0xFFFF` at the tail, and `BD` (R135). -/
def linkIn (i : Nat) : List Cell → Option Nat
  | [] => none
  | x :: r => if x.link = i then some ((r.head?.elim 0xFFFF (fun y => y.link)) * 65536 + x.buf) else linkIn i r

/-- The word of a link cell; none for a free one. -/
def linkWord (s : State) (i : Nat) : Option Nat := s.mem.queues.findSome? (fun e => linkIn i e.2)

/-- Append a copy at the tail of a queue (R31); a port that is not up, for it at least, discards it at once (R604, R649). -/
def enqueue (p c : Nat) (x : Cell) (s : State) : State :=
  if copyUp s p x then
    let s := settle p c (waits s p c) s
    parkArrival p c (s.setQueue p c (s.queue p c ++ [{ x with at_ := s.lt, link := freeLink s }]))
  else discardCopy p x false s

/-- A copy of a stream for a dual-homed destination port of a hot pair (R348, R372). -/
def dualHomed (s : State) (p : Nat) (b : Buf) : Bool :=
  decide (s.pairMode = 2) && s.flag (PAIR_TWIN.VALID p) && b.pkt.tag.isSome && b.seq.isSome &&
  (match s.stream b.handle with
   | some y => y.dests.contains p
   | none => false)

/-- The bytes that the DFP tag and its R-TAG take in a stored frame (R126). -/
def tagBytes (x : Pkt) : Nat := afterTags x.tag x.bytes - 12

/-- Is the copy of a cell longer than its Ethernet egress port carries (R650)? The R-TAG of a dual-homed copy counts, the tags of a fabric copy do
not. -/
def oversize (s : State) (p : Nat) (x : Cell) : Bool :=
  match x.void, s.buf x.buf with
  | none, some b => isEthPort p && decide (s.fld (PORT_RX_CFG.MAX_LEN p) < b.len - tagBytes b.pkt + (if x.tag.isNone && dualHomed s p b then 6 else 0) + 4)
  | _, _ => false

/-- Discard the head copies of a queue that are too long for the port (R650). -/
def dropOversize (p c : Nat) : List Cell → State → State
  | [], s => s
  | x :: r, s => if oversize s p x then dropOversize p c r (discardCopy p x false (dropHead p c s)) else s

/-! Departure (R43, R51 to R53, R71). -/

/-- The hop bound reserved for a stream at an egress port: by the hop that leaves there, or that left there before a change of path (R359). -/
def Stream.hopBound (x : Stream) (p : Nat) : Nat :=
  let at_ (l : List Hop) : List Hop := l.filter (fun g => g.outPort = p)
  (if (at_ x.hops).isEmpty then at_ x.former else at_ x.hops).foldl (fun m g => max m g.bound) 0

/-- Add 1 to a counter of a destination port. -/
def kbump (m : Keyed Nat) (p : Nat) : Keyed Nat := kmod m p 0 (· + 1)

/-- A copy of a frame or PDU departs a port with its last bit at an LT: residence, delivery, settlement of its number, and the TX
completion of its host. A mirror copy is no frame of a stream. -/
def departPart (p last : Nat) (mirror : Bool) (q : Part) (s : State) : State :=
  let lat : Nat := if p < 72 || p = 75 then s.fld (TIME_PORT_CFG.TX_LAT p) else 0
  let s := txReady q.tx stOk ((lat : Int) - ((s.lt : Int) - last)) s
  match q.seq with
  | none => s
  | some (h, e, n) =>
    match s.stream h with
    | none => s
    | some x =>
      if mirror then s
      else
        let r := last - q.arrive
        let exceeds := decide (x.hopBound p < r)
        let s := s.modCc h (fun c => { c with
          maxResidence := max c.maxResidence r, overrun := c.overrun + b2n exceeds,
          delivered := if x.dests.contains p then kbump c.delivered p else c.delivered })
        let s := if exceeds then raise 0x0601 0 (evPay [(16, 2, h), (18, 1, e % 4), (19, 1, p), (20, 2, n % 16384),
          (24, 4, min (2 ^ 32 - 1) r)]) s else s
        settleNum h e n p true false s

/-- A copy departs: all that its buffer carries, then the release. A void counts nowhere and holds no buffer. -/
def departCopy (p last : Nat) (cell : Cell) (s : State) : State :=
  match cell.void, s.buf cell.buf with
  | none, some x => release cell.buf p true (x.carries.foldl (fun s q => departPart p last (isMirror cell) q s) s)
  | _, _ => s

/-! Staging (R23, R24). -/

/-- The staging partition of a port in bytes. -/
def stagingSize (p : Nat) : Nat :=
  if p ≤ 7 || p = 75 then 40960
  else if p ≤ 15 then 24576
  else if p ≤ 31 then 12288
  else if p ≤ 63 then 4096
  else if p ≤ 71 then 2048
  else 40960

/-- The frames of a port in staging, oldest first. -/
def State.stagingOf (s : State) (p : Nat) : List Pkt := kgetD s.mem.staging p []

/-- Is there room for n bytes in a port's partition? (DEDUCED, log entry 87, DEDUCED, log entry 110) -/
def stagingRoom (s : State) (p n : Nat) : Bool := decide (((s.stagingOf p).map Pkt.len).sum + n ≤ stagingSize p)

/-- Put a frame behind the others in its port's partition. -/
def stage (x : Pkt) (s : State) : State :=
  { s with mem := { s.mem with staging := kput s.mem.staging x.inPort (s.stagingOf x.inPort ++ [x]) } }

/-- A frame counts in `PORT_RX_OK`; it confirms the wake holds of its port's clusters (R123, R531). -/
def rxOk (p : Nat) (s : State) : State :=
  let mine := s.wake.holds.filter (fun h => bit (s.reg (WAKE_CLUSTER.MEMBERS h.1 (p / 32)).addr) (p % 32))
  { s.bump (PORT_RX_OK p) with wake := { s.wake with confirmed := s.wake.confirmed ||| listMask (mine.map (·.1)) } }

/-- A frame that passed its port's checks is counted and staged, or dropped for want of room (R24, R123). -/
def accept (x : Pkt) (s : State) : State :=
  if stagingRoom s x.inPort x.len then stage x (rxOk x.inPort s) else s.bump (PORT_RX_DROP x.inPort)

/-- A frame of SV is staged, or waits while the slices are stopped (R127, R159). -/
def svAccept (x : Pkt) (s : State) : State :=
  if s.mem.stopped then { s with mem := { s.mem with svWait := s.mem.svWait ++ [x] } } else accept x s

/-- The slices pass frames again, and the frames of SV that waited are staged. -/
def slicesGo (s : State) : State :=
  let l := s.mem.svWait
  l.foldl (fun s x => accept x s) { s with mem := { s.mem with stopped := false, svWait := [] } }

/-! Memory errors (R153 to R155). -/

/-- A corrected error of a memory (0 packet, 1 BD, 2 link): counted, and reported at most once in 1 ms. -/
def eccCorrected (m index : Nat) (s : State) : State :=
  let s := s.bumpFld BUF_ECC_CORR_CNT.COUNT 1
  let free := match kget s.mem.lastEcc m with
    | some t => decide (t + 1000000 ≤ s.lt)
    | none => true
  if free then
    raise 0x0103 1 (evPay [(16, 1, m), (20, 2, index)]) { s with mem := { s.mem with lastEcc := kput s.mem.lastEcc m s.lt } }
  else s

/-- The memory errors of packet memory, BD and link SRAM among the errors that a step meets: an uncorrectable one in packet memory
makes the buffer bad, one in a BD or a link cell is fatal. -/
def memEcc (e : EccHit) (s : State) : State :=
  let i := if e.mem = 0 then memIndex s e.index else e.index
  if 3 ≤ e.mem then s
  else if e.corrected then eccCorrected e.mem i s
  else if e.mem = 0 then { s with mem := { s.mem with bufs := kmapAt s.mem.bufs i (fun b => { b with bad := true }) } }
  else raise 0x0105 3 (evPay [(16, 1, e.mem), (20, 2, e.index)]) s

/-- Egress finds the data of a copy bad (R154). -/
def eccDiscard (p : Nat) (x : Cell) (s : State) : State :=
  discardCopy p x false (raise 0x0104 2 (evPay [(16, 2, x.buf), (18, 1, p)]) (s.bumpFld BUF_ECC_UNCORR_CNT.COUNT 1))

/-! Registers of this chapter with a command of their own. -/

/-- The words of a BD (R134). -/
def bdWord (x : Buf) : Nat :=
  let sq := x.seq.getD (0, 0)
  sq.1 % 4 * 2 ^ 126 + sq.2 % 2 ^ 14 * 2 ^ 112 + x.handle % 2 ^ 16 * 2 ^ 96 + b2n x.ofStream * 2 ^ 95 + b2n x.seq.isSome * 2 ^ 94 +
  x.len % 2 ^ 14 * 2 ^ 80 + x.owner % 2 ^ 76

/-- Write `BUF_BD_SEL` (R162). The descriptor of a buffer that no frame has used since the last rebuild is free values (R161).
(DESIGN CHOICE, log entry 113) -/
def bdSnapshot (v : Nat) (s : State) : State :=
  let i := v % 65536
  let put (w : Nat) (free : Bool) (s : State) : State :=
    let s := (List.range 4).foldl (fun s n => s.setReg (BUF_BD_DATA n) (w / 2 ^ (32 * n) % 2 ^ 32)) s
    (s.setFld BUF_BD_SEL.INDEX i).setFld BUF_BD_SEL.IS_FREE (b2n free)
  if totalBufs s ≤ i then put 0 true s
  else match s.buf i with
    | some x => put (bdWord x) (!allocated x) s
    | none => put s.freeVal true s.drew

/-- BUF_BD_SNAPSHOT (R162): the value written to `BUF_BD_SEL`. -/
def execBufBdSnapshot (src : Src) (value : Nat) (s : State) : Res :=
  .next (busRow src (bdSnapshot value) s)

/-- Write `BUF_DBG_RELEASE` (R163). -/
def dbgRelease (v : Nat) (s : State) : State :=
  let p := bits v 22 16
  if s.dbg.unlocked && decide (p ≤ 75) then release (v % 65536) p false s else s

/-- BUF_DBG_RELEASE (R163): the value written. -/
def execBufDbgRelease (src : Src) (value : Nat) (s : State) : Res :=
  .next (busRow src (dbgRelease value) s)

/-- Write `BUF_POOLk_SILL` (R147). -/
def sillWrite (k v : Nat) (s : State) : State :=
  let a := bits v 9 0
  let b := bits v 19 10
  let c := bits v 29 20
  if c < b && b < a && a ≤ 1000 then poolChanged k (s.setReg (BUF_POOL_SILL k) (v % 2 ^ 30))
  else s.setFld (BUF_POOL_STATUS.BAD_WR k) 1

/-- BUF_SILL_WRITE (R147): the value written to `BUF_POOLk_SILL`. -/
def execBufSillWrite (src : Src) (k : Fin 6) (value : Nat) (s : State) : Res :=
  .next (busRow src (sillWrite k.val value) s)

/-- The greatest `MAX_LEN` of a port (R125). -/
def maxLenTop (p : Nat) : Nat := if 32 ≤ p && p ≤ 39 then 2048 else 9604

/-- Would a `MAX_LEN` break R270 for a `BURST` in the port's active egress set? -/
def maxLenBreaksBurst (s : State) (p v : Nat) : Bool :=
  let w := if p ≤ 7 || p = 75 then v + 68 else v + 52
  let x := (s.eport p).active
  (List.range 8).any (fun c =>
    let k := eclass x p c
    (c = 7 || k.mode = 2) && decide (k.burst < w))

/-- Write `PORT_RX_CFG` (R125, R650). -/
def maxLenWrite (p v : Nat) (s : State) : State :=
  if !isEthPort p then s
  else
    let m := clamp 64 (maxLenTop p) (v % 2 ^ 14)
    let res := s.reserved.any (fun e => bit e.2.outMask p)
    if m = s.fld (PORT_RX_CFG.MAX_LEN p) then s
    else if res || maxLenBreaksBurst s p m then s
    else (List.range 8).foldl (fun s c => dropOversize p c (s.queue p c) s) (s.setFld (PORT_RX_CFG.MAX_LEN p) m)

/-- MAX_LEN_WRITE (R125, R650): the value written to `PORT_RX_CFG`. -/
def execMaxLenWrite (src : Src) (p : Port) (value : Nat) (s : State) : Res :=
  .next (busRow src (maxLenWrite p.val value) s)

/-! Carving (R131, R132, R159, R161). -/

/-- A staged carving as (base, plots) by pool. -/
def staged (s : State) (k : Nat) : Nat × Nat := (s.fld (BUF_POOL_CFG.PLOT_BASE k), s.fld (BUF_POOL_CFG.PLOTS k))

/-- Does a staged carving satisfy R132? -/
def carvingOk (s : State) : Bool :=
  let ks := List.range 6
  let pair (i j : Nat) : Bool :=
    let a := staged s i
    let b := staged s j
    i = j || decide (a.1 + a.2 ≤ b.1) || decide (b.1 + b.2 ≤ a.1)
  ks.all (fun k => decide (1 ≤ (staged s k).2) && decide ((staged s k).1 + (staged s k).2 ≤ 256) &&
    decide (rsvTotal s k ≤ (staged s k).2 * nth poolPerPlot k)) &&
  ks.all (fun i => ks.all (fun j => pair i j)) && decide ((ks.map (fun k => (staged s k).2 * nth poolPerPlot k)).sum ≤ 49152)

/-- Empty packet memory: every buffer and cell is free. -/
def emptyMem (s : State) : State :=
  { s with mem := { s.mem with bufs := [], queues := [], recWait := [], batchWait := [] } }

/-- The counts that follow from the active carving. -/
def carvingCounts (s : State) : State :=
  let s := (List.range 6).foldl (fun s k =>
    (s.setFld (BUF_POOL_COUNT.FIRST k) (poolFirst s k)).setFld (BUF_POOL_COUNT.BUFFERS k) (poolBufs s k)) s
  (s.setFld BUF_CARVE_STATUS.PLOTS_USED ((List.range 6).map (fun k => s.fld (BUF_POOL_ACT.PLOTS k))).sum).setFld
    BUF_CARVE_STATUS.TOTAL_BUF (totalBufs s)

/-- Make the staged carving active (R159 step 4). -/
def carve (s : State) : State :=
  let s := (List.range 6).foldl (fun s k =>
    (s.setFld (BUF_POOL_ACT.PLOT_BASE k) (staged s k).1).setFld (BUF_POOL_ACT.PLOTS k) (staged s k).2) (emptyMem s)
  sillAll (carvingCounts s)

end Sys2Proof.Machine
end

