-- ==== Sys2Proof/Machine/Gateway.lean ====
section
/-! DEFINITION. The bus gateway (chapter 11): internal frames, frame routes, the signal mover, the gateway sets and the commands of
group 0x08. -/

namespace Sys2Proof.Machine

/-- Change the gateway's state. -/
def State.modGw (s : State) (f : GwSt → GwSt) : State := { s with gw := f s.gw }

/-! Internal frames (R382). -/

/-- The `TS` fields of a start point on the scale of `GW_CTRL`. -/
def tsBytes (s : State) (t : Stamp) : Bytes :=
  let v := stampOn t (s.fld GW_CTRL.TS_DOM)
  toLe 4 (nsOf v) ++ toLe 6 (secOf v)

/-- An internal frame from its parts. -/
def ihBuild (u : LegPdu) (bus route dest tc : Nat) (ts : Bytes) : Bytes :=
  [byte u.kind, 48, byte bus, byte u.flags] ++ toLe 4 (u.id % 2 ^ 29) ++ toLe 2 u.data.length ++ toLe 2 (u.dlc % 2048) ++
  [byte u.xlSdt, byte u.xlVcid, 0, 0] ++ toLe 4 u.xlAf ++ [byte (u.frCycle % 64), byte (u.frFlags % 64)] ++ toLe 2 route ++ toLe 4 dest ++
  [byte (tc % 8), 0, 0, 0] ++ slice ts 0 10 ++ zeros 6 ++ u.data

/-- The data lengths that a DLC of CAN FD can express, by DLC. -/
def fdLens : List Nat := [0, 1, 2, 3, 4, 5, 6, 7, 8, 12, 16, 20, 24, 32, 48, 64]

/-- The DLC of n data bytes as on the bus (R201). (PRESUMED, log entry 26) -/
def dlcOf (kind n : Nat) : Nat :=
  match kind with
  | 2 => (fdLens.zipIdx.find? (fun e => decide (n ≤ e.1))).elim 15 (·.2)
  | 3 => n - 1
  | 5 => (n + 1) / 2
  | _ => n

/-! Frame routes (R385, R386). -/

/-- Bits of a frame route's 128-bit word. -/
def rtBits (e : Bytes) (hi lo : Nat) : Nat := bits (leAt e 0 16) hi lo

/-- Does a valid route match a key? -/
def rtMatch (e : Bytes) (bus : Nat) (via ide : Bool) (id : Nat) : Bool :=
  let m := rtBits e 88 60
  decide (rtBits e 127 127 = 1) && decide (rtBits e 126 120 = bus) && decide (rtBits e 119 119 = b2n via) &&
  decide (rtBits e 118 118 = b2n ide) && decide (rtBits e 117 89 &&& m = id &&& m)

/-- The first route that matches. -/
def rtLookup (s : State) (bus : Nat) (via ide : Bool) (id : Nat) : Option Nat :=
  (List.range 1024).find? (fun i => rtMatch (gwEntry s.gw.active 0 i) bus via ide id)

/-- The PDU as a route changes it (R385, R386): a new identifier, and the format of `CONVERT` on a CAN data frame. -/
def rtChange (e : Bytes) (u : LegPdu) : LegPdu :=
  let n := leAt e 16 4
  let u := if bit n 31 then { u with id := n % 2 ^ 29 } else u
  let c := rtBits e 29 28
  let plain := u.flags - (u.flags / 4 % 4) * 4
  if (u.kind ≠ 1 && u.kind ≠ 2) || bit u.flags 1 then u
  else match c with
    | 1 => { u with kind := 2, dlc := dlcOf 2 u.data.length, flags := plain + b2n (bit u.flags 3) * 8 }
    | 2 => { u with kind := 2, dlc := dlcOf 2 u.data.length, flags := plain + 4 + b2n (bit u.flags 3) * 8 }
    | 3 => { u with kind := 1, flags := plain }
    | _ => u

/-- The internal frame that a route makes of a PDU. (DEDUCED, log entry 24) -/
def rtBuild (s : State) (bus i : Nat) (u : LegPdu) : Bytes :=
  let e := gwEntry s.gw.active 0 i
  ihBuild u bus i (mkDest (rtBits e 59 58) (rtBits e 57 50) (rtBits e 49 43) (rtBits e 42 33)) (rtBits e 32 30) (tsBytes s u.start)

/-- The internal frame that a matching route makes of a PDU; none where no route takes it (R384). -/
def rtFrame (s : State) (bus : Nat) (via : Bool) (u : LegPdu) : Option Bytes :=
  match rtLookup s bus via (bit u.flags 0) u.id with
  | none => none
  | some i =>
    let e := gwEntry s.gw.active 0 i
    if rtBits e 59 58 = 3 then none
    else
      let u := rtChange e u
      let u := if via then { u with flags := u.flags ||| 64 } else u
      some (rtBuild s bus i u)

/-! The signal mover (R406 to R411). -/

/-- Fields of an image entry (R406). -/
def imValid (e : Bytes) : Bool := bit (byteAt e 0) 7
def imTx (e : Bytes) : Bool := bit (byteAt e 0) 6
def imDlen (e : Bytes) : Nat := byteAt e 3
def imPeriod (e : Bytes) : Nat := leAt e 12 2 * 1000000
def imGap (e : Bytes) : Nat := leAt e 14 2 * 100000

/-- Fields of a signal route (R407). -/
def sgBits (e : Bytes) (hi lo : Nat) : Nat := bits (leAt e 0 16) hi lo
def sgValid (e : Bytes) : Bool := sgBits e 127 127 = 1
def sgMode (e : Bytes) : Nat := sgBits e 126 125
def sgSrc (e : Bytes) : Nat := sgBits e 124 115
def sgDst (e : Bytes) : Nat := sgBits e 98 89
def sgLen (e : Bytes) : Nat := sgBits e 104 99 + 1

/-- The bits of a signal in the order of its walk (R408). -/
def sigWalk : Nat → Nat → Bool → List Nat
  | 0, _, _ => []
  | n + 1, b, true => b :: sigWalk n (if b % 8 = 0 then b + 15 else b - 1) true
  | n + 1, b, false => b :: sigWalk n (b + 1) false

/-- The walks of a route in its source and its destination image. -/
def sgSrcWalk (e : Bytes) : List Nat := sigWalk (sgLen e) (sgBits e 114 106) (sgBits e 105 105 = 1)
def sgDstWalk (e : Bytes) : List Nat := sigWalk (sgLen e) (sgBits e 88 80) (sgBits e 79 79 = 1)

/-- Read a signal (R408). -/
def getSig (img : Bytes) (walk : List Nat) (be : Bool) : Nat :=
  let v := le (slice img 0 64)
  let l := if be then walk.reverse else walk
  ((List.range l.length).map (fun i => if bit v (nth l i) then 2 ^ i else 0)).sum

/-- Write a signal in the same walk. -/
def putSig (img : Bytes) (walk : List Nat) (be : Bool) (x : Nat) : Bytes :=
  let l := if be then walk.reverse else walk
  toLe 64 ((List.range l.length).foldl (fun v i => if bit x i then orBit v (nth l i) else clrBit v (nth l i)) (le (slice img 0 64)))

/-- Does the signal mover run: `SIG_EN` is 1, and the gateway is on (R417)? -/
def sigRuns (s : State) : Bool := s.flag GW_CTRL.SIG_EN && decide (s.pwr.state ≤ 2)

/-- An image of the active set, with its state. -/
def gwImage (s : State) (i : Nat) : Bytes := gwEntry s.gw.active 3 i
def State.image (s : State) (i : Nat) : Image := kgetD s.gw.images i { data := zeros 64, written := s.gw.sigAt }

/-- Change an image's state. -/
def State.modImage (s : State) (i : Nat) (f : Image → Image) : State :=
  s.modGw (fun g => { g with images := kput g.images i (f (s.image i)) })

/-- Send a transmit image (R411): a snapshot enters the pipeline of Q2 as a frame from SV. -/
def imSend (i : Nat) (s : State) : State :=
  let e := gwImage s i
  let u : LegPdu := { kind := byteAt e 0 % 8, flags := byteAt e 2 % 128, id := leAt e 4 4 % 2 ^ 29, dlc := dlcOf (byteAt e 0 % 8) (imDlen e),
                      data := slice (s.image i).data 0 (imDlen e) }
  let t := s.stamp false
  let x : Pkt := { bytes := ihBuild u 0 0xFFFF (leAt e 8 4) (byteAt e 1) (tsBytes s t), internal := true, inPort := 74, start := t, arrive := s.lt }
  svAccept x ((s.modImage i (fun m => { m with sent := some s.lt, deferred := false })).bump GW_SIG_SENT)

/-- May an image be sent now: has `MIN_GAP` passed since its last send (R409)? -/
def imGapPast (s : State) (i : Nat) : Bool :=
  match (s.image i).sent with
  | some t => decide (t + imGap (gwImage s i) ≤ s.lt)
  | none => true

/-- Trigger a transmit image: it is sent, or deferred until `MIN_GAP` has passed. (DEDUCED, log entry 25) -/
def imTrigger (i : Nat) (s : State) : State :=
  if imGapPast s i then imSend i s else s.modImage i (fun m => { m with deferred := true })

/-- One route copies a value into its transmit image; whether that triggers the image (R409). -/
def sigPut (e : Bytes) (x : Nat) (s : State) : Bool × State :=
  let w := sgDstWalk e
  let be := sgBits e 79 79 = 1
  let d := (s.image (sgDst e)).data
  let trig := sgMode e = 1 || (sgMode e = 0 && decide (getSig d w be ≠ x))
  (trig, s.modImage (sgDst e) (fun m => { m with data := putSig m.data w be x }))

/-- Run the routes of a list over their source data, collecting the images that they trigger. -/
def sigRun (src : Bytes) : List Bytes → List Nat → State → List Nat × State
  | [], t, s => (t, s)
  | e :: r, t, s =>
    let (trig, s) := sigPut e (getSig src (sgSrcWalk e) (sgBits e 105 105 = 1)) (s.bump GW_SIG_COPIES)
    sigRun src r (if trig && !t.contains (sgDst e) then t ++ [sgDst e] else t) s

/-- The valid routes of a source image, in rising order. -/
def sigRoutes (s : State) (i : Nat) : List Bytes :=
  ((List.range 4096).map (fun k => gwEntry s.gw.active 4 k)).filter (fun e => sgValid e && decide (sgSrc e = i))

/-- The receive image of a key. (DEDUCED, log entry 25) -/
def rxImage (s : State) (bus : Nat) (via ide : Bool) (id : Nat) : Option Nat :=
  (List.range 1024).find? (fun i =>
    let e := gwImage s i
    imValid e && !imTx e && decide (byteAt e 1 = bus) && decide (bit (byteAt e 2) 1 = via) && decide (bit (byteAt e 2) 0 = ide) &&
    decide (leAt e 4 4 % 2 ^ 29 = id))

/-- A PDU is offered to the signal mover (R406, R409, R410): its image is written, timeouts of its routes end, the routes run, and
the triggered images are sent once the pass is over. -/
def sigWrite (bus : Nat) (via : Bool) (u : LegPdu) (s : State) : State :=
  if !sigRuns s then s
  else match rxImage s bus via (bit u.flags 0) u.id with
    | none => s
    | some i =>
      let d := slice u.data 0 64
      let s := s.modImage i (fun m => { m with data := d, written := s.lt })
      let ks := (List.range 4096).filter (fun k => sgValid (gwEntry s.gw.active 4 k) && decide (sgSrc (gwEntry s.gw.active 4 k) = i))
      let s := s.modGw (fun g => { g with sig := g.sig.filter (fun e => !ks.contains e.1) })
      let (t, s) := sigRun d (sigRoutes s i) [] s
      t.foldl (fun s k => imTrigger k s) s

/-- SIGNAL_PERIOD_TRIGGER (R409): the period of a transmit image elapses. -/
def execSignalPeriodTrigger (i : Nat) (s : State) : Res :=
  let e := gwImage s i
  if sigRuns s && imValid e && imTx e && imPeriod e ≠ 0 && decide ((s.image i).cyclic ≤ s.lt) then
    .next (imTrigger i (s.modImage i (fun m => { m with cyclic := m.cyclic + imPeriod e })))
  else .next s

/-- SIGNAL_DEFERRED_SEND (R409): `MIN_GAP` has passed since the last send of an image with a deferred trigger. -/
def execSignalDeferredSend (i : Nat) (s : State) : Res :=
  if sigRuns s && (s.image i).deferred && imGapPast s i then .next (imSend i s) else .next s

/-- One route at the 1 ms check (R410). -/
def sigTimeout (k : Nat) (s : State) : State :=
  let e := gwEntry s.gw.active 4 k
  let out := sgBits e 75 64 * 10000000
  let since := max (s.image (sgSrc e)).written s.gw.sigAt
  if !sgValid e || out = 0 || khas s.gw.sig k || s.lt < since + out then s
  else
    let (trig, s) := sigPut e (sgBits e 63 0) (s.modGw (fun g => { g with sig := kput g.sig k s.lt }))
    let s := raise 0x0803 0 (evPay [(16, 2, k), (18, 2, sgSrc e)]) (s.bump GW_SIG_TIMEOUTS)
    if trig then imTrigger (sgDst e) s else s

/-- SIGNAL_TIMEOUT_TICK (R410): the check of every millisecond. (DESIGN CHOICE, log entry 127) -/
def execSignalTimeoutTick (s : State) : Res :=
  if sigRuns s && decide (s.lt % 1000000 = 0) then .next ((List.range 4096).foldl (fun s k => sigTimeout k s) s) else .next s

/-! Staging (R412, R413). -/

/-- The header of `GW_STAGE` and `GW_READ`. -/
def gwItem (c : CmdCtx) : Nat := byteAt c.par 0
def gwFirst (c : CmdCtx) : Nat := leAt c.par 2 2
def gwCount (c : CmdCtx) : Nat := leAt c.par 4 2

/-- Entry size, entries, and largest `COUNT` of an item. -/
def gwSize (item : Nat) : Nat := nth [24, 32, 16, 96, 16, 8, 8] item
def gwLimit (item : Nat) : Nat := nth [1024, 64, 64, 1024, 4096, 512, 128] item
def gwMax (item : Nat) : Nat := nth [170, 64, 64, 42, 255, 510, 128] item

/-- The k-th entry of a staging command. -/
def gwStaged (c : CmdCtx) (k : Nat) : Bytes := slice c.par (16 + k * gwSize (gwItem c)) (gwSize (gwItem c))

/-- Are the bytes [a, a + n) of an entry zero? -/
def zeroAt (e : Bytes) (a n : Nat) : Bool := (slice e a n).all (fun b => b = 0)

/-- Does a walk stay within the 64 bytes of an image? -/
def walkOk (w : List Nat) : Bool := w.all (fun b => decide (b < 512))

/-- The checks of an entry of each item (R413): reserved bits always; ranges where the entry is valid. `g` is the shadow set. (DEDUCED, log entry 24) -/
def gwEntryOk (g : GwSet) (item : Nat) (e : Bytes) : Bool :=
  match item with
  | 0 =>
    let v := rtBits e 127 127 = 1
    rtBits e 27 0 = 0 && bits (leAt e 16 4) 30 29 = 0 && zeroAt e 20 4 &&
    (!v || (decide (40 ≤ rtBits e 126 120) && decide (rtBits e 126 120 ≤ 71) && decide (rtBits e 49 43 ≤ 75) && decide (rtBits e 32 30 ≤ 4) &&
      (rtBits e 29 28 = 0 || decide (rtBits e 126 120 ≤ 63))))
  | 1 =>
    bits (byteAt e 0) 4 3 = 0 && decide (byteAt e 3 < 8) && decide (leAt e 8 2 < 4096) && zeroAt e 24 8 &&
    (!chValid e || (decide (chTc e ≤ 6) && (decide (chPort e ≤ 39) || chPort e = 75) && decide (1 ≤ chMaxPdus e) &&
      decide (chMaxPdus e ≤ 32) && decide (64 ≤ chMaxBytes e) && decide (chMaxBytes e ≤ 9600) && decide (chTimeout e ≤ 10000)))
  | 2 => bits (byteAt e 0) 6 1 = 0 && decide (byteAt e 1 < 8) && zeroAt e 2 6 && (!bit (byteAt e 0) 7 || decide (byteAt e 1 ≤ 4))
  | 3 =>
    let k := byteAt e 0 % 8
    bits (byteAt e 0) 5 3 = 0 && decide (leAt e 4 4 < 2 ^ 29) && zeroAt e 16 16 &&
    (if imTx e then decide (byteAt e 2 < 128) && leAt e 8 4 % 32 = 0 else decide (byteAt e 2 < 4)) &&
    (!imValid e || (decide (1 ≤ k) && decide (k ≤ 5) && decide (imDlen e ≤ 64) &&
      (if imTx e then decide (byteAt e 1 ≤ 4) && decide (destPort (leAt e 8 4) ≤ 75)
       else decide (40 ≤ byteAt e 1) && decide (byteAt e 1 ≤ 71))))
  | 4 =>
    sgBits e 78 76 = 0 &&
    (!sgValid e || (decide (sgMode e ≠ 3) && !imTx (gwEntry g 3 (sgSrc e)) && imTx (gwEntry g 3 (sgDst e)) && walkOk (sgSrcWalk e) &&
      walkOk (sgDstWalk e)))
  | 5 =>
    byteAt e 0 < 128 && byteAt e 7 % 128 = 0 &&
    (byteAt e 7 < 128 || (decide (byteAt e 0 % 8 ≤ 5) && decide (byteAt e 1 ≤ 63) && decide (byteAt e 2 ≤ 4) && decide (byteAt e 3 ≤ 63) &&
      decide (1 ≤ leAt e 4 2) && decide (byteAt e 6 ≤ 7)))
  | _ =>
    leAt e 0 2 < 2048 && bits (byteAt e 2) 6 3 = 0 && zeroAt e 6 2 &&
    (byteAt e 2 < 128 || ([1, 2, 4, 8, 16, 32, 64].contains (byteAt e 4) && decide (byteAt e 3 ≤ 63) && decide (byteAt e 5 ≤ 127)))

/-- `VALID` 0 in an entry. -/
def gwClear (item : Nat) (e : Bytes) : Bytes :=
  match item with
  | 0 | 4 => patch e 15 [byte (byteAt e 15 % 128)]
  | 5 => patch e 7 [byte (byteAt e 7 % 128)]
  | 6 => patch e 2 [byte (byteAt e 2 % 128)]
  | _ => patch e 0 [byte (byteAt e 0 % 128)]

/-- Store an entry; one that is all zeros is not listed. -/
def gwPut (item i : Nat) (e : Bytes) (g : GwSet) : GwSet :=
  if e.all (fun b => b = 0) then kdel g (item * 4096 + i) else kput g (item * 4096 + i) e

/-- A command of group 0x08 that meets the copy into the shadow set: the copy ends first. (DEDUCED, log entry 20) -/
def gwCopyEnd (s : State) : State :=
  if s.gw.copying then s.modGw (fun g => { g with shadow := g.active, copying := false }) else s

/-- `GW_STAGE` (R412, R413). -/
def gwStage (c : CmdCtx) (s : State) : State :=
  let s := gwCopyEnd s
  let item := gwItem c
  let n := gwCount c
  if item = 7 then
    let m := byteAt c.par 1
    if plenIs c 16 && m < 128 && parZero c 6 16 then
      let f (e : Nat × Bytes) : Nat × Bytes := if bit m (e.1 / 4096) then (e.1, gwClear (e.1 / 4096) e.2) else e
      complete c 0x0801 stOk [] (s.modGw (fun g => { g with
        shadow := (g.shadow.map f).filter (fun e => !e.2.all (fun b => b = 0)) }))
    else complete c 0x0801 stParam [] s
  else if 7 < item || byteAt c.par 1 ≠ 0 || !parZero c 6 16 || gwLimit item < gwFirst c + n || gwMax item < n ||
      !plenIs c (16 + n * gwSize item) || !(List.range n).all (fun k => gwEntryOk s.gw.shadow item (gwStaged c k)) then
    complete c 0x0801 stParam [] s
  else
    complete c 0x0801 stOk [] (s.modGw (fun g => { g with
      shadow := (List.range n).foldl (fun x k => gwPut item (gwFirst c + k) (gwStaged c k) x) g.shadow }))

/-- GW_STAGE (R412, R413). -/
def execGwStage (c : CmdCtx) (s : State) : Res := .next (command c 0x0801 s (gwStage c))

/-! Reading (R416). -/

/-- `GW_READ`. -/
def gwRead (c : CmdCtx) (s : State) : State :=
  let s := gwCopyEnd s
  let item := gwItem c
  let n := gwCount c
  if 6 < item || 2 ≤ byteAt c.par 1 || !plenIs c 16 || !parZero c 6 16 || gwLimit item < gwFirst c + n || gwMax item < n then
    complete c 0x0803 stParam [] s
  else
    let g := if byteAt c.par 1 = 1 then s.gw.shadow else s.gw.active
    complete c 0x0803 stOk ((List.range n).flatMap (fun k => slice (gwEntry g item (gwFirst c + k)) 0 (gwSize item))) s

/-- GW_READ (R416). -/
def execGwRead (c : CmdCtx) (s : State) : Res := .next (command c 0x0803 s (gwRead c))

/-- `GW_IMAGE` (R416): `OP` 0 read, 1 write, 2 send. -/
def gwImageCmd (c : CmdCtx) (s : State) : State :=
  let op := byteAt c.par 0
  let i := leAt c.par 2 2
  let off := byteAt c.par 4
  let n := byteAt c.par 5
  let tx := imValid (gwImage s i) && imTx (gwImage s i)
  if 2 < op || byteAt c.par 1 ≠ 0 || 1023 < i || 64 < off + n || 2 ≤ byteAt c.par 6 || !parZero c 7 16 || !plenIs c (16 + n) then
    complete c 0x0804 stParam [] s
  else if op = 0 then
    let m := s.image i
    complete c 0x0804 stOk (slice m.data 0 64 ++ toLe 4 ((s.lt - m.written) / 1000000)) s
  else if !tx then complete c 0x0804 stState [] s
  else if op = 1 then
    let s := s.modImage i (fun m => { m with data := patch (slice m.data 0 64) off (slice c.par 16 n), written := s.lt })
    complete c 0x0804 stOk [] (if bit (byteAt c.par 6) 0 then imTrigger i s else s)
  else complete c 0x0804 stOk [] (imTrigger i s)

/-- GW_IMAGE_READ (R416). -/
def execGwImageRead (c : CmdCtx) (s : State) : Res := .next (command c 0x0804 s (gwImageCmd c))
/-- GW_IMAGE_WRITE (R416). -/
def execGwImageWrite (c : CmdCtx) (s : State) : Res := .next (command c 0x0804 s (gwImageCmd c))
/-- GW_IMAGE_SEND (R416). -/
def execGwImageSend (c : CmdCtx) (s : State) : Res := .next (command c 0x0804 s (gwImageCmd c))

/-- The quad-word boundary: bytes rounded up to a multiple of 4. -/
def up4 (n : Nat) : Nat := (n + 3) / 4 * 4

end Sys2Proof.Machine
end

