-- ==== Sys2Proof/Machine/Legacy.lean ====
section
/-! DEFINITION. Batching and unpacking (R394 to R405), the gateway flip (R414, R415), and the CAN, LIN and FlexRay controllers
(R377 to R393). -/

namespace Sys2Proof.Machine

/-! Batches (R395 to R402). -/

/-- Header length H of a channel's batch frames. -/
def chHead (e : Bytes) : Nat := if bit (byteAt e 0) 6 then 30 else 26

/-- Can a PDU be encapsulated (R395)? -/
def encapsulable (f : Bytes) : Bool := (ihKind f = 1 || ihKind f = 2 || ihKind f = 4) || (ihKind f = 3 && decide (ihDlen f ≤ 2020))

/-- The bytes of a PDU's messages, with the sequence message of an admitted PDU. (DEDUCED, log entry 27) -/
def msgBytes (f : Bytes) (seq : Bool) : Nat :=
  let d := up4 (ihDlen f)
  (if ihKind f = 3 then 24 + d else if ihKind f = 4 then 12 + d else 16 + d) + (if seq then 8 else 0)

/-- The first two bytes of an ACF message. (DEDUCED, log entry 27) -/
def acfHead (type len : Nat) : Bytes := toBe 2 (type * 512 + len / 4)

/-- The ACF messages of a PDU in a channel (R395, R396). -/
def acfMsgs (s : State) (e f : Bytes) (seq : Option (Nat × Nat × Nat)) : Bytes :=
  let d := ihDlen f
  let pad := up4 d - d
  let mtv := decide (s.fld GW_CTRL.TS_DOM ≠ 2)
  let ts := if mtv then toBe 8 (leAt f 36 6 * sec + leAt f 32 4) else zeros 8
  let own := (ihBus f + 24) % 32
  let bus := if bit (byteAt e 0) 5 then own else if destKind (ihDest f) ≤ 1 && isLegacyPort (destPort (ihDest f)) then destPort (ihDest f) - 40 else own
  let fl := ihFlags f
  let data := slice f 48 (up4 d)
  let body := slice data 0 d ++ zeros pad
  let flags := pad * 64 + b2n mtv * 32
  let q := match seq with
    | some (h, ep, n) => acfHead 0x78 8 ++ toBe 2 h ++ toBe 2 (ep % 4 * 2 ^ 14 + n % 2 ^ 14) ++ zeros 2
    | none => []
  q ++ match ihKind f with
    | 3 => acfHead 0x79 (24 + up4 d) ++ [byte (flags + b2n (bit fl 4) * 16), byte bus] ++ ts ++ [byte (byteAt f 12), byte (byteAt f 13)] ++
           toBe 2 (ihId f % 2048) ++ toBe 4 (leAt f 16 4) ++ toBe 2 d ++ zeros 2 ++ body
    | 4 => acfHead 0x03 (12 + up4 d) ++ [byte (flags + bus), byte (ihId f % 64)] ++ ts ++ body
    | _ => acfHead 0x01 (16 + up4 d) ++
           [byte (flags + b2n (bit fl 1) * 16 + b2n (bit fl 0) * 8 + b2n (bit fl 2) * 4 + b2n (ihKind f = 2) * 2 + b2n (bit fl 3)), byte bus] ++
           ts ++ toBe 4 (ihId f) ++ body

/-- `EV_GW_ENCAP_DROP`, at most one in any 10 ms (R418). (DEDUCED, log entry 27) -/
def encapDrop (ch code : Nat) (s : State) : State :=
  let free := match s.gw.lastDrop with
    | some t => decide (t + 10000000 ≤ s.lt)
    | none => true
  if free then raise 0x0806 0 (evPay [(16, 1, ch), (17, 1, code)]) (s.modGw (fun g => { g with lastDrop := some s.lt })) else s

/-- Close the open batch of a channel: the frame is built and appended to its queue (R395, R399). (DEDUCED, log entry 28) -/
def batchClose (i : Nat) (s : State) : State :=
  match kget s.gw.batches i with
  | none => s
  | some b =>
    let e := gwEntry s.gw.active 1 i
    let p := chPort e
    let seq := (kgetD s.gw.chSeq i 0 + 1) % 256
    let vlan := if bit (byteAt e 0) 6 then toBe 2 0x8100 ++ toBe 2 (byteAt e 3 % 8 * 2 ^ 13 + leAt e 8 2 % 4096) else []
    let mac := s.reg GW_SRC_MAC_HI % 65536 * 2 ^ 32 + s.reg GW_SRC_MAC_LO
    let len := b.bytes.length
    let f := slice e 10 6 ++ toBe 6 mac ++ vlan ++ toBe 2 0x22F0 ++ [0x82, byte (128 + len / 256), byte len, byte seq] ++ slice e 16 8 ++ b.bytes
    let inPort := match b.parts with
      | q :: _ => q.inPort
      | [] => 74
    let fid := if bit (byteAt e 0) 6 then leAt e 8 2 % 4096 else s.fld (QD_PORT_FWD.PVID (homeQuad inPort) inPort)
    let tag := b.device.map (fun d => ({ seq := false, srcDev := s.fld FAB_STATUS.ADDR, dstDev := d, srcPort := inPort, dstPort := 0x7F,
                                         tc := chTc e, fid := fid } : DfpTag))
    let s := { s with mem := { s.mem with bufs := kmapAt s.mem.bufs b.buf (fun x => { x with
      pkt := { x.pkt with bytes := f }, len := f.length, tc := chTc e, fid := fid, parts := b.parts }) } }
    let s := s.modGw (fun g => { g with batches := kdel g.batches i, chSeq := kput g.chSeq i seq })
    enqueue p (chTc e) { buf := b.buf, tag := tag } (s.bump GW_BATCH_SENT)

/-- Discard a copy that waits for the batch builder. -/
def batchDiscard (w : Waiting) (s : State) : State :=
  match s.buf w.buf with
  | some x => release w.buf w.port false (x.carries.foldl (fun s q => faultDiscard w.port (w.cell.any isMirror) false q s) s)
  | none => s

/-- Take the buffer of a new batch (R401). -/
def batchOpen (i : Nat) (e : Bytes) (dev : Option Nat) (x : Buf) (s : State) : Option State :=
  let c := chTc e
  let need := chMaxBytes e + 16
  let shell : Buf := { pkt := { bytes := [], inPort := x.pkt.inPort, start := x.pkt.start, arrive := x.pkt.arrive }, len := 0,
                       owner := orBit 0 (chPort e), tc := c }
  let start (b : Nat) (sh : Buf) (s : State) : State :=
    poolChanged (poolOf s b) ((putBuf b sh s).modGw (fun g => { g with batches := kput g.batches i { openAt := s.lt, device := dev, buf := b } }))
  if c ≤ 4 then none
  else
    let used := ((inUse s).filter (fun y => y.2.chan = some i)).length
    if used < chanQuota s e then (lowestFree s (fitPool need)).map (fun b => start b { shell with ofStream := true, chan := some i } s) else none

/-- The same for a channel of TC0 to TC4: an unreserved buffer, or a refusal. -/
def batchOpenFree (i : Nat) (e : Bytes) (dev : Option Nat) (x : Buf) (s : State) : Bool × State :=
  let shell : Buf := { pkt := { bytes := [], inPort := x.pkt.inPort, start := x.pkt.start, arrive := x.pkt.arrive }, len := 0,
                       owner := orBit 0 (chPort e), tc := chTc e }
  match allocUnreserved (chMaxBytes e + 16) 1 (chTc e) x.pkt.inPort s with
  | (some b, s) =>
    (true, poolChanged (poolOf s b) ((putBuf b shell s).modGw (fun g => { g with
      batches := kput g.batches i { openAt := s.lt, device := dev, buf := b } })))
  | (none, s) => (false, s)

/-- Put a PDU into the open batch of a channel; its own buffer is released; a full batch closes (R399). (DEDUCED, log entry 28) -/
def batchPut (i : Nat) (e : Bytes) (w : Waiting) (x : Buf) (s : State) : State :=
  match kget s.gw.batches i with
  | none => s
  | some b =>
    let ps := x.carries
    let seq := x.seq.map (fun q => (x.handle, q.1, q.2))
    let m := acfMsgs s e x.pkt.bytes seq
    let b' := { b with bytes := b.bytes ++ m, parts := b.parts ++ ps.map (fun q => { q with size := m.length }) }
    let s := (release w.buf w.port true (s.modGw (fun g => { g with batches := kput g.batches i b' }))).bump GW_BATCH_PDUS
    if chMaxPdus e ≤ b'.parts.length || chTimeout e = 0 then batchClose i s else s

/-- The builder takes one copy (R398, R399). -/
def batchAdd (w : Waiting) (s : State) : State :=
  match s.buf w.buf with
  | none => s
  | some x =>
    let f := x.pkt.bytes
    match chanIn s.gw.active w.port w.tc with
    | none => encapDrop 0xFF 0 ((batchDiscard w s).bump GW_NO_CHANNEL)
    | some i =>
      let e := gwEntry s.gw.active 1 i
      let m := msgBytes f x.seq.isSome
      let dev := (w.cell.bind (·.tag)).map (·.dstDev)
      if 5 ≤ chTc e && !x.ofStream then encapDrop 0xFF 0 ((batchDiscard w s).bump GW_NO_CHANNEL)
      else if !encapsulable f || chMaxBytes e < chHead e + m then encapDrop i 1 ((batchDiscard w s).bump GW_ENCAP_TOOBIG)
      else
        let s := match kget s.gw.batches i with
          | some b => if chMaxBytes e < chHead e + b.bytes.length + m || decide (b.device ≠ dev) then batchClose i s else s
          | none => s
        if khas s.gw.batches i then batchPut i e w x s
        else if chTc e ≤ 4 then
          match batchOpenFree i e dev x s with
          | (true, s) => batchPut i e w x s
          | (false, s) => batchDiscard w s
        else match batchOpen i e dev x s with
          | some s => batchPut i e w x s
          | none => batchDiscard w s

/-- The waiting copy whose quadrant comes next in the rotation. -/
def nextWaiting (l : List Waiting) (last : Nat) : Option Waiting :=
  ((List.range 4).map (fun i => (last + 1 + i) % 4)).findSome? (fun q => l.find? (fun w => w.quad = q))

/-- Serve one copy that waits for the builder. -/
def batchStep (s : State) : State :=
  match nextWaiting s.mem.batchWait s.mem.batchLast with
  | none => s
  | some w =>
    batchAdd w { s with mem := { s.mem with batchWait := removeFirst (fun y => y = w) s.mem.batchWait, batchLast := w.quad } }

/-- Serve all copies that wait. -/
def batchDrain : Nat → State → State
  | 0, s => s
  | n + 1, s => if s.mem.batchWait.isEmpty then s else batchDrain n (batchStep s)

/-- BATCH_ADD (R398, R399). -/
def execBatchAdd (s : State) : Res := .next (batchStep s)

/-- BATCH_TICK (R399): every 100 ns; after the copies taken up to this moment, batches whose collection timeout has passed close. (DESIGN CHOICE,
log entry 127) -/
def execBatchTick (s : State) : Res :=
  if s.lt % 100 ≠ 0 then .next s else
  let s := batchDrain s.mem.batchWait.length s
  .next ((List.range 64).foldl (fun s i =>
    match kget s.gw.batches i with
    | some b => if b.openAt + chTimeout (gwEntry s.gw.active 1 i) * 1000 ≤ s.lt then batchClose i s else s
    | none => s) s)

/-- Before another frame is appended to the queue of a channel, the channel's open batch closes where it holds a PDU of that
frame's ingress port (R400). -/
def batchBefore (p c inPort : Nat) (s : State) : State :=
  match chanIn s.gw.active p c with
  | none => s
  | some i =>
    let s := batchDrain s.mem.batchWait.length s
    match kget s.gw.batches i with
    | some b => if b.parts.any (fun q => q.inPort = inPort) then batchClose i s else s
    | none => s

/-! Unpacking (R403 to R405). -/

/-- The offset of the AVTP header where R403 looks for one: after the addresses, a DFP tag and at most one VLAN tag. -/
def avtpOff (tag : Option DfpTag) (bs : Bytes) : Option Nat :=
  let o := afterTags tag bs
  let o := if isVlan (etype bs o) then o + 4 else o
  if etype bs o = 0x22F0 then some (o + 2) else none

/-- The unpack entry that matches a frame (R403). -/
def unpackEntry (s : State) (tag : Option DfpTag) (bs : Bytes) : Option (Bytes × Nat) :=
  let mine := match tag with
    | none => true
    | some t => t.type = 0 && s.flag FAB_STATUS.ADDR_VALID && decide (t.dstDev = s.fld FAB_STATUS.ADDR)
  match avtpOff tag bs with
  | none => none
  | some o =>
    let sub := byteAt bs o
    if mine && (sub = 0x82 || sub = 0x05) && bit (byteAt bs (o + 1)) 7 then
      let sid := slice bs (o + 4) 8
      ((List.range 64).find? (fun i =>
        let e := gwEntry s.gw.active 2 i
        bit (byteAt e 0) 7 && decide (slice e 8 8 = sid))).map (fun i => (gwEntry s.gw.active 2 i, o))
    else none

/-- What unpacking one message gives: the PDU and its bus_id, a sequence tag for the next message, or nothing. -/
inductive Acf where
  | pdu (u : LegPdu) (bus : Nat)
  | seq (h e n : Nat)
  | other
deriving DecidableEq, Repr

/-- One ACF message of its own length (R394 to R396). -/
def acfRead (m : Bytes) (start : Stamp) : Acf :=
  let type := byteAt m 0 / 2
  let fl := byteAt m 2
  let can (hd : Nat) : Acf :=
    let n := m.length - hd - fl / 64
    let k := if bit fl 1 then 2 else 1
    .pdu { kind := k, id := beAt m (hd - 4) 4 % 2 ^ 29, data := slice m hd n, dlc := dlcOf k n, start := start,
           flags := b2n (bit fl 3) + b2n (bit fl 4) * 2 + b2n (bit fl 2) * 4 + b2n (bit fl 0) * 8 + 64 } (byteAt m 3 % 32)
  match type with
  | 0x01 => if 16 + fl / 64 ≤ m.length then can 16 else .other
  | 0x02 => if 8 + fl / 64 ≤ m.length then can 8 else .other
  | 0x03 =>
    let n := m.length - 12 - fl / 64
    if 12 + fl / 64 ≤ m.length then .pdu { kind := 4, id := byteAt m 3 % 64, data := slice m 12 n, dlc := n, start := start, flags := 64 } (fl % 32)
    else .other
  | 0x78 => if m.length = 8 then .seq (beAt m 2 2) (beAt m 4 2 / 2 ^ 14) (beAt m 4 2 % 2 ^ 14) else .other
  | 0x79 =>
    let n := beAt m 20 2
    if 24 + n ≤ m.length && n ≤ 2020 then
      .pdu { kind := 3, id := beAt m 14 2 % 2048, data := slice m 24 n, dlc := dlcOf 3 n, start := start, flags := b2n (bit fl 4) * 16 + 64,
             xlSdt := byteAt m 12, xlVcid := byteAt m 13, xlAf := beAt m 16 4 } (byteAt m 3 % 32)
    else .other
  | _ => .other

/-- Does a port take PDUs of a kind? -/
def kindPort (kind p : Nat) : Bool := (decide (kind ≤ 3) && isCanPort p) || (kind = 4 && isLinPort p)

/-- Does an unpack entry take a PDU: in direct mode its port must be of the PDU's kind (R404). -/
def unpackTakes (e : Bytes) (kind bus : Nat) : Bool := bit (byteAt e 0) 0 || kindPort kind (40 + bus)

/-- One PDU of an unpacked frame: it is offered to the signal mover, and staged as a frame of the Ethernet port in the class of the
entry (R404). (DEDUCED, log entry 24) -/
def unpackPdu (e : Bytes) (x : Pkt) (u : LegPdu) (bus : Nat) (tag : Option (Nat × Nat × Nat)) (s : State) : State :=
  let p := 40 + bus
  let tc := byteAt e 1 % 8
  let put (f : Bytes) : State :=
    stage { bytes := f, internal := true, inPort := x.inPort, start := x.start, arrive := x.arrive, rtag := tag } (s.bump GW_UNPACKED)
  if bit (byteAt e 0) 0 then
    match rtFrame s p true u with
    | some f => put (patch f 28 [byte tc])
    | none => (s.bump GW_UNPACKED).bump GW_NO_ROUTE
  else put (ihBuild u p 0xFFFF (mkDest 0 0 p 0) tc (tsBytes s x.start))

/-- The messages of a frame from an offset on: at most 32 PDUs; a length that runs past the frame ends the unpacking (R404). -/
def unpackRun (e : Bytes) (x : Pkt) (fin : Nat) : Nat → Nat → Nat → Option (Nat × Nat × Nat) → State → State
  | 0, _, _, _, s => s
  | fuel + 1, off, made, tag, s =>
    if fin ≤ off then s
    else
      let len := beAt x.bytes off 2 % 512 * 4
      if len = 0 || fin < off + len then encapDrop 0xFF 2 (s.bump GW_UNPACK_BAD)
      else match acfRead (slice x.bytes off len) x.start with
        | .seq h ep n => unpackRun e x fin fuel (off + len) made (some (h, ep, n)) s
        | .other => unpackRun e x fin fuel (off + len) made none (s.bump GW_UNPACK_SKIP)
        | .pdu u bus =>
          if 32 ≤ made || !unpackTakes e u.kind bus then unpackRun e x fin fuel (off + len) made none (s.bump GW_UNPACK_SKIP)
          else unpackRun e x fin fuel (off + len) (made + 1) none (unpackPdu e x u bus tag (sigWrite (40 + bus) true u s))

/-- Unpack a frame (R404): NTSCF has a 12-byte header, TSCF one of 24 bytes. -/
def unpack (e : Bytes) (off : Nat) (x : Pkt) (s : State) : State :=
  let tscf := byteAt x.bytes off = 0x05
  let hd := if tscf then 24 else 12
  let len := if tscf then beAt x.bytes (off + 20) 2 else beAt x.bytes (off + 1) 2 % 2048
  let fin := off + hd + len
  if x.bytes.length < fin then
    encapDrop 0xFF 2 ((unpackRun e x (min fin x.bytes.length) x.bytes.length (off + hd) 0 none s).bump GW_UNPACK_BAD)
  else unpackRun e x fin x.bytes.length (off + hd) 0 none s

/-! The flip (R414, R415). -/

/-- The valid entries of an item, as indices. -/
def gwValids (g : GwSet) (item : Nat) (v : Bytes → Bool) : List Nat := (List.range (gwLimit item)).filter (fun i => v (gwEntry g item i))

/-- The first entry whose key an earlier one of the list has. -/
def dupKey {α : Type} [DecidableEq α] (key : Nat → α) : List Nat → List Nat → Option Nat
  | _, [] => none
  | seen, i :: r => if seen.any (fun j => decide (key j = key i)) then some i else dupKey key (i :: seen) r

/-- The key of a receive image. -/
def imKey (e : Bytes) : Nat × Nat × Nat := (byteAt e 1, byteAt e 2 % 4, leAt e 4 4)

/-- Do two transmit buffers share a slot and a channel? -/
def frClash (g : GwSet) (i j : Nat) : Bool :=
  let a := gwEntry g 6 i
  let b := gwEntry g 6 j
  decide (i < j) && decide (leAt a 0 2 = leAt b 0 2) && decide ((byteAt a 2 &&& byteAt b 2) % 4 ≠ 0)

/-- A valid FlexRay transmit buffer. -/
def frTx (e : Bytes) : Bool := bit (byteAt e 2) 7 && bit (byteAt e 2) 2

/-- The entry at fault in a shadow set that `GW_FLIP` refuses with `PARAM`. -/
def gwFlipParam (g : GwSet) : Option Nat :=
  match dupKey (fun i => (chPort (gwEntry g 1 i), chTc (gwEntry g 1 i))) [] (gwValids g 1 chValid) with
  | some i => some i
  | none =>
    match dupKey (fun i => imKey (gwEntry g 3 i)) [] (gwValids g 3 (fun e => imValid e && !imTx e)) with
    | some i => some i
    | none =>
      let fs := gwValids g 6 frTx
      fs.find? (fun j => fs.any (fun i => frClash g i j))

/-- The identifier of a stream on a legacy bus: that of its identification key (R185). -/
def Stream.busId (x : Stream) : Nat := x.idKey % 2 ^ 29

/-- Does a stream that enters by a legacy port leave here on Ethernet (R402)? -/
def Stream.needsChannel (x : Stream) : Bool := x.ingress && isLegacyPort x.inPort

/-- The entry at fault where the shadow set breaks a reservation (R402, R414). -/
def gwFlipState (s : State) : Option Nat :=
  let a := s.gw.active
  let b := s.gw.shadow
  let chanBad (i : Nat) : Bool :=
    let e := gwEntry a 1 i
    let f := gwEntry b 1 i
    chValid e && !(chanStreams s e).isEmpty && decide (chanQuota s e ≠ 0) &&
    (decide (chTimeout e ≠ chTimeout f) || decide (chMaxBytes e ≠ chMaxBytes f) || decide (chTc e ≠ chTc f) || !chValid f ||
     decide (chPort e ≠ chPort f))
  let linBad (i : Nat) : Bool :=
    let e := gwEntry a 5 i
    let f := gwEntry b 5 i
    let rests (g : Bytes) : Bool :=
      let n := byteAt g 0 % 8
      let t := byteAt g 0 / 16 % 8
      bit (byteAt g 7) 7 && s.reserved.any (fun x => bit x.2.outMask (64 + n) &&
        (List.range 512).any (fun j =>
          let h := gwEntry a 5 j
          bit (byteAt h 7) 7 && decide (byteAt h 0 % 8 = n) && decide (byteAt h 0 / 16 % 8 = t) && decide (byteAt h 3 = x.2.busId % 64)))
    decide (e ≠ f) && (rests e || rests f)
  let frBad (i : Nat) : Bool :=
    let e := gwEntry a 6 i
    decide (e ≠ gwEntry b 6 i) && frTx e && s.reserved.any (fun x =>
      (bit x.2.outMask 70 || bit x.2.outMask 71) && decide (x.2.busId = leAt e 0 2 % 2048))
  match (List.range 64).find? chanBad with
  | some i => some i
  | none =>
    match (List.range 512).find? linBad with
    | some i => some i
    | none => (List.range 128).find? frBad

/-- The images after a flip (R415): unchanged ones keep their data and timers. (DEDUCED, log entry 25) -/
def flipImages (s : State) : Keyed Image :=
  (List.range 1024).foldl (fun m i =>
    let e := gwEntry s.gw.active 3 i
    let f := gwEntry s.gw.shadow 3 i
    if !imValid f then kdel m i
    else if e = f then m
    else kput m i { data := slice f 32 64, written := s.lt, cyclic := s.lt + imPeriod f }) s.gw.images

/-- The counters of the gateway. -/
def gwCounters : List Nat :=
  [GW_NO_ROUTE, GW_NO_CHANNEL, GW_ENCAP_TOOBIG, GW_BATCH_SENT, GW_BATCH_PDUS, GW_UNPACKED, GW_UNPACK_SKIP, GW_UNPACK_BAD, GW_SIG_COPIES,
   GW_SIG_TIMEOUTS, GW_SIG_SENT]

/-- The sets swap (R415 steps 2 and 3). -/
def gwSwap (clear : Bool) (s : State) : State :=
  let s := batchDrain s.mem.batchWait.length s
  let s := (List.range 64).foldl (fun s i => if gwEntry s.gw.active 1 i = gwEntry s.gw.shadow 1 i then s else batchClose i s) s
  let changed (n t : Nat) : Bool := (List.range 512).any (fun i =>
    let e := gwEntry s.gw.active 5 i
    let f := gwEntry s.gw.shadow 5 i
    let mine (g : Bytes) : Bool := decide (byteAt g 0 % 8 = n) && decide (byteAt g 0 / 16 % 8 = t)
    decide (e ≠ f) && (mine e || mine f))
  let imgs := flipImages s
  let frOld := if s.fld LEG_FR_STATUS.POC = 5 then some (s.gw.frOld.getD (s.gw.active.filter (fun e => e.1 / 4096 = 6))) else none
  let s := s.modGw (fun g => { g with
    frOld := frOld, active := g.shadow, shadow := g.active, copying := true, images := imgs, sig := [], sigAt := s.lt,
    lins := g.lins.map (fun e => (e.1, { e.2 with restart := e.2.restart || changed e.1 e.2.table })) })
  let s := s.setFld GW_STATUS.ACT_GEN ((s.fld GW_STATUS.ACT_GEN + 1) % 65536)
  if clear then gwCounters.foldl (fun s a => s.setCtr a 0) s else s

/-- The reply of `GW_FLIP`. -/
def gwFlipReply (s : State) (bad : Nat) : Bytes := toLe 2 (s.fld GW_STATUS.ACT_GEN) ++ toLe 2 bad

/-- `GW_FLIP` (R414, R415). -/
def gwFlip (c : CmdCtx) (s : State) : State :=
  let s := gwCopyEnd s
  if !plenIs c 8 || 2 ≤ byteAt c.par 0 || !parZero c 1 8 then complete c 0x0802 stParam (gwFlipReply s 0xFFFF) s
  else match gwFlipParam s.gw.shadow with
    | some i => complete c 0x0802 stParam (gwFlipReply s i) s
    | none =>
      match gwFlipState s with
      | some i => complete c 0x0802 stState (gwFlipReply s i) s
      | none =>
        let s := sillAll (gwSwap (bit (byteAt c.par 0) 0) (stopBegins s))
        complete c 0x0802 stOk (gwFlipReply s 0xFFFF) s

/-- GW_FLIP (R414, R415): it waits until a stop window may start (R610). -/
def execGwFlip (c : CmdCtx) (s : State) : Res := if !stopFree s then .next s else .next (command c 0x0802 s (gwFlip c))

/-- GW_SHADOW_COPY_DONE (R415 step 5). -/
def execGwShadowCopyDone (s : State) : Res := .next (gwCopyEnd s)

/-! CAN controllers (R377 to R379, R388 to R390). -/

/-- A CAN controller. -/
def State.can (s : State) (n : Nat) : Can := kgetD s.gw.cans n {}
def State.modCan (s : State) (n : Nat) (f : Can → Can) : State := s.modGw (fun g => { g with cans := kput g.cans n (f (s.can n)) })

/-- The next data length that a DLC of CAN FD can express (R386). -/
def fdLen (n : Nat) : Nat := (fdLens.find? (fun m => decide (n ≤ m))).getD n

/-- An internal frame with other data, and their DLC. -/
def ihWithData (f d : Bytes) : Bytes := slice f 0 8 ++ toLe 2 d.length ++ toLe 2 (dlcOf (ihKind f) d.length % 2048) ++ slice f 12 36 ++ d

/-- The frame as its controller sends it (R386); none where the controller discards it, as one whose format it has not enabled. (DESIGN CHOICE, log
entry 144) -/
def busFrame (s : State) (p : Nat) (x : Pkt) : Option Bytes :=
  let f := x.bytes
  let d := ihDlen f
  if !x.internal then none
  else if isCanPort p then
    if ihKind f = 1 && 8 < d then none
    else if ihKind f = 3 && !s.flag (LEG_CAN_MODE.XL_EN (p - 40)) then none
    else if ihKind f = 2 then
      if 64 < d || !s.flag (LEG_CAN_MODE.FD_EN (p - 40)) then none else some (ihWithData f (ihData f ++ List.replicate (fdLen d - d) 0xCC))
    else some f
  else if isLinPort p then
    let n := s.fld (LEG_LIN_ID.LEN (p - 64) (ihId f % 64))
    some (ihWithData f ((ihData f).take n ++ List.replicate (n - d) 0xFF))
  else some f

/-- The transmit slots that a class may use (R388). -/
def canSlots (c : Nat) : List Nat := if 5 ≤ c then List.range 32 else (List.range 32).drop 8

/-- A free slot that a class may use. -/
def canFree (s : State) (n c : Nat) : Option Nat := (canSlots c).find? (fun k => !khas (s.can n).slots k)

/-- The place of a frame in the arbitration of ISO 11898-1: base identifier, RTR or SRR, IDE, extension. -/
def canPrio (f : Bytes) : Nat :=
  let rtr := b2n (bit (ihFlags f) 1)
  if ihIde f then ihId f / 2 ^ 18 * 2 ^ 21 + 2 ^ 20 + 2 ^ 19 + ihId f % 2 ^ 18 * 2 + rtr
  else ihId f % 2048 * 2 ^ 21 + rtr * 2 ^ 20

/-- Is a loaded slot eligible (R388)? -/
def canEligible (m : Keyed Loaded) (x : Loaded) : Bool :=
  !m.any (fun y => decide (y.2.order < x.order) &&
    ((decide (ihId y.2.frame = ihId x.frame) && decide (ihIde y.2.frame = ihIde x.frame)) || (y.2.inPort = x.inPort && y.2.tc = x.tc)))

/-- The slot that the controller offers to arbitration. -/
def canOffer (m : Keyed Loaded) : Option (Nat × Loaded) :=
  (m.filter (fun e => canEligible m e.2)).foldl (fun b e =>
    match b with
    | none => some e
    | some a => if canPrio e.2.frame < canPrio a.2.frame then some e else b) none

/-- A transmit buffer without its fresh frame, where `mine` holds of it. -/
def TxBuf.drop (b : TxBuf) (mine : Cell → Bool) : TxBuf := if b.fresh.any (fun l => mine l.cell) then { b with fresh := none } else b

/-- Discard what a legacy controller has loaded, where `mine` holds of it. -/
def loadedDrop (p : Nat) (mine : Cell → Bool) (drain : Bool) (s : State) : State :=
  if isCanPort p then
    let l := (s.can (p - 40)).slots.filter (fun e => mine e.2.cell)
    discardAll p drain (l.map (fun e => e.2.cell)) (s.modCan (p - 40) (fun c => { c with slots := c.slots.filter (fun e => !mine e.2.cell) }))
  else if isLinPort p then
    let x := kgetD s.gw.lins (p - 64) {}
    let cells := (x.bufs.filterMap (fun e => e.2.fresh.map (·.cell))).filter mine
    discardAll p drain cells (s.modGw (fun g => { g with lins := kput g.lins (p - 64) { x with bufs := x.bufs.map (fun e => (e.1, e.2.drop mine)) } }))
  else
    let cells := ((s.gw.frBufs.filter (fun e => e.1 % 2 = p - 70)).filterMap (fun e => e.2.fresh.map (·.cell))).filter mine
    discardAll p drain cells (s.modGw (fun g => { g with
      frBufs := g.frBufs.map (fun e => if e.1 % 2 = p - 70 then (e.1, e.2.drop mine) else e) }))

/-- Discard all that a legacy controller has loaded. (DEDUCED, log entry 29) -/
def loadedFlush (p : Nat) (s : State) : State :=
  let s := loadedDrop p (fun _ => true) false s
  if isLinPort p then s.modGw (fun g => { g with lins := kput g.lins (p - 64) { kgetD g.lins (p - 64) {} with answer := none } }) else s

/-- The state field that the error counters give. (PRESUMED, log entry 26) -/
def canErrState (s : State) (n : Nat) : Nat :=
  if 127 < s.fld (LEG_CAN_STATUS.TEC n) || 127 < s.fld (LEG_CAN_STATUS.REC n) then 1 else 0

/-- Bus-off (R390); a destination at the port is lost (R58). -/
def canBusOff (n : Nat) (s : State) : State :=
  let p := n + 40
  let s := ((s.setFld (LEG_CAN_STATUS.TEC n) 256).setFld (LEG_CAN_STATUS.STATE n) 2).bump (LEG_CAN_BUS_OFF n)
  let s := portDestsLost p (raise 0x0801 0 (evPay [(16, 1, p), (18, 2, 256)]) (flushPort p (loadedFlush p s)))
  s.modCan n (fun c => { c with autoAt := if s.flag (LEG_CAN_MODE.BO_AUTO n) then some (s.lt + s.fld (LEG_CAN_MODE.BO_DELAY n) * 1000000) else none })

/-- A copy departs a legacy port at the end of its transmission (R43, R243). -/
def legacyDepart (p : Nat) (frame : Bytes) (cell : Cell) (w : Span) (s : State) : State :=
  let e := s.endPoint w
  departCopy p e cell (s.emit (.frame p frame (txStart s p (e - w.ago)) e))

/-- CAN_TX_ATTEMPT_END (R388, R390): the offered slot's transmission ends. (PRESUMED, log entry 26) -/
def execCanTxAttemptEnd (p : Port) (r : CanResult) (w : Span) (s : State) : Res :=
  let n := p.val - 40
  if !isCanPort p.val || !portUp s p.val then .next s
  else match canOffer (s.can n).slots with
    | none => .next s
    | some (k, x) =>
      match r with
      | .sent =>
        let t := s.fld (LEG_CAN_STATUS.TEC n) - 1
        let s := ((s.modCan n (fun c => { c with slots := kdel c.slots k })).setFld (LEG_CAN_STATUS.TEC n) t).bump (LEG_CAN_TX_OK n)
        .next (legacyDepart p.val x.frame x.cell w (s.setFld (LEG_CAN_STATUS.STATE n) (canErrState s n)))
      | .arbitrationLost => .next (s.bump (LEG_CAN_ARB_LOST n))
      | .error =>
        let s := s.bump (LEG_CAN_ERR_FRAMES n)
        let t := s.fld (LEG_CAN_STATUS.TEC n) + 8
        if 255 < t then .next (canBusOff n s)
        else
          let s := s.setFld (LEG_CAN_STATUS.TEC n) t
          .next (s.setFld (LEG_CAN_STATUS.STATE n) (canErrState s n))

/-- BUS_OFF_DELAY_EXPIRY (R390). -/
def execBusOffDelayExpiry (p : Port) (s : State) : Res :=
  let n := p.val - 40
  match isCanPort p.val, (s.can n).autoAt with
  | true, some t =>
    if t ≤ s.lt && s.fld (LEG_CAN_STATUS.STATE n) = 2 then
      .next ((s.modCan n (fun c => { c with autoAt := none })).setFld (LEG_CAN_STATUS.STATE n) 3)
    else .next s
  | _, _ => .next s

/-- BUS_OFF_RECOVERED (R390): 128 occurrences of 11 recessive bits have been seen. -/
def execBusOffRecovered (p : Port) (s : State) : Res :=
  let n := p.val - 40
  if isCanPort p.val && s.fld (LEG_CAN_STATUS.STATE n) = 3 then
    let s := ((s.setFld (LEG_CAN_STATUS.STATE n) 0).setFld (LEG_CAN_STATUS.TEC n) 0).setFld (LEG_CAN_STATUS.REC n) 0
    .next (raise 0x0802 0 (evPay [(16, 1, p.val)]) s)
  else .next s

/-! LIN (R380, R391, R392). -/

/-- A LIN controller. -/
def State.lin (s : State) (n : Nat) : Lin := kgetD s.gw.lins n {}
def State.modLin (s : State) (n : Nat) (f : Lin → Lin) : State := s.modGw (fun g => { g with lins := kput g.lins n (f (s.lin n)) })

/-- The valid entries of a controller's table, by index. -/
def linTable (s : State) (n t : Nat) : List (Nat × Bytes) :=
  let all := ((List.range 512).map (fun i => gwEntry s.gw.active 5 i)).filter (fun e =>
    bit (byteAt e 7) 7 && decide (byteAt e 0 % 8 = n) && decide (byteAt e 0 / 16 % 8 = t))
  (List.range 64).filterMap (fun i => (all.find? (fun e => byteAt e 1 = i)).map (fun e => (i, e)))

/-- The entry after an index; none at the end of the table. -/
def linAfter (l : List (Nat × Bytes)) (i : Nat) : Option Nat := (l.find? (fun e => decide (i < e.1))).map (·.1)

/-- The first entry of a table. -/
def linFirst (l : List (Nat × Bytes)) : Nat :=
  match l with
  | e :: _ => e.1
  | [] => 0

/-- Move a commander to its next entry. -/
def linAdvance (n : Nat) (s : State) : State :=
  let x := s.lin n
  let l := linTable s n x.table
  match x.switch with
  | some t => s.modLin n (fun x => { x with table := t, entry := linFirst (linTable s n t), switch := none, restart := false, resume := none })
  | none =>
    if x.restart then s.modLin n (fun x => { x with entry := linFirst l, restart := false, resume := none })
    else
      match linAfter l x.entry with
      | some i => s.modLin n (fun x => { x with entry := i })
      | none =>
        match x.resume with
        | some (t, i) =>
          let m := linTable s n t
          s.modLin n (fun x => { x with table := t, entry := (linAfter m i).getD (linFirst m), resume := none })
        | none => s.modLin n (fun x => { x with entry := linFirst l })

/-- A collision of an event-triggered entry: its collision-resolving table runs once, unless the running table ends with this slot
(R392, R415). -/
def linCollision (n t : Nat) (s : State) : State :=
  let x := s.lin n
  if x.restart || x.switch.isSome then linAdvance n s
  else s.modLin n (fun y => { y with table := t, entry := linFirst (linTable s n t), resume := some (x.table, x.entry) })

/-- The transmit buffer of an identifier is sent without error: its fresh frame departs and the data become stale; stale data are sent again and depart
no frame; before the first data there is nothing to send (R391). -/
def linDepart (p id : Nat) (w : Span) (s : State) : State :=
  let n := p - 64
  let b := kgetD (s.lin n).bufs id {}
  match b.fresh, b.last with
  | some x, _ => legacyDepart p x.frame x.cell w (s.modLin n (fun l => { l with bufs := kput l.bufs id { fresh := none, last := some x.frame } }))
  | none, some f => s.emit (.resend p f)
  | none, none => s

/-- The error code of `EV_GW_LIN_ERROR`. -/
def linErr : LinResult → Option Nat
  | .done => none
  | .noResponse => some 0
  | .checksum => some 1
  | .framing => some 2
  | .collision => some 3

/-- A commander's slot ends with a result (R380, R391, R392); the slot lasts `DELAY` from the start of its header. (DESIGN CHOICE, log entry 144) -/
def linCommander (p : Nat) (r : LinResult) (w : Span) (s : State) : State :=
  let n := p - 64
  let x := s.lin n
  match (linTable s n x.table).find? (fun e => e.1 = x.entry) with
  | none => linAdvance n s
  | some (_, e) =>
    if s.endPoint w - w.ago < x.slotAt then s else
    let id := byteAt e 3
    let s := s.modLin n (fun y => { y with slotAt := s.endPoint w - w.ago + leAt e 4 2 * 100000 })
    let s := match linErr r with
      | some k => raise 0x0804 0 (evPay [(16, 1, p), (17, 1, id), (18, 1, k)]) s
      | none => if s.fld (LEG_LIN_ID.DIR n id) = 1 && portUp s p then linDepart p id w s else s
    if r = .collision && byteAt e 2 = 1 then linCollision n (byteAt e 6) s
    else linAdvance n s

/-- A responder's answer ends with a result: without error its data have departed, else they stay as they are (R43, R391). A buffer that was stale at
the header sends its last data again, whatever has been handed to it since. -/
def linResponder (p : Nat) (r : LinResult) (w : Span) (s : State) : State :=
  let n := p - 64
  match (s.lin n).answer with
  | none => s
  | some (id, fresh) =>
    let s := s.modLin n (fun l => { l with answer := none })
    match linErr r, fresh, (kgetD (s.lin n).bufs id {}).last with
    | some k, _, _ => raise 0x0804 0 (evPay [(16, 1, p), (17, 1, id), (18, 1, k)]) s
    | none, true, _ => linDepart p id w s
    | none, false, some f => s.emit (.resend p f)
    | none, false, none => s

/-- LIN_SLOT_END (R380, R391, R392): a commander's slot, or the answer of a responder, ends with a result. (DESIGN CHOICE, log entry 132) -/
def execLinSlotEnd (p : Port) (r : LinResult) (w : Span) (s : State) : Res :=
  if !isLinPort p.val then .next s
  else match s.fld (LEG_LIN_CFG.ROLE (p.val - 64)) with
    | 1 => .next (linCommander p.val r w s)
    | 2 => .next (linResponder p.val r w s)
    | _ => .next s

/-- LIN_HEADER_RECEIVED (R380, R391): a responder receives a header; with `AUTOBAUD` it takes the measured baud rate; a published
identifier is answered from its buffer, until LIN_SLOT_END. (DESIGN CHOICE, log entry 132) -/
def execLinHeaderReceived (p : Port) (id : Fin 64) (baud : Nat) (s : State) : Res :=
  let n := p.val - 64
  if !isLinPort p.val || s.fld (LEG_LIN_CFG.ROLE n) ≠ 2 then .next s
  else
    let s := if s.flag (LEG_LIN_CFG.AUTOBAUD n) then s.setFld (LEG_LIN_CFG.BAUD n) (clamp 1000 20000 baud) else s
    let b := kgetD (s.lin n).bufs id.val {}
    let answers := s.fld (LEG_LIN_ID.DIR n id.val) = 1 && portUp s p.val && (b.fresh.isSome || b.last.isSome)
    .next (s.modLin n (fun l => { l with answer := if answers then some (id.val, b.fresh.isSome) else none }))

/-! FlexRay (R381, R391, R393). -/

/-- A message buffer as it acts now: one that a flip changed acts from the next cycle start (R415). -/
def frEntry (s : State) (i : Nat) : Bytes := gwEntry (s.gw.frOld.getD s.gw.active) 6 i

/-- Is a message buffer a transmit buffer of a slot on a channel (0 A, 1 B)? -/
def frServes (e : Bytes) (slot ch : Nat) : Bool := frTx e && decide (leAt e 0 2 % 2048 = slot) && bit (byteAt e 2) ch

/-- The transmit buffer of a slot on a channel. -/
def frBuffer (s : State) (slot ch : Nat) : Option Nat := (List.range 128).find? (fun i => frServes (frEntry s i) slot ch)

/-- Fresh frames whose buffers no longer serve their slots. -/
def frStray (s : State) (ch : Nat) (cell : Cell) : Bool :=
  s.gw.frBufs.any (fun e => e.1 % 2 = ch && e.2.fresh.any (fun x => decide (x.cell = cell) && !frServes (frEntry s (e.1 / 2)) (ihId x.frame % 2048) ch))

/-- A cycle starts: changed message buffers act, and a frame in a buffer that no longer serves its slot is discarded. (DESIGN CHOICE, log entry 144) -/
def frTake (s : State) : State :=
  if s.gw.frOld.isNone then s
  else
    let s := s.modGw (fun g => { g with frOld := none })
    let s := loadedDrop 70 (frStray s 0) false s
    loadedDrop 71 (frStray s 1) false s

/-- One channel of a slot: fresh data depart; a static slot that its buffer's filter gives it, and whose buffer is stale, carries a null frame
(R391). -/
def frSlot (slot cycle ch : Nat) (w : Span) (s : State) : State :=
  match frBuffer s slot ch with
  | none => s
  | some i =>
    let e := frEntry s i
    if cycle % byteAt e 4 = byteAt e 3 % byteAt e 4 && portUp s (70 + ch) then
      match (kgetD s.gw.frBufs (i * 2 + ch) {}).fresh with
      | none => if slot ≤ s.fld LEG_FR_SEGMENTS.STATIC_SLOTS then s.emit (.nullFrame (70 + ch) slot) else s
      | some x =>
        let d := (ihData x.frame).take (byteAt e 5 * 2) ++ List.replicate (byteAt e 5 * 2 - ihDlen x.frame) 0
        let f := ihWithData x.frame d
        legacyDepart (70 + ch) f x.cell w (s.modGw (fun g => { g with frBufs := kput g.frBufs (i * 2 + ch) { fresh := none, last := some f } }))
    else s

/-- FLEXRAY_SLOT (R391, R393): a slot ends on both channels, in a cycle. -/
def execFlexraySlot (slot : Nat) (cycle : Fin 64) (w : Span) (s : State) : Res :=
  let s := if s.fld LEG_FR_STATUS.CYCLE = cycle.val then s else frTake s
  let s := s.setFld LEG_FR_STATUS.CYCLE cycle.val
  if s.fld LEG_FR_STATUS.POC = 5 then .next (frSlot slot cycle.val 1 w (frSlot slot cycle.val 0 w s)) else .next s

/-- The POC takes a new state. (PRESUMED, log entry 26) -/
def frPoc (new : Nat) (s : State) : State :=
  let old := s.fld LEG_FR_STATUS.POC
  if new = old then s else raise 0x0805 0 (evPay [(16, 1, new), (17, 1, old)]) (frTake (s.setFld LEG_FR_STATUS.POC new))

/-- FLEXRAY_POC_STATE_CHANGE (R381, R418). -/
def execFlexrayPocStateChange (poc : Fin 16) (s : State) : Res := .next (frPoc poc.val s)

/-! Handing a frame to a legacy controller (R388, R391). -/

/-- Can a legacy port take the head frame of a class now? A frame that its controller would discard can be taken. -/
def legacyReady (s : State) (p c : Nat) (x : Pkt) : Bool :=
  match busFrame s p x with
  | none => true
  | some f =>
    if isCanPort p then (canFree s (p - 40) c).isSome
    else if isLinPort p then (kgetD (s.lin (p - 64)).bufs (ihId f % 64) {}).fresh.isNone
    else match frBuffer s (ihId f % 2048) (p - 70) with
      | none => true
      | some i => (kgetD s.gw.frBufs (i * 2 + (p - 70)) {}).fresh.isNone

/-- Hand a copy that has left its queue to the controller of its port. -/
def legacyLoad (p c : Nat) (cell : Cell) (x : Pkt) (s : State) : State :=
  match busFrame s p x with
  | none => discardCopy p cell false s
  | some f =>
    if isCanPort p then
      match canFree s (p - 40) c with
      | none => discardCopy p cell false s
      | some k => s.modCan (p - 40) (fun m => { m with
          slots := kput m.slots k { cell := cell, tc := c, inPort := x.inPort, frame := f, order := m.order }, order := m.order + 1 })
    else
      let l : Loaded := { cell := cell, tc := c, inPort := x.inPort, frame := f, order := 0 }
      if isLinPort p then
        s.modLin (p - 64) (fun m => { m with bufs := kmod m.bufs (ihId f % 64) {} (fun b => { b with fresh := some l }) })
      else match frBuffer s (ihId f % 2048) (p - 70) with
        | none => discardCopy p cell false s
        | some i => s.modGw (fun g => { g with frBufs := kmod g.frBufs (i * 2 + (p - 70)) {} (fun b => { b with fresh := some l }) })

/-! `GW_BUS` (R416). -/

/-- Do the segments of the FlexRay settings fit in the cycle? -/
def frFits (s : State) : Bool :=
  decide (s.fld LEG_FR_SEGMENTS.STATIC_SLOTS * s.fld LEG_FR_SEGMENTS.SLOT_MT +
    s.fld LEG_FR_DYN.MINISLOTS * s.fld LEG_FR_SEGMENTS.MINISLOT_MT ≤ s.fld LEG_FR_CYCLE.CYCLE_MT)

/-- The state after a POC command; none where it is not allowed. (PRESUMED, log entry 26) -/
def frCommand (s : State) (k : Nat) : Option Nat :=
  let poc := s.fld LEG_FR_STATUS.POC
  match k with
  | 0 => if poc = 0 || poc = 2 then some 1 else if poc = 7 then some 0 else none
  | 1 => if (poc = 1 || poc = 2) && frFits s then some 4 else none
  | 2 => if poc = 5 || poc = 6 then some 7 else none
  | _ => some 7

/-- Set the `MODE` of a CAN controller: one that leaves `MODE` 1 is no longer up, and a destination there is lost (R58, R379,
R649). -/
def canSetMode (n m : Nat) (s : State) : State :=
  let up := portUp s (n + 40)
  let s := s.setFld (LEG_CAN_MODE.MODE n) m
  if m = 1 then s
  else
    let s := flushPort (n + 40) (loadedFlush (n + 40) s)
    if up then portDestsLost (n + 40) s else s

/-- `GW_BUS` (R416). -/
def gwBus (c : CmdCtx) (s : State) : State :=
  let p := byteAt c.par 0
  let op := byteAt c.par 1
  let k := byteAt c.par 2
  let fin (st : Nat) (s : State) : State := complete c 0x0805 st [] s
  if !plenIs c 8 || !isLegacyPort p || 3 < op || !parZero c 3 8 || (op = 1 && k ≠ 0) then fin stParam s
  else match op with
    | 0 =>
      if 7 < k then fin stParam s
      else if isLinPort p && s.fld (LEG_LIN_CFG.ROLE (p - 64)) = 1 then fin stOk (s.modLin (p - 64) (fun x => { x with switch := some k }))
      else fin stState s
    | 1 =>
      if isCanPort p && s.fld (LEG_CAN_STATUS.STATE (p - 40)) = 2 then
        fin stOk ((s.modCan (p - 40) (fun x => { x with autoAt := none })).setFld (LEG_CAN_STATUS.STATE (p - 40)) 3)
      else fin stState s
    | 2 =>
      if 3 < k then fin stParam s
      else if isCanPort p then fin stOk (canSetMode (p - 40) k s)
      else fin stState s
    | _ =>
      if 3 < k then fin stParam s
      else if p < 70 then fin stState s
      else match frCommand s k with
        | some n => fin stOk (frPoc n s)
        | none => fin stState s

/-- GW_BUS_SELECT_TABLE (R416). -/
def execGwBusSelectTable (c : CmdCtx) (s : State) : Res := .next (command c 0x0805 s (gwBus c))
/-- GW_BUS_RECOVER (R416, R390). -/
def execGwBusRecover (c : CmdCtx) (s : State) : Res := .next (command c 0x0805 s (gwBus c))
/-- GW_BUS_SET_MODE (R416, R379). -/
def execGwBusSetMode (c : CmdCtx) (s : State) : Res := .next (command c 0x0805 s (gwBus c))
/-- GW_BUS_POC_COMMAND (R416, R381). -/
def execGwBusPocCommand (c : CmdCtx) (s : State) : Res := .next (command c 0x0805 s (gwBus c))

/-! Register writes (R378, R381). -/

/-- The bit-timing registers of a controller: 0 nominal, 1 data, 2 XL. -/
def btReg (n r : Nat) : Nat := if r = 0 then LEG_CAN_NBT n else if r = 1 then LEG_CAN_DBT n else LEG_CAN_XBT n

/-- Write a bit-timing register. -/
def bitTimingWrite (n r v : Nat) (s : State) : State :=
  if s.fld (LEG_CAN_MODE.MODE n) = 0 then s.setReg (btReg n r) (v % 2 ^ 32 / 4 * 4) else s.setFld (LEG_CAN_STATUS.BAD_WR n) 1

/-- CAN_BIT_TIMING_WRITE (R378). -/
def execCanBitTimingWrite (src : Src) (n : Fin 24) (r : Fin 3) (value : Nat) (s : State) : Res :=
  .next (busRow src (bitTimingWrite n.val r.val value) s)

/-- Write a FlexRay configuration register: 0 CFG, 1 CYCLE, 2 SEGMENTS, 3 DYN. -/
def frConfigWrite (r v : Nat) (s : State) : State :=
  if s.fld LEG_FR_STATUS.POC ≠ 0 then s.setFld LEG_FR_STATUS.BAD_WR 1
  else match r with
    | 0 => s.setReg LEG_FR_CFG (bits v 29 16 * 2 ^ 16 + (if bits v 31 30 = 3 then 0 else bits v 31 30) * 2 ^ 30)
    | 1 => s.setReg LEG_FR_CYCLE (v % 2 ^ 32)
    | 2 => s.setReg LEG_FR_SEGMENTS (v % 2 ^ 32)
    | _ => s.setReg LEG_FR_DYN (v % 2 ^ 13)

/-- FLEXRAY_CONFIG_WRITE (R381). -/
def execFlexrayConfigWrite (src : Src) (r : Fin 4) (value : Nat) (s : State) : Res :=
  .next (busRow src (frConfigWrite r.val value) s)

/-! Reception (R127, R384). -/

/-- Does a legacy slice receive now? -/
def legacyListens (s : State) (p : Nat) : Bool :=
  decide (s.fld (WAKE_PORT_STATUS.STATE p) ≤ 1) &&
  (if isCanPort p then s.fld (WAKE_PORT_STATUS.STATE p) = 1 || decide (s.fld (LEG_CAN_MODE.MODE (p - 40)) ≠ 0)
   else if isLinPort p then decide (s.fld (LEG_LIN_CFG.ROLE (p - 64)) ≠ 0)
   else true)

/-- A reception without or with an error moves the receive error counter of a CAN controller that signals errors. -/
def canRec (p : Nat) (ok : Bool) (s : State) : State :=
  let n := p - 40
  let r := s.fld (LEG_CAN_STATUS.REC n)
  if isCanPort p && s.fld (LEG_CAN_MODE.MODE n) = 1 && s.fld (LEG_CAN_STATUS.STATE n) < 2 then
    let s := s.setFld (LEG_CAN_STATUS.REC n) (if ok then (if 127 < r then 127 else r - 1) else min 255 (r + 1))
    s.setFld (LEG_CAN_STATUS.STATE n) (canErrState s n)
  else s

/-- A legacy slice has completed a PDU (R127, R384). -/
def legacyPdu (p : Nat) (ok : Bool) (u : LegPdu) (w : Span) (s : State) : State :=
  if !isLegacyPort p || !legacyListens s p then s
  else
    let s := canRec p ok s
    if !ok then s.bump (PORT_RX_CRC_ERR p)
    else if s.mem.stopped then s.bump (PORT_RX_DROP p)
    else
      let u := { u with start := rxStart s p w }
      let s := sigWrite p false u s
      match rtFrame s p false u with
      | some f => accept { bytes := f, internal := true, inPort := p, start := u.start, arrive := s.endPoint w } s
      | none => (rxOk p s).bump GW_NO_ROUTE

end Sys2Proof.Machine
end

