-- ==== Sys2Proof/Machine/Crypto.lean ====
section
/-! DEFINITION. The algorithms that chapter 12 names by their standards: AES (FIPS 197), AES-CMAC, AES-GCM, RFC 3394 unwrapping, the
counter-mode KDF of SP 800-108, SHA-384 and ECDSA over P-384 (PRESUMED from those standards; log entry 30). -/

namespace Sys2Proof.Machine

/-! AES. -/

/-- The S-box of AES (FIPS 197), byte x in bits [8x + 7:8x]. -/
def aesSbox : Nat :=
  0x16bb54b00f2d99416842e6bf0d89a18cdf2855cee9871e9b948ed9691198f8e19e1dc186b95735610ef6034866b53e708a8bbd4b1f74dde8c6b4a61c2e2578ba08ae7a65eaf4566ca94ed58d6d37c8e779e4959162acd3c25c2406490a3a32e0db0b5ede14b8ee4688902a22dc4f816073195d643d7ea7c41744975fec130ccdd2f3ff1021dab6bcf5389d928f40a351a89f3c507f02f94585334d43fbaaefd0cf584c4a39becb6a5bb1fc20ed00d153842fe329b3d63b52a05a6e1b1a2c830975b227ebe28012079a059618c323c7041531d871f1e5a534ccf73f362693fdb7c072a49cafa2d4adf04759fa7dc982ca76abd7fe2b670130c56f6bf27b777c63

/-- The inverse S-box, in the same form. -/
def aesInvSbox : Nat :=
  0x7d0c2155631469e126d677ba7e042b17619953833cbbebc8b0f52aae4d3be0a0ef9cc9939f7ae52d0d4ab519a97f51605fec8027591012b131c7078833a8dd1ff45acd78fec0db9a2079d2c64b3e56fc1bbe18aa0e62b76f89c5291d711af1476edf751ce837f9e28535ade72274ac9673e6b4f0cecff297eadc674f4111913a6b8a130103bdafc1020f3fca8f1e2cd00645b3b80558e4f70ad3bc8c00abd890849d8da75746155edab9edfd5048706c92b6655dcc5ca4d41698688664f6f87225d18b6d49a25b76b224d92866a12e084ec3fa420b954cee3d23c2a632947b54cbe9dec444438e3487ff2f9b8239e37cfbd7f3819ea340bf38a53630d56a0952

/-- One S-box look-up. -/
def subByte (x : Nat) : Nat := aesSbox / 2 ^ (8 * x) % 256
def invSubByte (x : Nat) : Nat := aesInvSbox / 2 ^ (8 * x) % 256

/-- Multiplication by x in GF(2^8). -/
def xtime (a : Nat) : Nat := if 128 ≤ a then (a * 2 % 256) ^^^ 0x1b else a * 2

/-- Multiplication in GF(2^8) by a constant below 16. -/
def gmul8 (k a : Nat) : Nat :=
  let a2 := xtime a
  let a4 := xtime a2
  let a8 := xtime a4
  (if bit k 0 then a else 0) ^^^ (if bit k 1 then a2 else 0) ^^^ (if bit k 2 then a4 else 0) ^^^ (if bit k 3 then a8 else 0)

/-- The four bytes of a key-schedule word through the S-box. -/
def subWord (w : Nat) : Nat :=
  subByte (w / 2 ^ 24 % 256) * 2 ^ 24 + subByte (w / 2 ^ 16 % 256) * 2 ^ 16 + subByte (w / 2 ^ 8 % 256) * 2 ^ 8 + subByte (w % 256)

/-- The key schedule, newest word first: n further words after those of the key. -/
def keyWords (nk : Nat) : Nat → Nat → Nat → List Nat → List Nat
  | 0, _, _, ws => ws
  | n + 1, i, rcon, ws =>
    let prev := nth' ws 0
    let old := nth' ws (nk - 1)
    let rot := prev * 256 % 2 ^ 32 + prev / 2 ^ 24
    if i % nk = 0 then keyWords nk n (i + 1) (xtime rcon) ((old ^^^ subWord rot ^^^ (rcon * 2 ^ 24)) :: ws)
    else if 6 < nk && i % nk = 4 then keyWords nk n (i + 1) rcon ((old ^^^ subWord prev) :: ws)
    else keyWords nk n (i + 1) rcon ((old ^^^ prev) :: ws)
where
  nth' (l : List Nat) (k : Nat) : Nat := (l[k]?).getD 0

/-- Cut a list into pieces of n. -/
def chunks {α : Type} (n : Nat) : Nat → List α → List (List α)
  | 0, _ => []
  | fuel + 1, l => if l.isEmpty then [] else l.take n :: chunks n fuel (l.drop n)

/-- The round keys of a 128-bit or 256-bit key, 16 bytes each, as numbers. -/
def roundKeys (key : Bytes) : List (List Nat) :=
  let nk := if key.length = 32 then 8 else 4
  let rounds := nk + 6
  let first := ((chunks 4 nk key).map be).reverse
  let ws := (keyWords nk (4 * (rounds + 1) - nk) nk 1 first).reverse
  let bytes := ws.flatMap (fun w => [w / 2 ^ 24 % 256, w / 2 ^ 16 % 256, w / 2 ^ 8 % 256, w % 256])
  chunks 16 (rounds + 1) bytes

/-- XOR of two lists. -/
def xorL (a b : List Nat) : List Nat := List.zipWith (· ^^^ ·) a b

/-- Rows shifted left (dir 1) or right (dir 3) by their number. -/
def shiftRows (dir : Nat) (s : List Nat) : List Nat :=
  (List.range 16).map (fun i => (s[(i % 4) + 4 * ((i / 4 + dir * (i % 4)) % 4)]?).getD 0)

/-- One column times a circulant matrix. -/
def mixCol (k0 k1 k2 k3 : Nat) (col : List Nat) : List Nat :=
  let g (i : Nat) := (col[i % 4]?).getD 0
  (List.range 4).map (fun i => gmul8 k0 (g i) ^^^ gmul8 k1 (g (i + 1)) ^^^ gmul8 k2 (g (i + 2)) ^^^ gmul8 k3 (g (i + 3)))

/-- All columns. -/
def mixCols (k0 k1 k2 k3 : Nat) (s : List Nat) : List Nat := (chunks 4 4 s).flatMap (mixCol k0 k1 k2 k3)

/-- The rounds of the cipher after the first key addition. -/
def aesRounds : List (List Nat) → List Nat → List Nat
  | [], s => s
  | [k], s => xorL (shiftRows 1 (s.map subByte)) k
  | k :: r, s => aesRounds r (xorL (mixCols 2 3 1 1 (shiftRows 1 (s.map subByte))) k)

/-- The rounds of the inverse cipher, keys last first. -/
def aesInvRounds : List (List Nat) → List Nat → List Nat
  | [], s => s
  | [k], s => xorL ((shiftRows 3 s).map invSubByte) k
  | k :: r, s => aesInvRounds r (mixCols 14 11 13 9 (xorL ((shiftRows 3 s).map invSubByte) k))

/-- The 16 bytes of a block as numbers, and back. -/
def blockNats (b : Bytes) : List Nat := (slice b 0 16).map (·.toNat)

/-- AES of one block under expanded keys. -/
def aesWith (ks : List (List Nat)) (b : Bytes) : Bytes :=
  match ks with
  | [] => b
  | k :: r => (aesRounds r (xorL (blockNats b) k)).map byte

/-- AES of one block. (PRESUMED, log entry 30) -/
def aes (key b : Bytes) : Bytes := aesWith (roundKeys key) b

/-- The inverse cipher on one block. -/
def aesInv (key b : Bytes) : Bytes :=
  match (roundKeys key).reverse with
  | [] => b
  | k :: r => (aesInvRounds r (xorL (blockNats b) k)).map byte

/-- XOR of byte strings. -/
def xorB (a b : Bytes) : Bytes := List.zipWith (· ^^^ ·) a b

/-! CMAC (RFC 4493). -/

/-- Doubling in GF(2^128) for CMAC. -/
def cmacDouble (x : Nat) : Nat := if bit x 127 then (x * 2 % 2 ^ 128) ^^^ 0x87 else x * 2

/-- The chain over whole blocks. -/
def cmacChain (ks : List (List Nat)) (x : Bytes) (bs : List Bytes) : Bytes := bs.foldl (fun x b => aesWith ks (xorB x b)) x

/-- AES-CMAC. (PRESUMED, log entry 30) -/
def cmac (key msg : Bytes) : Bytes :=
  let ks := roundKeys key
  let k1 := cmacDouble (be (aesWith ks (zeros 16)))
  let k2 := cmacDouble k1
  let full := msg.length % 16 = 0 && decide (msg.length ≠ 0)
  let n := if full then msg.length - 16 else msg.length / 16 * 16
  let last := msg.drop n
  let last := if full then xorB last (toBe 16 k1) else xorB (slice (last ++ [0x80]) 0 16) (toBe 16 k2)
  aesWith ks (xorB (cmacChain ks (zeros 16) (chunks 16 (n / 16) (msg.take n))) last)

/-! GCM (SP 800-38D). -/

/-- The product of GHASH: bit 127 of a number is the block's first bit. -/
def ghashMul (x y : Nat) : Nat :=
  ((List.range 128).foldl (fun (zv : Nat × Nat) i =>
    (if bit x (127 - i) then zv.1 ^^^ zv.2 else zv.1, if bit zv.2 0 then (zv.2 / 2) ^^^ (0xe1 * 2 ^ 120) else zv.2 / 2)) (0, y)).1

/-- Padding with zeros to a multiple of 16. -/
def pad16 (b : Bytes) : Bytes := b ++ zeros ((16 - b.length % 16) % 16)

/-- GHASH over additional data and ciphertext. -/
def ghash (h : Nat) (aad ct : Bytes) : Nat :=
  let d := pad16 aad ++ pad16 ct ++ toBe 8 (aad.length * 8) ++ toBe 8 (ct.length * 8)
  (chunks 16 (d.length / 16) d).foldl (fun y b => ghashMul (y ^^^ be b) h) 0

/-- The key stream from a counter on. -/
def gcmStream (ks : List (List Nat)) (iv : Bytes) : Nat → Nat → Bytes
  | 0, _ => []
  | n + 1, i => aesWith ks (slice iv 0 12 ++ toBe 4 i) ++ gcmStream ks iv n (i + 1)

/-- Encryption or decryption of the text under a 96-bit IV. (PRESUMED, log entry 30) -/
def gcmCrypt (key iv d : Bytes) : Bytes := xorB d (gcmStream (roundKeys key) iv ((d.length + 15) / 16) 2)

/-- The tag over additional data and ciphertext. (PRESUMED, log entry 30) -/
def gcmTag (key iv aad ct : Bytes) : Bytes :=
  let ks := roundKeys key
  let h := be (aesWith ks (zeros 16))
  xorB (toBe 16 (ghash h aad ct)) (aesWith ks (slice iv 0 12 ++ toBe 4 1))

/-! Key unwrapping (RFC 3394) and the KDF of SP 800-108. -/

/-- One step of unwrapping: A and the registers, for a counter t, on register i of n. -/
def unwrapStep (key : Bytes) (n : Nat) (st : Bytes × List Bytes) (t : Nat) : Bytes × List Bytes :=
  let i := (t - 1) % n
  let a := toBe 8 (be st.1 ^^^ t)
  let b := aesInv key (a ++ (st.2[i]?).getD [])
  (b.take 8, st.2.set i (b.drop 8))

/-- Unwrap a key; none when the check value is wrong. (PRESUMED, log entry 30) -/
def keyUnwrap (key ct : Bytes) : Option Bytes :=
  let n := ct.length / 8 - 1
  let ts := ((List.range (6 * n)).map (· + 1)).reverse
  let r := ts.foldl (unwrapStep key n) (ct.take 8, chunks 8 n (ct.drop 8))
  if r.1 = List.replicate 8 0xA6 then some r.2.flatten else none

/-- The counter-mode KDF with AES-CMAC for a key of n bytes (R437). (PRESUMED, log entry 30) -/
def kdf (key label ctx : Bytes) (n : Nat) : Bytes :=
  let block (i : Nat) : Bytes := cmac key (toBe 4 i ++ label ++ [0] ++ ctx ++ toBe 4 (8 * n))
  (block 1 ++ block 2).take n

/-! SHA-384 (FIPS 180-4). -/

/-- The constants of SHA-512 and SHA-384. -/
def shaK : List Nat :=
  [0x428a2f98d728ae22, 0x7137449123ef65cd, 0xb5c0fbcfec4d3b2f, 0xe9b5dba58189dbbc,
   0x3956c25bf348b538, 0x59f111f1b605d019, 0x923f82a4af194f9b, 0xab1c5ed5da6d8118,
   0xd807aa98a3030242, 0x12835b0145706fbe, 0x243185be4ee4b28c, 0x550c7dc3d5ffb4e2,
   0x72be5d74f27b896f, 0x80deb1fe3b1696b1, 0x9bdc06a725c71235, 0xc19bf174cf692694,
   0xe49b69c19ef14ad2, 0xefbe4786384f25e3, 0x0fc19dc68b8cd5b5, 0x240ca1cc77ac9c65] ++
  [0x2de92c6f592b0275, 0x4a7484aa6ea6e483, 0x5cb0a9dcbd41fbd4, 0x76f988da831153b5,
   0x983e5152ee66dfab, 0xa831c66d2db43210, 0xb00327c898fb213f, 0xbf597fc7beef0ee4,
   0xc6e00bf33da88fc2, 0xd5a79147930aa725, 0x06ca6351e003826f, 0x142929670a0e6e70,
   0x27b70a8546d22ffc, 0x2e1b21385c26c926, 0x4d2c6dfc5ac42aed, 0x53380d139d95b3df,
   0x650a73548baf63de, 0x766a0abb3c77b2a8, 0x81c2c92e47edaee6, 0x92722c851482353b] ++
  [0xa2bfe8a14cf10364, 0xa81a664bbc423001, 0xc24b8b70d0f89791, 0xc76c51a30654be30,
   0xd192e819d6ef5218, 0xd69906245565a910, 0xf40e35855771202a, 0x106aa07032bbd1b8,
   0x19a4c116b8d2d0c8, 0x1e376c085141ab53, 0x2748774cdf8eeb99, 0x34b0bcb5e19b48a8,
   0x391c0cb3c5c95a63, 0x4ed8aa4ae3418acb, 0x5b9cca4f7763e373, 0x682e6ff3d6b2b8a3,
   0x748f82ee5defb2fc, 0x78a5636f43172f60, 0x84c87814a1f0ab72, 0x8cc702081a6439ec] ++
  [0x90befffa23631e28, 0xa4506cebde82bde9, 0xbef9a3f7b2c67915, 0xc67178f2e372532b,
   0xca273eceea26619c, 0xd186b8c721c0c207, 0xeada7dd6cde0eb1e, 0xf57d4f7fee6ed178,
   0x06f067aa72176fba, 0x0a637dc5a2c898a6, 0x113f9804bef90dae, 0x1b710b35131c471b,
   0x28db77f523047d84, 0x32caab7b40c72493, 0x3c9ebe0a15c9bebc, 0x431d67c49c100d4c,
   0x4cc5d4becb3e42b6, 0x597f299cfc657e2a, 0x5fcb6fab3ad6faec, 0x6c44198c4a475817]

/-- The initial value of SHA-384. -/
def shaInit : List Nat :=
  [0xcbbb9d5dc1059ed8, 0x629a292a367cd507, 0x9159015a3070dd17, 0x152fecd8f70e5939,
   0x67332667ffc00b31, 0x8eb44a8768581511, 0xdb0c2e0d64f98fa7, 0x47b5481dbefa4fa4]

/-- Rotation and addition of 64-bit words. -/
def rotr64 (x n : Nat) : Nat := x / 2 ^ n + x % 2 ^ n * 2 ^ (64 - n)
def add64 (a b : Nat) : Nat := (a + b) % 2 ^ 64

/-- The message schedule: the newest word first, n words to go. -/
def shaSchedule : Nat → List Nat → List Nat
  | 0, ws => ws
  | n + 1, ws =>
    let g (k : Nat) := (ws[k - 1]?).getD 0
    let s0 := rotr64 (g 15) 1 ^^^ rotr64 (g 15) 8 ^^^ (g 15 / 2 ^ 7)
    let s1 := rotr64 (g 2) 19 ^^^ rotr64 (g 2) 61 ^^^ (g 2 / 2 ^ 6)
    shaSchedule n (add64 (add64 (g 16) s0) (add64 (g 7) s1) :: ws)

/-- One round on the working variables a to h. -/
def shaRound (v : List Nat) (kw : Nat × Nat) : List Nat :=
  match v with
  | [a, b, c, d, e, f, g, h] =>
    let s1 := rotr64 e 14 ^^^ rotr64 e 18 ^^^ rotr64 e 41
    let ch := (e &&& f) ^^^ ((2 ^ 64 - 1 - e) &&& g)
    let t1 := add64 (add64 h s1) (add64 (add64 ch kw.1) kw.2)
    let s0 := rotr64 a 28 ^^^ rotr64 a 34 ^^^ rotr64 a 39
    let maj := (a &&& b) ^^^ (a &&& c) ^^^ (b &&& c)
    [add64 t1 (add64 s0 maj), a, b, c, add64 d t1, e, f, g]
  | _ => v

/-- One block of 128 bytes. -/
def shaBlock (h : List Nat) (b : Bytes) : List Nat :=
  let ws := (shaSchedule 64 ((chunks 8 16 b).map be).reverse).reverse
  List.zipWith add64 h ((List.zip shaK ws).foldl shaRound h)

/-- SHA-384. (PRESUMED, log entry 30) -/
def sha384 (m : Bytes) : Bytes :=
  let d := m ++ [0x80] ++ zeros ((240 - (m.length + 1) % 128) % 128) ++ toBe 16 (m.length * 8)
  let h := (chunks 128 (d.length / 128) d).foldl shaBlock shaInit
  (h.take 6).flatMap (toBe 8)

/-! ECDSA over P-384 (FIPS 186-4). -/

/-- The field prime, the curve coefficient b, the order and the base point of P-384. -/
def p384 : Nat := 0xfffffffffffffffffffffffffffffffffffffffffffffffffffffffffffffffeffffffff0000000000000000ffffffff
def p384b : Nat := 0xb3312fa7e23ee7e4988e056be3f82d19181d9c6efe8141120314088f5013875ac656398d8a2ed19d2a85c8edd3ec2aef
def p384n : Nat := 0xffffffffffffffffffffffffffffffffffffffffffffffffc7634d81f4372ddf581a0db248b0a77aecec196accc52973
def p384x : Nat := 0xaa87ca22be8b05378eb1c71ef320ad746e1d3b628ba79b9859f741e082542a385502f25dbf55296c3a545e3872760ab7
def p384y : Nat := 0x3617de4a96262c6f5d9e98bf9292dc29f8f41dbd289a147ce9da3113b5f0b8c00a60b1ce1d7e819d7a431d7c90ea0e5f

/-- Modular power over the bits of the exponent, highest first. -/
def powMod (m a : Nat) (es : List Bool) : Nat := es.foldl (fun r e => if e then r * r % m * a % m else r * r % m) 1

/-- The bits of a number below 2^384, highest first. -/
def bits384 (n : Nat) : List Bool := ((List.range 384).map (fun i => bit n i)).reverse

/-- The inverse modulo a prime. -/
def invMod (m a : Nat) : Nat := powMod m (a % m) (bits384 (m - 2))

/-- Subtraction modulo m. -/
def subMod (m a b : Nat) : Nat := (a + m - b % m) % m

/-- The sum of two points; none is the point at infinity. -/
def ecAdd (a b : Option (Nat × Nat)) : Option (Nat × Nat) :=
  match a, b with
  | none, q => q
  | q, none => q
  | some (x1, y1), some (x2, y2) =>
    if x1 = x2 && (y1 + y2) % p384 = 0 then none
    else
      let l := if x1 = x2 then subMod p384 (3 * x1 * x1) 3 * invMod p384 (2 * y1) % p384
        else subMod p384 y2 y1 * invMod p384 (subMod p384 x2 x1) % p384
      let x := subMod p384 (l * l) (x1 + x2)
      some (x, subMod p384 (l * subMod p384 x1 x) y1)

/-- A multiple of a point. -/
def ecMul (k : Nat) (q : Option (Nat × Nat)) : Option (Nat × Nat) :=
  (bits384 k).foldl (fun r e => let d := ecAdd r r; if e then ecAdd d q else d) none

/-- Is a pair of coordinates a point of the curve? -/
def onCurve (x y : Nat) : Bool :=
  decide (x < p384) && decide (y < p384) && decide (y * y % p384 = subMod p384 (x * x % p384 * x + p384b) (3 * x))

/-- Verification of a signature r ‖ s over a digest under a public key. (PRESUMED, log entry 30) -/
def ecdsaVerify (qx qy : Nat) (digest sig : Bytes) : Bool :=
  let r := beAt sig 0 48
  let s := beAt sig 48 48
  if onCurve qx qy && decide (0 < r) && decide (r < p384n) && decide (0 < s) && decide (s < p384n) then
    let w := invMod p384n s
    let u1 := be (slice digest 0 48) * w % p384n
    let u2 := r * w % p384n
    match ecAdd (ecMul u1 (some (p384x, p384y))) (ecMul u2 (some (qx, qy))) with
    | some (x, _) => decide (x % p384n = r)
    | none => false
  else false

end Sys2Proof.Machine
end

