-- ==== Sys2Proof/Machine/Keys.lean ====
section
/-! DEFINITION. The key store (chapter 12): slots, blobs, derivation, replacement and commit, export. -/

namespace Sys2Proof.Machine

/-- A key slot. -/
def State.slot (s : State) (n : Nat) : Slot := kgetD s.keys.slots n {}

/-- Replace a key slot. -/
def State.setSlot (s : State) (n : Nat) (x : Slot) : State := { s with keys := { s.keys with slots := kput s.keys.slots n x } }

/-- The active key of a slot; slot 0 holds the root key (R433). -/
def slotKey (s : State) (n : Nat) : Option Bytes :=
  if n = 0 then some (toBe 32 Config.rootKey) else (s.slot n).act.map (·.key)

/-- The use attribute of a slot: the root key is derive-only (R433). -/
def slotAttr (s : State) (n : Nat) : Option Nat := if n = 0 then some 3 else (s.slot n).attr

/-- The active key of a slot that permits a use; none where any other use ends in `STATE` (R433). (DEDUCED, log entry 32) -/
def keyFor (s : State) (n attr : Nat) : Option Bytes := if slotAttr s n = some attr then slotKey s n else none

/-- The MACsec SAs that refer to a slot (R425). -/
def saRefs (s : State) (n : Nat) : Nat :=
  (s.keys.msec.map (fun m => ((m.2.tx ++ m.2.rx).filter (fun a => a.2.slot = n)).length)).sum

/-- The key check value (R438). -/
def kcv (key : Bytes) : Bytes := (aes key (zeros 16)).take 8

/-- Is a job's key in use by the lookaside engine (R440)? -/
def slotBusy (s : State) (n : Nat) : Bool := match s.keys.ctx with
  | some x => decide (x.slot = n)
  | none => false

/-- Is the random source healthy (R432)? -/
def trngOk (s : State) : Bool := s.flag KEY_STATUS.TRNG_OK

/-- A checked new key on its way into a slot: its attribute and the half. -/
structure NewKey where
  attr : Nat
  half : KeyHalf
deriving DecidableEq, Repr

/-- Is a key length one of the two (R433)? -/
def klenOk (n : Nat) : Bool := n = 16 || n = 32

/-- The clear head of a format 0 blob (R435): `MAGIC`, `VERSION` and `KLEN`. -/
def blobHeadOk (b : Bytes) : Bool := leAt b 0 4 = 0x424C4B57 && byteAt b 4 = 1 && klenOk (byteAt b 6)

/-- A format 0 blob (R435) opened with a wrapping key: none where its head or the tag is wrong. -/
def openBlob (kek b : Bytes) : Option NewKey :=
  let klen := byteAt b 6
  let iv := slice b 12 12
  let ct := slice b 24 32
  if blobHeadOk b && gcmTag kek iv (slice b 0 24) ct = slice b 56 16 then
    some { attr := byteAt b 5 % 4, half := { key := (gcmCrypt kek iv ct).take klen, exportable := bit (byteAt b 5) 7 } }
  else none

/-- Wrap a key in a format 0 blob under a wrap-only slot (R435). -/
def makeBlob (kek : Bytes) (kekSlot : Nat) (kekBound : Bool) (attr : Nat) (h : KeyHalf) (iv : Bytes) : Bytes :=
  let head := toLe 4 0x424C4B57 ++ [1, byte (attr + 128 * b2n h.exportable), byte h.key.length, byte (b2n kekBound)] ++
    toLe 2 kekSlot ++ zeros 2 ++ iv
  let ct := gcmCrypt kek iv (slice h.key 0 32)
  head ++ ct ++ gcmTag kek iv head ct

/-- A new key goes into a slot (R438): where the slot has no active key it is active at once; else it is the pending half, Loaded.
The attribute of the slot's first key stays (R433). (DEDUCED, log entry 31) -/
def putKey (n : Nat) (k : NewKey) (s : State) : State :=
  let x := s.slot n
  let x := { x with attr := some (x.attr.getD k.attr) }
  match x.act with
  | none => s.setSlot n { x with act := some k.half, blob := some k.half, pend := none, checked := false }
  | some _ => s.setSlot n { x with pend := some k.half, checked := false }

/-- The end of a load: the storage blob is written to flash, or its write fails and `EV_KEY_FLASH_FAIL` is raised (R438).
(DEDUCED, log entry 31, DEDUCED, log entry 117) -/
def finishLoad (c : CmdCtx) (op n : Nat) (flash : Bool) (k : NewKey) (s : State) : State :=
  if flash then complete c op stOk (kcv k.half.key) (putKey n k s)
  else complete c op stState [] (raise 0x090A 2 (evPay [(16, 1, n), (17, 1, 0)]) s)

/-- What `KEY_LOAD_BLOB` and `KEY_REPLACE` find in their parameters: a status, or the key (R434, R435, R450). -/
def loadSource (s : State) (c : CmdCtx) : Nat ⊕ NewKey :=
  let f := byteAt c.par 0
  let n := byteAt c.par 1
  let ae := byteAt c.par 2
  let kekSlot := byteAt c.par 3
  let klen := byteAt c.par 4
  let blob := c.par.drop 16
  let aeOk := bits ae 6 2 = 0
  let half (k : Bytes) : NewKey := { attr := ae % 4, half := { key := k, exportable := bit ae 7 } }
  if c.par.length < 16 || n = 0 || !parZero c 5 16 || 2 < f then .inl stParam
  else if f = 0 then
    if blob.length ≠ 72 || !blobHeadOk blob then .inl stParam
    else match keyFor s (leAt blob 8 2) 2 with
      | none => .inl stState
      | some kek => match openBlob kek blob with
        | none => .inl stParam
        | some k => .inr k
  else if !aeOk || !klenOk klen then .inl stParam
  else if f = 1 then
    if blob.length ≠ klen + 8 then .inl stParam
    else match keyFor s kekSlot 2 with
      | none => .inl stState
      | some kek => match keyUnwrap kek blob with
        | none => .inl stParam
        | some k => .inr (half k)
  else if blob.length ≠ klen then .inl stParam
  else if s.flag GLB_CTRL.FWD_EN then .inl stDenied
  else .inr (half blob)

/-- Key blobs and commit records are not programmed in brace, and key commands wait while an activation runs: the row acts once
that has ended (R507, R570). -/
def flashHeld (s : State) : Bool := s.brace || s.sup.act.isSome

/-- A key for a slot waits for the flash, and while the slot's commit record is written: its Checked half is left by that commit alone
(R438). (DEDUCED, log entry 31) -/
def loadHeld (s : State) (n : Nat) : Bool := flashHeld s || khas s.keys.writing n

/-- `KEY_LOAD_BLOB` (R434, R435, R438, R450). -/
def execKeyLoadBlob (c : CmdCtx) (flash : Bool) (s : State) : Res :=
  if loadHeld s (byteAt c.par 1) then .next s else
  .next (command c 0x0901 s fun s =>
    match loadSource s c with
    | .inl st => complete c 0x0901 st [] s
    | .inr k => finishLoad c 0x0901 (byteAt c.par 1) flash k s)

/-- `KEY_REPLACE` (R434, R440): into the pending half of a slot with an active key to which no SA refers. -/
def execKeyReplace (c : CmdCtx) (flash : Bool) (s : State) : Res :=
  if loadHeld s (byteAt c.par 1) then .next s else
  .next (command c 0x0902 s fun s =>
    let n := byteAt c.par 1
    match loadSource s c with
    | .inl st => complete c 0x0902 st [] s
    | .inr k =>
      if (s.slot n).act.isNone || saRefs s n ≠ 0 then complete c 0x0902 stState [] s
      else finishLoad c 0x0902 n flash k s)

/-- A commit that may begin: it waits in brace and while a job uses the slot (R439, R440). -/
def commitWaits (s : State) (n : Nat) : Bool := loadHeld s n || slotBusy s n

/-- `KEY_VERIFY_COMMIT` (R439): the pending key's check value is compared; on a match the commit record is written. (DEDUCED, log entry 31) -/
def execKeyVerifyCommit (c : CmdCtx) (s : State) : Res :=
  let n := byteAt c.par 0
  if commitWaits s n then .next s else
  .next (command c 0x0903 s fun s =>
    let x := s.slot n
    if !plenIs c 16 || n = 0 || !parZero c 1 8 then complete c 0x0903 stParam [] s
    else match x.pend with
      | none => complete c 0x0903 stState [] s
      | some k =>
        if saRefs s n ≠ 0 then complete c 0x0903 stState [] s
        else if kcv k.key ≠ slice c.par 8 8 then
          complete c 0x0903 stState [] (s.setSlot n { x with pend := none, checked := false })
        else
          let s := s.setSlot n { x with checked := true }
          { s with keys := { s.keys with writing := kput s.keys.writing n c } })

/-- The program of a commit record ends (R441): the active half switches; or the program fails, `EV_KEY_FLASH_FAIL` is raised and the
write is tried again (R515), so that the row may come once more. -/
def execKeyCommitRecordWritten (n : Nat) (ok : Bool) (s : State) : Res :=
  match kget s.keys.writing n with
  | none => .next s
  | some c =>
    if !ok then .next (raise 0x090A 2 (evPay [(16, 1, n), (17, 1, 1)]) s)
    else
      let x := s.slot n
      let s := handleIf 0x090A s
      let s := s.setSlot n { x with act := x.pend, blob := x.pend, pend := none, checked := false, half := 1 - x.half,
                                    gen := (x.gen + 1) % 2 ^ 32, hand := none }
      let s := { s with keys := { s.keys with writing := kdel s.keys.writing n } }
      .next (complete c 0x0903 stOk (toLe 4 ((x.gen + 1) % 2 ^ 32)) s)

/-- The parameters of `KEY_DERIVE` that R450 fixes. -/
def deriveOk (c : CmdCtx) : Bool :=
  plenIs c 96 && decide (byteAt c.par 0 ≤ 1) && decide (byteAt c.par 2 ≠ 0) && bits (byteAt c.par 3) 6 2 = 0 &&
  klenOk (byteAt c.par 4) && decide (byteAt c.par 5 < 4) && decide (byteAt c.par 6 ≤ 32) && decide (byteAt c.par 7 ≤ 32) &&
  parZero c 8 32

/-- May a derived key enter its slot? The pending half is asked for exactly where the slot has an active key, and no SA refers to
it (R438, R440). (DEDUCED, log entry 32) -/
def deriveTarget (s : State) (c : CmdCtx) : Bool :=
  let n := byteAt c.par 2
  decide ((s.slot n).act.isSome = bit (byteAt c.par 5) 1) && decide (saRefs s n = 0)

/-- The key that the KDF gives (R437). -/
def derivedKey (s : State) (c : CmdCtx) (k : Bytes) : KeyHalf :=
  let bind := bit (byteAt c.par 5) 0
  let label := slice c.par 32 (byteAt c.par 6)
  let ctx := slice c.par 64 (byteAt c.par 7)
  { key := kdf k label (if bind then s.keys.meas ++ ctx else ctx) (byteAt c.par 4),
    bound := if bind then some s.keys.meas else none, exportable := bit (byteAt c.par 3) 7 }

/-- `KEY_DERIVE` (R434, R437, R440, R450). Both operations share the opcode; byte 0 chooses. -/
def keyDerive (c : CmdCtx) (flash : Bool) (s : State) : State :=
  command c 0x0906 s fun s =>
    let n := byteAt c.par 2
    let attr := byteAt c.par 3 % 4
    if !deriveOk c then complete c 0x0906 stParam [] s
    else if !deriveTarget s c then complete c 0x0906 stState [] s
    else if byteAt c.par 0 = 0 then
      match keyFor s (byteAt c.par 1) 3 with
      | none => complete c 0x0906 stState [] s
      | some k => finishLoad c 0x0906 n flash { attr := attr, half := derivedKey s c k } s
    else if !trngOk s then complete c 0x0906 stState [] s
    else
      let k := freeBytes s.free (byteAt c.par 4)
      finishLoad c 0x0906 n flash { attr := attr, half := { key := k, exportable := bit (byteAt c.par 3) 7 } }
        (s.drewN (byteAt c.par 4))

/-- KEY_DERIVE_KDF (R437). -/
def execKeyDeriveKdf (c : CmdCtx) (flash : Bool) (s : State) : Res :=
  if loadHeld s (byteAt c.par 2) then .next s else .next (keyDerive c flash s)

/-- KEY_DERIVE_RANDOM (R434): the key is drawn from the random source, so its bytes are free values. -/
def execKeyDeriveRandom (c : CmdCtx) (flash : Bool) (s : State) : Res :=
  if loadHeld s (byteAt c.par 2) then .next s else .next (keyDerive c flash s)

/-- `KEY_EXPORT` (R433, R435, R450): wraps an exportable key under a wrap-only slot with a random IV. -/
def execKeyExport (c : CmdCtx) (s : State) : Res :=
  .next (command c 0x0907 s fun s =>
    let n := byteAt c.par 0
    let w := byteAt c.par 1
    let x := s.slot n
    if !plenIs c 8 || !parZero c 2 8 || n = 0 then complete c 0x0907 stParam [] s
    else match x.act, keyFor s w 2 with
      | some h, some kek =>
        if !h.exportable || !trngOk s then complete c 0x0907 stState [] s
        else
          let b := makeBlob kek w ((s.slot w).act.any (fun k => k.bound.isSome)) (x.attr.getD 0) h (freeBytes s.free 12)
          complete c 0x0907 stOk b (s.drewN 12)
      | _, _ => complete c 0x0907 stState [] s)

/-- The word of `KEY_SLOT_INFO` for a slot. -/
def slotInfo (s : State) (n : Nat) : Nat :=
  let x := s.slot n
  let pend := if x.pend.isNone then 0 else if x.checked then 2 else 1
  b2n (slotKey s n).isSome * 2 ^ 31 + (slotAttr s n).getD 0 % 4 * 2 ^ 29 + b2n (x.act.any (fun k => k.bound.isSome)) * 2 ^ 28 +
    b2n (x.act.any (·.exportable)) * 2 ^ 27 + x.half % 2 * 2 ^ 26 + pend * 2 ^ 24 + min 15 (saRefs s n) * 2 ^ 20 + x.gen % 2 ^ 16

/-- KEY_SLOT_SNAPSHOT: a write to `KEY_SLOT_SEL` snapshots a slot (register table of chapter 12). -/
def keySnapshot (value : Nat) (s : State) : State :=
  let n := value % 256
  ((((s.setFld KEY_SLOT_SEL.SLOT n).setReg KEY_SLOT_INFO (slotInfo s n)).setReg KEY_SLOT_NONCE_LO ((s.slot n).nonce % 2 ^ 32)).setReg
    KEY_SLOT_NONCE_HI ((s.slot n).nonce / 2 ^ 32))

/-- KEY_SLOT_SNAPSHOT. -/
def execKeySlotSnapshot (src : Src) (value : Nat) (s : State) : Res :=
  .next (busRow src (keySnapshot value) s)

/-- The slots with an active key, slot 0 included (`USED`). -/
def slotsUsed (s : State) : Nat := 1 + (s.keys.slots.filter (fun e => e.2.act.isSome)).length

/-! Measurement (R436) and what a start does to the store (R441, R443, R449). -/

/-- Extend a measurement. -/
def extendMeas (m d : Bytes) : Bytes := sha384 (m ++ d)

/-- The measurement of a start with an image digest and a configuration digest. (DEDUCED, log entry 103) -/
def measureStart (image cfg : Bytes) : Bytes := extendMeas (extendMeas (extendMeas (zeros 48) (toBe 48 Config.bootDigest)) image) cfg

/-- `M` as the register words show it. -/
def measWord (m : Bytes) (n : Nat) : Nat := beAt m (4 * n) 4

/-- The event of R441 for a slot whose pending half a start drops: the generation of the torn record, 0 if none. -/
def dropPending (torn : Keyed CmdCtx) (s : State) (e : Nat × Slot) : State :=
  match e.2.pend with
  | none => s
  | some _ =>
    let g := if khas torn e.1 then (e.2.gen + 1) % 2 ^ 32 else 0
    raise 0x0904 0 (evPay [(16, 1, e.1), (20, 4, g)]) s

/-- A bound key unwraps only under the measurement its blob was made with (R436, R508). -/
def opensUnder (m : Bytes) (k : KeyHalf) : Bool := match k.bound with
  | none => true
  | some x => decide (x = m)

/-- The key that a slot's blobs give under a measurement: the storage blob, else the handover blob. -/
def restoredKey (m : Bytes) (x : Slot) : Option KeyHalf :=
  match x.blob with
  | none => none
  | some b => if opensUnder m b then some b else x.hand.bind (fun k => if opensUnder m k then some k else none)

/-- A slot is restored at a start from flash (R441, R443, R449): pending halves are gone, the nonce counter stands at its ceiling, and a
bound key whose blob no longer opens leaves the slot Empty with `EV_KEY_RESTORE_FAIL`. -/
def restoreSlot (m : Bytes) (s : State) (e : Nat × Slot) : State :=
  let x := e.2
  let k := restoredKey m x
  let s := s.setSlot e.1 { x with act := k, pend := none, checked := false, nonce := x.ceil }
  if x.blob.isSome && k.isNone then raise 0x0908 1 (evPay [(16, 1, e.1)]) s else s

/-- The key store at a start after POR or S5: every slot and every freshness counter is restored. -/
def keysRestore (m : Bytes) (s : State) : State :=
  let torn := s.keys.writing
  let slots := s.keys.slots
  let s := { s with keys := { s.keys with meas := m, writing := [], lock := none, ctx := none, saved := [], msec := [],
                                          fresh := s.keys.fresh.map (fun e => (e.1, { e.2 with value := e.2.ceil })) }, pnHold := 0 }
  let s := slots.foldl (dropPending torn) s
  slots.foldl (restoreSlot m) s

/-- Firmware with another measurement runs (R436, R508): a bound key is the one that its blobs give under it, else its slot is Empty. -/
def rebindSlot (m : Bytes) (s : State) (e : Nat × Slot) : State :=
  let x := e.2
  match x.blob with
  | none => s
  | some b =>
    if b.bound.isNone then s
    else
      let k := restoredKey m x
      let s := s.setSlot e.1 { x with act := k }
      if k.isNone && x.act.isSome then raise 0x0908 1 (evPay [(16, 1, e.1)]) s else s

/-- TRNG_HEALTH_FAIL (R432): kind 0 repetition count, 1 adaptive proportion. -/
def execTrngHealthFail (kind : Fin 2) (s : State) : Res :=
  .next (raise 0x0907 2 (evPay [(16, 1, kind.val)]) (s.setFld KEY_STATUS.TRNG_OK 0))

end Sys2Proof.Machine
end

