-- ==== Sys2Proof/Machine/MacSec.lean ====
section
/-! DEFINITION. MACsec on the Ethernet ports (R419 to R429, R606): associations, protection, the receive check, holds. -/

namespace Sys2Proof.Machine

/-- A port that can apply MACsec (R419). -/
def msecPort (p : Nat) : Bool := decide (p ≤ 31) || p = 75

/-- MACsec state of a port. -/
def State.msec (s : State) (p : Nat) : Msec := kgetD s.keys.msec p {}

/-- Replace the MACsec state of a port. -/
def State.setMsec (s : State) (p : Nat) (x : Msec) : State := { s with keys := { s.keys with msec := kput s.keys.msec p x } }

/-- Does a port apply MACsec now (R421)? -/
def msecOn (s : State) (p : Nat) : Bool := msecPort p && s.flag (CRY_MSEC_CTRL.ENABLE p)

/-- The ethertypes of EAPOL (with MKA) and of gPTP. -/
def isEapol (bs : Bytes) : Bool := etype bs 12 = 0x888E
def isGptp (bs : Bytes) : Bool := etype bs 12 = 0x88F7

/-- Does a frame travel on the uncontrolled port (R422, R251)? -/
def uncontrolled (s : State) (p : Nat) (bs : Bytes) : Bool :=
  isEapol bs || (isGptp bs && !s.flag (TIME_PORT_CFG.PTP_SECURE p))

/-- The current transmit association. -/
def Msec.txSa (m : Msec) : Option Sa := m.txAn.bind (kget m.tx)

/-- Is an association exhausted (R428)? -/
def Sa.exhausted (a : Sa) : Bool := decide (2 ^ 64 ≤ a.pn)

/-- Must the controlled frames of a port wait: its association is exhausted, or none is committed (R428, R606)? -/
def msecHolds (s : State) (p : Nat) : Bool :=
  msecOn s p && (match (s.msec p).txSa with
    | some a => a.exhausted
    | none => true)

/-- Does the copy of a cell travel on the controlled port? Voids and frames with a DFP tag do. -/
def cellControlled (s : State) (p : Nat) (x : Cell) : Bool :=
  x.void.isSome || x.tag.isSome || (match s.buf x.buf with
    | some b => !uncontrolled s p b.pkt.bytes
    | none => true)

/-- Mark the waiting cells of a held port that have not been counted yet: each counts once in `CRY_MSEC_TX_HELD` (R428). -/
def markHeldQueue (p c : Nat) (s : State) : State :=
  let new (x : Cell) : Bool := !x.held && cellControlled s p x
  let q := s.queue p c
  let n := (q.filter new).length
  if n = 0 then s
  else
    let m := s.msec p
    ((s.setQueue p c (q.map (fun x => if new x then { x with held := true } else x))).setMsec p { m with held := m.held + n }).bumpBy
      (CRY_MSEC_TX_HELD p) n

/-- Mark the waiting cells of all classes of a held port. -/
def markHeld (p : Nat) (s : State) : State :=
  if msecHolds s p then (List.range 8).foldl (fun s c => markHeldQueue p c s) s else s

/-- An exhausted association holds an admitted frame that is due: `EV_KEY_PN_HOLD`, once for each hold (R62, R428). -/
def tellHold (p : Nat) (s : State) : State :=
  let m := s.msec p
  if bit s.pnHold p && !m.told then
    raise 0x0902 0 (evPay [(16, 1, p), (17, 1, m.txAn.getD 0)]) (s.setMsec p { m with told := true })
  else s

/-! Protection (R419, R427). The layout of the SecTAG and the construction of IV and additional data are those of
IEEE 802.1AE-2018 for GCM-AES-XPN-256 (log entry 30). -/

/-- The key of an association: its slot's active half. A slot emptied meanwhile leaves the key open: free bytes. (DESIGN CHOICE, log entry 34) -/
def saKey (s : State) (a : Sa) : Bytes := (slotKey s a.slot).getD (freeBytes s.free 32)

/-- The IV: SSCI and packet number, XOR the salt. (PRESUMED, log entry 30) -/
def xpnIv (a : Sa) (pn : Nat) : Bytes := xorB (toBe 4 a.ssci ++ toBe 8 pn) (slice a.salt 0 12)

/-- The transmit SCI of a port. -/
def txSci (s : State) (p : Nat) : Nat := s.reg (CRY_MSEC_SCI_HI p) * 2 ^ 32 + s.reg (CRY_MSEC_SCI_LO p)

/-- The 16 bytes of a SecTAG with explicit SCI, from its ethertype on, for a text of n bytes. (PRESUMED, log entry 30) -/
def secTag (an pn sci n : Nat) : Bytes :=
  toBe 2 0x88E5 ++ [byte (0x2C + an), byte (if n < 48 then n else 0)] ++ toBe 4 pn ++ toBe 8 sci

/-- A protected frame. -/
def protect (key : Bytes) (a : Sa) (an sci : Nat) (bs : Bytes) : Bytes :=
  let text := bs.drop 12
  let head := bs.take 12 ++ secTag an a.pn sci text.length
  let ct := gcmCrypt key (xpnIv a a.pn) text
  head ++ ct ++ gcmTag key (xpnIv a a.pn) head ct

/-- A frame starts on a port: on the controlled port it takes the next packet number and leaves protected (R421, R427, R428). -/
def msecSend (p : Nat) (bs : Bytes) (s : State) : Bytes × State :=
  if !msecOn s p || uncontrolled s p bs then (bs, s)
  else
    let m := s.msec p
    match m.txAn, m.txSa with
    | some an, some a =>
      let out := protect (saKey s a) a an (txSci s p) bs
      let soft := decide (2 ^ 62 ≤ a.pn + 1) && !a.soft
      let a' := { a with pn := a.pn + 1, soft := a.soft || soft }
      let s := (s.setMsec p { m with tx := kput m.tx an a' }).bump (CRY_MSEC_TX_PROTECTED p)
      let s := if soft then raise 0x0901 0 (evPay [(16, 1, p), (17, 1, an)]) s else s
      (out, if a'.exhausted then { s with pnHold := orBit s.pnHold p } else s)
    | _, _ => (bs, s)

/-! The receive check (R419, R422, R423). -/

/-- A received SecTAG: its AN, its SCI where one can be formed, the PN's low half, the lengths of the tag, and whether the text is
encrypted. -/
structure RxTag where
  an : Nat
  sci : Option Nat
  pn : Nat
  len : Nat
  enc : Bool
deriving DecidableEq, Repr

/-- Read a SecTAG. -/
def rxTag (bs : Bytes) : RxTag :=
  let t := byteAt bs 14
  let sc := bit t 5
  { an := t % 4, pn := beAt bs 16 4, len := if sc then 16 else 8, enc := bit t 3,
    sci := if sc then some (beAt bs 20 8) else if bit t 6 then some (beAt bs 6 6 * 65536 + 1) else none }

/-- The full packet number: the upper half comes from the lowest acceptable PN, one more where the lower half has wrapped. -/
def xpnFull (lowest low : Nat) : Nat :=
  let hi := lowest / 2 ^ 32
  if 2 ^ 31 ≤ lowest % 2 ^ 32 && low < 2 ^ 31 then (hi + 1) * 2 ^ 32 + low else hi * 2 ^ 32 + low

/-- The receive association that a SecTAG names: its key 4 × SC + AN. -/
def rxSaOf (m : Msec) (t : RxTag) : Option (Nat × Sa) :=
  match t.sci with
  | none => none
  | some sci =>
    (List.range 2).findSome? (fun sc =>
      if kget m.sci sc = some sci then (kget m.rx (4 * sc + t.an)).map (fun a => (4 * sc + t.an, a)) else none)

/-- Raise `EV_MSEC_ICV_FAIL`, at most once in 10 ms per port (R423). -/
def icvFail (p an sci : Nat) (s : State) : State :=
  let s := s.bump (CRY_MSEC_ICV_FAIL p)
  let m := s.msec p
  let due := match m.lastIcv with
    | some t => decide (t + 10000000 ≤ s.lt)
    | none => true
  if due then raise 0x0909 0 (evPay [(16, 1, p), (17, 1, an), (20, 8, sci)]) (s.setMsec p { m with lastIcv := some s.lt }) else s

/-- A frame with a SecTAG through the tests of R423: the bytes that pass and `MACSEC`, or none for a discarded frame. (DEDUCED, log entry 35) -/
def rxTagged (p : Nat) (bs : Bytes) (s : State) : Option (Bytes × Bool) × State :=
  let m := s.msec p
  let t := rxTag bs
  let strict := decide (s.fld (CRY_MSEC_CTRL.VALIDATE p) ≠ 1)
  match rxSaOf m t with
  | none => (if strict then none else some (bs, false), s.bump (CRY_MSEC_NO_SA p))
  | some (k, a) =>
    let pn := xpnFull a.pn t.pn
    if s.flag (CRY_MSEC_CTRL.REPLAY p) && pn < a.pn then (none, s.bump (CRY_MSEC_LATE p))
    else
      let head := bs.take (12 + t.len)
      let body := (bs.drop (12 + t.len)).take (bs.length - 12 - t.len - 16)
      let icv := bs.drop (bs.length - 16)
      let key := saKey s a
      let iv := xpnIv a pn
      let good := if t.enc then gcmTag key iv head body = icv else gcmTag key iv (head ++ body) [] = icv
      if bs.length < 12 + t.len + 16 || !good then (none, icvFail p t.an (t.sci.getD 0) s)
      else
        let low := max a.pn (pn + 1 - s.fld (CRY_MSEC_CTRL.WINDOW p))
        let s := (s.setMsec p { m with rx := kput m.rx k { a with pn := low } }).bump (CRY_MSEC_RX_OK p)
        (some (bs.take 12 ++ (if t.enc then gcmCrypt key iv body else body), true), s)

/-- What the MACsec island makes of a received frame (R422, R423): the frame and `MACSEC`, or none where it is discarded. (DEDUCED, log entry 35) -/
def msecReceive (p : Nat) (bs : Bytes) (s : State) : Option (Bytes × Bool) × State :=
  if !msecOn s p || uncontrolled s p bs then (some (bs, false), s)
  else if etype bs 12 = 0x88E5 then rxTagged p bs s
  else if s.fld (CRY_MSEC_CTRL.VALIDATE p) = 1 then (some (bs, false), s)
  else (none, s.bump (CRY_MSEC_NO_TAG p))

/-! The command `MACSEC_SA` (R424 to R426). -/

/-- The `PARAM` conditions of `MACSEC_SA` (R424, R425). (DEDUCED, log entry 35) -/
def saParamOk (c : CmdCtx) : Bool :=
  plenIs c 48 && decide (byteAt c.par 0 ≤ 3) && msecPort (byteAt c.par 1) && decide (byteAt c.par 2 ≤ 1) && decide (byteAt c.par 3 ≤ 3) &&
  byteAt c.par 7 = 0 && parZero c 40 48 && decide (byteAt c.par 6 ≤ 1) &&
  (decide (byteAt c.par 0 ≠ 0) || (decide (1 ≤ leAt c.par 4 2) && decide (leAt c.par 4 2 ≤ 255) && decide (1 ≤ leAt c.par 32 8)))

/-- Install an SA over whatever the AN held. -/
def saInstall (c : CmdCtx) (m : Msec) : Msec :=
  let an := byteAt c.par 3
  let sc := byteAt c.par 6
  let a : Sa := { slot := leAt c.par 4 2, ssci := leAt c.par 16 4, salt := slice c.par 20 12, pn := leAt c.par 32 8 }
  if byteAt c.par 2 = 0 then { m with tx := kput m.tx an a }
  else { m with rx := kput m.rx (4 * sc + an) a, sci := kput m.sci sc (leAt c.par 8 8) }

/-- Remove an SA. -/
def saRemove (c : CmdCtx) (m : Msec) : Msec :=
  let an := byteAt c.par 3
  if byteAt c.par 2 = 0 then { m with tx := kdel m.tx an } else { m with rx := kdel m.rx (4 * byteAt c.par 6 + an) }

/-- Commit a transmit SA (R426, R428, R606): it serves every frame that starts from now on. Where frames waited, `EV_KEY_PN_RELEASE`
reports how many. -/
def saCommit (p an : Nat) (s : State) : State :=
  let s := markHeld p s
  let waited := msecHolds s p
  let m := s.msec p
  let s := s.setMsec p { m with txAn := some an }
  let s := { s with pnHold := if ((s.msec p).txSa).any Sa.exhausted then orBit s.pnHold p else clrBit s.pnHold p }
  if waited && !msecHolds s p then
    let s := s.setMsec p { s.msec p with held := 0, told := false }
    raise 0x0903 0 (evPay [(16, 1, p), (17, 1, an), (20, 4, m.held)]) s
  else s

/-- The reply of a read (R424). -/
def saReadReply (c : CmdCtx) (m : Msec) : Bytes :=
  let an := byteAt c.par 3
  let tx := byteAt c.par 2 = 0
  let a := if tx then kget m.tx an else kget m.rx (4 * byteAt c.par 6 + an)
  let pn := match a with
    | some a => a.pn
    | none => 0
  toLe 8 (min pn (2 ^ 64 - 1)) ++ [byte (b2n (tx && decide (m.txAn = some an)))] ++ zeros 7

/-- `MACSEC_SA` (R424, R425). The four operations share the opcode; byte 0 chooses. -/
def macsecSa (c : CmdCtx) (s : State) : State :=
  command c 0x0905 s fun s =>
    let op := byteAt c.par 0
    let p := byteAt c.par 1
    let tx := byteAt c.par 2 = 0
    let an := byteAt c.par 3
    let m := s.msec p
    if !saParamOk c then complete c 0x0905 stParam [] s
    else if op = 0 then
      if (tx && decide (m.txAn = some an)) || slotAttr s (leAt c.par 4 2) ≠ some (if tx then 0 else 1) then complete c 0x0905 stState [] s
      else complete c 0x0905 stOk [] (s.setMsec p (saInstall c m))
    else if op = 1 then
      if tx && decide (m.txAn = some an) then complete c 0x0905 stState [] s
      else complete c 0x0905 stOk [] (s.setMsec p (saRemove c m))
    else if op = 2 then
      if khas m.tx an then complete c 0x0905 stOk [] (saCommit p an s) else complete c 0x0905 stState [] s
    else complete c 0x0905 stOk (saReadReply c m) s

/-- MACSEC_SA_INSTALL (R425). -/
def execMacsecSaInstall (c : CmdCtx) (s : State) : Res := .next (macsecSa c s)
/-- MACSEC_SA_REMOVE (R425). -/
def execMacsecSaRemove (c : CmdCtx) (s : State) : Res := .next (macsecSa c s)
/-- MACSEC_SA_TX_COMMIT (R426). -/
def execMacsecSaTxCommit (c : CmdCtx) (s : State) : Res := .next (macsecSa c s)
/-- MACSEC_SA_READ (R424). -/
def execMacsecSaRead (c : CmdCtx) (s : State) : Res := .next (macsecSa c s)

/-- The word of `CRY_MSEC_STATUSp` but for `BAD_WR`, which is stored. -/
def msecStatus (s : State) (p : Nat) : Nat :=
  let m := s.msec p
  b2n (bit s.pnHold p) * 2 ^ 31 + b2n (m.txSa.any (fun a => decide (2 ^ 62 ≤ a.pn))) * 2 ^ 30 + m.txAn.getD 0 % 4 * 2 ^ 28 +
    b2n m.txAn.isSome * 2 ^ 27 + listMask (m.tx.map (·.1)) * 2 ^ 8 + listMask (m.rx.map (·.1))

/-- Write `CRY_MSEC_CTRLp` (R421): a change of `ENABLE` is discarded while a reserved stream uses the port; `VALIDATE` stores Strict for
the two values that name no mode. -/
def msecCtrlWrite (p v : Nat) (s : State) : State :=
  if !msecPort p then s
  else
    let uses := s.reserved.any (fun e => bit e.2.outMask p || e.2.hops.any (fun g => g.inPort = p) || (e.2.ingress && e.2.inPort = p))
    let en := bits v 31 31
    let bad := en ≠ s.fld (CRY_MSEC_CTRL.ENABLE p) && uses
    let vd := if bits v 30 29 = 1 then 1 else 2
    let s := ((s.setFld (CRY_MSEC_CTRL.VALIDATE p) vd).setFld (CRY_MSEC_CTRL.REPLAY p) (bits v 28 28)).setFld
      (CRY_MSEC_CTRL.WINDOW p) (bits v 23 0)
    if bad then s.setFld (CRY_MSEC_STATUS.BAD_WR p) 1 else markHeld p (s.setFld (CRY_MSEC_CTRL.ENABLE p) en)

/-- MACSEC_ENABLE_WRITE (R421): the value written to `CRY_MSEC_CTRLp`. -/
def execMacsecEnableWrite (src : Src) (p : Port) (value : Nat) (s : State) : Res :=
  .next (busRow src (msecCtrlWrite p.val value) s)

end Sys2Proof.Machine
end

