-- ==== Sys2Proof/Machine/Tables.lean ====
section
/-! DEFINITION. The forwarding tables of a quadrant (chapter 05): entries, lookup, learning, the rake, rehash, table commands. -/

namespace Sys2Proof.Machine

/-- The tables of a quadrant. -/
def State.tab (s : State) (q : Nat) : QTab := kgetD s.tabs q {}

/-- Replace the tables of a quadrant. -/
def State.setTab (s : State) (q : Nat) (t : QTab) : State := { s with tabs := kput s.tabs q t }

/-- Change the tables of a quadrant. -/
def State.modTab (s : State) (q : Nat) (f : QTab → QTab) : State := s.setTab q (f (s.tab q))

/-! Entries. -/

/-- The first position of the overflow store in a bank. -/
def ovfBase : Nat := 32768

/-- Entries of an overflow store (R166). -/
def ovfSize : Nat := 256

/-- The CRC of R171 over a byte string from an initial value. -/
def tblCrc (seed : Nat) (bs : Bytes) : Nat := crcMsb 32 0x04C11DB7 seed bs

/-- The bytes of a key (R171). -/
def l2KeyBytes (fid mac : Nat) : Bytes := toBe 2 (fid % 4096) ++ toBe 6 mac

/-- The bucket of a key under a seed (R171). -/
def l2Bucket (seed fid mac : Nat) : Nat := tblCrc seed (l2KeyBytes fid mac) % 8192

/-- The position and entry of a key in a bank (R172). -/
def l2Find (b : Keyed L2Entry) (fid mac : Nat) : Option (Nat × L2Entry) :=
  b.find? (fun e => e.2.fid = fid && e.2.mac = mac)

/-- The lowest free slot of a bucket, else the lowest free overflow index (R172). -/
def l2Slot (b : Keyed L2Entry) (bucket : Nat) : Option Nat :=
  let p := kfirstFree b (bucket * 4)
  if p < bucket * 4 + 4 then some p
  else
    let o := kfirstFree b ovfBase
    if o < ovfBase + ovfSize then some o else none

/-- Overflow entries in use. -/
def ovfUsed (b : Keyed L2Entry) : Nat := (b.filter (fun e => ovfBase ≤ e.1)).length

/-- An entry as the 128-bit word of R169, `VALID` 1, with its `BANK` bit. -/
def l2Word (e : L2Entry) (target : Bool) : Nat :=
  2 ^ 127 + b2n e.pin * 2 ^ 126 + b2n e.hit * 2 ^ 125 + b2n e.seenClear * 2 ^ 124 + b2n e.locked * 2 ^ 123 +
  b2n target * 2 ^ 122 + e.kind * 2 ^ 120 + b2n e.tcOvrEn * 2 ^ 119 + e.tcOvr * 2 ^ 116 + e.device * 2 ^ 108 +
  e.port * 2 ^ 101 + e.group * 2 ^ 91 + e.handle * 2 ^ 60 + e.fid * 2 ^ 48 + e.mac

/-- The entry that a command's word gives: `HIT` 1, `SEEN_CLEAR` 0, `LOCKED` 0 (R182). The station's moves count from 0 again. (DESIGN CHOICE, log
entry 129) -/
def l2OfWord (w : Nat) (pin : Bool) (now : Nat) : L2Entry :=
  { pin := pin, kind := bits w 121 120, tcOvrEn := bit w 119, tcOvr := bits w 118 116, device := bits w 115 108,
    port := bits w 107 101, group := bits w 100 91, handle := bits w 75 60, fid := bits w 59 48, mac := bits w 47 0, last := now }

/-- Is the entry stream-owned (R181)? -/
def l2Owned (e : L2Entry) : Bool := decide (e.handle ≠ 0xFFFF)

/-- Is a copy of the table into its other bank in progress (`MIGRATING`)? -/
def migrating (t : QTab) : Bool := match t.rehash with
  | .copy _ => true
  | _ => false

/-- Has a rehash been accepted and not ended? -/
def rehashing (t : QTab) : Bool := decide (t.rehash ≠ .idle)

/-- Where a key stands: target bank first, then the serving bank, with whether it is the target bank (R184). -/
def l2Lookup (t : QTab) (fid mac : Nat) : Option (Bool × Nat × L2Entry) :=
  match l2Find t.target fid mac with
  | some (p, e) => some (true, p, e)
  | none => (l2Find t.serve fid mac).map (fun r => (false, r.1, r.2))

/-- Write an entry at a position of one of the banks. -/
def l2Set (t : QTab) (tgt : Bool) (p : Nat) (e : L2Entry) : QTab :=
  if tgt then { t with target := kput t.target p e } else { t with serve := kput t.serve p e }

/-- Remove the entry at a position of one of the banks. -/
def l2Del (t : QTab) (tgt : Bool) (p : Nat) : QTab :=
  if tgt then { t with target := kdel t.target p } else { t with serve := kdel t.serve p }

/-- The seed and bank that inserts use: the target's during the copy (R184). -/
def insertSeed (s : State) (q : Nat) : Nat :=
  match (s.tab q).rehash with
  | .copy k => k
  | _ => s.reg (QD_L2_SEED q)

/-- Insert an entry whose key stands nowhere; none where bucket and overflow store are full. -/
def l2Insert (s : State) (q : Nat) (e : L2Entry) : Option QTab :=
  let t := s.tab q
  let b := l2Bucket (insertSeed s q) e.fid e.mac
  let bank := if migrating t then t.target else t.serve
  (l2Slot bank b).map (fun p => l2Set t (migrating t) p e)

/-- `EV_TBL_REHASH_REQUEST`, at most once in any 100 ms for each quadrant (R183). -/
def rehashRequest (q bucket : Nat) (s : State) : State :=
  let t := s.tab q
  let due := match t.lastReq with
    | some l => decide (l + 100000000 ≤ s.lt)
    | none => true
  if due then
    raise 0x0202 0 (evPay [(16, 1, q), (18, 2, bucket), (20, 2, ovfUsed t.serve)]) (s.setTab q { t with lastReq := some s.lt })
  else s

/-! Learning (R175 to R179). -/

/-- Does an entry have the destination that a request would learn? -/
def sameDest (e : L2Entry) (r : LearnReq) : Bool :=
  e.kind = r.kind && e.port = r.port && (r.kind = 0 || e.device = r.device)

/-- The payload of `EV_TBL_MOVE_CONTEND` and `EV_TBL_STATION_LOCK` (R193). -/
def stationPay (q port : Nat) (r : LearnReq) : Bytes := byte q :: byte port :: (toLe 2 r.fid ++ toBe 6 r.mac ++ zeros 2)

/-- Post a learn request; a full queue drops it (R177). -/
def postLearn (q : Nat) (r : LearnReq) (s : State) : State :=
  if (s.tab q).queue.length < 64 then s.modTab q (fun t => { t with queue := t.queue ++ [r] }) else s.bump (QD_LEARN_DROP q)

/-- The learn engine serves a request (the table of R177, and R179). -/
def learn (q : Nat) (r : LearnReq) (s : State) : State :=
  let t := s.tab q
  match l2Lookup t r.fid r.mac with
  | none =>
    let e : L2Entry := { kind := r.kind, device := r.device, port := r.port, fid := r.fid, mac := r.mac, last := s.lt }
    match l2Insert s q e with
    | some t' => (s.setTab q t').bump (QD_LEARN_OK q)
    | none => rehashRequest q (l2Bucket (insertSeed s q) r.fid r.mac) (s.bump (QD_LEARN_DROP q))
  | some (tgt, p, e) =>
    if sameDest e r then (s.setTab q (l2Set t tgt p { e with hit := true })).bump (QD_LEARN_OK q)
    else if e.pin || l2Owned e then s.bump (QD_PIN_CONFLICT q)
    else if e.locked then s.bump (QD_MOVE_CONTEND q)
    else if s.lt < e.last + s.fld (QD_MOVE_CFG.MOVE_GUARD q) * 1000 then
      raise 0x0201 0 (stationPay q r.port r) (s.bump (QD_MOVE_CONTEND q))
    else
      let limit := s.fld (QD_MOVE_CFG.MOVE_LIMIT q)
      if limit ≠ 0 && limit < e.moves + 1 then
        raise 0x0204 0 (stationPay q e.port r) ((s.setTab q (l2Set t tgt p { e with locked := true })).bump (QD_MOVE_CONTEND q))
      else
        let e' := { e with kind := r.kind, device := r.device, port := r.port, hit := true, seenClear := false,
                           last := s.lt, moves := e.moves + 1 }
        (s.setTab q (l2Set t tgt p e')).bump (QD_MOVE q)

/-- The engine serves the oldest request of a quadrant's queue. -/
def serveLearn (q : Nat) (s : State) : State :=
  match (s.tab q).queue with
  | r :: rest => learn q r (s.modTab q (fun t => { t with queue := rest }))
  | [] => s

/-- Serve every request that waits (the engine takes requests and table commands in arrival order, R177). (DEDUCED, log entry 19) -/
def drainLearn (q : Nat) (s : State) : State :=
  (s.tab q).queue.foldl (fun s _ => serveLearn q s) s

/-- LEARN_REQUEST (R177). -/
def execLearnRequest (q : Quad) (s : State) : Res := .next (serveLearn q.val s)

/-- MOVE_INTERVAL_END (R179): once the 1 s interval of the quadrant's timer has ended, station move counts restart. The phase, which R646 leaves
to the device, is the model's: intervals end at whole seconds of LT. (DESIGN CHOICE, log entry 127) -/
def execMoveIntervalEnd (q : Quad) (s : State) : Res :=
  let t := s.tab q.val
  if s.lt < t.moveEnd then .next s
  else
    let z (b : Keyed L2Entry) : Keyed L2Entry := b.map (fun e => (e.1, { e.2 with moves := 0 }))
    .next (s.setTab q.val { t with serve := z t.serve, target := z t.target, moveEnd := (s.lt / sec + 1) * sec })

/-! The rake (R180). -/

/-- What a visit does to one entry: none removes it. -/
def rakeEntry (e : L2Entry) : Option L2Entry :=
  if e.hit then some { e with hit := false, seenClear := false }
  else if e.pin then some e
  else if !e.seenClear then some { e with seenClear := true }
  else none

/-- A visit of group g over a bank: groups 0 to 8191 are buckets, the rest four overflow entries each. Positions of both are
4g to 4g + 3. -/
def rakeGroup (g : Nat) (b : Keyed L2Entry) : Keyed L2Entry :=
  b.filterMap (fun e => if e.1 / 4 = g then (rakeEntry e.2).map (fun x => (e.1, x)) else some e)

/-- RAKE_VISIT (R180): the next group, once due on the time for which the rake has run, while `AGE_EN` is 1 and no rehash runs. The operand says
whether the group's version changed between the read and the commit, which a whole step cannot show by itself. The phase is the model's: group 0 is
due when the tables are new, and every further visit a PERIOD/8256 later. (DESIGN CHOICE, log entry 127) -/
def execRakeVisit (q : Quad) (changed : Bool) (s : State) : Res :=
  let n := q.val
  let t := s.tab n
  if !rakeRuns s n t || decide (t.rakeRan < t.rakeDue) then .next s
  else
    let t1 := { t with rakeNext := (t.rakeNext + 1) % 8256, rakeDue := t.rakeDue + s.fld (QD_RAKE_CFG.PERIOD n) * sec / 8256 }
    if changed then .next ((s.setTab n t1).bump (QD_RAKE_ABORT n))
    else
      let b := rakeGroup t.rakeNext t.serve
      .next ((s.setTab n { t1 with serve := b }).bumpBy (QD_RAKE_REMOVED n) (t.serve.length - b.length))

/-! Rehash (R184). -/

/-- Is there room for the pinned entries under a seed: four slots a bucket, the rest in the free overflow store? -/
def rehashFits (seed : Nat) (b : Keyed L2Entry) : Bool :=
  let buckets := (b.filter (fun e => e.2.pin)).map (fun e => l2Bucket seed e.2.fid e.2.mac)
  let counts : Keyed Nat := buckets.foldl (fun m k => kmod m k 0 (· + 1)) []
  decide ((counts.map (fun c => c.2 - 4)).sum ≤ ovfSize)

/-- Copy entries into a target bank under a seed, in order; the number that found no room. An entry whose key the target bank
already holds is the older of the two and goes. (DEDUCED, log entry 19) -/
def copyInto (seed : Nat) : List L2Entry → Keyed L2Entry → Nat → Keyed L2Entry × Nat
  | [], b, n => (b, n)
  | e :: r, b, n =>
    if (l2Find b e.fid e.mac).isSome then copyInto seed r b n
    else match l2Slot b (l2Bucket seed e.fid e.mac) with
      | some p => copyInto seed r (kput b p e) n
      | none => copyInto seed r b (n + 1)

/-- `EV_TBL_REHASH_DONE` (R193). -/
def rehashDone (q status removed : Nat) (s : State) : State :=
  raise 0x0203 0 (evPay [(16, 1, q), (17, 1, status), (18, 2, removed), (20, 4, s.reg (QD_L2_SEED q))]) s

/-- REHASH_CHECK_DONE (R184): the check ends the rehash with status 1, or the opening stop installs the seed and the pinned
entries are copied, once a stop window may start (R610). -/
def execRehashCheckDone (q : Quad) (s : State) : Res :=
  let n := q.val
  let t := s.tab n
  match t.rehash with
  | .check seed =>
    if !rehashFits seed t.serve then .next (rehashDone n 1 0 (s.setTab n { t with rehash := .idle }))
    else if !stopFree s then .next s
    else
      let s := stopBegins s
      let pins := t.serve.filter (fun e => e.2.pin)
      let (b, lost) := copyInto seed (pins.map (·.2)) [] 0
      .next (((s.setTab n { t with rehash := .copy seed, target := b, serve := t.serve.filter (fun e => !e.2.pin) }).setReg
        (QD_L2_SEED_NEXT n) seed).setCtr (QD_REHASH_REMOVED n) (min ctrMax lost))
  | _ => .next s

/-- REHASH_COPY_DONE (R184): the last entries are copied in bucket order; the closing stop serves the learn queue, swaps the
banks and advances the generation. An entry that is pinned in the serving bank while the copy runs and finds no room is removed and counted as an
unpinned one. (DESIGN CHOICE, log entry 129) -/
def execRehashCopyDone (q : Quad) (s : State) : Res :=
  let n := q.val
  match (s.tab n).rehash with
  | .copy seed =>
    if !stopFree s then .next s else
    let s := stopBegins s
    let t := s.tab n
    let (b, lost) := copyInto seed (t.serve.map (·.2)) t.target 0
    let s := drainLearn n (s.setTab n { t with target := b, serve := [] })
    let t := s.tab n
    let s := s.setTab n { t with serve := t.target, target := [], rehash := .idle, gen := (t.gen + 1) % 16 }
    let s := (s.setReg (QD_L2_SEED n) seed).bumpBy (QD_REHASH_REMOVED n) lost
    .next (rehashDone n (if lost = 0 then 0 else 2) lost s)
  | _ => .next s

/-! The other tables. -/

/-- The word of a route, FID or group entry, or of a stream-identification position. -/
def tblGet (t : QTab) (table i : Nat) : Nat :=
  match table with
  | 1 => kgetD t.sid i 0
  | 2 => kgetD t.route i 0
  | 3 => kgetD t.fid i 0
  | _ => kgetD t.group i 0

/-- Store a word of those tables; a zero word is not listed. -/
def tblPut (t : QTab) (table i w : Nat) : QTab :=
  let put (m : Keyed Nat) : Keyed Nat := if w = 0 then kdel m i else kput m i w
  match table with
  | 1 => { t with sid := put t.sid }
  | 2 => { t with route := put t.route }
  | 3 => { t with fid := put t.fid }
  | _ => { t with group := put t.group }

/-- The key of an entry word of the route, FID and group tables: its index. -/
def tblKey (table w : Nat) : Nat :=
  match table with
  | 2 => bits w 55 48
  | 3 => bits w 59 48
  | _ => bits w 105 96

/-- The `VALID` bit of an entry word. -/
def tblValid (table w : Nat) : Bool := if table = 2 || table = 3 then bit w 63 else bit w 127

/-- The bucket of a stream-identification key (R185). -/
def sidBucket (key : Nat) : Nat := tblCrc 0xFFFFFFFF (toBe 8 key) % 2048

/-- The position of a stream-identification key with its type. -/
def sidFind (m : Keyed Nat) (type key : Nat) : Option Nat :=
  (m.find? (fun e => bits e.2 63 0 = key && bits e.2 126 125 = type && bit e.2 127)).map (·.1)

/-- The word of a stream-identification entry (R185). -/
def sidWord (type handle key : Nat) : Nat := 2 ^ 127 + type * 2 ^ 125 + handle * 2 ^ 96 + key

/-- Insert a stream-identification entry; none where its bucket is full (R185). -/
def sidInsert (t : QTab) (type handle key : Nat) : Option QTab :=
  match sidFind t.sid type key with
  | some p => some { t with sid := kput t.sid p (sidWord type handle key) }
  | none =>
    let p := kfirstFree t.sid (sidBucket key * 4)
    if p < sidBucket key * 4 + 4 then some { t with sid := kput t.sid p (sidWord type handle key) } else none

/-- Remove every stream-identification entry of a handle. -/
def sidDropHandle (t : QTab) (handle : Nat) : QTab := { t with sid := t.sid.filter (fun e => bits e.2 111 96 ≠ handle) }

/-- The handle of a stream-identification entry, where the key is stored. -/
def sidHandle (t : QTab) (type key : Nat) : Option Nat := (sidFind t.sid type key).map (fun p => bits (kgetD t.sid p 0) 111 96)

/-- The port mask of a group; a group with `VALID` 0 is an empty mask (R186). -/
def groupMask (t : QTab) (g : Nat) : Nat :=
  let w := kgetD t.group g 0
  if bit w 127 then bits w 75 0 else 0

/-! Memory errors (R191). -/

/-- Remove an L2 entry from a position of a bank; a stream entry is remembered for firmware. -/
def l2Invalidate (t : QTab) (tgt : Bool) (pos : Nat) : QTab :=
  let t' := l2Del t tgt pos
  match kget (if tgt then t.target else t.serve) pos with
  | some e => if l2Owned e then { t' with lost := t'.lost ++ [(0, pos, l2Word e false)] } else t'
  | none => t'

/-- Remove what a table position holds; of the L2 table, positions from 65536 on are those of the target bank of a rehash. -/
def tblInvalidate (t : QTab) (table pos : Nat) : QTab :=
  if table = 0 then l2Invalidate t (decide (65536 ≤ pos)) (pos % 65536)
  else
    let w := kgetD (if table = 1 then t.sid else t.route) pos 0
    let t' := tblPut t table pos 0
    if (table = 1 || table = 2) && w ≠ 0 then { t' with lost := t'.lost ++ [(table, pos, w)] } else t'

/-- A table memory error met by a lookup: a corrected one is counted and reported at most once in any 1 ms, an uncorrectable one
invalidates the entry (R191). -/
def tableEcc (q table pos : Nat) (corrected : Bool) (s : State) : State :=
  let pay := evPay [(16, 1, q), (17, 1, table), (20, 2, pos % 65536)]
  if corrected then
    let s := s.bump (QD_ECC_CORR_CNT q)
    let t := s.tab q
    let due := match t.lastEcc with
      | some l => decide (l + 1000000 ≤ s.lt)
      | none => true
    if due then raise 0x0205 1 pay (s.setTab q { t with lastEcc := some s.lt }) else s
  else raise 0x0206 2 pay (s.modTab q (fun t => tblInvalidate t table pos))

/-- Writing the entry again handles `EV_TBL_ECC_ENTRY` (R515): the same quadrant and table, and the same position, or for the
L2 table the key's bucket or the overflow store. -/
def handleTblEcc (q table pos : Nat) (s : State) : State :=
  match kget s.flt.unhandled 2 with
  | some e =>
    let p := leAt e.payload 4 2
    if e.code = 0x0206 && byteAt e.payload 0 = q && byteAt e.payload 1 = table &&
       (p = pos || (table = 0 && (p / 4 = pos / 4 || ovfBase ≤ p))) then handleGroup 2 s else s
  | none => s

/-! Table commands (R187 to R190). -/

/-- `TABLE` and `QMASK` of a table command. -/
def tblTable (c : CmdCtx) : Nat := byteAt c.par 0
def tblQmask (c : CmdCtx) : Nat := byteAt c.par 1

/-- The entry word in bytes 8 to 23. -/
def tblWord (c : CmdCtx) : Nat := leAt c.par 8 16

/-- The header checks of R189. -/
def tblHeaderOk (c : CmdCtx) : Bool :=
  plenIs c 24 && decide (tblQmask c ≠ 0) && decide (tblQmask c < 16) && decide (tblTable c ≤ 4) && parZero c 2 8

/-- The named quadrants. -/
def tblQuads (c : CmdCtx) : List Nat := maskList (tblQmask c) 4

/-- The reserved bits of an entry, as a mask: [90:76] of an L2 entry, those of R185 and R186, and bits [127:64] of an entry of
64 bits. (DEDUCED, log entry 19) -/
def entryReserved (table : Nat) : Nat :=
  match table with
  | 0 => onesMask 90 76
  | 1 => onesMask 124 112 ||| onesMask 95 64
  | 2 => onesMask 127 64 ||| onesMask 60 56 ||| onesMask 47 28
  | 3 => onesMask 127 64 ||| onesMask 61 60 ||| onesMask 47 20
  | _ => onesMask 126 106 ||| onesMask 95 80

/-- Is a port a backbone port or PL? -/
def routePortOk (p : Nat) : Bool := decide (p ≤ 7) || p = 75

/-- The field checks of R189 on an entry word. -/
def entryFieldsOk (table w : Nat) : Bool :=
  match table with
  | 0 => !(bit w 119 && decide (4 < bits w 118 116)) && decide (bits w 107 101 ≤ 75)
  | 2 => (List.range 4).all (fun i => routePortOk (bits w (7 * i + 6) (7 * i)))
  | 4 => decide (bits w 79 76 = 0)
  | _ => true

/-- Is the key of an L2 word stream-owned in a named quadrant, or its `HANDLE` other than 0xFFFF (R181)? -/
def touchesOwned (s : State) (qs : List Nat) (w : Nat) : Bool :=
  decide (bits w 75 60 ≠ 0xFFFF) || qs.any (fun q =>
    match l2Lookup (s.tab q) (bits w 59 48) (bits w 47 0) with
    | some (_, _, e) => l2Owned e
    | none => false)

/-- Write an entry into one quadrant; false where there is no room. (DEDUCED, log entry 19) -/
def tblWrite (q table w : Nat) (pin : Bool) (s : State) : State × Bool :=
  if table = 0 then
    let e := l2OfWord w pin s.lt
    let t := s.tab q
    match l2Lookup t e.fid e.mac with
    | some (tgt, p, _) => (handleTblEcc q 0 p (s.setTab q (l2Set t tgt p e)), true)
    | none =>
      let b := l2Bucket (insertSeed s q) e.fid e.mac
      match l2Insert s q e with
      | some t' => (handleTblEcc q 0 (b * 4) (s.setTab q t'), true)
      | none => (rehashRequest q b s, false)
  else
    let i := tblKey table w
    (handleTblEcc q table i (s.modTab q (fun t => tblPut t table i w)), true)

/-- Write an entry into the named quadrants; the masks of those written and of those refused. -/
def tblWriteAll (table w : Nat) (pin : Bool) : List Nat → State → State × Nat × Nat
  | [], s => (s, 0, 0)
  | q :: r, s =>
    let (s, ok) := tblWrite q table w pin s
    let (s, a, b) := tblWriteAll table w pin r s
    (s, if ok then orBit a q else a, if ok then b else orBit b q)

/-- Firmware restores an entry that an error removed (R191): a stream's while the stream is held, a route's while no other has taken its place. -/
def restoreEntry (q : Nat) (s : State) (e : Nat × Nat × Nat) : State :=
  match e with
  | (0, _, w) => if khas s.streams (bits w 75 60) then (tblWrite q 0 w true s).1 else s
  | (1, p, w) =>
    if khas s.streams (bits w 111 96) && !khas (s.tab q).sid p then handleTblEcc q 1 p (s.modTab q (fun t => tblPut t 1 p w)) else s
  | (_, p, w) => if khas (s.tab q).route p then s else handleTblEcc q 2 p (s.modTab q (fun t => tblPut t 2 p w))

/-- Firmware restores what the quadrants have lost. (DESIGN CHOICE, log entry 137) -/
def restoreLost (s : State) : State :=
  (List.range 4).foldl (fun s q =>
    let l := (s.tab q).lost
    if l.isEmpty then s else l.foldl (restoreEntry q) (s.modTab q (fun t => { t with lost := [] }))) s

/-- The shared body of `TBL_INSERT` and `TBL_PIN`. -/
def tblInsert (c : CmdCtx) (opcode : Nat) (pin : Bool) (s : State) : State :=
  let table := tblTable c
  let w := tblWord c
  if !tblHeaderOk c || (pin && table ≠ 0) || w &&& entryReserved table ≠ 0 || !entryFieldsOk table w then
    complete c opcode stParam [] s
  else if table = 1 || table = 2 then complete c opcode stState [] s
  else
    let s := (tblQuads c).foldl (fun s q => drainLearn q s) s
    if table = 0 && touchesOwned s (tblQuads c) w then complete c opcode stState [] s
    else
      let (s, done, refused) := tblWriteAll table w pin (tblQuads c) s
      complete c opcode (if refused = 0 then stOk else stState) [byte done, byte refused, 0, 0] s

/-- `TBL_INSERT` (R182, R187, R189). -/
def execTblInsert (c : CmdCtx) (s : State) : Res := .next (command c 0x0203 s (tblInsert c 0x0203 false))

/-- `TBL_PIN` (R182, R187, R189). -/
def execTblPin (c : CmdCtx) (s : State) : Res := .next (command c 0x0207 s (tblInsert c 0x0207 true))

/-- Remove a key from one quadrant; whether it was there. -/
def tblRemove (q table w : Nat) (s : State) : State × Bool :=
  let t := s.tab q
  if table = 0 then
    match l2Lookup t (bits w 59 48) (bits w 47 0) with
    | some (tgt, p, _) => (s.setTab q (l2Del t tgt p), true)
    | none => (s, false)
  else
    let i := tblKey table w
    (s.setTab q (tblPut t table i 0), tblValid table (tblGet t table i))

/-- Remove a key from the named quadrants; the mask of those where it was. -/
def tblRemoveAll (table w : Nat) : List Nat → State → State × Nat
  | [], s => (s, 0)
  | q :: r, s =>
    let (s, was) := tblRemove q table w s
    let (s, a) := tblRemoveAll table w r s
    (s, if was then orBit a q else a)

/-- `TBL_DELETE` (R187, R189): an absent key completes with `OK`. Only the key fields count, and `HANDLE` (R181). -/
def execTblDelete (c : CmdCtx) (s : State) : Res :=
  .next (command c 0x0204 s fun s =>
    let table := tblTable c
    let w := tblWord c
    let owned (s : State) := (tblQuads c).any (fun q =>
      match l2Lookup (s.tab q) (bits w 59 48) (bits w 47 0) with
      | some (_, _, e) => l2Owned e
      | none => false)
    if !tblHeaderOk c then complete c 0x0204 stParam [] s
    else if table = 1 || table = 2 then complete c 0x0204 stState [] s
    else
      let s := (tblQuads c).foldl (fun s q => drainLearn q s) s
      if table = 0 && (owned s || decide (bits w 75 60 ≠ 0xFFFF)) then complete c 0x0204 stState [] s
      else
        let (s, was) := tblRemoveAll table w (tblQuads c) s
        complete c 0x0204 stOk [byte was, 0, 0, 0] s)

/-- Does a flush remove this entry (R187)? -/
def flushes (port device : Nat) (remote pinned : Bool) (e : L2Entry) : Bool :=
  e.port = port && !l2Owned e && (pinned || !e.pin) && (if remote then e.kind = 1 && e.device = device else e.kind = 0)

/-- `TBL_FLUSH_PORT` (R187, R190). -/
def execTblFlushPort (c : CmdCtx) (s : State) : Res :=
  .next (command c 0x0205 s fun s =>
    let port := byteAt c.par 8
    let f := byteAt c.par 10
    if !tblHeaderOk c || tblTable c ≠ 0 || 75 < port || 4 ≤ f || !parZero c 11 24 then complete c 0x0205 stParam [] s
    else
      let s := (tblQuads c).foldl (fun s q => drainLearn q s) s
      let keep (e : Nat × L2Entry) : Bool := !flushes port (byteAt c.par 9) (bit f 0) (bit f 1) e.2
      let size (s : State) (q : Nat) : Nat := (s.tab q).serve.length + (s.tab q).target.length
      let s' := (tblQuads c).foldl (fun s q => s.modTab q (fun t =>
        { t with serve := t.serve.filter keep, target := t.target.filter keep })) s
      complete c 0x0205 stOk ((List.range 4).flatMap (fun q => toLe 4 (size s q - size s' q))) s')

/-- A record of a search or a walk: entry, `LOCATION`, flags (R187). -/
def tblRecord (w loc : Nat) (ovf bank found : Bool) : Bytes :=
  toLe 16 w ++ toLe 2 loc ++ [byte (b2n ovf + 2 * b2n bank + 128 * b2n found)] ++ zeros 5

/-- The record of an L2 position. -/
def l2Record (tgt : Bool) (p : Nat) (e : L2Entry) : Bytes :=
  tblRecord (l2Word e tgt) (if ovfBase ≤ p then p - ovfBase else p) (decide (ovfBase ≤ p)) tgt true

/-- The reply of a search in one quadrant. -/
def tblSearchReply (t : QTab) (table w : Nat) : Bytes :=
  if table = 0 then
    match l2Lookup t (bits w 59 48) (bits w 47 0) with
    | some (tgt, p, e) => l2Record tgt p e
    | none => zeros 24
  else if table = 1 then
    match sidFind t.sid (bits w 126 125) (bits w 63 0) with
    | some p => tblRecord (kgetD t.sid p 0) p false false true
    | none => zeros 24
  else
    let i := tblKey table w
    let x := tblGet t table i
    tblRecord x i false false (tblValid table x)

/-- `TBL_SEARCH` (R187, R189). -/
def execTblSearch (c : CmdCtx) (s : State) : Res :=
  .next (command c 0x0201 s fun s =>
    match tblQuads c with
    | [q] =>
      if !tblHeaderOk c then complete c 0x0201 stParam [] s
      else
        let s := drainLearn q s
        complete c 0x0201 stOk (tblSearchReply (s.tab q) (tblTable c) (tblWord c)) s
    | _ => complete c 0x0201 stParam [] s)

/-- The valid entries of a table in ascending position: (position, record). -/
def tblEntries (t : QTab) (table : Nat) : List (Nat × Bytes) :=
  if table = 0 then t.serve.map (fun e => (e.1, l2Record false e.1 e.2))
  else
    let m := match table with
      | 1 => t.sid
      | 2 => t.route
      | 3 => t.fid
      | _ => t.group
    (m.filter (fun e => tblValid table e.2)).map (fun e => (e.1, tblRecord e.2 e.1 false false true))

/-- The position a cursor names, over buckets and then the overflow store (R188). -/
def cursorPos (cur : Nat) : Nat := if bit cur 16 then ovfBase + cur % 65536 else cur % 65536

/-- The cursor of a position in a generation (R188). -/
def posCursor (table gen p : Nat) : Nat :=
  gen * 2 ^ 28 + (if table = 0 && decide (ovfBase ≤ p) then 2 ^ 16 + (p - ovfBase) else p)

/-- `TBL_NEXT` (R188, R189). -/
def execTblNext (c : CmdCtx) (s : State) : Res :=
  .next (command c 0x0202 s fun s =>
    let cur := leAt c.par 8 4
    match tblQuads c with
    | [q] =>
      if !tblHeaderOk c || c.rlen < 32 || !parZero c 12 24 then complete c 0x0202 stParam [] s
      else
        let s := drainLearn q s
        let t := s.tab q
        if rehashing t || (cur ≠ 0 && bits cur 31 28 ≠ t.gen) then complete c 0x0202 stState [] s
        else
          let rest := (tblEntries t (tblTable c)).filter (fun e => cursorPos cur ≤ e.1)
          let n := min 256 ((c.rlen - 8) / 24)
          let now := rest.take n
          let next := match now.getLast?, rest.drop n with
            | some l, _ :: _ => posCursor (tblTable c) t.gen (l.1 + 1)
            | _, _ => 0xFFFFFFFF
          complete c 0x0202 stOk (toLe 4 now.length ++ toLe 4 next ++ now.flatMap (·.2)) s
    | _ => complete c 0x0202 stParam [] s)

/-- Accept a rehash in one quadrant: the check starts under the seed, or under one drawn that is not the present one (R184). (DEDUCED, log entry 19) -/
def rehashStart (seed q : Nat) (s : State) : State :=
  if seed ≠ 0 then s.modTab q (fun t => { t with rehash := .check seed })
  else
    let d := s.freeVal % 2 ^ 32
    let k := if d = s.reg (QD_L2_SEED q) then (d + 1) % 2 ^ 32 else d
    (s.drew).modTab q (fun t => { t with rehash := .check k })

/-- `TBL_REHASH` (R184): `blocked` says whether an admitted stream without a live second path passes a quadrant (R69). -/
def tblRehash (blocked : State → Nat → Bool) (c : CmdCtx) (s : State) : State :=
  if !tblHeaderOk c || !parZero c 12 24 then complete c 0x0206 stParam [] s
  else if (tblQuads c).any (blocked s) then complete c 0x0206 stQuiesce [] s
  else if (tblQuads c).any (fun q => rehashing (s.tab q)) then complete c 0x0206 stState [] s
  else complete c 0x0206 stAccepted [] ((tblQuads c).foldl (fun s q => rehashStart (leAt c.par 8 4) q s) s)

/-! Resets and device states (R192). -/

/-- A rehash in progress is abandoned (R192): the serving bank is kept, and the entries that had been moved out of it return to
their places under the serving seed. -/
def rehashAbandon (seed : Nat) (t : QTab) : QTab :=
  match t.rehash with
  | .idle => t
  | _ => { t with rehash := .idle, target := [], serve := (copyInto seed (t.target.map (·.2)) t.serve 0).1 }

/-- Warm reset (R192): only pinned entries and the FID and group tables are kept of what the host or learning wrote. -/
def tabWarm (seed : Nat) (t : QTab) : QTab :=
  let t := rehashAbandon seed t
  { t with serve := t.serve.filter (fun e => e.2.pin), queue := [], route := [], lost := [], gen := 0, lastReq := none, lastEcc := none }

/-- S4, S5 and POR (R192): everything is removed; the configuration image is loaded on exit. -/
def tabPor (_ : QTab) : QTab := {}

end Sys2Proof.Machine
end

