-- ==== Sys2Proof/Machine/Bound.lean ====
section
/-! DEFINITION. The bound engine (R317 to R332, R389, R402). -/

namespace Sys2Proof.Machine

/-! What the engine takes from a stream (R318, R321). -/

/-- A stream as the engine counts it at a port: handle, class, bits per frame, frames, interval, jitter and upstream sum. -/
structure BStream where
  handle : Nat
  tc : Nat
  bits : Nat
  frames : Nat
  interval : Nat
  jitter : Nat
  up : Nat
  inPort : Nat
  ident : Nat
  dlen : Nat
deriving DecidableEq, Repr

/-- *L* of a stream at a port: eight times the wire length, with the tags of a backbone port (R318). -/
def streamBits (s : State) (p len : Nat) : Nat := 8 * wireLen p (if p ≤ 7 || p = 75 then len + 16 else len) (msecOn s p)

/-- The upstream sum of a stream at a device: the larger one where both paths enter (R321). -/
def Stream.up (x : Stream) : Nat := x.hops.foldl (fun m g => max m g.aUp) 0

/-- A stream at a port. -/
def bstream (s : State) (p h : Nat) (x : Stream) : BStream :=
  { handle := h, tc := x.tc, bits := streamBits s p x.len, frames := x.frames, interval := x.interval, jitter := x.jitter, up := x.up,
    inPort := ((x.hops.find? (fun g => g.outPort = p)).map (·.inPort)).getD x.inPort, ident := x.busId, dlen := x.maxLen - 48 }

/-- The reserved streams that leave by a port. -/
def streamsAt (s : State) (p : Nat) : List (Nat × Stream) := s.reserved.filter (fun e => e.2.hops.any (fun g => g.outPort = p))

/-- The streams of a port as the engine counts them. -/
def bstreams (s : State) (p : Nat) : List BStream := (streamsAt s p).map (fun e => bstream s p e.1 e.2)

/-- *r* in bits per ns, and the burst in bits. -/
def BStream.rate (b : BStream) : Fr := Fr.mk' (b.frames * b.bits) b.interval
def BStream.burst (b : BStream) : Fr := Fr.add (Fr.of (b.frames * b.bits)) (Fr.mul b.rate (Fr.of (b.jitter + b.up)))

/-! Gates (R319, R320). -/

/-- The gates of a port over one cycle: durations with their masks; none while `SHUTTER_EN` is 0. -/
abbrev Gates := Option (List (Nat × Nat))

/-- The gates of an egress set. -/
def gatesOf (x : ESet) : Gates :=
  if x.shutterEn then some ((segments x).map (fun g => (g.2.1 - g.1, leGates (elist x g.2.2)))) else none

/-- The length of a cycle. -/
def gatesLen (l : List (Nat × Nat)) : Nat := (l.map (·.1)).sum

/-- The unbroken open intervals of a class in a list that begins with a closed entry. -/
def openIntervals (c : Nat) : List (Nat × Nat) → Nat → List Nat
  | [], acc => if acc = 0 then [] else [acc]
  | (d, g) :: r, acc =>
    if bit g c then openIntervals c r (acc + d) else if acc = 0 then openIntervals c r 0 else acc :: openIntervals c r 0

/-- A list turned so that it begins with an entry closed for the class: intervals across the cycle's end count as one (R319). -/
def fromClosed (c : Nat) (l : List (Nat × Nat)) : List (Nat × Nat) :=
  l.dropWhile (fun e => bit e.2 c) ++ l.takeWhile (fun e => bit e.2 c)

/-- Is a class open in every entry? -/
def alwaysOpen (c : Nat) (l : List (Nat × Nat)) : Bool := l.all (fun e => bit e.2 c)

/-- `open_time` (R319). -/
def openTime (c : Nat) (l : List (Nat × Nat)) (most rate : Fr) : Fr :=
  Fr.sum ((openIntervals c (fromClosed c l) 0).map (fun o => Fr.sub (Fr.of o) (Fr.div10 most rate)))

/-- Does a class have its gate open at some moment while another has (R320)? -/
def gatesMeet (g : Gates) (a b : Nat) : Bool :=
  match g with
  | none => true
  | some l => l.any (fun e => bit e.2 a && bit e.2 b)

/-! The terms (R317, R320, R324). -/

/-- kb/s as bits per ns. -/
def kbps (n : Nat) : Fr := Fr.mk' n 1000000

/-- A port as the engine judges it: the settings of a set and the gates that apply. -/
structure BPort where
  port : Nat
  set : ESet
  gates : Gates

/-- `higher_rate` and `higher_burst`. -/
def higherRate (v : BPort) (l : List BStream) (c : Nat) : Fr :=
  let tc7 := if gatesMeet v.gates c 7 then kbps (eclass v.set v.port 7).rate else Fr.of 0
  if c = 5 && gatesMeet v.gates 5 6 then Fr.add tc7 (Fr.sum ((l.filter (fun b => b.tc = 6)).map BStream.rate)) else tc7
def higherBurst (v : BPort) (l : List BStream) (c : Nat) : Fr :=
  let tc7 := if gatesMeet v.gates c 7 then Fr.of ((eclass v.set v.port 7).burst * 8) else Fr.of 0
  if c = 5 && gatesMeet v.gates 5 6 then Fr.add tc7 (Fr.sum ((l.filter (fun b => b.tc = 6)).map BStream.burst)) else tc7

/-- Does a class below block with the residue only (R320)? -/
def blockPreempt (s : State) (v : BPort) (c : Nat) : Bool := decide (c ≤ 4) && bit v.set.preemptable c && preemptUnder s v.port v.set

/-- `blocking` in bits. -/
def blocking (s : State) (v : BPort) (c : Nat) : Nat :=
  let p := v.port
  let whole := (s.fld (PORT_RX_CFG.MAX_LEN p) + 52 + (if p ≤ 7 || p = 75 then 16 else 0)) * 8
  (List.range c).foldl (fun m k =>
    if gatesMeet v.gates c k then max m (if blockPreempt s v k then residueBytes v.set * 8 else whole) else m) 0

/-- Does a bound rest on the preemption residue (R290)? -/
def restsOnResidue (s : State) (v : BPort) (c : Nat) : Bool := (List.range c).any (fun k => gatesMeet v.gates c k && blockPreempt s v k)

/-- Is a port one of T1S0 to T1S7? -/
def isT1s (p : Nat) : Bool := decide (32 ≤ p) && decide (p ≤ 39)

/-- `plca_term` in ns (R324). -/
def plcaTerm (s : State) (p : Nat) : Nat :=
  if isT1s p then
    let n := Config.plcaNodes p
    n * Config.plcaTimer p * 100 + (n - 1) * (s.fld (PORT_RX_CFG.MAX_LEN p) + 52) * 800
  else 0

/-- The queue term of a class at an Ethernet port: *T* + `class_burst` / *R*, with `wake` added to *T*; none where a stability test fails
(R317). -/
def queueTerm (s : State) (v : BPort) (l : List BStream) (c wake : Nat) : Option Fr :=
  let mine := l.filter (fun b => b.tc = c)
  let rate := Fr.mk' (s.lineRate v.port) sec
  let most := Fr.most (mine.map (fun b => Fr.of b.bits))
  let gated : Option (List (Nat × Nat)) := match v.gates with
    | some g => if alwaysOpen c g then none else some g
    | none => none
  let (r0, t0) : Fr × Fr := match gated with
    | some g =>
      let o := openTime c g most rate
      (Fr.div (Fr.mul rate o) (Fr.of (gatesLen g)), Fr.sub (Fr.of (gatesLen g)) o)
    | none => (rate, Fr.of 0)
  let hr := higherRate v l c
  if (isT1s v.port && decide (Config.plcaNodes v.port = 0)) || Fr.le r0 hr then none
  else
    let r := Fr.sub r0 hr
    let t := Fr.add t0 (Fr.div10 (Fr.add (higherBurst v l c) (Fr.of (blocking s v c))) r)
    let t := Fr.add t (Fr.of (plcaTerm s v.port + wake))
    let k := eclass v.set v.port 5
    let own := decide (c = 5) && decide (k.mode ≠ 0)
    let t := if own then Fr.add t (Fr.div10 most (kbps k.rate)) else t
    let r := if own then Fr.min r (kbps k.rate) else r
    if Fr.lt r (Fr.sum (mine.map BStream.rate)) then none
    else some (Fr.add t (Fr.div10 (Fr.sum (mine.map BStream.burst)) r))

/-! Legacy ports (R325 to R327, R389). -/

/-- A bit time in ns, from a bit-timing register's fields. -/
def bitTime (brp t1 t2 : Nat) : Fr := Fr.mk' ((brp + 1) * (3 + t1 + t2) * 25) 2
def nomBit (s : State) (n : Nat) : Fr :=
  bitTime (s.fld (LEG_CAN_NBT.BRP_M1 n)) (s.fld (LEG_CAN_NBT.TSEG1_M1 n)) (s.fld (LEG_CAN_NBT.TSEG2_M1 n))
def fdBit (s : State) (n : Nat) : Fr :=
  bitTime (s.fld (LEG_CAN_DBT.BRP_M1 n)) (s.fld (LEG_CAN_DBT.TSEG1_M1 n)) (s.fld (LEG_CAN_DBT.TSEG2_M1 n))
def xlBit (s : State) (n : Nat) : Fr :=
  bitTime (s.fld (LEG_CAN_XBT.BRP_M1 n)) (s.fld (LEG_CAN_XBT.TSEG1_M1 n)) (s.fld (LEG_CAN_XBT.TSEG2_M1 n))

/-- The transmission time of a CAN frame (R325): format 0 classical, 1 FD, 2 XL. -/
def canTime (s : State) (n fmt : Nat) (ide : Bool) (d : Nat) : Fr :=
  let g := if ide then 54 else 34
  let a := if ide then 36 else 17
  if fmt = 0 then Fr.mul (Fr.of (g + 8 * d + 13 + (g + 8 * d - 1) / 4)) (nomBit s n)
  else if fmt = 1 then
    Fr.add (Fr.mul (Fr.of (a + (a - 1) / 4 + 13)) (nomBit s n))
      (Fr.mul (Fr.of (5 + 8 * d + (4 + 8 * d) / 4 + (if d ≤ 16 then 27 else 32))) (fdBit s n))
  else Fr.add (Fr.mul (Fr.of 64) (nomBit s n)) (Fr.mul (Fr.of (8 * d + 8 * d / 10 + 120)) (xlBit s n))

/-- The format of a stream's frames on a CAN bus: the smallest that carries its data (log entry 41). -/
def canFmt (d : Nat) : Nat := if d ≤ 8 then 0 else if d ≤ 64 then 1 else 2

/-- A frame of a CAN bus as the engine counts it: its place in arbitration, its time, period and jitter; `tie` marks the streams of R389. -/
structure CanItem where
  prio : Nat
  time : Fr
  period : Fr
  jitter : Nat
  tie : Bool

/-- The place of an identifier in arbitration. -/
def idPrio (id : Nat) (ide : Bool) : Nat :=
  if ide then id / 2 ^ 18 * 2 ^ 20 + 2 ^ 19 + id % 2 ^ 18 else id % 2048 * 2 ^ 20

/-- Does an identifier need the extended format? -/
def longId (id : Nat) : Bool := decide (2048 ≤ id)

/-- A stream on a CAN bus. -/
def canItem (s : State) (n : Nat) (me : BStream) (b : BStream) : CanItem :=
  { prio := idPrio b.ident (longId b.ident), time := canTime s n (canFmt b.dlen) (longId b.ident) b.dlen, period := Fr.of b.interval,
    jitter := b.jitter + b.up, tie := decide (b.inPort = me.inPort) && decide (b.tc = me.tc) }

/-- The declared foreign frames of a bus (R326). -/
def canForeign (s : State) (n : Nat) : List CanItem :=
  ((List.range 32).filter (fun m => s.flag (ADM_FOREIGN0.VALID n m))).map (fun m =>
    let ide := s.flag (ADM_FOREIGN0.IDE n m)
    let time := canTime s n (s.fld (ADM_FOREIGN1.FMT n m)) ide (s.fld (ADM_FOREIGN1.BYTES n m))
    let per := s.fld (ADM_FOREIGN1.PERIOD n m)
    { prio := idPrio (s.fld (ADM_FOREIGN0.ID n m)) ide, time := time, period := if per = 0 then time else Fr.of (per * 10000),
      jitter := 0, tie := false })

/-- The largest frame that a controller may send in its mode. -/
def canLargest (s : State) (n : Nat) : Fr :=
  let c0 := canTime s n 0 true 8
  let c1 := if s.flag (LEG_CAN_MODE.FD_EN n) then canTime s n 1 true 64 else c0
  let c2 := if s.flag (LEG_CAN_MODE.XL_EN n) then canTime s n 2 false 2048 else c1
  Fr.max c0 (Fr.max c1 c2)

/-- Does a `DEST` reach a port of this device (R169, R382)? A group counts where any quadrant's entry holds the port. -/
def destReaches (s : State) (p kind device port group : Nat) : Bool :=
  match kind with
  | 0 => decide (port = p)
  | 1 => s.flag FAB_STATUS.ADDR_VALID && decide (device = s.fld FAB_STATUS.ADDR) && decide (port = p)
  | 2 => (List.range 4).any (fun q => bit (groupMask (s.tab q) group) p)
  | _ => false

/-- Is best-effort CAN traffic routed to a port (R326): by a frame route, by an unpack entry in direct mode, whose messages name their bus (R404), or
by a transmit image (R406)? -/
def canRouted (s : State) (p : Nat) : Bool :=
  (List.range 1024).any (fun i =>
    let e := gwEntry s.gw.active 0 i
    decide (rtBits e 127 127 = 1) && destReaches s p (rtBits e 59 58) (rtBits e 57 50) (rtBits e 49 43) (rtBits e 42 33)) ||
  (List.range 64).any (fun i =>
    let e := gwEntry s.gw.active 2 i
    bit (byteAt e 0) 7 && !bit (byteAt e 0) 0) ||
  (List.range 1024).any (fun i =>
    let e := gwEntry s.gw.active 3 i
    let d := leAt e 8 4
    imValid e && imTx e && destReaches s p (destKind d) (destDevice d) (destPort d) (destGroup d))

/-- The iteration for *w* (R326). -/
def canIterate (tn b limit : Fr) (hp : List CanItem) : Nat → Fr → Option Fr
  | 0, _ => none
  | k + 1, w =>
    if Fr.lt limit w then none
    else
      let w' := Fr.add b (Fr.sum (hp.map (fun j => Fr.mul (Fr.of (Fr.div (Fr.add (Fr.add w (Fr.of j.jitter)) tn) j.period).ceil) j.time)))
      if w' = w then some w else canIterate tn b limit hp k w'

/-- The queue term of a CAN stream (R326, R389). -/
def canTerm (s : State) (n : Nat) (l : List BStream) (me : BStream) (limit : Nat) : Option Fr :=
  let mine := canItem s n me me
  let others := (l.filter (fun b => b.handle ≠ me.handle)).map (canItem s n me) ++ canForeign s n
  let hp := others.filter (fun j => decide (j.prio < mine.prio) || j.tie)
  let low := (others.filter (fun j => !(decide (j.prio < mine.prio) || j.tie))).map (·.time)
  let b := Fr.most (low ++ (if canRouted s (40 + n) then [canLargest s n] else []))
  let all := Fr.most (mine.time :: others.map (·.time) ++ (if canRouted s (40 + n) then [canLargest s n] else []))
  let e := Fr.mul (Fr.of (s.fld (ADM_CAN.ERR_FRAMES n))) (Fr.add (Fr.mul (Fr.of 31) (nomBit s n)) all)
  (canIterate (nomBit s n) b (Fr.of limit) hp 64 (Fr.add b (Fr.sum (hp.map (·.time))))).map (fun w => Fr.add (Fr.add w mine.time) e)

/-- The queue term of a LIN stream; none where no entry of the present table carries it (R327). -/
def linTerm (s : State) (n id : Nat) : Option Fr :=
  let l := linTable s n (s.lin n).table
  let delay (e : Nat × Bytes) : Nat := leAt e.2 4 2 * 100000
  (l.find? (fun e => decide (byteAt e.2 3 = id % 64))).map (fun e => Fr.of ((l.map delay).sum + delay e))

/-- The queue term of a FlexRay stream; none where it has no static slot (R327). -/
def frTerm (s : State) (ch slot : Nat) : Option Fr :=
  match frBuffer s slot ch with
  | some i =>
    if slot ≤ s.fld LEG_FR_SEGMENTS.STATIC_SLOTS then
      let mt := s.fld LEG_FR_CYCLE.MT_NS
      some (Fr.of (s.fld LEG_FR_CYCLE.CYCLE_MT * mt * byteAt (gwEntry s.gw.active 6 i) 4 + s.fld LEG_FR_SEGMENTS.SLOT_MT * mt))
    else none
  | none => none

/-! Hop bounds. -/

/-- Verdicts of R312 that the engine gives. -/
def vRate : Nat := 8
def vNoSlot : Nat := 14

/-- The collection timeout that a batched stream adds at its ingress device (R317, R402). -/
def batchTerm (s : State) (x : Stream) (p : Nat) : Nat :=
  if x.ingress && x.batched && isEthPort p then
    match chanIn s.gw.active p x.tc with
    | some i => chTimeout (gwEntry s.gw.active 1 i) * 1000 + 132
    | none => 0
  else 0

/-- A hop bound in ns under a port's settings (R317, R323, R325 to R328), or the verdict that refuses it. -/
def hopBoundOn (s : State) (v : BPort) (l : List BStream) (h : Nat) (x : Stream) (skew wake : Nat) : Nat ⊕ Nat :=
  let p := v.port
  let fixed := 900 + 24 + 2000 + batchTerm s x p + skew
  let done (q : Fr) : Nat ⊕ Nat := .inr (Fr.add (Fr.of fixed) q).ceil
  if isEthPort p then
    match queueTerm s v l x.tc wake with
    | some q => done q
    | none => .inl vRate
  else if isCanPort p then
    if x.frames ≠ 1 then .inl vNoSlot
    else match canTerm s (p - 40) l (bstream s p h x) x.reqBound with
      | some q => done q
      | none => .inl vRate
  else
    match (if isLinPort p then linTerm s (p - 64) x.busId else frTerm s (p - 70) x.busId) with
    | some q => done q
    | none => .inl vNoSlot

/-- A port as it stands. -/
def portNow (s : State) (p : Nat) : BPort := { port := p, set := (s.eport p).active, gates := gatesOf (s.eport p).active }

/-- A hop bound under the port's active set. -/
def hopBound (s : State) (p h : Nat) (x : Stream) (skew : Nat) : Nat ⊕ Nat :=
  hopBoundOn s (portNow s p) (bstreams s p) h x skew 0

/-- A stream whose recomputed bound at a port exceeds what is reserved for it (R329); the first one found. -/
def overBound (s : State) (v : BPort) (wake : Nat → Nat) : Option Nat :=
  let l := bstreams s v.port
  ((streamsAt s v.port).find? (fun e =>
    e.2.hops.any (fun g => decide (g.outPort = v.port) && (match hopBoundOn s v l e.1 e.2 g.skew (wake e.2.tc) with
      | .inl _ => true
      | .inr b => decide (g.bound < b))))).map (·.1)

/-- The gates of a set over a cycle of at least one entry, for the joined list: a set with `SHUTTER_EN` 0 is open as long as the other. -/
def joinPart (x other : ESet) : List (Nat × Nat) :=
  match gatesOf x with
  | some l => l
  | none => [((match gatesOf other with
    | some l => gatesLen l
    | none => 0), 255)]

/-- The joined list of the transition bound (R329). -/
def joinedGates (old new : ESet) : Gates :=
  if old.shutterEn || new.shutterEn then some (joinPart old new ++ joinPart new old) else none

/-- How much sooner than a parked lane wakes the new list opens a class (R301, R329): the wake time then counts. -/
def flipWake (s : State) (p : Nat) (new : ESet) (c : Nat) : Nat :=
  let e := s.eport p
  if laneAwake e || c < 5 then 0
  else
    let first := match gatesOf new with
      | none => 0
      | some l => ((l.takeWhile (fun g => !bit g.2 c)).map (·.1)).sum
    if first < wakeTime p * 1000 then wakeTime p * 1000 else 0

/-- Would a new set change the mode or the rate of TC5 under a stream that rests on them (R281)? -/
def tc5Changes (s : State) (p : Nat) (new : ESet) : Option Nat :=
  let a := eclass (s.eport p).active p 5
  let b := eclass new p 5
  if a.mode = b.mode && a.rate = b.rate then none
  else ((streamsAt s p).find? (fun e => e.2.tc = 5)).map (·.1)

/-- The re-check of a flip (R281, R329): the first stream that stands against a new set. -/
def recheck : Recheck := fun s p new =>
  let old := (s.eport p).active
  match tc5Changes s p new with
  | some h => some h
  | none =>
    match overBound s { port := p, set := new, gates := gatesOf new } (fun _ => 0) with
    | some h => some h
    | none => overBound s { port := p, set := new, gates := joinedGates old new } (flipWake s p new)

/-! Quota and energy (R331, R332). -/

/-- The buffers of one path at a device (R331). -/
def pathQuota (x : Stream) (up h : Nat) : Nat := x.frames + divUp (x.frames * (x.jitter + up + h)) x.interval

/-- The pool of a stream's quota: its frame and 16 bytes, and 16 more where it arrives on a fabric port (R331). -/
def quotaPool (x : Stream) : Nat := fitPool (x.maxLen + 16 + (if x.ingress then 0 else 16))

/-- The energy of a stream at a port in µW (R332). -/
def hopEnergy (s : State) (x : Stream) (p : Nat) : Nat :=
  let k := costKind s p
  let w := streamBits s p x.len / 8
  divUp (x.frames * (s.fld (EGR_COST.FIXED k) + s.fld (EGR_COST.BYTE k) * w) * 1000) x.interval

end Sys2Proof.Machine
end

