-- ==== Sys2Proof/Machine/CfgImage.lean ====
section
/-! DEFINITION. The layout of the configuration image (R593 to R595): sections, parts, records. -/

namespace Sys2Proof.Machine

/-- A section of an image: offset and length. -/
def imgOff (img : Bytes) (n : Nat) : Nat := leAt img (32 + 8 * n) 4
def imgLen (img : Bytes) (n : Nat) : Nat := leAt img (36 + 8 * n) 4

/-- The bytes of a section. -/
def imgSection (img : Bytes) (n : Nat) : Bytes := slice img (imgOff img n) (imgLen img n)

/-- A part of a section (R594): kind, seat, identity, its records with their offset in the section, and whether the part ends in the
section. -/
structure Part594 where
  kind : Nat
  seat : Nat
  uid : Nat
  off : Nat
  bytes : Bytes
deriving DecidableEq, Repr

/-- The parts of a section from an offset on. -/
def partsFrom (sec : Bytes) : Nat → Nat → List Part594
  | 0, _ => []
  | n + 1, off =>
    if sec.length < off + 16 then []
    else
      let len := leAt sec (off + 4) 4
      { kind := byteAt sec off, seat := byteAt sec (off + 1), uid := beAt sec (off + 8) 8, off := off + 16, bytes := slice sec (off + 16) len } ::
        partsFrom sec n (off + 16 + len)

/-- All parts of a section. -/
def sectionParts (sec : Bytes) : List Part594 := partsFrom sec (sec.length / 16 + 1) 0

/-- A record (R595): its offset in the section, its type, and the bytes that follow its header. `none` as bytes: it runs past its part. -/
structure Rec595 where
  off : Nat
  type : Nat
  bytes : Option Bytes
deriving DecidableEq, Repr

/-- The records of a part from an offset in it on. -/
def recordsFrom (base : Nat) (b : Bytes) : Nat → Nat → List Rec595
  | 0, _ => []
  | n + 1, off =>
    if b.length ≤ off then []
    else if b.length < off + 4 then [{ off := base + off, type := 0, bytes := none }]
    else
      let len := leAt b (off + 2) 2
      if b.length < off + 4 + len then [{ off := base + off, type := leAt b off 2, bytes := none }]
      else { off := base + off, type := leAt b off 2, bytes := some (slice b (off + 4) len) } :: recordsFrom base b n (off + 4 + len)

/-- All records of a part. -/
def partRecords (p : Part594) : List Rec595 := recordsFrom p.off p.bytes (p.bytes.length / 4 + 1) 0

/-- A record that writes a register: address and value. -/
def recWrite (r : Rec595) : Option (Nat × Nat) :=
  match r.bytes with
  | some b => if r.type = 1 && decide (b.length = 8) then some (leAt b 0 4, leAt b 4 4) else none
  | none => none

/-- The value that a part's records leave in a register; none where no record writes it. -/
def partReg (p : Part594) (addr : Nat) : Option Nat :=
  (partRecords p).foldl (fun v r => match recWrite r with
    | some (a, w) => if a = addr then some w else v
    | none => v) none

/-- The part that is an identity's own, by identity or as the part of every device (R594), where no seat can decide. -/
def partByUid (l : List Part594) (uid : Nat) : Option Part594 := l.find? (fun p => p.kind = 1 && p.uid = uid)
def partForAll (l : List Part594) : Option Part594 := l.find? (fun p => p.kind = 2)

/-- The seat that a device's section 0 part gives it. (DEDUCED, log entry 44) -/
def imgSeat (img : Bytes) (uid : Nat) : Option Nat :=
  let l := sectionParts (imgSection img 0)
  match (partByUid l uid).orElse (fun _ => partForAll l) with
  | some p => match partReg p FAB_CFG with
    | some w => if bit w 31 then some (bits w 23 16) else none
    | none => none
  | none => none

/-- A device's own part of a section (R594). -/
def ownPart (img : Bytes) (n uid : Nat) : Option Part594 :=
  let l := sectionParts (imgSection img n)
  let bySeat := (imgSeat img uid).bind (fun a => l.find? (fun p => p.kind = 0 && p.seat = a))
  (partByUid l uid).orElse (fun _ => bySeat.orElse (fun _ => partForAll l))

/-- The value that an image gives a register of a device. -/
def imgReg (img : Bytes) (n uid addr : Nat) : Option Nat := (ownPart img n uid).bind (fun p => partReg p addr)

end Sys2Proof.Machine
end

