-- ==== Sys2Proof/Machine/LiveOk.lean ====
section
/-! DEFINITION. Which sections of the loaded configuration image the active settings still match (`LIVE_OK`, R470, R595). -/

namespace Sys2Proof.Machine

/-- The firmware's context for a command record of the image. -/
def imgCmd (par : Bytes) : CmdCtx := { who := .firmware, tag := 0, rlen := 0, raddr := 0, par := par }

/-- Does the entry of a record of table 0 stand in a quadrant as the record gives it? What traffic changes is not a setting. -/
def l2Live (t : QTab) (w : Nat) (pin : Bool) : Bool :=
  match l2Lookup t (bits w 59 48) (bits w 47 0) with
  | some (_, _, e) => decide ({ e with hit := true, seenClear := false, locked := false, last := 0, moves := 0 } = l2OfWord w pin 0)
  | none => false

/-- Do the active settings hold what a command record stages or inserts? -/
def commandLive (s : State) (op : Nat) (c : CmdCtx) : Bool :=
  match op with
  | 0x0203 | 0x0207 =>
    (tblQuads c).all (fun q =>
      if tblTable c = 0 then l2Live (s.tab q) (tblWord c) (decide (op = 0x0207))
      else (tblEntries (s.tab q) (tblTable c)).any (fun e => decide (tblGet (s.tab q) (tblTable c) e.1 = tblWord c)))
  | 0x0301 =>
    (maskList (hsQmask c) 4).all (fun q => (List.range (hsCount c)).all (fun k =>
      decide (setEntry (s.hq q).active (hsItem c) (hsFirst c + k) = hsEntry c k)))
  | 0x0501 =>
    (List.range (shCount c)).all (fun k =>
      decide (shBytes (s.eport (shPort c)).active (shPort c) (shItem c) (shFirst c + k) = shEntry c k))
  | 0x0801 =>
    (List.range (gwCount c)).all (fun k =>
      decide (slice (gwEntry s.gw.active (gwItem c) (gwFirst c + k)) 0 (gwSize (gwItem c)) = gwStaged c k))
  | _ => false

/-- Do the active settings give a record the bytes that it has (R470)? -/
def recordLive (s : State) (r : Rec595) : Bool :=
  match r.bytes with
  | none => false
  | some b =>
    match recWrite r with
    | some (a, v) => decide (s.reg a = v)
    | none => decide (r.type = 2) && commandLive s (leAt b 0 2) (imgCmd (b.drop 4))

/-- Is every stream of the admission section that enters here Committed under its contract? (DEDUCED, log entry 99) -/
def admLive (s : State) (b : Bytes) : Bool :=
  (List.range (leAt b 6 2)).all (fun i =>
    let c := slice b (64 + 80 * i) 64
    decide (74 < byteAt c 16) ||
    (match kget s.streams (leAt c 0 2) with
     | some x => x.committed && decide (x.contract = c)
     | none => false))

/-- Does a section match? A section in which no part is the device's own holds nothing to differ. (DEDUCED, log entry 99) -/
def sectionLive (s : State) (n : Nat) : Bool :=
  if n = 4 then admLive s (imgSection s.flash.loaded 4)
  else match ownPart s.flash.loaded n (Config.uid % 2 ^ 64) with
    | some p => (partRecords p).all (recordLive s)
    | none => true

/-- `LIVE_OK` (R470). Without a loaded image no section matches. (DEDUCED, log entry 99) -/
def liveOk (s : State) : Nat :=
  if s.flash.loaded.isEmpty then 0 else listMask ((List.range 16).filter (sectionLive s))

end Sys2Proof.Machine
end

