-- ==== Sys2Proof/Machine/Fabric.lean ====
section
/-! DEFINITION. The fabric protocol (R452 to R475): neighbours, the link-state database, routes, the flood tree, the coordinator, the size
mode, gossip and digests. -/

namespace Sys2Proof.Machine

/-- Change the fabric state. -/
def State.modFab (s : State) (f : FabSt → FabSt) : State := { s with fab := f s.fab }

/-- The place of a fabric port in the arrays of registers and in `FLOOD_TREE`: BB0 to BB7, then PL. -/
def fabIdx (p : Nat) : Nat := if p = 75 then 8 else p

/-- The port at a place. -/
def fabPortAt (i : Nat) : Nat := if i = 8 then 75 else i

/-- The fabric ports that are up. -/
def fabUp (s : State) : List Nat := ((List.range 9).map fabPortAt).filter (fun p => s.fabricPort p && portUp s p)

/-- Does the device take part in DFP? -/
def dfpOn (s : State) : Bool := s.flag FAB_CFG.DFP_EN && s.flag GLB_STATUS.SUP_RUN && decide (s.pwr.state = 0)

/-- Does the hardware sender repeat the last bodies: firmware does not run, or the device is in S1 or S2 (R498, R560)? (DEDUCED, log entry 53) -/
def hwSender (s : State) : Bool := s.flag FAB_CFG.DFP_EN && !dfpOn s && decide (s.pwr.state ≤ 2)

/-- The own identity, address, and whether the device holds one. -/
def ownUid : Nat := Config.uid % 2 ^ 64
def ownAddr (s : State) : Nat := s.fld FAB_STATUS.ADDR
def hasAddr (s : State) : Bool := s.flag FAB_STATUS.ADDR_VALID

/-! Sending (R457). -/

/-- The `MSG` of a control message (R457). -/
def msgNum : DfpMsg → Nat
  | .hello _ => 1
  | .linkState _ => 2
  | .gossip _ => 3
  | .coord _ => 4
  | .adm _ => 5
  | .paths _ => 6
  | .withdraw _ _ => 7
  | .transom _ => 8
  | .digest _ => 9
  | .reset _ => 10
  | .sleep _ => 11

/-- The next sequence number of a `MSG` is taken. -/
def takeSeq (k : Nat) (s : State) : State := s.modFab (fun f => { f with msgSeq := kput f.msgSeq k ((kgetD f.msgSeq k 0 + 1) % 2 ^ 32) })

/-- A control message leaves on a port, with the next sequence number of its `MSG`. One of firmware is a frame that SV sends in TC7: it is counted at P74 and where stage 2 passes it (R127,
R196); those of the hardware sender (R498) come from no port. (DEDUCED, log entry 139) -/
def sendOn (p dst : Nat) (m : DfpMsg) (s : State) : State :=
  let n := kgetD s.fab.msgSeq (msgNum m) 0
  (takeSeq (msgNum m) (if s.flag GLB_STATUS.SUP_RUN then (s.bump (PORT_RX_OK 74)).bump (QD_HEDGE_CTRL_PASS (homeQuad 74)) else s)).emit
    (.message p dst n m)

/-- The ports of the flood tree (R456). -/
def treePorts (s : State) : List Nat := (maskList (s.fld FAB_FLOOD_TREE.TREE) 9).map fabPortAt

/-- A message is flooded on the tree, but not back to the port it came from. -/
def flood (from_ : Option Nat) (m : DfpMsg) (s : State) : State :=
  ((treePorts s).filter (fun p => decide (some p ≠ from_) && portUp s p)).foldl (fun s p => sendOn p 0 m s) s

/-- The route entry of a device as Q0 holds it, and its `PORT0`; none where it is not valid. -/
def routeTo (s : State) (addr : Nat) : Option Nat :=
  let w := kgetD (s.tab 0).route addr 0
  if bit w 63 then some (bits w 6 0) else none

/-- A message for another device leaves on the `PORT0` of its route entry (R457); without a route it goes nowhere. -/
def sendTo (addr : Nat) (m : DfpMsg) (s : State) : State :=
  match routeTo s addr with
  | some p => sendOn p addr m s
  | none => s

/-- Relay a message for another device, counted in `FAB_RELAYED` (R457). (DEDUCED, log entry 93) -/
def relay (addr : Nat) (m : DfpMsg) (s : State) : State := sendTo addr m (s.bump FAB_RELAYED)

/-! The database and shortest paths (R456, R463). -/

/-- The own LINK_STATE. -/
def ownLs (s : State) : LinkState :=
  { uid := ownUid, addr := ownAddr s, addrValid := hasAddr s, seat := s.flag FAB_CFG.SEAT_VALID, prio := s.fld FAB_CFG.COORD_PRIO,
    withdrawing := s.flag FAB_STATUS.WITHDRAWING, peer := s.pair.peerUid, seq := s.fab.seq,
    links := (s.fab.nbrs.filter (fun e => e.2.up)).map (fun e =>
      { port := e.1, cost := s.fld (FAB_COST.COST (fabIdx e.1)), nbr := e.2.hello.uid, nbrPort := e.2.hello.port }) }

/-- The database with the own record. -/
def linkDb (s : State) : Keyed LinkState := kput s.fab.db ownUid (ownLs s)

/-- One round of relaxation from a source over all links; a withdrawing device is no transit. -/
def relaxOnce (db : Keyed LinkState) (src : Nat) (dist : Keyed Nat) : Keyed Nat :=
  db.foldl (fun d e =>
    match kget d e.1 with
    | none => d
    | some c =>
      if e.2.withdrawing && decide (e.1 ≠ src) then d
      else e.2.links.foldl (fun d l =>
        match kget d l.nbr with
        | some o => if c + l.cost < o then kput d l.nbr (c + l.cost) else d
        | none => kput d l.nbr (c + l.cost)) d) dist

/-- n rounds. -/
def relaxN (db : Keyed LinkState) (src : Nat) : Nat → Keyed Nat → Keyed Nat
  | 0, d => d
  | n + 1, d => relaxN db src n (relaxOnce db src d)

/-- The least cost from a device to every device it reaches. -/
def distFrom (db : Keyed LinkState) (src : Nat) : Keyed Nat := relaxN db src (db.length + 1) [(src, 0)]

/-- The devices of the database that this device reaches. -/
def reachable (s : State) : List (Nat × LinkState) :=
  let db := linkDb s
  let d := distFrom db ownUid
  db.filter (fun e => khas d e.1)

/-- The first-hop ports of the least paths to a device, ascending, at most four (R463). -/
def firstHops (db : Keyed LinkState) (own : LinkState) (dst : Nat) : List Nat :=
  let via := own.links.filterMap (fun l =>
    let far := (kget db l.nbr).any (·.withdrawing)
    if l.nbr = dst then some (l.port, l.cost)
    else if far then none
    else (kget (distFrom (kdel db ownUid) l.nbr) dst).map (fun c => (l.port, l.cost + c)))
  match via with
  | [] => []
  | v :: r =>
    let best := (v :: r).foldl (fun m e => min m e.2) v.2
    ((List.range 9).map fabPortAt).filter (fun p => (v :: r).any (fun e => decide (e.1 = p) && decide (e.2 = best))) |>.take 4

/-- The word of a route entry (R186). -/
def routeWord (addr : Nat) (ports : List Nat) : Nat :=
  2 ^ 63 + (ports.length - 1) * 2 ^ 61 + addr * 2 ^ 48 + nth ports 0 + nth ports 1 * 2 ^ 7 + nth ports 2 * 2 ^ 14 + nth ports 3 * 2 ^ 21

/-- Write or remove a route entry in all four quadrants. (DEDUCED, log entry 37) -/
def putRoute (addr : Nat) (ports : List Nat) (s : State) : State :=
  (List.range 4).foldl (fun s q => s.modTab q (fun t =>
    { t with route := if ports.isEmpty then kdel t.route addr else kput t.route addr (routeWord addr ports),
             lost := t.lost.filter (fun e => !(e.1 = 2 && e.2.1 = addr)) })) s

/-- The device at the root of the flood tree: the coordinator, else the reachable device with the lowest address (R456). -/
def treeRoot (s : State) (reach : List (Nat × LinkState)) : Option Nat :=
  if reach.any (fun e => e.1 = s.fab.coord) then some s.fab.coord
  else (reach.filter (fun e => e.2.addrValid)).foldl (fun b e =>
    match b with
    | none => some e.1
    | some u => match reach.find? (fun x => x.1 = u) with
      | some o => if e.2.addr < o.2.addr then some e.1 else b
      | none => some e.1) none

/-- The link by which the tree reaches a device: the least total from the root, then the lower address of the upper device, then its
lower port. A withdrawing device but the root is no upper device, as it is no transit (R463). -/
def treeParent (db : Keyed LinkState) (dist : Keyed Nat) (dst : Nat) : Option (Nat × LsLink) :=
  let cands := db.flatMap (fun e =>
    match kget dist e.1, kget dist dst with
    | some a, some b => (e.2.links.filter (fun l =>
        decide (l.nbr = dst) && decide (a + l.cost = b) && !(e.2.withdrawing && decide (a ≠ 0)))).map (fun l => (e.1, e.2.addr, l))
    | _, _ => [])
  (cands.foldl (fun (b : Option (Nat × Nat × LsLink)) c =>
    match b with
    | none => some c
    | some o => if c.2.1 < o.2.1 || (c.2.1 = o.2.1 && decide (fabIdx c.2.2.port < fabIdx o.2.2.port)) then some c else b) none).map
      (fun c => (c.1, c.2.2))

/-- The own ports on the flood tree, as `TREE` shows them (R456). -/
def floodTree (s : State) : Nat :=
  let reach := reachable s
  if !hasAddr s then 0
  else match treeRoot s reach with
    | none => 0
    | some root =>
      let db := linkDb s
      let dist := distFrom db root
      let up := match treeParent db dist ownUid with
        | some (_, l) => if root = ownUid then [] else [fabIdx l.nbrPort]
        | none => []
      let down := db.filterMap (fun e =>
        if e.1 = root then none
        else match treeParent db dist e.1 with
          | some (u, l) => if u = ownUid then some (fabIdx l.port) else none
          | none => none)
      listMask (up ++ down)

/-- The devices that hold an address. -/
def deviceCount (s : State) : Nat := ((reachable s).filter (fun e => e.2.addrValid)).length

/-- The devices at which a destination of a stream is attached: the device of the contract, and those at which the paths end, its twin
among them (R372). -/
def destDevices (x : Stream) (d : Nat × Nat) : List Nat := d.1 :: x.paths.filterMap (fun p => p.hops.getLast?.map (·.1))

/-- A device has lost its route: every stream that enters here and has a destination there that no route reaches any more tells it (R58).
(DEDUCED, log entry 118) -/
def destsGone (addr : Nat) (s : State) : State :=
  (committedDests s).foldl (fun s e =>
    let away := !(hasAddr s && decide (e.2.2.1 = ownAddr s))
    let at_ := destDevices e.2.1 e.2.2
    if away && at_.contains addr && !at_.any (fun a => (routeTo s a).isSome) then destLost e.1 e.2.2 s else s) s

/-- The route of an address ends, and what its device has gossiped, unless another device in reach holds it (R463, R473). -/
def routeGone (addr : Nat) (s : State) : State :=
  if (reachable s).any (fun e => decide (e.1 ≠ ownUid) && e.2.addrValid && decide (e.2.addr = addr)) then s
  else
    let had := (routeTo s addr).isSome
    let s := putRoute addr [] (s.modFab (fun f => { f with gossip := kdel f.gossip addr, behind := kdel f.behind addr,
                                                           digests := kdel f.digests addr }))
    if had then destsGone addr s else s

/-- Recompute everything that rests on the database: unreachable devices leave it, routes, `FLOOD_TREE`, `DEVICES` (R456, R463). (DEDUCED, log entry 37) -/
def fabRecompute (s : State) : State :=
  let reach := reachable s
  let gone := s.fab.db.filter (fun e => !reach.any (fun x => x.1 = e.1))
  let s := gone.foldl (fun s e => if e.2.addrValid then routeGone e.2.addr s else s) s
  let s := s.modFab (fun f => { f with db := f.db.filter (fun e => reach.any (fun x => x.1 = e.1)) })
  let db := linkDb s
  let own := ownLs s
  let s := reach.foldl (fun s e =>
    if e.1 ≠ ownUid && e.2.addrValid then putRoute e.2.addr (firstHops db own e.1) s else s) s
  (s.setFld FAB_FLOOD_TREE.TREE (floodTree s)).setFld FAB_STATUS.DEVICES (deviceCount s)

/-- Announce the own links: a new sequence number, the database, the flood (R457). While the device is on no tree, the message goes to every
neighbour (log entry 57). -/
def announceLinks (s : State) : State :=
  let s := s.modFab (fun f => { f with seq := f.seq + 1, lastLs := s.lt })
  let s := fabRecompute s
  if treePorts s = [] then
    (s.fab.nbrs.filter (fun e => e.2.up)).foldl (fun s e => sendOn e.1 0 (.linkState (ownLs s)) s) s
  else flood none (.linkState (ownLs s)) s

/-- A new neighbour hears the whole database (log entry 57). -/
def tellDb (p : Nat) (s : State) : State := (linkDb s).foldl (fun s e => sendOn p 0 (.linkState e.2) s) s

/-! Neighbours (R458, R459). -/

/-- Show a neighbour in `FAB_NBRp`. -/
def showNbr (p : Nat) (s : State) : State :=
  let i := fabIdx p
  match kget s.fab.nbrs p with
  | some n =>
    (((s.setFld (FAB_NBR.UP i) (b2n n.up)).setFld (FAB_NBR.NBR_ADDR_VALID i) (b2n (n.up && n.hello.addrValid))).setFld (FAB_NBR.NBR_PORT i)
      (if n.up then n.hello.port else 0)).setFld (FAB_NBR.NBR_ADDR i) (if n.up && n.hello.addrValid then n.hello.addr else 0)
  | none => s.setReg (FAB_NBR i) 0

/-- `EV_FAB_LINK`. -/
def linkEvent (p up addr reason : Nat) (s : State) : State :=
  raise 0x0A02 0 (evPay [(16, 1, p), (17, 1, up), (18, 1, addr), (19, 1, reason)]) s

/-- A neighbour is lost (R459): reason 0 hellos, 1 link, 2 identity. -/
def nbrLost (p reason : Nat) (s : State) : State :=
  match kget s.fab.nbrs p with
  | none => s
  | some n =>
    let s := showNbr p (s.modFab (fun f => { f with nbrs := kdel f.nbrs p }))
    if n.up then announceLinks (linkEvent p 0 n.hello.addr reason s) else s

/-- The own hello for a port (R458). -/
def ownHello (s : State) (p : Nat) : Hello :=
  { uid := ownUid, addr := ownAddr s, addrValid := hasAddr s, seat := s.flag FAB_CFG.SEAT_VALID, coord := s.flag FAB_STATUS.COORD,
    successor := s.flag FAB_STATUS.SUCCESSOR, withdrawing := s.flag FAB_STATUS.WITHDRAWING, large := s.flag FAB_STATUS.LARGE,
    mode := s.fld PAIR_CFG.MODE, prio := s.fld FAB_CFG.COORD_PRIO, port := p, gen := s.fld FAB_GEN.GENERATION, peer := s.pair.peerUid }

/-- Take or leave an address. -/
def setAddr (a : Option Nat) (s : State) : State :=
  match a with
  | some n => (s.setFld FAB_STATUS.ADDR n).setFld FAB_STATUS.ADDR_VALID 1
  | none => (s.setFld FAB_STATUS.ADDR 0).setFld FAB_STATUS.ADDR_VALID 0

/-- The seat acts at the next hello (R460, R461): it is taken unless a conflict keeps it from the device. -/
def takeSeat (s : State) : State :=
  let seat := s.fld FAB_CFG.SEAT
  let kept := match s.fab.noSeat with
    | some (n, holder) => decide (n = seat) && (linkDb s).any (fun e => decide (e.1 = holder))
    | none => false
  if s.flag FAB_CFG.SEAT_VALID then
    if kept then s
    else
      let s := s.modFab (fun f => { f with noSeat := none })
      if hasAddr s && ownAddr s = seat then s else announceLinks (setAddr (some seat) s)
  else s

/-- In a handover the peer has announced the seat (R370 step 3): at the unit that is relieved the slices stop, and the overlap begins. -/
def handoverSeen (s : State) : Option State :=
  if s.pair.handover then
    some (if s.pair.overlap.isSome || decide (s.fld PAIR_STATUS.ROLE ≠ 1) then s
          else { s with pair := { s.pair with overlap := some s.lt }, mem := { s.mem with stopped := true } })
  else none

/-- A hello claims an address (R460 to R462): the pair peer of the holder takes the seat over; of two others, the lower identity keeps it. -/
def claim (h : Hello) (s : State) : State :=
  if !h.addrValid || !hasAddr s || h.addr ≠ ownAddr s || h.uid = ownUid then s
  else if h.peer = ownUid then
    (handoverSeen s).getD (announceLinks (setAddr none (s.modFab (fun f => { f with noSeat := some (h.addr, h.uid) }))))
  else if !h.seat then s
  else if !s.flag FAB_CFG.SEAT_VALID then announceLinks (setAddr none s)
  else if ownUid < h.uid then s
  else
    let s := s.modFab (fun f => { f with noSeat := some (h.addr, h.uid) })
    announceLinks (setAddr none (raise 0x0A03 0 (evPay [(16, 1, h.addr), (20, 8, h.uid)]) s))

/-- A received hello (R459). -/
def helloIn (p : Nat) (h : Hello) (s : State) : State :=
  let s := match kget s.fab.nbrs p with
    | some n => if n.hello.uid = h.uid then s else nbrLost p 2 s
    | none => s
  let n := match kget s.fab.nbrs p with
    | some n => { n with hello := h, last := s.lt, count := n.count + 1 }
    | none => { hello := h, last := s.lt, count := 1 }
  let newUp := !n.up && decide (2 ≤ n.count)
  let changed := match kget s.fab.nbrs p with
    | some o => decide (o.hello.port ≠ h.port)
    | none => false
  let s := s.modFab (fun f => { f with nbrs := kput f.nbrs p { n with up := n.up || newUp },
                                       firstUp := if newUp then some (f.firstUp.getD s.lt) else f.firstUp })
  let s := claim h (showNbr p s)
  if newUp then tellDb p (announceLinks (linkEvent p 1 h.addr 0 s)) else if changed then announceLinks s else s

/-! The coordinator (R460, R465 to R468). -/

/-- Does one candidate rank above another: higher priority, then lower identity (R465)? -/
def outranks (a b : Nat × LinkState) : Bool := decide (b.2.prio < a.2.prio) || (a.2.prio = b.2.prio && decide (a.1 < b.1))

/-- The candidates for the two roles: reachable devices with an address and a priority. -/
def candidates (s : State) : List (Nat × LinkState) := (reachable s).filter (fun e => e.2.addrValid && decide (e.2.prio ≠ 0))

/-- The highest of a list of candidates. -/
def highest (l : List (Nat × LinkState)) : Option (Nat × LinkState) :=
  l.foldl (fun b e =>
    match b with
    | none => some e
    | some o => if outranks e o then some e else b) none

/-- The address of a device in the database; 0 where it is unknown. -/
def addrOf (s : State) (uid : Nat) : Nat := ((linkDb s).find? (fun e => e.1 = uid)).elim 0 (fun e => e.2.addr)

/-- Show coordinator and successor. -/
def setCoord (coord succ : Nat) (s : State) : State :=
  let s := s.modFab (fun f => { f with coord := coord, succ := succ })
  ((s.setFld FAB_STATUS.COORD (b2n (coord = ownUid))).setFld FAB_STATUS.SUCCESSOR (b2n (succ = ownUid && coord ≠ 0))).setFld
    FAB_STATUS.COORD_ADDR (addrOf s coord)

/-- `EV_FAB_COORD`: 0 elected, 1 successor takeover, 2 merge. -/
def coordEvent (how : Nat) (s : State) : State :=
  raise 0x0A04 0 (evPay [(16, 1, addrOf s s.fab.coord), (17, 1, addrOf s s.fab.succ), (18, 1, how)]) s

/-- The addresses that the coordinator assigns (R460): an unseated device keeps its own; the others, in ascending identity, take the
lowest that no device holds. -/
def assignFrom (held : List Nat) : List Nat → List (Nat × Nat)
  | [] => []
  | u :: r =>
    match (List.range 256).find? (fun a => !held.contains a) with
    | some a => (u, a) :: assignFrom (a :: held) r
    | none => []

/-- The assigned addresses now: what was assigned or is held stays with its device while that is reachable. -/
def assignments (s : State) : List (Nat × Nat) :=
  let reach := reachable s
  let free := reach.filter (fun e => !e.2.seat)
  let seated := (reach.filter (fun e => e.2.seat && e.2.addrValid)).map (fun e => e.2.addr)
  let kept := s.fab.assigned.filter (fun a => free.any (fun e => e.1 = a.1) && !seated.contains a.2)
  let keep := (free.filter (fun e => e.2.addrValid)).foldl (fun l e =>
    if seated.contains e.2.addr || l.any (fun a => a.1 = e.1 || a.2 = e.2.addr) then l else l ++ [(e.1, e.2.addr)]) kept
  let new := (free.filter (fun e => !keep.any (fun a => a.1 = e.1))).map (·.1)
  keep ++ assignFrom (seated ++ keep.map (·.2)) new

/-- The COORD message of the coordinator. -/
def coordMsg (s : State) : CoordMsg :=
  { coord := ownUid, coordAddr := ownAddr s, prio := s.fld FAB_CFG.COORD_PRIO, succ := s.fab.succ, succAddr := addrOf s s.fab.succ,
    assigned := s.fab.assigned,
    large := match s.fab.switch with
      | some (_, l) => l
      | none => s.fab.large,
    devices := deviceCount s,
    at_ := match s.fab.switch with
      | some (t, _) => t
      | none => 0 }

/-- Send COORD (R457). -/
def sendCoord (s : State) : State :=
  let s := s.modFab (fun f => { f with sentCoord := s.lt, assigned := assignments s })
  flood none (.coord (coordMsg s)) s

/-- Become coordinator (R465, R467). -/
def becomeCoord (how : Nat) (s : State) : State :=
  let rest := (candidates s).filter (fun e => e.1 ≠ ownUid)
  let s := setCoord ownUid ((highest rest).elim 0 (·.1)) s
  coordEvent how (sendCoord (fabRecompute s))

/-- The coordinator keeps the highest other candidate as successor (R465). -/
def keepSuccessor (s : State) : State :=
  if s.fab.coord ≠ ownUid then s
  else
    let n := (highest ((candidates s).filter (fun e => e.1 ≠ ownUid))).elim 0 (·.1)
    if n = s.fab.succ then s else sendCoord (coordEvent 0 (setCoord ownUid n s))

/-- The size mode that the coordinator announces (R468). -/
def judgeSize (s : State) : State :=
  if s.fab.coord ≠ ownUid || s.fab.switch.isSome then s
  else
    let many := decide (16 < deviceCount s)
    let large := s.fab.large
    let at_ := s.scale 0 + 10000000
    if many then
      let s := s.modFab (fun f => { f with smallSince := none })
      if large then s else sendCoord (s.modFab (fun f => { f with switch := some (at_, true) }))
    else
      match s.fab.smallSince with
      | none => s.modFab (fun f => { f with smallSince := some s.lt })
      | some t =>
        if large && t + 60 * sec ≤ s.lt then sendCoord (s.modFab (fun f => { f with switch := some (at_, false) })) else s

/-- The size mode in force at this device under `SIZE_MODE`. -/
def sizeForced (s : State) (auto : Bool) : Bool :=
  match s.fld FAB_CFG.SIZE_MODE with
  | 1 => false
  | 2 => true
  | _ => auto

/-- Take a size mode; a change raises `EV_FAB_SIZE_MODE` (R468). (DEDUCED, log entry 98) -/
def takeSize (large : Bool) (s : State) : State :=
  if s.flag FAB_STATUS.LARGE = large then s
  else
    raise 0x0A05 0 (evPay [(16, 1, b2n large), (18, 2, deviceCount s)]) (pfcUpdate (s.setFld FAB_STATUS.LARGE (b2n large)))

/-! Gossip and digests (R469 to R474). -/

/-- The own gossip body. -/
def ownRoot (s : State) : Bytes := (List.range 12).flatMap (fun n => toBe 4 (s.reg (FAB_ROOT n)))
def ownGossip (s : State) : Gossip :=
  { addr := ownAddr s, liveOk := liveOk s, gen := s.fld FAB_GEN.GENERATION, root := ownRoot s }

/-- The sixteen section digests of the own device. -/
def ownSecs (s : State) : Bytes := (List.range 16).flatMap (fun i => slice ((s.fab.secs[i]?).getD []) 0 48)

/-- The reply of 824 bytes (R474). -/
def digestReply (s : State) : Bytes :=
  toLe 4 (s.fld FAB_GEN.GENERATION) ++ toLe 2 (liveOk s) ++ [byte (ownAddr s), 0] ++ ownRoot s ++ ownSecs s

/-- All gossip bodies, the own one among them. -/
def gossips (s : State) : List Gossip := (kput s.fab.gossip (ownAddr s) (ownGossip s)).map (·.2)

/-- The section digests of a device, where they are known. -/
def secsOf (s : State) (addr : Nat) : Option Bytes := if addr = ownAddr s then some (ownSecs s) else kget s.fab.digests addr

/-- The root that most devices of a generation hold; on a tie that of the group with the coordinator, else the lower one (R473). -/
def majorRoot (s : State) (gen : Nat) : Bytes :=
  let l := (gossips s).filter (fun g => g.gen = gen)
  let size (r : Bytes) : Nat := (l.filter (fun g => g.root = r)).length
  let hasCoord (r : Bytes) : Bool := l.any (fun g => g.root = r && decide (g.addr = addrOf s s.fab.coord))
  (l.foldl (fun (b : Option Bytes) g =>
    match b with
    | none => some g.root
    | some r =>
      if size r < size g.root then some g.root
      else if size r = size g.root && ((hasCoord g.root && !hasCoord r) || (hasCoord g.root = hasCoord r && decide (be g.root < be r))) then some g.root
      else b) none).getD []

/-- The findings of R473 as (section, device, kind). (DEDUCED, log entry 38) -/
def findings (s : State) : List (Nat × Nat × Nat) :=
  let l := gossips s
  let top := l.foldl (fun m g => max m g.gen) 0
  l.flatMap (fun g =>
    ((List.range 16).filter (fun i => !bit g.liveOk i)).map (fun i => (i, g.addr, 1)) ++
    (let r := majorRoot s g.gen
     if g.root = r then []
     else match l.find? (fun x => x.gen = g.gen && x.root = r) with
       | none => []
       | some x => match secsOf s g.addr, secsOf s x.addr with
         | some a, some b => ((List.range 16).filter (fun i => slice a (48 * i) 48 ≠ slice b (48 * i) 48)).map (fun i => (i, g.addr, 0))
         | _, _ => []) ++
    (match kget s.fab.behind g.addr with
     | some t => if g.gen < top && t + s.fld FAB_TIMERS.GEN_GRACE * sec < s.lt then [(0xFF, g.addr, 2)] else []
     | none => []))

/-- `EV_FAB_DIGEST_DIVERGE`. (DEDUCED, log entry 38) -/
def divergeEvent (f : Nat × Nat × Nat) (kind : Nat) (s : State) : State :=
  let gen := ((gossips s).find? (fun g => g.addr = f.2.1)).elim 0 (·.gen)
  raise 0x0A01 0 (evPay [(16, 1, f.1), (17, 1, f.2.1), (18, 1, kind), (20, 4, gen)]) s

/-- Compare the gossip bodies (R473): new findings are raised at the coordinator and at the named device, and again with kind 3 when they
end; where roots differ, unknown section digests are asked for. -/
def compareGossip (s : State) : State :=
  let l := gossips s
  let top := l.foldl (fun m g => max m g.gen) 0
  let s := s.modFab (fun f => { f with behind := l.foldl (fun b g =>
    if g.gen < top then (if khas b g.addr then b else kput b g.addr s.lt) else kdel b g.addr) f.behind })
  let mine (f : Nat × Nat × Nat) : Bool := decide (s.fab.coord = ownUid) || decide (f.2.1 = ownAddr s)
  let now := (findings s).filter mine
  let old := s.fab.found
  let s := (now.filter (fun f => !old.contains f)).foldl (fun s f => divergeEvent f f.2.2 s) s
  let s := (old.filter (fun f => !now.contains f)).foldl (fun s f => divergeEvent f 3 s) s
  let s := s.modFab (fun f => { f with found := now })
  let ask := l.filter (fun g => g.root ≠ majorRoot s g.gen)
  let need := (ask ++ l.filter (fun g => ask.any (fun x => x.gen = g.gen) && g.root = majorRoot s g.gen)).filter (fun g =>
    (secsOf s g.addr).isNone && (decide (s.fab.coord = ownUid) || ask.any (fun x => x.addr = ownAddr s)))
  need.foldl (fun s g => sendTo g.addr (.digest (.query (ownAddr s))) s) s

end Sys2Proof.Machine
end

