-- ==== Sys2Proof/Machine/Paths.lean ====
section
/-! DEFINITION. The coordinator's choice of paths and its admission database (R464, R466, R467, R590). -/

namespace Sys2Proof.Machine

/-! Paths over the link-state database (R464). -/

/-- A path as it is searched: total cost, and per link the sending device, its port and the device it reaches. -/
abbrev Walk := Nat × List (Nat × Nat × Nat)

/-- The simple walks from a device to another with at most n links; no withdrawing device and no device without an address is transit. -/
def walks (db : Keyed LinkState) (dst : Nat) : Nat → List Nat → Nat → List Walk
  | 0, _, _ => []
  | n + 1, seen, u =>
    match kget db u with
    | none => []
    | some l => l.links.flatMap (fun k =>
        let hop := (u, k.port, k.nbr)
        if k.nbr = dst then [(k.cost, [hop])]
        else if seen.contains k.nbr then []
        else match kget db k.nbr with
          | some x => if x.withdrawing || !x.addrValid then []
            else (walks db dst n (k.nbr :: seen) k.nbr).map (fun w => (k.cost + w.1, hop :: w.2))
          | none => [])

/-- The transit devices of a walk. -/
def transits (w : Walk) : List Nat := (w.2.dropLast).map (fun h => h.2.2)

/-- Do two walks share no link and no transit device? -/
def disjoint (a b : Walk) : Bool :=
  !(transits a).any (fun t => (transits b).contains t) && !a.2.any (fun h => b.2.any (fun g => g.1 = h.1 && g.2.1 = h.2.1))

/-- The address of a device in the database. -/
def dbAddr (db : Keyed LinkState) (uid : Nat) : Nat := (kget db uid).elim 0 (·.addr)

/-- The addresses along a walk, then its ports. -/
def walkKey (db : Keyed LinkState) (w : Walk) : List Nat := w.2.map (fun h => dbAddr db h.2.2) ++ w.2.map (fun h => fabIdx h.2.1)

/-- Is a list of numbers below another, compared item by item? -/
def listLt : List Nat → List Nat → Bool
  | _, [] => false
  | [], _ :: _ => true
  | a :: r, b :: t => decide (a < b) || (a = b && listLt r t)

/-- The order of choices: total cost, hops of the longer path, sequence of addresses. -/
def betterChoice (a b : Nat × Nat × List Nat) : Bool :=
  decide (a.1 < b.1) || (a.1 = b.1 && (decide (a.2.1 < b.2.1) || (a.2.1 = b.2.1 && listLt a.2.2 b.2.2)))

/-- The best of a list of choices. -/
def bestChoice {α : Type} (key : α → Nat × Nat × List Nat) : List α → Option α
  | [] => none
  | x :: r => some (r.foldl (fun b y => if betterChoice (key y) (key b) then y else b) x)

/-- The path record of a walk that ends at a port (R343). -/
def recordOf (db : Keyed LinkState) (w : Walk) (last : Nat) : PathRec :=
  let ports := w.2.map (fun h => h.2.1)
  { first := ports.headD 0, hops := (w.2.map (fun h => dbAddr db h.2.2)).zip (ports.drop 1 ++ [last]) }

/-- The identity of the device with an address. -/
def uidOf (s : State) (addr : Nat) : Option Nat :=
  ((reachable s).find? (fun e => e.2.addrValid && decide (e.2.addr = addr))).map (·.1)

/-- The pair mode and the twin of a port of a device: its own registers, or what the configuration image gives the device (R372).
(DEDUCED, log entry 44) -/
def twinOf (s : State) (uid port : Nat) : Option Nat :=
  let r (n a : Nat) : Nat := if uid = ownUid then s.reg a else (imgReg s.flash.loaded n uid a).getD 0
  let w := r 5 (PAIR_TWIN port)
  if (if uid = ownUid then s.pairMode else bits (r 5 PAIR_CFG) 1 0) = 2 && bit w 7 then some (bits w 6 0) else none

/-- The first remote destination of a contract for an ingress device, and whether there are two remote devices. (DEDUCED, log entry 39) -/
def remoteDests (contract : Bytes) (ingress : Nat) : List (Nat × Nat) :=
  ((List.range (byteAt contract 18)).map (fun i => (byteAt contract (32 + 2 * i), byteAt contract (33 + 2 * i)))).filter (fun d => d.1 ≠ ingress)

/-- The paths of a stream (R464, R372): none where there is no path, or no pair for a protected stream. -/
def choosePaths (s : State) (ingress : Nat) (contract : Bytes) : List PathRec :=
  let db := linkDb s
  match remoteDests contract ingress with
  | [] => []
  | d :: more =>
    if more.any (fun e => e.1 ≠ d.1) then []
    else match uidOf s ingress, uidOf s d.1 with
      | some src, some dst =>
        let one := walks db dst 16 [src] src
        if !bit (byteAt contract 3) 0 then
          match bestChoice (fun w => (w.1, w.2.length, walkKey db w)) one with
          | some w => [recordOf db w d.2]
          | none => []
        else
          match twinOf s dst d.2, kget db dst with
          | some tp, some l =>
            let two := walks db l.peer 16 [src] src
            let pairs := (one.flatMap (fun a => two.map (fun b => (a, b)))).filter (fun p => disjoint p.1 p.2)
            match bestChoice (fun p => (p.1.1 + p.2.1, max p.1.2.length p.2.2.length, walkKey db p.1 ++ walkKey db p.2)) pairs with
            | some p => [recordOf db p.1 d.2, recordOf db p.2 tp]
            | none => []
          | _, _ =>
            let pairs := (one.flatMap (fun a => one.map (fun b => (a, b)))).filter (fun p => disjoint p.1 p.2 && listLt (walkKey db p.1) (walkKey db p.2))
            match bestChoice (fun p => (p.1.1 + p.2.1, max p.1.2.length p.2.2.length, walkKey db p.1 ++ walkKey db p.2)) pairs with
            | some p => [recordOf db p.1 d.2, recordOf db p.2 d.2]
            | none => []
      | _, _ => []

/-- Does a path still exist: is every link up, is every device there, and is none of its transits withdrawing (R464)? -/
def recordAlive (db : Keyed LinkState) : Nat → Nat → List (Nat × Nat) → Bool
  | _, _, [] => true
  | u, port, (a, p) :: r =>
    match (kget db u).bind (fun l => l.links.find? (fun k => k.port = port)) with
    | none => false
    | some k => match kget db k.nbr with
      | none => false
      | some x => x.addrValid && decide (x.addr = a) && (r.isEmpty || !x.withdrawing) && recordAlive db k.nbr p r

/-- Does a path of a stream still exist? -/
def pathAlive (s : State) (ingress : Nat) (r : PathRec) : Bool :=
  match uidOf s ingress with
  | some u => recordAlive (linkDb s) u r.first r.hops
  | none => false

/-! The admission database (R466, R590). -/

/-- The handle of a contract. -/
def contractHandle (c : Bytes) : Nat := leAt c 0 2

/-- What a PATHS message said of a stream is kept (R590). -/
def statesSaid (h : Nat) (a b w : Bool) (s : State) : State := s.modStream h (fun x => { x with pathsSaid := some (a, b, w) })

/-- Send the path states of a stream to every device on either path. -/
def sendStates (r : AdmRec) (s : State) : State :=
  let h := contractHandle r.contract
  (r.ingress :: (r.paths.flatMap (fun p => p.hops.map (·.1)))).eraseDups.foldl (fun s a =>
    if a = ownAddr s then statesSaid h r.upA r.upB r.window s
    else sendTo a (.paths (.states h r.upA r.upB r.window)) s) s

/-- The copy of a record for the successor. -/
def copyMsg (r : AdmRec) (gone : Bool) : PathsMsg := .copy r.ingress r.contract r.paths r.upA r.upB r.window gone

/-- Is there a successor to send copies to? -/
def hasSucc (s : State) : Bool := decide (s.fab.succ ≠ 0) && decide (s.fab.succ ≠ ownUid)

/-- A record changes in the coordinator's database: the successor gets a copy, and the devices of the paths hear of the states. -/
def admPut (r : AdmRec) (gone : Bool) (s : State) : State :=
  let h := contractHandle r.contract
  let old := kget s.fab.admDb h
  let s := s.modFab (fun f => { f with admDb := if gone then kdel f.admDb h else kput f.admDb h r })
  let s := if hasSucc s then sendTo (addrOf s s.fab.succ) (.paths (copyMsg r gone)) s else s
  match old with
  | some o => if !gone && (o.upA ≠ r.upA || o.upB ≠ r.upB || o.window ≠ r.window) then sendStates r s else s
  | none => if !gone && (r.upA || r.upB) then sendStates r s else s

/-- A record is reported to the coordinator; a fault window closes when both paths are Committed again (R55, R590). -/
def admReport (ingress : Nat) (contract : Bytes) (paths : List PathRec) (upA upB gone : Bool) (s : State) : State :=
  let o := kget s.fab.admDb (contractHandle contract)
  let w := (o.any (·.window)) && !(upA && upB)
  admPut { ingress := ingress, contract := contract, paths := paths, upA := upA, upB := upB, window := w,
           committed := upA || upB || o.any (·.committed) } gone s

/-- Report a stream that enters here to the coordinator. -/
def reportStream (x : Stream) (upA upB gone : Bool) (s : State) : State :=
  if x.paths.isEmpty then s
  else if s.fab.coord = ownUid then admReport (ownAddr s) x.contract x.paths upA upB gone s
  else if s.fab.coord = 0 then s
  else sendTo (addrOf s s.fab.coord) (.paths (.report (ownAddr s) x.contract x.paths upA upB gone)) s

end Sys2Proof.Machine
end

