-- ==== Sys2Proof/Machine/Admission.lean ====
section
/-! DEFINITION. Admission (chapter 09) and the change of paths (R358, R359): contracts, the reservation at a hop, the messages between hops,
the commands of group 0x06 and `PATH_SET`. -/

namespace Sys2Proof.Machine

/-! Contracts (R307, R308). -/

/-- Is the `KEY` of a contract one that R185 lays out? -/
def idKeyOk (x : Stream) : Bool :=
  if x.idType = 2 then
    decide (x.idKey / 2 ^ 55 = 0) && decide (40 ≤ bits x.idKey 54 48) && decide (bits x.idKey 54 48 ≤ 71) && bits x.idKey 47 29 = 0
  else bits x.idKey 63 60 = 0

/-- Does a contract pass the checks of R308? -/
def contractOk (s : State) (c : Bytes) : Bool :=
  let x : Stream := { contract := c, phase := .asking }
  decide (c.length = 64) && decide (leAt c 0 2 ≠ 0xFFFF) && (x.tc = 5 || x.tc = 6) && !bit (byteAt c 3) 7 && decide (x.demoteTc ≤ 4) &&
  decide (1 ≤ x.frames) && decide (1000 ≤ x.interval) && decide (x.interval ≤ sec) && decide (x.inPort ≤ 74) && decide (x.idType ≤ 2) &&
  decide (1 ≤ x.nDest) && decide (x.nDest ≤ 4) && byteAt c 19 = 0 && idKeyOk x &&
  (List.range 4).all (fun i => if i < x.nDest then decide ((x.dest i).2 ≤ 71) else decide (x.dest i = (0, 0))) &&
  (slice c 53 11).all (fun b => decide (b = 0)) &&
  (!x.gateEn || (decide (1000 ≤ x.gateCycle) && decide (x.gateCycle ≤ sec) && decide (x.gateStart < x.gateCycle) && decide (1 ≤ x.gateLen) &&
    decide (x.gateLen ≤ x.gateCycle) && decide (x.gateDom ≤ 1))) &&
  decide (x.frames * x.maxLen * 8 * sec ≤ s.lineRate x.inPort * x.interval)

/-! The reservation at one hop (R311, R312). -/

/-- Verdicts of R312. -/
def vAccepted : Nat := 0
def vDisabled : Nat := 1
def vBrace : Nat := 2
def vHandle : Nat := 3
def vNoPath : Nat := 4
def vHedge : Nat := 5
def vIdFull : Nat := 6
def vClassFull : Nat := 7
def vRecheck : Nat := 9
def vBuffers : Nat := 10
def vLinks : Nat := 11
def vEnergy : Nat := 12
def vBound : Nat := 13
def vTimeout : Nat := 15

/-- Reservations change: the energy level so far stands (R295), and the sills are evaluated again (R146). -/
def withStreams (l : Keyed Stream) (s : State) : State := sillAll { settleEnergy s with streams := l }

/-- Place a stream under its handle. -/
def State.putStream (s : State) (h : Nat) (x : Stream) : State := withStreams (kput s.streams h x) s

/-- The local destination ports of a contract at this device. -/
def localDests (s : State) (c : Bytes) : List Nat :=
  ((List.range (byteAt c 18)).filterMap (fun i =>
    if hasAddr s && byteAt c (32 + 2 * i) = ownAddr s then some (byteAt c (33 + 2 * i)) else none)).eraseDups

/-- The copies that one buffer of a stream carries at this device (R137, R331). -/
def Stream.copies (x : Stream) : Nat :=
  if x.ingress then (x.hops.map (·.outPort)).eraseDups.length
  else ((x.hops.map (·.path)).eraseDups.map (fun p => ((x.hops.filter (fun g => g.path = p)).map (·.outPort)).eraseDups.length)).foldl max 0

/-- Quota and energy of a stream from its hops (R331, R332). -/
def tally (s : State) (x : Stream) : Stream :=
  let h := x.hops.foldl (fun m g => max m g.bound) 0
  let paths := if x.ingress then 1 else ((x.hops.map (fun g => (g.path, g.inPort))).eraseDups).length
  let q := if x.hops.isEmpty then 0 else paths * pathQuota x x.up h
  { x with pool := quotaPool x, quotaBufs := q, quotaLinks := q * x.copies,
           energy := (((x.hops.map (·.outPort)).eraseDups).map (hopEnergy s x)).sum }

/-- The bound already reserved for a stream at a port. -/
def Stream.boundAt (x : Stream) (p : Nat) : Option Nat := (x.hops.find? (fun g => g.outPort = p)).map (·.bound)

/-- The *LEN* of R318: what the contract says, or on Ethernet the `MAX_BYTES` of the channel of a batched stream (R402). -/
def streamLen (s : State) (x : Stream) (outs : List Nat) : Nat :=
  if x.batched && decide (40 ≤ x.inPort) && decide (x.inPort ≤ 71) then
    (outs.filter isEthPort).foldl (fun m p => match chanIn s.gw.active p x.tc with
      | some i => max m (chMaxBytes (gwEntry s.gw.active 1 i))
      | none => m) (if outs.any isEthPort then 0 else x.maxLen)
  else x.maxLen

/-- Does a stream from a legacy port lack its batch channel at an Ethernet port (R402)? (DEDUCED, log entry 40) -/
def lacksChannel (s : State) (x : Stream) (p : Nat) : Bool :=
  x.ingress && decide (40 ≤ x.inPort) && decide (x.inPort ≤ 71) && isEthPort p && (!x.batched || (chanIn s.gw.active p x.tc).isNone)

/-- The quadrants in which a stream's frames arrive by some hops. -/
def hopQuads (l : List Hop) : List Nat := (l.map (fun g => homeQuad g.inPort)).eraseDups

/-- The checks of R312 for new hops of a stream at this device: the verdict with the port at fault, or the stream with the hops reserved.
`sums`: what the paths add up to before this device, where it has destinations of the stream. -/
def hopCheck (s : State) (h : Nat) (x : Stream) (nh : List Hop) (sums : Option (List Nat)) : (Nat × Nat) ⊕ Stream :=
  let ports := (nh.map (·.outPort)).eraseDups
  let bad (v : Nat) (o : Option Nat) (k : (Nat × Nat) ⊕ Stream) : (Nat × Nat) ⊕ Stream := match o with
    | some p => .inl (v, p)
    | none => k
  let x1 : Stream := { x with hops := x.hops ++ nh, phase := if x.reserved then x.phase else .tentative }
  let s1 := s.putStream h x1
  let tries := nh.map (fun g => (g, hopBound s1 g.outPort h x1 g.skew))
  let isV (v : Nat) (t : Hop × (Nat ⊕ Nat)) : Bool := match t.2 with
    | .inl w => decide (w = v)
    | .inr _ => false
  let new := tries.map (fun t => match t.2 with
    | .inr b => { t.1 with bound := (x.boundAt t.1.outPort).getD b, residue := restsOnResidue s (portNow s t.1.outPort) x.tc,
                               rate := s.lineRate t.1.outPort }
    | .inl _ => t.1)
  let grown := (tries.find? (fun t => match t.2, x.boundAt t.1.outPort with
    | .inr b, some o => decide (o < b)
    | _, _ => false)).map (·.1.outPort)
  let x2 := tally s { x1 with hops := x.hops ++ new }
  let s2 := s.putStream h x2
  let s3 := s.putStream h { x2 with hops := x.hops ++ (new.zip tries).filterMap (fun t => match t.2.2 with
    | .inr _ => some t.1
    | .inl _ => none) }
  let late (g : Hop) : Bool := x.dests.contains g.outPort && sums.any (fun l => l.any (fun u => decide (x.reqBound < u + g.bound)))
  bad vNoPath (ports.find? (fun p => isEthPort p && decide (s.fld (PORT_RX_CFG.MAX_LEN p) < x.maxLen + 4)))
  <| bad vHedge ((nh.find? (fun g => portCell (s.hq (homeQuad g.inPort)) g.inPort g.outPort = 0)).map (·.outPort))
  <| bad vIdFull (if (hopQuads nh).any (fun q => (sidInsert (s.tab q) x.idType h x.idKey).isNone) then some 0 else none)
  <| bad vClassFull (ports.find? (fun p => decide (512 ≤ ((streamsAt s p).filter (fun e => e.1 ≠ h && e.2.tc = x.tc)).length) ||
      decide (4096 ≤ (s.reserved.filter (fun e => e.1 ≠ h)).length)))
  <| bad vRate ((tries.find? (isV vRate)).map (·.1.outPort))
  <| bad vRecheck grown
  <| bad vRecheck (ports.find? (fun p => (overBound s3 (portNow s3 p) (fun _ => 0)).isSome))
  <| bad vBuffers (if 6 ≤ x2.pool || (List.range 6).any (fun k => decide (poolBufs s k < rsvTotal s2 k)) then some 0 else none)
  <| bad vLinks (if linkFree s2 < linkRsv s2 then some 0 else none)
  <| bad vEnergy (if s.fld EGR_ENERGY_CFG.BUDGET_MW < reservedMw s2 then some 0 else none)
  <| bad vBound ((new.find? late).map (·.outPort))
  <| bad vNoSlot ((tries.find? (isV vNoSlot)).map (·.1.outPort))
  <| bad vNoSlot (ports.find? (lacksChannel s x))
  <| .inr x2

/-- The first two reasons of R312, which hold for every request. -/
def hopClosed (s : State) : Option Nat := if !s.flag ADM_CTRL.ADMIT_EN then some vDisabled else if s.brace then some vBrace else none

/-! Freeing (R314, R315). -/

/-- The ACF messages and the PDUs of a batch without those of a stream. -/
def stripParts (h : Nat) : Bytes → List Part → Bytes × List Part
  | bs, [] => (bs, [])
  | bs, q :: r =>
    let (b, l) := stripParts h (bs.drop q.size) r
    if q.seq.any (fun t => t.1 = h) then (b, l) else (bs.take q.size ++ b, q :: l)

/-- Has a batch a PDU of a stream? -/
def hasPart (h : Nat) (l : List Part) : Bool := l.any (fun q => q.seq.any (fun t => t.1 = h))

/-- The PDUs of a stream that a port loses from a batch settle. -/
def partsLost (p h : Nat) (l : List Part) (s : State) : State :=
  (l.filter (fun q => q.seq.any (fun t => t.1 = h))).foldl (fun s q => faultDiscard p false true q s) s

/-- An open batch loses the PDUs of a stream; one that has no other is given up. -/
def purgeBatch (h i : Nat) (s : State) : State :=
  match kget s.gw.batches i with
  | none => s
  | some b =>
    if !hasPart h b.parts then s
    else
      let p := chPort (gwEntry s.gw.active 1 i)
      let (bs, l) := stripParts h b.bytes b.parts
      let s := partsLost p h b.parts s
      if l.isEmpty then release b.buf p false (s.modGw (fun g => { g with batches := kdel g.batches i }))
      else s.modGw (fun g => { g with batches := kput g.batches i { b with bytes := bs, parts := l } })

/-- A batch frame that waits in a queue loses the PDUs of a stream: its AVTP header, 12 bytes before the messages, gets the new length. -/
def purgeFrame (h : Nat) (x : Buf) : Buf :=
  let n := x.pkt.bytes.length - (x.parts.map (·.size)).sum
  let (bs, l) := stripParts h (x.pkt.bytes.drop n) x.parts
  let f := patch (x.pkt.bytes.take n) (n - 11) [byte (128 + bs.length / 256), byte bs.length] ++ bs
  { x with pkt := { x.pkt with bytes := f }, len := f.length, parts := l }

/-- Is a cell's copy one of a stream, or a batch frame that carries nothing else? -/
def cellOnly (s : State) (h : Nat) (c : Cell) : Bool :=
  match c.void with
  | some v => decide (v.1 = h)
  | none => (s.buf c.buf).any (fun b => b.handle = h || (!b.parts.isEmpty && b.parts.all (fun q => q.seq.any (fun t => t.1 = h))))

/-- The copies of a stream in one queue are discarded, and batch frames there lose its PDUs. -/
def purgeQueue (h k : Nat) (s : State) : State :=
  let q := s.queue (k / 8) (k % 8)
  let s := discardAll (k / 8) true (q.filter (cellOnly s h)) (keepInQueue (k / 8) (k % 8) (q.filter (fun c => !cellOnly s h c)) s)
  (s.queue (k / 8) (k % 8)).foldl (fun s c => match s.buf c.buf with
    | some b => if c.void.isNone && hasPart h b.parts then
        putBuf c.buf (purgeFrame h b) (partsLost (k / 8) h b.parts s)
      else s
    | none => s) s

/-- Discard every copy of a stream that this device still holds (R314): in queues, in legacy controllers, in batches and before them, and in recovery. -/
def purge (h : Nat) (s : State) : State :=
  let s := (s.mem.queues.map (·.1)).foldl (fun s k => purgeQueue h k s) s
  let s := ((List.range 32).map (· + 40)).foldl (fun s p => loadedDrop p (cellOnly s h) true s) s
  let s := (s.gw.batches.map (·.1)).foldl (fun s i => purgeBatch h i s) s
  let of_ (w : Waiting) : Bool := (s.buf w.buf).any (fun b => b.handle = h)
  let s := (s.mem.batchWait.filter of_).foldl (fun s w => batchDiscard w s)
    { s with mem := { s.mem with batchWait := s.mem.batchWait.filter (fun w => !of_ w) } }
  let waiting := s.mem.recWait.filter (fun w => (s.buf w.buf).any (fun b => b.handle = h))
  let held := match (s.stream h).bind (·.recov) with
    | some r => (r.held ++ r.pended).map (·.buf)
    | none => []
  let s := { s with mem := { s.mem with recWait := s.mem.recWait.filter (fun w => !(s.buf w.buf).any (fun b => b.handle = h)) } }
  (waiting.map (·.buf) ++ held).foldl (fun s b => match s.buf b with
    | some x => (recOwners s x).foldl (fun s p => release b p false s) s
    | none => s) s

/-- Remove a stream's identification and stream-owned entries from the tables. -/
def dropTables (h : Nat) (s : State) : State :=
  (List.range 4).foldl (fun s q => s.modTab q (fun t =>
    { sidDropHandle t h with serve := t.serve.filter (fun e => e.2.handle ≠ h), target := t.target.filter (fun e => e.2.handle ≠ h) })) s

/-- Free everything that this device holds of a stream. -/
def freeStream (h : Nat) (s : State) : State :=
  let s := dropTables h (purge h s)
  withStreams (kdel s.streams h) s

/-- A withdrawal ends the epochs of a handle: the next commit of it starts at epoch 0 (R356). -/
def forgetEpoch (h : Nat) (s : State) : State := { s with flash := { s.flash with epochs := kdel s.flash.epochs h } }

/-- Free the hops of one path that are not Committed, or (`all`) all of them; a stream without hops is freed. -/
def dropHops (h path : Nat) (all : Bool) (s : State) : State :=
  match s.stream h with
  | none => s
  | some x =>
    let keep := x.hops.filter (fun g => g.path ≠ path || (!all && x.committed && !g.tent))
    if keep.isEmpty && !(x.ingress && x.committed) then freeStream h s
    else s.putStream h (tally s { x with hops := keep, got := x.got.filter (fun g => g.1 ≠ path) })

/-! Messages along a path. -/

/-- The first hop of a stream on a path at this device: the port towards the ingress device, and the port onward. -/
def upPort (x : Stream) (path : Nat) : Option Nat := (x.hops.find? (fun g => g.path = path)).map (·.inPort)
def onPort (x : Stream) (path : Nat) : Option Nat :=
  if x.dests.isEmpty then (x.hops.find? (fun g => g.path = path)).map (·.outPort) else none

/-- Send an ADMIT message on a port. -/
def sendAdm (p : Nat) (m : AdmMsg) (s : State) : State := sendOn p 0 (.adm m) s

/-- A refusal given here goes back on the port that the request came by. -/
def refuse (p h path v port : Nat) (s : State) : State :=
  sendAdm p (.verdict h path v (if hasAddr s then ownAddr s else 0xFF) port 0 0 0 0) (s.bump ADM_REFUSE_CNT)

/-! Installing a hop (R313). -/

/-- The stream-owned entry of a stream at this device (R181): type 0 keys name the destination address. Where a quadrant
has no room, the stream is admitted without it and `EV_TBL_REHASH_REQUEST` is raised. (DEDUCED, log entry 43, DESIGN CHOICE, log entry 129) -/
def ownedEntry (h : Nat) (x : Stream) (s : State) : State :=
  if x.idType ≠ 0 then s
  else
    let d := x.dest 0
    let isLocal := hasAddr s && d.1 = ownAddr s
    let e : L2Entry := { pin := true, kind := if isLocal then 0 else 1, device := if isLocal then 0 else d.1, port := d.2, handle := h,
                         fid := bits x.idKey 59 48, mac := bits x.idKey 47 0, last := s.lt }
    (List.range 4).foldl (fun s q => (tblWrite q 0 (l2Word e false) true s).1) s

/-- The stream-identification entries of a hop (R313), where the quadrant has none with that key. Stage 3 uses them at the ingress device only:
elsewhere the tag identifies (R185). (DEDUCED, log entry 43) -/
def sidHops (h path : Nat) (x : Stream) (s : State) : State :=
  (hopQuads (x.hops.filter (fun g => g.path = path))).foldl (fun s q => s.modTab q (fun t =>
    if (sidFind t.sid x.idType x.idKey).isSome then t else (sidInsert t x.idType h x.idKey).getD t)) s

/-- A hop becomes Committed: the identification and stream-owned entries, and at a destination the recovery state with the epoch and next number
(R351, R357). The hops of another path stay Tentative until its own commit (R309). (DEDUCED, log entry 43) -/
def installHop (h path epoch next : Nat) (x : Stream) (s : State) : State :=
  let hot := x.dests.any (fun p => s.pairMode = 2 && s.flag (PAIR_TWIN.VALID p))
  let rec_ : Option Recov := if x.ingress || x.dests.isEmpty || hot then x.recov
    else some { synced := true, epoch := epoch, next := next, skew := x.skew }
  let hops := x.hops.map (fun g => if g.path = path then g else { g with tent := true })
  ownedEntry h x (sidHops h path x (s.putStream h { x with phase := .committed, recov := rec_, hops := hops }))

/-- Make the new hops of a path the hops of that path; where the old ones left by other ports, those devices are freed (R316). (DEDUCED, log entry 42) -/
def takeHops (h path : Nat) (s : State) : State :=
  match s.stream h with
  | none => s
  | some x =>
    let new := x.hops.filter (fun g => g.path = path && g.tent)
    if new.isEmpty then s
    else
      let old := x.hops.filter (fun g => g.path = path && !g.tent)
      let gone := (old.map (·.outPort)).filter (fun p => !(new.any (fun g => g.outPort = p)) && x.dests.isEmpty || (x.ingress && !(new.any (fun g => g.outPort = p))))
      let local_ (g : Hop) : Bool := x.ingress && x.dests.contains g.outPort
      let x' := tally s { x with hops := x.hops.filter (fun g => g.path ≠ path || local_ g) ++ new.map (fun g => { g with tent := false }),
                                 former := old.filter (fun g => !local_ g),
                                 skew := if x.dests.isEmpty then x.skew else (new.map (·.skew)).foldl max 0 }
      gone.foldl (fun s p => sendAdm p (.withdraw h path) s) (s.putStream h x')

/-! Outcome at the ingress device. -/

/-- The reply of `ADMIT_REQUEST` (R340). (DEDUCED, log entry 40) -/
def admReply (v prot atDev atPort stated a b skew h : Nat) : Bytes :=
  [byte v, byte prot, byte atDev, byte atPort] ++ toLe 4 stated ++ toLe 4 a ++ toLe 4 b ++ toLe 4 skew ++ toLe 2 h ++ zeros 10

/-- Send withdrawals along the paths of a stream that enters here (R310, R314). (DEDUCED, log entry 39) -/
def withdrawPaths (h : Nat) (x : Stream) (s : State) : State :=
  (x.paths.zipIdx).foldl (fun s p => sendAdm p.1.first (.withdraw h p.2) s) s

/-- Complete the command that waits for a stream. -/
def answerStream (x : Stream) (st : Nat) (reply : Bytes) (s : State) : State :=
  match x.cmd with
  | some (op, c) => complete c op st reply s
  | none => s

/-- The stated bound at the ingress device where every destination is local, else from the verdicts (R328). -/
def localBound (x : Stream) : Nat := ((x.hops.filter (fun g => x.dests.contains g.outPort)).map (·.bound)).foldl max 0

/-- `EV_ADM_IMAGE_MISMATCH` (R338). -/
def tellMismatch (h fb stated : Nat) (s : State) : State := raise 0x0606 0 (evPay [(16, 2, h), (20, 4, fb), (24, 4, stated)]) s

/-- A request ends with a refusal at the ingress device: its own state is freed, and the hops of every path. A record of an admission section whose
stated bound passes `FINDAR_BOUND` is told (R338). -/
def requestRefused (h v atDev atPort stated a b skew : Nat) (tell : Bool) (s : State) : State :=
  match s.stream h with
  | none => s
  | some x =>
    let s := if tell then withdrawPaths h x s else s
    let s := reportStream x false false true (freeStream h s)
    let s := match s.admJob.cur with
      | some (k, fb) => if k = h && fb < stated then tellMismatch h fb stated s else s
      | none => s
    answerStream x stOk (admReply v 0 atDev atPort stated a b skew h) s

/-- A request ends accepted: Tentative at the ingress device until `RSV_HOLD` ends (R315). -/
def requestAccepted (h : Nat) (s : State) : State :=
  match s.stream h with
  | none => s
  | some x =>
    let stated := max x.stated (localBound x)
    let x' := { x with phase := .tentative, stated := stated, cmd := none, since := s.lt,
                       deadline := s.lt + s.fld ADM_TIMERS.RSV_HOLD * 1000000 }
    answerStream x stOk (admReply 0 (b2n (x.paths.length = 2)) 0xFF 0 stated x.sumA x.sumB x.skew h) (s.putStream h x')

/-- The bucket of the stage-4 meter, full (R335): in 1/`INTERVAL` byte. -/
def policeDepth (x : Stream) : Nat :=
  (x.frames * x.maxLen + divUp (x.frames * x.maxLen * x.jitter) x.interval) * x.interval

/-- The epoch in which a stream is committed (R356, R374): 0 the first time and after a withdrawal; a stream that a POR or S5 took away, whose
epoch flash still holds, goes on in the next one. (DEDUCED, log entry 36) -/
def commitEpoch (s : State) (h : Nat) : Nat := match kget s.flash.epochs h with
  | some e => (e + 1) % 4
  | none => 0

/-- Every hop has acknowledged: identification and policing are installed last, and the command completes (R313). (DEDUCED, log entry 36) -/
def commitDone (h : Nat) (s : State) : State :=
  match s.stream h with
  | none => s
  | some x =>
    let s := s.modTab (homeQuad x.inPort) (fun t => (sidInsert t x.idType h x.idKey).getD t)
    let x' := { x with phase := .committed, cmd := none, meter := policeDepth x, meterAt := s.lt, epoch := commitEpoch s h, next := 0, written := true }
    let s := ownedEntry h x' (s.putStream h x')
    let s := { s with flash := { s.flash with epochs := kput s.flash.epochs h x'.epoch } }
    answerStream x stOk [] (reportStream x' true (x.paths.length = 2) false s)

/-- A commit fails: the stream is withdrawn from every hop and the command completes with `STATE` (R313). -/
def commitFailed (h : Nat) (s : State) : State :=
  match s.stream h with
  | none => s
  | some x => answerStream x stState [] (reportStream x false false true (freeStream h (withdrawPaths h x s)))

/-- A re-run ends with a refusal (R316): the new hops go, the path is not live, and `PATH_SET` completes with `STATE`. -/
def rerunRefused (h v : Nat) (tell : Bool) (s : State) : State :=
  match s.stream h with
  | some x => match x.rerun, x.newPath with
    | some p, some r =>
      let s := if tell then sendAdm r.first (.withdraw h p) s else s
      let x' : Stream := tally s { x with hops := x.hops.filter (fun g => !g.tent), rerun := none, newPath := none, acks := [], cmd := none,
                                          dead := (p :: x.dead).eraseDups }
      let s := s.putStream h x'
      let s := raise 0x0607 0 (evPay [(16, 2, h), (18, 1, v), (19, 1, p)]) s
      answerStream x stState [] (reportStream x' x'.upA x'.upB false s)
    | _, _ => s
  | none => s

/-- A re-run is Committed: frames take the new path, the old one is freed (R316, R359). (DEDUCED, log entry 42) -/
def rerunDone (h : Nat) (s : State) : State :=
  match s.stream h with
  | some x => match x.rerun, x.newPath with
    | some p, some r =>
      let paths := if p < x.paths.length then x.paths.set p r else x.paths ++ [r]
      let s := takeHops h p (s.putStream h { x with paths := paths, rerun := none, newPath := none, cmd := none,
                                                    dead := x.dead.filter (fun k => k ≠ p) })
      answerStream x stOk [] (match s.stream h with
        | some y => reportStream y y.upA y.upB false s
        | none => s)
    | _, _ => s
  | none => s

/-! The ingress hop (R310). -/

/-- The coordinator's paths have come: the ingress device runs its own hop and sends the request along every path. -/
def ingressHop (h : Nat) (paths : List PathRec) (s : State) : State :=
  match s.stream h with
  | none => s
  | some x =>
    let locals := localDests s x.contract
    let remote := remoteDests x.contract (ownAddr s)
    let x := { x with paths := paths }
    let outs := paths.map (·.first) ++ locals
    let x := { x with dests := locals, len := streamLen s x outs }
    let own := if hasAddr s then ownAddr s else 0xFF
    match hopClosed s with
    | some v => requestRefused h v own 0 0 0 0 0 false (s.bump ADM_REFUSE_CNT)
    | none =>
      if (paths.isEmpty && !remote.isEmpty) || (x.protect && remote.isEmpty) then
        requestRefused h vNoPath own 0 0 0 0 0 false (s.bump ADM_REFUSE_CNT)
      else
        let s := engineRun s
        let nh := (paths.zipIdx).map (fun p => ({ path := p.2, inPort := x.inPort, outPort := p.1.first, aUp := 0 } : Hop)) ++
          locals.map (fun p => ({ path := 0, inPort := x.inPort, outPort := p, aUp := 0 } : Hop))
        match hopCheck s h x nh (if locals.isEmpty then none else some [0]) with
        | .inl (v, port) =>
          let b := if v ≠ vBound then 0 else match hopCheck s h x nh none with
            | .inr y => localBound y
            | .inl _ => 0
          requestRefused h v own port b b 0 0 false ((s.putStream h x).bump ADM_REFUSE_CNT)
        | .inr y =>
          let s := s.putStream h { y with phase := .requested, sumA := if paths.isEmpty then localBound y else 0 }
          if paths.isEmpty then requestAccepted h s
          else (paths.zipIdx).foldl (fun s p =>
            let al := s.fld (ADM_LINK_ALLOW.LINK_ALLOW (fabIdx p.1.first))
            let b := (y.hops.find? (fun g => g.path = p.2 && g.outPort = p.1.first)).elim 0 (·.bound)
            sendAdm p.1.first (.request y.contract y.len p.2 p.1 0 (b + al) (400 + al) false) s) s

/-- The coordinator answers with paths of its own choice; where a successor holds a copy, only after its acknowledgement (R466). -/
def coordAnswer (ingress : Nat) (contract : Bytes) (s : State) : State × Option (List PathRec) :=
  let paths := choosePaths s ingress contract
  let h := contractHandle contract
  let s := if paths.isEmpty then s
    else admPut { ingress := ingress, contract := contract, paths := paths } false s
  let m : PathsMsg := .records h none paths
  if hasSucc s && !paths.isEmpty then (s.modFab (fun f => { f with answers := f.answers ++ [(h, ingress, m)] }), none)
  else if ingress = ownAddr s then (s, some paths)
  else (sendTo ingress (.paths m) s, none)

/-- Ask the coordinator for paths (R310, R457). Without a coordinator no answer comes. (DEDUCED, log entry 40) -/
def askPaths (h : Nat) (contract : Bytes) (s : State) : State :=
  if s.fab.coord = ownUid then
    match coordAnswer (ownAddr s) contract s with
    | (s, some paths) => ingressHop h paths s
    | (s, none) => s
  else if s.fab.coord = 0 then s
  else sendTo (addrOf s s.fab.coord) (.paths (.request (ownAddr s) contract)) s

/-- A contract is offered (R310). `ADM_REQ_CNT` counts every request that comes to this hop, refused ones among them. (DEDUCED, log entry 123) -/
def admRequest (cmd : Option (Nat × CmdCtx)) (contract : Bytes) (s : State) : State :=
  let h := contractHandle contract
  let own := if hasAddr s then ownAddr s else 0xFF
  let early (v : Nat) : State :=
    let s := (s.bump ADM_REQ_CNT).bump ADM_REFUSE_CNT
    match cmd with
    | some (op, c) => complete c op stOk (admReply v 0 own 0 0 0 0 0 h) s
    | none => s
  match hopClosed s with
  | some v => early v
  | none =>
    if khas s.streams h then early vHandle
    else
      let x : Stream := { contract := contract, phase := .asking, ingress := true, cmd := cmd, since := s.lt,
                          deadline := s.lt + s.fld ADM_TIMERS.ADM_TIMEOUT * 1000000 }
      let s := (s.bump ADM_REQ_CNT).putStream h x
      if (remoteDests contract (ownAddr s)).isEmpty && hasAddr s then ingressHop h [] s else askPaths h contract s

/-- `ADMIT_REQUEST` (R340). -/
def execAdmitRequest (c : CmdCtx) (s : State) : Res :=
  .next (command c 0x0601 s (fun s =>
    if !plenIs c 64 || !contractOk s c.par then complete c 0x0601 stParam [] s
    else admRequest (some (0x0601, c)) c.par s))

/-- Send the commits of a Tentative stream (R313, R357). -/
def startCommit (cmd : Option (Nat × CmdCtx)) (h : Nat) (s : State) : State :=
  match s.stream h with
  | none => s
  | some x =>
    let acks := (x.paths.zipIdx).flatMap (fun p => p.1.hops.map (fun k => (p.2, k.1)))
    let s := s.putStream h { x with phase := .committing, cmd := cmd, acks := acks, deadline := s.lt + s.fld ADM_TIMERS.ADM_TIMEOUT * 1000000 }
    if acks.isEmpty then commitDone h s
    else (x.paths.zipIdx).foldl (fun s p => sendAdm p.1.first (.commit h p.2 (commitEpoch s h) 0) s) s

/-- The handle that a command of group 0x06 names. -/
def cmdHandle (c : CmdCtx) : Nat := leAt c.par 0 2

/-- A command on a handle: `PARAM` for its length and reserved bytes, `STATE` where the handle is not held here (R340). -/
def onHandle (c : CmdCtx) (op : Nat) (s : State) (body : Stream → State → State) : State :=
  if !plenIs c 8 || !parZero c 2 8 then complete c op stParam [] s
  else match s.stream (cmdHandle c) with
    | some x => body x s
    | none => complete c op stState [] s

/-- `ADMIT_COMMIT` (R313). -/
def execAdmitCommit (c : CmdCtx) (s : State) : Res :=
  .next (command c 0x0602 s (fun s => onHandle c 0x0602 s (fun x s =>
    if x.ingress && x.phase = .tentative then startCommit (some (0x0602, c)) (cmdHandle c) s
    else complete c 0x0602 stState [] s)))

/-- Has every frame of a stream left this device: no buffer carries the handle, and no batch a PDU of it? -/
def streamGone (s : State) (h : Nat) : Bool := !(inUse s).any (fun e => e.2.handle = h || hasPart h e.2.parts)

/-- A withdrawal ends: the state is freed at every hop and the command completes (R314). -/
def withdrawDone (h : Nat) (s : State) : State :=
  match s.stream h with
  | none => s
  | some x => answerStream x stOk [] (reportStream x false false true (forgetEpoch h (freeStream h (withdrawPaths h x s))))

/-- `ADMIT_WITHDRAW` (R314). (DEDUCED, log entry 45, DEDUCED, log entry 55) -/
def execAdmitWithdraw (c : CmdCtx) (s : State) : Res :=
  .next (command c 0x0603 s (fun s => onHandle c 0x0603 s (fun x s =>
    let h := cmdHandle c
    if !x.ingress || !(x.phase = .tentative || x.phase = .committed) then complete c 0x0603 stState [] s
    else
      let x' := { x with phase := .withdrawing, cmd := some (0x0603, c), deadline := s.lt + x.stated }
      let s := (s.putStream h x').modTab (homeQuad x.inPort) (fun t => sidDropHandle t h)
      if x.phase = .tentative then withdrawDone h s else s)))

/-- Every frame of a withdrawn stream has departed every device (`gone`, as the other devices say, and none is held here), or the stated
bound has passed (R314). (DEDUCED, log entry 45) -/
def execWithdrawDrained (h : Nat) (gone : Bool) (s : State) : Res :=
  match s.stream h with
  | some x =>
    if x.phase = .withdrawing && x.ingress && (decide (x.deadline ≤ s.lt) || (gone && streamGone s h)) then .next (withdrawDone h s) else .next s
  | none => .next s

/-- Is a stream protected (R42): on two live paths where it enters; at another device, which the ingress device's report reaches, by its contract and
what the last PATHS message said of its paths. -/
def Stream.protected_ (x : Stream) : Bool :=
  if x.ingress then x.upA && x.upB else x.protect && x.pathsSaid.elim true (fun w => w.1 && w.2.1)

/-- `ADMIT_QUERY` (R341). -/
def queryReply (h : Nat) (x : Stream) : Bytes :=
  let role := b2n x.ingress + 2 * b2n x.transit + 4 * b2n (!x.dests.isEmpty) + 8 * b2n x.protected_
  let epoch := match x.recov with
    | some r => if x.ingress then x.epoch else r.epoch
    | none => x.epoch
  let b := x.hops.foldl (fun m g => max m g.bound) 0
  let c := x.cc
  toLe 2 h ++ [byte role, byte (epoch % 4)] ++ toLe 4 b ++ toLe 4 (if x.ingress then x.stated else 0) ++ [byte x.dests.length, 0, 0, 0] ++
    [c.offered, c.policeDrop, c.policeDemote, c.refused, c.accepted, c.overrun, c.faultDiscard, c.maxResidence].flatMap (toLe 8) ++
    x.dests.flatMap (fun p => [byte p] ++ zeros 7 ++ toLe 8 (kgetD c.delivered p 0) ++ toLe 8 (kgetD c.eliminated p 0) ++ toLe 8 (kgetD c.gap p 0))

def execAdmitQuery (c : CmdCtx) (s : State) : Res :=
  .next (command c 0x0604 s (fun s => onHandle c 0x0604 s (fun x s => complete c 0x0604 stOk (queryReply (cmdHandle c) x) s)))

/-! ADMIT messages at a hop (R310, R313 to R316). -/

/-- A request at a hop: transit devices reserve and forward; a destination waits for the other path of a protected stream. (DEDUCED, log entry 42) -/
def admRequestIn (p : Nat) (contract : Bytes) (len path : Nat) (r : PathRec) (hop up low : Nat) (rerun : Bool) (s : State) : State :=
  let s := s.bump ADM_REQ_CNT
  let h := contractHandle contract
  let isLast := decide (hop + 1 = r.hops.length)
  let old := s.stream h
  let taken := match old with
    | some x => x.contract ≠ contract || x.ingress || (!rerun && (x.hops.any (fun g => g.path = path) || x.got.any (fun g => g.1 = path)))
    | none => false
  match hopClosed s with
  | some v => refuse p h path v 0 s
  | none =>
    if taken then refuse p h path vHandle 0 s
    else
      match r.hops[hop]? with
      | none => refuse p h path vNoPath 0 s
      | some (a, out) =>
        if !hasAddr s || a ≠ ownAddr s then refuse p h path vNoPath 0 s
        else
          let held := s.lt + s.fld ADM_TIMERS.RSV_HOLD * 1000000
          let x : Stream := old.getD { contract := contract, phase := .asking, len := len, since := s.lt, deadline := held }
          let live := old.any (·.committed)
          if !isLast then
            let s := engineRun s
            let x := { x with transit := true }
            match hopCheck s h x [{ path := path, inPort := p, outPort := out, aUp := up, low := low, tent := live }] none with
            | .inl (v, port) => refuse p h path v port s
            | .inr y =>
              let b := (y.hops.find? (fun g => g.path = path && g.outPort = out && (g.tent || !live))).elim 0 (·.bound)
              let al := s.fld (ADM_LINK_ALLOW.LINK_ALLOW (fabIdx out))
              sendAdm out (.request contract len path r (hop + 1) (up + b + al) (low + 400 + al) rerun)
                (s.putStream h { y with phase := if live then y.phase else .tentative, deadline := held })
          else
            let named := localDests s contract
            let dests := if named.contains out then named else out :: named
            let hot := s.pairMode = 2 && s.flag (PAIR_TWIN.VALID out)
            let other := x.hops.find? (fun g => g.path ≠ path && !g.tent && live)
            let got := (path, p, up, low) :: x.got.filter (fun g => g.1 ≠ path)
            let need := bit (byteAt contract 3) 0 && !hot && !live && decide (got.length < 2)
            if need then
              s.putStream h { x with got := got, deadline := s.lt + s.fld ADM_TIMERS.ADM_TIMEOUT * 1000000 }
            else
              let s := engineRun s
              let all := got.map (fun g => (g.2.2.1, g.2.2.2)) ++ (match other with
                | some g => [(g.aUp, g.low)]
                | none => [])
              let emax := (all.map (·.1)).foldl max 0
              let emin := (all.map (·.2)).foldl min ((all.headD (0, 0)).2)
              let skew := if all.length = 2 then emax - emin else 0
              let nh := got.flatMap (fun g => dests.map (fun d =>
                ({ path := g.1, inPort := g.2.1, outPort := d, aUp := g.2.2.1, low := g.2.2.2, skew := skew, tent := live } : Hop)))
              let x := { x with dests := dests, skew := if live then x.skew else skew, got := [] }
              match hopCheck s h x nh (some (got.map (·.2.2.1))) with
              | .inl (v, port) =>
                let s := if live then s else withStreams (kdel s.streams h) s
                let b := match hopCheck s h x nh none with
                  | .inr y => y.hops.foldl (fun m g => max m g.bound) 0
                  | .inl _ => 0
                if v = vBound then
                  let sum (k : Nat) : Nat := (got.find? (fun g => g.1 = k)).elim 0 (fun g => g.2.2.1 + b)
                  got.foldl (fun s g => sendAdm g.2.1 (.verdict h g.1 v (ownAddr s) port (max (sum 0) (sum 1)) (sum 0) (sum 1) skew) s)
                    (s.bump ADM_REFUSE_CNT)
                else got.foldl (fun s g => sendAdm g.2.1 (.verdict h g.1 v (ownAddr s) port 0 0 0 0) s) (s.bump ADM_REFUSE_CNT)
              | .inr y =>
                let b := (y.hops.filter (fun g => got.any (fun k => k.1 = g.path))).foldl (fun m g => max m g.bound) 0
                let sum (k : Nat) : Nat := match got.find? (fun g => g.1 = k) with
                  | some g => g.2.2.1 + b
                  | none => match other with
                    | some g => if g.path = k then g.aUp + b else 0
                    | none => 0
                let y := { y with phase := if live then y.phase else .tentative, deadline := held, sumA := sum 0, sumB := sum 1,
                                  stated := max (sum 0) (sum 1) }
                got.foldl (fun s g => sendAdm g.2.1 (.verdict h g.1 0 0xFF 0 (max (sum 0) (sum 1)) (sum 0) (sum 1) skew) s) (s.putStream h y)

/-- A verdict on its way back: a refusal frees each Tentative state it passes; at the ingress device the request, or the re-run, ends when
every path has answered. -/
def admVerdictIn (h path v atDev atPort stated a b skew : Nat) (s : State) : State :=
  match s.stream h with
  | none => s
  | some x =>
    if !x.ingress then
      let back := upPort x path
      let s := if v = 0 then s.modStream h (fun x => { x with deadline := s.lt + s.fld ADM_TIMERS.RSV_HOLD * 1000000 }) else dropHops h path false s
      match back with
      | some p => sendAdm p (.verdict h path v atDev atPort stated a b skew) s
      | none => s
    else if x.rerun = some path then
      if v ≠ 0 then rerunRefused h v false s
      else
        let r := x.newPath.getD { first := 0, hops := [] }
        let s := s.putStream h { x with acks := r.hops.map (fun k => (path, k.1)) }
        sendAdm r.first (.commit h path x.epoch x.next) s
    else if x.phase = .requested then
      if v ≠ 0 then requestRefused h v atDev atPort stated a b skew true s
      else
        let seen := (path, 0) :: x.verdicts.filter (fun e => e.1 ≠ path)
        let x := { x with verdicts := seen, stated := max x.stated stated, sumA := max x.sumA a, sumB := max x.sumB b, skew := max x.skew skew }
        let s := s.putStream h x
        if x.paths.length ≤ seen.length then
          requestAccepted h (reportStream x false false false s)
        else s
    else s

/-- A commit at a hop (R313, R315, R357). -/
def admCommitIn (p h path epoch next : Nat) (s : State) : State :=
  let own := ownAddr s
  match s.stream h with
  | some x =>
    let mine := x.hops.filter (fun g => g.path = path && g.inPort = p)
    let fresh := x.phase = .tentative
    let rerun := mine.any (·.tent)
    if x.ingress || mine.isEmpty || !(fresh || rerun || x.phase = .committed) then sendAdm p (.ack h path own false) s
    else
      let on := (mine.find? (fun g => g.tent || !rerun)).map (·.outPort)
      let isLast := x.dests.any (fun d => mine.any (fun g => g.outPort = d))
      let s := if rerun then takeHops h path s else s
      let s := match s.stream h with
        | some x => if fresh then installHop h path epoch next x s
          else if rerun then sidHops h path x (s.putStream h { x with recov := x.recov.map (fun r => { r with skew := x.skew }) }) else s
        | none => s
      let s := match on, isLast with
        | some q, false => sendAdm q (.commit h path epoch next) s
        | _, _ => s
      sendAdm p (.ack h path own true) s
  | none => sendAdm p (.ack h path own false) s

/-- An acknowledgement travels back; at the ingress device it is ticked off. (DEDUCED, log entry 117) -/
def admAckIn (h path device : Nat) (ok : Bool) (s : State) : State :=
  match s.stream h with
  | none => s
  | some x =>
    if !x.ingress then
      match upPort x path with
      | some p => sendAdm p (.ack h path device ok) s
      | none => s
    else if x.rerun = some path then
      if !ok then rerunRefused h vHandle true s
      else
        let left := x.acks.filter (fun e => e ≠ (path, device))
        let s := s.putStream h { x with acks := left }
        if left.isEmpty && !x.acks.isEmpty then rerunDone h s else s
    else if x.phase = .committing then
      if !ok then commitFailed h s
      else
        let left := x.acks.filter (fun e => e ≠ (path, device))
        let s := s.putStream h { x with acks := left }
        if left.isEmpty then commitDone h s else s
    else s

/-- A withdrawal reaches a hop: it goes on along the path and frees the hop at once (R310, R314). -/
def admWithdrawIn (p h path : Nat) (s : State) : State :=
  match s.stream h with
  | none => s
  | some x =>
    let mine := x.hops.filter (fun g => g.path = path && g.inPort = p)
    if x.ingress then s
    else if mine.isEmpty then
      if x.got.any (fun g => g.1 = path && g.2.1 = p) then dropHops h path true s else s
    else
      let s := match onPort x path with
        | some q => sendAdm q (.withdraw h path) s
        | none => s
      dropHops h path (!mine.any (·.tent) || !x.committed) s

/-! Re-runs (R316, R358, R359). -/

/-- Start the re-run of a path with a new record: the own hop is checked and the request leaves. -/
def startRerun (cmd : Option (Nat × CmdCtx)) (h path : Nat) (r : PathRec) (s : State) : State :=
  match s.stream h with
  | none => s
  | some x =>
    let s := engineRun (s.bump ADM_REQ_CNT)
    let s := s.putStream h { x with rerun := some path, newPath := some r, cmd := cmd, deadline := s.lt + s.fld ADM_TIMERS.ADM_TIMEOUT * 1000000 }
    let x := { x with rerun := some path, newPath := some r, cmd := cmd, deadline := s.lt + s.fld ADM_TIMERS.ADM_TIMEOUT * 1000000 }
    match hopClosed s with
    | some v => rerunRefused h v false (s.bump ADM_REFUSE_CNT)
    | none =>
      match hopCheck s h x [{ path := path, inPort := x.inPort, outPort := r.first, aUp := 0, tent := true }] none with
      | .inl (v, _) => rerunRefused h v false (s.bump ADM_REFUSE_CNT)
      | .inr y =>
        let b := (y.hops.find? (fun g => g.tent)).elim 0 (·.bound)
        let al := s.fld (ADM_LINK_ALLOW.LINK_ALLOW (fabIdx r.first))
        sendAdm r.first (.request x.contract x.len path r 0 (b + al) (400 + al) true) (s.putStream h y)

/-- `PATH_SET` (R358, R359, R375). -/
def pathSetRec (c : CmdCtx) : PathRec :=
  { first := byteAt c.par 4, hops := (List.range (byteAt c.par 3)).map (fun i => (byteAt c.par (8 + 2 * i), byteAt c.par (9 + 2 * i))) }

/-- Are the fields of `PATH_SET` in their ranges? -/
def pathSetOk (c : CmdCtx) : Bool :=
  let n := byteAt c.par 3
  decide (byteAt c.par 2 ≤ 1) && decide (1 ≤ n) && decide (n ≤ 16) && routePortOk (byteAt c.par 4) && parZero c 5 8 && parZero c (8 + 2 * n) 40 &&
  (List.range (n - 1)).all (fun i => routePortOk (byteAt c.par (9 + 2 * i))) && decide (byteAt c.par (9 + 2 * (n - 1)) ≤ 71)

/-- Is a pair a destination of a stream: one of its contract, or the twin that path B ends at (R372)? -/
def isDest (s : State) (x : Stream) (path : Nat) (d : Nat × Nat) : Bool :=
  ((List.range x.nDest).map x.dest).contains d ||
  (path = 1 && (remoteDests x.contract (ownAddr s)).any (fun e => (uidOf s e.1).any (fun u =>
    twinOf s u e.2 = some d.2 && (kget (linkDb s) u).any (fun l => uidOf s d.1 = some l.peer))))

/-- A path that a stream here cannot take is refused (R358): `EV_ADM_REPATH_FAIL` with NO_PATH. -/
def pathRefused (c : CmdCtx) (h path : Nat) (s : State) : State :=
  complete c 0x0701 stState [] (raise 0x0607 0 (evPay [(16, 2, h), (18, 1, vNoPath), (19, 1, path)]) s)

/-- Does a re-run of the named stream still run? The next `PATH_SET` for it waits (R311). (DEDUCED, log entry 143) -/
def rerunRuns (c : CmdCtx) (s : State) : Bool := (s.stream (cmdHandle c)).any (fun x => x.rerun.isSome)

/-- `PATH_SET` (R358). A stream that is not Committed, or that has no path B, refuses the path. (DEDUCED, log entry 143) -/
def execPathSet (c : CmdCtx) (s : State) : Res :=
  if plenIs c 40 && pathSetOk c && rerunRuns c s then .next s else
  .next (command c 0x0701 s (fun s =>
    if !plenIs c 40 || !pathSetOk c then complete c 0x0701 stParam [] s
    else
      let h := cmdHandle c
      let r := pathSetRec c
      match s.stream h with
      | none => complete c 0x0701 stState [] s
      | some x =>
        if !isDest s x (byteAt c.par 2) ((r.hops.getLast?).getD (0, 0)) then complete c 0x0701 stParam [] s
        else if !x.ingress then complete c 0x0701 stState [] s
        else if x.phase ≠ .committed || (byteAt c.par 2 = 1 && !x.protect) then pathRefused c h (byteAt c.par 2) s
        else startRerun (some (0x0701, c)) h (byteAt c.par 2) r s))

end Sys2Proof.Machine
end

