-- ==== Sys2Proof/Machine/CryptoJob.lean ====
section
/-! DEFINITION. The lookaside engine (chapter 12): the lock, the jobs, freshness counters, saved contexts. -/

namespace Sys2Proof.Machine

/-! The lock (R445). -/

/-- Put a lock state. -/
def State.setLock (s : State) (l : Option (Src × Nat)) : State := { s with keys := { s.keys with lock := l } }

/-- Clear the engine's context. -/
def State.setCtx (s : State) (x : Option JobCtx) : State := { s with keys := { s.keys with ctx := x } }

/-- Does a source hold the lock? -/
def holdsLock (s : State) (src : Src) : Bool := match s.keys.lock with
  | some (o, _) => decide (o = src)
  | none => false

/-- Take the lock: ignored while it is held, and from the SPI port, which cannot take it (R445). -/
def lockTake (src : Src) (s : State) : State :=
  if src = .spi || s.keys.lock.isSome then s else s.setLock (some (src, s.lt))

/-- Release the lock by its owner; the context that a multi-part job keeps while the lock is held ends with it (R445, R446). -/
def lockRelease (src : Src) (s : State) : State :=
  if holdsLock s src then (s.setLock none).setCtx none else s

/-- CRY_LOCK_TAKE (R445). -/
def execCryLockTake (src : Src) (s : State) : Res := .next (busRow src (lockTake src) s)

/-- CRY_LOCK_RELEASE (R445). -/
def execCryLockRelease (src : Src) (s : State) : Res := .next (busRow src (lockRelease src) s)

/-- CRY_LOCK_IDLE_EXPIRY (R445): a lock idle for `LOCK_IDLE` ms is released and reported. -/
def execCryLockIdleExpiry (s : State) : Res :=
  match s.keys.lock with
  | some (o, t) =>
    if t + s.fld CRY_CTRL.LOCK_IDLE * 1000000 ≤ s.lt then
      .next (raise 0x0906 0 (evPay [(16, 1, srcCode o)]) ((s.setLock none).setCtx none))
    else .next s
  | none => .next s

/-- The source that a command's sender is. -/
def whoSrc (c : CmdCtx) : Src := match c.who with
  | .host h _ => hostSrc h
  | .firmware => .fw

/-- Firmware waits for the lock before its own checks of signatures (R445). -/
def engineHeld (s : State) : Bool := match s.keys.lock with
  | some (o, _) => decide (o ≠ .fw)
  | none => false

/-- Does a firmware job wait for the lock (R445)? -/
def fwWaits (s : State) (c : CmdCtx) : Bool := match c.who, s.keys.lock with
  | .firmware, some (o, _) => decide (o ≠ .fw)
  | _, _ => false

/-- A host needs the lock for a job (R445). -/
def lockOk (s : State) (c : CmdCtx) : Bool := match c.who with
  | .firmware => true
  | .host h _ => holdsLock s (hostSrc h)

/-! Counters with a flash ceiling (R443, R444). -/

/-- Advance a nonce counter; none where it stands at its last value, or where brace keeps the ceiling unwritten (R443, R570). -/
def nextNonce (s : State) (x : Slot) : Option Slot :=
  if x.nonce = 2 ^ 64 - 1 then none
  else if x.nonce + 1 < x.ceil then some { x with nonce := x.nonce + 1 }
  else if s.brace then none
  else some { x with nonce := x.nonce + 1, ceil := x.nonce + 1 + 2 ^ 20 }

/-- A freshness counter. -/
def State.freshCtr (s : State) (n : Nat) : Fresh := kgetD s.keys.fresh n {}

/-- Store a freshness value; none where brace keeps its ceiling unwritten (R444, R570). -/
def putFresh (s : State) (n v : Nat) : Option State :=
  let f := s.freshCtr n
  if v < f.ceil then some { s with keys := { s.keys with fresh := kput s.keys.fresh n { f with value := v } } }
  else if s.brace then none
  else some { s with keys := { s.keys with fresh := kput s.keys.fresh n { value := v, ceil := v + 2 ^ 16 } } }

/-! Jobs. -/

/-- CMAC over a message of any number of bits (R444: the counter is appended in `WIDTH` bits). -/
def cmacBits (key : Bytes) (m len : Nat) : Bytes :=
  if len % 128 = 0 && decide (len ≠ 0) then cmac key (toBe (len / 8) m)
  else
    let blocks := len / 128 + 1
    let d := toBe (blocks * 16) ((m * 2 + 1) * 2 ^ (blocks * 128 - len - 1))
    let ks := roundKeys key
    let k2 := cmacDouble (cmacDouble (be (aesWith ks (zeros 16))))
    let whole := chunks 16 (blocks - 1) (d.take ((blocks - 1) * 16))
    aesWith ks (xorB (cmacChain ks (zeros 16) whole) (xorB (d.drop ((blocks - 1) * 16)) (toBe 16 k2)))

/-- The reply of a job (R442): result, IV, tag or MAC (zero for the verifying operations, whose slots may not generate one). (DEDUCED, log entry 33) -/
def jobReply (fail : Bool) (iv tag : Bytes) : Bytes := [byte (b2n fail), 0, 0, 0] ++ slice iv 0 12 ++ slice tag 0 16

/-- Data that a job writes to `DST`. -/
def writeDst (c : CmdCtx) (d : Bytes) (s : State) : State :=
  if d.isEmpty then s else match c.who with
    | .host h _ => dmaWrite h (leAt c.par 24 8) d s
    | .firmware => s.emit (.fwData (leAt c.par 24 8) d)

/-- Data that a job writes to `CTX`. (DESIGN CHOICE, log entry 34) -/
def writeCtx (c : CmdCtx) (d : Bytes) (s : State) : State := match c.who with
  | .host h _ => dmaWrite h (leAt c.par 32 8) d s
  | .firmware => s.emit (.fwData (leAt c.par 32 8) d)

/-- The attribute that an operation needs of its slot; none for those that use no slot (R433). -/
def opAttr : Nat → Option Nat
  | 0 => some 0 | 1 => some 1 | 2 => some 0 | 3 => some 1 | 6 => some 0 | 7 => some 1 | _ => none

/-- The `PARAM` conditions of a job (R442, R450). (DEDUCED, log entry 33) -/
def jobParamOk (c : CmdCtx) : Bool :=
  let op := byteAt c.par 0
  plenIs c 64 && decide (op ≤ 7) && decide (byteAt c.par 1 < 32) && byteAt c.par 7 = 0 && parZero c 48 64 &&
  decide (leAt c.par 16 4 ≤ 65536) && (decide (1 < op) || decide (leAt c.par 20 4 ≤ leAt c.par 16 4)) &&
  ((opAttr op).isNone || decide (leAt c.par 2 2 < 256)) &&
  (!(op = 2 || op = 3 || op = 6 || op = 7) || (decide (4 ≤ byteAt c.par 6) && decide (byteAt c.par 6 ≤ 16))) &&
  (!(op = 6 || op = 7) || decide (leAt c.par 4 2 < 512))

/-- Is the service window open (R446)? -/
def serviceOpen (s : State) : Bool := !s.flag GLB_CTRL.FWD_EN || s.dbg.unlocked

/-- The `STATE` conditions of a job before it runs: the lock, contexts outside the service window, a clear context while debug is
locked, the random source for encryption and for saving, the slot's use, a freshness counter that is not in use. (DEDUCED, log entry 33) -/
def jobStateOk (s : State) (c : CmdCtx) : Bool :=
  let op := byteAt c.par 0
  let part := byteAt c.par 1
  let n := leAt c.par 2 2
  lockOk s c && (serviceOpen s || !(bit part 2 || bit part 3)) && (!bit part 4 || s.dbg.unlocked) &&
  (trngOk s || !(op = 0 || bit part 2)) &&
  (match opAttr op with
   | some a => (keyFor s n a).isSome
   | none => true) &&
  (!(op = 6 || op = 7) || s.flag (KEY_FRESH_CTL.VALID (leAt c.par 4 2)))

/-- The context that a part starts from: a new one for `FIRST`, a saved one for `RESTORE` (`PARAM` where this start saved no such
context), else the one the engine holds (`STATE` where it holds none of this operation and slot). -/
def jobStart (s : State) (c : CmdCtx) (d : JobData) : Nat ⊕ JobCtx :=
  let op := byteAt c.par 0
  let part := byteAt c.par 1
  let n := leAt c.par 2 2
  let fits (x : JobCtx) : Bool := decide (x.op = op) && decide (x.slot = n)
  if bit part 3 then
    match s.keys.saved.find? (fun e => e.1 = d.ctx && e.2.2 = bit part 4) with
    | some e => if fits e.2.1 then .inr e.2.1 else .inl stParam
    | none => .inl stParam
  else if bit part 0 then .inr { op := op, slot := n, iv := if op = 1 then slice d.key 0 12 else [] }
  else match s.keys.ctx with
    | some x => if fits x then .inr x else .inl stState
    | none => .inl stState

/-- A part's data joins the context: leading bytes are additional data in the GCM operations. -/
def jobTake (c : CmdCtx) (d : JobData) (x : JobCtx) : JobCtx :=
  let a := if x.op ≤ 1 then leAt c.par 20 4 else 0
  { x with aad := x.aad ++ d.src.take a, text := x.text ++ d.src.drop a }

/-- The output text of a part of a GCM operation: the part of the key stream that the part's own text meets. -/
def jobText (key : Bytes) (old new : JobCtx) : Bytes := (gcmCrypt key new.iv new.text).drop old.text.length

/-- The bytes of a saved context. Their layout is the device's, so they are free values, remembered to be recognised (R446). -/
def saveCtx (c : CmdCtx) (x : JobCtx) (s : State) : State :=
  if bit (byteAt c.par 1) 2 then
    let b := freeBytes s.free 176
    let s := writeCtx c b (s.drewN 176)
    { s with keys := { s.keys with saved := (b, x, bit (byteAt c.par 1) 4) :: s.keys.saved } }
  else s

/-- A part that is not the last keeps its context in the engine; the last ends it. -/
def keepCtx (c : CmdCtx) (x : JobCtx) (s : State) : State :=
  let s := s.setCtx (if bit (byteAt c.par 1) 1 then none else some x)
  match s.keys.lock with
  | some (o, _) => s.setLock (some (o, s.lt))
  | none => s

/-- The event of a counter at its last value (R443, R444). -/
def keyLimit (kind n : Nat) (s : State) : State := raise 0x0905 0 (evPay [(16, 1, kind), (18, 2, n)]) s

/-- GCM: the part is processed, its output written, and on the last part the tag answered or compared (R442, R443). -/
def jobGcm (c : CmdCtx) (d : JobData) (key : Bytes) (old x : JobCtx) (s : State) : State :=
  let last := bit (byteAt c.par 1) 1
  let out := jobText key old x
  let s := keepCtx c x (saveCtx c x (writeDst c out s))
  if x.op = 0 then
    let tag := if last then gcmTag key x.iv x.aad (gcmCrypt key x.iv x.text) else []
    complete c 0x0904 stOk (jobReply false x.iv tag) s
  else
    let tag := gcmTag key x.iv x.aad x.text
    complete c 0x0904 stOk (jobReply (last && decide (tag ≠ slice d.key 12 16)) [] []) s

/-- GCM encryption begins with an IV of the slot and its nonce counter, which advances (R443). -/
def jobEncrypt (c : CmdCtx) (d : JobData) (key : Bytes) (x : JobCtx) (s : State) : State :=
  let n := x.slot
  let fresh := x.iv.isEmpty
  if fresh then
    match nextNonce s (s.slot n) with
    | none =>
      let s := if (s.slot n).nonce = 2 ^ 64 - 1 then keyLimit 0 n s else s
      complete c 0x0904 stState [] s
    | some sl =>
      let y := { x with iv := toBe 4 n ++ toBe 8 (s.slot n).nonce }
      jobGcm c d key y (jobTake c d y) (s.setSlot n sl)
  else jobGcm c d key x (jobTake c d x) s

/-- CMAC and SHA-384 and ECDSA: the data are collected, and the result is computed on the last part (R442). (DEDUCED, log entry 33) -/
def jobPlain (c : CmdCtx) (d : JobData) (key : Bytes) (x : JobCtx) (s : State) : State :=
  let last := bit (byteAt c.par 1) 1
  let k := byteAt c.par 6
  let s := keepCtx c x (saveCtx c x s)
  if !last then complete c 0x0904 stOk (jobReply false [] []) s
  else if x.op = 2 then complete c 0x0904 stOk (jobReply false [] ((cmac key x.text).take k)) s
  else if x.op = 3 then
    complete c 0x0904 stOk (jobReply (decide ((cmac key x.text).take k ≠ slice d.key 0 k)) [] []) s
  else if x.op = 4 then complete c 0x0904 stOk (jobReply false [] []) (writeDst c (sha384 x.text) s)
  else
    let isk := x.slot = 0xFFFF
    let word (f : Nat → Nat) : Nat := (List.range 12).foldl (fun a i => a * 2 ^ 32 + s.reg (f i)) 0
    let qx := if isk then word KEY_ISK_X else beAt d.key 0 48
    let qy := if isk then word KEY_ISK_Y else beAt d.key 48 48
    let sig := if isk then slice d.key 0 96 else slice d.key 96 96
    complete c 0x0904 stOk (jobReply (!ecdsaVerify qx qy (sha384 x.text) sig) [] []) s

/-- CMAC with freshness (R444). (DEDUCED, log entry 33) -/
def jobFresh (c : CmdCtx) (d : JobData) (key : Bytes) (x : JobCtx) (s : State) : State :=
  let last := bit (byteAt c.par 1) 1
  let n := leAt c.par 4 2
  let w := s.fld (KEY_FRESH_CTL.WIDTH n)
  let k := byteAt c.par 6
  let cur := (s.freshCtr n).value
  let mac (v : Nat) : Bytes := (cmacBits key (be x.text * 2 ^ w + v) (x.text.length * 8 + w)).take k
  if !last then complete c 0x0904 stOk (jobReply false [] []) (keepCtx c x (saveCtx c x s))
  else if x.op = 6 then
    if cur + 1 ≥ 2 ^ w then complete c 0x0904 stState [] (keyLimit 1 n (keepCtx c x s))
    else match putFresh s n (cur + 1) with
      | none => complete c 0x0904 stState [] (keepCtx c x s)
      | some s => complete c 0x0904 stOk (jobReply false [] (mac (cur + 1))) (keepCtx c x (saveCtx c x s))
  else
    let v := leAt d.key 0 8
    let pass := decide (cur < v) && decide (v < 2 ^ w) && mac v = slice d.key 8 k
    if !pass then complete c 0x0904 stOk (jobReply true [] []) (keepCtx c x (saveCtx c x s))
    else match putFresh s n v with
      | none => complete c 0x0904 stState [] (keepCtx c x s)
      | some s => complete c 0x0904 stOk (jobReply false [] []) (keepCtx c x (saveCtx c x s))

/-- How many bytes a job reads at `KEYADDR` (R442, R444): an IV and a tag, a MAC, a key and a signature, a candidate value and a MAC. -/
def keyLen (c : CmdCtx) : Nat :=
  match byteAt c.par 0 with
  | 1 => 28
  | 3 => byteAt c.par 6
  | 5 => if leAt c.par 2 2 = 0xFFFF then 96 else 192
  | 7 => 8 + byteAt c.par 6
  | _ => 0

/-- The reads of host memory that a job makes: its data, a saved context, and what stands at `KEYADDR`. -/
def jobReads (c : CmdCtx) (s : State) : State :=
  let s := hostFetch c (leAt c.par 8 8) (leAt c.par 16 4) s
  let s := if bit (byteAt c.par 1) 3 then hostFetch c (leAt c.par 32 8) 176 s else s
  hostFetch c (leAt c.par 40 8) (keyLen c) s

/-- The data of a job: `SRC_LEN` bytes at `SRC`. -/
def jobData (c : CmdCtx) (d : JobData) : JobData := { d with src := slice d.src 0 (leAt c.par 16 4) }

/-- `CRYPTO_JOB` (R442 to R446). The eight operations share the opcode; byte 0 chooses. `data` is none where a read of host memory
failed (R122). -/
def cryptoJob (c : CmdCtx) (data : Option JobData) (s : State) : State :=
  if fwWaits s c then s else
  command c 0x0904 s fun s =>
    if !jobParamOk c then complete c 0x0904 stParam [] s
    else if !jobStateOk s c then complete c 0x0904 stState [] s
    else
      let s := jobReads c s
      match data.map (jobData c) with
      | none => complete c 0x0904 stDma [] s
      | some d =>
        match jobStart s c d with
        | .inl st => complete c 0x0904 st [] s
        | .inr x =>
          let key := (slotKey s (leAt c.par 2 2)).getD []
          if x.op ≤ 1 && decide (leAt c.par 20 4 ≠ 0) && !x.text.isEmpty then complete c 0x0904 stParam [] s
          else if x.op = 0 then jobEncrypt c d key x s
          else if x.op = 1 then jobGcm c d key x (jobTake c d x) s
          else if x.op ≤ 5 then jobPlain c d key (jobTake c d x) s
          else jobFresh c d key (jobTake c d x) s

/-- CRYPTO_GCM_ENCRYPT (R443). -/
def execCryptoGcmEncrypt (c : CmdCtx) (data : Option JobData) (s : State) : Res := .next (cryptoJob c data s)
/-- CRYPTO_GCM_DECRYPT (R442). -/
def execCryptoGcmDecrypt (c : CmdCtx) (data : Option JobData) (s : State) : Res := .next (cryptoJob c data s)
/-- CRYPTO_CMAC_GENERATE (R442). -/
def execCryptoCmacGenerate (c : CmdCtx) (data : Option JobData) (s : State) : Res := .next (cryptoJob c data s)
/-- CRYPTO_CMAC_VERIFY (R442). -/
def execCryptoCmacVerify (c : CmdCtx) (data : Option JobData) (s : State) : Res := .next (cryptoJob c data s)
/-- CRYPTO_SHA384 (R442). -/
def execCryptoSha384 (c : CmdCtx) (data : Option JobData) (s : State) : Res := .next (cryptoJob c data s)
/-- CRYPTO_ECDSA_VERIFY (R442, R448). -/
def execCryptoEcdsaVerify (c : CmdCtx) (data : Option JobData) (s : State) : Res := .next (cryptoJob c data s)
/-- CRYPTO_CMAC_FRESH_GENERATE (R444). -/
def execCryptoCmacFreshGenerate (c : CmdCtx) (data : Option JobData) (s : State) : Res := .next (cryptoJob c data s)
/-- CRYPTO_CMAC_FRESH_VERIFY (R444). -/
def execCryptoCmacFreshVerify (c : CmdCtx) (data : Option JobData) (s : State) : Res := .next (cryptoJob c data s)

end Sys2Proof.Machine
end

