-- ==== Sys2Proof/Machine/AdmImage.lean ====
section
/-! DEFINITION. Findar admission images (R337, R338). -/

namespace Sys2Proof.Machine

/-- A signature under the image-signing key (R448). -/
def iskVerify (s : State) (msg sig : Bytes) : Bool :=
  let word (f : Nat → Nat) : Nat := (List.range 12).foldl (fun a i => a * 2 ^ 32 + s.reg (f i)) 0
  ecdsaVerify (word KEY_ISK_X) (word KEY_ISK_Y) (sha384 msg) sig

/-- The layout of an admission section (R337). -/
def admImageOk (b : Bytes) : Bool :=
  let n := leAt b 6 2
  decide (leAt b 0 4 = 0x4441584B) && decide (leAt b 4 2 = 1) && decide (1 ≤ n) && decide (n ≤ 4096) && decide (leAt b 12 2 = 0x0872) &&
  (slice b 14 50).all (fun x => decide (x = 0)) && decide (b.length = 160 + 80 * n) &&
  (List.range n).all (fun i => (slice b (64 + 80 * i + 68) 12).all (fun x => decide (x = 0)))

/-- The records of a section: contract and `FINDAR_BOUND`. (DEDUCED, log entry 44) -/
def admRecords (b : Bytes) : List (Bytes × Nat) :=
  (List.range (leAt b 6 2)).map (fun i => (slice b (64 + 80 * i) 64, leAt b (128 + 80 * i) 4))

/-- Change the running section. -/
def State.modJob (s : State) (f : AdmJob → AdmJob) : State := { s with admJob := f s.admJob }

/-- `EV_ADM_IMAGE_DONE`. -/
def imageDone (status admitted refused skipped : Nat) (s : State) : State :=
  raise 0x0605 0 (evPay [(16, 1, status), (18, 2, admitted), (20, 2, refused), (22, 2, skipped)]) s

/-- Go on with the running section until a record waits for the fabric: each record is requested and, once accepted, committed (R338). -/
def admPump : Nat → State → State
  | 0, s => s
  | n + 1, s =>
    let j := s.admJob
    if !j.running then
      match j.more with
      | [] => s
      | l :: r => admPump n { s with admJob := { left := l, running := true, more := r } }
    else
      match j.cur with
      | some (h, fb) =>
        match s.stream h with
        | none => admPump n (s.modJob (fun j => { j with cur := none, refused := j.refused + 1 }))
        | some x =>
          if x.phase = .tentative then admPump n (startCommit none h s)
          else if x.phase = .committed then
            let s := if fb < x.stated then tellMismatch h fb x.stated s else s
            admPump n (s.modJob (fun j => { j with cur := none, admitted := j.admitted + 1 }))
          else s
      | none =>
        match j.left with
        | [] => admPump n (imageDone 0 j.admitted j.refused j.skipped (s.modJob (fun j => { more := j.more })))
        | (c, fb) :: r =>
          let s := s.modJob (fun j => { j with left := r })
          if 74 < byteAt c 16 then admPump n (s.modJob (fun j => { j with skipped := j.skipped + 1 }))
          else if !contractOk s c then admPump n (s.modJob (fun j => { j with refused := j.refused + 1 }))
          else
            let h := contractHandle c
            if khas s.streams h then admPump n ((admRequest none c s).modJob (fun j => { j with refused := j.refused + 1 }))
            else admPump n (admRequest none c (s.modJob (fun j => { j with cur := some (h, fb) })))

/-- Enough turns for every record that waits. -/
def pumpFuel (s : State) : Nat := 4 * (s.admJob.left.length + ((s.admJob.more.map List.length).sum) + s.admJob.more.length + 2)

/-- Let the running section go on. -/
def admGo (s : State) : State := admPump (pumpFuel s) s

/-- Apply an admission section: layout and signature first (R338). -/
def applyAdmImage (b : Bytes) (s : State) : State :=
  if !admImageOk b then imageDone 2 0 0 0 s
  else if !iskVerify s (slice b 0 (b.length - 96)) (slice b (b.length - 96) 96) then imageDone 1 0 0 0 s
  else admGo (s.modJob (fun j => { j with more := j.more ++ [admRecords b] }))

/-- `ADMIT_IMAGE` (R338, R340): `image` is what host memory holds at the address, none when it cannot be read. The check of its signature waits for the lookaside lock
(R445). -/
def execAdmitImage (c : CmdCtx) (image : Option Bytes) (s : State) : Res :=
  if engineHeld s then .next s else .next (command c 0x0605 s (fun s =>
    if !plenIs c 16 || !parZero c 12 16 then complete c 0x0605 stParam [] s
    else match image with
      | none => complete c 0x0605 stDma [] s
      | some b => applyAdmImage (slice b 0 (leAt c.par 8 4)) (complete c 0x0605 stAccepted [] s)))

/-- `ADMIT_MESSAGE`: an ADMIT message arrives on a fabric port. -/
def execAdmitMessage (p : Port) (m : AdmMsg) (s : State) : Res :=
  let p := p.val
  if !dfpOn s || !s.fabricPort p || !portUp s p then .next s
  else
    match m with
    | .request c len path r hop up low rerun => .next (admRequestIn p c len path r hop up low rerun s)
    | .verdict h path v d q st a b k => .next (admGo (admVerdictIn h path v d q st a b k s))
    | .commit h path e n => .next (admCommitIn p h path e n s)
    | .ack h path d ok => .next (admGo (admAckIn h path d ok s))
    | .withdraw h path => .next (admWithdrawIn p h path s)

/-! Timers. Where a stream of the running section ends, the section goes on (R338). -/

/-- `ADM_TIMEOUT` passes at a stream (R310, R313, R316): the verdict is TIMEOUT, the commit fails, the re-run is refused; a destination
forgets a request whose other path never came. -/
def execAdmitTimeout (h : Nat) (s : State) : Res :=
  match s.stream h with
  | none => .next s
  | some x =>
    if s.lt < x.deadline then .next s
    else if x.rerun.isSome then .next (admGo (rerunRefused h vTimeout true s))
    else match x.phase with
      | .asking => if x.ingress then .next (admGo (requestRefused h vTimeout 0xFF 0 0 0 0 0 true s)) else .next (freeStream h s)
      | .requested => .next (admGo (requestRefused h vTimeout 0xFF 0 0 0 0 0 true s))
      | .committing => .next (admGo (commitFailed h s))
      | _ => .next s

/-- A Tentative state ends after `RSV_HOLD` (R315). -/
def execRsvHoldExpiry (h : Nat) (s : State) : Res :=
  match s.stream h with
  | none => .next s
  | some x =>
    if s.lt < x.deadline then .next s
    else
      let tell (s : State) : State := (raise 0x0604 0 (evPay [(16, 2, h)]) s).bump ADM_EXPIRED_CNT
      if x.phase = .tentative then .next (admGo (tell (if x.ingress then reportStream x false false true (freeStream h s) else freeStream h s)))
      else if x.phase = .committed && !x.ingress && x.hops.any (·.tent) then
        .next (tell (s.putStream h (tally s { x with hops := x.hops.filter (fun g => !g.tent) })))
      else .next s

end Sys2Proof.Machine
end

