-- ==== Sys2Proof/Machine/FabRows.lean ====
section
/-! DEFINITION. The commands and messages of the fabric (R457 to R475): what each row does to neighbours, database, coordinator, gossip and
paths. -/

namespace Sys2Proof.Machine

/-! What the coordinator does when the picture changes (R464, R465, R467). -/

/-- Send every record of the database to a new successor (R467). -/
def sendWholeDb (old : Nat) (s : State) : State :=
  if s.fab.coord = ownUid && hasSucc s && s.fab.succ ≠ old then
    s.fab.admDb.foldl (fun s e => sendTo (addrOf s s.fab.succ) (.paths (copyMsg e.2 false)) s) s
  else s

/-- The coordinator's choice of a new record goes to the ingress device, which re-runs the path (R316). -/
def orderPath (h : Nat) (r : AdmRec) (i : Nat) (p : PathRec) (s : State) : State :=
  if r.ingress = ownAddr s then
    match s.stream h with
    | some x => if x.ingress && x.phase = .committed && x.rerun.isNone then startRerun none h i p s else s
    | none => s
  else sendTo r.ingress (.paths (.records h (some i) [p])) s

/-- The new pair placed on the old one: a path that stays keeps its index. -/
def placed (old new : List PathRec) : List PathRec :=
  match old, new with
  | [a, b], [x, y] => if x = b || y = a then [y, x] else if x = a || y = b then [x, y] else new
  | _, _ => new

/-- Repair one Committed stream: paths that are gone open the fault window, and the first path that is to change is ordered (R55, R464).
(DEDUCED, log entry 45) -/
def repair (h : Nat) (s : State) : State :=
  match kget s.fab.admDb h with
  | none => s
  | some r =>
    if !r.committed then s
    else
      let alive := r.paths.map (pathAlive s r.ingress)
      let a := r.upA && alive.headD false
      let b := r.upB && (alive[1]?).getD false
      let two := decide (r.paths.length = 2)
      if a && (b || !two) then s
      else
        let r' := { r with upA := a, upB := b, window := r.window || (two && (r.upA && !a || r.upB && !b)) }
        let s := admPut r' false s
        let new := placed r.paths (choosePaths s r.ingress r.contract)
        let up (i : Nat) : Bool := if i = 0 then a else b
        match (new.zipIdx).find? (fun e => !up e.2) with
        | some (p, i) => orderPath h r' i p s
        | none => s

/-- The coordinator reviews every stream, the successor, the addresses and the size mode. -/
def coordReview (s : State) : State :=
  if s.fab.coord = ownUid then
    let old := s.fab.succ
    let s := sendWholeDb old (judgeSize (keepSuccessor s))
    let s := if assignments s = s.fab.assigned then s else sendCoord s
    (s.fab.admDb.map (·.1)).foldl (fun s h => repair h s) s
  else s

/-- A device without a seat takes what the coordinator has assigned, the coordinator itself included (R460). -/
def takeAssigned (l : List (Nat × Nat)) (s : State) : State :=
  if s.flag FAB_CFG.SEAT_VALID then s
  else match l.find? (fun e => e.1 = ownUid) with
    | some (_, a) => if hasAddr s && ownAddr s = a then s else announceLinks (setAddr (some a) s)
    | none => s

/-- Does this device work with a port's control messages? -/
def fabIn (s : State) (p : Nat) : Bool := dfpOn s && s.fabricPort p && portUp s p

/-! Hellos (R457 to R462). -/

/-- A HELLO leaves on a port; the hardware sender keeps its body. -/
def sayHello (s : State) (p : Nat) : State :=
  let h := ownHello s p
  sendOn p 0 (.hello h) (s.modFab (fun f => { f with helloSaid := kput f.helloSaid p h }))

/-- The hardware sender repeats the last body of a port. -/
def repeatHello (s : State) (p : Nat) : State := match kget s.fab.helloSaid p with
  | some h => sendOn p 0 (.hello h) s
  | none => s

/-- `HELLO_SEND`: every 1 ms in S0 to S2; the seat acts first. While firmware does not run, and in S1 and S2, the last bodies are repeated
(R498, R560). -/
def execHelloSend (s : State) : Res :=
  if s.lt < s.fab.lastHello + 1000000 then .next s
  else
    let said (s : State) : State := s.modFab (fun f => { f with lastHello := s.lt })
    if dfpOn s then
      let s := said (takeSeat s)
      .next ((fabUp s).foldl sayHello s)
    else if hwSender s then .next ((fabUp s).foldl repeatHello (said s))
    else .next s

/-- `HELLO_RECEIVED`. In S1 and S2 a body like the last one of its sender renews the neighbour (R560); any other waits for the exit it causes. -/
def execHelloReceived (p : Port) (h : Hello) (s : State) : Res :=
  if fabIn s p.val then .next (coordReview (helloIn p.val h s))
  else if s.flag FAB_CFG.DFP_EN && (s.pwr.state = 1 || s.pwr.state = 2) && s.fabricPort p.val && portUp s p.val then
    match kget s.fab.nbrs p.val with
    | some n => if n.hello = h then .next (s.modFab (fun f => { f with nbrs := kput f.nbrs p.val { n with last := s.lt } })) else .next s
    | none => .next s
  else .next s

def execHelloMissExpiry (p : Port) (s : State) : Res :=
  if !dfpOn s then .next s else
  match kget s.fab.nbrs p.val with
  | some n =>
    if n.last + s.fld FAB_TIMERS.HELLO_MISS * 1000000 ≤ s.lt then .next (coordReview (nbrLost p.val 0 s)) else .next s
  | none => .next s

/-- Discard what a port has on the wire or suspended. -/
def dropSending (p : Nat) (s : State) : State :=
  let e := s.eport p
  let l := e.onWire ++ e.suspended.toList
  discardAll p false (l.map (·.cell)) (s.modEport p (fun e => { e with sending := none, leaving := [], suspended := none }))

/-- An Ethernet port loses its link: it stops being up and its copies are discarded (R649); a destination here is lost with it (R58). -/
def linkDown (p : Nat) (s : State) : State :=
  let t := flushPort p (dropSending p { s with links := kdel s.links p })
  if portUp s p then portDestsLost p t else t

/-- A fabric port's neighbour is lost with its link; while firmware does not run, the loss is acted on when it runs again, by the hellos that
are missing (R498). -/
def fabricDown (p : Nat) (s : State) : State :=
  if dfpOn s then coordReview (nbrLost p 1 (linkDown p s)) else linkDown p s

/-- `FABRIC_LINK_DOWN` (R459). (DEDUCED, log entry 54) -/
def execFabricLinkDown (p : Port) (s : State) : Res :=
  if s.fabricPort p.val && khas s.links p.val then .next (fabricDown p.val s) else .next s

/-! LINK_STATE (R456, R457). -/

def execLinkStateSend (s : State) : Res :=
  if !dfpOn s || s.lt < s.fab.lastLs + sec then .next s else .next (announceLinks s)

/-- A LINK_STATE that is newer than what the database holds enters it and goes on; an address that its sender has left loses its route
(R463), and one that this device holds too is a conflict with any device but the pair peer (R460, R461). -/
def linkStateIn (p : Nat) (l : LinkState) (s : State) : State :=
  let newer := match kget s.fab.db l.uid with
    | some o => decide (o.seq < l.seq)
    | none => true
  if l.uid = ownUid || !newer then s
  else
    let old := kget s.fab.db l.uid
    let s := s.modFab (fun f => { f with db := kput f.db l.uid l })
    let s := match old with
      | some o => if o.addrValid && !(l.addrValid && decide (l.addr = o.addr)) then routeGone o.addr s else s
      | none => s
    let s := fabRecompute s
    let s := flood (some p) (.linkState l) s
    let same := l.addrValid && hasAddr s && decide (l.addr = ownAddr s)
    let s := if l.peer ≠ ownUid then claim { uid := l.uid, addr := l.addr, addrValid := l.addrValid, seat := l.seat } s
             else if same then (handoverSeen s).getD s else s
    coordReview s

def execLinkStateReceived (p : Port) (l : LinkState) (s : State) : Res :=
  if fabIn s p.val then .next (linkStateIn p.val l s) else .next s

/-! Gossip (R472, R473). -/

/-- `GOSSIP_SEND`: every 100 ms; the hardware sender repeats the last body on each fabric port. -/
def execGossipSend (s : State) : Res :=
  if s.lt < s.fab.lastGossip + 100000000 then .next s
  else
    let g := ownGossip s
    if dfpOn s && hasAddr s then
      let s := s.modFab (fun f => { f with lastGossip := s.lt, gossipSaid := some g })
      .next (compareGossip (flood none (.gossip g) s))
    else if hwSender s then
      let s := s.modFab (fun f => { f with lastGossip := s.lt })
      .next (match s.fab.gossipSaid with
        | some g => (fabUp s).foldl (fun s p => sendOn p 0 (.gossip g) s) s
        | none => s)
    else .next s

/-- In S1 and S2 a GOSSIP like the last one of its sender, a neighbour, renews it (R560). -/
def gossipRenews (p : Nat) (g : Gossip) (s : State) : State :=
  match kget s.fab.nbrs p with
  | some n =>
    if s.flag FAB_CFG.DFP_EN && (s.pwr.state = 1 || s.pwr.state = 2) && s.fabricPort p && portUp s p && n.hello.addrValid && decide (n.hello.addr = g.addr) &&
        decide (kget s.fab.gossip g.addr = some g) then
      s.modFab (fun f => { f with nbrs := kput f.nbrs p { n with last := s.lt } })
    else s
  | none => s

def execGossipReceived (p : Port) (g : Gossip) (s : State) : Res :=
  if !fabIn s p.val then .next (gossipRenews p.val g s)
  else
    let s := flood (some p.val) (.gossip g) s
    let changed := (kget s.fab.gossip g.addr).any (fun o => o.root ≠ g.root || o.gen ≠ g.gen)
    .next (compareGossip (s.modFab (fun f => { f with gossip := kput f.gossip g.addr g,
                                                      digests := if changed then kdel f.digests g.addr else f.digests })))

/-! COORD (R460, R465 to R468). -/

def execCoordSend (s : State) : Res :=
  if !dfpOn s || s.fab.coord ≠ ownUid || s.lt < s.fab.sentCoord + 100000000 then .next s
  else .next (takeAssigned s.fab.assigned (judgeSize (sendCoord s)))

/-- Rank of a coordinator: a higher priority, then the lower identity. -/
def coordBeats (aPrio aUid bPrio bUid : Nat) : Bool := decide (bPrio < aPrio) || (aPrio = bPrio && decide (aUid < bUid))

/-- The coordinator that this device knows and still reaches. -/
def reachCoord (s : State) : Option (Nat × LinkState) := (reachable s).find? (fun e => e.1 = s.fab.coord && s.fab.coord ≠ 0)

/-- Step down in favour of another coordinator and hand it the records (R467). -/
def stepDown (m : CoordMsg) (s : State) : State :=
  let db := s.fab.admDb
  let s := s.modFab (fun f => { f with admDb := [], answers := [] })
  db.foldl (fun s e => sendTo m.coordAddr (.paths (.report e.2.ingress e.2.contract e.2.paths e.2.upA e.2.upB false)) s) s

/-- A COORD message arrives. -/
def coordIn (p : Nat) (m : CoordMsg) (s : State) : State :=
  let s := flood (some p) (.coord m) s
  let known := reachCoord s
  let stays := match known with
    | some (u, l) => decide (u ≠ m.coord) && coordBeats l.prio u m.prio m.coord
    | none => false
  if stays || m.coord = ownUid then s
  else
    let was := s.fab.coord
    let how := if was = m.coord || was = 0 then 0 else if known.isSome then 2 else if s.fab.succ = m.coord then 1 else 0
    let change := decide (was ≠ m.coord) || decide (s.fab.succ ≠ m.succ)
    let s := setCoord m.coord m.succ (if was = ownUid then stepDown m s else s)
    let s := s.modFab (fun f => { f with lastCoord := s.lt })
    let s := s.setFld FAB_STATUS.COORD_ADDR m.coordAddr
    let s := if change then fabRecompute (coordEvent how s) else s
    let s := takeAssigned m.assigned s
    if m.at_ ≠ 0 && s.scale 0 < m.at_ then s.modFab (fun f => { f with switch := some (m.at_, m.large) })
    else takeSize (sizeForced s m.large) (s.modFab (fun f => { f with large := m.large }))

def execCoordReceived (p : Port) (m : CoordMsg) (s : State) : Res :=
  if fabIn s p.val then .next (coordIn p.val m s) else .next s

/-- `COORD_TIMEOUT`: the successor finds the coordinator missing or hears no COORD for 300 ms; the device that ranks first does so while
there is neither (R465, R467). -/
def execCoordTimeout (s : State) : Res :=
  match s.fab.firstUp with
  | none => .next s
  | some t =>
    if !dfpOn s || s.fab.coord = ownUid || !hasAddr s || s.fld FAB_CFG.COORD_PRIO = 0 then .next s
    else
      let silent := decide (max t s.fab.lastCoord + 300000000 ≤ s.lt)
      let lost := decide (s.fab.coord ≠ 0) && (reachCoord s).isNone
      let succHere := (reachable s).any (fun e => e.1 = s.fab.succ)
      if s.fab.succ = ownUid && s.fab.coord ≠ 0 then
        if silent || lost then .next (coordReview (sendWholeDb 0 (becomeCoord 1 s))) else .next s
      else if ((highest (candidates s)).any (fun e => e.1 = ownUid)) && ((s.fab.coord = 0 && silent) || (lost && (!succHere || silent))) then
        let had := decide (s.fab.coord ≠ 0)
        let s := becomeCoord 0 s
        let s := if had then (reachable s).foldl (fun s e =>
            if e.1 = ownUid then
              s.streams.foldl (fun s x => if x.2.ingress && x.2.phase = .committed then reportStream x.2 x.2.upA x.2.upB false s else s) s
            else if e.2.addrValid then sendTo e.2.addr (.paths (.collect (ownAddr s))) s else s) s
          else s
        .next (coordReview (takeAssigned s.fab.assigned s))
      else .next s

/-- `SIZE_MODE_SWITCH` (R468). -/
def execSizeModeSwitch (s : State) : Res :=
  match s.fab.switch with
  | some (t, large) =>
    if s.scale 0 < t then .next s
    else
      let s := s.modFab (fun f => { f with switch := none, large := large, smallSince := if large then none else f.smallSince })
      .next (takeSize (sizeForced s large) s)
  | none => .next s

/-! PATHS (R457, R466, R467, R590). -/

/-- Answers that waited for the successor's acknowledgement go out (R466). -/
def releaseAnswers (h : Nat) (s : State) : State :=
  let out := s.fab.answers.filter (fun a => a.1 = h)
  let s := s.modFab (fun f => { f with answers := f.answers.filter (fun a => a.1 ≠ h) })
  out.foldl (fun s a =>
    if a.2.1 = ownAddr s then
      match a.2.2 with
      | .records h none paths => admGo (ingressHop h paths s)
      | _ => s
    else sendTo a.2.1 (.paths a.2.2) s) s

/-- A record comes to the coordinator: a clash of handles is told to the later one's ingress device (R467). -/
def reportIn (ingress : Nat) (contract : Bytes) (paths : List PathRec) (upA upB gone : Bool) (s : State) : State :=
  let h := contractHandle contract
  match kget s.fab.admDb h with
  | some o =>
    if o.contract ≠ contract then (if gone then s else sendTo ingress (.paths (.clash h)) s)
    else
      let s := admReport ingress contract paths upA upB gone s
      if gone then s else repair h s
  | none => if gone then s else admReport ingress contract paths upA upB false s

/-- A stream whose handle clashes is withdrawn here (R467). -/
def clashIn (h : Nat) (s : State) : State :=
  match s.stream h with
  | some x =>
    if x.ingress then
      let s := raise 0x0A06 0 (evPay [(16, 2, h)]) s
      (s.putStream h { x with phase := .withdrawing, cmd := none, deadline := s.lt + x.stated }).modTab (homeQuad x.inPort) (fun t => sidDropHandle t h)
    else s
  | none => s

def pathsIn (m : PathsMsg) (s : State) : State :=
  match m with
  | .request ingress contract => if s.fab.coord = ownUid then (coordAnswer ingress contract s).1 else s
  | .records h none paths =>
    if (s.stream h).any (fun x => x.ingress && x.phase = .asking) then admGo (ingressHop h paths s) else s
  | .records h (some i) paths =>
    match s.stream h, paths with
    | some x, r :: _ => if x.ingress && x.phase = .committed && x.rerun.isNone then startRerun none h i r s else s
    | _, _ => s
  | .report ingress contract paths a b gone => if s.fab.coord = ownUid then reportIn ingress contract paths a b gone s else s
  | .copy ingress contract paths a b w gone =>
    let h := contractHandle contract
    let r : AdmRec := { ingress := ingress, contract := contract, paths := paths, upA := a, upB := b, window := w,
                        committed := a || b || (kget s.fab.admDb h).any (·.committed) }
    let s := s.modFab (fun f => { f with admDb := if gone then kdel f.admDb h else kput f.admDb h r })
    sendTo (s.fld FAB_STATUS.COORD_ADDR) (.paths (.copyAck h)) s
  | .copyAck h => releaseAnswers h s
  | .states h a b w => statesSaid h a b w s
  | .collect coord => s.streams.foldl (fun s x =>
      if x.2.ingress && x.2.phase = .committed then
        sendTo coord (.paths (.report (ownAddr s) x.2.contract x.2.paths x.2.upA x.2.upB false)) s
      else s) s
  | .clash h => clashIn h s

/-- `PATHS_MESSAGE`: a message for another device is relayed. -/
def execPathsMessage (p : Port) (dst : Nat) (m : PathsMsg) (s : State) : Res :=
  if !fabIn s p.val then .next s
  else if !hasAddr s || dst ≠ ownAddr s then .next (relay dst (.paths m) s)
  else .next (pathsIn m s)

/-- `WITHDRAW_RECEIVED`: a neighbour starts a warm reset and is no transit any more (R65, R463). -/
def execWithdrawReceived (p : Port) (sender drainLimit : Nat) (s : State) : Res :=
  if !fabIn s p.val || 255 < sender || 65535 < drainLimit then .next s
  else match kget s.fab.nbrs p.val with
    | some n =>
      let mark (l : LinkState) : LinkState := { l with withdrawing := true }
      let s := s.modFab (fun f => { f with nbrs := kput f.nbrs p.val { n with hello := { n.hello with withdrawing := true } },
                                           db := kmapAt f.db n.hello.uid mark })
      .next (coordReview (fabRecompute s))
    | none => .next s

/-! DIGEST (R474). -/

/-- A remote command that waits gets its answer. -/
def farAnswer (op device st : Nat) (reply : Bytes) (s : State) : State :=
  match s.fab.far.find? (fun f => f.opcode = op && f.device = device) with
  | some f => complete f.cmd op st reply (s.modFab (fun x => { x with far := removeFirst (fun g => g.opcode = op && g.device = device) x.far }))
  | none => s

def execDigestMessage (p : Port) (src dst : Nat) (m : DigestMsg) (s : State) : Res :=
  if !fabIn s p.val then .next s
  else if !hasAddr s || dst ≠ ownAddr s then .next (relay dst (.digest m) s)
  else match m with
    | .query asker => .next (sendTo asker (.digest (.reply (digestReply s))) s)
    | .reply b =>
      let s := s.modFab (fun f => { f with digests := kput f.digests src (slice b 56 768) })
      .next (compareGossip (farAnswer 0x0A01 src stOk b s))

/-- A command waits up to 20 ms for another device (R474, R475). -/
def farWait (c : CmdCtx) (op device : Nat) (s : State) : State :=
  s.modFab (fun f => { f with far := f.far ++ [{ cmd := c, opcode := op, device := device, deadline := s.lt + 20000000 }] })

/-- `FAB_DIGEST_QUERY` (R474). -/
def execFabDigestQuery (c : CmdCtx) (s : State) : Res :=
  .next (command c 0x0A01 s (fun s =>
    if !plenIs c 8 || 1 < byteAt c.par 1 || !parZero c 2 8 then complete c 0x0A01 stParam [] s
    else
      let d := byteAt c.par 0
      if byteAt c.par 1 = 0 || (hasAddr s && d = ownAddr s) then complete c 0x0A01 stOk (digestReply s) s
      else sendTo d (.digest (.query (ownAddr s))) (farWait c 0x0A01 d s)))

/-- `FAB_REMOTE_COMMAND_TIMEOUT`: the oldest remote command that has waited 20 ms completes with `STATE`. -/
def execFabRemoteCommandTimeout (s : State) : Res :=
  match s.fab.far.find? (fun f => decide (f.deadline ≤ s.lt)) with
  | some f =>
    .next (complete f.cmd f.opcode stState [] (s.modFab (fun x => { x with far := removeFirst (fun g => g.deadline ≤ s.lt) x.far })))
  | none => .next s

end Sys2Proof.Machine
end

