-- ==== Sys2Proof/Machine/Recovery.lean ====
section
/-! DEFINITION. Sequence recovery at a destination device (R351 to R355), epochs (R356, R357), and the snapshot of a stream. -/

namespace Sys2Proof.Machine

/-- The distance ahead (R349). -/
def ahead (k n : Nat) : Nat := (k + 16384 - n % 16384) % 16384

/-- A copy with no buffer is a void (R347). (DEDUCED, log entry 23) -/
def isVoid (c : HeldCopy) : Bool := decide (c.buf = 0xFFFF)

/-- Change the recovery state of a stream. -/
def State.modRecov (s : State) (h : Nat) (f : Recov → Recov) : State := s.modStream h (fun x => { x with recov := x.recov.map f })

/-- Add to a counter of every local destination port. -/
def perDest (x : Stream) (m : Keyed Nat) (n : Nat) : Keyed Nat := x.dests.foldl (fun m p => kmod m p 0 (· + n)) m

/-- Eliminate a copy (R351): counted at every destination port, and released (R148). A void counts in no stream counter (R347). -/
def eliminate (h : Nat) (c : HeldCopy) (s : State) : State :=
  if isVoid c then s
  else
    let s := (s.modStream h (fun x => { x with cc := { x.cc with eliminated := perDest x x.cc.eliminated 1 } })).bump PATH_ELIM_TOTAL
    match s.buf c.buf with
    | some b => (recOwners s b).foldl (fun s p => release c.buf p false s) s
    | none => s

/-- Deliver a copy: it is appended to the queue of each local destination port; a void counts as delivered and carries nothing. -/
def deliver (c : HeldCopy) (s : State) : State :=
  if isVoid c then s
  else match s.buf c.buf with
    | some b => (recOwners s b).foldl (fun s p => enqueue p b.tc { buf := c.buf, ofStream := true } s) s
    | none => s

/-- Numbers from `next` on are passed in order: a held one is delivered, any other is missing. -/
def passNumbers (h : Nat) : Nat → Nat → State → State
  | 0, _, s => s
  | k + 1, n, s =>
    match (s.stream h).bind (·.recov) with
    | none => s
    | some r =>
      let s := match r.held.find? (fun c => c.number = n % 16384) with
        | some c => deliver c (s.modRecov h (fun r => { r with held := r.held.filter (fun d => d.number ≠ n % 16384) }))
        | none => s.modStream h (fun x => { x with cc := { x.cc with gap := perDest x x.cc.gap 1 } })
      passNumbers h k (n + 1) (s.modRecov h (fun r => { r with next := (n + 1) % 16384 }))

/-- `gap_below` (R352, R354): every hole below a number is declared, what is held there is delivered. -/
def gapBelow (h n : Nat) (window : Bool) (s : State) : State :=
  match (s.stream h).bind (·.recov) with
  | none => s
  | some r =>
    let d := ahead n r.next
    let missing := (List.range d).filter (fun i => !r.held.any (fun c => c.number = (r.next + i) % 16384))
    let s := passNumbers h d r.next s
    let s := if window then s.bumpBy PATH_WINDOW_GAP missing.length else s
    match missing with
    | i :: _ =>
      if s.flag PATH_CTRL.GAP_EV then
        raise 0x0701 0 (evPay [(16, 2, h), (18, 1, r.epoch), (20, 2, (r.next + i) % 16384), (22, 2, missing.length)]) s
      else s
    | [] => s

/-- Deliver next, next + 1, ... while held. -/
def releaseInOrder (h : Nat) : Nat → State → State
  | 0, s => s
  | k + 1, s =>
    match (s.stream h).bind (·.recov) with
    | none => s
    | some r =>
      if r.held.any (fun c => c.number = r.next) then releaseInOrder h k (passNumbers h 1 r.next s) else s

/-- One copy passes recovery (R352). -/
def recoverCopy (h : Nat) (c : HeldCopy) (s : State) : State :=
  match (s.stream h).bind (·.recov) with
  | none => eliminate h c s
  | some r0 =>
    let r := if r0.synced then r0 else { r0 with synced := true, epoch := c.epoch, next := c.number }
    let s := s.modRecov h (fun _ => r)
    let d := (c.epoch + 4 - r.epoch % 4) % 4
    if d = 3 || (d ≠ 0 && r.closing && c.epoch ≠ r.newEpoch) then eliminate h c s
    else if d ≠ 0 then
      let r := if r.closing then r else { r with closing := true, newEpoch := c.epoch, closeAt := s.lt + r.skew }
      s.modRecov h (fun _ => { r with pended := r.pended ++ [c] })
    else
      let a := ahead c.number r.next
      if 0x2000 ≤ a || r.held.any (fun d => d.number = c.number) then eliminate h c s
      else
        let s := if 256 ≤ a then gapBelow h ((c.number + 16384 - 255) % 16384) true s else s
        let s := s.modRecov h (fun r => { r with held := r.held ++ [c] })
        releaseInOrder h 16384 s

/-- The held copy that arrived first. -/
def oldestHeld (l : List HeldCopy) : Option HeldCopy :=
  l.foldl (fun b c => match b with
    | none => some c
    | some o => if c.at_ < o.at_ then some c else b) none

/-- Holds that have run out declare the holes below them (R352). -/
def expireHolds (h : Nat) : Nat → State → State
  | 0, s => s
  | k + 1, s =>
    match (s.stream h).bind (·.recov) with
    | none => s
    | some r =>
      match oldestHeld r.held with
      | some c => if c.at_ + r.skew ≤ s.lt then expireHolds h k (releaseInOrder h 16384 (gapBelow h c.number false s)) else s
      | none => s

/-- The tick of one stream (R352). -/
def skewTick (h : Nat) (s : State) : State :=
  match (s.stream h).bind (·.recov) with
  | none => s
  | some r =>
    let s := expireHolds h (r.held.length + 1) s
    match (s.stream h).bind (·.recov) with
    | none => s
    | some r =>
      if r.closing && decide (r.closeAt ≤ s.lt) then
        let top := r.held.foldl (fun (b : Option Nat) c => some (match b with
          | none => ahead c.number r.next
          | some m => max m (ahead c.number r.next))) none
        let s := match top with
          | some a => gapBelow h ((r.next + a + 1) % 16384) false s
          | none => s
        let s := s.modRecov h (fun r => { r with epoch := r.newEpoch, next := 0, closing := false, pended := [] })
        let s := if s.flag PATH_CTRL.EPOCH_EV then
            raise 0x0703 0 (evPay [(16, 2, h), (18, 1, r.epoch), (19, 1, r.newEpoch)]) s else s
        r.pended.foldl (fun s c => recoverCopy h c s) s
      else s

/-- A copy that waits for recovery: its stream, and the copy (R351). -/
def waitingCopy (s : State) (w : Waiting) : Option (Nat × HeldCopy) :=
  match w.cell.bind (·.void) with
  | some (h, e, n) => some (h, { epoch := e, number := n, buf := 0xFFFF, at_ := s.lt })
  | none => match s.buf w.buf with
    | some b => b.seq.map (fun q => (b.handle, { epoch := q.1, number := q.2, buf := w.buf, at_ := s.lt }))
    | none => none

/-- Take the copy of the next quadrant in rotation (R30, R351). -/
def takeRecovery (s : State) : Option (Waiting × State) :=
  match ([1, 2, 3, 4].map (fun i => (s.mem.recLast + i) % 4)).find? (fun q => s.mem.recWait.any (fun w => w.quad = q)) with
  | none => none
  | some q =>
    (s.mem.recWait.find? (fun w => w.quad = q)).map (fun w =>
      (w, { s with mem := { s.mem with recWait := removeFirst (fun v => v.quad = q) s.mem.recWait, recLast := q } }))

/-- One copy passes recovery; a void counts in `PATH_VOID_RCVD` (R347). -/
def recoverNext (s : State) : State :=
  match takeRecovery s with
  | none => s
  | some (w, s) =>
    match waitingCopy s w with
    | some (h, c) => recoverCopy h c (if isVoid c then s.bump PATH_VOID_RCVD else s)
    | none => s

/-- `RECOVERY_COPY`. -/
def execRecoveryCopy (s : State) : Res := .next (recoverNext s)

/-- All copies that have arrived pass before a tick tests for expiry (R353). -/
def recoverAll : Nat → State → State
  | 0, s => s
  | k + 1, s => if s.mem.recWait.isEmpty then s else recoverAll k (recoverNext s)

/-- `SKEW_TICK`: every 100 ns. -/
def execSkewTick (s : State) : Res :=
  if s.lt % 100 ≠ 0 then .next s
  else
    let s := recoverAll s.mem.recWait.length s
    .next ((s.streams.filter (fun e => e.2.recov.isSome)).foldl (fun s e => skewTick e.1 s) s)

/-! Epochs (R356, R357). -/

/-- The numbers that are still held when a stream's numbering ends: those not accepted are refused (R45, R73). -/
def closeNumbers (x : Stream) : Stream :=
  { x with pend := [], cc := { x.cc with refused := x.cc.refused + (x.pend.filter (fun n => !n.accepted)).length } }

/-- Take a new epoch for every stream that enters here; its record is written before a numbered frame gets a buffer. -/
def newEpochs (f : Nat → Stream → Nat) (s : State) : State :=
  { s with streams := s.streams.map (fun e =>
    if e.2.ingress && e.2.committed then (e.1, { closeNumbers e.2 with epoch := f e.1 e.2 % 4, next := 0, written := false }) else e) }

/-- `EV_PATH_EPOCH` at the ingress device. -/
def epochEvents (old : List (Nat × Stream)) (s : State) : State :=
  if s.flag PATH_CTRL.EPOCH_EV then
    old.foldl (fun s e => match s.stream e.1 with
      | some x => if e.2.ingress && e.2.committed then
          raise 0x0703 0 (evPay [(16, 2, e.1), (18, 1, e.2.epoch), (19, 1, x.epoch), (20, 1, 1)]) s else s
      | none => s) s
  else s

/-- The flash program of the epoch records ends: the streams are numbered again (R357). (DEDUCED, log entry 36) -/
def writeEpochs (s : State) : State :=
  let new := s.streams.filter (fun e => e.2.ingress && !e.2.written)
  { s with streams := s.streams.map (fun e => if e.2.ingress && !e.2.written then (e.1, { e.2 with written := true }) else e),
           flash := { s.flash with epochs := new.foldl (fun m e => kput m e.1 e.2.epoch) s.flash.epochs } }

def execEpochRecordWritten (s : State) : Res := .next (writeEpochs s)

/-! The snapshot (PATH_SEL). -/

/-- A write to `PATH_SEL` snapshots a stream into `PATH_SNAP0` to `PATH_SNAP2`. -/
def pathSnapshot (v : Nat) (s : State) : State :=
  let h := v % 65536
  let s := s.setFld PATH_SEL.HANDLE h
  let s := ((s.setReg PATH_SNAP0 0).setReg PATH_SNAP1 0).setReg PATH_SNAP2 0
  match s.stream h with
  | none => s
  | some x =>
    let s := (s.setFld PATH_SNAP0.VALID 1).setFld PATH_SNAP0.INGRESS (b2n x.ingress)
    if x.ingress then (s.setFld PATH_SNAP0.EPOCH (x.epoch % 4)).setFld PATH_SNAP0.NEXT x.next
    else match x.recov with
      | none => s
      | some r =>
        let s := ((s.setFld PATH_SNAP0.SYNCED (b2n r.synced)).setFld PATH_SNAP0.CLOSING (b2n r.closing)).setFld PATH_SNAP0.EPOCH (r.epoch % 4)
        let s := ((s.setFld PATH_SNAP0.NEW_EPOCH (if r.closing then r.newEpoch % 4 else 0)).setFld PATH_SNAP0.NEXT r.next).setReg PATH_SNAP1 r.skew
        (s.setFld PATH_SNAP2.PENDED r.pended.length).setFld PATH_SNAP2.HELD r.held.length

def execPathSnapshot (src : Src) (value : Nat) (s : State) : Res := .next (busRow src (pathSnapshot value) s)

end Sys2Proof.Machine
end

