-- ==== Sys2Proof/Machine/TrnLock.lean ====
section
/-! DEFINITION. Transom: the tags and errors of windows (R482), locked sequences (R484, R485), and what resets do to both (R488). -/

namespace Sys2Proof.Machine

/-- Change the Transom state. -/
def State.modTrn (s : State) (f : TrnSt → TrnSt) : State := { s with trn := f s.trn }

/-! Errors (R482). -/

/-- An access has ended with an error. -/
def trnError (h : Nat) (s : State) : State := s.bump (TRN_ERR h)

/-- A posted write has failed: the first failure is captured and reported. -/
def postedFail (h n tag cause : Nat) (s : State) : State :=
  let s := trnError h s
  if s.flag (TRN_WIN_STATUS.ERR h n) then s
  else
    let s := (s.setFld (TRN_WIN_STATUS.ERR h n) 1).setFld (TRN_WIN_STATUS.CAUSE h n) cause
    raise 0x0B01 2 (evPay [(16, 1, h), (17, 1, n), (18, 2, tag), (20, 1, cause)]) (s.setFld (TRN_WIN_ERR_TAG.TAG h n) tag)

/-- A window's error is cleared. -/
def windowClear (h n : Nat) (s : State) : State :=
  ((s.setFld (TRN_WIN_STATUS.ERR h n) 0).setFld (TRN_WIN_STATUS.CAUSE h n) 0).setFld (TRN_WIN_ERR_TAG.TAG h n) 0

/-- TRANSOM_CLEAR_ERR (R482, R489): firmware has no windows. -/
def execTransomClearErr (c : CmdCtx) (s : State) : Res :=
  .next (command c 0x0B01 s fun s =>
    let n := byteAt c.par 0
    if !plenIs c 8 || 15 < n || !parZero c 1 8 then complete c 0x0B01 stParam [] s
    else match c.who with
      | .host h _ =>
        let s := if s.flag (TRN_WIN_STATUS.ERR h.val n) then handleIf 0x0B01 (windowClear h.val n s) else s
        complete c 0x0B01 stOk [] s
      | .firmware => complete c 0x0B01 stOk [] s)

/-! Locks on the own buses. -/

/-- The bus that a window reaches: an SPI master, or the parallel bus. -/
def busOf (space target : Nat) : Nat := if space = 2 then 4 else target % 4

/-- Is a bus locked by a sequence other than this one? -/
def busLocked (s : State) (bus : Nat) (who : Option (Nat × Nat)) : Bool :=
  match kget s.trn.locks bus with
  | some l => decide (who ≠ some (l.dev, l.host))
  | none => false

/-- A sequence of an own host. -/
def seqOf (s : State) (h : Nat) : Option LockSeq := kget s.trn.seqs h

/-- The bus that a sequence waits for. -/
def seqWants (q : LockSeq) : Option (Nat × Nat) :=
  if q.backoff.isSome then none else q.all.find? (fun b => !q.held.contains b)

/-- Does a sequence of an own host hold all its locks? -/
def seqHolds (s : State) (h : Nat) : Bool := (seqOf s h).any (fun q => q.all.all (fun b => q.held.contains b))

/-- Show `STATE` of a sequence. -/
def showSeq (h st : Nat) (s : State) : State := s.setFld (TRN_LOCK_STATUS.STATE h) st

/-- An own sequence takes a lock: it is granted once every lock is held. (DEDUCED, log entry 63) -/
def seqTake (h : Nat) (b : Nat × Nat) (s : State) : State :=
  match seqOf s h with
  | none => s
  | some q =>
    let q := { q with held := q.held.filter (fun x => x ≠ b) ++ [b] }
    let s := s.modTrn (fun t => { t with seqs := kput t.seqs h q })
    if q.all.all (fun x => q.held.contains x) then showSeq h 2 s else s

/-- A bus here is granted to a sequence; one of another device is told. -/
def grantBus (bus dev h : Nat) (s : State) : State :=
  let s := s.modTrn (fun t => { t with locks := kput t.locks bus { dev := dev, host := h, at_ := s.lt } })
  if dev = ownAddr s then seqTake h (dev, bus) s else sendTo dev (.transom (.granted (ownAddr s) h bus)) s

/-- A bus here is released: the first that waits for it is granted. -/
def freeBus (bus : Nat) (s : State) : State :=
  let s := s.modTrn (fun t => { t with locks := kdel t.locks bus })
  match kgetD s.trn.waits bus [] with
  | (d, h) :: r => grantBus bus d h (s.modTrn (fun t => { t with waits := kput t.waits bus r }))
  | [] => s

/-- A sequence gives up a bus, or its place in the queue for it. -/
def dropLock (dev h : Nat) (b : Nat × Nat) (s : State) : State :=
  if b.1 = ownAddr s then
    let s := s.modTrn (fun t => { t with waits := kmod t.waits b.2 [] (fun l => l.filter (fun x => x ≠ (dev, h))) })
    match kget s.trn.locks b.2 with
    | some l => if l.dev = dev && l.host = h then freeBus b.2 s else s
    | none => s
  else sendTo b.1 (.transom (.unlock dev h b.2)) s

/-- An own sequence yields (R485): it releases every lock and starts again after a random back-off of at most 20 µs. (DESIGN CHOICE, log entry 47) -/
def seqYield (h : Nat) (s : State) : State :=
  match seqOf s h with
  | none => s
  | some q =>
    let due := s.lt + s.freeVal % 20001
    let s := s.drew.modTrn (fun t => { t with seqs := kput t.seqs h { q with held := [], asked := none, backoff := some due } })
    q.held.foldl (fun s b => dropLock (ownAddr s) h b s) s

/-- A lock request of a sequence (dev, h) reaches a bus here: it is granted, waits, is answered RETRY, or the holder yields (R485).
(DEDUCED, log entry 63) -/
def lockAt (bus dev h : Nat) (s : State) : State :=
  match kget s.trn.locks bus with
  | none => grantBus bus dev h s
  | some l =>
    if l.dev = dev && l.host = h then grantBus bus dev h s
    else
      let own := ownAddr s
      let crossed := l.dev = own && decide (dev ≠ own) && ((seqOf s l.host).bind seqWants).any (fun b => b.1 = dev)
      if crossed && dev < own then sendTo dev (.transom (.retry own h bus)) s
      else if crossed then
        let ws := kgetD s.trn.waits bus []
        seqYield l.host (s.modTrn (fun t => { t with waits := kput t.waits bus ((dev, h) :: ws.filter (fun x => x ≠ (dev, h))) }))
      else
        let ws := kgetD s.trn.waits bus []
        if ws.contains (dev, h) then s else s.modTrn (fun t => { t with waits := kput t.waits bus (ws ++ [(dev, h)]) })

/-- An own sequence asks, once, for the next bus that it lacks; a bus here that is granted leads to the next. -/
def seqAsk (h : Nat) : Nat → State → State
  | 0, s => s
  | n + 1, s =>
    match seqOf s h with
    | none => s
    | some q =>
      match seqWants q with
      | none => s
      | some b =>
        if q.asked = some b then s
        else
          let s := s.modTrn (fun t => { t with seqs := kput t.seqs h { q with asked := some b } })
          if b.1 = ownAddr s then seqAsk h n (lockAt b.2 b.1 h s) else sendTo b.1 (.transom (.lock (ownAddr s) h b.2)) s

/-- An own sequence that was granted a bus by another event goes on asking, unless it is broken. -/
def seqGo (s : State) : State := [0, 1].foldl (fun s h => if s.fld (TRN_LOCK_STATUS.STATE h) = 3 then s else seqAsk h 3 s) s

/-! Starting and ending a sequence (R484). -/

/-- The buses of two windows in locking order: own windows first, then by device address. -/
def lockOrder (s : State) (h mask : Nat) : List (Nat × Nat) :=
  let l := (maskList mask 16).map (fun n =>
    (s.fld (TRN_WIN_CFG.DEVICE h n), busOf (s.fld (TRN_WIN_CFG.SPACE h n)) (s.fld (TRN_WIN_CFG.TARGET h n))))
  let key (b : Nat × Nat) : Nat := if hasAddr s && b.1 = ownAddr s then 0 else b.1 + 1
  match l with
  | [a, b] => if a = b then [a] else if key b < key a then [b, a] else [a, b]
  | l => l

/-- A write of `LOCK`. -/
def lockStart (h mask : Nat) (s : State) : State :=
  let ns := maskList mask 16
  let ok := (ns.length = 1 || ns.length = 2) &&
    ns.all (fun n => decide (s.fld (TRN_WIN_CFG.SPACE h n) = 1) || decide (s.fld (TRN_WIN_CFG.SPACE h n) = 2))
  if !ok || decide (s.fld (TRN_LOCK_STATUS.STATE h) ≠ 0) then showSeq h 4 s
  else
    let s := showSeq h 1 (s.setFld (TRN_LOCK_STATUS.WINMASK h) mask)
    seqAsk h 3 (s.modTrn (fun t => { t with seqs := kput t.seqs h { all := lockOrder s h mask } }))

/-- The locks of an own sequence are released, and what it waits for is given up. -/
def seqRelease (h : Nat) (s : State) : State :=
  match seqOf s h with
  | none => s
  | some q =>
    let want := (seqWants q).toList
    let s := s.modTrn (fun t => { t with seqs := kdel t.seqs h })
    (q.held ++ want).foldl (fun s b => dropLock (ownAddr s) h b s) s

/-- A sequence ends: its locks are released, and `STATE` is idle. -/
def lockOver (h : Nat) (s : State) : State :=
  seqGo (showSeq h 0 ((seqRelease h s).setFld (TRN_LOCK_STATUS.WINMASK h) 0))

/-- Has a sequence posted writes that are not performed yet, as far as this device has been told? -/
def writesOpen (s : State) (h : Nat) : Bool := s.trn.outs.any (fun o => decide (o.req.host = h) && o.req.write && o.req.locked)

/-- A write of `UNLOCK`: the sequence ends, broken or not; a granted one after its earlier writes have been performed. (DEDUCED, log entry 145) -/
def lockEnd (h : Nat) (s : State) : State :=
  if s.fld (TRN_LOCK_STATUS.STATE h) = 2 && writesOpen s h then
    s.modTrn (fun t => { t with seqs := kmapAt t.seqs h (fun q => { q with closing := true }) })
  else lockOver h s

/-- The last write of a sequence that is to end has been answered. -/
def lockClose (h : Nat) (s : State) : State :=
  if (seqOf s h).any (·.closing) && !writesOpen s h then lockOver h s else s

/-- A write to `TRN_LOCK_CTRL`: `UNLOCK` acts before `LOCK` where both are written. (DEDUCED, log entry 63) -/
def lockCtrlWrite (h v : Nat) (s : State) : State :=
  let s := if bit v 17 then lockEnd h s else s
  if bit v 16 then lockStart h (v % 65536) s else s

/-- TRANSOM_LOCK and TRANSOM_UNLOCK: the two writes. -/
def execTransomLock (src : Src) (h : HostId) (mask : Nat) (s : State) : Res :=
  .next (busRow src (lockStart h.val (mask % 65536)) s)
def execTransomUnlock (src : Src) (h : HostId) (s : State) : Res :=
  .next (busRow src (lockEnd h.val) s)

/-! Resets (R488, and the FLR of R484). -/

/-- An FLR or a link-down of a host: its sequence is released, its requests are forgotten. -/
def trnDrop (h : Nat) (s : State) : State :=
  let s := seqGo (seqRelease h s)
  s.modTrn (fun t => { t with outs := t.outs.filter (fun o => o.req.host ≠ h) })

/-- A warm reset, or S3 and deeper: locks and requests are gone; reads end with Completer Abort. The message tags go on, so that no device
takes a new request for a repeat. (DEDUCED, log entry 145) -/
def trnClear (s : State) : State :=
  let s := seqRelease 0 (seqRelease 1 s)
  let reads := s.trn.outs.filter (fun o => !o.req.write)
  let s := reads.foldl (fun s o => s.emit (.barRead (if o.req.host = 0 then 0 else 1) 2 [])) s
  { s with trn := { tags := s.trn.tags } }

end Sys2Proof.Machine
end

