-- ==== Sys2Proof/Machine/Retain.lean ====
section
/-! DEFINITION. What resets and device states keep and lose (R10, R581, R582 and the tables of each chapter); fencing and F3 (R361, R517). -/

namespace Sys2Proof.Machine

/-! Registers. -/

/-- Lose classes of register fields and counters. -/
def loseRegs (l : Lost) (s : State) : State := { s with regs := regsRetain l s.regs, ctrs := ctrsRetain l s.ctrs }

/-- Lose classes of the fields of the words in an address range. -/
def loseRange (l : Lost) (lo hi : Nat) (s : State) : State :=
  { s with regs := s.regs.filterMap (fun e =>
      if lo ≤ e.1 && e.1 < hi then
        let w := retainWord l e.1 e.2.toNat
        if w % 2 ^ 32 = regReset e.1 % 2 ^ 32 then none else some (e.1, word w)
      else some e) }

/-! Entries as bytes (R105, R519). -/

/-- `KIND` of an entry. -/
def kindCode : EntryKind → Nat
  | .command => 1
  | .tx => 2
  | .event => 3

/-- Bytes 0 to 27 of an entry. -/
def entryHead (e : Entry) : Bytes :=
  toLe 2 e.code ++ toLe 2 e.tag ++ [byte (kindCode e.kind), byte e.cls] ++ toLe 2 e.status ++ toLe 4 e.ns ++ toLe 4 e.secLo ++ slice e.payload 0 12

/-- A history entry (R519). -/
def histBytes (x : HistEntry) : Bytes :=
  entryHead x.entry ++ [byte (b2n x.routedHA + 2 * b2n x.routedHB + 4 * b2n x.lost)] ++ toLe 2 x.number ++ [1]

/-! Outputs (R360, R361, R649). -/

/-- Every external port: what its queues and its transmitter hold is discarded, since its outputs are fenced. -/
def fenceFlush (s : State) : State :=
  ((List.range 72) ++ [75]).foldl (fun s p =>
    let s := if 40 ≤ p && p ≤ 71 then loadedFlush p s else s
    flushPort p (dropSending p s)) s

/-- A TIME_OUT pin goes from one level to another (R361). -/
def showOut (n : Nat) (was now : Option Bool) (s : State) : State := if was = now then s else s.emit (.pulse n now)

/-- The level of the own fence line (R360): low while this unit or its peer pulls it; the TIME_OUT pins follow it. -/
def setLine (pull forced : Bool) (s : State) : State :=
  let t := { s with pair := { s.pair with pull := pull, forced := forced } }
  [0, 1, 2, 3].foldl (fun u n => showOut n (timeOutLevel s n (s.outPin n).active) (timeOutLevel t n (s.outPin n).active) u)
    (t.setFld PAIR_STATUS.SELF_FENCED (b2n (pull || forced)))

/-- Pull the own line: the outputs are fenced (R362). -/
def pullLine (s : State) : State := fenceFlush (setLine true s.pair.forced s)

/-- F3 (R517): forwarding ends, the outputs are fenced, `FAULT_N` falls, and where the triad has a majority it writes a
crash record and goes on serving commands (R580, R589). An Active unit of a cold-frame pair is Fenced (R365). (DEDUCED, log entry 49) -/
def f3Stop (majority : Bool) (s : State) : State :=
  let s := s.setFld SUP_STATUS.STATE 6
  let s := if s.fld PAIR_STATUS.ROLE = 1 then s.setFld PAIR_STATUS.ROLE 5 else s
  let s := if majority then
      let f := s.flt
      { s with flt := { f with crash := ((f.first.elim (zeros 32) histBytes, f.hist.map histBytes) :: f.crash).take 16,
                               crashCount := f.crashCount + 1 } }
    else s
  pullLine (if majority then s else s.setFld GLB_STATUS.SUP_RUN 0)

/-- The level of `FAULT_N` (R517, R579, R626): low from an F3 fault on, and while the device is held in power-on reset. -/
def State.faultN (s : State) : Bool := !(s.flt.f3 || decide (s.pwr.state = 6))

/-- The glitch filter of `PORESET_N` and `WRESET_N` in ns, by the straps `RST_FILT` (R625, R630). -/
def rstFilter (straps : Nat) : Nat := nth [500, 200, 50, 10] (bits straps 3 2)

/-- The glitch filter of the fence lines in ns, by the straps `FENCE_FILT` (R624, R625, R630). -/
def fenceFilter (straps : Nat) : Nat := nth [40, 80, 20, 10] (bits straps 1 0)

/-- Raise an F3 event. -/
def raiseF3 (code : Nat) (pay : Bytes) (majority : Bool) (s : State) : State := f3Stop majority (raise code 3 pay s)

/-- After a step that may have met an F3 fault. -/
def f3Check (s : State) : State := if s.flt.f3 && decide (s.fld SUP_STATUS.STATE ≠ 6) then f3Stop true s else s

/-! The host interface (R79, R111, R583). -/

/-- The port of a host. -/
def hostPort (h : HostId) : Nat := 72 + h.val

/-- Registers of a host back at their defaults. -/
def hostDefaults (k : Bool) (h : HostId) (s : State) : State :=
  let l : Lost := { k := k, h := true, s := true }
  loseRange l (0x18000 + h.val * 0x4000) (0x1C000 + h.val * 0x4000)
    (loseRange l (0x11000 + h.val * 0x1000) (0x12000 + h.val * 0x1000) (loseRange l (0x10000 + h.val * 0x100) (0x10100 + h.val * 0x100) s))

/-- Every ring stops and what it held is gone; waiting events stay. -/
def dropRings (h : HostId) (s : State) : State :=
  s.modHost h (fun x => { x with rings := [], reread := [], slots := [], fetchMore := false, resv := [], dma := [],
                                 waiting := x.waiting.filter (fun e => e.kind = .event), cmds := [], txDone := [], vecs := [], txqLast := 63 })

/-- The Transom windows, locks and counters of a host (R488). -/
def windowDefaults (h : HostId) (s : State) : State :=
  let l : Lost := { k := false, h := true, s := true }
  loseRange l (0x260800 + h.val * 16) (0x260810 + h.val * 16) (loseRange l (0x260000 + h.val * 0x400) (0x260400 + h.val * 0x400) s)

/-- An endpoint goes (R111, R591, and the lock of R445); `k` says whether `HOST_CMD_ALLOW`, its one register of class K, returns to its reset value
too. (DEDUCED, log entry 55) -/
def hostGone (k : Bool) (h : HostId) (s : State) : State :=
  let lost := eventCount (s.host h).waiting
  let last := (s.host h).txqLast
  let s := (dropRings h s).modHost h (fun x => { x with waiting := [], lostPend := lost, lostAll := decide (lost ≠ 0), bme := false, txqLast := last })
  let s := (windowDefaults h (hostDefaults k h (trnDrop h.val s))).setFld (HOST_EVQ_LOST.COUNT h.val) (min (2 ^ 32 - 1) lost)
  let s := { s with fn := { s.fn with holds := s.fn.holds.filter (fun e => e.2.2 ≠ h.val) } }
  let s := match s.keys.lock with
    | some (o, _) => if o = hostSrc h then { s with keys := { s.keys with lock := none, ctx := none } } else s
    | none => s
  flushPort (hostPort h) (dropSending (hostPort h) s)

/-- An FLR or a link-down of an endpoint (R79). -/
def hostReset (h : HostId) (s : State) : State := hostGone true h s

/-- A warm reset returns the host interface of both endpoints to its defaults; links are kept (R583 step 1). (DEDUCED, log entry 46) -/
def hostWarm (h : HostId) (s : State) : State := hostDefaults false h (dropRings h s)

/-! Data-plane state. -/

/-- Streams across a loss of packet memory: Tentative ones are freed, recovery is unsynced (R339, R374). -/
def streamsKeep (l : List (Nat × Stream)) : List (Nat × Stream) :=
  (l.filter (fun e => e.2.phase = .committed)).map (fun e => (e.1, { closeNumbers e.2 with
    cmd := none, rerun := none, newPath := none, acks := [], verdicts := [], got := [], former := [], pathsSaid := none,
    hops := e.2.hops.filter (fun g => !g.tent), quotaUntil := none, quotaCount := 0,
    recov := e.2.recov.map (fun r => { skew := r.skew }) }))

/-- The queues, buffers and staged frames are gone; the counts follow from the active carving (R161). -/
def memLost (s : State) : State :=
  sillAll (carvingCounts { s with mem := {} })

/-- The time domains after an event that loses class S: step fields, adjustments and pulses (R239, R255, R582). -/
def domDefault (lt : Nat) (d : DomSt) : DomSt := { closeStretch lt d with stepArmed := true, set := false, locked := false, adj := none, needed := false }
def timeDefault (s : State) : State :=
  { s with time := { s.time with d0 := domDefault s.lt s.time.d0, d1 := domDefault s.lt s.time.d1, pend := [], outs := [], ins := [] } }

/-- Every image of the active set takes its `INIT` data, and its timers restart (R417, R586). -/
def imagesInit (s : State) : State :=
  let l := s.gw.active.filter (fun e => decide (e.1 / 4096 = 3) && imValid e.2)
  s.modGw (fun g => { g with sig := [], sigAt := s.lt, images := l.map (fun e =>
    (e.1 % 4096, { data := slice e.2 32 64, written := s.lt, cyclic := s.lt + imPeriod e.2 })) })

/-- The gateway restarts its controllers and images (R417). -/
def gwRestart (s : State) : State :=
  imagesInit { s with gw := { s.gw with batches := [], cans := [], lins := [], frBufs := [], frOld := none, sigAt := s.lt, lastDrop := none } }

/-- The fabric's address, roles and database (R488): all are rebuilt. -/
def fabLost (s : State) : State := { s with fab := { secs := s.fab.secs } }

/-- After a warm reset the hardware sender still has the bodies of the drain, which say `WITHDRAWING` (R583 step 2). (DEDUCED, log entry 53) -/
def fabWarm (f : FabSt) : FabSt := { secs := f.secs, helloSaid := f.helloSaid, gossipSaid := f.gossipSaid }

/-- Show the digests of the configuration image (R470). -/
def showRoots (s : State) : State :=
  let root := if s.fab.secs.isEmpty then zeros 48 else sha384 (s.fab.secs.flatten)
  (List.range 12).foldl (fun s n => s.setReg (FAB_ROOT n) (beAt root (4 * n) 4)) s

/-- Port states that a warm reset keeps: a port in standby or sleep stays there (R545); its `WOKE` is a stored bit of class S and goes.
(DEDUCED, log entry 46) -/
def keepPortStates (old : State) (s : State) : State :=
  (List.range 72).foldl (fun s p =>
    if old.fld (WAKE_PORT_STATUS.STATE p) = 0 then s
    else (s.setReg (WAKE_PORT_STATUS p) (old.reg (WAKE_PORT_STATUS p))).setFld (WAKE_PORT_STATUS.WOKE p) 0) s

/-- The registers that show what does not end with class S: the islands that run, the slots in flash, what the last start found. -/
def keepShown (old : State) (s : State) : State :=
  let copy (s : State) (a : Nat) : State := s.setReg a (old.reg a)
  let s := [GLB_STATUS, PWR_RESET_CAUSE, PWR_RESTORE, CLK_STATUS, CLK_ISLANDS, SUP_SETTINGS, SUP_SLOT_STATE 0, SUP_SLOT_STATE 1,
    SUP_SLOT_VERSION 0, SUP_SLOT_VERSION 1, SUP_SELFTEST, KEY_STATUS, PAIR_STATUS, FLT_CRASH_INFO].foldl copy s
  (List.range 8).foldl (fun s n => copy s (FLT_CRASH n)) s

/-- The rails in warning are still so after a warm reset (R585, R643); the least level seen is a stored field and goes. -/
def keepWarnings (old : State) (s : State) : State :=
  (List.range 11).foldl (fun s r => s.setFld (PWR_RAIL_STATUS.WARNING r) (old.fld (PWR_RAIL_STATUS.WARNING r))) s

/-- The rotating orders restart (R645): the register bus, and the TXQs of each host. Those of packet memory restart with it. -/
def ordersRestart (s : State) : State :=
  { s with bus := { s.bus with last := .fw }, hostA := { s.hostA with txqLast := 63 }, hostB := { s.hostB with txqLast := 63 } }

/-- DBG_STATUS loses its fields of class S; a lock-out stands until the next POR (R636). (DEDUCED, log entry 76) -/
def dbgDefault (d : DbgSt) : DbgSt := { d with fails := 0, refused := false, challenge := none, verifying := none }

/-- What a warm reset loses (R582, R583 steps 1 and 2). -/
def warmLose (s0 : State) : State :=
  let s := hostWarm 0 (hostWarm 1 (trnClear s0))
  let s := keepWarnings s0 (keepPortStates s0 (keepShown s0 (loseRegs { k := false, h := true, s := true } s)))
  let s := { s with
    streams := streamsKeep s.streams, tabs := (List.range 4).map (fun q => (q, tabWarm (s0.reg (QD_L2_SEED q)) (s0.tab q))),
    keys := { s.keys with lock := none, ctx := none, saved := [], msec := [] }, pnHold := 0,
    flt := { s.flt with grace := [], unhandled := [] }, fn := {}, admJob := {}, fab := fabWarm s.fab, dbg := dbgDefault s.dbg,
    wake := { since := s0.wake.since.filter (fun e => decide (s0.fld (WAKE_PORT_STATUS.STATE e.1) ≠ 0)) } }
  ordersRestart (showRoots (gwRestart (timeDefault (egrWarm false (hedgeWarm (memLost s))))))

/-- What S3 and S4 lose (R582); in S4 class H goes too, with learned entries and SAs. -/
def deepLose (n : Nat) (s0 : State) : State :=
  let four := decide (n = 4)
  let s := trnClear s0
  let s := if four then hostGone false 0 (hostGone false 1 s) else dropRings 0 (dropRings 1 s)
  let s := if four then { s with hostA := { s.hostA with linkUp := false }, hostB := { s.hostB with linkUp := false } } else s
  let s := keepShown s0 (keepPortStates s0 (loseRegs { k := false, h := four, s := true } s))
  let tabs := (List.range 4).map (fun q =>
    let t := { rehashAbandon (s0.reg (QD_L2_SEED q)) (s0.tab q) with gen := 0 }
    (q, if four then { t with serve := t.serve.filter (fun e => e.2.handle ≠ 0xFFFF), target := [], queue := [], route := [], lost := [], fid := [], group := [],
                              rehash := .idle, lastReq := none, lastEcc := none }
        else t))
  let s := { s with
    streams := streamsKeep s.streams, tabs := tabs, keys := { s.keys with lock := none, ctx := none, saved := [], msec := if four then [] else s.keys.msec },
    pnHold := 0, flt := { s.flt with grace := [], unhandled := [] }, fn := {}, admJob := {}, fab := { secs := s.fab.secs }, dbg := dbgDefault s.dbg,
    wake := {}, links := [] }
  let s := memLost s
  ordersRestart (showRoots (gwRestart (timeDefault (egrWarm (!four) (if four then hedgeWarm s else hedgeFnReset s)))))

end Sys2Proof.Machine
end

