-- ==== Sys2Proof/Machine/Sup.lean ====
section
/-! DEFINITION. The supervisor and firmware images (chapter 14): starts, activation, fallback, resynchronisation; the fault registers. -/

namespace Sys2Proof.Machine

/-! The triad. -/

/-- Does firmware run? -/
def triadRun (s : State) : Bool := s.flag GLB_STATUS.SUP_RUN

/-- `SUP_STATUS.STATE` and `SUP_RUN` together. -/
def supShow (st : Nat) (run : Bool) (s : State) : State := (s.setFld SUP_STATUS.STATE st).setFld GLB_STATUS.SUP_RUN (b2n run)

/-- Change the supervisor's state. -/
def State.modSup (s : State) (f : SupSt → SupSt) : State := { s with sup := f s.sup }

/-- An image slot. -/
def State.imgSlot (s : State) (n : Nat) : ImgSlot := kgetD s.sup.slots n {}

/-- The little-endian field of a header. -/
def hdrField (h : Bytes) (off n : Nat) : Nat := leAt h off n

/-- `IMAGE_DIGEST` of a header. -/
def hdrDigest (h : Bytes) : Bytes := toBe 48 (beAt h 52 48)

/-- The slot registers of one slot (R504). -/
def showSlot (n : Nat) (s : State) : State :=
  let x := s.imgSlot n
  let s := (s.setFld (SUP_SLOT_STATE.STATE n) x.state).setFld (SUP_SLOT_STATE.ARC n) (byteAt x.header 16 % 128)
  let s := s.setFld (SUP_SLOT_STATE.BLOCKS n) (if x.state = 1 then x.blocks.length else 0)
  s.setReg (SUP_SLOT_VERSION n) (hdrField x.header 12 4)

/-- Change an image slot and its registers. -/
def modSlot (n : Nat) (f : ImgSlot → ImgSlot) (s : State) : State :=
  showSlot n (s.modSup (fun p => { p with slots := kmod p.slots n {} f }))

/-- The newest activation record: generation, slot, state (R506). -/
def newestRec (s : State) : Nat × Nat × Nat := s.sup.journal.headD (0, 0, 4)

/-- Write an activation record, which gives the slot its state (R506). -/
def writeRec (slot st : Nat) (s : State) : State :=
  let g := (newestRec s).1 + 1
  modSlot slot (fun x => { x with state := st }) (s.modSup (fun p => { p with journal := (g % 2 ^ 32, slot, st) :: p.journal }))

/-- The other slot. -/
def otherSlot (n : Nat) : Nat := 1 - n % 2

/-- The measurement that a slot's firmware gives (R436, R508), with the digest of the configuration image that the start applied. -/
def slotMeas (s : State) (n : Nat) : Bytes := measureStart (hdrDigest (s.imgSlot n).header) (sha384 s.flash.loaded)

/-- Show the measurement. -/
def showMeas (m : Bytes) (s : State) : State :=
  (List.range 12).foldl (fun s n => s.setReg (KEY_MEAS n) (measWord m n)) { s with keys := { s.keys with meas := m } }

/-- Firmware of a slot runs: its measurement, and the keys bound to it, where the one before was another's (R436, R508). -/
def rebind (slot : Nat) (s : State) : State :=
  let m := slotMeas s slot
  if m = s.keys.meas then s else s.keys.slots.foldl (rebindSlot m) (showMeas m s)

/-- The digest of section 14: the running image's digest and its anti-rollback counter (R470). -/
def firmwareDigest (s : State) (slot : Nat) : Bytes :=
  let h := (s.imgSlot slot).header
  sha384 (hdrDigest h ++ [byte (byteAt h 16)])

/-- Section 14 follows the running firmware. -/
def showFirmware (slot : Nat) (s : State) : State :=
  if s.fab.secs.isEmpty then s else showRoots { s with fab := { s.fab with secs := s.fab.secs.set 14 (firmwareDigest s slot) } }

/-- The handover blobs are discarded. -/
def dropHandover (s : State) : State :=
  { s with keys := { s.keys with slots := s.keys.slots.map (fun e => (e.1, { e.2 with hand := none })) } }

/-- The new slot failed (R510): the records name the previous slot Active and the new one Bad. -/
def fallBack (new prev : Nat) (s : State) : State :=
  dropHandover (writeRec prev 4 (modSlot new (fun x => { x with state := 5 }) s))

/-- Raise the `EV_RST_READY` that is due (R598, R602): for POR and S5 it needs a PCIe link. -/
def raiseReady (s : State) : State :=
  match s.rst.ready with
  | some (k, us, fw) =>
    if 1 < k || s.hostA.linkUp || s.hostB.linkUp then
      raise 0x0F08 0 (evPay [(16, 1, k), (20, 4, us), (24, 4, fw)]) { s with rst := { s.rst with ready := none } }
    else s
  | none => s

/-- Raise the `EV_PWR_STATE` of an exit that has ended (R564). -/
def raiseExit (s : State) : State :=
  match s.pwr.tell with
  | some x => raise 0x0E07 0 (evPay [(16, 1, x.left), (17, 1, x.cause), (20, 4, s.fld PWR_STATUS.LAST_EXIT_US)]) { s with pwr := { s.pwr with tell := none } }
  | none => s

/-- The command of an activation that fell back completes (R510). (DEDUCED, log entry 50) -/
def endFallback (slot : Nat) (s : State) : State :=
  match s.sup.fallback with
  | none => s
  | some cause =>
    let s := raise 0x0D03 1 (evPay [(16, 1, slot), (17, 1, cause)]) (s.modSup (fun p => { p with fallback := none }))
    match s.sup.act with
    | some a => if a.phase = 3 then
        complete a.cmd 0x0D04 stState (byte (11 + cause) :: zeros 7) (s.modSup (fun p => { p with act := none }))
      else s
    | none => s

/-- Firmware runs from a slot: what waits for it is told. After POR and S5 the admission section of the image is applied (R598). -/
def firmwareRuns (slot : Nat) (s : State) : State :=
  let trial := decide ((newestRec s).2.2 = 3)
  let s := showFirmware slot (rebind slot s)
  let s := (supShow 2 true s).modSup (fun p => { p with restartAt := none, trialAt := if trial then some s.lt else none })
  let s := showSlot 0 (showSlot 1 ((s.setFld SUP_STATUS.RUN_SLOT (slot % 2)).setFld SUP_STATUS.TRIAL (b2n trial)))
  let s := (s.setFld SUP_SETTINGS.VERSION (s.sup.setVersion % 65536)).setFld SUP_SETTINGS.GEN (s.sup.setGen % 65536)
  let s := endFallback slot (raiseExit s)
  match s.rst.boot with
  | none => s
  | some (k, us, at_) =>
    let s := raiseReady { s with rst := { s.rst with boot := none, ready := some (k, us, us + (s.lt - at_) / 1000) } }
    if k ≤ 1 && !s.flash.loaded.isEmpty then applyAdmImage (imgSection s.flash.loaded 4) s else s

/-- The checks of R503 in order: result, status, missing blocks. -/
def bodyCheck (x : ImgSlot) (flashErr : Bool) : Nat × Nat × Nat :=
  let h := x.header
  let n := hdrField h 20 4 / 4096
  let key := toBe 32 Config.imageKey
  let body := x.blocks.flatMap (fun e => e.2)
  if x.blocks.length < n then (7, stParam, n - x.blocks.length)
  else if gcmTag key (slice h 24 12) (slice h 0 24) body ≠ slice h 36 16 then (8, stParam, 0)
  else if sha384 (gcmCrypt key (slice h 24 12) body) ≠ slice h 52 48 then (9, stParam, 0)
  else if flashErr then (10, stState, 0)
  else (0, stOk, 0)

/-- Does a slot fail the boot ROM's checks of signature, `ARC`, tag and digest (R505)? `damaged`: flash gave other bytes than were programmed. The
image that the device was made with is taken as correct (log entry 12). -/
def romFails (s : State) (n : Nat) (damaged : Bool) : Bool :=
  let x := s.imgSlot n
  let h := x.header
  damaged || decide (x.state = 0) ||
  (!h.isEmpty && (!iskVerify s (slice h 0 416) (slice h 416 96) || decide (byteAt h 16 < s.fld SUP_ARC_FUSE.ARC) || decide ((bodyCheck x false).1 ≠ 0)))

/-- The comparator test passed and the ROM chooses a slot (R505, R511): the newest record names it; a restart in Trial falls back; a slot that
fails its checks is Bad and the other is taken; with neither, the recovery loader runs. (DESIGN CHOICE, log entry 12, DEDUCED, log entry 103) -/
def bootSlot (badA badB : Bool) (s : State) : State :=
  let restart := decide (s.fld SUP_STATUS.STATE = 4)
  let r := newestRec s
  let s := if restart && r.2.2 = 3 && s.sup.fallback.isNone then
      (fallBack r.2.1 (otherSlot r.2.1) s).modSup (fun p => { p with fallback := some 4 })
    else s
  let n := (newestRec s).2.1
  let bad (n : Nat) : Bool := romFails s n (if n = 0 then badA else badB)
  if !bad n then firmwareRuns n s
  else
    let s := dropHandover (modSlot n (fun x => { x with state := 5 }) s)
    let m := otherSlot n
    if bad m then
      supShow 5 false ((modSlot m (fun x => { x with state := if x.state = 0 then 0 else 5 }) s).modSup (fun p => { p with restartAt := none }))
    else firmwareRuns m ((writeRec m 4 s).modSup (fun p => { p with fallback := some (p.fallback.getD 3) }))

/-- A start of the triad ends (R497, R505): first the comparator test, `fail` naming the injections not reported as expected. -/
def bootDone (fail : Nat) (badA badB : Bool) (s : State) : State :=
  let s := ((s.setFld SUP_SELFTEST.DONE 1).setFld SUP_SELFTEST.PASS (b2n (decide (fail = 0)))).setFld SUP_SELFTEST.SEEN (15 - fail % 16)
  if fail % 16 = 0 then bootSlot badA badB s
  else raiseF3 0x0F06 (evPay [(16, 1, fail % 16)]) false (s.modSup (fun p => { p with restartAt := none }))

/-! Images (R500 to R503). -/

/-- Are all bytes of a range of a string 0? -/
def zeroRange (b : Bytes) (from_ to_ : Nat) : Bool := (slice b from_ (to_ - from_)).all (fun x => decide (x = 0))

/-- The slot that does not run. -/
def idleSlot (s : State) : Nat := otherSlot (s.fld SUP_STATUS.RUN_SLOT)

/-- The checks of R501 in order: result and status. -/
def headerCheck (s : State) (h : Bytes) : Nat × Nat :=
  let size := hdrField h 20 4
  if hdrField h 0 4 ≠ 0x5746584B || hdrField h 4 2 ≠ 1 || !zeroRange h 9 12 || !zeroRange h 17 20 || !zeroRange h 108 416 then (1, stParam)
  else if hdrField h 6 2 ≠ 0x0872 || s.fld GLB_ID.REV_MAJOR * 16 + s.fld GLB_ID.REV_MINOR < byteAt h 8 then (2, stParam)
  else if size % 4096 ≠ 0 || size < 4096 || 1572864 < size then (3, stParam)
  else if !iskVerify s (slice h 0 416) (slice h 416 96) then (4, stParam)
  else if byteAt h 16 < s.fld SUP_ARC_FUSE.ARC then (5, stParam)
  else if s.flag SUP_STATUS.TRIAL then (6, stState)
  else (0, stOk)

/-- An image reply. -/
def imgReply (result missing : Nat) : Bytes := byte result :: zeros 3 ++ toLe 4 missing

/-- Commands of the group go in turn: none starts while an activation runs (R113). (DEDUCED, log entry 50) -/
def imgHeld (s : State) : Bool := s.sup.act.isSome

/-- `IMG_BEGIN` (R501). -/
def execImgBegin (c : CmdCtx) (s : State) : Res :=
  if imgHeld s || engineHeld s then .next s else
  .next (command c 0x0D01 s fun s =>
    if !plenIs c 512 then complete c 0x0D01 stParam [] s
    else
      let (r, st) := headerCheck s c.par
      let s := if r = 0 then modSlot (idleSlot s) (fun _ => { state := 1, header := c.par, erased := false }) s else s
      complete c 0x0D01 st (imgReply r 0) s)

/-- IMAGE_SLOT_ERASE_DONE (R502): the background erase of a slot ends. -/
def execImageSlotEraseDone (slot : Fin 2) (s : State) : Res :=
  .next (s.modSup (fun p => { p with slots := kmapAt p.slots slot.val (fun x => { x with erased := true }) }))

/-- `IMG_BLOCK` (R502): `block` is what host memory holds at the address, none when the read failed. A block waits for its sector's erase and
for the end of brace (R570). -/
def execImgBlock (c : CmdCtx) (block : Option Bytes) (s : State) : Res :=
  let n := idleSlot s
  let x := s.imgSlot n
  let off := leAt c.par 0 4
  if imgHeld s || s.brace || (x.state = 1 && !x.erased) then .next s else
  .next (command c 0x0D02 s fun s =>
    if !plenIs c 16 || !parZero c 4 8 then complete c 0x0D02 stParam [] s
    else if x.state ≠ 1 then complete c 0x0D02 stState [] s
    else if off % 4096 ≠ 0 || hdrField x.header 20 4 ≤ off then complete c 0x0D02 stParam [] s
    else
      let s := hostFetch c (leAt c.par 8 8) 4096 s
      match block with
      | none => complete c 0x0D02 stDma [] s
      | some b =>
        let s := modSlot n (fun x => { x with blocks := kput x.blocks (off / 4096) (slice b 0 4096) }) s
        complete c 0x0D02 stOk (imgReply 0 0) s)

/-- `IMG_END` (R503): it waits for the lookaside lock. (DEDUCED, log entry 50) -/
def execImgEnd (c : CmdCtx) (flashErr : Bool) (s : State) : Res :=
  if imgHeld s || engineHeld s then .next s else
  .next (command c 0x0D03 s fun s =>
    let n := idleSlot s
    let x := s.imgSlot n
    if !plenIs c 8 || !parZero c 0 8 then complete c 0x0D03 stParam [] s
    else if x.state ≠ 1 then complete c 0x0D03 stState [] s
    else
      let (r, st, m) := bodyCheck x flashErr
      let s := if r = 7 then s else modSlot n (fun x => { x with state := if r = 0 then 2 else 5 }) s
      complete c 0x0D03 st (imgReply r m) s)

/-! Activation (R507 to R512). -/

/-- `IMG_ACTIVATE` (R507): the sealed handover begins. -/
def execImgActivate (c : CmdCtx) (s : State) : Res :=
  if imgHeld s then .next s else
  .next (command c 0x0D04 s fun s =>
    let n := byteAt c.par 0
    let x := s.imgSlot n
    if !plenIs c 8 || !parZero c 1 8 || 1 < n then complete c 0x0D04 stParam [] s
    else if x.state ≠ 2 || s.flag SUP_STATUS.TRIAL || s.brace || s.sup.setVersion < hdrField x.header 104 4 || s.sup.restartAt.isSome then
      complete c 0x0D04 stState [] s
    else s.modSup (fun p => { p with act := some { cmd := c, slot := n, prev := s.fld SUP_STATUS.RUN_SLOT } }))

/-- Does a stop window longer than 2 µs run (R610, R611)? -/
def longStop (s : State) : Bool := s.fn.carve.isSome

/-- Every bound key is wrapped again for the measurement of the slot (R508). -/
def rewrap (m : Bytes) (s : State) : State :=
  { s with keys := { s.keys with slots := s.keys.slots.map (fun e =>
    (e.1, match e.2.blob with
      | some b => if b.bound.isSome then { e.2 with hand := some { b with bound := some m } } else e.2
      | none => e.2)) } }

/-- SEALED_HANDOVER_DONE (R508, R509, R611): the bound keys are wrapped for the new measurement, and the pause starts once no stop window runs. -/
def execSealedHandoverDone (s : State) : Res :=
  match s.sup.act with
  | some a =>
    if a.phase = 1 && !longStop s then
      .next (supShow 3 false ((rewrap (slotMeas s a.slot) s).modSup (fun p => { p with act := some { a with phase := 2, pauseAt := s.lt } })))
    else .next s
  | none => .next s

/-- Is the activation record written? It is by 6 ms into the pause (R509 step 3, log entry 66). -/
def actRecorded (s : State) (a : Activation) : Bool := a.phase = 3 || (a.phase = 2 && decide (a.pauseAt + 6000000 ≤ s.lt))

/-- An activation that brace or a warm reset meets before its record is abandoned (R512, R585). (DEDUCED, log entry 66, DEDUCED, log entry 67) -/
def abandonAct (s : State) : State :=
  match s.sup.act with
  | some a =>
    if actRecorded s a then s
    else
      let s := dropHandover (s.modSup (fun p => { p with act := none }))
      complete a.cmd 0x0D04 stState (zeros 8) (if a.phase = 2 then supShow 2 true s else s)
  | none => s

/-- A supervisor restart begins (R498). Kind 7 of `EV_RST_READY` reports it unless it is part of another start. After an F3 fault it has no
effect (R517). An activation in its first phase is abandoned with the firmware that runs it (log entry 67). (DEDUCED, log entry 50) -/
def supRestart (tell : Bool) (s : State) : State :=
  if s.flt.f3 then s
  else
    let s := if (s.sup.act.map (fun a => a.phase)) = some 1 then abandonAct s else s
    let s := if tell && s.rst.boot.isNone then { s with rst := { s.rst with boot := some (7, 0, s.lt) } } else s
    supShow 4 false ((s.modSup (fun p => { p with restartAt := some s.lt, sram := [], replay := [], resync := none, recent := [], trialAt := none })).setFld SUP_STATUS.RESYNC 0)

/-- The migrated settings are written to the other copy once brace does not hold the write back (R509 step 7, R512). -/
def migrateSettings (s : State) : State :=
  match s.sup.migrate with
  | some v =>
    if s.brace then s
    else
      let s := s.modSup (fun p => { p with setVersion := v, setGen := p.setGen + 1, migrate := none })
      (s.setFld SUP_SETTINGS.VERSION (v % 65536)).setFld SUP_SETTINGS.GEN (s.sup.setGen % 65536)
  | none => s

/-- The new firmware runs (R509 step 6): the outgoing settings copy was written in step 2, the record in step 3. -/
def pauseEnd (a : Activation) (s : State) : State :=
  let h := (s.imgSlot a.slot).header
  let s := writeRec a.slot 3 (s.modSup (fun p => { p with act := none, setGen := p.setGen + 1, migrate := some (hdrField h 100 4) }))
  let s := firmwareRuns a.slot s
  let s := raise 0x0D02 0 (evPay [(16, 1, a.slot), (20, 4, hdrField h 12 4)]) (migrateSettings s)
  complete a.cmd 0x0D04 stOk (zeros 8) s

/-- The boot of the previous slot begins after new firmware failed (R510): cause 0 settings, 1 watchdog. -/
def startFallback (a : Activation) (cause : Nat) (s : State) : State :=
  let s := (fallBack a.slot a.prev s).modSup (fun p => { p with act := some { a with phase := 3 }, fallback := some cause, setGen := p.setGen + 1 })
  supRestart (decide (cause = 1)) s

/-- ACTIVATION_WATCHDOG (R509): the new firmware does not run 30 ms into the pause. -/
def execActivationWatchdog (s : State) : Res :=
  match s.sup.act with
  | some a => if a.phase = 2 && decide (a.pauseAt + 30000000 ≤ s.lt) then .next (startFallback a 1 s) else .next s
  | none => .next s

/-- FIRMWARE_FALLBACK (R510): new firmware cannot read the settings store, in the activation pause or in a start in Trial; `version` is the one
found. -/
def execFirmwareFallback (version : Nat) (s : State) : Res :=
  match s.sup.act, s.sup.restartAt with
  | some a, none =>
    if a.phase = 2 then .next (startFallback a 0 (raise 0x0D01 1 (evPay [(16, 1, a.slot), (20, 4, version)]) s)) else .next s
  | none, some _ =>
    let r := newestRec s
    if r.2.2 = 3 then
      let s := raise 0x0D01 1 (evPay [(16, 1, r.2.1), (20, 4, version)]) s
      .next ((fallBack r.2.1 (otherSlot r.2.1) s).modSup (fun p => { p with fallback := some 0 }))
    else .next s
  | _, _ => .next s

/-- The handover blobs become the storage blobs (R511). -/
def keepHandover (s : State) : State :=
  { s with keys := { s.keys with slots := s.keys.slots.map (fun e =>
    (e.1, match e.2.hand with
      | some k => { e.2 with blob := some k, hand := none }
      | none => e.2)) } }

/-- TRIAL_CONFIRM (R511): a Trial image has run for `CONFIRM_S`; the record waits for the end of brace. -/
def execTrialConfirm (s : State) : Res :=
  match s.sup.trialAt with
  | some t =>
    if triadRun s && !s.brace && decide (t + s.fld SUP_CFG.CONFIRM_S * sec ≤ s.lt) then
      let n := (newestRec s).2.1
      let arc := byteAt (s.imgSlot n).header 16
      let fuse := max arc (s.fld SUP_ARC_FUSE.ARC)
      let s := keepHandover (writeRec n 4 (s.setFld SUP_ARC_FUSE.ARC fuse))
      let s := modSlot (otherSlot n) (fun x => { x with state := if x.state = 4 then 2 else x.state }) s
      let s := (s.modSup (fun p => { p with trialAt := none })).setFld SUP_STATUS.TRIAL 0
      .next (raise 0x0D04 0 (evPay [(16, 1, n), (17, 1, fuse)]) s)
    else .next s
  | none => .next s

/-! Odd cores (R494, R496). -/

/-- The resynchronisations of a core within the last second. -/
def recentOf (s : State) (core : Nat) : List (Nat × Nat) := s.sup.recent.filter (fun e => e.1 = core && s.lt < e.2 + sec)

/-- The replay buffer without a core: the reads that it had still to come to are the other cores' alone. -/
def replayWithout (core : Nat) (l : List Replay) : List Replay :=
  (l.map (fun r => { r with left := clrBit r.left core })).filter (fun r => r.left ≠ 0)

/-- A core's SRAM as a copy of another core's (R494): 2 MiB each. -/
def sramCopy (core from_ : Nat) (m : Keyed Nat) : Keyed Nat :=
  (m.filter (fun e => e.1 / 2 ^ 21 = from_)).foldl (fun m e => kput m (core * 2 ^ 21 + e.1 % 2 ^ 21) e.2) (m.filter (fun e => e.1 / 2 ^ 21 ≠ core))

/-- A core is odd and its resynchronisation starts: kind 0 signature, 1 late. -/
def markOdd (core kind : Nat) (s : State) : State :=
  let s := s.bumpFld (SUP_CORE.RESYNCS core) 1
  let s := (s.setFld SUP_STATUS.ODD core).setFld SUP_STATUS.RESYNC 1
  let s := s.modSup (fun p => { p with replay := replayWithout core p.replay, resync := some (core, s.lt), recent := (core, s.lt) :: p.recent.filter (fun e => s.lt < e.2 + sec) })
  let s := raise 0x0F03 1 (evPay [(16, 1, core), (17, 1, kind)]) s
  let n := (recentOf s core).length
  if s.fld SUP_CFG.RESYNC_LIMIT < n then raise 0x0F04 2 (evPay [(16, 1, core), (17, 1, n)]) s else s

/-- SUP_RESYNC_DONE (R494): the core rejoins, with the SRAM of one of the other two. -/
def execSupResyncDone (s : State) : Res :=
  match s.sup.resync with
  | some (k, _) =>
    .next ((s.modSup (fun p => { p with resync := none, sram := sramCopy k (if k = 0 then 1 else 0) p.sram })).setFld SUP_STATUS.RESYNC 0)
  | none => .next s

/-! Register rows. -/

/-- SUP_RESTART (R498): a write of 1 to `RESTART` from any source. -/
def supCtrlWrite (v : Nat) (s : State) : State :=
  if bit v 0 && s.sup.restartAt.isNone && triadRun s then supRestart true s else s

def execSupRestart (src : Src) (value : Nat) (s : State) : Res := .next (busRow src (supCtrlWrite value) s)

/-- FLT_ACK (R514). -/
def fltAck (v : Nat) (s : State) : State :=
  (List.range 15).foldl (fun s i => if bit v (i + 1) then handleGroup (i + 1) s else s) s

def execFltAck (src : Src) (value : Nat) (s : State) : Res := .next (busRow src (fltAck value) s)

/-- FLT_FIRST_CLEAR (R518). -/
def fltFirstClear (v : Nat) (s : State) : State := if bit v 0 then { s with flt := { s.flt with first := none } } else s

def execFltFirstClear (src : Src) (value : Nat) (s : State) : Res := .next (busRow src (fltFirstClear value) s)

/-- FLT_HIST_SNAPSHOT (R519): the entry goes to `FLT_HISTn`; without one the words are 0. -/
def fltHistSnapshot (v : Nat) (s : State) : State :=
  let i := v % 16
  let b := (s.flt.hist[i]?).elim (zeros 32) histBytes
  (List.range 8).foldl (fun s n => s.setReg (FLT_HIST n) (leAt b (4 * n) 4)) (s.setFld FLT_HIST_SEL.INDEX i)

def execFltHistSnapshot (src : Src) (value : Nat) (s : State) : Res := .next (busRow src (fltHistSnapshot value) s)

end Sys2Proof.Machine
end

