-- ==== Sys2Proof/Machine/PortState.lean ====
section
/-! DEFINITION. Transceiver states of the ports and clusters (R523 to R535, R538). -/

namespace Sys2Proof.Machine

/-! Clusters. -/

/-- Change the wake state. -/
def State.modWake (s : State) (f : WakeSt → WakeSt) : State := { s with wake := f s.wake }

/-- Is a port a member of a cluster here (R533)? -/
def isMember (s : State) (c p : Nat) : Bool := bit (s.reg (WAKE_CLUSTER c (p / 32))) (p % 32)

/-- The clusters of a port, as a mask. -/
def portClusters (s : State) (p : Nat) : Nat := listMask ((List.range 16).filter (fun c => isMember s c p))

/-- Does the unit take part in sleep and wake: not in a role that is fenced or restores (R608)? -/
def wakeRole (s : State) : Bool :=
  let r := s.fld PAIR_STATUS.ROLE
  decide (r ≠ 2) && decide (r ≠ 3) && decide (r ≠ 4)

/-- The clusters with a member port here (R533). -/
def wakePart (s : State) : Nat :=
  if wakeRole s then
    listMask ((List.range 16).filter (fun c => decide (s.reg (WAKE_CLUSTER c 0) ≠ 0) || decide (s.reg (WAKE_CLUSTER c 1) ≠ 0) ||
      decide (s.reg (WAKE_CLUSTER c 2) ≠ 0)))
  else 0

/-- Does a Committed stream enter, leave or end on a port here (R535)? -/
def streamPort (s : State) (p : Nat) : Bool :=
  s.streams.any (fun e => e.2.committed && ((e.2.ingress && e.2.inPort = p) || e.2.hops.any (fun g => decide (g.inPort = p) || decide (g.outPort = p)) ||
    e.2.dests.any (fun d => decide (d = p))))

/-- `FORCED` (R535). -/
def wakeForced (s : State) : Nat :=
  ((List.range 72).filter (streamPort s)).foldl (fun m p => m ||| portClusters s p) 0

/-- The clusters with a wake hold. -/
def wakeHeld (s : State) : Nat := listMask (s.wake.holds.map (·.1))

/-- The vote (R534); with `EN` 0 every cluster of the device is voted awake. -/
def localVote (s : State) : Nat :=
  let part := wakePart s
  if s.flag WAKE_CTRL.EN then (s.fld WAKE_HOST_VOTE.HA ||| s.fld WAKE_HOST_VOTE.HB ||| wakeHeld s ||| wakeForced s) &&& part else part

/-- `FABRIC_AWAKE`: all but the committed clusters. -/
def fabricAwake (s : State) : Nat := 0xFFFF - (s.wake.committed &&& 0xFFFF)

/-- The clusters for which the device settles (R538). -/
def settling (s : State) : Nat := (s.wake.commits.filter (·.done)).foldl (fun m c => m ||| c.clusters) 0

/-! Pins (R361, R525, R526). A change of state applies the new state's pin levels at once (R524). -/

/-- The transmitter of a port under the fence (R361). -/
def fencedTx (p : Nat) : TxState :=
  if p ≤ 15 || p = 75 then .electricalIdle else if p ≤ 31 then .silentHighZ else if p ≤ 39 then .offNoPlca
  else if p ≤ 69 then .recessive else .inactiveIdle

/-- The transmitter of a port. -/
def txState (s : State) (p : Nat) : TxState := if lineLow s then fencedTx p else .driven

/-- `CAN_STB` and `CAN_EN` of a CAN port (R525); the fence puts the transceiver in standby (R361). -/
def canPins (s : State) (p : Nat) : Bool × Bool :=
  match (if lineLow s then 2 else s.fld (WAKE_PORT_STATUS.TARGET p)) with
  | 0 => (false, true)
  | 1 => (false, false)
  | 2 => (true, false)
  | _ => (true, true)

/-- The level of a TIME_OUT pin; none is high impedance (R255, R361). -/
def timeOutPin (s : State) (n : Nat) : Option Bool := timeOutLevel s n (s.outPin n).active

/-! States. -/

/-- `STATE` of a port. -/
def portState (s : State) (p : Nat) : Nat := s.fld (WAKE_PORT_STATUS.STATE p)

/-- The state a port sleeps in (R523, R538). -/
def asleepState (s : State) (p : Nat) : Nat := if p < 16 || s.flag (WAKE_PORT_CFG.ASLEEP p) then 3 else 2

/-- An Ethernet port's PHY or serdes is switched off: its link is down. -/
def etherOff (p : Nat) (s : State) : State :=
  if p ≤ 39 && khas s.links p then (if s.fabricPort p then fabricDown p s else linkDown p s) else s

/-- What a port that leaves normal held is discarded (R523); a destination at a legacy port that was up is lost (R58), one at an Ethernet port with
its link. -/
def portLeave (p : Nat) (up : Bool) (s : State) : State :=
  let s := flushPort p (dropSending p (if 40 ≤ p then loadedFlush p s else s))
  if 40 ≤ p && up then portDestsLost p s else s

/-- The commits whose ports have all reached their states have settled (R538). -/
def endSettling (s : State) : State :=
  if s.wake.since.isEmpty then s.modWake (fun w => { w with commits := w.commits.filter (fun c => !c.done) }) else s

/-- A port reaches the state it was entering. -/
def portReached (p : Nat) (s : State) : State :=
  let t := s.fld (WAKE_PORT_STATUS.TARGET p)
  let s := (s.setFld (WAKE_PORT_STATUS.STATE p) t).setFld (WAKE_PORT_STATUS.SETTLING p) 0
  let s := s.modWake (fun w => { w with since := kdel w.since p })
  let s := if 2 ≤ t then etherOff p s else s
  let send := t = 0 && bit s.wake.sendWake p
  let s := if send then imTrigger (s.fld (WAKE_PORT_CFG.WAKE_IMG p)) (s.modWake (fun w => { w with sendWake := clrBit w.sendWake p })) else s
  endSettling s

/-- A T1 port. -/
def isT1 (p : Nat) : Bool := decide (16 ≤ p) && decide (p ≤ 31)

/-- A port starts to change its state (R524): pins and power are the new state's at once. A port already there, or on its way there, goes
on. -/
def portTo (st : Nat) (s : State) (p : Nat) : State :=
  if s.fld (WAKE_PORT_STATUS.TARGET p) = st then s
  else
    let was := portState s p
    let up := portUp s p
    let s := (s.setFld (WAKE_PORT_STATUS.TARGET p) st).setFld (WAKE_PORT_STATUS.SETTLING p) (b2n (decide (was ≠ st)))
    let s := s.modWake (fun w => { w with since := kput w.since p s.lt })
    let s := if isT1 p && decide (1 ≤ st) && khas s.links p then s.emit (.sleepRequest p) else s
    if was = 0 && decide (st ≠ 0) then portLeave p up s else s

/-- The shortest time a change takes (R524): 50 µs on a CAN port, or until `CAN_INH` reads low; on a T1 port it ends with the handshake of a
trained link or with training; 1 µs elsewhere. -/
def portTime (s : State) (p : Nat) : Nat :=
  if isCanPort p then (if s.flag (WAKE_PORT_CFG.INH_SENSE p) && s.fld (WAKE_PORT_STATUS.TARGET p) = 3 then 0 else 50000)
  else if isT1 p && (s.fld (WAKE_PORT_STATUS.TARGET p) = 0 || khas s.links p) then 0 else 1000

/-- PORT_STATE_REACHED (R524): a T1 port reaches normal when its link has trained. -/
def portReachedNow (p : Nat) (s : State) : State :=
  match kget s.wake.since p with
  | some t =>
    let train := decide (16 ≤ p) && decide (p ≤ 31) && decide (s.fld (WAKE_PORT_STATUS.TARGET p) = 0) && !khas s.links p
    if t + portTime s p ≤ s.lt && !train then portReached p s else s
  | none => s

/-- PORT_STATE_FORCED (R524): 20 ms after the change began. -/
def portForced (p : Nat) (s : State) : State :=
  match kget s.wake.since p with
  | some t =>
    let st := s.fld (WAKE_PORT_STATUS.TARGET p)
    if 2 ≤ st && t + 20000000 ≤ s.lt then raise 0x0E06 0 (evPay [(16, 1, p), (17, 1, st)]) (portReached p (s.bump WAKE_STUCK)) else s
  | none => s

/-- Does the device sleep by commits here: named in `MAY_SLEEP` and in no awake cluster (R538, R539)? -/
def maySleep (s : State) : Bool :=
  s.flag WAKE_CTRL.EN && s.wake.may && decide (wakePart s &&& (s.wake.committed &&& 0xFFFF) = wakePart s)

/-- The state that a port's clusters give it (R535, R538). -/
def clusterState (s : State) (p : Nat) : Nat :=
  let m := portClusters s p
  if !s.flag WAKE_CTRL.EN || streamPort s p then 0
  else if m ≠ 0 then (if m &&& (s.wake.committed &&& 0xFFFF) = m then asleepState s p else 0)
  else if s.fabricPort p && maySleep s then 3
  else 0

/-- Every external port takes the state of its clusters. -/
def portsByCluster (s : State) : State := (List.range 72).foldl (fun s p => portTo (clusterState s p) s p) s

/-- Every external port goes to the state it sleeps in (R539, R555). -/
def portsToSleep (s : State) : State := (List.range 72).foldl (fun s p => portTo (asleepState s p) s p) s

/-- Every external port goes to normal. -/
def portsToNormal (s : State) : State := (List.range 72).foldl (fun s p => portTo 0 s p) s

/-- The level of an INH output (R526); a change of state applies the new state's pins at once (R524). The group of the device's own regulators is
low in S5 only, and raised first at the exit (`PWR_CORE_INH`). -/
def inhLevel (s : State) (k : Nat) : Bool :=
  (s.flag PWR_CORE_INH.VALID && decide (s.fld PWR_CORE_INH.GROUP = k) && (decide (s.pwr.state ≤ 4) || s.pwr.exit.isSome)) ||
  decide (s.pwr.state ≤ 4) &&
  (bit (s.fld WAKE_INH_CTRL.FORCE_HIGH) k ||
   (List.range 72).any (fun p => s.flag (WAKE_PORT_CFG.INH_VALID p) && decide (s.fld (WAKE_PORT_CFG.INH_GRP p) = k) && decide (s.fld (WAKE_PORT_STATUS.TARGET p) ≠ 3)))

/-! Waking ports (R530, R542). -/

/-- The wake towards the nodes of a port, as its kind sends it. A CAN port sends its image once it is in normal. -/
def sendWakeOn (s : State) (p : Nat) : State :=
  if 16 ≤ p && p ≤ 39 then s.emit (.wakeSignal p)
  else if isCanPort p then
    if s.flag (WAKE_PORT_CFG.WAKE_IMG_EN p) then
      if inNormal s p then imTrigger (s.fld (WAKE_PORT_CFG.WAKE_IMG p)) s else s.modWake (fun w => { w with sendWake := orBit w.sendWake p })
    else s
  else if isLinPort p && s.fld (LEG_LIN_CFG.ROLE (p - 64)) = 1 then s.emit (.wakeSignal p)
  else s

/-- The ports of a set of clusters. -/
def clusterPorts (s : State) (m : Nat) : List Nat := (List.range 72).filter (fun p => decide (portClusters s p &&& m ≠ 0))

end Sys2Proof.Machine
end

