-- ==== Sys2Proof/Machine/Power.lean ====
section
/-! DEFINITION. The power ladder (R547 to R566): which requests are refused, entering and leaving a state. -/

namespace Sys2Proof.Machine

/-! Islands (R549, R565, R566). -/

/-- The islands in ramp order, by the field that shows them: packet memory, quadrants, MACsec, slices of P0 to P39 and P75, legacy bus,
timekeeper, host logic, supervisor. -/
def islandFld (i : Nat) : Fld :=
  if i = 0 then CLK_ISLANDS.PMEM
  else if i ≤ 4 then ⟨CLK_ISLANDS, 2 * (i - 1) + 1, 2 * (i - 1)⟩
  else if i ≤ 8 then ⟨CLK_ISLANDS, 2 * (i - 5) + 9, 2 * (i - 5) + 8⟩
  else if i ≤ 48 then ⟨CLK_SLICE ((i - 9) / 16), 2 * ((i - 9) % 16) + 1, 2 * ((i - 9) % 16)⟩
  else if i = 49 then ⟨CLK_SLICE 2, 17, 16⟩
  else if i = 50 then CLK_ISLANDS.LEG
  else if i = 51 then CLK_ISLANDS.TK
  else if i = 52 then CLK_ISLANDS.HOST
  else CLK_ISLANDS.SUP

/-- The number of islands. -/
def islandCount : Nat := 54

/-- The state of an island in a device state: 0 on, 1 gated, 2 retained, 3 off (R549). -/
def islandAt (n i : Nat) : Nat :=
  if n = 0 then 0
  else if 4 ≤ n then 3
  else if i = 0 then (if n = 1 then 1 else if n = 2 then 2 else 3)
  else if i ≤ 4 then (if n = 1 then 1 else 2)
  else if i ≤ 8 then (if n = 3 then 3 else 1)
  else if i ≤ 49 then (if n = 3 then 3 else 0)
  else if i = 50 then (if n = 3 then 2 else 0)
  else if i = 51 then (if n = 3 then 3 else 0)
  else if i = 52 then (if n = 3 then 2 else 0)
  else (if n = 1 then 1 else 2)

/-- The islands that ramp on leaving a state, in order: those retained or off. -/
def rampList (n : Nat) : List Nat := (List.range islandCount).filter (fun i => decide (2 ≤ islandAt n i))

/-- Show the islands of a device state, with the clocks and the ready flags (R549, R643). -/
def showIslands (n : Nat) (s : State) : State :=
  let s := (List.range islandCount).foldl (fun s i => s.setFld (islandFld i) (islandAt n i)) s
  let on := b2n (decide (n ≤ 2))
  let s := (((s.setFld CLK_STATUS.REF_OK (b2n (decide (n ≤ 3)))).setFld CLK_STATUS.LOCK_CORE on).setFld CLK_STATUS.LOCK_SUP on).setFld CLK_STATUS.LOCK_AUX on
  let s := ((s.setFld GLB_STATUS.MEM_READY on).setFld GLB_STATUS.TK_RUN on).setFld GLB_STATUS.MSEC_READY (15 * on)
  let s := s.setFld GLB_STATUS.QUAD_READY (15 * on)
  { s with time := { s.time with running := decide (n ≤ 2) } }

/-- Change the power state. -/
def State.modPwr (s : State) (f : PwrSt → PwrSt) : State := { s with pwr := f s.pwr }

/-- Grant waiting ramps: at most four islands ramp at once, in brace one (R565, R566). -/
def grantRamps (s : State) : State :=
  let limit := if s.brace then 1 else 4
  let k := min (limit - s.pwr.ramping) s.pwr.ramps
  s.modPwr (fun p => { p with ramps := p.ramps - k, ramping := p.ramping + k })

/-! Requests (R551 to R554). -/

/-- Is an admitted frame held (R551)? -/
def admittedHeld (s : State) : Bool :=
  (List.range 6).any (fun k => decide (0 < rsvHeld s k)) || s.streams.any (fun e => e.2.recov.any (fun r => !r.held.isEmpty))

/-- Does something run that refuses every request with BUSY (R553)? (DEDUCED, log entry 51) -/
def pwrBusy (s : State) : Bool :=
  s.pwr.entry.isSome || s.pwr.exit.isSome || s.sup.act.isSome || s.sup.restartAt.isSome || s.rst.warm.isSome || s.rst.waiting.isSome ||
  s.fn.carve.isSome || !s.fn.flips.isEmpty || s.egr.ports.any (fun e => flipPending e.2) || s.tabs.any (fun e => rehashing e.2) ||
  !s.keys.writing.isEmpty || s.sup.migrate.isSome

/-- Does the pair refuse a state (R553, R607)? -/
def pwrPair (s : State) (target : Nat) : Bool :=
  let r := s.fld PAIR_STATUS.ROLE
  s.pairMode = 1 && (r = 2 || r = 4 || r = 3 || (target = 5 && r = 1))

/-- The first reason that refuses a request, 0 for none; HELD is tested later (R553, R555). `who` is 0 for a host, 1 for the sleep logic, 2 for
idle entry. -/
def pwrRefusal (target who : Nat) (s : State) : Nat :=
  if s.brace then 1
  else if pwrBusy s then 2
  else if pwrPair s target then 3
  else if (target ≤ 2 && !s.reserved.isEmpty) || (who ≠ 0 && s.streams.any (fun e => e.2.committed)) then 4
  else if target = 4 && 252 < s.fld PWR_RESTORE.DELTA_KIB then 6
  else if 3 ≤ target && s.flag HOST_FAILSAFE.FENCE then 7
  else 0

/-- Before a request for S4 the state that differs from the image is measured; its size in KiB is a free value (log entry 68). -/
def measureDelta (target : Nat) (s : State) : State :=
  if target = 4 then (s.setFld PWR_RESTORE.DELTA_KIB (s.freeVal % 2 ^ 16)).drew else s

/-- A refused request is counted and shown. -/
def pwrRefused (r : Nat) (s : State) : State := (s.setFld PWR_STATUS.LAST_RESULT r).bump PWR_REFUSED

/-- The device announces its withdrawal over DFP (R65, R555); the hardware sender's bodies say so too. -/
def withdrawFab (limitUs : Nat) (s : State) : State :=
  if s.flag FAB_CFG.DFP_EN then
    let s := s.setFld FAB_STATUS.WITHDRAWING 1
    let s := s.modFab (fun f => { f with helloSaid := f.helloSaid.map (fun e => (e.1, { e.2 with withdrawing := true })) })
    let s := if dfpOn s then announceLinks s else s
    (fabUp s).foldl (fun s p => sendOn p 0 (.withdraw (ownAddr s) limitUs) s) s
  else s

/-- The withdrawal is taken back (R558). -/
def rejoinFab (s : State) : State :=
  if s.flag FAB_STATUS.WITHDRAWING then
    let s := s.setFld FAB_STATUS.WITHDRAWING 0
    let s := s.modFab (fun f => { f with helloSaid := f.helloSaid.map (fun e => (e.1, { e.2 with withdrawing := false })) })
    if dfpOn s then announceLinks s else s
  else s

/-- Every copy that is queued, of any class, is discarded (R555 step 5). -/
def dropQueued (s : State) : State :=
  (List.range 76).foldl (fun s p => flushPort p s) s

/-- Begin an entry: into S1 or S2 nothing stops (R556); into S3 to S5 the slices stop, the device leaves the fabric and its ports go to sleep
(R555). -/
def beginEntry (target who : Nat) (s : State) : State :=
  let s := s.modPwr (fun p => { p with entry := some { target := target, who := who, start := s.lt } })
  if target ≤ 2 then s
  else
    let s := withdrawFab 0 { s with mem := { s.mem with stopped := true } }
    portsToSleep (dropQueued s)

/-- A request of S1 to S5: its result, 0 when the entry has begun. -/
def pwrRequest (target who : Nat) (s : State) : Nat × State :=
  let s := measureDelta target s
  let r := pwrRefusal target who s
  let r := if r = 0 && 3 ≤ target && admittedHeld s then 5 else r
  if r = 0 then (0, beginEntry target who s) else (r, pwrRefused r s)

/-! Leaving (R558, R559). -/

/-- Does a trigger act in a state (R559)? Which wake events act in S5 is decided where they are recognised. (DEDUCED, log entry 72) -/
def triggers (cause n : Nat) : Bool :=
  if n = 0 || 5 < n then false
  else if cause ≤ 3 then decide (n ≤ 2)
  else if cause = 4 then true
  else if cause = 5 then decide (n = 3)
  else if cause = 6 then decide (n = 3) || decide (n = 4)
  else if cause ≤ 8 then decide (n ≤ 4)
  else false

/-- An entry is aborted (R558): the ports return to what their clusters give, the slices pass frames, the fabric is rejoined. -/
def abortEntry (e : Entering) (cause : Nat) (s : State) : State :=
  let s := (s.modPwr (fun p => { p with entry := none })).bump PWR_ABORTED
  let s := if e.target ≤ 2 then s else rejoinFab (portsByCluster (slicesGo s))
  raise 0x0E07 0 (evPay [(16, 1, e.target), (17, 1, cause), (18, 1, 1)]) s

/-- An exit begins: its ramps queue (R565). -/
def startExit (cause : Nat) (s : State) : State :=
  let n := s.pwr.state
  grantRamps (s.modPwr (fun p => { p with
    exit := some { left := n, cause := cause, start := s.lt, warm := if cause = 8 then some 2 else none },
    ramps := (rampList n).length, ramping := 0 }))

/-- A trigger: it aborts an entry into a state that it would leave, starts an exit, or joins the one that runs. -/
def trigger (cause : Nat) (s : State) : State :=
  match s.pwr.entry with
  | some e => if triggers cause e.target then abortEntry e cause s else s
  | none =>
    match s.pwr.exit with
    | some x =>
      if cause = 8 && triggers cause s.pwr.state then s.modPwr (fun p => { p with exit := some { x with warm := some 2 } }) else s
    | none => if triggers cause s.pwr.state then startExit cause s else s

/-- A ramp completes: the island is on, and a queued ramp is granted. -/
def rampDone (s : State) : State :=
  match s.pwr.exit with
  | some x =>
    if 0 < s.pwr.ramping then
      let l := rampList x.left
      let done := l.length - s.pwr.ramps - s.pwr.ramping
      let s := s.setFld (islandFld ((l[done]?).getD 53)) 0
      grantRamps (s.modPwr (fun p => { p with ramping := p.ramping - 1 }))
    else s
  | none => s

/-- The commit point of an entry (R555 step 8): what the state does not keep is lost. (DEDUCED, log entry 51) -/
def commitEntry (e : Entering) (s : State) : State :=
  let s := s.bump PWR_ENTRIES
  let s := if 3 ≤ e.target then (deepLose (min 4 e.target) s).setFld GLB_STATUS.SUP_RUN 0 else s
  let s := s.modPwr (fun p => { p with entry := none, state := e.target, stateAt := s.lt })
  showIslands e.target s

/-- The estimate of the sleep timebase may be off (R233): a free error of up to 2 % of the time in the state and 31 µs, on each scale; each
resumed value is rounded down to an even number of ns. (DEDUCED, log entry 51) -/
def timeResume (span : Nat) (s : State) : State :=
  let m := span / 50 + 31000
  let err (k : Nat) : Int := (Config.freeValue (s.free + k) % (2 * m + 1) : Nat) - (m : Int)
  let lt := ((s.time.lt : Int) + err 0).toNat
  let dom (d : DomSt) (k : Nat) : DomSt := { domDefault lt d with val := ((d.val : Int) + err k * 2 ^ 48).toNat / 2 ^ 49 * 2 ^ 49, was := [] }
  { s.drewN 3 with time := { s.time with running := true, lt := lt / 2 * 2, d0 := dom s.time.d0 1, d1 := dom s.time.d1 2 } }

/-- What every exit shows: the state left, the cause, the time. -/
def exitShow (x : Leaving) (us : Nat) (s : State) : State :=
  let s := ((s.setFld PWR_STATUS.LAST_STATE x.left).setFld PWR_STATUS.LAST_CAUSE x.cause).setFld PWR_STATUS.LAST_EXIT_US (min 65535 us)
  s.modPwr (fun p => { p with tell := some x })

/-- An exit from S1 to S4 ends: the device is in S0. The queues of S1 and S2 go on; after S3 firmware resumes, after S4 it boots (R564).
(DEDUCED, log entry 104) -/
def finishExit (x : Leaving) (s : State) : State :=
  let ms := (s.lt - s.pwr.stateAt) / 1000000
  let us := (s.lt - x.start) / 1000
  let span := x.start - s.pwr.stateAt
  let s := s.bumpBy (PWR_RESIDENCY (x.left - 1)) ms
  let s := showIslands 0 (s.modPwr (fun p => { p with exit := none, state := 0, stateAt := s.lt, ramps := 0, ramping := 0, active := s.lt }))
  let s := exitShow x us s
  let s := if 3 ≤ x.left then timeResume span s else s
  let s := if x.left = 3 then supShow 2 true s else s
  let s := if x.left = 4 then supShow 4 false (s.modSup (fun p => { p with restartAt := some s.lt })) else s
  if triadRun s then raiseExit s else s

end Sys2Proof.Machine
end

