-- ==== Sys2Proof/Machine/Rings.lean ====
section
/-! DEFINITION. Rings, doorbells, completions, events and interrupts of the hosts (chapter 03). -/

namespace Sys2Proof.Machine

/-! Rings (R84 to R88). -/

/-- A ring. -/
def State.ring (s : State) (h : HostId) (qs r : Nat) : RingSt := kgetD (s.host h).rings (qs * 4 + r) {}

/-- Change a ring. -/
def State.modRing (s : State) (h : HostId) (qs r : Nat) (f : RingSt → RingSt) : State :=
  s.modHost h (fun x => { x with rings := kmod x.rings (qs * 4 + r) {} f })

/-- The size of a ring. -/
def ringSize (s : State) (h : HostId) (qs r : Nat) : Nat := 2 ^ s.fld (RING_CFG.SIZE_LOG2 h.val qs r)

/-- The address of an entry. -/
def ringAddr (s : State) (h : HostId) (qs r i : Nat) : Nat :=
  s.reg (RING_BASE_LO h.val qs r) + s.reg (RING_BASE_HI h.val qs r) * 2 ^ 32 + 32 * (i % ringSize s h qs r)

/-- Is a ring in Running? -/
def isRunning (s : State) (h : HostId) (qs r : Nat) : Bool := decide ((s.ring h qs r).state = .running)

/-- Are a host's rings served: the link, Bus Master Enable and `EN` (R78, `HOST_CTRL`), outside S3 and deeper (R91)? -/
def served (s : State) (h : HostId) : Bool :=
  (s.host h).linkUp && (s.host h).bme && s.flag (HOST_CTRL.EN h.val) && decide (s.pwr.state ≤ 2)

/-- A ring enters Error (R88). (DEDUCED, log entry 111) -/
def ringError (h : HostId) (qs r cause : Nat) (s : State) : State :=
  let s := s.modRing h qs r (fun x => { x with state := .error, cause := cause })
  raise 0x0C01 2 (evPay [(16, 1, h.val), (17, 1, qs), (18, 1, r), (19, 1, cause), (20, 4, (s.ring h qs r).dev)]) s

/-- A ring is enabled (R87): its size is legal, which is asked first, and the EVQ of a TXQ or CMDQ runs. Its indices start at 0, and the slot's index word is
ignored until a new generation (R94). An EVQ in Stopping or Error counts as disabled. (DESIGN CHOICE, log entry 128) -/
def ringEnable (h : HostId) (qs r : Nat) (s : State) : State :=
  let n := s.fld (RING_CFG.SIZE_LOG2 h.val qs r)
  if n < 6 || 16 < n then ringError h qs r 4 (s.modRing h qs r (fun _ => {}))
  else if (r = 0 || r = 2) && !isRunning s h qs 3 then ringError h qs r 1 (s.modRing h qs r (fun _ => {}))
  else s.modRing h qs r (fun _ => { state := .running, waitGen := true })

/-- `EN` 0 in `RING_CFG` (R88, R515). -/
def ringStop (h : HostId) (qs r : Nat) (s : State) : State :=
  let s := match (s.ring h qs r).state with
    | .running => s.modRing h qs r (fun x => { x with state := .stopping })
    | .error => s.modRing h qs r (fun x => { x with state := .disabled, cause := 0 })
    | _ => s
  handleIf 0x0C03 (handleIf 0x0C01 s)

/-- A write to `RING_CFG` once its fields are stored. -/
def ringCfgAct (h : HostId) (qs r : Nat) (s : State) : State :=
  if s.flag (RING_CFG.EN h.val qs r) then
    (if (s.ring h qs r).state = .disabled then ringEnable h qs r s else s)
  else ringStop h qs r s

/-- A write to `RING_CFG`. -/
def ringCfgWrite (h : HostId) (qs r v : Nat) (s : State) : State :=
  let a := RING_CFG h.val qs r
  let keep := bits v 21 16 * 2 ^ 16 + bits v 12 8 * 2 ^ 8 + v % 4
  ringCfgAct h qs r (s.setReg a keep)

/-- RING_ENABLE: the write sets `EN`. -/
def execRingEnable (h : HostId) (qs : Nat) (r : Nat) (value : Nat) (s : State) : Res :=
  if qs < 64 && r < 4 && bit value 0 then .next (ringCfgWrite h qs r value s) else .next s

/-- RING_STOP: the write clears `EN`. -/
def execRingStop (h : HostId) (qs : Nat) (r : Nat) (value : Nat) (s : State) : Res :=
  if qs < 64 && r < 4 && !bit value 0 then .next (ringCfgWrite h qs r value s) else .next s

/-- Are all fetched entries of a ring done? -/
def ringDrained (s : State) (h : HostId) (qs r : Nat) : Bool :=
  if r = 0 then !(s.host h).txDone.any (fun d => d.qs = qs)
  else if r = 2 then !(s.host h).cmds.any (fun c => c.qs = qs)
  else true

/-- RING_STOPPING_DONE (R87). -/
def execRingStoppingDone (h : HostId) (qs : Nat) (r : Nat) (s : State) : Res :=
  if decide ((s.ring h qs r).state = .stopping) && ringDrained s h qs r then
    .next (s.modRing h qs r (fun x => { x with state := .disabled }))
  else .next s

/-- BUS_MASTER_DISABLE (R78). -/
def execBusMasterDisable (h : HostId) (s : State) : Res :=
  let stop (e : Nat × RingSt) : Nat × RingSt := if e.2.state = .running then (e.1, { e.2 with state := .stopping }) else e
  .next (s.modHost h (fun x => { x with bme := false, rings := x.rings.map stop }))

/-! Doorbells (R89 to R94). -/

/-- The queue sets with a ring in Running, as a mask. -/
def activeSets (s : State) (h : HostId) : Nat :=
  listMask (((s.host h).rings.filter (fun e => e.2.state = .running)).map (fun e => e.1 / 4)).eraseDups

/-- The address of a doorbell slot (R89). -/
def slotAddr (s : State) (h : HostId) (slot : Nat) : Nat := s.fld (HOST_DB_BASE_LO.ADDR h.val) * 4096 + s.reg (HOST_DB_BASE_HI h.val) * 2 ^ 32 + 64 * slot

/-- Ascending slot numbers as runs, each with its first slot and its length. -/
def slotRuns : List Nat → List (Nat × Nat)
  | [] => []
  | x :: r => match slotRuns r with
    | (f, n) :: t => if f = x + 1 then (x, n + 1) :: t else (x, 1) :: (f, n) :: t
    | [] => [(x, 1)]

/-- Issue a read of doorbell slots, one request for each run of slots (R89, R91). -/
def readSlots (h : HostId) (again : Bool) (l : List Nat) (s : State) : State :=
  let s := s.modHost h (fun x => { x with readNo := x.readNo + 1, slots := l.foldl (fun m q => kput m q (x.readNo, again)) x.slots })
  (slotRuns l).foldl (fun s e => s.emit (.hostRead h (slotAddr s h e.1) (64 * e.2))) s

/-- A trigger of R91: a fetch, or exactly one further fetch after the one in flight. -/
def doorbellFetch (h : HostId) (s : State) : State :=
  if !served s h || !s.flag (HOST_CTRL.DB_EN h.val) then s
  else if (s.host h).slots.any (fun e => !e.2.2) then s.modHost h (fun x => { x with fetchMore := true })
  else readSlots h false (maskList (activeSets s h) 64) s

/-- The period of the doorbell fetch in ns (R91, `HOST_DB_POLL`). -/
def pollPeriod (s : State) (h : HostId) : Nat :=
  if s.pwr.state = 0 then s.fld (HOST_DB_POLL.DB_POLL h.val) * 250 else s.fld (HOST_DB_POLL.IDLE_POLL h.val) * 1000

/-- DOORBELL_POLL_TIMER. -/
def execDoorbellPollTimer (h : HostId) (s : State) : Res :=
  if served s h && decide ((s.host h).lastPoll + pollPeriod s h ≤ s.lt) then
    .next (doorbellFetch h (s.modHost h (fun x => { x with lastPoll := s.lt })))
  else .next s

/-- A slot's copy has come; the fetch ends with its last slot. -/
def slotArrived (h : HostId) (slot : Nat) (s : State) : State :=
  let s := s.modHost h (fun x => { x with slots := kdel x.slots slot })
  if !(s.host h).slots.any (fun e => !e.2.2) && (s.host h).fetchMore then doorbellFetch h (s.modHost h (fun x => { x with fetchMore := false })) else s

/-- A ring has new work, from a doorbell read of this number. -/
def newWork (no v : Nat) (x : RingSt) : RingSt := { x with hostIdx := v, reads := if v = x.hostIdx then x.reads else x.reads ++ [(no, v)] }

/-- Take one ring's index word from an accepted slot (R93, R94). -/
def takeIndex (h : HostId) (qs no : Nat) (newGen : Bool) (s : State) (e : Nat × Nat) : State :=
  let (r, v) := e
  let x := s.ring h qs r
  if x.state ≠ .running || (x.waitGen && !newGen) then s
  else
    let back := decide (2 ^ 31 ≤ (v + 2 ^ 32 - x.hostIdx) % 2 ^ 32)
    let out := if r = 3 then (x.dev + 2 ^ 32 - v) % 2 ^ 32 else (v + 2 ^ 32 - x.dev) % 2 ^ 32
    let s := s.modRing h qs r (fun x => { x with waitGen := false })
    if back || ringSize s h qs r < out then ringError h qs r 2 s else s.modRing h qs r (newWork no v)

/-- An accepted slot, from the doorbell read of a number (R90). -/
def acceptSlot (h : HostId) (slot no : Nat) (page : Bytes) (s : State) : State :=
  let g := leAt page 0 4
  let new := decide (kget (s.host h).slotGen slot ≠ some g)
  let s := s.modHost h (fun x => { x with slotGen := kput x.slotGen slot g })
  [(0, leAt page 4 4), (1, leAt page 8 4), (2, leAt page 12 4), (3, leAt page 16 4)].foldl (takeIndex h slot no new) s

/-- DOORBELL_SLOT_READ: the copy of a slot that was read. One that a fetch read and that is rejected is read again 250 ns later; a rejected second
read waits for the next fetch (R90). -/
def execDoorbellSlotRead (h : HostId) (slot : Nat) (page : Bytes) (s : State) : Res :=
  match kget (s.host h).slots slot with
  | none => .next s
  | some (no, again) =>
    let s := slotArrived h slot s
    if leAt page 0 4 = leAt page 60 4 then .next (acceptSlot h slot no page s)
    else if again then .next s
    else .next (s.modHost h (fun x => { x with reread := x.reread ++ [(slot, s.lt + 250)] }))

/-- DOORBELL_REREAD (R90): a slot's second read; it follows a copy of the slot that is still on its way. (DEDUCED, log entry 53) -/
def execDoorbellReread (h : HostId) (slot : Nat) (s : State) : Res :=
  if (s.host h).reread.any (fun e => e.1 = slot && decide (e.2 ≤ s.lt)) && !khas (s.host h).slots slot && served s h then
    .next (readSlots h true [slot] (s.modHost h (fun x => { x with reread := removeFirst (fun e => e.1 = slot) x.reread })))
  else .next s

/-- A write to `HOST_WAKE_HINT` (R91, R92) that names a slot with a running ring: a doorbell fetch, or one further fetch after the one on its way.
(DEDUCED, log entry 53) -/
def wakeHint (h : HostId) (v : Nat) (s : State) : State := if bit (activeSets s h) (v % 64) then doorbellFetch h s else s

/-- HOST_WAKE_HINT. -/
def execHostWakeHint (h : HostId) (value : Nat) (s : State) : Res := .next (wakeHint h value s)

/-! Interrupts (R117, R118). -/

/-- A vector fires: its message leaves, or its pending bit is set while it is masked or no DMA may be issued (R78, R118). (PRESUMED, log entry 17) -/
def vecFire (h : HostId) (v : Nat) (s : State) : State :=
  let masked := s.flag (MSIX_CTRL.MASK h.val v) || !canDma s h
  let s := s.modHost h (fun x => { x with vecs := kput x.vecs v {} })
  if masked then s.setReg (MSIX_PBA h.val (v / 32)) (orBit (s.reg (MSIX_PBA h.val (v / 32))) (v % 32))
  else s.emit (.msix h (s.reg (MSIX_ADDR_LO h.val v) + s.reg (MSIX_ADDR_HI h.val v) * 2 ^ 32) (s.reg (MSIX_DATA h.val v)))

/-- An entry counts towards its ring's vector. -/
def countVec (h : HostId) (qs r : Nat) (s : State) : State :=
  if s.flag (RING_CFG.IRQ_EN h.val qs r) then
    let v := s.fld (RING_CFG.VEC h.val qs r)
    let x := kgetD (s.host h).vecs v {}
    let x := { x with count := x.count + 1, first := if x.count = 0 then s.lt else x.first }
    let s := s.modHost h (fun y => { y with vecs := kput y.vecs v x })
    if s.fld (HOST_MOD.COUNT h.val v) ≤ x.count then vecFire h v s else s
  else s

/-- MSIX_TIME_FIRE. -/
def execMsixTimeFire (h : HostId) (v : Nat) (s : State) : Res :=
  let x := kgetD (s.host h).vecs v {}
  let t := s.fld (HOST_MOD.TIME h.val v)
  if x.count ≠ 0 && t ≠ 0 && x.first + t * 1000 ≤ s.lt then .next (vecFire h v s) else .next s

/-- A vector is unmasked: a pending one fires (R118). (PRESUMED, log entry 17) -/
def vecUnmask (h : HostId) (v : Nat) (s : State) : State :=
  if !s.flag (MSIX_CTRL.MASK h.val v) && canDma s h && bit (s.reg (MSIX_PBA h.val (v / 32))) (v % 32) then
    let s := s.setReg (MSIX_PBA h.val (v / 32)) (clrBit (s.reg (MSIX_PBA h.val (v / 32))) (v % 32))
    vecFire h v s
  else s

/-! Entries (R105 to R111). -/

/-- Are events written: firmware runs, or waits for an image in the recovery loader (R116, R505)? -/
def eventsFlow (s : State) : Bool := triadRun s || decide (s.fld SUP_STATUS.STATE = 5)

/-- The free entries of an EVQ, and those not reserved (R108). -/
def evqFree (s : State) (h : HostId) (qs : Nat) : Nat :=
  let x := s.ring h qs 3
  ringSize s h qs 3 - (x.dev + 2 ^ 32 - x.hostIdx) % 2 ^ 32
def evqRoom (s : State) (h : HostId) (qs : Nat) : Bool :=
  isRunning s h qs 3 && decide (kgetD (s.host h).resv qs 0 < evqFree s h qs)

/-- Was an event raised while a command ran that started at an event sequence number (R114)? (DESIGN CHOICE, log entry 18) -/
def raisedSince (n : Nat) (e : Entry) : Bool := decide (e.kind = .event) && decide ((e.status + 65536 - n) % 65536 < 32768)

/-- May an entry be written now, where `l` are the entries ahead of it? An event waits while firmware is paused or restarts (R116) and while its EVQ
has no unreserved room (R109); a completion waits behind the events that its command raised for the same EVQ (R114). (DESIGN CHOICE, log entry
18) -/
def entryFits (s : State) (h : HostId) (l : List Entry) (e : Entry) : Bool :=
  if e.kind = .event then eventsFlow s && evqRoom s h e.qs
  else isRunning s h e.qs 3 && decide (0 < evqFree s h e.qs) &&
    !(e.since.elim false (fun n => l.any (fun y => y.qs = e.qs && raisedSince n y)))

/-- The first waiting entry that may be written, after those ahead of it. -/
def firstFit (s : State) (h : HostId) : List Entry → List Entry → Option Entry
  | _, [] => none
  | l, e :: r => if entryFits s h l e then some e else firstFit s h (l ++ [e]) r

/-- Write an entry of a ring's current position, as two writes (R106), and advance. (DESIGN CHOICE, log entry 115) -/
def putEntry (h : HostId) (qs r : Nat) (b : Bytes) (s : State) : State :=
  let i := (s.ring h qs r).dev
  let a := ringAddr s h qs r i
  let phase := 1 - i / ringSize s h qs r % 2
  let s := (s.emit (.hostWrite h a (slice b 0 28))).emit (.hostWrite h (a + 28) (slice b 28 3 ++ [byte phase]))
  countVec h qs r (s.modRing h qs r (fun x => { x with dev := (x.dev + 1) % 2 ^ 32 }))

/-- Write one EVQ entry, a command's reply ahead of it; a completion gives back its reservation and triggers a doorbell fetch (R91, R108). Where the
write of the reply fails, the completion says `DMA` and that no byte of it was written (R107). (DESIGN CHOICE, log entry 134) -/
def writeEntry (h : HostId) (failed : Bool) (e : Entry) (s : State) : State :=
  let e := if failed && !e.reply.isEmpty then { e with status := stDma, payload := zeros 12 } else e
  let s := if e.reply.isEmpty then s else s.emit (.hostWrite h e.replyAt e.reply)
  let s := putEntry h e.qs 3 (entryHead e) s
  if e.kind = .event then s
  else doorbellFetch h (s.modHost h (fun x => { x with resv := kmod x.resv e.qs 0 (fun n => n - 1) }))

/-- The EVQ that takes the overflow entry: the first that has room once an endpoint's loss has emptied the wait (R111); else that of the first
waiting event that has room again (R110). -/
def overflowSet (s : State) (h : HostId) : Option Nat :=
  if !eventsFlow s then none
  else if (s.host h).lostAll then (List.range 64).find? (fun qs => evqRoom s h qs)
  else ((s.host h).waiting.find? (fun e => e.kind = .event && evqRoom s h e.qs)).map (fun e => e.qs)

/-- The overflow entry: an F1 event of its own (R110). (DESIGN CHOICE, log entry 18) -/
def overflowEntry (h : HostId) (qs : Nat) (s : State) : State :=
  let n := (s.host h).lostPend
  let pay := evPay [(16, 1, h.val), (20, 4, min (2 ^ 32 - 1) n)]
  let t := s.scale (s.hostDom h)
  let s := recordEvent 0x0C02 1 pay t false s
  let e := { eventEntry s h 0x0C02 1 pay t with qs := qs }
  writeEntry h false e (s.modHost h (fun x => { x with lostPend := 0, lostAll := false, seq := (x.seq + 1) % 65536 }))

/-- Write the first waiting entry that has room; the overflow entry goes before any event (R109, R110). (DESIGN CHOICE, log entry 18) -/
def eventWrite (h : HostId) (failed : Bool) (s : State) : State :=
  let lost := if (s.host h).lostPend ≠ 0 then overflowSet s h else none
  match lost with
  | some qs => overflowEntry h qs s
  | none =>
    match firstFit s h [] (s.host h).waiting with
    | some e => writeEntry h failed e (s.modHost h (fun x => { x with waiting := removeFirst (fun y => y = e) x.waiting }))
    | none => s

/-- A fetched command whose entry is at fault starts in its turn, and completes with its status (R112, R644). (DESIGN CHOICE, log entry 2) -/
def faultyDue (s : State) (h : HostId) : Option (CmdRec × Nat) :=
  (s.host h).cmds.findSome? (fun r => r.bad.bind (fun st => if !starts s r.opcode || recWaits s h r then none else some (r, st)))

/-- Complete the commands of a host whose entries are at fault and whose turn has come. -/
def faultyDone (h : HostId) : Nat → State → State
  | 0, s => s
  | n + 1, s => match faultyDue s h with
    | some (r, st) => faultyDone h n (complete r.ctx r.opcode st [] s)
    | none => s

/-- Complete every one. -/
def faultyAll (h : HostId) (s : State) : State := faultyDone h (s.host h).cmds.length s

/-- EVENT_WRITE. `failed` says that the write of the reply ahead of the entry failed (R107). -/
def execEventWrite (h : HostId) (failed : Bool) (s : State) : Res :=
  if served s h then .next (eventWrite h failed (faultyAll h s)) else .next s

/-- Write every entry that has room. -/
def writeAll (h : HostId) : Nat → State → State
  | 0, s => s
  | n + 1, s => writeAll h n (eventWrite h false s)

/-- What waits for a host is written as far as there is room. -/
def writeWaiting (h : HostId) (s : State) : State := if served s h then writeAll h ((s.host h).waiting.length + 1) s else s

/-! Commands and frames of the host (R95 to R99, R103, R104). -/

/-- Has a TXQ or CMDQ an entry that may be fetched: it runs, its EVQ runs, there is work, and an EVQ entry can be reserved (R87, R108)? -/
def canFetch (s : State) (h : HostId) (qs r : Nat) : Bool :=
  served s h && decide (s.pwr.state = 0) && isRunning s h qs r && isRunning s h qs 3 && evqRoom s h qs &&
  decide ((s.ring h qs r).hostIdx ≠ (s.ring h qs r).dev)

/-- Fetch one entry: the device's index advances. -/
def fetchOne (h : HostId) (qs r : Nat) (s : State) : State :=
  let s := { s with pwr := { s.pwr with active := s.lt } }
  s.modRing h qs r (fun x => { x with dev := (x.dev + 1) % 2 ^ 32, reads := x.reads.filter (fun e => e.2 ≠ (x.dev + 1) % 2 ^ 32) })

/-- Reserve an EVQ entry. -/
def reserveEvq (h : HostId) (qs : Nat) (s : State) : State :=
  s.modHost h (fun x => { x with resv := kmod x.resv qs 0 (fun n => n + 1) })

/-- The opcodes of R119 and of the chapters it names. -/
def knownOpcode (op : Nat) : Bool :=
  let g := op / 256
  let n := op % 256
  let most := match g with
    | 2 => 7 | 3 => 4 | 4 => 3 | 5 => 3 | 6 => 5 | 7 => 2 | 8 => 5 | 9 => 7 | 10 => 2 | 11 => 1 | 13 => 4 | 14 => 2 | 15 => 4 | _ => 0
  decide (1 ≤ n) && decide (n ≤ most)

/-- The number of the doorbell read that gave a ring the work that it fetches next. -/
def workRead (s : State) (h : HostId) (qs r : Nat) : Nat := ((s.ring h qs r).reads.head?.map (fun e => e.1)).getD 0

/-- Is it a queue set's turn among the CMDQs of a host that have work: the oldest doorbell read first, and within one in ascending order (R113)?
(DESIGN CHOICE, log entry 2) -/
def cmdqTurn (s : State) (h : HostId) (qs : Nat) : Bool :=
  canFetch s h qs 2 && (List.range 64).all (fun q => !canFetch s h q 2 ||
    decide (workRead s h qs 2 < workRead s h q 2 ∨ (workRead s h qs 2 = workRead s h q 2 ∧ qs ≤ q)))

/-- The status with which a fetched entry completes whatever its command's own checks (R103, R644); none where the command may start. `par` is none
when the parameters could not be read. -/
def entryStatus (s : State) (c : CmdCtx) (op plen : Nat) (par : Option Bytes) : Option Nat :=
  if !knownOpcode op then some stOpcode
  else if !cmdAllowed s c op then some stDenied
  else if 4096 < plen || 65536 < c.rlen then some stParam
  else if par.isNone && plen ≠ 0 then some stDma
  else none

/-- CMDQ_FETCH (R103, R104, R112, R113, R644): the entry and its parameters are read once; the command then starts in its turn, by the row of its
opcode, or completes in its turn where the entry is at fault. -/
def execCmdqFetch (h : HostId) (qs : Nat) (entry : Bytes) (par : Option Bytes) (s : State) : Res :=
  if !cmdqTurn s h qs || !triadRun s then .next s
  else
    let op := leAt entry 0 2
    let plen := leAt entry 6 2
    let c : CmdCtx := { who := .host h qs, tag := leAt entry 2 2, rlen := leAt entry 8 4, raddr := leAt entry 24 8,
                        par := slice (par.getD []) 0 plen }
    let r : CmdRec := { seq := s.bus.fetched, qs := qs, opcode := op, ctx := c, fence := bit (byteAt entry 4) 0,
                        bad := entryStatus s c op plen par }
    let s := reserveEvq h qs (fetchOne h qs 2 s)
    let s := hostFetch c (leAt entry 16 8) (if 4096 < plen then 0 else plen) s
    let s := ({ s with bus := { s.bus with fetched := s.bus.fetched + 1 } }).modHost h (fun x => { x with cmds := x.cmds ++ [r] })
    .next (faultyAll h s)

/-- Is it a queue set's turn among the TXQs of a host that have work (R99)? -/
def txqTurn (s : State) (h : HostId) (qs : Nat) : Bool :=
  let l := (List.range 64).map (fun i => ((s.host h).txqLast + 1 + i) % 64)
  decide (l.find? (fun q => canFetch s h q 0) = some qs)

/-- The checks of R97 and R383. (DEDUCED, log entry 111) -/
def descOk (d data : Bytes) : Bool :=
  let len := leAt d 8 2
  let fmt := bit (byteAt d 10) 2
  decide (byteAt d 16 ≤ 71) &&
  (if fmt then
     decide (48 ≤ len) && decide (len ≤ 2096) && decide (len = 48 + leAt data 8 2) && decide (1 ≤ byteAt data 0 % 8) && decide (byteAt data 0 % 8 ≤ 5) &&
     decide (byteAt data 1 = 48) && decide (ihTc data ≤ 4)
   else decide (14 ≤ len) && decide (len ≤ 9600))

/-- An internal frame of a host as the device completes it (R383): `TS_NS`, `TS_SEC`, `ROUTE` and `BUS` are the device's. -/
def hostIh (s : State) (data : Bytes) (t : Stamp) : Bytes :=
  patch (patch (patch data 2 [0]) 22 [255, 255]) 32 (slice (tsBytes s t) 0 10)

/-- The frame that a descriptor names. -/
def txPkt (s : State) (h : HostId) (d data : Bytes) (tx : Option (HostId × Nat)) : Pkt :=
  let fmt := bit (byteAt d 10) 2
  let data := slice data 0 (leAt d 8 2)
  let t := s.stamp false
  { bytes := if fmt then hostIh s data t else data, internal := fmt, inPort := hostPort h, start := t, arrive := s.lt,
    cls := if bit (byteAt d 10) 3 then some (byteAt d 11 % 8) else none,
    dest := if bit (byteAt d 10) 4 then some (byteAt d 16) else none, tx := tx }

/-- A TX completion takes its place in ring order (R98, R99). -/
def txCompletion (h : HostId) (qs : Nat) (d : Bytes) (status : Nat) (ready : Bool) (s : State) : State :=
  let t := s.scale (s.hostDom h)
  let x := s.host h
  let e : TxDone := { id := x.txNext, qs := qs, cookie := leAt d 12 4, idxAfter := (s.ring h qs 0).dev, ready := ready,
                      status := status, ns := nsOf t, secLo := secOf t % 2 ^ 32 }
  let s := s.setHost h { x with txNext := x.txNext + 1, txDone := x.txDone ++ [e] }
  txFlush h qs (s.host h).txDone.length s

/-- TXQ_DESCRIPTOR (R95 to R99): `data` is what host memory holds at `ADDR`. A frame without room in staging, or
while the slices are stopped, waits in its ring. -/
def execTxqDescriptor (h : HostId) (qs : Nat) (desc : Bytes) (data : Bytes) (s : State) : Res :=
  if !txqTurn s h qs || (descOk desc data && (s.mem.stopped || !stagingRoom s (hostPort h) (leAt desc 8 2))) then .next s
  else
    let s := (fetchOne h qs 0 s).modHost h (fun x => { x with txqLast := qs })
    let ts := bit (byteAt desc 10) 1
    let cq := ts || bit (byteAt desc 10) 0
    if !descOk desc data then .next (txCompletion h qs desc stParam true (reserveEvq h qs s))
    else
      let id := (s.host h).txNext
      let x := txPkt s h desc data (if ts then some (h, id) else none)
      let s := accept x s
      .next (if cq then txCompletion h qs desc stOk (!ts) (reserveEvq h qs s) else s)

/-- DMA_ERROR (R122): without a queue set, the doorbell page failed, its read ends, and every ring of the host enters Error. A ring that is in Error
stays as it is. The ring's event is raised first. (DESIGN CHOICE, log entry 128, DEDUCED, log entry 111) -/
def execDmaError (h : HostId) (qs : Option Nat) (r : Nat) (cause : Nat) (s : State) : Res :=
  let ev (q ri : Nat) (s : State) : State :=
    raise 0x0C03 2 (evPay [(16, 1, h.val), (17, 1, q), (18, 1, ri), (19, 1, cause)]) s
  match qs with
  | some q =>
    if (s.ring h q r).state = .disabled then .next s
    else .next (ev q r (if (s.ring h q r).state = .error then s else ringError h q r 3 s))
  | none =>
    let l := (s.host h).rings.filter (fun e => e.2.state = .running || e.2.state = .stopping)
    let s := s.modHost h (fun x => { x with slots := [], fetchMore := false })
    .next (ev 0xFF 0xFF (l.foldl (fun s e => ringError h (e.1 / 4) (e.1 % 4) 3 s) s))

/-! The endpoints (R76 to R79, R642). -/

/-- HOST_FLR (R79). Bus Master Enable returns to 0 with the endpoint's configuration. -/
def execHostFlr (h : HostId) (s : State) : Res := .next (hostReset h s)

/-- PCIE_LINK_DOWN (R79). -/
def execPcieLinkDown (h : HostId) (s : State) : Res :=
  .next ((hostReset h s).modHost h (fun x => { x with linkUp := false, speed := 0, width := 0 }))

/-- What an endpoint's configuration header says (R76): class code and device ID; the vendor ID is Weirapra's. -/
def pcieClassCode : Nat := 0x028000
def pcieDeviceId : Nat := 0x0872

/-- The rates and widths that an endpoint supports (R76): Gen1 to Gen4, ×1, ×2 and ×4. -/
def pcieMode (gen lanes : Nat) : Bool := decide (1 ≤ gen) && decide (gen ≤ 4) && (lanes = 1 || lanes = 2 || lanes = 4)

/-- Bus Master Enable is set: what waited for it is written, and pending vectors fire (R78, R118). -/
def dmaResume (h : HostId) (s : State) : State :=
  let l := (s.host h).dma
  let s := l.foldl (fun s e => s.emit (.hostWrite h e.1 e.2)) (s.modHost h (fun x => { x with dma := [] }))
  (List.range 64).foldl (fun s v => vecUnmask h v s) s

/-- PCIE_LINK_UP (R642): an endpoint trains, to a rate and width that it supports, while the host logic is on; what waits for a link is told.
(PRESUMED, log entry 17) -/
def execPcieLinkUp (h : HostId) (gen : Nat) (lanes : Nat) (bme : Bool) (s : State) : Res :=
  if 2 < s.pwr.state || s.rst.porLow || !pcieMode gen lanes then .next s
  else
    let s := s.modHost h (fun x => { x with linkUp := true, speed := gen, width := lanes, bme := bme })
    .next (raiseReady (if bme then dmaResume h s else s))

end Sys2Proof.Machine
end

