-- ==== Sys2Proof/Machine/Reset.lean ====
section
/-! DEFINITION. Resets of the whole device (R65 to R67, R578 to R585): the drain, the warm reset, and what a power-on reset loses. -/

namespace Sys2Proof.Machine

/-! The own fence line and the role at a start (R360, R362, R364, R365). -/

/-- Does this unit pull its own line: F3, `FENCE`, or a role that is fenced (a Waking unit until its restore ends)? -/
def lineNeeded (s : State) : Bool :=
  let r := s.fld PAIR_STATUS.ROLE
  s.flt.f3 || s.flag HOST_FAILSAFE.FENCE || (decide (2 ≤ r) && decide (r ≤ 5))

/-- The line takes the level that F3, `FENCE` and the role ask for; the destinations at ports that were up are lost with a new fence (R58). -/
def relevel (s : State) : State :=
  let need := lineNeeded s
  let t := setLine need s.pair.forced s
  if need && !s.pair.pull then portsDestsLost (portsUp s) (fenceFlush t) else t

/-- Take a role (R365); a unit with an F3 is Fenced where it would be Active. -/
def setRole (r : Nat) (s : State) : State := relevel (s.setFld PAIR_STATUS.ROLE (if r = 1 && s.flt.f3 then 5 else r))

/-- A unit starts: `MODE` acts (R364), and in cold-frame mode the unit is Syncing, fenced, until its role is decided. (DEDUCED, log entry 61) -/
def pairStart (s : State) : State :=
  let m := s.fld PAIR_CFG.MODE
  let p := s.pair
  let s := { s with pairMode := m,
                    pair := { forced := p.forced, pull := p.pull, peerLow := p.peerLow, watch := s.lt, deciding := decide (m = 1) && !p.forced } }
  let s := (s.setReg PAIR_STATUS 0).setFld PAIR_STATUS.PEER_FENCED (b2n p.peerLow.isSome)
  setRole (if m = 0 then 0 else if m = 2 then 6 else 2) s

/-! The drain (R65 to R67). -/

/-- The largest hop bound of an admitted stream here, and the drain limit in ns (R66). -/
def drainLimit (s : State) : Nat :=
  let b := (s.streams.filter (fun e => e.2.committed)).foldl (fun m e => (e.2.hops.filter (fun g => !g.tent)).foldl (fun m g => max m g.bound) m) 0
  min 20000000 (b + 100000)

/-- Is a buffer's frame, or a PDU in it, of an admitted stream? -/
def admittedBuf (b : Buf) : Bool := allocated b && (b.ofStream || b.parts.any (fun q => q.seq.isSome))

/-- Does a cell carry a copy of an admitted stream? -/
def admittedCell (s : State) (x : Cell) : Bool :=
  match x.void with
  | some _ => false
  | none => (s.buf x.buf).any admittedBuf

/-- Is every accepted frame through the pipelines, and no copy of an admitted stream held or queued? -/
def drained (s : State) : Bool :=
  s.mem.staging.all (fun e => e.2.isEmpty) && !s.mem.bufs.any (fun e => admittedBuf e.2)

/-- The copies of admitted streams that recovery holds, by stream: counted as fault discards; a void counts nowhere (R347). -/
def cutHeld (s : State) : Nat × State :=
  let count (x : Stream) : Nat := x.recov.elim 0 (fun r => ((r.held ++ r.pended).filter (fun c => !isVoid c)).length)
  let waits := s.mem.recWait.filterMap (fun w => match waitingCopy s w with
    | some (h, c) => if isVoid c then none else some h
    | none => none)
  let n := (s.streams.map (fun e => count e.2)).sum + waits.length
  let add (e : Nat × Stream) : Nat × Stream :=
    let k := count e.2 + (waits.filter (fun h => h = e.1)).length
    (e.1, { e.2 with cc := { e.2.cc with faultDiscard := e.2.cc.faultDiscard + k }, recov := e.2.recov.map (fun r => { r with held := [], pended := [] }) })
  let t := { s with streams := s.streams.map add }
  (n, { t with mem := { t.mem with recWait := [] } })

/-- The admitted copies of one queue are discarded. -/
def cutQueue (st : Nat × State) (k : Nat) : Nat × State :=
  let (n, s) := st
  let q := s.queue (k / 8) (k % 8)
  let gone := q.filter (admittedCell s)
  (n + gone.length, discardAll (k / 8) true gone (keepInQueue (k / 8) (k % 8) (q.filter (fun x => !admittedCell s x)) s))

/-- What a port sends, or its controller has loaded, is discarded; admitted copies count. -/
def cutPort (st : Nat × State) (p : Nat) : Nat × State :=
  let (n, s) := st
  let e := s.eport p
  let wire := (e.onWire ++ e.suspended.toList).map (·.cell)
  let loaded := if isCanPort p then (s.can (p - 40)).slots.map (fun e => e.2.cell)
    else if isLinPort p then (kgetD s.gw.lins (p - 64) {}).bufs.filterMap (fun e => e.2.fresh.map (·.cell))
    else if isLegacyPort p then (s.gw.frBufs.filter (fun e => e.1 % 2 = p - 70)).filterMap (fun e => e.2.fresh.map (·.cell))
    else []
  let k := ((wire ++ loaded).filter (admittedCell s)).length
  (n + k, dropSending p (if isLegacyPort p then loadedFlush p s else s))

/-- At the limit every copy of an admitted stream that is still held is discarded: their number, and the state (R67). -/
def drainCut (s : State) : Nat × State :=
  let st := cutHeld s
  let st := (s.mem.queues.map (·.1)).foldl cutQueue st
  let st := (List.range 76).foldl cutPort st
  let waits := st.2.mem.batchWait
  let adm := waits.filter (fun w => w.cell.any (admittedCell st.2))
  let t := { st.2 with mem := { st.2.mem with batchWait := [] } }
  (st.1 + adm.length, adm.foldl (fun s w => discardCopy w.port (w.cell.getD { buf := w.buf }) true s) t)

/-- The drain begins (R65): the withdrawal is announced, the slices stop, open batches close. -/
def drainStart (kind : Nat) (s : State) : State :=
  let lim := drainLimit s
  let s := withdrawFab (divUp lim 1000) s
  let s := { s with mem := { s.mem with stopped := true }, rst := { s.rst with warm := some { kind := kind, start := s.lt, limit := s.lt + lim } } }
  (s.gw.batches.map (·.1)).foldl (fun s i => batchClose i s) s

/-- A warm reset that waits for a stop window or for an activation starts once it may (R585). -/
def warmResume (s : State) : State :=
  match s.rst.waiting with
  | some k =>
    if longStop s || s.sup.act.isSome || s.sup.restartAt.isSome then s else drainStart k { s with rst := { s.rst with waiting := none } }
  | none => s

/-- A warm reset is requested in S0, with no entry in progress. -/
def warmBegin (kind : Nat) (s : State) : State :=
  let recorded := s.sup.act.any (fun a => actRecorded s a)
  if longStop s || recorded then { s with rst := { s.rst with waiting := some kind } } else drainStart kind (abandonAct s)

/-- A warm reset of a kind of R578 is requested (R580, R585): it joins one that runs; in S1 to S4 the device leaves the state first; an entry into
a state is aborted. After F3 it has no effect. (DEDUCED, log entry 58) -/
def warmStart (kind : Nat) (s : State) : State :=
  if s.flt.f3 || s.rst.warm.isSome || s.rst.waiting.isSome then s
  else
    match s.pwr.exit with
    | some x => if s.pwr.state ≤ 4 then s.modPwr (fun p => { p with exit := some { x with warm := some (x.warm.getD kind) } }) else s
    | none =>
      if s.pwr.state ≠ 0 then
        if s.pwr.state ≤ 4 then
          (startExit 8 s).modPwr (fun p => { p with exit := p.exit.map (fun x => { x with warm := some kind }) })
        else s
      else match s.pwr.entry with
        | some e => warmBegin kind (abortEntry e 8 s)
        | none => warmBegin kind s

/-! The reset itself (R583, R584). -/

/-- The slices pass frames again; the event of the start will say how long that took. -/
def warmForward (w : Warm) (s : State) : State :=
  { slicesGo s with rst := { s.rst with warm := none, boot := some (w.kind, (s.lt - w.start) / 1000, s.lt) } }

/-- The drain has ended (R583 steps 1 to 4): the event, what the reset loses, new epochs, the restart of the supervisor. (DEDUCED, log entry 61) -/
def drainDone (w : Warm) (s : State) : State :=
  let s := raise 0x0F01 0 (evPay [(20, 4, min (2 ^ 32 - 1) (s.lt - w.start)), (24, 4, w.cut)]) s
  let s := writeWaiting 0 (writeWaiting 1 s)
  let old := s.streams
  let s := warmLose s
  let s := { s with mem := { s.mem with stopped := true }, rst := { s.rst with warm := some { w with done := true } } }
  let s := epochEvents old (newEpochs (fun _ x => x.epoch + 1) s)
  let s := supRestart false s
  let s := if decide (s.fld PAIR_CFG.MODE ≠ s.pairMode) || decide (s.fld PAIR_STATUS.ROLE = 5) then pairStart s else relevel s
  if s.rst.pinLow then s else warmForward w s

/-- DRAIN_END (R583). -/
def execDrainEnd (s : State) : Res :=
  match s.rst.warm with
  | some w => if !w.done && drained s then .next (drainDone w s) else .next s
  | none => .next s

/-- DRAIN_LIMIT_EXPIRY (R67). -/
def execDrainLimitExpiry (s : State) : Res :=
  match s.rst.warm with
  | some w =>
    if !w.done && decide (w.limit ≤ s.lt) then
      let (n, s) := drainCut s
      .next (drainDone { w with cut := n } (raise 0x0F02 0 (evPay [(20, 4, n)]) s))
    else .next s
  | none => .next s

/-- WARM_RESET (R580, R601). -/
def execWarmReset (c : CmdCtx) (s : State) : Res :=
  .next (command c 0x0F03 s fun s =>
    if !plenIs c 8 || !parZero c 0 8 then complete c 0x0F03 stParam [] s
    else if s.flt.f3 then complete c 0x0F03 stState [] s
    else warmStart 3 (complete c 0x0F03 stDraining [] s))

/-- WRESET_N_ASSERT (R583, R584): ignored in S5. The pin has been low for `held` ns. (DEDUCED, log entry 146) -/
def execWresetNAssert (held : Nat) (s : State) : Res :=
  .next (if held < rstFilter s.dbg.straps then s else warmStart 2 { s with rst := { s.rst with pinLow := true } })

/-- WRESET_N_RELEASE (R584): a reset that holds goes on. -/
def execWresetNRelease (held : Nat) (s : State) : Res :=
  if held < rstFilter s.dbg.straps then .next s else
  let s := { s with rst := { s.rst with pinLow := false } }
  match s.rst.warm with
  | some w => if w.done then .next (warmForward w s) else .next s
  | none => .next s

/-- HOST_FAILSAFE_WRST (R83): a write of `WRST` over SPI. -/
def failsafeWrst (s : State) : State := warmStart 4 s
def execHostFailsafeWrst (s : State) : Res := .next (busRow .spi (failsafeWrst) s)

/-- HOST_FAILSAFE_FENCE (R83): every external output is fenced; after F3 it has no effect (R517). -/
def failsafeFence (s : State) : State := if s.flt.f3 then s else relevel (s.setFld HOST_FAILSAFE.FENCE 1)
def execHostFailsafeFence (s : State) : Res := .next (busRow .spi (failsafeFence) s)

/-! Fabric-commanded resets (R475). -/

/-- A request for a reset reaches this device: with `REMOTE_RST` 1 the drain starts, and `asker` is told; with 0 it is denied. After F3 nothing
answers. (DEDUCED, log entry 58) -/
def remoteReset (s : State) : Option Bool × State :=
  if !s.flag FAB_CFG.REMOTE_RST then (some false, s)
  else
    let t := warmStart 5 s
    (if t.rst.warm.isSome || t.rst.waiting.isSome then some true else none, t)

/-- FAB_RESET (R475). -/
def execFabReset (c : CmdCtx) (s : State) : Res :=
  .next (command c 0x0A02 s fun s =>
    let d := byteAt c.par 0
    if !plenIs c 8 || !parZero c 1 8 then complete c 0x0A02 stParam [] s
    else if hasAddr s && d = ownAddr s then
      match remoteReset s with
      | (some true, t) => complete c 0x0A02 stOk [] t
      | (some false, t) => complete c 0x0A02 stDenied [] t
      | (none, t) => farWait c 0x0A02 d t
    else sendTo d (.reset (.request (ownAddr s))) (farWait c 0x0A02 d s))

/-- RESET_MESSAGE (R475): a message for another device is relayed. -/
def execResetMessage (p : Port) (src dst : Nat) (m : ResetMsg) (s : State) : Res :=
  if !fabIn s p.val then .next s
  else if !hasAddr s || dst ≠ ownAddr s then .next (relay dst (.reset m) s)
  else match m with
    | .request asker =>
      match remoteReset s with
      | (some ok, t) => .next (sendTo asker (.reset (.answer ok)) t)
      | (none, t) => .next t
    | .answer ok => .next (farAnswer 0x0A02 src (if ok then stOk else stDenied) [] s)

/-! Power-on reset (R579). -/

/-- An activation that power loss meets: the settings copy of its second step is in flash, and the record once it is written (R506, R509). -/
def actCut (s : State) : State :=
  match s.sup.act with
  | some a =>
    if a.phase ≠ 2 then s
    else
      let s := if a.pauseAt + 5000000 ≤ s.lt then s.modSup (fun p => { p with setGen := p.setGen + 1 }) else s
      if actRecorded s a then writeRec a.slot 3 s else s.modSup (fun p => { p with cut := true })
  | none => s

/-- What a POR loses: all but class A, what flash holds, and the levels of pins. (DEDUCED, log entry 58, DEDUCED, log entry 76) -/
def porLose (s00 : State) : State :=
  let s0 := actCut s00
  let l : Lost := { k := true, h := true, s := true }
  { pending := s0.pending, free := s0.free, out := s0.out, regs := regsRetain l s0.regs, ctrs := ctrsRetain l s0.ctrs,
    flt := { crash := s0.flt.crash, crashCount := s0.flt.crashCount },
    keys := { slots := s0.keys.slots, fresh := s0.keys.fresh, writing := s0.keys.writing },
    pair := { forced := s0.pair.forced, peerLow := s0.pair.peerLow },
    flash := { s0.flash with store := none, loaded := [] },
    sup := { slots := s0.sup.slots, journal := s0.sup.journal, setVersion := s0.sup.setVersion, setGen := s0.sup.setGen, cut := s0.sup.cut },
    rst := { pinLow := s0.rst.pinLow, cause := s0.rst.cause, rail := s0.rst.rail } }

/-- The device is held in reset: outputs fenced (R579). -/
def porHold (cause rail : Nat) (s : State) : State :=
  let s := { s with rst := { s.rst with cause := cause, rail := rail } }
  let s := porLose s
  setLine true s.pair.forced { s with rst := { s.rst with porLow := true }, pwr := { s.pwr with state := 6 } }

/-- PORESET_ASSERT (R579): the pin has been low for `held` ns. (DEDUCED, log entry 146) -/
def execPoresetAssert (held : Nat) (s : State) : Res := .next (if held < rstFilter s.dbg.straps then s else porHold 0 0 s)

/-- The nominal level of a rail in mV (R567); a bank's as its strap selects, bank C's 1.8 V. -/
def railNominal (straps r : Nat) : Nat :=
  let bank (b : Bool) : Nat := if b then 3300 else 1800
  match r with
  | 0 | 2 => 750
  | 1 => 800
  | 3 => 850
  | 4 => 1200
  | 6 => 3300
  | 7 => bank (bit straps 12)
  | 8 => bank (bit straps 13)
  | 10 => bank (bit straps 14)
  | _ => 1800

/-- Is a rail below its reset level, 10 % below nominal (R567)? -/
def belowReset (straps r mv : Nat) : Bool := decide (mv * 10 < railNominal straps r * 9)

/-- Does a bank rail agree with its strap (R626)? -/
def bankAgrees (straps r mv : Nat) : Bool :=
  if r = 7 || r = 8 || r = 10 then (if railNominal straps r = 1800 then decide (mv ≤ 2200) else decide (2700 ≤ mv)) else true

/-- May the device leave POR (R619, R626): `TEST_MODE` is low, every rail lies above its reset level, and every bank agrees with its strap? -/
def supplyOk (straps : Nat) (rails : List Nat) (test : Bool) : Bool :=
  !test && (List.range 11).all (fun r => decide (railNominal straps r * 9 < nth rails r * 10) && bankAgrees straps r (nth rails r))

/-- RAIL_RESET_LEVEL (R568, R572): in S3 and S4 the rails 0 to 2 are monitored, in S5 rail 2 only. `mv` is the level of the last microsecond. -/
def execRailResetLevel (r : Fin 11) (mv : Nat) (s : State) : Res :=
  let n := s.pwr.state
  if s.rst.porLow || !belowReset s.dbg.straps r.val mv then .next s
  else if n ≤ 2 || (n ≤ 4 && decide (r.val ≤ 2)) || decide (r.val = 2) then .next (porHold 1 r.val s) else .next s

end Sys2Proof.Machine
end

