-- ==== Sys2Proof/Machine/Pair.lean ====
section
/-! DEFINITION. The pair (chapter 10): heartbeats, roles, checkpoints, takeover and handover (R360 to R373). -/

namespace Sys2Proof.Machine

/-- Change the pair's state. -/
def State.modPair (s : State) (f : PairSt → PairSt) : State := { s with pair := f s.pair }

/-- The role. -/
def pairRole (s : State) : Nat := s.fld PAIR_STATUS.ROLE

/-! Heartbeats and the role at start (R363 to R365). -/

/-- Does the always-on island run the pair bus: not in S5, or while `PORESET_N` is low? `MODE` 0 does not stop it (R363, R364). -/
def pairOn (s : State) : Bool := decide (s.pwr.state ≤ 4) && !s.rst.porLow

/-- The own heartbeat. (DEDUCED, log entry 48) -/
def ownBeat (s : State) : Heartbeat :=
  { role := pairRole s, draining := s.rst.warm.isSome, fenced := s.flag PAIR_STATUS.SELF_FENCED, seq := s.fld PAIR_CKPT_STATUS.SEQ,
    mode := s.pairMode, prefer := s.flag PAIR_CFG.PREFER, uid := ownUid }

/-- HEARTBEAT_SEND (R363): every 50 µs. -/
def execHeartbeatSend (s : State) : Res :=
  if pairOn s && decide (s.pair.sentHb + 50000 ≤ s.lt) then
    .next ((s.modPair (fun p => { p with sentHb := s.lt })).emit (.heartbeat (ownBeat s)))
  else .next s

/-- The role at start is decided. -/
def decideAs (r : Nat) (s : State) : State := setRole r (s.modPair (fun p => { p with deciding := false }))

/-- A peer is heard while the role is to be decided (R365). (DEDUCED, log entry 48) -/
def decideRole (hb : Heartbeat) (s : State) : State :=
  let prefer := s.flag PAIR_CFG.PREFER
  if hb.role = 1 || hb.role = 4 then decideAs 2 s
  else if hb.role = 3 || hb.role = 5 then decideAs 1 s
  else if prefer && !hb.prefer then decideAs 1 s
  else if !prefer && hb.prefer then decideAs 2 s
  else decideAs (if ownUid < hb.uid then 1 else 2) s

/-- The modes differ (R364): told once; a unit that has not forwarded stays fenced in Syncing. Where they agree again, such a unit of a cold-frame pair
decides its role. (DEDUCED, log entry 48) -/
def modeClash (hb : Heartbeat) (s : State) : State :=
  if hb.mode = s.pairMode then
    s.modPair (fun p => { p with mismatch := false, deciding := p.deciding || (p.mismatch && !p.forwarded && decide (s.pairMode = 1) && !p.forced) })
  else if s.pair.mismatch then s
  else
    let s := raise 0x0708 2 (evPay [(16, 1, s.pairMode), (17, 1, hb.mode)]) (s.modPair (fun p => { p with mismatch := true }))
    if s.pair.forwarded then s else decideAs 2 s

/-- `EV_PAIR_HANDOVER_READY` (R370): the Cold peer is preferred and holds the last checkpoint. -/
def handoverReady (hb : Heartbeat) (s : State) : State :=
  let ready := decide (pairRole s = 1) && decide (hb.role = 3) && hb.prefer && !s.flag PAIR_CFG.PREFER && decide (s.pair.lastCkpt ≠ 0) &&
    decide (hb.seq = s.fld PAIR_CKPT_STATUS.SEQ)
  if ready && !s.pair.readyTold then
    raise 0x0707 0 (evPay [(16, 2, hb.seq)]) (s.modPair (fun p => { p with readyTold := true }))
  else if hb.role = 3 then s
  else s.modPair (fun p => { p with readyTold := false })

/-! Takeover (R367, R368). -/

/-- The Cold unit enters Waking; in a takeover it drives `FORCE_FENCE_N`, in a handover the peer fences itself (R370). -/
def takeover (handover : Bool) (s : State) : State :=
  let s := s.modPair (fun p => { p with waitTill := none, handover := handover, told := false, busWait := true,
                                        peerLow := if handover then p.peerLow else some (p.peerLow.getD s.lt) })
  let s := if handover then s else (s.setFld PAIR_STATUS.FORCING 1).setFld PAIR_STATUS.PEER_FENCED 1
  trigger 7 (setRole 4 (s.bump PAIR_TAKEOVERS))

/-- The peer is declared lost, or its fence line fell: `EV_PAIR_PEER_LOST`. -/
def peerLostEvent (why : Nat) (s : State) : State := raise 0x0704 0 (evPay [(16, 1, why), (17, 1, pairRole s)]) s

/-- A Cold unit takes over by its peer's fence (R367): one that waits for it has declared the trigger before. -/
def takeFence (s : State) : State :=
  if s.pair.waitTill.isSome then takeover false s
  else takeover false (peerLostEvent 1 (s.modPair (fun p => { p with detected := s.lt })))

/-- A heartbeat shows Active while the peer's line reads low: a Cold unit takes over (R367). -/
def fencedActive (hb : Heartbeat) (s : State) : State :=
  if pairRole s = 3 && decide (hb.role = 1) && s.pair.peerLow.isSome then takeFence s else s

/-- HEARTBEAT_RECEIVED (R363 to R365, R367, R370). -/
def execHeartbeatReceived (hb : Heartbeat) (s : State) : Res :=
  if !pairOn s then .next s
  else
    let s := (s.modPair (fun p => { p with peer := some hb, peerUid := hb.uid, lastHb := s.lt, lost := false })).setFld PAIR_STATUS.PEER_SEEN 1
    let s := modeClash hb s
    let s := if s.pair.deciding && hb.mode = s.pairMode then decideRole hb s else s
    let s := if hb.role = 2 then s.setFld PAIR_STATUS.FORCING 0 else s
    let s := if s.pair.ckSent.any (fun k => hb.seq = k.seq) then s.modPair (fun p => { p with ckDone := p.lastCkpt }) else s
    .next (fencedActive hb (handoverReady hb s))

/-- The LT at which a peer that stays silent is lost (R363). (DEDUCED, log entry 61) -/
def lostAt (s : State) : Nat := max s.pair.lastHb s.pair.watch + s.fld PAIR_TIMERS.HB_MISS * 50000

/-- PEER_LOST (R363, R365, R367). With `MODE` 0 a unit that has heard no heartbeat has no peer to lose. (DEDUCED, log entry 48) -/
def execPeerLost (s : State) : Res :=
  if !pairOn s || s.pair.lost || s.lt < lostAt s || (s.pairMode = 0 && s.pair.peer.isNone) then .next s
  else
    let s := (s.modPair (fun p => { p with lost := true })).setFld PAIR_STATUS.PEER_SEEN 0
    if s.pair.deciding then .next (decideAs 1 s)
    else
      let s := peerLostEvent 0 (s.bump PAIR_HB_LOST)
      if pairRole s ≠ 3 then .next s
      else
        let s := s.modPair (fun p => { p with detected := s.lt })
        if s.pair.peerLow.isSome then .next (takeover false s)
        else .next (s.modPair (fun p => { p with waitTill := some (s.lt + s.fld PAIR_TIMERS.FENCE_WAIT * 10000) }))

/-- FENCE_WAIT_EXPIRY (R367). -/
def execFenceWaitExpiry (s : State) : Res :=
  match s.pair.waitTill with
  | some t => if t ≤ s.lt && decide (pairRole s = 3) then .next (takeover false s) else .next s
  | none => .next s

/-! The fence lines (R360, R361, R367, R369, R373). -/

/-- The own line is held low from outside; the destinations at ports that were up are lost (R58). -/
def ownLow (s : State) : State :=
  let r := pairRole s
  let was := s.pair.pull
  let ups := portsUp s
  let s := portsDestsLost ups (fenceFlush (setLine s.pair.pull true s))
  let s := s.modPair (fun p => { p with deciding := false })
  if r = 1 && !was then raise 0x0705 2 (evPay [(16, 1, r)]) (setRole 5 s) else s

/-- The peer's line falls: a Cold unit whose peer was Active, or that waits for this, takes over; a hot-pair unit reports it. -/
def peerLineLow (s : State) : State :=
  let s := (s.modPair (fun p => { p with peerLow := some (p.peerLow.getD s.lt) })).setFld PAIR_STATUS.PEER_FENCED 1
  let active := s.pair.peer.any (fun h => h.role = 1)
  if pairRole s = 3 && (active || s.pair.waitTill.isSome) then takeFence s
  else if s.pairMode = 2 then peerLostEvent 1 s
  else s

/-- FENCE_LINE_LOW (R360, R624): the line has been low for `held` ns. (DEDUCED, log entry 146) -/
def execFenceLineLow (own : Bool) (held : Nat) (s : State) : Res :=
  if held < fenceFilter s.dbg.straps then .next s
  else if own then (if s.pair.forced then .next s else .next (ownLow s))
  else if s.pair.peerLow.isSome then .next s
  else .next (peerLineLow s)

/-- FENCE_LINE_HIGH: the fence ends unless this unit pulls the line itself. -/
def execFenceLineHigh (own : Bool) (held : Nat) (s : State) : Res :=
  if held < fenceFilter s.dbg.straps then .next s
  else if own then .next (setLine s.pair.pull false s)
  else if s.flag PAIR_STATUS.FORCING then .next s
  else .next ((s.modPair (fun p => { p with peerLow := none })).setFld PAIR_STATUS.PEER_FENCED 0)

/-! Checkpoints (R366). -/

/-- A Committed stream as a checkpoint carries it. -/
def ckStream (e : Nat × Stream) : CkStream :=
  let x := e.2
  { handle := e.1, contract := x.contract, ingress := x.ingress, transit := x.transit, dests := x.dests, paths := x.paths,
    hops := x.hops.filter (fun g => !g.tent), len := x.len, pool := x.pool, bufs := x.quotaBufs, links := x.quotaLinks, energy := x.energy,
    stated := x.stated, sumA := x.sumA, sumB := x.sumB, skew := x.skew, epoch := x.epoch, next := x.next, recov := x.recov.map (·.skew) }

/-- The pinned and stream-owned entries of the four quadrants. -/
def ckPins (s : State) : List (Nat × Nat) :=
  (List.range 4).flatMap (fun q =>
    ((s.tab q).serve ++ (s.tab q).target).filterMap (fun e => if e.2.pin || l2Owned e.2 then some (q, l2Word e.2 false) else none))

/-- What a checkpoint in full holds now; its size is a free value of at most 192 KiB (R366, R554). (DEDUCED, log entry 62) -/
def ckptNow (seq : Nat) (s : State) : Ckpt :=
  { seq := seq, size := s.freeVal % 196609, full := true,
    streams := (s.streams.filter (fun e => e.2.committed)).map ckStream, routes := (s.tab 0).route, pins := ckPins s,
    gen := s.fld FAB_GEN.GENERATION, secs := s.fab.secs, rate0 := s.time.d0.rate, rate1 := s.time.d1.rate,
    servo := b2n s.time.d0.locked + 2 * b2n s.time.d1.locked,
    busOff := (List.range 24).filter (fun n => s.fld (LEG_CAN_STATUS.STATE n) = 2),
    lin := s.gw.lins.map (fun e => (e.1, e.2.table, e.2.entry)), images := s.gw.images.map (fun e => (e.1, e.2.data)),
    votes := s.reg WAKE_HOST_VOTE }

/-- The records of a list that another does not hold as they are. -/
def newOnes {α : Type} [DecidableEq α] (old now : List α) : List α := now.filter (fun x => !old.contains x)

/-- The delta from one content to another. -/
def ckptDelta (old now : Ckpt) : Ckpt :=
  let goneOf {α : Type} (key : α → Nat) (a b : List α) : List Nat := (a.map key).filter (fun k => !(b.map key).contains k)
  { now with full := false, streams := newOnes old.streams now.streams, routes := newOnes old.routes now.routes, pins := newOnes old.pins now.pins,
             images := newOnes old.images now.images,
             gone := (goneOf (·.handle) old.streams now.streams).map .stream ++ (goneOf (·.1) old.routes now.routes).map .route ++
               (newOnes now.pins old.pins).map (fun e => .pin e.1 e.2) ++ (goneOf (·.1) old.images now.images).map .image }

/-- How many records a delta changes. -/
def ckptChanges (c : Ckpt) : Nat := c.streams.length + c.routes.length + c.pins.length + c.images.length + c.gone.length

/-- The first n records of a delta: what one checkpoint of at most 64 KiB holds; each leaves every record, and so every section, whole. -/
def ckptCut (c : Ckpt) (n : Nat) : Ckpt :=
  let a := n - c.streams.length
  let b := a - c.routes.length
  let d := b - c.pins.length
  { c with streams := c.streams.take n, routes := c.routes.take a, pins := c.pins.take b, images := c.images.take d,
           gone := c.gone.take (d - c.images.length) }

/-- A checkpoint applied to the content that stands: one in full replaces it. -/
def ckptMerge (old c : Ckpt) : Ckpt :=
  if c.full then c
  else
    let keep {α : Type} (key : α → Nat) (gone : Nat → CkGone) (a b : List α) : List α :=
      a.filter (fun x => !(b.map key).contains (key x) && !c.gone.contains (gone (key x))) ++ b
    { c with full := true, streams := keep (·.handle) .stream old.streams c.streams, routes := keep (·.1) .route old.routes c.routes,
             pins := old.pins.filter (fun e => !c.pins.contains e && !c.gone.contains (.pin e.1 e.2)) ++ c.pins,
             images := keep (·.1) .image old.images c.images, gone := [] }

/-- What the peer is known to hold: the last checkpoint sent, where its heartbeat shows that number (R363). -/
def peerHolds (s : State) : Option Ckpt :=
  match s.pair.ckSent with
  | some c => if s.pair.peer.any (fun h => h.seq = c.seq) then some c else s.pair.ckBase
  | none => none

/-- The next checkpoint (R366): in full for a Syncing peer and where nothing is known of what the peer holds; else the delta, of which as many
changes go as 64 KiB hold when compressed, which is open as its size is. (DEDUCED, log entry 62) -/
def ckptNext (seq : Nat) (base : Option Ckpt) (s : State) : Ckpt :=
  let now := ckptNow seq s
  match s.pair.peer.any (fun h => h.role = 2), base with
  | false, some b =>
    let d := ckptDelta b now
    { ckptCut d (1 + s.freeVal / 65537 % max 1 (ckptChanges d)) with size := s.freeVal % 65537 }
  | _, _ => now

/-- Send a checkpoint. (DEDUCED, log entry 62) -/
def sendCkpt (s : State) : State :=
  let seq := (s.fld PAIR_CKPT_STATUS.SEQ + 1) % 16384
  let base := peerHolds s
  let c := ckptNext seq base s
  let s := ((s.drew.setFld PAIR_CKPT_STATUS.SEQ seq).setFld PAIR_CKPT_STATUS.SIZE c.size).bump PAIR_CKPT_OK
  (s.modPair (fun p => { p with lastCkpt := s.lt, ckBase := base, ckSent := some (ckptMerge (base.getD c) c) })).emit (.checkpoint c)

/-- The period of checkpoints in ns. -/
def ckptPeriod (s : State) : Nat := s.fld PAIR_TIMERS.CKPT_PERIOD * 1000000

/-- CHECKPOINT_SEND (R366): firmware of an Active unit, every `CKPT_PERIOD`. -/
def execCheckpointSend (s : State) : Res :=
  if pairOn s && decide (pairRole s = 1) && triadRun s && decide (s.pwr.state = 0) && decide (s.pair.lastCkpt + ckptPeriod s ≤ s.lt) then
    .next (sendCkpt s)
  else .next s

/-- A checkpoint is discarded: cause 0 CRC, 1 cut off, 2 no room in the keep store. -/
def ckptBad (seq cause : Nat) (s : State) : State :=
  raise 0x0706 1 (evPay [(16, 2, seq), (18, 1, cause)]) (s.bump PAIR_CKPT_BAD)

/-- A checkpoint that has arrived whole is applied to the keep store. -/
def ckptApply (c : Ckpt) (s : State) : State :=
  let s := ((s.setFld PAIR_CKPT_STATUS.SEQ (c.seq % 16384)).setFld PAIR_CKPT_STATUS.SIZE (c.size % 2 ^ 18)).bump PAIR_CKPT_OK
  s.modPair (fun p => { p with ckpt := some (ckptMerge (p.ckpt.getD c) c) })

/-- The Syncing unit becomes the cold frame (R365, R370 step 8): it enters S4. -/
def becomeCold (s : State) : State :=
  let s := if s.pair.handover then raise 0x0702 0 (evPay [(16, 1, 3), (17, 1, 1)]) (s.modPair (fun p => { p with handover := false })) else s
  commitEntry { target := 4, who := 1, start := s.lt } (setRole 3 (writeWaiting 0 (writeWaiting 1 s)))

/-- CHECKPOINT_RECEIVED (R366, R554): `bad` is 0 for a whole checkpoint, 1 for a wrong CRC, 2 for one that was cut off. -/
def execCheckpointReceived (c : Ckpt) (bad : Fin 3) (s : State) : Res :=
  let r := pairRole s
  if !pairOn s || (r ≠ 2 && r ≠ 3) || s.pair.deciding then .next s
  else if bad.val ≠ 0 then .next (ckptBad c.seq (bad.val - 1) s)
  else if r = 3 then .next (ckptApply c s)
  else if !c.full || s.pwr.state ≠ 0 || s.pwr.exit.isSome then .next s
  else
    let s := measureDelta 4 s
    if 60 < s.fld PWR_RESTORE.DELTA_KIB then .next (ckptBad c.seq 2 s) else .next (becomeCold (ckptApply c s))

/-! The restore of a Waking unit (R356, R368). -/

/-- A stream of a checkpoint as the unit takes it: recovery unsynced, the epoch advanced. -/
def restoreStream (add : Nat) (c : CkStream) (s : State) : State :=
  let x : Stream :=
    { contract := c.contract, phase := .committed, ingress := c.ingress, transit := c.transit, dests := c.dests, paths := c.paths,
      hops := c.hops, len := c.len, pool := c.pool, quotaBufs := c.bufs, quotaLinks := c.links, energy := c.energy, stated := c.stated,
      sumA := c.sumA, sumB := c.sumB, skew := c.skew, epoch := (c.epoch + add) % 4, next := 0, written := !c.ingress,
      recov := c.recov.map (fun k => { skew := k }) }
  let x := { x with meter := policeDepth x, meterAt := s.lt }
  let s := s.putStream c.handle x
  if c.ingress then s.modTab (homeQuad x.inPort) (fun t => (sidInsert t x.idType c.handle x.idKey).getD t)
  else (x.hops.map (·.path)).eraseDups.foldl (fun s p => sidHops c.handle p x s) s

/-- The checkpoint is restored. (DEDUCED, log entry 62) -/
def restoreCkpt (add : Nat) (c : Ckpt) (s : State) : State :=
  let s := c.streams.foldl (fun s x => restoreStream add x s) s
  let s := (List.range 4).foldl (fun s q => s.modTab q (fun t => { t with route := c.routes, lost := t.lost.filter (fun e => e.1 ≠ 2) })) s
  let s := c.pins.foldl (fun s e => (tblWrite e.1 0 e.2 true s).1) s
  let s := showRoots ((s.setFld FAB_GEN.GENERATION c.gen).modFab (fun f => { f with secs := c.secs }))
  let d0 := { s.time.d0 with rate := c.rate0, locked := bit c.servo 0 }
  let d1 := { s.time.d1 with rate := c.rate1, locked := bit c.servo 1 }
  let s := { s with time := { s.time with d0 := d0, d1 := d1 } }
  let s := c.busOff.foldl (fun s n => s.setFld (LEG_CAN_STATUS.STATE n) 2) s
  let s := c.lin.foldl (fun s e => s.modLin e.1 (fun l => { l with table := e.2.1, entry := linFirst (linTable s e.1 e.2.1) })) s
  let s := c.images.foldl (fun s e => if khas s.gw.images e.1 then s.modImage e.1 (fun i => { i with data := e.2 }) else s) s
  sillAll (s.setReg WAKE_HOST_VOTE c.votes)

/-- TAKEOVER_RESTORE_DONE (R368, R370): the restore has ended; new epochs are written, the line is released, the unit is Active. -/
def execTakeoverRestoreDone (s : State) : Res :=
  if pairRole s ≠ 4 || s.pwr.state ≠ 0 || s.pwr.exit.isSome then .next s
  else
    let h := s.pair.handover
    let s := match s.pair.ckpt with
      | some c => restoreCkpt (if h then 1 else 2) c s
      | none => s
    let old := s.streams.map (fun e => (e.1, { e.2 with epoch := (e.2.epoch + (if h then 3 else 2)) % 4 }))
    let s := epochEvents old (writeEpochs s)
    let s := setRole 1 (s.modPair (fun p => { p with ckpt := none, forwarded := true }))
    if h then .next s
    else .next (raise 0x0702 0 (evPay [(16, 1, 1), (20, 4, (s.lt - s.pair.detected) / 1000)]) (s.modPair (fun p => { p with told := true })))

/-- BUS_FENCE_ELAPSED (R368, R370): the peer's line has been low for `BUS_FENCE`; the buses start, LIN schedules at entry 0. -/
def execBusFenceElapsed (s : State) : Res :=
  match s.pair.peerLow with
  | some t =>
    if s.pair.busWait && decide (pairRole s = 1) && decide (t + s.fld PAIR_BUS_FENCE.BUS_FENCE * 1000 ≤ s.lt) then
      let s := s.modGw (fun g => { g with lins := g.lins.map (fun e => (e.1, { e.2 with entry := linFirst (linTable s e.1 e.2.table) })) })
      let tell := s.pair.handover && !s.pair.told
      let s := s.modPair (fun p => { p with busWait := false, handover := false, told := true })
      .next (if tell then raise 0x0702 0 (evPay [(16, 1, 1), (17, 1, 1)]) s else s)
    else .next s
  | none => .next s

/-! Handover (R370). -/

/-- PAIR_HANDOVER. -/
def execPairHandover (c : CmdCtx) (s : State) : Res :=
  .next (command c 0x0702 s fun s =>
    let cold := !s.pair.lost && s.pair.peer.any (fun h => h.role = 3)
    let old := s.pair.ckDone = 0 || s.pair.ckDone + 2 * ckptPeriod s < s.lt
    if !plenIs c 8 || !parZero c 0 8 then complete c 0x0702 stParam [] s
    else if s.pairMode ≠ 1 || pairRole s ≠ 1 || !cold || old then complete c 0x0702 stState [] s
    else
      let s := (sendCkpt (complete c 0x0702 stAccepted [] s)).emit .wakePeer
      s.modPair (fun p => { p with handover := true, overlap := none }))

/-- HANDOVER_FENCE (R370 step 5): the old Active unit fences itself within 400 µs of the overlap's start; every copy queued is discarded. -/
def execHandoverFence (s : State) : Res :=
  match s.pair.overlap with
  | some _ =>
    let s := dropQueued (setRole 2 (s.modPair (fun p => { p with overlap := none })))
    .next (slicesGo (setAddr none s))
  | none => .next s

/-- The role is evaluated again (R365, R515, R586): a unit whose line is held low stays as it is; else a fenced one starts again beside its
peer. -/
def pairEval (s : State) : State :=
  let r := pairRole s
  if s.pairMode ≠ 1 || s.pair.forced || (r ≠ 2 && r ≠ 5) || s.pair.deciding || s.flt.f3 || (s.pair.mismatch && !s.pair.forwarded) then s
  else if !s.pair.lost && s.pair.peer.any (fun h => h.role = 1 || h.role = 4) then setRole 2 s
  else setRole 1 s

/-- A write to `PAIR_CFG`: `MODE` acts at the next start (R364); the write handles `EV_PAIR_MISMATCH` (R515). -/
def pairCfgWrite (v : Nat) (s : State) : State :=
  handleIf 0x0708 (s.setReg PAIR_CFG (bits v 2 2 * 4 + (if v % 4 = 3 then 0 else v % 4)))

end Sys2Proof.Machine
end

