-- ==== Sys2Proof/Machine/Timekeeper.lean ====
section
/-! DEFINITION. The timekeeper (chapter 07): the tick, steps and rates, pulses and captures. -/

namespace Sys2Proof.Machine

/-- A domain by number. -/
def State.dom (s : State) (d : Nat) : DomSt := if d = 0 then s.time.d0 else s.time.d1

/-- Replace a domain. -/
def State.setDom (s : State) (d : Nat) (x : DomSt) : State :=
  if d = 0 then { s with time := { s.time with d0 := x } } else { s with time := { s.time with d1 := x } }

/-- A domain one tick later: 2 ns × (1 + rate × 2^-40), in units of 2^-48 ns (R228). (DESIGN CHOICE, log entry 1) -/
def domTick (x : DomSt) : DomSt := { x with val := ((x.val : Int) + tickStep (domRate x)).toNat }

/-- One tick of the 500 MHz clock while the timekeeper runs (R228, R232). In S3 to S5 the sleep timebase carries LT and the domains on (R233).
(DESIGN CHOICE, log entry 1) -/
def tick (s : State) : State :=
  if s.time.running || (3 ≤ s.pwr.state && s.pwr.state ≤ 5) then
    { s with tabs := rakesRun s,
             time := { s.time with lt := s.time.lt + 2, d0 := domTick s.time.d0, d1 := domTick s.time.d1 } }
  else s

/-- A rate within ±500 ppm (R229). -/
def rateOk (r : Int) : Bool := decide (-549755813 ≤ r) && decide (r ≤ 549755813)

/-- May this sender correct the domain (R236)? Firmware while `SERVO` is 1, a host while it is 0. (DEDUCED, log entry 15) -/
def servoOk (s : State) (c : CmdCtx) (d : Nat) : Bool :=
  match c.who with
  | .firmware => s.flag (TIME_DOM_CFG.SERVO d)
  | .host _ _ => !(s.flag (TIME_DOM_CFG.SERVO d))

/-- The result of a step command on a value in ns; none when it would be negative. -/
def stepResult (mode amount cur : Nat) : Option Nat :=
  if mode = 0 then some amount
  else if mode = 1 then some (cur + amount)
  else if amount ≤ cur then some (cur - amount) else none

/-- The `PARAM` conditions of `TIME_STEP` (R259). -/
def timeStepParamOk (s : State) (c : CmdCtx) : Bool :=
  let d := byteAt c.par 0
  let m := byteAt c.par 1
  let ns := leAt c.par 4 4
  let amount := leAt c.par 8 6 * sec + ns
  plenIs c 16 && decide (d ≤ 1) && decide (m ≤ 2) && parZero c 2 4 && parZero c 14 16 && decide (ns < sec) &&
  (match stepResult m amount (s.scale d) with
   | some r => decide (secOf r < 2 ^ 48)
   | none => false)

/-- A change waits for its effect tick (R237). -/
def pendTime (p : TimePend) (s : State) : State := { s with time := { s.time with pend := s.time.pend ++ [p] } }

/-- `TIME_STEP` (R235, R236, R259): checked, then pending until the effect tick of R237. (DEDUCED, log entry 11) -/
def execTimeStep (c : CmdCtx) (s : State) : Res :=
  .next (command c 0x0401 s fun s =>
    let d := byteAt c.par 0
    if !timeStepParamOk s c then complete c 0x0401 stParam [] s
    else if !servoOk s c d || !(s.dom d).stepArmed then complete c 0x0401 stState [] s
    else
      let p : TimePend := { dom := d, start := s.lt, cmd := c,
                            change := .step (byteAt c.par 1) (leAt c.par 8 6 * sec + leAt c.par 4 4) }
      pendTime p (s.setDom d { s.dom d with stepArmed := false, set := true }))

/-- The `PARAM` conditions of `TIME_RATE` (R259). -/
def timeRateParamOk (c : CmdCtx) : Bool :=
  plenIs c 16 && decide (byteAt c.par 0 ≤ 1) && decide (byteAt c.par 1 ≤ 1) && parZero c 2 4 &&
  rateOk (toSigned 32 (leAt c.par 4 4)) &&
  (byteAt c.par 1 = 0 || (rateOk (toSigned 32 (leAt c.par 8 4)) && decide (1 ≤ leAt c.par 12 4)))

/-- `TIME_RATE` (R241, R236, R259): checked, then pending until the effect tick. (DEDUCED, log entry 11) -/
def execTimeRate (c : CmdCtx) (s : State) : Res :=
  .next (command c 0x0402 s fun s =>
    let d := byteAt c.par 0
    if !timeRateParamOk c then complete c 0x0402 stParam [] s
    else if !servoOk s c d then complete c 0x0402 stState [] s
    else
      let adj := if byteAt c.par 1 = 1 then some (toSigned 32 (leAt c.par 8 4), leAt c.par 12 4) else none
      let p : TimePend := { dom := d, start := s.lt, cmd := c, change := .rate (toSigned 32 (leAt c.par 4 4)) adj }
      pendTime p s)

/-- Is this tick the effect tick of a pending change (R237): LT's ns a multiple of 1000, strictly after the start? -/
def effectDue (s : State) (p : TimePend) : Bool := decide (s.lt % 1000 = 0) && decide (p.start < s.lt)

/-- 0 for a host, 1 for firmware (`EV_TIME_STEPPED` byte 17). -/
def srcByte (c : CmdCtx) : Nat := match c.who with
  | .host _ _ => 0
  | .firmware => 1

/-- A change takes effect (R235, R237, R241): a step moves the domain, raises `EV_TIME_STEPPED` and answers the old time; a
rate, with an adjustment or without, steers from this tick on. -/
def applyTimeChange (p : TimePend) (s : State) : State :=
  let x := closeStretch s.lt (s.dom p.dom)
  match p.change with
  | .step m amount =>
    let old := domNs x
    let new := (stepResult m amount old).getD 0
    let v := if m = 0 then amount * 2 ^ 48 else if m = 1 then x.val + amount * 2 ^ 48 else x.val - amount * 2 ^ 48
    let s := s.setDom p.dom { x with val := v }
    let s := raise 0x0405 0 (evPay [(16, 1, p.dom), (17, 1, srcByte p.cmd), (20, 8, ofSigned 64 ((new : Int) - old))]) s
    complete p.cmd 0x0401 stOk (toLe 4 (nsOf old) ++ toLe 6 (secOf old) ++ zeros 6) s
  | .rate r adj =>
    let a := adj.map (fun q => { rate := q.1, endLt := s.lt + q.2 * 1000, us := q.2 : AdjSt })
    complete p.cmd 0x0402 stOk [] (s.setDom p.dom { x with rate := r, adj := a })

/-- The first pending change of a domain, where it is due. -/
def duePend (s : State) (d : Nat) : Option TimePend :=
  match s.time.pend.find? (fun p => p.dom = d) with
  | some p => if effectDue s p then some p else none
  | none => none

/-- The pending change of a domain takes effect and leaves the list. (DEDUCED, log entry 11) -/
def timeEffect (d : Nat) (s : State) : State :=
  match duePend s d with
  | some p => applyTimeChange p { s with time := { s.time with pend := removeFirst (fun q => q.dom = d) s.time.pend } }
  | none => s

/-- The phase an adjustment moved, rounded to the nearest ns (R241). -/
def adjPhase (a : AdjSt) (r : Int) : Int := ((a.rate - r) * a.us * 1000 * 2 + 2 ^ 40) / 2 ^ 41

/-- A temporary adjustment has run out: `EV_TIME_ADJ_DONE`, or no event where a quiesce had ended it (R241). -/
def execTimeAdjEnd (d : Fin 2) (s : State) : Res :=
  let x := s.dom d.val
  match x.adj with
  | some a =>
    let t := s.setDom d.val { closeStretch s.lt x with adj := none }
    if s.lt < a.endLt then .next s
    else if a.cut then .next t
    else .next (raise 0x0403 0 (evPay [(16, 1, d.val), (20, 8, ofSigned 64 (adjPhase a x.rate))]) t)
  | none => .next s

/-! Pulses on TIME_OUT (R252 to R255). -/

/-- Has a programme no further leading edge? -/
def progDone (g : PulseProg) : Bool :=
  if g.periodic then decide (g.count ≠ 0) && decide (g.count ≤ g.k) else decide (1 ≤ g.k)

/-- The time of a programme's next leading edge. (DEDUCED, log entry 16) -/
def nextEdge (g : PulseProg) : Nat := if g.periodic then g.start + g.k * g.period else g.start

/-- The smallest k whose leading edge is at least 1 µs ahead (R253). (DEDUCED, log entry 16) -/
def firstK (start period now : Nat) : Nat := if now + 1000 ≤ start then 0 else divUp (now + 1000 - start) period

/-- The `PARAM` conditions of `TIME_PULSE_ARM` (R259). `MODE` 0 uses no period and no width, `MODE` 1 no period. -/
def pulseParamOk (c : CmdCtx) : Bool :=
  let m := byteAt c.par 1
  let period := leAt c.par 16 4
  let width := leAt c.par 20 4
  plenIs c 32 && decide (byteAt c.par 0 ≤ 3) && decide (m ≤ 2) && decide (byteAt c.par 2 ≤ 2) &&
  parZero c 3 4 && parZero c 14 16 && parZero c 28 32 && decide (leAt c.par 4 4 < sec) &&
  (m = 0 || (m = 1 && decide (2 ≤ width) && decide (width ≤ 4000000000)) ||
   (m = 2 && decide (16 ≤ period) && decide (period ≤ 4000000000) && decide (2 ≤ width) && decide (width + 2 ≤ period)))

/-- `TIME_PULSE_ARM` (R252 to R254, R259): a programme replaces the pin's; `MODE` 0 ends it. A pulse at its active level
first completes its width. -/
def execTimePulseArm (c : CmdCtx) (s : State) : Res :=
  .next (command c 0x0403 s fun s =>
    let pin := byteAt c.par 0
    let m := byteAt c.par 1
    let d := byteAt c.par 2
    let start := leAt c.par 8 6 * sec + leAt c.par 4 4
    let now := s.scale d
    let period := leAt c.par 16 4
    if !pulseParamOk c then complete c 0x0403 stParam [] s
    else if m = 1 && start < now + 1000 then complete c 0x0403 stState [] s
    else
      let k := if m = 2 then firstK start period now else 0
      let g : PulseProg := { periodic := decide (m = 2), dom := d, start := start, period := period,
                             width := leAt c.par 20 4, count := leAt c.par 24 4, k := k }
      let prog := if m = 0 || progDone g then none else some g
      complete c 0x0403 stOk [] (s.setOutPin pin { s.outPin pin with prog := prog }))

/-- A leading edge (R252, R254): due once the programme's scale is at or past it; skipped while the pin is still at the active
level of an earlier pulse. -/
def execPulseLeadingEdge (pin : Fin 4) (s : State) : Res :=
  let p := s.outPin pin.val
  match p.prog with
  | some g =>
    if !s.time.running || progDone g || s.scale g.dom < nextEdge g then .next s
    else if p.active then .next (s.setOutPin pin.val { p with prog := some { g with k := g.k + 1 } })
    else .next ((s.setOutPin pin.val { prog := some { g with k := g.k + 1 }, active := true,
                                       trail := some (g.dom, nextEdge g + g.width) }).emit (.pulse pin.val (timeOutLevel s pin.val true)))
  | none => .next s

/-- A trailing edge, `WIDTH` after its leading edge (R252); a programme with no further edge ends with it. -/
def execPulseTrailingEdge (pin : Fin 4) (s : State) : Res :=
  let p := s.outPin pin.val
  match p.trail with
  | some (d, t) =>
    if !s.time.running || s.scale d < t then .next s
    else
      let prog := p.prog.bind (fun g => if progDone g then none else some g)
      .next ((s.setOutPin pin.val { prog := prog, active := false, trail := none }).emit (.pulse pin.val (timeOutLevel s pin.val false)))
  | none => .next s

/-- Pulse programmes end at any reset and in S3 and deeper (R255): those on one scale, or all. (DEDUCED, log entry 16) -/
def endPulses (which : Nat → Bool) (keepActive : Bool) (s : State) : State :=
  { s with time := { s.time with outs := s.time.outs.map (fun e =>
      match e.2.prog with
      | some g =>
        if which g.dom then (e.1, { prog := none, active := e.2.active && keepActive, trail := if keepActive then e.2.trail else none })
        else e
      | none => if keepActive then e else (e.1, { e.2 with active := false, trail := none })) } }

/-! Captures on TIME_IN (R256 to R258). -/

/-- A TIME_IN pin. -/
def State.inPin (s : State) (n : Nat) : InPin := kgetD s.time.ins n {}

/-- Replace a TIME_IN pin. -/
def State.setInPin (s : State) (n : Nat) (p : InPin) : State := { s with time := { s.time with ins := kput s.time.ins n p } }

/-- Does `EDGE` choose this edge (R256)? -/
def edgeChosen (e : Nat) (falling : Bool) : Bool := if falling then bit e 1 else bit e 0

/-- The filter time of a pin in ns (R256). -/
def filterTime (s : State) (n : Nat) : Nat := s.fld (TIME_IN_CFG.FILTER n) * 10

/-- An edge on a pin whose new level holds for `held` ns (R256, R257): a shorter level than the filter time is a glitch. The command stands at the
tick in which the edge is recognised; the filter time is subtracted. (DEDUCED, log entry 16) -/
def execTimeInCapture (pin : Fin 4) (falling : Bool) (late : Bool) (held : Nat) (s : State) : Res :=
  let n := pin.val
  if !s.time.running || !edgeChosen (s.fld (TIME_IN_CFG.EDGE n)) falling || decide (held < filterTime s n) then .next s
  else
    let d := s.fld (TIME_IN_CFG.DOM n)
    let c : Capture := { dom := d, time := stampOn (s.latched (s.lt + b2n late - filterTime s n)) d, falling := falling }
    let p := s.inPin n
    if !s.flag (TIME_IN_CFG.EV_EN n) then .next (s.setInPin n { p with last := some c })
    else if p.queue.length < 8 then .next (s.setInPin n { p with last := some c, queue := p.queue ++ [c] })
    else .next ((s.setInPin n { p with last := some c, lost := p.lost + 1 }).setFld (TIME_IN_STATUS.OVF n) 1)

/-- The next event of a pin (R257): `EV_TIME_CAPTURE_LOST` first where captures were lost, else the oldest capture. -/
def execTimeCaptureEvent (pin : Fin 4) (s : State) : Res :=
  let n := pin.val
  let p := s.inPin n
  if p.lost ≠ 0 then
    .next (raise 0x0404 0 (evPay [(16, 1, n), (20, 4, p.lost)]) (s.setInPin n { p with lost := 0 }))
  else match p.queue with
    | c :: r =>
      .next (raiseAt 0x0401 0 (evPay [(16, 1, n), (17, 1, c.dom + 4 * b2n c.falling), (18, 2, secOf c.time / 2 ^ 32)]) c.time
        (s.setInPin n { p with queue := r }))
    | [] => .next s

/-- The `_SEC_HI` word of a pin's last capture (its register table). -/
def lastSecHi (p : InPin) : Nat := match p.last with
  | some c => b2n c.falling * 2 ^ 17 + 2 ^ 16 + secOf c.time / 2 ^ 32 % 2 ^ 16
  | none => 0

/-- The ns and the seconds [31:0] of a pin's last capture. -/
def lastNs (p : InPin) : Nat := match p.last with
  | some c => nsOf c.time
  | none => 0
def lastSecLo (p : InPin) : Nat := match p.last with
  | some c => secOf c.time % 2 ^ 32
  | none => 0

/-- A read of `TIME_INn_LAST_NS` copies the seconds words into the source's shadow (R258). -/
def readLastNs (src : Src) (n : Nat) (s : State) : Nat × State :=
  let p := s.inPin n
  (lastNs p, setShadow src (TIME_IN_LAST_SEC_LO n) (lastSecLo p) (setShadow src (TIME_IN_LAST_SEC_HI n) (lastSecHi p) s))

/-- TIME_IN_LAST_NS_READ (R258). -/
def execTimeInLastNsRead (src : Src) (pin : Fin 4) (s : State) : Res := 
  .next (busRow src (fun s => let (w, t) := readLastNs src pin.val s; t.emit (.regRead src (TIME_IN_LAST_NS pin.val) w)) s)

/-- Write `TIME_DOMd_CFG` (R236): a `DOMAIN_NUMBER` equal to the other domain's is discarded and sets `BAD_WR`. -/
def writeDomCfg (d : Nat) (v : Nat) (s : State) : State :=
  let o := 1 - d
  let dn := v % 128
  let clash := dn = s.fld (TIME_DOM_CFG.DOMAIN_NUMBER o)
  let s := (s.setFld (TIME_DOM_CFG.STEP_THRESH d) (bits v 31 16)).setFld (TIME_DOM_CFG.SERVO d) (bits v 8 8)
  let s := if bits v 8 8 = 0 then s.setDom d { s.dom d with locked := false } else s
  if clash then s.setFld (TIME_DOM_STATUS.BAD_WR d) 1 else s.setFld (TIME_DOM_CFG.DOMAIN_NUMBER d) dn

/-- Latch the three scales into the snapshot registers in one tick (R227, `TIME_SNAP_CTRL`). -/
def takeTimeSnap (s : State) : State :=
  let put (ns lo hi t : Nat) (s : State) : State :=
    ((s.setReg ns (nsOf t)).setReg lo (secOf t % 2 ^ 32)).setReg hi (secOf t / 2 ^ 32 % 2 ^ 16)
  put TIME_SNAP_LT_NS TIME_SNAP_LT_SEC_LO TIME_SNAP_LT_SEC_HI (s.scale 2)
    (put TIME_SNAP_D0_NS TIME_SNAP_D0_SEC_LO TIME_SNAP_D0_SEC_HI (s.scale 0)
      (put TIME_SNAP_D1_NS TIME_SNAP_D1_SEC_LO TIME_SNAP_D1_SEC_HI (s.scale 1) s))

/-- A function reset of one domain (R239): its class S fields return to their defaults, its adjustment ends at the effect tick (R241), its pulse
programmes end, captures latched on it are delivered. The latched captures stay in their queues, which deliver them. -/
def domainReset (d : Nat) (s : State) : State :=
  let x := s.dom d
  let adj := x.adj.map (fun a => { a with endLt := min a.endLt ((s.lt / 1000 + 1) * 1000), cut := true })
  let s := s.setDom d { x with stepArmed := true, set := false, locked := false, adj := adj }
  let s := s.setFld (TIME_DOM_STATUS.BAD_WR d) 0
  endPulses (fun g => g = d) true s

end Sys2Proof.Machine
end

