-- ==== Sys2Proof/Machine/Quiesce.lean ====
section
/-! DEFINITION. Quiesce, flip and resume (R586 to R592), escalations (R514 to R516), and storing a configuration image (R593, R597). -/

namespace Sys2Proof.Machine

/-! Live second paths (R590). -/

/-- Has a stream a live second path at this device? -/
def liveSecond (x : Stream) : Bool :=
  match (x.hops.map (·.path)).eraseDups, x.pathsSaid with
  | [p], some (a, b, w) => x.protect && !x.ingress && (if p = 0 then b else a) && !w
  | _, _ => false

/-- The first reserved stream without one, among those that satisfy a condition. -/
def noSecond (s : State) (p : Stream → Bool) : Option Nat := (s.reserved.find? (fun e => p e.2 && !liveSecond e.2)).map (·.1)

/-- Does a reserved stream without a live second path pass `TBL_REHASH` of a quadrant? -/
def rehashBlocked (s : State) (q : Nat) : Bool := (noSecond s (fun x => x.hops.any (fun g => homeQuad g.inPort = q))).isSome

/-- TBL_REHASH (R184). -/
def execTblRehash (c : CmdCtx) (s : State) : Res := .next (command c 0x0206 s (tblRehash rehashBlocked c))

/-- The ports, ingress and egress, of the reserved streams that a quadrant's hedge decides (R198). -/
def hedgePairs (s : State) (q : Nat) : List (Nat × Nat) :=
  s.reserved.flatMap (fun e => (e.2.hops.filter (fun g => homeQuad g.inPort = q)).map (fun g => (g.inPort, g.outPort)))

/-- HEDGE_FLIP (R218, R219): it waits until a stop window may start (R610). -/
def execHedgeFlip (c : CmdCtx) (s : State) : Res := if !stopFree s then .next s else hedgeCommand c 0x0302 s (hedgeFlip hedgePairs c)

/-! The parameters of `FN_QUIESCE` (R588). -/

def fnFunc (c : CmdCtx) : Nat := byteAt c.par 0
def fnReset (c : CmdCtx) : Bool := bit (byteAt c.par 1) 0
def fnHold (c : CmdCtx) : Bool := bit (byteAt c.par 1) 1
def fnQmask (c : CmdCtx) : Nat := byteAt c.par 2
def fnTarget (c : CmdCtx) : Nat := byteAt c.par 3
def fnPorts (c : CmdCtx) : List Nat := maskList (leAt c.par 4 10) 80

/-- The functions, and those with a flip (R586). -/
def fnKnown (f : Nat) : Bool := [1, 2, 3, 4, 5, 7, 8, 9, 11, 12].contains f
def fnFlips (f : Nat) : Bool := [1, 3, 4, 5, 8].contains f

/-- The first row of R589. -/
def fnParamOk (c : CmdCtx) : Bool :=
  let f := fnFunc c
  plenIs c 16 && fnKnown f && (fnReset c || fnFlips f) && decide (byteAt c.par 1 < 4) && parZero c 14 16 &&
  (if f = 2 then decide (1 ≤ fnQmask c) && decide (fnQmask c < 16) else decide (fnQmask c = 0)) &&
  (if f = 4 || f = 11 || f = 12 then decide (fnTarget c < 2) else decide (fnTarget c = 0)) &&
  (if f = 5 then !(fnPorts c).isEmpty && (fnPorts c).all (fun p => decide (p < 76)) else (fnPorts c).isEmpty)

/-- What a hold names: the function, and for time the domain (R591). (DEDUCED, log entry 60) -/
def holdKey (f target : Nat) : Nat × Nat := (f, if f = 4 then target else 0)

/-- Is a function held by a host other than the command's? (DEDUCED, log entry 60) -/
def heldByOther (s : State) (c : CmdCtx) (f target : Nat) : Bool :=
  match c.who with
  | .host h _ => s.fn.holds.any (fun e => (e.1, e.2.1) = holdKey f target && decide (e.2.2 ≠ h.val))
  | .firmware => false

/-- The reply. -/
def fnReply (result handle window : Nat) : Bytes := [byte result, 0] ++ toLe 2 handle ++ toLe 4 window

/-- Does a command of the function's group still run (R589), or may its stop window not start yet (R610)? -/
def fnBusy (s : State) (f : Nat) : Bool :=
  s.fn.carve.isSome || ((f = 1 || f = 2 || f = 3 || f = 8) && !stopFree s) || !s.fn.flips.isEmpty ||
  (if f = 4 then !s.time.pend.isEmpty
   else if f = 5 then s.egr.ports.any (fun e => flipPending e.2) || !s.egr.waiting.isEmpty
   else if f = 9 then !s.keys.writing.isEmpty else false)

/-- The function's own check (R586, R590): status and handle where it refuses. -/
def fnCheck (s : State) (c : CmdCtx) : Option (Nat × Nat) :=
  match fnFunc c with
  | 1 =>
    if !carvingOk s then some (stParam, 0xFFFF) else (noSecond s (fun _ => true)).map (fun h => (stQuiesce, h))
  | 3 => if (flipFault hedgePairs [0, 1, 2, 3] s).isSome then some (stState, 0xFFFF) else none
  | 4 =>
    let lists := (List.range 76).filter (fun p => (s.eport p).active.shutterEn && decide ((s.eport p).active.dom = fnTarget c))
    (s.reserved.find? (fun e => lists.any (fun p => bit e.2.outMask p))).map (fun e => (stQuiesce, e.1))
  | 5 => ((fnPorts c).findSome? (fun p => recheck s p (s.eport p).shadow)).map (fun h => (stState, h))
  | 7 => if s.pairMode = 0 then some (stState, 0xFFFF) else none
  | 8 => if (gwFlipParam s.gw.shadow).isSome || (gwFlipState s).isSome then some (stState, 0xFFFF) else none
  | _ => none

/-! The functions. -/

/-- The buffer function stops the slices until every buffer is free or 5 ms have passed (R159). -/
def carveStart (cmd : Option CmdCtx) (s : State) : State :=
  let s := { s with mem := { s.mem with stopped := true }, fn := { s.fn with carve := some { cmd := cmd, start := s.lt }, stopAt := some s.lt } }
  (s.gw.batches.map (·.1)).foldl (fun s i => batchClose i s) s

/-- The stored fields of class S in an address range, at their defaults (R581). -/
def sessionDefaults (lo hi : Nat) (s : State) : State := loseRange { k := false, h := false, s := true } lo hi s

/-- The stored fields of class S of the buffer function: the descriptor snapshot and the refused pool writes. -/
def bufDefaults (s : State) : State :=
  (List.range 6).foldl (fun s k => s.setFld (BUF_POOL_STATUS.BAD_WR k) 0) (sessionDefaults BUF_BD_SEL (BUF_BD_DATA 4) s)

/-- Forwarding: the learn queue is emptied, a rehash is abandoned; entries with uncorrectable errors are absent already (R191, R192). Fields of
class S return to their defaults (R581). -/
def forwardReset (qs : List Nat) (s : State) : State :=
  qs.foldl (fun s q => (s.modTab q (fun t => { rehashAbandon (s.reg (QD_L2_SEED q)) t with queue := [], gen := 0 })).setReg (QD_L2_SEED_NEXT q) 0) s

/-- The hedge: a flip of all four quadrants, where its checks allow it. (DEDUCED, log entry 60) -/
def hedgeQuiesce (reset : Bool) (s : State) : State :=
  let s := hedgeCopied s
  let s := if (flipFault hedgePairs [0, 1, 2, 3] s).isSome then s else hedgeFlipDo [0, 1, 2, 3] false false s
  if reset then hedgeFnReset s else s

/-- The gateway's flip; a reset also initialises every image, and controllers in bus-off start recovery. (DEDUCED, log entry 60) -/
def gwQuiesce (reset : Bool) (s : State) : State :=
  let s := if (gwFlipParam s.gw.shadow).isSome || (gwFlipState s).isSome then s else sillAll (gwSwap false s)
  if reset then
    let s := (List.range 24).foldl (fun s n =>
      (if s.fld (LEG_CAN_STATUS.STATE n) = 2 then s.setFld (LEG_CAN_STATUS.STATE n) 3 else s).setFld (LEG_CAN_STATUS.BAD_WR n) 0) (imagesInit s)
    (List.range 6).foldl (fun s n => s.setFld (LEG_LIN_STATUS.BAD_WR n) 0) (s.setFld LEG_FR_STATUS.BAD_WR 0)
  else s

/-- Keys and crypto: the lock is released, the contexts are cleared, the noise source runs its start-up tests again. Stored fields of class S return
to their defaults (R581). -/
def cryptoReset (testsPass : Bool) (s : State) : State :=
  let s := (List.range 40).foldl (fun s p => s.setFld (CRY_MSEC_STATUS.BAD_WR p) 0) (sessionDefaults KEY_SLOT_SEL (KEY_SLOT_NONCE_HI + 4) s)
  let s := s.setFld CRY_MSEC_STATUS_PL.BAD_WR 0
  { s.setFld KEY_STATUS.TRNG_OK (b2n testsPass) with keys := { s.keys with lock := none, ctx := none, saved := [] } }

/-- Transom of one host: the window errors are cleared, the locked sequence is released. -/
def transomReset (h : Nat) (s : State) : State :=
  lockEnd h (sessionDefaults (TRN_WIN_CFG h 0) (TRN_WIN_CFG h 16) ((List.range 16).foldl (fun s n => windowClear h n s) s))

/-- What a quiesce does at once: all functions but buffers and egress. -/
def fnAct (c : CmdCtx) (testsPass : Bool) (s : State) : State :=
  match fnFunc c with
  | 2 => forwardReset (maskList (fnQmask c) 4) s
  | 3 => hedgeQuiesce (fnReset c) s
  | 4 => domainReset (fnTarget c) s
  | 7 => pairEval s
  | 8 => gwQuiesce (fnReset c) s
  | 9 => cryptoReset testsPass s
  | 11 => transomReset (fnTarget c) s
  | 12 => hostReset (if fnTarget c = 0 then 0 else 1) s
  | _ => s

/-- A function of R586 whose stop window has a length of its own, at most 1 µs. (DESIGN CHOICE, log entry 47) -/
def fnWindow (f : Nat) : Bool := f = 2 || f = 3 || f = 8

/-- `OK`: with `HOLD` the function is held. -/
def fnDone (c : CmdCtx) (window : Nat) (s : State) : State :=
  let s := match c.who with
    | .host h _ =>
      if fnHold c then
        let k := holdKey (fnFunc c) (fnTarget c)
        let e := (k.1, k.2, h.val)
        { s with fn := { s.fn with holds := e :: s.fn.holds.filter (fun x => x ≠ e) } }
      else s
    | .firmware => s
  complete c 0x0F01 stOk (fnReply 0 0xFFFF window) s

/-- `FN_QUIESCE` (R589). The copies after a hedge or gateway flip end before the check. -/
def fnQuiesce (testsPass : Bool) (c : CmdCtx) (s : State) : State :=
  let f := fnFunc c
  let s := if f = 3 then hedgeCopied s else if f = 8 then gwCopyEnd s else s
  if !fnParamOk c then complete c 0x0F01 stParam [] s
  else if s.flt.f3 then complete c 0x0F01 stState (fnReply 0 0xFFFF 0) s
  else if heldByOther s c f (fnTarget c) then complete c 0x0F01 stState (fnReply 1 0xFFFF 0) s
  else
    let s := if f = 5 then (fnPorts c).foldl (fun s _ => engineRun s) s else s
    match fnCheck s c with
    | some (st, h) => complete c 0x0F01 st (fnReply 2 h 0) s
    | none =>
      if f = 1 then carveStart (some c) s
      else if f = 5 then
        let s := (fnPorts c).foldl (fun s p => fixFlip p 0 none s) s
        { s with fn := { s.fn with flips := s.fn.flips ++ [{ cmd := some c, start := s.lt, ports := fnPorts c }] } }
      else if fnWindow f then
        let w := s.freeVal % 1001
        fnDone c w (fnAct c testsPass (stopBegins s.drew))
      else fnDone c 0 (fnAct c testsPass s)

/-- The command waits for what runs of the function's group, and for another stop window (R589, R610). -/
def fnCommand (testsPass : Bool) (c : CmdCtx) (s : State) : Res :=
  if fnParamOk c && fnBusy s (fnFunc c) then .next s else .next (command c 0x0F01 s (fnQuiesce testsPass c))

/-- FN_QUIESCE_FLIP: `RESET` 0. -/
def execFnQuiesceFlip (c : CmdCtx) (s : State) : Res := fnCommand true c s

/-- FN_QUIESCE_RESET: `RESET` 1; `testsPass` tells how the noise source's start-up tests end. -/
def execFnQuiesceReset (c : CmdCtx) (testsPass : Bool) (s : State) : Res := fnCommand testsPass c s

/-- FN_RESUME (R591, R601). -/
def execFnResume (c : CmdCtx) (s : State) : Res :=
  .next (command c 0x0F02 s fun s =>
    let f := fnFunc c
    let t := fnTarget c
    let ok := plenIs c 8 && parZero c 1 3 && parZero c 4 8 && fnKnown f && (if f = 4 || f = 11 || f = 12 then decide (t < 2) else decide (t = 0))
    if !ok then complete c 0x0F02 stParam [] s
    else if heldByOther s c f t then complete c 0x0F02 stState [] s
    else complete c 0x0F02 stOk [] { s with fn := { s.fn with holds := s.fn.holds.filter (fun e => (e.1, e.2.1) ≠ holdKey f t) } })

/-- What the end of a stop window lets start. -/
def stopEnded (s : State) : State := warmResume s

/-- What is still queued or sent is discarded. -/
def carveEmpty (s : State) : State := dropQueued (fenceFlush (drainCut s).2)

/-- The staged carving becomes active; after an escalation the active one is rebuilt where the staged one is not valid. -/
def carveNew (s : State) : State := if carvingOk s then carve s else sillAll (carvingCounts (emptyMem s))

/-- The slices pass frames again, and the command completes. -/
def carveEnd (q : Quiesce) (s : State) : State :=
  let s := if q.cmd.all fnReset then bufDefaults s else s
  let s := { s with fn := { s.fn with carve := none } }
  let s := if s.rst.warm.isSome || s.rst.waiting.isSome then s else slicesGo s
  stopEnded (match q.cmd with
    | some c => fnDone c (min (2 ^ 32 - 1) (s.lt - q.start)) s
    | none => s)

/-- The flip of the carving (R159 steps 3 and 4). -/
def carveNow (q : Quiesce) (s : State) : State := carveEnd q (carveNew (carveEmpty s))

/-- CARVING_FLIP_DRAINED (R159): every buffer is free, or 5 ms have passed. -/
def execCarvingFlipDrained (s : State) : Res :=
  match s.fn.carve with
  | some q =>
    let free := s.mem.staging.all (fun e => e.2.isEmpty) && !s.mem.bufs.any (fun e => allocated e.2)
    if free || q.start + 5000000 ≤ s.lt then .next (carveNow q s) else .next s
  | none => .next s

/-- A port has flipped: the quiesces of the egress function that name it go on, and end with their last port (R284). (DEDUCED, log entry 60) -/
def fnFlipped (p : Nat) (s : State) : State :=
  let l := s.fn.flips.map (fun q => { q with ports := q.ports.filter (fun x => x ≠ p) })
  let done := l.filter (fun q => q.ports.isEmpty)
  let s := { s with fn := { s.fn with flips := l.filter (fun q => !q.ports.isEmpty) } }
  done.foldl (fun s q => match q.cmd with
    | some c => fnDone c 0 (if fnReset c then egrFnReset (fnPorts c) s else s)
    | none => s) s

/-! Escalation (R514 to R516, R592). -/

/-- The function reset that answers an event (R515): the state, whether a warm reset follows, and whether the event has a row at all. `ok` is
how the restarted noise source's tests, or the retried flash write, end. (DEDUCED, log entry 59) -/
def escalate (e : Entry) (ok : Bool) (s : State) : State × Bool × Bool :=
  let b (i : Nat) : Nat := byteAt e.payload i
  if e.code = 0x0104 then
    let again := decide (s.flt.badBuf = some (leAt e.payload 0 2))
    (carveStart none { s with flt := { s.flt with badBuf := some (leAt e.payload 0 2) } }, again, true)
  else if e.code = 0x0206 then (forwardReset [b 0 % 4] (stopBegins s), false, true)
  else if e.code = 0x0304 then
    let s := hedgeQuiesce true (stopBegins s)
    (s, decide (b 1 ≠ 7) && hasErr (s.hq (b 0)) (b 1) (leAt e.payload 2 2), true)
  else if e.code = 0x0705 then
    let s := pairEval s
    (s, s.pair.forced, true)
  else if e.code = 0x0708 then (pairEval s, false, true)
  else if e.code = 0x0907 then (cryptoReset ok s, !ok, true)
  else if e.code = 0x090A then (s, !ok, true)
  else if e.code = 0x0B01 then ((List.range 16).foldl (fun s n => windowClear (b 0 % 2) n s) s, false, true)
  else if e.code = 0x0C01 || e.code = 0x0C03 then (hostReset (if b 0 = 0 then 0 else 1) s, false, true)
  else if e.code = 0x0F04 then (supRestart true (s.modSup (fun p => { p with unstable := some (b 0, s.lt) })), false, true)
  else (s, true, false)

/-- Does an escalation wait: until its own stop window may start (R610), or, where it restarts the supervisor, for the end of a pause or restart (R592,
R611)? -/
def escWaits (s : State) (e : Entry) : Bool :=
  ((e.code = 0x0104 || e.code = 0x0206 || e.code = 0x0304) && !stopFree s) ||
  (e.code = 0x0F04 && ((s.sup.act.any (fun a => a.phase ≠ 1)) || s.sup.restartAt.isSome || !triadRun s))

/-- Tell of an escalation: kind 0 a function reset, 1 a warm reset. (DEDUCED, log entry 59) -/
def escTell (g code kind : Nat) (s : State) : State :=
  raise 0x0F07 0 (evPay [(16, 1, g), (18, 2, code), (20, 1, kind)]) (s.bump (if kind = 0 then FLT_ESC_FN else FLT_ESC_WARM))

/-- The timer of a group has expired. (DEDUCED, log entry 59) -/
def graceEnd (g : Nat) (e : Entry) (ok : Bool) (s : State) : State :=
  let s := { s with flt := { s.flt with grace := kdel s.flt.grace g, unhandled := kdel s.flt.unhandled g } }
  let (t, warm, row) := escalate e ok (if (escalate e ok s).2.2 then escTell g e.code 0 s else s)
  if warm then warmStart 6 (escTell g e.code 1 (if row then t else s)) else t

/-- GRACE_EXPIRY (R514, R515): timers run in S0 to S2; after F3 nothing is reset. -/
def execGraceExpiry (g : Fin 16) (ok : Bool) (s : State) : Res :=
  match kget s.flt.grace g.val, kget s.flt.unhandled g.val with
  | some t, some e =>
    if s.lt / 1000 < t / 1000 || s.flt.f3 || 2 < s.pwr.state || escWaits s e then .next s else .next (graceEnd g.val e ok s)
  | _, _ => .next s

/-! Storing a configuration image (R593, R597). -/

/-- The layout of R593. -/
def imageLayoutOk (img : Bytes) : Bool :=
  let n := img.length
  decide (leAt img 0 4 = 0x4746434B) && decide (leAt img 4 2 = 1) && decide (leAt img 6 2 = 0x0872) && decide (352 ≤ n) &&
  decide (n ≤ 2 ^ 22) && decide (leAt img 12 4 = n) && decide (byteAt img 16 < 2) && zeroRange img 17 32 && zeroRange img 160 256 &&
  (List.range 16).all (fun k => decide (imgLen img k = 0) || (decide (k < 14) && decide (256 ≤ imgOff img k) && decide (imgOff img k + imgLen img k ≤ n - 96)))

/-- The signature of R593. -/
def imageSigOk (s : State) (img : Bytes) : Bool :=
  let n := img.length
  iskVerify s (slice img 0 (n - 96)) (slice img (n - 96) 96)

/-- CFG_STORE: `image` is what host memory holds; none when it cannot be read. -/
def execCfgStore (c : CmdCtx) (image : Option Bytes) (s : State) : Res :=
  if s.flash.store.isSome then .next s else
  .next (command c 0x0F04 s fun s =>
    if !plenIs c 16 || !parZero c 12 16 then complete c 0x0F04 stParam [] s
    else if s.brace then complete c 0x0F04 stState [] s
    else
      let s := hostFetch c (leAt c.par 0 8) (leAt c.par 8 4) s
      match image with
      | none => complete c 0x0F04 stDma [] s
      | some b => complete c 0x0F04 stAccepted [] { s with flash := { s.flash with store := some (c, b.take (leAt c.par 8 4)) } })

/-- What the checks of an image find, as `EV_CFG_STORED` codes it. -/
def storeResult (s : State) (img : Bytes) (flashErr : Bool) : Nat :=
  if !imageLayoutOk img then 2
  else if !imageSigOk s img then 1
  else if leAt img 8 4 < s.fld FAB_GEN.GENERATION then 3
  else if flashErr then 4 else 0

/-- CFG_STORE_DONE (R597): the verification takes the lookaside lock. -/
def execCfgStoreDone (flashErr : Bool) (s : State) : Res :=
  match s.flash.store with
  | some (_, img) =>
    if !triadRun s || engineHeld s then .next s
    else
      let r := storeResult s img flashErr
      let s := { s with flash := { s.flash with store := none, image := if r = 0 then img else s.flash.image } }
      .next (raise 0x0F09 0 (evPay [(16, 1, r), (20, 4, leAt img 8 4)]) s)
  | none => .next s

end Sys2Proof.Machine
end

