-- ==== Sys2Proof/Machine/EgrRows.lean ====
section
/-! DEFINITION. The rows of shutters, gates, preemption, PFC watchdog, lanes and histograms (chapter 08). -/

namespace Sys2Proof.Machine

/-! Shutters. -/

/-- SHUTTER_STAGE (R278, R279). -/
def execShutterStage (c : CmdCtx) (s : State) : Res := .next (command c 0x0501 s (shutterStart recheck waits 0x0501 c))

/-- SHUTTER_FLIP (R280, R281). -/
def execShutterFlip (c : CmdCtx) (s : State) : Res := .next (command c 0x0502 s (shutterStart recheck waits 0x0502 c))

/-- SHUTTER_READ (R285). -/
def execShutterRead (c : CmdCtx) (s : State) : Res := .next (command c 0x0503 s (shutterStart recheck waits 0x0503 c))

/-- Do the admitted reservations of a port rest on the residue (R290)? -/
def residueRelied (s : State) (p : Nat) : Bool :=
  s.reserved.any (fun e => e.2.hops.any (fun g => decide (g.outPort = p) && g.residue))

/-- Raise `EV_EGR_PREEMPT_LOST` (R290). (DEDUCED, log entry 85) -/
def tellPreempt (p : Nat) (s : State) : State := raise 0x0502 0 (evPay [(16, 1, p), (17, 1, b2n (residueRelied s p))]) s

/-- Preemption was active on a port: where it is no longer, its loss is told (R290). (DEDUCED, log entry 85) -/
def preemptLost (was : Bool) (p : Nat) (s : State) : State := if was && !preemptActive s p then tellPreempt p s else s

/-- SHUTTER_FLIP_TIME (R283 step 3): the domain has reached F. -/
def execShutterFlipTime (p : Port) (s : State) : Res :=
  if flipDue s p.val then
    let was := preemptActive s p.val
    .next (fnFlipped p.val (preemptLost was p.val (flipNow p.val waits s)))
  else .next s

/-- SHUTTER_SHADOW_COPY_DONE (R283 step 4). -/
def execShutterShadowCopyDone (p : Port) (s : State) : Res := .next (shutterCopyDone recheck waits p.val s)

/-- The gates of a port by its active list, now. -/
def gatesNow (s : State) (p : Nat) : Nat := gatesAt (s.eport p).active (s.scale (s.eport p).active.dom)

/-- Settle the shapers of all classes of a port. -/
def settlePort (p : Nat) (s : State) : State := (List.range 8).foldl (fun s c => settle p c (waits s p c) s) s

/-- GATE_ENTRY_CHANGE (R273): the gates of the entry in force apply; the lane may park (R300). No list runs in S3 and deeper (R277). -/
def execGateEntryChange (p : Port) (s : State) : Res :=
  let n := p.val
  if 3 ≤ s.pwr.state then .next s
  else
    let g := gatesNow s n
    let s := (if g = (s.eport n).gates then s else settlePort n s).modEport n (takeEntry s)
    .next (parkEnter n (portEmpty s n) s)

/-! Steps of a domain (R237, R276). -/

/-- The frames in progress on a port whose gate closes before they end, by a list on domain d. (DEDUCED, log entry 86) -/
def overruns (s : State) (d p : Nat) : List Sending :=
  let e := s.eport p
  e.onWire.filter (fun g =>
    let last := g.first + txTime (s.lineRate p) g.wire
    let from_ := max s.lt g.first
    e.active.shutterEn && decide (e.active.dom = d) && decide (from_ < last) &&
      decide (openFor e.active g.tc (s.scale d + (from_ - s.lt)) < last - from_))

/-- A step has moved the lists of a domain: frames in progress that overrun their gates are counted, the first raises an event (R276).
(DEDUCED, log entry 86) -/
def gateOverruns (d : Nat) (s : State) : State :=
  let ps := (List.range 76).flatMap (fun p => (overruns s d p).map (fun g => (p, g.tc)))
  let s := ps.foldl (fun s x => s.bump (EGR_GATE_OVERRUN x.1)) s
  match ps with
  | x :: _ => raise 0x0501 0 (evPay [(16, 1, x.1), (17, 1, x.2), (18, 1, d)]) s
  | [] => s

/-- TIME_EFFECT_TICK (R237): the pending change of a domain takes effect; a step may overrun gates. (DEDUCED, log entry 121) -/
def execTimeEffectTick (d : Fin 2) (s : State) : Res :=
  match duePend s d.val with
  | some p => match p.change with
    | .step _ _ => .next (gateOverruns d.val (timeEffect d.val s))
    | .rate _ _ => .next (timeEffect d.val s)
  | none => .next s

/-! Preemption. -/

/-- PREEMPT_VERIFY_RESULT (R286, R287, R290). -/
def execPreemptVerifyResult (p : Port) (ok : Bool) (s : State) : Res :=
  let n := p.val
  if (s.eport n).verify ≠ 1 then .next s
  else if ok then .next (s.modEport n (fun e => { e with verify := 2 }))
  else .next (tellPreempt n (s.modEport n (fun e => { e with verify := 3 })))

/-! PFC. -/

/-- PFC_PAUSE_STUCK (R294): a class has been paused for 100 ms without a break. -/
def execPfcPauseStuck (p : Port) (c : Fin 5) (s : State) : Res :=
  let n := p.val
  let k := c.val
  match kget (s.eport n).pausedAt k with
  | some t =>
    if t + 100000000 ≤ s.lt && isPaused s n k && !(s.eport n).stuck.contains k then
      let drop := s.flag (EGR_PORT_CTRL.PFC_WD_DROP n)
      let s := s.modEport n (fun e => { e with stuck := k :: e.stuck })
      let s := raise 0x0503 0 (evPay [(16, 1, n), (17, 1, k), (18, 1, b2n drop)]) s
      .next (if drop then (flushQueue n k false s).modEport n (fun e => { e with ignore := kput e.ignore k s.lt }) else s)
    else .next s
  | none => .next s

/-! Lanes and histograms. -/

/-- LANE_READY (R300). -/
def execLaneReady (p : Port) (s : State) : Res := .next (laneReady portEmpty p.val s)

/-- HISTOGRAM_SAMPLE (R302). No sample is taken in S3 and deeper (R303). -/
def execHistogramSample (s : State) : Res :=
  .next (if 3 ≤ s.pwr.state then s
    else histogramSample (fun s k => queueBytes s (k / 8) (k % 8)) (fun s k => headAge s (k / 8) (k % 8)) s)

end Sys2Proof.Machine
end

