-- ==== Sys2Proof/Machine/Frames.lean ====
section
/-! DEFINITION. What the slices do with a frame that has arrived (R123 to R127, R24, R243, R244, R403, R422). -/

namespace Sys2Proof.Machine

/-- The length that R124 checks: on a fabric port without a DFP tag and an R-TAG directly after it (R126). (DEDUCED, log entry 35) -/
def rxLength (fabric : Bool) (frame : Bytes) : Nat :=
  if fabric && decide (etype frame 12 = dfpEtype) then
    frame.length - (if etype frame 22 = rtagEtype then 16 else 10)
  else frame.length

/-- Do frames arrive on an Ethernet port: its link is up, its transceiver receives, and the slices are on (R523, R560)? -/
def etherListens (s : State) (p : Nat) : Bool :=
  isEthPort p && hasLink s p && decide (s.pwr.state ≤ 2) && (p = 75 || decide (s.fld (WAKE_PORT_STATUS.STATE p) ≤ 1))

/-- A frame that passed MACsec: it is unpacked where an unpack entry matches, else it waits in staging (R23, R403). -/
def etherStage (x : Pkt) (s : State) : State :=
  match unpackEntry s x.tag x.bytes with
  | some (e, off) => unpack e off x s
  | none => stage x s

/-- A correct frame that has room: counted, checked by MACsec, staged (R123, R422). On PL of a cold-frame unit it goes no further.
(PRESUMED, log entry 13) -/
def etherTake (p : Nat) (body : Bytes) (w : Span) (s : State) : State :=
  let s := rxOk p s
  if p = 75 && s.pairMode = 1 then s
  else match msecReceive p body s with
    | (none, s) => s
    | (some (bs, msec), s) =>
      let dfp := s.fabricPort p && decide (etype bs 12 = dfpEtype)
      etherStage { bytes := bs, dfp := dfp, inPort := p, start := rxStart s p w, arrive := s.endPoint w, macsec := msec } s

/-- A whole frame with its FCS (R124). -/
def etherFrame (p : Nat) (frame : Bytes) (phyErr : Bool) (w : Span) (s : State) : State :=
  let n := rxLength (s.fabricPort p) frame
  let body := frame.take (frame.length - 4)
  if n < 64 || s.fld (PORT_RX_CFG.MAX_LEN p) < n then s.bump (PORT_RX_LEN_ERR p)
  else if phyErr || decide (frame.drop (frame.length - 4) ≠ fcsOf body) then s.bump (PORT_RX_CRC_ERR p)
  else if s.mem.stopped || !stagingRoom s p body.length then s.bump (PORT_RX_DROP p)
  else etherTake p body w s

/-- Frame activity postpones idle entry (R552). -/
def seen (s : State) : State := { s with pwr := { s.pwr with active := s.lt } }

/-- ETHERNET_FRAME_RECEIVED (R124 to R126): the bytes with the FCS, whether the PHY flagged an error, and when it stood on the medium. -/
def execEthernetFrameReceived (p : Port) (frame : Bytes) (phyErr : Bool) (w : Span) (s : State) : Res :=
  if etherListens s p.val then .next (etherFrame p.val frame phyErr w (seen s)) else .next s

/-- LEGACY_PDU_RECEIVED (R127, R384). -/
def execLegacyPduReceived (p : Port) (ok : Bool) (u : LegPdu) (w : Span) (s : State) : Res :=
  if s.pwr.state ≤ 2 then .next (legacyPdu p.val ok u w (seen s)) else .next s

end Sys2Proof.Machine
end

