-- ==== Sys2Proof/Machine/Pipeline.lean ====
section
/-! DEFINITION. The eight stages of a quadrant's pipeline (R26 to R31): PIPELINE_FRAME takes the oldest frame that waits in a port's staging
partition through all of them. -/

namespace Sys2Proof.Machine

/-! Where a frame goes (R173, R174, R454 to R456). -/

/-- A destination: the egress ports, `REASON` of its copies (R101), and the device and port that an L2 hit or an internal header names in a DFP
tag (R454). -/
structure Fwd where
  ports : Nat
  reason : Nat := 0
  names : Option (Nat × Nat) := none
  hit : Option L2Entry := none
deriving DecidableEq, Repr

/-- One port. -/
def onePort (p : Nat) : Nat := orBit 0 p

/-- The path of a route entry that a hash chooses (R174); none where the route is not valid. -/
def routePort (s : State) (q dev : Nat) (key : Bytes) : Option Nat :=
  let w := kgetD (s.tab q).route dev 0
  let i := tblCrc (s.fld (QD_PATH_SEED.PATH_SEED q)) key % 65536 % (bits w 62 61 + 1)
  if bit w 63 then some (bits w (7 * i + 6) (7 * i)) else none

/-- The 14 bytes that R174 hashes: of an Ethernet frame, and of an internal one (R387). -/
def routeKey (fid : Nat) (x : Pkt) : Bytes :=
  if x.internal then
    let d := ihDest x.bytes
    toBe 2 0 ++ [byte (destDevice d), byte (destPort d), 0, 0, 0, 0] ++ [byte (ihBus x.bytes), 0] ++ toBe 4 (leAt x.bytes 4 4)
  else toBe 2 (fid % 4096) ++ slice x.bytes 0 12

/-- The route to another device; a frame without a route is discarded. -/
def viaRoute (q dev fid : Nat) (x : Pkt) (f : Fwd) (s : State) : Option Fwd × State :=
  match routePort s q dev (routeKey fid x) with
  | some p => (some { f with ports := onePort p }, s)
  | none => (none, s.bump (QD_NOROUTE_DROP q))

/-- The fabric ports, as a mask. -/
def fabricMask (s : State) : Nat := listMask (((List.range 9).map fabPortAt).filter s.fabricPort)

/-- The mask of a flood copy (R173, R456): the FID's group with its fabric ports replaced by `FLOOD_TREE`. -/
def floodMask (s : State) (q fid : Nat) (x : Pkt) : Nat :=
  let w := kgetD (s.tab q).fid fid 0
  let m := groupMask (s.tab q) (if isGroupMac (dstMac x.bytes) then bits w 19 10 else bits w 9 0)
  m - (m &&& fabricMask s) + listMask (treePorts s)

/-- Is a destination this device's? -/
def isMine (s : State) (dev : Nat) : Bool := hasAddr s && decide (dev = ownAddr s)

/-- The destination lookup in the L2 table (the last six rows of R173). -/
def l2Dest (q fid : Nat) (x : Pkt) (s : State) : Option Fwd × State :=
  match l2Lookup (s.tab q) fid (dstMac x.bytes) with
  | some (_, _, e) =>
    let names := if e.kind = 1 then some (e.device, e.port) else none
    let f : Fwd := { ports := onePort e.port, names := names, hit := some e }
    if e.kind = 0 then (some f, s)
    else if e.kind = 1 then (if isMine s e.device then (some f, s) else viaRoute q e.device fid x f s)
    else if e.kind = 2 then (some { f with ports := groupMask (s.tab q) e.group }, s)
    else (none, s.bump (QD_DISCARD q))
  | none =>
    (some { ports := floodMask s q fid x, reason := 3 },
     if isGroupMac (dstMac x.bytes) then s else s.bump (QD_FLOOD q))

/-- The destination in an internal header (R173, R382, R387). -/
def ihFwd (q : Nat) (x : Pkt) (s : State) : Option Fwd × State :=
  let d := ihDest x.bytes
  match destKind d with
  | 0 => (some { ports := onePort (destPort d) }, s)
  | 1 =>
    let f : Fwd := { ports := onePort (destPort d), names := some (destDevice d, destPort d) }
    if isMine s (destDevice d) then (some f, s) else viaRoute q (destDevice d) 0 x f s
  | 2 => (some { ports := groupMask (s.tab q) (destGroup d) }, s)
  | _ => (none, s.bump (QD_DISCARD q))

/-- A data frame that arrived with a DFP tag (R455). A `DST_PORT` that R453 does not define is looked up like 0x7F. (DEDUCED, log entry 83) -/
def dfpFwd (q : Nat) (t : DfpTag) (x : Pkt) (s : State) : Option Fwd × State :=
  if t.type = 1 then
    if (treePorts s).contains x.inPort then (some { ports := floodMask s q t.fid x, reason := 3 }, s) else (none, s.bump FAB_TREE_DROP)
  else if !isMine s t.dstDev then
    (if t.hops = 0 then (none, s.bump FAB_TTL_DROP) else viaRoute q t.dstDev t.fid x { ports := 0 } s)
  else if t.dstPort ≤ 71 then (some { ports := onePort t.dstPort }, s)
  else l2Dest q t.fid x s

/-- Stage 5's choice for a frame without a redirect and without a handle (R173). -/
def lookupFwd (q fid : Nat) (x : Pkt) (s : State) : Option Fwd × State :=
  match x.dest, x.tag with
  | some p, _ => (some { ports := onePort p }, s)
  | none, tag =>
    if x.internal then ihFwd q x s
    else match tag with
      | some t => dfpFwd q t x s
      | none => l2Dest q fid x s

/-! The tests of stage 5 on the frame itself (R168, R175, R176). -/

/-- Does the FID test drop a frame (R168)? (DEDUCED, log entry 80) -/
def fidDrops (s : State) (q fid : Nat) (x : Pkt) : Bool :=
  let vid := (outerQ none x.bytes).getD 0 % 4096
  !bit (kgetD (s.tab q).fid fid 0) 63 ||
  (x.tag.isNone && (decide (vid = 0xFFF) || (decide (vid = 0) && s.flag (QD_PORT_FWD.DROP_UNTAGGED q x.inPort))))

/-- The source lookup: it sets `HIT` of an entry with the same destination, or posts a learn request. -/
def sourceLookup (q fid : Nat) (x : Pkt) (s : State) : State :=
  let src := srcMac x.bytes
  if x.internal || isGroupMac src then s
  else
    let r : LearnReq := match x.tag with
      | some t => { fid := fid, mac := src, kind := 1, device := t.srcDev, port := t.srcPort }
      | none => { fid := fid, mac := src, kind := 0, device := 0, port := x.inPort }
    let may := s.flag (QD_L2_CTRL.LEARN_EN q) && s.flag (QD_PORT_FWD.LEARN q x.inPort) && bit (kgetD (s.tab q).fid fid 0) 62
    match l2Lookup (s.tab q) fid src with
    | some (tgt, p, e) =>
      if sameDest e r then s.modTab q (fun t => l2Set t tgt p { e with hit := true })
      else if may then postLearn q r s else s
    | none => if may then postLearn q r s else s

/-- Stage 5 on the frame itself: the FID test, which a frame of the fixed control path and an internal frame do not meet, then the source lookup.
Does the frame go on? (DEDUCED, log entry 78) -/
def stage5 (q fid : Nat) (bypass : Bool) (x : Pkt) (s : State) : Bool × State :=
  if !x.internal && !bypass && fidDrops s q fid x then (false, s.bump (QD_FID_DROP q)) else (true, sourceLookup q fid x s)

/-! Stages 3 and 4 (R185, R333 to R336). -/

/-- The handle and the sequence tag that came with a frame from the fabric (R185, R404): on the wire after its DFP tag, or before its PDU. -/
def Pkt.seqTag (x : Pkt) : Option (Nat × Nat × Nat) :=
  match x.rtag, x.tag with
  | some t, _ => some t
  | none, some t =>
    if t.seq && etype x.bytes 22 = rtagEtype then
      some (beAt x.bytes 24 2, beAt x.bytes 26 2 / 2 ^ 14, beAt x.bytes 26 2 % 2 ^ 14)
    else none
  | none, none => none

/-- The stream whose key a frame carries, at its ingress device. -/
def idStream (s : State) (q fid : Nat) (x : Pkt) : Option (Nat × Stream) :=
  let sid := s.tab q
  let h := if x.internal then
      sidHandle sid 2 (x.inPort * 2 ^ 48 + ihName x.bytes)
    else match sidHandle sid 0 (fid * 2 ^ 48 + dstMac x.bytes) with
      | some h => some h
      | none => sidHandle sid 1 (fid * 2 ^ 48 + srcMac x.bytes)
  match h with
  | some h => (s.stream h).bind (fun y => if y.phase = .committed && y.ingress then some (h, y) else none)
  | none => none

/-- The gate of stage 4 (R334). -/
def policeGate (y : Stream) (x : Pkt) : Bool :=
  let c := max 1 y.gateCycle
  !y.gateEn || decide ((stampOn x.start y.gateDom % c + c - y.gateStart % c) % c < y.gateLen)

/-- The level of a stream's bucket now, in 1/`INTERVAL` byte (R335). -/
def policeLevel (s : State) (y : Stream) : Nat := min (policeDepth y) (y.meter + (s.lt - y.meterAt) * (y.frames * y.maxLen))

/-- Stage 4 (R334): whether a frame conforms; a conforming one takes its tokens. -/
def police (h : Nat) (y : Stream) (x : Pkt) (s : State) : Bool × State :=
  let need := x.len * y.interval
  let lvl := policeLevel s y
  if y.maxLen < x.len || !policeGate y x || lvl < need then (false, s)
  else (true, s.modStream h (fun y => { y with meter := lvl - need, meterAt := s.lt }))

/-! The DFP tag of a copy (R454). -/

/-- The tag of a copy that leaves on a fabric port; none for the frames that R454 excepts. -/
def copyTag (s : State) (x : Pkt) (fid tc : Nat) (f : Fwd) (stream : Option Stream) (p : Nat) : Option DfpTag :=
  let new (type dev port : Nat) (seq : Bool) : DfpTag :=
    { type := type, seq := seq, srcDev := if hasAddr s then ownAddr s else 0, dstDev := dev, srcPort := x.inPort, dstPort := port, tc := tc,
      fid := fid }
  let named : DfpTag := match f.names with
    | some (d, port) => new 0 d port false
    | none => new 1 0 0x7F false
  if !s.fabricPort p then none
  else match x.tag with
    | some t =>
      let t' := { t with hops := t.hops - 1 }
      some (match f.names with
        | some (d, port) => { t' with dstDev := d, dstPort := port }
        | none => t')
    | none =>
      if !x.internal && ((x.inPort = 74 && tc = 7) || isGptp x.bytes || isEapol x.bytes) then none
      else match stream.bind (fun y => y.paths.find? (fun r => decide (r.first = p))) with
        | some r =>
          let d := (r.hops.getLast?).getD (0, 0x7F)
          some (new 0 d.1 d.2 true)
        | none => some named

/-! Stages 6 to 8. -/

/-- What stages 3 to 5 leave of a frame: class, FID, destination, the stream that carries it with its handle, the sequence tag that it arrived with, the
owners that pass recovery (R351), whether stage 3 had identified it (R197), and what the hedge decided. -/
structure Staged where
  x : Pkt
  q : Nat
  fid : Nat
  tc : Nat
  fwd : Fwd
  stream : Option (Nat × Stream) := none
  seq : Option (Nat × Nat) := none
  ingress : Bool := false
  rec_ : Nat := 0
  void : Bool := false
  ident : Bool := false
  dec : HDec := {}
deriving DecidableEq, Repr

/-- A frame is dropped: a host that asked for its departure learns it (R98). -/
def dropPkt (x : Pkt) (s : State) : State := txDropped x.tx s

/-- The matrix removes copies (R200, R223): the owners left; a removed copy of a stream counts where a memory error removed it. -/
def zoneFilter (k : Staged) : List Nat → State → Nat × State
  | [], s => (0, s)
  | p :: r, s =>
    let h := s.hq k.q
    if zoneAllows h k.dec k.ident k.x.inPort p then
      let (m, s) := zoneFilter k r s
      (orBit m p, s)
    else
      let s := zoneDeny k.q k.x.inPort p s
      let s := match k.stream with
        | some (n, _) => if errDenies h k.x.inPort p then s.modCc n (fun c => { c with faultDiscard := c.faultDiscard + 1 }) else s
        | none => s
      zoneFilter k r s

/-- The mirror copy (R200, R209): its port and class where it is added. (DEDUCED, log entry 91) -/
def mirrorCopy (q inPort : Nat) (owners : Nat) (d : HDec) (s : State) : Option (Nat × Nat) × State :=
  match d.mirror.bind (mirrorDest (s.hq q)) with
  | some (p, c) =>
    if bit owners p then (none, s)
    else if portCell (s.hq q) inPort p = 0 then (none, zoneDeny q inPort p s)
    else (some (p, c), s.bump (QD_HEDGE_MIRROR q))
  | none => (none, s)

/-- Append one owner's copy (R31, R398, R400): a copy of an internal frame for an Ethernet port waits for the batch builder. -/
def putCopy (k : Staged) (b p c : Nat) (cell : Cell) (s : State) : State :=
  if k.x.internal && isEthPort p then
    { s with mem := { s.mem with batchWait := s.mem.batchWait ++ [{ quad := k.q, buf := b, port := p, tc := c, cell := some cell }] } }
  else enqueue p c cell (batchBefore p c k.x.inPort s)

/-- What an owner's own copy carries to an RXQ (R101, R207): a redirect names its rule and its queue set. -/
def ownCell (k : Staged) (cell : Cell) : Cell :=
  if k.fwd.reason = 1 then { cell with reason := 1, rule := k.dec.rule.getD 0xFFFF, qs := k.dec.qs }
  else { cell with reason := k.fwd.reason }

/-- Stage 8: the copies in ascending port order; those of a destination device wait for recovery as one. (DEDUCED, log entry 91) -/
def stage8 (k : Staged) (b : Nat) (owners : Nat) (mirror : Option (Nat × Nat)) (s : State) : State :=
  let all := owners ||| (match mirror with
    | some (p, _) => onePort p
    | none => 0)
  let one (s : State) (p : Nat) : State :=
    if bit k.rec_ p && bit owners p then s
    else
      let cell : Cell := { buf := b, ofStream := k.stream.isSome, tag := copyTag s k.x k.fid k.tc k.fwd (k.stream.map (·.2)) p }
      match mirror with
      | some (m, c) =>
        if m = p then putCopy k b p c { cell with reason := 2, rule := k.dec.rule.getD 0xFFFF } s
        else putCopy k b p k.tc (ownCell k cell) s
      | none => putCopy k b p k.tc (ownCell k cell) s
  let s := (maskList all 76).foldl one s
  if k.rec_ &&& owners ≠ 0 then { s with mem := { s.mem with recWait := s.mem.recWait ++ [{ quad := k.q, buf := b }] } } else s

/-- The number that stage 7 draws at the ingress device (R344): the state after it, and the tag. -/
def drawNumber (h : Nat) (y : Stream) (set left : Nat) (s : State) : (Nat × Nat) × State :=
  let n : HeldNum := { epoch := y.epoch % 4, number := y.next, set := set, firsts := y.firstMask &&& set, left := left }
  ((y.epoch % 4, y.next), s.modStream h (fun y => { y with next := (y.next + 1) % 16384, pend := y.pend ++ [n] }))

/-- A buffer is taken: it is written, and the copies are enqueued. (DEDUCED, log entry 91) -/
def store (k : Staged) (b set owners : Nat) (mirror : Option (Nat × Nat)) (s : State) : State :=
  let all := owners ||| (match mirror with
    | some (p, _) => onePort p
    | none => 0)
  let (seq, s) := match k.stream with
    | some (h, y) =>
      if k.ingress then
        let (t, s) := drawNumber h y set owners s
        (some t, s)
      else (k.seq, s)
    | none => (none, s)
  let buf : Buf := { pkt := k.x, len := k.x.len, owner := all, handle := (k.stream.map (·.1)).getD 0xFFFF, ofStream := k.stream.isSome,
                     seq := seq, tc := k.tc, fid := k.fid }
  stage8 k b owners mirror (poolChanged (poolOf s b) (putBuf b buf s))

/-- A frame of a stream that enters here has no copy or no buffer: it is not accepted (R63, R200, R223, R583). -/
def refused (k : Staged) (s : State) : State :=
  match k.stream with
  | some (h, _) => if k.ingress then s.modCc h oneRefused else s
  | none => s

/-- Stages 6 to 8 (R137, R142, R200, R209, R344). -/
def stage678 (k : Staged) (s : State) : State :=
  let set := k.fwd.ports
  let (owners, s) := zoneFilter k (maskList set 76) s
  let (mirror, s) := mirrorCopy k.q k.x.inPort owners k.dec s
  let n := popCount owners 76 + b2n mirror.isSome
  if n = 0 then dropPkt k.x (refused k s)
  else match k.stream with
    | some (h, y) =>
      if k.ingress && !y.written then dropPkt k.x (refused k s)
      else if k.ingress && owners = 0 then
        -- only the mirror copy is left: it is no frame of the stream
        let k' := { k with stream := none, ingress := false, fwd := { k.fwd with ports := 0 } }
        let s := refused k s
        match allocUnreserved (k.x.len + 16) n k.tc k.x.inPort s with
        | (some b, s) => store k' b 0 0 mirror s
        | (none, s) => dropPkt k.x s
      else match allocReserved h n s with
        | some b => store k b set owners mirror s
        | none => dropPkt k.x (quotaDiscard h s)
    | none =>
      match allocUnreserved (k.x.len + 16) n k.tc k.x.inPort s with
      | (some b, s) => store k b set owners mirror s
      | (none, s) => dropPkt k.x s

/-- The ingress port leaves the destination; a frame left with none is discarded (R173). -/
def cutIngress (k : Staged) (s : State) : State :=
  let m := clrBit k.fwd.ports k.x.inPort % 2 ^ 76
  if m = 0 then dropPkt k.x ((refused k s).bump (QD_DISCARD k.q)) else stage678 { k with fwd := { k.fwd with ports := m } } s

/-- Re-class and class override (R170, R197, R207): they act on frames that stage 3 has not identified and that are in TC0 to TC4. A frame
that stage 4 demoted stays identified, so `TC_OVR_EN` does not act on it. (DESIGN CHOICE, log entry 129) -/
def lateClass (tc : Nat) (identified : Bool) (d : HDec) (f : Fwd) : Nat :=
  let c := if identified || 4 < tc then tc else d.tc.getD tc
  match f.hit with
  | some e => if c ≤ 4 && !identified && e.tcOvrEn then e.tcOvr else c
  | none => c

/-- Stage 5's destination for a frame that no stream carries (R27, R173). `ident`: stage 3 had identified it. -/
def forwardOn (q fid tc : Nat) (ident : Bool) (x : Pkt) (d : HDec) (s : State) : State :=
  let (f, s) := match d.dest with
    | some p => ((some { ports := onePort p, reason := 1 } : Option Fwd), s.bump (QD_HEDGE_REDIRECT q))
    | none => lookupFwd q fid x s
  match f with
  | none => dropPkt x s
  | some f => cutIngress { x := x, q := q, fid := fid, tc := lateClass tc ident d f, fwd := f, ident := ident, dec := d } s

/-- Stage 5 for a frame that no stream carries. -/
def bestEffort (q fid tc : Nat) (ident : Bool) (x : Pkt) (d : HDec) (s : State) : State :=
  match stage5 q fid d.bypass x s with
  | (true, s) => forwardOn q fid tc ident x d s
  | (false, s) => dropPkt x s

/-- The local destination ports of a stream pass recovery, but on a dual-homed port of a hot pair (R351, R372). -/
def usesRecovery (s : State) (y : Stream) : Bool := !(s.pairMode = 2 && y.dests.any (fun p => s.flag (PAIR_TWIN.VALID p)))

/-- The egress ports of a copy that came from the fabric (R455): those of the hop it arrived by, and the local destinations. (DEDUCED, log entry 83) -/
def tagPorts (y : Stream) (inPort : Nat) : Nat :=
  let hops := y.hops.filter (fun g => !g.tent)
  let mine := hops.filter (fun g => g.inPort = inPort)
  let use := if mine.isEmpty && !y.ingress then hops else mine
  listMask (use.map (·.outPort) ++ (if y.ingress || use.isEmpty then [] else y.dests))

/-- A copy of a stream that arrived with its sequence tag (R351, R455): it is forwarded, or passes recovery. A void at its destination takes no
buffer. -/
def taggedFrame (q fid : Nat) (h : Nat) (y : Stream) (t : Nat × Nat) (x : Pkt) (d : HDec) (s : State) : State :=
  let void := (x.tag.map (·.void)).getD false
  let recover := !y.ingress && !y.dests.isEmpty && usesRecovery s y
  match stage5 q fid d.bypass x s with
  | (false, s) => dropPkt x s
  | (true, s) =>
    if d.dest.isSome then forwardOn q fid y.tc true x d s
    else if void && recover then
      let cell : Cell := { buf := 0xFFFF, void := some (h, t.1, t.2), at_ := s.lt }
      { s with mem := { s.mem with recWait := s.mem.recWait ++ [{ quad := q, buf := 0xFFFF, cell := some cell }] } }
    else
      let ports := tagPorts y x.inPort
      cutIngress { x := x, q := q, fid := fid, tc := y.tc, fwd := { ports := ports }, stream := some (h, y), seq := if void then none else some t,
                   rec_ := if recover then listMask y.dests else 0, void := void, ident := true, dec := d } s

/-- The ports of a stream at its ingress device: the first hops of its live paths and its local destinations (R173, R316,
R343). -/
def Stream.ingressPorts (y : Stream) : Nat := listMask (y.livePaths.map (·.first) ++ y.dests)

/-- A frame that its key identifies at the ingress device: stages 4 and 5 (R197, R334, R336, R343). One that the FID test drops, or that a redirect
takes, was offered and is refused (R63). (DEDUCED, log entry 82) -/
def streamFrame (q fid tc : Nat) (h : Nat) (y : Stream) (x : Pkt) (d : HDec) (s : State) : State :=
  let s := s.modCc h (fun c => { c with offered := c.offered + 1 })
  match police h y x s with
  | (false, s) =>
    if y.demote then bestEffort q fid y.demoteTc true x d (s.modCc h (fun c => { c with policeDemote := c.policeDemote + 1 }))
    else dropPkt x (s.modCc h (fun c => { c with policeDrop := c.policeDrop + 1 }))
  | (true, s) =>
    match stage5 q fid d.bypass x s with
    | (false, s) => dropPkt x (s.modCc h oneRefused)
    | (true, s) =>
      if d.dest.isSome then forwardOn q fid tc true x d (s.modCc h oneRefused)
      else
        cutIngress { x := x, q := q, fid := fid, tc := y.tc, fwd := { ports := y.ingressPorts }, stream := some (h, y), ingress := true, ident := true,
                     dec := d } s

/-- The class that a frame brings (R95, R382, R453). (DEDUCED, log entry 79) -/
def frameClass (x : Pkt) : Nat :=
  match x.cls, x.tag with
  | some c, _ => c
  | none, some t => t.tc
  | none, none => if x.internal then ihTc x.bytes else 0

/-- A frame that stage 3 has not identified: the hedge's meter acts on it (R207, R208). -/
def plainFrame (q fid tc : Nat) (x : Pkt) (d : HDec) (s : State) : State :=
  let (s, ok) := match d.meter with
    | some m => meterFrame q m x.len s
    | none => (s, true)
  if ok then bestEffort q fid tc false x d s else dropPkt x s

/-- What stage 3 finds (R185): the stream of a copy that arrived with its sequence tag, or the one that a frame's key names at its ingress device. -/
inductive Found where
  | none
  | tagged (h : Nat) (y : Stream) (t : Nat × Nat)
  | keyed (h : Nat) (y : Stream)
deriving DecidableEq, Repr

/-- Stage 3 (R185). -/
def identify (s : State) (q fid : Nat) (x : Pkt) : Found :=
  match x.seqTag with
  | some (h, e, n) =>
    match s.stream h with
    | some y => if y.committed then .tagged h y (e, n) else .none
    | none => .none
  | none =>
    match idStream s q fid x with
    | some (h, y) => .keyed h y
    | none => .none

/-- Stages 3 to 8 of a frame that stage 2 lets on. (DEDUCED, log entry 82) -/
def stage3 (q fid tc : Nat) (x : Pkt) (d : HDec) (s : State) : State :=
  match identify s q fid x with
  | .tagged h y t => taggedFrame q fid h y t x d s
  | .keyed h y => streamFrame q fid tc h y x d s
  | .none => plainFrame q fid tc x d s

/-- The ports that a frame would go to: what R38's test after stage 2 looks at. (DEDUCED, log entry 81) -/
def wouldReach (s : State) (q fid : Nat) (x : Pkt) (d : HDec) : Nat :=
  match d.dest, identify s q fid x with
  | some p, _ => onePort p
  | none, .tagged _ y _ => tagPorts y x.inPort
  | none, .keyed _ y => y.ingressPorts
  | none, .none => ((lookupFwd q fid x s).1.map (·.ports)).getD 0

/-- Has a frame SV as its source or as a destination (R38, R600)? -/
def svTakesPart (s : State) (q fid : Nat) (x : Pkt) (d : HDec) : Bool := x.inPort = 74 || bit (wouldReach s q fid x d) 74

/-- A frame for SV on the fixed control path (R196, R249): in TC7, with every zone open. Its source lookup is made as for any other frame; no stream
and no forwarding lookup gives its destination. (DEDUCED, log entry 78) -/
def toSv (q : Nat) (x : Pkt) (d : HDec) (s : State) : State :=
  let fid := s.pktFid x
  stage678 { x := x, q := q, fid := fid, tc := 7, fwd := { ports := onePort 74 }, dec := d } (stage5 q fid true x s).2

/-- Does a gPTP frame name an instance that its port takes part in (R249)? The domainNumber of IEEE 1588 is byte 4 of its header.
(PRESUMED, log entry 77, DEDUCED, log entry 80) -/
def ptpTaken (s : State) (x : Pkt) : Bool :=
  let n := byteAt x.bytes 18
  let on (d : Nat) (f : Fld) : Bool := s.flag f && s.flag (TIME_DOM_CFG.SERVO d) && decide (s.fld (TIME_DOM_CFG.DOMAIN_NUMBER d) = n)
  on 0 (TIME_PORT_CFG.AS_EN0 x.inPort) || on 1 (TIME_PORT_CFG.AS_EN1 x.inPort)

/-- A frame that stage 2 denies: only a mirror copy may leave (R200). (DEDUCED, log entry 81) -/
def denied (q : Nat) (x : Pkt) (d : HDec) (s : State) : State :=
  stage678 { x := x, q := q, fid := s.pktFid x, tc := frameClass x, fwd := { ports := 0 }, dec := d } (s.bump (QD_HEDGE_RULE_DENY q))

/-- From stage 2 on (R199, R249). While `FWD_EN` is 0, a frame that SV neither sends nor gets is dropped after stage 2 has counted it (R38). -/
def stage2 (q : Nat) (x : Pkt) (s : State) : State :=
  let (s, d) := hedgeDecide x s
  let fwd := s.flag GLB_CTRL.FWD_EN
  let fid := s.pktFid x
  if d.bypass && decide (x.inPort ≠ 74) then
    if x.tag.isSome || ptpTaken s x then toSv q x d s else dropPkt x (s.bump TIME_PTP_DISCARD)
  else if d.drop then
    if fwd || decide (x.inPort = 74) then denied q x d s else dropPkt x (s.bump (QD_HEDGE_RULE_DENY q))
  else if fwd || svTakesPart s q fid x d then stage3 q fid (frameClass x) x d s
  else dropPkt x s

/-- The rows of R455 that come before the stages: the counter of a frame that is discarded. -/
def fabricDrop (s : State) (x : Pkt) : Option Nat :=
  if x.internal || !s.fabricPort x.inPort then none
  else match x.tag with
    | none => if isGptp x.bytes || isEapol x.bytes then none else some FAB_BAD_TAG
    | some t =>
      if t.ver ≠ 0 || 3 ≤ t.type then some FAB_BAD_TAG
      else if t.type ≠ 2 && !hasAddr s then some FAB_NOADDR_DROP else none

/-- The eight stages of a frame (R26). (DEDUCED, log entry 78, DEDUCED, log entry 81) -/
def pipeline (x : Pkt) (s : State) : State :=
  match fabricDrop s x with
  | some c => dropPkt x (s.bump c)
  | none => stage2 (homeQuad x.inPort) x s

/-- A memory error that a frame meets on its way (R153 to R155, R191, R222). -/
def meetEcc (q : Nat) (s : State) (e : EccHit) : State :=
  if e.mem ≤ 2 then memEcc e s
  else if e.mem = 3 then tableEcc q e.item e.index e.corrected s
  else hedgeEcc q e.item e.index e.corrected s

/-- PIPELINE_FRAME (R26, R28, R32, R517): the oldest frame of a port's partition passes all eight stages, with the memory errors that it meets. Outside
S0 it waits (R560); after an F3 fault it is dropped. -/
def execPipelineFrame (p : Port) (ecc : List EccHit) (s : State) : Res :=
  match s.stagingOf p.val with
  | [] => .next s
  | x :: r =>
    if s.pwr.state ≠ 0 then .next s
    else
      let s := { s with mem := { s.mem with staging := if r.isEmpty then kdel s.mem.staging p.val else kput s.mem.staging p.val r } }
      if s.flt.f3 then .next (dropPkt x s)
      else
        let s := f3Check (ecc.foldl (meetEcc (homeQuad p.val)) s)
        .next (if s.flt.f3 then dropPkt x s else f3Check (pipeline x s))

end Sys2Proof.Machine
end

