-- ==== Sys2Proof/Machine/EgrSel.lean ====
section
/-! DEFINITION. Egress selection, start, preemption and departure (R264 to R276, R286 to R298), and delivery to the hosts and to firmware (R101,
R102, R148). -/

namespace Sys2Proof.Machine

/-! The bytes of a copy (R292, R345, R348, R454). -/

/-- A stored frame without the DFP tag and the R-TAG that it arrived with. -/
def bareBytes (x : Pkt) : Bytes := if x.tag.isSome then x.bytes.take 12 ++ x.bytes.drop (afterTags x.tag x.bytes) else x.bytes

/-- An R-TAG (R348). -/
def rtagBytes (h e n : Nat) : Bytes := toBe 2 rtagEtype ++ toBe 2 h ++ toBe 2 (e % 4 * 2 ^ 14 + n % 2 ^ 14)

/-- The R-TAG of a buffer's frame: the one it arrived with, or that of the number drawn here. -/
def bufRtag (b : Buf) : Bytes :=
  match b.pkt.seqTag, b.seq with
  | some (h, e, n), _ => rtagBytes h e n
  | none, some (e, n) => rtagBytes b.handle e n
  | none, none => []

/-- An R-TAG after the outermost VLAN tag. -/
def insertRtag (bs rt : Bytes) : Bytes :=
  let o := if isVlan (etype bs 12) then 16 else 12
  bs.take o ++ rt ++ bs.drop o

/-- A frame with the DFP tag of a copy. -/
def tagged (t : DfpTag) (rt bs : Bytes) : Bytes := bs.take 12 ++ dfpBytes t ++ (if t.seq then rt else []) ++ bs.drop 12

/-- An Ethernet frame is padded to 60 bytes (R95). -/
def padded (p : Nat) (bs : Bytes) : Bytes := if isEthPort p then bs ++ zeros (60 - bs.length) else bs

/-- The bytes of a copy from the frame without tags and the copy's tag. -/
def dress (s : State) (p : Nat) (b : Buf) (bare : Bytes) (tag : Option DfpTag) : Bytes :=
  padded p (match tag with
    | some t => tagged t (bufRtag b) bare
    | none =>
      if dualHomed s p b then
        insertRtag bare (if s.flag (PAIR_TWIN.RTAG_STD p) then patch (bufRtag b) 2 [0, 0] else bufRtag b)
      else bare)

/-- A void (R347): 60 bytes with its tags; what else it holds is open. (DEDUCED, log entry 23) -/
def voidBytes (s : State) (t : DfpTag) (v : Nat × Nat × Nat) : Bytes :=
  freeBytes s.free 12 ++ dfpBytes t ++ rtagBytes v.1 v.2.1 v.2.2 ++ freeBytes (s.free + 12) 32

/-- The bytes with which a copy leaves, unmarked. -/
def copyBytes (s : State) (p : Nat) (x : Cell) : Bytes :=
  match x.void, s.buf x.buf with
  | some v, _ => voidBytes s (x.tag.getD {}) v
  | none, some b => dress s p b (bareBytes b.pkt) x.tag
  | none, none => []

/-- The wire length of a copy (R264). -/
def cellWire (s : State) (p : Nat) (x : Cell) : Nat := wireLen p (copyBytes s p x).length (msecOn s p && cellControlled s p x)

/-! Marking (R292). -/

/-- The checksum of an IPv4 header after one of its 16-bit words has changed from a to b. (DEDUCED, log entry 92) -/
def ipSum (old a b : Nat) : Nat :=
  let t := (65535 - old % 65536) + (65535 - a % 65536) + b % 65536
  let t := t % 65536 + t / 65536
  65535 - (t % 65536 + t / 65536)

/-- The ECN bits of a frame without tags, where it is IP. -/
def ecnOf (bs : Bytes) : Option (Nat × Nat) :=
  (ipOff none bs).bind (fun o => if bs.length < o + 12 then none
    else some (o, if isV6 none bs then byteAt bs (o + 1) / 16 % 4 else byteAt bs (o + 1) % 4))

/-- A frame with ECN 0b11. (DEDUCED, log entry 92) -/
def setCe (bs : Bytes) (o : Nat) : Bytes :=
  if isV6 none bs then patch bs (o + 1) [byte (setBits (byteAt bs (o + 1)) 5 4 3)]
  else
    let w := beAt bs o 2
    let v := setBits w 1 0 3
    patch (patch bs o (toBe 2 v)) (o + 10) (toBe 2 (ipSum (beAt bs (o + 10) 2) w v))

/-- Mark a frame and its tag; whether it counts as marked (some true), as not able to carry a mark (some false), or not at all. -/
def markCopy (bs : Bytes) (tag : Option DfpTag) : Bytes × Option DfpTag × Option Bool :=
  let ce := tag.map (fun t => { t with ce := true })
  let e := ecnOf bs
  if e.any (fun x => x.2 = 3) then (bs, tag, none)
  else if e.any (fun x => x.2 = 1 || x.2 = 2) then (setCe bs ((e.map (·.1)).getD 0), ce, some true)
  else if tag.isSome then (bs, ce, some true)
  else (bs, tag, some false)

/-- Is a frame of a class marked at its selection? (DEDUCED, log entry 92) -/
def marks (s : State) (p c : Nat) (x : Cell) : Bool :=
  isEthPort p && decide (p ≤ 39 || p = 75) && decide (c ≤ 4) && !largeFabric s && s.flag (EGR_PORT_CTRL.MARK_EN p) && x.void.isNone &&
  (decide (s.fld (EGR_MARK_CFG.MARK_THRESH p) < queueBytes s p c) || decide (2 ≤ sillLevel s (poolOf s x.buf)))

/-- The bytes with which a copy leaves, with its mark counted. -/
def outBytes (p c : Nat) (x : Cell) (s : State) : Bytes × State :=
  match x.void, s.buf x.buf with
  | none, some b =>
    if marks s p c x && !b.pkt.internal then
      let (bs, tag, n) := markCopy (bareBytes b.pkt) x.tag
      (dress s p b bs tag, match n with
        | some true => s.bump (EGR_MARKED p)
        | some false => s.bump (EGR_MARK_NOT_ECT p)
        | none => s)
    else (copyBytes s p x, s)
  | some _, _ => (copyBytes s p x, s.drewN 44)
  | none, none => ([], s)

/-! The RXQ of a copy for a host (R102). -/

/-- The host of P72 or P73. -/
def portHost (p : Nat) : HostId := if p = 73 then 1 else 0

/-- The queue set whose RXQ takes a copy: named by the redirect rule, else for its class in `HOST_RXSTEER`. -/
def rxSet (s : State) (p c : Nat) (x : Cell) : Nat :=
  match x.qs with
  | some q => q
  | none => bits (s.reg (HOST_RXSTEER (portHost p).val (c / 4))) (8 * (c % 4) + 5) (8 * (c % 4))

/-- Has that RXQ a posted buffer? -/
def rxPosted (s : State) (p c : Nat) (x : Cell) : Bool :=
  let r := s.ring (portHost p) (rxSet s p c x) 1
  decide (r.state = .running) && decide (r.hostIdx ≠ r.dev) && served s (portHost p)

/-- Is it not Running? -/
def rxStopped (s : State) (p c : Nat) (x : Cell) : Bool := decide ((s.ring (portHost p) (rxSet s p c x) 1).state ≠ .running)

/-! Which frame goes next (R266). -/

/-- Is a host port? -/
def isHostPort (p : Nat) : Bool := p = 72 || p = 73

/-- The head of a class. -/
def headOf (s : State) (p c : Nat) : Option Cell := (s.queue p c).head?

/-- The LT of the first bit of a frame that is selected now (R274): the fixed path of the port in its mode lies in between.
(DESIGN CHOICE, log entry 88) -/
def startAt (s : State) (p : Nat) : Nat := s.lt + min 308 (Config.egrAhead p (s.lineRate p))

/-- Is a port free to start a frame (R266)? What it sent before has passed by then with its gap. -/
def portFree (s : State) (p : Nat) : Bool := decide ((s.eport p).freeAt ≤ startAt s p)

/-- May the head of a class start at an LT (R61, R266)? (DESIGN CHOICE, log entry 88) -/
def mayStart (s : State) (p c t : Nat) (x : Cell) : Bool :=
  let w := cellWire s p x
  !(decide (c ≤ 4) && isPaused s p c) &&
  (!isHostPort p || rxPosted s p c x) &&
  gateFits s p c (t - s.lt) (txTime (s.lineRate p) w) &&
  shaperOk s p c w t &&
  !(decide (c ≤ 4) && (!energyOk s p || !thermalOk s p t (txTime (s.lineRate p) w))) &&
  !(msecHolds s p && cellControlled s p x) &&
  (!isLegacyPort p || (match s.buf x.buf with
    | some b => legacyReady s p c b.pkt
    | none => true))

/-- The class whose head starts at an LT: the highest that may, among those that `ok` lets through. (DESIGN CHOICE, log entry 88) -/
def selectClass (s : State) (p t : Nat) (ok : Nat → Bool) : Option (Nat × Cell) :=
  [7, 6, 5, 4, 3, 2, 1, 0].findSome? (fun c =>
    match headOf s p c with
    | some x => if ok c && mayStart s p c t x then some (c, x) else none
    | none => none)

/-! Heads that never start (R102, R275, R290, R650). -/

/-- Why a head is discarded: its counter beside `EGR_DROP`, where it has one; none where it stays. -/
def headDrop (s : State) (p c : Nat) (x : Cell) : Option (Option Nat) :=
  let w := cellWire s p x
  if oversize s p x then some none
  else if longestOpen (s.eport p).active c < txTime (s.lineRate p) w then some (some (EGR_GATE_TOO_SMALL p))
  else if c ≤ 4 && residueRelied s p && !preemptActive s p && residueLimit (s.eport p).active < w then some none
  else if isHostPort p && rxStopped s p c x then some none
  else none

/-- Discard the heads of a queue that never start. -/
def dropQueueHeads (p c : Nat) : List Cell → State → State
  | [], s => s
  | x :: r, s =>
    match headDrop s p c x with
    | some k => dropQueueHeads p c r (discardCopy p x false ((dropHead p c s) |> fun s => match k with
        | some n => s.bump n
        | none => s))
    | none => s

/-- The same in every class. -/
def dropHeads (p : Nat) (s : State) : State := (List.range 8).foldl (fun s c => dropQueueHeads p c (s.queue p c) s) s

/-! Starting a frame. -/

/-- A legacy controller takes the copy (R263, R388, R391). -/
def startLegacy (p c : Nat) (x : Cell) (s : State) : State :=
  match s.buf x.buf with
  | some b => legacyLoad p c x b.pkt s
  | none => s

/-- A frame is selected: the one before it is on its way to its last bit, at which its class's credit stands. -/
def nextSending (p : Nat) (g : Sending) (s : State) : State :=
  let s := match (s.eport p).sending with
    | some o => settleAt p o.tc (waits s p o.tc) (lastBit s p o) s
    | none => s
  s.modEport p (fun e => { e with leaving := e.onWire, sending := some g, freeAt := g.first + txTime (s.lineRate p) g.wire })

/-- The copy goes on the wire, or on its way to a host (R264, R267, R421). -/
def startWire (p c t w : Nat) (x : Cell) (bs : Bytes) (s : State) : State :=
  let (out, s) := if isEthPort p then msecSend p bs s else (bs, s)
  let g : Sending := { tc := c, cell := x, first := t, wire := w, preemptable := classPreemptable s p c, bytes := out, started := t }
  nextSending p g s

/-- A head starts at an LT (R156, R264, R268, R270, R295, R297): a copy whose data are bad is discarded instead (R154). -/
def startCopy (p c t : Nat) (x : Cell) (s : State) : State :=
  let w := cellWire s p x
  let bad := match s.buf x.buf with
    | some b => b.bad && x.void.isNone
    | none => false
  if bad then eccDiscard p x (dropHead p c s)
  else
    let (bs, s) := outBytes p c x s
    let s := chargeShaper p c w t (decide ((s.queue p c).length = 1)) s
    let s := (energyDebit p c w (s.unqueue p c)).bump (EGR_TX_FRAMES p)
    let s := if c ≤ 4 then spend p t (txTime (s.lineRate p) w) s else s
    let s := { s with pair := { s.pair with forwarded := true } }
    if isLegacyPort p then startLegacy p c x s else startWire p c t w x bs s

/-! Preemption (R286 to R289). -/

/-- The bytes of the present fragment after which the frame on the wire is cut: the next boundary that leaves both parts their smallest size; none
where the frame runs to its end. (DEDUCED, log entry 89) -/
def cutAt (s : State) (p : Nat) (g : Sending) : Option Nat :=
  let k0 := divUp ((s.lt - g.first) * s.lineRate p) (8 * sec)
  let k := max k0 (64 * ((s.eport p).active.addFrag + 1) - 4)
  if k + 64 ≤ g.wire - 20 then some k else none

/-- The LT at which another frame may start after a cut: the fragment's check sum, the gap and the preamble follow. (DEDUCED, log entry 89) -/
def afterCut (s : State) (p : Nat) (g : Sending) (k : Nat) : Nat := g.first + txTime (s.lineRate p) (k + 24)

/-- The frame on the wire is suspended after k bytes. -/
def suspendAt (p : Nat) (g : Sending) (k : Nat) (s : State) : State :=
  let free := afterCut s p g k
  let s := settleAt p g.tc (waits s p g.tc) (g.first + txTime (s.lineRate p) k) s
  (s.modEport p (fun e => { e with sending := none, freeAt := free,
                                   suspended := some { g with wire := g.wire - k, sent := g.sent + k } })).bump (EGR_PREEMPT_FRAG p)

/-- A suspended frame goes on. -/
def resumeAt (p t : Nat) (g : Sending) (s : State) : State :=
  nextSending p { g with first := t } ((settleAt p g.tc (waits s p g.tc) t s).modEport p (fun e => { e with suspended := none }))

/-- Does Hold keep preemptable frames back at an LT (R289)? -/
def holds (s : State) (p t : Nat) : Bool := preemptActive s p && holdIn s p (t - s.lt)

/-- After k bytes the next frame may start at LT t: an express frame that is eligible does, or Hold keeps the port free. -/
def preemptAt (p : Nat) (g : Sending) (k t : Nat) (s : State) : State :=
  match selectClass s p t (fun c => !classPreemptable s p c) with
  | some (c, x) => startCopy p c t x (suspendAt p g k s)
  | none => if holds s p t then suspendAt p g k s else s

/-- A preemptable frame is on the wire: an express frame that is eligible, or Hold, suspends it at its next boundary. (DEDUCED, log entry 89) -/
def tryPreempt (p : Nat) (g : Sending) (s : State) : State :=
  match cutAt s p g with
  | none => s
  | some k => preemptAt p g k (max (afterCut s p g k) (startAt s p)) s

/-- The port is free: the class that R266 returns starts, express frames only while a frame is suspended; else the suspended frame goes on. -/
def chooseNext (p : Nat) (s : State) : State :=
  let t := startAt s p
  let e := s.eport p
  let bar := holds s p t
  match selectClass s p t (fun c => !(classPreemptable s p c && (bar || e.suspended.isSome))) with
  | some (c, x) => startCopy p c t x s
  | none => match e.suspended with
    | some g => if bar then s else resumeAt p t g s
    | none => s

/-- An admitted frame waits under a packet-number hold (R62, R428). -/
def heldHeads (p : Nat) (s : State) : State :=
  if msecHolds s p && (List.range 8).any (fun c => (headOf s p c).any (fun x => !(cellStreams s x).isEmpty && cellControlled s p x)) then tellHold p s else s

/-- The scheduler of a port, with the memory error that its read meets (R153, R154, R266). -/
def egressSelect (p : Nat) (ecc : Option EccHit) (s : State) : State :=
  if s.pwr.state ≠ 0 || p = 74 || s.flt.f3 then s
  else if !portUp s p then flushPort p s
  else if !laneAwake (s.eport p) then s
  else
    let s := match ecc with
      | some e => f3Check (memEcc e s)
      | none => s
    if s.flt.f3 then s
    else
      let s := heldHeads p (dropHeads p (markHeld p s))
      if portFree s p && (isEthPort p || (s.eport p).sending.isNone) then parkEnter p (portEmpty s p) (chooseNext p s)
      else match (s.eport p).sending with
        | some g => if g.preemptable && preemptActive s p then tryPreempt p g s else s
        | none => s

/-- EGRESS_SELECT (R266). -/
def execEgressSelect (p : Port) (ecc : Option EccHit) (s : State) : Res := .next (egressSelect p.val ecc s)

/-- SHAPER_ELIGIBLE (R262, R266, R268, R270, R295): tokens, credit or energy have come up to what a waiting head needs; the scheduler is evaluated
again. -/
def execShaperEligible (p : Port) (s : State) : Res := .next (egressSelect p.val none s)

/-! Departure (R43, R243, R246). -/

/-- The oldest frame that a port sends has ended: its class's credit stands at its last bit. -/
def endSending (p : Nat) (g : Sending) (last : Nat) (s : State) : State :=
  let s := settleAt p g.tc (waits s p g.tc) last s
  let s := s.modEport p EPort.departed
  if g.sent = 0 then s else s.bump (EGR_PREEMPT_FRAG p)

/-- FRAME_DEPART (R43): the last bit of the oldest frame that an Ethernet port sends has passed. -/
def execFrameDepart (p : Port) (s : State) : Res :=
  let n := p.val
  match (s.eport n).onWire.head? with
  | some g =>
    let last := lastBit s n g
    if isEthPort n && last ≤ s.lt && s.pwr.state ≤ 2 then
      let s := (endSending n g last s).emit (.frame n (g.bytes ++ fcsOf g.bytes) (txStart s n g.started) last)
      .next (parkEnter n (portEmpty s n) (departCopy n last g.cell s))
    else .next s
  | none => .next s

/-! Delivery to a host (R100 to R102, R115). -/

/-- The write-back of an RXQ entry, without its phase (R101). (DEDUCED, log entry 90, DESIGN CHOICE, log entry 115) -/
def rxEntry (s : State) (h : HostId) (c len cookie status : Nat) (x : Cell) (b : Buf) : Bytes :=
  let t := stampOn b.pkt.start (s.hostDom h)
  toLe 4 cookie ++ toLe 2 len ++ [byte b.pkt.inPort, byte (c % 8 + 8 * b2n b.pkt.internal)] ++ toLe 4 (nsOf t) ++ toLe 6 (secOf t) ++
  toLe 2 b.handle ++ toLe 2 x.reason ++ toLe 2 x.rule ++ toLe 2 status ++ zeros 5

/-- The copy that P72 or P73 has selected is delivered into the posted buffer, or is too long for it. (DEDUCED, log entry 90) -/
def rxDeliver (h : HostId) (p addr bufLen cookie : Nat) (g : Sending) (b : Buf) (s : State) : State :=
  let qs := rxSet s p g.tc g.cell
  let last := lastBit s p g
  let n := g.bytes.length
  let s := endSending p g last s
  if n ≤ bufLen then
    let s := putEntry h qs 1 (rxEntry s h g.tc n cookie 0 g.cell b) (s.emit (.hostWrite h addr g.bytes))
    doorbellFetch h (departCopy p last g.cell s)
  else
    let s := putEntry h qs 1 (rxEntry s h g.tc n cookie 1 g.cell b) s
    doorbellFetch h (release g.cell.buf p false s)

/-- Does an RXQ entry post a buffer (R100)? (DESIGN CHOICE, log entry 135) -/
def posted (entry : Bytes) : Bool :=
  let n := leAt entry 8 4
  decide (256 ≤ n) && decide (n ≤ 16384) && decide (n % 64 = 0)

/-- HOST_RX_DELIVER: `entry` is what the next entry of the RXQ holds (R100). Where the RXQ no longer runs, the copy is discarded; an entry that
posts no buffer leaves the copy waiting. -/
def execHostRxDeliver (h : HostId) (entry : Bytes) (s : State) : Res :=
  let p := hostPort h
  match (s.eport p).sending with
  | some g =>
    if s.lt < lastBit s p g || 2 < s.pwr.state then .next s
    else if rxStopped s p g.tc g.cell then .next (discardCopy p g.cell false (endSending p g (lastBit s p g) s))
    else match s.buf g.cell.buf with
      | some b =>
        if rxPosted s p g.tc g.cell && posted entry then .next (rxDeliver h p (leAt entry 0 8) (leAt entry 8 4) (leAt entry 12 4) g b s) else .next s
      | none => .next (endSending p g (lastBit s p g) s)
  | none => .next s

/-! Delivery to firmware (R148, R240, R248). -/

/-- What firmware sends itself as a command. -/
def fwCtx : CmdCtx := { who := .firmware, tag := 0, rlen := 0, raddr := 0, par := [] }

/-- A rate of the servo's, within ±500 ppm (R229, R239): how it follows from the offsets is left open. (DESIGN CHOICE, log entry 140) -/
def servoRate (v : Nat) : Int := (v % 1099511627 : Nat) - 549755813

/-- The servo corrects its domain (R236, R237, R239): the step at the first Sync at which `STEP_ARMED` is 1, else a new rate. Both take effect at the
effect tick. (DEDUCED, log entry 140) -/
def servoSteer (d : Nat) (off : Int) (s : State) : State :=
  let x := s.dom d
  if x.stepArmed && (decide (off < 0) || decide (off.natAbs ≤ domNs x)) then
    let p : TimePend := { dom := d, start := s.lt, cmd := fwCtx, change := .step (if off < 0 then 1 else 2) off.natAbs }
    pendTime p (s.setDom d { x with stepArmed := false, set := true })
  else
    let p : TimePend := { dom := d, start := s.lt, cmd := fwCtx, change := .rate (servoRate s.freeVal) none }
    pendTime p s.drew

/-- The servo's result from a frame: domain, offset to the grandmaster in ns, and whether it is locked (R239, R240). -/
def servoTake (d : Nat) (off : Int) (lock : Bool) (s : State) : State :=
  let x := s.dom d
  let thr := s.fld (TIME_DOM_CFG.STEP_THRESH d) * 1000
  let big := decide (thr ≠ 0) && decide (thr < off.natAbs)
  let tell := big && !x.needed
  let x := { x with locked := lock, needed := if big then true else if off.natAbs * 2 < thr then false else x.needed }
  let s := s.setDom d x
  servoSteer d off (if tell then raise 0x0402 0 (evPay [(16, 1, d), (20, 8, ofSigned 64 off)]) s else s)

/-- A control frame whose `MSG` firmware does not know: it is ignored and counted (R457). -/
def unknownMsg (s : State) (x : Cell) : Bool :=
  match s.buf x.buf with
  | some b => b.pkt.tag.any (fun t => t.type = 2) && !(decide (1 ≤ byteAt b.pkt.bytes 22) && decide (byteAt b.pkt.bytes 22 ≤ 11))
  | none => false

/-- SV_FRAME_TAKE (R148): firmware takes the frame that R266 selects among SV's queues; `servo` is what a gPTP frame made of a domain's offset. -/
def execSvFrameTake (ecc : Option EccHit) (servo : Option (Nat × Int × Bool)) (s : State) : Res :=
  if s.pwr.state ≠ 0 || s.flt.f3 || !triadRun s || !portFree s 74 then .next s
  else
    let s := match ecc with
      | some e => f3Check (memEcc e s)
      | none => s
    let t := startAt s 74
    let s := dropHeads 74 s
    match (if s.flt.f3 then none else selectClass s 74 t (fun _ => true)) with
    | none => .next s
    | some (c, x) =>
      let s := if unknownMsg s x then s.bump FAB_BAD_TAG else s
      let s := startCopy 74 c t x s
      match (s.eport 74).sending with
      | none => .next s
      | some g =>
        let s := departCopy 74 s.lt g.cell (endSending 74 g s.lt s)
        match servo with
        | some (d, off, lock) => if d ≤ 1 && s.flag (TIME_DOM_CFG.SERVO d) then .next (servoTake d off lock s) else .next s
        | none => .next s

end Sys2Proof.Machine
end

