-- ==== Sys2Proof/Machine/Wake.lean ====
section
/-! DEFINITION. Wake events, votes, commits and sleep of the network (R527 to R544, R608, R609). -/

namespace Sys2Proof.Machine

/-! Wake events. -/

/-- A wake event is recognised: counted, shown, raised (R527). -/
def wakeShow (d : WakeDue) (s : State) : State :=
  let s := (((s.bump WAKE_EVENTS).setFld WAKE_LAST.SOURCE d.source).setFld WAKE_LAST.WHICH (d.which % 256)).setFld WAKE_LAST.CLUSTERS d.clusters
  let s := if d.source = 0 then s.setFld (WAKE_PORT_STATUS.WOKE d.which) 1 else s
  raise 0x0E02 0 (evPay [(16, 1, d.source), (17, 1, d.which), (18, 2, d.clusters)]) s

/-- A wake hold (R531): set by a port or a pin; a confirmed one stays, an unconfirmed one starts anew (R532). -/
def wakeHold (d : WakeDue) (s : State) : State :=
  if 2 ≤ d.source || !wakeRole s then s
  else
    (maskList d.clusters 16).foldl (fun s c =>
      if khas s.wake.holds c && bit s.wake.confirmed c then s
      else s.modWake (fun w => { w with holds := kput w.holds c (d.at_ + s.fld WAKE_TIMERS.WAKE_HOLD * 1000000), confirmed := clrBit w.confirmed c })) s

/-- A WAKE message is due; it leaves once the device is on the flood tree (R542 step 4). (DEDUCED, log entry 52) -/
def wakeSay (clusters cause : Nat) (s : State) : State :=
  if !s.flag FAB_CFG.DFP_EN then s
  else if treePorts s = [] then
    s.modWake (fun w => { w with say := some (match w.say with
      | some (m, k) => (m ||| clusters, if cause = 2 then 2 else k)
      | none => (clusters, cause)) })
  else flood none (.sleep { kind := 2, addr := ownAddr s, clusters := clusters, cause := cause }) s

/-- `CAUSE` of R537 for a source. -/
def wakeCause (source : Nat) : Nat := if source = 2 then 1 else 0

/-- The clusters whose commit a wake aborts: received, and not yet settled (R540). -/
def abortable (s : State) (clusters : Nat) : Nat := s.wake.commits.foldl (fun m c => m ||| (c.clusters &&& clusters)) 0

/-- Clusters leave the commits and are awake again. (DEDUCED, log entry 70) -/
def uncommit (m : Nat) (s : State) : State :=
  let keep := 0xFFFF - (m &&& 0xFFFF)
  s.modWake (fun w => { w with
    committed := w.committed &&& keep,
    commits := (w.commits.map (fun c => { c with clusters := c.clusters &&& keep })).filter (fun c => decide (c.clusters ≠ 0)) })

/-- The commit of clusters is aborted (R540): ports return to what their clusters give; for a wake found here, the wake is sent on the ports
already asleep and the message says a late wake. (DEDUCED, log entry 70) -/
def abortCommit (m : Nat) (d : WakeDue) (cause : Nat) (s : State) : State :=
  let asleep := (clusterPorts s m).filter (fun p => decide (2 ≤ portState s p) && !khas s.wake.since p)
  let s := portsByCluster (uncommit m (s.bumpBy WAKE_ABORTS (popCount m 16)))
  let s := raise 0x0E05 0 (evPay [(18, 2, m), (20, 1, cause)]) s
  if d.source = 3 then s else wakeSay m 2 (asleep.foldl sendWakeOn s)

/-- The ports that an ordinary wake brings to normal (R542 step 1). -/
def wakePorts (s : State) (m : Nat) : List Nat :=
  (List.range 72).filter (fun p => decide (portClusters s p &&& m ≠ 0) || decide (portClusters s p = 0) || s.fabricPort p)

/-- Clusters become awake here (R530, R542 steps 1 and 2): `new` are those that slept. The device sleeps again at the next commit that names it. -/
def becomeAwake (m new : Nat) (s : State) : State :=
  let s := (wakePorts s m).foldl (fun s p => portTo 0 s p) ((uncommit m s).modWake (fun w => { w with may := false }))
  (clusterPorts s new).foldl sendWakeOn s

/-- The ordinary wake of R541 and R542. -/
def ordinaryWake (d : WakeDue) (m new cause : Nat) (s : State) : State :=
  let s := becomeAwake m new s
  if d.source = 3 then s else wakeSay m cause s

/-- A wake event in S0: holds, then the abort of commits that have not settled, and the ordinary wake of the other clusters. -/
def wakeNow (d : WakeDue) (cause : Nat) (s : State) : State :=
  let s := wakeHold d (wakeShow d s)
  let a := abortable s d.clusters
  let rest := d.clusters &&& (0xFFFF - (a &&& 0xFFFF))
  let s := if a = 0 then s else abortCommit a d cause s
  if a ≠ 0 && rest = 0 then s else ordinaryWake d rest (rest &&& s.wake.committed) cause s

/-- The wake events that an exit kept waiting: every cluster woken had slept with the device (R542). (DEDUCED, log entry 52) -/
def wakeAfterExit (s : State) : State :=
  s.wake.due.foldl (fun s d =>
    ordinaryWake d d.clusters d.clusters (wakeCause d.source) (wakeHold d (wakeShow d s))) (s.modWake (fun w => { w with due := [] }))

/-- A wake event (R527, R542, R559): in S1 to S5 it waits for the exit that it causes. A unit in role Cold stays in S4 (R607, R608).
(DEDUCED, log entry 72) -/
def wakeEvent (d : WakeDue) (cause : Nat) (s : State) : State :=
  if s.pwr.state = 0 then
    let s := wakeNow d cause s
    if s.pwr.entry.isSome then trigger 4 s else s
  else if s.rst.porLow || (s.pairMode = 1 && s.fld PAIR_STATUS.ROLE = 3) then s
  else trigger 4 (s.modWake (fun w => { w with due := w.due ++ [d] }))

/-- A wake event of a port. -/
def portWake (p : Nat) (s : State) : State :=
  wakeEvent { source := 0, which := p, clusters := portClusters s p, at_ := s.lt } 0 s

/-- PORT_WAKE_DETECT (R527): `alt` is the second signal of the port's kind: a WUR over a T1 link, `CAN_INH` rising. A low `CAN_RXD` must stay for
`FILTER` µs, a dominant LIN bus for 150 µs; `held` is how long it has, in ns. (DEDUCED, log entry 146) -/
def portRecognises (s : State) (p : Nat) (alt : Bool) (held : Nat) : Bool :=
  let st := portState s p
  let five := decide (s.pwr.state = 5)
  s.flag (WAKE_PORT_CFG.WAKE_EN p) &&
  (if 16 ≤ p && p ≤ 31 then !five && (if alt then decide (st = 0) && khas s.links p else decide (st ≠ 0))
   else if 32 ≤ p && p ≤ 39 then !five && !alt && decide (st ≠ 0)
   else if isCanPort p then decide (2 ≤ st) && (if alt then s.flag (WAKE_PORT_CFG.INH_SENSE p) else s.flag (WAKE_PORT_CFG.RXD_WAKE p) && decide (s.fld (WAKE_PORT_CFG.FILTER p) * 1000 ≤ held))
   else if isLinPort p then decide (2 ≤ st) && !alt && decide (150000 ≤ held)
   else false)

def execPortWakeDetect (p : Port) (alt : Bool) (held : Nat) (s : State) : Res :=
  .next (if portRecognises s p.val alt held then portWake p.val s else s)

/-- Does a pin's level wake (R527): the level, or the edge to it, is the one of `MODE`, and it has stood for `FILTER` × 10 ns? (DEDUCED, log entry 146) -/
def pinWakes (s : State) (n : Nat) (level : Bool) (held : Nat) : Bool :=
  s.flag (WAKE_IN_CFG.EN n) && decide (level = !bit (s.fld (WAKE_IN_CFG.MODE n)) 0) && decide (s.fld (WAKE_IN_CFG.FILTER n) * 10 ≤ held)

/-- WAKE_IN_DETECT (R527): a pin has taken a level and held it for `held` ns. -/
def execWakeInDetect (n : Fin 4) (level : Bool) (held : Nat) (s : State) : Res :=
  .next (if pinWakes s n.val level held then
    wakeEvent { source := 1, which := n.val, clusters := s.fld (WAKE_IN_CFG.CLUSTERS n.val), at_ := s.lt } 0 s else s)

/-! Sleep requested by the sleep logic (R539). -/

/-- Does the device rest: asleep by commits, every port in its state? -/
def sleepReady (s : State) : Bool :=
  maySleep s && s.wake.since.isEmpty && s.wake.commits.all (fun c => !c.done) && wakeRole s && decide (s.pwr.state = 0) && s.pwr.entry.isNone &&
  decide (1 ≤ s.fld WAKE_CTRL.SLEEP_STATE) && decide (s.fld WAKE_CTRL.SLEEP_STATE ≤ 5)

/-- Request `SLEEP_STATE`; a refusal is repeated in 10 ms. -/
def sleepRequest (s : State) : State :=
  if sleepReady s then
    let (r, s) := pwrRequest (s.fld WAKE_CTRL.SLEEP_STATE) 1 s
    s.modWake (fun w => { w with retry := if r = 0 then none else some (s.lt + 10000000) })
  else s.modWake (fun w => { w with retry := none })

/-- SLEEP_STATE_RETRY (R539). -/
def execSleepStateRetry (s : State) : Res :=
  match s.wake.retry with
  | some t => .next (if t ≤ s.lt then sleepRequest s else s)
  | none => .next s

/-- After a port has reached its state the sleep logic looks again. -/
def settledNow (had : Bool) (s : State) : State := if had && s.wake.since.isEmpty then sleepRequest s else s

def execPortStateReached (p : Port) (s : State) : Res := .next (settledNow (khas s.wake.since p.val) (portReachedNow p.val s))
def execPortStateForced (p : Port) (s : State) : Res := .next (settledNow (khas s.wake.since p.val) (portForced p.val s))

/-- TC10_SLEEP_REQUEST (R529): the partner's request is answered; the port stays in normal. -/
def execTc10SleepRequest (p : Port) (s : State) : Res :=
  .next (if 16 ≤ p.val && p.val ≤ 39 && portState s p.val = 0 && khas s.links p.val then s.emit (.sleepAnswer p.val) else s)

/-! Holds (R531, R532). -/

/-- WAKE_HOLD_TICK: at each 1 ms tick of LT the unconfirmed holds that have run out end as false wakes. (DEDUCED, log entry 52) -/
def execWakeHoldTick (s : State) : Res :=
  if s.pwr.state ≠ 0 || s.lt % 1000000 ≠ 0 then .next s else
  let m := listMask ((s.wake.holds.filter (fun e => decide (e.2 ≤ s.lt) && !bit s.wake.confirmed e.1)).map (·.1))
  if m = 0 then .next s else
  let s := s.modWake (fun w => { w with holds := w.holds.filter (fun e => !bit m e.1) })
  .next (raise 0x0E03 0 (evPay [(18, 2, m)]) (s.bumpBy WAKE_FALSE_CNT (popCount m 16)))

/-! Votes (R534, R536, R544). -/

/-- The vote bits of a host. (DEDUCED, log entry 72) -/
def hostVote (who : Who) : Option (Nat × Fld) :=
  match who with
  | .host h _ => some (h.val, if h.val = 0 then WAKE_HOST_VOTE.HA else WAKE_HOST_VOTE.HB)
  | .firmware => none

/-- `NET_SLEEP_VOTE` (R544); a confirmed hold of a named cluster ends (R531), and a cluster that turns awake is a wake event (R527). -/
def execNetSleepVote (c : CmdCtx) (s : State) : Res :=
  .next (command c 0x0E02 s fun s =>
    let mask := leAt c.par 0 2
    if !plenIs c 8 || !parZero c 4 8 || mask = 0 then complete c 0x0E02 stParam [] s
    else match hostVote c.who with
      | none => complete c 0x0E02 stOk [] s
      | some (h, f) =>
        let before := localVote s
        let s := s.setFld f ((s.fld f &&& (0xFFFF - mask)) ||| (leAt c.par 2 2 &&& mask))
        let ended := mask &&& s.wake.confirmed
        let s := s.modWake (fun w => { w with holds := w.holds.filter (fun e => !bit ended e.1), confirmed := w.confirmed &&& (0xFFFF - ended) })
        let new := localVote s &&& mask &&& (0xFFFF - before)
        let s := if new = 0 then s else wakeEvent { source := 2, which := h, clusters := new, at_ := s.lt } 1 s
        complete c 0x0E02 stOk [] s)

/-- An awake vote keeps its clusters from being committed (R536). (DEDUCED, log entry 71) -/
def votedAwake (m : Nat) (s : State) : State :=
  s.modWake (fun w => { w with quiet := (maskList m 16).foldl (fun k c => kput k c s.lt) w.quiet })

/-- The WAKE message that waits leaves with the hardware sender too (R609). -/
def sayWaiting (s : State) : State :=
  match s.wake.say with
  | some (m, cause) => if treePorts s = [] then s else wakeSay m cause (s.modWake (fun w => { w with say := none }))
  | none => s

/-- SLEEP_VOTE_SEND (R536): at each change of the vote and every 100 ms, while firmware runs and the role takes part (R608, R609). -/
def execSleepVoteSend (s : State) : Res :=
  if s.pwr.state ≠ 0 then .next s else
  let s := sayWaiting s
  let v := localVote s
  let part := wakePart s
  let due := decide (v ≠ s.wake.sentVote) || decide (part ≠ s.wake.sentPart) || decide (s.wake.lastVote + 100000000 ≤ s.lt)
  if !due || !triadRun s || !wakeRole s then .next s else
  let s := votedAwake (v ||| s.wake.sentVote) s
  let s := s.modWake (fun w => { w with lastVote := s.lt, sentVote := v, sentPart := part })
  .next (if dfpOn s then flood none (.sleep { kind := 0, addr := ownAddr s, clusters := v, part := part }) s else s)

/-! Commits (R536 to R538). -/

/-- A commit is received: counted and raised. (DEDUCED, log entry 71) -/
def takeCommit (clusters at_ : Nat) (may : Bool) (s : State) : State :=
  let s := (s.bump WAKE_COMMITS).modWake (fun w => { w with commits := w.commits ++ [{ clusters := clusters, at_ := at_, may := may }] })
  raise 0x0E04 0 (evPay [(18, 2, clusters), (20, 1, b2n may), (24, 4, nsOf at_)]) s

/-- SLEEP_COMMIT_TIME (R538): the commit time has come on D0; hardware acts on it (R609). -/
def execSleepCommitTime (s : State) : Res :=
  let now := s.scale 0
  let due (c : SleepCommit) : Bool := !c.done && decide (c.at_ ≤ now)
  if s.pwr.state ≠ 0 || !s.wake.commits.any due then .next s else
  let m := (s.wake.commits.filter due).foldl (fun m c => m ||| c.clusters) 0
  let may := (s.wake.commits.filter due).foldl (fun _ c => c.may) s.wake.may
  let s := s.modWake (fun w => { w with committed := w.committed ||| m, may := may, commits := w.commits.map (fun c => if due c then { c with done := true } else c) })
  .next (sleepRequest (endSettling (portsByCluster s)))

/-- Is this device the coordinator of sleep? (DEDUCED, log entry 54) -/
def sleepCoord (s : State) : Bool := !s.flag FAB_CFG.DFP_EN || (dfpOn s && decide (s.fab.coord = ownUid))

/-- The part that a reachable device takes, as it says itself. -/
def partOf (s : State) (addr : Nat) : Nat := if addr = ownAddr s then wakePart s else (kget s.wake.votes addr).elim 0 (·.part)

/-- Does a device lie on a least route between two others? -/
def onRoute (db : Keyed LinkState) (d a b : Nat) : Bool :=
  match kget (distFrom db a) d, kget (distFrom db d) b, kget (distFrom db a) b with
  | some x, some y, some z => decide (x + y = z)
  | _, _, _ => false

/-- `MAY_SLEEP` for the clusters that stay awake (R536). -/
def mayMask (s : State) (awake : Nat) : Nat :=
  if !s.flag FAB_CFG.DFP_EN then (if wakePart s &&& awake = 0 then 2 ^ ownAddr s else 0)
  else
    let db := linkDb s
    let devs := (reachable s).filter (fun e => e.2.addrValid)
    let in_ (e : Nat × LinkState) (c : Nat) : Bool := bit (partOf s e.2.addr &&& awake) c
    let free := devs.filter (fun e => (partOf s e.2.addr &&& awake) = 0 &&
      !(List.range 16).any (fun c => devs.any (fun a => in_ a c && devs.any (fun b => in_ b c && decide (a.1 ≠ b.1) && onRoute db e.1 a.1 b.1))))
    listMask (free.map (fun e => e.2.addr))

/-- SLEEP_SETTLE_EXPIRY (R536): the coordinator commits the clusters without an awake vote for `SETTLE`; none in a pause (R609). -/
def execSleepSettleExpiry (s : State) : Res :=
  if s.pwr.state ≠ 0 || !sleepCoord s || !triadRun s || !wakeRole s then .next s else
  let settle := s.fld WAKE_TIMERS.SETTLE * 10000000
  let pending := s.wake.commits.foldl (fun m c => m ||| c.clusters) s.wake.committed
  let v := localVote s
  let m := listMask ((List.range 16).filter (fun c =>
    !bit pending c && !bit v c && decide (kgetD s.wake.quiet c s.pwr.stateAt + settle ≤ s.lt)))
  if m = 0 then .next s else
  let at_ := s.scale 0 + s.fld WAKE_TIMERS.COMMIT_LEAD * 1000000
  let awake := 0xFFFF - ((pending ||| m) &&& 0xFFFF)
  let may := mayMask s awake
  let s := if s.flag FAB_CFG.DFP_EN then
      flood none (.sleep { kind := 1, addr := ownAddr s, clusters := m, at_ := at_, may := may }) s else s
  .next (takeCommit m at_ (bit may (ownAddr s)) s)

/-! SLEEP messages (R537). -/

/-- A vote of another device: it is kept, and an awake vote for a cluster that sleeps here makes it awake. -/
def voteIn (m : SleepMsg) (s : State) : State :=
  let s := votedAwake m.clusters (s.modWake (fun w => { w with votes := kput w.votes m.addr { part := m.part, at_ := s.lt } }))
  let new := m.clusters &&& s.wake.committed &&& (0xFFFF - (abortable s 0xFFFF &&& 0xFFFF))
  if new = 0 then s else becomeAwake new new s

/-- A WAKE message counts as an awake vote and wakes its clusters here (R540, R541). -/
def wakeIn (m : SleepMsg) (s : State) : State :=
  wakeEvent { source := 3, which := m.addr, clusters := m.clusters, at_ := s.lt } m.cause (votedAwake m.clusters s)

/-- SLEEP_MESSAGE_RECEIVED (R537): it goes on along the flood tree. It waits while firmware does not run (R609). -/
def execSleepMessageReceived (p : Port) (m : SleepMsg) (s : State) : Res :=
  if !fabIn s p.val then .next s else
  let s := flood (some p.val) (.sleep m) s
  .next (if m.addr = ownAddr s && hasAddr s then s
    else if m.kind = 0 then voteIn m s
    else if m.kind = 1 then takeCommit (m.clusters % 2 ^ 16) m.at_ (bit m.may (ownAddr s)) s
    else if m.kind = 2 then wakeIn m s
    else s)

end Sys2Proof.Machine
end

