-- ==== Sys2Proof/Machine/PowerRows.lean ====
section
/-! DEFINITION. The rows of the power ladder, the supply and the sensors (R547 to R577), and what ends starts of the triad. -/

namespace Sys2Proof.Machine

/-! Requests and entries. -/

/-- `PWR_REQUEST_STATE` (R552, R553, R555, R576). While a stop window runs the entry waits for its end (R611). -/
def execPwrRequestState (c : CmdCtx) (s : State) : Res :=
  if longStop s && !pwrBusy s then .next s else
  .next (command c 0x0E01 s fun s =>
    let n := byteAt c.par 0
    if !plenIs c 8 || !parZero c 1 8 || 5 < n then complete c 0x0E01 stParam [] s
    else if n = 0 then complete c 0x0E01 stOk (zeros 8) s
    else
      let (r, s) := pwrRequest n 0 s
      complete c 0x0E01 (if r = 0 then stOk else stState) (byte r :: zeros 7) s)

/-- Does a ring hold work: a TXQ or CMDQ entry not yet fetched, or a command that has not completed? -/
def ringWork (s : State) (h : HostId) : Bool :=
  !(s.host h).cmds.isEmpty || (s.host h).rings.any (fun e => decide (e.2.hostIdx ≠ e.2.dev) && decide (e.1 % 4 = 0 || e.1 % 4 = 2))

/-- Is every queue empty? -/
def queuesEmpty (s : State) : Bool := (List.range 76).all (fun p => portEmpty s p)

/-- IDLE_ENTRY_TIMER (R552): nothing has happened for `AUTO_IDLE` µs; a refused request is repeated after as long again (log entry 69). -/
def execIdleEntryTimer (s : State) : Res :=
  let n := s.fld PWR_CTRL.AUTO_STATE
  if s.pwr.state ≠ 0 || s.pwr.entry.isSome || n = 0 || 2 < n || longStop s then .next s
  else if !queuesEmpty s || ringWork s 0 || ringWork s 1 then .next (s.modPwr (fun p => { p with active := s.lt }))
  else if s.lt < s.pwr.active + s.fld PWR_CTRL.AUTO_IDLE * 1000 then .next s
  else
    let (r, s) := pwrRequest n 2 s
    .next (if r = 0 then s else s.modPwr (fun p => { p with active := s.lt }))

/-- Brace ends (R571): the energy level so far stands, and the settings copy that waited is written. (DEDUCED, log entry 74) -/
def braceEnd (s : State) : State :=
  if s.brace then
    let s := settleEnergy s
    migrateSettings ({ s with brace := false }.bumpBy PWR_BRACE_NS (s.lt - s.pwr.braceAt))
  else s

/-- STATE_ENTRY_COMMIT (R555, R556): into S1 and S2 at once; into S3 to S5 once every port is in its state, what waits for hosts has been written as
far as there is room, and brace, which does not exist there, has ended (R568). (DEDUCED, log entry 74) -/
def execStateEntryCommit (s : State) : Res :=
  match s.pwr.entry with
  | some e =>
    if longStop s then .next s
    else if e.target ≤ 2 then .next (commitEntry e s)
    else if s.wake.since.isEmpty then .next (commitEntry e (braceEnd (writeWaiting 0 (writeWaiting 1 s))))
    else .next s
  | none => .next s

/-- EXIT_TRIGGER (R559). A wake request in role Cold starts a handover's takeover (R370); a wake event does not wake a Cold unit (R607, R608). -/
def execExitTrigger (cause : Fin 9) (s : State) : Res :=
  let cold := s.pairMode = 1 && s.fld PAIR_STATUS.ROLE = 3
  if cause.val = 7 && cold then .next (takeover true s)
  else if cause.val = 4 && cold then .next s
  else .next (trigger cause.val s)

/-- ISLAND_RAMP_DONE (R565). -/
def execIslandRampDone (s : State) : Res := .next (rampDone s)

/-! Rails (R567 to R571). -/

/-- A level that a monitor has seen. (DESIGN CHOICE, log entry 73) -/
def railSeen (r mv : Nat) (s : State) : State :=
  let old := s.fld (PWR_RAIL_STATUS.MIN_MV r)
  s.setFld (PWR_RAIL_STATUS.MIN_MV r) (min 65535 (if old = 0 then mv else min old mv))

/-- Brace begins (R569): an activation without a record is abandoned (R512). (DESIGN CHOICE, log entry 73) -/
def braceStart (s : State) : State :=
  if s.brace then s
  else
    let s := settleEnergy s
    abandonAct ({ s with brace := true, pwr := { s.pwr with braceAt := s.lt } }.bump PWR_BRACE_CNT)

/-- Has a rail stayed below its warning level for `FILTER` (R567, R568)? -/
def railWarns (s : State) (r mv held : Nat) : Bool :=
  decide (mv * 200 < railNominal s.dbg.straps r * (200 - s.fld (PWR_RAIL_CFG.WARN r))) && decide (s.fld (PWR_RAIL_CFG.FILTER r) * 50 ≤ held)

/-- RAIL_WARNING_ENTER (R568): in S0 to S2. `mv` is the lowest level of the dip, `held` how long it has lasted, in ns. -/
def execRailWarningEnter (r : Fin 11) (mv held : Nat) (s : State) : Res :=
  if 2 < s.pwr.state then .next s
  else if s.flag (PWR_RAIL_STATUS.WARNING r.val) || !railWarns s r.val mv held then .next (railSeen r.val mv s)
  else
    let s := braceStart ((railSeen r.val mv s).setFld (PWR_RAIL_STATUS.WARNING r.val) 1)
    .next (raise 0x0E01 0 (evPay [(16, 1, r.val), (17, 1, 0), (20, 2, mv)]) s)

/-- RAIL_WARNING_EXIT (R571): the last rail to leave warning ends brace. `mv` is the lowest level of the dip. -/
def execRailWarningExit (r : Fin 11) (mv : Nat) (s : State) : Res :=
  if s.flag (PWR_RAIL_STATUS.WARNING r.val) then
    let s := (railSeen r.val mv s).setFld (PWR_RAIL_STATUS.WARNING r.val) 0
    let s := raise 0x0E01 0 (evPay [(16, 1, r.val), (17, 1, 1), (20, 2, mv)]) s
    .next (if (List.range 11).any (fun r => s.flag (PWR_RAIL_STATUS.WARNING r)) then s else warmResume (braceEnd s))
  else .next s

/-! Clocks and heat (R574, R575). -/

/-- The flag of a clock: 0 the reference, 1 `PLL_CORE`, 2 `PLL_SUP`, 3 `PLL_AUX`. -/
def clockFld (k : Nat) : Fld :=
  if k = 0 then CLK_STATUS.REF_OK else if k = 1 then CLK_STATUS.LOCK_CORE else if k = 2 then CLK_STATUS.LOCK_SUP else CLK_STATUS.LOCK_AUX

/-- CLOCK_LOSS (R574): in S0 to S2, or in an exit for a PLL that did not lock twice. -/
def execClockLoss (k : Fin 4) (s : State) : Res :=
  if 2 < s.pwr.state && s.pwr.exit.isNone then .next s
  else .next (raiseF3 0x0E0A (evPay [(16, 1, k.val)]) (triadRun s) (s.setFld (clockFld k.val) 0))

/-- A reading in half degrees as a number. -/
def halfDeg (v : Nat) : Int := toSigned 16 (v % 65536)

/-- A quadrant's headroom (R297). (DEDUCED, log entry 22) -/
def headroomOf (s : State) (v : Nat) : Nat := min 511 ((2 * s.fld EGR_THERM_LIMIT.THERM_LIMIT : Nat) - halfDeg v).toNat

/-- The first sensor, in order, whose reading satisfies a condition. -/
def firstSensor (l : List Nat) (p : Int → Bool) : Option (Nat × Nat) := (l.zipIdx.map (fun e => (e.2, e.1))).find? (fun e => p (halfDeg e.2))

/-- `EV_PWR_HOT` (R575). (DEDUCED, log entry 22) -/
def hotCheck (l : List Nat) (s : State) : State :=
  let warn : Int := (2 * s.fld PWR_THERM_CFG.TJ_WARN : Nat)
  match firstSensor l (fun t => decide (warn ≤ t)) with
  | some (n, v) =>
    if s.pwr.hot then s
    else raise 0x0E08 0 (evPay [(16, 1, n), (18, 2, v % 65536)]) (s.modPwr (fun p => { p with hot := true }))
  | none => if l.all (fun v => decide (halfDeg v ≤ warn - 4)) then s.modPwr (fun p => { p with hot := false }) else s

/-- THERMAL_SENSOR_READ (R575): every 100 µs in S0 to S2, the four quadrant sensors and the centre. Two readings of 140 °C or more, 100 µs apart,
are the F3 fault. (DEDUCED, log entry 22) -/
def execThermalSensorRead (q0 q1 q2 q3 centre : Nat) (s : State) : Res :=
  if 2 < s.pwr.state || s.lt % 100000 ≠ 0 then .next s else
  let l := [q0, q1, q2, q3, centre]
  let hot := (l.zipIdx.map (fun e => (e.2, e.1))).find? (fun e =>
    decide (280 ≤ halfDeg e.2) && decide (280 ≤ halfDeg (s.fld (PWR_TJ.TJ e.1))))
  let s := (l.zipIdx).foldl (fun s e => s.setFld (PWR_TJ.TJ e.2) (e.1 % 65536)) s
  let s := if s.flag EGR_CTRL.THERM_EN then
      (List.range 4).foldl (fun s q => setHeadroom q (headroomOf s (l.getD q 0)) s) s else s
  let s := hotCheck l s
  match hot with
  | some (n, v) => if s.flt.f3 then .next s else .next (raiseF3 0x0E09 (evPay [(16, 1, n), (18, 2, v % 65536)]) (triadRun s) s)
  | none => .next s

/-! Starts of the triad. -/

/-- SUP_RESTART_DONE (R497, R498, R505): a start ends with the comparator test and the choice of a slot. -/
def execSupRestartDone (fail : Fin 16) (badA badB : Bool) (s : State) : Res :=
  if s.sup.restartAt.isSome && !s.flt.f3 && s.rst.warm.isNone && s.pwr.state = 0 then .next (warmResume (bootDone fail.val badA badB s)) else .next s

/-- ACTIVATION_PAUSE_END (R509 step 6): before the watchdog, where the slot passes the boot ROM's checks (R505). -/
def execActivationPauseEnd (s : State) : Res :=
  match s.sup.act with
  | some a => if a.phase = 2 && decide (s.lt < a.pauseAt + 30000000) && !s.flt.f3 && !romFails s a.slot false then .next (warmResume (pauseEnd a s)) else .next s
  | none => .next s

/-- A core is odd; when the escalation of `EV_SUP_UNSTABLE` has restarted the triad for it within the last second, a warm reset follows (R514 to
R516). -/
def oddCore (core kind : Nat) (s : State) : State :=
  let s := markOdd core kind s
  match s.sup.unstable with
  | some (k, t) => if k = core && s.lt < t + sec then warmStart 6 s else s
  | none => s

/-- SUP_LATE_CORE (R494): while a resynchronisation runs, a core that the other running one waits for is a disagreement, and SUP_WINDOW_CLOSE
reports it (R495). -/
def execSupLateCore (core : Fin 3) (s : State) : Res :=
  if triadRun s && s.sup.resync.isNone then .next (oddCore core.val 1 s) else .next s

end Sys2Proof.Machine
end

