-- ==== Sys2Proof/Machine/RegBus.lean ====
section
/-! DEFINITION. The register bus (R33 to R39, R80 to R83, R643): what a read of any register returns, and what a write to any register
does by its access codes (R7), its ranges and the rules that name it. -/

namespace Sys2Proof.Machine

/-! Ranges of written fields, as the register tables give them. -/

/-- A value that stands for another: what a table says a value stores. -/
def storesAs (bad good v : Nat) : Nat := if v = bad then good else v

/-- What a write of a value to a field stores, by the register's base address, the indices and the field's lowest bit. -/
def fitField (base : Nat) (is : List Nat) (lo v : Nat) : Nat :=
  let at_ (n : Nat) (x : Nat) : Nat := if lo = n then x else v
  match base with
  | 0x1000c => if lo = 16 then max 1 v else clamp 1 256 v
  | 0x18800 => at_ 0 (max 1 v)
  | 0x100014 => max 10 v
  | 0x40200 => if lo = 8 then clamp 1 50 v else at_ 4 (min 2 v)
  | 0x210010 => min 1000 v
  | 0x210044 => clamp 80 125 v
  | 0x210060 => if lo = 16 then max 1 v else min 31 v
  | 0x211018 => if lo = 24 then max 1 v else at_ 0 (max (wakeTime (nth is 0)) v)
  | 0x220004 => max 1 v
  | 0x221004 => at_ 30 (min 2 v)
  | 0x240004 => if lo = 22 then clamp 10 1000 v else if lo = 12 then max 2 v else max 1 v
  | 0x240008 => max 100 v
  | 0x2c0000 => at_ 0 (min 2 v)
  | 0x2d2000 => if lo = 16 then clamp 1000 20000 v else at_ 0 (storesAs 3 0 v)
  | 0x2d2080 => if lo = 8 then clamp 1 8 v else at_ 4 (storesAs 3 0 v)
  | 0x80004 => at_ 16 (max 1 v)
  | 0x250000 => at_ 1 (storesAs 3 0 v)
  | 0x250008 => at_ 16 (max 2 v)
  | 0x250080 => max 1 v
  | 0x260000 => if lo = 14 then storesAs 3 0 v else at_ 10 (min 2 v)
  | 0x260900 => if lo = 16 then max 100 v else clamp 1 100 v
  | 0x260a00 => if lo = 24 then max 2 v else at_ 4 (max 1 v)
  | 0x260a20 => at_ 8 (max 1 v)
  | 0x260b00 =>
    if lo = 28 then (if v = 2 then 2 else 1) else if lo = 24 then min 2 v else at_ 0 (max 1 v)
  | 0x60008 => max 1 v
  | 0x50000 => max 10 v
  | 0x300000 => at_ 0 (if 6 ≤ v then 0 else v)
  | 0x300100 => if nth is 1 = 2 then v % 256 else v
  | 0x300004 => if lo = 16 then max 10 v else if lo = 8 then max 5 v else max 1 v
  | 0x300020 => at_ 0 (clamp 1 50 v)
  | 0x301000 => at_ 0 (max 1 v)
  | 0x20000 => if lo = 16 then max 1 v else storesAs 3 0 v
  | 0x20020 => clamp 100 135 v
  | 0x20040 => if lo = 16 then max 1 v else clamp 4 16 v
  | _ => v

/-- One field of a written word, by its access code (R7): RO, WO and RWS store nothing here. -/
def writeField (base : Nat) (is : List Nat) (f : FieldSpec) (old v : Nat) : Nat :=
  let x := bits v f.hi f.lo
  match f.acc with
  | .rw => fitField base is f.lo x
  | .w1c => bits (old - (old &&& v)) f.hi f.lo
  | .w1s => bits (old ||| v) f.hi f.lo
  | _ => bits old f.hi f.lo

/-- The stored word after a write of `v` over `old`: reserved bits and absent fields stay 0 (R8). -/
def writtenWord (r : RegRow) (is : List Nat) (old v : Nat) : Nat :=
  r.fields.foldl (fun w f => if fieldAbsent r.base is f then w else setBits w f.hi f.lo (writeField r.base is f old v)) 0

/-- A write by the access codes and ranges alone. -/
def plainWrite (r : RegRow) (is : List Nat) (a v : Nat) (s : State) : State := s.setReg a (writtenWord r is (s.reg a) v)

/-! Writes that do more. -/

/-- The CPU that a host index names. -/
def hostOf (n : Nat) : HostId := if n = 0 then 0 else 1

/-- Where a field's new value is out of order with another of the same register, the field keeps its value. (DEDUCED, log entry 97) -/
def keepField (f : Fld) (bad : State → Bool) (old : Nat) (s : State) : State := if bad s then s.setFld f old else s

/-- A write to `EGR_PORTp_CTRL` (R293, R299): `PARK_EN` is refused where the port may not park; a parked lane whose bit is cleared wakes.
(DEDUCED, log entry 97) -/
def portCtrlWrite (r : RegRow) (is : List Nat) (a v : Nat) (s : State) : State :=
  let p := nth is 0
  let s := plainWrite r is a v s
  let s := if s.flag (EGR_PORT_CTRL.PARK_EN p) && !parkAllowed s p then s.setFld (EGR_PORT_CTRL.PARK_EN p) 0 else s
  let s := if s.flag (EGR_PORT_CTRL.PARK_EN p) then parkEnter p (portEmpty s p) s else parkWake p s
  pfcUpdate s

/-- A write to `LEG_CANn_MODE` (R379): `XL_ERRS` is 0 while `TMS_EN` is 1; a controller that leaves `MODE` 1 is not up. -/
def canModeWrite (r : RegRow) (is : List Nat) (a v : Nat) (s : State) : State :=
  let n := nth is 0
  let m := s.fld (LEG_CAN_MODE.MODE n)
  let s := plainWrite r is a v s
  let s := if s.flag (LEG_CAN_MODE.TMS_EN n) then s.setFld (LEG_CAN_MODE.XL_ERRS n) 0 else s
  if s.fld (LEG_CAN_MODE.MODE n) = m then s else canSetMode n (s.fld (LEG_CAN_MODE.MODE n)) s

/-- A write to `KEY_FRESHn` word 0: `WIDTH` stands while `VALID` is 1; `VALID` 1 over 0 starts the counter at 0. (DEDUCED, log entry 98) -/
def freshCtlWrite (n v : Nat) (s : State) : State :=
  let was := s.flag (KEY_FRESH_CTL.VALID n)
  let s := if was then s else s.setFld (KEY_FRESH_CTL.WIDTH n) (clamp 8 64 (bits v 30 24))
  let s := s.setFld (KEY_FRESH_CTL.VALID n) (bits v 31 31)
  if !was && bit v 31 then { s with keys := { s.keys with fresh := kdel s.keys.fresh n } } else s

/-- The device leaves DFP: its neighbours are gone, and so are its address and roles (`DFP_EN` 0). -/
def fabStop (s : State) : State :=
  let s := (fabUp s).foldl (fun s p => nbrLost p 0 s) s
  let s := setCoord 0 0 (setAddr none s)
  { s with fab := { s.fab with nbrs := [], db := [], gossip := [], digests := [], lastCoord := 0, firstUp := none } }

/-- A write to `FAB_CFG` (R460, R468). (DEDUCED, log entry 97) -/
def fabCfgWrite (r : RegRow) (is : List Nat) (a v : Nat) (s : State) : State :=
  let was := s.flag FAB_CFG.DFP_EN
  let s := plainWrite r is a v s
  let s := takeSize (sizeForced s s.fab.large) s
  if was && !s.flag FAB_CFG.DFP_EN then fabStop s else s

/-- A write to `FAB_PORTS`: a port that is no fabric port any more has no neighbour. (DEDUCED, log entry 97) -/
def fabPortsWrite (r : RegRow) (is : List Nat) (a v : Nat) (s : State) : State :=
  let s := plainWrite r is a v s
  (s.fab.nbrs.map (·.1)).foldl (fun s p => if s.fabricPort p then s else nbrLost p 0 s) s

/-- A change of the wake set-up: the ports take the state that their clusters give them (R524, R533). (DEDUCED, log entry 98) -/
def wakeSetup (r : RegRow) (is : List Nat) (a v : Nat) (s : State) : State :=
  let s := plainWrite r is a v s
  if s.pwr.state = 0 && s.pwr.entry.isNone && wakeRole s then portsByCluster s else s

/-- A write to a poll entry of LBUS: its next sample is the first (R486). -/
def pollWrite (r : RegRow) (is : List Nat) (a v : Nat) (s : State) : State :=
  let e := nth is 0
  let s := plainWrite r is a v s
  s.modTrn (fun t => { t with refs := kdel t.refs e, polled := kdel t.polled e })

/-- A write to `TIME_OUTn_CFG`: the pin takes the level that it has now (R255). (DEDUCED, log entry 120) -/
def timeOutWrite (r : RegRow) (is : List Nat) (a v : Nat) (s : State) : State :=
  let n := nth is 0
  let act := (s.outPin n).active
  let was := timeOutLevel s n act
  let s := plainWrite r is a v s
  let now := timeOutLevel s n act
  if now = was then s else s.emit (.pulse n now)

/-- A write to a register that the bus has granted: every register by its access codes, and those with a rule of their own by that.
(DEDUCED, log entry 97, DEDUCED, log entry 98) -/
def writeReg (src : Src) (r : RegRow) (is : List Nat) (a v : Nat) (s : State) : State :=
  let i := nth is 0
  let plain := plainWrite r is a v
  match r.base with
  | 0x14000 =>
    if src = .spi then
      let s := if bit v 0 then failsafeFence s else s
      if bit v 1 then failsafeWrst s else s
    else s
  | 0x10010 => wakeHint (hostOf i) v s
  | 0x10014 => if src = .ha || src = .hb then s else plain s
  | 0x11008 => ringCfgWrite (hostOf i) (nth is 1) (nth is 2) v s
  | 0x1800c => vecUnmask (hostOf i) (nth is 1) (plain s)
  | 0x200020 => bdSnapshot v s
  | 0x200040 => dbgRelease v s
  | 0x20010c => sillWrite i v s
  | 0x280028 => maxLenWrite i v s
  | 0x40010 => writeDomCfg i v s
  | 0x40040 => if bit v 0 then takeTimeSnap s else s
  | 0x40100 => timeOutWrite r is a v s
  | 0x41000 => plain { s with time := { s.time with latBy := orBit s.time.latBy i } }
  | 0x210000 => settleEnergy (plain (settleEnergy s))
  | 0x210004 => settleEnergy (plain (settleEnergy s))
  | 0x210010 => settleEnergy (plain (settleEnergy s))
  | 0x210040 =>
    keepField EGR_THERM_CFG.H2 (fun t => decide (t.fld EGR_THERM_CFG.H1 ≤ t.fld EGR_THERM_CFG.H2)) (s.fld EGR_THERM_CFG.H2) (plain s)
  | 0x210064 => histSnapshot v s
  | 0x211000 => portCtrlWrite r is a v s
  | 0x211014 =>
    pfcUpdate (keepField (EGR_PFC_CFG.XOFF i) (fun t => decide (t.fld (EGR_PFC_CFG.XOFF i) ≤ t.fld (EGR_PFC_CFG.XON i)))
      (s.fld (EGR_PFC_CFG.XOFF i)) (plain s))
  | 0x230008 => pathSnapshot v s
  | 0x240000 => pairCfgWrite v s
  | 0x2d0000 => canModeWrite r is a v s
  | 0x2d0004 => bitTimingWrite i 0 v s
  | 0x2d0008 => bitTimingWrite i 1 v s
  | 0x2d000c => bitTimingWrite i 2 v s
  | 0x2d4000 => frConfigWrite 0 v s
  | 0x2d4004 => frConfigWrite 1 v s
  | 0x2d4008 => frConfigWrite 2 v s
  | 0x2d400c => frConfigWrite 3 v s
  | 0x70004 => keySnapshot v s
  | 0x71000 => freshCtlWrite i v s
  | 0x80000 =>
    let s := if bit v 1 then lockRelease src s else s
    if bit v 0 then lockTake src s else s
  | 0x81000 => msecCtrlWrite i v s
  | 0x85b00 => msecCtrlWrite 75 v s
  | 0x250000 => fabCfgWrite r is a v s
  | 0x250004 => fabPortsWrite r is a v s
  | 0x250080 => (fun s => if dfpOn s then announceLinks s else s) (plain s)
  | 0x260800 => lockCtrlWrite i v s
  | 0x260b00 => pollWrite r is a v s
  | 0x260b04 => pollWrite r is a v s
  | 0x260b08 => pollWrite r is a v s
  | 0x60004 => supCtrlWrite v s
  | 0x50008 => fltAck v s
  | 0x50030 => fltFirstClear v s
  | 0x50040 => fltHistSnapshot v s
  | 0x300000 => wakeSetup r is a v s
  | 0x300100 => wakeSetup r is a v s
  | 0x301000 => wakeSetup r is a v s
  | _ => plain s

/-! Register-access errors (R35, R39). -/

/-- An access error sets its flags; the first one after all three flags are 0 is captured (R39). -/
def busError (src : Src) (a flags : Nat) (s : State) : State :=
  let old := s.reg GLB_ERR_STATUS
  let s := if bits old 2 0 = 0 then
      (s.setReg GLB_ERR_ADDR (a % 2 ^ 22 / 4 * 4)).setReg GLB_ERR_STATUS (setBits old 5 4 (srcCode src))
    else s
  s.setReg GLB_ERR_STATUS (s.reg GLB_ERR_STATUS ||| flags)

/-- The register at an address of the 4 MiB space. -/
def regAt (a : Nat) : Option (RegRow × List Nat) := if a < 2 ^ 22 then findReg a else none

/-- A write of a word with its byte enables (R34, R35): to a reserved address, or in part, it is discarded. -/
def busWrite (src : Src) (addr data be : Nat) (s : State) : State :=
  let a := addr / 4 * 4
  let part := decide (be % 16 ≠ 15) || decide (addr % 4 ≠ 0)
  match regAt a with
  | none => busError src a (2 + b2n part * 4) s
  | some (r, is) =>
    if part then busError src a 4 s
    else if r.wide then s
    else writeReg src r is a (data % 2 ^ 32) s

/-! Reads. -/

/-- A ring's state as `RING_STATUS` codes it. -/
def ringCode : RingState → Nat
  | .disabled => 0 | .running => 1 | .stopping => 2 | .error => 3

/-- The word of a pulse's next leading edge: 0 ns, 1 seconds [31:0], 2 seconds [47:32]. -/
def outNext (s : State) (n k : Nat) : Nat :=
  match (s.outPin n).prog with
  | some g =>
    let t := nextEdge g
    if k = 0 then nsOf t else if k = 1 then secOf t % 2 ^ 32 else secOf t / 2 ^ 32 % 2 ^ 16
  | none => 0

/-- `TIME_OUTn_STATUS`. -/
def outStatus (s : State) (n : Nat) : Nat :=
  let p := s.outPin n
  let prog := match p.prog with
    | some g => 2 ^ 31 + (if g.periodic then 2 else 1) * 2 ^ 28 + g.dom % 4 * 2 ^ 26
    | none => 0
  prog + b2n p.active * 2 ^ 30

/-- The µs left of a temporary adjustment. -/
def adjLeft (s : State) (d : Nat) : Nat :=
  match (s.dom d).adj with
  | some a => if a.cut then 0 else divUp (a.endLt - s.lt) 1000
  | none => 0

/-- `EGR_PORTp_STATUS`. -/
def portStatus (s : State) (p : Nat) : Nat :=
  let e := s.eport p
  e.park % 4 * 2 ^ 30 + b2n e.active.shutterEn * 2 ^ 29 + b2n (flipPending e) * 2 ^ 28 + b2n (preemptActive s p) * 2 ^ 27 +
    e.verify % 4 * 2 ^ 25 + gatesNow s p % 256 * 2 ^ 16 + listMask ((List.range 5).filter (isPaused s p)) * 2 ^ 8

/-- The list entry in force on a port. -/
def entryNow (s : State) (p : Nat) : Nat :=
  let x := (s.eport p).active
  if x.shutterEn then entryAt x (s.scale x.dom) else 0

/-- `GW_CHn_STATUS`. (DEDUCED, log entry 100) -/
def chStatus (s : State) (n : Nat) : Nat :=
  let seq := kgetD s.gw.chSeq n 0
  let batch := match kget s.gw.batches n with
    | some b => b.parts.length % 64 * 2 ^ 16 + (26 + (if bit (byteAt (gwEntry s.gw.active 1 n) 0) 6 then 4 else 0) + b.bytes.length) % 2 ^ 16
    | none => 0
  seq * 2 ^ 24 + batch

/-- `FLT_GRACE_LEFT`: the group whose timer expires first and the µs left on it. -/
def graceLeft (s : State) : Nat :=
  let first := s.flt.grace.foldl (fun (b : Option (Nat × Nat)) (e : Nat × Nat) => match b with
    | some x => if e.2 < x.2 then some e else some x
    | none => some e) none
  match first with
  | some (g, t) => g % 16 * 2 ^ 16 + min 65535 (divUp (t - s.lt) 1000)
  | none => 0

/-- The bytes that `FLT_FIRSTn` shows. -/
def firstWord (s : State) (n : Nat) : Nat := match s.flt.first with
  | some x => leAt (histBytes x) (4 * n) 4
  | none => 0

/-- The valid foreign entries of a CAN port. -/
def declared (s : State) (n : Nat) : Nat := ((List.range 32).filter (fun m => bit (s.reg (ADM_FOREIGN0 n m)) 31)).length

/-- `CRY_LOCK`. -/
def lockWord (s : State) : Nat := match s.keys.lock with
  | some (o, _) => 2 ^ 31 + srcCode o * 2 ^ 29
  | none => 0

/-- What a read of a register returns where it shows a present condition (R643), as bits over the stored word; `w` is the stored word.
(DESIGN CHOICE, log entry 114) -/
def liveWord (s : State) (base : Nat) (is : List Nat) (w : Nat) : Nat :=
  let i := nth is 0
  match base with
  | 0x14000 => setBits w 1 1 (b2n (decide (s.rst.warm.map (·.kind) = some 4) || decide (s.rst.waiting = some 4)))
  | 0x60004 => b2n (s.sup.restartAt.isSome && decide (s.fld SUP_STATUS.STATE = 4))
  | 0x10030 =>
    let h := s.host (hostOf i)
    b2n h.bme * 2 ^ 7 + h.width % 8 * 2 ^ 4 + h.speed % 8 * 2 + b2n h.linkUp
  | 0x1100c =>
    let x := s.ring (hostOf i) (nth is 1) (nth is 2)
    ringCode x.state * 2 ^ 30 + (if x.state = .error then x.cause % 64 * 2 ^ 24 else 0) + x.dev % 2 ^ 20
  | 0x200008 => linkRsv s % 2 ^ 16 * 2 ^ 16 + min 65535 (linkFree s)
  | 0x200114 => poolFree s i % 2 ^ 16
  | 0x200118 => rsvHeld s i % 2 ^ 16 * 2 ^ 16 + rsvTotal s i % 2 ^ 16
  | 0x10000c =>
    let t := s.tab i
    b2n (migrating t) * 2 ^ 31 + t.gen % 16 * 2 ^ 24 + ovfUsed t.serve % 512
  | 0x100010 =>
    let b := (s.tab i).serve
    (b.filter (fun e => e.2.pin)).length % 2 ^ 16 * 2 ^ 16 + b.length % 2 ^ 16
  | 0x120004 => setBits w 12 0 (((s.hq i).active.rules.filter (fun e => hrValid e.2)).length)
  | 0x13f000 => s.hedge.holes.length % 2 ^ 15
  | 0x40014 =>
    let d := s.dom i
    b2n d.stepArmed * 2 ^ 31 + b2n d.set * 2 ^ 30 + b2n d.locked * 2 ^ 29 + b2n (d.adj.any (fun a => !a.cut)) * 2 ^ 28 + w % 2
  | 0x40018 => ofSigned 32 (s.dom i).rate
  | 0x4001c => adjLeft s i % 2 ^ 32
  | 0x40104 => outStatus s i
  | 0x40108 => outNext s i 0
  | 0x4010c => outNext s i 1
  | 0x40110 => outNext s i 2
  | 0x40204 => (s.inPin i).queue.length % 16 * 2 ^ 8 + w % 2
  | 0x40208 => lastNs (s.inPin i)
  | 0x4020c => lastSecLo (s.inPin i)
  | 0x40210 => lastSecHi (s.inPin i)
  | 0x210008 => min 65535 (reservedMw s)
  | 0x21000c => ofSigned 32 (energyNow s / 1000)
  | 0x211004 => portStatus s i
  | 0x211008 => setBits w 25 16 (entryNow s i)
  | 0x211020 => (s.queue i (nth is 1)).length % 2 ^ 16 * 2 ^ 16 + min 65535 (queueBytes s i (nth is 1) / 256)
  | 0x220008 =>
    (s.streams.filter (fun e => e.2.reserved && !e.2.committed)).length % 2 ^ 13 * 2 ^ 16 + (s.streams.filter (fun e => e.2.committed)).length % 2 ^ 13
  | 0x220080 => setBits w 5 0 (declared s i)
  | 0x230004 =>
    let r := s.streams.filterMap (fun e => e.2.recov)
    ((r.map (fun x => x.held.length + x.pended.length)).sum) % 2 ^ 16 * 2 ^ 16 + r.length % 2 ^ 13
  | 0x2c0004 => w / 2 ^ 16 * 2 ^ 16 + b2n s.gw.copying * 2 ^ 15 + b2n (decide (s.gw.active ≠ s.gw.shadow)) * 2 ^ 14
  | 0x2c0400 => chStatus s i
  | 0x2d0014 =>
    let n := (s.can i).slots.length
    setBits (setBits w 28 24 (min 31 n)) 9 9 (b2n (decide (32 ≤ n)))
  | 0x2d2004 => (s.lin i).table % 8 * 2 ^ 28 + (s.lin i).entry % 64 * 2 ^ 16 + w % 2
  | 0x70000 => setBits (setBits w 24 16 (slotsUsed s)) 0 0 (b2n (!s.keys.writing.isEmpty))
  | 0x80000 => lockWord s
  | 0x80008 => b2n (serviceOpen s) * 2 ^ 31
  | 0x8100c => w % 2 ^ 27 / 2 ^ 26 * 2 ^ 26 + msecStatus s i
  | 0x85b0c => w % 2 ^ 27 / 2 ^ 26 * 2 ^ 26 + msecStatus s 75
  | 0x250014 => liveOk s
  | 0x50004 => b2n s.flt.f3 * 2 ^ 31 + listMask (s.flt.unhandled.map (·.1)) % 2 ^ 16 / 2 * 2 + b2n s.flt.first.isSome
  | 0x5000c => graceLeft s
  | 0x50010 => firstWord s i
  | 0x30000c => fabricAwake s % 2 ^ 16 * 2 ^ 16 + localVote s % 2 ^ 16
  | 0x300010 => wakeHeld s % 2 ^ 16 * 2 ^ 16 + wakeForced s % 2 ^ 16
  | 0x300014 => settling s % 2 ^ 16 * 2 ^ 16 + wakePart s % 2 ^ 16
  | 0x300018 => setBits w 23 16 (listMask ((List.range 8).filter (inhLevel s)))
  | 0x20004 => setBits w 31 31 (b2n s.brace)
  | 0x30004 =>
    setBits w 27 27 (b2n ((s.flag CLK_SPREAD.EN_CORE || s.flag CLK_SPREAD.EN_SUP) && decide (s.fld CLK_SPREAD.DEPTH ≠ 0)))
  | 0x30008 => s.pwr.ramps % 256 * 2 ^ 8 + s.pwr.ramping % 8
  | _ => w

/-- The 64-bit counter of a row: a freshness counter, a counter of the device-wide pinhole table, which every QD block shows alike (chapter 06),
or a counter of events. -/
def wideCtr (s : State) (r : RegRow) (is : List Nat) (low : Nat) : Nat :=
  if r.base = 0x71008 then (s.freshCtr (nth is 0)).value
  else if QD_PH_HIT 0 ≤ r.base && r.base ≤ QD_PH_EXPIRED 0 then s.ctr r.base
  else s.ctr low

/-- A read of a word (R34 to R36, R258). -/
def busRead (src : Src) (addr : Nat) (s : State) : Nat × State :=
  let a := addr / 4 * 4
  match regAt a with
  | none => (0, busError src a 1 s)
  | some (r, is) =>
    if r.wide then
      let high := decide ((idxOf r.dims (a - r.base)).elim 0 (·.2) = 4)
      let v := wideCtr s r is (if high then a - 4 else a)
      if high then takeShadow src a (v / 2 ^ 32 % 2 ^ 32) s else (v % 2 ^ 32, setShadow src (a + 4) (v / 2 ^ 32 % 2 ^ 32) s)
    else
      let w := liveWord s r.base is (s.reg a)
      match r.base with
      | 0x40208 => readLastNs src (nth is 0) s
      | 0x4020c => takeShadow src a w s
      | 0x40210 => takeShadow src a w s
      | _ => (w, s)

/-- The bytes of a word that a read addresses (R34). -/
def readBytes (be w : Nat) : Nat :=
  (List.range 4).foldl (fun m i => if bit be i then m + bits w (8 * i + 7) (8 * i) * 2 ^ (8 * i) else m) 0

/-- A read of one word by a source, and what it returns. (DESIGN CHOICE, log entry 95) -/
def readWord (src : Src) (addr be : Nat) (s : State) : State :=
  let (w, t) := busRead src addr s
  t.emit (.regRead src addr (readBytes be w))

/-- The words that a read with these byte enables takes: one, and for a PCIe read as many as its enables, four to a word, reach (R34). -/
def readCount (src : Src) (be : Nat) : Nat :=
  match src with
  | .ha | .hb => if be < 16 then 1 else Nat.log2 be / 4 + 1
  | _ => 1

/-- A read by a source: consecutive 32-bit reads, lowest address first (R34). -/
def readOut (src : Src) (addr be : Nat) (s : State) : State :=
  (List.range (readCount src be)).foldl (fun s i => readWord src (addr + 4 * i) (be / 16 ^ i % 16) s) s

/-! Reads of the triad (R492). -/

/-- The cores that run: all but the one that is resynchronised (R494), as a mask. -/
def coresRun (s : State) : Nat := s.sup.resync.elim 7 (fun e => clrBit 7 e.1)

/-- Take the value kept of a read for a core: the value, and the buffer after it. -/
def takeReplay (core addr : Nat) : List Replay → Option (Nat × List Replay)
  | [] => none
  | r :: l =>
    if r.addr = addr && bit r.left core then
      some (r.value, if clrBit r.left core = 0 then l else { r with left := clrBit r.left core } :: l)
    else (takeReplay core addr l).map (fun x => (x.1, r :: x.2))

/-- A read of a word outside its SRAM by a core: the first core's is performed, and the others are given the value kept (R492). A full buffer, of 64
entries, holds the read back. (DEDUCED, log entry 138) -/
def fwRead (core addr be : Nat) (s : State) : State :=
  match takeReplay core addr s.sup.replay with
  | some (w, l) => (s.modSup (fun p => { p with replay := l })).emit (.coreRead core addr (readBytes be w))
  | none =>
    if 64 ≤ s.sup.replay.length then s
    else
      let (w, t) := busRead .fw addr s
      let left := clrBit (coresRun t) core
      let e : List Replay := if left = 0 then [] else [{ addr := addr, value := w, left := left }]
      (t.modSup (fun p => { p with replay := p.replay ++ e })).emit (.coreRead core addr (readBytes be w))

/-- A read by a source of the bus: a core of the triad while it runs, or another source. -/
def srcRead (src : Src) (core : Fin 3) (addr be : Nat) (s : State) : State :=
  match src with
  | .fw => if triadRun s && bit (coresRun s) core.val then fwRead core.val addr be s else s
  | _ => readOut src addr be s

/-! The rows. -/

/-- REGISTER_WRITE (R34, R35, R37). -/
def execRegisterWrite (src : Src) (addr data be : Nat) (s : State) : Res := .next (busRow src (busWrite src addr data be) s)

/-- UNMAPPED_READ (R35). A register address that is mapped is read as its register. (DESIGN CHOICE, log entry 95) -/
def execUnmappedRead (src : Src) (addr be : Nat) (core : Fin 3) (s : State) : Res := .next (busRow src (srcRead src core addr be) s)

/-- COUNTER_LOW_READ (R36). (DESIGN CHOICE, log entry 95) -/
def execCounterLowRead (src : Src) (addr be : Nat) (core : Fin 3) (s : State) : Res := .next (busRow src (fun s => srcRead src core addr be s) s)

/-- FWD_EN_SET (R38): a write of 1. -/
def execFwdEnSet (src : Src) (s : State) : Res := .next (busRow src (fun s => s.setFld GLB_CTRL.FWD_EN 1) s)

/-- DOMAIN_NUMBER_WRITE (R236): the value written to `TIME_DOMd_CFG`. -/
def execDomainNumberWrite (src : Src) (d : Fin 2) (value : Nat) (s : State) : Res := .next (busRow src (writeDomCfg d.val value) s)

/-- TIME_SNAP_TAKE (R227). -/
def execTimeSnapTake (src : Src) (s : State) : Res := .next (busRow src takeTimeSnap s)

/-! The SPI management port (R80 to R82). -/

/-- CRC-8 of R81. -/
def spiCrc (b : Bytes) : Nat := crcMsb 8 0x2F 0xFF b ^^^ 0xFF

/-- A frame whose byte count is none of R80: discarded. -/
def spiBadLength (s : State) : State := s.setFld HOST_SPI_STATUS.FRAME_ERR 1

/-- SPI_WRITE_FRAME (R80 to R82): opcode, three address bytes, four data bytes, CRC. Another opcode counts as a frame of a wrong length. (DEDUCED,
log entry 96, DESIGN CHOICE, log entry 128) -/
def execSpiWriteFrame (frame : Bytes) (s : State) : Res :=
  if !busOpen s .spi then .next s
  else if frame.length ≠ 9 || byteAt frame 0 ≠ 2 then .next (spiBadLength s)
  else if byteAt frame 8 ≠ spiCrc (frame.take 8) then .next (s.setFld HOST_SPI_STATUS.CRC_ERR 1)
  else .next (busRow .spi (busWrite .spi (beAt frame 1 3) (beAt frame 4 4) 15) s)

/-- SPI_READ_FRAME (R80 to R82): opcode, three address bytes, CRC, and then the turnaround byte. An unaligned address reads the word that holds
it; another opcode counts as a frame of a wrong length. (DEDUCED, log entry 96, DESIGN CHOICE, log entry 128) -/
def execSpiReadFrame (frame : Bytes) (s : State) : Res :=
  if !busOpen s .spi then .next s
  else if frame.length ≠ 6 || byteAt frame 0 ≠ 3 then .next (spiBadLength s)
  else
    let answer (w : Nat) (s : State) : State := s.emit (.spiReply (toBe 4 w ++ [byte (spiCrc (toBe 4 w))]))
    if byteAt frame 4 ≠ spiCrc (frame.take 4) then .next (answer 0 (s.setFld HOST_SPI_STATUS.CRC_ERR 1))
    else .next (busRow .spi (fun s => let (w, t) := busRead .spi (beAt frame 1 3) s; answer w t) s)

/-- SPI_STATUS_FRAME (R80): one status byte. -/
def execSpiStatusFrame (s : State) : Res :=
  if busOpen s .spi then
    .next (s.emit (.spiReply [byte (s.fld HOST_SPI_STATUS.CRC_ERR + 2 * s.fld HOST_SPI_STATUS.FRAME_ERR)]))
  else .next s

/-- Is this the number of bytes of one of the frames of R80: 9 write, 11 read, 2 status? (DEDUCED, log entry 96) -/
def spiCountOk (n : Nat) : Bool := decide (n = 9) || decide (n = 11) || decide (n = 2)

/-- SPI_FRAME_ERROR (R82): chip select rises at a byte count that no frame has. -/
def execSpiFrameError (count : Nat) (s : State) : Res :=
  if busOpen s .spi && !spiCountOk count then .next (spiBadLength s) else .next s

end Sys2Proof.Machine
end

