-- ==== Sys2Proof/Machine/Transom.lean ====
section
/-! DEFINITION. Transom accesses (R476 to R483), the messages of locked sequences (R484, R485), side-band lines (R486) and the cycles of
LBUS (R487). -/

namespace Sys2Proof.Machine

/-! Units (R479, R480). -/

/-- One unit of an access: its target address, which of its bytes the host covers, and its bytes in the order of window offsets. -/
structure TUnit where
  addr : Nat
  cover : List Bool
  bytes : Bytes
deriving DecidableEq, Repr

/-- Bytes per unit of a `WIDTH`. -/
def unitBytes (width : Nat) : Nat := 2 ^ min 2 width

/-- The units of an access from an address on, n of them. (DEDUCED, log entry 64) -/
def unitsFrom (w : Nat) : Nat → Nat → List Bool → Bytes → List TUnit
  | 0, _, _, _ => []
  | n + 1, a, c, d => { addr := a, cover := c.take w, bytes := slice d 0 w } :: unitsFrom w n (a + w) (c.drop w) (d.drop w)

/-- All units of a request: aligned to `WIDTH`, padded at both ends with bytes that are not covered. -/
def allUnits (r : TrnReq) : List TUnit :=
  let w := unitBytes r.width
  let pre := r.addr % w
  let n := divUp (pre + r.cover.length) w
  let c := List.replicate pre false ++ r.cover
  unitsFrom w n (r.addr - pre) (c ++ List.replicate (n * w - c.length) false) (zeros pre ++ r.data)

/-- The units of which the host covers a byte. (DEDUCED, log entry 64) -/
def units (r : TrnReq) : List TUnit := (allUnits r).filter (fun u => u.cover.any id)

/-- Does a unit travel reversed: data-invariant, on a big-endian target (R480)? -/
def reverses (r : TrnReq) (big : Bool) : Bool := r.lane && big

/-- A unit as the target sees it. -/
def toTarget (rev : Bool) (u : TUnit) : TUnit :=
  if rev then { u with cover := u.cover.reverse, bytes := u.bytes.reverse } else u

/-- Does an access break the register-space rule, or cover a data-invariant unit only in part (`ALIGN`)? -/
def misaligned (r : TrnReq) : Bool :=
  let part := (units r).any (fun u => !u.cover.all id)
  (decide (r.space = 0) && (decide (r.width ≠ 2) || part)) || (r.lane && part)

/-- Does a unit lie outside the target's address space (`ADDR`)? -/
def beyond (r : TrnReq) : Bool := (units r).any (fun u => decide (2 ^ (if r.space = 0 then 22 else 24) ≤ u.addr))

/-! LBUS (R487). -/

/-- The bursts of a run of units (R479): adjacent, at most `limit` in one, none across a 256-byte boundary. -/
def burstList (w limit : Nat) (l : List TUnit) : List (List TUnit) :=
  l.foldl (fun (acc : List (List TUnit)) u => match acc.getLast? with
    | some b =>
      let joins := match b.getLast? with
        | some v => decide (u.addr = v.addr + w) && decide (v.addr / 256 = u.addr / 256)
        | none => false
      if joins && decide (b.length < limit) then acc.dropLast ++ [b ++ [u]] else acc ++ [[u]]
    | none => [[u]]) []

/-- The covered bytes of a burst with their addresses, as runs of adjacent bytes. (DESIGN CHOICE, log entry 65) -/
def byteRuns (b : List TUnit) : List (Nat × Bytes) :=
  let cells := b.flatMap (fun u => ((u.cover.zip u.bytes).zipIdx.filter (fun e => e.1.1)).map (fun e => (u.addr + e.2, e.1.2)))
  cells.foldl (fun (acc : List (Nat × Bytes)) c => match acc.getLast? with
    | some (a, l) => if c.1 = a + l.length then acc.dropLast ++ [(a, l ++ [c.2])] else acc ++ [(c.1, [c.2])]
    | none => [(c.1, [c.2])]) []

/-- The head of a transaction of an SPI master: opcode, address bytes, and on reads the dummy bytes. -/
def spiHead (s : State) (m : Nat) (write : Bool) (addr : Nat) : Bytes :=
  let n := s.fld (TRN_SPI.ADDR_BYTES m)
  byte (s.fld (if write then TRN_SPI.WR_OP m else TRN_SPI.RD_OP m)) :: toBe n (addr % 2 ^ (8 * n)) ++
    (if write then [] else zeros (s.fld (TRN_SPI.DUMMY m)))

/-- A transaction of an SPI master with its mode and clock. -/
def spiSend (m : Nat) (out : Bytes) (reads : Nat) (s : State) : State :=
  s.emit (.spiBus m (s.fld (TRN_SPI.MODE m)) (8 * (s.fld (TRN_SPI.DIV m) + 1)) out reads)

/-- The transactions of an SPI master for units as the target sees them. (DESIGN CHOICE, log entry 65) -/
def spiRun (m limit w : Nat) (write : Bool) (l : List TUnit) (s : State) : State :=
  (burstList w limit l).foldl (fun s b =>
    if write then (byteRuns b).foldl (fun s e => spiSend m (spiHead s m true e.1 ++ e.2) 0 s) s
    else spiSend m (spiHead s m false ((b.map (·.addr)).headD 0)) (b.length * w) s) s

/-- One cycle of the parallel bus over an even and an odd byte: which of them travel, and on a write their values. -/
def parCycle (cs a : Nat) (big write even odd : Bool) (e o : Nat) (s : State) : State :=
  if !even && !odd then s
  else
    let lanes := if big then b2n odd + 2 * b2n even else b2n even + 2 * b2n odd
    let v := if big then (if odd then o else 0) + 256 * (if even then e else 0) else (if even then e else 0) + 256 * (if odd then o else 0)
    let ns (f : Nat → Fld) : Nat := 4 * s.fld (f cs)
    s.emit (.busCycle cs (ns TRN_CS.SETUP) (ns TRN_CS.STROBE) (ns TRN_CS.HOLD) (a / 2) lanes (if write then some v else none))

/-- The cycles of a unit on the parallel bus: one for every two bytes. A read of 16 or 32 bits reads all of its bytes. -/
def parUnit (cs w : Nat) (big write : Bool) (u : TUnit) (s : State) : State :=
  let on (j : Nat) : Bool := (u.cover[j]?).getD false || (!write && decide (2 ≤ w))
  if w = 1 then
    let odd := decide (u.addr % 2 = 1)
    parCycle cs u.addr big write (!odd) odd (byteAt u.bytes 0) (byteAt u.bytes 0) s
  else
    (List.range (w / 2)).foldl (fun s k =>
      parCycle cs (u.addr + 2 * k) big write (on (2 * k)) (on (2 * k + 1)) (byteAt u.bytes (2 * k)) (byteAt u.bytes (2 * k + 1)) s) s

/-- The byte order of a target: an SPI target is big-endian, a chip select as `BIG` says, register space little-endian. -/
def targetBig (s : State) (space target : Nat) : Bool :=
  if space = 1 then true else if space = 2 then s.flag (TRN_CS.BIG (target % 4)) else false

/-- What a request does on LBUS. -/
def lbusRun (r : TrnReq) (s : State) : State :=
  let w := unitBytes r.width
  let big := targetBig s r.space r.target
  let l := (units r).map (toTarget (reverses r big))
  if r.space = 1 then spiRun (r.target % 4) (r.burst + 1) w r.write l s
  else l.foldl (fun s u => parUnit (r.target % 4) w big r.write u s) s

/-- The bytes that a read returns, in the order of window offsets, from the bytes of its units as the target gives them. -/
def readBack (r : TrnReq) (big : Bool) (rd : Bytes) : Bytes :=
  let w := unitBytes r.width
  let step (acc : Bytes × Bytes) (u : TUnit) : Bytes × Bytes :=
    if u.cover.any id then
      let b := slice acc.1 0 w
      (acc.1.drop w, acc.2 ++ (if reverses r big then b.reverse else b))
    else (acc.1, acc.2 ++ zeros w)
  slice ((allUnits r).foldl step (rd, [])).2 (r.addr % w) r.cover.length

/-! Performing a request where its target is (R477). -/

/-- The blocks that a far device does not write: HOST, SUP, FLT, KEY, CRY, PAIR. -/
def barredBlock (a : Nat) : Bool :=
  let b := a / 65536
  decide (b = 1) || decide (b = 5) || decide (b = 6) || decide (b = 7) || decide (b = 8) || decide (b = 0x24)

/-- The register accesses of a request, lowest address first. (DEDUCED, log entry 64) -/
def regRun (src : Src) (r : TrnReq) (s : State) : Bytes × State :=
  (units r).foldl (fun (acc : Bytes × State) u =>
    if r.write then (acc.1, busWrite src u.addr (le u.bytes) 15 acc.2)
    else
      let (w, t) := busRead src u.addr acc.2
      (acc.1 ++ toLe 4 w, t)) ([], s)

/-- Perform a request: cause (0 done), the data read, the state. `rd` is what the target returns, and `busErr` says that `LBUS_WAIT_N` stayed
low for 10 µs, which ends the cycle where the chip select honours it. -/
def perform (src : Src) (r : TrnReq) (rd : Bytes) (busErr : Bool) (s : State) : Nat × Bytes × State :=
  if r.space = 0 then
    let (d, t) := regRun src r { s with bus := { s.bus with last := src } }
    (0, if r.write then [] else readBack r false d, t)
  else
    let t := lbusRun r s
    if r.space = 2 && busErr && s.flag (TRN_CS.WAIT_EN (r.target % 4)) then (3, [], t)
    else (0, if r.write then [] else readBack r (targetBig s r.space r.target) rd, t)

/-- May a request reach its bus now: none where it must wait for a lock, else whether it ends with `LOCK` (R484)? -/
def busAnswer (s : State) (r : TrnReq) (dev : Nat) : Option Bool :=
  if r.space = 0 then some false
  else match kget s.trn.locks (busOf r.space r.target) with
    | some l => if r.locked && decide (l.dev = dev) && decide (l.host = r.host) then some false else if r.locked then some true else none
    | none => some r.locked

/-! The issuing device. -/

/-- The request of an access through a window. -/
def windowReq (s : State) (h n x : Nat) (write : Bool) (cover : List Bool) (data : Bytes) : TrnReq :=
  { src := ownAddr s, host := h, tag := kgetD s.trn.tags h 0, window := n, space := s.fld (TRN_WIN_CFG.SPACE h n),
    target := s.fld (TRN_WIN_CFG.TARGET h n), width := s.fld (TRN_WIN_CFG.WIDTH h n), burst := s.fld (TRN_WIN_CFG.BURST_M1 h n),
    lane := s.flag (TRN_WIN_CFG.LANE h n), write := write, addr := s.fld (TRN_WIN_BASE.BASE h n) + x, cover := cover, data := data,
    locked := seqHolds s h && bit (s.fld (TRN_LOCK_STATUS.WINMASK h)) n }

/-- Is a window's target at this device? -/
def windowHere (s : State) (h n : Nat) : Bool := hasAddr s && decide (s.fld (TRN_WIN_CFG.DEVICE h n) = ownAddr s)

/-- The cause with which the issuing device ends an access before it sends a request, 0 for none (R479, R483, R484).
(DEDUCED, log entry 63, DEDUCED, log entry 64) -/
def issueCause (s : State) (h n : Nat) (r : TrnReq) : Nat :=
  if beyond r then 7
  else if !hasAddr s || (!windowHere s h n && (routeTo s (s.fld (TRN_WIN_CFG.DEVICE h n))).isNone) then 4
  else if misaligned r then 5
  else if s.fld (TRN_LOCK_STATUS.STATE h) = 3 && bit (s.fld (TRN_LOCK_STATUS.WINMASK h)) n then 6
  else 0

/-- Are fewer than 32 requests of a host outstanding (R478)? -/
def channelOpen (s : State) (h : Nat) : Bool := decide ((s.trn.outs.filter (fun o => o.req.host = h)).length < 32)

/-- The tag of the last request of a channel, that is of a host to a device, among some that are not answered. -/
def lastTag (outs : List TrnOut) (h dev : Nat) : Option Nat :=
  (outs.filter (fun o => decide (o.req.host = h) && decide (o.device = dev))).getLast?.map (·.req.tag)

/-- Send a request to a far device (R478); `wtag` is the window's tag of a posted write. -/
def sendReq (h n wtag : Nat) (r : TrnReq) (s : State) : State :=
  let dev := s.fld (TRN_WIN_CFG.DEVICE h n)
  let r := { r with prev := lastTag s.trn.outs h dev }
  let o : TrnOut := { device := dev, req := r, wtag := wtag, start := s.lt, sent := s.lt }
  let s := s.modTrn (fun t => { t with outs := t.outs ++ [o], tags := kput t.tags h ((r.tag + 1) % 65536) })
  sendTo dev (.transom (.request r)) (s.bump (TRN_REQ h))

/-- A read ends: with data, or with Completer Abort (R481). -/
def readEnd (h : HostId) (cause : Nat) (data : Bytes) (s : State) : State :=
  if cause = 0 then s.emit (.barRead h 0 data) else (trnError h.val s).emit (.barRead h 2 [])

/-- Do accesses through BAR 2 reach the device? -/
def barOpen (s : State) (h : HostId) : Bool := busOpen s (hostSrc h)

/-- TRANSOM_READ (R476 to R483): `off` is the offset in BAR 2, `cover` says which bytes from there on are read, `rd` what the target's units
return where the target is on this device's LBUS. While its bus is locked by another, or 32 requests are outstanding, the access waits. -/
def execTransomRead (h : HostId) (off : Nat) (cover : List Bool) (rd : Bytes) (busErr : Bool) (s : State) : Res :=
  let n := off / 2 ^ 26 % 16
  let r := windowReq s h.val n (off % 2 ^ 26) false cover []
  let cause := issueCause s h.val n r
  if !barOpen s h then .next s
  else if !s.flag (TRN_WIN_CFG.VALID h.val n) then .next (s.emit (.barRead h 1 []))
  else if cause ≠ 0 then .next (readEnd h cause [] s)
  else if windowHere s h.val n then
    match busAnswer s r (ownAddr s) with
    | none => .next s
    | some true => .next (readEnd h 6 [] s)
    | some false =>
      let (c, d, t) := perform (hostSrc h) r rd busErr s
      .next (readEnd h c d t)
  else if channelOpen s h.val then .next (sendReq h.val n 0 r s)
  else .next s

/-- A posted write takes its window's tag. -/
def takeTag (h n : Nat) (s : State) : State :=
  s.setFld (TRN_WIN_STATUS.NEXT_TAG h n) ((s.fld (TRN_WIN_STATUS.NEXT_TAG h n) + 1) % 65536)

/-- TRANSOM_WRITE (R482): fenced writes take no tag; a write that must wait changes nothing yet. -/
def execTransomWrite (h : HostId) (off : Nat) (cover : List Bool) (data : Bytes) (busErr : Bool) (s : State) : Res :=
  let n := off / 2 ^ 26 % 16
  let r := windowReq s h.val n (off % 2 ^ 26) true cover data
  let cause := issueCause s h.val n r
  let tag := s.fld (TRN_WIN_STATUS.NEXT_TAG h.val n)
  if !barOpen s h then .next s
  else if !s.flag (TRN_WIN_CFG.VALID h.val n) then .next (trnError h.val s)
  else if s.flag (TRN_WIN_STATUS.ERR h.val n) && s.flag (TRN_WIN_CFG.FENCE_EN h.val n) then .next (s.bump (TRN_FENCED h.val))
  else if cause ≠ 0 then .next (postedFail h.val n tag cause (takeTag h.val n s))
  else if windowHere s h.val n then
    match busAnswer s r (ownAddr s) with
    | none => .next s
    | some true => .next (postedFail h.val n tag 6 (takeTag h.val n s))
    | some false =>
      let (c, _, t) := perform (hostSrc h) r [] busErr (takeTag h.val n s)
      .next (if c = 0 then t else postedFail h.val n tag c t)
  else if channelOpen s h.val then .next (sendReq h.val n tag r (takeTag h.val n s))
  else .next s

/-- A request ends with a cause: the read's completion, or a posted write's failure (R481, R482). -/
def reqEnd (o : TrnOut) (cause : Nat) (data : Bytes) (s : State) : State :=
  let s := s.modTrn (fun t => { t with outs := t.outs.filter (fun x => !(decide (x.req.host = o.req.host) && decide (x.req.tag = o.req.tag))) })
  if o.req.write then lockClose o.req.host (if cause = 0 then s else postedFail o.req.host o.req.window o.wtag cause s)
  else readEnd (hostOf o.req.host) cause data s

/-- The outstanding request of a host with a tag. -/
def outOf (s : State) (h tag : Nat) : Option TrnOut := s.trn.outs.find? (fun o => decide (o.req.host = h) && decide (o.req.tag = tag))

/-- TRANSOM_ANSWER (R481, R482): an answer for another device is relayed; one that answers nothing outstanding is ignored. -/
def execTransomAnswer (p : Port) (dst host tag cause : Nat) (data : Bytes) (s : State) : Res :=
  if !fabIn s p.val then .next s
  else if !hasAddr s || dst ≠ ownAddr s then .next (relay dst (.transom (.answer host tag cause data)) s)
  else match outOf s host tag with
    | some o => .next (reqEnd o cause data s)
    | none => .next s

/-- TRANSOM_RETRANSMIT (R478): the oldest request of a host that has waited 1 ms since it was sent. -/
def execTransomRetransmit (h : HostId) (s : State) : Res :=
  match s.trn.outs.find? (fun o => decide (o.req.host = h.val) && decide (o.sent + 1000000 ≤ s.lt)) with
  | none => .next s
  | some o =>
    if o.again < 3 then
      let r := { o.req with prev := lastTag (s.trn.outs.takeWhile (fun x => !(decide (x.req.host = h.val) && decide (x.req.tag = o.req.tag)))) h.val o.device }
      let up (x : TrnOut) : TrnOut := if x.req.host = h.val && x.req.tag = o.req.tag then { x with sent := s.lt, again := x.again + 1 } else x
      let s := (s.modTrn (fun t => { t with outs := t.outs.map up })).bump (TRN_RETRANSMIT h.val)
      .next (sendTo o.device (.transom (.request r)) s)
    else .next (reqEnd o 1 [] s)

/-- TRANSOM_READ_TIMEOUT (R481). -/
def execTransomReadTimeout (h : HostId) (tag : Nat) (s : State) : Res :=
  match outOf s h.val tag with
  | some o => if !o.req.write && decide (o.start + s.fld TRN_CTRL.TIMEOUT * 1000 ≤ s.lt) then .next (reqEnd o 1 [] s) else .next s
  | none => .next s

/-! The far device. -/

/-- Is a far request refused with `DENIED` (R477)? -/
def farDenied (s : State) (r : TrnReq) : Bool :=
  if r.space = 0 then !s.flag TRN_FAR.REG_EN || (r.write && (units r).any (fun u => barredBlock u.addr)) else !s.flag TRN_FAR.LBUS_EN

/-- The answers kept of the source host of a request. -/
def keptOf (s : State) (r : TrnReq) : List (Nat × Nat × Bytes) := kgetD s.trn.kept (r.src * 2 + r.host % 2) []

/-- Is it a request's turn in its channel (R478)? The one before it, while that was unanswered, has been performed here. (DEDUCED, log entry 145) -/
def channelTurn (s : State) (r : TrnReq) : Bool := r.prev.all (fun t => (keptOf s r).any (fun k => k.1 = t))

/-- The last 64 answers of a source host are kept (R478). -/
def keepAnswer (r : TrnReq) (cause : Nat) (data : Bytes) (s : State) : State :=
  s.modTrn (fun t => { t with kept := kmod t.kept (r.src * 2 + r.host % 2) [] (fun l => ((r.tag, cause, data) :: l).take 64) })

/-- Answer a request. -/
def answerReq (r : TrnReq) (cause : Nat) (data : Bytes) (s : State) : State :=
  sendTo r.src (.transom (.answer r.host r.tag cause data)) (keepAnswer r cause data s)

/-- TRANSOM_FAR_REQUEST (R477, R478, R483): a request for another device is relayed, or answered `NOROUTE`; a repeat is answered again. While
the bus is locked by another sequence, or an earlier request of the channel has not been performed, the request waits. -/
def execTransomFarRequest (p : Port) (dst : Nat) (r : TrnReq) (rd : Bytes) (busErr : Bool) (s : State) : Res :=
  if !fabIn s p.val then .next s
  else if !hasAddr s || dst ≠ ownAddr s then
    .next (if (routeTo s dst).isSome then relay dst (.transom (.request r)) s else sendTo r.src (.transom (.answer r.host r.tag 4 [])) s)
  else match (keptOf s r).find? (fun k => k.1 = r.tag) with
    | some k => .next (sendTo r.src (.transom (.answer r.host r.tag k.2.1 k.2.2)) s)
    | none =>
      if !channelTurn s r then .next s
      else if farDenied s r then .next (answerReq r 2 [] s)
      else match busAnswer s r r.src with
        | none => .next s
        | some true => .next (answerReq r 6 [] s)
        | some false =>
          let (c, d, t) := perform .fw r rd busErr s
          .next (answerReq r c d t)

/-! Locked sequences (R484, R485). -/

/-- An own sequence is broken: a far device has released its lock. -/
def seqBroken (h : Nat) (b : Nat × Nat) (s : State) : State :=
  match seqOf s h with
  | some q =>
    if q.held.contains b then
      let s := s.modTrn (fun t => { t with seqs := kput t.seqs h { q with held := q.held.filter (fun x => x ≠ b) } })
      raise 0x0B03 0 (evPay [(16, 1, h), (18, 2, s.fld (TRN_LOCK_STATUS.WINMASK h))]) (showSeq h 3 s)
    else s
  | none => s

/-- A grant reaches the sequence: one that is not wanted any more is given back. -/
def grantIn (h : Nat) (b : Nat × Nat) (s : State) : State :=
  match seqOf s h with
  | some q =>
    if q.asked = some b && q.backoff.isNone then seqGo (seqTake h b s) else sendTo b.1 (.transom (.unlock (ownAddr s) h b.2)) s
  | none => sendTo b.1 (.transom (.unlock (ownAddr s) h b.2)) s

/-- TRANSOM_LOCK_REQUEST (R484, R485): a request for a bus here, or an answer to a sequence of this device; any other is relayed. -/
def execTransomLockRequest (p : Port) (dst : Nat) (m : TrnMsg) (s : State) : Res :=
  if !fabIn s p.val then .next s
  else if !hasAddr s || dst ≠ ownAddr s then .next (relay dst (.transom m) s)
  else match m with
    | .lock src host bus => .next (if bus < 5 then seqGo (lockAt bus src host s) else s)
    | .granted dev host bus => .next (grantIn host (dev, bus) s)
    | .retry dev host bus =>
      match seqOf s host with
      | some q => .next (if q.asked = some (dev, bus) && !q.held.contains (dev, bus) then seqYield host s else s)
      | none => .next s
    | .unlock src host bus => .next (seqGo (dropLock src host (ownAddr s, bus) s))
    | .broken dev host bus => .next (seqBroken host (dev, bus) s)
    | _ => .next s

/-- TRANSOM_LOCK_BACKOFF (R485). -/
def execTransomLockBackoff (h : HostId) (s : State) : Res :=
  match seqOf s h.val with
  | some q =>
    match q.backoff with
    | some t =>
      if t ≤ s.lt then
        .next (seqAsk h.val 3 (s.modTrn (fun x => { x with seqs := kput x.seqs h.val { q with backoff := none, asked := none } })))
      else .next s
    | none => .next s
  | none => .next s

/-- TRANSOM_LOCK_EXPIRY (R484): a lock of a far sequence is released `LOCK_MAX` after its grant. -/
def execTransomLockExpiry (bus : Fin 5) (s : State) : Res :=
  match kget s.trn.locks bus.val with
  | some l =>
    if l.dev ≠ ownAddr s && decide (l.at_ + s.fld TRN_CTRL.LOCK_MAX * 10000 ≤ s.lt) then
      .next (seqGo (freeBus bus.val (sendTo l.dev (.transom (.broken (ownAddr s) l.host bus.val)) s)))
    else .next s
  | none => .next s

/-! Side-band lines (R486). -/

/-- The cycle or transaction that reads a poll entry. -/
def pollRead (e : Nat) (s : State) : State :=
  let space := s.fld (TRN_POLL0.SPACE e)
  let w := unitBytes (s.fld (TRN_POLL0.WIDTH e))
  let t := s.fld (TRN_POLL0.TARGET e)
  let u : TUnit := { addr := s.fld (TRN_POLL1.ADDR e), cover := List.replicate w true, bytes := zeros w }
  if space = 1 then spiRun t 1 w false [u] s else parUnit t w (targetBig s space t) false u s

/-- SIDEBAND_POLL (R486): the entry, and the value that its register or pin has. -/
def execSidebandPoll (e : Fin 16) (value : Nat) (s : State) : Res :=
  let i := e.val
  let pin := s.flag (TRN_POLL0.KIND i)
  let due := match kget s.trn.polled i with
    | some t => decide (t + s.fld (TRN_POLL0.INTERVAL i) * 10000 ≤ s.lt)
    | none => true
  let held := !pin && (kget s.trn.locks (busOf (s.fld (TRN_POLL0.SPACE i)) (s.fld (TRN_POLL0.TARGET i)))).isSome
  if s.pwr.state ≠ 0 || !s.flag (TRN_POLL0.VALID i) || !due || held then .next s
  else
    let v := value % (if pin then 2 else 2 ^ (8 * unitBytes (s.fld (TRN_POLL0.WIDTH i))))
    let mask := s.fld (TRN_POLL2.MASK i)
    let old := kget s.trn.refs i
    let s := if pin then s else pollRead i s
    let s := (s.modTrn (fun t => { t with polled := kput t.polled i s.lt })).setFld (TRN_POLL3.LAST i) v
    match old with
    | none => .next (s.modTrn (fun t => { t with refs := kput t.refs i v }))
    | some w =>
      if v &&& mask = w &&& mask then .next s
      else
        let s := s.modTrn (fun t => { t with refs := kput t.refs i v })
        let s := raise 0x0B02 0 (evPay [(16, 1, i), (17, 1, ownAddr s), (20, 4, v)]) s
        let d := s.fld (TRN_POLL0.NOTIFY_DEV i)
        .next (if s.flag (TRN_POLL0.NOTIFY_EN i) && hasAddr s && decide (d ≠ ownAddr s) then
            sendTo d (.transom (.sideband (ownAddr s) i v)) s else s)

/-- SIDEBAND_NOTIFY_RECEIVED (R486). -/
def execSidebandNotifyReceived (p : Port) (dst src entry value : Nat) (s : State) : Res :=
  if !fabIn s p.val then .next s
  else if !hasAddr s || dst ≠ ownAddr s then .next (relay dst (.transom (.sideband src entry value)) s)
  else .next (raise 0x0B02 0 (evPay [(16, 1, entry), (17, 1, src), (20, 4, value)]) s)

end Sys2Proof.Machine
end

