-- ==== Sys2Proof/Machine/Boot.lean ====
section
/-! DEFINITION. From power-on to forwarding, and the ends of exits (R593 to R600, R619, R626, R642, R559 to R564): how a configuration image
is applied, what a start does, what an exit leaves. -/

namespace Sys2Proof.Machine

/-! Applying the configuration image (R594 to R596). -/

/-- May software change a field? -/
def FieldSpec.writable (f : FieldSpec) : Bool := decide (f.acc ≠ .ro)

/-- The register that a record of the image may write: every field of it that can be written is of class K, and it is neither `HOST_FAILSAFE`
nor `GLB_CTRL` (R596). (DEDUCED, log entry 105) -/
def imageReg (a : Nat) : Option (RegRow × List Nat) :=
  if a = HOST_FAILSAFE || a = GLB_CTRL || a % 4 ≠ 0 then none
  else match regAt a with
    | some (r, is) =>
      let l := r.fields.filter (fun f => f.writable && !fieldAbsent r.base is f)
      if l.isEmpty || r.wide || l.any (fun f => decide (f.keep ≠ .k)) then none else some (r, is)
    | none => none

/-- The commands that an image may carry (R595); none for any other. -/
def imageCommand (op : Nat) (c : CmdCtx) : Option (State → State) :=
  match op with
  | 0x0203 => some (tblInsert c op false)
  | 0x0207 => some (tblInsert c op true)
  | 0x0301 => some (hedgeStage c)
  | 0x0501 => some (shutterStage c)
  | 0x0801 => some (gwStage c)
  | _ => none

/-- Run a command of the image: its status is taken back from the output log. -/
def imageRun (op : Nat) (c : CmdCtx) (s : State) : State × Bool :=
  match imageCommand op c with
  | none => (s, false)
  | some f =>
    let t := f s
    if t.out.length ≤ s.out.length then (t, false)
    else match t.out with
      | .fwComplete _ st _ :: r => ({ t with out := r }, decide (st = stOk))
      | _ => (t, false)

/-- Apply a record: the state, and why it is refused, as `EV_CFG_REJECTED` codes it (R596, R602). (DEDUCED, log entry 105) -/
def applyRecord (r : Rec595) (s : State) : State × Option Nat :=
  match r.bytes with
  | none => (s, some 4)
  | some b =>
    if r.type = 1 then
      match recWrite r, imageReg (leAt b 0 4) with
      | some (a, v), some (row, is) => (writeReg .fw row is a v s, none)
      | _, _ => (s, some 2)
    else if r.type = 2 then
      let (t, ok) := imageRun (leAt b 0 2) (imgCmd (b.drop 4)) s
      (t, if ok then none else some 3)
    else (s, some 3)

/-- Apply the records of a part in order, up to the first that is refused: its kind and its offset in the section. -/
def applyRecords : List Rec595 → State → State × Option (Nat × Nat)
  | [], s => (s, none)
  | r :: l, s =>
    match applyRecord r s with
    | (t, none) => applyRecords l t
    | (t, some k) => (t, some (k, r.off))

/-- Apply the own parts of sections in order: where one is refused, the section, the kind, and the offset in the image. (DEDUCED, log entry 105) -/
def applySections (img : Bytes) : List Nat → State → State × Option (Nat × Nat × Nat)
  | [], s => (s, none)
  | n :: l, s =>
    match ownPart img n ownUid with
    | none => applySections img l s
    | some p =>
      match applyRecords (partRecords p) s with
      | (t, none) => applySections img l t
      | (t, some (k, o)) => (t, some (n, k, imgOff img n + o))

/-- The sections that are applied at a start, in order (R596). -/
def imageSections : List Nat := [0, 1, 2, 3, 5, 6, 7, 8, 9, 10, 11, 12, 13]

/-- The flips that follow, in order: hedge, egress, gateway, carving (R596). (DEDUCED, log entry 105) -/
def imageFlips (s : State) : State :=
  let s := (List.range 4).foldl (fun s q => endHedgeCopy q (hedgeSwap false q s)) s
  let s := (List.range 76).foldl (fun s p =>
    let e := s.eport p
    if e.active = e.shadow then s
    else (s.modEport p (fun e => { e with active := e.shadow, shapers := [] })).setFld (EGR_PORT_ENTRY.ACT_GEN p)
      ((s.fld (EGR_PORT_ENTRY.ACT_GEN p) + 1) % 65536)) s
  let s := gwCopyEnd (gwSwap false s)
  if carvingOk s then carve s else s

/-- `EV_CFG_REJECTED` (R602). (DEDUCED, log entry 105) -/
def cfgRejected (section_ kind off : Nat) (s : State) : State := raise 0x0F0A 1 (evPay [(16, 1, section_), (17, 1, kind), (20, 4, off)]) s

/-- The sixteen section digests of an image (R470). -/
def imageDigests (img fw : Bytes) : List Bytes :=
  (List.range 16).map (fun n => if n = 14 then fw else if n = 15 then sha384 [] else sha384 (imgSection img n))

/-- The size of the restore set in KiB (R548). (DEDUCED, log entry 108) -/
def restoreKib (img : Bytes) : Nat :=
  divUp ((imageSections.map (fun n => (ownPart img n ownUid).elim 0 (fun p => 16 + p.bytes.length))).sum) 1024

/-- The configuration image is found, checked and applied, or rejected as a whole (R596, R599). The counters that flash holds stay. -/
def imageStart (s : State) : State :=
  let img := s.flash.image
  if img.isEmpty then cfgRejected 0xFF 0 0 s
  else if !imageLayoutOk img then cfgRejected 0xFF 0 0 s
  else if !imageSigOk s img then cfgRejected 0xFF 1 0 s
  else
    match applySections img imageSections s with
    | (_, some (n, k, o)) => cfgRejected n k o s
    | (t, none) =>
      let t := imageFlips { t with keys := { t.keys with fresh := s.keys.fresh }, flash := { t.flash with loaded := img } }
      let t := (t.setFld FAB_GEN.GENERATION (leAt img 8 4)).setFld PWR_RESTORE.RESTORE_KIB (min 65535 (restoreKib img))
      showRoots { t with fab := { t.fab with secs := imageDigests img (firmwareDigest t (newestRec t).2.1) } }

/-! A start (R598, R642). -/

/-- The newest crash record (R517). -/
def showCrash (s : State) : State :=
  match s.flt.crash with
  | [] => s
  | (b, _) :: _ =>
    let s := (List.range 8).foldl (fun s n => s.setReg (FLT_CRASH n) (leAt b (4 * n) 4)) s
    (s.setFld FLT_CRASH_INFO.VALID 1).setFld FLT_CRASH_INFO.COUNT (min 65535 s.flt.crashCount)

/-- What the activation journal shows after a cut (R506): a torn record leaves the one before in force, the handover blobs go, and firmware reports
it once it runs. (DEDUCED, log entry 103) -/
def journalScan (torn : Bool) (s : State) : State :=
  let s := if torn && s.sup.cut then dropHandover (s.modSup (fun p => { p with fallback := some 2 })) else s
  showSlot 0 (showSlot 1 (s.modSup (fun p => { p with cut := false })))

/-- The key store at a start: the measurement, and every slot and counter from flash (R436, R441). (DEDUCED, log entry 108) -/
def keyStart (s : State) : State :=
  let m := slotMeas s (newestRec s).2.1
  let s := (s.setFld KEY_STATUS.TRNG_OK 1).setFld KEY_STATUS.RESTORED 1
  showMeas m (keysRestore m s)

/-- Every list takes the entry for its domain's time (R277), no hold stands, tokens and credit are 0, the energy level is full (R303), and periods that run
on LT begin now. (DESIGN CHOICE, log entry 127, DESIGN CHOICE, log entry 141) -/
def listsStart (s : State) : State :=
  let start (e : Nat × EPort) : Nat × EPort := (e.1, takeEntry s { e.2 with hold := false, shapers := [] })
  { s with egr := { s.egr with ports := s.egr.ports.map start, zeroAt := s.lt, histDue := s.lt + s.fld EGR_HIST_CFG.SAMPLE * 1000, energyAt := s.lt,
                               energy := (s.fld EGR_ENERGY_CFG.BURST : Int) * 1000000, emptySince := none, emptyTold := false, clockQuads := [] } }

/-- Steps 1 to 8 of the start-up sequence (R598), on what the loss of power has left: reset cause, straps, journal, image, pair mode, keys, timekeeper,
forwarding. `kind` is 0 for POR and 1 for an exit from S5, `us` the time to forwarding. Firmware runs later (R642).
(DESIGN CHOICE, log entry 47, DESIGN CHOICE, log entry 56, DEDUCED, log entry 108) -/
def startUp (kind us straps : Nat) (torn : Bool) (s : State) : State :=
  let s := (s.setFld PWR_RESET_CAUSE.CAUSE (if kind = 1 then 2 else s.rst.cause)).setFld PWR_RESET_CAUSE.RAIL (if kind = 0 && s.rst.cause = 1 then s.rst.rail else 0)
  let s := { s with dbg := { s.dbg with straps := straps % 2 ^ 16 } }
  let s := (showIslands 0 s).setFld GLB_STATUS.AON_OK 1
  let s := keyStart (imageStart (journalScan torn (showCrash s)))
  let s := pairStart s
  let s := supShow 0 false (s.modSup (fun p => { p with restartAt := some s.lt }))
  let s := { s with rst := { s.rst with boot := some (kind, us, s.lt), porLow := false, cause := 0, rail := 0 } }
  let s := s.modPwr (fun p => { p with stateAt := s.lt, active := s.lt })
  if bit (byteAt s.flash.loaded 16) 0 then s.setFld GLB_CTRL.FWD_EN 1 else s

/-- POWER_ON_RESET (R598, R619, R625, R626): the filtered rising edge of `PORESET_N`. `rails` are the levels of the rails in mV, `test` that of
`TEST_MODE`, and the pin has been high for `held` ns by the filter of the straps that are sampled; where the device may not leave POR it stays in
reset. The start runs up to step 8 at once; how long it took is a free value of at most
7928 µs. (DESIGN CHOICE, log entry 56) -/
def execPowerOnReset (torn : Bool) (straps : Nat) (rails : List Nat) (test : Bool) (held : Nat) (s : State) : Res :=
  if !s.rst.porLow || held < rstFilter straps then .next s
  else if supplyOk straps rails test then
    let us := s.freeVal % 7929
    .next (listsStart (gwRestart (startUp 0 us straps torn (porLose s.drew))))
  else .next (porHold s.rst.cause s.rst.rail s)

/-! The end of an exit (R559 to R564). -/

/-- Is a record of the image an entry of a forwarding table? -/
def tableRecord (r : Rec595) : Bool :=
  match r.bytes with
  | some b => r.type = 2 && (leAt b 0 2 = 0x0203 || leAt b 0 2 = 0x0207)
  | none => false

/-- The pinned, FID and group entries of the image, after S4 (R192). (DEDUCED, log entry 104) -/
def reloadTables (s : State) : State :=
  let l := imageSections.flatMap (fun n => (ownPart s.flash.loaded n ownUid).elim [] partRecords)
  (l.filter tableRecord).foldl (fun s r => (applyRecord r s).1) s

/-- Every stream that enters here takes a new epoch (R356). -/
def exitEpochs (s : State) : State := epochEvents s.streams (newEpochs (fun _ x => x.epoch + 1) s)

/-- The ports after an exit from S3 to S5 (R542, R543): a wake event brings up the ports that it concerns, any other cause every port. -/
def exitPorts (x : Leaving) (s : State) : State :=
  let s := if x.cause = 4 && !s.wake.due.isEmpty then s else portsToNormal s
  wakeAfterExit s

/-- The pinhole sweeper ticks again from an exit on (R214, R646). (DESIGN CHOICE, log entry 127) -/
def sweepRestart (s : State) : State := { s with hedge := { s.hedge with sweepDue := s.lt + 100000000 } }

/-- An exit from S5 (R563, R598): the start-up sequence, with the time that the sleep timebase gives. (DEDUCED, log entry 104) -/
def exitSealed (x : Leaving) (straps : Nat) (s0 : State) : State :=
  let us := (s0.lt - x.start) / 1000
  let ms := (s0.lt - s0.pwr.stateAt) / 1000000
  let s := porLose s0
  let s := { s with wake := { s.wake with due := s0.wake.due },
                    time := { s.time with lt := s0.time.lt, d0 := { val := s0.time.d0.val }, d1 := { val := s0.time.d1.val } } }
  let s := startUp 1 us straps false (timeResume (x.start - s0.pwr.stateAt) s)
  exitPorts x (exitShow x us ((listsStart (gwRestart (sweepRestart s))).bumpBy (PWR_RESIDENCY 4) ms))

/-- An exit from S3 or S4: contents come back from the keep store, S4's tables from the image (R161, R192, R277, R356, R417, R645).
(DEDUCED, log entry 104) -/
def exitDeep (x : Leaving) (s : State) : State :=
  let s := finishExit x s
  let s := if x.left = 4 then reloadTables s else s
  exitPorts x (ordersRestart (exitEpochs (listsStart (gwRestart (sweepRestart s)))))

/-- The wake events that an exit from S1 or S2 kept waiting act as in S0. -/
def wakeDueNow (s : State) : State :=
  s.wake.due.foldl (fun s d => wakeNow d (wakeCause d.source) s) (s.modWake (fun w => { w with due := [] }))

/-- STATE_EXIT_DONE (R563): every island has ramped, and the restore has ended. A warm reset that the exit is for then begins (R559, R585). -/
def execStateExitDone (straps : Nat) (s : State) : Res :=
  match s.pwr.exit with
  | some x =>
    if 0 < s.pwr.ramps || 0 < s.pwr.ramping then .next s
    else
      let s := if x.left = 5 then exitSealed x straps s
        else if 3 ≤ x.left then exitDeep x s
        else wakeDueNow (finishExit x s)
      .next (match x.warm with
        | some k => if x.left ≤ 4 then warmBegin k s else s
        | none => s)
  | none => .next s

end Sys2Proof.Machine
end

