-- ==== Sys2Proof/Machine/Debug.lean ====
section
/-! DEFINITION. The debug port: its instructions, and the unlock by challenge and response (R633 to R639). -/

namespace Sys2Proof.Machine

/-- Change the debug port. -/
def State.modDbg (s : State) (f : DbgSt → DbgSt) : State := { s with dbg := f s.dbg }

/-- The latched strap `DBG_DIS`. -/
def dbgDis (s : State) : Bool := bit s.dbg.straps 15

/-- DBG_STATUS. -/
def dbgStatus (s : State) : Nat :=
  let d := s.dbg
  b2n d.unlocked * 2 ^ 31 + b2n d.verifying.isSome * 2 ^ 30 + b2n d.lockedOut * 2 ^ 29 + b2n d.challenge.isSome * 2 ^ 28 +
  min 3 d.fails * 2 ^ 26 + b2n d.refused * 2 ^ 25 + b2n (s.flag GLB_CTRL.FWD_EN) * 2 ^ 24 + d.straps % 2 ^ 16 * 2 ^ 8

/-- IDCODE (R633). -/
def idcode : Nat := 0xB * 2 ^ 28 + 0x0872 * 2 ^ 12 + Config.jedecCode % 2 ^ 11 * 2 + 1

/-- The instruction that a code acts as (R633, R634, R638). (DEDUCED, log entry 75) -/
def jtagActs (s : State) (code : Nat) : Nat :=
  if code = 0x00 || code = 0x03 || code = 0x04 then (if s.flag GLB_CTRL.FWD_EN then 0xFF else code)
  else if code = 0x01 || code = 0x02 || code = 0x10 || code = 0x11 || code = 0x12 then code
  else if code = 0x20 && s.dbg.unlocked && !dbgDis s then code
  else 0xFF

/-- JTAG_INSTRUCTION_LOAD (R634): the instruction acts or is refused; IDCODE and DBG_STATUS show their registers. (DEDUCED, log entry 75) -/
def execJtagInstructionLoad (code : Fin 256) (s : State) : Res :=
  let a := jtagActs s code.val
  let refused := decide (code.val = 0x00 || code.val = 0x03 || code.val = 0x04) && decide (a = 0xFF)
  let s := s.modDbg (fun d => { d with instr := a, refused := d.refused || refused })
  .next (if a = 0x02 then s.emit (.jtag a (toLe 4 idcode)) else if a = 0x10 then s.emit (.jtag a (toLe 4 (dbgStatus s))) else s)

/-- TAP_RESET (R633, R634): IDCODE is loaded. -/
def execTapReset (s : State) : Res := .next (s.modDbg (fun d => { d with instr := 0x02 }))

/-- The bytes of a new challenge (R635). (DEDUCED, log entry 75) -/
def newChallenge (s : State) : Bytes := freeBytes s.free 16 ++ toBe 8 ownUid ++ toBe 4 s.dbg.attempts ++ zeros 4

/-- DBG_CHALLENGE_READ (R635): ignored during a verification. -/
def execDbgChallengeRead (s : State) : Res :=
  if s.dbg.instr ≠ 0x11 || s.dbg.verifying.isSome then .next s
  else
    let ch := newChallenge s
    .next (((s.drewN 16).modDbg (fun d => { d with challenge := some (ch, s.lt + 60 * sec) })).emit (.jtag 0x11 ch))

/-- DBG_CHALLENGE_EXPIRY (R635): after 60 s; the challenge of a response under verification stays in force. (DEDUCED, log entry 75) -/
def execDbgChallengeExpiry (s : State) : Res :=
  match s.dbg.challenge with
  | some (_, t) => if t ≤ s.lt && s.dbg.verifying.isNone then .next (s.modDbg (fun d => { d with challenge := none })) else .next s
  | none => .next s

/-- DBG_RESPONSE_LOAD (R635, R638): 97 bytes, `SCOPE` and the signature; the attempt counts. -/
def execDbgResponseLoad (response : Bytes) (s : State) : Res :=
  if s.dbg.instr ≠ 0x12 || dbgDis s || s.dbg.verifying.isSome then .next s
  else .next (s.modDbg (fun d => { d with verifying := some (slice response 0 97), attempts := d.attempts + 1 }))

/-- Does a response unlock (R636)? -/
def dbgCorrect (s : State) (r : Bytes) : Bool :=
  match s.dbg.challenge with
  | some (ch, _) => byteAt r 0 = 1 && !dbgDis s && !s.dbg.lockedOut &&
      ecdsaVerify (Config.debugX % 2 ^ 384) (Config.debugY % 2 ^ 384) (sha384 (ch ++ [byte (byteAt r 0)])) (slice r 1 96)
  | none => false

/-- Is the key of a slot bound (R437)? -/
def slotBound (x : Slot) : Bool := x.act.any (fun k => k.bound.isSome)

/-- The unlock (R637), in its order: the measurement, the bound slots, the flag and the event. -/
def dbgUnlock (ch : Bytes) (s : State) : State :=
  let s := showMeas (extendMeas s.keys.meas ch) s
  let n := (s.keys.slots.filter (fun e => slotBound e.2)).length
  let s := { s with keys := { s.keys with slots := s.keys.slots.map (fun (e : Nat × Slot) =>
    (e.1, if slotBound e.2 then { e.2 with act := none, pend := none, checked := false } else e.2)) } }
  raise 0x0F0B 1 (evPay [(16, 1, n), (20, 4, s.dbg.attempts)]) (s.modDbg (fun d => { d with unlocked := true, fails := 0, challenge := none }))

/-- DBG_VERIFY_DONE (R636, R637): the port unlocks, or the failure consumes the challenge; the third in a row locks the port out. -/
def execDbgVerifyDone (s : State) : Res :=
  if s.pwr.state ≠ 0 then .next s else
  match s.dbg.verifying with
  | none => .next s
  | some r =>
    let ch := (s.dbg.challenge.map (·.1)).getD []
    let ok := dbgCorrect s r
    let s := s.modDbg (fun d => { d with verifying := none })
    if ok then .next (dbgUnlock ch s)
    else .next (s.modDbg (fun d => { d with challenge := none, fails := min 3 (d.fails + 1), lockedOut := d.lockedOut || decide (2 ≤ d.fails) }))

end Sys2Proof.Machine
end

