-- ==== Sys2Proof/Machine/PortRows.lean ====
section
/-! DEFINITION. The links of the Ethernet ports (R244, R286 to R290, R368, R604, R649), firmware's gPTP timers (R248), and the windows of the triad (R493 to
R496). -/

namespace Sys2Proof.Machine

/-! Links. -/

/-- Is a rate in kb/s one of a port's (R1)? A serdes runs at any rate up to its highest that the external PHY trains. (DEDUCED, log entry 101) -/
def rateOfPort (p rate : Nat) : Bool :=
  if p ≤ 15 || p = 75 then decide (1 ≤ rate) && decide (rate ≤ highRate p)
  else decide (16 ≤ p) && decide (p ≤ 31) && (decide (rate = 1000000) || decide (rate = 100000))

/-- The fused latencies of the mode that a T1 link has trained, where nobody has written the fields (R244). -/
def trainedLatency (p rate : Nat) (s : State) : State :=
  if decide (16 ≤ p) && decide (p ≤ 31) && !bit s.time.latBy p then
    let fast := decide (rate = 1000000)
    (s.setFld (TIME_PORT_CFG.RX_LAT p) (Config.fusedRx p fast)).setFld (TIME_PORT_CFG.TX_LAT p) (Config.fusedTx p fast)
  else s

/-- The copies that a port at another rate may not carry are discarded (R604). -/
def flushKeptOff (p : Nat) (s : State) : State :=
  (List.range 8).foldl (fun s c =>
    let l := s.queue p c
    discardAll p false (l.filter (fun x => !copyUp s p x)) (keepInQueue p c (l.filter (copyUp s p)) s)) s

/-- May a link train on a port now: its slice is on, and its PHY or serdes is on its way to normal or in it (R523, R524)? (DEDUCED, log entry 101) -/
def mayTrain (s : State) (p : Nat) : Bool :=
  decide (s.pwr.state ≤ 2) && (p = 75 || decide (s.fld (WAKE_PORT_STATUS.TARGET p) = 0))

/-- A link trains at a rate. `PARK_EN` reads back 0 where the port may not park at it (R299). (DEDUCED, log entry 141) -/
def linkUp (p rate : Nat) (eee : Bool) (s : State) : State :=
  let was := preemptActive s p
  let s := settlePort p s
  let s := trainedLatency p rate { s with links := kput s.links p { rate := rate, eee := eee } }
  let s := if s.flag (EGR_PORT_CTRL.PARK_EN p) && !parkAllowed s p then s.setFld (EGR_PORT_CTRL.PARK_EN p) 0 else s
  flushKeptOff p (portReachedNow p (preemptLost was p (startVerify p s)))

/-- ETHERNET_LINK_UP (R244, R286, R524, R604). `rate` is in kb/s. A T1S segment trains no link. A rate that the port kind does not have comes from no
link: the one fault of this model. (DESIGN CHOICE, log entry 102) -/
def execEthernetLinkUp (p : Port) (rate : Nat) (eee : Bool) (s : State) : Res :=
  if !isEthPort p.val || (decide (32 ≤ p.val) && decide (p.val ≤ 39)) || !mayTrain s p.val then .next s
  else if rateOfPort p.val rate then .next (linkUp p.val rate eee s)
  else .fault .illFormed

/-- ETHERNET_LINK_DOWN (R649): of a port that is no fabric port. -/
def execEthernetLinkDown (p : Port) (s : State) : Res :=
  if khas s.links p.val && !s.fabricPort p.val then .next (linkDown p.val s) else .next s

/-! gPTP (R248, R249). -/

/-- Does a port take part in an instance (R248, R249)? (PRESUMED, log entry 77) -/
def gptpPort (s : State) (d p : Nat) : Bool :=
  (decide (p ≤ 31) || p = 75) && s.flag (TIME_DOM_CFG.SERVO d) &&
  s.flag (if d = 0 then TIME_PORT_CFG.AS_EN0 p else TIME_PORT_CFG.AS_EN1 p)

/-- Firmware sends a frame in TC7 on a port: one of a length that R97 allows is staged behind SV's others (R127, R173, R196). (DEDUCED, log
entry 106) -/
def svSend (p : Nat) (frame : Bytes) (s : State) : State :=
  if frame.length < 14 || 9600 < frame.length then s
  else svAccept { bytes := frame, inPort := 74, start := s.stamp false, arrive := s.lt, cls := some 7, dest := some p } s

/-- GPTP_TIMER_EXPIRY (R248): of an instance, 0 its Sync interval, 1 the Pdelay interval that both instances share, 2 its Announce interval, 3 a receipt
timeout. Firmware sends messages on ports that take part; after a timeout the servo is locked or not. -/
def execGptpTimerExpiry (d : Fin 2) (kind : Fin 4) (send : List (Port × Bytes)) (lock : Bool) (s : State) : Res :=
  if s.pwr.state ≠ 0 || !triadRun s || s.flt.f3 || !s.flag (TIME_DOM_CFG.SERVO d.val) then .next s
  else
    let on (p : Nat) : Bool := gptpPort s d.val p || (kind.val = 1 && gptpPort s (1 - d.val) p)
    let s := send.foldl (fun s e => if on e.1.val then svSend e.1.val e.2 s else s) s
    .next (if kind.val = 3 then s.setDom d.val { s.dom d.val with locked := lock } else s)

/-! Windows of the triad. -/

/-- The bytes that the signature of a window covers (R493). (DESIGN CHOICE, log entry 107) -/
def windowBytes (l : List BusWrite) : Bytes := l.flatMap (fun w => toBe 4 w.addr ++ toBe 4 w.data ++ [byte (w.be % 16)])

/-- The signature of a window. (DESIGN CHOICE, log entry 107) -/
def windowSig (l : List BusWrite) : Nat := crcMsb 64 0x42F0E1EBA9EA3693 0 (windowBytes l)

/-- A released write: to the register bus, or to the fabric of the block (R493). (DEDUCED, log entry 106) -/
def releaseWrite (s : State) (w : BusWrite) : State :=
  if w.addr < 2 ^ 22 then busWrite .fw w.addr w.data w.be { s with bus := { s.bus with last := .fw } }
  else s.emit (.fwData w.addr (toLe 4 w.data))

/-- Release the writes of the agreeing cores; what firmware restores at its own pace it has restored by then (R191). (DESIGN CHOICE, log entry 137) -/
def releaseWindow (l : List BusWrite) (s : State) : State := restoreLost ((l.foldl releaseWrite s).bump SUP_WINDOWS)

/-- What the running cores wrote into their own SRAM in a window (R492): core, address, byte. -/
def sramWrites (l : List (Fin 3 × Nat × Nat)) (s : State) : State :=
  s.modSup (fun p => { p with
    sram := (l.filter (fun e => bit (coresRun s) e.1.val)).foldl (fun m e => kput m (e.1.val * 2 ^ 21 + e.2.1 % 2 ^ 21) (e.2.2 % 256)) p.sram })

/-- No majority (R495): the writes are discarded; the F3 event carries the window count. -/
def noMajority (s : State) : State := raiseF3 0x0F05 (evPay [(20, 8, s.ctr SUP_WINDOWS)]) false s

/-- The writes of a core: a window closes after 64 (R493). -/
def coreWrites (a b c : List BusWrite) (k : Nat) : List BusWrite := (if k = 0 then a else if k = 1 then b else c).take 64

/-- The comparison of a window's signatures (R493 to R495). -/
def windowVote (a b c : List BusWrite) (s : State) : State :=
  let sig (k : Nat) : Nat := windowSig (coreWrites a b c k)
  match s.sup.resync with
  | some (k, _) =>
    let x := if k = 0 then 1 else 0
    let y := if k = 2 then 1 else 2
    if sig x = sig y then releaseWindow (coreWrites a b c x) s else noMajority s
  | none =>
    let w0 := coreWrites a b c 0
    if sig 0 = sig 1 then (if sig 0 = sig 2 then releaseWindow w0 s else oddCore 2 0 (releaseWindow w0 s))
    else if sig 0 = sig 2 then oddCore 1 0 (releaseWindow w0 s)
    else if sig 1 = sig 2 then oddCore 0 0 (releaseWindow (coreWrites a b c 1) s)
    else noMajority s

/-- SUP_WINDOW_CLOSE (R492 to R496): the window as cores 0, 1 and 2 formed it, and what they wrote into their own SRAM. While a core is
resynchronised, the other two must agree. -/
def execSupWindowClose (a b c : List BusWrite) (priv : List (Fin 3 × Nat × Nat)) (s : State) : Res :=
  if !triadRun s || s.flt.f3 || s.pwr.state ≠ 0 then .next s
  else .next (windowVote a b c (sramWrites priv s))

end Sys2Proof.Machine
end

