-- ==== Sys2Proof/Machine/Dispatch.lean ====
section
/-! DEFINITION. The dispatch: one arm per command, each one direct call of its meaning. -/

namespace Sys2Proof.Machine

def exec (i : Instr) (s : State) : Host.Outcome State Fault Refusal :=
  match i with
  | .ethernetFrameReceived p frame phyErr w => Sys2Proof.Machine.execEthernetFrameReceived p frame phyErr w s
  | .legacyPduReceived p ok u w => Sys2Proof.Machine.execLegacyPduReceived p ok u w s
  | .pipelineFrame p ecc => Sys2Proof.Machine.execPipelineFrame p ecc s
  | .learnRequest q => Sys2Proof.Machine.execLearnRequest q s
  | .recoveryCopy => Sys2Proof.Machine.execRecoveryCopy s
  | .skewTick => Sys2Proof.Machine.execSkewTick s
  | .batchAdd => Sys2Proof.Machine.execBatchAdd s
  | .batchTick => Sys2Proof.Machine.execBatchTick s
  | .egressSelect p ecc => Sys2Proof.Machine.execEgressSelect p ecc s
  | .frameDepart p => Sys2Proof.Machine.execFrameDepart p s
  | .svFrameTake ecc servo => Sys2Proof.Machine.execSvFrameTake ecc servo s
  | .hostRxDeliver h entry => Sys2Proof.Machine.execHostRxDeliver h entry s
  | .eventWrite h failed => Sys2Proof.Machine.execEventWrite h failed s
  | .msixTimeFire h v => Sys2Proof.Machine.execMsixTimeFire h v s
  | .doorbellPollTimer h => Sys2Proof.Machine.execDoorbellPollTimer h s
  | .doorbellSlotRead h slot page => Sys2Proof.Machine.execDoorbellSlotRead h slot page s
  | .doorbellReread h slot => Sys2Proof.Machine.execDoorbellReread h slot s
  | .txqDescriptor h qs desc data => Sys2Proof.Machine.execTxqDescriptor h qs desc data s
  | .cmdqFetch h qs entry par => Sys2Proof.Machine.execCmdqFetch h qs entry par s
  | .dmaError h qs r cause => Sys2Proof.Machine.execDmaError h qs r cause s
  | .hostWakeHint h value => Sys2Proof.Machine.execHostWakeHint h value s
  | .ringEnable h qs r value => Sys2Proof.Machine.execRingEnable h qs r value s
  | .ringStop h qs r value => Sys2Proof.Machine.execRingStop h qs r value s
  | .ringStoppingDone h qs r => Sys2Proof.Machine.execRingStoppingDone h qs r s
  | .busMasterDisable h => Sys2Proof.Machine.execBusMasterDisable h s
  | .hostFlr h => Sys2Proof.Machine.execHostFlr h s
  | .pcieLinkDown h => Sys2Proof.Machine.execPcieLinkDown h s
  | .pcieLinkUp h gen lanes bme => Sys2Proof.Machine.execPcieLinkUp h gen lanes bme s
  | .spiWriteFrame frame => Sys2Proof.Machine.execSpiWriteFrame frame s
  | .spiReadFrame frame => Sys2Proof.Machine.execSpiReadFrame frame s
  | .spiStatusFrame => Sys2Proof.Machine.execSpiStatusFrame s
  | .spiFrameError count => Sys2Proof.Machine.execSpiFrameError count s
  | .registerWrite src addr data be => Sys2Proof.Machine.execRegisterWrite src addr data be s
  | .unmappedRead src addr be core => Sys2Proof.Machine.execUnmappedRead src addr be core s
  | .counterLowRead src addr be core => Sys2Proof.Machine.execCounterLowRead src addr be core s
  | .timeInLastNsRead src pin => Sys2Proof.Machine.execTimeInLastNsRead src pin s
  | .fwdEnSet src => Sys2Proof.Machine.execFwdEnSet src s
  | .hostFailsafeWrst => Sys2Proof.Machine.execHostFailsafeWrst s
  | .hostFailsafeFence => Sys2Proof.Machine.execHostFailsafeFence s
  | .bufBdSnapshot src value => Sys2Proof.Machine.execBufBdSnapshot src value s
  | .bufDbgRelease src value => Sys2Proof.Machine.execBufDbgRelease src value s
  | .bufSillWrite src k value => Sys2Proof.Machine.execBufSillWrite src k value s
  | .maxLenWrite src p value => Sys2Proof.Machine.execMaxLenWrite src p value s
  | .domainNumberWrite src d value => Sys2Proof.Machine.execDomainNumberWrite src d value s
  | .canBitTimingWrite src n r value => Sys2Proof.Machine.execCanBitTimingWrite src n r value s
  | .flexrayConfigWrite src r value => Sys2Proof.Machine.execFlexrayConfigWrite src r value s
  | .macsecEnableWrite src p value => Sys2Proof.Machine.execMacsecEnableWrite src p value s
  | .timeSnapTake src => Sys2Proof.Machine.execTimeSnapTake src s
  | .egrHistSnapshot src value => Sys2Proof.Machine.execEgrHistSnapshot src value s
  | .pathSnapshot src value => Sys2Proof.Machine.execPathSnapshot src value s
  | .keySlotSnapshot src value => Sys2Proof.Machine.execKeySlotSnapshot src value s
  | .fltHistSnapshot src value => Sys2Proof.Machine.execFltHistSnapshot src value s
  | .fltAck src value => Sys2Proof.Machine.execFltAck src value s
  | .fltFirstClear src value => Sys2Proof.Machine.execFltFirstClear src value s
  | .supRestart src value => Sys2Proof.Machine.execSupRestart src value s
  | .cryLockTake src => Sys2Proof.Machine.execCryLockTake src s
  | .cryLockRelease src => Sys2Proof.Machine.execCryLockRelease src s
  | .transomLock src h mask => Sys2Proof.Machine.execTransomLock src h mask s
  | .transomUnlock src h => Sys2Proof.Machine.execTransomUnlock src h s
  | .transomRead h off cover rd busErr => Sys2Proof.Machine.execTransomRead h off cover rd busErr s
  | .transomWrite h off cover data busErr => Sys2Proof.Machine.execTransomWrite h off cover data busErr s
  | .transomAnswer p dst host tag cause data => Sys2Proof.Machine.execTransomAnswer p dst host tag cause data s
  | .transomRetransmit h => Sys2Proof.Machine.execTransomRetransmit h s
  | .transomReadTimeout h tag => Sys2Proof.Machine.execTransomReadTimeout h tag s
  | .transomFarRequest p dst r rd busErr => Sys2Proof.Machine.execTransomFarRequest p dst r rd busErr s
  | .transomLockRequest p dst m => Sys2Proof.Machine.execTransomLockRequest p dst m s
  | .transomLockBackoff h => Sys2Proof.Machine.execTransomLockBackoff h s
  | .transomLockExpiry bus => Sys2Proof.Machine.execTransomLockExpiry bus s
  | .sidebandPoll e value => Sys2Proof.Machine.execSidebandPoll e value s
  | .tblSearch c => Sys2Proof.Machine.execTblSearch c s
  | .tblNext c => Sys2Proof.Machine.execTblNext c s
  | .tblInsert c => Sys2Proof.Machine.execTblInsert c s
  | .tblDelete c => Sys2Proof.Machine.execTblDelete c s
  | .tblFlushPort c => Sys2Proof.Machine.execTblFlushPort c s
  | .tblRehash c => Sys2Proof.Machine.execTblRehash c s
  | .tblPin c => Sys2Proof.Machine.execTblPin c s
  | .rehashCheckDone q => Sys2Proof.Machine.execRehashCheckDone q s
  | .rehashCopyDone q => Sys2Proof.Machine.execRehashCopyDone q s
  | .rakeVisit q changed => Sys2Proof.Machine.execRakeVisit q changed s
  | .moveIntervalEnd q => Sys2Proof.Machine.execMoveIntervalEnd q s
  | .hedgeStage c => Sys2Proof.Machine.execHedgeStage c s
  | .hedgeFlip c => Sys2Proof.Machine.execHedgeFlip c s
  | .hedgeShadowCopyDone q => Sys2Proof.Machine.execHedgeShadowCopyDone q s
  | .hedgeRead c => Sys2Proof.Machine.execHedgeRead c s
  | .hedgePinholeList c => Sys2Proof.Machine.execHedgePinholeList c s
  | .hedgePinholeClose c => Sys2Proof.Machine.execHedgePinholeClose c s
  | .hedgePinholeCloseAll c => Sys2Proof.Machine.execHedgePinholeCloseAll c s
  | .hedgePinholeOpen c => Sys2Proof.Machine.execHedgePinholeOpen c s
  | .pinholeSweep hit => Sys2Proof.Machine.execPinholeSweep hit s
  | .timeStep c => Sys2Proof.Machine.execTimeStep c s
  | .timeRate c => Sys2Proof.Machine.execTimeRate c s
  | .timePulseArm c => Sys2Proof.Machine.execTimePulseArm c s
  | .timeEffectTick d => Sys2Proof.Machine.execTimeEffectTick d s
  | .timeAdjEnd d => Sys2Proof.Machine.execTimeAdjEnd d s
  | .pulseLeadingEdge pin => Sys2Proof.Machine.execPulseLeadingEdge pin s
  | .pulseTrailingEdge pin => Sys2Proof.Machine.execPulseTrailingEdge pin s
  | .timeInCapture pin falling late held => Sys2Proof.Machine.execTimeInCapture pin falling late held s
  | .timeCaptureEvent pin => Sys2Proof.Machine.execTimeCaptureEvent pin s
  | .shutterStage c => Sys2Proof.Machine.execShutterStage c s
  | .shutterFlip c => Sys2Proof.Machine.execShutterFlip c s
  | .shutterFlipTime p => Sys2Proof.Machine.execShutterFlipTime p s
  | .shutterShadowCopyDone p => Sys2Proof.Machine.execShutterShadowCopyDone p s
  | .shutterRead c => Sys2Proof.Machine.execShutterRead c s
  | .gateEntryChange p => Sys2Proof.Machine.execGateEntryChange p s
  | .preemptVerifyResult p ok => Sys2Proof.Machine.execPreemptVerifyResult p ok s
  | .pfcReceived p enable quanta => Sys2Proof.Machine.execPfcReceived p enable quanta s
  | .pfcPauseExpiry p c => Sys2Proof.Machine.execPfcPauseExpiry p c s
  | .pfcPauseStuck p c => Sys2Proof.Machine.execPfcPauseStuck p c s
  | .pfcRefresh p => Sys2Proof.Machine.execPfcRefresh p s
  | .energyEmpty => Sys2Proof.Machine.execEnergyEmpty s
  | .thermalSensorRead q0 q1 q2 q3 centre => Sys2Proof.Machine.execThermalSensorRead q0 q1 q2 q3 centre s
  | .laneWakeTimer p => Sys2Proof.Machine.execLaneWakeTimer p s
  | .laneReady p => Sys2Proof.Machine.execLaneReady p s
  | .histogramSample => Sys2Proof.Machine.execHistogramSample s
  | .admitRequest c => Sys2Proof.Machine.execAdmitRequest c s
  | .admitCommit c => Sys2Proof.Machine.execAdmitCommit c s
  | .admitWithdraw c => Sys2Proof.Machine.execAdmitWithdraw c s
  | .admitQuery c => Sys2Proof.Machine.execAdmitQuery c s
  | .admitImage c image => Sys2Proof.Machine.execAdmitImage c image s
  | .admitMessage p m => Sys2Proof.Machine.execAdmitMessage p m s
  | .admitTimeout h => Sys2Proof.Machine.execAdmitTimeout h s
  | .rsvHoldExpiry h => Sys2Proof.Machine.execRsvHoldExpiry h s
  | .withdrawDrained h gone => Sys2Proof.Machine.execWithdrawDrained h gone s
  | .pathSet c => Sys2Proof.Machine.execPathSet c s
  | .pairHandover c => Sys2Proof.Machine.execPairHandover c s
  | .handoverFence => Sys2Proof.Machine.execHandoverFence s
  | .heartbeatSend => Sys2Proof.Machine.execHeartbeatSend s
  | .heartbeatReceived hb => Sys2Proof.Machine.execHeartbeatReceived hb s
  | .peerLost => Sys2Proof.Machine.execPeerLost s
  | .fenceWaitExpiry => Sys2Proof.Machine.execFenceWaitExpiry s
  | .fenceLineLow own held => Sys2Proof.Machine.execFenceLineLow own held s
  | .fenceLineHigh own held => Sys2Proof.Machine.execFenceLineHigh own held s
  | .checkpointSend => Sys2Proof.Machine.execCheckpointSend s
  | .checkpointReceived ck bad => Sys2Proof.Machine.execCheckpointReceived ck bad s
  | .takeoverRestoreDone => Sys2Proof.Machine.execTakeoverRestoreDone s
  | .busFenceElapsed => Sys2Proof.Machine.execBusFenceElapsed s
  | .gwStage c => Sys2Proof.Machine.execGwStage c s
  | .gwFlip c => Sys2Proof.Machine.execGwFlip c s
  | .gwShadowCopyDone => Sys2Proof.Machine.execGwShadowCopyDone s
  | .gwRead c => Sys2Proof.Machine.execGwRead c s
  | .gwImageRead c => Sys2Proof.Machine.execGwImageRead c s
  | .gwImageWrite c => Sys2Proof.Machine.execGwImageWrite c s
  | .gwImageSend c => Sys2Proof.Machine.execGwImageSend c s
  | .gwBusSelectTable c => Sys2Proof.Machine.execGwBusSelectTable c s
  | .gwBusRecover c => Sys2Proof.Machine.execGwBusRecover c s
  | .gwBusSetMode c => Sys2Proof.Machine.execGwBusSetMode c s
  | .gwBusPocCommand c => Sys2Proof.Machine.execGwBusPocCommand c s
  | .signalPeriodTrigger ix => Sys2Proof.Machine.execSignalPeriodTrigger ix s
  | .signalDeferredSend ix => Sys2Proof.Machine.execSignalDeferredSend ix s
  | .signalTimeoutTick => Sys2Proof.Machine.execSignalTimeoutTick s
  | .canTxAttemptEnd p r w => Sys2Proof.Machine.execCanTxAttemptEnd p r w s
  | .busOffDelayExpiry p => Sys2Proof.Machine.execBusOffDelayExpiry p s
  | .busOffRecovered p => Sys2Proof.Machine.execBusOffRecovered p s
  | .linSlotEnd p r w => Sys2Proof.Machine.execLinSlotEnd p r w s
  | .flexraySlot slot cycle w => Sys2Proof.Machine.execFlexraySlot slot cycle w s
  | .keyLoadBlob c flash => Sys2Proof.Machine.execKeyLoadBlob c flash s
  | .keyReplace c flash => Sys2Proof.Machine.execKeyReplace c flash s
  | .keyVerifyCommit c => Sys2Proof.Machine.execKeyVerifyCommit c s
  | .keyCommitRecordWritten n ok => Sys2Proof.Machine.execKeyCommitRecordWritten n ok s
  | .keyDeriveKdf c flash => Sys2Proof.Machine.execKeyDeriveKdf c flash s
  | .keyDeriveRandom c flash => Sys2Proof.Machine.execKeyDeriveRandom c flash s
  | .keyExport c => Sys2Proof.Machine.execKeyExport c s
  | .cryptoGcmEncrypt c data => Sys2Proof.Machine.execCryptoGcmEncrypt c data s
  | .cryptoGcmDecrypt c data => Sys2Proof.Machine.execCryptoGcmDecrypt c data s
  | .cryptoCmacGenerate c data => Sys2Proof.Machine.execCryptoCmacGenerate c data s
  | .cryptoCmacVerify c data => Sys2Proof.Machine.execCryptoCmacVerify c data s
  | .cryptoSha384 c data => Sys2Proof.Machine.execCryptoSha384 c data s
  | .cryptoEcdsaVerify c data => Sys2Proof.Machine.execCryptoEcdsaVerify c data s
  | .cryptoCmacFreshGenerate c data => Sys2Proof.Machine.execCryptoCmacFreshGenerate c data s
  | .cryptoCmacFreshVerify c data => Sys2Proof.Machine.execCryptoCmacFreshVerify c data s
  | .macsecSaInstall c => Sys2Proof.Machine.execMacsecSaInstall c s
  | .macsecSaRemove c => Sys2Proof.Machine.execMacsecSaRemove c s
  | .macsecSaTxCommit c => Sys2Proof.Machine.execMacsecSaTxCommit c s
  | .macsecSaRead c => Sys2Proof.Machine.execMacsecSaRead c s
  | .trngHealthFail kind => Sys2Proof.Machine.execTrngHealthFail kind s
  | .cryLockIdleExpiry => Sys2Proof.Machine.execCryLockIdleExpiry s
  | .fabDigestQuery c => Sys2Proof.Machine.execFabDigestQuery c s
  | .fabReset c => Sys2Proof.Machine.execFabReset c s
  | .transomClearErr c => Sys2Proof.Machine.execTransomClearErr c s
  | .helloSend => Sys2Proof.Machine.execHelloSend s
  | .helloReceived p h => Sys2Proof.Machine.execHelloReceived p h s
  | .helloMissExpiry p => Sys2Proof.Machine.execHelloMissExpiry p s
  | .fabricLinkDown p => Sys2Proof.Machine.execFabricLinkDown p s
  | .linkStateSend => Sys2Proof.Machine.execLinkStateSend s
  | .linkStateReceived p l => Sys2Proof.Machine.execLinkStateReceived p l s
  | .gossipSend => Sys2Proof.Machine.execGossipSend s
  | .gossipReceived p g => Sys2Proof.Machine.execGossipReceived p g s
  | .coordSend => Sys2Proof.Machine.execCoordSend s
  | .coordReceived p m => Sys2Proof.Machine.execCoordReceived p m s
  | .coordTimeout => Sys2Proof.Machine.execCoordTimeout s
  | .sizeModeSwitch => Sys2Proof.Machine.execSizeModeSwitch s
  | .pathsMessage p dst m => Sys2Proof.Machine.execPathsMessage p dst m s
  | .withdrawReceived p sender drainLimit => Sys2Proof.Machine.execWithdrawReceived p sender drainLimit s
  | .digestMessage p src dst m => Sys2Proof.Machine.execDigestMessage p src dst m s
  | .resetMessage p src dst m => Sys2Proof.Machine.execResetMessage p src dst m s
  | .imgBegin c => Sys2Proof.Machine.execImgBegin c s
  | .imgBlock c block => Sys2Proof.Machine.execImgBlock c block s
  | .imgEnd c flashErr => Sys2Proof.Machine.execImgEnd c flashErr s
  | .imgActivate c => Sys2Proof.Machine.execImgActivate c s
  | .activationWatchdog => Sys2Proof.Machine.execActivationWatchdog s
  | .firmwareFallback version => Sys2Proof.Machine.execFirmwareFallback version s
  | .trialConfirm => Sys2Proof.Machine.execTrialConfirm s
  | .supWindowClose a b c priv => Sys2Proof.Machine.execSupWindowClose a b c priv s
  | .supLateCore core => Sys2Proof.Machine.execSupLateCore core s
  | .supResyncDone => Sys2Proof.Machine.execSupResyncDone s
  | .supRestartDone fail badA badB => Sys2Proof.Machine.execSupRestartDone fail badA badB s
  | .graceExpiry g ok => Sys2Proof.Machine.execGraceExpiry g ok s
  | .portWakeDetect p alt held => Sys2Proof.Machine.execPortWakeDetect p alt held s
  | .wakeInDetect n level held => Sys2Proof.Machine.execWakeInDetect n level held s
  | .portStateReached p => Sys2Proof.Machine.execPortStateReached p s
  | .portStateForced p => Sys2Proof.Machine.execPortStateForced p s
  | .wakeHoldTick => Sys2Proof.Machine.execWakeHoldTick s
  | .netSleepVote c => Sys2Proof.Machine.execNetSleepVote c s
  | .sleepVoteSend => Sys2Proof.Machine.execSleepVoteSend s
  | .sleepMessageReceived p m => Sys2Proof.Machine.execSleepMessageReceived p m s
  | .sleepSettleExpiry => Sys2Proof.Machine.execSleepSettleExpiry s
  | .sleepCommitTime => Sys2Proof.Machine.execSleepCommitTime s
  | .sleepStateRetry => Sys2Proof.Machine.execSleepStateRetry s
  | .idleEntryTimer => Sys2Proof.Machine.execIdleEntryTimer s
  | .pwrRequestState c => Sys2Proof.Machine.execPwrRequestState c s
  | .stateEntryCommit => Sys2Proof.Machine.execStateEntryCommit s
  | .exitTrigger cause => Sys2Proof.Machine.execExitTrigger cause s
  | .islandRampDone => Sys2Proof.Machine.execIslandRampDone s
  | .stateExitDone straps => Sys2Proof.Machine.execStateExitDone straps s
  | .railWarningEnter r mv held => Sys2Proof.Machine.execRailWarningEnter r mv held s
  | .railWarningExit r mv => Sys2Proof.Machine.execRailWarningExit r mv s
  | .railResetLevel r mv => Sys2Proof.Machine.execRailResetLevel r mv s
  | .clockLoss k => Sys2Proof.Machine.execClockLoss k s
  | .powerOnReset torn straps rails test held => Sys2Proof.Machine.execPowerOnReset torn straps rails test held s
  | .poresetAssert held => Sys2Proof.Machine.execPoresetAssert held s
  | .wresetNAssert held => Sys2Proof.Machine.execWresetNAssert held s
  | .wresetNRelease held => Sys2Proof.Machine.execWresetNRelease held s
  | .warmReset c => Sys2Proof.Machine.execWarmReset c s
  | .drainEnd => Sys2Proof.Machine.execDrainEnd s
  | .drainLimitExpiry => Sys2Proof.Machine.execDrainLimitExpiry s
  | .fnQuiesceFlip c => Sys2Proof.Machine.execFnQuiesceFlip c s
  | .fnQuiesceReset c testsPass => Sys2Proof.Machine.execFnQuiesceReset c testsPass s
  | .carvingFlipDrained => Sys2Proof.Machine.execCarvingFlipDrained s
  | .fnResume c => Sys2Proof.Machine.execFnResume c s
  | .cfgStore c image => Sys2Proof.Machine.execCfgStore c image s
  | .jtagInstructionLoad code => Sys2Proof.Machine.execJtagInstructionLoad code s
  | .dbgChallengeRead => Sys2Proof.Machine.execDbgChallengeRead s
  | .dbgResponseLoad response => Sys2Proof.Machine.execDbgResponseLoad response s
  | .dbgVerifyDone => Sys2Proof.Machine.execDbgVerifyDone s
  | .dbgChallengeExpiry => Sys2Proof.Machine.execDbgChallengeExpiry s
  | .ethernetLinkUp p rate eee => Sys2Proof.Machine.execEthernetLinkUp p rate eee s
  | .ethernetLinkDown p => Sys2Proof.Machine.execEthernetLinkDown p s
  | .flexrayPocStateChange poc => Sys2Proof.Machine.execFlexrayPocStateChange poc s
  | .linHeaderReceived p id baud => Sys2Proof.Machine.execLinHeaderReceived p id baud s
  | .tc10SleepRequest p => Sys2Proof.Machine.execTc10SleepRequest p s
  | .gptpTimerExpiry d kind send lock => Sys2Proof.Machine.execGptpTimerExpiry d kind send lock s
  | .quotaDiscardIntervalEnd h => Sys2Proof.Machine.execQuotaDiscardIntervalEnd h s
  | .sidebandNotifyReceived p dst src entry value => Sys2Proof.Machine.execSidebandNotifyReceived p dst src entry value s
  | .fabRemoteCommandTimeout => Sys2Proof.Machine.execFabRemoteCommandTimeout s
  | .epochRecordWritten => Sys2Proof.Machine.execEpochRecordWritten s
  | .cfgStoreDone flashErr => Sys2Proof.Machine.execCfgStoreDone flashErr s
  | .sealedHandoverDone => Sys2Proof.Machine.execSealedHandoverDone s
  | .activationPauseEnd => Sys2Proof.Machine.execActivationPauseEnd s
  | .imageSlotEraseDone slot => Sys2Proof.Machine.execImageSlotEraseDone slot s
  | .shaperEligible p => Sys2Proof.Machine.execShaperEligible p s
  | .tapReset => Sys2Proof.Machine.execTapReset s

end Sys2Proof.Machine
end

