-- ==== Sys2Proof/Machine/Step.lean ====
section
/-! DEFINITION. One step: the command at the front of the queue runs; on an empty queue one tick of 2 ns passes (log entries 1 and 2). -/

namespace Sys2Proof.Machine

/-- One step of the block (R226 for the tick). (DESIGN CHOICE, log entry 1, DESIGN CHOICE, log entry 112) -/
def step (s : State) : Host.Outcome State Fault Refusal :=
  match s.pending with
  | [] => .next (tick s)
  | i :: rest => exec i { s with pending := rest }

/-- `s` with the command that a word spells in front of its queue; no row of the table gives bits, so no word spells one (log entry 3). -/
def State.withFetchWord (s : State) (nbits w : Nat) : State :=
  match decodeTableWord nbits w with
  | some i => { s with pending := i :: s.pending }
  | none => s

end Sys2Proof.Machine
end

