-- ==== Sys2Proof/Safety.lean ====
section
/-! DEFINITION. The words in which claims about this block are made: the parts of its state, what a command may change, when a command of a sender may
run, and the invariant of its tables. -/

namespace Sys2Proof.Machine

/-- The parts of the state beside the queue. -/
inductive StatePart where
  | regs | ctrs | free | out | bus | hostA | hostB | flt | time | tabs | pairMode | hedge | egr | links | brace | mem | streams | pnHold | gw | dbg | wake | keys | fab | pair | flash | admJob | pwr | sup | rst | fn | trn
deriving DecidableEq, Repr

/-- Do two states agree in a part? -/
def StatePart.Same (s t : State) : StatePart → Prop
  | .regs => t.regs = s.regs
  | .ctrs => t.ctrs = s.ctrs
  | .free => t.free = s.free
  | .out => t.out = s.out
  | .bus => t.bus = s.bus
  | .hostA => t.hostA = s.hostA
  | .hostB => t.hostB = s.hostB
  | .flt => t.flt = s.flt
  | .time => t.time = s.time
  | .tabs => t.tabs = s.tabs
  | .pairMode => t.pairMode = s.pairMode
  | .hedge => t.hedge = s.hedge
  | .egr => t.egr = s.egr
  | .links => t.links = s.links
  | .brace => t.brace = s.brace
  | .mem => t.mem = s.mem
  | .streams => t.streams = s.streams
  | .pnHold => t.pnHold = s.pnHold
  | .gw => t.gw = s.gw
  | .dbg => t.dbg = s.dbg
  | .wake => t.wake = s.wake
  | .keys => t.keys = s.keys
  | .fab => t.fab = s.fab
  | .pair => t.pair = s.pair
  | .flash => t.flash = s.flash
  | .admJob => t.admJob = s.admJob
  | .pwr => t.pwr = s.pwr
  | .sup => t.sup = s.sup
  | .rst => t.rst = s.rst
  | .fn => t.fn = s.fn
  | .trn => t.trn = s.trn

/-- The queue and every part that is not listed are as before. -/
def OnlyChanges (l : List StatePart) (s t : State) : Prop := t.pending = s.pending ∧ ∀ p : StatePart, p ∉ l → StatePart.Same s t p

/-- The parts that a command may change. -/
def mayChange : Instr → List StatePart
  | .ethernetFrameReceived _ _ _ _ => [.regs, .ctrs, .hostA, .hostB, .flt, .mem, .gw, .wake, .keys, .pwr]
  | .legacyPduReceived _ _ _ _ => [.regs, .ctrs, .mem, .gw, .wake, .pwr]
  | .pipelineFrame _ _ => [.regs, .ctrs, .out, .hostA, .hostB, .flt, .tabs, .hedge, .egr, .mem, .streams, .gw, .pair]
  | .learnRequest _ => [.regs, .ctrs, .hostA, .hostB, .flt, .tabs]
  | .recoveryCopy => [.regs, .ctrs, .out, .hostA, .hostB, .flt, .egr, .mem, .streams]
  | .skewTick => [.regs, .ctrs, .out, .hostA, .hostB, .flt, .egr, .mem, .streams]
  | .batchAdd => [.regs, .ctrs, .out, .hostA, .hostB, .flt, .egr, .mem, .streams, .gw]
  | .batchTick => [.regs, .ctrs, .out, .hostA, .hostB, .flt, .egr, .mem, .streams, .gw]
  | .egressSelect _ _ => [.regs, .ctrs, .free, .out, .hostA, .hostB, .flt, .egr, .mem, .streams, .pnHold, .gw, .keys, .pair]
  | .frameDepart _ => [.regs, .ctrs, .out, .hostA, .hostB, .flt, .egr, .mem, .streams]
  | .svFrameTake _ _ => [.regs, .ctrs, .free, .out, .hostA, .hostB, .flt, .time, .egr, .mem, .streams, .pnHold, .gw, .keys, .pair]
  | .hostRxDeliver _ _ => [.regs, .ctrs, .out, .hostA, .hostB, .flt, .egr, .mem, .streams]
  | .eventWrite _ _ => [.regs, .ctrs, .out, .hostA, .hostB, .flt]
  | .msixTimeFire _ _ => [.regs, .out, .hostA, .hostB]
  | .doorbellPollTimer _ => [.out, .hostA, .hostB]
  | .doorbellSlotRead _ _ _ => [.regs, .ctrs, .out, .hostA, .hostB, .flt]
  | .doorbellReread _ _ => [.out, .hostA, .hostB]
  | .txqDescriptor _ _ _ _ => [.ctrs, .hostA, .hostB, .mem, .wake, .pwr]
  | .cmdqFetch _ _ _ _ => [.out, .bus, .hostA, .hostB, .pwr]
  | .dmaError _ _ _ _ => [.regs, .ctrs, .hostA, .hostB, .flt]
  | .hostWakeHint _ _ => [.out, .hostA, .hostB]
  | .ringEnable _ _ _ _ => [.regs, .ctrs, .hostA, .hostB, .flt]
  | .ringStop _ _ _ _ => [.regs, .ctrs, .hostA, .hostB, .flt]
  | .ringStoppingDone _ _ _ => [.hostA, .hostB]
  | .busMasterDisable _ => [.hostA, .hostB]
  | .hostFlr _ => [.regs, .ctrs, .free, .out, .hostA, .hostB, .flt, .egr, .mem, .streams, .keys, .fab, .fn, .trn]
  | .pcieLinkDown _ => [.regs, .ctrs, .free, .out, .hostA, .hostB, .flt, .egr, .mem, .streams, .keys, .fab, .fn, .trn]
  | .pcieLinkUp _ _ _ _ => [.regs, .ctrs, .out, .hostA, .hostB, .flt, .rst]
  | .spiWriteFrame _ => [.regs, .ctrs, .free, .out, .bus, .hostA, .hostB, .flt, .time, .tabs, .egr, .mem, .streams, .gw, .wake, .keys, .fab, .pair, .pwr, .sup, .rst, .trn]
  | .spiReadFrame _ => [.regs, .out, .bus]
  | .spiStatusFrame => [.out]
  | .spiFrameError _ => [.regs]
  | .registerWrite _ _ _ _ => [.regs, .ctrs, .free, .out, .bus, .hostA, .hostB, .flt, .time, .tabs, .egr, .mem, .streams, .gw, .wake, .keys, .fab, .pair, .pwr, .sup, .rst, .trn]
  | .unmappedRead _ _ _ _ => [.regs, .out, .bus, .sup]
  | .counterLowRead _ _ _ _ => [.regs, .out, .bus, .sup]
  | .timeInLastNsRead _ _ => [.out, .bus]
  | .fwdEnSet _ => [.regs, .bus]
  | .hostFailsafeWrst => [.regs, .ctrs, .out, .bus, .hostA, .hostB, .flt, .tabs, .egr, .mem, .streams, .gw, .wake, .keys, .fab, .pwr, .sup, .rst]
  | .hostFailsafeFence => [.regs, .ctrs, .out, .bus, .hostA, .hostB, .flt, .egr, .mem, .streams, .gw, .pair]
  | .bufBdSnapshot _ _ => [.regs, .free, .bus]
  | .bufDbgRelease _ _ => [.regs, .ctrs, .out, .bus, .hostA, .hostB, .flt, .egr, .mem]
  | .bufSillWrite _ _ _ => [.regs, .ctrs, .out, .bus, .hostA, .hostB, .flt, .egr]
  | .maxLenWrite _ _ _ => [.regs, .ctrs, .out, .bus, .hostA, .hostB, .flt, .egr, .mem, .streams]
  | .domainNumberWrite _ _ _ => [.regs, .bus, .time]
  | .canBitTimingWrite _ _ _ _ => [.regs, .bus]
  | .flexrayConfigWrite _ _ _ => [.regs, .bus]
  | .macsecEnableWrite _ _ _ => [.regs, .ctrs, .bus, .mem, .keys]
  | .timeSnapTake _ => [.regs, .bus]
  | .egrHistSnapshot _ _ => [.regs, .bus, .egr]
  | .pathSnapshot _ _ => [.regs, .bus]
  | .keySlotSnapshot _ _ => [.regs, .bus]
  | .fltHistSnapshot _ _ => [.regs, .bus]
  | .fltAck _ _ => [.bus, .flt]
  | .fltFirstClear _ _ => [.bus, .flt]
  | .supRestart _ _ => [.regs, .out, .bus, .hostA, .hostB, .keys, .sup, .rst]
  | .cryLockTake _ => [.bus, .keys]
  | .cryLockRelease _ => [.bus, .keys]
  | .transomLock _ _ _ => [.regs, .ctrs, .free, .out, .bus, .fab, .trn]
  | .transomUnlock _ _ => [.regs, .ctrs, .free, .out, .bus, .fab, .trn]
  | .transomRead _ _ _ _ _ => [.regs, .ctrs, .free, .out, .bus, .hostA, .hostB, .flt, .time, .tabs, .egr, .mem, .streams, .gw, .wake, .keys, .fab, .pair, .pwr, .sup, .rst, .trn]
  | .transomWrite _ _ _ _ _ => [.regs, .ctrs, .free, .out, .bus, .hostA, .hostB, .flt, .time, .tabs, .egr, .mem, .streams, .gw, .wake, .keys, .fab, .pair, .pwr, .sup, .rst, .trn]
  | .transomAnswer _ _ _ _ _ _ => [.regs, .ctrs, .free, .out, .hostA, .hostB, .flt, .fab, .trn]
  | .transomRetransmit _ => [.regs, .ctrs, .free, .out, .hostA, .hostB, .flt, .fab, .trn]
  | .transomReadTimeout _ _ => [.regs, .ctrs, .free, .out, .hostA, .hostB, .flt, .fab, .trn]
  | .transomFarRequest _ _ _ _ _ => [.regs, .ctrs, .free, .out, .bus, .hostA, .hostB, .flt, .time, .tabs, .egr, .mem, .streams, .gw, .wake, .keys, .fab, .pair, .pwr, .sup, .rst, .trn]
  | .transomLockRequest _ _ _ => [.regs, .ctrs, .free, .out, .hostA, .hostB, .flt, .fab, .trn]
  | .transomLockBackoff _ => [.regs, .ctrs, .free, .out, .fab, .trn]
  | .transomLockExpiry _ => [.regs, .ctrs, .free, .out, .fab, .trn]
  | .sidebandPoll _ _ => [.regs, .ctrs, .out, .hostA, .hostB, .flt, .fab, .trn]
  | .tblSearch _ => [.regs, .ctrs, .out, .hostA, .hostB, .flt, .tabs, .pwr]
  | .tblNext _ => [.regs, .ctrs, .out, .hostA, .hostB, .flt, .tabs, .pwr]
  | .tblInsert _ => [.regs, .ctrs, .out, .hostA, .hostB, .flt, .tabs, .pwr]
  | .tblDelete _ => [.regs, .ctrs, .out, .hostA, .hostB, .flt, .tabs, .pwr]
  | .tblFlushPort _ => [.regs, .ctrs, .out, .hostA, .hostB, .flt, .tabs, .pwr]
  | .tblRehash _ => [.free, .out, .hostA, .hostB, .tabs, .pwr]
  | .tblPin _ => [.regs, .ctrs, .out, .hostA, .hostB, .flt, .tabs, .pwr]
  | .rehashCheckDone _ => [.regs, .ctrs, .hostA, .hostB, .flt, .tabs, .fn]
  | .rehashCopyDone _ => [.regs, .ctrs, .hostA, .hostB, .flt, .tabs, .fn]
  | .rakeVisit _ _ => [.ctrs, .tabs]
  | .moveIntervalEnd _ => [.tabs]
  | .hedgeStage _ => [.regs, .out, .hostA, .hostB, .hedge, .pwr]
  | .hedgeFlip _ => [.regs, .out, .hostA, .hostB, .flt, .hedge, .pwr, .fn]
  | .hedgeShadowCopyDone _ => [.regs, .hedge]
  | .hedgeRead _ => [.regs, .out, .hostA, .hostB, .hedge, .pwr]
  | .hedgePinholeList _ => [.regs, .ctrs, .out, .hostA, .hostB, .flt, .hedge, .pwr]
  | .hedgePinholeClose _ => [.regs, .ctrs, .out, .hostA, .hostB, .flt, .hedge, .pwr]
  | .hedgePinholeCloseAll _ => [.regs, .ctrs, .out, .hostA, .hostB, .flt, .hedge, .pwr]
  | .hedgePinholeOpen _ => [.regs, .ctrs, .out, .hostA, .hostB, .flt, .hedge, .pwr]
  | .pinholeSweep _ => [.ctrs, .hedge]
  | .timeStep _ => [.out, .hostA, .hostB, .time, .pwr]
  | .timeRate _ => [.out, .hostA, .hostB, .time, .pwr]
  | .timePulseArm _ => [.out, .hostA, .hostB, .time, .pwr]
  | .timeEffectTick _ => [.regs, .ctrs, .out, .hostA, .hostB, .flt, .time]
  | .timeAdjEnd _ => [.regs, .ctrs, .hostA, .hostB, .flt, .time]
  | .pulseLeadingEdge _ => [.out, .time]
  | .pulseTrailingEdge _ => [.out, .time]
  | .timeInCapture _ _ _ _ => [.regs, .time]
  | .timeCaptureEvent _ => [.regs, .ctrs, .hostA, .hostB, .flt, .time]
  | .shutterStage _ => [.regs, .free, .out, .hostA, .hostB, .egr, .pwr]
  | .shutterFlip _ => [.regs, .free, .out, .hostA, .hostB, .egr, .pwr]
  | .shutterFlipTime _ => [.regs, .ctrs, .out, .hostA, .hostB, .flt, .egr, .fn]
  | .shutterShadowCopyDone _ => [.regs, .free, .out, .hostA, .hostB, .egr]
  | .shutterRead _ => [.regs, .free, .out, .hostA, .hostB, .egr, .pwr]
  | .gateEntryChange _ => [.ctrs, .egr]
  | .preemptVerifyResult _ _ => [.regs, .ctrs, .hostA, .hostB, .flt, .egr]
  | .pfcReceived _ _ _ => [.ctrs, .egr]
  | .pfcPauseExpiry _ _ => [.egr]
  | .pfcPauseStuck _ _ => [.regs, .ctrs, .out, .hostA, .hostB, .flt, .egr, .mem, .streams]
  | .pfcRefresh _ => [.ctrs, .out, .egr]
  | .energyEmpty => [.regs, .ctrs, .hostA, .hostB, .flt, .egr]
  | .thermalSensorRead _ _ _ _ _ => [.regs, .ctrs, .out, .hostA, .hostB, .flt, .egr, .mem, .streams, .gw, .pair, .pwr]
  | .laneWakeTimer _ => [.ctrs, .egr]
  | .laneReady _ => [.ctrs, .egr]
  | .histogramSample => [.egr]
  | .admitRequest _ => [.regs, .ctrs, .free, .out, .hostA, .hostB, .flt, .tabs, .egr, .mem, .streams, .gw, .fab, .pwr]
  | .admitCommit _ => [.regs, .ctrs, .out, .hostA, .hostB, .flt, .tabs, .egr, .streams, .fab, .flash, .pwr]
  | .admitWithdraw _ => [.regs, .ctrs, .out, .hostA, .hostB, .flt, .tabs, .egr, .mem, .streams, .gw, .fab, .flash, .pwr]
  | .admitQuery _ => [.out, .hostA, .hostB, .pwr]
  | .admitImage _ _ => [.regs, .ctrs, .free, .out, .hostA, .hostB, .flt, .tabs, .egr, .mem, .streams, .gw, .fab, .flash, .admJob, .pwr]
  | .admitMessage _ _ => [.regs, .ctrs, .free, .out, .hostA, .hostB, .flt, .tabs, .egr, .mem, .streams, .gw, .fab, .flash, .admJob]
  | .admitTimeout _ => [.regs, .ctrs, .free, .out, .hostA, .hostB, .flt, .tabs, .egr, .mem, .streams, .gw, .fab, .flash, .admJob]
  | .rsvHoldExpiry _ => [.regs, .ctrs, .free, .out, .hostA, .hostB, .flt, .tabs, .egr, .mem, .streams, .gw, .fab, .flash, .admJob]
  | .withdrawDrained _ _ => [.regs, .ctrs, .out, .hostA, .hostB, .flt, .tabs, .egr, .mem, .streams, .gw, .fab, .flash]
  | .pathSet _ => [.regs, .ctrs, .free, .out, .hostA, .hostB, .flt, .egr, .streams, .fab, .pwr]
  | .pairHandover _ => [.regs, .ctrs, .free, .out, .hostA, .hostB, .pair, .pwr]
  | .handoverFence => [.regs, .ctrs, .out, .hostA, .hostB, .flt, .egr, .mem, .streams, .gw, .wake, .pair]
  | .heartbeatSend => [.out, .pair]
  | .heartbeatReceived _ => [.regs, .ctrs, .out, .hostA, .hostB, .flt, .tabs, .egr, .mem, .streams, .gw, .wake, .fab, .pair, .pwr]
  | .peerLost => [.regs, .ctrs, .out, .hostA, .hostB, .flt, .tabs, .egr, .mem, .streams, .gw, .wake, .fab, .pair, .pwr]
  | .fenceWaitExpiry => [.regs, .ctrs, .out, .hostA, .hostB, .flt, .tabs, .egr, .mem, .streams, .gw, .wake, .fab, .pair, .pwr]
  | .fenceLineLow _ _ => [.regs, .ctrs, .out, .hostA, .hostB, .flt, .tabs, .egr, .mem, .streams, .gw, .wake, .fab, .pair, .pwr]
  | .fenceLineHigh _ _ => [.regs, .out, .pair]
  | .checkpointSend => [.regs, .ctrs, .free, .out, .pair]
  | .checkpointReceived _ _ => [.regs, .ctrs, .free, .out, .bus, .hostA, .hostB, .flt, .time, .tabs, .hedge, .egr, .links, .mem, .streams, .pnHold, .gw, .dbg, .wake, .keys, .fab, .pair, .admJob, .pwr, .fn, .trn]
  | .takeoverRestoreDone => [.regs, .ctrs, .out, .hostA, .hostB, .flt, .time, .tabs, .egr, .mem, .streams, .gw, .fab, .pair, .flash]
  | .busFenceElapsed => [.regs, .ctrs, .hostA, .hostB, .flt, .gw, .pair]
  | .gwStage _ => [.out, .hostA, .hostB, .gw, .pwr]
  | .gwFlip _ => [.regs, .ctrs, .out, .hostA, .hostB, .flt, .egr, .mem, .streams, .gw, .pwr, .fn]
  | .gwShadowCopyDone => [.gw]
  | .gwRead _ => [.out, .hostA, .hostB, .gw, .pwr]
  | .gwImageRead _ => [.ctrs, .out, .hostA, .hostB, .mem, .gw, .wake, .pwr]
  | .gwImageWrite _ => [.ctrs, .out, .hostA, .hostB, .mem, .gw, .wake, .pwr]
  | .gwImageSend _ => [.ctrs, .out, .hostA, .hostB, .mem, .gw, .wake, .pwr]
  | .gwBusSelectTable _ => [.regs, .ctrs, .out, .hostA, .hostB, .flt, .egr, .mem, .streams, .gw, .pwr]
  | .gwBusRecover _ => [.regs, .ctrs, .out, .hostA, .hostB, .flt, .egr, .mem, .streams, .gw, .pwr]
  | .gwBusSetMode _ => [.regs, .ctrs, .out, .hostA, .hostB, .flt, .egr, .mem, .streams, .gw, .pwr]
  | .gwBusPocCommand _ => [.regs, .ctrs, .out, .hostA, .hostB, .flt, .egr, .mem, .streams, .gw, .pwr]
  | .signalPeriodTrigger _ => [.ctrs, .mem, .gw, .wake]
  | .signalDeferredSend _ => [.ctrs, .mem, .gw, .wake]
  | .signalTimeoutTick => [.regs, .ctrs, .hostA, .hostB, .flt, .mem, .gw, .wake]
  | .canTxAttemptEnd _ _ _ => [.regs, .ctrs, .out, .hostA, .hostB, .flt, .egr, .mem, .streams, .gw]
  | .busOffDelayExpiry _ => [.regs, .gw]
  | .busOffRecovered _ => [.regs, .ctrs, .hostA, .hostB, .flt]
  | .linSlotEnd _ _ _ => [.regs, .ctrs, .out, .hostA, .hostB, .flt, .egr, .mem, .streams, .gw]
  | .flexraySlot _ _ _ => [.regs, .ctrs, .out, .hostA, .hostB, .flt, .egr, .mem, .streams, .gw]
  | .keyLoadBlob _ _ => [.regs, .ctrs, .out, .hostA, .hostB, .flt, .keys, .pwr]
  | .keyReplace _ _ => [.regs, .ctrs, .out, .hostA, .hostB, .flt, .keys, .pwr]
  | .keyVerifyCommit _ => [.out, .hostA, .hostB, .keys, .pwr]
  | .keyCommitRecordWritten _ _ => [.regs, .ctrs, .out, .hostA, .hostB, .flt, .keys]
  | .keyDeriveKdf _ _ => [.regs, .ctrs, .free, .out, .hostA, .hostB, .flt, .keys, .pwr]
  | .keyDeriveRandom _ _ => [.regs, .ctrs, .free, .out, .hostA, .hostB, .flt, .keys, .pwr]
  | .keyExport _ => [.free, .out, .hostA, .hostB, .pwr]
  | .cryptoGcmEncrypt _ _ => [.regs, .ctrs, .free, .out, .hostA, .hostB, .flt, .keys, .pwr]
  | .cryptoGcmDecrypt _ _ => [.regs, .ctrs, .free, .out, .hostA, .hostB, .flt, .keys, .pwr]
  | .cryptoCmacGenerate _ _ => [.regs, .ctrs, .free, .out, .hostA, .hostB, .flt, .keys, .pwr]
  | .cryptoCmacVerify _ _ => [.regs, .ctrs, .free, .out, .hostA, .hostB, .flt, .keys, .pwr]
  | .cryptoSha384 _ _ => [.regs, .ctrs, .free, .out, .hostA, .hostB, .flt, .keys, .pwr]
  | .cryptoEcdsaVerify _ _ => [.regs, .ctrs, .free, .out, .hostA, .hostB, .flt, .keys, .pwr]
  | .cryptoCmacFreshGenerate _ _ => [.regs, .ctrs, .free, .out, .hostA, .hostB, .flt, .keys, .pwr]
  | .cryptoCmacFreshVerify _ _ => [.regs, .ctrs, .free, .out, .hostA, .hostB, .flt, .keys, .pwr]
  | .macsecSaInstall _ => [.regs, .ctrs, .out, .hostA, .hostB, .flt, .mem, .pnHold, .keys, .pwr]
  | .macsecSaRemove _ => [.regs, .ctrs, .out, .hostA, .hostB, .flt, .mem, .pnHold, .keys, .pwr]
  | .macsecSaTxCommit _ => [.regs, .ctrs, .out, .hostA, .hostB, .flt, .mem, .pnHold, .keys, .pwr]
  | .macsecSaRead _ => [.regs, .ctrs, .out, .hostA, .hostB, .flt, .mem, .pnHold, .keys, .pwr]
  | .trngHealthFail _ => [.regs, .ctrs, .hostA, .hostB, .flt]
  | .cryLockIdleExpiry => [.regs, .ctrs, .hostA, .hostB, .flt, .keys]
  | .fabDigestQuery _ => [.ctrs, .out, .hostA, .hostB, .fab, .pwr]
  | .fabReset _ => [.regs, .ctrs, .out, .hostA, .hostB, .flt, .tabs, .egr, .mem, .streams, .gw, .wake, .keys, .fab, .pwr, .sup, .rst]
  | .transomClearErr _ => [.regs, .out, .hostA, .hostB, .flt, .pwr]
  | .helloSend => [.regs, .ctrs, .out, .hostA, .hostB, .flt, .tabs, .fab]
  | .helloReceived _ _ => [.regs, .ctrs, .free, .out, .hostA, .hostB, .flt, .tabs, .egr, .mem, .streams, .fab, .pair]
  | .helloMissExpiry _ => [.regs, .ctrs, .free, .out, .hostA, .hostB, .flt, .tabs, .egr, .streams, .fab]
  | .fabricLinkDown _ => [.regs, .ctrs, .free, .out, .hostA, .hostB, .flt, .tabs, .egr, .links, .mem, .streams, .fab]
  | .linkStateSend => [.regs, .ctrs, .out, .hostA, .hostB, .flt, .tabs, .fab]
  | .linkStateReceived _ _ => [.regs, .ctrs, .free, .out, .hostA, .hostB, .flt, .tabs, .egr, .mem, .streams, .fab, .pair]
  | .gossipSend => [.regs, .ctrs, .out, .hostA, .hostB, .flt, .fab]
  | .gossipReceived _ _ => [.regs, .ctrs, .out, .hostA, .hostB, .flt, .fab]
  | .coordSend => [.regs, .ctrs, .out, .hostA, .hostB, .flt, .tabs, .fab]
  | .coordReceived _ _ => [.regs, .ctrs, .out, .hostA, .hostB, .flt, .tabs, .egr, .fab]
  | .coordTimeout => [.regs, .ctrs, .free, .out, .hostA, .hostB, .flt, .tabs, .egr, .streams, .fab]
  | .sizeModeSwitch => [.regs, .ctrs, .out, .hostA, .hostB, .flt, .egr, .fab]
  | .pathsMessage _ _ _ => [.regs, .ctrs, .free, .out, .hostA, .hostB, .flt, .tabs, .egr, .mem, .streams, .gw, .fab, .flash, .admJob]
  | .withdrawReceived _ _ _ => [.regs, .ctrs, .free, .out, .hostA, .hostB, .flt, .tabs, .egr, .streams, .fab]
  | .digestMessage _ _ _ _ => [.regs, .ctrs, .out, .hostA, .hostB, .flt, .fab]
  | .resetMessage _ _ _ _ => [.regs, .ctrs, .out, .hostA, .hostB, .flt, .tabs, .egr, .mem, .streams, .gw, .wake, .keys, .fab, .pwr, .sup, .rst]
  | .imgBegin _ => [.regs, .out, .hostA, .hostB, .pwr, .sup]
  | .imgBlock _ _ => [.regs, .out, .hostA, .hostB, .pwr, .sup]
  | .imgEnd _ _ => [.regs, .out, .hostA, .hostB, .pwr, .sup]
  | .imgActivate _ => [.out, .hostA, .hostB, .pwr, .sup]
  | .activationWatchdog => [.regs, .out, .hostA, .hostB, .keys, .sup, .rst]
  | .firmwareFallback _ => [.regs, .ctrs, .out, .hostA, .hostB, .flt, .keys, .sup, .rst]
  | .trialConfirm => [.regs, .ctrs, .hostA, .hostB, .flt, .keys, .sup]
  | .supWindowClose _ _ _ _ => [.regs, .ctrs, .free, .out, .bus, .hostA, .hostB, .flt, .time, .tabs, .egr, .mem, .streams, .gw, .wake, .keys, .fab, .pair, .pwr, .sup, .rst, .trn]
  | .supLateCore _ => [.regs, .ctrs, .out, .hostA, .hostB, .flt, .tabs, .egr, .mem, .streams, .gw, .wake, .keys, .fab, .pwr, .sup, .rst]
  | .supResyncDone => [.regs, .sup]
  | .supRestartDone _ _ _ => [.regs, .ctrs, .free, .out, .hostA, .hostB, .flt, .tabs, .egr, .mem, .streams, .gw, .keys, .fab, .pair, .flash, .admJob, .pwr, .sup, .rst]
  | .graceExpiry _ _ => [.regs, .ctrs, .free, .out, .hostA, .hostB, .flt, .tabs, .hedge, .egr, .mem, .streams, .gw, .wake, .keys, .fab, .pair, .pwr, .sup, .rst, .fn, .trn]
  | .portWakeDetect _ _ _ => [.regs, .ctrs, .out, .hostA, .hostB, .flt, .tabs, .egr, .mem, .streams, .gw, .wake, .fab, .pwr]
  | .wakeInDetect _ _ _ => [.regs, .ctrs, .out, .hostA, .hostB, .flt, .tabs, .egr, .mem, .streams, .gw, .wake, .fab, .pwr]
  | .portStateReached _ => [.regs, .ctrs, .free, .out, .hostA, .hostB, .flt, .tabs, .egr, .links, .mem, .streams, .gw, .wake, .fab, .pwr]
  | .portStateForced _ => [.regs, .ctrs, .free, .out, .hostA, .hostB, .flt, .tabs, .egr, .links, .mem, .streams, .gw, .wake, .fab, .pwr]
  | .wakeHoldTick => [.regs, .ctrs, .hostA, .hostB, .flt, .wake]
  | .netSleepVote _ => [.regs, .ctrs, .out, .hostA, .hostB, .flt, .tabs, .egr, .mem, .streams, .gw, .wake, .fab, .pwr]
  | .sleepVoteSend => [.ctrs, .out, .wake, .fab]
  | .sleepMessageReceived _ _ => [.regs, .ctrs, .out, .hostA, .hostB, .flt, .tabs, .egr, .mem, .streams, .gw, .wake, .fab, .pwr]
  | .sleepSettleExpiry => [.regs, .ctrs, .out, .hostA, .hostB, .flt, .wake, .fab]
  | .sleepCommitTime => [.regs, .ctrs, .free, .out, .hostA, .hostB, .flt, .tabs, .egr, .mem, .streams, .gw, .wake, .fab, .pwr]
  | .sleepStateRetry => [.regs, .ctrs, .free, .out, .hostA, .hostB, .flt, .tabs, .egr, .mem, .streams, .gw, .wake, .fab, .pwr]
  | .idleEntryTimer => [.regs, .ctrs, .free, .out, .hostA, .hostB, .flt, .tabs, .egr, .mem, .streams, .gw, .wake, .fab, .pwr]
  | .pwrRequestState _ => [.regs, .ctrs, .free, .out, .hostA, .hostB, .flt, .tabs, .egr, .mem, .streams, .gw, .wake, .fab, .pwr]
  | .stateEntryCommit => [.regs, .ctrs, .free, .out, .bus, .hostA, .hostB, .flt, .time, .tabs, .hedge, .egr, .links, .brace, .mem, .streams, .pnHold, .gw, .dbg, .wake, .keys, .fab, .admJob, .pwr, .sup, .fn, .trn]
  | .exitTrigger _ => [.regs, .ctrs, .out, .hostA, .hostB, .flt, .tabs, .egr, .mem, .streams, .gw, .wake, .fab, .pair, .pwr]
  | .islandRampDone => [.regs, .pwr]
  | .stateExitDone _ => [.regs, .ctrs, .free, .out, .bus, .hostA, .hostB, .flt, .time, .tabs, .pairMode, .hedge, .egr, .links, .brace, .mem, .streams, .pnHold, .gw, .dbg, .wake, .keys, .fab, .pair, .flash, .admJob, .pwr, .sup, .rst, .fn, .trn]
  | .railWarningEnter _ _ _ => [.regs, .ctrs, .out, .hostA, .hostB, .flt, .egr, .brace, .keys, .pwr, .sup]
  | .railWarningExit _ _ => [.regs, .ctrs, .out, .hostA, .hostB, .flt, .tabs, .egr, .brace, .mem, .streams, .gw, .fab, .sup, .rst]
  | .railResetLevel _ _ => [.regs, .ctrs, .out, .bus, .hostA, .hostB, .flt, .time, .tabs, .pairMode, .hedge, .egr, .links, .brace, .mem, .streams, .pnHold, .gw, .dbg, .wake, .keys, .fab, .pair, .flash, .admJob, .pwr, .sup, .rst, .fn, .trn]
  | .clockLoss _ => [.regs, .ctrs, .out, .hostA, .hostB, .flt, .egr, .mem, .streams, .gw, .pair]
  | .powerOnReset _ _ _ _ _ => [.regs, .ctrs, .free, .out, .bus, .hostA, .hostB, .flt, .time, .tabs, .pairMode, .hedge, .egr, .links, .brace, .mem, .streams, .pnHold, .gw, .dbg, .wake, .keys, .fab, .pair, .flash, .admJob, .pwr, .sup, .rst, .fn, .trn]
  | .poresetAssert _ => [.regs, .ctrs, .out, .bus, .hostA, .hostB, .flt, .time, .tabs, .pairMode, .hedge, .egr, .links, .brace, .mem, .streams, .pnHold, .gw, .dbg, .wake, .keys, .fab, .pair, .flash, .admJob, .pwr, .sup, .rst, .fn, .trn]
  | .wresetNAssert _ => [.regs, .ctrs, .out, .hostA, .hostB, .flt, .tabs, .egr, .mem, .streams, .gw, .wake, .keys, .fab, .pwr, .sup, .rst]
  | .wresetNRelease _ => [.ctrs, .mem, .wake, .rst]
  | .warmReset _ => [.regs, .ctrs, .out, .hostA, .hostB, .flt, .tabs, .egr, .mem, .streams, .gw, .wake, .keys, .fab, .pwr, .sup, .rst]
  | .drainEnd => [.regs, .ctrs, .out, .bus, .hostA, .hostB, .flt, .time, .tabs, .pairMode, .hedge, .egr, .mem, .streams, .pnHold, .gw, .dbg, .wake, .keys, .fab, .pair, .admJob, .sup, .rst, .fn, .trn]
  | .drainLimitExpiry => [.regs, .ctrs, .out, .bus, .hostA, .hostB, .flt, .time, .tabs, .pairMode, .hedge, .egr, .mem, .streams, .pnHold, .gw, .dbg, .wake, .keys, .fab, .pair, .admJob, .sup, .rst, .fn, .trn]
  | .fnQuiesceFlip _ => [.regs, .ctrs, .free, .out, .hostA, .hostB, .flt, .time, .tabs, .hedge, .egr, .mem, .streams, .gw, .keys, .fab, .pair, .pwr, .fn, .trn]
  | .fnQuiesceReset _ _ => [.regs, .ctrs, .free, .out, .hostA, .hostB, .flt, .time, .tabs, .hedge, .egr, .mem, .streams, .gw, .keys, .fab, .pair, .pwr, .fn, .trn]
  | .carvingFlipDrained => [.regs, .ctrs, .out, .hostA, .hostB, .flt, .tabs, .egr, .mem, .streams, .gw, .wake, .fab, .rst, .fn]
  | .fnResume _ => [.out, .hostA, .hostB, .pwr, .fn]
  | .cfgStore _ _ => [.out, .hostA, .hostB, .flash, .pwr]
  | .jtagInstructionLoad _ => [.out, .dbg]
  | .dbgChallengeRead => [.free, .out, .dbg]
  | .dbgResponseLoad _ => [.dbg]
  | .dbgVerifyDone => [.regs, .ctrs, .hostA, .hostB, .flt, .dbg, .keys]
  | .dbgChallengeExpiry => [.dbg]
  | .ethernetLinkUp _ _ _ => [.regs, .ctrs, .free, .out, .hostA, .hostB, .flt, .tabs, .egr, .links, .mem, .streams, .gw, .wake, .fab]
  | .ethernetLinkDown _ => [.regs, .ctrs, .out, .hostA, .hostB, .flt, .egr, .links, .mem, .streams]
  | .flexrayPocStateChange _ => [.regs, .ctrs, .out, .hostA, .hostB, .flt, .egr, .mem, .streams, .gw]
  | .linHeaderReceived _ _ _ => [.regs, .gw]
  | .tc10SleepRequest _ => [.out]
  | .gptpTimerExpiry _ _ _ _ => [.ctrs, .time, .mem, .wake]
  | .quotaDiscardIntervalEnd _ => [.regs, .ctrs, .hostA, .hostB, .flt, .streams]
  | .sidebandNotifyReceived _ _ _ _ _ => [.regs, .ctrs, .out, .hostA, .hostB, .flt, .fab]
  | .fabRemoteCommandTimeout => [.out, .hostA, .hostB, .fab]
  | .epochRecordWritten => [.streams, .flash]
  | .cfgStoreDone _ => [.regs, .ctrs, .hostA, .hostB, .flt, .flash]
  | .sealedHandoverDone => [.regs, .keys, .sup]
  | .activationPauseEnd => [.regs, .ctrs, .free, .out, .hostA, .hostB, .flt, .tabs, .egr, .mem, .streams, .gw, .keys, .fab, .flash, .admJob, .pwr, .sup, .rst]
  | .imageSlotEraseDone _ => [.sup]
  | .shaperEligible _ => [.regs, .ctrs, .free, .out, .hostA, .hostB, .flt, .egr, .mem, .streams, .pnHold, .gw, .keys, .pair]
  | .tapReset => [.dbg]

/-- A command of a sender may run: commands start, it is its turn, and its group is allowed (R112, R116, R644). -/
abbrev mayRun (c : CmdCtx) (opcode : Nat) (s : State) : Prop :=
  starts s opcode = true ∧ outOfTurn s c opcode = false ∧ cmdAllowed s c opcode = true

/-- The sender and the operation code of a row that is a command of a CMDQ or of firmware (R119). -/
def asCommand : Instr → Option (CmdCtx × Nat)
  | .tblSearch c => some (c, 0x0201)
  | .tblNext c => some (c, 0x0202)
  | .tblInsert c => some (c, 0x0203)
  | .tblDelete c => some (c, 0x0204)
  | .tblFlushPort c => some (c, 0x0205)
  | .tblRehash c => some (c, 0x0206)
  | .tblPin c => some (c, 0x0207)
  | .hedgeStage c => some (c, 0x0301)
  | .hedgeFlip c => some (c, 0x0302)
  | .hedgeRead c => some (c, 0x0303)
  | .hedgePinholeList c => some (c, 0x0304)
  | .hedgePinholeClose c => some (c, 0x0304)
  | .hedgePinholeCloseAll c => some (c, 0x0304)
  | .hedgePinholeOpen c => some (c, 0x0304)
  | .timeStep c => some (c, 0x0401)
  | .timeRate c => some (c, 0x0402)
  | .timePulseArm c => some (c, 0x0403)
  | .shutterStage c => some (c, 0x0501)
  | .shutterFlip c => some (c, 0x0502)
  | .shutterRead c => some (c, 0x0503)
  | .admitRequest c => some (c, 0x0601)
  | .admitCommit c => some (c, 0x0602)
  | .admitWithdraw c => some (c, 0x0603)
  | .admitQuery c => some (c, 0x0604)
  | .admitImage c _ => some (c, 0x0605)
  | .pathSet c => some (c, 0x0701)
  | .pairHandover c => some (c, 0x0702)
  | .gwStage c => some (c, 0x0801)
  | .gwFlip c => some (c, 0x0802)
  | .gwRead c => some (c, 0x0803)
  | .gwImageRead c => some (c, 0x0804)
  | .gwImageWrite c => some (c, 0x0804)
  | .gwImageSend c => some (c, 0x0804)
  | .gwBusSelectTable c => some (c, 0x0805)
  | .gwBusRecover c => some (c, 0x0805)
  | .gwBusSetMode c => some (c, 0x0805)
  | .gwBusPocCommand c => some (c, 0x0805)
  | .keyLoadBlob c _ => some (c, 0x0901)
  | .keyReplace c _ => some (c, 0x0902)
  | .keyVerifyCommit c => some (c, 0x0903)
  | .keyDeriveKdf c _ => some (c, 0x0906)
  | .keyDeriveRandom c _ => some (c, 0x0906)
  | .keyExport c => some (c, 0x0907)
  | .cryptoGcmEncrypt c _ => some (c, 0x0904)
  | .cryptoGcmDecrypt c _ => some (c, 0x0904)
  | .cryptoCmacGenerate c _ => some (c, 0x0904)
  | .cryptoCmacVerify c _ => some (c, 0x0904)
  | .cryptoSha384 c _ => some (c, 0x0904)
  | .cryptoEcdsaVerify c _ => some (c, 0x0904)
  | .cryptoCmacFreshGenerate c _ => some (c, 0x0904)
  | .cryptoCmacFreshVerify c _ => some (c, 0x0904)
  | .macsecSaInstall c => some (c, 0x0905)
  | .macsecSaRemove c => some (c, 0x0905)
  | .macsecSaTxCommit c => some (c, 0x0905)
  | .macsecSaRead c => some (c, 0x0905)
  | .fabDigestQuery c => some (c, 0x0A01)
  | .fabReset c => some (c, 0x0A02)
  | .transomClearErr c => some (c, 0x0B01)
  | .imgBegin c => some (c, 0x0D01)
  | .imgBlock c _ => some (c, 0x0D02)
  | .imgEnd c _ => some (c, 0x0D03)
  | .imgActivate c => some (c, 0x0D04)
  | .netSleepVote c => some (c, 0x0E02)
  | .pwrRequestState c => some (c, 0x0E01)
  | .warmReset c => some (c, 0x0F03)
  | .fnQuiesceFlip c => some (c, 0x0F01)
  | .fnQuiesceReset c _ => some (c, 0x0F01)
  | .fnResume c => some (c, 0x0F02)
  | .cfgStore c _ => some (c, 0x0F04)
  | _ => none

/-- The state in which the register bus has granted an access (R37). -/
def State.granted (src : Src) (s : State) : State := { s with bus := { s.bus with last := src } }

/-- A read that is performed when it is made: by a host or over SPI, or by the first core of the triad that reads the word (R492). -/
abbrev readsNow (src : Src) (core : Fin 3) (addr : Nat) (s : State) : Prop :=
  src = .fw → triadRun s = true ∧ bit (coresRun s) core.val = true ∧ takeReplay core.val addr s.sup.replay = none ∧ s.sup.replay.length < 64

/-- What the reader of a word is given. -/
def readGives (src : Src) (core : Fin 3) (addr w : Nat) : Output :=
  match src with
  | .fw => .coreRead core.val addr w
  | _ => .regRead src addr w

/-- The invariant of the register file, the counters and the local time: tables are in their one form, no register holds a bit that it does not
implement (R8), counters have 64 bits (R36), and LT is a whole number of ticks (R226). -/
abbrev State.Inv (s : State) : Prop := Regs.wf s.regs = true ∧ Ctrs.wf s.ctrs = true ∧ s.time.lt % 2 = 0

end Sys2Proof.Machine
end

