-- ==== Sys2Proof/Certificates/Slice0/Obligations.lean ====
section
/-! DEFINITION. What is claimed of this block: the statements for the provers. -/

open Sys2Proof Sys2Proof.Machine

/-- A step runs the command at the front of the queue on the state with the queue's rest. -/
def Obligations.StepRunsTheFrontCommand : Prop :=
  ∀ (c : Instr) (rest : List Instr) (s : State), step { s with pending := c :: rest } = exec c { s with pending := rest }

/-- On an empty queue a step is one tick of 2 ns (the model's choice, log entry 1): LT advances by 2 while the timekeeper runs, or while the sleep timebase
does in S3 to S5, and nothing but the time and the running time of the rakes changes. -/
def Obligations.AnIdleStepIsOneTick : Prop :=
  ∀ s : State, s.pending = [] → ∃ t, step s = .next t ∧ OnlyChanges [.time, .tabs] s t ∧
    t.time.lt = if s.time.running || (decide (3 ≤ s.pwr.state) && decide (s.pwr.state ≤ 5)) then s.time.lt + 2 else s.time.lt

/-- The invariant holds right after reset. -/
def Obligations.ResetHoldsTheInvariant : Prop := State.Inv State.reset

/-- What stands right after reset (R10, R36, R579): every register at its reset value, every counter at 0, no link, no buffer in use, no command waiting,
and the device held in power-on reset, where the register bus serves nobody and no command starts. -/
def Obligations.ResetLeavesTheStartValues : Prop :=
  (∀ a : Nat, State.reset.reg a = regReset a ∧ State.reset.ctr a = 0) ∧ State.reset.pending = [] ∧ State.reset.out = [] ∧ State.reset.links = [] ∧
  State.reset.mem.bufs = [] ∧ State.reset.mem.queues = [] ∧ State.reset.mem.staging = [] ∧ State.reset.streams = [] ∧ State.reset.rst.porLow = true ∧
  (∀ src : Src, busOpen State.reset src = false) ∧ (∀ op : Nat, starts State.reset op = false)

/-- Every step keeps the invariant: tables of registers and counters stay in their one form, no register comes to hold a bit that it does not implement
(R8), counters stay within 64 bits (R36), and LT stays a whole number of ticks (R226). -/
def Obligations.EveryStepKeepsTheInvariant : Prop := ∀ s t : State, State.Inv s → step s = .next t → State.Inv t

/-- The frame of every command: when it answers a next state, the queue and every part of the state that `mayChange` does not list for it are as before. -/
def Obligations.EveryCommandKeepsItsFrame : Prop := ∀ (i : Instr) (s t : State), exec i s = .next t → OnlyChanges (mayChange i) s t

/-- Every step leaves the outputs that have left the device, uses each free value at most once, and takes from the queue at most the command at its front. -/
def Obligations.EveryStepKeepsOutputsAndQueue : Prop :=
  ∀ s t : State, step s = .next t → s.out <:+ t.out ∧ s.free ≤ t.free ∧ t.pending = s.pending.tail

/-- No command is refused, and none stops the run but one: a link that trains at a rate that its port kind does not have (R604 names the rates) comes
from no device. -/
def Obligations.EveryCommandAnswers : Prop :=
  ∀ (i : Instr) (s : State), (∃ t, exec i s = .next t) ∨
    (∃ (p : Port) (rate : Nat) (eee : Bool), i = .ethernetLinkUp p rate eee ∧ rateOfPort p.val rate = false ∧ exec i s = .fault .illFormed)

/-- R644: a command whose group is not allowed for its sender has no effect but its completion with `DENIED`; where the row must still wait, none at
all. -/
def Obligations.ADeniedCommandHasNoEffect : Prop :=
  ∀ (i : Instr) (c : CmdCtx) (op : Nat) (s : State), asCommand i = some (c, op) → starts s op = true → outOfTurn s c op = false →
    cmdAllowed s c op = false → exec i s = .next (complete c op stDenied [] s) ∨ exec i s = .next s

/-- R636: a debug port that is locked out stays so. No command lifts the lock-out but the three that are a power-on reset, and the end of an exit,
which in S5 is as a power-on reset (the table of resets). -/
def Obligations.OnlyAPowerOnResetLiftsTheLockOut : Prop :=
  ∀ (i : Instr) (s t : State), exec i s = .next t → s.dbg.lockedOut = true →
    match i with
    | .powerOnReset _ _ _ _ _ | .poresetAssert _ | .railResetLevel _ _ | .stateExitDone _ => True
    | _ => t.dbg.lockedOut = true

/-- R34, R35, R8: a whole aligned word written to a register without a rule of its own stores what the access codes and ranges of its fields let through
(`writtenWord`), so the register reads it back with its reserved bits 0; every other register, and everything but the registers and the bus's turn, is
as before. -/
def Obligations.PlainRegisterWritesStoreTheirWord : Prop :=
  ∀ (src : Src) (addr data : Nat) (r : RegRow) (is : List Nat) (s : State),
    State.Inv s → busOpen s src = true → addr % 4 = 0 → regAt addr = some (r, is) → r.wide = false →
    (∀ (v : Nat) (u : State), writeReg src r is addr v u = plainWrite r is addr v u) →
    ∃ t, exec (.registerWrite src addr data 15) s = .next t ∧ OnlyChanges [.regs, .bus] s t ∧
      t.reg addr % 2 ^ 32 = (writtenWord r is (s.reg addr) (data % 2 ^ 32) &&& wordMask addr) % 2 ^ 32 ∧ ∀ b : Nat, b ≠ addr → t.reg b = s.reg b

/-- R35: a read of a reserved address returns 0 and sets `UNMAP_RD`; a write to one is discarded and sets `UNMAP_WR`, and `PART_WR` too where it
enables fewer than four bytes. Neither raises a fault: no event and no output follows a write, and everything but the two error registers, the bus's
turn and the values kept of a core's read (R492) is as before. -/
def Obligations.ReservedAccessesReportThemselves : Prop :=
  ∀ (src : Src) (core : Fin 3) (addr data be : Nat) (s : State), State.Inv s → busOpen s src = true → regAt (addr / 4 * 4) = none →
    (∃ t, exec (.registerWrite src addr data be) s = .next t ∧ OnlyChanges [.regs, .bus] s t ∧ t.fld GLB_ERR_STATUS.UNMAP_WR = 1 ∧
      (be % 16 ≠ 15 → t.fld GLB_ERR_STATUS.PART_WR = 1) ∧
      ∀ b : Nat, b ≠ GLB_ERR_STATUS → b ≠ GLB_ERR_ADDR → t.reg b = s.reg b) ∧
    (be < 16 → readsNow src core addr s →
      ∃ t, exec (.unmappedRead src addr be core) s = .next t ∧ OnlyChanges [.regs, .bus, .sup, .out] s t ∧ t.fld GLB_ERR_STATUS.UNMAP_RD = 1 ∧
        t.out = readGives src core addr 0 :: s.out ∧ ∀ b : Nat, b ≠ GLB_ERR_STATUS → b ≠ GLB_ERR_ADDR → t.reg b = s.reg b)

/-- R36: a read of a counter's low word gives that word and shadows the high one for the source; that source's next read of the high word gives the
shadow, once, whatever happens in between, and without a shadow a read gives the live high word. -/
def Obligations.CounterReadsAreCoherent : Prop :=
  ∀ (src : Src) (core : Fin 3) (a : Nat) (r : RegRow) (is : List Nat) (s : State), busOpen s src = true → a % 4 = 0 → r.wide = true →
    regAt a = some (r, is) → idxOf r.dims (a - r.base) = some (is, 0) → regAt (a + 4) = some (r, is) → idxOf r.dims (a + 4 - r.base) = some (is, 4) →
    (readsNow src core a s → ∃ t, exec (.counterLowRead src a 15 core) s = .next t ∧ OnlyChanges [.out, .bus, .sup] s t ∧
      t.out = readGives src core a (wideCtr s r is a % 2 ^ 32) :: s.out ∧
      ∀ u : State, busOpen u src = true → u.bus = t.bus → readsNow src core (a + 4) u →
        ∃ v, exec (.unmappedRead src (a + 4) 15 core) u = .next v ∧ OnlyChanges [.out, .bus, .sup] u v ∧
          v.out = readGives src core (a + 4) (wideCtr s r is a / 2 ^ 32 % 2 ^ 32) :: u.out ∧
          v.bus.shadow.find? (fun e => decide (e.1 = src) && decide (e.2.1 = a + 4)) = none) ∧
    (s.bus.shadow.find? (fun e => decide (e.1 = src) && decide (e.2.1 = a + 4)) = none → readsNow src core (a + 4) s →
      ∃ v, exec (.unmappedRead src (a + 4) 15 core) s = .next v ∧ OnlyChanges [.out, .bus, .sup] s v ∧
        v.out = readGives src core (a + 4) (wideCtr s r is a / 2 ^ 32 % 2 ^ 32) :: s.out)

/-- R195, R196, R199: which egress zones stage 2 allows. The fixed control path allows every zone and is counted; else a PERMIT cell allows the zone unless
the verdict is DENY, a RULE cell on verdict PERMIT or REDIRECT, or for a pinhole with that reply zone when the verdict is not DENY, and a DENY cell
never. `actCell` gives the cell, `firstMatch` the rule (R205), and verdict 2 is DENY. -/
def Obligations.TheMatrixDecidesEgressZones : Prop :=
  ∀ (p : Pkt) (s : State) (ze : Nat), ze < 16 →
    let h := s.hq (homeQuad p.inPort)
    let v := match firstMatch h (composeKey s h p) (setProfile h.active p.inPort) with
      | some (_, r) => hrVerdict r
      | none => 0
    let c := actCell h p.inPort ze
    (controlPath s p = true → hedgeDecide p s = (s.bump (QD_HEDGE_CTRL_PASS (homeQuad p.inPort)), { bypass := true, zones := 0xFFFF })) ∧
    (controlPath s p = false →
      (hedgeDecide p s).2.drop = decide (v = 2) ∧
      (c = 1 → bit (hedgeDecide p s).2.zones ze = decide (v ≠ 2)) ∧
      (c = 2 → (v = 1 ∨ v = 3) → bit (hedgeDecide p s).2.zones ze = true) ∧
      (c = 2 → v = 2 → bit (hedgeDecide p s).2.zones ze = false) ∧
      (c = 2 → v = 0 → bit (hedgeDecide p s).2.zones ze = true → ∃ e ∈ s.hedge.holes, e.2.zone = ze) ∧
      (c = 0 ∨ c = 3 → bit (hedgeDecide p s).2.zones ze = false))

/-- R150: a release of a buffer that is free, or by a port whose owner bit is 0, is refused and changes no buffer; it raises `EV_BUF_BAD_FREE` (0x0101,
F1) with the buffer index and the port, and increments `BUF_BAD_FREE_CNT`. -/
def Obligations.AReleaseByANonOwnerIsRefused : Prop :=
  ∀ (b p : Nat) (departed : Bool) (s : State), State.Inv s → (∀ x : Buf, s.buf b = some x → bit x.owner p = false) →
    release b p departed s = raise 0x0101 1 (evPay [(16, 2, b), (18, 1, p)]) (s.bumpFld BUF_BAD_FREE_CNT.COUNT 1) ∧
    (s.bumpFld BUF_BAD_FREE_CNT.COUNT 1).fld BUF_BAD_FREE_CNT.COUNT = min (2 ^ 32 - 1) (s.fld BUF_BAD_FREE_CNT.COUNT + 1) ∧
    OnlyChanges [.regs, .ctrs, .hostA, .hostB, .flt] s (release b p departed s)

/-- R163: a write to `BUF_DBG_RELEASE` releases only while debug is unlocked, and only with a `PORT` of 75 or below; every other write is ignored. -/
def Obligations.DebugReleaseNeedsUnlockedDebug : Prop :=
  ∀ (src : Src) (v : Nat) (s : State), busOpen s src = true →
    exec (.bufDbgRelease src v) s =
      .next (if s.dbg.unlocked = true ∧ bits v 22 16 ≤ 75 then release (v % 65536) (bits v 22 16) false (s.granted src) else s.granted src)

/-- R66: the drain limit is 100 µs above the largest hop bound of any admitted (committed) stream here, and at most 20 ms; with no hop it is 100 µs. -/
def Obligations.DrainLimitIsTheLargestHopBound : Prop :=
  ∀ s : State, drainLimit s ≤ 20000000 ∧ 100000 ≤ drainLimit s ∧
    (∀ e ∈ s.streams, e.2.committed = true → ∀ g ∈ e.2.hops, g.tent = false → min 20000000 (g.bound + 100000) ≤ drainLimit s) ∧
    (drainLimit s = 100000 ∨ ∃ e ∈ s.streams, e.2.committed = true ∧ ∃ g ∈ e.2.hops, g.tent = false ∧ drainLimit s = min 20000000 (g.bound + 100000))

/-- R495: the triad has no majority where all three signatures of a window differ, or where the two running cores disagree during a resynchronisation;
the writes are discarded and `EV_SUP_NO_MAJORITY` (0x0F05, F3) is raised. What the cores wrote into their own SRAM stays (R492). -/
def Obligations.NoMajorityDiscardsTheWindow : Prop :=
  ∀ (a b c : List BusWrite) (own : List (Fin 3 × Nat × Nat)) (s : State), s.pwr.state = 0 → triadRun s = true → s.flt.f3 = false →
    let u := sramWrites own s
    let sig (k : Nat) : Nat := windowSig (coreWrites a b c k)
    (s.sup.resync = none → sig 0 ≠ sig 1 → sig 0 ≠ sig 2 → sig 1 ≠ sig 2 →
      exec (.supWindowClose a b c own) s = .next (raiseF3 0x0F05 (evPay [(20, 8, s.ctr SUP_WINDOWS)]) false u)) ∧
    (∀ x : Nat × Nat, s.sup.resync = some x → sig (if x.1 = 0 then 1 else 0) ≠ sig (if x.1 = 2 then 1 else 2) →
      exec (.supWindowClose a b c own) s = .next (raiseF3 0x0F05 (evPay [(20, 8, s.ctr SUP_WINDOWS)]) false u))

/-- R440: `KEY_REPLACE` and `KEY_DERIVE` complete with `STATE` while a MACsec SA refers to the slot; `KEY_VERIFY_COMMIT` on a slot that a lookaside job
uses waits. -/
def Obligations.KeyCommandsRespectTheUseOfTheirSlot : Prop :=
  ∀ (c : CmdCtx) (flash : Bool) (s : State),
    (∀ k : NewKey, mayRun c 0x0902 s → loadHeld s (byteAt c.par 1) = false → loadSource (markStarted c 0x0902 s) c = .inr k → saRefs s (byteAt c.par 1) ≠ 0 →
      exec (.keyReplace c flash) s = .next (complete c 0x0902 stState [] (markStarted c 0x0902 s))) ∧
    (mayRun c 0x0906 s → loadHeld s (byteAt c.par 2) = false → deriveOk c = true → saRefs s (byteAt c.par 2) ≠ 0 →
      exec (.keyDeriveKdf c flash) s = .next (complete c 0x0906 stState [] (markStarted c 0x0906 s)) ∧
      exec (.keyDeriveRandom c flash) s = .next (complete c 0x0906 stState [] (markStarted c 0x0906 s))) ∧
    (slotBusy s (byteAt c.par 0) = true → exec (.keyVerifyCommit c) s = .next s)

/-- R375: a wrong `PLEN` completes `PATH_SET` and `PAIR_HANDOVER` with `PARAM`, and `PAIR_HANDOVER` on a unit whose `MODE` is not cold-frame completes with
`STATE`. -/
def Obligations.PathCommandsCheckTheirLengthAndMode : Prop :=
  ∀ (c : CmdCtx) (s : State),
    (mayRun c 0x0701 s → c.par.length ≠ 40 → exec (.pathSet c) s = .next (complete c 0x0701 stParam [] (markStarted c 0x0701 s))) ∧
    (mayRun c 0x0702 s → c.par.length ≠ 8 → exec (.pairHandover c) s = .next (complete c 0x0702 stParam [] (markStarted c 0x0702 s))) ∧
    (mayRun c 0x0702 s → c.par.length = 8 → parZero c 0 8 = true → s.pairMode ≠ 1 →
      exec (.pairHandover c) s = .next (complete c 0x0702 stState [] (markStarted c 0x0702 s)))

/-- R513, R518, R519: what an event does by its class. It enters the history of the last 16 events; a first event of class F1, F2 or F3 is captured, and a
capture stands; F2 starts its group's grace timer unless it runs, F3 stops the device, and each class is counted (F3 in F1's counter, as the
rule's words "as F1" read, log entry 14). -/
def Obligations.AnEventIsKeptByItsClass : Prop :=
  ∀ (code cls : Nat) (pay : Bytes) (s : State), cls ≤ 3 → State.Inv s →
    let t := raise code cls pay s
    OnlyChanges [.regs, .ctrs, .hostA, .hostB, .flt] s t ∧
    t.flt.hist.tail = s.flt.hist.take 15 ∧ t.flt.hist.head?.map (fun e => e.entry.code) = some code ∧ t.flt.number = (s.flt.number + 1) % 65536 ∧
    (∀ x : HistEntry, s.flt.first = some x → t.flt.first = some x) ∧
    (s.flt.first = none → t.flt.first = if cls = 0 then none else t.flt.hist.head?) ∧
    (∀ g : Nat, kget t.flt.grace g =
      if cls = 2 ∧ g = code / 256 ∧ kget s.flt.grace g = none then some (s.lt + s.fld FLT_CTRL.GRACE * 1000) else kget s.flt.grace g) ∧
    t.flt.f3 = (s.flt.f3 || decide (cls = 3)) ∧
    t.ctr FLT_F1_CNT = (if cls = 1 ∨ cls = 3 then min ctrMax (s.ctr FLT_F1_CNT + 1) else s.ctr FLT_F1_CNT) ∧
    t.ctr FLT_F2_CNT = (if cls = 2 then min ctrMax (s.ctr FLT_F2_CNT + 1) else s.ctr FLT_F2_CNT)

/-- Frames and PDUs that arrive (R123 to R127, R422): a frame of a wrong length, with a wrong check sum, or without room is counted and goes no
further; any other is counted in `PORT_RX_OK` and waits at the end of its port's partition. -/
def Obligations.ReceivedFramesAreCountedAndStaged : Prop :=
  (∀ (p : Port) (frame : Bytes) (err : Bool) (st : Span) (s : State), etherListens s p.val = true →
    let u := seen s
    let n := rxLength (s.fabricPort p.val) frame
    let body := frame.take (frame.length - 4)
    ((n < 64 ∨ s.fld (PORT_RX_CFG.MAX_LEN p.val) < n) → exec (.ethernetFrameReceived p frame err st) s = .next (u.bump (PORT_RX_LEN_ERR p.val))) ∧
    (64 ≤ n → n ≤ s.fld (PORT_RX_CFG.MAX_LEN p.val) →
      ((err = true ∨ frame.drop (frame.length - 4) ≠ fcsOf body) →
        exec (.ethernetFrameReceived p frame err st) s = .next (u.bump (PORT_RX_CRC_ERR p.val))) ∧
      (err = false → frame.drop (frame.length - 4) = fcsOf body →
        ((s.mem.stopped = true ∨ stagingRoom s p.val body.length = false) →
          exec (.ethernetFrameReceived p frame err st) s = .next (u.bump (PORT_RX_DROP p.val))) ∧
        (s.mem.stopped = false → stagingRoom s p.val body.length = true → p.val ≠ 75 → msecOn (rxOk p.val u) p.val = false →
          let v := rxOk p.val u
          let x : Pkt := { bytes := body, dfp := v.fabricPort p.val && decide (etype body 12 = dfpEtype), inPort := p.val,
                           start := rxStart v p.val st, arrive := v.endPoint st }
          unpackEntry v x.tag body = none → exec (.ethernetFrameReceived p frame err st) s = .next (stage x v))))) ∧
  (∀ (p : Port) (u : LegPdu) (st : Span) (s : State), s.pwr.state ≤ 2 → isLegacyPort p.val = true → legacyListens (seen s) p.val = true →
    exec (.legacyPduReceived p false u st) s = .next ((canRec p.val false (seen s)).bump (PORT_RX_CRC_ERR p.val)) ∧
    let v := canRec p.val true (seen s)
    let d : LegPdu := { u with start := rxStart v p.val st }
    let w := sigWrite p.val false d v
    (v.mem.stopped = true → exec (.legacyPduReceived p true u st) s = .next (v.bump (PORT_RX_DROP p.val))) ∧
    (v.mem.stopped = false →
      (rtFrame w p.val false d = none → exec (.legacyPduReceived p true u st) s = .next ((rxOk p.val w).bump GW_NO_ROUTE)) ∧
      (∀ f, rtFrame w p.val false d = some f →
        exec (.legacyPduReceived p true u st) s = .next (accept { bytes := f, internal := true, inPort := p.val, start := d.start, arrive := w.endPoint st } w))))

/-- Frames that leave (R43, R148, R266, R100): what the scheduler of a port does, what happens at the last bit, and how a copy reaches firmware or a host. -/
def Obligations.FramesLeaveThroughTheScheduler : Prop :=
  (∀ (p : Port) (s : State), s.pwr.state = 0 → p.val ≠ 74 → s.flt.f3 = false →
    (portUp s p.val = false → exec (.egressSelect p none) s = .next (flushPort p.val s) ∧ exec (.shaperEligible p) s = .next (flushPort p.val s)) ∧
    (portUp s p.val = true → laneAwake (s.eport p.val) = true →
      let u := heldHeads p.val (dropHeads p.val (markHeld p.val s))
      (portFree u p.val = true → (isEthPort p.val = true ∨ (u.eport p.val).sending = none) →
        exec (.egressSelect p none) s = .next (parkEnter p.val (portEmpty u p.val) (chooseNext p.val u)) ∧
        exec (.shaperEligible p) s = .next (parkEnter p.val (portEmpty u p.val) (chooseNext p.val u))) ∧
      (∀ g, portFree u p.val = false → (u.eport p.val).sending = some g → g.preemptable = true → preemptActive u p.val = true →
        exec (.egressSelect p none) s = .next (tryPreempt p.val g u) ∧ exec (.shaperEligible p) s = .next (tryPreempt p.val g u)))) ∧
  (∀ (p : Port) (g : Sending) (r : List Sending) (s : State), (s.eport p.val).onWire = g :: r → isEthPort p.val = true →
    lastBit s p.val g ≤ s.lt → s.pwr.state ≤ 2 →
    let last := lastBit s p.val g
    let v := endSending p.val g last s
    let u := v.emit (.frame p.val (g.bytes ++ fcsOf g.bytes) (txStart s p.val g.started) last)
    exec (.frameDepart p) s = .next (parkEnter p.val (portEmpty u p.val) (departCopy p.val last g.cell u))) ∧
  (∀ (s : State) (c : Nat) (x : Cell) (g : Sending), s.pwr.state = 0 → s.flt.f3 = false → triadRun s = true → portFree s 74 = true →
    (dropHeads 74 s).flt.f3 = false → selectClass (dropHeads 74 s) 74 (startAt s 74) (fun _ => true) = some (c, x) →
    let w := dropHeads 74 s
    let u := startCopy 74 c (startAt s 74) x (if unknownMsg w x = true then w.bump FAB_BAD_TAG else w)
    (u.eport 74).sending = some g →
    exec (.svFrameTake none none) s = .next (departCopy 74 u.lt g.cell (endSending 74 g u.lt u))) ∧
  (∀ (h : HostId) (entry : Bytes) (g : Sending) (b : Buf) (s : State), (s.eport (hostPort h)).sending = some g →
    lastBit s (hostPort h) g ≤ s.lt → s.pwr.state ≤ 2 →
    (rxStopped s (hostPort h) g.tc g.cell = true → exec (.hostRxDeliver h entry) s =
      .next (discardCopy (hostPort h) g.cell false (endSending (hostPort h) g (lastBit s (hostPort h) g) s))) ∧
    (rxStopped s (hostPort h) g.tc g.cell = false → s.buf g.cell.buf = some b → rxPosted s (hostPort h) g.tc g.cell = true → posted entry = true →
      exec (.hostRxDeliver h entry) s = .next (rxDeliver h (hostPort h) (leAt entry 0 8) (leAt entry 8 4) (leAt entry 12 4) g b s)))

/-- Inside a slice (R26, R347, R352, R353, R357, R398, R399, R455): the oldest frame of a partition passes the stages, copies pass recovery one by one,
holds are judged every 100 ns after what has arrived, batches take PDUs and close by their timeout, and epochs that flash holds are written. -/
def Obligations.SlicesWorkOnWhatWaits : Prop :=
  (∀ (p : Port) (x : Pkt) (r : List Pkt) (s : State), s.stagingOf p.val = x :: r → s.pwr.state = 0 →
    let u : State := { s with mem := { s.mem with staging := if r.isEmpty then kdel s.mem.staging p.val else kput s.mem.staging p.val r } }
    (s.flt.f3 = true → exec (.pipelineFrame p []) s = .next (dropPkt x u)) ∧
    (s.flt.f3 = false → (f3Check u).flt.f3 = false →
      (fabricDrop (f3Check u) x = none →
        exec (.pipelineFrame p []) s = .next (f3Check (stage2 (homeQuad x.inPort) x (f3Check u)))) ∧
      (∀ k, fabricDrop (f3Check u) x = some k → exec (.pipelineFrame p []) s = .next (f3Check (dropPkt x ((f3Check u).bump k)))))) ∧
  (∀ (w : Waiting) (h : Nat) (c : HeldCopy) (s u : State), takeRecovery s = some (w, u) → waitingCopy u w = some (h, c) →
    exec .recoveryCopy s = .next (recoverCopy h c (if isVoid c then u.bump PATH_VOID_RCVD else u))) ∧
  (∀ s : State, s.lt % 100 = 0 →
    let u := recoverAll s.mem.recWait.length s
    exec .skewTick s = .next ((u.streams.filter (fun e => e.2.recov.isSome)).foldl (fun v e => skewTick e.1 v) u)) ∧
  (∀ (w : Waiting) (s : State), nextWaiting s.mem.batchWait s.mem.batchLast = some w →
    exec .batchAdd s =
      .next (batchAdd w { s with mem := { s.mem with batchWait := removeFirst (fun y => y = w) s.mem.batchWait, batchLast := w.quad } })) ∧
  (∀ s : State, s.lt % 100 = 0 → exec .batchTick s = .next ((List.range 64).foldl (fun v i => match kget v.gw.batches i with
    | some b => if b.openAt + chTimeout (gwEntry v.gw.active 1 i) * 1000 ≤ v.lt then batchClose i v else v
    | none => v) (batchDrain s.mem.batchWait.length s))) ∧
  (∀ s : State, ∃ t, exec .epochRecordWritten s = .next t ∧ t.streams.map (·.1) = s.streams.map (·.1) ∧
    (∀ e ∈ t.streams, e.2.ingress = true → e.2.written = true) ∧
    t = { s with streams := t.streams, flash := { s.flash with epochs := t.flash.epochs } })

/-- What an endpoint writes and reads in host memory (R90 to R92, R105, R109, R110): entries of its event queue, interrupts, doorbell slots. -/
def Obligations.EndpointsServeTheirRings : Prop :=
  (∀ (h : HostId) (failed : Bool) (s : State), served s h = true → let u := faultyAll h s
    (∀ qs, (u.host h).lostPend ≠ 0 → overflowSet u h = some qs → exec (.eventWrite h failed) s = .next (overflowEntry h qs u)) ∧
    (∀ e, ((u.host h).lostPend = 0 ∨ overflowSet u h = none) → firstFit u h [] (u.host h).waiting = some e →
      exec (.eventWrite h failed) s = .next (writeEntry h failed e (u.modHost h (fun x => { x with waiting := removeFirst (fun y => y = e) x.waiting }))))) ∧
  (∀ (h : HostId) (v : Nat) (s : State), let x := kgetD (s.host h).vecs v {}
    x.count ≠ 0 → s.fld (HOST_MOD.TIME h.val v) ≠ 0 → x.first + s.fld (HOST_MOD.TIME h.val v) * 1000 ≤ s.lt →
    exec (.msixTimeFire h v) s = .next (vecFire h v s)) ∧
  (∀ (h : HostId) (s : State), served s h = true → (s.host h).lastPoll + pollPeriod s h ≤ s.lt →
    exec (.doorbellPollTimer h) s = .next (doorbellFetch h (s.modHost h (fun x => { x with lastPoll := s.lt })))) ∧
  (∀ (h : HostId) (slot no : Nat) (again : Bool) (page : Bytes) (s : State), kget (s.host h).slots slot = some (no, again) →
    let u := slotArrived h slot s
    (leAt page 0 4 = leAt page 60 4 → exec (.doorbellSlotRead h slot page) s = .next (acceptSlot h slot no page u)) ∧
    (leAt page 0 4 ≠ leAt page 60 4 → exec (.doorbellSlotRead h slot page) s =
      .next (if again then u else u.modHost h (fun x => { x with reread := x.reread ++ [(slot, u.lt + 250)] })))) ∧
  (∀ (h : HostId) (slot : Nat) (s : State), (s.host h).reread.any (fun e => e.1 = slot && decide (e.2 ≤ s.lt)) = true →
    khas (s.host h).slots slot = false → served s h = true →
    exec (.doorbellReread h slot) s =
      .next (readSlots h true [slot] (s.modHost h (fun x => { x with reread := removeFirst (fun e => e.1 = slot) x.reread })))) ∧
  (∀ (h : HostId) (v : Nat) (s : State),
    exec (.hostWakeHint h v) s = .next (if bit (activeSets s h) (v % 64) then doorbellFetch h s else s)) ∧
  (∀ (h : HostId) (s : State), served s h = true → s.flag (HOST_CTRL.DB_EN h.val) = true → (s.host h).slots = [] →
    doorbellFetch h s = readSlots h false (maskList (activeSets s h) 64) s)

/-- Rings and descriptors (R78, R79, R85, R87, R88, R95 to R99, R103, R104, R122): what fetching one entry does, how rings start, stop and fail, and what
an endpoint loses. -/
def Obligations.RingsFetchStartStopAndFail : Prop :=
  (∀ (h : HostId) (qs : Nat) (d data : Bytes) (s : State), txqTurn s h qs = true →
    let u := (fetchOne h qs 0 s).modHost h (fun x => { x with txqLast := qs })
    let ts := bit (byteAt d 10) 1
    (descOk d data = false → exec (.txqDescriptor h qs d data) s = .next (txCompletion h qs d stParam true (reserveEvq h qs u))) ∧
    (descOk d data = true → s.mem.stopped = false → stagingRoom s (hostPort h) (leAt d 8 2) = true →
      let v := accept (txPkt u h d data (if ts then some (h, (u.host h).txNext) else none)) u
      exec (.txqDescriptor h qs d data) s =
        .next (if ts || bit (byteAt d 10) 0 then txCompletion h qs d stOk (!ts) (reserveEvq h qs v) else v))) ∧
  (∀ (h : HostId) (qs : Nat) (e : Bytes) (par : Option Bytes) (s : State), cmdqTurn s h qs = true → triadRun s = true →
    let op := leAt e 0 2
    let plen := leAt e 6 2
    let c : CmdCtx := { who := .host h qs, tag := leAt e 2 2, rlen := leAt e 8 4, raddr := leAt e 24 8, par := slice (par.getD []) 0 plen }
    let bad := if knownOpcode op = false then some stOpcode else if cmdAllowed s c op = false then some stDenied
      else if 4096 < plen ∨ 65536 < c.rlen then some stParam else if par = none ∧ plen ≠ 0 then some stDma else none
    let r : CmdRec := { seq := s.bus.fetched, qs := qs, opcode := op, ctx := c, fence := bit (byteAt e 4) 0, bad := bad }
    let u := reserveEvq h qs (fetchOne h qs 2 s)
    let v := hostFetch c (leAt e 16 8) (if 4096 < plen then 0 else plen) u
    exec (.cmdqFetch h qs e par) s = .next (faultyAll h (({ v with bus := { v.bus with fetched := v.bus.fetched + 1 } }).modHost h
      (fun x => { x with cmds := x.cmds ++ [r] })))) ∧
  (∀ (h : HostId) (r : CmdRec) (st : Nat) (n : Nat) (s : State), (faultyDue s h = some (r, st) →
      faultyDone h (n + 1) s = faultyDone h n (complete r.ctx r.opcode st [] s)) ∧
    (r ∈ (s.host h).cmds → r.bad = some st → starts s r.opcode = true → recWaits s h r = false → faultyDue s h ≠ none)) ∧
  (∀ (h : HostId) (q r cause : Nat) (s : State), (s.ring h q r).state ≠ .disabled → exec (.dmaError h (some q) r cause) s =
    .next (raise 0x0C03 2 (evPay [(16, 1, h.val), (17, 1, q), (18, 1, r), (19, 1, cause)])
      (if (s.ring h q r).state = .error then s else ringError h q r 3 s))) ∧
  (∀ (h : HostId) (r cause : Nat) (s : State), exec (.dmaError h none r cause) s =
    .next (raise 0x0C03 2 (evPay [(16, 1, h.val), (17, 1, 0xFF), (18, 1, 0xFF), (19, 1, cause)])
      (((s.host h).rings.filter (fun e => e.2.state = .running || e.2.state = .stopping)).foldl (fun v e => ringError h (e.1 / 4) (e.1 % 4) 3 v)
        (s.modHost h (fun x => { x with slots := [], fetchMore := false }))))) ∧
  (∀ (h : HostId) (qs r v : Nat) (s : State), qs < 64 → r < 4 →
    (bit v 0 = true → exec (.ringEnable h qs r v) s = .next (ringCfgWrite h qs r v s)) ∧
    (bit v 0 = false → exec (.ringStop h qs r v) s = .next (ringCfgWrite h qs r v s))) ∧
  (∀ (h : HostId) (qs r : Nat) (s : State), (s.ring h qs r).state = .stopping → ringDrained s h qs r = true →
    exec (.ringStoppingDone h qs r) s = .next (s.modRing h qs r (fun x => { x with state := .disabled }))) ∧
  (∀ (h : HostId) (s : State), ∃ t, exec (.busMasterDisable h) s = .next t ∧ (t.host h).bme = false ∧
    (∀ e ∈ (t.host h).rings, e.2.state ≠ .running) ∧ OnlyChanges [if h.val = 0 then .hostA else .hostB] s t) ∧
  (∀ (h : HostId) (s : State), exec (.hostFlr h) s = .next (hostReset h s) ∧
    exec (.pcieLinkDown h) s = .next ((hostReset h s).modHost h (fun x => { x with linkUp := false, speed := 0, width := 0 }))) ∧
  (∀ (h : HostId) (gen lanes : Nat) (bme : Bool) (s : State), s.pwr.state ≤ 2 → s.rst.porLow = false → 1 ≤ gen → gen ≤ 4 →
    (lanes = 1 ∨ lanes = 2 ∨ lanes = 4) →
    let u := s.modHost h (fun x => { x with linkUp := true, speed := gen, width := lanes, bme := bme })
    exec (.pcieLinkUp h gen lanes bme) s = .next (raiseReady (if bme then dmaResume h u else u)))

/-- Accesses to the register space, over SPI and over the register bus (R34 to R37, R80 to R82): a whole write of a mapped register acts by the register's
rule, a read answers with its present word, a longer one of PCIe word by word, a core of the triad by R492, a reserved address reads 0 and reports itself, a part of a word is not written. -/
def Obligations.RegisterAccessesAreServed : Prop :=
  (∀ (src : Src) (a d : Nat) (r : RegRow) (is : List Nat) (s : State), busOpen s src = true → a % 4 = 0 →
    (regAt a = some (r, is) → r.wide = false →
      exec (.registerWrite src a d 15) s = .next (writeReg src r is a (d % 2 ^ 32) (s.granted src))) ∧
    (regAt a = some (r, is) → ∀ be, be % 16 ≠ 15 → exec (.registerWrite src a d be) s = .next (busError src a 4 (s.granted src))) ∧
    (regAt a = none → exec (.registerWrite src a d 15) s = .next (busError src a 2 (s.granted src)))) ∧
  (∀ (src : Src) (core : Fin 3) (a be : Nat) (s : State), busOpen s src = true → src ≠ .fw → be < 16 →
    (regAt (a / 4 * 4) = none → exec (.unmappedRead src a be core) s =
      .next ((busError src (a / 4 * 4) 1 (s.granted src)).emit (.regRead src a (readBytes be 0)))) ∧
    (∀ r is, regAt (a / 4 * 4) = some (r, is) → r.wide = true → (idxOf r.dims (a / 4 * 4 - r.base)).elim 0 (·.2) ≠ 4 →
      let v := wideCtr (s.granted src) r is (a / 4 * 4)
      exec (.counterLowRead src a be core) s = .next ((setShadow src (a / 4 * 4 + 4) (v / 2 ^ 32 % 2 ^ 32) (s.granted src)).emit
        (.regRead src a (readBytes be (v % 2 ^ 32)))))) ∧
  (∀ (src : Src) (core : Fin 3) (a n be : Nat) (s : State), busOpen s src = true → (src = .ha ∨ src = .hb) → 16 ^ n ≤ be → be < 16 ^ (n + 1) →
    exec (.unmappedRead src a be core) s =
      .next ((List.range (n + 1)).foldl (fun u i => readWord src (a + 4 * i) (be / 16 ^ i % 16) u) (s.granted src))) ∧
  (∀ (core : Fin 3) (a be : Nat) (s : State), busOpen s .fw = true → triadRun s = true → bit (coresRun s) core.val = true →
    exec (.unmappedRead .fw a be core) s = .next (fwRead core.val a be (s.granted .fw)) ∧
    exec (.counterLowRead .fw a be core) s = .next (fwRead core.val a be (s.granted .fw))) ∧
  (∀ (f : Bytes) (s : State), busOpen s .spi = true →
    (f.length = 9 → byteAt f 0 = 2 → byteAt f 8 = spiCrc (f.take 8) →
      exec (.spiWriteFrame f) s = .next (busWrite .spi (beAt f 1 3) (beAt f 4 4) 15 (s.granted .spi))) ∧
    (f.length = 9 → byteAt f 0 = 2 → byteAt f 8 ≠ spiCrc (f.take 8) →
      exec (.spiWriteFrame f) s = .next (s.setFld HOST_SPI_STATUS.CRC_ERR 1)) ∧
    (f.length = 6 → byteAt f 0 = 3 → byteAt f 4 = spiCrc (f.take 4) →
      let w := (busRead .spi (beAt f 1 3) (s.granted .spi)).1
      exec (.spiReadFrame f) s =
        .next ((busRead .spi (beAt f 1 3) (s.granted .spi)).2.emit (.spiReply (toBe 4 w ++ [byte (spiCrc (toBe 4 w))])))) ∧
    (f.length = 6 → byteAt f 0 = 3 → byteAt f 4 ≠ spiCrc (f.take 4) →
      exec (.spiReadFrame f) s =
        .next ((s.setFld HOST_SPI_STATUS.CRC_ERR 1).emit (.spiReply (toBe 4 0 ++ [byte (spiCrc (toBe 4 0))])))) ∧
    exec .spiStatusFrame s = .next (s.emit (.spiReply [byte (s.fld HOST_SPI_STATUS.CRC_ERR + 2 * s.fld HOST_SPI_STATUS.FRAME_ERR)])) ∧
    (∀ n, n ≠ 9 → n ≠ 11 → n ≠ 2 → exec (.spiFrameError n) s = .next (s.setFld HOST_SPI_STATUS.FRAME_ERR 1)))

/-- Writes that do more than store, granted by the register bus (R38, R83, R125, R147, R162, R163, R227, R236, R258, R302, R378, R381, R421): each has its
effect on the state in which its source was served last. -/
def Obligations.ActingRegistersOfThePathAct : Prop :=
  (∀ (src : Src) (s : State), busOpen s src = true →
    let g := s.granted src
    exec (.fwdEnSet src) s = .next (g.setFld GLB_CTRL.FWD_EN 1) ∧
    exec (.timeSnapTake src) s = .next (takeTimeSnap g) ∧
    (∀ pin : Fin 4, exec (.timeInLastNsRead src pin) s =
      .next ((readLastNs src pin.val g).2.emit (.regRead src (TIME_IN_LAST_NS pin.val) (lastNs (s.inPin pin.val))))) ∧
    (∀ v : Nat, exec (.bufBdSnapshot src v) s = .next (bdSnapshot v g) ∧ exec (.bufDbgRelease src v) s = .next (dbgRelease v g) ∧
      exec (.egrHistSnapshot src v) s = .next (histSnapshot v g)) ∧
    (∀ (k : Fin 6) (v : Nat), exec (.bufSillWrite src k v) s = .next (sillWrite k.val v g)) ∧
    (∀ (p : Port) (v : Nat), exec (.maxLenWrite src p v) s = .next (maxLenWrite p.val v g) ∧
      exec (.macsecEnableWrite src p v) s = .next (msecCtrlWrite p.val v g)) ∧
    (∀ (d : Fin 2) (v : Nat), exec (.domainNumberWrite src d v) s = .next (writeDomCfg d.val v g)) ∧
    (∀ (n : Fin 24) (r : Fin 3) (v : Nat), exec (.canBitTimingWrite src n r v) s = .next (bitTimingWrite n.val r.val v g)) ∧
    (∀ (r : Fin 4) (v : Nat), exec (.flexrayConfigWrite src r v) s = .next (frConfigWrite r.val v g))) ∧
  (∀ s : State, busOpen s .spi = true →
    exec .hostFailsafeWrst s = .next (warmStart 4 (s.granted .spi)) ∧
    (s.flt.f3 = false → exec .hostFailsafeFence s = .next (relevel ((s.granted .spi).setFld HOST_FAILSAFE.FENCE 1))))

/-- Writes that select a snapshot, acknowledge, lock or restart (R445, R484, R485, R498, R514, R518, R519): each, granted, has its effect. -/
def Obligations.ActingRegistersOfTheServicesAct : Prop :=
  ∀ (src : Src) (s : State), busOpen s src = true →
    let g := s.granted src
    (∀ v : Nat, exec (.pathSnapshot src v) s = .next (pathSnapshot v g) ∧ exec (.keySlotSnapshot src v) s = .next (keySnapshot v g) ∧
      exec (.fltHistSnapshot src v) s = .next (fltHistSnapshot v g)) ∧
    (∀ v : Nat, exec (.fltAck src v) s =
      .next ((List.range 15).foldl (fun u i => if bit v (i + 1) then handleGroup (i + 1) u else u) g)) ∧
    (∀ v : Nat, bit v 0 = true → exec (.fltFirstClear src v) s = .next { g with flt := { g.flt with first := none } }) ∧
    (∀ v : Nat, bit v 0 = true → s.sup.restartAt = none → triadRun s = true → exec (.supRestart src v) s = .next (supRestart true g)) ∧
    (src ≠ .spi → s.keys.lock = none → exec (.cryLockTake src) s = .next { g with keys := { g.keys with lock := some (src, s.lt) } }) ∧
    (∀ t : Nat, s.keys.lock = some (src, t) →
      exec (.cryLockRelease src) s = .next { g with keys := { g.keys with lock := none, ctx := none } }) ∧
    (∀ (h : HostId) (m : Nat), exec (.transomLock src h m) s = .next (lockStart h.val (m % 65536) g) ∧
      exec (.transomUnlock src h) s = .next (lockEnd h.val g))

/-- Accesses through a window, and requests of other devices (R476 to R483): here they are performed and answered, elsewhere they are sent, answered,
repeated, or given up. -/
def Obligations.TransomAccessesReachTheirTargets : Prop :=
  (∀ (h : HostId) (off : Nat) (cover : List Bool) (rd : Bytes) (e : Bool) (s : State), barOpen s h = true →
    let n := off / 2 ^ 26 % 16
    let r := windowReq s h.val n (off % 2 ^ 26) false cover []
    s.flag (TRN_WIN_CFG.VALID h.val n) = true → issueCause s h.val n r = 0 →
    (windowHere s h.val n = true → busAnswer s r (ownAddr s) = some false →
      exec (.transomRead h off cover rd e) s =
        .next (readEnd h (perform (hostSrc h) r rd e s).1 (perform (hostSrc h) r rd e s).2.1 (perform (hostSrc h) r rd e s).2.2)) ∧
    (windowHere s h.val n = false → channelOpen s h.val = true → exec (.transomRead h off cover rd e) s = .next (sendReq h.val n 0 r s))) ∧
  (∀ (h : HostId) (off : Nat) (cover : List Bool) (d : Bytes) (e : Bool) (s : State), barOpen s h = true →
    let n := off / 2 ^ 26 % 16
    let r := windowReq s h.val n (off % 2 ^ 26) true cover d
    let tag := s.fld (TRN_WIN_STATUS.NEXT_TAG h.val n)
    s.flag (TRN_WIN_CFG.VALID h.val n) = true → (s.flag (TRN_WIN_STATUS.ERR h.val n) = false ∨ s.flag (TRN_WIN_CFG.FENCE_EN h.val n) = false) →
    issueCause s h.val n r = 0 →
    (windowHere s h.val n = true → busAnswer s r (ownAddr s) = some false →
      let x := perform (hostSrc h) r [] e (takeTag h.val n s)
      exec (.transomWrite h off cover d e) s = .next (if x.1 = 0 then x.2.2 else postedFail h.val n tag x.1 x.2.2)) ∧
    (windowHere s h.val n = false → channelOpen s h.val = true →
      exec (.transomWrite h off cover d e) s = .next (sendReq h.val n tag r (takeTag h.val n s)))) ∧
  (∀ (h : HostId) (off : Nat) (cover : List Bool) (d : Bytes) (e : Bool) (s : State), barOpen s h = true →
    let n := off / 2 ^ 26 % 16
    s.flag (TRN_WIN_CFG.VALID h.val n) = true → s.flag (TRN_WIN_STATUS.ERR h.val n) = true → s.flag (TRN_WIN_CFG.FENCE_EN h.val n) = true →
    exec (.transomWrite h off cover d e) s = .next (s.bump (TRN_FENCED h.val))) ∧
  (∀ (p : Port) (host tag cause : Nat) (d : Bytes) (o : TrnOut) (s : State), fabIn s p.val = true → hasAddr s = true → outOf s host tag = some o →
    exec (.transomAnswer p (ownAddr s) host tag cause d) s = .next (reqEnd o cause d s)) ∧
  (∀ (h : HostId) (o : TrnOut) (s : State),
    s.trn.outs.find? (fun o => decide (o.req.host = h.val) && decide (o.sent + 1000000 ≤ s.lt)) = some o →
    (o.again < 3 →
      let up (x : TrnOut) : TrnOut := if x.req.host = h.val && x.req.tag = o.req.tag then { x with sent := s.lt, again := x.again + 1 } else x
      exec (.transomRetransmit h) s = .next (sendTo o.device (.transom (.request { o.req with
        prev := lastTag (s.trn.outs.takeWhile (fun x => !(decide (x.req.host = h.val) && decide (x.req.tag = o.req.tag)))) h.val o.device }))
        ((s.modTrn (fun t => { t with outs := t.outs.map up })).bump (TRN_RETRANSMIT h.val)))) ∧
    (3 ≤ o.again → exec (.transomRetransmit h) s = .next (reqEnd o 1 [] s))) ∧
  (∀ (h : HostId) (tag : Nat) (o : TrnOut) (s : State), outOf s h.val tag = some o → o.req.write = false →
    o.start + s.fld TRN_CTRL.TIMEOUT * 1000 ≤ s.lt → exec (.transomReadTimeout h tag) s = .next (reqEnd o 1 [] s)) ∧
  (∀ (p : Port) (r : TrnReq) (rd : Bytes) (e : Bool) (s : State), fabIn s p.val = true → hasAddr s = true →
    (keptOf s r).find? (fun k => k.1 = r.tag) = none → (∀ t, r.prev = some t → ∃ k ∈ keptOf s r, k.1 = t) →
    (farDenied s r = true → exec (.transomFarRequest p (ownAddr s) r rd e) s = .next (answerReq r 2 [] s)) ∧
    (farDenied s r = false → busAnswer s r r.src = some false →
      let x := perform .fw r rd e s
      exec (.transomFarRequest p (ownAddr s) r rd e) s = .next (answerReq r x.1 x.2.1 x.2.2)))

/-- Locks of buses and the sideband (R482, R484 to R486, R489): requests for a bus are granted or wait, sequences go on, back off, break and end; a polled
value that changes is reported here and at the device to notify. -/
def Obligations.TransomLocksAndSidebandRun : Prop :=
  (∀ (p : Port) (s : State), fabIn s p.val = true → hasAddr s = true →
    (∀ src host bus : Nat, bus < 5 → exec (.transomLockRequest p (ownAddr s) (.lock src host bus)) s = .next (seqGo (lockAt bus src host s))) ∧
    (∀ dev host bus : Nat, exec (.transomLockRequest p (ownAddr s) (.granted dev host bus)) s = .next (grantIn host (dev, bus) s)) ∧
    (∀ src host bus : Nat, exec (.transomLockRequest p (ownAddr s) (.unlock src host bus)) s =
      .next (seqGo (dropLock src host (ownAddr s, bus) s))) ∧
    (∀ dev host bus : Nat, exec (.transomLockRequest p (ownAddr s) (.broken dev host bus)) s = .next (seqBroken host (dev, bus) s)) ∧
    (∀ (dev host bus : Nat) (q : LockSeq), seqOf s host = some q → q.asked = some (dev, bus) → q.held.contains (dev, bus) = false →
      exec (.transomLockRequest p (ownAddr s) (.retry dev host bus)) s = .next (seqYield host s))) ∧
  (∀ (h : HostId) (q : LockSeq) (t : Nat) (s : State), seqOf s h.val = some q → q.backoff = some t → t ≤ s.lt →
    exec (.transomLockBackoff h) s =
      .next (seqAsk h.val 3 (s.modTrn (fun x => { x with seqs := kput x.seqs h.val { q with backoff := none, asked := none } })))) ∧
  (∀ (bus : Fin 5) (l : BusLock) (s : State), kget s.trn.locks bus.val = some l → l.dev ≠ ownAddr s →
    l.at_ + s.fld TRN_CTRL.LOCK_MAX * 10000 ≤ s.lt →
    exec (.transomLockExpiry bus) s = .next (seqGo (freeBus bus.val (sendTo l.dev (.transom (.broken (ownAddr s) l.host bus.val)) s)))) ∧
  (∀ (e : Fin 16) (value w : Nat) (s : State), s.pwr.state = 0 → s.flag (TRN_POLL0.VALID e.val) = true → s.flag (TRN_POLL0.KIND e.val) = true →
    (kget s.trn.polled e.val = none ∨ ∃ t, kget s.trn.polled e.val = some t ∧ t + s.fld (TRN_POLL0.INTERVAL e.val) * 10000 ≤ s.lt) →
    kget s.trn.refs e.val = some w → (value % 2) &&& s.fld (TRN_POLL2.MASK e.val) ≠ w &&& s.fld (TRN_POLL2.MASK e.val) →
    let u := (s.modTrn (fun t => { t with polled := kput t.polled e.val s.lt })).setFld (TRN_POLL3.LAST e.val) (value % 2)
    let v := raise 0x0B02 0 (evPay [(16, 1, e.val), (17, 1, ownAddr (u.modTrn (fun t => { t with refs := kput t.refs e.val (value % 2) }))),
      (20, 4, value % 2)]) (u.modTrn (fun t => { t with refs := kput t.refs e.val (value % 2) }))
    exec (.sidebandPoll e value) s = .next (if v.flag (TRN_POLL0.NOTIFY_EN e.val) && hasAddr v && decide (v.fld (TRN_POLL0.NOTIFY_DEV e.val) ≠ ownAddr v)
      then sendTo (v.fld (TRN_POLL0.NOTIFY_DEV e.val)) (.transom (.sideband (ownAddr v) e.val (value % 2))) v else v)) ∧
  (∀ (p : Port) (src entry value : Nat) (s : State), fabIn s p.val = true → hasAddr s = true →
    exec (.sidebandNotifyReceived p (ownAddr s) src entry value) s = .next (raise 0x0B02 0 (evPay [(16, 1, entry), (17, 1, src), (20, 4, value)]) s)) ∧
  (∀ (c : CmdCtx) (h : HostId) (qs : Nat) (s : State), mayRun c 0x0B01 s → c.who = .host h qs → plenIs c 8 = true → byteAt c.par 0 ≤ 15 →
    parZero c 1 8 = true →
    let u := markStarted c 0x0B01 s
    exec (.transomClearErr c) s = .next (complete c 0x0B01 stOk [] (if u.flag (TRN_WIN_STATUS.ERR h.val (byteAt c.par 0))
      then handleIf 0x0B01 (windowClear h.val (byteAt c.par 0) u) else u)))

/-- The table commands (R181, R182, R184, R187 to R190): with a correct header each serves the learn queues of its quadrants first, acts on their entries,
and completes with what it found or did. -/
def Obligations.TableCommandsActOnTheirQuadrants : Prop :=
  ∀ (c : CmdCtx) (s : State), tblHeaderOk c = true →
    (∀ q, mayRun c 0x0201 s → tblQuads c = [q] →
      let u := drainLearn q (markStarted c 0x0201 s)
      exec (.tblSearch c) s = .next (complete c 0x0201 stOk (tblSearchReply (u.tab q) (tblTable c) (tblWord c)) u)) ∧
    (∀ q, mayRun c 0x0202 s → tblQuads c = [q] → 32 ≤ c.rlen → parZero c 12 24 = true → leAt c.par 8 4 = 0 →
      let u := drainLearn q (markStarted c 0x0202 s)
      rehashing (u.tab q) = false →
      let rest := (tblEntries (u.tab q) (tblTable c)).filter (fun e => cursorPos 0 ≤ e.1)
      let n := min 256 ((c.rlen - 8) / 24)
      let now := rest.take n
      let next := match now.getLast?, rest.drop n with
        | some l, _ :: _ => posCursor (tblTable c) (u.tab q).gen (l.1 + 1)
        | _, _ => 0xFFFFFFFF
      exec (.tblNext c) s = .next (complete c 0x0202 stOk (toLe 4 now.length ++ toLe 4 next ++ now.flatMap (·.2)) u)) ∧
    (tblWord c &&& entryReserved (tblTable c) = 0 → entryFieldsOk (tblTable c) (tblWord c) = true → tblTable c ≠ 1 → tblTable c ≠ 2 →
      (mayRun c 0x0203 s →
        let u := (tblQuads c).foldl (fun v q => drainLearn q v) (markStarted c 0x0203 s)
        (tblTable c = 0 → touchesOwned u (tblQuads c) (tblWord c) = false) →
        let r := tblWriteAll (tblTable c) (tblWord c) false (tblQuads c) u
        exec (.tblInsert c) s = .next (complete c 0x0203 (if r.2.2 = 0 then stOk else stState) [byte r.2.1, byte r.2.2, 0, 0] r.1)) ∧
      (mayRun c 0x0207 s → tblTable c = 0 →
        let u := (tblQuads c).foldl (fun v q => drainLearn q v) (markStarted c 0x0207 s)
        touchesOwned u (tblQuads c) (tblWord c) = false →
        let r := tblWriteAll 0 (tblWord c) true (tblQuads c) u
        exec (.tblPin c) s = .next (complete c 0x0207 (if r.2.2 = 0 then stOk else stState) [byte r.2.1, byte r.2.2, 0, 0] r.1))) ∧
    (mayRun c 0x0204 s → 3 ≤ tblTable c →
      let r := tblRemoveAll (tblTable c) (tblWord c) (tblQuads c) ((tblQuads c).foldl (fun v q => drainLearn q v) (markStarted c 0x0204 s))
      exec (.tblDelete c) s = .next (complete c 0x0204 stOk [byte r.2, 0, 0, 0] r.1)) ∧
    (mayRun c 0x0205 s → tblTable c = 0 → byteAt c.par 8 ≤ 75 → byteAt c.par 10 < 4 → parZero c 11 24 = true →
      let u := (tblQuads c).foldl (fun v q => drainLearn q v) (markStarted c 0x0205 s)
      let keep (e : Nat × L2Entry) : Bool := !flushes (byteAt c.par 8) (byteAt c.par 9) (bit (byteAt c.par 10) 0) (bit (byteAt c.par 10) 1) e.2
      let size (v : State) (q : Nat) : Nat := (v.tab q).serve.length + (v.tab q).target.length
      let w := (tblQuads c).foldl (fun v q => v.modTab q (fun t => { t with serve := t.serve.filter keep, target := t.target.filter keep })) u
      exec (.tblFlushPort c) s = .next (complete c 0x0205 stOk ((List.range 4).flatMap (fun q => toLe 4 (size u q - size w q))) w)) ∧
    (mayRun c 0x0206 s → parZero c 12 24 = true →
      let u := markStarted c 0x0206 s
      (tblQuads c).any (rehashBlocked u) = false → (tblQuads c).any (fun q => rehashing (u.tab q)) = false →
      exec (.tblRehash c) s = .next (complete c 0x0206 stAccepted [] ((tblQuads c).foldl (fun v q => rehashStart (leAt c.par 8 4) q v) u)))

/-- What the table engines do by themselves (R177, R179, R180, R184; the flips keep R610's spacing of stop windows): one learn request at a time, the two ends of a rehash, the rake's next group, and the
end of the interval of station moves. -/
def Obligations.TableEnginesWorkByThemselves : Prop :=
  (∀ (q : Quad) (r : LearnReq) (l : List LearnReq) (s : State), (s.tab q.val).queue = r :: l →
    exec (.learnRequest q) s = .next (learn q.val r (s.modTab q.val (fun t => { t with queue := l })))) ∧
  (∀ (q : Quad) (seed : Nat) (s : State), let t := s.tab q.val
    t.rehash = .check seed →
    (rehashFits seed t.serve = true → stopFree s = true →
      let x := copyInto seed ((t.serve.filter (fun e => e.2.pin)).map (·.2)) [] 0
      exec (.rehashCheckDone q) s =
        .next ((((stopBegins s).setTab q.val { t with rehash := .copy seed, target := x.1, serve := t.serve.filter (fun e => !e.2.pin) }).setReg
          (QD_L2_SEED_NEXT q.val) seed).setCtr (QD_REHASH_REMOVED q.val) (min ctrMax x.2))) ∧
    (rehashFits seed t.serve = false →
      exec (.rehashCheckDone q) s = .next (rehashDone q.val 1 0 (s.setTab q.val { t with rehash := .idle })))) ∧
  (∀ (q : Quad) (seed : Nat) (s : State), (s.tab q.val).rehash = .copy seed → stopFree s = true →
    let w := stopBegins s
    let t := w.tab q.val
    let x := copyInto seed (t.serve.map (·.2)) t.target 0
    let u := drainLearn q.val (w.setTab q.val { t with target := x.1, serve := [] })
    let y := u.tab q.val
    let v := u.setTab q.val { y with serve := y.target, target := [], rehash := .idle, gen := (y.gen + 1) % 16 }
    exec (.rehashCopyDone q) s = .next (rehashDone q.val (if x.2 = 0 then 0 else 2) x.2
      ((v.setReg (QD_L2_SEED q.val) seed).bumpBy (QD_REHASH_REMOVED q.val) x.2))) ∧
  (∀ (q : Quad) (s : State), s.pwr.state = 0 → s.flag (QD_L2_CTRL.AGE_EN q.val) = true → (s.tab q.val).rehash = .idle →
    (s.tab q.val).rakeDue ≤ (s.tab q.val).rakeRan →
    let t := s.tab q.val
    let n : QTab := { t with rakeNext := (t.rakeNext + 1) % 8256, rakeDue := t.rakeDue + s.fld (QD_RAKE_CFG.PERIOD q.val) * sec / 8256 }
    exec (.rakeVisit q true) s = .next ((s.setTab q.val n).bump (QD_RAKE_ABORT q.val)) ∧
    exec (.rakeVisit q false) s = .next ((s.setTab q.val { n with serve := rakeGroup t.rakeNext t.serve }).bumpBy (QD_RAKE_REMOVED q.val)
      (t.serve.length - (rakeGroup t.rakeNext t.serve).length))) ∧
  (∀ (q : Quad) (s : State), (s.tab q.val).moveEnd ≤ s.lt →
    let z (b : Keyed L2Entry) : Keyed L2Entry := b.map (fun e => (e.1, { e.2 with moves := 0 }))
    let t := s.tab q.val
    exec (.moveIntervalEnd q) s = .next (s.setTab q.val { t with serve := z t.serve, target := z t.target, moveEnd := (s.lt / sec + 1) * sec }))

/-- The hedge's commands and its sweeper (R214, R216 to R221): a copy of the active set under way ends first; an accepted stage puts its entries into the
shadow sets of the named quadrants, an accepted flip swaps their sets, a read answers its entries, and the pinhole operations list, close and open entries. -/
def Obligations.HedgeCommandsActOnTheirQuadrants : Prop :=
  (∀ (c : CmdCtx) (s : State),
    let u (op : Nat) := hedgeCopied (markStarted c op s)
    (mayRun c 0x0301 s → hsOk c = true →
      let put (h : HQuad) (k : Nat) : HQuad := { h with
        shadow := hsWrite (hsItem c) (hsFirst c + k) (hsEntry c k) h.shadow,
        restaged := h.errs.filter (hsAnswers (hsItem c) (hsFirst c + k)) ++ h.restaged }
      exec (.hedgeStage c) s = .next (complete c 0x0301 stOk [] ((maskList (hsQmask c) 4).foldl (fun v q =>
        (v.modHq q (fun h => (List.range (hsCount c)).foldl put h)).setFld (QD_HEDGE_STATUS.DIRTY q) 1) (u 0x0301)))) ∧
    (let m := byteAt c.par 0
     let f := byteAt c.par 1
     mayRun c 0x0302 s → plenIs c 8 = true → m ≠ 0 → m < 16 → f < 4 → parZero c 2 8 = true → flipFault hedgePairs (maskList m 4) (u 0x0302) = none →
      stopFree s = true →
      let v := hedgeFlipDo (maskList m 4) (bit f 0) (bit f 1) (stopBegins (u 0x0302))
      exec (.hedgeFlip c) s = .next (complete c 0x0302 stOk
        ([byte m, 0xFF, 0xFF, 0xFF] ++ toLe 2 (v.fld (QD_HEDGE_STATUS.ACT_GEN (nth (maskList m 4) 0))) ++ zeros 2) v)) ∧
    (∀ q : Nat, mayRun c 0x0303 s → maskList (hsQmask c) 4 = [q] → hsItem c ≤ 5 → plenIs c 16 = true → hsQmask c < 16 → byteAt c.par 6 < 2 →
      parZero c 7 16 = true → (∀ n, hrLimit (hsItem c) = some n → hsFirst c + hsCount c ≤ n) → hsCount c ≤ hsMax (hsItem c) →
      let h := (u 0x0303).hq q
      exec (.hedgeRead c) s = .next (complete c 0x0303 stOk (((List.range (hsCount c)).map (· + hsFirst c)).flatMap
        (setEntry (if byteAt c.par 6 = 1 then h.shadow else h.active) (hsItem c))) (u 0x0303))) ∧
    (mayRun c 0x0304 s → plenIs c (if byteAt c.par 0 = 3 then 64 else 16) = true → parZero c 1 2 = true → parZero c 6 16 = true →
      (byteAt c.par 0 = 0 → exec (.hedgePinholeList c) s = .next (phList c (u 0x0304))) ∧
      (byteAt c.par 0 = 1 → exec (.hedgePinholeClose c) s = .next (complete c 0x0304 stOk []
        { u 0x0304 with hedge := { (u 0x0304).hedge with holes := kdel (u 0x0304).hedge.holes (hsFirst c) } })) ∧
      (byteAt c.par 0 = 2 → exec (.hedgePinholeCloseAll c) s = .next (complete c 0x0304 stOk (toLe 4 (u 0x0304).hedge.holes.length)
        { u 0x0304 with hedge := { (u 0x0304).hedge with holes := [] } })) ∧
      (∀ i : Nat, let e := slice c.par 16 48
        let r := phInsert (phKeyOf e) (byteAt e 3 / 16) 4 0xFFFF (leAt e 6 2) (u 0x0304)
        byteAt c.par 0 = 3 → phInputOk e = true → r.2 = some i → exec (.hedgePinholeOpen c) s = .next (complete c 0x0304 stOk (toLe 4 i) r.1)))) ∧
  (∀ (q : Quad) (s : State), s.flag (QD_HEDGE_STATUS.COPYING q.val) = true →
    exec (.hedgeShadowCopyDone q) s = .next (((s.modHq q.val (fun h => { h with shadow := h.active })).setFld
      (QD_HEDGE_STATUS.COPYING q.val) 0).setFld (QD_HEDGE_STATUS.DIRTY q.val) 0)) ∧
  (∀ (hit : List Nat) (s : State), s.hedge.sweepDue ≤ s.lt →
    let dec (e : Nat × Pinhole) : Option (Nat × Pinhole) :=
      if hit.contains e.1 then some e else if e.2.remain ≤ 1 then none else some (e.1, { e.2 with remain := e.2.remain - 1 })
    let holes := s.hedge.holes.filterMap dec
    exec (.pinholeSweep hit) s = .next ({ s with hedge := { s.hedge with holes := holes, sweepDue := s.hedge.sweepDue + 100000000 } }.bumpBy
      (QD_PH_EXPIRED 0) (s.hedge.holes.length - holes.length)))

/-- Changes of a timescale and the pulse outputs (R235 to R237, R241, R252 to R254): an accepted step or rate is left pending and acts at its effect
tick, an accepted programme replaces the pin's, and edges leave at their times. -/
def Obligations.TimescalesChangeAndPulsesLeave : Prop :=
  (∀ (c : CmdCtx) (s : State), let d := byteAt c.par 0
    (let u := markStarted c 0x0401 s
     mayRun c 0x0401 s → timeStepParamOk u c = true → servoOk u c d = true → (u.dom d).stepArmed = true →
      let v := u.setDom d { u.dom d with stepArmed := false, set := true }
      exec (.timeStep c) s = .next { v with time := { v.time with pend := v.time.pend ++
        [{ dom := d, start := u.lt, cmd := c, change := .step (byteAt c.par 1) (leAt c.par 8 6 * sec + leAt c.par 4 4) }] } }) ∧
    (let u := markStarted c 0x0402 s
     mayRun c 0x0402 s → timeRateParamOk c = true → servoOk u c d = true →
      let adj := if byteAt c.par 1 = 1 then some (toSigned 32 (leAt c.par 8 4), leAt c.par 12 4) else none
      exec (.timeRate c) s = .next { u with time := { u.time with pend := u.time.pend ++
        [{ dom := d, start := u.lt, cmd := c, change := .rate (toSigned 32 (leAt c.par 4 4)) adj }] } }) ∧
    (let u := markStarted c 0x0403 s
     let dom := byteAt c.par 2
     let start := leAt c.par 8 6 * sec + leAt c.par 4 4
     let period := leAt c.par 16 4
     mayRun c 0x0403 s → pulseParamOk c = true → (byteAt c.par 1 = 1 → u.scale dom + 1000 ≤ start) →
      let g : PulseProg := { periodic := decide (byteAt c.par 1 = 2), dom := dom, start := start, period := period, width := leAt c.par 20 4,
                             count := leAt c.par 24 4, k := if byteAt c.par 1 = 2 then firstK start period (u.scale dom) else 0 }
      let prog := if byteAt c.par 1 = 0 || progDone g then none else some g
      exec (.timePulseArm c) s = .next (complete c 0x0403 stOk [] (u.setOutPin d { u.outPin d with prog := prog })))) ∧
  (∀ (d : Fin 2) (p : TimePend) (s : State), duePend s d.val = some p →
    (∀ a b, p.change = .step a b → exec (.timeEffectTick d) s = .next (gateOverruns d.val (timeEffect d.val s))) ∧
    (∀ a b, p.change = .rate a b → exec (.timeEffectTick d) s = .next (timeEffect d.val s))) ∧
  (∀ (d : Fin 2) (a : AdjSt) (s : State), (s.dom d.val).adj = some a → a.endLt ≤ s.lt →
    let t := s.setDom d.val { closeStretch s.lt (s.dom d.val) with adj := none }
    (a.cut = false → exec (.timeAdjEnd d) s = .next (raise 0x0403 0 (evPay [(16, 1, d.val), (20, 8, ofSigned 64 (adjPhase a (s.dom d.val).rate))]) t)) ∧
    (a.cut = true → exec (.timeAdjEnd d) s = .next t)) ∧
  (∀ (pin : Fin 4) (g : PulseProg) (s : State), (s.outPin pin.val).prog = some g → s.time.running = true → progDone g = false →
    nextEdge g ≤ s.scale g.dom →
    let next : Option PulseProg := some { g with k := g.k + 1 }
    ((s.outPin pin.val).active = false → exec (.pulseLeadingEdge pin) s = .next ((s.setOutPin pin.val
      { prog := next, active := true, trail := some (g.dom, nextEdge g + g.width) }).emit (.pulse pin.val (timeOutLevel s pin.val true)))) ∧
    ((s.outPin pin.val).active = true → exec (.pulseLeadingEdge pin) s = .next (s.setOutPin pin.val { s.outPin pin.val with prog := next }))) ∧
  (∀ (pin : Fin 4) (d t : Nat) (s : State), (s.outPin pin.val).trail = some (d, t) → s.time.running = true → t ≤ s.scale d →
    let rest := (s.outPin pin.val).prog.bind (fun g => if progDone g then none else some g)
    exec (.pulseTrailingEdge pin) s = .next ((s.setOutPin pin.val { prog := rest, active := false, trail := none }).emit (.pulse pin.val (timeOutLevel s pin.val false))))

/-- Captures on the time input pins (R256, R257): a level shorter than the filter time is a glitch; a chosen edge is the pin's last capture, waits for its event while fewer than eight wait, and is counted
lost otherwise; the event of a pin tells losses first and then the oldest capture. -/
def Obligations.CapturesWaitForTheirEvents : Prop :=
  (∀ (pin : Fin 4) (falling late : Bool) (held : Nat) (s : State), let n := pin.val
    s.time.running = true → edgeChosen (s.fld (TIME_IN_CFG.EDGE n)) falling = true →
    (held < s.fld (TIME_IN_CFG.FILTER n) * 10 → exec (.timeInCapture pin falling late held) s = .next s) ∧
    (s.fld (TIME_IN_CFG.FILTER n) * 10 ≤ held →
    let d := s.fld (TIME_IN_CFG.DOM n)
    let c : Capture := { dom := d, time := stampOn (s.latched (s.lt + b2n late - s.fld (TIME_IN_CFG.FILTER n) * 10)) d, falling := falling }
    let p := s.inPin n
    (s.flag (TIME_IN_CFG.EV_EN n) = false → exec (.timeInCapture pin falling late held) s = .next (s.setInPin n { p with last := some c })) ∧
    (s.flag (TIME_IN_CFG.EV_EN n) = true → p.queue.length < 8 →
      exec (.timeInCapture pin falling late held) s = .next (s.setInPin n { p with last := some c, queue := p.queue ++ [c] })) ∧
    (s.flag (TIME_IN_CFG.EV_EN n) = true → 8 ≤ p.queue.length → exec (.timeInCapture pin falling late held) s =
      .next ((s.setInPin n { p with last := some c, lost := p.lost + 1 }).setFld (TIME_IN_STATUS.OVF n) 1)))) ∧
  (∀ (pin : Fin 4) (s : State), let n := pin.val
    let p := s.inPin n
    (p.lost ≠ 0 → exec (.timeCaptureEvent pin) s = .next (raise 0x0404 0 (evPay [(16, 1, n), (20, 4, p.lost)]) (s.setInPin n { p with lost := 0 }))) ∧
    (∀ (c : Capture) (r : List Capture), p.lost = 0 → p.queue = c :: r → exec (.timeCaptureEvent pin) s = .next (raiseAt 0x0401 0
      (evPay [(16, 1, n), (17, 1, c.dom + 4 * b2n c.falling), (18, 2, secOf c.time / 2 ^ 32)]) c.time (s.setInPin n { p with queue := r }))))

/-- The schedules of the ports (R273, R278, R280, R283, R285 to R290): a command of group 0x05 starts, or waits while a flip of its port is pending,
where a second flip is refused; a flip acts at its time, the copy of its set ends, gates follow the entry in force, and a verification ends in one of its two results. -/
def Obligations.SchedulesAreStagedFlippedAndFollowed : Prop :=
  (∀ (c : CmdCtx) (s : State),
    let wait (op : Nat) (u : State) : State := { u with egr := { u.egr with waiting := u.egr.waiting ++ [(op, c)] } }
    (let u := markStarted c 0x0501 s
     let put (x : ESet) (k : Nat) : ESet := shWrite (shItem c) (shFirst c + k) (shEntry c k) x
     mayRun c 0x0501 s →
      (flipPending (u.eport (shPort c)) = false → shOk u c = true → exec (.shutterStage c) s = .next (complete c 0x0501 stOk []
        (u.modEport (shPort c) (fun e => { e with shadow := (List.range (shCount c)).foldl put e.shadow })))) ∧
      (flipPending (u.eport (shPort c)) = true → exec (.shutterStage c) s = .next (wait 0x0501 u))) ∧
    (let u := markStarted c 0x0502 s
     let p := byteAt c.par 0
     let change := leAt c.par 8 6 * sec + leAt c.par 4 4
     mayRun c 0x0502 s →
      plenIs c 16 = true → p ≤ 75 → parZero c 1 4 = true → parZero c 14 16 = true → change ≤ u.scale (flipDom (u.eport p)) + 10 * sec →
      (flipPending (u.eport p) = false → recheck u p (u.eport p).shadow = none →
        exec (.shutterFlip c) s = .next (fixFlip p change (some c) (engineRun u))) ∧
      (∀ h, flipPending (u.eport p) = false → recheck u p (u.eport p).shadow = some h →
        exec (.shutterFlip c) s = .next (complete c 0x0502 stState (zeros 14 ++ toLe 2 h) (engineRun u))) ∧
      (flipPending (u.eport p) = true → exec (.shutterFlip c) s = .next (complete c 0x0502 stState (zeros 14 ++ toLe 2 0xFFFF) u))) ∧
    (let u := markStarted c 0x0503 s
     let p := shPort c
     let x := if byteAt c.par 6 = 1 then (u.eport p).shadow else (u.eport p).active
     let is := (List.range (shCount c)).map (· + shFirst c)
     mayRun c 0x0503 s →
      (flipPending (u.eport p) = false → plenIs c 16 = true → p ≤ 75 → byteAt c.par 6 < 2 → parZero c 7 16 = true →
        (shItem c = 3 → shFirst c + shCount c ≤ 8 → exec (.shutterRead c) s =
          .next (complete c 0x0503 stOk (is.flatMap (fun i => shaperBytes u p i (waits u p i))) u)) ∧
        (shItem c < 3 → shFirst c + shCount c ≤ shLimit (shItem c) → shCount c ≤ shMax (shItem c) → exec (.shutterRead c) s =
          .next (complete c 0x0503 stOk (is.flatMap (fun i => shBytes x p (shItem c) i)) u))) ∧
      (flipPending (u.eport p) = true → exec (.shutterRead c) s = .next (wait 0x0503 u)))) ∧
  (∀ (p : Port) (s : State), flipDue s p.val = true →
    exec (.shutterFlipTime p) s = .next (fnFlipped p.val (preemptLost (preemptActive s p.val) p.val (flipNow p.val waits s)))) ∧
  (∀ (p : Port) (s : State), (s.eport p.val).copying = true →
    let u := s.modEport p.val (fun e => { e with shadow := e.active, copying := false })
    exec (.shutterShadowCopyDone p) s = .next (s.egr.waiting.foldl (fun v x => shutterStart recheck waits x.1 x.2 v)
      { u with egr := { u.egr with waiting := [] } })) ∧
  (∀ (p : Port) (s : State), s.pwr.state < 3 →
    let v := if gatesNow s p.val = (s.eport p.val).gates then s else settlePort p.val s
    let u := v.modEport p.val (fun e => { e with gates := gatesAt e.active (s.scale e.active.dom),
                                                 hold := holdNext e.hold (opAt e.active (s.scale e.active.dom)) })
    exec (.gateEntryChange p) s = .next (parkEnter p.val (portEmpty u p.val) u)) ∧
  (∀ (p : Port) (s : State), (s.eport p.val).verify = 1 →
    exec (.preemptVerifyResult p true) s = .next (s.modEport p.val (fun e => { e with verify := 2 })) ∧
    exec (.preemptVerifyResult p false) s = .next (tellPreempt p.val (s.modEport p.val (fun e => { e with verify := 3 }))))

/-- Pauses, the energy bucket, lane parking, histograms and the sensors (R293 to R295, R300 to R302, R575). -/
def Obligations.PausesEnergyLanesAndSensorsRun : Prop :=
  (∀ (p : Port) (enable : Nat) (quanta : List Nat) (s : State), pfcPort p.val = true →
    exec (.pfcReceived p enable quanta) s = .next (((maskList enable 5).foldl (fun u c => pauseClass p.val c (nth quanta c % 65536) u)
      (s.bump (EGR_PAUSE_RCVD p.val))).bumpBy (EGR_PAUSE_IGNORED p.val) (((List.range 3).filter (fun i => bit enable (i + 5))).length))) ∧
  (∀ (p : Port) (c : Fin 5) (t : Nat) (s : State), kget (s.eport p.val).paused c.val = some t → t ≤ s.lt →
    exec (.pfcPauseExpiry p c) s = .next (s.modEport p.val (fun e =>
      { e with paused := kdel e.paused c.val, pausedAt := kdel e.pausedAt c.val, stuck := e.stuck.filter (· ≠ c.val) }))) ∧
  (∀ (p : Port) (c : Fin 5) (t : Nat) (s : State), kget (s.eport p.val).pausedAt c.val = some t → t + 100000000 ≤ s.lt →
    isPaused s p.val c.val = true → (s.eport p.val).stuck.contains c.val = false →
    let drop := s.flag (EGR_PORT_CTRL.PFC_WD_DROP p.val)
    let u := raise 0x0503 0 (evPay [(16, 1, p.val), (17, 1, c.val), (18, 1, b2n drop)])
      (s.modEport p.val (fun e => { e with stuck := c.val :: e.stuck }))
    exec (.pfcPauseStuck p c) s = .next (if drop then (flushQueue p.val c.val false u).modEport p.val (fun e =>
      { e with ignore := kput e.ignore c.val u.lt }) else u)) ∧
  (∀ (p : Port) (s : State), pfcPort p.val = true → largeFabric s = true → s.flag (EGR_PORT_CTRL.PFC_EN p.val) = true → portUp s p.val = true →
    let e := s.eport p.val
    let due := (List.range 5).filter (fun c => bit e.pfcOut c && decide (kgetD e.pfcAt c 0 + txTime (s.lineRate p.val) (32768 * 64) ≤ s.lt))
    exec (.pfcRefresh p) s = .next (sendPfc p.val (listMask due) true s)) ∧
  (∀ (t : Nat) (s : State), let u := settleEnergy s
    u.egr.emptySince = some t → u.flag EGR_CTRL.ENERGY_EN = true → t + 10000000 ≤ u.lt → u.egr.emptyTold = false →
    (∀ l, u.egr.emptyLast = some l → l + sec ≤ u.lt) →
    exec .energyEmpty s = .next (raise 0x0504 0 (evPay [(20, 4, ofSigned 32 (u.egr.energy / 1000))])
      { u with egr := { u.egr with emptyTold := true, emptyLast := some u.lt } })) ∧
  (∀ (p : Port) (s : State), (s.eport p.val).park = 1 ∨ (s.eport p.val).park = 2 →
    (tc56Opens s p.val ≤ wakeLead s p.val ∨ ∃ t, (s.eport p.val).beFirst = some t ∧ t + beWaitMax s p.val ≤ s.lt) →
    exec (.laneWakeTimer p) s = .next (parkWake p.val s)) ∧
  (∀ (p : Port) (s : State), (s.eport p.val).park = 3 → (s.eport p.val).readyAt ≤ s.lt →
    let u := s.modEport p.val (fun e => { e with park := 0, beFirst := none })
    exec (.laneReady p) s = .next (parkEnter p.val (portEmpty u p.val) u)) ∧
  (∀ s : State, s.pwr.state ≤ 2 → s.egr.histDue ≤ s.lt →
    let bins := (List.range 608).foldl (fun m k => sampleQueue s m k (queueBytes s (k / 8) (k % 8)) (headAge s (k / 8) (k % 8))) s.egr.bins
    exec .histogramSample s = .next { s with egr := { s.egr with bins := bins, histDue := s.egr.histDue + max 1 (s.fld EGR_HIST_CFG.SAMPLE) * 1000 } }) ∧
  (∀ (q0 q1 q2 q3 centre : Nat) (s : State), s.pwr.state ≤ 2 → s.lt % 100000 = 0 →
    let l := [q0, q1, q2, q3, centre]
    let u := l.zipIdx.foldl (fun v e => v.setFld (PWR_TJ.TJ e.2) (e.1 % 65536)) s
    let v := hotCheck l (if u.flag EGR_CTRL.THERM_EN then
      (List.range 4).foldl (fun w q => setHeadroom q (headroomOf w (l.getD q 0)) w) u else u)
    (∀ e ∈ l.zipIdx, ¬ (280 ≤ halfDeg e.1 ∧ 280 ≤ halfDeg (s.fld (PWR_TJ.TJ e.2)))) → exec (.thermalSensorRead q0 q1 q2 q3 centre) s = .next v)

/-- The admission commands at the ingress device (R310, R313, R314, R316, R338, R340, R341): a request takes its handle and asks for paths, or runs its
own hop where every destination is local; a Tentative stream is committed; a stream is withdrawn; its state is answered; a path is set anew. -/
def Obligations.AdmissionCommandsActOnTheirStream : Prop :=
  ∀ (c : CmdCtx) (s : State),
    (let u := markStarted c 0x0601 s
     let h := contractHandle c.par
     mayRun c 0x0601 s → plenIs c 64 = true → contractOk u c.par = true → hopClosed u = none → khas u.streams h = false →
      let x : Stream := { contract := c.par, phase := .asking, ingress := true, cmd := some (0x0601, c), since := u.lt,
                          deadline := u.lt + u.fld ADM_TIMERS.ADM_TIMEOUT * 1000000 }
      let v := (u.bump ADM_REQ_CNT).putStream h x
      ((remoteDests c.par (ownAddr v)).isEmpty = true → hasAddr v = true → exec (.admitRequest c) s = .next (ingressHop h [] v)) ∧
      ((remoteDests c.par (ownAddr v)).isEmpty = false ∨ hasAddr v = false → exec (.admitRequest c) s = .next (askPaths h c.par v))) ∧
    (∀ x : Stream, let u := markStarted c 0x0602 s
     mayRun c 0x0602 s → plenIs c 8 = true → parZero c 2 8 = true → u.stream (cmdHandle c) = some x → x.ingress = true → x.phase = .tentative →
      let acks := (x.paths.zipIdx).flatMap (fun p => p.1.hops.map (fun k => (p.2, k.1)))
      let v := u.putStream (cmdHandle c) { x with
        phase := .committing, cmd := some (0x0602, c), acks := acks, deadline := u.lt + u.fld ADM_TIMERS.ADM_TIMEOUT * 1000000 }
      (acks = [] → exec (.admitCommit c) s = .next (commitDone (cmdHandle c) v)) ∧
      (acks ≠ [] → exec (.admitCommit c) s = .next ((x.paths.zipIdx).foldl (fun w p =>
        sendAdm p.1.first (.commit (cmdHandle c) p.2 (commitEpoch w (cmdHandle c)) 0) w) v))) ∧
    (∀ x : Stream, let u := markStarted c 0x0603 s
     mayRun c 0x0603 s → plenIs c 8 = true → parZero c 2 8 = true → u.stream (cmdHandle c) = some x → x.ingress = true →
      let v := (u.putStream (cmdHandle c) { x with phase := .withdrawing, cmd := some (0x0603, c), deadline := u.lt + x.stated }).modTab
        (homeQuad x.inPort) (fun t => sidDropHandle t (cmdHandle c))
      (x.phase = .tentative → exec (.admitWithdraw c) s = .next (withdrawDone (cmdHandle c) v)) ∧
      (x.phase = .committed → exec (.admitWithdraw c) s = .next v)) ∧
    (∀ x : Stream, let u := markStarted c 0x0604 s
     mayRun c 0x0604 s → plenIs c 8 = true → parZero c 2 8 = true → u.stream (cmdHandle c) = some x →
      exec (.admitQuery c) s = .next (complete c 0x0604 stOk (queryReply (cmdHandle c) x) u)) ∧
    (∀ image : Bytes, let u := complete c 0x0605 stAccepted [] (markStarted c 0x0605 s)
     let b := slice image 0 (leAt c.par 8 4)
     mayRun c 0x0605 s → engineHeld s = false → plenIs c 16 = true → parZero c 12 16 = true →
      exec (.admitImage c (some image)) s = .next (applyAdmImage b u)) ∧
    (∀ x : Stream, let u := markStarted c 0x0701 s
     let r := pathSetRec c
     mayRun c 0x0701 s → plenIs c 40 = true → pathSetOk c = true → u.stream (cmdHandle c) = some x →
     isDest u x (byteAt c.par 2) ((r.hops.getLast?).getD (0, 0)) = true → x.ingress = true → x.phase = .committed → x.rerun = none →
     (byteAt c.par 2 = 1 → x.protect = true) →
      exec (.pathSet c) s = .next (startRerun (some (0x0701, c)) (cmdHandle c) (byteAt c.par 2) r u))

/-- What reaches a stream at a hop, and what its timers do (R121, R310, R313 to R316): a message of the admission protocol has its effect, an unanswered
request times out, a Tentative state lapses, a withdrawn stream that has drained is freed, and the discards of an interval are told;
the admission image that waits for such an end goes on (R338). -/
def Obligations.StreamsFollowMessagesAndTimers : Prop :=
  (∀ (p : Port) (s : State), dfpOn s = true → s.fabricPort p.val = true → portUp s p.val = true →
    (∀ c len path r hop up low rerun, exec (.admitMessage p (.request c len path r hop up low rerun)) s =
      .next (admRequestIn p.val c len path r hop up low rerun s)) ∧
    (∀ h path v d q st a b k, exec (.admitMessage p (.verdict h path v d q st a b k)) s = .next (admGo (admVerdictIn h path v d q st a b k s))) ∧
    (∀ h path e n, exec (.admitMessage p (.commit h path e n)) s = .next (admCommitIn p.val h path e n s)) ∧
    (∀ h path d ok, exec (.admitMessage p (.ack h path d ok)) s = .next (admGo (admAckIn h path d ok s))) ∧
    (∀ h path, exec (.admitMessage p (.withdraw h path)) s = .next (admWithdrawIn p.val h path s))) ∧
  (∀ (h : Nat) (x : Stream) (s : State), s.stream h = some x →
    (x.deadline ≤ s.lt →
      (x.rerun.isSome = true → exec (.admitTimeout h) s = .next (admGo (rerunRefused h vTimeout true s))) ∧
      (x.rerun = none →
        (x.phase = .requested ∨ x.phase = .asking ∧ x.ingress = true →
          exec (.admitTimeout h) s = .next (admGo (requestRefused h vTimeout 0xFF 0 0 0 0 0 true s))) ∧
        (x.phase = .asking → x.ingress = false → exec (.admitTimeout h) s = .next (freeStream h s)) ∧
        (x.phase = .committing → exec (.admitTimeout h) s = .next (admGo (commitFailed h s))))) ∧
    (let tell (v : State) : State := (raise 0x0604 0 (evPay [(16, 2, h)]) v).bump ADM_EXPIRED_CNT
     x.deadline ≤ s.lt →
      (x.phase = .tentative → exec (.rsvHoldExpiry h) s =
        .next (admGo (tell (if x.ingress then reportStream x false false true (freeStream h s) else freeStream h s)))) ∧
      (x.phase = .committed → x.ingress = false → x.hops.any (·.tent) = true → exec (.rsvHoldExpiry h) s =
        .next (tell (s.putStream h (tally s { x with hops := x.hops.filter (fun g => !g.tent) }))))) ∧
    (∀ gone : Bool, x.phase = .withdrawing → x.ingress = true → x.deadline ≤ s.lt ∨ gone = true ∧ streamGone s h = true →
      exec (.withdrawDrained h gone) s = .next (withdrawDone h s)) ∧
    (∀ t : Nat, x.quotaUntil = some t → t ≤ s.lt →
      (x.quotaCount = 0 → exec (.quotaDiscardIntervalEnd h) s = .next (s.modStream h (fun y => { y with quotaUntil := none }))) ∧
      (x.quotaCount ≠ 0 → exec (.quotaDiscardIntervalEnd h) s = .next (quotaEvent h x.quotaCount s))))

/-- How the units of a pair watch each other and hand over (R363 to R365, R367, R370). -/
def Obligations.PairUnitsWatchEachOther : Prop :=
  (∀ (c : CmdCtx) (s : State), let u := markStarted c 0x0702 s
    mayRun c 0x0702 s → plenIs c 8 = true → parZero c 0 8 = true → u.pairMode = 1 → pairRole u = 1 → u.pair.lost = false →
    (∃ hb, u.pair.peer = some hb ∧ hb.role = 3) → u.pair.ckDone ≠ 0 → u.lt ≤ u.pair.ckDone + 2 * ckptPeriod u →
    exec (.pairHandover c) s = .next (((sendCkpt (complete c 0x0702 stAccepted [] u)).emit .wakePeer).modPair
      (fun p => { p with handover := true, overlap := none }))) ∧
  (∀ (t : Nat) (s : State), s.pair.overlap = some t →
    let u := dropQueued (setRole 2 (s.modPair (fun p => { p with overlap := none })))
    exec .handoverFence s = .next (slicesGo (setAddr none u))) ∧
  (∀ s : State, pairOn s = true → s.pair.sentHb + 50000 ≤ s.lt →
    exec .heartbeatSend s = .next ((s.modPair (fun p => { p with sentHb := s.lt })).emit (.heartbeat (ownBeat s)))) ∧
  (∀ (hb : Heartbeat) (s : State), pairOn s = true →
    let u := modeClash hb ((s.modPair (fun p => { p with peer := some hb, peerUid := hb.uid, lastHb := s.lt, lost := false })).setFld
      PAIR_STATUS.PEER_SEEN 1)
    let v := if u.pair.deciding && hb.mode = u.pairMode then decideRole hb u else u
    let x := if hb.role = 2 then v.setFld PAIR_STATUS.FORCING 0 else v
    let y := if x.pair.ckSent.any (fun k => hb.seq = k.seq) then x.modPair (fun p => { p with ckDone := p.lastCkpt }) else x
    exec (.heartbeatReceived hb) s = .next (fencedActive hb (handoverReady hb y))) ∧
  (∀ s : State, pairOn s = true → s.pair.lost = false → lostAt s ≤ s.lt → (s.pairMode = 0 → s.pair.peer ≠ none) →
    let u := (s.modPair (fun p => { p with lost := true })).setFld PAIR_STATUS.PEER_SEEN 0
    (u.pair.deciding = true → exec .peerLost s = .next (decideAs 1 u)) ∧
    (u.pair.deciding = false →
      let v := peerLostEvent 0 (u.bump PAIR_HB_LOST)
      let w := v.modPair (fun p => { p with detected := v.lt })
      (pairRole v ≠ 3 → exec .peerLost s = .next v) ∧
      (pairRole v = 3 → w.pair.peerLow.isSome = true → exec .peerLost s = .next (takeover false w)) ∧
      (pairRole v = 3 → w.pair.peerLow = none → exec .peerLost s = .next (w.modPair (fun p =>
        { p with waitTill := some (w.lt + w.fld PAIR_TIMERS.FENCE_WAIT * 10000) }))))) ∧
  (∀ (t : Nat) (s : State), s.pair.waitTill = some t → t ≤ s.lt → pairRole s = 3 → exec .fenceWaitExpiry s = .next (takeover false s))

/-- The fence lines, the checkpoints and the end of a takeover (R360, R366 to R368, R370, R554, R624). -/
def Obligations.FenceLinesAndCheckpointsActOnThePair : Prop :=
  (∀ (held : Nat) (s : State), (held < fenceFilter s.dbg.straps →
      ∀ own : Bool, exec (.fenceLineLow own held) s = .next s ∧ exec (.fenceLineHigh own held) s = .next s) ∧
    (fenceFilter s.dbg.straps ≤ held → s.pair.forced = false → exec (.fenceLineLow true held) s = .next (ownLow s)) ∧
    (fenceFilter s.dbg.straps ≤ held → s.pair.peerLow = none → exec (.fenceLineLow false held) s = .next (peerLineLow s)) ∧
    (fenceFilter s.dbg.straps ≤ held → exec (.fenceLineHigh true held) s = .next (setLine s.pair.pull false s)) ∧
    (fenceFilter s.dbg.straps ≤ held → s.flag PAIR_STATUS.FORCING = false →
      exec (.fenceLineHigh false held) s = .next ((s.modPair (fun p => { p with peerLow := none })).setFld PAIR_STATUS.PEER_FENCED 0))) ∧
  (∀ s : State, pairOn s = true → pairRole s = 1 → triadRun s = true → s.pwr.state = 0 → s.pair.lastCkpt + ckptPeriod s ≤ s.lt →
    exec .checkpointSend s = .next (sendCkpt s)) ∧
  (∀ (c : Ckpt) (s : State), pairOn s = true → s.pair.deciding = false →
    (pairRole s = 2 ∨ pairRole s = 3 → exec (.checkpointReceived c 1) s = .next (ckptBad c.seq 0 s) ∧
      exec (.checkpointReceived c 2) s = .next (ckptBad c.seq 1 s)) ∧
    (pairRole s = 3 → exec (.checkpointReceived c 0) s = .next (ckptApply c s)) ∧
    (pairRole s = 2 → c.full = true → s.pwr.state = 0 → s.pwr.exit = none → let u := measureDelta 4 s
      (u.fld PWR_RESTORE.DELTA_KIB ≤ 60 → exec (.checkpointReceived c 0) s = .next (becomeCold (ckptApply c u))) ∧
      (60 < u.fld PWR_RESTORE.DELTA_KIB → exec (.checkpointReceived c 0) s = .next (ckptBad c.seq 2 u)))) ∧
  (∀ s : State, pairRole s = 4 → s.pwr.state = 0 → s.pwr.exit = none →
    let h := s.pair.handover
    let t := match s.pair.ckpt with
      | some c => restoreCkpt (if h then 1 else 2) c s
      | none => s
    let old := t.streams.map (fun e => (e.1, { e.2 with epoch := (e.2.epoch + (if h then 3 else 2)) % 4 }))
    let u := setRole 1 ((epochEvents old (writeEpochs t)).modPair (fun p => { p with ckpt := none, forwarded := true }))
    (h = true → exec .takeoverRestoreDone s = .next u) ∧
    (h = false → exec .takeoverRestoreDone s = .next (raise 0x0702 0 (evPay [(16, 1, 1), (20, 4, (u.lt - u.pair.detected) / 1000)])
      (u.modPair (fun p => { p with told := true }))))) ∧
  (∀ (t : Nat) (s : State), s.pair.peerLow = some t → s.pair.busWait = true → pairRole s = 1 → t + s.fld PAIR_BUS_FENCE.BUS_FENCE * 1000 ≤ s.lt →
    let u := s.modGw (fun g => { g with lins := g.lins.map (fun e => (e.1, { e.2 with entry := linFirst (linTable s e.1 e.2.table) })) })
    let v := u.modPair (fun p => { p with busWait := false, handover := false, told := true })
    (u.pair.handover = true → u.pair.told = false → exec .busFenceElapsed s = .next (raise 0x0702 0 (evPay [(16, 1, 1), (17, 1, 1)]) v)) ∧
    (u.pair.handover = false ∨ u.pair.told = true → exec .busFenceElapsed s = .next v))

/-- The gateway commands (R379, R381, R390, R409, R412 to R416): a copy of the active set under way ends first; an accepted stage puts its entries into
the shadow set, an accepted flip swaps the sets, reads answer entries and images, images are written and sent, and buses are switched. -/
def Obligations.GatewayCommandsActOnSetsImagesAndBuses : Prop :=
  (∀ (c : CmdCtx) (s : State),
    (let u := gwCopyEnd (markStarted c 0x0801 s)
     let item := gwItem c
     let n := gwCount c
     mayRun c 0x0801 s →
      (item < 7 → byteAt c.par 1 = 0 → parZero c 6 16 = true → gwFirst c + n ≤ gwLimit item → n ≤ gwMax item → plenIs c (16 + n * gwSize item) = true →
        (∀ k < n, gwEntryOk u.gw.shadow item (gwStaged c k) = true) →
        exec (.gwStage c) s = .next (complete c 0x0801 stOk [] (u.modGw (fun g => { g with
          shadow := (List.range n).foldl (fun x k => gwPut item (gwFirst c + k) (gwStaged c k) x) g.shadow })))) ∧
      (let m := byteAt c.par 1
       let f (e : Nat × Bytes) : Nat × Bytes := if bit m (e.1 / 4096) then (e.1, gwClear (e.1 / 4096) e.2) else e
       item = 7 → plenIs c 16 = true → m < 128 → parZero c 6 16 = true →
        exec (.gwStage c) s = .next (complete c 0x0801 stOk [] (u.modGw (fun g => { g with
          shadow := (g.shadow.map f).filter (fun e => !e.2.all (fun b => b = 0)) }))))) ∧
    (let u := gwCopyEnd (markStarted c 0x0802 s)
     let v := sillAll (gwSwap (bit (byteAt c.par 0) 0) (stopBegins u))
     mayRun c 0x0802 s → plenIs c 8 = true → byteAt c.par 0 < 2 → parZero c 1 8 = true → gwFlipParam u.gw.shadow = none → gwFlipState u = none → stopFree s = true →
      exec (.gwFlip c) s = .next (complete c 0x0802 stOk (gwFlipReply v 0xFFFF) v)) ∧
    (let u := gwCopyEnd (markStarted c 0x0803 s)
     let g := if byteAt c.par 1 = 1 then u.gw.shadow else u.gw.active
     mayRun c 0x0803 s → gwItem c ≤ 6 → byteAt c.par 1 < 2 → plenIs c 16 = true → parZero c 6 16 = true →
      gwFirst c + gwCount c ≤ gwLimit (gwItem c) → gwCount c ≤ gwMax (gwItem c) →
      exec (.gwRead c) s = .next (complete c 0x0803 stOk
        ((List.range (gwCount c)).flatMap (fun k => slice (gwEntry g (gwItem c) (gwFirst c + k)) 0 (gwSize (gwItem c)))) u)) ∧
    (let u := markStarted c 0x0804 s
     let op := byteAt c.par 0
     let i := leAt c.par 2 2
     let off := byteAt c.par 4
     let n := byteAt c.par 5
     mayRun c 0x0804 s → byteAt c.par 1 = 0 → i ≤ 1023 → off + n ≤ 64 → byteAt c.par 6 < 2 → parZero c 7 16 = true → plenIs c (16 + n) = true →
      (op = 0 → exec (.gwImageRead c) s = .next (complete c 0x0804 stOk
        (slice (u.image i).data 0 64 ++ toLe 4 ((u.lt - (u.image i).written) / 1000000)) u)) ∧
      (op = 1 → imValid (gwImage u i) = true → imTx (gwImage u i) = true →
        let v := u.modImage i (fun m => { m with data := patch (slice m.data 0 64) off (slice c.par 16 n), written := u.lt })
        exec (.gwImageWrite c) s = .next (complete c 0x0804 stOk [] (if bit (byteAt c.par 6) 0 then imTrigger i v else v))) ∧
      (op = 2 → imValid (gwImage u i) = true → imTx (gwImage u i) = true →
        exec (.gwImageSend c) s = .next (complete c 0x0804 stOk [] (imTrigger i u)))) ∧
    (let u := markStarted c 0x0805 s
     let p := byteAt c.par 0
     let op := byteAt c.par 1
     let k := byteAt c.par 2
     mayRun c 0x0805 s → plenIs c 8 = true → isLegacyPort p = true → parZero c 3 8 = true →
      (op = 0 → k ≤ 7 → isLinPort p = true → u.fld (LEG_LIN_CFG.ROLE (p - 64)) = 1 → exec (.gwBusSelectTable c) s =
        .next (complete c 0x0805 stOk [] (u.modLin (p - 64) (fun x => { x with switch := some k })))) ∧
      (op = 1 → k = 0 → isCanPort p = true → u.fld (LEG_CAN_STATUS.STATE (p - 40)) = 2 → exec (.gwBusRecover c) s =
        .next (complete c 0x0805 stOk [] ((u.modCan (p - 40) (fun x => { x with autoAt := none })).setFld (LEG_CAN_STATUS.STATE (p - 40)) 3))) ∧
      (op = 2 → k ≤ 3 → isCanPort p = true → exec (.gwBusSetMode c) s = .next (complete c 0x0805 stOk [] (canSetMode (p - 40) k u))) ∧
      (∀ n, op = 3 → k ≤ 3 → 70 ≤ p → frCommand u k = some n →
        exec (.gwBusPocCommand c) s = .next (complete c 0x0805 stOk [] (frPoc n u))))) ∧
  (∀ s : State, s.gw.copying = true → exec .gwShadowCopyDone s = .next (s.modGw (fun g => { g with shadow := g.active, copying := false })))

/-- What the signal engine and the buses do (R380, R381, R388, R390 to R393, R409, R410): transmit images leave by period or after their gap, timeouts
are checked, and transmissions, bus-off, LIN slots and headers and FlexRay slots have their effects. -/
def Obligations.SignalsAndBusesRun : Prop :=
  (∀ (i : Nat) (s : State), s.flag GW_CTRL.SIG_EN = true → s.pwr.state ≤ 2 →
    (let e := gwImage s i
     imValid e = true → imTx e = true → imPeriod e ≠ 0 → (s.image i).cyclic ≤ s.lt →
      exec (.signalPeriodTrigger i) s = .next (imTrigger i (s.modImage i (fun m => { m with cyclic := m.cyclic + imPeriod e })))) ∧
    ((s.image i).deferred = true → imGapPast s i = true → exec (.signalDeferredSend i) s = .next (imSend i s)) ∧
    (s.lt % 1000000 = 0 → exec .signalTimeoutTick s = .next ((List.range 4096).foldl (fun u k => sigTimeout k u) s))) ∧
  (∀ (p : Port) (k : Nat) (x : Loaded) (w : Span) (s : State), let n := p.val - 40
    isCanPort p.val = true → portUp s p.val = true → canOffer (s.can n).slots = some (k, x) →
    (let u := ((s.modCan n (fun c => { c with slots := kdel c.slots k })).setFld (LEG_CAN_STATUS.TEC n) (s.fld (LEG_CAN_STATUS.TEC n) - 1)).bump
       (LEG_CAN_TX_OK n)
     let v := u.setFld (LEG_CAN_STATUS.STATE n) (canErrState u n)
     let last := v.endPoint w
     exec (.canTxAttemptEnd p .sent w) s =
       .next (departCopy p.val last x.cell (v.emit (.frame p.val x.frame (txStart v p.val (last - w.ago)) last)))) ∧
    exec (.canTxAttemptEnd p .arbitrationLost w) s = .next (s.bump (LEG_CAN_ARB_LOST n)) ∧
    (let u := s.bump (LEG_CAN_ERR_FRAMES n)
     let t := u.fld (LEG_CAN_STATUS.TEC n) + 8
     let v := u.setFld (LEG_CAN_STATUS.TEC n) t
     (255 < t → exec (.canTxAttemptEnd p .error w) s = .next (canBusOff n u)) ∧
     (t ≤ 255 → exec (.canTxAttemptEnd p .error w) s = .next (v.setFld (LEG_CAN_STATUS.STATE n) (canErrState v n))))) ∧
  (∀ (p : Port) (s : State), let n := p.val - 40
    isCanPort p.val = true →
    (∀ t : Nat, (s.can n).autoAt = some t → t ≤ s.lt → s.fld (LEG_CAN_STATUS.STATE n) = 2 →
      exec (.busOffDelayExpiry p) s = .next ((s.modCan n (fun c => { c with autoAt := none })).setFld (LEG_CAN_STATUS.STATE n) 3)) ∧
    (s.fld (LEG_CAN_STATUS.STATE n) = 3 → exec (.busOffRecovered p) s = .next (raise 0x0802 0 (evPay [(16, 1, p.val)])
      (((s.setFld (LEG_CAN_STATUS.STATE n) 0).setFld (LEG_CAN_STATUS.TEC n) 0).setFld (LEG_CAN_STATUS.REC n) 0)))) ∧
  (∀ (p : Port) (s : State), let n := p.val - 64
    isLinPort p.val = true →
    (∀ (r : LinResult) (w : Span) (e : Bytes), s.fld (LEG_LIN_CFG.ROLE n) = 1 → let x := s.lin n
      (linTable s n x.table).find? (fun y => y.1 = x.entry) = some (x.entry, e) →
      let id := byteAt e 3
      let start := s.endPoint w - w.ago
      x.slotAt ≤ start →
      let v := s.modLin n (fun y => { y with slotAt := start + leAt e 4 2 * 100000 })
      let u := match linErr r with
        | some k => raise 0x0804 0 (evPay [(16, 1, p.val), (17, 1, id), (18, 1, k)]) v
        | none => if v.fld (LEG_LIN_ID.DIR n id) = 1 && portUp v p.val then linDepart p.val id w v else v
      (r = .collision → byteAt e 2 = 1 → exec (.linSlotEnd p r w) s = .next (linCollision n (byteAt e 6) u)) ∧
      (r ≠ .collision ∨ byteAt e 2 ≠ 1 → exec (.linSlotEnd p r w) s = .next (linAdvance n u))) ∧
    (∀ (r : LinResult) (w : Span) (id : Nat) (fresh : Bool), s.fld (LEG_LIN_CFG.ROLE n) = 2 → (s.lin n).answer = some (id, fresh) →
      let u := s.modLin n (fun l => { l with answer := none })
      (∀ k, linErr r = some k → exec (.linSlotEnd p r w) s = .next (raise 0x0804 0 (evPay [(16, 1, p.val), (17, 1, id), (18, 1, k)]) u)) ∧
      (linErr r = none → fresh = true → exec (.linSlotEnd p r w) s = .next (linDepart p.val id w u)) ∧
      (∀ f, linErr r = none → fresh = false → (kgetD (u.lin n).bufs id {}).last = some f →
        exec (.linSlotEnd p r w) s = .next (u.emit (.resend p.val f)))) ∧
    (∀ (id : Fin 64) (baud : Nat), s.fld (LEG_LIN_CFG.ROLE n) = 2 →
      let u := if s.flag (LEG_LIN_CFG.AUTOBAUD n) then s.setFld (LEG_LIN_CFG.BAUD n) (clamp 1000 20000 baud) else s
      let b := kgetD (u.lin n).bufs id.val {}
      let answers := decide (u.fld (LEG_LIN_ID.DIR n id.val) = 1) && portUp u p.val && (b.fresh.isSome || b.last.isSome)
      exec (.linHeaderReceived p id baud) s =
        .next (u.modLin n (fun l => { l with answer := if answers then some (id.val, b.fresh.isSome) else none })))) ∧
  (∀ (slot : Nat) (cycle : Fin 64) (w : Span) (s : State),
    let u := (if s.fld LEG_FR_STATUS.CYCLE = cycle.val then s else frTake s).setFld LEG_FR_STATUS.CYCLE cycle.val
    (u.fld LEG_FR_STATUS.POC = 5 → exec (.flexraySlot slot cycle w) s = .next (frSlot slot cycle.val 1 w (frSlot slot cycle.val 0 w u))) ∧
    (u.fld LEG_FR_STATUS.POC ≠ 5 → exec (.flexraySlot slot cycle w) s = .next u)) ∧
  (∀ (poc : Fin 16) (s : State), exec (.flexrayPocStateChange poc) s = .next (frPoc poc.val s))

/-- The key store (R432 to R441): a key that is loaded, replaced or derived goes into its slot where its flash write succeeds; a pending key whose check
value is right has its commit record written, and then serves; an exportable key is wrapped; a failed health test of the random source is told. -/
def Obligations.KeysAreLoadedCommittedDerivedAndExported : Prop :=
  (∀ (c : CmdCtx) (s : State),
    (∀ (k : NewKey) (flash : Bool), let u := markStarted c 0x0901 s
     mayRun c 0x0901 s → loadHeld s (byteAt c.par 1) = false → loadSource u c = .inr k →
      exec (.keyLoadBlob c flash) s = .next (finishLoad c 0x0901 (byteAt c.par 1) flash k u)) ∧
    (∀ (k : NewKey) (flash : Bool), let u := markStarted c 0x0902 s
     mayRun c 0x0902 s → loadHeld s (byteAt c.par 1) = false → loadSource u c = .inr k → (u.slot (byteAt c.par 1)).act ≠ none → saRefs u (byteAt c.par 1) = 0 →
      exec (.keyReplace c flash) s = .next (finishLoad c 0x0902 (byteAt c.par 1) flash k u)) ∧
    (∀ k : KeyHalf, let u := markStarted c 0x0903 s
     let n := byteAt c.par 0
     mayRun c 0x0903 s → commitWaits s n = false → plenIs c 16 = true → n ≠ 0 → parZero c 1 8 = true → (u.slot n).pend = some k → saRefs u n = 0 →
      let v := u.setSlot n { u.slot n with checked := true }
      (kcv k.key = slice c.par 8 8 →
        exec (.keyVerifyCommit c) s = .next { v with keys := { v.keys with writing := kput v.keys.writing n c } }) ∧
      (kcv k.key ≠ slice c.par 8 8 →
        exec (.keyVerifyCommit c) s = .next (complete c 0x0903 stState [] (u.setSlot n { u.slot n with pend := none, checked := false })))) ∧
    (∀ flash : Bool, let u := markStarted c 0x0906 s
     let n := byteAt c.par 2
     mayRun c 0x0906 s → loadHeld s n = false → deriveOk c = true → deriveTarget u c = true →
      (∀ k : Bytes, byteAt c.par 0 = 0 → keyFor u (byteAt c.par 1) 3 = some k → exec (.keyDeriveKdf c flash) s =
        .next (finishLoad c 0x0906 n flash { attr := byteAt c.par 3 % 4, half := derivedKey u c k } u)) ∧
      (byteAt c.par 0 = 1 → trngOk u = true → exec (.keyDeriveRandom c flash) s = .next (finishLoad c 0x0906 n flash
        { attr := byteAt c.par 3 % 4, half := { key := freeBytes u.free (byteAt c.par 4), exportable := bit (byteAt c.par 3) 7 } }
        (u.drewN (byteAt c.par 4))))) ∧
    (∀ (h : KeyHalf) (kek : Bytes), let u := markStarted c 0x0907 s
     let n := byteAt c.par 0
     let w := byteAt c.par 1
     mayRun c 0x0907 s → plenIs c 8 = true → parZero c 2 8 = true → n ≠ 0 → (u.slot n).act = some h → keyFor u w 2 = some kek →
     h.exportable = true → trngOk u = true →
      exec (.keyExport c) s = .next (complete c 0x0907 stOk (makeBlob kek w ((u.slot w).act.any (fun k => k.bound.isSome)) ((u.slot n).attr.getD 0) h
        (freeBytes u.free 12)) (u.drewN 12)))) ∧
  (∀ (n : Nat) (c : CmdCtx) (s : State), kget s.keys.writing n = some c →
    (let x := s.slot n
     let u := (handleIf 0x090A s).setSlot n { x with act := x.pend, blob := x.pend, pend := none, checked := false, half := 1 - x.half,
                                                     gen := (x.gen + 1) % 2 ^ 32, hand := none }
     exec (.keyCommitRecordWritten n true) s = .next (complete c 0x0903 stOk (toLe 4 ((x.gen + 1) % 2 ^ 32))
       { u with keys := { u.keys with writing := kdel u.keys.writing n } })) ∧
    exec (.keyCommitRecordWritten n false) s = .next (raise 0x090A 2 (evPay [(16, 1, n), (17, 1, 1)]) s)) ∧
  (∀ (kind : Fin 2) (s : State),
    exec (.trngHealthFail kind) s = .next (raise 0x0907 2 (evPay [(16, 1, kind.val)]) (s.setFld KEY_STATUS.TRNG_OK 0)))

/-- Jobs of the lookaside engine (R442 to R446): a job whose parameters, lock, slot and context are as they must be processes its part. -/
def Obligations.CryptoJobsProcessTheirParts : Prop :=
  (∀ (c : CmdCtx) (raw : JobData) (x : JobCtx) (s : State), let m := markStarted c 0x0904 s
    let u := jobReads c m
    let d := jobData c raw
    fwWaits s c = false → mayRun c 0x0904 s → jobParamOk c = true → jobStateOk m c = true → jobStart u c d = .inr x →
    (x.op ≤ 1 → leAt c.par 20 4 ≠ 0 → x.text = []) →
    let key := (slotKey u (leAt c.par 2 2)).getD []
    (x.op = 0 →
      (∀ sl : Slot, x.iv = [] → nextNonce u (u.slot x.slot) = some sl →
        let y := { x with iv := toBe 4 x.slot ++ toBe 8 (u.slot x.slot).nonce }
        exec (.cryptoGcmEncrypt c (some raw)) s = .next (jobGcm c d key y (jobTake c d y) (u.setSlot x.slot sl))) ∧
      (x.iv ≠ [] → exec (.cryptoGcmEncrypt c (some raw)) s = .next (jobGcm c d key x (jobTake c d x) u))) ∧
    (x.op = 1 → exec (.cryptoGcmDecrypt c (some raw)) s = .next (jobGcm c d key x (jobTake c d x) u)) ∧
    (x.op = 2 → exec (.cryptoCmacGenerate c (some raw)) s = .next (jobPlain c d key (jobTake c d x) u)) ∧
    (x.op = 3 → exec (.cryptoCmacVerify c (some raw)) s = .next (jobPlain c d key (jobTake c d x) u)) ∧
    (x.op = 4 → exec (.cryptoSha384 c (some raw)) s = .next (jobPlain c d key (jobTake c d x) u)) ∧
    (x.op = 5 → exec (.cryptoEcdsaVerify c (some raw)) s = .next (jobPlain c d key (jobTake c d x) u)) ∧
    (x.op = 6 → exec (.cryptoCmacFreshGenerate c (some raw)) s = .next (jobFresh c d key (jobTake c d x) u)) ∧
    (x.op = 7 → exec (.cryptoCmacFreshVerify c (some raw)) s = .next (jobFresh c d key (jobTake c d x) u))) ∧
  (∀ (o : Src) (t : Nat) (s : State), s.keys.lock = some (o, t) → t + s.fld CRY_CTRL.LOCK_IDLE * 1000000 ≤ s.lt →
    exec .cryLockIdleExpiry s = .next (raise 0x0906 0 (evPay [(16, 1, srcCode o)]) ((s.setLock none).setCtx none)))

/-- The four operations on the secure associations of a port (R424 to R426). -/
def Obligations.SecureAssociationsAreSetAndRead : Prop :=
  ∀ (c : CmdCtx) (s : State), let u := markStarted c 0x0905 s
    let p := byteAt c.par 1
    let an := byteAt c.par 3
    let tx := byteAt c.par 2 = 0
    mayRun c 0x0905 s → saParamOk c = true →
    (byteAt c.par 0 = 0 → ¬ (tx ∧ (u.msec p).txAn = some an) → slotAttr u (leAt c.par 4 2) = some (if byteAt c.par 2 = 0 then 0 else 1) →
      exec (.macsecSaInstall c) s = .next (complete c 0x0905 stOk [] (u.setMsec p (saInstall c (u.msec p))))) ∧
    (byteAt c.par 0 = 1 → ¬ (tx ∧ (u.msec p).txAn = some an) →
      exec (.macsecSaRemove c) s = .next (complete c 0x0905 stOk [] (u.setMsec p (saRemove c (u.msec p))))) ∧
    (byteAt c.par 0 = 2 → khas (u.msec p).tx an = true → exec (.macsecSaTxCommit c) s = .next (complete c 0x0905 stOk [] (saCommit p an u))) ∧
    (byteAt c.par 0 = 3 → exec (.macsecSaRead c) s = .next (complete c 0x0905 stOk (saReadReply c (u.msec p)) u))

/-- The fabric's neighbours and links (R456 to R461, R474, R475, R498, R560): hellos are sent and heard, a neighbour is lost, LINK_STATE is announced and
spread, and the two commands on another device are answered here or sent on. -/
def Obligations.FabricNeighboursAndLinksAreKept : Prop :=
  (∀ (c : CmdCtx) (s : State), let d := byteAt c.par 0
    (let u := markStarted c 0x0A01 s
     mayRun c 0x0A01 s → plenIs c 8 = true → byteAt c.par 1 ≤ 1 → parZero c 2 8 = true →
      (byteAt c.par 1 = 0 ∨ hasAddr u = true ∧ d = ownAddr u → exec (.fabDigestQuery c) s = .next (complete c 0x0A01 stOk (digestReply u) u)) ∧
      (byteAt c.par 1 = 1 → hasAddr u = false ∨ d ≠ ownAddr u → exec (.fabDigestQuery c) s =
        .next (sendTo d (.digest (.query (ownAddr u))) (farWait c 0x0A01 d u)))) ∧
    (let u := markStarted c 0x0A02 s
     mayRun c 0x0A02 s → plenIs c 8 = true → parZero c 1 8 = true →
      (hasAddr u = false ∨ d ≠ ownAddr u → exec (.fabReset c) s = .next (sendTo d (.reset (.request (ownAddr u))) (farWait c 0x0A02 d u))) ∧
      (hasAddr u = true → d = ownAddr u → u.flag FAB_CFG.REMOTE_RST = true → let v := warmStart 5 u
        (v.rst.warm ≠ none ∨ v.rst.waiting ≠ none → exec (.fabReset c) s = .next (complete c 0x0A02 stOk [] v)) ∧
        (v.rst.warm = none → v.rst.waiting = none → exec (.fabReset c) s = .next (farWait c 0x0A02 d v))))) ∧
  (∀ s : State, s.fab.lastHello + 1000000 ≤ s.lt →
    (dfpOn s = true → let u := (takeSeat s).modFab (fun f => { f with lastHello := (takeSeat s).lt })
      exec .helloSend s = .next ((fabUp u).foldl (fun v p => sayHello v p) u)) ∧
    (dfpOn s = false → hwSender s = true →
      exec .helloSend s = .next ((fabUp s).foldl (fun v p => repeatHello v p) (s.modFab (fun f => { f with lastHello := s.lt }))))) ∧
  (∀ (p : Port) (h : Hello) (s : State), (fabIn s p.val = true → exec (.helloReceived p h) s = .next (coordReview (helloIn p.val h s))) ∧
    (∀ n, fabIn s p.val = false → s.flag FAB_CFG.DFP_EN = true → s.pwr.state = 1 ∨ s.pwr.state = 2 → s.fabricPort p.val = true → portUp s p.val = true →
      kget s.fab.nbrs p.val = some n → n.hello = h → exec (.helloReceived p h) s =
        .next (s.modFab (fun f => { f with nbrs := kput f.nbrs p.val { n with last := s.lt } })))) ∧
  (∀ (p : Port) (n : Nbr) (s : State), dfpOn s = true → kget s.fab.nbrs p.val = some n → n.last + s.fld FAB_TIMERS.HELLO_MISS * 1000000 ≤ s.lt →
    exec (.helloMissExpiry p) s = .next (coordReview (nbrLost p.val 0 s))) ∧
  (∀ (p : Port) (s : State), s.fabricPort p.val = true → khas s.links p.val = true → exec (.fabricLinkDown p) s = .next (fabricDown p.val s)) ∧
  (∀ s : State, dfpOn s = true → s.fab.lastLs + sec ≤ s.lt → exec .linkStateSend s = .next (announceLinks s)) ∧
  (∀ (p : Port) (l : LinkState) (s : State), fabIn s p.val = true → exec (.linkStateReceived p l) s = .next (linkStateIn p.val l s))

/-- Gossip, the coordinator and the size of the fabric (R464 to R468, R473, R498). -/
def Obligations.GossipAndCoordinatorRun : Prop :=
  (∀ s : State, s.fab.lastGossip + 100000000 ≤ s.lt →
    (let g := ownGossip s
     dfpOn s = true → hasAddr s = true → exec .gossipSend s =
      .next (compareGossip (flood none (.gossip g) (s.modFab (fun f => { f with lastGossip := s.lt, gossipSaid := some g }))))) ∧
    (∀ g, dfpOn s = false ∨ hasAddr s = false → hwSender s = true → s.fab.gossipSaid = some g →
      let u := s.modFab (fun f => { f with lastGossip := s.lt })
      exec .gossipSend s = .next ((fabUp u).foldl (fun v p => sendOn p 0 (.gossip g) v) u))) ∧
  (∀ (p : Port) (g : Gossip) (s : State), fabIn s p.val = true →
    let u := flood (some p.val) (.gossip g) s
    let changed := (kget u.fab.gossip g.addr).any (fun o => o.root ≠ g.root || o.gen ≠ g.gen)
    exec (.gossipReceived p g) s = .next (compareGossip (u.modFab (fun f =>
      { f with gossip := kput f.gossip g.addr g, digests := if changed then kdel f.digests g.addr else f.digests })))) ∧
  (∀ s : State, dfpOn s = true → s.fab.coord = ownUid → s.fab.sentCoord + 100000000 ≤ s.lt →
    exec .coordSend s = .next (takeAssigned s.fab.assigned (judgeSize (sendCoord s)))) ∧
  (∀ (p : Port) (m : CoordMsg) (s : State), fabIn s p.val = true → exec (.coordReceived p m) s = .next (coordIn p.val m s)) ∧
  (∀ (t : Nat) (s : State), s.fab.firstUp = some t → dfpOn s = true → s.fab.coord ≠ ownUid → hasAddr s = true → s.fld FAB_CFG.COORD_PRIO ≠ 0 →
    (s.fab.succ = ownUid → s.fab.coord ≠ 0 → max t s.fab.lastCoord + 300000000 ≤ s.lt ∨ reachCoord s = none →
      exec .coordTimeout s = .next (coordReview (sendWholeDb 0 (becomeCoord 1 s)))) ∧
    (s.fab.coord = 0 → (∃ e, highest (candidates s) = some e ∧ e.1 = ownUid) → max t s.fab.lastCoord + 300000000 ≤ s.lt →
      let u := becomeCoord 0 s
      exec .coordTimeout s = .next (coordReview (takeAssigned u.fab.assigned u)))) ∧
  (∀ (t : Nat) (large : Bool) (s : State), s.fab.switch = some (t, large) → t ≤ s.scale 0 →
    let u := s.modFab (fun f => { f with switch := none, large := large, smallSince := if large then none else f.smallSince })
    exec .sizeModeSwitch s = .next (takeSize (sizeForced u large) u))

/-- Messages between the devices of a fabric (R463, R465 to R467, R474, R475): one for another device is relayed, one for this device has its effect. -/
def Obligations.FabricMessagesAreRelayedOrActOn : Prop :=
  (∀ (p : Port) (dst : Nat) (s : State), fabIn s p.val = true → hasAddr s = false ∨ dst ≠ ownAddr s →
    (∀ m, exec (.pathsMessage p dst m) s = .next (relay dst (.paths m) s)) ∧
    (∀ src m, exec (.digestMessage p src dst m) s = .next (relay dst (.digest m) s)) ∧
    (∀ src m, exec (.resetMessage p src dst m) s = .next (relay dst (.reset m) s))) ∧
  (∀ (p : Port) (src : Nat) (s : State), fabIn s p.val = true → hasAddr s = true → let dst := ownAddr s
    (∀ m, exec (.pathsMessage p dst m) s = .next (pathsIn m s)) ∧
    (∀ asker, exec (.digestMessage p src dst (.query asker)) s = .next (sendTo asker (.digest (.reply (digestReply s))) s)) ∧
    (∀ b, let u := s.modFab (fun f => { f with digests := kput f.digests src (slice b 56 768) })
      exec (.digestMessage p src dst (.reply b)) s = .next (compareGossip (farAnswer 0x0A01 src stOk b u))) ∧
    (∀ ok, exec (.resetMessage p src dst (.answer ok)) s = .next (farAnswer 0x0A02 src (if ok then stOk else stDenied) [] s)) ∧
    (∀ asker, s.flag FAB_CFG.REMOTE_RST = false → exec (.resetMessage p src dst (.request asker)) s =
      .next (sendTo asker (.reset (.answer false)) s)) ∧
    (∀ asker, s.flag FAB_CFG.REMOTE_RST = true → let u := warmStart 5 s
      (u.rst.warm ≠ none ∨ u.rst.waiting ≠ none → exec (.resetMessage p src dst (.request asker)) s =
        .next (sendTo asker (.reset (.answer true)) u)) ∧
      (u.rst.warm = none → u.rst.waiting = none → exec (.resetMessage p src dst (.request asker)) s = .next u))) ∧
  (∀ (p : Port) (sender limit : Nat) (n : Nbr) (s : State), fabIn s p.val = true → sender ≤ 255 → limit ≤ 65535 → kget s.fab.nbrs p.val = some n →
    exec (.withdrawReceived p sender limit) s = .next (coordReview (fabRecompute (s.modFab (fun f => { f with
      nbrs := kput f.nbrs p.val { n with hello := { n.hello with withdrawing := true } },
      db := kmapAt f.db n.hello.uid (fun l => { l with withdrawing := true }) }))))) ∧
  (∀ (f : FarCmd) (s : State), s.fab.far.find? (fun f => decide (f.deadline ≤ s.lt)) = some f →
    exec .fabRemoteCommandTimeout s = .next (complete f.cmd f.opcode stState [] (s.modFab (fun x =>
      { x with far := removeFirst (fun g => g.deadline ≤ s.lt) x.far }))))

/-- Firmware images and their activation (R501 to R503, R505 to R511, R611): a header begins a slot, blocks fill it, its end is checked, an activation
begins with the sealed handover, the pause starts and ends before its watchdog, and a fallback or a confirmation closes a trial. -/
def Obligations.FirmwareImagesAreReceivedAndActivated : Prop :=
  (∀ (c : CmdCtx) (s : State), imgHeld s = false →
    (let u := markStarted c 0x0D01 s
     let r := headerCheck u c.par
     mayRun c 0x0D01 s → engineHeld s = false → plenIs c 512 = true → exec (.imgBegin c) s = .next (complete c 0x0D01 r.2 (imgReply r.1 0)
      (if r.1 = 0 then modSlot (idleSlot u) (fun _ => { state := 1, header := c.par, erased := false }) u else u))) ∧
    (∀ block : Option Bytes, let u := markStarted c 0x0D02 s
     let n := idleSlot s
     let off := leAt c.par 0 4
     let v := hostFetch c (leAt c.par 8 8) 4096 u
     mayRun c 0x0D02 s → s.brace = false → (s.imgSlot n).state = 1 → (s.imgSlot n).erased = true → plenIs c 16 = true → parZero c 4 8 = true →
     off % 4096 = 0 → off < hdrField (s.imgSlot n).header 20 4 →
      (∀ b, block = some b → exec (.imgBlock c block) s = .next (complete c 0x0D02 stOk (imgReply 0 0)
        (modSlot n (fun x => { x with blocks := kput x.blocks (off / 4096) (slice b 0 4096) }) v))) ∧
      (block = none → exec (.imgBlock c block) s = .next (complete c 0x0D02 stDma [] v))) ∧
    (∀ flashErr : Bool, let u := markStarted c 0x0D03 s
     let n := idleSlot u
     let r := bodyCheck (u.imgSlot n) flashErr
     mayRun c 0x0D03 s → engineHeld s = false → plenIs c 8 = true → parZero c 0 8 = true → (u.imgSlot n).state = 1 →
      exec (.imgEnd c flashErr) s = .next (complete c 0x0D03 r.2.1 (imgReply r.1 r.2.2)
        (if r.1 = 7 then u else modSlot n (fun x => { x with state := if r.1 = 0 then 2 else 5 }) u))) ∧
    (let u := markStarted c 0x0D04 s
     let n := byteAt c.par 0
     mayRun c 0x0D04 s → plenIs c 8 = true → parZero c 1 8 = true → n ≤ 1 → (u.imgSlot n).state = 2 → u.flag SUP_STATUS.TRIAL = false →
     u.brace = false → hdrField (u.imgSlot n).header 104 4 ≤ u.sup.setVersion → u.sup.restartAt = none →
      exec (.imgActivate c) s = .next (u.modSup (fun p => { p with act := some { cmd := c, slot := n, prev := u.fld SUP_STATUS.RUN_SLOT } })))) ∧
  (∀ (slot : Fin 2) (s : State), exec (.imageSlotEraseDone slot) s =
    .next (s.modSup (fun p => { p with slots := kmapAt p.slots slot.val (fun x => { x with erased := true }) }))) ∧
  (∀ (a : Activation) (s : State), s.sup.act = some a →
    (a.phase = 1 → longStop s = false → exec .sealedHandoverDone s = .next (supShow 3 false ((rewrap (slotMeas s a.slot) s).modSup (fun p =>
      { p with act := some { a with phase := 2, pauseAt := s.lt } })))) ∧
    (a.phase = 2 → s.lt < a.pauseAt + 30000000 → s.flt.f3 = false → romFails s a.slot false = false → exec .activationPauseEnd s = .next (warmResume (pauseEnd a s))) ∧
    (a.phase = 2 → a.pauseAt + 30000000 ≤ s.lt → exec .activationWatchdog s = .next (startFallback a 1 s)) ∧
    (∀ v : Nat, a.phase = 2 → s.sup.restartAt = none →
      exec (.firmwareFallback v) s = .next (startFallback a 0 (raise 0x0D01 1 (evPay [(16, 1, a.slot), (20, 4, v)]) s)))) ∧
  (∀ (v t : Nat) (s : State), let r := newestRec s
    s.sup.act = none → s.sup.restartAt = some t → r.2.2 = 3 → exec (.firmwareFallback v) s = .next ((fallBack r.2.1 (otherSlot r.2.1)
      (raise 0x0D01 1 (evPay [(16, 1, r.2.1), (20, 4, v)]) s)).modSup (fun p => { p with fallback := some 0 }))) ∧
  (∀ (t : Nat) (s : State), s.sup.trialAt = some t → triadRun s = true → s.brace = false → t + s.fld SUP_CFG.CONFIRM_S * sec ≤ s.lt →
    let n := (newestRec s).2.1
    let fuse := max (byteAt (s.imgSlot n).header 16) (s.fld SUP_ARC_FUSE.ARC)
    let u := modSlot (otherSlot n) (fun x => { x with state := if x.state = 4 then 2 else x.state })
      (keepHandover (writeRec n 4 (s.setFld SUP_ARC_FUSE.ARC fuse)))
    exec .trialConfirm s = .next (raise 0x0D04 0 (evPay [(16, 1, n), (17, 1, fuse)])
      ((u.modSup (fun p => { p with trialAt := none })).setFld SUP_STATUS.TRIAL 0)))

/-- The supervisor triad and its grace timers (R493 to R498, R514, R515): a window is released by majority, and a core that stands alone is told; without a
majority the writes are discarded; a resynchronisation ends with the SRAM of another core, and a restart ends; an unhandled event escalates after its grace time. -/
def Obligations.SupervisorReleasesByMajority : Prop :=
  (∀ (a b c : List BusWrite) (own : List (Fin 3 × Nat × Nat)) (s : State), triadRun s = true → s.flt.f3 = false → s.pwr.state = 0 →
    let u := sramWrites own s
    let w (k : Nat) : List BusWrite := coreWrites a b c k
    let sig (k : Nat) : Nat := windowSig (w k)
    (s.sup.resync = none →
      (sig 0 = sig 1 → sig 0 = sig 2 → exec (.supWindowClose a b c own) s = .next (releaseWindow (w 0) u)) ∧
      (sig 0 = sig 1 → sig 0 ≠ sig 2 → exec (.supWindowClose a b c own) s = .next (oddCore 2 0 (releaseWindow (w 0) u))) ∧
      (sig 0 ≠ sig 1 → sig 0 = sig 2 → exec (.supWindowClose a b c own) s = .next (oddCore 1 0 (releaseWindow (w 0) u))) ∧
      (sig 0 ≠ sig 1 → sig 0 ≠ sig 2 → sig 1 = sig 2 →
        exec (.supWindowClose a b c own) s = .next (oddCore 0 0 (releaseWindow (w 1) u))) ∧
      (sig 0 ≠ sig 1 → sig 0 ≠ sig 2 → sig 1 ≠ sig 2 → exec (.supWindowClose a b c own) s = .next (noMajority u))) ∧
    (∀ k t, s.sup.resync = some (k, t) → let x := if k = 0 then 1 else 0
      let y := if k = 2 then 1 else 2
      (sig x = sig y →
        exec (.supWindowClose a b c own) s = .next (releaseWindow (w x) u)) ∧
      (sig x ≠ sig y → exec (.supWindowClose a b c own) s = .next (noMajority u)))) ∧
  (∀ (core : Fin 3) (s : State), triadRun s = true → s.sup.resync = none → exec (.supLateCore core) s = .next (oddCore core.val 1 s)) ∧
  (∀ (k n : Nat) (s : State), s.sup.resync = some (k, n) →
    exec .supResyncDone s =
      .next ((s.modSup (fun p => { p with resync := none, sram := sramCopy k (if k = 0 then 1 else 0) p.sram })).setFld SUP_STATUS.RESYNC 0)) ∧
  (∀ (fail : Fin 16) (badA badB : Bool) (s : State), s.sup.restartAt ≠ none → s.flt.f3 = false → s.rst.warm = none → s.pwr.state = 0 →
    exec (.supRestartDone fail badA badB) s = .next (warmResume (bootDone fail.val badA badB s))) ∧
  (∀ (g : Fin 16) (ok : Bool) (t : Nat) (e : Entry) (s : State), kget s.flt.grace g.val = some t → kget s.flt.unhandled g.val = some e →
    t / 1000 ≤ s.lt / 1000 → s.flt.f3 = false → s.pwr.state ≤ 2 → escWaits s e = false →
    exec (.graceExpiry g ok) s = .next (graceEnd g.val e ok s))

/-- Wakes and sleep of ports and clusters (R524, R527 to R531, R535 to R539, R544, R608, R609). -/
def Obligations.WakesVotesAndCommitsAct : Prop :=
  (∀ (p : Port) (alt : Bool) (held : Nat) (s : State), portRecognises s p.val alt held = true → exec (.portWakeDetect p alt held) s = .next (portWake p.val s)) ∧
  (∀ (n : Fin 4) (held : Nat) (s : State), s.flag (WAKE_IN_CFG.EN n.val) = true → s.fld (WAKE_IN_CFG.FILTER n.val) * 10 ≤ held →
    exec (.wakeInDetect n (!bit (s.fld (WAKE_IN_CFG.MODE n.val)) 0) held) s =
    .next (wakeEvent { source := 1, which := n.val, clusters := s.fld (WAKE_IN_CFG.CLUSTERS n.val), at_ := s.lt } 0 s)) ∧
  (∀ (p : Port) (t : Nat) (s : State), kget s.wake.since p.val = some t →
    (t + portTime s p.val ≤ s.lt → ¬ (16 ≤ p.val ∧ p.val ≤ 31 ∧ s.fld (WAKE_PORT_STATUS.TARGET p.val) = 0 ∧ khas s.links p.val = false) →
      exec (.portStateReached p) s = .next (settledNow true (portReached p.val s))) ∧
    (t + 20000000 ≤ s.lt → 2 ≤ s.fld (WAKE_PORT_STATUS.TARGET p.val) →
      exec (.portStateForced p) s = .next (settledNow true (raise 0x0E06 0 (evPay [(16, 1, p.val), (17, 1, s.fld (WAKE_PORT_STATUS.TARGET p.val))])
        (portReached p.val (s.bump WAKE_STUCK)))))) ∧
  (∀ s : State, s.pwr.state = 0 → s.lt % 1000000 = 0 →
    let m := listMask ((s.wake.holds.filter (fun e => decide (e.2 ≤ s.lt) && !bit s.wake.confirmed e.1)).map (·.1))
    m ≠ 0 → exec .wakeHoldTick s = .next (raise 0x0E03 0 (evPay [(18, 2, m)])
      ((s.modWake (fun w => { w with holds := w.holds.filter (fun e => !bit m e.1) })).bumpBy WAKE_FALSE_CNT (popCount m 16)))) ∧
  (∀ (c : CmdCtx) (h : Nat) (f : Fld) (s : State), let u := markStarted c 0x0E02 s
    let mask := leAt c.par 0 2
    mayRun c 0x0E02 s → plenIs c 8 = true → parZero c 4 8 = true → mask ≠ 0 → hostVote c.who = some (h, f) →
    let x := u.setFld f ((u.fld f &&& (0xFFFF - mask)) ||| (leAt c.par 2 2 &&& mask))
    let v := x.modWake (fun w => { w with
      holds := w.holds.filter (fun e => !bit (mask &&& x.wake.confirmed) e.1), confirmed := w.confirmed &&& (0xFFFF - (mask &&& x.wake.confirmed)) })
    let new := localVote v &&& mask &&& (0xFFFF - localVote u)
    exec (.netSleepVote c) s = .next (complete c 0x0E02 stOk []
      (if new = 0 then v else wakeEvent { source := 2, which := h, clusters := new, at_ := v.lt } 1 v))) ∧
  (∀ (p : Port) (s : State), 16 ≤ p.val → p.val ≤ 39 → portState s p.val = 0 → khas s.links p.val = true →
    exec (.tc10SleepRequest p) s = .next (s.emit (.sleepAnswer p.val)))

/-- The sleep of a fabric's clusters (R536 to R539, R608, R609): votes are sent, messages spread and act, the coordinator commits what has settled, and a
commit acts at its time. -/
def Obligations.ClustersSleepByCommits : Prop :=
  (∀ s : State, s.pwr.state = 0 → let u := sayWaiting s
    let v := localVote u
    let part := wakePart u
    v ≠ u.wake.sentVote ∨ part ≠ u.wake.sentPart ∨ u.wake.lastVote + 100000000 ≤ u.lt → triadRun u = true → wakeRole u = true →
    let w := (votedAwake (v ||| u.wake.sentVote) u)
    let x := w.modWake (fun y => { y with lastVote := w.lt, sentVote := v, sentPart := part })
    exec .sleepVoteSend s = .next (if dfpOn x then flood none (.sleep { kind := 0, addr := ownAddr x, clusters := v, part := part }) x else x)) ∧
  (∀ (p : Port) (m : SleepMsg) (s : State), fabIn s p.val = true → let u := flood (some p.val) (.sleep m) s
    (m.addr = ownAddr u → hasAddr u = true → exec (.sleepMessageReceived p m) s = .next u) ∧
    (m.addr ≠ ownAddr u ∨ hasAddr u = false →
      (m.kind = 0 → exec (.sleepMessageReceived p m) s = .next (voteIn m u)) ∧
      (m.kind = 1 → exec (.sleepMessageReceived p m) s = .next (takeCommit (m.clusters % 2 ^ 16) m.at_ (bit m.may (ownAddr u)) u)) ∧
      (m.kind = 2 → exec (.sleepMessageReceived p m) s = .next (wakeIn m u)))) ∧
  (∀ s : State, s.pwr.state = 0 → sleepCoord s = true → triadRun s = true → wakeRole s = true →
    let pending := s.wake.commits.foldl (fun m c => m ||| c.clusters) s.wake.committed
    let settle := s.fld WAKE_TIMERS.SETTLE * 10000000
    let v := localVote s
    let m := listMask ((List.range 16).filter (fun c =>
      !bit pending c && !bit v c && decide (kgetD s.wake.quiet c s.pwr.stateAt + settle ≤ s.lt)))
    let t := s.scale 0 + s.fld WAKE_TIMERS.COMMIT_LEAD * 1000000
    let may := mayMask s (0xFFFF - ((pending ||| m) &&& 0xFFFF))
    let u := if s.flag FAB_CFG.DFP_EN then flood none (.sleep { kind := 1, addr := ownAddr s, clusters := m, at_ := t, may := may }) s else s
    m ≠ 0 → exec .sleepSettleExpiry s = .next (takeCommit m t (bit may (ownAddr u)) u)) ∧
  (∀ s : State, let due (c : SleepCommit) : Bool := !c.done && decide (c.at_ ≤ s.scale 0)
    s.pwr.state = 0 → s.wake.commits.any due = true →
    let m := (s.wake.commits.filter due).foldl (fun m c => m ||| c.clusters) 0
    let may := (s.wake.commits.filter due).foldl (fun _ c => c.may) s.wake.may
    exec .sleepCommitTime s = .next (sleepRequest (endSettling (portsByCluster (s.modWake (fun w => { w with
      committed := w.committed ||| m, may := may, commits := w.commits.map (fun c => if due c then { c with done := true } else c) })))))) ∧
  (∀ (t : Nat) (s : State), s.wake.retry = some t → t ≤ s.lt → exec .sleepStateRetry s = .next (sleepRequest s))

/-- Power states (R552 to R556, R558, R559, R563, R565, R576, R611): a request or the idle timer begins an entry, the entry commits, a trigger aborts it or
starts the exit, islands ramp, and the exit ends. -/
def Obligations.PowerStatesAreEnteredAndLeft : Prop :=
  (∀ s : State, let n := s.fld PWR_CTRL.AUTO_STATE
    s.pwr.state = 0 → s.pwr.entry = none → n = 1 ∨ n = 2 → longStop s = false →
    (queuesEmpty s = true → ringWork s 0 = false → ringWork s 1 = false → s.pwr.active + s.fld PWR_CTRL.AUTO_IDLE * 1000 ≤ s.lt →
      let r := pwrRequest n 2 s
      exec .idleEntryTimer s = .next (if r.1 = 0 then r.2 else r.2.modPwr (fun p => { p with active := r.2.lt }))) ∧
    (queuesEmpty s = false → exec .idleEntryTimer s = .next (s.modPwr (fun p => { p with active := s.lt })))) ∧
  (∀ (c : CmdCtx) (s : State), let u := markStarted c 0x0E01 s
    let n := byteAt c.par 0
    mayRun c 0x0E01 s → longStop s = false → plenIs c 8 = true → parZero c 1 8 = true →
    (n = 0 → exec (.pwrRequestState c) s = .next (complete c 0x0E01 stOk (zeros 8) u)) ∧
    (1 ≤ n → n ≤ 5 → let r := pwrRequest n 0 u
      exec (.pwrRequestState c) s = .next (complete c 0x0E01 (if r.1 = 0 then stOk else stState) (byte r.1 :: zeros 7) r.2))) ∧
  (∀ (e : Entering) (s : State), s.pwr.entry = some e → longStop s = false →
    (e.target ≤ 2 → exec .stateEntryCommit s = .next (commitEntry e s)) ∧
    (3 ≤ e.target → s.wake.since = [] → exec .stateEntryCommit s = .next (commitEntry e (braceEnd (writeWaiting 0 (writeWaiting 1 s)))))) ∧
  (∀ (cause : Fin 9) (s : State), let cold := s.pairMode = 1 ∧ s.fld PAIR_STATUS.ROLE = 3
    (cause.val = 7 → cold → exec (.exitTrigger cause) s = .next (takeover true s)) ∧
    (¬ cold →
      (∀ e, s.pwr.entry = some e → triggers cause.val e.target = true → exec (.exitTrigger cause) s = .next (abortEntry e cause.val s)) ∧
      (s.pwr.entry = none → s.pwr.exit = none → triggers cause.val s.pwr.state = true → exec (.exitTrigger cause) s = .next (startExit cause.val s)) ∧
      (∀ x, s.pwr.entry = none → s.pwr.exit = some x → cause.val = 8 → triggers 8 s.pwr.state = true →
        exec (.exitTrigger cause) s = .next (s.modPwr (fun p => { p with exit := some { x with warm := some 2 } }))))) ∧
  (∀ (x : Leaving) (s : State), s.pwr.exit = some x → 0 < s.pwr.ramping →
    let done := (rampList x.left).length - s.pwr.ramps - s.pwr.ramping
    exec .islandRampDone s = .next (grantRamps ((s.setFld (islandFld (((rampList x.left)[done]?).getD 53)) 0).modPwr (fun p =>
      { p with ramping := p.ramping - 1 })))) ∧
  (∀ (straps : Nat) (x : Leaving) (s : State), s.pwr.exit = some x → s.pwr.ramps = 0 → s.pwr.ramping = 0 →
    let u := if x.left = 5 then exitSealed x straps s else if 3 ≤ x.left then exitDeep x s else wakeDueNow (finishExit x s)
    (x.warm = none → exec (.stateExitDone straps) s = .next u) ∧
    (∀ k, x.warm = some k → exec (.stateExitDone straps) s = .next (if x.left ≤ 4 then warmBegin k u else u)))

/-- Supplies, clocks and power-on reset (R567, R568, R571, R572, R574, R579, R598, R619, R625, R626): a rail below its warning level for its filter time starts brace and its end may end it, a rail at its
reset level and the asserted pin hold the device in reset, and the released pin starts it. How long a start takes is a free value (log entry 6). -/
def Obligations.SuppliesClocksAndPowerOnResetAct : Prop :=
  (∀ (r : Fin 11) (mv held : Nat) (s : State),
    (s.pwr.state ≤ 2 → s.flag (PWR_RAIL_STATUS.WARNING r.val) = false →
      mv * 200 < railNominal s.dbg.straps r.val * (200 - s.fld (PWR_RAIL_CFG.WARN r.val)) → s.fld (PWR_RAIL_CFG.FILTER r.val) * 50 ≤ held →
      exec (.railWarningEnter r mv held) s =
      .next (raise 0x0E01 0 (evPay [(16, 1, r.val), (17, 1, 0), (20, 2, mv)])
        (braceStart ((railSeen r.val mv s).setFld (PWR_RAIL_STATUS.WARNING r.val) 1)))) ∧
    (s.pwr.state ≤ 2 → s.flag (PWR_RAIL_STATUS.WARNING r.val) = true ∨ railWarns s r.val mv held = false → exec (.railWarningEnter r mv held) s = .next (railSeen r.val mv s)) ∧
    (s.flag (PWR_RAIL_STATUS.WARNING r.val) = true →
      let u := raise 0x0E01 0 (evPay [(16, 1, r.val), (17, 1, 1), (20, 2, mv)]) ((railSeen r.val mv s).setFld (PWR_RAIL_STATUS.WARNING r.val) 0)
      exec (.railWarningExit r mv) s =
        .next (if (List.range 11).any (fun k => u.flag (PWR_RAIL_STATUS.WARNING k)) then u else warmResume (braceEnd u))) ∧
    (s.rst.porLow = false → mv * 10 < railNominal s.dbg.straps r.val * 9 → s.pwr.state ≤ 2 ∨ s.pwr.state ≤ 4 ∧ r.val ≤ 2 ∨ r.val = 2 →
      exec (.railResetLevel r mv) s = .next (porHold 1 r.val s))) ∧
  (∀ (k : Fin 4) (s : State), s.pwr.state ≤ 2 ∨ s.pwr.exit ≠ none →
    exec (.clockLoss k) s = .next (raiseF3 0x0E0A (evPay [(16, 1, k.val)]) (triadRun s) (s.setFld (clockFld k.val) 0))) ∧
  (∀ (torn test : Bool) (straps held : Nat) (rails : List Nat) (s : State),
    (s.rst.porLow = true → rstFilter straps ≤ held → test = false → (∀ r : Nat, r < 11 → railNominal straps r * 9 < nth rails r * 10 ∧ bankAgrees straps r (nth rails r) = true) →
      exec (.powerOnReset torn straps rails test held) s = .next (listsStart (gwRestart (startUp 0 (s.freeVal % 7929) straps torn (porLose s.drew))))) ∧
    (s.rst.porLow = true → rstFilter straps ≤ held → supplyOk straps rails test = false → exec (.powerOnReset torn straps rails test held) s = .next (porHold s.rst.cause s.rst.rail s)) ∧
    (rstFilter s.dbg.straps ≤ held → exec (.poresetAssert held) s = .next (porHold 0 0 s)))

/-- Warm reset (R67, R580, R583 to R585, R601): the pin and the command request it, the drain ends or its limit passes, and a released pin lets a held
reset go on. -/
def Obligations.WarmResetIsRequestedDrainsAndEnds : Prop :=
  (∀ (held : Nat) (s : State), let u := { s with rst := { s.rst with pinLow := true } }
    rstFilter s.dbg.straps ≤ held →
    exec (.wresetNAssert held) s = .next (warmStart 2 u) ∧
    (s.flt.f3 = false → s.rst.warm = none → s.rst.waiting = none → s.pwr.exit = none → s.pwr.state = 0 → s.pwr.entry = none →
      exec (.wresetNAssert held) s = .next (warmBegin 2 u))) ∧
  (∀ (held : Nat) (s : State), let u := { s with rst := { s.rst with pinLow := false } }
    rstFilter s.dbg.straps ≤ held →
    (∀ w, s.rst.warm = some w → w.done = true → exec (.wresetNRelease held) s = .next (warmForward w u)) ∧
    (s.rst.warm = none → exec (.wresetNRelease held) s = .next u)) ∧
  (∀ (c : CmdCtx) (s : State), let u := markStarted c 0x0F03 s
    mayRun c 0x0F03 s → plenIs c 8 = true → parZero c 0 8 = true → u.flt.f3 = false →
    exec (.warmReset c) s = .next (warmStart 3 (complete c 0x0F03 stDraining [] u))) ∧
  (∀ (w : Warm) (s : State), s.rst.warm = some w → w.done = false →
    (drained s = true → exec .drainEnd s = .next (drainDone w s)) ∧
    (w.limit ≤ s.lt → let r := drainCut s
      exec .drainLimitExpiry s = .next (drainDone { w with cut := r.1 } (raise 0x0F02 0 (evPay [(20, 4, r.1)]) r.2))))

/-- Functions are quiesced and resumed, and the configuration image is stored (R159, R588 to R591, R595 to R597, R601, R610). The length of a stop window is
a free value (log entry 6). -/
def Obligations.FunctionsQuiesceAndResumeAndImagesAreStored : Prop :=
  (∀ (c : CmdCtx) (testsPass : Bool) (s : State), let f := fnFunc c
    let m := markStarted c 0x0F01 s
    let k := if f = 3 then hedgeCopied m else if f = 8 then gwCopyEnd m else m
    let u := if f = 5 then (fnPorts c).foldl (fun w _ => engineRun w) k else k
    mayRun c 0x0F01 s → fnParamOk c = true → fnBusy s f = false → k.flt.f3 = false → heldByOther k c f (fnTarget c) = false → fnCheck u c = none →
    (f = 1 → exec (.fnQuiesceFlip c) s = .next (carveStart (some c) u) ∧ exec (.fnQuiesceReset c testsPass) s = .next (carveStart (some c) u)) ∧
    (f = 5 → let v := (fnPorts c).foldl (fun w p => fixFlip p 0 none w) u
      let w := { v with fn := { v.fn with flips := v.fn.flips ++ [{ cmd := some c, start := v.lt, ports := fnPorts c }] } }
      exec (.fnQuiesceFlip c) s = .next w ∧ exec (.fnQuiesceReset c testsPass) s = .next w) ∧
    (f ≠ 1 → f ≠ 5 → fnWindow f = true →
      exec (.fnQuiesceFlip c) s = .next (fnDone c (u.freeVal % 1001) (fnAct c true (stopBegins u.drew))) ∧
      exec (.fnQuiesceReset c testsPass) s = .next (fnDone c (u.freeVal % 1001) (fnAct c testsPass (stopBegins u.drew)))) ∧
    (f ≠ 1 → f ≠ 5 → fnWindow f = false →
      exec (.fnQuiesceFlip c) s = .next (fnDone c 0 (fnAct c true u)) ∧
      exec (.fnQuiesceReset c testsPass) s = .next (fnDone c 0 (fnAct c testsPass u)))) ∧
  (∀ (q : Quiesce) (s : State), s.fn.carve = some q →
    s.mem.staging.all (fun e => e.2.isEmpty) = true ∧ s.mem.bufs.any (fun e => allocated e.2) = false ∨ q.start + 5000000 ≤ s.lt →
    exec .carvingFlipDrained s = .next (carveNow q s)) ∧
  (∀ (c : CmdCtx) (s : State), let u := markStarted c 0x0F02 s
    let f := fnFunc c
    let t := fnTarget c
    mayRun c 0x0F02 s → plenIs c 8 = true → parZero c 1 3 = true → parZero c 4 8 = true → fnKnown f = true →
    (f = 4 ∨ f = 11 ∨ f = 12 → t < 2) → (f ≠ 4 → f ≠ 11 → f ≠ 12 → t = 0) → heldByOther u c f t = false →
    exec (.fnResume c) s = .next (complete c 0x0F02 stOk []
      { u with fn := { u.fn with holds := u.fn.holds.filter (fun e => (e.1, e.2.1) ≠ holdKey f t) } })) ∧
  (∀ (c : CmdCtx) (image : Bytes) (s : State), let u := markStarted c 0x0F04 s
    let v := hostFetch c (leAt c.par 0 8) (leAt c.par 8 4) u
    mayRun c 0x0F04 s → s.flash.store = none → plenIs c 16 = true → parZero c 12 16 = true → u.brace = false →
    exec (.cfgStore c (some image)) s = .next (complete c 0x0F04 stAccepted []
      { v with flash := { v.flash with store := some (c, image.take (leAt c.par 8 4)) } })) ∧
  (∀ (c : CmdCtx) (img : Bytes) (flashErr : Bool) (s : State), s.flash.store = some (c, img) → triadRun s = true → engineHeld s = false →
    let r := storeResult s img flashErr
    exec (.cfgStoreDone flashErr) s = .next (raise 0x0F09 0 (evPay [(16, 1, r), (20, 4, leAt img 8 4)])
      { s with flash := { s.flash with store := none, image := if r = 0 then img else s.flash.image } }))

/-- The debug port and the links of Ethernet ports (R244, R286, R524, R604, R633 to R638, R649), with the servo row that firmware drives
(R248). -/
def Obligations.DebugPortAndLinksAct : Prop :=
  (∀ (code : Fin 256) (s : State), let a := jtagActs s code.val
    let refused := decide (code.val = 0x00 ∨ code.val = 0x03 ∨ code.val = 0x04) && decide (a = 0xFF)
    let u := s.modDbg (fun d => { d with instr := a, refused := d.refused || refused })
    exec (.jtagInstructionLoad code) s = .next (if a = 0x02 then u.emit (.jtag a (toLe 4 idcode))
      else if a = 0x10 then u.emit (.jtag a (toLe 4 (dbgStatus u))) else u)) ∧
  (∀ s : State, exec .tapReset s = .next (s.modDbg (fun d => { d with instr := 0x02 }))) ∧
  (∀ s : State, s.dbg.instr = 0x11 → s.dbg.verifying = none → exec .dbgChallengeRead s = .next
    (((s.drewN 16).modDbg (fun d => { d with challenge := some (newChallenge s, s.lt + 60 * sec) })).emit (.jtag 0x11 (newChallenge s)))) ∧
  (∀ (r : Bytes) (s : State), s.dbg.instr = 0x12 → dbgDis s = false → s.dbg.verifying = none →
    exec (.dbgResponseLoad r) s = .next (s.modDbg (fun d => { d with verifying := some (slice r 0 97), attempts := d.attempts + 1 }))) ∧
  (∀ (r : Bytes) (s : State), s.pwr.state = 0 → s.dbg.verifying = some r → let u := s.modDbg (fun d => { d with verifying := none })
    exec .dbgVerifyDone s = .next (if dbgCorrect s r then dbgUnlock ((s.dbg.challenge.map (·.1)).getD []) u
      else u.modDbg (fun d => { d with challenge := none, fails := min 3 (d.fails + 1), lockedOut := d.lockedOut || decide (2 ≤ d.fails) }))) ∧
  (∀ (ch : Bytes) (t : Nat) (s : State), s.dbg.challenge = some (ch, t) → t ≤ s.lt → s.dbg.verifying = none →
    exec .dbgChallengeExpiry s = .next (s.modDbg (fun d => { d with challenge := none }))) ∧
  (∀ (p : Port) (rate : Nat) (eee : Bool) (s : State), isEthPort p.val = true → ¬ (32 ≤ p.val ∧ p.val ≤ 39) → mayTrain s p.val = true →
    (rateOfPort p.val rate = true → exec (.ethernetLinkUp p rate eee) s = .next (linkUp p.val rate eee s)) ∧
    (rateOfPort p.val rate = false → exec (.ethernetLinkUp p rate eee) s = .fault .illFormed)) ∧
  (∀ (p : Port) (s : State), khas s.links p.val = true → s.fabricPort p.val = false → exec (.ethernetLinkDown p) s = .next (linkDown p.val s)) ∧
  (∀ (d : Fin 2) (kind : Fin 4) (send : List (Port × Bytes)) (lock : Bool) (s : State), s.pwr.state = 0 → triadRun s = true → s.flt.f3 = false →
    s.flag (TIME_DOM_CFG.SERVO d.val) = true →
    let on (p : Nat) : Bool := gptpPort s d.val p || (kind.val = 1 && gptpPort s (1 - d.val) p)
    let u := send.foldl (fun v e => if on e.1.val then svSend e.1.val e.2 v else v) s
    exec (.gptpTimerExpiry d kind send lock) s = .next (if kind.val = 3 then u.setDom d.val { u.dom d.val with locked := lock } else u))
end

