-- ==== Sys2Proof/Laws/Touches.lean ====
section
/-! SUPPORT. What a function may do to the state, as one relation: `Touches M s t` says that t differs from s at most in the parts that M
names, that no command was queued or taken, that what left the block stays, that free values are only ever taken, and that the canonical form
of registers and counters and the parity of LT are kept. Bit i of M is field i of `State` (1 registers, 2 counters, 3 free, 4 out, 5 bus,
6 hostA, 7 hostB, 8 flt, 9 time, 10 tabs, 11 pairMode, 12 hedge, 13 egr, 14 links, 15 brace, 16 mem, 17 streams, 18 pnHold, 19 gw, 20 dbg,
21 wake, 22 keys, 23 fab, 24 pair, 25 flash, 26 admJob, 27 pwr, 28 sup, 29 rst, 30 fn, 31 trn). -/

set_option linter.unusedSimpArgs false

namespace Sys2Proof.Machine

/-- The parts that a mask does not name are equal. -/
structure Agree (M : Nat) (s t : State) : Prop where
  regs : M.testBit 1 = false → t.regs = s.regs
  ctrs : M.testBit 2 = false → t.ctrs = s.ctrs
  free : M.testBit 3 = false → t.free = s.free
  out : M.testBit 4 = false → t.out = s.out
  bus : M.testBit 5 = false → t.bus = s.bus
  hostA : M.testBit 6 = false → t.hostA = s.hostA
  hostB : M.testBit 7 = false → t.hostB = s.hostB
  flt : M.testBit 8 = false → t.flt = s.flt
  time : M.testBit 9 = false → t.time = s.time
  tabs : M.testBit 10 = false → t.tabs = s.tabs
  pairMode : M.testBit 11 = false → t.pairMode = s.pairMode
  hedge : M.testBit 12 = false → t.hedge = s.hedge
  egr : M.testBit 13 = false → t.egr = s.egr
  links : M.testBit 14 = false → t.links = s.links
  brace : M.testBit 15 = false → t.brace = s.brace
  mem : M.testBit 16 = false → t.mem = s.mem
  streams : M.testBit 17 = false → t.streams = s.streams
  pnHold : M.testBit 18 = false → t.pnHold = s.pnHold
  gw : M.testBit 19 = false → t.gw = s.gw
  dbg : M.testBit 20 = false → t.dbg = s.dbg
  wake : M.testBit 21 = false → t.wake = s.wake
  keys : M.testBit 22 = false → t.keys = s.keys
  fab : M.testBit 23 = false → t.fab = s.fab
  pair : M.testBit 24 = false → t.pair = s.pair
  flash : M.testBit 25 = false → t.flash = s.flash
  admJob : M.testBit 26 = false → t.admJob = s.admJob
  pwr : M.testBit 27 = false → t.pwr = s.pwr
  sup : M.testBit 28 = false → t.sup = s.sup
  rst : M.testBit 29 = false → t.rst = s.rst
  fn : M.testBit 30 = false → t.fn = s.fn
  trn : M.testBit 31 = false → t.trn = s.trn

/-- What holds across every function of the model, whatever it touches. -/
structure Keeps (s t : State) : Prop where
  pending : t.pending = s.pending
  out : s.out <:+ t.out
  free : s.free ≤ t.free
  regs : Regs.wf s.regs = true → Regs.wf t.regs = true
  ctrs : Ctrs.wf s.ctrs = true → Ctrs.wf t.ctrs = true
  lt : s.time.lt % 2 = 0 → t.time.lt % 2 = 0

/-- t differs from s in the parts of M at most, and keeps what every function keeps. -/
structure Touches (M : Nat) (s t : State) : Prop where
  agree : Agree M s t
  keeps : Keeps s t

/-- The same for the state that an `Option` may hold. -/
def TouchesO (M : Nat) (s : State) : Option State → Prop
  | some t => Touches M s t
  | none => True

/-- The same for the next state of a meaning. -/
def TouchesR (M : Nat) (s : State) : Res → Prop
  | .next t => Touches M s t
  | _ => True

theorem Keeps.refl (s : State) : Keeps s s := ⟨rfl, List.suffix_refl _, Nat.le_refl _, id, id, id⟩

theorem Keeps.trans {r s t : State} (a : Keeps r s) (b : Keeps s t) : Keeps r t :=
  ⟨b.pending.trans a.pending, a.out.trans b.out, Nat.le_trans a.free b.free, fun h => b.regs (a.regs h), fun h => b.ctrs (a.ctrs h),
   fun h => b.lt (a.lt h)⟩

theorem Agree.refl (M : Nat) (s : State) : Agree M s s := by constructor <;> exact fun _ => rfl

theorem Agree.trans {M : Nat} {r s t : State} (a : Agree M r s) (b : Agree M s t) : Agree M r t := by
  constructor
  · exact fun h => (b.regs h).trans (a.regs h)
  · exact fun h => (b.ctrs h).trans (a.ctrs h)
  · exact fun h => (b.free h).trans (a.free h)
  · exact fun h => (b.out h).trans (a.out h)
  · exact fun h => (b.bus h).trans (a.bus h)
  · exact fun h => (b.hostA h).trans (a.hostA h)
  · exact fun h => (b.hostB h).trans (a.hostB h)
  · exact fun h => (b.flt h).trans (a.flt h)
  · exact fun h => (b.time h).trans (a.time h)
  · exact fun h => (b.tabs h).trans (a.tabs h)
  · exact fun h => (b.pairMode h).trans (a.pairMode h)
  · exact fun h => (b.hedge h).trans (a.hedge h)
  · exact fun h => (b.egr h).trans (a.egr h)
  · exact fun h => (b.links h).trans (a.links h)
  · exact fun h => (b.brace h).trans (a.brace h)
  · exact fun h => (b.mem h).trans (a.mem h)
  · exact fun h => (b.streams h).trans (a.streams h)
  · exact fun h => (b.pnHold h).trans (a.pnHold h)
  · exact fun h => (b.gw h).trans (a.gw h)
  · exact fun h => (b.dbg h).trans (a.dbg h)
  · exact fun h => (b.wake h).trans (a.wake h)
  · exact fun h => (b.keys h).trans (a.keys h)
  · exact fun h => (b.fab h).trans (a.fab h)
  · exact fun h => (b.pair h).trans (a.pair h)
  · exact fun h => (b.flash h).trans (a.flash h)
  · exact fun h => (b.admJob h).trans (a.admJob h)
  · exact fun h => (b.pwr h).trans (a.pwr h)
  · exact fun h => (b.sup h).trans (a.sup h)
  · exact fun h => (b.rst h).trans (a.rst h)
  · exact fun h => (b.fn h).trans (a.fn h)
  · exact fun h => (b.trn h).trans (a.trn h)

/-- A bit that the larger mask lacks, the smaller lacks too. -/
theorem bit_sub {F M : Nat} (h : F ||| M = M) (i : Nat) (k : M.testBit i = false) : F.testBit i = false := by
  have e : (F ||| M).testBit i = M.testBit i := by rw [h]
  rw [Nat.testBit_or, k, Bool.or_false] at e
  exact e

theorem tb {F i : Nat} {P : Prop} (e : F.testBit i = true) (h : F.testBit i = false) : P := by
  rw [e] at h
  exact absurd h (by decide)

theorem sub_trans {F G M : Nat} (h : F ||| G = G) (k : G ||| M = M) : F ||| M = M := by
  rw [← k, ← Nat.or_assoc, h]

theorem Agree.mono {F M : Nat} {s t : State} (a : Agree F s t) (h : F ||| M = M) : Agree M s t := by
  constructor
  · exact fun k => a.regs (bit_sub h 1 k)
  · exact fun k => a.ctrs (bit_sub h 2 k)
  · exact fun k => a.free (bit_sub h 3 k)
  · exact fun k => a.out (bit_sub h 4 k)
  · exact fun k => a.bus (bit_sub h 5 k)
  · exact fun k => a.hostA (bit_sub h 6 k)
  · exact fun k => a.hostB (bit_sub h 7 k)
  · exact fun k => a.flt (bit_sub h 8 k)
  · exact fun k => a.time (bit_sub h 9 k)
  · exact fun k => a.tabs (bit_sub h 10 k)
  · exact fun k => a.pairMode (bit_sub h 11 k)
  · exact fun k => a.hedge (bit_sub h 12 k)
  · exact fun k => a.egr (bit_sub h 13 k)
  · exact fun k => a.links (bit_sub h 14 k)
  · exact fun k => a.brace (bit_sub h 15 k)
  · exact fun k => a.mem (bit_sub h 16 k)
  · exact fun k => a.streams (bit_sub h 17 k)
  · exact fun k => a.pnHold (bit_sub h 18 k)
  · exact fun k => a.gw (bit_sub h 19 k)
  · exact fun k => a.dbg (bit_sub h 20 k)
  · exact fun k => a.wake (bit_sub h 21 k)
  · exact fun k => a.keys (bit_sub h 22 k)
  · exact fun k => a.fab (bit_sub h 23 k)
  · exact fun k => a.pair (bit_sub h 24 k)
  · exact fun k => a.flash (bit_sub h 25 k)
  · exact fun k => a.admJob (bit_sub h 26 k)
  · exact fun k => a.pwr (bit_sub h 27 k)
  · exact fun k => a.sup (bit_sub h 28 k)
  · exact fun k => a.rst (bit_sub h 29 k)
  · exact fun k => a.fn (bit_sub h 30 k)
  · exact fun k => a.trn (bit_sub h 31 k)

theorem Touches.refl (M : Nat) (s : State) : Touches M s s := ⟨Agree.refl M s, Keeps.refl s⟩

theorem Touches.trans {M : Nat} {r s t : State} (a : Touches M r s) (b : Touches M s t) : Touches M r t :=
  ⟨a.agree.trans b.agree, a.keeps.trans b.keeps⟩

theorem Touches.mono {F M : Nat} {s t : State} (a : Touches F s t) (h : F ||| M = M) : Touches M s t := ⟨a.agree.mono h, a.keeps⟩

/-- One more function, which touches less. -/
theorem Touches.step {F M : Nat} {r s t : State} (a : Touches M r s) (b : Touches F s t) (h : F ||| M = M) : Touches M r t :=
  a.trans (b.mono h)

theorem Touches.ite {c : Prop} [Decidable c] {M : Nat} {s a b : State} (yes : Touches M s a) (no : Touches M s b) : Touches M s (if c then a else b) := by
  split <;> assumption

theorem Touches.foldl {α : Type} {M : Nat} {r : State} {f : State → α → State} (h : ∀ t x, Touches M r t → Touches M r (f t x)) :
    ∀ (l : List α) (s : State), Touches M r s → Touches M r (l.foldl f s)
  | [], _, hs => hs
  | x :: l, s, hs => Touches.foldl h l (f s x) (h s x hs)

theorem Touches.foldlD {α : Type} {M : Nat} {r s : State} {f : State → α → State} {l : List α} (hs : Touches M r s)
    (h : ∀ t x, Touches M r t → Touches M r (f t x)) : Touches M r (l.foldl f s) := Touches.foldl h l s hs

theorem Touches.foldlP {α β : Type} {M : Nat} {r : State} {f : β × State → α → β × State} (h : ∀ t x, Touches M r t.2 → Touches M r (f t x).2) :
    ∀ (l : List α) (s : β × State), Touches M r s.2 → Touches M r (l.foldl f s).2
  | [], _, hs => hs
  | x :: l, s, hs => Touches.foldlP h l (f s x) (h s x hs)

theorem Touches.snd {α : Type} {M : Nat} {s t : State} {a : α} {p : α × State} (tp : Touches M s p.2) (eqn : p = (a, t)) : Touches M s t := by
  rw [eqn] at tp
  exact tp

theorem Touches.fst {α : Type} {M : Nat} {s t : State} {a : α} {p : State × α} (tp : Touches M s p.1) (eqn : p = (t, a)) : Touches M s t := by
  rw [eqn] at tp
  exact tp

theorem Touches.thd {α β : Type} {M : Nat} {s t : State} {a : α} {b : β} {p : α × β × State} (tp : Touches M s p.2.2) (eqn : p = (a, b, t)) : Touches M s t := by
  rw [eqn] at tp
  exact tp

theorem TouchesO.get {M : Nat} {s t : State} {o : Option State} (tp : TouchesO M s o) (eqn : o = some t) : Touches M s t := by
  rw [eqn] at tp
  exact tp

theorem TouchesR.get {M : Nat} {s t : State} {o : Res} (tp : TouchesR M s o) (eqn : o = .next t) : Touches M s t := by
  rw [eqn] at tp
  exact tp

theorem TouchesR.ite {c : Prop} [Decidable c] {M : Nat} {s : State} {a b : Res} (yes : TouchesR M s a) (no : TouchesR M s b) :
    TouchesR M s (if c then a else b) := by split <;> assumption

theorem TouchesO.ite {c : Prop} [Decidable c] {M : Nat} {s : State} {a b : Option State} (yes : TouchesO M s a) (no : TouchesO M s b) :
    TouchesO M s (if c then a else b) := by split <;> assumption

theorem TouchesR.step {F M : Nat} {r s : State} {o : Res} (a : Touches M r s) (b : TouchesR F s o) (h : F ||| M = M) : TouchesR M r o := by
  cases o with
  | next t => exact a.step b h
  | fault _ => trivial
  | refused _ => trivial

theorem TouchesO.step {F M : Nat} {r s : State} {o : Option State} (a : Touches M r s) (b : TouchesO F s o) (h : F ||| M = M) : TouchesO M r o := by
  cases o with
  | some t => exact a.step b h
  | none => trivial

/-- A record update: queue, outputs, free values, registers, counters and LT as before. -/
theorem Touches.lit {M F : Nat} {r s : State} {x1 : Keyed Word} {x2 : Keyed Nat} {x3 : Nat} {x4 : List Output} {x5 : BusSt} {x6 : HostSt} {x7 : HostSt} {x8 : FltSt} {x9 : TimeSt} {x10 : Keyed QTab} {x11 : Nat} {x12 : HedgeSt} {x13 : EgrSt} {x14 : Keyed Link} {x15 : Bool} {x16 : MemSt} {x17 : Keyed Stream} {x18 : Nat} {x19 : GwSt} {x20 : DbgSt} {x21 : WakeSt} {x22 : KeySt} {x23 : FabSt} {x24 : PairSt} {x25 : FlashSt} {x26 : AdmJob} {x27 : PwrSt} {x28 : SupSt} {x29 : RstSt} {x30 : FnSt} {x31 : TrnSt}
    (hs : Touches M r s) (l1 : x4 = s.out) (l2 : x3 = s.free)
    (l3 : x1 = s.regs) (l4 : x2 = s.ctrs) (l5 : x9.lt = s.time.lt) (ag : Agree F s ⟨s.pending, x1, x2, x3, x4, x5, x6, x7, x8, x9, x10, x11, x12, x13, x14, x15, x16, x17, x18, x19, x20, x21, x22, x23, x24, x25, x26, x27, x28, x29, x30, x31⟩)
    (hm : F ||| M = M) : Touches M r ⟨s.pending, x1, x2, x3, x4, x5, x6, x7, x8, x9, x10, x11, x12, x13, x14, x15, x16, x17, x18, x19, x20, x21, x22, x23, x24, x25, x26, x27, x28, x29, x30, x31⟩ :=
  hs.step ⟨ag, rfl, l1 ▸ List.suffix_refl _, l2 ▸ Nat.le_refl _, fun k => l3 ▸ k, fun k => l4 ▸ k, fun k => l5 ▸ k⟩ hm

/-! One field at a time. -/

theorem Touches.bus {M : Nat} {r s : State} {x} (hs : Touches M r s) (hm : 0x20 ||| M = M) : Touches M r { s with bus := x } :=
  hs.step (F := 0x20) ⟨by constructor <;> first | exact tb rfl | exact fun _ => rfl, ⟨rfl, List.suffix_refl _, Nat.le_refl _, id, id, id⟩⟩ hm

theorem Touches.hostA {M : Nat} {r s : State} {x} (hs : Touches M r s) (hm : 0x40 ||| M = M) : Touches M r { s with hostA := x } :=
  hs.step (F := 0x40) ⟨by constructor <;> first | exact tb rfl | exact fun _ => rfl, ⟨rfl, List.suffix_refl _, Nat.le_refl _, id, id, id⟩⟩ hm

theorem Touches.hostB {M : Nat} {r s : State} {x} (hs : Touches M r s) (hm : 0x80 ||| M = M) : Touches M r { s with hostB := x } :=
  hs.step (F := 0x80) ⟨by constructor <;> first | exact tb rfl | exact fun _ => rfl, ⟨rfl, List.suffix_refl _, Nat.le_refl _, id, id, id⟩⟩ hm

theorem Touches.flt {M : Nat} {r s : State} {x} (hs : Touches M r s) (hm : 0x100 ||| M = M) : Touches M r { s with flt := x } :=
  hs.step (F := 0x100) ⟨by constructor <;> first | exact tb rfl | exact fun _ => rfl, ⟨rfl, List.suffix_refl _, Nat.le_refl _, id, id, id⟩⟩ hm

theorem Touches.time {M : Nat} {r s : State} {x} (hs : Touches M r s) (hl : x.lt = s.time.lt) (hm : 0x200 ||| M = M) : Touches M r { s with time := x } :=
  hs.step (F := 0x200) ⟨by constructor <;> first | exact tb rfl | exact fun _ => rfl, ⟨rfl, List.suffix_refl _, Nat.le_refl _, id, id, fun k => hl ▸ k⟩⟩ hm

theorem Touches.tabs {M : Nat} {r s : State} {x} (hs : Touches M r s) (hm : 0x400 ||| M = M) : Touches M r { s with tabs := x } :=
  hs.step (F := 0x400) ⟨by constructor <;> first | exact tb rfl | exact fun _ => rfl, ⟨rfl, List.suffix_refl _, Nat.le_refl _, id, id, id⟩⟩ hm

theorem Touches.pairMode {M : Nat} {r s : State} {x} (hs : Touches M r s) (hm : 0x800 ||| M = M) : Touches M r { s with pairMode := x } :=
  hs.step (F := 0x800) ⟨by constructor <;> first | exact tb rfl | exact fun _ => rfl, ⟨rfl, List.suffix_refl _, Nat.le_refl _, id, id, id⟩⟩ hm

theorem Touches.hedge {M : Nat} {r s : State} {x} (hs : Touches M r s) (hm : 0x1000 ||| M = M) : Touches M r { s with hedge := x } :=
  hs.step (F := 0x1000) ⟨by constructor <;> first | exact tb rfl | exact fun _ => rfl, ⟨rfl, List.suffix_refl _, Nat.le_refl _, id, id, id⟩⟩ hm

theorem Touches.egr {M : Nat} {r s : State} {x} (hs : Touches M r s) (hm : 0x2000 ||| M = M) : Touches M r { s with egr := x } :=
  hs.step (F := 0x2000) ⟨by constructor <;> first | exact tb rfl | exact fun _ => rfl, ⟨rfl, List.suffix_refl _, Nat.le_refl _, id, id, id⟩⟩ hm

theorem Touches.links {M : Nat} {r s : State} {x} (hs : Touches M r s) (hm : 0x4000 ||| M = M) : Touches M r { s with links := x } :=
  hs.step (F := 0x4000) ⟨by constructor <;> first | exact tb rfl | exact fun _ => rfl, ⟨rfl, List.suffix_refl _, Nat.le_refl _, id, id, id⟩⟩ hm

theorem Touches.brace {M : Nat} {r s : State} {x} (hs : Touches M r s) (hm : 0x8000 ||| M = M) : Touches M r { s with brace := x } :=
  hs.step (F := 0x8000) ⟨by constructor <;> first | exact tb rfl | exact fun _ => rfl, ⟨rfl, List.suffix_refl _, Nat.le_refl _, id, id, id⟩⟩ hm

theorem Touches.mem {M : Nat} {r s : State} {x} (hs : Touches M r s) (hm : 0x10000 ||| M = M) : Touches M r { s with mem := x } :=
  hs.step (F := 0x10000) ⟨by constructor <;> first | exact tb rfl | exact fun _ => rfl, ⟨rfl, List.suffix_refl _, Nat.le_refl _, id, id, id⟩⟩ hm

theorem Touches.streams {M : Nat} {r s : State} {x} (hs : Touches M r s) (hm : 0x20000 ||| M = M) : Touches M r { s with streams := x } :=
  hs.step (F := 0x20000) ⟨by constructor <;> first | exact tb rfl | exact fun _ => rfl, ⟨rfl, List.suffix_refl _, Nat.le_refl _, id, id, id⟩⟩ hm

theorem Touches.pnHold {M : Nat} {r s : State} {x} (hs : Touches M r s) (hm : 0x40000 ||| M = M) : Touches M r { s with pnHold := x } :=
  hs.step (F := 0x40000) ⟨by constructor <;> first | exact tb rfl | exact fun _ => rfl, ⟨rfl, List.suffix_refl _, Nat.le_refl _, id, id, id⟩⟩ hm

theorem Touches.gw {M : Nat} {r s : State} {x} (hs : Touches M r s) (hm : 0x80000 ||| M = M) : Touches M r { s with gw := x } :=
  hs.step (F := 0x80000) ⟨by constructor <;> first | exact tb rfl | exact fun _ => rfl, ⟨rfl, List.suffix_refl _, Nat.le_refl _, id, id, id⟩⟩ hm

theorem Touches.dbg {M : Nat} {r s : State} {x} (hs : Touches M r s) (hm : 0x100000 ||| M = M) : Touches M r { s with dbg := x } :=
  hs.step (F := 0x100000) ⟨by constructor <;> first | exact tb rfl | exact fun _ => rfl, ⟨rfl, List.suffix_refl _, Nat.le_refl _, id, id, id⟩⟩ hm

theorem Touches.wake {M : Nat} {r s : State} {x} (hs : Touches M r s) (hm : 0x200000 ||| M = M) : Touches M r { s with wake := x } :=
  hs.step (F := 0x200000) ⟨by constructor <;> first | exact tb rfl | exact fun _ => rfl, ⟨rfl, List.suffix_refl _, Nat.le_refl _, id, id, id⟩⟩ hm

theorem Touches.keys {M : Nat} {r s : State} {x} (hs : Touches M r s) (hm : 0x400000 ||| M = M) : Touches M r { s with keys := x } :=
  hs.step (F := 0x400000) ⟨by constructor <;> first | exact tb rfl | exact fun _ => rfl, ⟨rfl, List.suffix_refl _, Nat.le_refl _, id, id, id⟩⟩ hm

theorem Touches.fab {M : Nat} {r s : State} {x} (hs : Touches M r s) (hm : 0x800000 ||| M = M) : Touches M r { s with fab := x } :=
  hs.step (F := 0x800000) ⟨by constructor <;> first | exact tb rfl | exact fun _ => rfl, ⟨rfl, List.suffix_refl _, Nat.le_refl _, id, id, id⟩⟩ hm

theorem Touches.pair {M : Nat} {r s : State} {x} (hs : Touches M r s) (hm : 0x1000000 ||| M = M) : Touches M r { s with pair := x } :=
  hs.step (F := 0x1000000) ⟨by constructor <;> first | exact tb rfl | exact fun _ => rfl, ⟨rfl, List.suffix_refl _, Nat.le_refl _, id, id, id⟩⟩ hm

theorem Touches.flash {M : Nat} {r s : State} {x} (hs : Touches M r s) (hm : 0x2000000 ||| M = M) : Touches M r { s with flash := x } :=
  hs.step (F := 0x2000000) ⟨by constructor <;> first | exact tb rfl | exact fun _ => rfl, ⟨rfl, List.suffix_refl _, Nat.le_refl _, id, id, id⟩⟩ hm

theorem Touches.admJob {M : Nat} {r s : State} {x} (hs : Touches M r s) (hm : 0x4000000 ||| M = M) : Touches M r { s with admJob := x } :=
  hs.step (F := 0x4000000) ⟨by constructor <;> first | exact tb rfl | exact fun _ => rfl, ⟨rfl, List.suffix_refl _, Nat.le_refl _, id, id, id⟩⟩ hm

theorem Touches.pwr {M : Nat} {r s : State} {x} (hs : Touches M r s) (hm : 0x8000000 ||| M = M) : Touches M r { s with pwr := x } :=
  hs.step (F := 0x8000000) ⟨by constructor <;> first | exact tb rfl | exact fun _ => rfl, ⟨rfl, List.suffix_refl _, Nat.le_refl _, id, id, id⟩⟩ hm

theorem Touches.sup {M : Nat} {r s : State} {x} (hs : Touches M r s) (hm : 0x10000000 ||| M = M) : Touches M r { s with sup := x } :=
  hs.step (F := 0x10000000) ⟨by constructor <;> first | exact tb rfl | exact fun _ => rfl, ⟨rfl, List.suffix_refl _, Nat.le_refl _, id, id, id⟩⟩ hm

theorem Touches.rst {M : Nat} {r s : State} {x} (hs : Touches M r s) (hm : 0x20000000 ||| M = M) : Touches M r { s with rst := x } :=
  hs.step (F := 0x20000000) ⟨by constructor <;> first | exact tb rfl | exact fun _ => rfl, ⟨rfl, List.suffix_refl _, Nat.le_refl _, id, id, id⟩⟩ hm

theorem Touches.fn {M : Nat} {r s : State} {x} (hs : Touches M r s) (hm : 0x40000000 ||| M = M) : Touches M r { s with fn := x } :=
  hs.step (F := 0x40000000) ⟨by constructor <;> first | exact tb rfl | exact fun _ => rfl, ⟨rfl, List.suffix_refl _, Nat.le_refl _, id, id, id⟩⟩ hm

theorem Touches.trn {M : Nat} {r s : State} {x} (hs : Touches M r s) (hm : 0x80000000 ||| M = M) : Touches M r { s with trn := x } :=
  hs.step (F := 0x80000000) ⟨by constructor <;> first | exact tb rfl | exact fun _ => rfl, ⟨rfl, List.suffix_refl _, Nat.le_refl _, id, id, id⟩⟩ hm

/-! Keyed tables. -/

theorem rising_cons {α : Type} {k : Nat} {v : α} {m : Keyed α} : Keyed.rising ((k, v) :: m) = true ↔ (∀ e ∈ m, k < e.1) ∧ Keyed.rising m = true := by
  induction m generalizing k v with
  | nil => simp [Keyed.rising]
  | cons e r ih =>
    obtain ⟨b, y⟩ := e
    rw [Keyed.rising, Bool.and_eq_true, decide_eq_true_iff]
    constructor
    · rintro ⟨h, k⟩
      refine ⟨?_, k⟩
      intro e he
      rcases List.mem_cons.mp he with rfl | he
      · exact h
      · exact Nat.lt_trans h ((ih.mp k).1 e he)
    · rintro ⟨h, k⟩
      exact ⟨h (b, y) (List.mem_cons_self ..), k⟩

/-- Every entry of a table after a put is the new one or an old one. -/
theorem mem_kput {α : Type} {m : Keyed α} {i : Nat} {x : α} {e : Nat × α} (h : e ∈ kput m i x) : e = (i, x) ∨ e ∈ m := by
  induction m with
  | nil => simp [kput] at h; exact Or.inl h
  | cons a r ih =>
    obtain ⟨k, v⟩ := a
    unfold kput at h
    split at h
    · rcases List.mem_cons.mp h with h | h
      · exact Or.inl h
      · exact Or.inr h
    · split at h
      · rename_i hk
        rcases List.mem_cons.mp h with h | h
        · exact Or.inl (by rw [h, hk])
        · exact Or.inr (List.mem_cons_of_mem _ h)
      · rcases List.mem_cons.mp h with h | h
        · exact Or.inr (h ▸ List.mem_cons_self ..)
        · rcases ih h with h | h
          · exact Or.inl h
          · exact Or.inr (List.mem_cons_of_mem _ h)

theorem mem_kdel {α : Type} {m : Keyed α} {i : Nat} {e : Nat × α} (h : e ∈ kdel m i) : e ∈ m := by
  induction m with
  | nil => simp [kdel] at h
  | cons a r ih =>
    obtain ⟨k, v⟩ := a
    unfold kdel at h
    split at h
    · exact List.mem_cons_of_mem _ h
    · rcases List.mem_cons.mp h with h | h
      · exact h ▸ List.mem_cons_self ..
      · exact List.mem_cons_of_mem _ (ih h)

/-- A put keeps the keys in rising order. -/
theorem rising_kput {α : Type} {m : Keyed α} {i : Nat} {x : α} (h : Keyed.rising m = true) : Keyed.rising (kput m i x) = true := by
  induction m with
  | nil => simp [kput, Keyed.rising]
  | cons a r ih =>
    obtain ⟨k, v⟩ := a
    obtain ⟨h1, h2⟩ := rising_cons.mp h
    unfold kput
    split
    · rename_i hk
      refine rising_cons.mpr ⟨?_, h⟩
      intro e he
      rcases List.mem_cons.mp he with rfl | he
      · exact hk
      · exact Nat.lt_trans hk (h1 e he)
    · split
      · exact rising_cons.mpr ⟨h1, h2⟩
      · refine rising_cons.mpr ⟨?_, ih h2⟩
        intro e he
        rcases mem_kput he with rfl | he
        · show k < i
          omega
        · exact h1 e he

/-- A removal keeps the keys in rising order. -/
theorem rising_kdel {α : Type} {m : Keyed α} {i : Nat} (h : Keyed.rising m = true) : Keyed.rising (kdel m i) = true := by
  induction m with
  | nil => simp [kdel, Keyed.rising]
  | cons a r ih =>
    obtain ⟨k, v⟩ := a
    obtain ⟨h1, h2⟩ := rising_cons.mp h
    unfold kdel
    split
    · exact h2
    · exact rising_cons.mpr ⟨fun e he => h1 e (mem_kdel he), ih h2⟩

/-- Keeping entries, with the same keys, keeps the keys in rising order. -/
theorem rising_filterMap {α : Type} {f : Nat × α → Option (Nat × α)} (hf : ∀ e x, f e = some x → x.1 = e.1) {m : Keyed α}
    (h : Keyed.rising m = true) : Keyed.rising (m.filterMap f) = true := by
  induction m with
  | nil => simp [Keyed.rising]
  | cons a r ih =>
    obtain ⟨k, v⟩ := a
    obtain ⟨h1, h2⟩ := rising_cons.mp h
    rw [List.filterMap_cons]
    split
    · exact ih h2
    · rename_i x hx
      obtain ⟨k', v'⟩ := x
      have : k' = k := hf _ _ hx
      subst this
      refine rising_cons.mpr ⟨?_, ih h2⟩
      intro e he
      obtain ⟨a, ha, hb⟩ := List.mem_filterMap.mp he
      rw [hf _ _ hb]
      exact h1 a ha

/-! Registers and counters in canonical form. -/

/-- The canonical form, entry by entry. -/
theorem regs_wf_iff {m : Keyed Word} :
    Regs.wf m = true ↔ Keyed.rising m = true ∧ ∀ e ∈ m, e.2.toNat ≠ regReset e.1 % 2 ^ 32 ∧ e.2.toNat &&& wordMask e.1 = e.2.toNat := by
  simp only [Regs.wf, Bool.and_eq_true, List.all_eq_true, decide_eq_true_iff]

theorem ctrs_wf_iff {m : Keyed Nat} : Ctrs.wf m = true ↔ Keyed.rising m = true ∧ ∀ e ∈ m, 0 < e.2 ∧ e.2 ≤ ctrMax := by
  simp only [Ctrs.wf, Bool.and_eq_true, List.all_eq_true, decide_eq_true_iff]

theorem word_toNat (n : Nat) : (word n).toNat = n % 2 ^ 32 := by simp [word]

theorem and_mod_mask (v m : Nat) : (v &&& m) % 2 ^ 32 &&& m = (v &&& m) % 2 ^ 32 := by
  apply Nat.eq_of_testBit_eq
  intro i
  simp only [Nat.testBit_and, Nat.testBit_mod_two_pow]
  cases v.testBit i <;> cases m.testBit i <;> simp

theorem mem_kset {α : Type} {m : Keyed α} {i : Nat} {o : Option α} {e : Nat × α} (h : e ∈ kset m i o) : (e.1 = i ∧ o = some e.2) ∨ e ∈ m := by
  have opt : ∀ k, e ∈ o.toList.map (fun x => (k, x)) → e.1 = k ∧ o = some e.2 := by
    intro k h
    obtain ⟨x, hx, rfl⟩ := List.mem_map.mp h
    exact ⟨rfl, Option.mem_toList.mp hx⟩
  induction m with
  | nil => exact Or.inl (opt i h)
  | cons a r ih =>
    obtain ⟨k, v⟩ := a
    unfold kset at h
    split at h
    · rcases List.mem_append.mp h with h | h
      · exact Or.inl (opt i h)
      · exact Or.inr h
    · split at h
      · rename_i hk
        rcases List.mem_append.mp h with h | h
        · exact Or.inl (hk ▸ opt k h)
        · exact Or.inr (List.mem_cons_of_mem _ h)
      · rcases List.mem_cons.mp h with rfl | h
        · exact Or.inr (List.mem_cons_self ..)
        · rcases ih h with h | h
          · exact Or.inl h
          · exact Or.inr (List.mem_cons_of_mem _ h)

theorem rising_kset {α : Type} {m : Keyed α} {i : Nat} {o : Option α} (h : Keyed.rising m = true) : Keyed.rising (kset m i o) = true := by
  induction m with
  | nil => cases o <;> simp [kset, Keyed.rising]
  | cons a r ih =>
    obtain ⟨k, v⟩ := a
    obtain ⟨h1, h2⟩ := rising_cons.mp h
    unfold kset
    split
    · rename_i hk
      cases o with
      | none => exact h
      | some x =>
        refine rising_cons.mpr ⟨fun e he => ?_, h⟩
        rcases List.mem_cons.mp he with rfl | he
        · exact hk
        · exact Nat.lt_trans hk (h1 e he)
    · split
      · cases o with
        | none => exact h2
        | some x => exact rising_cons.mpr ⟨h1, h2⟩
      · refine rising_cons.mpr ⟨fun e he => ?_, ih h2⟩
        rcases mem_kset he with ⟨he, -⟩ | he
        · show k < e.1
          omega
        · exact h1 e he

/-- A register write keeps the canonical form: keys rise, no reset value is listed, and reserved bits stay 0 (R8). -/
theorem regs_wf_regSet {m : Keyed Word} {a v : Nat} (h : Regs.wf m = true) : Regs.wf (regSet m a v) = true := by
  obtain ⟨h1, h2⟩ := regs_wf_iff.mp h
  unfold regSet
  refine regs_wf_iff.mpr ⟨rising_kset h1, fun e he => ?_⟩
  rcases mem_kset he with ⟨hk, hv⟩ | he
  · obtain ⟨k, w⟩ := e
    dsimp only at hk hv ⊢
    subst hk
    unfold regWord at hv
    dsimp only at hv
    split at hv
    · exact absurd hv (by simp)
    · rename_i hn
      rw [← Option.some.inj hv, word_toNat]
      exact ⟨hn, and_mod_mask v _⟩
  · exact h2 e he

/-- The mask of some fields lies in the mask of all. -/
theorem rowMask_fold (r : RegRow) (is : List Nat) (p : FieldSpec → Bool) (fs : List FieldSpec) (i : Nat) :
    ∀ m n : Nat, (m.testBit i = true → n.testBit i = true) →
    (fs.foldl (fun m f => if p f && !fieldAbsent r.base is f then m ||| onesMask f.hi f.lo else m) m).testBit i = true →
    (fs.foldl (fun m f => if true && !fieldAbsent r.base is f then m ||| onesMask f.hi f.lo else m) n).testBit i = true := by
  induction fs with
  | nil => exact fun m n h k => h k
  | cons f fs ih =>
    intro m n h k
    refine ih _ _ ?_ k
    show (if (p f && !fieldAbsent r.base is f) = true then m ||| onesMask f.hi f.lo else m).testBit i = true →
      (if (true && !fieldAbsent r.base is f) = true then n ||| onesMask f.hi f.lo else n).testBit i = true
    cases p f <;> cases fieldAbsent r.base is f <;> simp
    · exact fun x => Or.inl (h x)
    · exact h
    · exact fun x => x.imp h id
    · exact h

/-- A word within its mask stays within it when classes are lost. -/
theorem retainWord_mask {l : Lost} {a v : Nat} (h : v &&& wordMask a = v) (hr : v ≠ 0) : retainWord l a v &&& wordMask a = retainWord l a v := by
  unfold retainWord
  split
  · rename_i r is hf
    have hm : wordMask a = if r.wide then 0 else rowMask r is (fun _ => true) := by simp [wordMask, hf]
    cases hw : r.wide with
    | true =>
      rw [hm, hw, if_pos rfl, Nat.and_zero] at h
      exact absurd h.symm hr
    | false =>
      rw [hw, if_neg (by decide)] at hm
      dsimp only
      apply Nat.eq_of_testBit_eq
      intro i
      have hi : (v.testBit i && (wordMask a).testBit i) = v.testBit i := by rw [← Nat.testBit_and, h]
      have hs : (rowMask r is fun f => l.has f.keep).testBit i = true → (wordMask a).testBit i = true := by
        rw [hm]
        exact rowMask_fold r is _ r.fields i 0 0 id
      simp only [Nat.testBit_and, Nat.testBit_or]
      cases hv : v.testBit i <;> cases hx : (wordMask a).testBit i <;> cases hy : (rowMask r is fun f => l.has f.keep).testBit i <;>
        simp_all
  · exact h

theorem retain_entry {l : Lost} {e : Nat × Word} (h : e.2.toNat ≠ regReset e.1 % 2 ^ 32 ∧ e.2.toNat &&& wordMask e.1 = e.2.toNat)
    (hn : retainWord l e.1 e.2.toNat % 2 ^ 32 ≠ regReset e.1 % 2 ^ 32) :
    (word (retainWord l e.1 e.2.toNat)).toNat ≠ regReset e.1 % 2 ^ 32 ∧
    (word (retainWord l e.1 e.2.toNat)).toNat &&& wordMask e.1 = (word (retainWord l e.1 e.2.toNat)).toNat := by
  rw [word_toNat]
  refine ⟨hn, ?_⟩
  by_cases hz : e.2.toNat = 0
  · by_cases hk : retainWord l e.1 e.2.toNat &&& wordMask e.1 = retainWord l e.1 e.2.toNat
    · rw [← hk]
      exact and_mod_mask _ _
    · exfalso
      apply hk
      revert hn
      unfold retainWord
      split
      · rename_i r is hf
        have hm : wordMask e.1 = if r.wide then 0 else rowMask r is (fun _ => true) := by simp [wordMask, hf]
        have hg : regReset e.1 = if r.wide then 0 else rowReset r is := by simp [regReset, hf]
        intro hn
        cases hw : r.wide with
        | true =>
          rw [hg, hw, if_pos rfl] at h
          exact absurd hz h.1
        | false =>
          rw [hw, if_neg (by decide)] at hm
          dsimp only
          rw [hz]
          apply Nat.eq_of_testBit_eq
          intro i
          have hs : (rowMask r is fun f => l.has f.keep).testBit i = true → (wordMask e.1).testBit i = true := by
            rw [hm]
            exact rowMask_fold r is _ r.fields i 0 0 id
          simp only [Nat.testBit_and, Nat.testBit_or, Nat.zero_testBit]
          cases hx : (wordMask e.1).testBit i <;> cases hy : (rowMask r is fun f => l.has f.keep).testBit i <;> simp_all
      · intro _
        rw [hz, Nat.zero_and]
  · have hk := retainWord_mask (l := l) h.2 hz
    rw [← hk]
    exact and_mod_mask _ _

theorem mem_regsRetain {l : Lost} {m : Keyed Word} {e : Nat × Word} (h : e ∈ regsRetain l m) :
    ∃ v, (e.1, v) ∈ m ∧ retainWord l e.1 v.toNat % 2 ^ 32 ≠ regReset e.1 % 2 ^ 32 ∧ e.2 = word (retainWord l e.1 v.toNat) := by
  induction m with
  | nil => simp [regsRetain] at h
  | cons a r ih =>
    obtain ⟨k, v⟩ := a
    unfold regsRetain at h
    dsimp only at h
    split at h
    · obtain ⟨w, hw, hx⟩ := ih h
      exact ⟨w, List.mem_cons_of_mem _ hw, hx⟩
    · rename_i hn
      rcases List.mem_cons.mp h with h | h
      · subst h
        exact ⟨v, List.mem_cons_self .., hn, rfl⟩
      · obtain ⟨w, hw, hx⟩ := ih h
        exact ⟨w, List.mem_cons_of_mem _ hw, hx⟩

theorem rising_regsRetain {l : Lost} {m : Keyed Word} (h : Keyed.rising m = true) : Keyed.rising (regsRetain l m) = true := by
  induction m with
  | nil => simp [regsRetain, Keyed.rising]
  | cons a r ih =>
    obtain ⟨k, v⟩ := a
    obtain ⟨h1, h2⟩ := rising_cons.mp h
    unfold regsRetain
    dsimp only
    split
    · exact ih h2
    · refine rising_cons.mpr ⟨?_, ih h2⟩
      intro e he
      obtain ⟨w, hw, -⟩ := mem_regsRetain he
      exact h1 (e.1, w) hw

/-- Losing classes keeps the canonical form (R10). -/
theorem regs_wf_regsRetain {l : Lost} {m : Keyed Word} (h : Regs.wf m = true) : Regs.wf (regsRetain l m) = true := by
  obtain ⟨h1, h2⟩ := regs_wf_iff.mp h
  refine regs_wf_iff.mpr ⟨rising_regsRetain h1, fun e he => ?_⟩
  obtain ⟨w, hw, hn, hv⟩ := mem_regsRetain he
  have := retain_entry (l := l) (h2 _ hw) hn
  rw [hv]
  exact this

/-- Losing counters keeps their canonical form. -/
theorem ctrs_wf_ctrsRetain {l : Lost} {m : Keyed Nat} (h : Ctrs.wf m = true) : Ctrs.wf (ctrsRetain l m) = true := by
  obtain ⟨h1, h2⟩ := ctrs_wf_iff.mp h
  unfold ctrsRetain
  refine ctrs_wf_iff.mpr ⟨?_, fun e he => h2 e (List.mem_filter.mp he).1⟩
  generalize (fun (e : Nat × Nat) => _) = p
  clear h2 h
  induction m with
  | nil => simp [Keyed.rising]
  | cons a r ih =>
    obtain ⟨k, v⟩ := a
    obtain ⟨h3, h4⟩ := rising_cons.mp h1
    rw [List.filter_cons]
    split
    · exact rising_cons.mpr ⟨fun e he => h3 e (List.mem_filter.mp he).1, ih h4⟩
    · exact ih h4

/-- Losing classes in an address range keeps the canonical form. -/
theorem regs_wf_range {l : Lost} {lo hi : Nat} {m : Keyed Word} (h : Regs.wf m = true) :
    Regs.wf (m.filterMap (fun e =>
      if lo ≤ e.1 && e.1 < hi then
        let w := retainWord l e.1 e.2.toNat
        if w % 2 ^ 32 = regReset e.1 % 2 ^ 32 then none else some (e.1, word w)
      else some e)) = true := by
  obtain ⟨h1, h2⟩ := regs_wf_iff.mp h
  refine regs_wf_iff.mpr ⟨rising_filterMap ?_ h1, fun e he => ?_⟩
  · intro e x hx
    dsimp only at hx
    split at hx
    · split at hx
      · exact absurd hx (by simp)
      · rw [← Option.some.inj hx]
    · rw [← Option.some.inj hx]
  · obtain ⟨a, ha, hb⟩ := List.mem_filterMap.mp he
    dsimp only at hb
    split at hb
    · split at hb
      · exact absurd hb (by simp)
      · rename_i hn
        rw [← Option.some.inj hb]
        exact retain_entry (h2 a ha) hn
    · rw [← Option.some.inj hb]
      exact h2 a ha

/-- A counter below 2^64 stays there (R36, R164). -/
theorem ctrAdd_le {a v n : Nat} : ctrAdd a v n ≤ ctrMax := by
  unfold ctrAdd ctrMax
  split <;> omega

/-- Setting a counter to a value of 64 bits keeps the canonical form. -/
theorem ctrs_wf_set {m : Keyed Nat} {a v : Nat} (h : Ctrs.wf m = true) (hv : v ≤ ctrMax) :
    Ctrs.wf (kset m a (if v = 0 then none else some v)) = true := by
  obtain ⟨h1, h2⟩ := ctrs_wf_iff.mp h
  refine ctrs_wf_iff.mpr ⟨rising_kset h1, fun e he => ?_⟩
  rcases mem_kset he with ⟨-, hx⟩ | he
  · split at hx
    · exact absurd hx (by simp)
    · rw [← Option.some.inj hx]
      exact ⟨by omega, hv⟩
  · exact h2 e he


/-- The type of a term. -/
abbrev TypeOf {α : Type} (_ : α) : Type := α

/-- What a state that a `let` names has gone through is shown once. -/
theorem Touches.cut (M : Nat) (r x : State) {P : Prop} (kk : Touches M r x → P) (vv : Touches M r x) : P := kk vv

theorem Touches.getD {M : Nat} {s d : State} {o : Option State} (opt : TouchesO M s o) (dflt : Touches M s d) : Touches M s (o.getD d) := by
  cases o with
  | some t => exact opt
  | none => exact dflt

theorem TouchesR.next {M : Nat} {s t : State} (h : Touches M s t) : TouchesR M s (.next t) := h

theorem TouchesR.fault (M : Nat) (s : State) (f : Fault) : TouchesR M s (.fault f) := trivial

theorem TouchesR.refused (M : Nat) (s : State) (f : Refusal) : TouchesR M s (.refused f) := trivial

theorem TouchesO.some {M : Nat} {s t : State} (h : Touches M s t) : TouchesO M s (some t) := h

theorem TouchesO.none (M : Nat) (s : State) : TouchesO M s none := trivial

end Sys2Proof.Machine
end

