-- ==== Sys2Proof/Laws/Ops.lean ====
section
/-! SUPPORT. What each function of Machine/Ops.lean touches: one lemma per function that answers a state. -/

set_option linter.tactic.unusedName false

namespace Sys2Proof.Machine

theorem stopBegins_touches {M : Nat} {r : State} (s : State) (hs : Touches M r s) (hm : 0x40000000 ||| M = M) :
    Touches M r (stopBegins s) := by
  refine Touches.step hs ?_ hm
  clear hs hm r M
  unfold stopBegins
  repeat' first
    | with_reducible assumption
    | with_reducible apply Touches.refl
    | (extract_lets -underBinder +onlyGivenNames x; (have hty : TypeOf x = State := by with_reducible rfl); clear hty; apply Touches.cut 0x40000000 s x; (case' kk => (clear_value x; intro _)); (case' vv => (unfold x; clear x)))
    | (extract_lets -underBinder +onlyGivenNames x; try clear_value x)
    | ((with_reducible apply Touches.fn); (case hm => rfl))

theorem State.setOutPin_touches {M : Nat} {r : State} (s : State) (a1 : Nat) (a2 : OutPin) (hs : Touches M r s) (hm : 0x200 ||| M = M) :
    Touches M r (State.setOutPin s a1 a2) := by
  refine Touches.step hs ?_ hm
  clear hs hm r M
  unfold State.setOutPin
  repeat' first
    | with_reducible assumption
    | with_reducible apply Touches.refl
    | (extract_lets -underBinder +onlyGivenNames x; (have hty : TypeOf x = State := by with_reducible rfl); clear hty; apply Touches.cut 0x200 s x; (case' kk => (clear_value x; intro _)); (case' vv => (unfold x; clear x)))
    | (extract_lets -underBinder +onlyGivenNames x)
    | ((with_reducible apply Touches.time); (case hm => rfl); (case hl => rfl))

theorem State.setCtr_touches {M : Nat} {r : State} (s : State) (a v : Nat) (h : v ≤ ctrMax) (hs : Touches M r s) (hm : 0x4 ||| M = M) : Touches M r (s.setCtr a v) :=
  Touches.step hs (F := 0x4) ⟨by constructor <;> intro h <;> first | with_reducible rfl | exact absurd h (by decide) | rfl,
   ⟨rfl, List.suffix_refl _, Nat.le_refl _, id, fun k => ctrs_wf_set k h, id⟩⟩ hm

theorem State.bumpBy_touches {M : Nat} {r : State} (s : State) (a n : Nat) (hs : Touches M r s) (hm : 0x4 ||| M = M) : Touches M r (s.bumpBy a n) :=
  State.setCtr_touches s a _ ctrAdd_le hs hm

theorem State.bump_touches {M : Nat} {r : State} (s : State) (a1 : Nat) (hs : Touches M r s) (hm : 0x4 ||| M = M) :
    Touches M r (State.bump s a1) := by
  refine Touches.step hs ?_ hm
  clear hs hm r M
  unfold State.bump
  repeat' first
    | with_reducible assumption
    | with_reducible apply Touches.refl
    | ((with_reducible apply State.bumpBy_touches); (case hm => rfl))

theorem State.setReg_touches {M : Nat} {r : State} (s : State) (a v : Nat) (hs : Touches M r s) (hm : 0x2 ||| M = M) : Touches M r (s.setReg a v) :=
  Touches.step hs (F := 0x2) ⟨by constructor <;> intro h <;> first | with_reducible rfl | exact absurd h (by decide) | rfl,
   ⟨rfl, List.suffix_refl _, Nat.le_refl _, regs_wf_regSet, id, id⟩⟩ hm

theorem State.setFld_touches {M : Nat} {r : State} (s : State) (a1 : Fld) (a2 : Nat) (hs : Touches M r s) (hm : 0x2 ||| M = M) :
    Touches M r (State.setFld s a1 a2) := by
  refine Touches.step hs ?_ hm
  clear hs hm r M
  unfold State.setFld
  repeat' first
    | with_reducible assumption
    | with_reducible apply Touches.refl
    | ((with_reducible apply State.setReg_touches); (case hm => rfl))

theorem State.bumpFld_touches {M : Nat} {r : State} (s : State) (a1 : Fld) (a2 : Nat) (hs : Touches M r s) (hm : 0x2 ||| M = M) :
    Touches M r (State.bumpFld s a1 a2) := by
  refine Touches.step hs ?_ hm
  clear hs hm r M
  unfold State.bumpFld
  repeat' first
    | with_reducible assumption
    | with_reducible apply Touches.refl
    | ((with_reducible apply State.setFld_touches); (case hm => rfl))

theorem State.drewN_touches {M : Nat} {r : State} (s : State) (n : Nat) (hs : Touches M r s) (hm : 0x8 ||| M = M) : Touches M r (s.drewN n) :=
  Touches.step hs (F := 0x8) ⟨by constructor <;> intro h <;> first | with_reducible rfl | exact absurd h (by decide) | rfl,
   ⟨rfl, List.suffix_refl _, Nat.le_add_right _ _, id, id, id⟩⟩ hm

theorem State.drew_touches {M : Nat} {r : State} (s : State) (hs : Touches M r s) (hm : 0x8 ||| M = M) : Touches M r s.drew := State.drewN_touches s 1 hs hm

theorem State.emit_touches {M : Nat} {r : State} (s : State) (o : Output) (hs : Touches M r s) (hm : 0x10 ||| M = M) : Touches M r (s.emit o) :=
  Touches.step hs (F := 0x10) ⟨by constructor <;> intro h <;> first | with_reducible rfl | exact absurd h (by decide) | rfl,
   ⟨rfl, List.suffix_cons _ _, Nat.le_refl _, id, id, id⟩⟩ hm

theorem hostFetch_touches {M : Nat} {r : State} (a0 : Sys2Proof.CmdCtx) (a1 : Nat) (a2 : Nat) (s : State) (hs : Touches M r s) (hm : 0x10 ||| M = M) :
    Touches M r (hostFetch a0 a1 a2 s) := by
  refine Touches.step hs ?_ hm
  clear hs hm r M
  unfold hostFetch
  repeat' first
    | with_reducible assumption
    | with_reducible apply Touches.refl
    | with_reducible apply Touches.ite
    | ((with_reducible apply State.emit_touches); (case hm => rfl))
    | split

theorem State.setHost_touches {M : Nat} {r : State} (s : State) (a1 : Sys2Proof.HostId) (a2 : HostSt) (hs : Touches M r s) (hm : 0xc0 ||| M = M) :
    Touches M r (State.setHost s a1 a2) := by
  refine Touches.step hs ?_ hm
  clear hs hm r M
  unfold State.setHost
  repeat' first
    | with_reducible assumption
    | with_reducible apply Touches.refl
    | with_reducible apply Touches.ite
    | ((with_reducible apply Touches.hostA); (case hm => rfl))
    | ((with_reducible apply Touches.hostB); (case hm => rfl))
    | ((with_reducible apply Touches.lit (F := 0xc0)); (case l1 => with_reducible rfl); (case l2 => with_reducible rfl); (case l3 => with_reducible rfl); (case l4 => with_reducible rfl); (case l5 => rfl); (case hm => rfl); (case ag => (constructor <;> first | exact tb rfl | exact fun _ => rfl)))

theorem State.modHost_touches {M : Nat} {r : State} (s : State) (a1 : Sys2Proof.HostId) (a2 : HostSt → HostSt) (hs : Touches M r s) (hm : 0xc0 ||| M = M) :
    Touches M r (State.modHost s a1 a2) := by
  refine Touches.step hs ?_ hm
  clear hs hm r M
  unfold State.modHost
  repeat' first
    | with_reducible assumption
    | with_reducible apply Touches.refl
    | ((with_reducible apply State.setHost_touches); (case hm => rfl))

theorem dmaWrite_touches {M : Nat} {r : State} (a0 : Sys2Proof.HostId) (a1 : Nat) (a2 : Sys2Proof.Bytes) (s : State) (hs : Touches M r s) (hm : 0xd0 ||| M = M) :
    Touches M r (dmaWrite a0 a1 a2 s) := by
  refine Touches.step hs ?_ hm
  clear hs hm r M
  unfold dmaWrite
  repeat' first
    | with_reducible assumption
    | with_reducible apply Touches.refl
    | with_reducible apply Touches.ite
    | ((with_reducible apply State.emit_touches); (case hm => rfl))
    | ((with_reducible apply State.modHost_touches); (case hm => rfl))

theorem busRow_touches {M : Nat} {r : State} (src : Src) (f : State → State) (s : State) (hs : Touches M r s) (h : ∀ t, Touches M r t → Touches M r (f t))
    (hm : 0x20 ||| M = M) : Touches M r (busRow src f s) := by
  unfold busRow
  refine Touches.ite (h _ ?_) hs
  refine Touches.lit (F := 0x20) hs rfl rfl rfl rfl rfl ?_ hm
  constructor <;> intro h <;> first | with_reducible rfl | exact absurd h (by decide) | rfl

theorem markStarted_touches {M : Nat} {r : State} (a0 : Sys2Proof.CmdCtx) (a1 : Nat) (s : State) (hs : Touches M r s) (hm : 0x80000c0 ||| M = M) :
    Touches M r (markStarted a0 a1 s) := by
  refine Touches.step hs ?_ hm
  clear hs hm r M
  unfold markStarted
  repeat' first
    | with_reducible assumption
    | with_reducible apply Touches.refl
    | (extract_lets -underBinder +onlyGivenNames x; (have hty : TypeOf x = State := by with_reducible rfl); clear hty; apply Touches.cut 0x80000c0 s x; (case' kk => (clear_value x; intro _)); (case' vv => (unfold x; clear x)))
    | (extract_lets -underBinder +onlyGivenNames x; try clear_value x)
    | with_reducible apply Touches.ite
    | ((with_reducible apply State.modHost_touches); (case hm => rfl))
    | split
    | ((with_reducible apply Touches.pwr); (case hm => rfl))

theorem complete_touches {M : Nat} {r : State} (a0 : Sys2Proof.CmdCtx) (a1 : Nat) (a2 : Nat) (a3 : Sys2Proof.Bytes) (s : State) (hs : Touches M r s) (hm : 0xd0 ||| M = M) :
    Touches M r (complete a0 a1 a2 a3 s) := by
  refine Touches.step hs ?_ hm
  clear hs hm r M
  unfold complete
  repeat' first
    | with_reducible assumption
    | with_reducible apply Touches.refl
    | (extract_lets -underBinder +onlyGivenNames x; (have hty : TypeOf x = State := by with_reducible rfl); clear hty; apply Touches.cut 0xd0 s x; (case' kk => (clear_value x; intro _)); (case' vv => (unfold x; clear x)))
    | (extract_lets -underBinder +onlyGivenNames x; try clear_value x)
    | with_reducible apply Touches.ite
    | ((with_reducible apply State.emit_touches); (case hm => rfl))
    | ((with_reducible apply State.modHost_touches); (case hm => rfl))
    | split

theorem command_touches {M : Nat} {r : State} (c : CmdCtx) (op : Nat) (s : State) (f : State → State) (hs : Touches M r s)
    (h : ∀ t, Touches M r t → Touches M r (f t)) (hm : 0x80000d0 ||| M = M) : Touches M r (command c op s f) := by
  unfold command
  refine Touches.ite hs (Touches.ite (h _ ?_) ?_)
  · exact markStarted_touches _ _ _ hs (sub_trans (by rfl) hm)
  · exact complete_touches _ _ _ _ _ hs (sub_trans (by rfl) hm)

theorem handleGroup_touches {M : Nat} {r : State} (a0 : Nat) (s : State) (hs : Touches M r s) (hm : 0x100 ||| M = M) :
    Touches M r (handleGroup a0 s) := by
  refine Touches.step hs ?_ hm
  clear hs hm r M
  unfold handleGroup
  repeat' first
    | with_reducible assumption
    | with_reducible apply Touches.refl
    | (extract_lets -underBinder +onlyGivenNames x; (have hty : TypeOf x = State := by with_reducible rfl); clear hty; apply Touches.cut 0x100 s x; (case' kk => (clear_value x; intro _)); (case' vv => (unfold x; clear x)))
    | (extract_lets -underBinder +onlyGivenNames x; try clear_value x)
    | with_reducible apply Touches.ite
    | split
    | ((with_reducible apply Touches.flt); (case hm => rfl))

theorem handleIf_touches {M : Nat} {r : State} (a0 : Nat) (s : State) (hs : Touches M r s) (hm : 0x100 ||| M = M) :
    Touches M r (handleIf a0 s) := by
  refine Touches.step hs ?_ hm
  clear hs hm r M
  unfold handleIf
  repeat' first
    | with_reducible assumption
    | with_reducible apply Touches.refl
    | with_reducible apply Touches.ite
    | ((with_reducible apply handleGroup_touches); (case hm => rfl))
    | split

theorem queueEvent_touches {M : Nat} {r : State} (a0 : Sys2Proof.HostId) (a1 : Nat) (a2 : Nat) (a3 : Sys2Proof.Bytes) (a4 : Nat) (s : State) (hs : Touches M r s) (hm : 0xc2 ||| M = M) :
    Touches M r (queueEvent a0 a1 a2 a3 a4 s) := by
  refine Touches.step hs ?_ hm
  clear hs hm r M
  unfold queueEvent
  repeat' first
    | with_reducible assumption
    | with_reducible apply Touches.refl
    | (extract_lets -underBinder +onlyGivenNames x; (have hty : TypeOf x = State := by with_reducible rfl); clear hty; apply Touches.cut 0xc2 s x; (case' kk => (clear_value x; intro _)); (case' vv => (unfold x; clear x)))
    | (extract_lets -underBinder +onlyGivenNames x; try clear_value x)
    | with_reducible apply Touches.ite
    | ((with_reducible apply State.setHost_touches); (case hm => rfl))
    | ((with_reducible apply State.bumpFld_touches); (case hm => rfl))

theorem recordEvent_touches {M : Nat} {r : State} (a0 : Nat) (a1 : Nat) (a2 : Sys2Proof.Bytes) (a3 : Nat) (a4 : Bool) (s : State) (hs : Touches M r s) (hm : 0x104 ||| M = M) :
    Touches M r (recordEvent a0 a1 a2 a3 a4 s) := by
  refine Touches.step hs ?_ hm
  clear hs hm r M
  unfold recordEvent
  repeat' first
    | with_reducible assumption
    | with_reducible apply Touches.refl
    | (extract_lets -underBinder +onlyGivenNames x; (have hty : TypeOf x = State := by with_reducible rfl); clear hty; apply Touches.cut 0x104 s x; (case' kk => (clear_value x; intro _)); (case' vv => (unfold x; clear x)))
    | (extract_lets -underBinder +onlyGivenNames x; try clear_value x)
    | with_reducible apply Touches.ite
    | ((with_reducible apply State.bump_touches); (case hm => rfl))
    | ((with_reducible apply Touches.flt); (case hm => rfl))

theorem raise_touches {M : Nat} {r : State} (a0 : Nat) (a1 : Nat) (a2 : Sys2Proof.Bytes) (s : State) (hs : Touches M r s) (hm : 0x1c6 ||| M = M) :
    Touches M r (raise a0 a1 a2 s) := by
  refine Touches.step hs ?_ hm
  clear hs hm r M
  unfold raise
  repeat' first
    | with_reducible assumption
    | with_reducible apply Touches.refl
    | (extract_lets -underBinder +onlyGivenNames x; (have hty : TypeOf x = State := by with_reducible rfl); clear hty; apply Touches.cut 0x1c6 s x; (case' kk => (clear_value x; intro _)); (case' vv => (unfold x; clear x)))
    | (extract_lets -underBinder +onlyGivenNames x; try clear_value x)
    | with_reducible apply Touches.ite
    | ((with_reducible apply queueEvent_touches); (case hm => rfl))
    | ((with_reducible apply recordEvent_touches); (case hm => rfl))

theorem raiseAt_touches {M : Nat} {r : State} (a0 : Nat) (a1 : Nat) (a2 : Sys2Proof.Bytes) (a3 : Nat) (s : State) (hs : Touches M r s) (hm : 0x1c6 ||| M = M) :
    Touches M r (raiseAt a0 a1 a2 a3 s) := by
  refine Touches.step hs ?_ hm
  clear hs hm r M
  unfold raiseAt
  repeat' first
    | with_reducible assumption
    | with_reducible apply Touches.refl
    | (extract_lets -underBinder +onlyGivenNames x; (have hty : TypeOf x = State := by with_reducible rfl); clear hty; apply Touches.cut 0x1c6 s x; (case' kk => (clear_value x; intro _)); (case' vv => (unfold x; clear x)))
    | (extract_lets -underBinder +onlyGivenNames x; try clear_value x)
    | ((with_reducible apply queueEvent_touches); (case hm => rfl))
    | ((with_reducible apply recordEvent_touches); (case hm => rfl))

theorem setShadow_touches {M : Nat} {r : State} (a0 : Sys2Proof.Src) (a1 : Nat) (a2 : Nat) (s : State) (hs : Touches M r s) (hm : 0x20 ||| M = M) :
    Touches M r (setShadow a0 a1 a2 s) := by
  refine Touches.step hs ?_ hm
  clear hs hm r M
  unfold setShadow
  repeat' first
    | with_reducible assumption
    | with_reducible apply Touches.refl
    | (extract_lets -underBinder +onlyGivenNames x; (have hty : TypeOf x = State := by with_reducible rfl); clear hty; apply Touches.cut 0x20 s x; (case' kk => (clear_value x; intro _)); (case' vv => (unfold x; clear x)))
    | (extract_lets -underBinder +onlyGivenNames x; try clear_value x)
    | ((with_reducible apply Touches.bus); (case hm => rfl))

theorem takeShadow_touches {M : Nat} {r : State} (a0 : Sys2Proof.Src) (a1 : Nat) (a2 : Nat) (s : State) (hs : Touches M r s) (hm : 0x20 ||| M = M) :
    Touches M r ((takeShadow a0 a1 a2 s).2) := by
  refine Touches.step hs ?_ hm
  clear hs hm r M
  unfold takeShadow
  repeat' first
    | with_reducible assumption
    | with_reducible apply Touches.refl
    | (extract_lets -underBinder +onlyGivenNames x; (have hty : TypeOf x = State := by with_reducible rfl); clear hty; apply Touches.cut 0x20 s x; (case' kk => (clear_value x; intro _)); (case' vv => (unfold x; clear x)))
    | (extract_lets -underBinder +onlyGivenNames x; try clear_value x)
    | split
    | (dsimp -zeta only)
    | ((with_reducible apply Touches.bus); (case hm => rfl))

end Sys2Proof.Machine
end

