-- ==== Sys2Proof/Laws/Hedge.lean ====
section
/-! SUPPORT. What each function of Machine/Hedge.lean touches: one lemma per function that answers a state. -/

set_option linter.tactic.unusedName false

namespace Sys2Proof.Machine

theorem State.modHq_touches {M : Nat} {r : State} (s : State) (a1 : Nat) (a2 : HQuad → HQuad) (hs : Touches M r s) (hm : 0x1000 ||| M = M) :
    Touches M r (State.modHq s a1 a2) := by
  refine Touches.step hs ?_ hm
  clear hs hm r M
  unfold State.modHq
  repeat' first
    | with_reducible assumption
    | with_reducible apply Touches.refl
    | (extract_lets -underBinder +onlyGivenNames x; (have hty : TypeOf x = State := by with_reducible rfl); clear hty; apply Touches.cut 0x1000 s x; (case' kk => (clear_value x; intro _)); (case' vv => (unfold x; clear x)))
    | (extract_lets -underBinder +onlyGivenNames x; try clear_value x)
    | ((with_reducible apply Touches.hedge); (case hm => rfl))

theorem endHedgeCopy_touches {M : Nat} {r : State} (a0 : Nat) (s : State) (hs : Touches M r s) (hm : 0x1002 ||| M = M) :
    Touches M r (endHedgeCopy a0 s) := by
  refine Touches.step hs ?_ hm
  clear hs hm r M
  unfold endHedgeCopy
  repeat' first
    | with_reducible assumption
    | with_reducible apply Touches.refl
    | with_reducible apply Touches.ite
    | ((with_reducible apply State.setFld_touches); (case hm => rfl))
    | ((with_reducible apply State.modHq_touches); (case hm => rfl))

theorem hedgeCopied_touches {M : Nat} {r : State} (s : State) (hs : Touches M r s) (hm : 0x1002 ||| M = M) :
    Touches M r (hedgeCopied s) :=
  Touches.foldlD hs (fun _ _ hu => endHedgeCopy_touches _ _ hu hm)

theorem hedgeCommand_touches {M : Nat} {r : State} (c : CmdCtx) (op : Nat) (s : State) (body : State → State) (hs : Touches M r s)
    (h : ∀ t, Touches M r t → Touches M r (body t)) (hm : 0x80010d2 ||| M = M) : TouchesR M r (hedgeCommand c op s body) := by
  unfold hedgeCommand
  refine command_touches _ _ _ _ hs (fun t ht => h _ ?_) (sub_trans (by rfl) hm)
  exact hedgeCopied_touches _ ht (sub_trans (by rfl) hm)

theorem phList_touches {M : Nat} {r : State} (a0 : Sys2Proof.CmdCtx) (s : State) (hs : Touches M r s) (hm : 0xd0 ||| M = M) :
    Touches M r (phList a0 s) := by
  refine Touches.step hs ?_ hm
  clear hs hm r M
  unfold phList
  repeat' first
    | with_reducible assumption
    | with_reducible apply Touches.refl
    | (extract_lets -underBinder +onlyGivenNames x; (have hty : TypeOf x = State := by with_reducible rfl); clear hty; apply Touches.cut 0xd0 s x; (case' kk => (clear_value x; intro _)); (case' vv => (unfold x; clear x)))
    | (extract_lets -underBinder +onlyGivenNames x; try clear_value x)
    | ((with_reducible apply complete_touches); (case hm => rfl))
    | split

theorem phClose_touches {M : Nat} {r : State} (a0 : Sys2Proof.CmdCtx) (s : State) (hs : Touches M r s) (hm : 0x10d0 ||| M = M) :
    Touches M r (phClose a0 s) := by
  refine Touches.step hs ?_ hm
  clear hs hm r M
  unfold phClose
  repeat' first
    | with_reducible assumption
    | with_reducible apply Touches.refl
    | (extract_lets -underBinder +onlyGivenNames x; (have hty : TypeOf x = State := by with_reducible rfl); clear hty; apply Touches.cut 0x10d0 s x; (case' kk => (clear_value x; intro _)); (case' vv => (unfold x; clear x)))
    | (extract_lets -underBinder +onlyGivenNames x; try clear_value x)
    | ((with_reducible apply complete_touches); (case hm => rfl))
    | ((with_reducible apply Touches.hedge); (case hm => rfl))

theorem phCloseAll_touches {M : Nat} {r : State} (a0 : Sys2Proof.CmdCtx) (s : State) (hs : Touches M r s) (hm : 0x10d0 ||| M = M) :
    Touches M r (phCloseAll a0 s) := by
  refine Touches.step hs ?_ hm
  clear hs hm r M
  unfold phCloseAll
  repeat' first
    | with_reducible assumption
    | with_reducible apply Touches.refl
    | (extract_lets -underBinder +onlyGivenNames x; (have hty : TypeOf x = State := by with_reducible rfl); clear hty; apply Touches.cut 0x10d0 s x; (case' kk => (clear_value x; intro _)); (case' vv => (unfold x; clear x)))
    | (extract_lets -underBinder +onlyGivenNames x; try clear_value x)
    | ((with_reducible apply complete_touches); (case hm => rfl))
    | ((with_reducible apply Touches.hedge); (case hm => rfl))

theorem phFull_touches {M : Nat} {r : State} (a0 : Nat) (a1 : Nat) (s : State) (hs : Touches M r s) (hm : 0x11c6 ||| M = M) :
    Touches M r (phFull a0 a1 s) := by
  refine Touches.step hs ?_ hm
  clear hs hm r M
  unfold phFull
  repeat' first
    | with_reducible assumption
    | with_reducible apply Touches.refl
    | (extract_lets -underBinder +onlyGivenNames x; (have hty : TypeOf x = State := by with_reducible rfl); clear hty; apply Touches.cut 0x11c6 s x; (case' kk => (clear_value x; intro _)); (case' vv => (unfold x; clear x)))
    | (extract_lets -underBinder +onlyGivenNames x; try clear_value x)
    | with_reducible apply Touches.ite
    | ((with_reducible apply State.bump_touches); (case hm => rfl))
    | ((with_reducible apply raise_touches); (case hm => rfl))
    | split
    | ((with_reducible apply Touches.hedge); (case hm => rfl))

theorem phInsert_touches {M : Nat} {r : State} (a0 : PhKey) (a1 : Nat) (a2 : Nat) (a3 : Nat) (a4 : Nat) (s : State) (hs : Touches M r s) (hm : 0x11c6 ||| M = M) :
    Touches M r ((phInsert a0 a1 a2 a3 a4 s).1) := by
  refine Touches.step hs ?_ hm
  clear hs hm r M
  unfold phInsert
  repeat' first
    | with_reducible assumption
    | with_reducible apply Touches.refl
    | (extract_lets -underBinder +onlyGivenNames x; (have hty : TypeOf x = State := by with_reducible rfl); clear hty; apply Touches.cut 0x11c6 s x; (case' kk => (clear_value x; intro _)); (case' vv => (unfold x; clear x)))
    | (extract_lets -underBinder +onlyGivenNames x; try clear_value x)
    | with_reducible apply Touches.ite
    | ((with_reducible apply State.bump_touches); (case hm => rfl))
    | ((with_reducible apply phFull_touches); (case hm => rfl))
    | split
    | (dsimp -zeta only)
    | ((with_reducible apply Touches.hedge); (case hm => rfl))

theorem phOpen_touches {M : Nat} {r : State} (a0 : Sys2Proof.CmdCtx) (s : State) (hs : Touches M r s) (hm : 0x11d6 ||| M = M) :
    Touches M r (phOpen a0 s) := by
  refine Touches.step hs ?_ hm
  clear hs hm r M
  unfold phOpen
  repeat' first
    | with_reducible assumption
    | with_reducible apply Touches.refl
    | (extract_lets -underBinder +onlyGivenNames x; (have hty : TypeOf x = State := by with_reducible rfl); clear hty; apply Touches.cut 0x11d6 s x; (case' kk => (clear_value x; intro _)); (case' vv => (unfold x; clear x)))
    | (extract_lets -underBinder +onlyGivenNames x; try clear_value x)
    | with_reducible apply Touches.ite
    | ((with_reducible apply complete_touches); (case hm => rfl))
    | ((with_reducible apply phInsert_touches); (case hm => rfl))
    | ((with_reducible apply Touches.fst); (case eqn => assumption))
    | split

theorem hedgePinhole_touches {M : Nat} {r : State} (a0 : Sys2Proof.CmdCtx) (s : State) (hs : Touches M r s) (hm : 0x11d6 ||| M = M) :
    Touches M r (hedgePinhole a0 s) := by
  refine Touches.step hs ?_ hm
  clear hs hm r M
  unfold hedgePinhole
  repeat' first
    | with_reducible assumption
    | with_reducible apply Touches.refl
    | (extract_lets -underBinder +onlyGivenNames x; (have hty : TypeOf x = State := by with_reducible rfl); clear hty; apply Touches.cut 0x11d6 s x; (case' kk => (clear_value x; intro _)); (case' vv => (unfold x; clear x)))
    | (extract_lets -underBinder +onlyGivenNames x; try clear_value x)
    | with_reducible apply Touches.ite
    | ((with_reducible apply complete_touches); (case hm => rfl))
    | ((with_reducible apply phList_touches); (case hm => rfl))
    | ((with_reducible apply phClose_touches); (case hm => rfl))
    | ((with_reducible apply phCloseAll_touches); (case hm => rfl))
    | ((with_reducible apply phOpen_touches); (case hm => rfl))

theorem execHedgePinholeClose_touches {M : Nat} {r : State} (a0 : Sys2Proof.CmdCtx) (s : State) (hs : Touches M r s) (hm : 0x80011d6 ||| M = M) :
    TouchesR M r (execHedgePinholeClose a0 s) := by
  refine TouchesR.step hs ?_ hm
  clear hs hm r M
  unfold execHedgePinholeClose
  repeat' first
    | with_reducible assumption
    | (intro _; try dsimp -zeta only)
    | with_reducible apply Touches.refl
    | with_reducible apply TouchesR.next
    | with_reducible apply TouchesR.fault
    | ((with_reducible apply hedgeCommand_touches); (case hm => rfl))
    | ((with_reducible apply hedgePinhole_touches); (case hm => rfl))

theorem execHedgePinholeCloseAll_touches {M : Nat} {r : State} (a0 : Sys2Proof.CmdCtx) (s : State) (hs : Touches M r s) (hm : 0x80011d6 ||| M = M) :
    TouchesR M r (execHedgePinholeCloseAll a0 s) := by
  refine TouchesR.step hs ?_ hm
  clear hs hm r M
  unfold execHedgePinholeCloseAll
  repeat' first
    | with_reducible assumption
    | (intro _; try dsimp -zeta only)
    | with_reducible apply Touches.refl
    | with_reducible apply TouchesR.next
    | with_reducible apply TouchesR.fault
    | ((with_reducible apply hedgeCommand_touches); (case hm => rfl))
    | ((with_reducible apply hedgePinhole_touches); (case hm => rfl))

theorem execHedgePinholeList_touches {M : Nat} {r : State} (a0 : Sys2Proof.CmdCtx) (s : State) (hs : Touches M r s) (hm : 0x80011d6 ||| M = M) :
    TouchesR M r (execHedgePinholeList a0 s) := by
  refine TouchesR.step hs ?_ hm
  clear hs hm r M
  unfold execHedgePinholeList
  repeat' first
    | with_reducible assumption
    | (intro _; try dsimp -zeta only)
    | with_reducible apply Touches.refl
    | with_reducible apply TouchesR.next
    | with_reducible apply TouchesR.fault
    | ((with_reducible apply hedgeCommand_touches); (case hm => rfl))
    | ((with_reducible apply hedgePinhole_touches); (case hm => rfl))

theorem execHedgePinholeOpen_touches {M : Nat} {r : State} (a0 : Sys2Proof.CmdCtx) (s : State) (hs : Touches M r s) (hm : 0x80011d6 ||| M = M) :
    TouchesR M r (execHedgePinholeOpen a0 s) := by
  refine TouchesR.step hs ?_ hm
  clear hs hm r M
  unfold execHedgePinholeOpen
  repeat' first
    | with_reducible assumption
    | (intro _; try dsimp -zeta only)
    | with_reducible apply Touches.refl
    | with_reducible apply TouchesR.next
    | with_reducible apply TouchesR.fault
    | ((with_reducible apply hedgeCommand_touches); (case hm => rfl))
    | ((with_reducible apply hedgePinhole_touches); (case hm => rfl))

theorem execHedgeRead_touches {M : Nat} {r : State} (a0 : Sys2Proof.CmdCtx) (s : State) (hs : Touches M r s) (hm : 0x80010d2 ||| M = M) :
    TouchesR M r (execHedgeRead a0 s) := by
  refine TouchesR.step hs ?_ hm
  clear hs hm r M
  unfold execHedgeRead
  repeat' first
    | with_reducible assumption
    | (intro _; try dsimp -zeta only)
    | (extract_lets -underBinder +onlyGivenNames x; (have hty : TypeOf x = State := by with_reducible rfl); clear hty; apply Touches.cut 0x80010d2 s x; (case' kk => (clear_value x; intro _)); (case' vv => (unfold x; clear x)))
    | (extract_lets -underBinder +onlyGivenNames x; try clear_value x)
    | with_reducible apply Touches.refl
    | with_reducible apply TouchesR.next
    | with_reducible apply TouchesR.fault
    | with_reducible apply TouchesR.ite
    | with_reducible apply Touches.ite
    | ((with_reducible apply hedgeCommand_touches); (case hm => rfl))
    | ((with_reducible apply complete_touches); (case hm => rfl))
    | split

theorem execHedgeShadowCopyDone_touches {M : Nat} {r : State} (a0 : Sys2Proof.Quad) (s : State) (hs : Touches M r s) (hm : 0x1002 ||| M = M) :
    TouchesR M r (execHedgeShadowCopyDone a0 s) := by
  refine TouchesR.step hs ?_ hm
  clear hs hm r M
  unfold execHedgeShadowCopyDone
  repeat' first
    | with_reducible assumption
    | with_reducible apply Touches.refl
    | with_reducible apply TouchesR.next
    | with_reducible apply TouchesR.fault
    | ((with_reducible apply endHedgeCopy_touches); (case hm => rfl))

theorem hedgeStage_touches {M : Nat} {r : State} (a0 : Sys2Proof.CmdCtx) (s : State) (hs : Touches M r s) (hm : 0x10d2 ||| M = M) :
    Touches M r (hedgeStage a0 s) := by
  refine Touches.step hs ?_ hm
  clear hs hm r M
  unfold hedgeStage
  dsimp only
  repeat' first
    | with_reducible assumption
    | (intro _; try dsimp -zeta only)
    | (extract_lets -underBinder +onlyGivenNames x; (have hty : TypeOf x = State := by with_reducible rfl); clear hty; apply Touches.cut 0x10d2 s x; (case' kk => (clear_value x; intro _)); (case' vv => (unfold x; clear x)))
    | (extract_lets -underBinder +onlyGivenNames x; try clear_value x)
    | with_reducible apply Touches.refl
    | with_reducible apply Touches.ite
    | ((with_reducible apply complete_touches); (case hm => rfl))
    | ((with_reducible apply State.setFld_touches); (case hm => rfl))
    | ((with_reducible apply State.modHq_touches); (case hm => rfl))
    | with_reducible apply Touches.foldlD

theorem execHedgeStage_touches {M : Nat} {r : State} (a0 : Sys2Proof.CmdCtx) (s : State) (hs : Touches M r s) (hm : 0x80010d2 ||| M = M) :
    TouchesR M r (execHedgeStage a0 s) := by
  refine TouchesR.step hs ?_ hm
  clear hs hm r M
  unfold execHedgeStage
  repeat' first
    | with_reducible assumption
    | (intro _; try dsimp -zeta only)
    | with_reducible apply Touches.refl
    | with_reducible apply TouchesR.next
    | with_reducible apply TouchesR.fault
    | ((with_reducible apply hedgeCommand_touches); (case hm => rfl))
    | ((with_reducible apply hedgeStage_touches); (case hm => rfl))

theorem execPinholeSweep_touches {M : Nat} {r : State} (a0 : List Nat) (s : State) (hs : Touches M r s) (hm : 0x1004 ||| M = M) :
    TouchesR M r (execPinholeSweep a0 s) := by
  refine TouchesR.step hs ?_ hm
  clear hs hm r M
  unfold execPinholeSweep
  repeat' first
    | with_reducible assumption
    | with_reducible apply Touches.refl
    | (extract_lets -underBinder +onlyGivenNames x; (have hty : TypeOf x = State := by with_reducible rfl); clear hty; apply Touches.cut 0x1004 s x; (case' kk => (clear_value x; intro _)); (case' vv => (unfold x; clear x)))
    | (extract_lets -underBinder +onlyGivenNames x; try clear_value x)
    | with_reducible apply TouchesR.next
    | with_reducible apply TouchesR.fault
    | with_reducible apply TouchesR.ite
    | with_reducible apply Touches.ite
    | ((with_reducible apply State.bumpBy_touches); (case hm => rfl))
    | ((with_reducible apply Touches.hedge); (case hm => rfl))

theorem handleHedgeEcc_touches {M : Nat} {r : State} (s : State) (hs : Touches M r s) (hm : 0x100 ||| M = M) :
    Touches M r (handleHedgeEcc s) := by
  refine Touches.step hs ?_ hm
  clear hs hm r M
  unfold handleHedgeEcc
  repeat' first
    | with_reducible assumption
    | with_reducible apply Touches.refl
    | (extract_lets -underBinder +onlyGivenNames x; (have hty : TypeOf x = State := by with_reducible rfl); clear hty; apply Touches.cut 0x100 s x; (case' kk => (clear_value x; intro _)); (case' vv => (unfold x; clear x)))
    | (extract_lets -underBinder +onlyGivenNames x; try clear_value x)
    | with_reducible apply Touches.ite
    | ((with_reducible apply handleGroup_touches); (case hm => rfl))
    | split

theorem ruleCount_touches {M : Nat} {r : State} (a0 : Nat) (a1 : Nat) (a2 : Nat) (s : State) (hs : Touches M r s) (hm : 0x1000 ||| M = M) :
    Touches M r (ruleCount a0 a1 a2 s) := by
  refine Touches.step hs ?_ hm
  clear hs hm r M
  unfold ruleCount
  repeat' first
    | with_reducible assumption
    | with_reducible apply Touches.refl
    | ((with_reducible apply State.modHq_touches); (case hm => rfl))

theorem logEvent_touches {M : Nat} {r : State} (a0 : Nat) (a1 : Nat) (a2 : Nat) (a3 : Pkt) (s : State) (hs : Touches M r s) (hm : 0x11c6 ||| M = M) :
    Touches M r (logEvent a0 a1 a2 a3 s) := by
  refine Touches.step hs ?_ hm
  clear hs hm r M
  unfold logEvent
  repeat' first
    | with_reducible assumption
    | with_reducible apply Touches.refl
    | (extract_lets -underBinder +onlyGivenNames x; (have hty : TypeOf x = State := by with_reducible rfl); clear hty; apply Touches.cut 0x11c6 s x; (case' kk => (clear_value x; intro _)); (case' vv => (unfold x; clear x)))
    | (extract_lets -underBinder +onlyGivenNames x; try clear_value x)
    | with_reducible apply Touches.ite
    | ((with_reducible apply raise_touches); (case hm => rfl))
    | ((with_reducible apply State.modHq_touches); (case hm => rfl))
    | ((with_reducible apply State.bump_touches); (case hm => rfl))
    | split

theorem pinholeHits_touches {M : Nat} {r : State} (a0 : Pkt) (s : State) (hs : Touches M r s) (hm : 0x1004 ||| M = M) :
    Touches M r ((pinholeHits a0 s).1) := by
  refine Touches.step hs ?_ hm
  clear hs hm r M
  unfold pinholeHits
  repeat' first
    | with_reducible assumption
    | (intro _; try dsimp -zeta only)
    | (extract_lets -underBinder +onlyGivenNames x; (have hty : TypeOf x = State := by with_reducible rfl); clear hty; apply Touches.cut 0x1004 s x; (case' kk => (clear_value x; intro _)); (case' vv => (unfold x; clear x)))
    | (extract_lets -underBinder +onlyGivenNames x; try clear_value x)
    | with_reducible apply Touches.refl
    | with_reducible apply Touches.ite
    | ((with_reducible apply State.bump_touches); (case hm => rfl))
    | with_reducible apply Touches.foldlD
    | split
    | (dsimp -zeta only)
    | ((with_reducible apply Touches.hedge); (case hm => rfl))

theorem pinholeOpen_touches {M : Nat} {r : State} (a0 : Nat) (a1 : Nat) (a2 : Nat) (a3 : HRule) (a4 : Pkt) (s : State) (hs : Touches M r s) (hm : 0x11c6 ||| M = M) :
    Touches M r (pinholeOpen a0 a1 a2 a3 a4 s) := by
  refine Touches.step hs ?_ hm
  clear hs hm r M
  unfold pinholeOpen
  repeat' first
    | with_reducible assumption
    | with_reducible apply Touches.refl
    | ((with_reducible apply phInsert_touches); (case hm => rfl))
    | ((with_reducible apply State.bump_touches); (case hm => rfl))
    | ((with_reducible apply Touches.fst); (case eqn => assumption))
    | split

theorem hedgeDecide_touches {M : Nat} {r : State} (a0 : Pkt) (s : State) (hs : Touches M r s) (hm : 0x11c6 ||| M = M) :
    Touches M r ((hedgeDecide a0 s).1) := by
  refine Touches.step hs ?_ hm
  clear hs hm r M
  unfold hedgeDecide
  repeat' first
    | with_reducible assumption
    | with_reducible apply Touches.refl
    | (extract_lets -underBinder +onlyGivenNames x; (have hty : TypeOf x = State := by with_reducible rfl); clear hty; apply Touches.cut 0x11c6 s x; (case' kk => (clear_value x; intro _)); (case' vv => (unfold x; clear x)))
    | (extract_lets -underBinder +onlyGivenNames x; try clear_value x)
    | with_reducible apply Touches.ite
    | ((with_reducible apply State.bump_touches); (case hm => rfl))
    | ((with_reducible apply ruleCount_touches); (case hm => rfl))
    | ((with_reducible apply logEvent_touches); (case hm => rfl))
    | ((with_reducible apply pinholeHits_touches); (case hm => rfl))
    | ((with_reducible apply pinholeOpen_touches); (case hm => rfl))
    | ((with_reducible apply Touches.fst); (case eqn => assumption))
    | split
    | (dsimp -zeta only)

theorem hedgeEcc_touches {M : Nat} {r : State} (a0 : Nat) (a1 : Nat) (a2 : Nat) (a3 : Bool) (s : State) (hs : Touches M r s) (hm : 0x11c6 ||| M = M) :
    Touches M r (hedgeEcc a0 a1 a2 a3 s) := by
  refine Touches.step hs ?_ hm
  clear hs hm r M
  unfold hedgeEcc
  repeat' first
    | with_reducible assumption
    | with_reducible apply Touches.refl
    | (extract_lets -underBinder +onlyGivenNames x; (have hty : TypeOf x = State := by with_reducible rfl); clear hty; apply Touches.cut 0x11c6 s x; (case' kk => (clear_value x; intro _)); (case' vv => (unfold x; clear x)))
    | (extract_lets -underBinder +onlyGivenNames x; try clear_value x)
    | with_reducible apply Touches.ite
    | ((with_reducible apply State.bump_touches); (case hm => rfl))
    | ((with_reducible apply raise_touches); (case hm => rfl))
    | ((with_reducible apply State.modHq_touches); (case hm => rfl))
    | split
    | ((with_reducible apply Touches.hedge); (case hm => rfl))

theorem hedgeSwap_touches {M : Nat} {r : State} (a0 : Bool) (a1 : Nat) (s : State) (hs : Touches M r s) (hm : 0x1002 ||| M = M) :
    Touches M r (hedgeSwap a0 a1 s) := by
  refine Touches.step hs ?_ hm
  clear hs hm r M
  unfold hedgeSwap
  repeat' first
    | with_reducible assumption
    | with_reducible apply Touches.refl
    | (extract_lets -underBinder +onlyGivenNames x; (have hty : TypeOf x = State := by with_reducible rfl); clear hty; apply Touches.cut 0x1002 s x; (case' kk => (clear_value x; intro _)); (case' vv => (unfold x; clear x)))
    | (extract_lets -underBinder +onlyGivenNames x; try clear_value x)
    | with_reducible apply Touches.ite
    | ((with_reducible apply State.setFld_touches); (case hm => rfl))
    | ((with_reducible apply State.modHq_touches); (case hm => rfl))

theorem hedgeFlipDo_touches {M : Nat} {r : State} (a0 : List Nat) (a1 : Bool) (a2 : Bool) (s : State) (hs : Touches M r s) (hm : 0x1102 ||| M = M) :
    Touches M r (hedgeFlipDo a0 a1 a2 s) := by
  refine Touches.step hs ?_ hm
  clear hs hm r M
  unfold hedgeFlipDo
  repeat' first
    | with_reducible assumption
    | (intro _; try dsimp -zeta only)
    | (extract_lets -underBinder +onlyGivenNames x; (have hty : TypeOf x = State := by with_reducible rfl); clear hty; apply Touches.cut 0x1102 s x; (case' kk => (clear_value x; intro _)); (case' vv => (unfold x; clear x)))
    | (extract_lets -underBinder +onlyGivenNames x; try clear_value x)
    | with_reducible apply Touches.refl
    | with_reducible apply Touches.ite
    | ((with_reducible apply hedgeSwap_touches); (case hm => rfl))
    | ((with_reducible apply handleHedgeEcc_touches); (case hm => rfl))
    | with_reducible apply Touches.foldlD
    | ((with_reducible apply Touches.hedge); (case hm => rfl))

theorem hedgeFlip_touches {M : Nat} {r : State} (a0 : State → Nat → List (Nat × Nat)) (a1 : Sys2Proof.CmdCtx) (s : State) (hs : Touches M r s) (hm : 0x400011d2 ||| M = M) :
    Touches M r (hedgeFlip a0 a1 s) := by
  refine Touches.step hs ?_ hm
  clear hs hm r M
  unfold hedgeFlip
  repeat' first
    | with_reducible assumption
    | with_reducible apply Touches.refl
    | ((with_reducible apply stopBegins_touches); (case hm => rfl))
    | (extract_lets -underBinder +onlyGivenNames x; (have hty : TypeOf x = State := by with_reducible rfl); clear hty; apply Touches.cut 0x400011d2 s x; (case' kk => (clear_value x; intro _)); (case' vv => (unfold x; clear x)))
    | (extract_lets -underBinder +onlyGivenNames x; try clear_value x)
    | with_reducible apply Touches.ite
    | ((with_reducible apply complete_touches); (case hm => rfl))
    | ((with_reducible apply hedgeFlipDo_touches); (case hm => rfl))
    | split

theorem hedgeFnReset_touches {M : Nat} {r : State} (s : State) (hs : Touches M r s) (hm : 0x1000 ||| M = M) :
    Touches M r (hedgeFnReset s) := by
  refine Touches.step hs ?_ hm
  clear hs hm r M
  unfold hedgeFnReset
  repeat' first
    | with_reducible assumption
    | with_reducible apply Touches.refl
    | (extract_lets -underBinder +onlyGivenNames x; (have hty : TypeOf x = State := by with_reducible rfl); clear hty; apply Touches.cut 0x1000 s x; (case' kk => (clear_value x; intro _)); (case' vv => (unfold x; clear x)))
    | (extract_lets -underBinder +onlyGivenNames x; try clear_value x)
    | ((with_reducible apply Touches.hedge); (case hm => rfl))

theorem hedgeWarm_touches {M : Nat} {r : State} (s : State) (hs : Touches M r s) (hm : 0x1000 ||| M = M) :
    Touches M r (hedgeWarm s) := by
  refine Touches.step hs ?_ hm
  clear hs hm r M
  unfold hedgeWarm
  repeat' first
    | with_reducible assumption
    | with_reducible apply Touches.refl
    | (extract_lets -underBinder +onlyGivenNames x; (have hty : TypeOf x = State := by with_reducible rfl); clear hty; apply Touches.cut 0x1000 s x; (case' kk => (clear_value x; intro _)); (case' vv => (unfold x; clear x)))
    | (extract_lets -underBinder +onlyGivenNames x; try clear_value x)
    | ((with_reducible apply hedgeFnReset_touches); (case hm => rfl))
    | ((with_reducible apply Touches.hedge); (case hm => rfl))

theorem meterFrame_touches {M : Nat} {r : State} (a0 : Nat) (a1 : Nat) (a2 : Nat) (s : State) (hs : Touches M r s) (hm : 0x1004 ||| M = M) :
    Touches M r ((meterFrame a0 a1 a2 s).1) := by
  refine Touches.step hs ?_ hm
  clear hs hm r M
  unfold meterFrame
  repeat' first
    | with_reducible assumption
    | with_reducible apply Touches.refl
    | (extract_lets -underBinder +onlyGivenNames x; (have hty : TypeOf x = State := by with_reducible rfl); clear hty; apply Touches.cut 0x1004 s x; (case' kk => (clear_value x; intro _)); (case' vv => (unfold x; clear x)))
    | (extract_lets -underBinder +onlyGivenNames x; try clear_value x)
    | with_reducible apply Touches.ite
    | ((with_reducible apply State.bump_touches); (case hm => rfl))
    | ((with_reducible apply State.modHq_touches); (case hm => rfl))
    | split
    | (dsimp -zeta only)

theorem zoneDeny_touches {M : Nat} {r : State} (a0 : Nat) (a1 : Nat) (a2 : Nat) (s : State) (hs : Touches M r s) (hm : 0x1004 ||| M = M) :
    Touches M r (zoneDeny a0 a1 a2 s) := by
  refine Touches.step hs ?_ hm
  clear hs hm r M
  unfold zoneDeny
  repeat' first
    | with_reducible assumption
    | with_reducible apply Touches.refl
    | (extract_lets -underBinder +onlyGivenNames x; (have hty : TypeOf x = State := by with_reducible rfl); clear hty; apply Touches.cut 0x1004 s x; (case' kk => (clear_value x; intro _)); (case' vv => (unfold x; clear x)))
    | (extract_lets -underBinder +onlyGivenNames x; try clear_value x)
    | ((with_reducible apply State.bump_touches); (case hm => rfl))
    | ((with_reducible apply State.modHq_touches); (case hm => rfl))

end Sys2Proof.Machine
end

