-- ==== Sys2Proof/Laws/Egress.lean ====
section
/-! SUPPORT. What each function of Machine/Egress.lean touches: one lemma per function that answers a state. -/

set_option linter.tactic.unusedName false

namespace Sys2Proof.Machine

theorem engineRun_touches {M : Nat} {r : State} (s : State) (hs : Touches M r s) (hm : 0xa ||| M = M) :
    Touches M r (engineRun s) := by
  refine Touches.step hs ?_ hm
  clear hs hm r M
  unfold engineRun
  repeat' first
    | with_reducible assumption
    | with_reducible apply Touches.refl
    | (extract_lets -underBinder +onlyGivenNames x; (have hty : TypeOf x = State := by with_reducible rfl); clear hty; apply Touches.cut 0xa s x; (case' kk => (clear_value x; intro _)); (case' vv => (unfold x; clear x)))
    | (extract_lets -underBinder +onlyGivenNames x; try clear_value x)
    | ((with_reducible apply State.setFld_touches); (case hm => rfl))
    | ((with_reducible apply State.drew_touches); (case hm => rfl))

theorem histUnsel_touches {M : Nat} {r : State} (s : State) (hs : Touches M r s) (hm : 0x2 ||| M = M) :
    Touches M r (histUnsel s) := by
  refine Touches.step hs ?_ hm
  clear hs hm r M
  unfold histUnsel
  repeat' first
    | with_reducible assumption
    | (intro _; try dsimp -zeta only)
    | with_reducible apply Touches.refl
    | ((with_reducible apply State.setReg_touches); (case hm => rfl))
    | with_reducible apply Touches.foldlD

theorem State.modEport_touches {M : Nat} {r : State} (s : State) (a1 : Nat) (a2 : EPort → EPort) (hs : Touches M r s) (hm : 0x2000 ||| M = M) :
    Touches M r (State.modEport s a1 a2) := by
  refine Touches.step hs ?_ hm
  clear hs hm r M
  unfold State.modEport
  repeat' first
    | with_reducible assumption
    | with_reducible apply Touches.refl
    | (extract_lets -underBinder +onlyGivenNames x; (have hty : TypeOf x = State := by with_reducible rfl); clear hty; apply Touches.cut 0x2000 s x; (case' kk => (clear_value x; intro _)); (case' vv => (unfold x; clear x)))
    | (extract_lets -underBinder +onlyGivenNames x; try clear_value x)
    | ((with_reducible apply Touches.egr); (case hm => rfl))

theorem chargeShaper_touches {M : Nat} {r : State} (a0 : Nat) (a1 : Nat) (a2 : Nat) (a3 : Nat) (a4 : Bool) (s : State) (hs : Touches M r s) (hm : 0x2000 ||| M = M) :
    Touches M r (chargeShaper a0 a1 a2 a3 a4 s) := by
  refine Touches.step hs ?_ hm
  clear hs hm r M
  unfold chargeShaper
  repeat' first
    | with_reducible assumption
    | with_reducible apply Touches.refl
    | (extract_lets -underBinder +onlyGivenNames x; (have hty : TypeOf x = State := by with_reducible rfl); clear hty; apply Touches.cut 0x2000 s x; (case' kk => (clear_value x; intro _)); (case' vv => (unfold x; clear x)))
    | (extract_lets -underBinder +onlyGivenNames x; try clear_value x)
    | with_reducible apply Touches.ite
    | ((with_reducible apply State.modEport_touches); (case hm => rfl))

theorem egrFnReset_touches {M : Nat} {r : State} (a0 : List Nat) (s : State) (hs : Touches M r s) (hm : 0x2002 ||| M = M) :
    Touches M r (egrFnReset a0 s) := by
  refine Touches.step hs ?_ hm
  clear hs hm r M
  unfold egrFnReset
  repeat' first
    | with_reducible assumption
    | (intro _; try dsimp -zeta only)
    | (extract_lets -underBinder +onlyGivenNames x; (have hty : TypeOf x = State := by with_reducible rfl); clear hty; apply Touches.cut 0x2002 s x; (case' kk => (clear_value x; intro _)); (case' vv => (unfold x; clear x)))
    | (extract_lets -underBinder +onlyGivenNames x; try clear_value x)
    | with_reducible apply Touches.refl
    | ((with_reducible apply histUnsel_touches); (case hm => rfl))
    | ((with_reducible apply State.modEport_touches); (case hm => rfl))
    | with_reducible apply Touches.foldlD
    | ((with_reducible apply Touches.egr); (case hm => rfl))

theorem egrWarm_touches {M : Nat} {r : State} (k : Bool) (s : State) (hs : Touches M r s) (hm : 0x2000 ||| M = M) :
    Touches M r (egrWarm k s) := by
  refine Touches.step hs ?_ hm
  clear hs hm r M
  unfold egrWarm
  repeat' first
    | with_reducible assumption
    | with_reducible apply Touches.refl
    | (extract_lets -underBinder +onlyGivenNames x; (have hty : TypeOf x = State := by with_reducible rfl); clear hty; apply Touches.cut 0x2000 s x; (case' kk => (clear_value x; intro _)); (case' vv => (unfold x; clear x)))
    | (extract_lets -underBinder +onlyGivenNames x; try clear_value x)
    | ((with_reducible apply Touches.egr); (case hm => rfl))

theorem settleEnergy_touches {M : Nat} {r : State} (s : State) (hs : Touches M r s) (hm : 0x2000 ||| M = M) :
    Touches M r (settleEnergy s) := by
  refine Touches.step hs ?_ hm
  clear hs hm r M
  unfold settleEnergy
  repeat' first
    | with_reducible assumption
    | with_reducible apply Touches.refl
    | (extract_lets -underBinder +onlyGivenNames x; (have hty : TypeOf x = State := by with_reducible rfl); clear hty; apply Touches.cut 0x2000 s x; (case' kk => (clear_value x; intro _)); (case' vv => (unfold x; clear x)))
    | (extract_lets -underBinder +onlyGivenNames x; try clear_value x)
    | with_reducible apply Touches.ite
    | ((with_reducible apply Touches.egr); (case hm => rfl))

theorem energyDebit_touches {M : Nat} {r : State} (a0 : Nat) (a1 : Nat) (a2 : Nat) (s : State) (hs : Touches M r s) (hm : 0x2000 ||| M = M) :
    Touches M r (energyDebit a0 a1 a2 s) := by
  refine Touches.step hs ?_ hm
  clear hs hm r M
  unfold energyDebit
  repeat' first
    | with_reducible assumption
    | with_reducible apply Touches.refl
    | (extract_lets -underBinder +onlyGivenNames x; (have hty : TypeOf x = State := by with_reducible rfl); clear hty; apply Touches.cut 0x2000 s x; (case' kk => (clear_value x; intro _)); (case' vv => (unfold x; clear x)))
    | (extract_lets -underBinder +onlyGivenNames x; try clear_value x)
    | with_reducible apply Touches.ite
    | ((with_reducible apply settleEnergy_touches); (case hm => rfl))
    | ((with_reducible apply Touches.egr); (case hm => rfl))

theorem histSnapshot_touches {M : Nat} {r : State} (a0 : Nat) (s : State) (hs : Touches M r s) (hm : 0x2002 ||| M = M) :
    Touches M r (histSnapshot a0 s) := by
  refine Touches.step hs ?_ hm
  clear hs hm r M
  unfold histSnapshot
  repeat' first
    | with_reducible assumption
    | (intro _; try dsimp -zeta only)
    | (extract_lets -underBinder +onlyGivenNames x; (have hty : TypeOf x = State := by with_reducible rfl); clear hty; apply Touches.cut 0x2002 s x; (case' kk => (clear_value x; intro _)); (case' vv => (unfold x; clear x)))
    | (extract_lets -underBinder +onlyGivenNames x; try clear_value x)
    | with_reducible apply Touches.refl
    | with_reducible apply Touches.ite
    | ((with_reducible apply State.setFld_touches); (case hm => rfl))
    | ((with_reducible apply State.setReg_touches); (case hm => rfl))
    | with_reducible apply Touches.foldlD
    | ((with_reducible apply Touches.egr); (case hm => rfl))

theorem execEgrHistSnapshot_touches {M : Nat} {r : State} (a0 : Sys2Proof.Src) (a1 : Nat) (s : State) (hs : Touches M r s) (hm : 0x2022 ||| M = M) :
    TouchesR M r (execEgrHistSnapshot a0 a1 s) := by
  refine TouchesR.step hs ?_ hm
  clear hs hm r M
  unfold execEgrHistSnapshot
  repeat' first
    | with_reducible assumption
    | (intro _; try dsimp -zeta only)
    | with_reducible apply Touches.refl
    | with_reducible apply TouchesR.next
    | with_reducible apply TouchesR.fault
    | ((with_reducible apply busRow_touches); (case hm => rfl))
    | ((with_reducible apply histSnapshot_touches); (case hm => rfl))

theorem execEnergyEmpty_touches {M : Nat} {r : State} (s : State) (hs : Touches M r s) (hm : 0x21c6 ||| M = M) :
    TouchesR M r (execEnergyEmpty s) := by
  refine TouchesR.step hs ?_ hm
  clear hs hm r M
  unfold execEnergyEmpty
  repeat' first
    | with_reducible assumption
    | with_reducible apply Touches.refl
    | (extract_lets -underBinder +onlyGivenNames x; (have hty : TypeOf x = State := by with_reducible rfl); clear hty; apply Touches.cut 0x21c6 s x; (case' kk => (clear_value x; intro _)); (case' vv => (unfold x; clear x)))
    | (extract_lets -underBinder +onlyGivenNames x; try clear_value x)
    | with_reducible apply TouchesR.next
    | with_reducible apply TouchesR.fault
    | with_reducible apply TouchesR.ite
    | with_reducible apply Touches.ite
    | ((with_reducible apply settleEnergy_touches); (case hm => rfl))
    | ((with_reducible apply raise_touches); (case hm => rfl))
    | split
    | ((with_reducible apply Touches.egr); (case hm => rfl))

theorem parkWake_touches {M : Nat} {r : State} (a0 : Nat) (s : State) (hs : Touches M r s) (hm : 0x2004 ||| M = M) :
    Touches M r (parkWake a0 s) := by
  refine Touches.step hs ?_ hm
  clear hs hm r M
  unfold parkWake
  repeat' first
    | with_reducible assumption
    | with_reducible apply Touches.refl
    | (extract_lets -underBinder +onlyGivenNames x; (have hty : TypeOf x = State := by with_reducible rfl); clear hty; apply Touches.cut 0x2004 s x; (case' kk => (clear_value x; intro _)); (case' vv => (unfold x; clear x)))
    | (extract_lets -underBinder +onlyGivenNames x; try clear_value x)
    | with_reducible apply Touches.ite
    | ((with_reducible apply State.bumpBy_touches); (case hm => rfl))
    | ((with_reducible apply State.modEport_touches); (case hm => rfl))

theorem execLaneWakeTimer_touches {M : Nat} {r : State} (a0 : Sys2Proof.Port) (s : State) (hs : Touches M r s) (hm : 0x2004 ||| M = M) :
    TouchesR M r (execLaneWakeTimer a0 s) := by
  refine TouchesR.step hs ?_ hm
  clear hs hm r M
  unfold execLaneWakeTimer
  repeat' first
    | with_reducible assumption
    | with_reducible apply Touches.refl
    | (extract_lets -underBinder +onlyGivenNames x; (have hty : TypeOf x = State := by with_reducible rfl); clear hty; apply Touches.cut 0x2004 s x; (case' kk => (clear_value x; intro _)); (case' vv => (unfold x; clear x)))
    | (extract_lets -underBinder +onlyGivenNames x; try clear_value x)
    | with_reducible apply TouchesR.next
    | with_reducible apply TouchesR.fault
    | with_reducible apply TouchesR.ite
    | with_reducible apply Touches.ite
    | ((with_reducible apply parkWake_touches); (case hm => rfl))
    | split

theorem execPfcPauseExpiry_touches {M : Nat} {r : State} (a0 : Sys2Proof.Port) (a1 : Fin 5) (s : State) (hs : Touches M r s) (hm : 0x2000 ||| M = M) :
    TouchesR M r (execPfcPauseExpiry a0 a1 s) := by
  refine TouchesR.step hs ?_ hm
  clear hs hm r M
  unfold execPfcPauseExpiry
  repeat' first
    | with_reducible assumption
    | with_reducible apply Touches.refl
    | with_reducible apply TouchesR.next
    | with_reducible apply TouchesR.fault
    | with_reducible apply TouchesR.ite
    | with_reducible apply Touches.ite
    | ((with_reducible apply State.modEport_touches); (case hm => rfl))
    | split

theorem pauseClass_touches {M : Nat} {r : State} (a0 : Nat) (a1 : Nat) (a2 : Nat) (s : State) (hs : Touches M r s) (hm : 0x2000 ||| M = M) :
    Touches M r (pauseClass a0 a1 a2 s) := by
  refine Touches.step hs ?_ hm
  clear hs hm r M
  unfold pauseClass
  repeat' first
    | with_reducible assumption
    | with_reducible apply Touches.refl
    | (extract_lets -underBinder +onlyGivenNames x; (have hty : TypeOf x = State := by with_reducible rfl); clear hty; apply Touches.cut 0x2000 s x; (case' kk => (clear_value x; intro _)); (case' vv => (unfold x; clear x)))
    | (extract_lets -underBinder +onlyGivenNames x; try clear_value x)
    | with_reducible apply Touches.ite
    | ((with_reducible apply State.modEport_touches); (case hm => rfl))

theorem execPfcReceived_touches {M : Nat} {r : State} (a0 : Sys2Proof.Port) (a1 : Nat) (a2 : List Nat) (s : State) (hs : Touches M r s) (hm : 0x2004 ||| M = M) :
    TouchesR M r (execPfcReceived a0 a1 a2 s) := by
  refine TouchesR.step hs ?_ hm
  clear hs hm r M
  unfold execPfcReceived
  repeat' first
    | with_reducible assumption
    | (intro _; try dsimp -zeta only)
    | (extract_lets -underBinder +onlyGivenNames x; (have hty : TypeOf x = State := by with_reducible rfl); clear hty; apply Touches.cut 0x2004 s x; (case' kk => (clear_value x; intro _)); (case' vv => (unfold x; clear x)))
    | (extract_lets -underBinder +onlyGivenNames x; try clear_value x)
    | with_reducible apply Touches.refl
    | with_reducible apply TouchesR.next
    | with_reducible apply TouchesR.fault
    | with_reducible apply TouchesR.ite
    | with_reducible apply Touches.ite
    | ((with_reducible apply State.bump_touches); (case hm => rfl))
    | ((with_reducible apply pauseClass_touches); (case hm => rfl))
    | ((with_reducible apply State.bumpBy_touches); (case hm => rfl))
    | with_reducible apply Touches.foldlD

theorem sendPfc_touches {M : Nat} {r : State} (a0 : Nat) (a1 : Nat) (a2 : Bool) (s : State) (hs : Touches M r s) (hm : 0x2014 ||| M = M) :
    Touches M r (sendPfc a0 a1 a2 s) := by
  refine Touches.step hs ?_ hm
  clear hs hm r M
  unfold sendPfc
  repeat' first
    | with_reducible assumption
    | (intro _; try dsimp -zeta only)
    | (extract_lets -underBinder +onlyGivenNames x; (have hty : TypeOf x = State := by with_reducible rfl); clear hty; apply Touches.cut 0x2014 s x; (case' kk => (clear_value x; intro _)); (case' vv => (unfold x; clear x)))
    | (extract_lets -underBinder +onlyGivenNames x; try clear_value x)
    | with_reducible apply Touches.refl
    | with_reducible apply Touches.ite
    | ((with_reducible apply State.modEport_touches); (case hm => rfl))
    | ((with_reducible apply State.emit_touches); (case hm => rfl))
    | ((with_reducible apply State.bump_touches); (case hm => rfl))
    | with_reducible apply Touches.foldlD

theorem fixFlip_touches {M : Nat} {r : State} (a0 : Nat) (a1 : Nat) (a2 : Option Sys2Proof.CmdCtx) (s : State) (hs : Touches M r s) (hm : 0x2000 ||| M = M) :
    Touches M r (fixFlip a0 a1 a2 s) := by
  refine Touches.step hs ?_ hm
  clear hs hm r M
  unfold fixFlip
  repeat' first
    | with_reducible assumption
    | with_reducible apply Touches.refl
    | (extract_lets -underBinder +onlyGivenNames x; (have hty : TypeOf x = State := by with_reducible rfl); clear hty; apply Touches.cut 0x2000 s x; (case' kk => (clear_value x; intro _)); (case' vv => (unfold x; clear x)))
    | (extract_lets -underBinder +onlyGivenNames x; try clear_value x)
    | ((with_reducible apply State.modEport_touches); (case hm => rfl))

theorem settleAt_touches {M : Nat} {r : State} (a0 : Nat) (a1 : Nat) (a2 : Bool) (a3 : Nat) (s : State) (hs : Touches M r s) (hm : 0x2000 ||| M = M) :
    Touches M r (settleAt a0 a1 a2 a3 s) := by
  refine Touches.step hs ?_ hm
  clear hs hm r M
  unfold settleAt
  repeat' first
    | with_reducible assumption
    | with_reducible apply Touches.refl
    | (extract_lets -underBinder +onlyGivenNames x; (have hty : TypeOf x = State := by with_reducible rfl); clear hty; apply Touches.cut 0x2000 s x; (case' kk => (clear_value x; intro _)); (case' vv => (unfold x; clear x)))
    | (extract_lets -underBinder +onlyGivenNames x; try clear_value x)
    | ((with_reducible apply State.modEport_touches); (case hm => rfl))

theorem settle_touches {M : Nat} {r : State} (a0 : Nat) (a1 : Nat) (a2 : Bool) (s : State) (hs : Touches M r s) (hm : 0x2000 ||| M = M) :
    Touches M r (settle a0 a1 a2 s) := by
  refine Touches.step hs ?_ hm
  clear hs hm r M
  unfold settle
  repeat' first
    | with_reducible assumption
    | with_reducible apply Touches.refl
    | ((with_reducible apply settleAt_touches); (case hm => rfl))

theorem startVerify_touches {M : Nat} {r : State} (a0 : Nat) (s : State) (hs : Touches M r s) (hm : 0x2000 ||| M = M) :
    Touches M r (startVerify a0 s) := by
  refine Touches.step hs ?_ hm
  clear hs hm r M
  unfold startVerify
  repeat' first
    | with_reducible assumption
    | with_reducible apply Touches.refl
    | with_reducible apply Touches.ite
    | ((with_reducible apply State.modEport_touches); (case hm => rfl))

theorem flipNow_touches {M : Nat} {r : State} (a0 : Nat) (a1 : State → Nat → Nat → Bool) (s : State) (hs : Touches M r s) (hm : 0x20d6 ||| M = M) :
    Touches M r (flipNow a0 a1 s) := by
  refine Touches.step hs ?_ hm
  clear hs hm r M
  unfold flipNow
  repeat' first
    | with_reducible assumption
    | (intro _; try dsimp -zeta only)
    | (extract_lets -underBinder +onlyGivenNames x; (have hty : TypeOf x = State := by with_reducible rfl); clear hty; apply Touches.cut 0x20d6 s x; (case' kk => (clear_value x; intro _)); (case' vv => (unfold x; clear x)))
    | (extract_lets -underBinder +onlyGivenNames x; try clear_value x)
    | with_reducible apply Touches.refl
    | with_reducible apply Touches.ite
    | ((with_reducible apply settle_touches); (case hm => rfl))
    | ((with_reducible apply State.setFld_touches); (case hm => rfl))
    | ((with_reducible apply State.modEport_touches); (case hm => rfl))
    | ((with_reducible apply startVerify_touches); (case hm => rfl))
    | ((with_reducible apply parkWake_touches); (case hm => rfl))
    | ((with_reducible apply complete_touches); (case hm => rfl))
    | with_reducible apply Touches.foldlD
    | split

theorem histogramSample_touches {M : Nat} {r : State} (a0 : State → Nat → Nat) (a1 : State → Nat → Nat) (s : State) (hs : Touches M r s) (hm : 0x2000 ||| M = M) :
    Touches M r (histogramSample a0 a1 s) := by
  refine Touches.step hs ?_ hm
  clear hs hm r M
  unfold histogramSample
  repeat' first
    | with_reducible assumption
    | (intro _; try dsimp -zeta only)
    | (extract_lets -underBinder +onlyGivenNames x; (have hty : TypeOf x = State := by with_reducible rfl); clear hty; apply Touches.cut 0x2000 s x; (case' kk => (clear_value x; intro _)); (case' vv => (unfold x; clear x)))
    | (extract_lets -underBinder +onlyGivenNames x; try clear_value x)
    | with_reducible apply Touches.refl
    | with_reducible apply Touches.ite
    | with_reducible apply Touches.foldlD
    | ((with_reducible apply Touches.egr); (case hm => rfl))

theorem parkEnter_touches {M : Nat} {r : State} (a0 : Nat) (a1 : Bool) (s : State) (hs : Touches M r s) (hm : 0x2004 ||| M = M) :
    Touches M r (parkEnter a0 a1 s) := by
  refine Touches.step hs ?_ hm
  clear hs hm r M
  unfold parkEnter
  repeat' first
    | with_reducible assumption
    | with_reducible apply Touches.refl
    | (extract_lets -underBinder +onlyGivenNames x; (have hty : TypeOf x = State := by with_reducible rfl); clear hty; apply Touches.cut 0x2004 s x; (case' kk => (clear_value x; intro _)); (case' vv => (unfold x; clear x)))
    | (extract_lets -underBinder +onlyGivenNames x; try clear_value x)
    | with_reducible apply Touches.ite
    | ((with_reducible apply State.bump_touches); (case hm => rfl))
    | ((with_reducible apply State.modEport_touches); (case hm => rfl))

theorem laneReady_touches {M : Nat} {r : State} (a0 : State → Nat → Bool) (a1 : Nat) (s : State) (hs : Touches M r s) (hm : 0x2004 ||| M = M) :
    Touches M r (laneReady a0 a1 s) := by
  refine Touches.step hs ?_ hm
  clear hs hm r M
  unfold laneReady
  repeat' first
    | with_reducible assumption
    | with_reducible apply Touches.refl
    | (extract_lets -underBinder +onlyGivenNames x; (have hty : TypeOf x = State := by with_reducible rfl); clear hty; apply Touches.cut 0x2004 s x; (case' kk => (clear_value x; intro _)); (case' vv => (unfold x; clear x)))
    | (extract_lets -underBinder +onlyGivenNames x; try clear_value x)
    | with_reducible apply Touches.ite
    | ((with_reducible apply State.modEport_touches); (case hm => rfl))
    | ((with_reducible apply parkEnter_touches); (case hm => rfl))

theorem parkArrival_touches {M : Nat} {r : State} (a0 : Nat) (a1 : Nat) (s : State) (hs : Touches M r s) (hm : 0x2004 ||| M = M) :
    Touches M r (parkArrival a0 a1 s) := by
  refine Touches.step hs ?_ hm
  clear hs hm r M
  unfold parkArrival
  repeat' first
    | with_reducible assumption
    | with_reducible apply Touches.refl
    | (extract_lets -underBinder +onlyGivenNames x; (have hty : TypeOf x = State := by with_reducible rfl); clear hty; apply Touches.cut 0x2004 s x; (case' kk => (clear_value x; intro _)); (case' vv => (unfold x; clear x)))
    | (extract_lets -underBinder +onlyGivenNames x; try clear_value x)
    | with_reducible apply Touches.ite
    | ((with_reducible apply parkWake_touches); (case hm => rfl))
    | ((with_reducible apply State.modEport_touches); (case hm => rfl))

theorem setHeadroom_touches {M : Nat} {r : State} (a0 : Nat) (a1 : Nat) (s : State) (hs : Touches M r s) (hm : 0x1c6 ||| M = M) :
    Touches M r (setHeadroom a0 a1 s) := by
  refine Touches.step hs ?_ hm
  clear hs hm r M
  unfold setHeadroom
  repeat' first
    | with_reducible assumption
    | with_reducible apply Touches.refl
    | (extract_lets -underBinder +onlyGivenNames x; (have hty : TypeOf x = State := by with_reducible rfl); clear hty; apply Touches.cut 0x1c6 s x; (case' kk => (clear_value x; intro _)); (case' vv => (unfold x; clear x)))
    | (extract_lets -underBinder +onlyGivenNames x; try clear_value x)
    | with_reducible apply Touches.ite
    | ((with_reducible apply State.setFld_touches); (case hm => rfl))
    | ((with_reducible apply raise_touches); (case hm => rfl))

theorem shutterStage_touches {M : Nat} {r : State} (a0 : Sys2Proof.CmdCtx) (s : State) (hs : Touches M r s) (hm : 0x20d0 ||| M = M) :
    Touches M r (shutterStage a0 s) := by
  refine Touches.step hs ?_ hm
  clear hs hm r M
  unfold shutterStage
  repeat' first
    | with_reducible assumption
    | (intro _; try dsimp -zeta only)
    | (extract_lets -underBinder +onlyGivenNames x; (have hty : TypeOf x = State := by with_reducible rfl); clear hty; apply Touches.cut 0x20d0 s x; (case' kk => (clear_value x; intro _)); (case' vv => (unfold x; clear x)))
    | (extract_lets -underBinder +onlyGivenNames x; try clear_value x)
    | with_reducible apply Touches.refl
    | with_reducible apply Touches.ite
    | ((with_reducible apply complete_touches); (case hm => rfl))
    | ((with_reducible apply State.modEport_touches); (case hm => rfl))
    | with_reducible apply Touches.foldlD

theorem shutterFlip_touches {M : Nat} {r : State} (a0 : Recheck) (a1 : Sys2Proof.CmdCtx) (s : State) (hs : Touches M r s) (hm : 0x20da ||| M = M) :
    Touches M r (shutterFlip a0 a1 s) := by
  refine Touches.step hs ?_ hm
  clear hs hm r M
  unfold shutterFlip
  repeat' first
    | with_reducible assumption
    | with_reducible apply Touches.refl
    | ((with_reducible apply engineRun_touches); (case hm => rfl))
    | (extract_lets -underBinder +onlyGivenNames x; (have hty : TypeOf x = State := by with_reducible rfl); clear hty; apply Touches.cut 0x20da s x; (case' kk => (clear_value x; intro _)); (case' vv => (unfold x; clear x)))
    | (extract_lets -underBinder +onlyGivenNames x; try clear_value x)
    | with_reducible apply Touches.ite
    | ((with_reducible apply complete_touches); (case hm => rfl))
    | ((with_reducible apply fixFlip_touches); (case hm => rfl))
    | split

theorem shutterRead_touches {M : Nat} {r : State} (a0 : State → Nat → Nat → Bool) (a1 : Sys2Proof.CmdCtx) (s : State) (hs : Touches M r s) (hm : 0xd0 ||| M = M) :
    Touches M r (shutterRead a0 a1 s) := by
  refine Touches.step hs ?_ hm
  clear hs hm r M
  unfold shutterRead
  repeat' first
    | with_reducible assumption
    | with_reducible apply Touches.refl
    | (extract_lets -underBinder +onlyGivenNames x; (have hty : TypeOf x = State := by with_reducible rfl); clear hty; apply Touches.cut 0xd0 s x; (case' kk => (clear_value x; intro _)); (case' vv => (unfold x; clear x)))
    | (extract_lets -underBinder +onlyGivenNames x; try clear_value x)
    | with_reducible apply Touches.ite
    | ((with_reducible apply complete_touches); (case hm => rfl))

theorem shutterStart_touches {M : Nat} {r : State} (a0 : Recheck) (a1 : State → Nat → Nat → Bool) (a2 : Nat) (a3 : Sys2Proof.CmdCtx) (s : State) (hs : Touches M r s) (hm : 0x20da ||| M = M) :
    Touches M r (shutterStart a0 a1 a2 a3 s) := by
  refine Touches.step hs ?_ hm
  clear hs hm r M
  unfold shutterStart
  repeat' first
    | with_reducible assumption
    | with_reducible apply Touches.refl
    | (extract_lets -underBinder +onlyGivenNames x; (have hty : TypeOf x = State := by with_reducible rfl); clear hty; apply Touches.cut 0x20da s x; (case' kk => (clear_value x; intro _)); (case' vv => (unfold x; clear x)))
    | (extract_lets -underBinder +onlyGivenNames x; try clear_value x)
    | with_reducible apply Touches.ite
    | ((with_reducible apply shutterStage_touches); (case hm => rfl))
    | ((with_reducible apply shutterFlip_touches); (case hm => rfl))
    | ((with_reducible apply shutterRead_touches); (case hm => rfl))
    | ((with_reducible apply Touches.egr); (case hm => rfl))

theorem shutterCopyDone_touches {M : Nat} {r : State} (a0 : Recheck) (a1 : State → Nat → Nat → Bool) (a2 : Nat) (s : State) (hs : Touches M r s) (hm : 0x20da ||| M = M) :
    Touches M r (shutterCopyDone a0 a1 a2 s) := by
  refine Touches.step hs ?_ hm
  clear hs hm r M
  unfold shutterCopyDone
  repeat' first
    | with_reducible assumption
    | (intro _; try dsimp -zeta only)
    | (extract_lets -underBinder +onlyGivenNames x; (have hty : TypeOf x = State := by with_reducible rfl); clear hty; apply Touches.cut 0x20da s x; (case' kk => (clear_value x; intro _)); (case' vv => (unfold x; clear x)))
    | (extract_lets -underBinder +onlyGivenNames x; try clear_value x)
    | with_reducible apply Touches.refl
    | with_reducible apply Touches.ite
    | ((with_reducible apply State.modEport_touches); (case hm => rfl))
    | ((with_reducible apply shutterStart_touches); (case hm => rfl))
    | with_reducible apply Touches.foldlD
    | ((with_reducible apply Touches.egr); (case hm => rfl))

theorem spend_touches {M : Nat} {r : State} (a0 : Nat) (a1 : Nat) (a2 : Nat) (s : State) (hs : Touches M r s) (hm : 0x2000 ||| M = M) :
    Touches M r (spend a0 a1 a2 s) := by
  refine Touches.step hs ?_ hm
  clear hs hm r M
  unfold spend
  repeat' first
    | with_reducible assumption
    | with_reducible apply Touches.refl
    | with_reducible apply Touches.ite
    | ((with_reducible apply State.modEport_touches); (case hm => rfl))

end Sys2Proof.Machine
end

