-- ==== Sys2Proof/Laws/Buffers.lean ====
section
/-! SUPPORT. What each function of Machine/Buffers.lean touches: one lemma per function that answers a state. -/

set_option linter.tactic.unusedName false

namespace Sys2Proof.Machine

theorem execPfcRefresh_touches {M : Nat} {r : State} (a0 : Sys2Proof.Port) (s : State) (hs : Touches M r s) (hm : 0x2014 ||| M = M) :
    TouchesR M r (execPfcRefresh a0 s) := by
  refine TouchesR.step hs ?_ hm
  clear hs hm r M
  unfold execPfcRefresh
  repeat' first
    | with_reducible assumption
    | with_reducible apply Touches.refl
    | (extract_lets -underBinder +onlyGivenNames x; (have hty : TypeOf x = State := by with_reducible rfl); clear hty; apply Touches.cut 0x2014 s x; (case' kk => (clear_value x; intro _)); (case' vv => (unfold x; clear x)))
    | (extract_lets -underBinder +onlyGivenNames x; try clear_value x)
    | with_reducible apply TouchesR.next
    | with_reducible apply TouchesR.fault
    | with_reducible apply TouchesR.ite
    | with_reducible apply Touches.ite
    | ((with_reducible apply sendPfc_touches); (case hm => rfl))

theorem emptied_touches {M : Nat} {r : State} (a0 : Nat) (a1 : Nat) (s : State) (hs : Touches M r s) (hm : 0x2000 ||| M = M) :
    Touches M r (emptied a0 a1 s) := by
  refine Touches.step hs ?_ hm
  clear hs hm r M
  unfold emptied
  repeat' first
    | with_reducible assumption
    | with_reducible apply Touches.refl
    | (extract_lets -underBinder +onlyGivenNames x; (have hty : TypeOf x = State := by with_reducible rfl); clear hty; apply Touches.cut 0x2000 s x; (case' kk => (clear_value x; intro _)); (case' vv => (unfold x; clear x)))
    | (extract_lets -underBinder +onlyGivenNames x; try clear_value x)
    | with_reducible apply Touches.ite
    | ((with_reducible apply State.modEport_touches); (case hm => rfl))

theorem State.modStream_touches {M : Nat} {r : State} (s : State) (a1 : Nat) (a2 : Stream → Stream) (hs : Touches M r s) (hm : 0x20000 ||| M = M) :
    Touches M r (State.modStream s a1 a2) := by
  refine Touches.step hs ?_ hm
  clear hs hm r M
  unfold State.modStream
  repeat' first
    | with_reducible assumption
    | with_reducible apply Touches.refl
    | ((with_reducible apply Touches.streams); (case hm => rfl))

theorem State.modCc_touches {M : Nat} {r : State} (s : State) (a1 : Nat) (a2 : CcSet → CcSet) (hs : Touches M r s) (hm : 0x20000 ||| M = M) :
    Touches M r (State.modCc s a1 a2) := by
  refine Touches.step hs ?_ hm
  clear hs hm r M
  unfold State.modCc
  repeat' first
    | with_reducible assumption
    | with_reducible apply Touches.refl
    | ((with_reducible apply State.modStream_touches); (case hm => rfl))

theorem State.setQueue_touches {M : Nat} {r : State} (s : State) (a1 : Nat) (a2 : Nat) (a3 : List Cell) (hs : Touches M r s) (hm : 0x10000 ||| M = M) :
    Touches M r (State.setQueue s a1 a2 a3) := by
  refine Touches.step hs ?_ hm
  clear hs hm r M
  unfold State.setQueue
  repeat' first
    | with_reducible assumption
    | with_reducible apply Touches.refl
    | (extract_lets -underBinder +onlyGivenNames x; (have hty : TypeOf x = State := by with_reducible rfl); clear hty; apply Touches.cut 0x10000 s x; (case' kk => (clear_value x; intro _)); (case' vv => (unfold x; clear x)))
    | (extract_lets -underBinder +onlyGivenNames x; try clear_value x)
    | with_reducible apply Touches.ite
    | ((with_reducible apply Touches.mem); (case hm => rfl))

theorem keepInQueue_touches {M : Nat} {r : State} (a0 : Nat) (a1 : Nat) (a2 : List Cell) (s : State) (hs : Touches M r s) (hm : 0x12000 ||| M = M) :
    Touches M r (keepInQueue a0 a1 a2 s) := by
  refine Touches.step hs ?_ hm
  clear hs hm r M
  unfold keepInQueue
  repeat' first
    | with_reducible assumption
    | with_reducible apply Touches.refl
    | ((with_reducible apply emptied_touches); (case hm => rfl))
    | ((with_reducible apply State.setQueue_touches); (case hm => rfl))
    | ((with_reducible apply settle_touches); (case hm => rfl))

theorem dropHead_touches {M : Nat} {r : State} (a0 : Nat) (a1 : Nat) (s : State) (hs : Touches M r s) (hm : 0x12000 ||| M = M) :
    Touches M r (dropHead a0 a1 s) := by
  refine Touches.step hs ?_ hm
  clear hs hm r M
  unfold dropHead
  repeat' first
    | with_reducible assumption
    | with_reducible apply Touches.refl
    | ((with_reducible apply keepInQueue_touches); (case hm => rfl))

theorem State.unqueue_touches {M : Nat} {r : State} (s : State) (a1 : Nat) (a2 : Nat) (hs : Touches M r s) (hm : 0x10000 ||| M = M) :
    Touches M r (State.unqueue s a1 a2) := by
  refine Touches.step hs ?_ hm
  clear hs hm r M
  unfold State.unqueue
  repeat' first
    | with_reducible assumption
    | with_reducible apply Touches.refl
    | ((with_reducible apply State.setQueue_touches); (case hm => rfl))

theorem stage_touches {M : Nat} {r : State} (a0 : Pkt) (s : State) (hs : Touches M r s) (hm : 0x10000 ||| M = M) :
    Touches M r (stage a0 s) := by
  refine Touches.step hs ?_ hm
  clear hs hm r M
  unfold stage
  repeat' first
    | with_reducible assumption
    | with_reducible apply Touches.refl
    | (extract_lets -underBinder +onlyGivenNames x; (have hty : TypeOf x = State := by with_reducible rfl); clear hty; apply Touches.cut 0x10000 s x; (case' kk => (clear_value x; intro _)); (case' vv => (unfold x; clear x)))
    | (extract_lets -underBinder +onlyGivenNames x; try clear_value x)
    | ((with_reducible apply Touches.mem); (case hm => rfl))

theorem rxOk_touches {M : Nat} {r : State} (a0 : Nat) (s : State) (hs : Touches M r s) (hm : 0x200004 ||| M = M) :
    Touches M r (rxOk a0 s) := by
  refine Touches.step hs ?_ hm
  clear hs hm r M
  unfold rxOk
  repeat' first
    | with_reducible assumption
    | with_reducible apply Touches.refl
    | (extract_lets -underBinder +onlyGivenNames x; (have hty : TypeOf x = State := by with_reducible rfl); clear hty; apply Touches.cut 0x200004 s x; (case' kk => (clear_value x; intro _)); (case' vv => (unfold x; clear x)))
    | (extract_lets -underBinder +onlyGivenNames x; try clear_value x)
    | ((with_reducible apply State.bump_touches); (case hm => rfl))
    | ((with_reducible apply Touches.wake); (case hm => rfl))

theorem accept_touches {M : Nat} {r : State} (a0 : Pkt) (s : State) (hs : Touches M r s) (hm : 0x210004 ||| M = M) :
    Touches M r (accept a0 s) := by
  refine Touches.step hs ?_ hm
  clear hs hm r M
  unfold accept
  repeat' first
    | with_reducible assumption
    | with_reducible apply Touches.refl
    | with_reducible apply Touches.ite
    | ((with_reducible apply stage_touches); (case hm => rfl))
    | ((with_reducible apply rxOk_touches); (case hm => rfl))
    | ((with_reducible apply State.bump_touches); (case hm => rfl))

theorem slicesGo_touches {M : Nat} {r : State} (s : State) (hs : Touches M r s) (hm : 0x210004 ||| M = M) :
    Touches M r (slicesGo s) := by
  refine Touches.step hs ?_ hm
  clear hs hm r M
  unfold slicesGo
  repeat' first
    | with_reducible assumption
    | (intro _; try dsimp -zeta only)
    | (extract_lets -underBinder +onlyGivenNames x; (have hty : TypeOf x = State := by with_reducible rfl); clear hty; apply Touches.cut 0x210004 s x; (case' kk => (clear_value x; intro _)); (case' vv => (unfold x; clear x)))
    | (extract_lets -underBinder +onlyGivenNames x; try clear_value x)
    | with_reducible apply Touches.refl
    | ((with_reducible apply accept_touches); (case hm => rfl))
    | with_reducible apply Touches.foldlD
    | ((with_reducible apply Touches.mem); (case hm => rfl))

theorem svAccept_touches {M : Nat} {r : State} (a0 : Pkt) (s : State) (hs : Touches M r s) (hm : 0x210004 ||| M = M) :
    Touches M r (svAccept a0 s) := by
  refine Touches.step hs ?_ hm
  clear hs hm r M
  unfold svAccept
  repeat' first
    | with_reducible assumption
    | with_reducible apply Touches.refl
    | (extract_lets -underBinder +onlyGivenNames x; (have hty : TypeOf x = State := by with_reducible rfl); clear hty; apply Touches.cut 0x210004 s x; (case' kk => (clear_value x; intro _)); (case' vv => (unfold x; clear x)))
    | (extract_lets -underBinder +onlyGivenNames x; try clear_value x)
    | with_reducible apply Touches.ite
    | ((with_reducible apply accept_touches); (case hm => rfl))
    | ((with_reducible apply Touches.mem); (case hm => rfl))

theorem countRefuse_touches {M : Nat} {r : State} (a0 : Nat) (a1 : Nat) (s : State) (hs : Touches M r s) (hm : 0x4 ||| M = M) :
    Touches M r (countRefuse a0 a1 s) := by
  refine Touches.step hs ?_ hm
  clear hs hm r M
  unfold countRefuse
  repeat' first
    | with_reducible assumption
    | with_reducible apply Touches.refl
    | ((with_reducible apply State.bump_touches); (case hm => rfl))

theorem allocUnreserved_touches {M : Nat} {r : State} (a0 : Nat) (a1 : Nat) (a2 : Nat) (a3 : Nat) (s : State) (hs : Touches M r s) (hm : 0x4 ||| M = M) :
    Touches M r ((allocUnreserved a0 a1 a2 a3 s).2) := by
  refine Touches.step hs ?_ hm
  clear hs hm r M
  unfold allocUnreserved
  repeat' first
    | with_reducible assumption
    | with_reducible apply Touches.refl
    | (extract_lets -underBinder +onlyGivenNames x; (have hty : TypeOf x = State := by with_reducible rfl); clear hty; apply Touches.cut 0x4 s x; (case' kk => (clear_value x; intro _)); (case' vv => (unfold x; clear x)))
    | (extract_lets -underBinder +onlyGivenNames x; try clear_value x)
    | with_reducible apply Touches.ite
    | ((with_reducible apply State.bump_touches); (case hm => rfl))
    | ((with_reducible apply countRefuse_touches); (case hm => rfl))
    | split
    | (dsimp -zeta only)

theorem bdSnapshot_touches {M : Nat} {r : State} (a0 : Nat) (s : State) (hs : Touches M r s) (hm : 0xa ||| M = M) :
    Touches M r (bdSnapshot a0 s) := by
  refine Touches.step hs ?_ hm
  clear hs hm r M
  unfold bdSnapshot
  dsimp only
  repeat' first
    | with_reducible assumption
    | (intro _; try dsimp -zeta only)
    | (extract_lets -underBinder +onlyGivenNames x; (have hty : TypeOf x = State := by with_reducible rfl); clear hty; apply Touches.cut 0xa s x; (case' kk => (clear_value x; intro _)); (case' vv => (unfold x; clear x)))
    | (extract_lets -underBinder +onlyGivenNames x; try clear_value x)
    | with_reducible apply Touches.refl
    | with_reducible apply Touches.ite
    | ((with_reducible apply State.setReg_touches); (case hm => rfl))
    | ((with_reducible apply State.setFld_touches); (case hm => rfl))
    | ((with_reducible apply State.drew_touches); (case hm => rfl))
    | with_reducible apply Touches.foldlD
    | split

theorem emptyMem_touches {M : Nat} {r : State} (s : State) (hs : Touches M r s) (hm : 0x10000 ||| M = M) :
    Touches M r (emptyMem s) := by
  refine Touches.step hs ?_ hm
  clear hs hm r M
  unfold emptyMem
  repeat' first
    | with_reducible assumption
    | with_reducible apply Touches.refl
    | (extract_lets -underBinder +onlyGivenNames x; (have hty : TypeOf x = State := by with_reducible rfl); clear hty; apply Touches.cut 0x10000 s x; (case' kk => (clear_value x; intro _)); (case' vv => (unfold x; clear x)))
    | (extract_lets -underBinder +onlyGivenNames x; try clear_value x)
    | ((with_reducible apply Touches.mem); (case hm => rfl))

theorem setSill_touches {M : Nat} {r : State} (a0 : Nat) (a1 : Nat) (a2 : Nat) (a3 : Nat) (s : State) (hs : Touches M r s) (hm : 0x1c6 ||| M = M) :
    Touches M r (setSill a0 a1 a2 a3 s) := by
  refine Touches.step hs ?_ hm
  clear hs hm r M
  unfold setSill
  repeat' first
    | with_reducible assumption
    | with_reducible apply Touches.refl
    | (extract_lets -underBinder +onlyGivenNames x; (have hty : TypeOf x = State := by with_reducible rfl); clear hty; apply Touches.cut 0x1c6 s x; (case' kk => (clear_value x; intro _)); (case' vv => (unfold x; clear x)))
    | (extract_lets -underBinder +onlyGivenNames x; try clear_value x)
    | with_reducible apply Touches.ite
    | ((with_reducible apply State.setReg_touches); (case hm => rfl))
    | ((with_reducible apply raise_touches); (case hm => rfl))

theorem sillLeave_touches {M : Nat} {r : State} (a0 : Nat) (a1 : Nat) (s : State) (hs : Touches M r s) (hm : 0x1c6 ||| M = M) :
    Touches M r (sillLeave a0 a1 s) := by
  refine Touches.step hs ?_ hm
  clear hs hm r M
  suffices hq : ∀ r, Touches 0x1c6 r s → Touches 0x1c6 r (sillLeave a0 a1 s) from hq _ (Touches.refl _ _)
  induction a1 generalizing a0 s with
  | zero =>
    intro r hs
    unfold sillLeave
    repeat' first
      | with_reducible assumption
      | (intro _; try dsimp -zeta only)
      | (extract_lets -underBinder +onlyGivenNames x; (have hty : TypeOf x = State := by with_reducible rfl); clear hty; apply Touches.cut 0x1c6 r x; (case' kk => (clear_value x; intro _)); (case' vv => (unfold x; clear x)))
      | (extract_lets -underBinder +onlyGivenNames x; try clear_value x)
      | with_reducible apply Touches.refl
      | with_reducible apply Touches.ite
      | with_reducible apply ih
      | ((with_reducible apply setSill_touches); (case hm => rfl))
      | with_reducible apply Touches.foldlD
      | split
  | succ k ih =>
    intro r hs
    unfold sillLeave
    repeat' first
      | with_reducible assumption
      | (intro _; try dsimp -zeta only)
      | (extract_lets -underBinder +onlyGivenNames x; (have hty : TypeOf x = State := by with_reducible rfl); clear hty; apply Touches.cut 0x1c6 r x; (case' kk => (clear_value x; intro _)); (case' vv => (unfold x; clear x)))
      | (extract_lets -underBinder +onlyGivenNames x; try clear_value x)
      | with_reducible apply Touches.refl
      | with_reducible apply Touches.ite
      | with_reducible apply ih
      | ((with_reducible apply setSill_touches); (case hm => rfl))
      | with_reducible apply Touches.foldlD
      | split

theorem sillEnter_touches {M : Nat} {r : State} (a0 : Nat) (a1 : Nat) (s : State) (hs : Touches M r s) (hm : 0x1c6 ||| M = M) :
    Touches M r (sillEnter a0 a1 s) := by
  refine Touches.step hs ?_ hm
  clear hs hm r M
  suffices hq : ∀ r, Touches 0x1c6 r s → Touches 0x1c6 r (sillEnter a0 a1 s) from hq _ (Touches.refl _ _)
  induction a1 generalizing a0 s with
  | zero =>
    intro r hs
    unfold sillEnter
    repeat' first
      | with_reducible assumption
      | (intro _; try dsimp -zeta only)
      | (extract_lets -underBinder +onlyGivenNames x; (have hty : TypeOf x = State := by with_reducible rfl); clear hty; apply Touches.cut 0x1c6 r x; (case' kk => (clear_value x; intro _)); (case' vv => (unfold x; clear x)))
      | (extract_lets -underBinder +onlyGivenNames x; try clear_value x)
      | with_reducible apply Touches.refl
      | with_reducible apply Touches.ite
      | with_reducible apply ih
      | ((with_reducible apply setSill_touches); (case hm => rfl))
      | with_reducible apply Touches.foldlD
      | split
  | succ k ih =>
    intro r hs
    unfold sillEnter
    repeat' first
      | with_reducible assumption
      | (intro _; try dsimp -zeta only)
      | (extract_lets -underBinder +onlyGivenNames x; (have hty : TypeOf x = State := by with_reducible rfl); clear hty; apply Touches.cut 0x1c6 r x; (case' kk => (clear_value x; intro _)); (case' vv => (unfold x; clear x)))
      | (extract_lets -underBinder +onlyGivenNames x; try clear_value x)
      | with_reducible apply Touches.refl
      | with_reducible apply Touches.ite
      | with_reducible apply ih
      | ((with_reducible apply setSill_touches); (case hm => rfl))
      | with_reducible apply Touches.foldlD
      | split

theorem sillUpdate_touches {M : Nat} {r : State} (a0 : Nat) (s : State) (hs : Touches M r s) (hm : 0x1c6 ||| M = M) :
    Touches M r (sillUpdate a0 s) := by
  refine Touches.step hs ?_ hm
  clear hs hm r M
  unfold sillUpdate
  repeat' first
    | with_reducible assumption
    | with_reducible apply Touches.refl
    | ((with_reducible apply sillLeave_touches); (case hm => rfl))
    | ((with_reducible apply sillEnter_touches); (case hm => rfl))

theorem carvingCounts_touches {M : Nat} {r : State} (s : State) (hs : Touches M r s) (hm : 0x2 ||| M = M) :
    Touches M r (carvingCounts s) := by
  refine Touches.step hs ?_ hm
  clear hs hm r M
  unfold carvingCounts
  repeat' first
    | with_reducible assumption
    | (intro _; try dsimp -zeta only)
    | (extract_lets -underBinder +onlyGivenNames x; (have hty : TypeOf x = State := by with_reducible rfl); clear hty; apply Touches.cut 0x2 s x; (case' kk => (clear_value x; intro _)); (case' vv => (unfold x; clear x)))
    | (extract_lets -underBinder +onlyGivenNames x; try clear_value x)
    | with_reducible apply Touches.refl
    | ((with_reducible apply State.setFld_touches); (case hm => rfl))
    | with_reducible apply Touches.foldlD

theorem txFlush_touches {M : Nat} {r : State} (a0 : Sys2Proof.HostId) (a1 : Nat) (a2 : Nat) (s : State) (hs : Touches M r s) (hm : 0xc0 ||| M = M) :
    Touches M r (txFlush a0 a1 a2 s) := by
  refine Touches.step hs ?_ hm
  clear hs hm r M
  suffices hq : ∀ r, Touches 0xc0 r s → Touches 0xc0 r (txFlush a0 a1 a2 s) from hq _ (Touches.refl _ _)
  induction a2 generalizing a0 a1 s with
  | zero =>
    intro r hs
    unfold txFlush
    repeat' first
      | with_reducible assumption
      | (intro _; try dsimp -zeta only)
      | (extract_lets -underBinder +onlyGivenNames x; (have hty : TypeOf x = State := by with_reducible rfl); clear hty; apply Touches.cut 0xc0 r x; (case' kk => (clear_value x; intro _)); (case' vv => (unfold x; clear x)))
      | (extract_lets -underBinder +onlyGivenNames x; try clear_value x)
      | with_reducible apply Touches.refl
      | with_reducible apply Touches.ite
      | with_reducible apply ih
      | ((with_reducible apply State.modHost_touches); (case hm => rfl))
      | with_reducible apply Touches.foldlD
      | split
  | succ k ih =>
    intro r hs
    unfold txFlush
    repeat' first
      | with_reducible assumption
      | (intro _; try dsimp -zeta only)
      | (extract_lets -underBinder +onlyGivenNames x; (have hty : TypeOf x = State := by with_reducible rfl); clear hty; apply Touches.cut 0xc0 r x; (case' kk => (clear_value x; intro _)); (case' vv => (unfold x; clear x)))
      | (extract_lets -underBinder +onlyGivenNames x; try clear_value x)
      | with_reducible apply Touches.refl
      | with_reducible apply Touches.ite
      | with_reducible apply ih
      | ((with_reducible apply State.modHost_touches); (case hm => rfl))
      | with_reducible apply Touches.foldlD
      | split

theorem txReady_touches {M : Nat} {r : State} (a0 : Option (Sys2Proof.HostId × Nat)) (a1 : Nat) (a2 : Int) (s : State) (hs : Touches M r s) (hm : 0xc0 ||| M = M) :
    Touches M r (txReady a0 a1 a2 s) := by
  refine Touches.step hs ?_ hm
  clear hs hm r M
  unfold txReady
  repeat' first
    | with_reducible assumption
    | with_reducible apply Touches.refl
    | (extract_lets -underBinder +onlyGivenNames x; (have hty : TypeOf x = State := by with_reducible rfl); clear hty; apply Touches.cut 0xc0 s x; (case' kk => (clear_value x; intro _)); (case' vv => (unfold x; clear x)))
    | (extract_lets -underBinder +onlyGivenNames x; try clear_value x)
    | with_reducible apply Touches.ite
    | ((with_reducible apply State.modHost_touches); (case hm => rfl))
    | ((with_reducible apply txFlush_touches); (case hm => rfl))
    | split

theorem txDropped_touches {M : Nat} {r : State} (a0 : Option (Sys2Proof.HostId × Nat)) (s : State) (hs : Touches M r s) (hm : 0xc0 ||| M = M) :
    Touches M r (txDropped a0 s) := by
  refine Touches.step hs ?_ hm
  clear hs hm r M
  unfold txDropped
  repeat' first
    | with_reducible assumption
    | with_reducible apply Touches.refl
    | ((with_reducible apply txReady_touches); (case hm => rfl))
    | split

theorem pfcPortUpdate_touches {M : Nat} {r : State} (a0 : Nat) (s : State) (hs : Touches M r s) (hm : 0x2014 ||| M = M) :
    Touches M r (pfcPortUpdate a0 s) := by
  refine Touches.step hs ?_ hm
  clear hs hm r M
  unfold pfcPortUpdate
  repeat' first
    | with_reducible assumption
    | with_reducible apply Touches.refl
    | ((with_reducible apply State.modEport_touches); (case hm => rfl))
    | (extract_lets -underBinder +onlyGivenNames x; (have hty : TypeOf x = State := by with_reducible rfl); clear hty; apply Touches.cut 0x2014 s x; (case' kk => (clear_value x; intro _)); (case' vv => (unfold x; clear x)))
    | (extract_lets -underBinder +onlyGivenNames x; try clear_value x)
    | with_reducible apply Touches.ite
    | ((with_reducible apply sendPfc_touches); (case hm => rfl))

theorem pfcUpdate_touches {M : Nat} {r : State} (s : State) (hs : Touches M r s) (hm : 0x2014 ||| M = M) :
    Touches M r (pfcUpdate s) := by
  refine Touches.step hs ?_ hm
  clear hs hm r M
  unfold pfcUpdate
  repeat' first
    | with_reducible assumption
    | (intro _; try dsimp -zeta only)
    | with_reducible apply Touches.refl
    | with_reducible apply Touches.ite
    | ((with_reducible apply pfcPortUpdate_touches); (case hm => rfl))
    | with_reducible apply Touches.foldlD

theorem sillAll_touches {M : Nat} {r : State} (s : State) (hs : Touches M r s) (hm : 0x21d6 ||| M = M) :
    Touches M r (sillAll s) := by
  refine Touches.step hs ?_ hm
  clear hs hm r M
  unfold sillAll
  repeat' first
    | with_reducible assumption
    | (intro _; try dsimp -zeta only)
    | with_reducible apply Touches.refl
    | ((with_reducible apply pfcUpdate_touches); (case hm => rfl))
    | ((with_reducible apply sillUpdate_touches); (case hm => rfl))
    | with_reducible apply Touches.foldlD

theorem carve_touches {M : Nat} {r : State} (s : State) (hs : Touches M r s) (hm : 0x121d6 ||| M = M) :
    Touches M r (carve s) := by
  refine Touches.step hs ?_ hm
  clear hs hm r M
  unfold carve
  repeat' first
    | with_reducible assumption
    | (intro _; try dsimp -zeta only)
    | (extract_lets -underBinder +onlyGivenNames x; (have hty : TypeOf x = State := by with_reducible rfl); clear hty; apply Touches.cut 0x121d6 s x; (case' kk => (clear_value x; intro _)); (case' vv => (unfold x; clear x)))
    | (extract_lets -underBinder +onlyGivenNames x; try clear_value x)
    | with_reducible apply Touches.refl
    | ((with_reducible apply State.setFld_touches); (case hm => rfl))
    | ((with_reducible apply emptyMem_touches); (case hm => rfl))
    | ((with_reducible apply sillAll_touches); (case hm => rfl))
    | ((with_reducible apply carvingCounts_touches); (case hm => rfl))
    | with_reducible apply Touches.foldlD

theorem poolChanged_touches {M : Nat} {r : State} (a0 : Nat) (s : State) (hs : Touches M r s) (hm : 0x21d6 ||| M = M) :
    Touches M r (poolChanged a0 s) := by
  refine Touches.step hs ?_ hm
  clear hs hm r M
  unfold poolChanged
  repeat' first
    | with_reducible assumption
    | with_reducible apply Touches.refl
    | ((with_reducible apply pfcUpdate_touches); (case hm => rfl))
    | ((with_reducible apply sillUpdate_touches); (case hm => rfl))

theorem freed_touches {M : Nat} {r : State} (a0 : Nat) (a1 : Buf) (s : State) (hs : Touches M r s) (hm : 0x21d6 ||| M = M) :
    Touches M r (freed a0 a1 s) := by
  refine Touches.step hs ?_ hm
  clear hs hm r M
  unfold freed
  repeat' first
    | with_reducible assumption
    | (intro _; try dsimp -zeta only)
    | (extract_lets -underBinder +onlyGivenNames x; (have hty : TypeOf x = State := by with_reducible rfl); clear hty; apply Touches.cut 0x21d6 s x; (case' kk => (clear_value x; intro _)); (case' vv => (unfold x; clear x)))
    | (extract_lets -underBinder +onlyGivenNames x; try clear_value x)
    | with_reducible apply Touches.refl
    | ((with_reducible apply txDropped_touches); (case hm => rfl))
    | with_reducible apply Touches.ite
    | ((with_reducible apply txReady_touches); (case hm => rfl))
    | ((with_reducible apply poolChanged_touches); (case hm => rfl))
    | with_reducible apply Touches.foldlD

theorem putBuf_touches {M : Nat} {r : State} (a0 : Nat) (a1 : Buf) (s : State) (hs : Touches M r s) (hm : 0x10000 ||| M = M) :
    Touches M r (putBuf a0 a1 s) := by
  refine Touches.step hs ?_ hm
  clear hs hm r M
  unfold putBuf
  repeat' first
    | with_reducible assumption
    | with_reducible apply Touches.refl
    | (extract_lets -underBinder +onlyGivenNames x; (have hty : TypeOf x = State := by with_reducible rfl); clear hty; apply Touches.cut 0x10000 s x; (case' kk => (clear_value x; intro _)); (case' vv => (unfold x; clear x)))
    | (extract_lets -underBinder +onlyGivenNames x; try clear_value x)
    | ((with_reducible apply Touches.mem); (case hm => rfl))

theorem release_touches {M : Nat} {r : State} (a0 : Nat) (a1 : Nat) (a2 : Bool) (s : State) (hs : Touches M r s) (hm : 0x121d6 ||| M = M) :
    Touches M r (release a0 a1 a2 s) := by
  refine Touches.step hs ?_ hm
  clear hs hm r M
  unfold release
  repeat' first
    | with_reducible assumption
    | with_reducible apply Touches.refl
    | (extract_lets -underBinder +onlyGivenNames x; (have hty : TypeOf x = State := by with_reducible rfl); clear hty; apply Touches.cut 0x121d6 s x; (case' kk => (clear_value x; intro _)); (case' vv => (unfold x; clear x)))
    | (extract_lets -underBinder +onlyGivenNames x; try clear_value x)
    | with_reducible apply Touches.ite
    | ((with_reducible apply freed_touches); (case hm => rfl))
    | ((with_reducible apply putBuf_touches); (case hm => rfl))
    | ((with_reducible apply raise_touches); (case hm => rfl))
    | ((with_reducible apply State.bumpFld_touches); (case hm => rfl))
    | split

theorem dbgRelease_touches {M : Nat} {r : State} (a0 : Nat) (s : State) (hs : Touches M r s) (hm : 0x121d6 ||| M = M) :
    Touches M r (dbgRelease a0 s) := by
  refine Touches.step hs ?_ hm
  clear hs hm r M
  unfold dbgRelease
  repeat' first
    | with_reducible assumption
    | with_reducible apply Touches.refl
    | (extract_lets -underBinder +onlyGivenNames x; (have hty : TypeOf x = State := by with_reducible rfl); clear hty; apply Touches.cut 0x121d6 s x; (case' kk => (clear_value x; intro _)); (case' vv => (unfold x; clear x)))
    | (extract_lets -underBinder +onlyGivenNames x; try clear_value x)
    | with_reducible apply Touches.ite
    | ((with_reducible apply release_touches); (case hm => rfl))

theorem sendVoid_touches {M : Nat} {r : State} (a0 : Nat) (a1 : Nat) (a2 : Nat) (a3 : Nat) (s : State) (hs : Touches M r s) (hm : 0x10004 ||| M = M) :
    Touches M r (sendVoid a0 a1 a2 a3 s) := by
  refine Touches.step hs ?_ hm
  clear hs hm r M
  unfold sendVoid
  repeat' first
    | with_reducible assumption
    | with_reducible apply Touches.refl
    | (extract_lets -underBinder +onlyGivenNames x; (have hty : TypeOf x = State := by with_reducible rfl); clear hty; apply Touches.cut 0x10004 s x; (case' kk => (clear_value x; intro _)); (case' vv => (unfold x; clear x)))
    | (extract_lets -underBinder +onlyGivenNames x; try clear_value x)
    | with_reducible apply Touches.ite
    | ((with_reducible apply State.bump_touches); (case hm => rfl))
    | split
    | ((with_reducible apply Touches.mem); (case hm => rfl))

theorem settleNum_touches {M : Nat} {r : State} (a0 : Nat) (a1 : Nat) (a2 : Nat) (a3 : Nat) (a4 : Bool) (a5 : Bool) (s : State) (hs : Touches M r s) (hm : 0x30004 ||| M = M) :
    Touches M r (settleNum a0 a1 a2 a3 a4 a5 s) := by
  refine Touches.step hs ?_ hm
  clear hs hm r M
  unfold settleNum
  repeat' first
    | with_reducible assumption
    | with_reducible apply Touches.refl
    | (extract_lets -underBinder +onlyGivenNames x; (have hty : TypeOf x = State := by with_reducible rfl); clear hty; apply Touches.cut 0x30004 s x; (case' kk => (clear_value x; intro _)); (case' vv => (unfold x; clear x)))
    | (extract_lets -underBinder +onlyGivenNames x; try clear_value x)
    | with_reducible apply Touches.ite
    | ((with_reducible apply State.modCc_touches); (case hm => rfl))
    | ((with_reducible apply State.modStream_touches); (case hm => rfl))
    | ((with_reducible apply sendVoid_touches); (case hm => rfl))
    | split

theorem departPart_touches {M : Nat} {r : State} (a0 : Nat) (a1 : Nat) (a2 : Bool) (a3 : Part) (s : State) (hs : Touches M r s) (hm : 0x301c6 ||| M = M) :
    Touches M r (departPart a0 a1 a2 a3 s) := by
  refine Touches.step hs ?_ hm
  clear hs hm r M
  unfold departPart
  repeat' first
    | with_reducible assumption
    | with_reducible apply Touches.refl
    | (extract_lets -underBinder +onlyGivenNames x; (have hty : TypeOf x = State := by with_reducible rfl); clear hty; apply Touches.cut 0x301c6 s x; (case' kk => (clear_value x; intro _)); (case' vv => (unfold x; clear x)))
    | (extract_lets -underBinder +onlyGivenNames x; try clear_value x)
    | with_reducible apply Touches.ite
    | ((with_reducible apply txReady_touches); (case hm => rfl))
    | ((with_reducible apply State.modCc_touches); (case hm => rfl))
    | ((with_reducible apply raise_touches); (case hm => rfl))
    | ((with_reducible apply settleNum_touches); (case hm => rfl))
    | split

theorem departCopy_touches {M : Nat} {r : State} (a0 : Nat) (a1 : Nat) (a2 : Cell) (s : State) (hs : Touches M r s) (hm : 0x321d6 ||| M = M) :
    Touches M r (departCopy a0 a1 a2 s) := by
  refine Touches.step hs ?_ hm
  clear hs hm r M
  unfold departCopy
  repeat' first
    | with_reducible assumption
    | (intro _; try dsimp -zeta only)
    | with_reducible apply Touches.refl
    | ((with_reducible apply release_touches); (case hm => rfl))
    | ((with_reducible apply departPart_touches); (case hm => rfl))
    | with_reducible apply Touches.foldlD
    | split

theorem faultDiscard_touches {M : Nat} {r : State} (a0 : Nat) (a1 : Bool) (a2 : Bool) (a3 : Part) (s : State) (hs : Touches M r s) (hm : 0x30004 ||| M = M) :
    Touches M r (faultDiscard a0 a1 a2 a3 s) := by
  refine Touches.step hs ?_ hm
  clear hs hm r M
  unfold faultDiscard
  repeat' first
    | with_reducible assumption
    | with_reducible apply Touches.refl
    | with_reducible apply Touches.ite
    | ((with_reducible apply settleNum_touches); (case hm => rfl))
    | ((with_reducible apply State.modCc_touches); (case hm => rfl))
    | split

theorem discardCopy_touches {M : Nat} {r : State} (a0 : Nat) (a1 : Cell) (a2 : Bool) (s : State) (hs : Touches M r s) (hm : 0x321d6 ||| M = M) :
    Touches M r (discardCopy a0 a1 a2 s) := by
  refine Touches.step hs ?_ hm
  clear hs hm r M
  unfold discardCopy
  repeat' first
    | with_reducible assumption
    | (intro _; try dsimp -zeta only)
    | (extract_lets -underBinder +onlyGivenNames x; (have hty : TypeOf x = State := by with_reducible rfl); clear hty; apply Touches.cut 0x321d6 s x; (case' kk => (clear_value x; intro _)); (case' vv => (unfold x; clear x)))
    | (extract_lets -underBinder +onlyGivenNames x; try clear_value x)
    | with_reducible apply Touches.refl
    | ((with_reducible apply State.bump_touches); (case hm => rfl))
    | ((with_reducible apply release_touches); (case hm => rfl))
    | ((with_reducible apply faultDiscard_touches); (case hm => rfl))
    | with_reducible apply Touches.foldlD
    | split

theorem discardAll_touches {M : Nat} {r : State} (a0 : Nat) (a1 : Bool) (a2 : List Cell) (s : State) (hs : Touches M r s) (hm : 0x321d6 ||| M = M) :
    Touches M r (discardAll a0 a1 a2 s) := by
  refine Touches.step hs ?_ hm
  clear hs hm r M
  unfold discardAll
  repeat' first
    | with_reducible assumption
    | (intro _; try dsimp -zeta only)
    | with_reducible apply Touches.refl
    | ((with_reducible apply discardCopy_touches); (case hm => rfl))
    | with_reducible apply Touches.foldlD

theorem dropOversize_touches {M : Nat} {r : State} (a0 : Nat) (a1 : Nat) (a2 : List Cell) (s : State) (hs : Touches M r s) (hm : 0x321d6 ||| M = M) :
    Touches M r (dropOversize a0 a1 a2 s) := by
  refine Touches.step hs ?_ hm
  clear hs hm r M
  suffices hq : ∀ r, Touches 0x321d6 r s → Touches 0x321d6 r (dropOversize a0 a1 a2 s) from hq _ (Touches.refl _ _)
  induction a2 generalizing a0 a1 s with
  | nil =>
    intro r hs
    unfold dropOversize
    repeat' first
      | with_reducible assumption
      | (intro _; try dsimp -zeta only)
      | (extract_lets -underBinder +onlyGivenNames x; (have hty : TypeOf x = State := by with_reducible rfl); clear hty; apply Touches.cut 0x321d6 r x; (case' kk => (clear_value x; intro _)); (case' vv => (unfold x; clear x)))
      | (extract_lets -underBinder +onlyGivenNames x; try clear_value x)
      | with_reducible apply Touches.refl
      | ((with_reducible apply dropHead_touches); (case hm => rfl))
      | with_reducible apply Touches.ite
      | with_reducible apply ih
      | ((with_reducible apply discardCopy_touches); (case hm => rfl))
      | ((with_reducible apply State.unqueue_touches); (case hm => rfl))
      | ((with_reducible apply settle_touches); (case hm => rfl))
      | with_reducible apply Touches.foldlD
      | split
  | cons hd tl ih =>
    intro r hs
    unfold dropOversize
    repeat' first
      | with_reducible assumption
      | (intro _; try dsimp -zeta only)
      | (extract_lets -underBinder +onlyGivenNames x; (have hty : TypeOf x = State := by with_reducible rfl); clear hty; apply Touches.cut 0x321d6 r x; (case' kk => (clear_value x; intro _)); (case' vv => (unfold x; clear x)))
      | (extract_lets -underBinder +onlyGivenNames x; try clear_value x)
      | with_reducible apply Touches.refl
      | ((with_reducible apply dropHead_touches); (case hm => rfl))
      | with_reducible apply Touches.ite
      | with_reducible apply ih
      | ((with_reducible apply discardCopy_touches); (case hm => rfl))
      | ((with_reducible apply State.unqueue_touches); (case hm => rfl))
      | ((with_reducible apply settle_touches); (case hm => rfl))
      | with_reducible apply Touches.foldlD
      | split

theorem eccCorrected_touches {M : Nat} {r : State} (a0 : Nat) (a1 : Nat) (s : State) (hs : Touches M r s) (hm : 0x101c6 ||| M = M) :
    Touches M r (eccCorrected a0 a1 s) := by
  refine Touches.step hs ?_ hm
  clear hs hm r M
  unfold eccCorrected
  repeat' first
    | with_reducible assumption
    | with_reducible apply Touches.refl
    | (extract_lets -underBinder +onlyGivenNames x; (have hty : TypeOf x = State := by with_reducible rfl); clear hty; apply Touches.cut 0x101c6 s x; (case' kk => (clear_value x; intro _)); (case' vv => (unfold x; clear x)))
    | (extract_lets -underBinder +onlyGivenNames x; try clear_value x)
    | with_reducible apply Touches.ite
    | ((with_reducible apply State.bumpFld_touches); (case hm => rfl))
    | ((with_reducible apply raise_touches); (case hm => rfl))
    | split
    | ((with_reducible apply Touches.mem); (case hm => rfl))

theorem eccDiscard_touches {M : Nat} {r : State} (a0 : Nat) (a1 : Cell) (s : State) (hs : Touches M r s) (hm : 0x321d6 ||| M = M) :
    Touches M r (eccDiscard a0 a1 s) := by
  refine Touches.step hs ?_ hm
  clear hs hm r M
  unfold eccDiscard
  repeat' first
    | with_reducible assumption
    | with_reducible apply Touches.refl
    | ((with_reducible apply discardCopy_touches); (case hm => rfl))
    | ((with_reducible apply raise_touches); (case hm => rfl))
    | ((with_reducible apply State.bumpFld_touches); (case hm => rfl))

theorem enqueue_touches {M : Nat} {r : State} (a0 : Nat) (a1 : Nat) (a2 : Cell) (s : State) (hs : Touches M r s) (hm : 0x321d6 ||| M = M) :
    Touches M r (enqueue a0 a1 a2 s) := by
  refine Touches.step hs ?_ hm
  clear hs hm r M
  unfold enqueue
  repeat' first
    | with_reducible assumption
    | with_reducible apply Touches.refl
    | (extract_lets -underBinder +onlyGivenNames x; (have hty : TypeOf x = State := by with_reducible rfl); clear hty; apply Touches.cut 0x321d6 s x; (case' kk => (clear_value x; intro _)); (case' vv => (unfold x; clear x)))
    | (extract_lets -underBinder +onlyGivenNames x; try clear_value x)
    | with_reducible apply Touches.ite
    | ((with_reducible apply settle_touches); (case hm => rfl))
    | ((with_reducible apply parkArrival_touches); (case hm => rfl))
    | ((with_reducible apply State.setQueue_touches); (case hm => rfl))
    | ((with_reducible apply discardCopy_touches); (case hm => rfl))

theorem execBufBdSnapshot_touches {M : Nat} {r : State} (a0 : Sys2Proof.Src) (a1 : Nat) (s : State) (hs : Touches M r s) (hm : 0x2a ||| M = M) :
    TouchesR M r (execBufBdSnapshot a0 a1 s) := by
  refine TouchesR.step hs ?_ hm
  clear hs hm r M
  unfold execBufBdSnapshot
  repeat' first
    | with_reducible assumption
    | (intro _; try dsimp -zeta only)
    | with_reducible apply Touches.refl
    | with_reducible apply TouchesR.next
    | with_reducible apply TouchesR.fault
    | ((with_reducible apply busRow_touches); (case hm => rfl))
    | ((with_reducible apply bdSnapshot_touches); (case hm => rfl))

theorem execBufDbgRelease_touches {M : Nat} {r : State} (a0 : Sys2Proof.Src) (a1 : Nat) (s : State) (hs : Touches M r s) (hm : 0x121f6 ||| M = M) :
    TouchesR M r (execBufDbgRelease a0 a1 s) := by
  refine TouchesR.step hs ?_ hm
  clear hs hm r M
  unfold execBufDbgRelease
  repeat' first
    | with_reducible assumption
    | (intro _; try dsimp -zeta only)
    | with_reducible apply Touches.refl
    | with_reducible apply TouchesR.next
    | with_reducible apply TouchesR.fault
    | ((with_reducible apply busRow_touches); (case hm => rfl))
    | ((with_reducible apply dbgRelease_touches); (case hm => rfl))

theorem sillWrite_touches {M : Nat} {r : State} (a0 : Nat) (a1 : Nat) (s : State) (hs : Touches M r s) (hm : 0x21d6 ||| M = M) :
    Touches M r (sillWrite a0 a1 s) := by
  refine Touches.step hs ?_ hm
  clear hs hm r M
  unfold sillWrite
  repeat' first
    | with_reducible assumption
    | with_reducible apply Touches.refl
    | (extract_lets -underBinder +onlyGivenNames x; (have hty : TypeOf x = State := by with_reducible rfl); clear hty; apply Touches.cut 0x21d6 s x; (case' kk => (clear_value x; intro _)); (case' vv => (unfold x; clear x)))
    | (extract_lets -underBinder +onlyGivenNames x; try clear_value x)
    | with_reducible apply Touches.ite
    | ((with_reducible apply poolChanged_touches); (case hm => rfl))
    | ((with_reducible apply State.setReg_touches); (case hm => rfl))
    | ((with_reducible apply State.setFld_touches); (case hm => rfl))

theorem execBufSillWrite_touches {M : Nat} {r : State} (a0 : Sys2Proof.Src) (a1 : Fin 6) (a2 : Nat) (s : State) (hs : Touches M r s) (hm : 0x21f6 ||| M = M) :
    TouchesR M r (execBufSillWrite a0 a1 a2 s) := by
  refine TouchesR.step hs ?_ hm
  clear hs hm r M
  unfold execBufSillWrite
  repeat' first
    | with_reducible assumption
    | (intro _; try dsimp -zeta only)
    | with_reducible apply Touches.refl
    | with_reducible apply TouchesR.next
    | with_reducible apply TouchesR.fault
    | ((with_reducible apply busRow_touches); (case hm => rfl))
    | ((with_reducible apply sillWrite_touches); (case hm => rfl))

theorem maxLenWrite_touches {M : Nat} {r : State} (a0 : Nat) (a1 : Nat) (s : State) (hs : Touches M r s) (hm : 0x321d6 ||| M = M) :
    Touches M r (maxLenWrite a0 a1 s) := by
  refine Touches.step hs ?_ hm
  clear hs hm r M
  unfold maxLenWrite
  repeat' first
    | with_reducible assumption
    | (intro _; try dsimp -zeta only)
    | (extract_lets -underBinder +onlyGivenNames x; (have hty : TypeOf x = State := by with_reducible rfl); clear hty; apply Touches.cut 0x321d6 s x; (case' kk => (clear_value x; intro _)); (case' vv => (unfold x; clear x)))
    | (extract_lets -underBinder +onlyGivenNames x; try clear_value x)
    | with_reducible apply Touches.refl
    | with_reducible apply Touches.ite
    | ((with_reducible apply dropOversize_touches); (case hm => rfl))
    | ((with_reducible apply State.setFld_touches); (case hm => rfl))
    | with_reducible apply Touches.foldlD

theorem execMaxLenWrite_touches {M : Nat} {r : State} (a0 : Sys2Proof.Src) (a1 : Sys2Proof.Port) (a2 : Nat) (s : State) (hs : Touches M r s) (hm : 0x321f6 ||| M = M) :
    TouchesR M r (execMaxLenWrite a0 a1 a2 s) := by
  refine TouchesR.step hs ?_ hm
  clear hs hm r M
  unfold execMaxLenWrite
  repeat' first
    | with_reducible assumption
    | (intro _; try dsimp -zeta only)
    | with_reducible apply Touches.refl
    | with_reducible apply TouchesR.next
    | with_reducible apply TouchesR.fault
    | ((with_reducible apply busRow_touches); (case hm => rfl))
    | ((with_reducible apply maxLenWrite_touches); (case hm => rfl))

theorem quotaEvent_touches {M : Nat} {r : State} (a0 : Nat) (a1 : Nat) (s : State) (hs : Touches M r s) (hm : 0x201c6 ||| M = M) :
    Touches M r (quotaEvent a0 a1 s) := by
  refine Touches.step hs ?_ hm
  clear hs hm r M
  unfold quotaEvent
  repeat' first
    | with_reducible assumption
    | with_reducible apply Touches.refl
    | ((with_reducible apply raise_touches); (case hm => rfl))
    | ((with_reducible apply State.modStream_touches); (case hm => rfl))

theorem execQuotaDiscardIntervalEnd_touches {M : Nat} {r : State} (a0 : Nat) (s : State) (hs : Touches M r s) (hm : 0x201c6 ||| M = M) :
    TouchesR M r (execQuotaDiscardIntervalEnd a0 s) := by
  refine TouchesR.step hs ?_ hm
  clear hs hm r M
  unfold execQuotaDiscardIntervalEnd
  repeat' first
    | with_reducible assumption
    | with_reducible apply Touches.refl
    | with_reducible apply TouchesR.next
    | with_reducible apply TouchesR.fault
    | with_reducible apply TouchesR.ite
    | with_reducible apply Touches.ite
    | ((with_reducible apply State.modStream_touches); (case hm => rfl))
    | ((with_reducible apply quotaEvent_touches); (case hm => rfl))
    | split

theorem flushQueue_touches {M : Nat} {r : State} (a0 : Nat) (a1 : Nat) (a2 : Bool) (s : State) (hs : Touches M r s) (hm : 0x321d6 ||| M = M) :
    Touches M r (flushQueue a0 a1 a2 s) := by
  refine Touches.step hs ?_ hm
  clear hs hm r M
  unfold flushQueue
  repeat' first
    | with_reducible assumption
    | with_reducible apply Touches.refl
    | ((with_reducible apply keepInQueue_touches); (case hm => rfl))
    | (extract_lets -underBinder +onlyGivenNames x; (have hty : TypeOf x = State := by with_reducible rfl); clear hty; apply Touches.cut 0x321d6 s x; (case' kk => (clear_value x; intro _)); (case' vv => (unfold x; clear x)))
    | (extract_lets -underBinder +onlyGivenNames x; try clear_value x)
    | ((with_reducible apply discardAll_touches); (case hm => rfl))
    | ((with_reducible apply State.setQueue_touches); (case hm => rfl))
    | ((with_reducible apply settle_touches); (case hm => rfl))

theorem destLost_touches {M : Nat} {r : State} (a0 : Nat) (a1 : Nat × Nat) (s : State) (hs : Touches M r s) (hm : 0x1c6 ||| M = M) :
    Touches M r (destLost a0 a1 s) := by
  refine Touches.step hs ?_ hm
  clear hs hm r M
  unfold destLost
  repeat' first
    | with_reducible assumption
    | with_reducible apply Touches.refl
    | ((with_reducible apply raise_touches); (case hm => rfl))

theorem portDestsLost_touches {M : Nat} {r : State} (a0 : Nat) (s : State) (hs : Touches M r s) (hm : 0x1c6 ||| M = M) :
    Touches M r (portDestsLost a0 s) := by
  refine Touches.step hs ?_ hm
  clear hs hm r M
  unfold portDestsLost
  repeat' first
    | with_reducible assumption
    | (intro _; try dsimp -zeta only)
    | with_reducible apply Touches.refl
    | with_reducible apply Touches.ite
    | ((with_reducible apply destLost_touches); (case hm => rfl))
    | with_reducible apply Touches.foldlD

theorem portsDestsLost_touches {M : Nat} {r : State} (a0 : List Nat) (s : State) (hs : Touches M r s) (hm : 0x1c6 ||| M = M) :
    Touches M r (portsDestsLost a0 s) := by
  refine Touches.step hs ?_ hm
  clear hs hm r M
  unfold portsDestsLost
  repeat' first
    | with_reducible assumption
    | (intro _; try dsimp -zeta only)
    | with_reducible apply Touches.refl
    | ((with_reducible apply portDestsLost_touches); (case hm => rfl))
    | with_reducible apply Touches.foldlD

theorem flushPort_touches {M : Nat} {r : State} (a0 : Nat) (s : State) (hs : Touches M r s) (hm : 0x321d6 ||| M = M) :
    Touches M r (flushPort a0 s) := by
  refine Touches.step hs ?_ hm
  clear hs hm r M
  unfold flushPort
  repeat' first
    | with_reducible assumption
    | (intro _; try dsimp -zeta only)
    | with_reducible apply Touches.refl
    | ((with_reducible apply flushQueue_touches); (case hm => rfl))
    | with_reducible apply Touches.foldlD

theorem memEcc_touches {M : Nat} {r : State} (a0 : Sys2Proof.EccHit) (s : State) (hs : Touches M r s) (hm : 0x101c6 ||| M = M) :
    Touches M r (memEcc a0 s) := by
  refine Touches.step hs ?_ hm
  clear hs hm r M
  unfold memEcc
  repeat' first
    | with_reducible assumption
    | with_reducible apply Touches.refl
    | (extract_lets -underBinder +onlyGivenNames x; (have hty : TypeOf x = State := by with_reducible rfl); clear hty; apply Touches.cut 0x101c6 s x; (case' kk => (clear_value x; intro _)); (case' vv => (unfold x; clear x)))
    | (extract_lets -underBinder +onlyGivenNames x; try clear_value x)
    | with_reducible apply Touches.ite
    | ((with_reducible apply eccCorrected_touches); (case hm => rfl))
    | ((with_reducible apply raise_touches); (case hm => rfl))
    | ((with_reducible apply Touches.mem); (case hm => rfl))

theorem quotaDiscard_touches {M : Nat} {r : State} (a0 : Nat) (s : State) (hs : Touches M r s) (hm : 0x201c6 ||| M = M) :
    Touches M r (quotaDiscard a0 s) := by
  refine Touches.step hs ?_ hm
  clear hs hm r M
  unfold quotaDiscard
  repeat' first
    | with_reducible assumption
    | with_reducible apply Touches.refl
    | (extract_lets -underBinder +onlyGivenNames x; (have hty : TypeOf x = State := by with_reducible rfl); clear hty; apply Touches.cut 0x201c6 s x; (case' kk => (clear_value x; intro _)); (case' vv => (unfold x; clear x)))
    | (extract_lets -underBinder +onlyGivenNames x; try clear_value x)
    | with_reducible apply Touches.ite
    | ((with_reducible apply State.modCc_touches); (case hm => rfl))
    | ((with_reducible apply quotaEvent_touches); (case hm => rfl))
    | ((with_reducible apply State.modStream_touches); (case hm => rfl))
    | split

end Sys2Proof.Machine
end

