-- ==== Sys2Proof/Laws/Gateway.lean ====
section
/-! SUPPORT. What each function of Machine/Gateway.lean touches: one lemma per function that answers a state. -/

set_option linter.tactic.unusedName false

namespace Sys2Proof.Machine

theorem State.modGw_touches {M : Nat} {r : State} (s : State) (a1 : GwSt → GwSt) (hs : Touches M r s) (hm : 0x80000 ||| M = M) :
    Touches M r (State.modGw s a1) := by
  refine Touches.step hs ?_ hm
  clear hs hm r M
  unfold State.modGw
  repeat' first
    | with_reducible assumption
    | with_reducible apply Touches.refl
    | ((with_reducible apply Touches.gw); (case hm => rfl))

theorem State.modImage_touches {M : Nat} {r : State} (s : State) (a1 : Nat) (a2 : Image → Image) (hs : Touches M r s) (hm : 0x80000 ||| M = M) :
    Touches M r (State.modImage s a1 a2) := by
  refine Touches.step hs ?_ hm
  clear hs hm r M
  unfold State.modImage
  repeat' first
    | with_reducible assumption
    | with_reducible apply Touches.refl
    | ((with_reducible apply State.modGw_touches); (case hm => rfl))

theorem imSend_touches {M : Nat} {r : State} (a0 : Nat) (s : State) (hs : Touches M r s) (hm : 0x290004 ||| M = M) :
    Touches M r (imSend a0 s) := by
  refine Touches.step hs ?_ hm
  clear hs hm r M
  unfold imSend
  repeat' first
    | with_reducible assumption
    | with_reducible apply Touches.refl
    | ((with_reducible apply svAccept_touches); (case hm => rfl))
    | (extract_lets -underBinder +onlyGivenNames x; (have hty : TypeOf x = State := by with_reducible rfl); clear hty; apply Touches.cut 0x290004 s x; (case' kk => (clear_value x; intro _)); (case' vv => (unfold x; clear x)))
    | (extract_lets -underBinder +onlyGivenNames x; try clear_value x)
    | ((with_reducible apply accept_touches); (case hm => rfl))
    | ((with_reducible apply State.bump_touches); (case hm => rfl))
    | ((with_reducible apply State.modImage_touches); (case hm => rfl))

theorem imTrigger_touches {M : Nat} {r : State} (a0 : Nat) (s : State) (hs : Touches M r s) (hm : 0x290004 ||| M = M) :
    Touches M r (imTrigger a0 s) := by
  refine Touches.step hs ?_ hm
  clear hs hm r M
  unfold imTrigger
  repeat' first
    | with_reducible assumption
    | with_reducible apply Touches.refl
    | with_reducible apply Touches.ite
    | ((with_reducible apply imSend_touches); (case hm => rfl))
    | ((with_reducible apply State.modImage_touches); (case hm => rfl))

theorem gwImageCmd_touches {M : Nat} {r : State} (a0 : Sys2Proof.CmdCtx) (s : State) (hs : Touches M r s) (hm : 0x2900d4 ||| M = M) :
    Touches M r (gwImageCmd a0 s) := by
  refine Touches.step hs ?_ hm
  clear hs hm r M
  unfold gwImageCmd
  repeat' first
    | with_reducible assumption
    | with_reducible apply Touches.refl
    | (extract_lets -underBinder +onlyGivenNames x; (have hty : TypeOf x = State := by with_reducible rfl); clear hty; apply Touches.cut 0x2900d4 s x; (case' kk => (clear_value x; intro _)); (case' vv => (unfold x; clear x)))
    | (extract_lets -underBinder +onlyGivenNames x; try clear_value x)
    | with_reducible apply Touches.ite
    | ((with_reducible apply complete_touches); (case hm => rfl))
    | ((with_reducible apply State.modImage_touches); (case hm => rfl))
    | ((with_reducible apply imTrigger_touches); (case hm => rfl))

theorem execGwImageRead_touches {M : Nat} {r : State} (a0 : Sys2Proof.CmdCtx) (s : State) (hs : Touches M r s) (hm : 0x82900d4 ||| M = M) :
    TouchesR M r (execGwImageRead a0 s) := by
  refine TouchesR.step hs ?_ hm
  clear hs hm r M
  unfold execGwImageRead
  repeat' first
    | with_reducible assumption
    | (intro _; try dsimp -zeta only)
    | with_reducible apply Touches.refl
    | with_reducible apply TouchesR.next
    | with_reducible apply TouchesR.fault
    | ((with_reducible apply command_touches); (case hm => rfl))
    | ((with_reducible apply gwImageCmd_touches); (case hm => rfl))

theorem execGwImageSend_touches {M : Nat} {r : State} (a0 : Sys2Proof.CmdCtx) (s : State) (hs : Touches M r s) (hm : 0x82900d4 ||| M = M) :
    TouchesR M r (execGwImageSend a0 s) := by
  refine TouchesR.step hs ?_ hm
  clear hs hm r M
  unfold execGwImageSend
  repeat' first
    | with_reducible assumption
    | (intro _; try dsimp -zeta only)
    | with_reducible apply Touches.refl
    | with_reducible apply TouchesR.next
    | with_reducible apply TouchesR.fault
    | ((with_reducible apply command_touches); (case hm => rfl))
    | ((with_reducible apply gwImageCmd_touches); (case hm => rfl))

theorem execGwImageWrite_touches {M : Nat} {r : State} (a0 : Sys2Proof.CmdCtx) (s : State) (hs : Touches M r s) (hm : 0x82900d4 ||| M = M) :
    TouchesR M r (execGwImageWrite a0 s) := by
  refine TouchesR.step hs ?_ hm
  clear hs hm r M
  unfold execGwImageWrite
  repeat' first
    | with_reducible assumption
    | (intro _; try dsimp -zeta only)
    | with_reducible apply Touches.refl
    | with_reducible apply TouchesR.next
    | with_reducible apply TouchesR.fault
    | ((with_reducible apply command_touches); (case hm => rfl))
    | ((with_reducible apply gwImageCmd_touches); (case hm => rfl))

theorem gwCopyEnd_touches {M : Nat} {r : State} (s : State) (hs : Touches M r s) (hm : 0x80000 ||| M = M) :
    Touches M r (gwCopyEnd s) := by
  refine Touches.step hs ?_ hm
  clear hs hm r M
  unfold gwCopyEnd
  repeat' first
    | with_reducible assumption
    | with_reducible apply Touches.refl
    | with_reducible apply Touches.ite
    | ((with_reducible apply State.modGw_touches); (case hm => rfl))

theorem gwRead_touches {M : Nat} {r : State} (a0 : Sys2Proof.CmdCtx) (s : State) (hs : Touches M r s) (hm : 0x800d0 ||| M = M) :
    Touches M r (gwRead a0 s) := by
  refine Touches.step hs ?_ hm
  clear hs hm r M
  unfold gwRead
  repeat' first
    | with_reducible assumption
    | with_reducible apply Touches.refl
    | (extract_lets -underBinder +onlyGivenNames x; (have hty : TypeOf x = State := by with_reducible rfl); clear hty; apply Touches.cut 0x800d0 s x; (case' kk => (clear_value x; intro _)); (case' vv => (unfold x; clear x)))
    | (extract_lets -underBinder +onlyGivenNames x; try clear_value x)
    | with_reducible apply Touches.ite
    | ((with_reducible apply gwCopyEnd_touches); (case hm => rfl))
    | ((with_reducible apply complete_touches); (case hm => rfl))
    | exact Nat.zero_le _

theorem execGwRead_touches {M : Nat} {r : State} (a0 : Sys2Proof.CmdCtx) (s : State) (hs : Touches M r s) (hm : 0x80800d0 ||| M = M) :
    TouchesR M r (execGwRead a0 s) := by
  refine TouchesR.step hs ?_ hm
  clear hs hm r M
  unfold execGwRead
  repeat' first
    | with_reducible assumption
    | (intro _; try dsimp -zeta only)
    | with_reducible apply Touches.refl
    | with_reducible apply TouchesR.next
    | with_reducible apply TouchesR.fault
    | ((with_reducible apply command_touches); (case hm => rfl))
    | ((with_reducible apply gwRead_touches); (case hm => rfl))
    | exact Nat.zero_le _

theorem gwStage_touches {M : Nat} {r : State} (a0 : Sys2Proof.CmdCtx) (s : State) (hs : Touches M r s) (hm : 0x800d0 ||| M = M) :
    Touches M r (gwStage a0 s) := by
  refine Touches.step hs ?_ hm
  clear hs hm r M
  unfold gwStage
  repeat' first
    | with_reducible assumption
    | (intro _; try dsimp -zeta only)
    | (extract_lets -underBinder +onlyGivenNames x; (have hty : TypeOf x = State := by with_reducible rfl); clear hty; apply Touches.cut 0x800d0 s x; (case' kk => (clear_value x; intro _)); (case' vv => (unfold x; clear x)))
    | (extract_lets -underBinder +onlyGivenNames x; try clear_value x)
    | with_reducible apply Touches.refl
    | with_reducible apply Touches.ite
    | ((with_reducible apply gwCopyEnd_touches); (case hm => rfl))
    | ((with_reducible apply complete_touches); (case hm => rfl))
    | ((with_reducible apply State.modGw_touches); (case hm => rfl))
    | with_reducible apply Touches.foldlD

theorem execGwStage_touches {M : Nat} {r : State} (a0 : Sys2Proof.CmdCtx) (s : State) (hs : Touches M r s) (hm : 0x80800d0 ||| M = M) :
    TouchesR M r (execGwStage a0 s) := by
  refine TouchesR.step hs ?_ hm
  clear hs hm r M
  unfold execGwStage
  repeat' first
    | with_reducible assumption
    | (intro _; try dsimp -zeta only)
    | with_reducible apply Touches.refl
    | with_reducible apply TouchesR.next
    | with_reducible apply TouchesR.fault
    | ((with_reducible apply command_touches); (case hm => rfl))
    | ((with_reducible apply gwStage_touches); (case hm => rfl))

theorem execSignalDeferredSend_touches {M : Nat} {r : State} (a0 : Nat) (s : State) (hs : Touches M r s) (hm : 0x290004 ||| M = M) :
    TouchesR M r (execSignalDeferredSend a0 s) := by
  refine TouchesR.step hs ?_ hm
  clear hs hm r M
  unfold execSignalDeferredSend
  repeat' first
    | with_reducible assumption
    | with_reducible apply Touches.refl
    | with_reducible apply TouchesR.next
    | with_reducible apply TouchesR.fault
    | with_reducible apply TouchesR.ite
    | with_reducible apply Touches.ite
    | ((with_reducible apply imSend_touches); (case hm => rfl))

theorem execSignalPeriodTrigger_touches {M : Nat} {r : State} (a0 : Nat) (s : State) (hs : Touches M r s) (hm : 0x290004 ||| M = M) :
    TouchesR M r (execSignalPeriodTrigger a0 s) := by
  refine TouchesR.step hs ?_ hm
  clear hs hm r M
  unfold execSignalPeriodTrigger
  repeat' first
    | with_reducible assumption
    | with_reducible apply Touches.refl
    | (extract_lets -underBinder +onlyGivenNames x; (have hty : TypeOf x = State := by with_reducible rfl); clear hty; apply Touches.cut 0x290004 s x; (case' kk => (clear_value x; intro _)); (case' vv => (unfold x; clear x)))
    | (extract_lets -underBinder +onlyGivenNames x; try clear_value x)
    | with_reducible apply TouchesR.next
    | with_reducible apply TouchesR.fault
    | with_reducible apply TouchesR.ite
    | with_reducible apply Touches.ite
    | ((with_reducible apply imTrigger_touches); (case hm => rfl))
    | ((with_reducible apply State.modImage_touches); (case hm => rfl))

theorem sigPut_touches {M : Nat} {r : State} (a0 : Sys2Proof.Bytes) (a1 : Nat) (s : State) (hs : Touches M r s) (hm : 0x80000 ||| M = M) :
    Touches M r ((sigPut a0 a1 s).2) := by
  refine Touches.step hs ?_ hm
  clear hs hm r M
  unfold sigPut
  repeat' first
    | with_reducible assumption
    | with_reducible apply Touches.refl
    | (extract_lets -underBinder +onlyGivenNames x; (have hty : TypeOf x = State := by with_reducible rfl); clear hty; apply Touches.cut 0x80000 s x; (case' kk => (clear_value x; intro _)); (case' vv => (unfold x; clear x)))
    | (extract_lets -underBinder +onlyGivenNames x; try clear_value x)
    | ((with_reducible apply State.modImage_touches); (case hm => rfl))
    | (dsimp -zeta only)

theorem sigTimeout_touches {M : Nat} {r : State} (a0 : Nat) (s : State) (hs : Touches M r s) (hm : 0x2901c6 ||| M = M) :
    Touches M r (sigTimeout a0 s) := by
  refine Touches.step hs ?_ hm
  clear hs hm r M
  unfold sigTimeout
  repeat' first
    | with_reducible assumption
    | with_reducible apply Touches.refl
    | (extract_lets -underBinder +onlyGivenNames x; (have hty : TypeOf x = State := by with_reducible rfl); clear hty; apply Touches.cut 0x2901c6 s x; (case' kk => (clear_value x; intro _)); (case' vv => (unfold x; clear x)))
    | (extract_lets -underBinder +onlyGivenNames x; try clear_value x)
    | with_reducible apply Touches.ite
    | ((with_reducible apply sigPut_touches); (case hm => rfl))
    | ((with_reducible apply State.modGw_touches); (case hm => rfl))
    | ((with_reducible apply raise_touches); (case hm => rfl))
    | ((with_reducible apply State.bump_touches); (case hm => rfl))
    | ((with_reducible apply imTrigger_touches); (case hm => rfl))
    | ((with_reducible apply Touches.snd); (case eqn => assumption))
    | split

theorem execSignalTimeoutTick_touches {M : Nat} {r : State} (s : State) (hs : Touches M r s) (hm : 0x2901c6 ||| M = M) :
    TouchesR M r (execSignalTimeoutTick s) := by
  refine TouchesR.step hs ?_ hm
  clear hs hm r M
  unfold execSignalTimeoutTick
  repeat' first
    | with_reducible assumption
    | (intro _; try dsimp -zeta only)
    | with_reducible apply Touches.refl
    | with_reducible apply TouchesR.next
    | with_reducible apply TouchesR.fault
    | with_reducible apply TouchesR.ite
    | with_reducible apply Touches.ite
    | ((with_reducible apply sigTimeout_touches); (case hm => rfl))
    | with_reducible apply Touches.foldlD

theorem sigRun_touches {M : Nat} {r : State} (a0 : Sys2Proof.Bytes) (a1 : List Sys2Proof.Bytes) (a2 : List Nat) (s : State) (hs : Touches M r s) (hm : 0x80004 ||| M = M) :
    Touches M r ((sigRun a0 a1 a2 s).2) := by
  refine Touches.step hs ?_ hm
  clear hs hm r M
  suffices hq : ∀ r, Touches 0x80004 r s → Touches 0x80004 r (sigRun a0 a1 a2 s).2 from hq _ (Touches.refl _ _)
  induction a1 generalizing a0 a2 s with
  | nil =>
    intro r hs
    unfold sigRun
    repeat' first
      | with_reducible assumption
      | (intro _; try dsimp -zeta only)
      | (extract_lets -underBinder +onlyGivenNames x; (have hty : TypeOf x = State := by with_reducible rfl); clear hty; apply Touches.cut 0x80004 r x; (case' kk => (clear_value x; intro _)); (case' vv => (unfold x; clear x)))
      | (extract_lets -underBinder +onlyGivenNames x; try clear_value x)
      | with_reducible apply Touches.refl
      | with_reducible apply Touches.ite
      | with_reducible apply ih
      | ((with_reducible apply sigPut_touches); (case hm => rfl))
      | ((with_reducible apply State.bump_touches); (case hm => rfl))
      | with_reducible apply Touches.foldlD
      | ((with_reducible apply Touches.snd); (case eqn => assumption))
      | split
      | (dsimp -zeta only)
  | cons hd tl ih =>
    intro r hs
    unfold sigRun
    repeat' first
      | with_reducible assumption
      | (intro _; try dsimp -zeta only)
      | (extract_lets -underBinder +onlyGivenNames x; (have hty : TypeOf x = State := by with_reducible rfl); clear hty; apply Touches.cut 0x80004 r x; (case' kk => (clear_value x; intro _)); (case' vv => (unfold x; clear x)))
      | (extract_lets -underBinder +onlyGivenNames x; try clear_value x)
      | with_reducible apply Touches.refl
      | with_reducible apply Touches.ite
      | with_reducible apply ih
      | ((with_reducible apply sigPut_touches); (case hm => rfl))
      | ((with_reducible apply State.bump_touches); (case hm => rfl))
      | with_reducible apply Touches.foldlD
      | ((with_reducible apply Touches.snd); (case eqn => assumption))
      | split
      | (dsimp -zeta only)

theorem sigWrite_touches {M : Nat} {r : State} (a0 : Nat) (a1 : Bool) (a2 : Sys2Proof.LegPdu) (s : State) (hs : Touches M r s) (hm : 0x290004 ||| M = M) :
    Touches M r (sigWrite a0 a1 a2 s) := by
  refine Touches.step hs ?_ hm
  clear hs hm r M
  unfold sigWrite
  repeat' first
    | with_reducible assumption
    | (intro _; try dsimp -zeta only)
    | (extract_lets -underBinder +onlyGivenNames x; (have hty : TypeOf x = State := by with_reducible rfl); clear hty; apply Touches.cut 0x290004 s x; (case' kk => (clear_value x; intro _)); (case' vv => (unfold x; clear x)))
    | (extract_lets -underBinder +onlyGivenNames x; try clear_value x)
    | with_reducible apply Touches.refl
    | with_reducible apply Touches.ite
    | ((with_reducible apply State.modImage_touches); (case hm => rfl))
    | ((with_reducible apply State.modGw_touches); (case hm => rfl))
    | ((with_reducible apply sigRun_touches); (case hm => rfl))
    | ((with_reducible apply imTrigger_touches); (case hm => rfl))
    | with_reducible apply Touches.foldlD
    | ((with_reducible apply Touches.snd); (case eqn => assumption))
    | split

end Sys2Proof.Machine
end

