-- ==== Sys2Proof/Laws/Legacy.lean ====
section
/-! SUPPORT. What each function of Machine/Legacy.lean touches: one lemma per function that answers a state. -/

set_option linter.tactic.unusedName false

namespace Sys2Proof.Machine

theorem legacyDepart_touches {M : Nat} {r : State} (a0 : Nat) (a1 : Sys2Proof.Bytes) (a2 : Cell) (a3 : Sys2Proof.Span) (s : State) (hs : Touches M r s) (hm : 0x321d6 ||| M = M) :
    Touches M r (legacyDepart a0 a1 a2 a3 s) := by
  refine Touches.step hs ?_ hm
  clear hs hm r M
  unfold legacyDepart
  repeat' first
    | with_reducible assumption
    | with_reducible apply Touches.refl
    | (extract_lets -underBinder +onlyGivenNames x; (have hty : TypeOf x = State := by with_reducible rfl); clear hty; apply Touches.cut 0x321d6 s x; (case' kk => (clear_value x; intro _)); (case' vv => (unfold x; clear x)))
    | (extract_lets -underBinder +onlyGivenNames x; try clear_value x)
    | ((with_reducible apply departCopy_touches); (case hm => rfl))
    | ((with_reducible apply State.emit_touches); (case hm => rfl))

theorem State.modCan_touches {M : Nat} {r : State} (s : State) (a1 : Nat) (a2 : Can → Can) (hs : Touches M r s) (hm : 0x80000 ||| M = M) :
    Touches M r (State.modCan s a1 a2) := by
  refine Touches.step hs ?_ hm
  clear hs hm r M
  unfold State.modCan
  repeat' first
    | with_reducible assumption
    | with_reducible apply Touches.refl
    | ((with_reducible apply State.modGw_touches); (case hm => rfl))

theorem loadedDrop_touches {M : Nat} {r : State} (a0 : Nat) (a1 : Cell → Bool) (a2 : Bool) (s : State) (hs : Touches M r s) (hm : 0xb21d6 ||| M = M) :
    Touches M r (loadedDrop a0 a1 a2 s) := by
  refine Touches.step hs ?_ hm
  clear hs hm r M
  unfold loadedDrop
  repeat' first
    | with_reducible assumption
    | with_reducible apply Touches.refl
    | (extract_lets -underBinder +onlyGivenNames x; (have hty : TypeOf x = State := by with_reducible rfl); clear hty; apply Touches.cut 0xb21d6 s x; (case' kk => (clear_value x; intro _)); (case' vv => (unfold x; clear x)))
    | (extract_lets -underBinder +onlyGivenNames x; try clear_value x)
    | with_reducible apply Touches.ite
    | ((with_reducible apply discardAll_touches); (case hm => rfl))
    | ((with_reducible apply State.modCan_touches); (case hm => rfl))
    | ((with_reducible apply State.modGw_touches); (case hm => rfl))

theorem frTake_touches {M : Nat} {r : State} (s : State) (hs : Touches M r s) (hm : 0xb21d6 ||| M = M) :
    Touches M r (frTake s) := by
  refine Touches.step hs ?_ hm
  clear hs hm r M
  unfold frTake
  repeat' first
    | with_reducible assumption
    | with_reducible apply Touches.refl
    | (extract_lets -underBinder +onlyGivenNames x; (have hty : TypeOf x = State := by with_reducible rfl); clear hty; apply Touches.cut 0xb21d6 s x; (case' kk => (clear_value x; intro _)); (case' vv => (unfold x; clear x)))
    | (extract_lets -underBinder +onlyGivenNames x; try clear_value x)
    | with_reducible apply Touches.ite
    | ((with_reducible apply State.modGw_touches); (case hm => rfl))
    | ((with_reducible apply loadedDrop_touches); (case hm => rfl))

theorem State.modLin_touches {M : Nat} {r : State} (s : State) (a1 : Nat) (a2 : Lin → Lin) (hs : Touches M r s) (hm : 0x80000 ||| M = M) :
    Touches M r (State.modLin s a1 a2) := by
  refine Touches.step hs ?_ hm
  clear hs hm r M
  unfold State.modLin
  repeat' first
    | with_reducible assumption
    | with_reducible apply Touches.refl
    | ((with_reducible apply State.modGw_touches); (case hm => rfl))

theorem encapDrop_touches {M : Nat} {r : State} (a0 : Nat) (a1 : Nat) (s : State) (hs : Touches M r s) (hm : 0x801c6 ||| M = M) :
    Touches M r (encapDrop a0 a1 s) := by
  refine Touches.step hs ?_ hm
  clear hs hm r M
  unfold encapDrop
  repeat' first
    | with_reducible assumption
    | with_reducible apply Touches.refl
    | (extract_lets -underBinder +onlyGivenNames x; (have hty : TypeOf x = State := by with_reducible rfl); clear hty; apply Touches.cut 0x801c6 s x; (case' kk => (clear_value x; intro _)); (case' vv => (unfold x; clear x)))
    | (extract_lets -underBinder +onlyGivenNames x; try clear_value x)
    | with_reducible apply Touches.ite
    | ((with_reducible apply raise_touches); (case hm => rfl))
    | ((with_reducible apply State.modGw_touches); (case hm => rfl))
    | split

theorem batchDiscard_touches {M : Nat} {r : State} (a0 : Waiting) (s : State) (hs : Touches M r s) (hm : 0x321d6 ||| M = M) :
    Touches M r (batchDiscard a0 s) := by
  refine Touches.step hs ?_ hm
  clear hs hm r M
  unfold batchDiscard
  repeat' first
    | with_reducible assumption
    | (intro _; try dsimp -zeta only)
    | with_reducible apply Touches.refl
    | ((with_reducible apply release_touches); (case hm => rfl))
    | ((with_reducible apply faultDiscard_touches); (case hm => rfl))
    | with_reducible apply Touches.foldlD
    | split

theorem batchClose_touches {M : Nat} {r : State} (a0 : Nat) (s : State) (hs : Touches M r s) (hm : 0xb21d6 ||| M = M) :
    Touches M r (batchClose a0 s) := by
  refine Touches.step hs ?_ hm
  clear hs hm r M
  unfold batchClose
  repeat' first
    | with_reducible assumption
    | with_reducible apply Touches.refl
    | (extract_lets -underBinder +onlyGivenNames x; (have hty : TypeOf x = State := by with_reducible rfl); clear hty; apply Touches.cut 0xb21d6 s x; (case' kk => (clear_value x; intro _)); (case' vv => (unfold x; clear x)))
    | (extract_lets -underBinder +onlyGivenNames x; try clear_value x)
    | with_reducible apply Touches.ite
    | ((with_reducible apply State.modGw_touches); (case hm => rfl))
    | ((with_reducible apply enqueue_touches); (case hm => rfl))
    | ((with_reducible apply State.bump_touches); (case hm => rfl))
    | split
    | ((with_reducible apply Touches.mem); (case hm => rfl))

theorem batchPut_touches {M : Nat} {r : State} (a0 : Nat) (a1 : Sys2Proof.Bytes) (a2 : Waiting) (a3 : Buf) (s : State) (hs : Touches M r s) (hm : 0xb21d6 ||| M = M) :
    Touches M r (batchPut a0 a1 a2 a3 s) := by
  refine Touches.step hs ?_ hm
  clear hs hm r M
  unfold batchPut
  repeat' first
    | with_reducible assumption
    | with_reducible apply Touches.refl
    | (extract_lets -underBinder +onlyGivenNames x; (have hty : TypeOf x = State := by with_reducible rfl); clear hty; apply Touches.cut 0xb21d6 s x; (case' kk => (clear_value x; intro _)); (case' vv => (unfold x; clear x)))
    | (extract_lets -underBinder +onlyGivenNames x; try clear_value x)
    | with_reducible apply Touches.ite
    | ((with_reducible apply State.bump_touches); (case hm => rfl))
    | ((with_reducible apply release_touches); (case hm => rfl))
    | ((with_reducible apply State.modGw_touches); (case hm => rfl))
    | ((with_reducible apply batchClose_touches); (case hm => rfl))
    | split

theorem batchOpenFree_touches {M : Nat} {r : State} (a0 : Nat) (a1 : Sys2Proof.Bytes) (a2 : Option Nat) (a3 : Buf) (s : State) (hs : Touches M r s) (hm : 0x921d6 ||| M = M) :
    Touches M r ((batchOpenFree a0 a1 a2 a3 s).2) := by
  refine Touches.step hs ?_ hm
  clear hs hm r M
  unfold batchOpenFree
  repeat' first
    | with_reducible assumption
    | with_reducible apply Touches.refl
    | (extract_lets -underBinder +onlyGivenNames x; (have hty : TypeOf x = State := by with_reducible rfl); clear hty; apply Touches.cut 0x921d6 s x; (case' kk => (clear_value x; intro _)); (case' vv => (unfold x; clear x)))
    | (extract_lets -underBinder +onlyGivenNames x; try clear_value x)
    | ((with_reducible apply allocUnreserved_touches); (case hm => rfl))
    | ((with_reducible apply poolChanged_touches); (case hm => rfl))
    | ((with_reducible apply State.modGw_touches); (case hm => rfl))
    | ((with_reducible apply putBuf_touches); (case hm => rfl))
    | ((with_reducible apply Touches.snd); (case eqn => assumption))
    | split
    | (dsimp -zeta only)

theorem batchOpen_touches {M : Nat} {r : State} (a0 : Nat) (a1 : Bytes) (a2 : Option Nat) (a3 : Buf) (s : State) (hs : Touches M r s)
    (hm : 0x921d6 ||| M = M) : TouchesO M r (batchOpen a0 a1 a2 a3 s) := by
  refine TouchesO.step hs ?_ hm
  unfold batchOpen
  dsimp only
  split
  · trivial
  · split
    · cases lowestFree s _ with
      | none => trivial
      | some b => exact poolChanged_touches _ _ (State.modGw_touches _ _ (putBuf_touches _ _ _ (Touches.refl _ _) rfl) rfl) rfl
    · trivial

theorem batchAdd_touches {M : Nat} {r : State} (a0 : Waiting) (s : State) (hs : Touches M r s) (hm : 0xb21d6 ||| M = M) :
    Touches M r (batchAdd a0 s) := by
  refine Touches.step hs ?_ hm
  clear hs hm r M
  unfold batchAdd
  repeat' first
    | with_reducible assumption
    | with_reducible apply Touches.refl
    | (extract_lets -underBinder +onlyGivenNames x; (have hty : TypeOf x = State := by with_reducible rfl); clear hty; apply Touches.cut 0xb21d6 s x; (case' kk => (clear_value x; intro _)); (case' vv => (unfold x; clear x)))
    | (extract_lets -underBinder +onlyGivenNames x; try clear_value x)
    | with_reducible apply Touches.ite
    | ((with_reducible apply encapDrop_touches); (case hm => rfl))
    | ((with_reducible apply State.bump_touches); (case hm => rfl))
    | ((with_reducible apply batchDiscard_touches); (case hm => rfl))
    | ((with_reducible apply batchClose_touches); (case hm => rfl))
    | ((with_reducible apply batchPut_touches); (case hm => rfl))
    | ((with_reducible apply batchOpenFree_touches); (case hm => rfl))
    | ((with_reducible apply batchOpen_touches); (case hm => rfl))
    | ((with_reducible apply Touches.snd); (case eqn => assumption))
    | ((with_reducible apply TouchesO.get); (case eqn => assumption))
    | with_reducible apply Touches.getD
    | split

theorem batchStep_touches {M : Nat} {r : State} (s : State) (hs : Touches M r s) (hm : 0xb21d6 ||| M = M) :
    Touches M r (batchStep s) := by
  refine Touches.step hs ?_ hm
  clear hs hm r M
  unfold batchStep
  repeat' first
    | with_reducible assumption
    | with_reducible apply Touches.refl
    | (extract_lets -underBinder +onlyGivenNames x; (have hty : TypeOf x = State := by with_reducible rfl); clear hty; apply Touches.cut 0xb21d6 s x; (case' kk => (clear_value x; intro _)); (case' vv => (unfold x; clear x)))
    | (extract_lets -underBinder +onlyGivenNames x; try clear_value x)
    | ((with_reducible apply batchAdd_touches); (case hm => rfl))
    | split
    | ((with_reducible apply Touches.mem); (case hm => rfl))

theorem batchDrain_touches {M : Nat} {r : State} (a0 : Nat) (s : State) (hs : Touches M r s) (hm : 0xb21d6 ||| M = M) :
    Touches M r (batchDrain a0 s) := by
  refine Touches.step hs ?_ hm
  clear hs hm r M
  suffices hq : ∀ r, Touches 0xb21d6 r s → Touches 0xb21d6 r (batchDrain a0 s) from hq _ (Touches.refl _ _)
  induction a0 generalizing s with
  | zero =>
    intro r hs
    unfold batchDrain
    repeat' first
      | with_reducible assumption
      | (intro _; try dsimp -zeta only)
      | (extract_lets -underBinder +onlyGivenNames x; (have hty : TypeOf x = State := by with_reducible rfl); clear hty; apply Touches.cut 0xb21d6 r x; (case' kk => (clear_value x; intro _)); (case' vv => (unfold x; clear x)))
      | (extract_lets -underBinder +onlyGivenNames x; try clear_value x)
      | with_reducible apply Touches.refl
      | with_reducible apply Touches.ite
      | with_reducible apply ih
      | ((with_reducible apply batchStep_touches); (case hm => rfl))
      | with_reducible apply Touches.foldlD
      | split
  | succ k ih =>
    intro r hs
    unfold batchDrain
    repeat' first
      | with_reducible assumption
      | (intro _; try dsimp -zeta only)
      | (extract_lets -underBinder +onlyGivenNames x; (have hty : TypeOf x = State := by with_reducible rfl); clear hty; apply Touches.cut 0xb21d6 r x; (case' kk => (clear_value x; intro _)); (case' vv => (unfold x; clear x)))
      | (extract_lets -underBinder +onlyGivenNames x; try clear_value x)
      | with_reducible apply Touches.refl
      | with_reducible apply Touches.ite
      | with_reducible apply ih
      | ((with_reducible apply batchStep_touches); (case hm => rfl))
      | with_reducible apply Touches.foldlD
      | split

theorem batchBefore_touches {M : Nat} {r : State} (a0 : Nat) (a1 : Nat) (a2 : Nat) (s : State) (hs : Touches M r s) (hm : 0xb21d6 ||| M = M) :
    Touches M r (batchBefore a0 a1 a2 s) := by
  refine Touches.step hs ?_ hm
  clear hs hm r M
  unfold batchBefore
  repeat' first
    | with_reducible assumption
    | with_reducible apply Touches.refl
    | (extract_lets -underBinder +onlyGivenNames x; (have hty : TypeOf x = State := by with_reducible rfl); clear hty; apply Touches.cut 0xb21d6 s x; (case' kk => (clear_value x; intro _)); (case' vv => (unfold x; clear x)))
    | (extract_lets -underBinder +onlyGivenNames x; try clear_value x)
    | with_reducible apply Touches.ite
    | ((with_reducible apply batchDrain_touches); (case hm => rfl))
    | ((with_reducible apply batchClose_touches); (case hm => rfl))
    | split

theorem bitTimingWrite_touches {M : Nat} {r : State} (a0 : Nat) (a1 : Nat) (a2 : Nat) (s : State) (hs : Touches M r s) (hm : 0x2 ||| M = M) :
    Touches M r (bitTimingWrite a0 a1 a2 s) := by
  refine Touches.step hs ?_ hm
  clear hs hm r M
  unfold bitTimingWrite
  repeat' first
    | with_reducible assumption
    | with_reducible apply Touches.refl
    | with_reducible apply Touches.ite
    | ((with_reducible apply State.setReg_touches); (case hm => rfl))
    | ((with_reducible apply State.setFld_touches); (case hm => rfl))

theorem loadedFlush_touches {M : Nat} {r : State} (a0 : Nat) (s : State) (hs : Touches M r s) (hm : 0xb21d6 ||| M = M) :
    Touches M r (loadedFlush a0 s) := by
  refine Touches.step hs ?_ hm
  clear hs hm r M
  unfold loadedFlush
  repeat' first
    | with_reducible assumption
    | with_reducible apply Touches.refl
    | ((with_reducible apply loadedDrop_touches); (case hm => rfl))
    | (extract_lets -underBinder +onlyGivenNames x; (have hty : TypeOf x = State := by with_reducible rfl); clear hty; apply Touches.cut 0xb21d6 s x; (case' kk => (clear_value x; intro _)); (case' vv => (unfold x; clear x)))
    | (extract_lets -underBinder +onlyGivenNames x; try clear_value x)
    | with_reducible apply Touches.ite
    | ((with_reducible apply discardAll_touches); (case hm => rfl))
    | ((with_reducible apply State.modCan_touches); (case hm => rfl))
    | ((with_reducible apply State.modGw_touches); (case hm => rfl))

theorem canBusOff_touches {M : Nat} {r : State} (a0 : Nat) (s : State) (hs : Touches M r s) (hm : 0xb21d6 ||| M = M) :
    Touches M r (canBusOff a0 s) := by
  refine Touches.step hs ?_ hm
  clear hs hm r M
  unfold canBusOff
  repeat' first
    | with_reducible assumption
    | with_reducible apply Touches.refl
    | (extract_lets -underBinder +onlyGivenNames x; (have hty : TypeOf x = State := by with_reducible rfl); clear hty; apply Touches.cut 0xb21d6 s x; (case' kk => (clear_value x; intro _)); (case' vv => (unfold x; clear x)))
    | (extract_lets -underBinder +onlyGivenNames x; try clear_value x)
    | with_reducible apply Touches.ite
    | ((with_reducible apply State.bump_touches); (case hm => rfl))
    | ((with_reducible apply State.setFld_touches); (case hm => rfl))
    | ((with_reducible apply portDestsLost_touches); (case hm => rfl))
    | ((with_reducible apply raise_touches); (case hm => rfl))
    | ((with_reducible apply flushPort_touches); (case hm => rfl))
    | ((with_reducible apply loadedFlush_touches); (case hm => rfl))
    | ((with_reducible apply State.modCan_touches); (case hm => rfl))

theorem canRec_touches {M : Nat} {r : State} (a0 : Nat) (a1 : Bool) (s : State) (hs : Touches M r s) (hm : 0x2 ||| M = M) :
    Touches M r (canRec a0 a1 s) := by
  refine Touches.step hs ?_ hm
  clear hs hm r M
  unfold canRec
  repeat' first
    | with_reducible assumption
    | with_reducible apply Touches.refl
    | (extract_lets -underBinder +onlyGivenNames x; (have hty : TypeOf x = State := by with_reducible rfl); clear hty; apply Touches.cut 0x2 s x; (case' kk => (clear_value x; intro _)); (case' vv => (unfold x; clear x)))
    | (extract_lets -underBinder +onlyGivenNames x; try clear_value x)
    | with_reducible apply Touches.ite
    | ((with_reducible apply State.setFld_touches); (case hm => rfl))

theorem canSetMode_touches {M : Nat} {r : State} (a0 : Nat) (a1 : Nat) (s : State) (hs : Touches M r s) (hm : 0xb21d6 ||| M = M) :
    Touches M r (canSetMode a0 a1 s) := by
  refine Touches.step hs ?_ hm
  clear hs hm r M
  unfold canSetMode
  repeat' first
    | with_reducible assumption
    | with_reducible apply Touches.refl
    | ((with_reducible apply portDestsLost_touches); (case hm => rfl))
    | (extract_lets -underBinder +onlyGivenNames x; (have hty : TypeOf x = State := by with_reducible rfl); clear hty; apply Touches.cut 0xb21d6 s x; (case' kk => (clear_value x; intro _)); (case' vv => (unfold x; clear x)))
    | (extract_lets -underBinder +onlyGivenNames x; try clear_value x)
    | with_reducible apply Touches.ite
    | ((with_reducible apply State.setFld_touches); (case hm => rfl))
    | ((with_reducible apply flushPort_touches); (case hm => rfl))
    | ((with_reducible apply loadedFlush_touches); (case hm => rfl))

theorem execBatchAdd_touches {M : Nat} {r : State} (s : State) (hs : Touches M r s) (hm : 0xb21d6 ||| M = M) :
    TouchesR M r (execBatchAdd s) := by
  refine TouchesR.step hs ?_ hm
  clear hs hm r M
  unfold execBatchAdd
  repeat' first
    | with_reducible assumption
    | with_reducible apply Touches.refl
    | with_reducible apply TouchesR.next
    | with_reducible apply TouchesR.fault
    | ((with_reducible apply batchStep_touches); (case hm => rfl))

theorem execBatchTick_touches {M : Nat} {r : State} (s : State) (hs : Touches M r s) (hm : 0xb21d6 ||| M = M) :
    TouchesR M r (execBatchTick s) := by
  refine TouchesR.step hs ?_ hm
  clear hs hm r M
  unfold execBatchTick
  repeat' first
    | with_reducible assumption
    | (intro _; try dsimp -zeta only)
    | (extract_lets -underBinder +onlyGivenNames x; (have hty : TypeOf x = State := by with_reducible rfl); clear hty; apply Touches.cut 0xb21d6 s x; (case' kk => (clear_value x; intro _)); (case' vv => (unfold x; clear x)))
    | (extract_lets -underBinder +onlyGivenNames x; try clear_value x)
    | with_reducible apply Touches.refl
    | with_reducible apply TouchesR.next
    | with_reducible apply TouchesR.fault
    | with_reducible apply TouchesR.ite
    | with_reducible apply Touches.ite
    | ((with_reducible apply batchDrain_touches); (case hm => rfl))
    | ((with_reducible apply batchClose_touches); (case hm => rfl))
    | with_reducible apply Touches.foldlD
    | split

theorem execBusOffDelayExpiry_touches {M : Nat} {r : State} (a0 : Sys2Proof.Port) (s : State) (hs : Touches M r s) (hm : 0x80002 ||| M = M) :
    TouchesR M r (execBusOffDelayExpiry a0 s) := by
  refine TouchesR.step hs ?_ hm
  clear hs hm r M
  unfold execBusOffDelayExpiry
  repeat' first
    | with_reducible assumption
    | with_reducible apply Touches.refl
    | (extract_lets -underBinder +onlyGivenNames x; (have hty : TypeOf x = State := by with_reducible rfl); clear hty; apply Touches.cut 0x80002 s x; (case' kk => (clear_value x; intro _)); (case' vv => (unfold x; clear x)))
    | (extract_lets -underBinder +onlyGivenNames x; try clear_value x)
    | with_reducible apply TouchesR.next
    | with_reducible apply TouchesR.fault
    | with_reducible apply TouchesR.ite
    | with_reducible apply Touches.ite
    | ((with_reducible apply State.setFld_touches); (case hm => rfl))
    | ((with_reducible apply State.modCan_touches); (case hm => rfl))
    | split

theorem execBusOffRecovered_touches {M : Nat} {r : State} (a0 : Sys2Proof.Port) (s : State) (hs : Touches M r s) (hm : 0x1c6 ||| M = M) :
    TouchesR M r (execBusOffRecovered a0 s) := by
  refine TouchesR.step hs ?_ hm
  clear hs hm r M
  unfold execBusOffRecovered
  repeat' first
    | with_reducible assumption
    | with_reducible apply Touches.refl
    | (extract_lets -underBinder +onlyGivenNames x; (have hty : TypeOf x = State := by with_reducible rfl); clear hty; apply Touches.cut 0x1c6 s x; (case' kk => (clear_value x; intro _)); (case' vv => (unfold x; clear x)))
    | (extract_lets -underBinder +onlyGivenNames x; try clear_value x)
    | with_reducible apply TouchesR.next
    | with_reducible apply TouchesR.fault
    | with_reducible apply TouchesR.ite
    | with_reducible apply Touches.ite
    | ((with_reducible apply State.setFld_touches); (case hm => rfl))
    | ((with_reducible apply raise_touches); (case hm => rfl))

theorem execCanBitTimingWrite_touches {M : Nat} {r : State} (a0 : Sys2Proof.Src) (a1 : Fin 24) (a2 : Fin 3) (a3 : Nat) (s : State) (hs : Touches M r s) (hm : 0x22 ||| M = M) :
    TouchesR M r (execCanBitTimingWrite a0 a1 a2 a3 s) := by
  refine TouchesR.step hs ?_ hm
  clear hs hm r M
  unfold execCanBitTimingWrite
  repeat' first
    | with_reducible assumption
    | (intro _; try dsimp -zeta only)
    | with_reducible apply Touches.refl
    | with_reducible apply TouchesR.next
    | with_reducible apply TouchesR.fault
    | ((with_reducible apply busRow_touches); (case hm => rfl))
    | ((with_reducible apply bitTimingWrite_touches); (case hm => rfl))

theorem execCanTxAttemptEnd_touches {M : Nat} {r : State} (a0 : Sys2Proof.Port) (a1 : Sys2Proof.CanResult) (a2 : Sys2Proof.Span) (s : State) (hs : Touches M r s) (hm : 0xb21d6 ||| M = M) :
    TouchesR M r (execCanTxAttemptEnd a0 a1 a2 s) := by
  refine TouchesR.step hs ?_ hm
  clear hs hm r M
  unfold execCanTxAttemptEnd
  repeat' first
    | with_reducible assumption
    | with_reducible apply Touches.refl
    | (extract_lets -underBinder +onlyGivenNames x; (have hty : TypeOf x = State := by with_reducible rfl); clear hty; apply Touches.cut 0xb21d6 s x; (case' kk => (clear_value x; intro _)); (case' vv => (unfold x; clear x)))
    | (extract_lets -underBinder +onlyGivenNames x; try clear_value x)
    | with_reducible apply TouchesR.next
    | with_reducible apply TouchesR.fault
    | with_reducible apply TouchesR.ite
    | with_reducible apply Touches.ite
    | ((with_reducible apply State.bump_touches); (case hm => rfl))
    | ((with_reducible apply State.setFld_touches); (case hm => rfl))
    | ((with_reducible apply State.modCan_touches); (case hm => rfl))
    | ((with_reducible apply legacyDepart_touches); (case hm => rfl))
    | ((with_reducible apply canBusOff_touches); (case hm => rfl))
    | split

theorem frConfigWrite_touches {M : Nat} {r : State} (a0 : Nat) (a1 : Nat) (s : State) (hs : Touches M r s) (hm : 0x2 ||| M = M) :
    Touches M r (frConfigWrite a0 a1 s) := by
  refine Touches.step hs ?_ hm
  clear hs hm r M
  unfold frConfigWrite
  repeat' first
    | with_reducible assumption
    | with_reducible apply Touches.refl
    | with_reducible apply Touches.ite
    | ((with_reducible apply State.setFld_touches); (case hm => rfl))
    | ((with_reducible apply State.setReg_touches); (case hm => rfl))
    | split

theorem execFlexrayConfigWrite_touches {M : Nat} {r : State} (a0 : Sys2Proof.Src) (a1 : Fin 4) (a2 : Nat) (s : State) (hs : Touches M r s) (hm : 0x22 ||| M = M) :
    TouchesR M r (execFlexrayConfigWrite a0 a1 a2 s) := by
  refine TouchesR.step hs ?_ hm
  clear hs hm r M
  unfold execFlexrayConfigWrite
  repeat' first
    | with_reducible assumption
    | (intro _; try dsimp -zeta only)
    | with_reducible apply Touches.refl
    | with_reducible apply TouchesR.next
    | with_reducible apply TouchesR.fault
    | ((with_reducible apply busRow_touches); (case hm => rfl))
    | ((with_reducible apply frConfigWrite_touches); (case hm => rfl))

theorem frPoc_touches {M : Nat} {r : State} (a0 : Nat) (s : State) (hs : Touches M r s) (hm : 0xb21d6 ||| M = M) :
    Touches M r (frPoc a0 s) := by
  refine Touches.step hs ?_ hm
  clear hs hm r M
  unfold frPoc
  repeat' first
    | with_reducible assumption
    | with_reducible apply Touches.refl
    | ((with_reducible apply frTake_touches); (case hm => rfl))
    | (extract_lets -underBinder +onlyGivenNames x; (have hty : TypeOf x = State := by with_reducible rfl); clear hty; apply Touches.cut 0xb21d6 s x; (case' kk => (clear_value x; intro _)); (case' vv => (unfold x; clear x)))
    | (extract_lets -underBinder +onlyGivenNames x; try clear_value x)
    | with_reducible apply Touches.ite
    | ((with_reducible apply raise_touches); (case hm => rfl))
    | ((with_reducible apply State.setFld_touches); (case hm => rfl))

theorem execFlexrayPocStateChange_touches {M : Nat} {r : State} (a0 : Fin 16) (s : State) (hs : Touches M r s) (hm : 0xb21d6 ||| M = M) :
    TouchesR M r (execFlexrayPocStateChange a0 s) := by
  refine TouchesR.step hs ?_ hm
  clear hs hm r M
  unfold execFlexrayPocStateChange
  repeat' first
    | with_reducible assumption
    | with_reducible apply Touches.refl
    | with_reducible apply TouchesR.next
    | with_reducible apply TouchesR.fault
    | ((with_reducible apply frPoc_touches); (case hm => rfl))

theorem frSlot_touches {M : Nat} {r : State} (a0 : Nat) (a1 : Nat) (a2 : Nat) (a3 : Sys2Proof.Span) (s : State) (hs : Touches M r s) (hm : 0xb21d6 ||| M = M) :
    Touches M r (frSlot a0 a1 a2 a3 s) := by
  refine Touches.step hs ?_ hm
  clear hs hm r M
  unfold frSlot
  repeat' first
    | with_reducible assumption
    | with_reducible apply Touches.refl
    | (extract_lets -underBinder +onlyGivenNames x; (have hty : TypeOf x = State := by with_reducible rfl); clear hty; apply Touches.cut 0xb21d6 s x; (case' kk => (clear_value x; intro _)); (case' vv => (unfold x; clear x)))
    | (extract_lets -underBinder +onlyGivenNames x; try clear_value x)
    | with_reducible apply Touches.ite
    | ((with_reducible apply State.emit_touches); (case hm => rfl))
    | ((with_reducible apply legacyDepart_touches); (case hm => rfl))
    | ((with_reducible apply State.modGw_touches); (case hm => rfl))
    | split

theorem execFlexraySlot_touches {M : Nat} {r : State} (a0 : Nat) (a1 : Fin 64) (a2 : Sys2Proof.Span) (s : State) (hs : Touches M r s) (hm : 0xb21d6 ||| M = M) :
    TouchesR M r (execFlexraySlot a0 a1 a2 s) := by
  refine TouchesR.step hs ?_ hm
  clear hs hm r M
  unfold execFlexraySlot
  repeat' first
    | with_reducible assumption
    | with_reducible apply Touches.refl
    | ((with_reducible apply frTake_touches); (case hm => rfl))
    | (extract_lets -underBinder +onlyGivenNames x; (have hty : TypeOf x = State := by with_reducible rfl); clear hty; apply Touches.cut 0xb21d6 s x; (case' kk => (clear_value x; intro _)); (case' vv => (unfold x; clear x)))
    | (extract_lets -underBinder +onlyGivenNames x; try clear_value x)
    | with_reducible apply TouchesR.next
    | with_reducible apply TouchesR.fault
    | with_reducible apply TouchesR.ite
    | with_reducible apply Touches.ite
    | ((with_reducible apply State.setFld_touches); (case hm => rfl))
    | ((with_reducible apply frSlot_touches); (case hm => rfl))

theorem gwBus_touches {M : Nat} {r : State} (a0 : Sys2Proof.CmdCtx) (s : State) (hs : Touches M r s) (hm : 0xb21d6 ||| M = M) :
    Touches M r (gwBus a0 s) := by
  refine Touches.step hs ?_ hm
  clear hs hm r M
  unfold gwBus
  dsimp only
  repeat' first
    | with_reducible assumption
    | with_reducible apply Touches.refl
    | (extract_lets -underBinder +onlyGivenNames x; (have hty : TypeOf x = State := by with_reducible rfl); clear hty; apply Touches.cut 0xb21d6 s x; (case' kk => (clear_value x; intro _)); (case' vv => (unfold x; clear x)))
    | (extract_lets -underBinder +onlyGivenNames x; try clear_value x)
    | with_reducible apply Touches.ite
    | ((with_reducible apply complete_touches); (case hm => rfl))
    | ((with_reducible apply State.modLin_touches); (case hm => rfl))
    | ((with_reducible apply State.setFld_touches); (case hm => rfl))
    | ((with_reducible apply State.modCan_touches); (case hm => rfl))
    | ((with_reducible apply canSetMode_touches); (case hm => rfl))
    | ((with_reducible apply frPoc_touches); (case hm => rfl))
    | split

theorem execGwBusPocCommand_touches {M : Nat} {r : State} (a0 : Sys2Proof.CmdCtx) (s : State) (hs : Touches M r s) (hm : 0x80b21d6 ||| M = M) :
    TouchesR M r (execGwBusPocCommand a0 s) := by
  refine TouchesR.step hs ?_ hm
  clear hs hm r M
  unfold execGwBusPocCommand
  repeat' first
    | with_reducible assumption
    | (intro _; try dsimp -zeta only)
    | with_reducible apply Touches.refl
    | with_reducible apply TouchesR.next
    | with_reducible apply TouchesR.fault
    | ((with_reducible apply command_touches); (case hm => rfl))
    | ((with_reducible apply gwBus_touches); (case hm => rfl))

theorem execGwBusRecover_touches {M : Nat} {r : State} (a0 : Sys2Proof.CmdCtx) (s : State) (hs : Touches M r s) (hm : 0x80b21d6 ||| M = M) :
    TouchesR M r (execGwBusRecover a0 s) := by
  refine TouchesR.step hs ?_ hm
  clear hs hm r M
  unfold execGwBusRecover
  repeat' first
    | with_reducible assumption
    | (intro _; try dsimp -zeta only)
    | with_reducible apply Touches.refl
    | with_reducible apply TouchesR.next
    | with_reducible apply TouchesR.fault
    | ((with_reducible apply command_touches); (case hm => rfl))
    | ((with_reducible apply gwBus_touches); (case hm => rfl))

theorem execGwBusSelectTable_touches {M : Nat} {r : State} (a0 : Sys2Proof.CmdCtx) (s : State) (hs : Touches M r s) (hm : 0x80b21d6 ||| M = M) :
    TouchesR M r (execGwBusSelectTable a0 s) := by
  refine TouchesR.step hs ?_ hm
  clear hs hm r M
  unfold execGwBusSelectTable
  repeat' first
    | with_reducible assumption
    | (intro _; try dsimp -zeta only)
    | with_reducible apply Touches.refl
    | with_reducible apply TouchesR.next
    | with_reducible apply TouchesR.fault
    | ((with_reducible apply command_touches); (case hm => rfl))
    | ((with_reducible apply gwBus_touches); (case hm => rfl))

theorem execGwBusSetMode_touches {M : Nat} {r : State} (a0 : Sys2Proof.CmdCtx) (s : State) (hs : Touches M r s) (hm : 0x80b21d6 ||| M = M) :
    TouchesR M r (execGwBusSetMode a0 s) := by
  refine TouchesR.step hs ?_ hm
  clear hs hm r M
  unfold execGwBusSetMode
  repeat' first
    | with_reducible assumption
    | (intro _; try dsimp -zeta only)
    | with_reducible apply Touches.refl
    | with_reducible apply TouchesR.next
    | with_reducible apply TouchesR.fault
    | ((with_reducible apply command_touches); (case hm => rfl))
    | ((with_reducible apply gwBus_touches); (case hm => rfl))

theorem gwSwap_touches {M : Nat} {r : State} (a0 : Bool) (s : State) (hs : Touches M r s) (hm : 0xb21d6 ||| M = M) :
    Touches M r (gwSwap a0 s) := by
  refine Touches.step hs ?_ hm
  clear hs hm r M
  unfold gwSwap
  repeat' first
    | with_reducible assumption
    | (intro _; try dsimp -zeta only)
    | (extract_lets -underBinder +onlyGivenNames x; (have hty : TypeOf x = State := by with_reducible rfl); clear hty; apply Touches.cut 0xb21d6 s x; (case' kk => (clear_value x; intro _)); (case' vv => (unfold x; clear x)))
    | (extract_lets -underBinder +onlyGivenNames x; try clear_value x)
    | with_reducible apply Touches.refl
    | with_reducible apply Touches.ite
    | ((with_reducible apply batchDrain_touches); (case hm => rfl))
    | ((with_reducible apply batchClose_touches); (case hm => rfl))
    | ((with_reducible apply State.modGw_touches); (case hm => rfl))
    | ((with_reducible apply State.setFld_touches); (case hm => rfl))
    | ((with_reducible apply State.setCtr_touches); (case hm => rfl))
    | exact Nat.zero_le _
    | with_reducible apply Touches.foldlD

theorem gwFlip_touches {M : Nat} {r : State} (a0 : Sys2Proof.CmdCtx) (s : State) (hs : Touches M r s) (hm : 0x400b21d6 ||| M = M) :
    Touches M r (gwFlip a0 s) := by
  refine Touches.step hs ?_ hm
  clear hs hm r M
  unfold gwFlip
  repeat' first
    | with_reducible assumption
    | with_reducible apply Touches.refl
    | ((with_reducible apply stopBegins_touches); (case hm => rfl))
    | (extract_lets -underBinder +onlyGivenNames x; (have hty : TypeOf x = State := by with_reducible rfl); clear hty; apply Touches.cut 0x400b21d6 s x; (case' kk => (clear_value x; intro _)); (case' vv => (unfold x; clear x)))
    | (extract_lets -underBinder +onlyGivenNames x; try clear_value x)
    | with_reducible apply Touches.ite
    | ((with_reducible apply gwCopyEnd_touches); (case hm => rfl))
    | ((with_reducible apply complete_touches); (case hm => rfl))
    | ((with_reducible apply sillAll_touches); (case hm => rfl))
    | ((with_reducible apply gwSwap_touches); (case hm => rfl))
    | split

theorem execGwFlip_touches {M : Nat} {r : State} (a0 : Sys2Proof.CmdCtx) (s : State) (hs : Touches M r s) (hm : 0x480b21d6 ||| M = M) :
    TouchesR M r (execGwFlip a0 s) := by
  refine TouchesR.step hs ?_ hm
  clear hs hm r M
  unfold execGwFlip
  repeat' first
    | with_reducible assumption
    | (intro _; try dsimp -zeta only)
    | with_reducible apply Touches.refl
    | with_reducible apply TouchesR.next
    | with_reducible apply TouchesR.fault
    | with_reducible apply TouchesR.ite
    | with_reducible apply Touches.ite
    | ((with_reducible apply command_touches); (case hm => rfl))
    | ((with_reducible apply gwFlip_touches); (case hm => rfl))

theorem execGwShadowCopyDone_touches {M : Nat} {r : State} (s : State) (hs : Touches M r s) (hm : 0x80000 ||| M = M) :
    TouchesR M r (execGwShadowCopyDone s) := by
  refine TouchesR.step hs ?_ hm
  clear hs hm r M
  unfold execGwShadowCopyDone
  repeat' first
    | with_reducible assumption
    | with_reducible apply Touches.refl
    | with_reducible apply TouchesR.next
    | with_reducible apply TouchesR.fault
    | ((with_reducible apply gwCopyEnd_touches); (case hm => rfl))

theorem linDepart_touches {M : Nat} {r : State} (a0 : Nat) (a1 : Nat) (a2 : Sys2Proof.Span) (s : State) (hs : Touches M r s) (hm : 0xb21d6 ||| M = M) :
    Touches M r (linDepart a0 a1 a2 s) := by
  refine Touches.step hs ?_ hm
  clear hs hm r M
  unfold linDepart
  repeat' first
    | with_reducible assumption
    | with_reducible apply Touches.refl
    | (extract_lets -underBinder +onlyGivenNames x; (have hty : TypeOf x = State := by with_reducible rfl); clear hty; apply Touches.cut 0xb21d6 s x; (case' kk => (clear_value x; intro _)); (case' vv => (unfold x; clear x)))
    | (extract_lets -underBinder +onlyGivenNames x; try clear_value x)
    | ((with_reducible apply legacyDepart_touches); (case hm => rfl))
    | ((with_reducible apply State.modLin_touches); (case hm => rfl))
    | ((with_reducible apply State.emit_touches); (case hm => rfl))
    | split

theorem linResponder_touches {M : Nat} {r : State} (a0 : Nat) (a1 : Sys2Proof.LinResult) (a2 : Sys2Proof.Span) (s : State) (hs : Touches M r s) (hm : 0xb21d6 ||| M = M) :
    Touches M r (linResponder a0 a1 a2 s) := by
  refine Touches.step hs ?_ hm
  clear hs hm r M
  unfold linResponder
  repeat' first
    | with_reducible assumption
    | with_reducible apply Touches.refl
    | (extract_lets -underBinder +onlyGivenNames x; (have hty : TypeOf x = State := by with_reducible rfl); clear hty; apply Touches.cut 0xb21d6 s x; (case' kk => (clear_value x; intro _)); (case' vv => (unfold x; clear x)))
    | (extract_lets -underBinder +onlyGivenNames x; try clear_value x)
    | ((with_reducible apply State.modLin_touches); (case hm => rfl))
    | ((with_reducible apply raise_touches); (case hm => rfl))
    | ((with_reducible apply linDepart_touches); (case hm => rfl))
    | ((with_reducible apply State.emit_touches); (case hm => rfl))
    | split

theorem execLinHeaderReceived_touches {M : Nat} {r : State} (a0 : Sys2Proof.Port) (a1 : Fin 64) (a2 : Nat) (s : State) (hs : Touches M r s) (hm : 0x80002 ||| M = M) :
    TouchesR M r (execLinHeaderReceived a0 a1 a2 s) := by
  refine TouchesR.step hs ?_ hm
  clear hs hm r M
  unfold execLinHeaderReceived
  repeat' first
    | with_reducible assumption
    | with_reducible apply Touches.refl
    | ((with_reducible apply State.modLin_touches); (case hm => rfl))
    | (extract_lets -underBinder +onlyGivenNames x; (have hty : TypeOf x = State := by with_reducible rfl); clear hty; apply Touches.cut 0x80002 s x; (case' kk => (clear_value x; intro _)); (case' vv => (unfold x; clear x)))
    | (extract_lets -underBinder +onlyGivenNames x; try clear_value x)
    | with_reducible apply TouchesR.next
    | with_reducible apply TouchesR.fault
    | with_reducible apply TouchesR.ite
    | with_reducible apply Touches.ite
    | ((with_reducible apply State.setFld_touches); (case hm => rfl))
    | ((with_reducible apply linDepart_touches); (case hm => rfl))

theorem linAdvance_touches {M : Nat} {r : State} (a0 : Nat) (s : State) (hs : Touches M r s) (hm : 0x80000 ||| M = M) :
    Touches M r (linAdvance a0 s) := by
  refine Touches.step hs ?_ hm
  clear hs hm r M
  unfold linAdvance
  repeat' first
    | with_reducible assumption
    | with_reducible apply Touches.refl
    | (extract_lets -underBinder +onlyGivenNames x; (have hty : TypeOf x = State := by with_reducible rfl); clear hty; apply Touches.cut 0x80000 s x; (case' kk => (clear_value x; intro _)); (case' vv => (unfold x; clear x)))
    | (extract_lets -underBinder +onlyGivenNames x; try clear_value x)
    | with_reducible apply Touches.ite
    | ((with_reducible apply State.modLin_touches); (case hm => rfl))
    | split

theorem linCollision_touches {M : Nat} {r : State} (a0 a1 : Nat) (s : State) (hs : Touches M r s) (hm : 0x80000 ||| M = M) :
    Touches M r (linCollision a0 a1 s) := by
  refine Touches.step hs ?_ hm
  clear hs hm r M
  unfold linCollision
  repeat' first
    | with_reducible assumption
    | with_reducible apply Touches.refl
    | (extract_lets -underBinder +onlyGivenNames x; try clear_value x)
    | with_reducible apply Touches.ite
    | ((with_reducible apply linAdvance_touches); (case hm => rfl))
    | ((with_reducible apply State.modLin_touches); (case hm => rfl))

theorem linCommander_touches {M : Nat} {r : State} (a0 : Nat) (a1 : Sys2Proof.LinResult) (a2 : Sys2Proof.Span) (s : State) (hs : Touches M r s) (hm : 0xb21d6 ||| M = M) :
    Touches M r (linCommander a0 a1 a2 s) := by
  refine Touches.step hs ?_ hm
  clear hs hm r M
  unfold linCommander
  repeat' first
    | with_reducible assumption
    | with_reducible apply Touches.refl
    | ((with_reducible apply State.modLin_touches); (case hm => rfl))
    | (extract_lets -underBinder +onlyGivenNames x; (have hty : TypeOf x = State := by with_reducible rfl); clear hty; apply Touches.cut 0xb21d6 s x; (case' kk => (clear_value x; intro _)); (case' vv => (unfold x; clear x)))
    | (extract_lets -underBinder +onlyGivenNames x; try clear_value x)
    | with_reducible apply Touches.ite
    | ((with_reducible apply linAdvance_touches); (case hm => rfl))
    | ((with_reducible apply raise_touches); (case hm => rfl))
    | ((with_reducible apply linDepart_touches); (case hm => rfl))
    | ((with_reducible apply linCollision_touches); (case hm => rfl))
    | split

set_option maxRecDepth 8000 in
theorem execLinSlotEnd_touches {M : Nat} {r : State} (a0 : Sys2Proof.Port) (a1 : Sys2Proof.LinResult) (a2 : Sys2Proof.Span) (s : State) (hs : Touches M r s) (hm : 0xb21d6 ||| M = M) :
    TouchesR M r (execLinSlotEnd a0 a1 a2 s) := by
  refine TouchesR.step hs ?_ hm
  clear hs hm r M
  unfold execLinSlotEnd
  repeat' first
    | with_reducible assumption
    | with_reducible apply Touches.refl
    | with_reducible apply TouchesR.next
    | with_reducible apply TouchesR.fault
    | with_reducible apply TouchesR.ite
    | with_reducible apply Touches.ite
    | ((with_reducible apply linCommander_touches); (case hm => rfl))
    | ((with_reducible apply linResponder_touches); (case hm => rfl))
    | split

theorem legacyLoad_touches {M : Nat} {r : State} (a0 : Nat) (a1 : Nat) (a2 : Cell) (a3 : Pkt) (s : State) (hs : Touches M r s) (hm : 0xb21d6 ||| M = M) :
    Touches M r (legacyLoad a0 a1 a2 a3 s) := by
  refine Touches.step hs ?_ hm
  clear hs hm r M
  unfold legacyLoad
  repeat' first
    | with_reducible assumption
    | with_reducible apply Touches.refl
    | (extract_lets -underBinder +onlyGivenNames x; (have hty : TypeOf x = State := by with_reducible rfl); clear hty; apply Touches.cut 0xb21d6 s x; (case' kk => (clear_value x; intro _)); (case' vv => (unfold x; clear x)))
    | (extract_lets -underBinder +onlyGivenNames x; try clear_value x)
    | with_reducible apply Touches.ite
    | ((with_reducible apply discardCopy_touches); (case hm => rfl))
    | ((with_reducible apply State.modCan_touches); (case hm => rfl))
    | ((with_reducible apply State.modLin_touches); (case hm => rfl))
    | ((with_reducible apply State.modGw_touches); (case hm => rfl))
    | split

set_option maxRecDepth 8000 in
theorem legacyPdu_touches {M : Nat} {r : State} (a0 : Nat) (a1 : Bool) (a2 : Sys2Proof.LegPdu) (a3 : Sys2Proof.Span) (s : State) (hs : Touches M r s) (hm : 0x290006 ||| M = M) :
    Touches M r (legacyPdu a0 a1 a2 a3 s) := by
  refine Touches.step hs ?_ hm
  clear hs hm r M
  unfold legacyPdu
  repeat' first
    | with_reducible assumption
    | with_reducible apply Touches.refl
    | (extract_lets -underBinder +onlyGivenNames x; (have hty : TypeOf x = State := by with_reducible rfl); clear hty; apply Touches.cut 0x290006 s x; (case' kk => (clear_value x; intro _)); (case' vv => (unfold x; clear x)))
    | (extract_lets -underBinder +onlyGivenNames x; try clear_value x)
    | with_reducible apply Touches.ite
    | ((with_reducible apply canRec_touches); (case hm => rfl))
    | ((with_reducible apply State.bump_touches); (case hm => rfl))
    | ((with_reducible apply sigWrite_touches); (case hm => rfl))
    | ((with_reducible apply accept_touches); (case hm => rfl))
    | ((with_reducible apply rxOk_touches); (case hm => rfl))
    | split

theorem unpackPdu_touches {M : Nat} {r : State} (a0 : Sys2Proof.Bytes) (a1 : Pkt) (a2 : Sys2Proof.LegPdu) (a3 : Nat) (a4 : Option (Nat × Nat × Nat)) (s : State) (hs : Touches M r s) (hm : 0x290004 ||| M = M) :
    Touches M r (unpackPdu a0 a1 a2 a3 a4 s) := by
  refine Touches.step hs ?_ hm
  clear hs hm r M
  unfold unpackPdu
  dsimp only
  repeat' first
    | with_reducible assumption
    | with_reducible apply Touches.refl
    | (extract_lets -underBinder +onlyGivenNames x; (have hty : TypeOf x = State := by with_reducible rfl); clear hty; apply Touches.cut 0x290004 s x; (case' kk => (clear_value x; intro _)); (case' vv => (unfold x; clear x)))
    | (extract_lets -underBinder +onlyGivenNames x; try clear_value x)
    | with_reducible apply Touches.ite
    | ((with_reducible apply stage_touches); (case hm => rfl))
    | ((with_reducible apply State.bump_touches); (case hm => rfl))
    | split

theorem unpackRun_touches {M : Nat} {r : State} (a0 : Sys2Proof.Bytes) (a1 : Pkt) (a2 : Nat) (a3 : Nat) (a4 : Nat) (a5 : Nat) (a6 : Option (Nat × Nat × Nat)) (s : State) (hs : Touches M r s) (hm : 0x2901c6 ||| M = M) :
    Touches M r (unpackRun a0 a1 a2 a3 a4 a5 a6 s) := by
  refine Touches.step hs ?_ hm
  clear hs hm r M
  suffices hq : ∀ r, Touches 0x2901c6 r s → Touches 0x2901c6 r (unpackRun a0 a1 a2 a3 a4 a5 a6 s) from hq _ (Touches.refl _ _)
  induction a3 generalizing a0 a1 a2 a4 a5 a6 s with
  | zero =>
    intro r hs
    unfold unpackRun
    repeat' first
      | with_reducible assumption
      | (intro _; try dsimp -zeta only)
      | (extract_lets -underBinder +onlyGivenNames x; (have hty : TypeOf x = State := by with_reducible rfl); clear hty; apply Touches.cut 0x2901c6 r x; (case' kk => (clear_value x; intro _)); (case' vv => (unfold x; clear x)))
      | (extract_lets -underBinder +onlyGivenNames x; try clear_value x)
      | with_reducible apply Touches.refl
      | with_reducible apply Touches.ite
      | with_reducible apply ih
      | ((with_reducible apply encapDrop_touches); (case hm => rfl))
      | ((with_reducible apply State.bump_touches); (case hm => rfl))
      | ((with_reducible apply unpackPdu_touches); (case hm => rfl))
      | ((with_reducible apply sigWrite_touches); (case hm => rfl))
      | with_reducible apply Touches.foldlD
      | split
  | succ k ih =>
    intro r hs
    unfold unpackRun
    repeat' first
      | with_reducible assumption
      | (intro _; try dsimp -zeta only)
      | (extract_lets -underBinder +onlyGivenNames x; (have hty : TypeOf x = State := by with_reducible rfl); clear hty; apply Touches.cut 0x2901c6 r x; (case' kk => (clear_value x; intro _)); (case' vv => (unfold x; clear x)))
      | (extract_lets -underBinder +onlyGivenNames x; try clear_value x)
      | with_reducible apply Touches.refl
      | with_reducible apply Touches.ite
      | with_reducible apply ih
      | ((with_reducible apply encapDrop_touches); (case hm => rfl))
      | ((with_reducible apply State.bump_touches); (case hm => rfl))
      | ((with_reducible apply unpackPdu_touches); (case hm => rfl))
      | ((with_reducible apply sigWrite_touches); (case hm => rfl))
      | with_reducible apply Touches.foldlD
      | split

theorem unpack_touches {M : Nat} {r : State} (a0 : Sys2Proof.Bytes) (a1 : Nat) (a2 : Pkt) (s : State) (hs : Touches M r s) (hm : 0x2901c6 ||| M = M) :
    Touches M r (unpack a0 a1 a2 s) := by
  refine Touches.step hs ?_ hm
  clear hs hm r M
  unfold unpack
  repeat' first
    | with_reducible assumption
    | with_reducible apply Touches.refl
    | (extract_lets -underBinder +onlyGivenNames x; (have hty : TypeOf x = State := by with_reducible rfl); clear hty; apply Touches.cut 0x2901c6 s x; (case' kk => (clear_value x; intro _)); (case' vv => (unfold x; clear x)))
    | (extract_lets -underBinder +onlyGivenNames x; try clear_value x)
    | with_reducible apply Touches.ite
    | ((with_reducible apply encapDrop_touches); (case hm => rfl))
    | ((with_reducible apply State.bump_touches); (case hm => rfl))
    | ((with_reducible apply unpackRun_touches); (case hm => rfl))

end Sys2Proof.Machine
end

