-- ==== Sys2Proof/Laws/Keys.lean ====
section
/-! SUPPORT. What each function of Machine/Keys.lean touches: one lemma per function that answers a state. -/

set_option linter.tactic.unusedName false

namespace Sys2Proof.Machine

theorem State.setSlot_touches {M : Nat} {r : State} (s : State) (a1 : Nat) (a2 : Slot) (hs : Touches M r s) (hm : 0x400000 ||| M = M) :
    Touches M r (State.setSlot s a1 a2) := by
  refine Touches.step hs ?_ hm
  clear hs hm r M
  unfold State.setSlot
  repeat' first
    | with_reducible assumption
    | with_reducible apply Touches.refl
    | (extract_lets -underBinder +onlyGivenNames x; (have hty : TypeOf x = State := by with_reducible rfl); clear hty; apply Touches.cut 0x400000 s x; (case' kk => (clear_value x; intro _)); (case' vv => (unfold x; clear x)))
    | (extract_lets -underBinder +onlyGivenNames x; try clear_value x)
    | ((with_reducible apply Touches.keys); (case hm => rfl))

theorem dropPending_touches {M : Nat} {r : State} (a0 : Keyed Sys2Proof.CmdCtx) (s : State) (a2 : Nat × Slot) (hs : Touches M r s) (hm : 0x1c6 ||| M = M) :
    Touches M r (dropPending a0 s a2) := by
  refine Touches.step hs ?_ hm
  clear hs hm r M
  unfold dropPending
  repeat' first
    | with_reducible assumption
    | with_reducible apply Touches.refl
    | (extract_lets -underBinder +onlyGivenNames x; (have hty : TypeOf x = State := by with_reducible rfl); clear hty; apply Touches.cut 0x1c6 s x; (case' kk => (clear_value x; intro _)); (case' vv => (unfold x; clear x)))
    | (extract_lets -underBinder +onlyGivenNames x; try clear_value x)
    | with_reducible apply Touches.ite
    | ((with_reducible apply raise_touches); (case hm => rfl))
    | split

theorem execKeyCommitRecordWritten_touches {M : Nat} {r : State} (a0 : Nat) (a1 : Bool) (s : State) (hs : Touches M r s) (hm : 0x4001d6 ||| M = M) :
    TouchesR M r (execKeyCommitRecordWritten a0 a1 s) := by
  refine TouchesR.step hs ?_ hm
  clear hs hm r M
  unfold execKeyCommitRecordWritten
  repeat' first
    | with_reducible assumption
    | with_reducible apply Touches.refl
    | (extract_lets -underBinder +onlyGivenNames x; (have hty : TypeOf x = State := by with_reducible rfl); clear hty; apply Touches.cut 0x4001d6 s x; (case' kk => (clear_value x; intro _)); (case' vv => (unfold x; clear x)))
    | (extract_lets -underBinder +onlyGivenNames x; try clear_value x)
    | with_reducible apply TouchesR.next
    | with_reducible apply TouchesR.fault
    | with_reducible apply TouchesR.ite
    | with_reducible apply Touches.ite
    | ((with_reducible apply raise_touches); (case hm => rfl))
    | ((with_reducible apply handleIf_touches); (case hm => rfl))
    | ((with_reducible apply State.setSlot_touches); (case hm => rfl))
    | ((with_reducible apply complete_touches); (case hm => rfl))
    | split
    | ((with_reducible apply Touches.keys); (case hm => rfl))

theorem putKey_touches {M : Nat} {r : State} (a0 : Nat) (a1 : NewKey) (s : State) (hs : Touches M r s) (hm : 0x400000 ||| M = M) :
    Touches M r (putKey a0 a1 s) := by
  refine Touches.step hs ?_ hm
  clear hs hm r M
  unfold putKey
  repeat' first
    | with_reducible assumption
    | with_reducible apply Touches.refl
    | (extract_lets -underBinder +onlyGivenNames x; (have hty : TypeOf x = State := by with_reducible rfl); clear hty; apply Touches.cut 0x400000 s x; (case' kk => (clear_value x; intro _)); (case' vv => (unfold x; clear x)))
    | (extract_lets -underBinder +onlyGivenNames x; try clear_value x)
    | ((with_reducible apply State.setSlot_touches); (case hm => rfl))
    | split

theorem finishLoad_touches {M : Nat} {r : State} (a0 : Sys2Proof.CmdCtx) (a1 : Nat) (a2 : Nat) (a3 : Bool) (a4 : NewKey) (s : State) (hs : Touches M r s) (hm : 0x4001d6 ||| M = M) :
    Touches M r (finishLoad a0 a1 a2 a3 a4 s) := by
  refine Touches.step hs ?_ hm
  clear hs hm r M
  unfold finishLoad
  repeat' first
    | with_reducible assumption
    | with_reducible apply Touches.refl
    | with_reducible apply Touches.ite
    | ((with_reducible apply complete_touches); (case hm => rfl))
    | ((with_reducible apply putKey_touches); (case hm => rfl))
    | ((with_reducible apply raise_touches); (case hm => rfl))

theorem keyDerive_touches {M : Nat} {r : State} (a0 : Sys2Proof.CmdCtx) (a1 : Bool) (s : State) (hs : Touches M r s) (hm : 0x84001de ||| M = M) :
    Touches M r (keyDerive a0 a1 s) := by
  refine Touches.step hs ?_ hm
  clear hs hm r M
  unfold keyDerive
  repeat' first
    | with_reducible assumption
    | (intro _; try dsimp -zeta only)
    | (extract_lets -underBinder +onlyGivenNames x; (have hty : TypeOf x = State := by with_reducible rfl); clear hty; apply Touches.cut 0x84001de s x; (case' kk => (clear_value x; intro _)); (case' vv => (unfold x; clear x)))
    | (extract_lets -underBinder +onlyGivenNames x; try clear_value x)
    | with_reducible apply Touches.refl
    | with_reducible apply Touches.ite
    | ((with_reducible apply command_touches); (case hm => rfl))
    | ((with_reducible apply complete_touches); (case hm => rfl))
    | ((with_reducible apply finishLoad_touches); (case hm => rfl))
    | ((with_reducible apply State.drewN_touches); (case hm => rfl))
    | split

theorem execKeyDeriveKdf_touches {M : Nat} {r : State} (a0 : Sys2Proof.CmdCtx) (a1 : Bool) (s : State) (hs : Touches M r s) (hm : 0x84001de ||| M = M) :
    TouchesR M r (execKeyDeriveKdf a0 a1 s) := by
  refine TouchesR.step hs ?_ hm
  clear hs hm r M
  unfold execKeyDeriveKdf
  repeat' first
    | with_reducible assumption
    | with_reducible apply Touches.refl
    | with_reducible apply TouchesR.next
    | with_reducible apply TouchesR.fault
    | with_reducible apply TouchesR.ite
    | with_reducible apply Touches.ite
    | ((with_reducible apply keyDerive_touches); (case hm => rfl))

theorem execKeyDeriveRandom_touches {M : Nat} {r : State} (a0 : Sys2Proof.CmdCtx) (a1 : Bool) (s : State) (hs : Touches M r s) (hm : 0x84001de ||| M = M) :
    TouchesR M r (execKeyDeriveRandom a0 a1 s) := by
  refine TouchesR.step hs ?_ hm
  clear hs hm r M
  unfold execKeyDeriveRandom
  repeat' first
    | with_reducible assumption
    | with_reducible apply Touches.refl
    | with_reducible apply TouchesR.next
    | with_reducible apply TouchesR.fault
    | with_reducible apply TouchesR.ite
    | with_reducible apply Touches.ite
    | ((with_reducible apply keyDerive_touches); (case hm => rfl))

theorem execKeyExport_touches {M : Nat} {r : State} (a0 : Sys2Proof.CmdCtx) (s : State) (hs : Touches M r s) (hm : 0x80000d8 ||| M = M) :
    TouchesR M r (execKeyExport a0 s) := by
  refine TouchesR.step hs ?_ hm
  clear hs hm r M
  unfold execKeyExport
  repeat' first
    | with_reducible assumption
    | (intro _; try dsimp -zeta only)
    | (extract_lets -underBinder +onlyGivenNames x; (have hty : TypeOf x = State := by with_reducible rfl); clear hty; apply Touches.cut 0x80000d8 s x; (case' kk => (clear_value x; intro _)); (case' vv => (unfold x; clear x)))
    | (extract_lets -underBinder +onlyGivenNames x; try clear_value x)
    | with_reducible apply Touches.refl
    | with_reducible apply TouchesR.next
    | with_reducible apply TouchesR.fault
    | with_reducible apply TouchesR.ite
    | with_reducible apply Touches.ite
    | ((with_reducible apply command_touches); (case hm => rfl))
    | ((with_reducible apply complete_touches); (case hm => rfl))
    | ((with_reducible apply State.drewN_touches); (case hm => rfl))
    | split

theorem execKeyLoadBlob_touches {M : Nat} {r : State} (a0 : Sys2Proof.CmdCtx) (a1 : Bool) (s : State) (hs : Touches M r s) (hm : 0x84001d6 ||| M = M) :
    TouchesR M r (execKeyLoadBlob a0 a1 s) := by
  refine TouchesR.step hs ?_ hm
  clear hs hm r M
  unfold execKeyLoadBlob
  repeat' first
    | with_reducible assumption
    | (intro _; try dsimp -zeta only)
    | with_reducible apply Touches.refl
    | with_reducible apply TouchesR.next
    | with_reducible apply TouchesR.fault
    | with_reducible apply TouchesR.ite
    | with_reducible apply Touches.ite
    | ((with_reducible apply command_touches); (case hm => rfl))
    | ((with_reducible apply complete_touches); (case hm => rfl))
    | ((with_reducible apply finishLoad_touches); (case hm => rfl))
    | split

theorem execKeyReplace_touches {M : Nat} {r : State} (a0 : Sys2Proof.CmdCtx) (a1 : Bool) (s : State) (hs : Touches M r s) (hm : 0x84001d6 ||| M = M) :
    TouchesR M r (execKeyReplace a0 a1 s) := by
  refine TouchesR.step hs ?_ hm
  clear hs hm r M
  unfold execKeyReplace
  repeat' first
    | with_reducible assumption
    | (intro _; try dsimp -zeta only)
    | (extract_lets -underBinder +onlyGivenNames x; (have hty : TypeOf x = State := by with_reducible rfl); clear hty; apply Touches.cut 0x84001d6 s x; (case' kk => (clear_value x; intro _)); (case' vv => (unfold x; clear x)))
    | (extract_lets -underBinder +onlyGivenNames x; try clear_value x)
    | with_reducible apply Touches.refl
    | with_reducible apply TouchesR.next
    | with_reducible apply TouchesR.fault
    | with_reducible apply TouchesR.ite
    | with_reducible apply Touches.ite
    | ((with_reducible apply command_touches); (case hm => rfl))
    | ((with_reducible apply complete_touches); (case hm => rfl))
    | ((with_reducible apply finishLoad_touches); (case hm => rfl))
    | split

theorem keySnapshot_touches {M : Nat} {r : State} (a0 : Nat) (s : State) (hs : Touches M r s) (hm : 0x2 ||| M = M) :
    Touches M r (keySnapshot a0 s) := by
  refine Touches.step hs ?_ hm
  clear hs hm r M
  unfold keySnapshot
  repeat' first
    | with_reducible assumption
    | with_reducible apply Touches.refl
    | (extract_lets -underBinder +onlyGivenNames x; (have hty : TypeOf x = State := by with_reducible rfl); clear hty; apply Touches.cut 0x2 s x; (case' kk => (clear_value x; intro _)); (case' vv => (unfold x; clear x)))
    | (extract_lets -underBinder +onlyGivenNames x; try clear_value x)
    | ((with_reducible apply State.setReg_touches); (case hm => rfl))
    | ((with_reducible apply State.setFld_touches); (case hm => rfl))

theorem execKeySlotSnapshot_touches {M : Nat} {r : State} (a0 : Sys2Proof.Src) (a1 : Nat) (s : State) (hs : Touches M r s) (hm : 0x22 ||| M = M) :
    TouchesR M r (execKeySlotSnapshot a0 a1 s) := by
  refine TouchesR.step hs ?_ hm
  clear hs hm r M
  unfold execKeySlotSnapshot
  repeat' first
    | with_reducible assumption
    | (intro _; try dsimp -zeta only)
    | with_reducible apply Touches.refl
    | with_reducible apply TouchesR.next
    | with_reducible apply TouchesR.fault
    | ((with_reducible apply busRow_touches); (case hm => rfl))
    | ((with_reducible apply keySnapshot_touches); (case hm => rfl))

theorem execKeyVerifyCommit_touches {M : Nat} {r : State} (a0 : Sys2Proof.CmdCtx) (s : State) (hs : Touches M r s) (hm : 0x84000d0 ||| M = M) :
    TouchesR M r (execKeyVerifyCommit a0 s) := by
  refine TouchesR.step hs ?_ hm
  clear hs hm r M
  unfold execKeyVerifyCommit
  repeat' first
    | with_reducible assumption
    | (intro _; try dsimp -zeta only)
    | (extract_lets -underBinder +onlyGivenNames x; (have hty : TypeOf x = State := by with_reducible rfl); clear hty; apply Touches.cut 0x84000d0 s x; (case' kk => (clear_value x; intro _)); (case' vv => (unfold x; clear x)))
    | (extract_lets -underBinder +onlyGivenNames x; try clear_value x)
    | with_reducible apply Touches.refl
    | with_reducible apply TouchesR.next
    | with_reducible apply TouchesR.fault
    | with_reducible apply TouchesR.ite
    | with_reducible apply Touches.ite
    | ((with_reducible apply command_touches); (case hm => rfl))
    | ((with_reducible apply complete_touches); (case hm => rfl))
    | ((with_reducible apply State.setSlot_touches); (case hm => rfl))
    | split
    | ((with_reducible apply Touches.keys); (case hm => rfl))

theorem execTrngHealthFail_touches {M : Nat} {r : State} (a0 : Fin 2) (s : State) (hs : Touches M r s) (hm : 0x1c6 ||| M = M) :
    TouchesR M r (execTrngHealthFail a0 s) := by
  refine TouchesR.step hs ?_ hm
  clear hs hm r M
  unfold execTrngHealthFail
  repeat' first
    | with_reducible assumption
    | with_reducible apply Touches.refl
    | with_reducible apply TouchesR.next
    | with_reducible apply TouchesR.fault
    | ((with_reducible apply raise_touches); (case hm => rfl))
    | ((with_reducible apply State.setFld_touches); (case hm => rfl))

theorem restoreSlot_touches {M : Nat} {r : State} (a0 : Sys2Proof.Bytes) (s : State) (a2 : Nat × Slot) (hs : Touches M r s) (hm : 0x4001c6 ||| M = M) :
    Touches M r (restoreSlot a0 s a2) := by
  refine Touches.step hs ?_ hm
  clear hs hm r M
  unfold restoreSlot
  repeat' first
    | with_reducible assumption
    | with_reducible apply Touches.refl
    | (extract_lets -underBinder +onlyGivenNames x; (have hty : TypeOf x = State := by with_reducible rfl); clear hty; apply Touches.cut 0x4001c6 s x; (case' kk => (clear_value x; intro _)); (case' vv => (unfold x; clear x)))
    | (extract_lets -underBinder +onlyGivenNames x; try clear_value x)
    | with_reducible apply Touches.ite
    | ((with_reducible apply State.setSlot_touches); (case hm => rfl))
    | ((with_reducible apply raise_touches); (case hm => rfl))

theorem keysRestore_touches {M : Nat} {r : State} (a0 : Sys2Proof.Bytes) (s : State) (hs : Touches M r s) (hm : 0x4401c6 ||| M = M) :
    Touches M r (keysRestore a0 s) := by
  refine Touches.step hs ?_ hm
  clear hs hm r M
  unfold keysRestore
  repeat' first
    | with_reducible assumption
    | (intro _; try dsimp -zeta only)
    | (extract_lets -underBinder +onlyGivenNames x; (have hty : TypeOf x = State := by with_reducible rfl); clear hty; apply Touches.cut 0x4401c6 s x; (case' kk => (clear_value x; intro _)); (case' vv => (unfold x; clear x)))
    | (extract_lets -underBinder +onlyGivenNames x; try clear_value x)
    | with_reducible apply Touches.refl
    | ((with_reducible apply dropPending_touches); (case hm => rfl))
    | ((with_reducible apply restoreSlot_touches); (case hm => rfl))
    | with_reducible apply Touches.foldlD
    | ((with_reducible apply Touches.lit (F := 0x440000)); (case l1 => with_reducible rfl); (case l2 => with_reducible rfl); (case l3 => with_reducible rfl); (case l4 => with_reducible rfl); (case l5 => rfl); (case hm => rfl); (case ag => (constructor <;> first | exact tb rfl | exact fun _ => rfl)))

theorem rebindSlot_touches {M : Nat} {r : State} (a0 : Sys2Proof.Bytes) (s : State) (a2 : Nat × Slot) (hs : Touches M r s) (hm : 0x4001c6 ||| M = M) :
    Touches M r (rebindSlot a0 s a2) := by
  refine Touches.step hs ?_ hm
  clear hs hm r M
  unfold rebindSlot
  repeat' first
    | with_reducible assumption
    | with_reducible apply Touches.refl
    | (extract_lets -underBinder +onlyGivenNames x; (have hty : TypeOf x = State := by with_reducible rfl); clear hty; apply Touches.cut 0x4001c6 s x; (case' kk => (clear_value x; intro _)); (case' vv => (unfold x; clear x)))
    | (extract_lets -underBinder +onlyGivenNames x; try clear_value x)
    | with_reducible apply Touches.ite
    | ((with_reducible apply State.setSlot_touches); (case hm => rfl))
    | ((with_reducible apply raise_touches); (case hm => rfl))
    | split

end Sys2Proof.Machine
end

