-- ==== Sys2Proof/Laws/MacSec.lean ====
section
/-! SUPPORT. What each function of Machine/MacSec.lean touches: one lemma per function that answers a state. -/

set_option linter.tactic.unusedName false

namespace Sys2Proof.Machine

theorem State.setMsec_touches {M : Nat} {r : State} (s : State) (a1 : Nat) (a2 : Msec) (hs : Touches M r s) (hm : 0x400000 ||| M = M) :
    Touches M r (State.setMsec s a1 a2) := by
  refine Touches.step hs ?_ hm
  clear hs hm r M
  unfold State.setMsec
  repeat' first
    | with_reducible assumption
    | with_reducible apply Touches.refl
    | (extract_lets -underBinder +onlyGivenNames x; (have hty : TypeOf x = State := by with_reducible rfl); clear hty; apply Touches.cut 0x400000 s x; (case' kk => (clear_value x; intro _)); (case' vv => (unfold x; clear x)))
    | (extract_lets -underBinder +onlyGivenNames x; try clear_value x)
    | ((with_reducible apply Touches.keys); (case hm => rfl))

theorem markHeldQueue_touches {M : Nat} {r : State} (a0 : Nat) (a1 : Nat) (s : State) (hs : Touches M r s) (hm : 0x410004 ||| M = M) :
    Touches M r (markHeldQueue a0 a1 s) := by
  refine Touches.step hs ?_ hm
  clear hs hm r M
  unfold markHeldQueue
  repeat' first
    | with_reducible assumption
    | with_reducible apply Touches.refl
    | (extract_lets -underBinder +onlyGivenNames x; (have hty : TypeOf x = State := by with_reducible rfl); clear hty; apply Touches.cut 0x410004 s x; (case' kk => (clear_value x; intro _)); (case' vv => (unfold x; clear x)))
    | (extract_lets -underBinder +onlyGivenNames x; try clear_value x)
    | with_reducible apply Touches.ite
    | ((with_reducible apply State.bumpBy_touches); (case hm => rfl))
    | ((with_reducible apply State.setMsec_touches); (case hm => rfl))
    | ((with_reducible apply State.setQueue_touches); (case hm => rfl))

theorem markHeld_touches {M : Nat} {r : State} (a0 : Nat) (s : State) (hs : Touches M r s) (hm : 0x410004 ||| M = M) :
    Touches M r (markHeld a0 s) := by
  refine Touches.step hs ?_ hm
  clear hs hm r M
  unfold markHeld
  repeat' first
    | with_reducible assumption
    | (intro _; try dsimp -zeta only)
    | with_reducible apply Touches.refl
    | with_reducible apply Touches.ite
    | ((with_reducible apply markHeldQueue_touches); (case hm => rfl))
    | with_reducible apply Touches.foldlD

theorem msecCtrlWrite_touches {M : Nat} {r : State} (a0 : Nat) (a1 : Nat) (s : State) (hs : Touches M r s) (hm : 0x410006 ||| M = M) :
    Touches M r (msecCtrlWrite a0 a1 s) := by
  refine Touches.step hs ?_ hm
  clear hs hm r M
  unfold msecCtrlWrite
  repeat' first
    | with_reducible assumption
    | with_reducible apply Touches.refl
    | (extract_lets -underBinder +onlyGivenNames x; (have hty : TypeOf x = State := by with_reducible rfl); clear hty; apply Touches.cut 0x410006 s x; (case' kk => (clear_value x; intro _)); (case' vv => (unfold x; clear x)))
    | (extract_lets -underBinder +onlyGivenNames x; try clear_value x)
    | with_reducible apply Touches.ite
    | ((with_reducible apply State.setFld_touches); (case hm => rfl))
    | ((with_reducible apply markHeld_touches); (case hm => rfl))

theorem execMacsecEnableWrite_touches {M : Nat} {r : State} (a0 : Sys2Proof.Src) (a1 : Sys2Proof.Port) (a2 : Nat) (s : State) (hs : Touches M r s) (hm : 0x410026 ||| M = M) :
    TouchesR M r (execMacsecEnableWrite a0 a1 a2 s) := by
  refine TouchesR.step hs ?_ hm
  clear hs hm r M
  unfold execMacsecEnableWrite
  repeat' first
    | with_reducible assumption
    | (intro _; try dsimp -zeta only)
    | with_reducible apply Touches.refl
    | with_reducible apply TouchesR.next
    | with_reducible apply TouchesR.fault
    | ((with_reducible apply busRow_touches); (case hm => rfl))
    | ((with_reducible apply msecCtrlWrite_touches); (case hm => rfl))

theorem saCommit_touches {M : Nat} {r : State} (a0 : Nat) (a1 : Nat) (s : State) (hs : Touches M r s) (hm : 0x4501c6 ||| M = M) :
    Touches M r (saCommit a0 a1 s) := by
  refine Touches.step hs ?_ hm
  clear hs hm r M
  unfold saCommit
  repeat' first
    | with_reducible assumption
    | with_reducible apply Touches.refl
    | (extract_lets -underBinder +onlyGivenNames x; (have hty : TypeOf x = State := by with_reducible rfl); clear hty; apply Touches.cut 0x4501c6 s x; (case' kk => (clear_value x; intro _)); (case' vv => (unfold x; clear x)))
    | (extract_lets -underBinder +onlyGivenNames x; try clear_value x)
    | with_reducible apply Touches.ite
    | ((with_reducible apply markHeld_touches); (case hm => rfl))
    | ((with_reducible apply State.setMsec_touches); (case hm => rfl))
    | ((with_reducible apply raise_touches); (case hm => rfl))
    | ((with_reducible apply Touches.pnHold); (case hm => rfl))

theorem macsecSa_touches {M : Nat} {r : State} (a0 : Sys2Proof.CmdCtx) (s : State) (hs : Touches M r s) (hm : 0x84501d6 ||| M = M) :
    Touches M r (macsecSa a0 s) := by
  refine Touches.step hs ?_ hm
  clear hs hm r M
  unfold macsecSa
  repeat' first
    | with_reducible assumption
    | (intro _; try dsimp -zeta only)
    | (extract_lets -underBinder +onlyGivenNames x; (have hty : TypeOf x = State := by with_reducible rfl); clear hty; apply Touches.cut 0x84501d6 s x; (case' kk => (clear_value x; intro _)); (case' vv => (unfold x; clear x)))
    | (extract_lets -underBinder +onlyGivenNames x; try clear_value x)
    | with_reducible apply Touches.refl
    | with_reducible apply Touches.ite
    | ((with_reducible apply command_touches); (case hm => rfl))
    | ((with_reducible apply complete_touches); (case hm => rfl))
    | ((with_reducible apply State.setMsec_touches); (case hm => rfl))
    | ((with_reducible apply saCommit_touches); (case hm => rfl))

theorem execMacsecSaInstall_touches {M : Nat} {r : State} (a0 : Sys2Proof.CmdCtx) (s : State) (hs : Touches M r s) (hm : 0x84501d6 ||| M = M) :
    TouchesR M r (execMacsecSaInstall a0 s) := by
  refine TouchesR.step hs ?_ hm
  clear hs hm r M
  unfold execMacsecSaInstall
  repeat' first
    | with_reducible assumption
    | with_reducible apply Touches.refl
    | with_reducible apply TouchesR.next
    | with_reducible apply TouchesR.fault
    | ((with_reducible apply macsecSa_touches); (case hm => rfl))

theorem execMacsecSaRead_touches {M : Nat} {r : State} (a0 : Sys2Proof.CmdCtx) (s : State) (hs : Touches M r s) (hm : 0x84501d6 ||| M = M) :
    TouchesR M r (execMacsecSaRead a0 s) := by
  refine TouchesR.step hs ?_ hm
  clear hs hm r M
  unfold execMacsecSaRead
  repeat' first
    | with_reducible assumption
    | with_reducible apply Touches.refl
    | with_reducible apply TouchesR.next
    | with_reducible apply TouchesR.fault
    | ((with_reducible apply macsecSa_touches); (case hm => rfl))

theorem execMacsecSaRemove_touches {M : Nat} {r : State} (a0 : Sys2Proof.CmdCtx) (s : State) (hs : Touches M r s) (hm : 0x84501d6 ||| M = M) :
    TouchesR M r (execMacsecSaRemove a0 s) := by
  refine TouchesR.step hs ?_ hm
  clear hs hm r M
  unfold execMacsecSaRemove
  repeat' first
    | with_reducible assumption
    | with_reducible apply Touches.refl
    | with_reducible apply TouchesR.next
    | with_reducible apply TouchesR.fault
    | ((with_reducible apply macsecSa_touches); (case hm => rfl))

theorem execMacsecSaTxCommit_touches {M : Nat} {r : State} (a0 : Sys2Proof.CmdCtx) (s : State) (hs : Touches M r s) (hm : 0x84501d6 ||| M = M) :
    TouchesR M r (execMacsecSaTxCommit a0 s) := by
  refine TouchesR.step hs ?_ hm
  clear hs hm r M
  unfold execMacsecSaTxCommit
  repeat' first
    | with_reducible assumption
    | with_reducible apply Touches.refl
    | with_reducible apply TouchesR.next
    | with_reducible apply TouchesR.fault
    | ((with_reducible apply macsecSa_touches); (case hm => rfl))

theorem icvFail_touches {M : Nat} {r : State} (a0 : Nat) (a1 : Nat) (a2 : Nat) (s : State) (hs : Touches M r s) (hm : 0x4001c6 ||| M = M) :
    Touches M r (icvFail a0 a1 a2 s) := by
  refine Touches.step hs ?_ hm
  clear hs hm r M
  unfold icvFail
  repeat' first
    | with_reducible assumption
    | with_reducible apply Touches.refl
    | (extract_lets -underBinder +onlyGivenNames x; (have hty : TypeOf x = State := by with_reducible rfl); clear hty; apply Touches.cut 0x4001c6 s x; (case' kk => (clear_value x; intro _)); (case' vv => (unfold x; clear x)))
    | (extract_lets -underBinder +onlyGivenNames x; try clear_value x)
    | with_reducible apply Touches.ite
    | ((with_reducible apply State.bump_touches); (case hm => rfl))
    | ((with_reducible apply raise_touches); (case hm => rfl))
    | ((with_reducible apply State.setMsec_touches); (case hm => rfl))
    | split

theorem rxTagged_touches {M : Nat} {r : State} (a0 : Nat) (a1 : Sys2Proof.Bytes) (s : State) (hs : Touches M r s) (hm : 0x4001c6 ||| M = M) :
    Touches M r ((rxTagged a0 a1 s).2) := by
  refine Touches.step hs ?_ hm
  clear hs hm r M
  unfold rxTagged
  repeat' first
    | with_reducible assumption
    | with_reducible apply Touches.refl
    | (extract_lets -underBinder +onlyGivenNames x; (have hty : TypeOf x = State := by with_reducible rfl); clear hty; apply Touches.cut 0x4001c6 s x; (case' kk => (clear_value x; intro _)); (case' vv => (unfold x; clear x)))
    | (extract_lets -underBinder +onlyGivenNames x; try clear_value x)
    | with_reducible apply Touches.ite
    | ((with_reducible apply State.bump_touches); (case hm => rfl))
    | ((with_reducible apply icvFail_touches); (case hm => rfl))
    | ((with_reducible apply State.setMsec_touches); (case hm => rfl))
    | split
    | (dsimp -zeta only)

theorem msecReceive_touches {M : Nat} {r : State} (a0 : Nat) (a1 : Sys2Proof.Bytes) (s : State) (hs : Touches M r s) (hm : 0x4001c6 ||| M = M) :
    Touches M r ((msecReceive a0 a1 s).2) := by
  refine Touches.step hs ?_ hm
  clear hs hm r M
  unfold msecReceive
  repeat' first
    | with_reducible assumption
    | with_reducible apply Touches.refl
    | with_reducible apply Touches.ite
    | ((with_reducible apply rxTagged_touches); (case hm => rfl))
    | ((with_reducible apply State.bump_touches); (case hm => rfl))
    | ((with_reducible apply Touches.snd); (case eqn => assumption))
    | split
    | (dsimp -zeta only)

theorem msecSend_touches {M : Nat} {r : State} (a0 : Nat) (a1 : Sys2Proof.Bytes) (s : State) (hs : Touches M r s) (hm : 0x4401c6 ||| M = M) :
    Touches M r ((msecSend a0 a1 s).2) := by
  refine Touches.step hs ?_ hm
  clear hs hm r M
  unfold msecSend
  repeat' first
    | with_reducible assumption
    | with_reducible apply Touches.refl
    | (extract_lets -underBinder +onlyGivenNames x; (have hty : TypeOf x = State := by with_reducible rfl); clear hty; apply Touches.cut 0x4401c6 s x; (case' kk => (clear_value x; intro _)); (case' vv => (unfold x; clear x)))
    | (extract_lets -underBinder +onlyGivenNames x; try clear_value x)
    | with_reducible apply Touches.ite
    | ((with_reducible apply State.bump_touches); (case hm => rfl))
    | ((with_reducible apply State.setMsec_touches); (case hm => rfl))
    | ((with_reducible apply raise_touches); (case hm => rfl))
    | split
    | (dsimp -zeta only)
    | ((with_reducible apply Touches.pnHold); (case hm => rfl))

theorem tellHold_touches {M : Nat} {r : State} (a0 : Nat) (s : State) (hs : Touches M r s) (hm : 0x4001c6 ||| M = M) :
    Touches M r (tellHold a0 s) := by
  refine Touches.step hs ?_ hm
  clear hs hm r M
  unfold tellHold
  repeat' first
    | with_reducible assumption
    | with_reducible apply Touches.refl
    | (extract_lets -underBinder +onlyGivenNames x; (have hty : TypeOf x = State := by with_reducible rfl); clear hty; apply Touches.cut 0x4001c6 s x; (case' kk => (clear_value x; intro _)); (case' vv => (unfold x; clear x)))
    | (extract_lets -underBinder +onlyGivenNames x; try clear_value x)
    | with_reducible apply Touches.ite
    | ((with_reducible apply raise_touches); (case hm => rfl))
    | ((with_reducible apply State.setMsec_touches); (case hm => rfl))

end Sys2Proof.Machine
end

