-- ==== Sys2Proof/Laws/Tables.lean ====
section
/-! SUPPORT. What each function of Machine/Tables.lean touches: one lemma per function that answers a state. -/

set_option linter.tactic.unusedName false

namespace Sys2Proof.Machine

theorem State.setTab_touches {M : Nat} {r : State} (s : State) (a1 : Nat) (a2 : QTab) (hs : Touches M r s) (hm : 0x400 ||| M = M) :
    Touches M r (State.setTab s a1 a2) := by
  refine Touches.step hs ?_ hm
  clear hs hm r M
  unfold State.setTab
  repeat' first
    | with_reducible assumption
    | with_reducible apply Touches.refl
    | ((with_reducible apply Touches.tabs); (case hm => rfl))

theorem State.modTab_touches {M : Nat} {r : State} (s : State) (a1 : Nat) (a2 : QTab → QTab) (hs : Touches M r s) (hm : 0x400 ||| M = M) :
    Touches M r (State.modTab s a1 a2) := by
  refine Touches.step hs ?_ hm
  clear hs hm r M
  unfold State.modTab
  repeat' first
    | with_reducible assumption
    | with_reducible apply Touches.refl
    | ((with_reducible apply State.setTab_touches); (case hm => rfl))

theorem rehashRequest_touches {M : Nat} {r : State} (a0 : Nat) (a1 : Nat) (s : State) (hs : Touches M r s) (hm : 0x5c6 ||| M = M) :
    Touches M r (rehashRequest a0 a1 s) := by
  refine Touches.step hs ?_ hm
  clear hs hm r M
  unfold rehashRequest
  repeat' first
    | with_reducible assumption
    | with_reducible apply Touches.refl
    | (extract_lets -underBinder +onlyGivenNames x; (have hty : TypeOf x = State := by with_reducible rfl); clear hty; apply Touches.cut 0x5c6 s x; (case' kk => (clear_value x; intro _)); (case' vv => (unfold x; clear x)))
    | (extract_lets -underBinder +onlyGivenNames x; try clear_value x)
    | with_reducible apply Touches.ite
    | ((with_reducible apply raise_touches); (case hm => rfl))
    | ((with_reducible apply State.setTab_touches); (case hm => rfl))
    | split

theorem learn_touches {M : Nat} {r : State} (a0 : Nat) (a1 : LearnReq) (s : State) (hs : Touches M r s) (hm : 0x5c6 ||| M = M) :
    Touches M r (learn a0 a1 s) := by
  refine Touches.step hs ?_ hm
  clear hs hm r M
  unfold learn
  repeat' first
    | with_reducible assumption
    | with_reducible apply Touches.refl
    | (extract_lets -underBinder +onlyGivenNames x; (have hty : TypeOf x = State := by with_reducible rfl); clear hty; apply Touches.cut 0x5c6 s x; (case' kk => (clear_value x; intro _)); (case' vv => (unfold x; clear x)))
    | (extract_lets -underBinder +onlyGivenNames x; try clear_value x)
    | with_reducible apply Touches.ite
    | ((with_reducible apply State.bump_touches); (case hm => rfl))
    | ((with_reducible apply State.setTab_touches); (case hm => rfl))
    | ((with_reducible apply rehashRequest_touches); (case hm => rfl))
    | ((with_reducible apply raise_touches); (case hm => rfl))
    | split

theorem serveLearn_touches {M : Nat} {r : State} (a0 : Nat) (s : State) (hs : Touches M r s) (hm : 0x5c6 ||| M = M) :
    Touches M r (serveLearn a0 s) := by
  refine Touches.step hs ?_ hm
  clear hs hm r M
  unfold serveLearn
  repeat' first
    | with_reducible assumption
    | with_reducible apply Touches.refl
    | ((with_reducible apply learn_touches); (case hm => rfl))
    | ((with_reducible apply State.modTab_touches); (case hm => rfl))
    | split

theorem drainLearn_touches {M : Nat} {r : State} (a0 : Nat) (s : State) (hs : Touches M r s) (hm : 0x5c6 ||| M = M) :
    Touches M r (drainLearn a0 s) := by
  refine Touches.step hs ?_ hm
  clear hs hm r M
  unfold drainLearn
  repeat' first
    | with_reducible assumption
    | (intro _; try dsimp -zeta only)
    | with_reducible apply Touches.refl
    | ((with_reducible apply serveLearn_touches); (case hm => rfl))
    | with_reducible apply Touches.foldlD

theorem execLearnRequest_touches {M : Nat} {r : State} (a0 : Sys2Proof.Quad) (s : State) (hs : Touches M r s) (hm : 0x5c6 ||| M = M) :
    TouchesR M r (execLearnRequest a0 s) := by
  refine TouchesR.step hs ?_ hm
  clear hs hm r M
  unfold execLearnRequest
  repeat' first
    | with_reducible assumption
    | with_reducible apply Touches.refl
    | with_reducible apply TouchesR.next
    | with_reducible apply TouchesR.fault
    | ((with_reducible apply serveLearn_touches); (case hm => rfl))

theorem execMoveIntervalEnd_touches {M : Nat} {r : State} (a0 : Sys2Proof.Quad) (s : State) (hs : Touches M r s) (hm : 0x400 ||| M = M) :
    TouchesR M r (execMoveIntervalEnd a0 s) := by
  refine TouchesR.step hs ?_ hm
  clear hs hm r M
  unfold execMoveIntervalEnd
  repeat' first
    | with_reducible assumption
    | with_reducible apply Touches.refl
    | (extract_lets -underBinder +onlyGivenNames x; (have hty : TypeOf x = State := by with_reducible rfl); clear hty; apply Touches.cut 0x400 s x; (case' kk => (clear_value x; intro _)); (case' vv => (unfold x; clear x)))
    | (extract_lets -underBinder +onlyGivenNames x; try clear_value x)
    | with_reducible apply TouchesR.next
    | with_reducible apply TouchesR.fault
    | with_reducible apply TouchesR.ite
    | with_reducible apply Touches.ite
    | ((with_reducible apply State.setTab_touches); (case hm => rfl))

theorem execRakeVisit_touches {M : Nat} {r : State} (a0 : Sys2Proof.Quad) (a1 : Bool) (s : State) (hs : Touches M r s) (hm : 0x404 ||| M = M) :
    TouchesR M r (execRakeVisit a0 a1 s) := by
  refine TouchesR.step hs ?_ hm
  clear hs hm r M
  unfold execRakeVisit
  repeat' first
    | with_reducible assumption
    | with_reducible apply Touches.refl
    | (extract_lets -underBinder +onlyGivenNames x; (have hty : TypeOf x = State := by with_reducible rfl); clear hty; apply Touches.cut 0x404 s x; (case' kk => (clear_value x; intro _)); (case' vv => (unfold x; clear x)))
    | (extract_lets -underBinder +onlyGivenNames x; try clear_value x)
    | with_reducible apply TouchesR.next
    | with_reducible apply TouchesR.fault
    | with_reducible apply TouchesR.ite
    | with_reducible apply Touches.ite
    | ((with_reducible apply State.bump_touches); (case hm => rfl))
    | ((with_reducible apply State.setTab_touches); (case hm => rfl))
    | ((with_reducible apply State.bumpBy_touches); (case hm => rfl))

theorem rehashDone_touches {M : Nat} {r : State} (a0 : Nat) (a1 : Nat) (a2 : Nat) (s : State) (hs : Touches M r s) (hm : 0x1c6 ||| M = M) :
    Touches M r (rehashDone a0 a1 a2 s) := by
  refine Touches.step hs ?_ hm
  clear hs hm r M
  unfold rehashDone
  repeat' first
    | with_reducible assumption
    | with_reducible apply Touches.refl
    | ((with_reducible apply raise_touches); (case hm => rfl))

theorem execRehashCheckDone_touches {M : Nat} {r : State} (a0 : Sys2Proof.Quad) (s : State) (hs : Touches M r s) (hm : 0x400005c6 ||| M = M) :
    TouchesR M r (execRehashCheckDone a0 s) := by
  refine TouchesR.step hs ?_ hm
  clear hs hm r M
  unfold execRehashCheckDone
  repeat' first
    | with_reducible assumption
    | with_reducible apply Touches.refl
    | ((with_reducible apply stopBegins_touches); (case hm => rfl))
    | (extract_lets -underBinder +onlyGivenNames x; (have hty : TypeOf x = State := by with_reducible rfl); clear hty; apply Touches.cut 0x400005c6 s x; (case' kk => (clear_value x; intro _)); (case' vv => (unfold x; clear x)))
    | (extract_lets -underBinder +onlyGivenNames x; try clear_value x)
    | with_reducible apply TouchesR.next
    | with_reducible apply TouchesR.fault
    | with_reducible apply TouchesR.ite
    | with_reducible apply Touches.ite
    | ((with_reducible apply State.setCtr_touches); (case hm => rfl))
    | ((with_reducible apply State.setReg_touches); (case hm => rfl))
    | ((with_reducible apply State.setTab_touches); (case hm => rfl))
    | ((with_reducible apply rehashDone_touches); (case hm => rfl))
    | exact Nat.min_le_left _ _
    | split

theorem execRehashCopyDone_touches {M : Nat} {r : State} (a0 : Sys2Proof.Quad) (s : State) (hs : Touches M r s) (hm : 0x400005c6 ||| M = M) :
    TouchesR M r (execRehashCopyDone a0 s) := by
  refine TouchesR.step hs ?_ hm
  clear hs hm r M
  unfold execRehashCopyDone
  repeat' first
    | with_reducible assumption
    | with_reducible apply Touches.refl
    | ((with_reducible apply stopBegins_touches); (case hm => rfl))
    | (extract_lets -underBinder +onlyGivenNames x; (have hty : TypeOf x = State := by with_reducible rfl); clear hty; apply Touches.cut 0x400005c6 s x; (case' kk => (clear_value x; intro _)); (case' vv => (unfold x; clear x)))
    | (extract_lets -underBinder +onlyGivenNames x; try clear_value x)
    | with_reducible apply TouchesR.next
    | with_reducible apply TouchesR.fault
    | with_reducible apply TouchesR.ite
    | with_reducible apply Touches.ite
    | ((with_reducible apply drainLearn_touches); (case hm => rfl))
    | ((with_reducible apply State.setTab_touches); (case hm => rfl))
    | ((with_reducible apply State.bumpBy_touches); (case hm => rfl))
    | ((with_reducible apply State.setReg_touches); (case hm => rfl))
    | ((with_reducible apply rehashDone_touches); (case hm => rfl))
    | split

theorem tblRemove_touches {M : Nat} {r : State} (a0 : Nat) (a1 : Nat) (a2 : Nat) (s : State) (hs : Touches M r s) (hm : 0x400 ||| M = M) :
    Touches M r ((tblRemove a0 a1 a2 s).1) := by
  refine Touches.step hs ?_ hm
  clear hs hm r M
  unfold tblRemove
  repeat' first
    | with_reducible assumption
    | with_reducible apply Touches.refl
    | (extract_lets -underBinder +onlyGivenNames x; (have hty : TypeOf x = State := by with_reducible rfl); clear hty; apply Touches.cut 0x400 s x; (case' kk => (clear_value x; intro _)); (case' vv => (unfold x; clear x)))
    | (extract_lets -underBinder +onlyGivenNames x; try clear_value x)
    | with_reducible apply Touches.ite
    | ((with_reducible apply State.setTab_touches); (case hm => rfl))
    | split
    | (dsimp -zeta only)

theorem tblRemoveAll_touches {M : Nat} {r : State} (a0 : Nat) (a1 : Nat) (a2 : List Nat) (s : State) (hs : Touches M r s) (hm : 0x400 ||| M = M) :
    Touches M r ((tblRemoveAll a0 a1 a2 s).1) := by
  refine Touches.step hs ?_ hm
  clear hs hm r M
  suffices hq : ∀ r, Touches 0x400 r s → Touches 0x400 r (tblRemoveAll a0 a1 a2 s).1 from hq _ (Touches.refl _ _)
  induction a2 generalizing a0 a1 s with
  | nil =>
    intro r hs
    unfold tblRemoveAll
    repeat' first
      | with_reducible assumption
      | (intro _; try dsimp -zeta only)
      | (extract_lets -underBinder +onlyGivenNames x; (have hty : TypeOf x = State := by with_reducible rfl); clear hty; apply Touches.cut 0x400 r x; (case' kk => (clear_value x; intro _)); (case' vv => (unfold x; clear x)))
      | (extract_lets -underBinder +onlyGivenNames x; try clear_value x)
      | with_reducible apply Touches.refl
      | with_reducible apply Touches.ite
      | with_reducible apply ih
      | ((with_reducible apply tblRemove_touches); (case hm => rfl))
      | with_reducible apply Touches.foldlD
      | ((with_reducible apply Touches.fst); (case eqn => assumption))
      | split
      | (dsimp -zeta only)
  | cons hd tl ih =>
    intro r hs
    unfold tblRemoveAll
    repeat' first
      | with_reducible assumption
      | (intro _; try dsimp -zeta only)
      | (extract_lets -underBinder +onlyGivenNames x; (have hty : TypeOf x = State := by with_reducible rfl); clear hty; apply Touches.cut 0x400 r x; (case' kk => (clear_value x; intro _)); (case' vv => (unfold x; clear x)))
      | (extract_lets -underBinder +onlyGivenNames x; try clear_value x)
      | with_reducible apply Touches.refl
      | with_reducible apply Touches.ite
      | with_reducible apply ih
      | ((with_reducible apply tblRemove_touches); (case hm => rfl))
      | with_reducible apply Touches.foldlD
      | ((with_reducible apply Touches.fst); (case eqn => assumption))
      | split
      | (dsimp -zeta only)

theorem execTblDelete_touches {M : Nat} {r : State} (a0 : Sys2Proof.CmdCtx) (s : State) (hs : Touches M r s) (hm : 0x80005d6 ||| M = M) :
    TouchesR M r (execTblDelete a0 s) := by
  refine TouchesR.step hs ?_ hm
  clear hs hm r M
  unfold execTblDelete
  repeat' first
    | with_reducible assumption
    | (intro _; try dsimp -zeta only)
    | (extract_lets -underBinder +onlyGivenNames x; (have hty : TypeOf x = State := by with_reducible rfl); clear hty; apply Touches.cut 0x80005d6 s x; (case' kk => (clear_value x; intro _)); (case' vv => (unfold x; clear x)))
    | (extract_lets -underBinder +onlyGivenNames x; try clear_value x)
    | with_reducible apply Touches.refl
    | with_reducible apply TouchesR.next
    | with_reducible apply TouchesR.fault
    | with_reducible apply TouchesR.ite
    | with_reducible apply Touches.ite
    | ((with_reducible apply command_touches); (case hm => rfl))
    | ((with_reducible apply complete_touches); (case hm => rfl))
    | ((with_reducible apply drainLearn_touches); (case hm => rfl))
    | ((with_reducible apply tblRemoveAll_touches); (case hm => rfl))
    | with_reducible apply Touches.foldlD
    | ((with_reducible apply Touches.fst); (case eqn => assumption))
    | split

theorem execTblFlushPort_touches {M : Nat} {r : State} (a0 : Sys2Proof.CmdCtx) (s : State) (hs : Touches M r s) (hm : 0x80005d6 ||| M = M) :
    TouchesR M r (execTblFlushPort a0 s) := by
  refine TouchesR.step hs ?_ hm
  clear hs hm r M
  unfold execTblFlushPort
  repeat' first
    | with_reducible assumption
    | (intro _; try dsimp -zeta only)
    | (extract_lets -underBinder +onlyGivenNames x; (have hty : TypeOf x = State := by with_reducible rfl); clear hty; apply Touches.cut 0x80005d6 s x; (case' kk => (clear_value x; intro _)); (case' vv => (unfold x; clear x)))
    | (extract_lets -underBinder +onlyGivenNames x; try clear_value x)
    | with_reducible apply Touches.refl
    | with_reducible apply TouchesR.next
    | with_reducible apply TouchesR.fault
    | with_reducible apply TouchesR.ite
    | with_reducible apply Touches.ite
    | ((with_reducible apply command_touches); (case hm => rfl))
    | ((with_reducible apply complete_touches); (case hm => rfl))
    | ((with_reducible apply drainLearn_touches); (case hm => rfl))
    | ((with_reducible apply State.modTab_touches); (case hm => rfl))
    | with_reducible apply Touches.foldlD

theorem handleTblEcc_touches {M : Nat} {r : State} (a0 : Nat) (a1 : Nat) (a2 : Nat) (s : State) (hs : Touches M r s) (hm : 0x100 ||| M = M) :
    Touches M r (handleTblEcc a0 a1 a2 s) := by
  refine Touches.step hs ?_ hm
  clear hs hm r M
  unfold handleTblEcc
  repeat' first
    | with_reducible assumption
    | with_reducible apply Touches.refl
    | (extract_lets -underBinder +onlyGivenNames x; (have hty : TypeOf x = State := by with_reducible rfl); clear hty; apply Touches.cut 0x100 s x; (case' kk => (clear_value x; intro _)); (case' vv => (unfold x; clear x)))
    | (extract_lets -underBinder +onlyGivenNames x; try clear_value x)
    | with_reducible apply Touches.ite
    | ((with_reducible apply handleGroup_touches); (case hm => rfl))
    | split

theorem tblWrite_touches {M : Nat} {r : State} (a0 : Nat) (a1 : Nat) (a2 : Nat) (a3 : Bool) (s : State) (hs : Touches M r s) (hm : 0x5c6 ||| M = M) :
    Touches M r ((tblWrite a0 a1 a2 a3 s).1) := by
  refine Touches.step hs ?_ hm
  clear hs hm r M
  unfold tblWrite
  repeat' first
    | with_reducible assumption
    | with_reducible apply Touches.refl
    | (extract_lets -underBinder +onlyGivenNames x; (have hty : TypeOf x = State := by with_reducible rfl); clear hty; apply Touches.cut 0x5c6 s x; (case' kk => (clear_value x; intro _)); (case' vv => (unfold x; clear x)))
    | (extract_lets -underBinder +onlyGivenNames x; try clear_value x)
    | with_reducible apply Touches.ite
    | ((with_reducible apply handleTblEcc_touches); (case hm => rfl))
    | ((with_reducible apply State.setTab_touches); (case hm => rfl))
    | ((with_reducible apply rehashRequest_touches); (case hm => rfl))
    | ((with_reducible apply State.modTab_touches); (case hm => rfl))
    | split
    | (dsimp -zeta only)

theorem restoreEntry_touches {M : Nat} {r : State} (a0 : Nat) (s : State) (a2 : Nat × Nat × Nat) (hs : Touches M r s) (hm : 0x5c6 ||| M = M) :
    Touches M r (restoreEntry a0 s a2) := by
  refine Touches.step hs ?_ hm
  clear hs hm r M
  unfold restoreEntry
  repeat' first
    | with_reducible assumption
    | with_reducible apply Touches.refl
    | with_reducible apply Touches.ite
    | ((with_reducible apply tblWrite_touches); (case hm => rfl))
    | ((with_reducible apply handleTblEcc_touches); (case hm => rfl))
    | ((with_reducible apply State.modTab_touches); (case hm => rfl))
    | ((with_reducible apply Touches.fst); (case eqn => assumption))
    | split

theorem restoreLost_touches {M : Nat} {r : State} (s : State) (hs : Touches M r s) (hm : 0x5c6 ||| M = M) :
    Touches M r (restoreLost s) := by
  refine Touches.step hs ?_ hm
  clear hs hm r M
  unfold restoreLost
  repeat' first
    | with_reducible assumption
    | (intro _; try dsimp -zeta only)
    | (extract_lets -underBinder +onlyGivenNames x; (have hty : TypeOf x = State := by with_reducible rfl); clear hty; apply Touches.cut 0x5c6 s x; (case' kk => (clear_value x; intro _)); (case' vv => (unfold x; clear x)))
    | (extract_lets -underBinder +onlyGivenNames x; try clear_value x)
    | with_reducible apply Touches.refl
    | with_reducible apply Touches.ite
    | ((with_reducible apply restoreEntry_touches); (case hm => rfl))
    | ((with_reducible apply State.modTab_touches); (case hm => rfl))
    | with_reducible apply Touches.foldlD

theorem tblWriteAll_touches {M : Nat} {r : State} (a0 : Nat) (a1 : Nat) (a2 : Bool) (a3 : List Nat) (s : State) (hs : Touches M r s) (hm : 0x5c6 ||| M = M) :
    Touches M r ((tblWriteAll a0 a1 a2 a3 s).1) := by
  refine Touches.step hs ?_ hm
  clear hs hm r M
  suffices hq : ∀ r, Touches 0x5c6 r s → Touches 0x5c6 r (tblWriteAll a0 a1 a2 a3 s).1 from hq _ (Touches.refl _ _)
  induction a3 generalizing a0 a1 a2 s with
  | nil =>
    intro r hs
    unfold tblWriteAll
    repeat' first
      | with_reducible assumption
      | (intro _; try dsimp -zeta only)
      | (extract_lets -underBinder +onlyGivenNames x; (have hty : TypeOf x = State := by with_reducible rfl); clear hty; apply Touches.cut 0x5c6 r x; (case' kk => (clear_value x; intro _)); (case' vv => (unfold x; clear x)))
      | (extract_lets -underBinder +onlyGivenNames x; try clear_value x)
      | with_reducible apply Touches.refl
      | with_reducible apply Touches.ite
      | with_reducible apply ih
      | ((with_reducible apply tblWrite_touches); (case hm => rfl))
      | with_reducible apply Touches.foldlD
      | ((with_reducible apply Touches.fst); (case eqn => assumption))
      | split
      | (dsimp -zeta only)
  | cons hd tl ih =>
    intro r hs
    unfold tblWriteAll
    repeat' first
      | with_reducible assumption
      | (intro _; try dsimp -zeta only)
      | (extract_lets -underBinder +onlyGivenNames x; (have hty : TypeOf x = State := by with_reducible rfl); clear hty; apply Touches.cut 0x5c6 r x; (case' kk => (clear_value x; intro _)); (case' vv => (unfold x; clear x)))
      | (extract_lets -underBinder +onlyGivenNames x; try clear_value x)
      | with_reducible apply Touches.refl
      | with_reducible apply Touches.ite
      | with_reducible apply ih
      | ((with_reducible apply tblWrite_touches); (case hm => rfl))
      | with_reducible apply Touches.foldlD
      | ((with_reducible apply Touches.fst); (case eqn => assumption))
      | split
      | (dsimp -zeta only)

theorem tblInsert_touches {M : Nat} {r : State} (a0 : Sys2Proof.CmdCtx) (a1 : Nat) (a2 : Bool) (s : State) (hs : Touches M r s) (hm : 0x5d6 ||| M = M) :
    Touches M r (tblInsert a0 a1 a2 s) := by
  refine Touches.step hs ?_ hm
  clear hs hm r M
  unfold tblInsert
  repeat' first
    | with_reducible assumption
    | (intro _; try dsimp -zeta only)
    | (extract_lets -underBinder +onlyGivenNames x; (have hty : TypeOf x = State := by with_reducible rfl); clear hty; apply Touches.cut 0x5d6 s x; (case' kk => (clear_value x; intro _)); (case' vv => (unfold x; clear x)))
    | (extract_lets -underBinder +onlyGivenNames x; try clear_value x)
    | with_reducible apply Touches.refl
    | with_reducible apply Touches.ite
    | ((with_reducible apply complete_touches); (case hm => rfl))
    | ((with_reducible apply drainLearn_touches); (case hm => rfl))
    | ((with_reducible apply tblWriteAll_touches); (case hm => rfl))
    | with_reducible apply Touches.foldlD
    | ((with_reducible apply Touches.fst); (case eqn => assumption))
    | split

theorem execTblInsert_touches {M : Nat} {r : State} (a0 : Sys2Proof.CmdCtx) (s : State) (hs : Touches M r s) (hm : 0x80005d6 ||| M = M) :
    TouchesR M r (execTblInsert a0 s) := by
  refine TouchesR.step hs ?_ hm
  clear hs hm r M
  unfold execTblInsert
  repeat' first
    | with_reducible assumption
    | (intro _; try dsimp -zeta only)
    | with_reducible apply Touches.refl
    | with_reducible apply TouchesR.next
    | with_reducible apply TouchesR.fault
    | ((with_reducible apply command_touches); (case hm => rfl))
    | ((with_reducible apply tblInsert_touches); (case hm => rfl))

theorem execTblNext_touches {M : Nat} {r : State} (a0 : Sys2Proof.CmdCtx) (s : State) (hs : Touches M r s) (hm : 0x80005d6 ||| M = M) :
    TouchesR M r (execTblNext a0 s) := by
  refine TouchesR.step hs ?_ hm
  clear hs hm r M
  unfold execTblNext
  repeat' first
    | with_reducible assumption
    | (intro _; try dsimp -zeta only)
    | (extract_lets -underBinder +onlyGivenNames x; (have hty : TypeOf x = State := by with_reducible rfl); clear hty; apply Touches.cut 0x80005d6 s x; (case' kk => (clear_value x; intro _)); (case' vv => (unfold x; clear x)))
    | (extract_lets -underBinder +onlyGivenNames x; try clear_value x)
    | with_reducible apply Touches.refl
    | with_reducible apply TouchesR.next
    | with_reducible apply TouchesR.fault
    | with_reducible apply TouchesR.ite
    | with_reducible apply Touches.ite
    | ((with_reducible apply command_touches); (case hm => rfl))
    | ((with_reducible apply complete_touches); (case hm => rfl))
    | ((with_reducible apply drainLearn_touches); (case hm => rfl))
    | split

theorem execTblPin_touches {M : Nat} {r : State} (a0 : Sys2Proof.CmdCtx) (s : State) (hs : Touches M r s) (hm : 0x80005d6 ||| M = M) :
    TouchesR M r (execTblPin a0 s) := by
  refine TouchesR.step hs ?_ hm
  clear hs hm r M
  unfold execTblPin
  repeat' first
    | with_reducible assumption
    | (intro _; try dsimp -zeta only)
    | with_reducible apply Touches.refl
    | with_reducible apply TouchesR.next
    | with_reducible apply TouchesR.fault
    | ((with_reducible apply command_touches); (case hm => rfl))
    | ((with_reducible apply tblInsert_touches); (case hm => rfl))

theorem execTblSearch_touches {M : Nat} {r : State} (a0 : Sys2Proof.CmdCtx) (s : State) (hs : Touches M r s) (hm : 0x80005d6 ||| M = M) :
    TouchesR M r (execTblSearch a0 s) := by
  refine TouchesR.step hs ?_ hm
  clear hs hm r M
  unfold execTblSearch
  repeat' first
    | with_reducible assumption
    | (intro _; try dsimp -zeta only)
    | (extract_lets -underBinder +onlyGivenNames x; (have hty : TypeOf x = State := by with_reducible rfl); clear hty; apply Touches.cut 0x80005d6 s x; (case' kk => (clear_value x; intro _)); (case' vv => (unfold x; clear x)))
    | (extract_lets -underBinder +onlyGivenNames x; try clear_value x)
    | with_reducible apply Touches.refl
    | with_reducible apply TouchesR.next
    | with_reducible apply TouchesR.fault
    | with_reducible apply TouchesR.ite
    | with_reducible apply Touches.ite
    | ((with_reducible apply command_touches); (case hm => rfl))
    | ((with_reducible apply complete_touches); (case hm => rfl))
    | ((with_reducible apply drainLearn_touches); (case hm => rfl))
    | split

theorem postLearn_touches {M : Nat} {r : State} (a0 : Nat) (a1 : LearnReq) (s : State) (hs : Touches M r s) (hm : 0x404 ||| M = M) :
    Touches M r (postLearn a0 a1 s) := by
  refine Touches.step hs ?_ hm
  clear hs hm r M
  unfold postLearn
  repeat' first
    | with_reducible assumption
    | with_reducible apply Touches.refl
    | with_reducible apply Touches.ite
    | ((with_reducible apply State.modTab_touches); (case hm => rfl))
    | ((with_reducible apply State.bump_touches); (case hm => rfl))

theorem rehashStart_touches {M : Nat} {r : State} (a0 : Nat) (a1 : Nat) (s : State) (hs : Touches M r s) (hm : 0x408 ||| M = M) :
    Touches M r (rehashStart a0 a1 s) := by
  refine Touches.step hs ?_ hm
  clear hs hm r M
  unfold rehashStart
  repeat' first
    | with_reducible assumption
    | with_reducible apply Touches.refl
    | (extract_lets -underBinder +onlyGivenNames x; (have hty : TypeOf x = State := by with_reducible rfl); clear hty; apply Touches.cut 0x408 s x; (case' kk => (clear_value x; intro _)); (case' vv => (unfold x; clear x)))
    | (extract_lets -underBinder +onlyGivenNames x; try clear_value x)
    | with_reducible apply Touches.ite
    | ((with_reducible apply State.modTab_touches); (case hm => rfl))
    | ((with_reducible apply State.drew_touches); (case hm => rfl))

theorem tableEcc_touches {M : Nat} {r : State} (a0 : Nat) (a1 : Nat) (a2 : Nat) (a3 : Bool) (s : State) (hs : Touches M r s) (hm : 0x5c6 ||| M = M) :
    Touches M r (tableEcc a0 a1 a2 a3 s) := by
  refine Touches.step hs ?_ hm
  clear hs hm r M
  unfold tableEcc
  repeat' first
    | with_reducible assumption
    | with_reducible apply Touches.refl
    | (extract_lets -underBinder +onlyGivenNames x; (have hty : TypeOf x = State := by with_reducible rfl); clear hty; apply Touches.cut 0x5c6 s x; (case' kk => (clear_value x; intro _)); (case' vv => (unfold x; clear x)))
    | (extract_lets -underBinder +onlyGivenNames x; try clear_value x)
    | with_reducible apply Touches.ite
    | ((with_reducible apply State.bump_touches); (case hm => rfl))
    | ((with_reducible apply raise_touches); (case hm => rfl))
    | ((with_reducible apply State.setTab_touches); (case hm => rfl))
    | ((with_reducible apply State.modTab_touches); (case hm => rfl))
    | split

theorem tblRehash_touches {M : Nat} {r : State} (a0 : State → Nat → Bool) (a1 : Sys2Proof.CmdCtx) (s : State) (hs : Touches M r s) (hm : 0x4d8 ||| M = M) :
    Touches M r (tblRehash a0 a1 s) := by
  refine Touches.step hs ?_ hm
  clear hs hm r M
  unfold tblRehash
  repeat' first
    | with_reducible assumption
    | (intro _; try dsimp -zeta only)
    | with_reducible apply Touches.refl
    | with_reducible apply Touches.ite
    | ((with_reducible apply complete_touches); (case hm => rfl))
    | ((with_reducible apply rehashStart_touches); (case hm => rfl))
    | with_reducible apply Touches.foldlD

end Sys2Proof.Machine
end

