-- ==== Sys2Proof/Laws/Fabric.lean ====
section
/-! SUPPORT. What each function of Machine/Fabric.lean touches: one lemma per function that answers a state. -/

set_option linter.tactic.unusedName false

namespace Sys2Proof.Machine

theorem State.modFab_touches {M : Nat} {r : State} (s : State) (a1 : FabSt → FabSt) (hs : Touches M r s) (hm : 0x800000 ||| M = M) :
    Touches M r (State.modFab s a1) := by
  refine Touches.step hs ?_ hm
  clear hs hm r M
  unfold State.modFab
  repeat' first
    | with_reducible assumption
    | with_reducible apply Touches.refl
    | ((with_reducible apply Touches.fab); (case hm => rfl))

theorem takeSeq_touches {M : Nat} {r : State} (a0 : Nat) (s : State) (hs : Touches M r s) (hm : 0x800000 ||| M = M) :
    Touches M r (takeSeq a0 s) := by
  refine Touches.step hs ?_ hm
  clear hs hm r M
  unfold takeSeq
  repeat' first
    | with_reducible assumption
    | with_reducible apply Touches.refl
    | ((with_reducible apply State.modFab_touches); (case hm => rfl))

theorem putRoute_touches {M : Nat} {r : State} (a0 : Nat) (a1 : List Nat) (s : State) (hs : Touches M r s) (hm : 0x400 ||| M = M) :
    Touches M r (putRoute a0 a1 s) := by
  refine Touches.step hs ?_ hm
  clear hs hm r M
  unfold putRoute
  repeat' first
    | with_reducible assumption
    | (intro _; try dsimp -zeta only)
    | with_reducible apply Touches.refl
    | with_reducible apply Touches.ite
    | ((with_reducible apply State.modTab_touches); (case hm => rfl))
    | with_reducible apply Touches.foldlD

theorem destsGone_touches {M : Nat} {r : State} (a0 : Nat) (s : State) (hs : Touches M r s) (hm : 0x1c6 ||| M = M) :
    Touches M r (destsGone a0 s) := by
  refine Touches.step hs ?_ hm
  clear hs hm r M
  unfold destsGone
  repeat' first
    | with_reducible assumption
    | (intro _; try dsimp -zeta only)
    | (extract_lets -underBinder +onlyGivenNames x; try clear_value x)
    | with_reducible apply Touches.refl
    | with_reducible apply Touches.ite
    | ((with_reducible apply destLost_touches); (case hm => rfl))
    | with_reducible apply Touches.foldlD

theorem routeGone_touches {M : Nat} {r : State} (a0 : Nat) (s : State) (hs : Touches M r s) (hm : 0x8005c6 ||| M = M) :
    Touches M r (routeGone a0 s) := by
  refine Touches.step hs ?_ hm
  clear hs hm r M
  unfold routeGone
  repeat' first
    | with_reducible assumption
    | (intro _; try dsimp -zeta only)
    | (extract_lets -underBinder +onlyGivenNames x; (have hty : TypeOf x = State := by with_reducible rfl); clear hty; apply Touches.cut 0x8005c6 s x; (case' kk => (clear_value x; intro _)); (case' vv => (unfold x; clear x)))
    | (extract_lets -underBinder +onlyGivenNames x; try clear_value x)
    | with_reducible apply Touches.refl
    | with_reducible apply Touches.ite
    | ((with_reducible apply putRoute_touches); (case hm => rfl))
    | ((with_reducible apply State.modFab_touches); (case hm => rfl))
    | ((with_reducible apply destsGone_touches); (case hm => rfl))

theorem fabRecompute_touches {M : Nat} {r : State} (s : State) (hs : Touches M r s) (hm : 0x8005c6 ||| M = M) :
    Touches M r (fabRecompute s) := by
  refine Touches.step hs ?_ hm
  clear hs hm r M
  unfold fabRecompute
  repeat' first
    | with_reducible assumption
    | (intro _; try dsimp -zeta only)
    | (extract_lets -underBinder +onlyGivenNames x; (have hty : TypeOf x = State := by with_reducible rfl); clear hty; apply Touches.cut 0x8005c6 s x; (case' kk => (clear_value x; intro _)); (case' vv => (unfold x; clear x)))
    | (extract_lets -underBinder +onlyGivenNames x; try clear_value x)
    | with_reducible apply Touches.refl
    | with_reducible apply Touches.ite
    | ((with_reducible apply putRoute_touches); (case hm => rfl))
    | ((with_reducible apply routeGone_touches); (case hm => rfl))
    | ((with_reducible apply State.modFab_touches); (case hm => rfl))
    | ((with_reducible apply State.setFld_touches); (case hm => rfl))
    | with_reducible apply Touches.foldlD

theorem sendOn_touches {M : Nat} {r : State} (a0 : Nat) (a1 : Nat) (a2 : Sys2Proof.DfpMsg) (s : State) (hs : Touches M r s) (hm : 0x800014 ||| M = M) :
    Touches M r (sendOn a0 a1 a2 s) := by
  refine Touches.step hs ?_ hm
  clear hs hm r M
  unfold sendOn
  repeat' first
    | with_reducible assumption
    | with_reducible apply Touches.refl
    | (extract_lets -underBinder +onlyGivenNames x; (have hty : TypeOf x = State := by with_reducible rfl); clear hty; apply Touches.cut 0x800014 s x; (case' kk => (clear_value x; intro _)); (case' vv => (unfold x; clear x)))
    | (extract_lets -underBinder +onlyGivenNames x; try clear_value x)
    | with_reducible apply Touches.ite
    | ((with_reducible apply State.emit_touches); (case hm => rfl))
    | ((with_reducible apply takeSeq_touches); (case hm => rfl))
    | ((with_reducible apply State.bump_touches); (case hm => rfl))

theorem flood_touches {M : Nat} {r : State} (a0 : Option Nat) (a1 : Sys2Proof.DfpMsg) (s : State) (hs : Touches M r s) (hm : 0x800014 ||| M = M) :
    Touches M r (flood a0 a1 s) := by
  refine Touches.step hs ?_ hm
  clear hs hm r M
  unfold flood
  repeat' first
    | with_reducible assumption
    | (intro _; try dsimp -zeta only)
    | with_reducible apply Touches.refl
    | ((with_reducible apply sendOn_touches); (case hm => rfl))
    | with_reducible apply Touches.foldlD

theorem announceLinks_touches {M : Nat} {r : State} (s : State) (hs : Touches M r s) (hm : 0x8005d6 ||| M = M) :
    Touches M r (announceLinks s) := by
  refine Touches.step hs ?_ hm
  clear hs hm r M
  unfold announceLinks
  repeat' first
    | with_reducible assumption
    | (intro _; try dsimp -zeta only)
    | (extract_lets -underBinder +onlyGivenNames x; (have hty : TypeOf x = State := by with_reducible rfl); clear hty; apply Touches.cut 0x8005d6 s x; (case' kk => (clear_value x; intro _)); (case' vv => (unfold x; clear x)))
    | (extract_lets -underBinder +onlyGivenNames x; try clear_value x)
    | with_reducible apply Touches.refl
    | with_reducible apply Touches.ite
    | ((with_reducible apply State.modFab_touches); (case hm => rfl))
    | ((with_reducible apply fabRecompute_touches); (case hm => rfl))
    | ((with_reducible apply sendOn_touches); (case hm => rfl))
    | ((with_reducible apply flood_touches); (case hm => rfl))
    | with_reducible apply Touches.foldlD

theorem setCoord_touches {M : Nat} {r : State} (a0 : Nat) (a1 : Nat) (s : State) (hs : Touches M r s) (hm : 0x800002 ||| M = M) :
    Touches M r (setCoord a0 a1 s) := by
  refine Touches.step hs ?_ hm
  clear hs hm r M
  unfold setCoord
  repeat' first
    | with_reducible assumption
    | with_reducible apply Touches.refl
    | (extract_lets -underBinder +onlyGivenNames x; (have hty : TypeOf x = State := by with_reducible rfl); clear hty; apply Touches.cut 0x800002 s x; (case' kk => (clear_value x; intro _)); (case' vv => (unfold x; clear x)))
    | (extract_lets -underBinder +onlyGivenNames x; try clear_value x)
    | ((with_reducible apply State.modFab_touches); (case hm => rfl))
    | ((with_reducible apply State.setFld_touches); (case hm => rfl))

theorem coordEvent_touches {M : Nat} {r : State} (a0 : Nat) (s : State) (hs : Touches M r s) (hm : 0x1c6 ||| M = M) :
    Touches M r (coordEvent a0 s) := by
  refine Touches.step hs ?_ hm
  clear hs hm r M
  unfold coordEvent
  repeat' first
    | with_reducible assumption
    | with_reducible apply Touches.refl
    | ((with_reducible apply raise_touches); (case hm => rfl))

theorem sendCoord_touches {M : Nat} {r : State} (s : State) (hs : Touches M r s) (hm : 0x800014 ||| M = M) :
    Touches M r (sendCoord s) := by
  refine Touches.step hs ?_ hm
  clear hs hm r M
  unfold sendCoord
  repeat' first
    | with_reducible assumption
    | with_reducible apply Touches.refl
    | (extract_lets -underBinder +onlyGivenNames x; (have hty : TypeOf x = State := by with_reducible rfl); clear hty; apply Touches.cut 0x800014 s x; (case' kk => (clear_value x; intro _)); (case' vv => (unfold x; clear x)))
    | (extract_lets -underBinder +onlyGivenNames x; try clear_value x)
    | ((with_reducible apply State.modFab_touches); (case hm => rfl))
    | ((with_reducible apply flood_touches); (case hm => rfl))

theorem becomeCoord_touches {M : Nat} {r : State} (a0 : Nat) (s : State) (hs : Touches M r s) (hm : 0x8005d6 ||| M = M) :
    Touches M r (becomeCoord a0 s) := by
  refine Touches.step hs ?_ hm
  clear hs hm r M
  unfold becomeCoord
  repeat' first
    | with_reducible assumption
    | with_reducible apply Touches.refl
    | (extract_lets -underBinder +onlyGivenNames x; (have hty : TypeOf x = State := by with_reducible rfl); clear hty; apply Touches.cut 0x8005d6 s x; (case' kk => (clear_value x; intro _)); (case' vv => (unfold x; clear x)))
    | (extract_lets -underBinder +onlyGivenNames x; try clear_value x)
    | ((with_reducible apply setCoord_touches); (case hm => rfl))
    | ((with_reducible apply coordEvent_touches); (case hm => rfl))
    | ((with_reducible apply sendCoord_touches); (case hm => rfl))
    | ((with_reducible apply fabRecompute_touches); (case hm => rfl))

theorem handoverSeen_touches {M : Nat} {r : State} (s : State) (hs : Touches M r s) (hm : 0x1010000 ||| M = M) :
    TouchesO M r (handoverSeen s) := by
  refine TouchesO.step hs ?_ hm
  clear hs hm r M
  unfold handoverSeen
  repeat' first
    | with_reducible assumption
    | with_reducible apply Touches.refl
    | (extract_lets -underBinder +onlyGivenNames x; (have hty : TypeOf x = State := by with_reducible rfl); clear hty; apply Touches.cut 0x1010000 s x; (case' kk => (clear_value x; intro _)); (case' vv => (unfold x; clear x)))
    | (extract_lets -underBinder +onlyGivenNames x; try clear_value x)
    | with_reducible apply TouchesO.none
    | with_reducible apply TouchesO.some
    | with_reducible apply TouchesO.ite
    | with_reducible apply Touches.ite
    | ((with_reducible apply Touches.mem); (case hm => rfl))
    | ((with_reducible apply Touches.pair); (case hm => rfl))
    | ((with_reducible apply Touches.lit (F := 0x1010000)); (case l1 => with_reducible rfl); (case l2 => with_reducible rfl); (case l3 => with_reducible rfl); (case l4 => with_reducible rfl); (case l5 => rfl); (case hm => rfl); (case ag => (constructor <;> first | exact tb rfl | exact fun _ => rfl)))

theorem setAddr_touches {M : Nat} {r : State} (a0 : Option Nat) (s : State) (hs : Touches M r s) (hm : 0x2 ||| M = M) :
    Touches M r (setAddr a0 s) := by
  refine Touches.step hs ?_ hm
  clear hs hm r M
  unfold setAddr
  repeat' first
    | with_reducible assumption
    | with_reducible apply Touches.refl
    | ((with_reducible apply State.setFld_touches); (case hm => rfl))
    | split

theorem claim_touches {M : Nat} {r : State} (a0 : Sys2Proof.Hello) (s : State) (hs : Touches M r s) (hm : 0x18105d6 ||| M = M) :
    Touches M r (claim a0 s) := by
  refine Touches.step hs ?_ hm
  clear hs hm r M
  unfold claim
  repeat' first
    | with_reducible assumption
    | with_reducible apply Touches.refl
    | (extract_lets -underBinder +onlyGivenNames x; (have hty : TypeOf x = State := by with_reducible rfl); clear hty; apply Touches.cut 0x18105d6 s x; (case' kk => (clear_value x; intro _)); (case' vv => (unfold x; clear x)))
    | (extract_lets -underBinder +onlyGivenNames x; try clear_value x)
    | with_reducible apply Touches.ite
    | ((with_reducible apply handoverSeen_touches); (case hm => rfl))
    | ((with_reducible apply announceLinks_touches); (case hm => rfl))
    | ((with_reducible apply setAddr_touches); (case hm => rfl))
    | ((with_reducible apply State.modFab_touches); (case hm => rfl))
    | ((with_reducible apply raise_touches); (case hm => rfl))
    | ((with_reducible apply TouchesO.get); (case eqn => assumption))
    | with_reducible apply Touches.getD

theorem divergeEvent_touches {M : Nat} {r : State} (a0 : Nat × Nat × Nat) (a1 : Nat) (s : State) (hs : Touches M r s) (hm : 0x1c6 ||| M = M) :
    Touches M r (divergeEvent a0 a1 s) := by
  refine Touches.step hs ?_ hm
  clear hs hm r M
  unfold divergeEvent
  repeat' first
    | with_reducible assumption
    | with_reducible apply Touches.refl
    | (extract_lets -underBinder +onlyGivenNames x; (have hty : TypeOf x = State := by with_reducible rfl); clear hty; apply Touches.cut 0x1c6 s x; (case' kk => (clear_value x; intro _)); (case' vv => (unfold x; clear x)))
    | (extract_lets -underBinder +onlyGivenNames x; try clear_value x)
    | ((with_reducible apply raise_touches); (case hm => rfl))

theorem sendTo_touches {M : Nat} {r : State} (a0 : Nat) (a1 : Sys2Proof.DfpMsg) (s : State) (hs : Touches M r s) (hm : 0x800014 ||| M = M) :
    Touches M r (sendTo a0 a1 s) := by
  refine Touches.step hs ?_ hm
  clear hs hm r M
  unfold sendTo
  repeat' first
    | with_reducible assumption
    | with_reducible apply Touches.refl
    | ((with_reducible apply sendOn_touches); (case hm => rfl))
    | split

theorem compareGossip_touches {M : Nat} {r : State} (s : State) (hs : Touches M r s) (hm : 0x8001d6 ||| M = M) :
    Touches M r (compareGossip s) := by
  refine Touches.step hs ?_ hm
  clear hs hm r M
  unfold compareGossip
  repeat' first
    | with_reducible assumption
    | (intro _; try dsimp -zeta only)
    | (extract_lets -underBinder +onlyGivenNames x; (have hty : TypeOf x = State := by with_reducible rfl); clear hty; apply Touches.cut 0x8001d6 s x; (case' kk => (clear_value x; intro _)); (case' vv => (unfold x; clear x)))
    | (extract_lets -underBinder +onlyGivenNames x; try clear_value x)
    | with_reducible apply Touches.refl
    | with_reducible apply Touches.ite
    | ((with_reducible apply State.modFab_touches); (case hm => rfl))
    | ((with_reducible apply divergeEvent_touches); (case hm => rfl))
    | ((with_reducible apply sendTo_touches); (case hm => rfl))
    | with_reducible apply Touches.foldlD

theorem showNbr_touches {M : Nat} {r : State} (a0 : Nat) (s : State) (hs : Touches M r s) (hm : 0x2 ||| M = M) :
    Touches M r (showNbr a0 s) := by
  refine Touches.step hs ?_ hm
  clear hs hm r M
  unfold showNbr
  repeat' first
    | with_reducible assumption
    | with_reducible apply Touches.refl
    | (extract_lets -underBinder +onlyGivenNames x; (have hty : TypeOf x = State := by with_reducible rfl); clear hty; apply Touches.cut 0x2 s x; (case' kk => (clear_value x; intro _)); (case' vv => (unfold x; clear x)))
    | (extract_lets -underBinder +onlyGivenNames x; try clear_value x)
    | with_reducible apply Touches.ite
    | ((with_reducible apply State.setFld_touches); (case hm => rfl))
    | ((with_reducible apply State.setReg_touches); (case hm => rfl))
    | split

theorem linkEvent_touches {M : Nat} {r : State} (a0 : Nat) (a1 : Nat) (a2 : Nat) (a3 : Nat) (s : State) (hs : Touches M r s) (hm : 0x1c6 ||| M = M) :
    Touches M r (linkEvent a0 a1 a2 a3 s) := by
  refine Touches.step hs ?_ hm
  clear hs hm r M
  unfold linkEvent
  repeat' first
    | with_reducible assumption
    | with_reducible apply Touches.refl
    | ((with_reducible apply raise_touches); (case hm => rfl))

theorem nbrLost_touches {M : Nat} {r : State} (a0 : Nat) (a1 : Nat) (s : State) (hs : Touches M r s) (hm : 0x8005d6 ||| M = M) :
    Touches M r (nbrLost a0 a1 s) := by
  refine Touches.step hs ?_ hm
  clear hs hm r M
  unfold nbrLost
  repeat' first
    | with_reducible assumption
    | with_reducible apply Touches.refl
    | (extract_lets -underBinder +onlyGivenNames x; (have hty : TypeOf x = State := by with_reducible rfl); clear hty; apply Touches.cut 0x8005d6 s x; (case' kk => (clear_value x; intro _)); (case' vv => (unfold x; clear x)))
    | (extract_lets -underBinder +onlyGivenNames x; try clear_value x)
    | with_reducible apply Touches.ite
    | ((with_reducible apply showNbr_touches); (case hm => rfl))
    | ((with_reducible apply State.modFab_touches); (case hm => rfl))
    | ((with_reducible apply announceLinks_touches); (case hm => rfl))
    | ((with_reducible apply linkEvent_touches); (case hm => rfl))
    | split

theorem tellDb_touches {M : Nat} {r : State} (a0 : Nat) (s : State) (hs : Touches M r s) (hm : 0x800014 ||| M = M) :
    Touches M r (tellDb a0 s) := by
  refine Touches.step hs ?_ hm
  clear hs hm r M
  unfold tellDb
  repeat' first
    | with_reducible assumption
    | (intro _; try dsimp -zeta only)
    | with_reducible apply Touches.refl
    | ((with_reducible apply sendOn_touches); (case hm => rfl))
    | with_reducible apply Touches.foldlD

theorem helloIn_touches {M : Nat} {r : State} (a0 : Nat) (a1 : Sys2Proof.Hello) (s : State) (hs : Touches M r s) (hm : 0x18105d6 ||| M = M) :
    Touches M r (helloIn a0 a1 s) := by
  refine Touches.step hs ?_ hm
  clear hs hm r M
  unfold helloIn
  repeat' first
    | with_reducible assumption
    | with_reducible apply Touches.refl
    | (extract_lets -underBinder +onlyGivenNames x; (have hty : TypeOf x = State := by with_reducible rfl); clear hty; apply Touches.cut 0x18105d6 s x; (case' kk => (clear_value x; intro _)); (case' vv => (unfold x; clear x)))
    | (extract_lets -underBinder +onlyGivenNames x; try clear_value x)
    | with_reducible apply Touches.ite
    | ((with_reducible apply nbrLost_touches); (case hm => rfl))
    | ((with_reducible apply State.modFab_touches); (case hm => rfl))
    | ((with_reducible apply claim_touches); (case hm => rfl))
    | ((with_reducible apply showNbr_touches); (case hm => rfl))
    | ((with_reducible apply tellDb_touches); (case hm => rfl))
    | ((with_reducible apply announceLinks_touches); (case hm => rfl))
    | ((with_reducible apply linkEvent_touches); (case hm => rfl))
    | split
    | (dsimp -zeta +zetaDelta only)

theorem judgeSize_touches {M : Nat} {r : State} (s : State) (hs : Touches M r s) (hm : 0x800014 ||| M = M) :
    Touches M r (judgeSize s) := by
  refine Touches.step hs ?_ hm
  clear hs hm r M
  unfold judgeSize
  repeat' first
    | with_reducible assumption
    | with_reducible apply Touches.refl
    | (extract_lets -underBinder +onlyGivenNames x; (have hty : TypeOf x = State := by with_reducible rfl); clear hty; apply Touches.cut 0x800014 s x; (case' kk => (clear_value x; intro _)); (case' vv => (unfold x; clear x)))
    | (extract_lets -underBinder +onlyGivenNames x; try clear_value x)
    | with_reducible apply Touches.ite
    | ((with_reducible apply State.modFab_touches); (case hm => rfl))
    | ((with_reducible apply sendCoord_touches); (case hm => rfl))
    | split

theorem keepSuccessor_touches {M : Nat} {r : State} (s : State) (hs : Touches M r s) (hm : 0x8001d6 ||| M = M) :
    Touches M r (keepSuccessor s) := by
  refine Touches.step hs ?_ hm
  clear hs hm r M
  unfold keepSuccessor
  repeat' first
    | with_reducible assumption
    | with_reducible apply Touches.refl
    | (extract_lets -underBinder +onlyGivenNames x; (have hty : TypeOf x = State := by with_reducible rfl); clear hty; apply Touches.cut 0x8001d6 s x; (case' kk => (clear_value x; intro _)); (case' vv => (unfold x; clear x)))
    | (extract_lets -underBinder +onlyGivenNames x; try clear_value x)
    | with_reducible apply Touches.ite
    | ((with_reducible apply sendCoord_touches); (case hm => rfl))
    | ((with_reducible apply coordEvent_touches); (case hm => rfl))
    | ((with_reducible apply setCoord_touches); (case hm => rfl))

theorem relay_touches {M : Nat} {r : State} (a0 : Nat) (a1 : Sys2Proof.DfpMsg) (s : State) (hs : Touches M r s) (hm : 0x800014 ||| M = M) :
    Touches M r (relay a0 a1 s) := by
  refine Touches.step hs ?_ hm
  clear hs hm r M
  unfold relay
  repeat' first
    | with_reducible assumption
    | with_reducible apply Touches.refl
    | ((with_reducible apply sendTo_touches); (case hm => rfl))
    | ((with_reducible apply State.bump_touches); (case hm => rfl))

theorem takeSeat_touches {M : Nat} {r : State} (s : State) (hs : Touches M r s) (hm : 0x8005d6 ||| M = M) :
    Touches M r (takeSeat s) := by
  refine Touches.step hs ?_ hm
  clear hs hm r M
  unfold takeSeat
  repeat' first
    | with_reducible assumption
    | with_reducible apply Touches.refl
    | (extract_lets -underBinder +onlyGivenNames x; (have hty : TypeOf x = State := by with_reducible rfl); clear hty; apply Touches.cut 0x8005d6 s x; (case' kk => (clear_value x; intro _)); (case' vv => (unfold x; clear x)))
    | (extract_lets -underBinder +onlyGivenNames x; try clear_value x)
    | with_reducible apply Touches.ite
    | ((with_reducible apply State.modFab_touches); (case hm => rfl))
    | ((with_reducible apply announceLinks_touches); (case hm => rfl))
    | ((with_reducible apply setAddr_touches); (case hm => rfl))
    | split

theorem takeSize_touches {M : Nat} {r : State} (a0 : Bool) (s : State) (hs : Touches M r s) (hm : 0x21d6 ||| M = M) :
    Touches M r (takeSize a0 s) := by
  refine Touches.step hs ?_ hm
  clear hs hm r M
  unfold takeSize
  repeat' first
    | with_reducible assumption
    | with_reducible apply Touches.refl
    | ((with_reducible apply pfcUpdate_touches); (case hm => rfl))
    | with_reducible apply Touches.ite
    | ((with_reducible apply raise_touches); (case hm => rfl))
    | ((with_reducible apply State.setFld_touches); (case hm => rfl))

end Sys2Proof.Machine
end

