-- ==== Sys2Proof/Laws/Paths.lean ====
section
/-! SUPPORT. What each function of Machine/Paths.lean touches: one lemma per function that answers a state. -/

set_option linter.tactic.unusedName false

namespace Sys2Proof.Machine

theorem statesSaid_touches {M : Nat} {r : State} (a0 : Nat) (a1 : Bool) (a2 : Bool) (a3 : Bool) (s : State) (hs : Touches M r s) (hm : 0x20000 ||| M = M) :
    Touches M r (statesSaid a0 a1 a2 a3 s) := by
  refine Touches.step hs ?_ hm
  clear hs hm r M
  unfold statesSaid
  repeat' first
    | with_reducible assumption
    | with_reducible apply Touches.refl
    | ((with_reducible apply State.modStream_touches); (case hm => rfl))

theorem sendStates_touches {M : Nat} {r : State} (a0 : AdmRec) (s : State) (hs : Touches M r s) (hm : 0x820014 ||| M = M) :
    Touches M r (sendStates a0 s) := by
  refine Touches.step hs ?_ hm
  clear hs hm r M
  unfold sendStates
  repeat' first
    | with_reducible assumption
    | (intro _; try dsimp -zeta only)
    | (extract_lets -underBinder +onlyGivenNames x; (have hty : TypeOf x = State := by with_reducible rfl); clear hty; apply Touches.cut 0x820014 s x; (case' kk => (clear_value x; intro _)); (case' vv => (unfold x; clear x)))
    | (extract_lets -underBinder +onlyGivenNames x; try clear_value x)
    | with_reducible apply Touches.refl
    | with_reducible apply Touches.ite
    | ((with_reducible apply statesSaid_touches); (case hm => rfl))
    | ((with_reducible apply sendTo_touches); (case hm => rfl))
    | with_reducible apply Touches.foldlD

theorem admPut_touches {M : Nat} {r : State} (a0 : AdmRec) (a1 : Bool) (s : State) (hs : Touches M r s) (hm : 0x820014 ||| M = M) :
    Touches M r (admPut a0 a1 s) := by
  refine Touches.step hs ?_ hm
  clear hs hm r M
  unfold admPut
  repeat' first
    | with_reducible assumption
    | with_reducible apply Touches.refl
    | (extract_lets -underBinder +onlyGivenNames x; (have hty : TypeOf x = State := by with_reducible rfl); clear hty; apply Touches.cut 0x820014 s x; (case' kk => (clear_value x; intro _)); (case' vv => (unfold x; clear x)))
    | (extract_lets -underBinder +onlyGivenNames x; try clear_value x)
    | with_reducible apply Touches.ite
    | ((with_reducible apply State.modFab_touches); (case hm => rfl))
    | ((with_reducible apply sendTo_touches); (case hm => rfl))
    | ((with_reducible apply sendStates_touches); (case hm => rfl))
    | split

theorem admReport_touches {M : Nat} {r : State} (a0 : Nat) (a1 : Sys2Proof.Bytes) (a2 : List Sys2Proof.PathRec) (a3 : Bool) (a4 : Bool) (a5 : Bool) (s : State) (hs : Touches M r s) (hm : 0x820014 ||| M = M) :
    Touches M r (admReport a0 a1 a2 a3 a4 a5 s) := by
  refine Touches.step hs ?_ hm
  clear hs hm r M
  unfold admReport
  repeat' first
    | with_reducible assumption
    | with_reducible apply Touches.refl
    | (extract_lets -underBinder +onlyGivenNames x; (have hty : TypeOf x = State := by with_reducible rfl); clear hty; apply Touches.cut 0x820014 s x; (case' kk => (clear_value x; intro _)); (case' vv => (unfold x; clear x)))
    | (extract_lets -underBinder +onlyGivenNames x; try clear_value x)
    | ((with_reducible apply admPut_touches); (case hm => rfl))

theorem reportStream_touches {M : Nat} {r : State} (a0 : Stream) (a1 : Bool) (a2 : Bool) (a3 : Bool) (s : State) (hs : Touches M r s) (hm : 0x820014 ||| M = M) :
    Touches M r (reportStream a0 a1 a2 a3 s) := by
  refine Touches.step hs ?_ hm
  clear hs hm r M
  unfold reportStream
  repeat' first
    | with_reducible assumption
    | with_reducible apply Touches.refl
    | with_reducible apply Touches.ite
    | ((with_reducible apply admReport_touches); (case hm => rfl))
    | ((with_reducible apply sendTo_touches); (case hm => rfl))

end Sys2Proof.Machine
end

