-- ==== Sys2Proof/Laws/Admission.lean ====
section
/-! SUPPORT. What each function of Machine/Admission.lean touches: one lemma per function that answers a state. -/

set_option linter.tactic.unusedName false

namespace Sys2Proof.Machine

theorem pathRefused_touches {M : Nat} {r : State} (a0 : Sys2Proof.CmdCtx) (a1 : Nat) (a2 : Nat) (s : State) (hs : Touches M r s) (hm : 0x1d6 ||| M = M) :
    Touches M r (pathRefused a0 a1 a2 s) := by
  refine Touches.step hs ?_ hm
  clear hs hm r M
  unfold pathRefused
  repeat' first
    | with_reducible assumption
    | with_reducible apply Touches.refl
    | ((with_reducible apply complete_touches); (case hm => rfl))
    | ((with_reducible apply raise_touches); (case hm => rfl))

theorem sidHops_touches {M : Nat} {r : State} (a0 : Nat) (a1 : Nat) (a2 : Stream) (s : State) (hs : Touches M r s) (hm : 0x400 ||| M = M) :
    Touches M r (sidHops a0 a1 a2 s) := by
  refine Touches.step hs ?_ hm
  clear hs hm r M
  unfold sidHops
  repeat' first
    | with_reducible assumption
    | (intro _; try dsimp -zeta only)
    | with_reducible apply Touches.refl
    | with_reducible apply Touches.ite
    | ((with_reducible apply State.modTab_touches); (case hm => rfl))
    | with_reducible apply Touches.foldlD

theorem tellMismatch_touches {M : Nat} {r : State} (a0 : Nat) (a1 : Nat) (a2 : Nat) (s : State) (hs : Touches M r s) (hm : 0x1c6 ||| M = M) :
    Touches M r (tellMismatch a0 a1 a2 s) := by
  refine Touches.step hs ?_ hm
  clear hs hm r M
  unfold tellMismatch
  repeat' first
    | with_reducible assumption
    | with_reducible apply Touches.refl
    | ((with_reducible apply raise_touches); (case hm => rfl))

theorem partsLost_touches {M : Nat} {r : State} (a0 : Nat) (a1 : Nat) (a2 : List Part) (s : State) (hs : Touches M r s) (hm : 0x30004 ||| M = M) :
    Touches M r (partsLost a0 a1 a2 s) := by
  refine Touches.step hs ?_ hm
  clear hs hm r M
  unfold partsLost
  repeat' first
    | with_reducible assumption
    | (intro _; try dsimp -zeta only)
    | with_reducible apply Touches.refl
    | ((with_reducible apply faultDiscard_touches); (case hm => rfl))
    | with_reducible apply Touches.foldlD

theorem purgeBatch_touches {M : Nat} {r : State} (a0 : Nat) (a1 : Nat) (s : State) (hs : Touches M r s) (hm : 0xb21d6 ||| M = M) :
    Touches M r (purgeBatch a0 a1 s) := by
  refine Touches.step hs ?_ hm
  clear hs hm r M
  unfold purgeBatch
  repeat' first
    | with_reducible assumption
    | with_reducible apply Touches.refl
    | (extract_lets -underBinder +onlyGivenNames x; (have hty : TypeOf x = State := by with_reducible rfl); clear hty; apply Touches.cut 0xb21d6 s x; (case' kk => (clear_value x; intro _)); (case' vv => (unfold x; clear x)))
    | (extract_lets -underBinder +onlyGivenNames x; try clear_value x)
    | with_reducible apply Touches.ite
    | ((with_reducible apply partsLost_touches); (case hm => rfl))
    | ((with_reducible apply release_touches); (case hm => rfl))
    | ((with_reducible apply State.modGw_touches); (case hm => rfl))
    | split

theorem purgeQueue_touches {M : Nat} {r : State} (a0 : Nat) (a1 : Nat) (s : State) (hs : Touches M r s) (hm : 0x321d6 ||| M = M) :
    Touches M r (purgeQueue a0 a1 s) := by
  refine Touches.step hs ?_ hm
  clear hs hm r M
  unfold purgeQueue
  repeat' first
    | with_reducible assumption
    | (intro _; try dsimp -zeta only)
    | (extract_lets -underBinder +onlyGivenNames x; (have hty : TypeOf x = State := by with_reducible rfl); clear hty; apply Touches.cut 0x321d6 s x; (case' kk => (clear_value x; intro _)); (case' vv => (unfold x; clear x)))
    | (extract_lets -underBinder +onlyGivenNames x; try clear_value x)
    | with_reducible apply Touches.refl
    | with_reducible apply Touches.ite
    | ((with_reducible apply discardAll_touches); (case hm => rfl))
    | ((with_reducible apply keepInQueue_touches); (case hm => rfl))
    | ((with_reducible apply putBuf_touches); (case hm => rfl))
    | ((with_reducible apply partsLost_touches); (case hm => rfl))
    | with_reducible apply Touches.foldlD
    | split

theorem forgetEpoch_touches {M : Nat} {r : State} (a0 : Nat) (s : State) (hs : Touches M r s) (hm : 0x2000000 ||| M = M) :
    Touches M r (forgetEpoch a0 s) := by
  refine Touches.step hs ?_ hm
  clear hs hm r M
  unfold forgetEpoch
  repeat' first
    | with_reducible assumption
    | with_reducible apply Touches.refl
    | (extract_lets -underBinder +onlyGivenNames x; (have hty : TypeOf x = State := by with_reducible rfl); clear hty; apply Touches.cut 0x2000000 s x; (case' kk => (clear_value x; intro _)); (case' vv => (unfold x; clear x)))
    | (extract_lets -underBinder +onlyGivenNames x; try clear_value x)
    | ((with_reducible apply Touches.flash); (case hm => rfl))

theorem withStreams_touches {M : Nat} {r : State} (a0 : Keyed Stream) (s : State) (hs : Touches M r s) (hm : 0x221d6 ||| M = M) :
    Touches M r (withStreams a0 s) := by
  refine Touches.step hs ?_ hm
  clear hs hm r M
  unfold withStreams
  repeat' first
    | with_reducible assumption
    | with_reducible apply Touches.refl
    | (extract_lets -underBinder +onlyGivenNames x; (have hty : TypeOf x = State := by with_reducible rfl); clear hty; apply Touches.cut 0x221d6 s x; (case' kk => (clear_value x; intro _)); (case' vv => (unfold x; clear x)))
    | (extract_lets -underBinder +onlyGivenNames x; try clear_value x)
    | ((with_reducible apply sillAll_touches); (case hm => rfl))
    | ((with_reducible apply settleEnergy_touches); (case hm => rfl))
    | ((with_reducible apply Touches.streams); (case hm => rfl))

theorem State.putStream_touches {M : Nat} {r : State} (s : State) (a1 : Nat) (a2 : Stream) (hs : Touches M r s) (hm : 0x221d6 ||| M = M) :
    Touches M r (State.putStream s a1 a2) := by
  refine Touches.step hs ?_ hm
  clear hs hm r M
  unfold State.putStream
  repeat' first
    | with_reducible assumption
    | with_reducible apply Touches.refl
    | ((with_reducible apply withStreams_touches); (case hm => rfl))

theorem sendAdm_touches {M : Nat} {r : State} (a0 : Nat) (a1 : Sys2Proof.AdmMsg) (s : State) (hs : Touches M r s) (hm : 0x800014 ||| M = M) :
    Touches M r (sendAdm a0 a1 s) := by
  refine Touches.step hs ?_ hm
  clear hs hm r M
  unfold sendAdm
  repeat' first
    | with_reducible assumption
    | with_reducible apply Touches.refl
    | ((with_reducible apply sendOn_touches); (case hm => rfl))

theorem answerStream_touches {M : Nat} {r : State} (a0 : Stream) (a1 : Nat) (a2 : Sys2Proof.Bytes) (s : State) (hs : Touches M r s) (hm : 0xd0 ||| M = M) :
    Touches M r (answerStream a0 a1 a2 s) := by
  refine Touches.step hs ?_ hm
  clear hs hm r M
  unfold answerStream
  repeat' first
    | with_reducible assumption
    | with_reducible apply Touches.refl
    | ((with_reducible apply complete_touches); (case hm => rfl))
    | split

theorem rerunRefused_touches {M : Nat} {r : State} (a0 : Nat) (a1 : Nat) (a2 : Bool) (s : State) (hs : Touches M r s) (hm : 0x8221d6 ||| M = M) :
    Touches M r (rerunRefused a0 a1 a2 s) := by
  refine Touches.step hs ?_ hm
  clear hs hm r M
  unfold rerunRefused
  repeat' first
    | with_reducible assumption
    | with_reducible apply Touches.refl
    | (extract_lets -underBinder +onlyGivenNames x; (have hty : TypeOf x = State := by with_reducible rfl); clear hty; apply Touches.cut 0x8221d6 s x; (case' kk => (clear_value x; intro _)); (case' vv => (unfold x; clear x)))
    | (extract_lets -underBinder +onlyGivenNames x; try clear_value x)
    | with_reducible apply Touches.ite
    | ((with_reducible apply sendAdm_touches); (case hm => rfl))
    | ((with_reducible apply State.putStream_touches); (case hm => rfl))
    | ((with_reducible apply raise_touches); (case hm => rfl))
    | ((with_reducible apply answerStream_touches); (case hm => rfl))
    | ((with_reducible apply reportStream_touches); (case hm => rfl))
    | split

theorem takeHops_touches {M : Nat} {r : State} (a0 : Nat) (a1 : Nat) (s : State) (hs : Touches M r s) (hm : 0x8221d6 ||| M = M) :
    Touches M r (takeHops a0 a1 s) := by
  refine Touches.step hs ?_ hm
  clear hs hm r M
  unfold takeHops
  repeat' first
    | with_reducible assumption
    | (intro _; try dsimp -zeta only)
    | (extract_lets -underBinder +onlyGivenNames x; (have hty : TypeOf x = State := by with_reducible rfl); clear hty; apply Touches.cut 0x8221d6 s x; (case' kk => (clear_value x; intro _)); (case' vv => (unfold x; clear x)))
    | (extract_lets -underBinder +onlyGivenNames x; try clear_value x)
    | with_reducible apply Touches.refl
    | with_reducible apply Touches.ite
    | ((with_reducible apply sendAdm_touches); (case hm => rfl))
    | ((with_reducible apply State.putStream_touches); (case hm => rfl))
    | with_reducible apply Touches.foldlD
    | split

theorem rerunDone_touches {M : Nat} {r : State} (a0 : Nat) (s : State) (hs : Touches M r s) (hm : 0x8221d6 ||| M = M) :
    Touches M r (rerunDone a0 s) := by
  refine Touches.step hs ?_ hm
  clear hs hm r M
  unfold rerunDone
  repeat' first
    | with_reducible assumption
    | with_reducible apply Touches.refl
    | (extract_lets -underBinder +onlyGivenNames x; (have hty : TypeOf x = State := by with_reducible rfl); clear hty; apply Touches.cut 0x8221d6 s x; (case' kk => (clear_value x; intro _)); (case' vv => (unfold x; clear x)))
    | (extract_lets -underBinder +onlyGivenNames x; try clear_value x)
    | with_reducible apply Touches.ite
    | ((with_reducible apply takeHops_touches); (case hm => rfl))
    | ((with_reducible apply State.putStream_touches); (case hm => rfl))
    | ((with_reducible apply answerStream_touches); (case hm => rfl))
    | ((with_reducible apply reportStream_touches); (case hm => rfl))
    | split

theorem dropTables_touches {M : Nat} {r : State} (a0 : Nat) (s : State) (hs : Touches M r s) (hm : 0x400 ||| M = M) :
    Touches M r (dropTables a0 s) := by
  refine Touches.step hs ?_ hm
  clear hs hm r M
  unfold dropTables
  repeat' first
    | with_reducible assumption
    | (intro _; try dsimp -zeta only)
    | (extract_lets -underBinder +onlyGivenNames x; (have hty : TypeOf x = State := by with_reducible rfl); clear hty; apply Touches.cut 0x400 s x; (case' kk => (clear_value x; intro _)); (case' vv => (unfold x; clear x)))
    | (extract_lets -underBinder +onlyGivenNames x; try clear_value x)
    | with_reducible apply Touches.refl
    | ((with_reducible apply State.modTab_touches); (case hm => rfl))
    | with_reducible apply Touches.foldlD

theorem purge_touches {M : Nat} {r : State} (a0 : Nat) (s : State) (hs : Touches M r s) (hm : 0xb21d6 ||| M = M) :
    Touches M r (purge a0 s) := by
  refine Touches.step hs ?_ hm
  clear hs hm r M
  unfold purge
  repeat' first
    | with_reducible assumption
    | (intro _; try dsimp -zeta only)
    | (extract_lets -underBinder +onlyGivenNames x; (have hty : TypeOf x = State := by with_reducible rfl); clear hty; apply Touches.cut 0xb21d6 s x; (case' kk => (clear_value x; intro _)); (case' vv => (unfold x; clear x)))
    | (extract_lets -underBinder +onlyGivenNames x; try clear_value x)
    | with_reducible apply Touches.refl
    | ((with_reducible apply purgeQueue_touches); (case hm => rfl))
    | ((with_reducible apply loadedDrop_touches); (case hm => rfl))
    | ((with_reducible apply purgeBatch_touches); (case hm => rfl))
    | ((with_reducible apply batchDiscard_touches); (case hm => rfl))
    | ((with_reducible apply keepInQueue_touches); (case hm => rfl))
    | ((with_reducible apply discardAll_touches); (case hm => rfl))
    | ((with_reducible apply State.setQueue_touches); (case hm => rfl))
    | ((with_reducible apply release_touches); (case hm => rfl))
    | with_reducible apply Touches.foldlD
    | split
    | ((with_reducible apply Touches.mem); (case hm => rfl))

theorem freeStream_touches {M : Nat} {r : State} (a0 : Nat) (s : State) (hs : Touches M r s) (hm : 0xb25d6 ||| M = M) :
    Touches M r (freeStream a0 s) := by
  refine Touches.step hs ?_ hm
  clear hs hm r M
  unfold freeStream
  repeat' first
    | with_reducible assumption
    | with_reducible apply Touches.refl
    | (extract_lets -underBinder +onlyGivenNames x; (have hty : TypeOf x = State := by with_reducible rfl); clear hty; apply Touches.cut 0xb25d6 s x; (case' kk => (clear_value x; intro _)); (case' vv => (unfold x; clear x)))
    | (extract_lets -underBinder +onlyGivenNames x; try clear_value x)
    | ((with_reducible apply dropTables_touches); (case hm => rfl))
    | ((with_reducible apply purge_touches); (case hm => rfl))
    | ((with_reducible apply withStreams_touches); (case hm => rfl))

theorem withdrawPaths_touches {M : Nat} {r : State} (a0 : Nat) (a1 : Stream) (s : State) (hs : Touches M r s) (hm : 0x800014 ||| M = M) :
    Touches M r (withdrawPaths a0 a1 s) := by
  refine Touches.step hs ?_ hm
  clear hs hm r M
  unfold withdrawPaths
  repeat' first
    | with_reducible assumption
    | (intro _; try dsimp -zeta only)
    | with_reducible apply Touches.refl
    | ((with_reducible apply sendAdm_touches); (case hm => rfl))
    | with_reducible apply Touches.foldlD

theorem commitFailed_touches {M : Nat} {r : State} (a0 : Nat) (s : State) (hs : Touches M r s) (hm : 0x8b25d6 ||| M = M) :
    Touches M r (commitFailed a0 s) := by
  refine Touches.step hs ?_ hm
  clear hs hm r M
  unfold commitFailed
  repeat' first
    | with_reducible assumption
    | with_reducible apply Touches.refl
    | ((with_reducible apply answerStream_touches); (case hm => rfl))
    | ((with_reducible apply reportStream_touches); (case hm => rfl))
    | ((with_reducible apply freeStream_touches); (case hm => rfl))
    | ((with_reducible apply withdrawPaths_touches); (case hm => rfl))
    | split

theorem ownedEntry_touches {M : Nat} {r : State} (a0 : Nat) (a1 : Stream) (s : State) (hs : Touches M r s) (hm : 0x5c6 ||| M = M) :
    Touches M r (ownedEntry a0 a1 s) := by
  refine Touches.step hs ?_ hm
  clear hs hm r M
  unfold ownedEntry
  repeat' first
    | with_reducible assumption
    | (intro _; try dsimp -zeta only)
    | (extract_lets -underBinder +onlyGivenNames x; (have hty : TypeOf x = State := by with_reducible rfl); clear hty; apply Touches.cut 0x5c6 s x; (case' kk => (clear_value x; intro _)); (case' vv => (unfold x; clear x)))
    | (extract_lets -underBinder +onlyGivenNames x; try clear_value x)
    | with_reducible apply Touches.refl
    | with_reducible apply Touches.ite
    | ((with_reducible apply tblWrite_touches); (case hm => rfl))
    | with_reducible apply Touches.foldlD
    | ((with_reducible apply Touches.fst); (case eqn => assumption))

theorem commitDone_touches {M : Nat} {r : State} (a0 : Nat) (s : State) (hs : Touches M r s) (hm : 0x28225d6 ||| M = M) :
    Touches M r (commitDone a0 s) := by
  refine Touches.step hs ?_ hm
  clear hs hm r M
  unfold commitDone
  repeat' first
    | with_reducible assumption
    | with_reducible apply Touches.refl
    | (extract_lets -underBinder +onlyGivenNames x; (have hty : TypeOf x = State := by with_reducible rfl); clear hty; apply Touches.cut 0x28225d6 s x; (case' kk => (clear_value x; intro _)); (case' vv => (unfold x; clear x)))
    | (extract_lets -underBinder +onlyGivenNames x; try clear_value x)
    | ((with_reducible apply State.modTab_touches); (case hm => rfl))
    | ((with_reducible apply ownedEntry_touches); (case hm => rfl))
    | ((with_reducible apply State.putStream_touches); (case hm => rfl))
    | ((with_reducible apply answerStream_touches); (case hm => rfl))
    | ((with_reducible apply reportStream_touches); (case hm => rfl))
    | split
    | ((with_reducible apply Touches.flash); (case hm => rfl))

theorem admAckIn_touches {M : Nat} {r : State} (a0 : Nat) (a1 : Nat) (a2 : Nat) (a3 : Bool) (s : State) (hs : Touches M r s) (hm : 0x28b25d6 ||| M = M) :
    Touches M r (admAckIn a0 a1 a2 a3 s) := by
  refine Touches.step hs ?_ hm
  clear hs hm r M
  unfold admAckIn
  repeat' first
    | with_reducible assumption
    | with_reducible apply Touches.refl
    | (extract_lets -underBinder +onlyGivenNames x; (have hty : TypeOf x = State := by with_reducible rfl); clear hty; apply Touches.cut 0x28b25d6 s x; (case' kk => (clear_value x; intro _)); (case' vv => (unfold x; clear x)))
    | (extract_lets -underBinder +onlyGivenNames x; try clear_value x)
    | with_reducible apply Touches.ite
    | ((with_reducible apply sendAdm_touches); (case hm => rfl))
    | ((with_reducible apply rerunRefused_touches); (case hm => rfl))
    | ((with_reducible apply State.putStream_touches); (case hm => rfl))
    | ((with_reducible apply rerunDone_touches); (case hm => rfl))
    | ((with_reducible apply commitFailed_touches); (case hm => rfl))
    | ((with_reducible apply commitDone_touches); (case hm => rfl))
    | split

theorem installHop_touches {M : Nat} {r : State} (a0 : Nat) (a1 : Nat) (a2 : Nat) (a3 : Nat) (a4 : Stream) (s : State) (hs : Touches M r s) (hm : 0x225d6 ||| M = M) :
    Touches M r (installHop a0 a1 a2 a3 a4 s) := by
  refine Touches.step hs ?_ hm
  clear hs hm r M
  unfold installHop
  repeat' first
    | with_reducible assumption
    | with_reducible apply Touches.refl
    | (extract_lets -underBinder +onlyGivenNames x; (have hty : TypeOf x = State := by with_reducible rfl); clear hty; apply Touches.cut 0x225d6 s x; (case' kk => (clear_value x; intro _)); (case' vv => (unfold x; clear x)))
    | (extract_lets -underBinder +onlyGivenNames x; try clear_value x)
    | with_reducible apply Touches.ite
    | ((with_reducible apply ownedEntry_touches); (case hm => rfl))
    | ((with_reducible apply sidHops_touches); (case hm => rfl))
    | ((with_reducible apply State.putStream_touches); (case hm => rfl))

theorem admCommitIn_touches {M : Nat} {r : State} (a0 : Nat) (a1 : Nat) (a2 : Nat) (a3 : Nat) (a4 : Nat) (s : State) (hs : Touches M r s) (hm : 0x8225d6 ||| M = M) :
    Touches M r (admCommitIn a0 a1 a2 a3 a4 s) := by
  refine Touches.step hs ?_ hm
  clear hs hm r M
  unfold admCommitIn
  repeat' first
    | with_reducible assumption
    | with_reducible apply Touches.refl
    | ((with_reducible apply sidHops_touches); (case hm => rfl))
    | (extract_lets -underBinder +onlyGivenNames x; (have hty : TypeOf x = State := by with_reducible rfl); clear hty; apply Touches.cut 0x8225d6 s x; (case' kk => (clear_value x; intro _)); (case' vv => (unfold x; clear x)))
    | (extract_lets -underBinder +onlyGivenNames x; try clear_value x)
    | with_reducible apply Touches.ite
    | ((with_reducible apply sendAdm_touches); (case hm => rfl))
    | ((with_reducible apply takeHops_touches); (case hm => rfl))
    | ((with_reducible apply installHop_touches); (case hm => rfl))
    | ((with_reducible apply State.putStream_touches); (case hm => rfl))
    | split

theorem requestRefused_touches {M : Nat} {r : State} (a0 : Nat) (a1 : Nat) (a2 : Nat) (a3 : Nat) (a4 : Nat) (a5 : Nat) (a6 : Nat) (a7 : Nat) (a8 : Bool) (s : State) (hs : Touches M r s) (hm : 0x8b25d6 ||| M = M) :
    Touches M r (requestRefused a0 a1 a2 a3 a4 a5 a6 a7 a8 s) := by
  refine Touches.step hs ?_ hm
  clear hs hm r M
  unfold requestRefused
  repeat' first
    | with_reducible assumption
    | with_reducible apply Touches.refl
    | ((with_reducible apply tellMismatch_touches); (case hm => rfl))
    | (extract_lets -underBinder +onlyGivenNames x; (have hty : TypeOf x = State := by with_reducible rfl); clear hty; apply Touches.cut 0x8b25d6 s x; (case' kk => (clear_value x; intro _)); (case' vv => (unfold x; clear x)))
    | (extract_lets -underBinder +onlyGivenNames x; try clear_value x)
    | with_reducible apply Touches.ite
    | ((with_reducible apply withdrawPaths_touches); (case hm => rfl))
    | ((with_reducible apply reportStream_touches); (case hm => rfl))
    | ((with_reducible apply freeStream_touches); (case hm => rfl))
    | ((with_reducible apply answerStream_touches); (case hm => rfl))
    | split

theorem requestAccepted_touches {M : Nat} {r : State} (a0 : Nat) (s : State) (hs : Touches M r s) (hm : 0x221d6 ||| M = M) :
    Touches M r (requestAccepted a0 s) := by
  refine Touches.step hs ?_ hm
  clear hs hm r M
  unfold requestAccepted
  repeat' first
    | with_reducible assumption
    | with_reducible apply Touches.refl
    | (extract_lets -underBinder +onlyGivenNames x; (have hty : TypeOf x = State := by with_reducible rfl); clear hty; apply Touches.cut 0x221d6 s x; (case' kk => (clear_value x; intro _)); (case' vv => (unfold x; clear x)))
    | (extract_lets -underBinder +onlyGivenNames x; try clear_value x)
    | ((with_reducible apply answerStream_touches); (case hm => rfl))
    | ((with_reducible apply State.putStream_touches); (case hm => rfl))
    | split

theorem ingressHop_touches {M : Nat} {r : State} (a0 : Nat) (a1 : List Sys2Proof.PathRec) (s : State) (hs : Touches M r s) (hm : 0x8b25de ||| M = M) :
    Touches M r (ingressHop a0 a1 s) := by
  refine Touches.step hs ?_ hm
  clear hs hm r M
  unfold ingressHop
  repeat' first
    | with_reducible assumption
    | (intro _; try dsimp -zeta only)
    | (extract_lets -underBinder +onlyGivenNames x; (have hty : TypeOf x = State := by with_reducible rfl); clear hty; apply Touches.cut 0x8b25de s x; (case' kk => (clear_value x; intro _)); (case' vv => (unfold x; clear x)))
    | (extract_lets -underBinder +onlyGivenNames x; try clear_value x)
    | with_reducible apply Touches.refl
    | with_reducible apply Touches.ite
    | ((with_reducible apply requestRefused_touches); (case hm => rfl))
    | ((with_reducible apply State.bump_touches); (case hm => rfl))
    | ((with_reducible apply engineRun_touches); (case hm => rfl))
    | ((with_reducible apply State.putStream_touches); (case hm => rfl))
    | ((with_reducible apply requestAccepted_touches); (case hm => rfl))
    | ((with_reducible apply sendAdm_touches); (case hm => rfl))
    | with_reducible apply Touches.foldlD
    | split

theorem coordAnswer_touches {M : Nat} {r : State} (a0 : Nat) (a1 : Sys2Proof.Bytes) (s : State) (hs : Touches M r s) (hm : 0x820014 ||| M = M) :
    Touches M r ((coordAnswer a0 a1 s).1) := by
  refine Touches.step hs ?_ hm
  clear hs hm r M
  unfold coordAnswer
  repeat' first
    | with_reducible assumption
    | with_reducible apply Touches.refl
    | (extract_lets -underBinder +onlyGivenNames x; (have hty : TypeOf x = State := by with_reducible rfl); clear hty; apply Touches.cut 0x820014 s x; (case' kk => (clear_value x; intro _)); (case' vv => (unfold x; clear x)))
    | (extract_lets -underBinder +onlyGivenNames x; try clear_value x)
    | with_reducible apply Touches.ite
    | ((with_reducible apply admPut_touches); (case hm => rfl))
    | ((with_reducible apply State.modFab_touches); (case hm => rfl))
    | ((with_reducible apply sendTo_touches); (case hm => rfl))
    | split
    | (dsimp -zeta only)

theorem askPaths_touches {M : Nat} {r : State} (a0 : Nat) (a1 : Sys2Proof.Bytes) (s : State) (hs : Touches M r s) (hm : 0x8b25de ||| M = M) :
    Touches M r (askPaths a0 a1 s) := by
  refine Touches.step hs ?_ hm
  clear hs hm r M
  unfold askPaths
  repeat' first
    | with_reducible assumption
    | with_reducible apply Touches.refl
    | with_reducible apply Touches.ite
    | ((with_reducible apply coordAnswer_touches); (case hm => rfl))
    | ((with_reducible apply ingressHop_touches); (case hm => rfl))
    | ((with_reducible apply sendTo_touches); (case hm => rfl))
    | ((with_reducible apply Touches.fst); (case eqn => assumption))
    | split

theorem admRequest_touches {M : Nat} {r : State} (a0 : Option (Nat × Sys2Proof.CmdCtx)) (a1 : Sys2Proof.Bytes) (s : State) (hs : Touches M r s) (hm : 0x8b25de ||| M = M) :
    Touches M r (admRequest a0 a1 s) := by
  refine Touches.step hs ?_ hm
  clear hs hm r M
  unfold admRequest
  dsimp only
  repeat' first
    | with_reducible assumption
    | with_reducible apply Touches.refl
    | (extract_lets -underBinder +onlyGivenNames x; (have hty : TypeOf x = State := by with_reducible rfl); clear hty; apply Touches.cut 0x8b25de s x; (case' kk => (clear_value x; intro _)); (case' vv => (unfold x; clear x)))
    | (extract_lets -underBinder +onlyGivenNames x)
    | with_reducible apply Touches.ite
    | ((with_reducible apply State.bump_touches); (case hm => rfl))
    | ((with_reducible apply complete_touches); (case hm => rfl))
    | ((with_reducible apply State.putStream_touches); (case hm => rfl))
    | ((with_reducible apply ingressHop_touches); (case hm => rfl))
    | ((with_reducible apply askPaths_touches); (case hm => rfl))
    | split

theorem refuse_touches {M : Nat} {r : State} (a0 : Nat) (a1 : Nat) (a2 : Nat) (a3 : Nat) (a4 : Nat) (s : State) (hs : Touches M r s) (hm : 0x800014 ||| M = M) :
    Touches M r (refuse a0 a1 a2 a3 a4 s) := by
  refine Touches.step hs ?_ hm
  clear hs hm r M
  unfold refuse
  repeat' first
    | with_reducible assumption
    | with_reducible apply Touches.refl
    | with_reducible apply Touches.ite
    | ((with_reducible apply sendAdm_touches); (case hm => rfl))
    | ((with_reducible apply State.bump_touches); (case hm => rfl))

theorem admRequestIn_touches {M : Nat} {r : State} (a0 : Nat) (a1 : Sys2Proof.Bytes) (a2 : Nat) (a3 : Nat) (a4 : Sys2Proof.PathRec) (a5 : Nat) (a6 : Nat) (a7 : Nat) (a8 : Bool) (s : State) (hs : Touches M r s) (hm : 0x8221de ||| M = M) :
    Touches M r (admRequestIn a0 a1 a2 a3 a4 a5 a6 a7 a8 s) := by
  refine Touches.step hs ?_ hm
  clear hs hm r M
  unfold admRequestIn
  repeat' first
    | with_reducible assumption
    | (intro _; try dsimp -zeta only)
    | (extract_lets -underBinder +onlyGivenNames x; (have hty : TypeOf x = State := by with_reducible rfl); clear hty; apply Touches.cut 0x8221de s x; (case' kk => (clear_value x; intro _)); (case' vv => (unfold x; clear x)))
    | (extract_lets -underBinder +onlyGivenNames x; try clear_value x)
    | with_reducible apply Touches.refl
    | with_reducible apply Touches.ite
    | ((with_reducible apply refuse_touches); (case hm => rfl))
    | ((with_reducible apply engineRun_touches); (case hm => rfl))
    | ((with_reducible apply sendAdm_touches); (case hm => rfl))
    | ((with_reducible apply State.putStream_touches); (case hm => rfl))
    | ((with_reducible apply withStreams_touches); (case hm => rfl))
    | ((with_reducible apply State.bump_touches); (case hm => rfl))
    | with_reducible apply Touches.foldlD
    | split

theorem dropHops_touches {M : Nat} {r : State} (a0 : Nat) (a1 : Nat) (a2 : Bool) (s : State) (hs : Touches M r s) (hm : 0xb25d6 ||| M = M) :
    Touches M r (dropHops a0 a1 a2 s) := by
  refine Touches.step hs ?_ hm
  clear hs hm r M
  unfold dropHops
  repeat' first
    | with_reducible assumption
    | with_reducible apply Touches.refl
    | (extract_lets -underBinder +onlyGivenNames x; (have hty : TypeOf x = State := by with_reducible rfl); clear hty; apply Touches.cut 0xb25d6 s x; (case' kk => (clear_value x; intro _)); (case' vv => (unfold x; clear x)))
    | (extract_lets -underBinder +onlyGivenNames x; try clear_value x)
    | with_reducible apply Touches.ite
    | ((with_reducible apply freeStream_touches); (case hm => rfl))
    | ((with_reducible apply State.putStream_touches); (case hm => rfl))
    | split

theorem admVerdictIn_touches {M : Nat} {r : State} (a0 : Nat) (a1 : Nat) (a2 : Nat) (a3 : Nat) (a4 : Nat) (a5 : Nat) (a6 : Nat) (a7 : Nat) (a8 : Nat) (s : State) (hs : Touches M r s) (hm : 0x8b25d6 ||| M = M) :
    Touches M r (admVerdictIn a0 a1 a2 a3 a4 a5 a6 a7 a8 s) := by
  refine Touches.step hs ?_ hm
  clear hs hm r M
  unfold admVerdictIn
  repeat' first
    | with_reducible assumption
    | with_reducible apply Touches.refl
    | (extract_lets -underBinder +onlyGivenNames x; (have hty : TypeOf x = State := by with_reducible rfl); clear hty; apply Touches.cut 0x8b25d6 s x; (case' kk => (clear_value x; intro _)); (case' vv => (unfold x; clear x)))
    | (extract_lets -underBinder +onlyGivenNames x; try clear_value x)
    | with_reducible apply Touches.ite
    | ((with_reducible apply State.modStream_touches); (case hm => rfl))
    | ((with_reducible apply dropHops_touches); (case hm => rfl))
    | ((with_reducible apply sendAdm_touches); (case hm => rfl))
    | ((with_reducible apply rerunRefused_touches); (case hm => rfl))
    | ((with_reducible apply State.putStream_touches); (case hm => rfl))
    | ((with_reducible apply requestRefused_touches); (case hm => rfl))
    | ((with_reducible apply requestAccepted_touches); (case hm => rfl))
    | ((with_reducible apply reportStream_touches); (case hm => rfl))
    | split

theorem admWithdrawIn_touches {M : Nat} {r : State} (a0 : Nat) (a1 : Nat) (a2 : Nat) (s : State) (hs : Touches M r s) (hm : 0x8b25d6 ||| M = M) :
    Touches M r (admWithdrawIn a0 a1 a2 s) := by
  refine Touches.step hs ?_ hm
  clear hs hm r M
  unfold admWithdrawIn
  repeat' first
    | with_reducible assumption
    | with_reducible apply Touches.refl
    | (extract_lets -underBinder +onlyGivenNames x; (have hty : TypeOf x = State := by with_reducible rfl); clear hty; apply Touches.cut 0x8b25d6 s x; (case' kk => (clear_value x; intro _)); (case' vv => (unfold x; clear x)))
    | (extract_lets -underBinder +onlyGivenNames x; try clear_value x)
    | with_reducible apply Touches.ite
    | ((with_reducible apply dropHops_touches); (case hm => rfl))
    | ((with_reducible apply sendAdm_touches); (case hm => rfl))
    | split

theorem onHandle_touches {M : Nat} {r : State} (c : CmdCtx) (op : Nat) (s : State) (body : Stream → State → State) (hs : Touches M r s)
    (h : ∀ x t, Touches M r t → Touches M r (body x t)) (hm : 0xd0 ||| M = M) : Touches M r (onHandle c op s body) := by
  unfold onHandle
  refine Touches.ite (complete_touches _ _ _ _ _ hs (sub_trans (by rfl) hm)) ?_
  split
  · exact h _ _ hs
  · exact complete_touches _ _ _ _ _ hs (sub_trans (by rfl) hm)

theorem startCommit_touches {M : Nat} {r : State} (a0 : Option (Nat × Sys2Proof.CmdCtx)) (a1 : Nat) (s : State) (hs : Touches M r s) (hm : 0x28225d6 ||| M = M) :
    Touches M r (startCommit a0 a1 s) := by
  refine Touches.step hs ?_ hm
  clear hs hm r M
  unfold startCommit
  repeat' first
    | with_reducible assumption
    | (intro _; try dsimp -zeta only)
    | (extract_lets -underBinder +onlyGivenNames x; (have hty : TypeOf x = State := by with_reducible rfl); clear hty; apply Touches.cut 0x28225d6 s x; (case' kk => (clear_value x; intro _)); (case' vv => (unfold x; clear x)))
    | (extract_lets -underBinder +onlyGivenNames x; try clear_value x)
    | with_reducible apply Touches.refl
    | with_reducible apply Touches.ite
    | ((with_reducible apply State.putStream_touches); (case hm => rfl))
    | ((with_reducible apply commitDone_touches); (case hm => rfl))
    | ((with_reducible apply sendAdm_touches); (case hm => rfl))
    | with_reducible apply Touches.foldlD
    | split

theorem execAdmitCommit_touches {M : Nat} {r : State} (a0 : Sys2Proof.CmdCtx) (s : State) (hs : Touches M r s) (hm : 0xa8225d6 ||| M = M) :
    TouchesR M r (execAdmitCommit a0 s) := by
  refine TouchesR.step hs ?_ hm
  clear hs hm r M
  unfold execAdmitCommit
  repeat' first
    | with_reducible assumption
    | (intro _; try dsimp -zeta only)
    | with_reducible apply Touches.refl
    | with_reducible apply TouchesR.next
    | with_reducible apply TouchesR.fault
    | with_reducible apply TouchesR.ite
    | with_reducible apply Touches.ite
    | ((with_reducible apply command_touches); (case hm => rfl))
    | ((with_reducible apply onHandle_touches); (case hm => rfl))
    | ((with_reducible apply startCommit_touches); (case hm => rfl))
    | ((with_reducible apply complete_touches); (case hm => rfl))

theorem execAdmitQuery_touches {M : Nat} {r : State} (a0 : Sys2Proof.CmdCtx) (s : State) (hs : Touches M r s) (hm : 0x80000d0 ||| M = M) :
    TouchesR M r (execAdmitQuery a0 s) := by
  refine TouchesR.step hs ?_ hm
  clear hs hm r M
  unfold execAdmitQuery
  repeat' first
    | with_reducible assumption
    | (intro _; try dsimp -zeta only)
    | with_reducible apply Touches.refl
    | with_reducible apply TouchesR.next
    | with_reducible apply TouchesR.fault
    | ((with_reducible apply command_touches); (case hm => rfl))
    | ((with_reducible apply onHandle_touches); (case hm => rfl))
    | ((with_reducible apply complete_touches); (case hm => rfl))

theorem execAdmitRequest_touches {M : Nat} {r : State} (a0 : Sys2Proof.CmdCtx) (s : State) (hs : Touches M r s) (hm : 0x88b25de ||| M = M) :
    TouchesR M r (execAdmitRequest a0 s) := by
  refine TouchesR.step hs ?_ hm
  clear hs hm r M
  unfold execAdmitRequest
  repeat' first
    | with_reducible assumption
    | (intro _; try dsimp -zeta only)
    | with_reducible apply Touches.refl
    | with_reducible apply TouchesR.next
    | with_reducible apply TouchesR.fault
    | with_reducible apply TouchesR.ite
    | with_reducible apply Touches.ite
    | ((with_reducible apply command_touches); (case hm => rfl))
    | ((with_reducible apply complete_touches); (case hm => rfl))
    | ((with_reducible apply admRequest_touches); (case hm => rfl))

theorem withdrawDone_touches {M : Nat} {r : State} (a0 : Nat) (s : State) (hs : Touches M r s) (hm : 0x28b25d6 ||| M = M) :
    Touches M r (withdrawDone a0 s) := by
  refine Touches.step hs ?_ hm
  clear hs hm r M
  unfold withdrawDone
  repeat' first
    | with_reducible assumption
    | with_reducible apply Touches.refl
    | ((with_reducible apply forgetEpoch_touches); (case hm => rfl))
    | ((with_reducible apply answerStream_touches); (case hm => rfl))
    | ((with_reducible apply reportStream_touches); (case hm => rfl))
    | ((with_reducible apply freeStream_touches); (case hm => rfl))
    | ((with_reducible apply withdrawPaths_touches); (case hm => rfl))
    | split

theorem execAdmitWithdraw_touches {M : Nat} {r : State} (a0 : Sys2Proof.CmdCtx) (s : State) (hs : Touches M r s) (hm : 0xa8b25d6 ||| M = M) :
    TouchesR M r (execAdmitWithdraw a0 s) := by
  refine TouchesR.step hs ?_ hm
  clear hs hm r M
  unfold execAdmitWithdraw
  repeat' first
    | with_reducible assumption
    | (intro _; try dsimp -zeta only)
    | (extract_lets -underBinder +onlyGivenNames x; (have hty : TypeOf x = State := by with_reducible rfl); clear hty; apply Touches.cut 0xa8b25d6 s x; (case' kk => (clear_value x; intro _)); (case' vv => (unfold x; clear x)))
    | (extract_lets -underBinder +onlyGivenNames x; try clear_value x)
    | with_reducible apply Touches.refl
    | with_reducible apply TouchesR.next
    | with_reducible apply TouchesR.fault
    | with_reducible apply TouchesR.ite
    | with_reducible apply Touches.ite
    | ((with_reducible apply command_touches); (case hm => rfl))
    | ((with_reducible apply onHandle_touches); (case hm => rfl))
    | ((with_reducible apply complete_touches); (case hm => rfl))
    | ((with_reducible apply State.modTab_touches); (case hm => rfl))
    | ((with_reducible apply State.putStream_touches); (case hm => rfl))
    | ((with_reducible apply withdrawDone_touches); (case hm => rfl))

theorem startRerun_touches {M : Nat} {r : State} (a0 : Option (Nat × Sys2Proof.CmdCtx)) (a1 : Nat) (a2 : Nat) (a3 : Sys2Proof.PathRec) (s : State) (hs : Touches M r s) (hm : 0x8221de ||| M = M) :
    Touches M r (startRerun a0 a1 a2 a3 s) := by
  refine Touches.step hs ?_ hm
  clear hs hm r M
  unfold startRerun
  repeat' first
    | with_reducible assumption
    | with_reducible apply Touches.refl
    | (extract_lets -underBinder +onlyGivenNames x; (have hty : TypeOf x = State := by with_reducible rfl); clear hty; apply Touches.cut 0x8221de s x; (case' kk => (clear_value x; intro _)); (case' vv => (unfold x; clear x)))
    | (extract_lets -underBinder +onlyGivenNames x; try clear_value x)
    | ((with_reducible apply engineRun_touches); (case hm => rfl))
    | ((with_reducible apply State.putStream_touches); (case hm => rfl))
    | ((with_reducible apply rerunRefused_touches); (case hm => rfl))
    | ((with_reducible apply State.bump_touches); (case hm => rfl))
    | ((with_reducible apply sendAdm_touches); (case hm => rfl))
    | split

theorem execPathSet_touches {M : Nat} {r : State} (a0 : Sys2Proof.CmdCtx) (s : State) (hs : Touches M r s) (hm : 0x88221de ||| M = M) :
    TouchesR M r (execPathSet a0 s) := by
  refine TouchesR.step hs ?_ hm
  clear hs hm r M
  unfold execPathSet
  repeat' first
    | with_reducible assumption
    | (intro _; try dsimp -zeta only)
    | (extract_lets -underBinder +onlyGivenNames x; (have hty : TypeOf x = State := by with_reducible rfl); clear hty; apply Touches.cut 0x88221de s x; (case' kk => (clear_value x; intro _)); (case' vv => (unfold x; clear x)))
    | (extract_lets -underBinder +onlyGivenNames x; try clear_value x)
    | with_reducible apply Touches.refl
    | ((with_reducible apply pathRefused_touches); (case hm => rfl))
    | with_reducible apply TouchesR.next
    | with_reducible apply TouchesR.fault
    | with_reducible apply TouchesR.ite
    | with_reducible apply Touches.ite
    | ((with_reducible apply command_touches); (case hm => rfl))
    | ((with_reducible apply complete_touches); (case hm => rfl))
    | ((with_reducible apply startRerun_touches); (case hm => rfl))
    | split

theorem execWithdrawDrained_touches {M : Nat} {r : State} (a0 : Nat) (a1 : Bool) (s : State) (hs : Touches M r s) (hm : 0x28b25d6 ||| M = M) :
    TouchesR M r (execWithdrawDrained a0 a1 s) := by
  refine TouchesR.step hs ?_ hm
  clear hs hm r M
  unfold execWithdrawDrained
  repeat' first
    | with_reducible assumption
    | with_reducible apply Touches.refl
    | with_reducible apply TouchesR.next
    | with_reducible apply TouchesR.fault
    | with_reducible apply TouchesR.ite
    | with_reducible apply Touches.ite
    | ((with_reducible apply withdrawDone_touches); (case hm => rfl))
    | split

end Sys2Proof.Machine
end

