-- ==== Sys2Proof/Laws/CryptoJob.lean ====
section
/-! SUPPORT. What each function of Machine/CryptoJob.lean touches: one lemma per function that answers a state. -/

set_option linter.tactic.unusedName false

namespace Sys2Proof.Machine

theorem jobReads_touches {M : Nat} {r : State} (a0 : Sys2Proof.CmdCtx) (s : State) (hs : Touches M r s) (hm : 0x10 ||| M = M) :
    Touches M r (jobReads a0 s) := by
  refine Touches.step hs ?_ hm
  clear hs hm r M
  unfold jobReads
  repeat' first
    | with_reducible assumption
    | with_reducible apply Touches.refl
    | (extract_lets -underBinder +onlyGivenNames x; (have hty : TypeOf x = State := by with_reducible rfl); clear hty; apply Touches.cut 0x10 s x; (case' kk => (clear_value x; intro _)); (case' vv => (unfold x; clear x)))
    | (extract_lets -underBinder +onlyGivenNames x; try clear_value x)
    | with_reducible apply Touches.ite
    | ((with_reducible apply hostFetch_touches); (case hm => rfl))

theorem State.setCtx_touches {M : Nat} {r : State} (s : State) (a1 : Option JobCtx) (hs : Touches M r s) (hm : 0x400000 ||| M = M) :
    Touches M r (State.setCtx s a1) := by
  refine Touches.step hs ?_ hm
  clear hs hm r M
  unfold State.setCtx
  repeat' first
    | with_reducible assumption
    | with_reducible apply Touches.refl
    | (extract_lets -underBinder +onlyGivenNames x; (have hty : TypeOf x = State := by with_reducible rfl); clear hty; apply Touches.cut 0x400000 s x; (case' kk => (clear_value x; intro _)); (case' vv => (unfold x; clear x)))
    | (extract_lets -underBinder +onlyGivenNames x; try clear_value x)
    | ((with_reducible apply Touches.keys); (case hm => rfl))

theorem State.setLock_touches {M : Nat} {r : State} (s : State) (a1 : Option (Sys2Proof.Src × Nat)) (hs : Touches M r s) (hm : 0x400000 ||| M = M) :
    Touches M r (State.setLock s a1) := by
  refine Touches.step hs ?_ hm
  clear hs hm r M
  unfold State.setLock
  repeat' first
    | with_reducible assumption
    | with_reducible apply Touches.refl
    | (extract_lets -underBinder +onlyGivenNames x; (have hty : TypeOf x = State := by with_reducible rfl); clear hty; apply Touches.cut 0x400000 s x; (case' kk => (clear_value x; intro _)); (case' vv => (unfold x; clear x)))
    | (extract_lets -underBinder +onlyGivenNames x; try clear_value x)
    | ((with_reducible apply Touches.keys); (case hm => rfl))

theorem keyLimit_touches {M : Nat} {r : State} (a0 : Nat) (a1 : Nat) (s : State) (hs : Touches M r s) (hm : 0x1c6 ||| M = M) :
    Touches M r (keyLimit a0 a1 s) := by
  refine Touches.step hs ?_ hm
  clear hs hm r M
  unfold keyLimit
  repeat' first
    | with_reducible assumption
    | with_reducible apply Touches.refl
    | ((with_reducible apply raise_touches); (case hm => rfl))

theorem keepCtx_touches {M : Nat} {r : State} (a0 : Sys2Proof.CmdCtx) (a1 : JobCtx) (s : State) (hs : Touches M r s) (hm : 0x400000 ||| M = M) :
    Touches M r (keepCtx a0 a1 s) := by
  refine Touches.step hs ?_ hm
  clear hs hm r M
  unfold keepCtx
  repeat' first
    | with_reducible assumption
    | with_reducible apply Touches.refl
    | (extract_lets -underBinder +onlyGivenNames x; (have hty : TypeOf x = State := by with_reducible rfl); clear hty; apply Touches.cut 0x400000 s x; (case' kk => (clear_value x; intro _)); (case' vv => (unfold x; clear x)))
    | (extract_lets -underBinder +onlyGivenNames x; try clear_value x)
    | with_reducible apply Touches.ite
    | ((with_reducible apply State.setCtx_touches); (case hm => rfl))
    | ((with_reducible apply State.setLock_touches); (case hm => rfl))
    | split

theorem writeCtx_touches {M : Nat} {r : State} (a0 : Sys2Proof.CmdCtx) (a1 : Sys2Proof.Bytes) (s : State) (hs : Touches M r s) (hm : 0xd0 ||| M = M) :
    Touches M r (writeCtx a0 a1 s) := by
  refine Touches.step hs ?_ hm
  clear hs hm r M
  unfold writeCtx
  repeat' first
    | with_reducible assumption
    | with_reducible apply Touches.refl
    | ((with_reducible apply dmaWrite_touches); (case hm => rfl))
    | ((with_reducible apply State.emit_touches); (case hm => rfl))
    | split

theorem saveCtx_touches {M : Nat} {r : State} (a0 : Sys2Proof.CmdCtx) (a1 : JobCtx) (s : State) (hs : Touches M r s) (hm : 0x4000d8 ||| M = M) :
    Touches M r (saveCtx a0 a1 s) := by
  refine Touches.step hs ?_ hm
  clear hs hm r M
  unfold saveCtx
  repeat' first
    | with_reducible assumption
    | with_reducible apply Touches.refl
    | (extract_lets -underBinder +onlyGivenNames x; (have hty : TypeOf x = State := by with_reducible rfl); clear hty; apply Touches.cut 0x4000d8 s x; (case' kk => (clear_value x; intro _)); (case' vv => (unfold x; clear x)))
    | (extract_lets -underBinder +onlyGivenNames x; try clear_value x)
    | with_reducible apply Touches.ite
    | ((with_reducible apply writeCtx_touches); (case hm => rfl))
    | ((with_reducible apply State.drewN_touches); (case hm => rfl))
    | ((with_reducible apply Touches.keys); (case hm => rfl))

theorem writeDst_touches {M : Nat} {r : State} (a0 : Sys2Proof.CmdCtx) (a1 : Sys2Proof.Bytes) (s : State) (hs : Touches M r s) (hm : 0xd0 ||| M = M) :
    Touches M r (writeDst a0 a1 s) := by
  refine Touches.step hs ?_ hm
  clear hs hm r M
  unfold writeDst
  repeat' first
    | with_reducible assumption
    | with_reducible apply Touches.refl
    | ((with_reducible apply dmaWrite_touches); (case hm => rfl))
    | with_reducible apply Touches.ite
    | ((with_reducible apply State.emit_touches); (case hm => rfl))
    | split

theorem jobGcm_touches {M : Nat} {r : State} (a0 : Sys2Proof.CmdCtx) (a1 : Sys2Proof.JobData) (a2 : Sys2Proof.Bytes) (a3 : JobCtx) (a4 : JobCtx) (s : State) (hs : Touches M r s) (hm : 0x4000d8 ||| M = M) :
    Touches M r (jobGcm a0 a1 a2 a3 a4 s) := by
  refine Touches.step hs ?_ hm
  clear hs hm r M
  unfold jobGcm
  repeat' first
    | with_reducible assumption
    | with_reducible apply Touches.refl
    | (extract_lets -underBinder +onlyGivenNames x; (have hty : TypeOf x = State := by with_reducible rfl); clear hty; apply Touches.cut 0x4000d8 s x; (case' kk => (clear_value x; intro _)); (case' vv => (unfold x; clear x)))
    | (extract_lets -underBinder +onlyGivenNames x; try clear_value x)
    | with_reducible apply Touches.ite
    | ((with_reducible apply keepCtx_touches); (case hm => rfl))
    | ((with_reducible apply saveCtx_touches); (case hm => rfl))
    | ((with_reducible apply writeDst_touches); (case hm => rfl))
    | ((with_reducible apply complete_touches); (case hm => rfl))

theorem jobEncrypt_touches {M : Nat} {r : State} (a0 : Sys2Proof.CmdCtx) (a1 : Sys2Proof.JobData) (a2 : Sys2Proof.Bytes) (a3 : JobCtx) (s : State) (hs : Touches M r s) (hm : 0x4001de ||| M = M) :
    Touches M r (jobEncrypt a0 a1 a2 a3 s) := by
  refine Touches.step hs ?_ hm
  clear hs hm r M
  unfold jobEncrypt
  repeat' first
    | with_reducible assumption
    | with_reducible apply Touches.refl
    | (extract_lets -underBinder +onlyGivenNames x; (have hty : TypeOf x = State := by with_reducible rfl); clear hty; apply Touches.cut 0x4001de s x; (case' kk => (clear_value x; intro _)); (case' vv => (unfold x; clear x)))
    | (extract_lets -underBinder +onlyGivenNames x; try clear_value x)
    | with_reducible apply Touches.ite
    | ((with_reducible apply keyLimit_touches); (case hm => rfl))
    | ((with_reducible apply complete_touches); (case hm => rfl))
    | ((with_reducible apply jobGcm_touches); (case hm => rfl))
    | ((with_reducible apply State.setSlot_touches); (case hm => rfl))
    | split

theorem jobPlain_touches {M : Nat} {r : State} (a0 : Sys2Proof.CmdCtx) (a1 : Sys2Proof.JobData) (a2 : Sys2Proof.Bytes) (a3 : JobCtx) (s : State) (hs : Touches M r s) (hm : 0x4000d8 ||| M = M) :
    Touches M r (jobPlain a0 a1 a2 a3 s) := by
  refine Touches.step hs ?_ hm
  clear hs hm r M
  unfold jobPlain
  repeat' first
    | with_reducible assumption
    | (intro _; try dsimp -zeta only)
    | (extract_lets -underBinder +onlyGivenNames x; (have hty : TypeOf x = State := by with_reducible rfl); clear hty; apply Touches.cut 0x4000d8 s x; (case' kk => (clear_value x; intro _)); (case' vv => (unfold x; clear x)))
    | (extract_lets -underBinder +onlyGivenNames x; try clear_value x)
    | with_reducible apply Touches.refl
    | with_reducible apply Touches.ite
    | ((with_reducible apply keepCtx_touches); (case hm => rfl))
    | ((with_reducible apply saveCtx_touches); (case hm => rfl))
    | ((with_reducible apply complete_touches); (case hm => rfl))
    | ((with_reducible apply writeDst_touches); (case hm => rfl))
    | with_reducible apply Touches.foldlD

theorem putFresh_touches {M : Nat} {r : State} (s : State) (a1 : Nat) (a2 : Nat) (hs : Touches M r s) (hm : 0x400000 ||| M = M) :
    TouchesO M r (putFresh s a1 a2) := by
  refine TouchesO.step hs ?_ hm
  clear hs hm r M
  unfold putFresh
  repeat' first
    | with_reducible assumption
    | with_reducible apply Touches.refl
    | (extract_lets -underBinder +onlyGivenNames x; (have hty : TypeOf x = State := by with_reducible rfl); clear hty; apply Touches.cut 0x400000 s x; (case' kk => (clear_value x; intro _)); (case' vv => (unfold x; clear x)))
    | (extract_lets -underBinder +onlyGivenNames x; try clear_value x)
    | with_reducible apply TouchesO.none
    | with_reducible apply TouchesO.some
    | with_reducible apply TouchesO.ite
    | with_reducible apply Touches.ite
    | ((with_reducible apply Touches.keys); (case hm => rfl))

theorem jobFresh_touches {M : Nat} {r : State} (a0 : Sys2Proof.CmdCtx) (a1 : Sys2Proof.JobData) (a2 : Sys2Proof.Bytes) (a3 : JobCtx) (s : State) (hs : Touches M r s) (hm : 0x4001de ||| M = M) :
    Touches M r (jobFresh a0 a1 a2 a3 s) := by
  refine Touches.step hs ?_ hm
  clear hs hm r M
  unfold jobFresh
  repeat' first
    | with_reducible assumption
    | with_reducible apply Touches.refl
    | (extract_lets -underBinder +onlyGivenNames x; (have hty : TypeOf x = State := by with_reducible rfl); clear hty; apply Touches.cut 0x4001de s x; (case' kk => (clear_value x; intro _)); (case' vv => (unfold x; clear x)))
    | (extract_lets -underBinder +onlyGivenNames x; try clear_value x)
    | with_reducible apply Touches.ite
    | ((with_reducible apply complete_touches); (case hm => rfl))
    | ((with_reducible apply keepCtx_touches); (case hm => rfl))
    | ((with_reducible apply saveCtx_touches); (case hm => rfl))
    | ((with_reducible apply keyLimit_touches); (case hm => rfl))
    | ((with_reducible apply putFresh_touches); (case hm => rfl))
    | ((with_reducible apply TouchesO.get); (case eqn => assumption))
    | with_reducible apply Touches.getD
    | split

theorem cryptoJob_touches {M : Nat} {r : State} (a0 : Sys2Proof.CmdCtx) (a1 : Option Sys2Proof.JobData) (s : State) (hs : Touches M r s) (hm : 0x84001de ||| M = M) :
    Touches M r (cryptoJob a0 a1 s) := by
  refine Touches.step hs ?_ hm
  clear hs hm r M
  unfold cryptoJob
  repeat' first
    | with_reducible assumption
    | (intro _; try dsimp -zeta only)
    | (extract_lets -underBinder +onlyGivenNames x; (have hty : TypeOf x = State := by with_reducible rfl); clear hty; apply Touches.cut 0x84001de s x; (case' kk => (clear_value x; intro _)); (case' vv => (unfold x; clear x)))
    | (extract_lets -underBinder +onlyGivenNames x; try clear_value x)
    | with_reducible apply Touches.refl
    | ((with_reducible apply jobReads_touches); (case hm => rfl))
    | with_reducible apply Touches.ite
    | ((with_reducible apply command_touches); (case hm => rfl))
    | ((with_reducible apply complete_touches); (case hm => rfl))
    | ((with_reducible apply jobEncrypt_touches); (case hm => rfl))
    | ((with_reducible apply jobGcm_touches); (case hm => rfl))
    | ((with_reducible apply jobPlain_touches); (case hm => rfl))
    | ((with_reducible apply jobFresh_touches); (case hm => rfl))
    | split

theorem execCryLockIdleExpiry_touches {M : Nat} {r : State} (s : State) (hs : Touches M r s) (hm : 0x4001c6 ||| M = M) :
    TouchesR M r (execCryLockIdleExpiry s) := by
  refine TouchesR.step hs ?_ hm
  clear hs hm r M
  unfold execCryLockIdleExpiry
  repeat' first
    | with_reducible assumption
    | with_reducible apply Touches.refl
    | with_reducible apply TouchesR.next
    | with_reducible apply TouchesR.fault
    | with_reducible apply TouchesR.ite
    | with_reducible apply Touches.ite
    | ((with_reducible apply raise_touches); (case hm => rfl))
    | ((with_reducible apply State.setCtx_touches); (case hm => rfl))
    | ((with_reducible apply State.setLock_touches); (case hm => rfl))
    | split

theorem lockRelease_touches {M : Nat} {r : State} (a0 : Sys2Proof.Src) (s : State) (hs : Touches M r s) (hm : 0x400000 ||| M = M) :
    Touches M r (lockRelease a0 s) := by
  refine Touches.step hs ?_ hm
  clear hs hm r M
  unfold lockRelease
  repeat' first
    | with_reducible assumption
    | with_reducible apply Touches.refl
    | with_reducible apply Touches.ite
    | ((with_reducible apply State.setCtx_touches); (case hm => rfl))
    | ((with_reducible apply State.setLock_touches); (case hm => rfl))

theorem execCryLockRelease_touches {M : Nat} {r : State} (a0 : Sys2Proof.Src) (s : State) (hs : Touches M r s) (hm : 0x400020 ||| M = M) :
    TouchesR M r (execCryLockRelease a0 s) := by
  refine TouchesR.step hs ?_ hm
  clear hs hm r M
  unfold execCryLockRelease
  repeat' first
    | with_reducible assumption
    | (intro _; try dsimp -zeta only)
    | with_reducible apply Touches.refl
    | with_reducible apply TouchesR.next
    | with_reducible apply TouchesR.fault
    | ((with_reducible apply busRow_touches); (case hm => rfl))
    | ((with_reducible apply lockRelease_touches); (case hm => rfl))

theorem lockTake_touches {M : Nat} {r : State} (a0 : Sys2Proof.Src) (s : State) (hs : Touches M r s) (hm : 0x400000 ||| M = M) :
    Touches M r (lockTake a0 s) := by
  refine Touches.step hs ?_ hm
  clear hs hm r M
  unfold lockTake
  repeat' first
    | with_reducible assumption
    | with_reducible apply Touches.refl
    | with_reducible apply Touches.ite
    | ((with_reducible apply State.setLock_touches); (case hm => rfl))

theorem execCryLockTake_touches {M : Nat} {r : State} (a0 : Sys2Proof.Src) (s : State) (hs : Touches M r s) (hm : 0x400020 ||| M = M) :
    TouchesR M r (execCryLockTake a0 s) := by
  refine TouchesR.step hs ?_ hm
  clear hs hm r M
  unfold execCryLockTake
  repeat' first
    | with_reducible assumption
    | (intro _; try dsimp -zeta only)
    | with_reducible apply Touches.refl
    | with_reducible apply TouchesR.next
    | with_reducible apply TouchesR.fault
    | ((with_reducible apply busRow_touches); (case hm => rfl))
    | ((with_reducible apply lockTake_touches); (case hm => rfl))

theorem execCryptoCmacFreshGenerate_touches {M : Nat} {r : State} (a0 : Sys2Proof.CmdCtx) (a1 : Option Sys2Proof.JobData) (s : State) (hs : Touches M r s) (hm : 0x84001de ||| M = M) :
    TouchesR M r (execCryptoCmacFreshGenerate a0 a1 s) := by
  refine TouchesR.step hs ?_ hm
  clear hs hm r M
  unfold execCryptoCmacFreshGenerate
  repeat' first
    | with_reducible assumption
    | with_reducible apply Touches.refl
    | with_reducible apply TouchesR.next
    | with_reducible apply TouchesR.fault
    | ((with_reducible apply cryptoJob_touches); (case hm => rfl))

theorem execCryptoCmacFreshVerify_touches {M : Nat} {r : State} (a0 : Sys2Proof.CmdCtx) (a1 : Option Sys2Proof.JobData) (s : State) (hs : Touches M r s) (hm : 0x84001de ||| M = M) :
    TouchesR M r (execCryptoCmacFreshVerify a0 a1 s) := by
  refine TouchesR.step hs ?_ hm
  clear hs hm r M
  unfold execCryptoCmacFreshVerify
  repeat' first
    | with_reducible assumption
    | with_reducible apply Touches.refl
    | with_reducible apply TouchesR.next
    | with_reducible apply TouchesR.fault
    | ((with_reducible apply cryptoJob_touches); (case hm => rfl))

theorem execCryptoCmacGenerate_touches {M : Nat} {r : State} (a0 : Sys2Proof.CmdCtx) (a1 : Option Sys2Proof.JobData) (s : State) (hs : Touches M r s) (hm : 0x84001de ||| M = M) :
    TouchesR M r (execCryptoCmacGenerate a0 a1 s) := by
  refine TouchesR.step hs ?_ hm
  clear hs hm r M
  unfold execCryptoCmacGenerate
  repeat' first
    | with_reducible assumption
    | with_reducible apply Touches.refl
    | with_reducible apply TouchesR.next
    | with_reducible apply TouchesR.fault
    | ((with_reducible apply cryptoJob_touches); (case hm => rfl))

theorem execCryptoCmacVerify_touches {M : Nat} {r : State} (a0 : Sys2Proof.CmdCtx) (a1 : Option Sys2Proof.JobData) (s : State) (hs : Touches M r s) (hm : 0x84001de ||| M = M) :
    TouchesR M r (execCryptoCmacVerify a0 a1 s) := by
  refine TouchesR.step hs ?_ hm
  clear hs hm r M
  unfold execCryptoCmacVerify
  repeat' first
    | with_reducible assumption
    | with_reducible apply Touches.refl
    | with_reducible apply TouchesR.next
    | with_reducible apply TouchesR.fault
    | ((with_reducible apply cryptoJob_touches); (case hm => rfl))

theorem execCryptoEcdsaVerify_touches {M : Nat} {r : State} (a0 : Sys2Proof.CmdCtx) (a1 : Option Sys2Proof.JobData) (s : State) (hs : Touches M r s) (hm : 0x84001de ||| M = M) :
    TouchesR M r (execCryptoEcdsaVerify a0 a1 s) := by
  refine TouchesR.step hs ?_ hm
  clear hs hm r M
  unfold execCryptoEcdsaVerify
  repeat' first
    | with_reducible assumption
    | with_reducible apply Touches.refl
    | with_reducible apply TouchesR.next
    | with_reducible apply TouchesR.fault
    | ((with_reducible apply cryptoJob_touches); (case hm => rfl))

theorem execCryptoGcmDecrypt_touches {M : Nat} {r : State} (a0 : Sys2Proof.CmdCtx) (a1 : Option Sys2Proof.JobData) (s : State) (hs : Touches M r s) (hm : 0x84001de ||| M = M) :
    TouchesR M r (execCryptoGcmDecrypt a0 a1 s) := by
  refine TouchesR.step hs ?_ hm
  clear hs hm r M
  unfold execCryptoGcmDecrypt
  repeat' first
    | with_reducible assumption
    | with_reducible apply Touches.refl
    | with_reducible apply TouchesR.next
    | with_reducible apply TouchesR.fault
    | ((with_reducible apply cryptoJob_touches); (case hm => rfl))

theorem execCryptoGcmEncrypt_touches {M : Nat} {r : State} (a0 : Sys2Proof.CmdCtx) (a1 : Option Sys2Proof.JobData) (s : State) (hs : Touches M r s) (hm : 0x84001de ||| M = M) :
    TouchesR M r (execCryptoGcmEncrypt a0 a1 s) := by
  refine TouchesR.step hs ?_ hm
  clear hs hm r M
  unfold execCryptoGcmEncrypt
  repeat' first
    | with_reducible assumption
    | with_reducible apply Touches.refl
    | with_reducible apply TouchesR.next
    | with_reducible apply TouchesR.fault
    | ((with_reducible apply cryptoJob_touches); (case hm => rfl))

theorem execCryptoSha384_touches {M : Nat} {r : State} (a0 : Sys2Proof.CmdCtx) (a1 : Option Sys2Proof.JobData) (s : State) (hs : Touches M r s) (hm : 0x84001de ||| M = M) :
    TouchesR M r (execCryptoSha384 a0 a1 s) := by
  refine TouchesR.step hs ?_ hm
  clear hs hm r M
  unfold execCryptoSha384
  repeat' first
    | with_reducible assumption
    | with_reducible apply Touches.refl
    | with_reducible apply TouchesR.next
    | with_reducible apply TouchesR.fault
    | ((with_reducible apply cryptoJob_touches); (case hm => rfl))

end Sys2Proof.Machine
end

