-- ==== Sys2Proof/Laws/AdmImage.lean ====
section
/-! SUPPORT. What each function of Machine/AdmImage.lean touches: one lemma per function that answers a state. -/

set_option linter.tactic.unusedName false

namespace Sys2Proof.Machine

theorem State.modJob_touches {M : Nat} {r : State} (s : State) (a1 : AdmJob → AdmJob) (hs : Touches M r s) (hm : 0x4000000 ||| M = M) :
    Touches M r (State.modJob s a1) := by
  refine Touches.step hs ?_ hm
  clear hs hm r M
  unfold State.modJob
  repeat' first
    | with_reducible assumption
    | with_reducible apply Touches.refl
    | ((with_reducible apply Touches.admJob); (case hm => rfl))

theorem imageDone_touches {M : Nat} {r : State} (a0 : Nat) (a1 : Nat) (a2 : Nat) (a3 : Nat) (s : State) (hs : Touches M r s) (hm : 0x1c6 ||| M = M) :
    Touches M r (imageDone a0 a1 a2 a3 s) := by
  refine Touches.step hs ?_ hm
  clear hs hm r M
  unfold imageDone
  repeat' first
    | with_reducible assumption
    | with_reducible apply Touches.refl
    | ((with_reducible apply raise_touches); (case hm => rfl))

theorem admPump_touches {M : Nat} {r : State} (a0 : Nat) (s : State) (hs : Touches M r s) (hm : 0x68b25de ||| M = M) :
    Touches M r (admPump a0 s) := by
  refine Touches.step hs ?_ hm
  clear hs hm r M
  suffices hq : ∀ r, Touches 0x68b25de r s → Touches 0x68b25de r (admPump a0 s) from hq _ (Touches.refl _ _)
  induction a0 generalizing s with
  | zero =>
    intro r hs
    unfold admPump
    repeat' first
      | with_reducible assumption
      | (intro _; try dsimp -zeta only)
      | (extract_lets -underBinder +onlyGivenNames x; (have hty : TypeOf x = State := by with_reducible rfl); clear hty; apply Touches.cut 0x68b25de r x; (case' kk => (clear_value x; intro _)); (case' vv => (unfold x; clear x)))
      | (extract_lets -underBinder +onlyGivenNames x; try clear_value x)
      | with_reducible apply Touches.refl
      | ((with_reducible apply tellMismatch_touches); (case hm => rfl))
      | with_reducible apply Touches.ite
      | with_reducible apply ih
      | ((with_reducible apply State.modJob_touches); (case hm => rfl))
      | ((with_reducible apply startCommit_touches); (case hm => rfl))
      | ((with_reducible apply raise_touches); (case hm => rfl))
      | ((with_reducible apply State.modStream_touches); (case hm => rfl))
      | ((with_reducible apply imageDone_touches); (case hm => rfl))
      | ((with_reducible apply admRequest_touches); (case hm => rfl))
      | with_reducible apply Touches.foldlD
      | split
      | ((with_reducible apply Touches.admJob); (case hm => rfl))
  | succ k ih =>
    intro r hs
    unfold admPump
    repeat' first
      | with_reducible assumption
      | (intro _; try dsimp -zeta only)
      | (extract_lets -underBinder +onlyGivenNames x; (have hty : TypeOf x = State := by with_reducible rfl); clear hty; apply Touches.cut 0x68b25de r x; (case' kk => (clear_value x; intro _)); (case' vv => (unfold x; clear x)))
      | (extract_lets -underBinder +onlyGivenNames x; try clear_value x)
      | with_reducible apply Touches.refl
      | ((with_reducible apply tellMismatch_touches); (case hm => rfl))
      | with_reducible apply Touches.ite
      | with_reducible apply ih
      | ((with_reducible apply State.modJob_touches); (case hm => rfl))
      | ((with_reducible apply startCommit_touches); (case hm => rfl))
      | ((with_reducible apply raise_touches); (case hm => rfl))
      | ((with_reducible apply State.modStream_touches); (case hm => rfl))
      | ((with_reducible apply imageDone_touches); (case hm => rfl))
      | ((with_reducible apply admRequest_touches); (case hm => rfl))
      | with_reducible apply Touches.foldlD
      | split
      | ((with_reducible apply Touches.admJob); (case hm => rfl))

theorem admGo_touches {M : Nat} {r : State} (s : State) (hs : Touches M r s) (hm : 0x68b25de ||| M = M) :
    Touches M r (admGo s) := by
  refine Touches.step hs ?_ hm
  clear hs hm r M
  unfold admGo
  repeat' first
    | with_reducible assumption
    | with_reducible apply Touches.refl
    | ((with_reducible apply admPump_touches); (case hm => rfl))

theorem execAdmitTimeout_touches {M : Nat} {r : State} (a0 : Nat) (s : State) (hs : Touches M r s) (hm : 0x68b25de ||| M = M) :
    TouchesR M r (execAdmitTimeout a0 s) := by
  refine TouchesR.step hs ?_ hm
  clear hs hm r M
  unfold execAdmitTimeout
  repeat' first
    | with_reducible assumption
    | with_reducible apply Touches.refl
    | with_reducible apply TouchesR.next
    | with_reducible apply TouchesR.fault
    | with_reducible apply TouchesR.ite
    | with_reducible apply Touches.ite
    | ((with_reducible apply admGo_touches); (case hm => rfl))
    | ((with_reducible apply rerunRefused_touches); (case hm => rfl))
    | ((with_reducible apply requestRefused_touches); (case hm => rfl))
    | ((with_reducible apply freeStream_touches); (case hm => rfl))
    | ((with_reducible apply commitFailed_touches); (case hm => rfl))
    | split

theorem execRsvHoldExpiry_touches {M : Nat} {r : State} (a0 : Nat) (s : State) (hs : Touches M r s) (hm : 0x68b25de ||| M = M) :
    TouchesR M r (execRsvHoldExpiry a0 s) := by
  refine TouchesR.step hs ?_ hm
  clear hs hm r M
  unfold execRsvHoldExpiry
  dsimp only
  repeat' first
    | with_reducible assumption
    | with_reducible apply Touches.refl
    | (extract_lets -underBinder +onlyGivenNames x; (have hty : TypeOf x = State := by with_reducible rfl); clear hty; apply Touches.cut 0x68b25de s x; (case' kk => (clear_value x; intro _)); (case' vv => (unfold x; clear x)))
    | (extract_lets -underBinder +onlyGivenNames x; try clear_value x)
    | with_reducible apply TouchesR.next
    | with_reducible apply TouchesR.fault
    | with_reducible apply TouchesR.ite
    | with_reducible apply Touches.ite
    | ((with_reducible apply State.bump_touches); (case hm => rfl))
    | ((with_reducible apply raise_touches); (case hm => rfl))
    | ((with_reducible apply admGo_touches); (case hm => rfl))
    | ((with_reducible apply reportStream_touches); (case hm => rfl))
    | ((with_reducible apply freeStream_touches); (case hm => rfl))
    | ((with_reducible apply State.putStream_touches); (case hm => rfl))
    | split

theorem applyAdmImage_touches {M : Nat} {r : State} (a0 : Sys2Proof.Bytes) (s : State) (hs : Touches M r s) (hm : 0x68b25de ||| M = M) :
    Touches M r (applyAdmImage a0 s) := by
  refine Touches.step hs ?_ hm
  clear hs hm r M
  unfold applyAdmImage
  repeat' first
    | with_reducible assumption
    | with_reducible apply Touches.refl
    | with_reducible apply Touches.ite
    | ((with_reducible apply imageDone_touches); (case hm => rfl))
    | ((with_reducible apply admGo_touches); (case hm => rfl))
    | ((with_reducible apply State.modJob_touches); (case hm => rfl))

theorem execAdmitImage_touches {M : Nat} {r : State} (a0 : Sys2Proof.CmdCtx) (a1 : Option Sys2Proof.Bytes) (s : State) (hs : Touches M r s) (hm : 0xe8b25de ||| M = M) :
    TouchesR M r (execAdmitImage a0 a1 s) := by
  refine TouchesR.step hs ?_ hm
  clear hs hm r M
  unfold execAdmitImage
  repeat' first
    | with_reducible assumption
    | (intro _; try dsimp -zeta only)
    | with_reducible apply Touches.refl
    | with_reducible apply TouchesR.next
    | with_reducible apply TouchesR.fault
    | with_reducible apply TouchesR.ite
    | with_reducible apply Touches.ite
    | ((with_reducible apply command_touches); (case hm => rfl))
    | ((with_reducible apply complete_touches); (case hm => rfl))
    | ((with_reducible apply applyAdmImage_touches); (case hm => rfl))
    | split

theorem execAdmitMessage_touches {M : Nat} {r : State} (a0 : Sys2Proof.Port) (a1 : Sys2Proof.AdmMsg) (s : State) (hs : Touches M r s) (hm : 0x68b25de ||| M = M) :
    TouchesR M r (execAdmitMessage a0 a1 s) := by
  refine TouchesR.step hs ?_ hm
  clear hs hm r M
  unfold execAdmitMessage
  repeat' first
    | with_reducible assumption
    | with_reducible apply Touches.refl
    | (extract_lets -underBinder +onlyGivenNames x; (have hty : TypeOf x = State := by with_reducible rfl); clear hty; apply Touches.cut 0x68b25de s x; (case' kk => (clear_value x; intro _)); (case' vv => (unfold x; clear x)))
    | (extract_lets -underBinder +onlyGivenNames x; try clear_value x)
    | with_reducible apply TouchesR.next
    | with_reducible apply TouchesR.fault
    | with_reducible apply TouchesR.ite
    | with_reducible apply Touches.ite
    | ((with_reducible apply admRequestIn_touches); (case hm => rfl))
    | ((with_reducible apply admGo_touches); (case hm => rfl))
    | ((with_reducible apply admVerdictIn_touches); (case hm => rfl))
    | ((with_reducible apply admCommitIn_touches); (case hm => rfl))
    | ((with_reducible apply admAckIn_touches); (case hm => rfl))
    | ((with_reducible apply admWithdrawIn_touches); (case hm => rfl))
    | split

end Sys2Proof.Machine
end

