-- ==== Sys2Proof/Laws/FabRows.lean ====
section
/-! SUPPORT. What each function of Machine/FabRows.lean touches: one lemma per function that answers a state. -/

set_option linter.tactic.unusedName false

namespace Sys2Proof.Machine

theorem gossipRenews_touches {M : Nat} {r : State} (a0 : Nat) (a1 : Sys2Proof.Gossip) (s : State) (hs : Touches M r s) (hm : 0x800000 ||| M = M) :
    Touches M r (gossipRenews a0 a1 s) := by
  refine Touches.step hs ?_ hm
  clear hs hm r M
  unfold gossipRenews
  repeat' first
    | with_reducible assumption
    | with_reducible apply Touches.refl
    | with_reducible apply Touches.ite
    | ((with_reducible apply State.modFab_touches); (case hm => rfl))
    | split

theorem clashIn_touches {M : Nat} {r : State} (a0 : Nat) (s : State) (hs : Touches M r s) (hm : 0x225d6 ||| M = M) :
    Touches M r (clashIn a0 s) := by
  refine Touches.step hs ?_ hm
  clear hs hm r M
  unfold clashIn
  repeat' first
    | with_reducible assumption
    | with_reducible apply Touches.refl
    | (extract_lets -underBinder +onlyGivenNames x; (have hty : TypeOf x = State := by with_reducible rfl); clear hty; apply Touches.cut 0x225d6 s x; (case' kk => (clear_value x; intro _)); (case' vv => (unfold x; clear x)))
    | (extract_lets -underBinder +onlyGivenNames x; try clear_value x)
    | with_reducible apply Touches.ite
    | ((with_reducible apply raise_touches); (case hm => rfl))
    | ((with_reducible apply State.modTab_touches); (case hm => rfl))
    | ((with_reducible apply State.putStream_touches); (case hm => rfl))
    | split

theorem stepDown_touches {M : Nat} {r : State} (a0 : Sys2Proof.CoordMsg) (s : State) (hs : Touches M r s) (hm : 0x800014 ||| M = M) :
    Touches M r (stepDown a0 s) := by
  refine Touches.step hs ?_ hm
  clear hs hm r M
  unfold stepDown
  repeat' first
    | with_reducible assumption
    | (intro _; try dsimp -zeta only)
    | (extract_lets -underBinder +onlyGivenNames x; (have hty : TypeOf x = State := by with_reducible rfl); clear hty; apply Touches.cut 0x800014 s x; (case' kk => (clear_value x; intro _)); (case' vv => (unfold x; clear x)))
    | (extract_lets -underBinder +onlyGivenNames x; try clear_value x)
    | with_reducible apply Touches.refl
    | ((with_reducible apply State.modFab_touches); (case hm => rfl))
    | ((with_reducible apply sendTo_touches); (case hm => rfl))
    | with_reducible apply Touches.foldlD

theorem takeAssigned_touches {M : Nat} {r : State} (a0 : List (Nat × Nat)) (s : State) (hs : Touches M r s) (hm : 0x8005d6 ||| M = M) :
    Touches M r (takeAssigned a0 s) := by
  refine Touches.step hs ?_ hm
  clear hs hm r M
  unfold takeAssigned
  repeat' first
    | with_reducible assumption
    | with_reducible apply Touches.refl
    | with_reducible apply Touches.ite
    | ((with_reducible apply announceLinks_touches); (case hm => rfl))
    | ((with_reducible apply setAddr_touches); (case hm => rfl))
    | split

theorem coordIn_touches {M : Nat} {r : State} (a0 : Nat) (a1 : Sys2Proof.CoordMsg) (s : State) (hs : Touches M r s) (hm : 0x8025d6 ||| M = M) :
    Touches M r (coordIn a0 a1 s) := by
  refine Touches.step hs ?_ hm
  clear hs hm r M
  unfold coordIn
  repeat' first
    | with_reducible assumption
    | with_reducible apply Touches.refl
    | (extract_lets -underBinder +onlyGivenNames x; (have hty : TypeOf x = State := by with_reducible rfl); clear hty; apply Touches.cut 0x8025d6 s x; (case' kk => (clear_value x; intro _)); (case' vv => (unfold x; clear x)))
    | (extract_lets -underBinder +onlyGivenNames x; try clear_value x)
    | with_reducible apply Touches.ite
    | ((with_reducible apply flood_touches); (case hm => rfl))
    | ((with_reducible apply setCoord_touches); (case hm => rfl))
    | ((with_reducible apply stepDown_touches); (case hm => rfl))
    | ((with_reducible apply State.modFab_touches); (case hm => rfl))
    | ((with_reducible apply State.setFld_touches); (case hm => rfl))
    | ((with_reducible apply fabRecompute_touches); (case hm => rfl))
    | ((with_reducible apply coordEvent_touches); (case hm => rfl))
    | ((with_reducible apply takeAssigned_touches); (case hm => rfl))
    | ((with_reducible apply takeSize_touches); (case hm => rfl))
    | split

theorem sendWholeDb_touches {M : Nat} {r : State} (a0 : Nat) (s : State) (hs : Touches M r s) (hm : 0x800014 ||| M = M) :
    Touches M r (sendWholeDb a0 s) := by
  refine Touches.step hs ?_ hm
  clear hs hm r M
  unfold sendWholeDb
  repeat' first
    | with_reducible assumption
    | (intro _; try dsimp -zeta only)
    | with_reducible apply Touches.refl
    | with_reducible apply Touches.ite
    | ((with_reducible apply sendTo_touches); (case hm => rfl))
    | with_reducible apply Touches.foldlD

theorem orderPath_touches {M : Nat} {r : State} (a0 : Nat) (a1 : AdmRec) (a2 : Nat) (a3 : Sys2Proof.PathRec) (s : State) (hs : Touches M r s) (hm : 0x8221de ||| M = M) :
    Touches M r (orderPath a0 a1 a2 a3 s) := by
  refine Touches.step hs ?_ hm
  clear hs hm r M
  unfold orderPath
  repeat' first
    | with_reducible assumption
    | with_reducible apply Touches.refl
    | with_reducible apply Touches.ite
    | ((with_reducible apply startRerun_touches); (case hm => rfl))
    | ((with_reducible apply sendTo_touches); (case hm => rfl))
    | split

theorem repair_touches {M : Nat} {r : State} (a0 : Nat) (s : State) (hs : Touches M r s) (hm : 0x8221de ||| M = M) :
    Touches M r (repair a0 s) := by
  refine Touches.step hs ?_ hm
  clear hs hm r M
  unfold repair
  repeat' first
    | with_reducible assumption
    | with_reducible apply Touches.refl
    | (extract_lets -underBinder +onlyGivenNames x; (have hty : TypeOf x = State := by with_reducible rfl); clear hty; apply Touches.cut 0x8221de s x; (case' kk => (clear_value x; intro _)); (case' vv => (unfold x; clear x)))
    | (extract_lets -underBinder +onlyGivenNames x; try clear_value x)
    | with_reducible apply Touches.ite
    | ((with_reducible apply admPut_touches); (case hm => rfl))
    | ((with_reducible apply orderPath_touches); (case hm => rfl))
    | split

theorem coordReview_touches {M : Nat} {r : State} (s : State) (hs : Touches M r s) (hm : 0x8221de ||| M = M) :
    Touches M r (coordReview s) := by
  refine Touches.step hs ?_ hm
  clear hs hm r M
  unfold coordReview
  repeat' first
    | with_reducible assumption
    | (intro _; try dsimp -zeta only)
    | (extract_lets -underBinder +onlyGivenNames x; (have hty : TypeOf x = State := by with_reducible rfl); clear hty; apply Touches.cut 0x8221de s x; (case' kk => (clear_value x; intro _)); (case' vv => (unfold x; clear x)))
    | (extract_lets -underBinder +onlyGivenNames x; try clear_value x)
    | with_reducible apply Touches.refl
    | with_reducible apply Touches.ite
    | ((with_reducible apply sendWholeDb_touches); (case hm => rfl))
    | ((with_reducible apply judgeSize_touches); (case hm => rfl))
    | ((with_reducible apply keepSuccessor_touches); (case hm => rfl))
    | ((with_reducible apply sendCoord_touches); (case hm => rfl))
    | ((with_reducible apply repair_touches); (case hm => rfl))
    | with_reducible apply Touches.foldlD

theorem dropSending_touches {M : Nat} {r : State} (a0 : Nat) (s : State) (hs : Touches M r s) (hm : 0x321d6 ||| M = M) :
    Touches M r (dropSending a0 s) := by
  refine Touches.step hs ?_ hm
  clear hs hm r M
  unfold dropSending
  repeat' first
    | with_reducible assumption
    | with_reducible apply Touches.refl
    | (extract_lets -underBinder +onlyGivenNames x; (have hty : TypeOf x = State := by with_reducible rfl); clear hty; apply Touches.cut 0x321d6 s x; (case' kk => (clear_value x; intro _)); (case' vv => (unfold x; clear x)))
    | (extract_lets -underBinder +onlyGivenNames x; try clear_value x)
    | ((with_reducible apply discardAll_touches); (case hm => rfl))
    | ((with_reducible apply State.modEport_touches); (case hm => rfl))

theorem execCoordReceived_touches {M : Nat} {r : State} (a0 : Sys2Proof.Port) (a1 : Sys2Proof.CoordMsg) (s : State) (hs : Touches M r s) (hm : 0x8025d6 ||| M = M) :
    TouchesR M r (execCoordReceived a0 a1 s) := by
  refine TouchesR.step hs ?_ hm
  clear hs hm r M
  unfold execCoordReceived
  repeat' first
    | with_reducible assumption
    | with_reducible apply Touches.refl
    | with_reducible apply TouchesR.next
    | with_reducible apply TouchesR.fault
    | with_reducible apply TouchesR.ite
    | with_reducible apply Touches.ite
    | ((with_reducible apply coordIn_touches); (case hm => rfl))

theorem execCoordSend_touches {M : Nat} {r : State} (s : State) (hs : Touches M r s) (hm : 0x8005d6 ||| M = M) :
    TouchesR M r (execCoordSend s) := by
  refine TouchesR.step hs ?_ hm
  clear hs hm r M
  unfold execCoordSend
  repeat' first
    | with_reducible assumption
    | with_reducible apply Touches.refl
    | with_reducible apply TouchesR.next
    | with_reducible apply TouchesR.fault
    | with_reducible apply TouchesR.ite
    | with_reducible apply Touches.ite
    | ((with_reducible apply takeAssigned_touches); (case hm => rfl))
    | ((with_reducible apply judgeSize_touches); (case hm => rfl))
    | ((with_reducible apply sendCoord_touches); (case hm => rfl))

theorem execCoordTimeout_touches {M : Nat} {r : State} (s : State) (hs : Touches M r s) (hm : 0x8225de ||| M = M) :
    TouchesR M r (execCoordTimeout s) := by
  refine TouchesR.step hs ?_ hm
  clear hs hm r M
  unfold execCoordTimeout
  repeat' first
    | with_reducible assumption
    | (intro _; try dsimp -zeta only)
    | (extract_lets -underBinder +onlyGivenNames x; (have hty : TypeOf x = State := by with_reducible rfl); clear hty; apply Touches.cut 0x8225de s x; (case' kk => (clear_value x; intro _)); (case' vv => (unfold x; clear x)))
    | (extract_lets -underBinder +onlyGivenNames x; try clear_value x)
    | with_reducible apply Touches.refl
    | with_reducible apply TouchesR.next
    | with_reducible apply TouchesR.fault
    | with_reducible apply TouchesR.ite
    | with_reducible apply Touches.ite
    | ((with_reducible apply coordReview_touches); (case hm => rfl))
    | ((with_reducible apply sendWholeDb_touches); (case hm => rfl))
    | ((with_reducible apply becomeCoord_touches); (case hm => rfl))
    | ((with_reducible apply reportStream_touches); (case hm => rfl))
    | ((with_reducible apply sendTo_touches); (case hm => rfl))
    | ((with_reducible apply takeAssigned_touches); (case hm => rfl))
    | with_reducible apply Touches.foldlD
    | split

theorem farAnswer_touches {M : Nat} {r : State} (a0 : Nat) (a1 : Nat) (a2 : Nat) (a3 : Sys2Proof.Bytes) (s : State) (hs : Touches M r s) (hm : 0x8000d0 ||| M = M) :
    Touches M r (farAnswer a0 a1 a2 a3 s) := by
  refine Touches.step hs ?_ hm
  clear hs hm r M
  unfold farAnswer
  repeat' first
    | with_reducible assumption
    | with_reducible apply Touches.refl
    | ((with_reducible apply complete_touches); (case hm => rfl))
    | ((with_reducible apply State.modFab_touches); (case hm => rfl))
    | split

theorem execDigestMessage_touches {M : Nat} {r : State} (a0 : Sys2Proof.Port) (a1 : Nat) (a2 : Nat) (a3 : Sys2Proof.DigestMsg) (s : State) (hs : Touches M r s) (hm : 0x8001d6 ||| M = M) :
    TouchesR M r (execDigestMessage a0 a1 a2 a3 s) := by
  refine TouchesR.step hs ?_ hm
  clear hs hm r M
  unfold execDigestMessage
  repeat' first
    | with_reducible assumption
    | with_reducible apply Touches.refl
    | (extract_lets -underBinder +onlyGivenNames x; (have hty : TypeOf x = State := by with_reducible rfl); clear hty; apply Touches.cut 0x8001d6 s x; (case' kk => (clear_value x; intro _)); (case' vv => (unfold x; clear x)))
    | (extract_lets -underBinder +onlyGivenNames x; try clear_value x)
    | with_reducible apply TouchesR.next
    | with_reducible apply TouchesR.fault
    | with_reducible apply TouchesR.ite
    | with_reducible apply Touches.ite
    | ((with_reducible apply relay_touches); (case hm => rfl))
    | ((with_reducible apply sendTo_touches); (case hm => rfl))
    | ((with_reducible apply State.modFab_touches); (case hm => rfl))
    | ((with_reducible apply compareGossip_touches); (case hm => rfl))
    | ((with_reducible apply farAnswer_touches); (case hm => rfl))
    | split

theorem farWait_touches {M : Nat} {r : State} (a0 : Sys2Proof.CmdCtx) (a1 : Nat) (a2 : Nat) (s : State) (hs : Touches M r s) (hm : 0x800000 ||| M = M) :
    Touches M r (farWait a0 a1 a2 s) := by
  refine Touches.step hs ?_ hm
  clear hs hm r M
  unfold farWait
  repeat' first
    | with_reducible assumption
    | with_reducible apply Touches.refl
    | ((with_reducible apply State.modFab_touches); (case hm => rfl))

theorem execFabDigestQuery_touches {M : Nat} {r : State} (a0 : Sys2Proof.CmdCtx) (s : State) (hs : Touches M r s) (hm : 0x88000d4 ||| M = M) :
    TouchesR M r (execFabDigestQuery a0 s) := by
  refine TouchesR.step hs ?_ hm
  clear hs hm r M
  unfold execFabDigestQuery
  repeat' first
    | with_reducible assumption
    | (intro _; try dsimp -zeta only)
    | (extract_lets -underBinder +onlyGivenNames x; (have hty : TypeOf x = State := by with_reducible rfl); clear hty; apply Touches.cut 0x88000d4 s x; (case' kk => (clear_value x; intro _)); (case' vv => (unfold x; clear x)))
    | (extract_lets -underBinder +onlyGivenNames x; try clear_value x)
    | with_reducible apply Touches.refl
    | with_reducible apply TouchesR.next
    | with_reducible apply TouchesR.fault
    | with_reducible apply TouchesR.ite
    | with_reducible apply Touches.ite
    | ((with_reducible apply command_touches); (case hm => rfl))
    | ((with_reducible apply complete_touches); (case hm => rfl))
    | ((with_reducible apply sendTo_touches); (case hm => rfl))
    | ((with_reducible apply farWait_touches); (case hm => rfl))

theorem execFabRemoteCommandTimeout_touches {M : Nat} {r : State} (s : State) (hs : Touches M r s) (hm : 0x8000d0 ||| M = M) :
    TouchesR M r (execFabRemoteCommandTimeout s) := by
  refine TouchesR.step hs ?_ hm
  clear hs hm r M
  unfold execFabRemoteCommandTimeout
  repeat' first
    | with_reducible assumption
    | with_reducible apply Touches.refl
    | with_reducible apply TouchesR.next
    | with_reducible apply TouchesR.fault
    | ((with_reducible apply complete_touches); (case hm => rfl))
    | ((with_reducible apply State.modFab_touches); (case hm => rfl))
    | split

theorem linkDown_touches {M : Nat} {r : State} (a0 : Nat) (s : State) (hs : Touches M r s) (hm : 0x361d6 ||| M = M) :
    Touches M r (linkDown a0 s) := by
  refine Touches.step hs ?_ hm
  clear hs hm r M
  unfold linkDown
  repeat' first
    | with_reducible assumption
    | (intro _; try dsimp -zeta only)
    | (extract_lets -underBinder +onlyGivenNames x; (have hty : TypeOf x = State := by with_reducible rfl); clear hty; apply Touches.cut 0x361d6 s x; (case' kk => (clear_value x; intro _)); (case' vv => (unfold x; clear x)))
    | (extract_lets -underBinder +onlyGivenNames x; try clear_value x)
    | with_reducible apply Touches.refl
    | with_reducible apply Touches.ite
    | ((with_reducible apply portDestsLost_touches); (case hm => rfl))
    | ((with_reducible apply flushPort_touches); (case hm => rfl))
    | ((with_reducible apply dropSending_touches); (case hm => rfl))
    | ((with_reducible apply Touches.links); (case hm => rfl))

theorem fabricDown_touches {M : Nat} {r : State} (a0 : Nat) (s : State) (hs : Touches M r s) (hm : 0x8365de ||| M = M) :
    Touches M r (fabricDown a0 s) := by
  refine Touches.step hs ?_ hm
  clear hs hm r M
  unfold fabricDown
  repeat' first
    | with_reducible assumption
    | with_reducible apply Touches.refl
    | with_reducible apply Touches.ite
    | ((with_reducible apply coordReview_touches); (case hm => rfl))
    | ((with_reducible apply nbrLost_touches); (case hm => rfl))
    | ((with_reducible apply linkDown_touches); (case hm => rfl))

theorem execFabricLinkDown_touches {M : Nat} {r : State} (a0 : Sys2Proof.Port) (s : State) (hs : Touches M r s) (hm : 0x8365de ||| M = M) :
    TouchesR M r (execFabricLinkDown a0 s) := by
  refine TouchesR.step hs ?_ hm
  clear hs hm r M
  unfold execFabricLinkDown
  repeat' first
    | with_reducible assumption
    | with_reducible apply Touches.refl
    | with_reducible apply TouchesR.next
    | with_reducible apply TouchesR.fault
    | with_reducible apply TouchesR.ite
    | with_reducible apply Touches.ite
    | ((with_reducible apply fabricDown_touches); (case hm => rfl))

theorem execGossipReceived_touches {M : Nat} {r : State} (a0 : Sys2Proof.Port) (a1 : Sys2Proof.Gossip) (s : State) (hs : Touches M r s) (hm : 0x8001d6 ||| M = M) :
    TouchesR M r (execGossipReceived a0 a1 s) := by
  refine TouchesR.step hs ?_ hm
  clear hs hm r M
  unfold execGossipReceived
  repeat' first
    | with_reducible assumption
    | with_reducible apply Touches.refl
    | ((with_reducible apply gossipRenews_touches); (case hm => rfl))
    | (extract_lets -underBinder +onlyGivenNames x; (have hty : TypeOf x = State := by with_reducible rfl); clear hty; apply Touches.cut 0x8001d6 s x; (case' kk => (clear_value x; intro _)); (case' vv => (unfold x; clear x)))
    | (extract_lets -underBinder +onlyGivenNames x; try clear_value x)
    | with_reducible apply TouchesR.next
    | with_reducible apply TouchesR.fault
    | with_reducible apply TouchesR.ite
    | with_reducible apply Touches.ite
    | ((with_reducible apply flood_touches); (case hm => rfl))
    | ((with_reducible apply compareGossip_touches); (case hm => rfl))
    | ((with_reducible apply State.modFab_touches); (case hm => rfl))

theorem execGossipSend_touches {M : Nat} {r : State} (s : State) (hs : Touches M r s) (hm : 0x8001d6 ||| M = M) :
    TouchesR M r (execGossipSend s) := by
  refine TouchesR.step hs ?_ hm
  clear hs hm r M
  unfold execGossipSend
  repeat' first
    | with_reducible assumption
    | (intro _; try dsimp -zeta only)
    | (extract_lets -underBinder +onlyGivenNames x; (have hty : TypeOf x = State := by with_reducible rfl); clear hty; apply Touches.cut 0x8001d6 s x; (case' kk => (clear_value x; intro _)); (case' vv => (unfold x; clear x)))
    | (extract_lets -underBinder +onlyGivenNames x; try clear_value x)
    | with_reducible apply Touches.refl
    | with_reducible apply TouchesR.next
    | with_reducible apply TouchesR.fault
    | with_reducible apply TouchesR.ite
    | with_reducible apply Touches.ite
    | ((with_reducible apply State.modFab_touches); (case hm => rfl))
    | ((with_reducible apply compareGossip_touches); (case hm => rfl))
    | ((with_reducible apply flood_touches); (case hm => rfl))
    | ((with_reducible apply sendOn_touches); (case hm => rfl))
    | with_reducible apply Touches.foldlD
    | split

theorem execHelloMissExpiry_touches {M : Nat} {r : State} (a0 : Sys2Proof.Port) (s : State) (hs : Touches M r s) (hm : 0x8225de ||| M = M) :
    TouchesR M r (execHelloMissExpiry a0 s) := by
  refine TouchesR.step hs ?_ hm
  clear hs hm r M
  unfold execHelloMissExpiry
  repeat' first
    | with_reducible assumption
    | with_reducible apply Touches.refl
    | with_reducible apply TouchesR.next
    | with_reducible apply TouchesR.fault
    | with_reducible apply TouchesR.ite
    | with_reducible apply Touches.ite
    | ((with_reducible apply coordReview_touches); (case hm => rfl))
    | ((with_reducible apply nbrLost_touches); (case hm => rfl))
    | split

theorem execHelloReceived_touches {M : Nat} {r : State} (a0 : Sys2Proof.Port) (a1 : Sys2Proof.Hello) (s : State) (hs : Touches M r s) (hm : 0x18325de ||| M = M) :
    TouchesR M r (execHelloReceived a0 a1 s) := by
  refine TouchesR.step hs ?_ hm
  clear hs hm r M
  unfold execHelloReceived
  repeat' first
    | with_reducible assumption
    | with_reducible apply Touches.refl
    | with_reducible apply TouchesR.next
    | with_reducible apply TouchesR.fault
    | with_reducible apply TouchesR.ite
    | with_reducible apply Touches.ite
    | ((with_reducible apply coordReview_touches); (case hm => rfl))
    | ((with_reducible apply helloIn_touches); (case hm => rfl))
    | ((with_reducible apply State.modFab_touches); (case hm => rfl))
    | split

theorem sayHello_touches {M : Nat} {r : State} (s : State) (a1 : Nat) (hs : Touches M r s) (hm : 0x800014 ||| M = M) :
    Touches M r (sayHello s a1) := by
  refine Touches.step hs ?_ hm
  clear hs hm r M
  unfold sayHello
  repeat' first
    | with_reducible assumption
    | with_reducible apply Touches.refl
    | (extract_lets -underBinder +onlyGivenNames x; (have hty : TypeOf x = State := by with_reducible rfl); clear hty; apply Touches.cut 0x800014 s x; (case' kk => (clear_value x; intro _)); (case' vv => (unfold x; clear x)))
    | (extract_lets -underBinder +onlyGivenNames x; try clear_value x)
    | ((with_reducible apply sendOn_touches); (case hm => rfl))
    | ((with_reducible apply State.modFab_touches); (case hm => rfl))

theorem repeatHello_touches {M : Nat} {r : State} (s : State) (a1 : Nat) (hs : Touches M r s) (hm : 0x800014 ||| M = M) :
    Touches M r (repeatHello s a1) := by
  refine Touches.step hs ?_ hm
  clear hs hm r M
  unfold repeatHello
  repeat' first
    | with_reducible assumption
    | with_reducible apply Touches.refl
    | ((with_reducible apply sendOn_touches); (case hm => rfl))
    | split

theorem execHelloSend_touches {M : Nat} {r : State} (s : State) (hs : Touches M r s) (hm : 0x8005d6 ||| M = M) :
    TouchesR M r (execHelloSend s) := by
  refine TouchesR.step hs ?_ hm
  clear hs hm r M
  unfold execHelloSend
  dsimp only
  repeat' first
    | with_reducible assumption
    | (intro _; try dsimp -zeta only)
    | (extract_lets -underBinder +onlyGivenNames x; (have hty : TypeOf x = State := by with_reducible rfl); clear hty; apply Touches.cut 0x8005d6 s x; (case' kk => (clear_value x; intro _)); (case' vv => (unfold x; clear x)))
    | (extract_lets -underBinder +onlyGivenNames x; try clear_value x)
    | with_reducible apply Touches.refl
    | with_reducible apply TouchesR.next
    | with_reducible apply TouchesR.fault
    | with_reducible apply TouchesR.ite
    | with_reducible apply Touches.ite
    | ((with_reducible apply State.modFab_touches); (case hm => rfl))
    | ((with_reducible apply takeSeat_touches); (case hm => rfl))
    | ((with_reducible apply sayHello_touches); (case hm => rfl))
    | ((with_reducible apply repeatHello_touches); (case hm => rfl))
    | with_reducible apply Touches.foldlD

theorem linkStateIn_touches {M : Nat} {r : State} (a0 : Nat) (a1 : Sys2Proof.LinkState) (s : State) (hs : Touches M r s) (hm : 0x18325de ||| M = M) :
    Touches M r (linkStateIn a0 a1 s) := by
  refine Touches.step hs ?_ hm
  clear hs hm r M
  unfold linkStateIn
  repeat' first
    | with_reducible assumption
    | with_reducible apply Touches.refl
    | (extract_lets -underBinder +onlyGivenNames x; (have hty : TypeOf x = State := by with_reducible rfl); clear hty; apply Touches.cut 0x18325de s x; (case' kk => (clear_value x; intro _)); (case' vv => (unfold x; clear x)))
    | (extract_lets -underBinder +onlyGivenNames x; try clear_value x)
    | with_reducible apply Touches.ite
    | ((with_reducible apply fabRecompute_touches); (case hm => rfl))
    | ((with_reducible apply routeGone_touches); (case hm => rfl))
    | ((with_reducible apply State.modFab_touches); (case hm => rfl))
    | ((with_reducible apply flood_touches); (case hm => rfl))
    | ((with_reducible apply handoverSeen_touches); (case hm => rfl))
    | ((with_reducible apply claim_touches); (case hm => rfl))
    | ((with_reducible apply coordReview_touches); (case hm => rfl))
    | ((with_reducible apply TouchesO.get); (case eqn => assumption))
    | with_reducible apply Touches.getD
    | split

theorem execLinkStateReceived_touches {M : Nat} {r : State} (a0 : Sys2Proof.Port) (a1 : Sys2Proof.LinkState) (s : State) (hs : Touches M r s) (hm : 0x18325de ||| M = M) :
    TouchesR M r (execLinkStateReceived a0 a1 s) := by
  refine TouchesR.step hs ?_ hm
  clear hs hm r M
  unfold execLinkStateReceived
  repeat' first
    | with_reducible assumption
    | with_reducible apply Touches.refl
    | with_reducible apply TouchesR.next
    | with_reducible apply TouchesR.fault
    | with_reducible apply TouchesR.ite
    | with_reducible apply Touches.ite
    | ((with_reducible apply linkStateIn_touches); (case hm => rfl))

theorem execLinkStateSend_touches {M : Nat} {r : State} (s : State) (hs : Touches M r s) (hm : 0x8005d6 ||| M = M) :
    TouchesR M r (execLinkStateSend s) := by
  refine TouchesR.step hs ?_ hm
  clear hs hm r M
  unfold execLinkStateSend
  repeat' first
    | with_reducible assumption
    | with_reducible apply Touches.refl
    | with_reducible apply TouchesR.next
    | with_reducible apply TouchesR.fault
    | with_reducible apply TouchesR.ite
    | with_reducible apply Touches.ite
    | ((with_reducible apply announceLinks_touches); (case hm => rfl))

theorem reportIn_touches {M : Nat} {r : State} (a0 : Nat) (a1 : Sys2Proof.Bytes) (a2 : List Sys2Proof.PathRec) (a3 : Bool) (a4 : Bool) (a5 : Bool) (s : State) (hs : Touches M r s) (hm : 0x8221de ||| M = M) :
    Touches M r (reportIn a0 a1 a2 a3 a4 a5 s) := by
  refine Touches.step hs ?_ hm
  clear hs hm r M
  unfold reportIn
  repeat' first
    | with_reducible assumption
    | with_reducible apply Touches.refl
    | (extract_lets -underBinder +onlyGivenNames x; (have hty : TypeOf x = State := by with_reducible rfl); clear hty; apply Touches.cut 0x8221de s x; (case' kk => (clear_value x; intro _)); (case' vv => (unfold x; clear x)))
    | (extract_lets -underBinder +onlyGivenNames x; try clear_value x)
    | with_reducible apply Touches.ite
    | ((with_reducible apply sendTo_touches); (case hm => rfl))
    | ((with_reducible apply admReport_touches); (case hm => rfl))
    | ((with_reducible apply repair_touches); (case hm => rfl))
    | split

theorem releaseAnswers_touches {M : Nat} {r : State} (a0 : Nat) (s : State) (hs : Touches M r s) (hm : 0x68b25de ||| M = M) :
    Touches M r (releaseAnswers a0 s) := by
  refine Touches.step hs ?_ hm
  clear hs hm r M
  unfold releaseAnswers
  repeat' first
    | with_reducible assumption
    | (intro _; try dsimp -zeta only)
    | (extract_lets -underBinder +onlyGivenNames x; (have hty : TypeOf x = State := by with_reducible rfl); clear hty; apply Touches.cut 0x68b25de s x; (case' kk => (clear_value x; intro _)); (case' vv => (unfold x; clear x)))
    | (extract_lets -underBinder +onlyGivenNames x; try clear_value x)
    | with_reducible apply Touches.refl
    | with_reducible apply Touches.ite
    | ((with_reducible apply State.modFab_touches); (case hm => rfl))
    | ((with_reducible apply admGo_touches); (case hm => rfl))
    | ((with_reducible apply ingressHop_touches); (case hm => rfl))
    | ((with_reducible apply sendTo_touches); (case hm => rfl))
    | with_reducible apply Touches.foldlD
    | split

theorem pathsIn_touches {M : Nat} {r : State} (a0 : Sys2Proof.PathsMsg) (s : State) (hs : Touches M r s) (hm : 0x68b25de ||| M = M) :
    Touches M r (pathsIn a0 s) := by
  refine Touches.step hs ?_ hm
  clear hs hm r M
  unfold pathsIn
  repeat' first
    | with_reducible assumption
    | (intro _; try dsimp -zeta only)
    | (extract_lets -underBinder +onlyGivenNames x; (have hty : TypeOf x = State := by with_reducible rfl); clear hty; apply Touches.cut 0x68b25de s x; (case' kk => (clear_value x; intro _)); (case' vv => (unfold x; clear x)))
    | (extract_lets -underBinder +onlyGivenNames x; try clear_value x)
    | with_reducible apply Touches.refl
    | with_reducible apply Touches.ite
    | ((with_reducible apply coordAnswer_touches); (case hm => rfl))
    | ((with_reducible apply admGo_touches); (case hm => rfl))
    | ((with_reducible apply ingressHop_touches); (case hm => rfl))
    | ((with_reducible apply startRerun_touches); (case hm => rfl))
    | ((with_reducible apply reportIn_touches); (case hm => rfl))
    | ((with_reducible apply State.modFab_touches); (case hm => rfl))
    | ((with_reducible apply sendTo_touches); (case hm => rfl))
    | ((with_reducible apply releaseAnswers_touches); (case hm => rfl))
    | ((with_reducible apply statesSaid_touches); (case hm => rfl))
    | ((with_reducible apply clashIn_touches); (case hm => rfl))
    | with_reducible apply Touches.foldlD
    | ((with_reducible apply Touches.fst); (case eqn => assumption))
    | split

theorem execPathsMessage_touches {M : Nat} {r : State} (a0 : Sys2Proof.Port) (a1 : Nat) (a2 : Sys2Proof.PathsMsg) (s : State) (hs : Touches M r s) (hm : 0x68b25de ||| M = M) :
    TouchesR M r (execPathsMessage a0 a1 a2 s) := by
  refine TouchesR.step hs ?_ hm
  clear hs hm r M
  unfold execPathsMessage
  repeat' first
    | with_reducible assumption
    | with_reducible apply Touches.refl
    | with_reducible apply TouchesR.next
    | with_reducible apply TouchesR.fault
    | with_reducible apply TouchesR.ite
    | with_reducible apply Touches.ite
    | ((with_reducible apply relay_touches); (case hm => rfl))
    | ((with_reducible apply pathsIn_touches); (case hm => rfl))

theorem execSizeModeSwitch_touches {M : Nat} {r : State} (s : State) (hs : Touches M r s) (hm : 0x8021d6 ||| M = M) :
    TouchesR M r (execSizeModeSwitch s) := by
  refine TouchesR.step hs ?_ hm
  clear hs hm r M
  unfold execSizeModeSwitch
  repeat' first
    | with_reducible assumption
    | with_reducible apply Touches.refl
    | (extract_lets -underBinder +onlyGivenNames x; (have hty : TypeOf x = State := by with_reducible rfl); clear hty; apply Touches.cut 0x8021d6 s x; (case' kk => (clear_value x; intro _)); (case' vv => (unfold x; clear x)))
    | (extract_lets -underBinder +onlyGivenNames x; try clear_value x)
    | with_reducible apply TouchesR.next
    | with_reducible apply TouchesR.fault
    | with_reducible apply TouchesR.ite
    | with_reducible apply Touches.ite
    | ((with_reducible apply State.modFab_touches); (case hm => rfl))
    | ((with_reducible apply takeSize_touches); (case hm => rfl))
    | split

theorem execWithdrawReceived_touches {M : Nat} {r : State} (a0 : Sys2Proof.Port) (a1 : Nat) (a2 : Nat) (s : State) (hs : Touches M r s) (hm : 0x8225de ||| M = M) :
    TouchesR M r (execWithdrawReceived a0 a1 a2 s) := by
  refine TouchesR.step hs ?_ hm
  clear hs hm r M
  unfold execWithdrawReceived
  repeat' first
    | with_reducible assumption
    | with_reducible apply Touches.refl
    | (extract_lets -underBinder +onlyGivenNames x; (have hty : TypeOf x = State := by with_reducible rfl); clear hty; apply Touches.cut 0x8225de s x; (case' kk => (clear_value x; intro _)); (case' vv => (unfold x; clear x)))
    | (extract_lets -underBinder +onlyGivenNames x; try clear_value x)
    | with_reducible apply TouchesR.next
    | with_reducible apply TouchesR.fault
    | with_reducible apply TouchesR.ite
    | with_reducible apply Touches.ite
    | ((with_reducible apply State.modFab_touches); (case hm => rfl))
    | ((with_reducible apply coordReview_touches); (case hm => rfl))
    | ((with_reducible apply fabRecompute_touches); (case hm => rfl))
    | split

end Sys2Proof.Machine
end

