-- ==== Sys2Proof/Laws/Recovery.lean ====
section
/-! SUPPORT. What each function of Machine/Recovery.lean touches: one lemma per function that answers a state. -/

set_option linter.tactic.unusedName false

namespace Sys2Proof.Machine

theorem State.modRecov_touches {M : Nat} {r : State} (s : State) (a1 : Nat) (a2 : Recov → Recov) (hs : Touches M r s) (hm : 0x20000 ||| M = M) :
    Touches M r (State.modRecov s a1 a2) := by
  refine Touches.step hs ?_ hm
  clear hs hm r M
  unfold State.modRecov
  repeat' first
    | with_reducible assumption
    | with_reducible apply Touches.refl
    | ((with_reducible apply State.modStream_touches); (case hm => rfl))

theorem deliver_touches {M : Nat} {r : State} (a0 : HeldCopy) (s : State) (hs : Touches M r s) (hm : 0x321d6 ||| M = M) :
    Touches M r (deliver a0 s) := by
  refine Touches.step hs ?_ hm
  clear hs hm r M
  unfold deliver
  repeat' first
    | with_reducible assumption
    | (intro _; try dsimp -zeta only)
    | with_reducible apply Touches.refl
    | with_reducible apply Touches.ite
    | ((with_reducible apply enqueue_touches); (case hm => rfl))
    | with_reducible apply Touches.foldlD
    | split

theorem eliminate_touches {M : Nat} {r : State} (a0 : Nat) (a1 : HeldCopy) (s : State) (hs : Touches M r s) (hm : 0x321d6 ||| M = M) :
    Touches M r (eliminate a0 a1 s) := by
  refine Touches.step hs ?_ hm
  clear hs hm r M
  unfold eliminate
  repeat' first
    | with_reducible assumption
    | (intro _; try dsimp -zeta only)
    | (extract_lets -underBinder +onlyGivenNames x; (have hty : TypeOf x = State := by with_reducible rfl); clear hty; apply Touches.cut 0x321d6 s x; (case' kk => (clear_value x; intro _)); (case' vv => (unfold x; clear x)))
    | (extract_lets -underBinder +onlyGivenNames x; try clear_value x)
    | with_reducible apply Touches.refl
    | with_reducible apply Touches.ite
    | ((with_reducible apply State.bump_touches); (case hm => rfl))
    | ((with_reducible apply State.modStream_touches); (case hm => rfl))
    | ((with_reducible apply release_touches); (case hm => rfl))
    | with_reducible apply Touches.foldlD
    | split

theorem epochEvents_touches {M : Nat} {r : State} (a0 : List (Nat × Stream)) (s : State) (hs : Touches M r s) (hm : 0x1c6 ||| M = M) :
    Touches M r (epochEvents a0 s) := by
  refine Touches.step hs ?_ hm
  clear hs hm r M
  unfold epochEvents
  repeat' first
    | with_reducible assumption
    | (intro _; try dsimp -zeta only)
    | with_reducible apply Touches.refl
    | with_reducible apply Touches.ite
    | ((with_reducible apply raise_touches); (case hm => rfl))
    | with_reducible apply Touches.foldlD
    | split

theorem writeEpochs_touches {M : Nat} {r : State} (s : State) (hs : Touches M r s) (hm : 0x2020000 ||| M = M) :
    Touches M r (writeEpochs s) := by
  refine Touches.step hs ?_ hm
  clear hs hm r M
  unfold writeEpochs
  repeat' first
    | with_reducible assumption
    | (intro _; try dsimp -zeta only)
    | (extract_lets -underBinder +onlyGivenNames x; (have hty : TypeOf x = State := by with_reducible rfl); clear hty; apply Touches.cut 0x2020000 s x; (case' kk => (clear_value x; intro _)); (case' vv => (unfold x; clear x)))
    | (extract_lets -underBinder +onlyGivenNames x; try clear_value x)
    | with_reducible apply Touches.refl
    | with_reducible apply Touches.ite
    | with_reducible apply Touches.foldlD
    | ((with_reducible apply Touches.streams); (case hm => rfl))
    | ((with_reducible apply Touches.flash); (case hm => rfl))
    | ((with_reducible apply Touches.lit (F := 0x2020000)); (case l1 => with_reducible rfl); (case l2 => with_reducible rfl); (case l3 => with_reducible rfl); (case l4 => with_reducible rfl); (case l5 => rfl); (case hm => rfl); (case ag => (constructor <;> first | exact tb rfl | exact fun _ => rfl)))

theorem execEpochRecordWritten_touches {M : Nat} {r : State} (s : State) (hs : Touches M r s) (hm : 0x2020000 ||| M = M) :
    TouchesR M r (execEpochRecordWritten s) := by
  refine TouchesR.step hs ?_ hm
  clear hs hm r M
  unfold execEpochRecordWritten
  repeat' first
    | with_reducible assumption
    | with_reducible apply Touches.refl
    | with_reducible apply TouchesR.next
    | with_reducible apply TouchesR.fault
    | ((with_reducible apply writeEpochs_touches); (case hm => rfl))

theorem pathSnapshot_touches {M : Nat} {r : State} (a0 : Nat) (s : State) (hs : Touches M r s) (hm : 0x2 ||| M = M) :
    Touches M r (pathSnapshot a0 s) := by
  refine Touches.step hs ?_ hm
  clear hs hm r M
  unfold pathSnapshot
  repeat' first
    | with_reducible assumption
    | with_reducible apply Touches.refl
    | (extract_lets -underBinder +onlyGivenNames x; (have hty : TypeOf x = State := by with_reducible rfl); clear hty; apply Touches.cut 0x2 s x; (case' kk => (clear_value x; intro _)); (case' vv => (unfold x; clear x)))
    | (extract_lets -underBinder +onlyGivenNames x; try clear_value x)
    | with_reducible apply Touches.ite
    | ((with_reducible apply State.setFld_touches); (case hm => rfl))
    | ((with_reducible apply State.setReg_touches); (case hm => rfl))
    | split

theorem execPathSnapshot_touches {M : Nat} {r : State} (a0 : Sys2Proof.Src) (a1 : Nat) (s : State) (hs : Touches M r s) (hm : 0x22 ||| M = M) :
    TouchesR M r (execPathSnapshot a0 a1 s) := by
  refine TouchesR.step hs ?_ hm
  clear hs hm r M
  unfold execPathSnapshot
  repeat' first
    | with_reducible assumption
    | (intro _; try dsimp -zeta only)
    | with_reducible apply Touches.refl
    | with_reducible apply TouchesR.next
    | with_reducible apply TouchesR.fault
    | ((with_reducible apply busRow_touches); (case hm => rfl))
    | ((with_reducible apply pathSnapshot_touches); (case hm => rfl))

theorem takeRecovery_touches {M : Nat} {r : State} {s t : State} {w : Waiting} (eqn : takeRecovery s = some (w, t)) (hs : Touches M r s)
    (hm : 0x10000 ||| M = M) : Touches M r t := by
  unfold takeRecovery at eqn
  split at eqn
  · exact absurd eqn (by simp)
  · rename_i q _
    cases hf : s.mem.recWait.find? (fun w => w.quad = q) with
    | none => rw [hf] at eqn; exact absurd eqn (by simp)
    | some v =>
      rw [hf] at eqn
      obtain ⟨-, h⟩ := Prod.mk.inj (Option.some.inj eqn)
      rw [← h]
      exact Touches.mem hs hm

theorem passNumbers_touches {M : Nat} {r : State} (a0 : Nat) (a1 : Nat) (a2 : Nat) (s : State) (hs : Touches M r s) (hm : 0x321d6 ||| M = M) :
    Touches M r (passNumbers a0 a1 a2 s) := by
  refine Touches.step hs ?_ hm
  clear hs hm r M
  suffices hq : ∀ r, Touches 0x321d6 r s → Touches 0x321d6 r (passNumbers a0 a1 a2 s) from hq _ (Touches.refl _ _)
  induction a1 generalizing a0 a2 s with
  | zero =>
    intro r hs
    unfold passNumbers
    repeat' first
      | with_reducible assumption
      | (intro _; try dsimp -zeta only)
      | (extract_lets -underBinder +onlyGivenNames x; (have hty : TypeOf x = State := by with_reducible rfl); clear hty; apply Touches.cut 0x321d6 r x; (case' kk => (clear_value x; intro _)); (case' vv => (unfold x; clear x)))
      | (extract_lets -underBinder +onlyGivenNames x; try clear_value x)
      | with_reducible apply Touches.refl
      | with_reducible apply Touches.ite
      | with_reducible apply ih
      | ((with_reducible apply deliver_touches); (case hm => rfl))
      | ((with_reducible apply State.modRecov_touches); (case hm => rfl))
      | ((with_reducible apply State.modStream_touches); (case hm => rfl))
      | with_reducible apply Touches.foldlD
      | split
  | succ k ih =>
    intro r hs
    unfold passNumbers
    repeat' first
      | with_reducible assumption
      | (intro _; try dsimp -zeta only)
      | (extract_lets -underBinder +onlyGivenNames x; (have hty : TypeOf x = State := by with_reducible rfl); clear hty; apply Touches.cut 0x321d6 r x; (case' kk => (clear_value x; intro _)); (case' vv => (unfold x; clear x)))
      | (extract_lets -underBinder +onlyGivenNames x; try clear_value x)
      | with_reducible apply Touches.refl
      | with_reducible apply Touches.ite
      | with_reducible apply ih
      | ((with_reducible apply deliver_touches); (case hm => rfl))
      | ((with_reducible apply State.modRecov_touches); (case hm => rfl))
      | ((with_reducible apply State.modStream_touches); (case hm => rfl))
      | with_reducible apply Touches.foldlD
      | split

theorem gapBelow_touches {M : Nat} {r : State} (a0 : Nat) (a1 : Nat) (a2 : Bool) (s : State) (hs : Touches M r s) (hm : 0x321d6 ||| M = M) :
    Touches M r (gapBelow a0 a1 a2 s) := by
  refine Touches.step hs ?_ hm
  clear hs hm r M
  unfold gapBelow
  repeat' first
    | with_reducible assumption
    | with_reducible apply Touches.refl
    | (extract_lets -underBinder +onlyGivenNames x; (have hty : TypeOf x = State := by with_reducible rfl); clear hty; apply Touches.cut 0x321d6 s x; (case' kk => (clear_value x; intro _)); (case' vv => (unfold x; clear x)))
    | (extract_lets -underBinder +onlyGivenNames x; try clear_value x)
    | with_reducible apply Touches.ite
    | ((with_reducible apply passNumbers_touches); (case hm => rfl))
    | ((with_reducible apply State.bumpBy_touches); (case hm => rfl))
    | ((with_reducible apply raise_touches); (case hm => rfl))
    | split

theorem releaseInOrder_touches {M : Nat} {r : State} (a0 : Nat) (a1 : Nat) (s : State) (hs : Touches M r s) (hm : 0x321d6 ||| M = M) :
    Touches M r (releaseInOrder a0 a1 s) := by
  refine Touches.step hs ?_ hm
  clear hs hm r M
  suffices hq : ∀ r, Touches 0x321d6 r s → Touches 0x321d6 r (releaseInOrder a0 a1 s) from hq _ (Touches.refl _ _)
  induction a1 generalizing a0 s with
  | zero =>
    intro r hs
    unfold releaseInOrder
    repeat' first
      | with_reducible assumption
      | (intro _; try dsimp -zeta only)
      | (extract_lets -underBinder +onlyGivenNames x; (have hty : TypeOf x = State := by with_reducible rfl); clear hty; apply Touches.cut 0x321d6 r x; (case' kk => (clear_value x; intro _)); (case' vv => (unfold x; clear x)))
      | (extract_lets -underBinder +onlyGivenNames x; try clear_value x)
      | with_reducible apply Touches.refl
      | with_reducible apply Touches.ite
      | with_reducible apply ih
      | ((with_reducible apply passNumbers_touches); (case hm => rfl))
      | with_reducible apply Touches.foldlD
      | split
  | succ k ih =>
    intro r hs
    unfold releaseInOrder
    repeat' first
      | with_reducible assumption
      | (intro _; try dsimp -zeta only)
      | (extract_lets -underBinder +onlyGivenNames x; (have hty : TypeOf x = State := by with_reducible rfl); clear hty; apply Touches.cut 0x321d6 r x; (case' kk => (clear_value x; intro _)); (case' vv => (unfold x; clear x)))
      | (extract_lets -underBinder +onlyGivenNames x; try clear_value x)
      | with_reducible apply Touches.refl
      | with_reducible apply Touches.ite
      | with_reducible apply ih
      | ((with_reducible apply passNumbers_touches); (case hm => rfl))
      | with_reducible apply Touches.foldlD
      | split

theorem recoverCopy_touches {M : Nat} {r : State} (a0 : Nat) (a1 : HeldCopy) (s : State) (hs : Touches M r s) (hm : 0x321d6 ||| M = M) :
    Touches M r (recoverCopy a0 a1 s) := by
  refine Touches.step hs ?_ hm
  clear hs hm r M
  unfold recoverCopy
  repeat' first
    | with_reducible assumption
    | with_reducible apply Touches.refl
    | (extract_lets -underBinder +onlyGivenNames x; (have hty : TypeOf x = State := by with_reducible rfl); clear hty; apply Touches.cut 0x321d6 s x; (case' kk => (clear_value x; intro _)); (case' vv => (unfold x; clear x)))
    | (extract_lets -underBinder +onlyGivenNames x; try clear_value x)
    | with_reducible apply Touches.ite
    | ((with_reducible apply eliminate_touches); (case hm => rfl))
    | ((with_reducible apply State.modRecov_touches); (case hm => rfl))
    | ((with_reducible apply gapBelow_touches); (case hm => rfl))
    | ((with_reducible apply releaseInOrder_touches); (case hm => rfl))
    | split

theorem recoverNext_touches {M : Nat} {r : State} (s : State) (hs : Touches M r s) (hm : 0x321d6 ||| M = M) :
    Touches M r (recoverNext s) := by
  refine Touches.step hs ?_ hm
  clear hs hm r M
  unfold recoverNext
  repeat' first
    | with_reducible assumption
    | with_reducible apply Touches.refl
    | with_reducible apply Touches.ite
    | ((with_reducible apply recoverCopy_touches); (case hm => rfl))
    | ((with_reducible apply State.bump_touches); (case hm => rfl))
    | ((with_reducible apply takeRecovery_touches); (case eqn => assumption); (case hm => rfl))
    | split

theorem execRecoveryCopy_touches {M : Nat} {r : State} (s : State) (hs : Touches M r s) (hm : 0x321d6 ||| M = M) :
    TouchesR M r (execRecoveryCopy s) := by
  refine TouchesR.step hs ?_ hm
  clear hs hm r M
  unfold execRecoveryCopy
  repeat' first
    | with_reducible assumption
    | with_reducible apply Touches.refl
    | with_reducible apply TouchesR.next
    | with_reducible apply TouchesR.fault
    | ((with_reducible apply recoverNext_touches); (case hm => rfl))

theorem recoverAll_touches {M : Nat} {r : State} (a0 : Nat) (s : State) (hs : Touches M r s) (hm : 0x321d6 ||| M = M) :
    Touches M r (recoverAll a0 s) := by
  refine Touches.step hs ?_ hm
  clear hs hm r M
  suffices hq : ∀ r, Touches 0x321d6 r s → Touches 0x321d6 r (recoverAll a0 s) from hq _ (Touches.refl _ _)
  induction a0 generalizing s with
  | zero =>
    intro r hs
    unfold recoverAll
    repeat' first
      | with_reducible assumption
      | (intro _; try dsimp -zeta only)
      | (extract_lets -underBinder +onlyGivenNames x; (have hty : TypeOf x = State := by with_reducible rfl); clear hty; apply Touches.cut 0x321d6 r x; (case' kk => (clear_value x; intro _)); (case' vv => (unfold x; clear x)))
      | (extract_lets -underBinder +onlyGivenNames x; try clear_value x)
      | with_reducible apply Touches.refl
      | with_reducible apply Touches.ite
      | with_reducible apply ih
      | ((with_reducible apply recoverNext_touches); (case hm => rfl))
      | with_reducible apply Touches.foldlD
      | split
  | succ k ih =>
    intro r hs
    unfold recoverAll
    repeat' first
      | with_reducible assumption
      | (intro _; try dsimp -zeta only)
      | (extract_lets -underBinder +onlyGivenNames x; (have hty : TypeOf x = State := by with_reducible rfl); clear hty; apply Touches.cut 0x321d6 r x; (case' kk => (clear_value x; intro _)); (case' vv => (unfold x; clear x)))
      | (extract_lets -underBinder +onlyGivenNames x; try clear_value x)
      | with_reducible apply Touches.refl
      | with_reducible apply Touches.ite
      | with_reducible apply ih
      | ((with_reducible apply recoverNext_touches); (case hm => rfl))
      | with_reducible apply Touches.foldlD
      | split

theorem expireHolds_touches {M : Nat} {r : State} (a0 : Nat) (a1 : Nat) (s : State) (hs : Touches M r s) (hm : 0x321d6 ||| M = M) :
    Touches M r (expireHolds a0 a1 s) := by
  refine Touches.step hs ?_ hm
  clear hs hm r M
  suffices hq : ∀ r, Touches 0x321d6 r s → Touches 0x321d6 r (expireHolds a0 a1 s) from hq _ (Touches.refl _ _)
  induction a1 generalizing a0 s with
  | zero =>
    intro r hs
    unfold expireHolds
    repeat' first
      | with_reducible assumption
      | (intro _; try dsimp -zeta only)
      | (extract_lets -underBinder +onlyGivenNames x; (have hty : TypeOf x = State := by with_reducible rfl); clear hty; apply Touches.cut 0x321d6 r x; (case' kk => (clear_value x; intro _)); (case' vv => (unfold x; clear x)))
      | (extract_lets -underBinder +onlyGivenNames x; try clear_value x)
      | with_reducible apply Touches.refl
      | with_reducible apply Touches.ite
      | with_reducible apply ih
      | ((with_reducible apply releaseInOrder_touches); (case hm => rfl))
      | ((with_reducible apply gapBelow_touches); (case hm => rfl))
      | with_reducible apply Touches.foldlD
      | split
  | succ k ih =>
    intro r hs
    unfold expireHolds
    repeat' first
      | with_reducible assumption
      | (intro _; try dsimp -zeta only)
      | (extract_lets -underBinder +onlyGivenNames x; (have hty : TypeOf x = State := by with_reducible rfl); clear hty; apply Touches.cut 0x321d6 r x; (case' kk => (clear_value x; intro _)); (case' vv => (unfold x; clear x)))
      | (extract_lets -underBinder +onlyGivenNames x; try clear_value x)
      | with_reducible apply Touches.refl
      | with_reducible apply Touches.ite
      | with_reducible apply ih
      | ((with_reducible apply releaseInOrder_touches); (case hm => rfl))
      | ((with_reducible apply gapBelow_touches); (case hm => rfl))
      | with_reducible apply Touches.foldlD
      | split

theorem skewTick_touches {M : Nat} {r : State} (a0 : Nat) (s : State) (hs : Touches M r s) (hm : 0x321d6 ||| M = M) :
    Touches M r (skewTick a0 s) := by
  refine Touches.step hs ?_ hm
  clear hs hm r M
  unfold skewTick
  repeat' first
    | with_reducible assumption
    | (intro _; try dsimp -zeta only)
    | (extract_lets -underBinder +onlyGivenNames x; (have hty : TypeOf x = State := by with_reducible rfl); clear hty; apply Touches.cut 0x321d6 s x; (case' kk => (clear_value x; intro _)); (case' vv => (unfold x; clear x)))
    | (extract_lets -underBinder +onlyGivenNames x; try clear_value x)
    | with_reducible apply Touches.refl
    | with_reducible apply Touches.ite
    | ((with_reducible apply expireHolds_touches); (case hm => rfl))
    | ((with_reducible apply gapBelow_touches); (case hm => rfl))
    | ((with_reducible apply State.modRecov_touches); (case hm => rfl))
    | ((with_reducible apply raise_touches); (case hm => rfl))
    | ((with_reducible apply recoverCopy_touches); (case hm => rfl))
    | with_reducible apply Touches.foldlD
    | split

theorem execSkewTick_touches {M : Nat} {r : State} (s : State) (hs : Touches M r s) (hm : 0x321d6 ||| M = M) :
    TouchesR M r (execSkewTick s) := by
  refine TouchesR.step hs ?_ hm
  clear hs hm r M
  unfold execSkewTick
  repeat' first
    | with_reducible assumption
    | (intro _; try dsimp -zeta only)
    | (extract_lets -underBinder +onlyGivenNames x; (have hty : TypeOf x = State := by with_reducible rfl); clear hty; apply Touches.cut 0x321d6 s x; (case' kk => (clear_value x; intro _)); (case' vv => (unfold x; clear x)))
    | (extract_lets -underBinder +onlyGivenNames x; try clear_value x)
    | with_reducible apply Touches.refl
    | with_reducible apply TouchesR.next
    | with_reducible apply TouchesR.fault
    | with_reducible apply TouchesR.ite
    | with_reducible apply Touches.ite
    | ((with_reducible apply recoverAll_touches); (case hm => rfl))
    | ((with_reducible apply skewTick_touches); (case hm => rfl))
    | with_reducible apply Touches.foldlD

theorem newEpochs_touches {M : Nat} {r : State} (a0 : Nat → Stream → Nat) (s : State) (hs : Touches M r s) (hm : 0x20000 ||| M = M) :
    Touches M r (newEpochs a0 s) := by
  refine Touches.step hs ?_ hm
  clear hs hm r M
  unfold newEpochs
  repeat' first
    | with_reducible assumption
    | with_reducible apply Touches.refl
    | (extract_lets -underBinder +onlyGivenNames x; (have hty : TypeOf x = State := by with_reducible rfl); clear hty; apply Touches.cut 0x20000 s x; (case' kk => (clear_value x; intro _)); (case' vv => (unfold x; clear x)))
    | (extract_lets -underBinder +onlyGivenNames x; try clear_value x)
    | with_reducible apply Touches.ite
    | ((with_reducible apply Touches.streams); (case hm => rfl))

end Sys2Proof.Machine
end

