-- ==== Sys2Proof/Laws/TrnLock.lean ====
section
/-! SUPPORT. What each function of Machine/TrnLock.lean touches: one lemma per function that answers a state. -/

set_option linter.tactic.unusedName false

namespace Sys2Proof.Machine

theorem State.modTrn_touches {M : Nat} {r : State} (s : State) (a1 : TrnSt → TrnSt) (hs : Touches M r s) (hm : 0x80000000 ||| M = M) :
    Touches M r (State.modTrn s a1) := by
  refine Touches.step hs ?_ hm
  clear hs hm r M
  unfold State.modTrn
  repeat' first
    | with_reducible assumption
    | with_reducible apply Touches.refl
    | ((with_reducible apply Touches.trn); (case hm => rfl))

theorem showSeq_touches {M : Nat} {r : State} (a0 : Nat) (a1 : Nat) (s : State) (hs : Touches M r s) (hm : 0x2 ||| M = M) :
    Touches M r (showSeq a0 a1 s) := by
  refine Touches.step hs ?_ hm
  clear hs hm r M
  unfold showSeq
  repeat' first
    | with_reducible assumption
    | with_reducible apply Touches.refl
    | ((with_reducible apply State.setFld_touches); (case hm => rfl))

theorem seqTake_touches {M : Nat} {r : State} (a0 : Nat) (a1 : Nat × Nat) (s : State) (hs : Touches M r s) (hm : 0x80000002 ||| M = M) :
    Touches M r (seqTake a0 a1 s) := by
  refine Touches.step hs ?_ hm
  clear hs hm r M
  unfold seqTake
  repeat' first
    | with_reducible assumption
    | with_reducible apply Touches.refl
    | (extract_lets -underBinder +onlyGivenNames x; (have hty : TypeOf x = State := by with_reducible rfl); clear hty; apply Touches.cut 0x80000002 s x; (case' kk => (clear_value x; intro _)); (case' vv => (unfold x; clear x)))
    | (extract_lets -underBinder +onlyGivenNames x; try clear_value x)
    | with_reducible apply Touches.ite
    | ((with_reducible apply State.modTrn_touches); (case hm => rfl))
    | ((with_reducible apply showSeq_touches); (case hm => rfl))
    | split

theorem grantBus_touches {M : Nat} {r : State} (a0 : Nat) (a1 : Nat) (a2 : Nat) (s : State) (hs : Touches M r s) (hm : 0x80800016 ||| M = M) :
    Touches M r (grantBus a0 a1 a2 s) := by
  refine Touches.step hs ?_ hm
  clear hs hm r M
  unfold grantBus
  repeat' first
    | with_reducible assumption
    | with_reducible apply Touches.refl
    | (extract_lets -underBinder +onlyGivenNames x; (have hty : TypeOf x = State := by with_reducible rfl); clear hty; apply Touches.cut 0x80800016 s x; (case' kk => (clear_value x; intro _)); (case' vv => (unfold x; clear x)))
    | (extract_lets -underBinder +onlyGivenNames x; try clear_value x)
    | with_reducible apply Touches.ite
    | ((with_reducible apply State.modTrn_touches); (case hm => rfl))
    | ((with_reducible apply seqTake_touches); (case hm => rfl))
    | ((with_reducible apply sendTo_touches); (case hm => rfl))

theorem freeBus_touches {M : Nat} {r : State} (a0 : Nat) (s : State) (hs : Touches M r s) (hm : 0x80800016 ||| M = M) :
    Touches M r (freeBus a0 s) := by
  refine Touches.step hs ?_ hm
  clear hs hm r M
  unfold freeBus
  repeat' first
    | with_reducible assumption
    | with_reducible apply Touches.refl
    | (extract_lets -underBinder +onlyGivenNames x; (have hty : TypeOf x = State := by with_reducible rfl); clear hty; apply Touches.cut 0x80800016 s x; (case' kk => (clear_value x; intro _)); (case' vv => (unfold x; clear x)))
    | (extract_lets -underBinder +onlyGivenNames x; try clear_value x)
    | ((with_reducible apply State.modTrn_touches); (case hm => rfl))
    | ((with_reducible apply grantBus_touches); (case hm => rfl))
    | split

theorem dropLock_touches {M : Nat} {r : State} (a0 : Nat) (a1 : Nat) (a2 : Nat × Nat) (s : State) (hs : Touches M r s) (hm : 0x80800016 ||| M = M) :
    Touches M r (dropLock a0 a1 a2 s) := by
  refine Touches.step hs ?_ hm
  clear hs hm r M
  unfold dropLock
  repeat' first
    | with_reducible assumption
    | with_reducible apply Touches.refl
    | (extract_lets -underBinder +onlyGivenNames x; (have hty : TypeOf x = State := by with_reducible rfl); clear hty; apply Touches.cut 0x80800016 s x; (case' kk => (clear_value x; intro _)); (case' vv => (unfold x; clear x)))
    | (extract_lets -underBinder +onlyGivenNames x; try clear_value x)
    | with_reducible apply Touches.ite
    | ((with_reducible apply State.modTrn_touches); (case hm => rfl))
    | ((with_reducible apply freeBus_touches); (case hm => rfl))
    | ((with_reducible apply sendTo_touches); (case hm => rfl))
    | split

theorem windowClear_touches {M : Nat} {r : State} (a0 : Nat) (a1 : Nat) (s : State) (hs : Touches M r s) (hm : 0x2 ||| M = M) :
    Touches M r (windowClear a0 a1 s) := by
  refine Touches.step hs ?_ hm
  clear hs hm r M
  unfold windowClear
  repeat' first
    | with_reducible assumption
    | with_reducible apply Touches.refl
    | ((with_reducible apply State.setFld_touches); (case hm => rfl))

theorem execTransomClearErr_touches {M : Nat} {r : State} (a0 : Sys2Proof.CmdCtx) (s : State) (hs : Touches M r s) (hm : 0x80001d2 ||| M = M) :
    TouchesR M r (execTransomClearErr a0 s) := by
  refine TouchesR.step hs ?_ hm
  clear hs hm r M
  unfold execTransomClearErr
  repeat' first
    | with_reducible assumption
    | (intro _; try dsimp -zeta only)
    | (extract_lets -underBinder +onlyGivenNames x; (have hty : TypeOf x = State := by with_reducible rfl); clear hty; apply Touches.cut 0x80001d2 s x; (case' kk => (clear_value x; intro _)); (case' vv => (unfold x; clear x)))
    | (extract_lets -underBinder +onlyGivenNames x; try clear_value x)
    | with_reducible apply Touches.refl
    | with_reducible apply TouchesR.next
    | with_reducible apply TouchesR.fault
    | with_reducible apply TouchesR.ite
    | with_reducible apply Touches.ite
    | ((with_reducible apply command_touches); (case hm => rfl))
    | ((with_reducible apply complete_touches); (case hm => rfl))
    | ((with_reducible apply handleIf_touches); (case hm => rfl))
    | ((with_reducible apply windowClear_touches); (case hm => rfl))
    | split

theorem seqYield_touches {M : Nat} {r : State} (a0 : Nat) (s : State) (hs : Touches M r s) (hm : 0x8080001e ||| M = M) :
    Touches M r (seqYield a0 s) := by
  refine Touches.step hs ?_ hm
  clear hs hm r M
  unfold seqYield
  repeat' first
    | with_reducible assumption
    | (intro _; try dsimp -zeta only)
    | (extract_lets -underBinder +onlyGivenNames x; (have hty : TypeOf x = State := by with_reducible rfl); clear hty; apply Touches.cut 0x8080001e s x; (case' kk => (clear_value x; intro _)); (case' vv => (unfold x; clear x)))
    | (extract_lets -underBinder +onlyGivenNames x; try clear_value x)
    | with_reducible apply Touches.refl
    | ((with_reducible apply State.modTrn_touches); (case hm => rfl))
    | ((with_reducible apply State.drew_touches); (case hm => rfl))
    | ((with_reducible apply dropLock_touches); (case hm => rfl))
    | with_reducible apply Touches.foldlD
    | split

theorem lockAt_touches {M : Nat} {r : State} (a0 : Nat) (a1 : Nat) (a2 : Nat) (s : State) (hs : Touches M r s) (hm : 0x8080001e ||| M = M) :
    Touches M r (lockAt a0 a1 a2 s) := by
  refine Touches.step hs ?_ hm
  clear hs hm r M
  unfold lockAt
  repeat' first
    | with_reducible assumption
    | with_reducible apply Touches.refl
    | (extract_lets -underBinder +onlyGivenNames x; (have hty : TypeOf x = State := by with_reducible rfl); clear hty; apply Touches.cut 0x8080001e s x; (case' kk => (clear_value x; intro _)); (case' vv => (unfold x; clear x)))
    | (extract_lets -underBinder +onlyGivenNames x; try clear_value x)
    | with_reducible apply Touches.ite
    | ((with_reducible apply grantBus_touches); (case hm => rfl))
    | ((with_reducible apply sendTo_touches); (case hm => rfl))
    | ((with_reducible apply seqYield_touches); (case hm => rfl))
    | ((with_reducible apply State.modTrn_touches); (case hm => rfl))
    | split

theorem seqAsk_touches {M : Nat} {r : State} (a0 : Nat) (a1 : Nat) (s : State) (hs : Touches M r s) (hm : 0x8080001e ||| M = M) :
    Touches M r (seqAsk a0 a1 s) := by
  refine Touches.step hs ?_ hm
  clear hs hm r M
  suffices hq : ∀ r, Touches 0x8080001e r s → Touches 0x8080001e r (seqAsk a0 a1 s) from hq _ (Touches.refl _ _)
  induction a1 generalizing a0 s with
  | zero =>
    intro r hs
    unfold seqAsk
    repeat' first
      | with_reducible assumption
      | (intro _; try dsimp -zeta only)
      | (extract_lets -underBinder +onlyGivenNames x; (have hty : TypeOf x = State := by with_reducible rfl); clear hty; apply Touches.cut 0x8080001e r x; (case' kk => (clear_value x; intro _)); (case' vv => (unfold x; clear x)))
      | (extract_lets -underBinder +onlyGivenNames x; try clear_value x)
      | with_reducible apply Touches.refl
      | with_reducible apply Touches.ite
      | with_reducible apply ih
      | ((with_reducible apply State.modTrn_touches); (case hm => rfl))
      | ((with_reducible apply lockAt_touches); (case hm => rfl))
      | ((with_reducible apply sendTo_touches); (case hm => rfl))
      | with_reducible apply Touches.foldlD
      | split
  | succ k ih =>
    intro r hs
    unfold seqAsk
    repeat' first
      | with_reducible assumption
      | (intro _; try dsimp -zeta only)
      | (extract_lets -underBinder +onlyGivenNames x; (have hty : TypeOf x = State := by with_reducible rfl); clear hty; apply Touches.cut 0x8080001e r x; (case' kk => (clear_value x; intro _)); (case' vv => (unfold x; clear x)))
      | (extract_lets -underBinder +onlyGivenNames x; try clear_value x)
      | with_reducible apply Touches.refl
      | with_reducible apply Touches.ite
      | with_reducible apply ih
      | ((with_reducible apply State.modTrn_touches); (case hm => rfl))
      | ((with_reducible apply lockAt_touches); (case hm => rfl))
      | ((with_reducible apply sendTo_touches); (case hm => rfl))
      | with_reducible apply Touches.foldlD
      | split

theorem lockStart_touches {M : Nat} {r : State} (a0 : Nat) (a1 : Nat) (s : State) (hs : Touches M r s) (hm : 0x8080001e ||| M = M) :
    Touches M r (lockStart a0 a1 s) := by
  refine Touches.step hs ?_ hm
  clear hs hm r M
  unfold lockStart
  repeat' first
    | with_reducible assumption
    | with_reducible apply Touches.refl
    | (extract_lets -underBinder +onlyGivenNames x; (have hty : TypeOf x = State := by with_reducible rfl); clear hty; apply Touches.cut 0x8080001e s x; (case' kk => (clear_value x; intro _)); (case' vv => (unfold x; clear x)))
    | (extract_lets -underBinder +onlyGivenNames x; try clear_value x)
    | with_reducible apply Touches.ite
    | ((with_reducible apply showSeq_touches); (case hm => rfl))
    | ((with_reducible apply State.setFld_touches); (case hm => rfl))
    | ((with_reducible apply seqAsk_touches); (case hm => rfl))
    | ((with_reducible apply State.modTrn_touches); (case hm => rfl))

theorem execTransomLock_touches {M : Nat} {r : State} (a0 : Sys2Proof.Src) (a1 : Sys2Proof.HostId) (a2 : Nat) (s : State) (hs : Touches M r s) (hm : 0x8080003e ||| M = M) :
    TouchesR M r (execTransomLock a0 a1 a2 s) := by
  refine TouchesR.step hs ?_ hm
  clear hs hm r M
  unfold execTransomLock
  repeat' first
    | with_reducible assumption
    | (intro _; try dsimp -zeta only)
    | with_reducible apply Touches.refl
    | with_reducible apply TouchesR.next
    | with_reducible apply TouchesR.fault
    | ((with_reducible apply busRow_touches); (case hm => rfl))
    | ((with_reducible apply lockStart_touches); (case hm => rfl))

theorem seqGo_touches {M : Nat} {r : State} (s : State) (hs : Touches M r s) (hm : 0x8080001e ||| M = M) :
    Touches M r (seqGo s) := by
  refine Touches.step hs ?_ hm
  clear hs hm r M
  unfold seqGo
  repeat' first
    | with_reducible assumption
    | (intro _; try dsimp -zeta only)
    | with_reducible apply Touches.refl
    | with_reducible apply Touches.ite
    | ((with_reducible apply seqAsk_touches); (case hm => rfl))
    | with_reducible apply Touches.foldlD

theorem seqRelease_touches {M : Nat} {r : State} (a0 : Nat) (s : State) (hs : Touches M r s) (hm : 0x80800016 ||| M = M) :
    Touches M r (seqRelease a0 s) := by
  refine Touches.step hs ?_ hm
  clear hs hm r M
  unfold seqRelease
  repeat' first
    | with_reducible assumption
    | (intro _; try dsimp -zeta only)
    | (extract_lets -underBinder +onlyGivenNames x; (have hty : TypeOf x = State := by with_reducible rfl); clear hty; apply Touches.cut 0x80800016 s x; (case' kk => (clear_value x; intro _)); (case' vv => (unfold x; clear x)))
    | (extract_lets -underBinder +onlyGivenNames x; try clear_value x)
    | with_reducible apply Touches.refl
    | ((with_reducible apply State.modTrn_touches); (case hm => rfl))
    | ((with_reducible apply dropLock_touches); (case hm => rfl))
    | with_reducible apply Touches.foldlD
    | split

theorem lockOver_touches {M : Nat} {r : State} (a0 : Nat) (s : State) (hs : Touches M r s) (hm : 0x8080001e ||| M = M) :
    Touches M r (lockOver a0 s) := by
  refine Touches.step hs ?_ hm
  clear hs hm r M
  unfold lockOver
  repeat' first
    | with_reducible assumption
    | with_reducible apply Touches.refl
    | ((with_reducible apply seqGo_touches); (case hm => rfl))
    | ((with_reducible apply showSeq_touches); (case hm => rfl))
    | ((with_reducible apply State.setFld_touches); (case hm => rfl))
    | ((with_reducible apply seqRelease_touches); (case hm => rfl))

theorem lockClose_touches {M : Nat} {r : State} (a0 : Nat) (s : State) (hs : Touches M r s) (hm : 0x8080001e ||| M = M) :
    Touches M r (lockClose a0 s) := by
  refine Touches.step hs ?_ hm
  clear hs hm r M
  unfold lockClose
  repeat' first
    | with_reducible assumption
    | with_reducible apply Touches.refl
    | with_reducible apply Touches.ite
    | ((with_reducible apply lockOver_touches); (case hm => rfl))

theorem lockEnd_touches {M : Nat} {r : State} (a0 : Nat) (s : State) (hs : Touches M r s) (hm : 0x8080001e ||| M = M) :
    Touches M r (lockEnd a0 s) := by
  refine Touches.step hs ?_ hm
  clear hs hm r M
  unfold lockEnd
  repeat' first
    | with_reducible assumption
    | with_reducible apply Touches.refl
    | with_reducible apply Touches.ite
    | ((with_reducible apply State.modTrn_touches); (case hm => rfl))
    | ((with_reducible apply lockOver_touches); (case hm => rfl))

theorem execTransomUnlock_touches {M : Nat} {r : State} (a0 : Sys2Proof.Src) (a1 : Sys2Proof.HostId) (s : State) (hs : Touches M r s) (hm : 0x8080003e ||| M = M) :
    TouchesR M r (execTransomUnlock a0 a1 s) := by
  refine TouchesR.step hs ?_ hm
  clear hs hm r M
  unfold execTransomUnlock
  repeat' first
    | with_reducible assumption
    | (intro _; try dsimp -zeta only)
    | with_reducible apply Touches.refl
    | with_reducible apply TouchesR.next
    | with_reducible apply TouchesR.fault
    | ((with_reducible apply busRow_touches); (case hm => rfl))
    | ((with_reducible apply lockEnd_touches); (case hm => rfl))

theorem lockCtrlWrite_touches {M : Nat} {r : State} (a0 : Nat) (a1 : Nat) (s : State) (hs : Touches M r s) (hm : 0x8080001e ||| M = M) :
    Touches M r (lockCtrlWrite a0 a1 s) := by
  refine Touches.step hs ?_ hm
  clear hs hm r M
  unfold lockCtrlWrite
  repeat' first
    | with_reducible assumption
    | with_reducible apply Touches.refl
    | (extract_lets -underBinder +onlyGivenNames x; (have hty : TypeOf x = State := by with_reducible rfl); clear hty; apply Touches.cut 0x8080001e s x; (case' kk => (clear_value x; intro _)); (case' vv => (unfold x; clear x)))
    | (extract_lets -underBinder +onlyGivenNames x; try clear_value x)
    | with_reducible apply Touches.ite
    | ((with_reducible apply lockEnd_touches); (case hm => rfl))
    | ((with_reducible apply lockStart_touches); (case hm => rfl))

theorem trnError_touches {M : Nat} {r : State} (a0 : Nat) (s : State) (hs : Touches M r s) (hm : 0x4 ||| M = M) :
    Touches M r (trnError a0 s) := by
  refine Touches.step hs ?_ hm
  clear hs hm r M
  unfold trnError
  repeat' first
    | with_reducible assumption
    | with_reducible apply Touches.refl
    | ((with_reducible apply State.bump_touches); (case hm => rfl))

theorem postedFail_touches {M : Nat} {r : State} (a0 : Nat) (a1 : Nat) (a2 : Nat) (a3 : Nat) (s : State) (hs : Touches M r s) (hm : 0x1c6 ||| M = M) :
    Touches M r (postedFail a0 a1 a2 a3 s) := by
  refine Touches.step hs ?_ hm
  clear hs hm r M
  unfold postedFail
  repeat' first
    | with_reducible assumption
    | with_reducible apply Touches.refl
    | (extract_lets -underBinder +onlyGivenNames x; (have hty : TypeOf x = State := by with_reducible rfl); clear hty; apply Touches.cut 0x1c6 s x; (case' kk => (clear_value x; intro _)); (case' vv => (unfold x; clear x)))
    | (extract_lets -underBinder +onlyGivenNames x; try clear_value x)
    | with_reducible apply Touches.ite
    | ((with_reducible apply trnError_touches); (case hm => rfl))
    | ((with_reducible apply State.setFld_touches); (case hm => rfl))
    | ((with_reducible apply raise_touches); (case hm => rfl))

theorem trnClear_touches {M : Nat} {r : State} (s : State) (hs : Touches M r s) (hm : 0x80800016 ||| M = M) :
    Touches M r (trnClear s) := by
  refine Touches.step hs ?_ hm
  clear hs hm r M
  unfold trnClear
  repeat' first
    | with_reducible assumption
    | (intro _; try dsimp -zeta only)
    | (extract_lets -underBinder +onlyGivenNames x; (have hty : TypeOf x = State := by with_reducible rfl); clear hty; apply Touches.cut 0x80800016 s x; (case' kk => (clear_value x; intro _)); (case' vv => (unfold x; clear x)))
    | (extract_lets -underBinder +onlyGivenNames x; try clear_value x)
    | with_reducible apply Touches.refl
    | with_reducible apply Touches.ite
    | ((with_reducible apply seqRelease_touches); (case hm => rfl))
    | ((with_reducible apply State.emit_touches); (case hm => rfl))
    | with_reducible apply Touches.foldlD
    | ((with_reducible apply Touches.trn); (case hm => rfl))

theorem trnDrop_touches {M : Nat} {r : State} (a0 : Nat) (s : State) (hs : Touches M r s) (hm : 0x8080001e ||| M = M) :
    Touches M r (trnDrop a0 s) := by
  refine Touches.step hs ?_ hm
  clear hs hm r M
  unfold trnDrop
  repeat' first
    | with_reducible assumption
    | with_reducible apply Touches.refl
    | (extract_lets -underBinder +onlyGivenNames x; (have hty : TypeOf x = State := by with_reducible rfl); clear hty; apply Touches.cut 0x8080001e s x; (case' kk => (clear_value x; intro _)); (case' vv => (unfold x; clear x)))
    | (extract_lets -underBinder +onlyGivenNames x; try clear_value x)
    | ((with_reducible apply seqGo_touches); (case hm => rfl))
    | ((with_reducible apply seqRelease_touches); (case hm => rfl))
    | ((with_reducible apply State.modTrn_touches); (case hm => rfl))

end Sys2Proof.Machine
end

