-- ==== Sys2Proof/Laws/Retain.lean ====
section
/-! SUPPORT. What each function of Machine/Retain.lean touches: one lemma per function that answers a state. -/

set_option linter.tactic.unusedName false

namespace Sys2Proof.Machine

theorem showOut_touches {M : Nat} {r : State} (a0 : Nat) (a1 : Option Bool) (a2 : Option Bool) (s : State) (hs : Touches M r s) (hm : 0x10 ||| M = M) :
    Touches M r (showOut a0 a1 a2 s) := by
  refine Touches.step hs ?_ hm
  clear hs hm r M
  unfold showOut
  repeat' first
    | with_reducible assumption
    | with_reducible apply Touches.refl
    | with_reducible apply Touches.ite
    | ((with_reducible apply State.emit_touches); (case hm => rfl))

theorem keepWarnings_touches {M : Nat} {r : State} (a0 : State) (s : State) (hs : Touches M r s) (hm : 0x2 ||| M = M) :
    Touches M r (keepWarnings a0 s) := by
  refine Touches.step hs ?_ hm
  clear hs hm r M
  unfold keepWarnings
  repeat' first
    | with_reducible assumption
    | (intro _; try dsimp -zeta only)
    | with_reducible apply Touches.refl
    | ((with_reducible apply State.setFld_touches); (case hm => rfl))
    | with_reducible apply Touches.foldlD

theorem dropRings_touches {M : Nat} {r : State} (a0 : Sys2Proof.HostId) (s : State) (hs : Touches M r s) (hm : 0xc0 ||| M = M) :
    Touches M r (dropRings a0 s) := by
  refine Touches.step hs ?_ hm
  clear hs hm r M
  unfold dropRings
  repeat' first
    | with_reducible assumption
    | with_reducible apply Touches.refl
    | ((with_reducible apply State.modHost_touches); (case hm => rfl))

theorem loseRange_touches {M : Nat} {r : State} (l : Lost) (lo hi : Nat) (s : State) (hs : Touches M r s) (hm : 0x2 ||| M = M) : Touches M r (loseRange l lo hi s) :=
  Touches.step hs (F := 0x2) ⟨by constructor <;> intro h <;> first | with_reducible rfl | exact absurd h (by decide) | rfl,
   ⟨rfl, List.suffix_refl _, Nat.le_refl _, regs_wf_range, id, id⟩⟩ hm

theorem windowDefaults_touches {M : Nat} {r : State} (a0 : Sys2Proof.HostId) (s : State) (hs : Touches M r s) (hm : 0x2 ||| M = M) :
    Touches M r (windowDefaults a0 s) := by
  refine Touches.step hs ?_ hm
  clear hs hm r M
  unfold windowDefaults
  repeat' first
    | with_reducible assumption
    | with_reducible apply Touches.refl
    | (extract_lets -underBinder +onlyGivenNames x; (have hty : TypeOf x = State := by with_reducible rfl); clear hty; apply Touches.cut 0x2 s x; (case' kk => (clear_value x; intro _)); (case' vv => (unfold x; clear x)))
    | (extract_lets -underBinder +onlyGivenNames x; try clear_value x)
    | ((with_reducible apply loseRange_touches); (case hm => rfl))

theorem hostDefaults_touches {M : Nat} {r : State} (a0 : Bool) (a1 : Sys2Proof.HostId) (s : State) (hs : Touches M r s) (hm : 0x2 ||| M = M) :
    Touches M r (hostDefaults a0 a1 s) := by
  refine Touches.step hs ?_ hm
  clear hs hm r M
  unfold hostDefaults
  repeat' first
    | with_reducible assumption
    | with_reducible apply Touches.refl
    | (extract_lets -underBinder +onlyGivenNames x; (have hty : TypeOf x = State := by with_reducible rfl); clear hty; apply Touches.cut 0x2 s x; (case' kk => (clear_value x; intro _)); (case' vv => (unfold x; clear x)))
    | (extract_lets -underBinder +onlyGivenNames x; try clear_value x)
    | ((with_reducible apply loseRange_touches); (case hm => rfl))

theorem hostGone_touches {M : Nat} {r : State} (a0 : Bool) (a1 : Sys2Proof.HostId) (s : State) (hs : Touches M r s) (hm : 0xc0c321de ||| M = M) :
    Touches M r (hostGone a0 a1 s) := by
  refine Touches.step hs ?_ hm
  clear hs hm r M
  unfold hostGone
  repeat' first
    | with_reducible assumption
    | with_reducible apply Touches.refl
    | (extract_lets -underBinder +onlyGivenNames x; (have hty : TypeOf x = State := by with_reducible rfl); clear hty; apply Touches.cut 0xc0c321de s x; (case' kk => (clear_value x; intro _)); (case' vv => (unfold x; clear x)))
    | (extract_lets -underBinder +onlyGivenNames x; try clear_value x)
    | with_reducible apply Touches.ite
    | ((with_reducible apply State.modHost_touches); (case hm => rfl))
    | ((with_reducible apply dropRings_touches); (case hm => rfl))
    | ((with_reducible apply State.setFld_touches); (case hm => rfl))
    | ((with_reducible apply windowDefaults_touches); (case hm => rfl))
    | ((with_reducible apply hostDefaults_touches); (case hm => rfl))
    | ((with_reducible apply trnDrop_touches); (case hm => rfl))
    | ((with_reducible apply flushPort_touches); (case hm => rfl))
    | ((with_reducible apply dropSending_touches); (case hm => rfl))
    | split
    | ((with_reducible apply Touches.keys); (case hm => rfl))
    | ((with_reducible apply Touches.fn); (case hm => rfl))
    | ((with_reducible apply Touches.lit (F := 0x40400000)); (case l1 => with_reducible rfl); (case l2 => with_reducible rfl); (case l3 => with_reducible rfl); (case l4 => with_reducible rfl); (case l5 => rfl); (case hm => rfl); (case ag => constructor <;> first | exact tb rfl | exact fun _ => rfl))

theorem hostReset_touches {M : Nat} {r : State} (a0 : Sys2Proof.HostId) (s : State) (hs : Touches M r s) (hm : 0xc0c321de ||| M = M) :
    Touches M r (hostReset a0 s) := by
  refine Touches.step hs ?_ hm
  clear hs hm r M
  unfold hostReset
  repeat' first
    | with_reducible assumption
    | with_reducible apply Touches.refl
    | ((with_reducible apply hostGone_touches); (case hm => rfl))

theorem keepShown_touches {M : Nat} {r : State} (a0 : State) (s : State) (hs : Touches M r s) (hm : 0x2 ||| M = M) :
    Touches M r (keepShown a0 s) := by
  refine Touches.step hs ?_ hm
  clear hs hm r M
  unfold keepShown
  dsimp only
  repeat' first
    | with_reducible assumption
    | (intro _; try dsimp -zeta only)
    | (extract_lets -underBinder +onlyGivenNames x; (have hty : TypeOf x = State := by with_reducible rfl); clear hty; apply Touches.cut 0x2 s x; (case' kk => (clear_value x; intro _)); (case' vv => (unfold x; clear x)))
    | (extract_lets -underBinder +onlyGivenNames x; try clear_value x)
    | with_reducible apply Touches.refl
    | ((with_reducible apply State.setReg_touches); (case hm => rfl))
    | with_reducible apply Touches.foldlD

theorem keepPortStates_touches {M : Nat} {r : State} (a0 : State) (s : State) (hs : Touches M r s) (hm : 0x2 ||| M = M) :
    Touches M r (keepPortStates a0 s) := by
  refine Touches.step hs ?_ hm
  clear hs hm r M
  unfold keepPortStates
  repeat' first
    | with_reducible assumption
    | (intro _; try dsimp -zeta only)
    | with_reducible apply Touches.refl
    | ((with_reducible apply State.setFld_touches); (case hm => rfl))
    | with_reducible apply Touches.ite
    | ((with_reducible apply State.setReg_touches); (case hm => rfl))
    | with_reducible apply Touches.foldlD

theorem loseRegs_touches {M : Nat} {r : State} (l : Lost) (s : State) (hs : Touches M r s) (hm : 0x6 ||| M = M) : Touches M r (loseRegs l s) :=
  Touches.step hs (F := 0x6) ⟨by constructor <;> intro h <;> first | with_reducible rfl | exact absurd h (by decide) | rfl,
   ⟨rfl, List.suffix_refl _, Nat.le_refl _, regs_wf_regsRetain, ctrs_wf_ctrsRetain, id⟩⟩ hm

theorem memLost_touches {M : Nat} {r : State} (s : State) (hs : Touches M r s) (hm : 0x121d6 ||| M = M) :
    Touches M r (memLost s) := by
  refine Touches.step hs ?_ hm
  clear hs hm r M
  unfold memLost
  repeat' first
    | with_reducible assumption
    | with_reducible apply Touches.refl
    | ((with_reducible apply sillAll_touches); (case hm => rfl))
    | ((with_reducible apply carvingCounts_touches); (case hm => rfl))
    | ((with_reducible apply Touches.mem); (case hm => rfl))

theorem ordersRestart_touches {M : Nat} {r : State} (s : State) (hs : Touches M r s) (hm : 0xe0 ||| M = M) :
    Touches M r (ordersRestart s) := by
  refine Touches.step hs ?_ hm
  clear hs hm r M
  unfold ordersRestart
  repeat' first
    | with_reducible assumption
    | with_reducible apply Touches.refl
    | (extract_lets -underBinder +onlyGivenNames x; (have hty : TypeOf x = State := by with_reducible rfl); clear hty; apply Touches.cut 0xe0 s x; (case' kk => (clear_value x; intro _)); (case' vv => (unfold x; clear x)))
    | (extract_lets -underBinder +onlyGivenNames x; try clear_value x)
    | ((with_reducible apply Touches.bus); (case hm => rfl))
    | ((with_reducible apply Touches.hostA); (case hm => rfl))
    | ((with_reducible apply Touches.hostB); (case hm => rfl))
    | ((with_reducible apply Touches.lit (F := 0xe0)); (case l1 => with_reducible rfl); (case l2 => with_reducible rfl); (case l3 => with_reducible rfl); (case l4 => with_reducible rfl); (case l5 => rfl); (case hm => rfl); (case ag => (constructor <;> first | exact tb rfl | exact fun _ => rfl)))

theorem showRoots_touches {M : Nat} {r : State} (s : State) (hs : Touches M r s) (hm : 0x2 ||| M = M) :
    Touches M r (showRoots s) := by
  refine Touches.step hs ?_ hm
  clear hs hm r M
  unfold showRoots
  repeat' first
    | with_reducible assumption
    | (intro _; try dsimp -zeta only)
    | (extract_lets -underBinder +onlyGivenNames x; (have hty : TypeOf x = State := by with_reducible rfl); clear hty; apply Touches.cut 0x2 s x; (case' kk => (clear_value x; intro _)); (case' vv => (unfold x; clear x)))
    | (extract_lets -underBinder +onlyGivenNames x; try clear_value x)
    | with_reducible apply Touches.refl
    | with_reducible apply Touches.ite
    | ((with_reducible apply State.setReg_touches); (case hm => rfl))
    | with_reducible apply Touches.foldlD

theorem imagesInit_touches {M : Nat} {r : State} (s : State) (hs : Touches M r s) (hm : 0x80000 ||| M = M) :
    Touches M r (imagesInit s) := by
  refine Touches.step hs ?_ hm
  clear hs hm r M
  unfold imagesInit
  repeat' first
    | with_reducible assumption
    | with_reducible apply Touches.refl
    | (extract_lets -underBinder +onlyGivenNames x; (have hty : TypeOf x = State := by with_reducible rfl); clear hty; apply Touches.cut 0x80000 s x; (case' kk => (clear_value x; intro _)); (case' vv => (unfold x; clear x)))
    | (extract_lets -underBinder +onlyGivenNames x; try clear_value x)
    | ((with_reducible apply State.modGw_touches); (case hm => rfl))

theorem gwRestart_touches {M : Nat} {r : State} (s : State) (hs : Touches M r s) (hm : 0x80000 ||| M = M) :
    Touches M r (gwRestart s) := by
  refine Touches.step hs ?_ hm
  clear hs hm r M
  unfold gwRestart
  repeat' first
    | with_reducible assumption
    | with_reducible apply Touches.refl
    | (extract_lets -underBinder +onlyGivenNames x; (have hty : TypeOf x = State := by with_reducible rfl); clear hty; apply Touches.cut 0x80000 s x; (case' kk => (clear_value x; intro _)); (case' vv => (unfold x; clear x)))
    | (extract_lets -underBinder +onlyGivenNames x; try clear_value x)
    | ((with_reducible apply imagesInit_touches); (case hm => rfl))
    | ((with_reducible apply Touches.gw); (case hm => rfl))

theorem timeDefault_touches {M : Nat} {r : State} (s : State) (hs : Touches M r s) (hm : 0x200 ||| M = M) :
    Touches M r (timeDefault s) := by
  refine Touches.step hs ?_ hm
  clear hs hm r M
  unfold timeDefault
  repeat' first
    | with_reducible assumption
    | with_reducible apply Touches.refl
    | (extract_lets -underBinder +onlyGivenNames x; (have hty : TypeOf x = State := by with_reducible rfl); clear hty; apply Touches.cut 0x200 s x; (case' kk => (clear_value x; intro _)); (case' vv => (unfold x; clear x)))
    | (extract_lets -underBinder +onlyGivenNames x)
    | ((with_reducible apply Touches.time); (case hm => rfl); (case hl => rfl))

theorem deepLose_touches {M : Nat} {r : State} (a0 : Nat) (s : State) (hs : Touches M r s) (hm : 0xc4ff77fe ||| M = M) :
    Touches M r (deepLose a0 s) := by
  refine Touches.step hs ?_ hm
  clear hs hm r M
  unfold deepLose
  repeat' first
    | with_reducible assumption
    | with_reducible apply Touches.refl
    | ((with_reducible apply hostGone_touches); (case hm => rfl))
    | (extract_lets -underBinder +onlyGivenNames x; (have hty : TypeOf x = State := by with_reducible rfl); clear hty; apply Touches.cut 0xc4ff77fe s x; (case' kk => (clear_value x; intro _)); (case' vv => (unfold x; clear x)))
    | (extract_lets -underBinder +onlyGivenNames x; try clear_value x)
    | with_reducible apply Touches.ite
    | ((with_reducible apply trnClear_touches); (case hm => rfl))
    | ((with_reducible apply hostReset_touches); (case hm => rfl))
    | ((with_reducible apply dropRings_touches); (case hm => rfl))
    | ((with_reducible apply keepShown_touches); (case hm => rfl))
    | ((with_reducible apply keepPortStates_touches); (case hm => rfl))
    | ((with_reducible apply loseRegs_touches); (case hm => rfl))
    | ((with_reducible apply memLost_touches); (case hm => rfl))
    | ((with_reducible apply ordersRestart_touches); (case hm => rfl))
    | ((with_reducible apply showRoots_touches); (case hm => rfl))
    | ((with_reducible apply gwRestart_touches); (case hm => rfl))
    | ((with_reducible apply timeDefault_touches); (case hm => rfl))
    | ((with_reducible apply egrWarm_touches); (case hm => rfl))
    | ((with_reducible apply hedgeWarm_touches); (case hm => rfl))
    | ((with_reducible apply hedgeFnReset_touches); (case hm => rfl))
    | ((with_reducible apply Touches.hostA); (case hm => rfl))
    | ((with_reducible apply Touches.hostB); (case hm => rfl))
    | ((with_reducible apply Touches.flt); (case hm => rfl))
    | ((with_reducible apply Touches.tabs); (case hm => rfl))
    | ((with_reducible apply Touches.links); (case hm => rfl))
    | ((with_reducible apply Touches.streams); (case hm => rfl))
    | ((with_reducible apply Touches.pnHold); (case hm => rfl))
    | ((with_reducible apply Touches.dbg); (case hm => rfl))
    | ((with_reducible apply Touches.wake); (case hm => rfl))
    | ((with_reducible apply Touches.keys); (case hm => rfl))
    | ((with_reducible apply Touches.fab); (case hm => rfl))
    | ((with_reducible apply Touches.admJob); (case hm => rfl))
    | ((with_reducible apply Touches.fn); (case hm => rfl))
    | ((with_reducible apply Touches.lit (F := 0x44f645c0)); (case l1 => with_reducible rfl); (case l2 => with_reducible rfl); (case l3 => with_reducible rfl); (case l4 => with_reducible rfl); (case l5 => rfl); (case hm => rfl); (case ag => (constructor <;> first | exact tb rfl | exact fun _ => rfl)))

theorem fenceFlush_touches {M : Nat} {r : State} (s : State) (hs : Touches M r s) (hm : 0xb21d6 ||| M = M) :
    Touches M r (fenceFlush s) := by
  refine Touches.step hs ?_ hm
  clear hs hm r M
  unfold fenceFlush
  repeat' first
    | with_reducible assumption
    | (intro _; try dsimp -zeta only)
    | (extract_lets -underBinder +onlyGivenNames x; (have hty : TypeOf x = State := by with_reducible rfl); clear hty; apply Touches.cut 0xb21d6 s x; (case' kk => (clear_value x; intro _)); (case' vv => (unfold x; clear x)))
    | (extract_lets -underBinder +onlyGivenNames x; try clear_value x)
    | with_reducible apply Touches.refl
    | with_reducible apply Touches.ite
    | ((with_reducible apply loadedFlush_touches); (case hm => rfl))
    | ((with_reducible apply flushPort_touches); (case hm => rfl))
    | ((with_reducible apply dropSending_touches); (case hm => rfl))
    | with_reducible apply Touches.foldlD

theorem setLine_touches {M : Nat} {r : State} (a0 : Bool) (a1 : Bool) (s : State) (hs : Touches M r s) (hm : 0x1000012 ||| M = M) :
    Touches M r (setLine a0 a1 s) := by
  refine Touches.step hs ?_ hm
  clear hs hm r M
  unfold setLine
  repeat' first
    | with_reducible assumption
    | (intro _; try dsimp -zeta only)
    | (extract_lets -underBinder +onlyGivenNames x; (have hty : TypeOf x = State := by with_reducible rfl); clear hty; apply Touches.cut 0x1000012 s x; (case' kk => (clear_value x; intro _)); (case' vv => (unfold x; clear x)))
    | (extract_lets -underBinder +onlyGivenNames x; try clear_value x)
    | with_reducible apply Touches.refl
    | ((with_reducible apply showOut_touches); (case hm => rfl))
    | ((with_reducible apply State.setFld_touches); (case hm => rfl))
    | with_reducible apply Touches.foldlD
    | ((with_reducible apply Touches.pair); (case hm => rfl))

theorem pullLine_touches {M : Nat} {r : State} (s : State) (hs : Touches M r s) (hm : 0x10b21d6 ||| M = M) :
    Touches M r (pullLine s) := by
  refine Touches.step hs ?_ hm
  clear hs hm r M
  unfold pullLine
  repeat' first
    | with_reducible assumption
    | with_reducible apply Touches.refl
    | ((with_reducible apply fenceFlush_touches); (case hm => rfl))
    | ((with_reducible apply setLine_touches); (case hm => rfl))

theorem f3Stop_touches {M : Nat} {r : State} (a0 : Bool) (s : State) (hs : Touches M r s) (hm : 0x10b21d6 ||| M = M) :
    Touches M r (f3Stop a0 s) := by
  refine Touches.step hs ?_ hm
  clear hs hm r M
  unfold f3Stop
  repeat' first
    | with_reducible assumption
    | with_reducible apply Touches.refl
    | (extract_lets -underBinder +onlyGivenNames x; (have hty : TypeOf x = State := by with_reducible rfl); clear hty; apply Touches.cut 0x10b21d6 s x; (case' kk => (clear_value x; intro _)); (case' vv => (unfold x; clear x)))
    | (extract_lets -underBinder +onlyGivenNames x; try clear_value x)
    | with_reducible apply Touches.ite
    | ((with_reducible apply State.setFld_touches); (case hm => rfl))
    | ((with_reducible apply pullLine_touches); (case hm => rfl))
    | ((with_reducible apply Touches.flt); (case hm => rfl))

theorem f3Check_touches {M : Nat} {r : State} (s : State) (hs : Touches M r s) (hm : 0x10b21d6 ||| M = M) :
    Touches M r (f3Check s) := by
  refine Touches.step hs ?_ hm
  clear hs hm r M
  unfold f3Check
  repeat' first
    | with_reducible assumption
    | with_reducible apply Touches.refl
    | with_reducible apply Touches.ite
    | ((with_reducible apply f3Stop_touches); (case hm => rfl))

theorem fabLost_touches {M : Nat} {r : State} (s : State) (hs : Touches M r s) (hm : 0x800000 ||| M = M) :
    Touches M r (fabLost s) := by
  refine Touches.step hs ?_ hm
  clear hs hm r M
  unfold fabLost
  repeat' first
    | with_reducible assumption
    | with_reducible apply Touches.refl
    | ((with_reducible apply Touches.fab); (case hm => rfl))

theorem hostWarm_touches {M : Nat} {r : State} (a0 : Sys2Proof.HostId) (s : State) (hs : Touches M r s) (hm : 0xc2 ||| M = M) :
    Touches M r (hostWarm a0 s) := by
  refine Touches.step hs ?_ hm
  clear hs hm r M
  unfold hostWarm
  repeat' first
    | with_reducible assumption
    | with_reducible apply Touches.refl
    | ((with_reducible apply hostDefaults_touches); (case hm => rfl))
    | ((with_reducible apply dropRings_touches); (case hm => rfl))

theorem raiseF3_touches {M : Nat} {r : State} (a0 : Nat) (a1 : Sys2Proof.Bytes) (a2 : Bool) (s : State) (hs : Touches M r s) (hm : 0x10b21d6 ||| M = M) :
    Touches M r (raiseF3 a0 a1 a2 s) := by
  refine Touches.step hs ?_ hm
  clear hs hm r M
  unfold raiseF3
  repeat' first
    | with_reducible assumption
    | with_reducible apply Touches.refl
    | ((with_reducible apply f3Stop_touches); (case hm => rfl))
    | ((with_reducible apply raise_touches); (case hm => rfl))

theorem warmLose_touches {M : Nat} {r : State} (s : State) (hs : Touches M r s) (hm : 0xc4ff37f6 ||| M = M) :
    Touches M r (warmLose s) := by
  refine Touches.step hs ?_ hm
  clear hs hm r M
  unfold warmLose
  repeat' first
    | with_reducible assumption
    | with_reducible apply Touches.refl
    | ((with_reducible apply keepWarnings_touches); (case hm => rfl))
    | (extract_lets -underBinder +onlyGivenNames x; (have hty : TypeOf x = State := by with_reducible rfl); clear hty; apply Touches.cut 0xc4ff37f6 s x; (case' kk => (clear_value x; intro _)); (case' vv => (unfold x; clear x)))
    | (extract_lets -underBinder +onlyGivenNames x; try clear_value x)
    | ((with_reducible apply hostWarm_touches); (case hm => rfl))
    | ((with_reducible apply trnClear_touches); (case hm => rfl))
    | ((with_reducible apply keepPortStates_touches); (case hm => rfl))
    | ((with_reducible apply keepShown_touches); (case hm => rfl))
    | ((with_reducible apply loseRegs_touches); (case hm => rfl))
    | ((with_reducible apply ordersRestart_touches); (case hm => rfl))
    | ((with_reducible apply showRoots_touches); (case hm => rfl))
    | ((with_reducible apply gwRestart_touches); (case hm => rfl))
    | ((with_reducible apply timeDefault_touches); (case hm => rfl))
    | ((with_reducible apply egrWarm_touches); (case hm => rfl))
    | ((with_reducible apply hedgeWarm_touches); (case hm => rfl))
    | ((with_reducible apply memLost_touches); (case hm => rfl))
    | ((with_reducible apply Touches.flt); (case hm => rfl))
    | ((with_reducible apply Touches.tabs); (case hm => rfl))
    | ((with_reducible apply Touches.streams); (case hm => rfl))
    | ((with_reducible apply Touches.pnHold); (case hm => rfl))
    | ((with_reducible apply Touches.dbg); (case hm => rfl))
    | ((with_reducible apply Touches.wake); (case hm => rfl))
    | ((with_reducible apply Touches.keys); (case hm => rfl))
    | ((with_reducible apply Touches.fab); (case hm => rfl))
    | ((with_reducible apply Touches.admJob); (case hm => rfl))
    | ((with_reducible apply Touches.fn); (case hm => rfl))
    | ((with_reducible apply Touches.lit (F := 0x44f60500)); (case l1 => with_reducible rfl); (case l2 => with_reducible rfl); (case l3 => with_reducible rfl); (case l4 => with_reducible rfl); (case l5 => rfl); (case hm => rfl); (case ag => (constructor <;> first | exact tb rfl | exact fun _ => rfl)))

end Sys2Proof.Machine
end

