-- ==== Sys2Proof/Laws/Sup.lean ====
section
/-! SUPPORT. What each function of Machine/Sup.lean touches: one lemma per function that answers a state. -/

set_option linter.tactic.unusedName false

namespace Sys2Proof.Machine

theorem State.modSup_touches {M : Nat} {r : State} (s : State) (a1 : SupSt → SupSt) (hs : Touches M r s) (hm : 0x10000000 ||| M = M) :
    Touches M r (State.modSup s a1) := by
  refine Touches.step hs ?_ hm
  clear hs hm r M
  unfold State.modSup
  repeat' first
    | with_reducible assumption
    | with_reducible apply Touches.refl
    | ((with_reducible apply Touches.sup); (case hm => rfl))

theorem dropHandover_touches {M : Nat} {r : State} (s : State) (hs : Touches M r s) (hm : 0x400000 ||| M = M) :
    Touches M r (dropHandover s) := by
  refine Touches.step hs ?_ hm
  clear hs hm r M
  unfold dropHandover
  repeat' first
    | with_reducible assumption
    | with_reducible apply Touches.refl
    | (extract_lets -underBinder +onlyGivenNames x; (have hty : TypeOf x = State := by with_reducible rfl); clear hty; apply Touches.cut 0x400000 s x; (case' kk => (clear_value x; intro _)); (case' vv => (unfold x; clear x)))
    | (extract_lets -underBinder +onlyGivenNames x; try clear_value x)
    | ((with_reducible apply Touches.keys); (case hm => rfl))

theorem supShow_touches {M : Nat} {r : State} (a0 : Nat) (a1 : Bool) (s : State) (hs : Touches M r s) (hm : 0x2 ||| M = M) :
    Touches M r (supShow a0 a1 s) := by
  refine Touches.step hs ?_ hm
  clear hs hm r M
  unfold supShow
  repeat' first
    | with_reducible assumption
    | with_reducible apply Touches.refl
    | ((with_reducible apply State.setFld_touches); (case hm => rfl))

theorem abandonAct_touches {M : Nat} {r : State} (s : State) (hs : Touches M r s) (hm : 0x104000d2 ||| M = M) :
    Touches M r (abandonAct s) := by
  refine Touches.step hs ?_ hm
  clear hs hm r M
  unfold abandonAct
  repeat' first
    | with_reducible assumption
    | with_reducible apply Touches.refl
    | (extract_lets -underBinder +onlyGivenNames x; (have hty : TypeOf x = State := by with_reducible rfl); clear hty; apply Touches.cut 0x104000d2 s x; (case' kk => (clear_value x; intro _)); (case' vv => (unfold x; clear x)))
    | (extract_lets -underBinder +onlyGivenNames x; try clear_value x)
    | with_reducible apply Touches.ite
    | ((with_reducible apply dropHandover_touches); (case hm => rfl))
    | ((with_reducible apply State.modSup_touches); (case hm => rfl))
    | ((with_reducible apply complete_touches); (case hm => rfl))
    | ((with_reducible apply supShow_touches); (case hm => rfl))
    | split

theorem showSlot_touches {M : Nat} {r : State} (a0 : Nat) (s : State) (hs : Touches M r s) (hm : 0x2 ||| M = M) :
    Touches M r (showSlot a0 s) := by
  refine Touches.step hs ?_ hm
  clear hs hm r M
  unfold showSlot
  repeat' first
    | with_reducible assumption
    | with_reducible apply Touches.refl
    | (extract_lets -underBinder +onlyGivenNames x; (have hty : TypeOf x = State := by with_reducible rfl); clear hty; apply Touches.cut 0x2 s x; (case' kk => (clear_value x; intro _)); (case' vv => (unfold x; clear x)))
    | (extract_lets -underBinder +onlyGivenNames x; try clear_value x)
    | with_reducible apply Touches.ite
    | ((with_reducible apply State.setFld_touches); (case hm => rfl))
    | ((with_reducible apply State.setReg_touches); (case hm => rfl))

theorem modSlot_touches {M : Nat} {r : State} (a0 : Nat) (a1 : ImgSlot → ImgSlot) (s : State) (hs : Touches M r s) (hm : 0x10000002 ||| M = M) :
    Touches M r (modSlot a0 a1 s) := by
  refine Touches.step hs ?_ hm
  clear hs hm r M
  unfold modSlot
  repeat' first
    | with_reducible assumption
    | with_reducible apply Touches.refl
    | ((with_reducible apply showSlot_touches); (case hm => rfl))
    | ((with_reducible apply State.modSup_touches); (case hm => rfl))

theorem writeRec_touches {M : Nat} {r : State} (a0 : Nat) (a1 : Nat) (s : State) (hs : Touches M r s) (hm : 0x10000002 ||| M = M) :
    Touches M r (writeRec a0 a1 s) := by
  refine Touches.step hs ?_ hm
  clear hs hm r M
  unfold writeRec
  repeat' first
    | with_reducible assumption
    | with_reducible apply Touches.refl
    | (extract_lets -underBinder +onlyGivenNames x; (have hty : TypeOf x = State := by with_reducible rfl); clear hty; apply Touches.cut 0x10000002 s x; (case' kk => (clear_value x; intro _)); (case' vv => (unfold x; clear x)))
    | (extract_lets -underBinder +onlyGivenNames x; try clear_value x)
    | ((with_reducible apply modSlot_touches); (case hm => rfl))
    | ((with_reducible apply State.modSup_touches); (case hm => rfl))

theorem fallBack_touches {M : Nat} {r : State} (a0 : Nat) (a1 : Nat) (s : State) (hs : Touches M r s) (hm : 0x10400002 ||| M = M) :
    Touches M r (fallBack a0 a1 s) := by
  refine Touches.step hs ?_ hm
  clear hs hm r M
  unfold fallBack
  repeat' first
    | with_reducible assumption
    | with_reducible apply Touches.refl
    | ((with_reducible apply dropHandover_touches); (case hm => rfl))
    | ((with_reducible apply writeRec_touches); (case hm => rfl))
    | ((with_reducible apply modSlot_touches); (case hm => rfl))

theorem showFirmware_touches {M : Nat} {r : State} (a0 : Nat) (s : State) (hs : Touches M r s) (hm : 0x800002 ||| M = M) :
    Touches M r (showFirmware a0 s) := by
  refine Touches.step hs ?_ hm
  clear hs hm r M
  unfold showFirmware
  repeat' first
    | with_reducible assumption
    | with_reducible apply Touches.refl
    | (extract_lets -underBinder +onlyGivenNames x; (have hty : TypeOf x = State := by with_reducible rfl); clear hty; apply Touches.cut 0x800002 s x; (case' kk => (clear_value x; intro _)); (case' vv => (unfold x; clear x)))
    | (extract_lets -underBinder +onlyGivenNames x; try clear_value x)
    | with_reducible apply Touches.ite
    | ((with_reducible apply showRoots_touches); (case hm => rfl))
    | ((with_reducible apply Touches.fab); (case hm => rfl))

theorem showMeas_touches {M : Nat} {r : State} (a0 : Sys2Proof.Bytes) (s : State) (hs : Touches M r s) (hm : 0x400002 ||| M = M) :
    Touches M r (showMeas a0 s) := by
  refine Touches.step hs ?_ hm
  clear hs hm r M
  unfold showMeas
  repeat' first
    | with_reducible assumption
    | (intro _; try dsimp -zeta only)
    | (extract_lets -underBinder +onlyGivenNames x; (have hty : TypeOf x = State := by with_reducible rfl); clear hty; apply Touches.cut 0x400002 s x; (case' kk => (clear_value x; intro _)); (case' vv => (unfold x; clear x)))
    | (extract_lets -underBinder +onlyGivenNames x; try clear_value x)
    | with_reducible apply Touches.refl
    | ((with_reducible apply State.setReg_touches); (case hm => rfl))
    | with_reducible apply Touches.foldlD
    | ((with_reducible apply Touches.keys); (case hm => rfl))

theorem rebind_touches {M : Nat} {r : State} (a0 : Nat) (s : State) (hs : Touches M r s) (hm : 0x4001c6 ||| M = M) :
    Touches M r (rebind a0 s) := by
  refine Touches.step hs ?_ hm
  clear hs hm r M
  unfold rebind
  repeat' first
    | with_reducible assumption
    | (intro _; try dsimp -zeta only)
    | (extract_lets -underBinder +onlyGivenNames x; (have hty : TypeOf x = State := by with_reducible rfl); clear hty; apply Touches.cut 0x4001c6 s x; (case' kk => (clear_value x; intro _)); (case' vv => (unfold x; clear x)))
    | (extract_lets -underBinder +onlyGivenNames x; try clear_value x)
    | with_reducible apply Touches.refl
    | with_reducible apply Touches.ite
    | ((with_reducible apply rebindSlot_touches); (case hm => rfl))
    | ((with_reducible apply showMeas_touches); (case hm => rfl))
    | with_reducible apply Touches.foldlD

theorem endFallback_touches {M : Nat} {r : State} (a0 : Nat) (s : State) (hs : Touches M r s) (hm : 0x100001d6 ||| M = M) :
    Touches M r (endFallback a0 s) := by
  refine Touches.step hs ?_ hm
  clear hs hm r M
  unfold endFallback
  repeat' first
    | with_reducible assumption
    | with_reducible apply Touches.refl
    | (extract_lets -underBinder +onlyGivenNames x; (have hty : TypeOf x = State := by with_reducible rfl); clear hty; apply Touches.cut 0x100001d6 s x; (case' kk => (clear_value x; intro _)); (case' vv => (unfold x; clear x)))
    | (extract_lets -underBinder +onlyGivenNames x; try clear_value x)
    | with_reducible apply Touches.ite
    | ((with_reducible apply raise_touches); (case hm => rfl))
    | ((with_reducible apply State.modSup_touches); (case hm => rfl))
    | ((with_reducible apply complete_touches); (case hm => rfl))
    | split

theorem raiseExit_touches {M : Nat} {r : State} (s : State) (hs : Touches M r s) (hm : 0x80001c6 ||| M = M) :
    Touches M r (raiseExit s) := by
  refine Touches.step hs ?_ hm
  clear hs hm r M
  unfold raiseExit
  repeat' first
    | with_reducible assumption
    | with_reducible apply Touches.refl
    | (extract_lets -underBinder +onlyGivenNames x; (have hty : TypeOf x = State := by with_reducible rfl); clear hty; apply Touches.cut 0x80001c6 s x; (case' kk => (clear_value x; intro _)); (case' vv => (unfold x; clear x)))
    | (extract_lets -underBinder +onlyGivenNames x; try clear_value x)
    | ((with_reducible apply raise_touches); (case hm => rfl))
    | split
    | ((with_reducible apply Touches.pwr); (case hm => rfl))

theorem raiseReady_touches {M : Nat} {r : State} (s : State) (hs : Touches M r s) (hm : 0x200001c6 ||| M = M) :
    Touches M r (raiseReady s) := by
  refine Touches.step hs ?_ hm
  clear hs hm r M
  unfold raiseReady
  repeat' first
    | with_reducible assumption
    | with_reducible apply Touches.refl
    | (extract_lets -underBinder +onlyGivenNames x; (have hty : TypeOf x = State := by with_reducible rfl); clear hty; apply Touches.cut 0x200001c6 s x; (case' kk => (clear_value x; intro _)); (case' vv => (unfold x; clear x)))
    | (extract_lets -underBinder +onlyGivenNames x; try clear_value x)
    | with_reducible apply Touches.ite
    | ((with_reducible apply raise_touches); (case hm => rfl))
    | split
    | ((with_reducible apply Touches.rst); (case hm => rfl))

theorem firmwareRuns_touches {M : Nat} {r : State} (a0 : Nat) (s : State) (hs : Touches M r s) (hm : 0x3ecb25de ||| M = M) :
    Touches M r (firmwareRuns a0 s) := by
  refine Touches.step hs ?_ hm
  clear hs hm r M
  unfold firmwareRuns
  repeat' first
    | with_reducible assumption
    | with_reducible apply Touches.refl
    | (extract_lets -underBinder +onlyGivenNames x; (have hty : TypeOf x = State := by with_reducible rfl); clear hty; apply Touches.cut 0x3ecb25de s x; (case' kk => (clear_value x; intro _)); (case' vv => (unfold x; clear x)))
    | (extract_lets -underBinder +onlyGivenNames x; try clear_value x)
    | with_reducible apply Touches.ite
    | ((with_reducible apply showFirmware_touches); (case hm => rfl))
    | ((with_reducible apply rebind_touches); (case hm => rfl))
    | ((with_reducible apply State.modSup_touches); (case hm => rfl))
    | ((with_reducible apply supShow_touches); (case hm => rfl))
    | ((with_reducible apply showSlot_touches); (case hm => rfl))
    | ((with_reducible apply State.setFld_touches); (case hm => rfl))
    | ((with_reducible apply endFallback_touches); (case hm => rfl))
    | ((with_reducible apply raiseExit_touches); (case hm => rfl))
    | ((with_reducible apply raiseReady_touches); (case hm => rfl))
    | ((with_reducible apply applyAdmImage_touches); (case hm => rfl))
    | split
    | ((with_reducible apply Touches.rst); (case hm => rfl))

theorem bootSlot_touches {M : Nat} {r : State} (a0 : Bool) (a1 : Bool) (s : State) (hs : Touches M r s) (hm : 0x3ecb25de ||| M = M) :
    Touches M r (bootSlot a0 a1 s) := by
  refine Touches.step hs ?_ hm
  clear hs hm r M
  unfold bootSlot
  repeat' first
    | with_reducible assumption
    | with_reducible apply Touches.refl
    | (extract_lets -underBinder +onlyGivenNames x; (have hty : TypeOf x = State := by with_reducible rfl); clear hty; apply Touches.cut 0x3ecb25de s x; (case' kk => (clear_value x; intro _)); (case' vv => (unfold x; clear x)))
    | (extract_lets -underBinder +onlyGivenNames x; try clear_value x)
    | with_reducible apply Touches.ite
    | ((with_reducible apply State.modSup_touches); (case hm => rfl))
    | ((with_reducible apply fallBack_touches); (case hm => rfl))
    | ((with_reducible apply firmwareRuns_touches); (case hm => rfl))
    | ((with_reducible apply dropHandover_touches); (case hm => rfl))
    | ((with_reducible apply modSlot_touches); (case hm => rfl))
    | ((with_reducible apply supShow_touches); (case hm => rfl))
    | ((with_reducible apply writeRec_touches); (case hm => rfl))

theorem bootDone_touches {M : Nat} {r : State} (a0 : Nat) (a1 : Bool) (a2 : Bool) (s : State) (hs : Touches M r s) (hm : 0x3fcb25de ||| M = M) :
    Touches M r (bootDone a0 a1 a2 s) := by
  refine Touches.step hs ?_ hm
  clear hs hm r M
  unfold bootDone
  repeat' first
    | with_reducible assumption
    | with_reducible apply Touches.refl
    | (extract_lets -underBinder +onlyGivenNames x; (have hty : TypeOf x = State := by with_reducible rfl); clear hty; apply Touches.cut 0x3fcb25de s x; (case' kk => (clear_value x; intro _)); (case' vv => (unfold x; clear x)))
    | (extract_lets -underBinder +onlyGivenNames x; try clear_value x)
    | with_reducible apply Touches.ite
    | ((with_reducible apply State.setFld_touches); (case hm => rfl))
    | ((with_reducible apply bootSlot_touches); (case hm => rfl))
    | ((with_reducible apply raiseF3_touches); (case hm => rfl))
    | ((with_reducible apply State.modSup_touches); (case hm => rfl))

theorem supRestart_touches {M : Nat} {r : State} (a0 : Bool) (s : State) (hs : Touches M r s) (hm : 0x304000d2 ||| M = M) :
    Touches M r (supRestart a0 s) := by
  refine Touches.step hs ?_ hm
  clear hs hm r M
  unfold supRestart
  repeat' first
    | with_reducible assumption
    | with_reducible apply Touches.refl
    | (extract_lets -underBinder +onlyGivenNames x; (have hty : TypeOf x = State := by with_reducible rfl); clear hty; apply Touches.cut 0x304000d2 s x; (case' kk => (clear_value x; intro _)); (case' vv => (unfold x; clear x)))
    | (extract_lets -underBinder +onlyGivenNames x; try clear_value x)
    | with_reducible apply Touches.ite
    | ((with_reducible apply abandonAct_touches); (case hm => rfl))
    | ((with_reducible apply supShow_touches); (case hm => rfl))
    | ((with_reducible apply State.setFld_touches); (case hm => rfl))
    | ((with_reducible apply State.modSup_touches); (case hm => rfl))
    | ((with_reducible apply Touches.rst); (case hm => rfl))

theorem startFallback_touches {M : Nat} {r : State} (a0 : Activation) (a1 : Nat) (s : State) (hs : Touches M r s) (hm : 0x304000d2 ||| M = M) :
    Touches M r (startFallback a0 a1 s) := by
  refine Touches.step hs ?_ hm
  clear hs hm r M
  unfold startFallback
  repeat' first
    | with_reducible assumption
    | with_reducible apply Touches.refl
    | (extract_lets -underBinder +onlyGivenNames x; (have hty : TypeOf x = State := by with_reducible rfl); clear hty; apply Touches.cut 0x304000d2 s x; (case' kk => (clear_value x; intro _)); (case' vv => (unfold x; clear x)))
    | (extract_lets -underBinder +onlyGivenNames x; try clear_value x)
    | ((with_reducible apply State.modSup_touches); (case hm => rfl))
    | ((with_reducible apply fallBack_touches); (case hm => rfl))
    | ((with_reducible apply supRestart_touches); (case hm => rfl))

theorem execActivationWatchdog_touches {M : Nat} {r : State} (s : State) (hs : Touches M r s) (hm : 0x304000d2 ||| M = M) :
    TouchesR M r (execActivationWatchdog s) := by
  refine TouchesR.step hs ?_ hm
  clear hs hm r M
  unfold execActivationWatchdog
  repeat' first
    | with_reducible assumption
    | with_reducible apply Touches.refl
    | with_reducible apply TouchesR.next
    | with_reducible apply TouchesR.fault
    | with_reducible apply TouchesR.ite
    | with_reducible apply Touches.ite
    | ((with_reducible apply startFallback_touches); (case hm => rfl))
    | split

theorem execFirmwareFallback_touches {M : Nat} {r : State} (a0 : Nat) (s : State) (hs : Touches M r s) (hm : 0x304001d6 ||| M = M) :
    TouchesR M r (execFirmwareFallback a0 s) := by
  refine TouchesR.step hs ?_ hm
  clear hs hm r M
  unfold execFirmwareFallback
  repeat' first
    | with_reducible assumption
    | with_reducible apply Touches.refl
    | (extract_lets -underBinder +onlyGivenNames x; (have hty : TypeOf x = State := by with_reducible rfl); clear hty; apply Touches.cut 0x304001d6 s x; (case' kk => (clear_value x; intro _)); (case' vv => (unfold x; clear x)))
    | (extract_lets -underBinder +onlyGivenNames x; try clear_value x)
    | with_reducible apply TouchesR.next
    | with_reducible apply TouchesR.fault
    | with_reducible apply TouchesR.ite
    | with_reducible apply Touches.ite
    | ((with_reducible apply startFallback_touches); (case hm => rfl))
    | ((with_reducible apply raise_touches); (case hm => rfl))
    | ((with_reducible apply State.modSup_touches); (case hm => rfl))
    | ((with_reducible apply fallBack_touches); (case hm => rfl))
    | split

theorem fltAck_touches {M : Nat} {r : State} (a0 : Nat) (s : State) (hs : Touches M r s) (hm : 0x100 ||| M = M) :
    Touches M r (fltAck a0 s) := by
  refine Touches.step hs ?_ hm
  clear hs hm r M
  unfold fltAck
  repeat' first
    | with_reducible assumption
    | (intro _; try dsimp -zeta only)
    | with_reducible apply Touches.refl
    | with_reducible apply Touches.ite
    | ((with_reducible apply handleGroup_touches); (case hm => rfl))
    | with_reducible apply Touches.foldlD

theorem execFltAck_touches {M : Nat} {r : State} (a0 : Sys2Proof.Src) (a1 : Nat) (s : State) (hs : Touches M r s) (hm : 0x120 ||| M = M) :
    TouchesR M r (execFltAck a0 a1 s) := by
  refine TouchesR.step hs ?_ hm
  clear hs hm r M
  unfold execFltAck
  repeat' first
    | with_reducible assumption
    | (intro _; try dsimp -zeta only)
    | with_reducible apply Touches.refl
    | with_reducible apply TouchesR.next
    | with_reducible apply TouchesR.fault
    | ((with_reducible apply busRow_touches); (case hm => rfl))
    | ((with_reducible apply fltAck_touches); (case hm => rfl))

theorem fltFirstClear_touches {M : Nat} {r : State} (a0 : Nat) (s : State) (hs : Touches M r s) (hm : 0x100 ||| M = M) :
    Touches M r (fltFirstClear a0 s) := by
  refine Touches.step hs ?_ hm
  clear hs hm r M
  unfold fltFirstClear
  repeat' first
    | with_reducible assumption
    | with_reducible apply Touches.refl
    | (extract_lets -underBinder +onlyGivenNames x; (have hty : TypeOf x = State := by with_reducible rfl); clear hty; apply Touches.cut 0x100 s x; (case' kk => (clear_value x; intro _)); (case' vv => (unfold x; clear x)))
    | (extract_lets -underBinder +onlyGivenNames x; try clear_value x)
    | with_reducible apply Touches.ite
    | ((with_reducible apply Touches.flt); (case hm => rfl))

theorem execFltFirstClear_touches {M : Nat} {r : State} (a0 : Sys2Proof.Src) (a1 : Nat) (s : State) (hs : Touches M r s) (hm : 0x120 ||| M = M) :
    TouchesR M r (execFltFirstClear a0 a1 s) := by
  refine TouchesR.step hs ?_ hm
  clear hs hm r M
  unfold execFltFirstClear
  repeat' first
    | with_reducible assumption
    | (intro _; try dsimp -zeta only)
    | with_reducible apply Touches.refl
    | with_reducible apply TouchesR.next
    | with_reducible apply TouchesR.fault
    | ((with_reducible apply busRow_touches); (case hm => rfl))
    | ((with_reducible apply fltFirstClear_touches); (case hm => rfl))

theorem fltHistSnapshot_touches {M : Nat} {r : State} (a0 : Nat) (s : State) (hs : Touches M r s) (hm : 0x2 ||| M = M) :
    Touches M r (fltHistSnapshot a0 s) := by
  refine Touches.step hs ?_ hm
  clear hs hm r M
  unfold fltHistSnapshot
  repeat' first
    | with_reducible assumption
    | (intro _; try dsimp -zeta only)
    | (extract_lets -underBinder +onlyGivenNames x; (have hty : TypeOf x = State := by with_reducible rfl); clear hty; apply Touches.cut 0x2 s x; (case' kk => (clear_value x; intro _)); (case' vv => (unfold x; clear x)))
    | (extract_lets -underBinder +onlyGivenNames x; try clear_value x)
    | with_reducible apply Touches.refl
    | ((with_reducible apply State.setReg_touches); (case hm => rfl))
    | ((with_reducible apply State.setFld_touches); (case hm => rfl))
    | with_reducible apply Touches.foldlD

theorem execFltHistSnapshot_touches {M : Nat} {r : State} (a0 : Sys2Proof.Src) (a1 : Nat) (s : State) (hs : Touches M r s) (hm : 0x22 ||| M = M) :
    TouchesR M r (execFltHistSnapshot a0 a1 s) := by
  refine TouchesR.step hs ?_ hm
  clear hs hm r M
  unfold execFltHistSnapshot
  repeat' first
    | with_reducible assumption
    | (intro _; try dsimp -zeta only)
    | with_reducible apply Touches.refl
    | with_reducible apply TouchesR.next
    | with_reducible apply TouchesR.fault
    | ((with_reducible apply busRow_touches); (case hm => rfl))
    | ((with_reducible apply fltHistSnapshot_touches); (case hm => rfl))

theorem execImageSlotEraseDone_touches {M : Nat} {r : State} (a0 : Fin 2) (s : State) (hs : Touches M r s) (hm : 0x10000000 ||| M = M) :
    TouchesR M r (execImageSlotEraseDone a0 s) := by
  refine TouchesR.step hs ?_ hm
  clear hs hm r M
  unfold execImageSlotEraseDone
  repeat' first
    | with_reducible assumption
    | with_reducible apply Touches.refl
    | with_reducible apply TouchesR.next
    | with_reducible apply TouchesR.fault
    | ((with_reducible apply State.modSup_touches); (case hm => rfl))

theorem execImgActivate_touches {M : Nat} {r : State} (a0 : Sys2Proof.CmdCtx) (s : State) (hs : Touches M r s) (hm : 0x180000d0 ||| M = M) :
    TouchesR M r (execImgActivate a0 s) := by
  refine TouchesR.step hs ?_ hm
  clear hs hm r M
  unfold execImgActivate
  repeat' first
    | with_reducible assumption
    | (intro _; try dsimp -zeta only)
    | (extract_lets -underBinder +onlyGivenNames x; (have hty : TypeOf x = State := by with_reducible rfl); clear hty; apply Touches.cut 0x180000d0 s x; (case' kk => (clear_value x; intro _)); (case' vv => (unfold x; clear x)))
    | (extract_lets -underBinder +onlyGivenNames x; try clear_value x)
    | with_reducible apply Touches.refl
    | with_reducible apply TouchesR.next
    | with_reducible apply TouchesR.fault
    | with_reducible apply TouchesR.ite
    | with_reducible apply Touches.ite
    | ((with_reducible apply command_touches); (case hm => rfl))
    | ((with_reducible apply complete_touches); (case hm => rfl))
    | ((with_reducible apply State.modSup_touches); (case hm => rfl))

theorem execImgBegin_touches {M : Nat} {r : State} (a0 : Sys2Proof.CmdCtx) (s : State) (hs : Touches M r s) (hm : 0x180000d2 ||| M = M) :
    TouchesR M r (execImgBegin a0 s) := by
  refine TouchesR.step hs ?_ hm
  clear hs hm r M
  unfold execImgBegin
  repeat' first
    | with_reducible assumption
    | (intro _; try dsimp -zeta only)
    | (extract_lets -underBinder +onlyGivenNames x; (have hty : TypeOf x = State := by with_reducible rfl); clear hty; apply Touches.cut 0x180000d2 s x; (case' kk => (clear_value x; intro _)); (case' vv => (unfold x; clear x)))
    | (extract_lets -underBinder +onlyGivenNames x; try clear_value x)
    | with_reducible apply Touches.refl
    | with_reducible apply TouchesR.next
    | with_reducible apply TouchesR.fault
    | with_reducible apply TouchesR.ite
    | with_reducible apply Touches.ite
    | ((with_reducible apply command_touches); (case hm => rfl))
    | ((with_reducible apply complete_touches); (case hm => rfl))
    | ((with_reducible apply modSlot_touches); (case hm => rfl))
    | split

theorem execImgBlock_touches {M : Nat} {r : State} (a0 : Sys2Proof.CmdCtx) (a1 : Option Sys2Proof.Bytes) (s : State) (hs : Touches M r s) (hm : 0x180000d2 ||| M = M) :
    TouchesR M r (execImgBlock a0 a1 s) := by
  refine TouchesR.step hs ?_ hm
  clear hs hm r M
  unfold execImgBlock
  repeat' first
    | with_reducible assumption
    | (intro _; try dsimp -zeta only)
    | (extract_lets -underBinder +onlyGivenNames x; (have hty : TypeOf x = State := by with_reducible rfl); clear hty; apply Touches.cut 0x180000d2 s x; (case' kk => (clear_value x; intro _)); (case' vv => (unfold x; clear x)))
    | (extract_lets -underBinder +onlyGivenNames x; try clear_value x)
    | with_reducible apply Touches.refl
    | ((with_reducible apply hostFetch_touches); (case hm => rfl))
    | with_reducible apply TouchesR.next
    | with_reducible apply TouchesR.fault
    | with_reducible apply TouchesR.ite
    | with_reducible apply Touches.ite
    | ((with_reducible apply command_touches); (case hm => rfl))
    | ((with_reducible apply complete_touches); (case hm => rfl))
    | ((with_reducible apply modSlot_touches); (case hm => rfl))
    | split

theorem execImgEnd_touches {M : Nat} {r : State} (a0 : Sys2Proof.CmdCtx) (a1 : Bool) (s : State) (hs : Touches M r s) (hm : 0x180000d2 ||| M = M) :
    TouchesR M r (execImgEnd a0 a1 s) := by
  refine TouchesR.step hs ?_ hm
  clear hs hm r M
  unfold execImgEnd
  repeat' first
    | with_reducible assumption
    | (intro _; try dsimp -zeta only)
    | (extract_lets -underBinder +onlyGivenNames x; (have hty : TypeOf x = State := by with_reducible rfl); clear hty; apply Touches.cut 0x180000d2 s x; (case' kk => (clear_value x; intro _)); (case' vv => (unfold x; clear x)))
    | (extract_lets -underBinder +onlyGivenNames x; try clear_value x)
    | with_reducible apply Touches.refl
    | with_reducible apply TouchesR.next
    | with_reducible apply TouchesR.fault
    | with_reducible apply TouchesR.ite
    | with_reducible apply Touches.ite
    | ((with_reducible apply command_touches); (case hm => rfl))
    | ((with_reducible apply complete_touches); (case hm => rfl))
    | ((with_reducible apply modSlot_touches); (case hm => rfl))
    | split

theorem rewrap_touches {M : Nat} {r : State} (a0 : Sys2Proof.Bytes) (s : State) (hs : Touches M r s) (hm : 0x400000 ||| M = M) :
    Touches M r (rewrap a0 s) := by
  refine Touches.step hs ?_ hm
  clear hs hm r M
  unfold rewrap
  repeat' first
    | with_reducible assumption
    | with_reducible apply Touches.refl
    | (extract_lets -underBinder +onlyGivenNames x; (have hty : TypeOf x = State := by with_reducible rfl); clear hty; apply Touches.cut 0x400000 s x; (case' kk => (clear_value x; intro _)); (case' vv => (unfold x; clear x)))
    | (extract_lets -underBinder +onlyGivenNames x; try clear_value x)
    | with_reducible apply Touches.ite
    | split
    | ((with_reducible apply Touches.keys); (case hm => rfl))

theorem execSealedHandoverDone_touches {M : Nat} {r : State} (s : State) (hs : Touches M r s) (hm : 0x10400002 ||| M = M) :
    TouchesR M r (execSealedHandoverDone s) := by
  refine TouchesR.step hs ?_ hm
  clear hs hm r M
  unfold execSealedHandoverDone
  repeat' first
    | with_reducible assumption
    | with_reducible apply Touches.refl
    | with_reducible apply TouchesR.next
    | with_reducible apply TouchesR.fault
    | with_reducible apply TouchesR.ite
    | with_reducible apply Touches.ite
    | ((with_reducible apply supShow_touches); (case hm => rfl))
    | ((with_reducible apply State.modSup_touches); (case hm => rfl))
    | ((with_reducible apply rewrap_touches); (case hm => rfl))
    | split

theorem supCtrlWrite_touches {M : Nat} {r : State} (a0 : Nat) (s : State) (hs : Touches M r s) (hm : 0x304000d2 ||| M = M) :
    Touches M r (supCtrlWrite a0 s) := by
  refine Touches.step hs ?_ hm
  clear hs hm r M
  unfold supCtrlWrite
  repeat' first
    | with_reducible assumption
    | with_reducible apply Touches.refl
    | with_reducible apply Touches.ite
    | ((with_reducible apply supRestart_touches); (case hm => rfl))

theorem execSupRestart_touches {M : Nat} {r : State} (a0 : Sys2Proof.Src) (a1 : Nat) (s : State) (hs : Touches M r s) (hm : 0x304000f2 ||| M = M) :
    TouchesR M r (execSupRestart a0 a1 s) := by
  refine TouchesR.step hs ?_ hm
  clear hs hm r M
  unfold execSupRestart
  repeat' first
    | with_reducible assumption
    | (intro _; try dsimp -zeta only)
    | with_reducible apply Touches.refl
    | with_reducible apply TouchesR.next
    | with_reducible apply TouchesR.fault
    | ((with_reducible apply busRow_touches); (case hm => rfl))
    | ((with_reducible apply supCtrlWrite_touches); (case hm => rfl))

theorem execSupResyncDone_touches {M : Nat} {r : State} (s : State) (hs : Touches M r s) (hm : 0x10000002 ||| M = M) :
    TouchesR M r (execSupResyncDone s) := by
  refine TouchesR.step hs ?_ hm
  clear hs hm r M
  unfold execSupResyncDone
  repeat' first
    | with_reducible assumption
    | with_reducible apply Touches.refl
    | with_reducible apply TouchesR.next
    | with_reducible apply TouchesR.fault
    | with_reducible apply TouchesR.ite
    | with_reducible apply Touches.ite
    | ((with_reducible apply State.setFld_touches); (case hm => rfl))
    | ((with_reducible apply State.modSup_touches); (case hm => rfl))
    | split

theorem keepHandover_touches {M : Nat} {r : State} (s : State) (hs : Touches M r s) (hm : 0x400000 ||| M = M) :
    Touches M r (keepHandover s) := by
  refine Touches.step hs ?_ hm
  clear hs hm r M
  unfold keepHandover
  repeat' first
    | with_reducible assumption
    | with_reducible apply Touches.refl
    | (extract_lets -underBinder +onlyGivenNames x; (have hty : TypeOf x = State := by with_reducible rfl); clear hty; apply Touches.cut 0x400000 s x; (case' kk => (clear_value x; intro _)); (case' vv => (unfold x; clear x)))
    | (extract_lets -underBinder +onlyGivenNames x; try clear_value x)
    | split
    | ((with_reducible apply Touches.keys); (case hm => rfl))

theorem execTrialConfirm_touches {M : Nat} {r : State} (s : State) (hs : Touches M r s) (hm : 0x104001c6 ||| M = M) :
    TouchesR M r (execTrialConfirm s) := by
  refine TouchesR.step hs ?_ hm
  clear hs hm r M
  unfold execTrialConfirm
  repeat' first
    | with_reducible assumption
    | with_reducible apply Touches.refl
    | (extract_lets -underBinder +onlyGivenNames x; (have hty : TypeOf x = State := by with_reducible rfl); clear hty; apply Touches.cut 0x104001c6 s x; (case' kk => (clear_value x; intro _)); (case' vv => (unfold x; clear x)))
    | (extract_lets -underBinder +onlyGivenNames x; try clear_value x)
    | with_reducible apply TouchesR.next
    | with_reducible apply TouchesR.fault
    | with_reducible apply TouchesR.ite
    | with_reducible apply Touches.ite
    | ((with_reducible apply keepHandover_touches); (case hm => rfl))
    | ((with_reducible apply writeRec_touches); (case hm => rfl))
    | ((with_reducible apply State.setFld_touches); (case hm => rfl))
    | ((with_reducible apply modSlot_touches); (case hm => rfl))
    | ((with_reducible apply State.modSup_touches); (case hm => rfl))
    | ((with_reducible apply raise_touches); (case hm => rfl))
    | split

theorem markOdd_touches {M : Nat} {r : State} (a0 : Nat) (a1 : Nat) (s : State) (hs : Touches M r s) (hm : 0x100001c6 ||| M = M) :
    Touches M r (markOdd a0 a1 s) := by
  refine Touches.step hs ?_ hm
  clear hs hm r M
  unfold markOdd
  repeat' first
    | with_reducible assumption
    | with_reducible apply Touches.refl
    | (extract_lets -underBinder +onlyGivenNames x; (have hty : TypeOf x = State := by with_reducible rfl); clear hty; apply Touches.cut 0x100001c6 s x; (case' kk => (clear_value x; intro _)); (case' vv => (unfold x; clear x)))
    | (extract_lets -underBinder +onlyGivenNames x; try clear_value x)
    | with_reducible apply Touches.ite
    | ((with_reducible apply State.bumpFld_touches); (case hm => rfl))
    | ((with_reducible apply State.setFld_touches); (case hm => rfl))
    | ((with_reducible apply State.modSup_touches); (case hm => rfl))
    | ((with_reducible apply raise_touches); (case hm => rfl))

theorem migrateSettings_touches {M : Nat} {r : State} (s : State) (hs : Touches M r s) (hm : 0x10000002 ||| M = M) :
    Touches M r (migrateSettings s) := by
  refine Touches.step hs ?_ hm
  clear hs hm r M
  unfold migrateSettings
  repeat' first
    | with_reducible assumption
    | with_reducible apply Touches.refl
    | (extract_lets -underBinder +onlyGivenNames x; (have hty : TypeOf x = State := by with_reducible rfl); clear hty; apply Touches.cut 0x10000002 s x; (case' kk => (clear_value x; intro _)); (case' vv => (unfold x; clear x)))
    | (extract_lets -underBinder +onlyGivenNames x; try clear_value x)
    | with_reducible apply Touches.ite
    | ((with_reducible apply State.modSup_touches); (case hm => rfl))
    | ((with_reducible apply State.setFld_touches); (case hm => rfl))
    | split

theorem pauseEnd_touches {M : Nat} {r : State} (a0 : Activation) (s : State) (hs : Touches M r s) (hm : 0x3ecb25de ||| M = M) :
    Touches M r (pauseEnd a0 s) := by
  refine Touches.step hs ?_ hm
  clear hs hm r M
  unfold pauseEnd
  repeat' first
    | with_reducible assumption
    | with_reducible apply Touches.refl
    | (extract_lets -underBinder +onlyGivenNames x; (have hty : TypeOf x = State := by with_reducible rfl); clear hty; apply Touches.cut 0x3ecb25de s x; (case' kk => (clear_value x; intro _)); (case' vv => (unfold x; clear x)))
    | (extract_lets -underBinder +onlyGivenNames x; try clear_value x)
    | ((with_reducible apply writeRec_touches); (case hm => rfl))
    | ((with_reducible apply State.modSup_touches); (case hm => rfl))
    | ((with_reducible apply firmwareRuns_touches); (case hm => rfl))
    | ((with_reducible apply raise_touches); (case hm => rfl))
    | ((with_reducible apply migrateSettings_touches); (case hm => rfl))
    | ((with_reducible apply complete_touches); (case hm => rfl))

end Sys2Proof.Machine
end

