-- ==== Sys2Proof/Laws/PortState.lean ====
section
/-! SUPPORT. What each function of Machine/PortState.lean touches: one lemma per function that answers a state. -/

set_option linter.tactic.unusedName false

namespace Sys2Proof.Machine

theorem State.modWake_touches {M : Nat} {r : State} (s : State) (a1 : WakeSt → WakeSt) (hs : Touches M r s) (hm : 0x200000 ||| M = M) :
    Touches M r (State.modWake s a1) := by
  refine Touches.step hs ?_ hm
  clear hs hm r M
  unfold State.modWake
  repeat' first
    | with_reducible assumption
    | with_reducible apply Touches.refl
    | ((with_reducible apply Touches.wake); (case hm => rfl))

theorem endSettling_touches {M : Nat} {r : State} (s : State) (hs : Touches M r s) (hm : 0x200000 ||| M = M) :
    Touches M r (endSettling s) := by
  refine Touches.step hs ?_ hm
  clear hs hm r M
  unfold endSettling
  repeat' first
    | with_reducible assumption
    | with_reducible apply Touches.refl
    | with_reducible apply Touches.ite
    | ((with_reducible apply State.modWake_touches); (case hm => rfl))

theorem etherOff_touches {M : Nat} {r : State} (a0 : Nat) (s : State) (hs : Touches M r s) (hm : 0x8365de ||| M = M) :
    Touches M r (etherOff a0 s) := by
  refine Touches.step hs ?_ hm
  clear hs hm r M
  unfold etherOff
  repeat' first
    | with_reducible assumption
    | with_reducible apply Touches.refl
    | with_reducible apply Touches.ite
    | ((with_reducible apply fabricDown_touches); (case hm => rfl))
    | ((with_reducible apply linkDown_touches); (case hm => rfl))

theorem portReached_touches {M : Nat} {r : State} (a0 : Nat) (s : State) (hs : Touches M r s) (hm : 0xab65de ||| M = M) :
    Touches M r (portReached a0 s) := by
  refine Touches.step hs ?_ hm
  clear hs hm r M
  unfold portReached
  repeat' first
    | with_reducible assumption
    | with_reducible apply Touches.refl
    | (extract_lets -underBinder +onlyGivenNames x; (have hty : TypeOf x = State := by with_reducible rfl); clear hty; apply Touches.cut 0xab65de s x; (case' kk => (clear_value x; intro _)); (case' vv => (unfold x; clear x)))
    | (extract_lets -underBinder +onlyGivenNames x; try clear_value x)
    | with_reducible apply Touches.ite
    | ((with_reducible apply State.setFld_touches); (case hm => rfl))
    | ((with_reducible apply State.modWake_touches); (case hm => rfl))
    | ((with_reducible apply etherOff_touches); (case hm => rfl))
    | ((with_reducible apply imTrigger_touches); (case hm => rfl))
    | ((with_reducible apply endSettling_touches); (case hm => rfl))

theorem portForced_touches {M : Nat} {r : State} (a0 : Nat) (s : State) (hs : Touches M r s) (hm : 0xab65de ||| M = M) :
    Touches M r (portForced a0 s) := by
  refine Touches.step hs ?_ hm
  clear hs hm r M
  unfold portForced
  repeat' first
    | with_reducible assumption
    | with_reducible apply Touches.refl
    | (extract_lets -underBinder +onlyGivenNames x; (have hty : TypeOf x = State := by with_reducible rfl); clear hty; apply Touches.cut 0xab65de s x; (case' kk => (clear_value x; intro _)); (case' vv => (unfold x; clear x)))
    | (extract_lets -underBinder +onlyGivenNames x; try clear_value x)
    | with_reducible apply Touches.ite
    | ((with_reducible apply raise_touches); (case hm => rfl))
    | ((with_reducible apply portReached_touches); (case hm => rfl))
    | ((with_reducible apply State.bump_touches); (case hm => rfl))
    | split

theorem portLeave_touches {M : Nat} {r : State} (a0 : Nat) (a1 : Bool) (s : State) (hs : Touches M r s) (hm : 0xb21d6 ||| M = M) :
    Touches M r (portLeave a0 a1 s) := by
  refine Touches.step hs ?_ hm
  clear hs hm r M
  unfold portLeave
  repeat' first
    | with_reducible assumption
    | with_reducible apply Touches.refl
    | (extract_lets -underBinder +onlyGivenNames x; (have hty : TypeOf x = State := by with_reducible rfl); clear hty; apply Touches.cut 0xb21d6 s x; (case' kk => (clear_value x; intro _)); (case' vv => (unfold x; clear x)))
    | (extract_lets -underBinder +onlyGivenNames x; try clear_value x)
    | with_reducible apply Touches.ite
    | ((with_reducible apply flushPort_touches); (case hm => rfl))
    | ((with_reducible apply dropSending_touches); (case hm => rfl))
    | ((with_reducible apply loadedFlush_touches); (case hm => rfl))
    | ((with_reducible apply portDestsLost_touches); (case hm => rfl))

theorem portReachedNow_touches {M : Nat} {r : State} (a0 : Nat) (s : State) (hs : Touches M r s) (hm : 0xab65de ||| M = M) :
    Touches M r (portReachedNow a0 s) := by
  refine Touches.step hs ?_ hm
  clear hs hm r M
  unfold portReachedNow
  repeat' first
    | with_reducible assumption
    | with_reducible apply Touches.refl
    | (extract_lets -underBinder +onlyGivenNames x; (have hty : TypeOf x = State := by with_reducible rfl); clear hty; apply Touches.cut 0xab65de s x; (case' kk => (clear_value x; intro _)); (case' vv => (unfold x; clear x)))
    | (extract_lets -underBinder +onlyGivenNames x; try clear_value x)
    | with_reducible apply Touches.ite
    | ((with_reducible apply portReached_touches); (case hm => rfl))
    | split

theorem portTo_touches {M : Nat} {r : State} (a0 : Nat) (s : State) (a2 : Nat) (hs : Touches M r s) (hm : 0x2b21d6 ||| M = M) :
    Touches M r (portTo a0 s a2) := by
  refine Touches.step hs ?_ hm
  clear hs hm r M
  unfold portTo
  repeat' first
    | with_reducible assumption
    | with_reducible apply Touches.refl
    | ((with_reducible apply State.emit_touches); (case hm => rfl))
    | (extract_lets -underBinder +onlyGivenNames x; (have hty : TypeOf x = State := by with_reducible rfl); clear hty; apply Touches.cut 0x2b21d6 s x; (case' kk => (clear_value x; intro _)); (case' vv => (unfold x; clear x)))
    | (extract_lets -underBinder +onlyGivenNames x; try clear_value x)
    | with_reducible apply Touches.ite
    | ((with_reducible apply State.setFld_touches); (case hm => rfl))
    | ((with_reducible apply State.modWake_touches); (case hm => rfl))
    | ((with_reducible apply portLeave_touches); (case hm => rfl))

theorem portsByCluster_touches {M : Nat} {r : State} (s : State) (hs : Touches M r s) (hm : 0x2b21d6 ||| M = M) :
    Touches M r (portsByCluster s) := by
  refine Touches.step hs ?_ hm
  clear hs hm r M
  unfold portsByCluster
  repeat' first
    | with_reducible assumption
    | (intro _; try dsimp -zeta only)
    | with_reducible apply Touches.refl
    | ((with_reducible apply portTo_touches); (case hm => rfl))
    | with_reducible apply Touches.foldlD

theorem portsToNormal_touches {M : Nat} {r : State} (s : State) (hs : Touches M r s) (hm : 0x2b21d6 ||| M = M) :
    Touches M r (portsToNormal s) := by
  refine Touches.step hs ?_ hm
  clear hs hm r M
  unfold portsToNormal
  repeat' first
    | with_reducible assumption
    | (intro _; try dsimp -zeta only)
    | with_reducible apply Touches.refl
    | ((with_reducible apply portTo_touches); (case hm => rfl))
    | with_reducible apply Touches.foldlD

theorem portsToSleep_touches {M : Nat} {r : State} (s : State) (hs : Touches M r s) (hm : 0x2b21d6 ||| M = M) :
    Touches M r (portsToSleep s) := by
  refine Touches.step hs ?_ hm
  clear hs hm r M
  unfold portsToSleep
  repeat' first
    | with_reducible assumption
    | (intro _; try dsimp -zeta only)
    | with_reducible apply Touches.refl
    | ((with_reducible apply portTo_touches); (case hm => rfl))
    | with_reducible apply Touches.foldlD

theorem sendWakeOn_touches {M : Nat} {r : State} (s : State) (a1 : Nat) (hs : Touches M r s) (hm : 0x290014 ||| M = M) :
    Touches M r (sendWakeOn s a1) := by
  refine Touches.step hs ?_ hm
  clear hs hm r M
  unfold sendWakeOn
  repeat' first
    | with_reducible assumption
    | with_reducible apply Touches.refl
    | with_reducible apply Touches.ite
    | ((with_reducible apply State.emit_touches); (case hm => rfl))
    | ((with_reducible apply imTrigger_touches); (case hm => rfl))
    | ((with_reducible apply State.modWake_touches); (case hm => rfl))

end Sys2Proof.Machine
end

