-- ==== Sys2Proof/Laws/Power.lean ====
section
/-! SUPPORT. What each function of Machine/Power.lean touches: one lemma per function that answers a state. -/

set_option linter.tactic.unusedName false

namespace Sys2Proof.Machine

theorem State.modPwr_touches {M : Nat} {r : State} (s : State) (a1 : PwrSt → PwrSt) (hs : Touches M r s) (hm : 0x8000000 ||| M = M) :
    Touches M r (State.modPwr s a1) := by
  refine Touches.step hs ?_ hm
  clear hs hm r M
  unfold State.modPwr
  repeat' first
    | with_reducible assumption
    | with_reducible apply Touches.refl
    | ((with_reducible apply Touches.pwr); (case hm => rfl))

theorem rejoinFab_touches {M : Nat} {r : State} (s : State) (hs : Touches M r s) (hm : 0x8005d6 ||| M = M) :
    Touches M r (rejoinFab s) := by
  refine Touches.step hs ?_ hm
  clear hs hm r M
  unfold rejoinFab
  repeat' first
    | with_reducible assumption
    | with_reducible apply Touches.refl
    | (extract_lets -underBinder +onlyGivenNames x; (have hty : TypeOf x = State := by with_reducible rfl); clear hty; apply Touches.cut 0x8005d6 s x; (case' kk => (clear_value x; intro _)); (case' vv => (unfold x; clear x)))
    | (extract_lets -underBinder +onlyGivenNames x; try clear_value x)
    | with_reducible apply Touches.ite
    | ((with_reducible apply State.setFld_touches); (case hm => rfl))
    | ((with_reducible apply State.modFab_touches); (case hm => rfl))
    | ((with_reducible apply announceLinks_touches); (case hm => rfl))

theorem abortEntry_touches {M : Nat} {r : State} (a0 : Entering) (a1 : Nat) (s : State) (hs : Touches M r s) (hm : 0x8ab25d6 ||| M = M) :
    Touches M r (abortEntry a0 a1 s) := by
  refine Touches.step hs ?_ hm
  clear hs hm r M
  unfold abortEntry
  repeat' first
    | with_reducible assumption
    | with_reducible apply Touches.refl
    | (extract_lets -underBinder +onlyGivenNames x; (have hty : TypeOf x = State := by with_reducible rfl); clear hty; apply Touches.cut 0x8ab25d6 s x; (case' kk => (clear_value x; intro _)); (case' vv => (unfold x; clear x)))
    | (extract_lets -underBinder +onlyGivenNames x; try clear_value x)
    | with_reducible apply Touches.ite
    | ((with_reducible apply State.bump_touches); (case hm => rfl))
    | ((with_reducible apply State.modPwr_touches); (case hm => rfl))
    | ((with_reducible apply rejoinFab_touches); (case hm => rfl))
    | ((with_reducible apply portsByCluster_touches); (case hm => rfl))
    | ((with_reducible apply slicesGo_touches); (case hm => rfl))
    | ((with_reducible apply raise_touches); (case hm => rfl))

theorem withdrawFab_touches {M : Nat} {r : State} (a0 : Nat) (s : State) (hs : Touches M r s) (hm : 0x8005d6 ||| M = M) :
    Touches M r (withdrawFab a0 s) := by
  refine Touches.step hs ?_ hm
  clear hs hm r M
  unfold withdrawFab
  repeat' first
    | with_reducible assumption
    | (intro _; try dsimp -zeta only)
    | (extract_lets -underBinder +onlyGivenNames x; (have hty : TypeOf x = State := by with_reducible rfl); clear hty; apply Touches.cut 0x8005d6 s x; (case' kk => (clear_value x; intro _)); (case' vv => (unfold x; clear x)))
    | (extract_lets -underBinder +onlyGivenNames x; try clear_value x)
    | with_reducible apply Touches.refl
    | with_reducible apply Touches.ite
    | ((with_reducible apply State.setFld_touches); (case hm => rfl))
    | ((with_reducible apply State.modFab_touches); (case hm => rfl))
    | ((with_reducible apply announceLinks_touches); (case hm => rfl))
    | ((with_reducible apply sendOn_touches); (case hm => rfl))
    | with_reducible apply Touches.foldlD

theorem dropQueued_touches {M : Nat} {r : State} (s : State) (hs : Touches M r s) (hm : 0x321d6 ||| M = M) :
    Touches M r (dropQueued s) := by
  refine Touches.step hs ?_ hm
  clear hs hm r M
  unfold dropQueued
  repeat' first
    | with_reducible assumption
    | (intro _; try dsimp -zeta only)
    | with_reducible apply Touches.refl
    | ((with_reducible apply flushPort_touches); (case hm => rfl))
    | with_reducible apply Touches.foldlD

theorem beginEntry_touches {M : Nat} {r : State} (a0 : Nat) (a1 : Nat) (s : State) (hs : Touches M r s) (hm : 0x8ab25d6 ||| M = M) :
    Touches M r (beginEntry a0 a1 s) := by
  refine Touches.step hs ?_ hm
  clear hs hm r M
  unfold beginEntry
  repeat' first
    | with_reducible assumption
    | with_reducible apply Touches.refl
    | (extract_lets -underBinder +onlyGivenNames x; (have hty : TypeOf x = State := by with_reducible rfl); clear hty; apply Touches.cut 0x8ab25d6 s x; (case' kk => (clear_value x; intro _)); (case' vv => (unfold x; clear x)))
    | (extract_lets -underBinder +onlyGivenNames x; try clear_value x)
    | with_reducible apply Touches.ite
    | ((with_reducible apply State.modPwr_touches); (case hm => rfl))
    | ((with_reducible apply withdrawFab_touches); (case hm => rfl))
    | ((with_reducible apply portsToSleep_touches); (case hm => rfl))
    | ((with_reducible apply dropQueued_touches); (case hm => rfl))
    | ((with_reducible apply Touches.mem); (case hm => rfl))

theorem showIslands_touches {M : Nat} {r : State} (a0 : Nat) (s : State) (hs : Touches M r s) (hm : 0x202 ||| M = M) :
    Touches M r (showIslands a0 s) := by
  refine Touches.step hs ?_ hm
  clear hs hm r M
  unfold showIslands
  repeat' first
    | with_reducible assumption
    | (intro _; try dsimp -zeta only)
    | (extract_lets -underBinder +onlyGivenNames x; (have hty : TypeOf x = State := by with_reducible rfl); clear hty; apply Touches.cut 0x202 s x; (case' kk => (clear_value x; intro _)); (case' vv => (unfold x; clear x)))
    | (extract_lets -underBinder +onlyGivenNames x)
    | with_reducible apply Touches.refl
    | ((with_reducible apply State.setFld_touches); (case hm => rfl))
    | with_reducible apply Touches.foldlD
    | ((with_reducible apply Touches.time); (case hm => rfl); (case hl => rfl))

theorem commitEntry_touches {M : Nat} {r : State} (a0 : Entering) (s : State) (hs : Touches M r s) (hm : 0xccff77fe ||| M = M) :
    Touches M r (commitEntry a0 s) := by
  refine Touches.step hs ?_ hm
  clear hs hm r M
  unfold commitEntry
  repeat' first
    | with_reducible assumption
    | with_reducible apply Touches.refl
    | (extract_lets -underBinder +onlyGivenNames x; (have hty : TypeOf x = State := by with_reducible rfl); clear hty; apply Touches.cut 0xccff77fe s x; (case' kk => (clear_value x; intro _)); (case' vv => (unfold x; clear x)))
    | (extract_lets -underBinder +onlyGivenNames x; try clear_value x)
    | with_reducible apply Touches.ite
    | ((with_reducible apply State.bump_touches); (case hm => rfl))
    | ((with_reducible apply State.setFld_touches); (case hm => rfl))
    | ((with_reducible apply deepLose_touches); (case hm => rfl))
    | ((with_reducible apply State.modPwr_touches); (case hm => rfl))
    | ((with_reducible apply showIslands_touches); (case hm => rfl))

theorem exitShow_touches {M : Nat} {r : State} (a0 : Leaving) (a1 : Nat) (s : State) (hs : Touches M r s) (hm : 0x8000002 ||| M = M) :
    Touches M r (exitShow a0 a1 s) := by
  refine Touches.step hs ?_ hm
  clear hs hm r M
  unfold exitShow
  repeat' first
    | with_reducible assumption
    | with_reducible apply Touches.refl
    | (extract_lets -underBinder +onlyGivenNames x; (have hty : TypeOf x = State := by with_reducible rfl); clear hty; apply Touches.cut 0x8000002 s x; (case' kk => (clear_value x; intro _)); (case' vv => (unfold x; clear x)))
    | (extract_lets -underBinder +onlyGivenNames x; try clear_value x)
    | ((with_reducible apply State.setFld_touches); (case hm => rfl))
    | ((with_reducible apply State.modPwr_touches); (case hm => rfl))

theorem timeResume_touches {M : Nat} {r : State} (a0 : Nat) (s : State) (hs : Touches M r s) (hm : 0x208 ||| M = M) : Touches M r (timeResume a0 s) :=
  Touches.step hs (F := 0x208) ⟨by constructor <;> intro h <;> first | with_reducible rfl | exact absurd h (by decide) | rfl,
   ⟨rfl, List.suffix_refl _, Nat.le_add_right _ _, id, id, fun _ => Nat.mul_mod_left _ _⟩⟩ hm

theorem finishExit_touches {M : Nat} {r : State} (a0 : Leaving) (s : State) (hs : Touches M r s) (hm : 0x180003ce ||| M = M) :
    Touches M r (finishExit a0 s) := by
  refine Touches.step hs ?_ hm
  clear hs hm r M
  unfold finishExit
  repeat' first
    | with_reducible assumption
    | with_reducible apply Touches.refl
    | (extract_lets -underBinder +onlyGivenNames x; (have hty : TypeOf x = State := by with_reducible rfl); clear hty; apply Touches.cut 0x180003ce s x; (case' kk => (clear_value x; intro _)); (case' vv => (unfold x; clear x)))
    | (extract_lets -underBinder +onlyGivenNames x; try clear_value x)
    | with_reducible apply Touches.ite
    | ((with_reducible apply State.bumpBy_touches); (case hm => rfl))
    | ((with_reducible apply showIslands_touches); (case hm => rfl))
    | ((with_reducible apply State.modPwr_touches); (case hm => rfl))
    | ((with_reducible apply exitShow_touches); (case hm => rfl))
    | ((with_reducible apply timeResume_touches); (case hm => rfl))
    | ((with_reducible apply supShow_touches); (case hm => rfl))
    | ((with_reducible apply State.modSup_touches); (case hm => rfl))
    | ((with_reducible apply raiseExit_touches); (case hm => rfl))

theorem grantRamps_touches {M : Nat} {r : State} (s : State) (hs : Touches M r s) (hm : 0x8000000 ||| M = M) :
    Touches M r (grantRamps s) := by
  refine Touches.step hs ?_ hm
  clear hs hm r M
  unfold grantRamps
  repeat' first
    | with_reducible assumption
    | with_reducible apply Touches.refl
    | (extract_lets -underBinder +onlyGivenNames x; (have hty : TypeOf x = State := by with_reducible rfl); clear hty; apply Touches.cut 0x8000000 s x; (case' kk => (clear_value x; intro _)); (case' vv => (unfold x; clear x)))
    | (extract_lets -underBinder +onlyGivenNames x; try clear_value x)
    | with_reducible apply Touches.ite
    | ((with_reducible apply State.modPwr_touches); (case hm => rfl))

theorem measureDelta_touches {M : Nat} {r : State} (a0 : Nat) (s : State) (hs : Touches M r s) (hm : 0xa ||| M = M) :
    Touches M r (measureDelta a0 s) := by
  refine Touches.step hs ?_ hm
  clear hs hm r M
  unfold measureDelta
  repeat' first
    | with_reducible assumption
    | with_reducible apply Touches.refl
    | with_reducible apply Touches.ite
    | ((with_reducible apply State.drew_touches); (case hm => rfl))
    | ((with_reducible apply State.setFld_touches); (case hm => rfl))

theorem pwrRefused_touches {M : Nat} {r : State} (a0 : Nat) (s : State) (hs : Touches M r s) (hm : 0x6 ||| M = M) :
    Touches M r (pwrRefused a0 s) := by
  refine Touches.step hs ?_ hm
  clear hs hm r M
  unfold pwrRefused
  repeat' first
    | with_reducible assumption
    | with_reducible apply Touches.refl
    | ((with_reducible apply State.bump_touches); (case hm => rfl))
    | ((with_reducible apply State.setFld_touches); (case hm => rfl))

theorem pwrRequest_touches {M : Nat} {r : State} (a0 : Nat) (a1 : Nat) (s : State) (hs : Touches M r s) (hm : 0x8ab25de ||| M = M) :
    Touches M r ((pwrRequest a0 a1 s).2) := by
  refine Touches.step hs ?_ hm
  clear hs hm r M
  unfold pwrRequest
  repeat' first
    | with_reducible assumption
    | with_reducible apply Touches.refl
    | (extract_lets -underBinder +onlyGivenNames x; (have hty : TypeOf x = State := by with_reducible rfl); clear hty; apply Touches.cut 0x8ab25de s x; (case' kk => (clear_value x; intro _)); (case' vv => (unfold x; clear x)))
    | (extract_lets -underBinder +onlyGivenNames x; try clear_value x)
    | with_reducible apply Touches.ite
    | ((with_reducible apply measureDelta_touches); (case hm => rfl))
    | ((with_reducible apply beginEntry_touches); (case hm => rfl))
    | ((with_reducible apply pwrRefused_touches); (case hm => rfl))
    | split
    | (dsimp -zeta only)

theorem rampDone_touches {M : Nat} {r : State} (s : State) (hs : Touches M r s) (hm : 0x8000002 ||| M = M) :
    Touches M r (rampDone s) := by
  refine Touches.step hs ?_ hm
  clear hs hm r M
  unfold rampDone
  repeat' first
    | with_reducible assumption
    | with_reducible apply Touches.refl
    | (extract_lets -underBinder +onlyGivenNames x; (have hty : TypeOf x = State := by with_reducible rfl); clear hty; apply Touches.cut 0x8000002 s x; (case' kk => (clear_value x; intro _)); (case' vv => (unfold x; clear x)))
    | (extract_lets -underBinder +onlyGivenNames x; try clear_value x)
    | with_reducible apply Touches.ite
    | ((with_reducible apply State.setFld_touches); (case hm => rfl))
    | ((with_reducible apply grantRamps_touches); (case hm => rfl))
    | ((with_reducible apply State.modPwr_touches); (case hm => rfl))
    | split

theorem startExit_touches {M : Nat} {r : State} (a0 : Nat) (s : State) (hs : Touches M r s) (hm : 0x8000000 ||| M = M) :
    Touches M r (startExit a0 s) := by
  refine Touches.step hs ?_ hm
  clear hs hm r M
  unfold startExit
  repeat' first
    | with_reducible assumption
    | with_reducible apply Touches.refl
    | (extract_lets -underBinder +onlyGivenNames x; (have hty : TypeOf x = State := by with_reducible rfl); clear hty; apply Touches.cut 0x8000000 s x; (case' kk => (clear_value x; intro _)); (case' vv => (unfold x; clear x)))
    | (extract_lets -underBinder +onlyGivenNames x; try clear_value x)
    | with_reducible apply Touches.ite
    | ((with_reducible apply grantRamps_touches); (case hm => rfl))
    | ((with_reducible apply State.modPwr_touches); (case hm => rfl))

theorem trigger_touches {M : Nat} {r : State} (a0 : Nat) (s : State) (hs : Touches M r s) (hm : 0x8ab25d6 ||| M = M) :
    Touches M r (trigger a0 s) := by
  refine Touches.step hs ?_ hm
  clear hs hm r M
  unfold trigger
  repeat' first
    | with_reducible assumption
    | with_reducible apply Touches.refl
    | with_reducible apply Touches.ite
    | ((with_reducible apply abortEntry_touches); (case hm => rfl))
    | ((with_reducible apply State.modPwr_touches); (case hm => rfl))
    | ((with_reducible apply startExit_touches); (case hm => rfl))
    | split

end Sys2Proof.Machine
end

