-- ==== Sys2Proof/Laws/Rings.lean ====
section
/-! SUPPORT. What each function of Machine/Rings.lean touches: one lemma per function that answers a state. -/

set_option linter.tactic.unusedName false

namespace Sys2Proof.Machine

theorem faultyDone_touches {M : Nat} {r : State} (a0 : Sys2Proof.HostId) (a1 : Nat) (s : State) (hs : Touches M r s) (hm : 0xd0 ||| M = M) :
    Touches M r (faultyDone a0 a1 s) := by
  refine Touches.step hs ?_ hm
  clear hs hm r M
  suffices hq : ∀ r, Touches 0xd0 r s → Touches 0xd0 r (faultyDone a0 a1 s) from hq _ (Touches.refl _ _)
  induction a1 generalizing a0 s with
  | zero =>
    intro r hs
    unfold faultyDone
    repeat' first
      | with_reducible assumption
      | (intro _; try dsimp -zeta only)
      | (extract_lets -underBinder +onlyGivenNames x; (have hty : TypeOf x = State := by with_reducible rfl); clear hty; apply Touches.cut 0xd0 r x; (case' kk => (clear_value x; intro _)); (case' vv => (unfold x; clear x)))
      | (extract_lets -underBinder +onlyGivenNames x; try clear_value x)
      | with_reducible apply Touches.refl
      | with_reducible apply Touches.ite
      | with_reducible apply ih
      | ((with_reducible apply complete_touches); (case hm => rfl))
      | with_reducible apply Touches.foldlD
      | split
  | succ k ih =>
    intro r hs
    unfold faultyDone
    repeat' first
      | with_reducible assumption
      | (intro _; try dsimp -zeta only)
      | (extract_lets -underBinder +onlyGivenNames x; (have hty : TypeOf x = State := by with_reducible rfl); clear hty; apply Touches.cut 0xd0 r x; (case' kk => (clear_value x; intro _)); (case' vv => (unfold x; clear x)))
      | (extract_lets -underBinder +onlyGivenNames x; try clear_value x)
      | with_reducible apply Touches.refl
      | with_reducible apply Touches.ite
      | with_reducible apply ih
      | ((with_reducible apply complete_touches); (case hm => rfl))
      | with_reducible apply Touches.foldlD
      | split

theorem faultyAll_touches {M : Nat} {r : State} (a0 : Sys2Proof.HostId) (s : State) (hs : Touches M r s) (hm : 0xd0 ||| M = M) :
    Touches M r (faultyAll a0 s) := by
  refine Touches.step hs ?_ hm
  clear hs hm r M
  unfold faultyAll
  repeat' first
    | with_reducible assumption
    | with_reducible apply Touches.refl
    | ((with_reducible apply faultyDone_touches); (case hm => rfl))

theorem State.modRing_touches {M : Nat} {r : State} (s : State) (a1 : Sys2Proof.HostId) (a2 : Nat) (a3 : Nat) (a4 : RingSt → RingSt) (hs : Touches M r s) (hm : 0xc0 ||| M = M) :
    Touches M r (State.modRing s a1 a2 a3 a4) := by
  refine Touches.step hs ?_ hm
  clear hs hm r M
  unfold State.modRing
  repeat' first
    | with_reducible assumption
    | with_reducible apply Touches.refl
    | ((with_reducible apply State.modHost_touches); (case hm => rfl))

theorem ringError_touches {M : Nat} {r : State} (a0 : Sys2Proof.HostId) (a1 : Nat) (a2 : Nat) (a3 : Nat) (s : State) (hs : Touches M r s) (hm : 0x1c6 ||| M = M) :
    Touches M r (ringError a0 a1 a2 a3 s) := by
  refine Touches.step hs ?_ hm
  clear hs hm r M
  unfold ringError
  repeat' first
    | with_reducible assumption
    | with_reducible apply Touches.refl
    | (extract_lets -underBinder +onlyGivenNames x; (have hty : TypeOf x = State := by with_reducible rfl); clear hty; apply Touches.cut 0x1c6 s x; (case' kk => (clear_value x; intro _)); (case' vv => (unfold x; clear x)))
    | (extract_lets -underBinder +onlyGivenNames x; try clear_value x)
    | ((with_reducible apply State.modRing_touches); (case hm => rfl))
    | ((with_reducible apply raise_touches); (case hm => rfl))

theorem takeIndex_touches {M : Nat} {r : State} (a0 : Sys2Proof.HostId) (a1 : Nat) (a2 : Nat) (a3 : Bool) (s : State) (a5 : Nat × Nat) (hs : Touches M r s) (hm : 0x1c6 ||| M = M) :
    Touches M r (takeIndex a0 a1 a2 a3 s a5) := by
  refine Touches.step hs ?_ hm
  clear hs hm r M
  unfold takeIndex
  repeat' first
    | with_reducible assumption
    | with_reducible apply Touches.refl
    | (extract_lets -underBinder +onlyGivenNames x; (have hty : TypeOf x = State := by with_reducible rfl); clear hty; apply Touches.cut 0x1c6 s x; (case' kk => (clear_value x; intro _)); (case' vv => (unfold x; clear x)))
    | (extract_lets -underBinder +onlyGivenNames x; try clear_value x)
    | with_reducible apply Touches.ite
    | ((with_reducible apply State.modRing_touches); (case hm => rfl))
    | ((with_reducible apply ringError_touches); (case hm => rfl))
    | split

theorem acceptSlot_touches {M : Nat} {r : State} (a0 : Sys2Proof.HostId) (a1 : Nat) (a2 : Nat) (a3 : Sys2Proof.Bytes) (s : State) (hs : Touches M r s) (hm : 0x1c6 ||| M = M) :
    Touches M r (acceptSlot a0 a1 a2 a3 s) := by
  refine Touches.step hs ?_ hm
  clear hs hm r M
  unfold acceptSlot
  repeat' first
    | with_reducible assumption
    | (intro _; try dsimp -zeta only)
    | (extract_lets -underBinder +onlyGivenNames x; (have hty : TypeOf x = State := by with_reducible rfl); clear hty; apply Touches.cut 0x1c6 s x; (case' kk => (clear_value x; intro _)); (case' vv => (unfold x; clear x)))
    | (extract_lets -underBinder +onlyGivenNames x; try clear_value x)
    | with_reducible apply Touches.refl
    | ((with_reducible apply State.modHost_touches); (case hm => rfl))
    | ((with_reducible apply takeIndex_touches); (case hm => rfl))
    | with_reducible apply Touches.foldlD

theorem vecFire_touches {M : Nat} {r : State} (a0 : Sys2Proof.HostId) (a1 : Nat) (s : State) (hs : Touches M r s) (hm : 0xd2 ||| M = M) :
    Touches M r (vecFire a0 a1 s) := by
  refine Touches.step hs ?_ hm
  clear hs hm r M
  unfold vecFire
  repeat' first
    | with_reducible assumption
    | with_reducible apply Touches.refl
    | (extract_lets -underBinder +onlyGivenNames x; (have hty : TypeOf x = State := by with_reducible rfl); clear hty; apply Touches.cut 0xd2 s x; (case' kk => (clear_value x; intro _)); (case' vv => (unfold x; clear x)))
    | (extract_lets -underBinder +onlyGivenNames x; try clear_value x)
    | with_reducible apply Touches.ite
    | ((with_reducible apply State.modHost_touches); (case hm => rfl))
    | ((with_reducible apply State.setReg_touches); (case hm => rfl))
    | ((with_reducible apply State.emit_touches); (case hm => rfl))

theorem countVec_touches {M : Nat} {r : State} (a0 : Sys2Proof.HostId) (a1 : Nat) (a2 : Nat) (s : State) (hs : Touches M r s) (hm : 0xd2 ||| M = M) :
    Touches M r (countVec a0 a1 a2 s) := by
  refine Touches.step hs ?_ hm
  clear hs hm r M
  unfold countVec
  repeat' first
    | with_reducible assumption
    | with_reducible apply Touches.refl
    | (extract_lets -underBinder +onlyGivenNames x; (have hty : TypeOf x = State := by with_reducible rfl); clear hty; apply Touches.cut 0xd2 s x; (case' kk => (clear_value x; intro _)); (case' vv => (unfold x; clear x)))
    | (extract_lets -underBinder +onlyGivenNames x; try clear_value x)
    | with_reducible apply Touches.ite
    | ((with_reducible apply State.modHost_touches); (case hm => rfl))
    | ((with_reducible apply vecFire_touches); (case hm => rfl))

theorem readSlots_touches {M : Nat} {r : State} (a0 : Sys2Proof.HostId) (a1 : Bool) (a2 : List Nat) (s : State) (hs : Touches M r s) (hm : 0xd0 ||| M = M) :
    Touches M r (readSlots a0 a1 a2 s) := by
  refine Touches.step hs ?_ hm
  clear hs hm r M
  unfold readSlots
  repeat' first
    | with_reducible assumption
    | (intro _; try dsimp -zeta only)
    | (extract_lets -underBinder +onlyGivenNames x; (have hty : TypeOf x = State := by with_reducible rfl); clear hty; apply Touches.cut 0xd0 s x; (case' kk => (clear_value x; intro _)); (case' vv => (unfold x; clear x)))
    | (extract_lets -underBinder +onlyGivenNames x; try clear_value x)
    | with_reducible apply Touches.refl
    | ((with_reducible apply State.modHost_touches); (case hm => rfl))
    | ((with_reducible apply State.emit_touches); (case hm => rfl))
    | with_reducible apply Touches.foldlD

theorem doorbellFetch_touches {M : Nat} {r : State} (a0 : Sys2Proof.HostId) (s : State) (hs : Touches M r s) (hm : 0xd0 ||| M = M) :
    Touches M r (doorbellFetch a0 s) := by
  refine Touches.step hs ?_ hm
  clear hs hm r M
  unfold doorbellFetch
  repeat' first
    | with_reducible assumption
    | with_reducible apply Touches.refl
    | with_reducible apply Touches.ite
    | ((with_reducible apply State.modHost_touches); (case hm => rfl))
    | ((with_reducible apply readSlots_touches); (case hm => rfl))

theorem putEntry_touches {M : Nat} {r : State} (a0 : Sys2Proof.HostId) (a1 : Nat) (a2 : Nat) (a3 : Sys2Proof.Bytes) (s : State) (hs : Touches M r s) (hm : 0xd2 ||| M = M) :
    Touches M r (putEntry a0 a1 a2 a3 s) := by
  refine Touches.step hs ?_ hm
  clear hs hm r M
  unfold putEntry
  repeat' first
    | with_reducible assumption
    | with_reducible apply Touches.refl
    | (extract_lets -underBinder +onlyGivenNames x; (have hty : TypeOf x = State := by with_reducible rfl); clear hty; apply Touches.cut 0xd2 s x; (case' kk => (clear_value x; intro _)); (case' vv => (unfold x; clear x)))
    | (extract_lets -underBinder +onlyGivenNames x; try clear_value x)
    | ((with_reducible apply State.emit_touches); (case hm => rfl))
    | ((with_reducible apply countVec_touches); (case hm => rfl))
    | ((with_reducible apply State.modRing_touches); (case hm => rfl))

theorem writeEntry_touches {M : Nat} {r : State} (a0 : Sys2Proof.HostId) (a1 : Bool) (a2 : Entry) (s : State) (hs : Touches M r s) (hm : 0xd2 ||| M = M) :
    Touches M r (writeEntry a0 a1 a2 s) := by
  refine Touches.step hs ?_ hm
  clear hs hm r M
  unfold writeEntry
  repeat' first
    | with_reducible assumption
    | with_reducible apply Touches.refl
    | (extract_lets -underBinder +onlyGivenNames x; (have hty : TypeOf x = State := by with_reducible rfl); clear hty; apply Touches.cut 0xd2 s x; (case' kk => (clear_value x; intro _)); (case' vv => (unfold x; clear x)))
    | (extract_lets -underBinder +onlyGivenNames x; try clear_value x)
    | with_reducible apply Touches.ite
    | ((with_reducible apply State.emit_touches); (case hm => rfl))
    | ((with_reducible apply putEntry_touches); (case hm => rfl))
    | ((with_reducible apply doorbellFetch_touches); (case hm => rfl))
    | ((with_reducible apply State.modHost_touches); (case hm => rfl))

theorem overflowEntry_touches {M : Nat} {r : State} (a0 : Sys2Proof.HostId) (a1 : Nat) (s : State) (hs : Touches M r s) (hm : 0x1d6 ||| M = M) :
    Touches M r (overflowEntry a0 a1 s) := by
  refine Touches.step hs ?_ hm
  clear hs hm r M
  unfold overflowEntry
  repeat' first
    | with_reducible assumption
    | with_reducible apply Touches.refl
    | (extract_lets -underBinder +onlyGivenNames x; (have hty : TypeOf x = State := by with_reducible rfl); clear hty; apply Touches.cut 0x1d6 s x; (case' kk => (clear_value x; intro _)); (case' vv => (unfold x; clear x)))
    | (extract_lets -underBinder +onlyGivenNames x; try clear_value x)
    | ((with_reducible apply recordEvent_touches); (case hm => rfl))
    | ((with_reducible apply writeEntry_touches); (case hm => rfl))
    | ((with_reducible apply State.modHost_touches); (case hm => rfl))

theorem eventWrite_touches {M : Nat} {r : State} (a0 : Sys2Proof.HostId) (a1 : Bool) (s : State) (hs : Touches M r s) (hm : 0x1d6 ||| M = M) :
    Touches M r (eventWrite a0 a1 s) := by
  refine Touches.step hs ?_ hm
  clear hs hm r M
  unfold eventWrite
  repeat' first
    | with_reducible assumption
    | with_reducible apply Touches.refl
    | (extract_lets -underBinder +onlyGivenNames x; (have hty : TypeOf x = State := by with_reducible rfl); clear hty; apply Touches.cut 0x1d6 s x; (case' kk => (clear_value x; intro _)); (case' vv => (unfold x; clear x)))
    | (extract_lets -underBinder +onlyGivenNames x; try clear_value x)
    | with_reducible apply Touches.ite
    | ((with_reducible apply overflowEntry_touches); (case hm => rfl))
    | ((with_reducible apply writeEntry_touches); (case hm => rfl))
    | ((with_reducible apply State.modHost_touches); (case hm => rfl))
    | split

theorem execBusMasterDisable_touches {M : Nat} {r : State} (a0 : Sys2Proof.HostId) (s : State) (hs : Touches M r s) (hm : 0xc0 ||| M = M) :
    TouchesR M r (execBusMasterDisable a0 s) := by
  refine TouchesR.step hs ?_ hm
  clear hs hm r M
  unfold execBusMasterDisable
  repeat' first
    | with_reducible assumption
    | with_reducible apply Touches.refl
    | (extract_lets -underBinder +onlyGivenNames x; (have hty : TypeOf x = State := by with_reducible rfl); clear hty; apply Touches.cut 0xc0 s x; (case' kk => (clear_value x; intro _)); (case' vv => (unfold x; clear x)))
    | (extract_lets -underBinder +onlyGivenNames x; try clear_value x)
    | with_reducible apply TouchesR.next
    | with_reducible apply TouchesR.fault
    | with_reducible apply TouchesR.ite
    | with_reducible apply Touches.ite
    | ((with_reducible apply State.modHost_touches); (case hm => rfl))

theorem reserveEvq_touches {M : Nat} {r : State} (a0 : Sys2Proof.HostId) (a1 : Nat) (s : State) (hs : Touches M r s) (hm : 0xc0 ||| M = M) :
    Touches M r (reserveEvq a0 a1 s) := by
  refine Touches.step hs ?_ hm
  clear hs hm r M
  unfold reserveEvq
  repeat' first
    | with_reducible assumption
    | with_reducible apply Touches.refl
    | ((with_reducible apply State.modHost_touches); (case hm => rfl))

theorem fetchOne_touches {M : Nat} {r : State} (a0 : Sys2Proof.HostId) (a1 : Nat) (a2 : Nat) (s : State) (hs : Touches M r s) (hm : 0x80000c0 ||| M = M) :
    Touches M r (fetchOne a0 a1 a2 s) := by
  refine Touches.step hs ?_ hm
  clear hs hm r M
  unfold fetchOne
  repeat' first
    | with_reducible assumption
    | with_reducible apply Touches.refl
    | (extract_lets -underBinder +onlyGivenNames x; (have hty : TypeOf x = State := by with_reducible rfl); clear hty; apply Touches.cut 0x80000c0 s x; (case' kk => (clear_value x; intro _)); (case' vv => (unfold x; clear x)))
    | (extract_lets -underBinder +onlyGivenNames x; try clear_value x)
    | ((with_reducible apply State.modRing_touches); (case hm => rfl))
    | ((with_reducible apply Touches.pwr); (case hm => rfl))

theorem execCmdqFetch_touches {M : Nat} {r : State} (a0 : Sys2Proof.HostId) (a1 : Nat) (a2 : Sys2Proof.Bytes) (a3 : Option Sys2Proof.Bytes) (s : State) (hs : Touches M r s) (hm : 0x80000f0 ||| M = M) :
    TouchesR M r (execCmdqFetch a0 a1 a2 a3 s) := by
  refine TouchesR.step hs ?_ hm
  clear hs hm r M
  unfold execCmdqFetch
  repeat' first
    | with_reducible assumption
    | with_reducible apply Touches.refl
    | ((with_reducible apply hostFetch_touches); (case hm => rfl))
    | ((with_reducible apply State.emit_touches); (case hm => rfl))
    | ((with_reducible apply faultyAll_touches); (case hm => rfl))
    | (extract_lets -underBinder +onlyGivenNames x; (have hty : TypeOf x = State := by with_reducible rfl); clear hty; apply Touches.cut 0x80000f0 s x; (case' kk => (clear_value x; intro _)); (case' vv => (unfold x; clear x)))
    | (extract_lets -underBinder +onlyGivenNames x; try clear_value x)
    | with_reducible apply TouchesR.next
    | with_reducible apply TouchesR.fault
    | with_reducible apply TouchesR.ite
    | with_reducible apply Touches.ite
    | ((with_reducible apply reserveEvq_touches); (case hm => rfl))
    | ((with_reducible apply fetchOne_touches); (case hm => rfl))
    | ((with_reducible apply State.modHost_touches); (case hm => rfl))
    | ((with_reducible apply complete_touches); (case hm => rfl))
    | ((with_reducible apply Touches.bus); (case hm => rfl))

theorem execDmaError_touches {M : Nat} {r : State} (a0 : Sys2Proof.HostId) (a1 : Option Nat) (a2 : Nat) (a3 : Nat) (s : State) (hs : Touches M r s) (hm : 0x1c6 ||| M = M) :
    TouchesR M r (execDmaError a0 a1 a2 a3 s) := by
  refine TouchesR.step hs ?_ hm
  clear hs hm r M
  unfold execDmaError
  dsimp only
  repeat' first
    | with_reducible assumption
    | (intro _; try dsimp -zeta only)
    | (extract_lets -underBinder +onlyGivenNames x; (have hty : TypeOf x = State := by with_reducible rfl); clear hty; apply Touches.cut 0x1c6 s x; (case' kk => (clear_value x; intro _)); (case' vv => (unfold x; clear x)))
    | (extract_lets -underBinder +onlyGivenNames x; try clear_value x)
    | with_reducible apply Touches.refl
    | ((with_reducible apply State.modHost_touches); (case hm => rfl))
    | with_reducible apply TouchesR.next
    | with_reducible apply TouchesR.fault
    | with_reducible apply TouchesR.ite
    | with_reducible apply Touches.ite
    | ((with_reducible apply raise_touches); (case hm => rfl))
    | ((with_reducible apply ringError_touches); (case hm => rfl))
    | with_reducible apply Touches.foldlD
    | split

theorem execDoorbellPollTimer_touches {M : Nat} {r : State} (a0 : Sys2Proof.HostId) (s : State) (hs : Touches M r s) (hm : 0xd0 ||| M = M) :
    TouchesR M r (execDoorbellPollTimer a0 s) := by
  refine TouchesR.step hs ?_ hm
  clear hs hm r M
  unfold execDoorbellPollTimer
  repeat' first
    | with_reducible assumption
    | with_reducible apply Touches.refl
    | with_reducible apply TouchesR.next
    | with_reducible apply TouchesR.fault
    | with_reducible apply TouchesR.ite
    | with_reducible apply Touches.ite
    | ((with_reducible apply doorbellFetch_touches); (case hm => rfl))
    | ((with_reducible apply State.modHost_touches); (case hm => rfl))

theorem execDoorbellReread_touches {M : Nat} {r : State} (a0 : Sys2Proof.HostId) (a1 : Nat) (s : State) (hs : Touches M r s) (hm : 0xd0 ||| M = M) :
    TouchesR M r (execDoorbellReread a0 a1 s) := by
  refine TouchesR.step hs ?_ hm
  clear hs hm r M
  unfold execDoorbellReread
  repeat' first
    | with_reducible assumption
    | with_reducible apply Touches.refl
    | with_reducible apply TouchesR.next
    | with_reducible apply TouchesR.fault
    | with_reducible apply TouchesR.ite
    | with_reducible apply Touches.ite
    | ((with_reducible apply readSlots_touches); (case hm => rfl))
    | ((with_reducible apply State.modHost_touches); (case hm => rfl))
    | split

theorem slotArrived_touches {M : Nat} {r : State} (a0 : Sys2Proof.HostId) (a1 : Nat) (s : State) (hs : Touches M r s) (hm : 0xd0 ||| M = M) :
    Touches M r (slotArrived a0 a1 s) := by
  refine Touches.step hs ?_ hm
  clear hs hm r M
  unfold slotArrived
  repeat' first
    | with_reducible assumption
    | with_reducible apply Touches.refl
    | (extract_lets -underBinder +onlyGivenNames x; (have hty : TypeOf x = State := by with_reducible rfl); clear hty; apply Touches.cut 0xd0 s x; (case' kk => (clear_value x; intro _)); (case' vv => (unfold x; clear x)))
    | (extract_lets -underBinder +onlyGivenNames x; try clear_value x)
    | with_reducible apply Touches.ite
    | ((with_reducible apply State.modHost_touches); (case hm => rfl))
    | ((with_reducible apply doorbellFetch_touches); (case hm => rfl))

theorem execDoorbellSlotRead_touches {M : Nat} {r : State} (a0 : Sys2Proof.HostId) (a1 : Nat) (a2 : Sys2Proof.Bytes) (s : State) (hs : Touches M r s) (hm : 0x1d6 ||| M = M) :
    TouchesR M r (execDoorbellSlotRead a0 a1 a2 s) := by
  refine TouchesR.step hs ?_ hm
  clear hs hm r M
  unfold execDoorbellSlotRead
  repeat' first
    | with_reducible assumption
    | with_reducible apply Touches.refl
    | (extract_lets -underBinder +onlyGivenNames x; (have hty : TypeOf x = State := by with_reducible rfl); clear hty; apply Touches.cut 0x1d6 s x; (case' kk => (clear_value x; intro _)); (case' vv => (unfold x; clear x)))
    | (extract_lets -underBinder +onlyGivenNames x; try clear_value x)
    | with_reducible apply TouchesR.next
    | with_reducible apply TouchesR.fault
    | with_reducible apply TouchesR.ite
    | with_reducible apply Touches.ite
    | ((with_reducible apply slotArrived_touches); (case hm => rfl))
    | ((with_reducible apply acceptSlot_touches); (case hm => rfl))
    | ((with_reducible apply State.modHost_touches); (case hm => rfl))
    | split

theorem execEventWrite_touches {M : Nat} {r : State} (a0 : Sys2Proof.HostId) (a1 : Bool) (s : State) (hs : Touches M r s) (hm : 0x1d6 ||| M = M) :
    TouchesR M r (execEventWrite a0 a1 s) := by
  refine TouchesR.step hs ?_ hm
  clear hs hm r M
  unfold execEventWrite
  repeat' first
    | with_reducible assumption
    | with_reducible apply Touches.refl
    | with_reducible apply TouchesR.next
    | with_reducible apply TouchesR.fault
    | with_reducible apply TouchesR.ite
    | with_reducible apply Touches.ite
    | ((with_reducible apply eventWrite_touches); (case hm => rfl))
    | ((with_reducible apply faultyAll_touches); (case hm => rfl))

theorem execHostFlr_touches {M : Nat} {r : State} (a0 : Sys2Proof.HostId) (s : State) (hs : Touches M r s) (hm : 0xc0c321de ||| M = M) :
    TouchesR M r (execHostFlr a0 s) := by
  refine TouchesR.step hs ?_ hm
  clear hs hm r M
  unfold execHostFlr
  repeat' first
    | with_reducible assumption
    | with_reducible apply Touches.refl
    | with_reducible apply TouchesR.next
    | with_reducible apply TouchesR.fault
    | ((with_reducible apply hostReset_touches); (case hm => rfl))

theorem wakeHint_touches {M : Nat} {r : State} (a0 : Sys2Proof.HostId) (a1 : Nat) (s : State) (hs : Touches M r s) (hm : 0xd0 ||| M = M) :
    Touches M r (wakeHint a0 a1 s) := by
  refine Touches.step hs ?_ hm
  clear hs hm r M
  unfold wakeHint
  repeat' first
    | with_reducible assumption
    | with_reducible apply Touches.refl
    | ((with_reducible apply doorbellFetch_touches); (case hm => rfl))
    | (extract_lets -underBinder +onlyGivenNames x; (have hty : TypeOf x = State := by with_reducible rfl); clear hty; apply Touches.cut 0xd0 s x; (case' kk => (clear_value x; intro _)); (case' vv => (unfold x; clear x)))
    | (extract_lets -underBinder +onlyGivenNames x; try clear_value x)
    | with_reducible apply Touches.ite
    | ((with_reducible apply readSlots_touches); (case hm => rfl))

theorem execHostWakeHint_touches {M : Nat} {r : State} (a0 : Sys2Proof.HostId) (a1 : Nat) (s : State) (hs : Touches M r s) (hm : 0xd0 ||| M = M) :
    TouchesR M r (execHostWakeHint a0 a1 s) := by
  refine TouchesR.step hs ?_ hm
  clear hs hm r M
  unfold execHostWakeHint
  repeat' first
    | with_reducible assumption
    | with_reducible apply Touches.refl
    | with_reducible apply TouchesR.next
    | with_reducible apply TouchesR.fault
    | ((with_reducible apply wakeHint_touches); (case hm => rfl))

theorem execMsixTimeFire_touches {M : Nat} {r : State} (a0 : Sys2Proof.HostId) (a1 : Nat) (s : State) (hs : Touches M r s) (hm : 0xd2 ||| M = M) :
    TouchesR M r (execMsixTimeFire a0 a1 s) := by
  refine TouchesR.step hs ?_ hm
  clear hs hm r M
  unfold execMsixTimeFire
  repeat' first
    | with_reducible assumption
    | with_reducible apply Touches.refl
    | (extract_lets -underBinder +onlyGivenNames x; (have hty : TypeOf x = State := by with_reducible rfl); clear hty; apply Touches.cut 0xd2 s x; (case' kk => (clear_value x; intro _)); (case' vv => (unfold x; clear x)))
    | (extract_lets -underBinder +onlyGivenNames x; try clear_value x)
    | with_reducible apply TouchesR.next
    | with_reducible apply TouchesR.fault
    | with_reducible apply TouchesR.ite
    | with_reducible apply Touches.ite
    | ((with_reducible apply vecFire_touches); (case hm => rfl))

theorem execPcieLinkDown_touches {M : Nat} {r : State} (a0 : Sys2Proof.HostId) (s : State) (hs : Touches M r s) (hm : 0xc0c321de ||| M = M) :
    TouchesR M r (execPcieLinkDown a0 s) := by
  refine TouchesR.step hs ?_ hm
  clear hs hm r M
  unfold execPcieLinkDown
  repeat' first
    | with_reducible assumption
    | with_reducible apply Touches.refl
    | with_reducible apply TouchesR.next
    | with_reducible apply TouchesR.fault
    | ((with_reducible apply State.modHost_touches); (case hm => rfl))
    | ((with_reducible apply hostReset_touches); (case hm => rfl))

theorem ringEnable_touches {M : Nat} {r : State} (a0 : Sys2Proof.HostId) (a1 : Nat) (a2 : Nat) (s : State) (hs : Touches M r s) (hm : 0x1c6 ||| M = M) :
    Touches M r (ringEnable a0 a1 a2 s) := by
  refine Touches.step hs ?_ hm
  clear hs hm r M
  unfold ringEnable
  repeat' first
    | with_reducible assumption
    | with_reducible apply Touches.refl
    | (extract_lets -underBinder +onlyGivenNames x; (have hty : TypeOf x = State := by with_reducible rfl); clear hty; apply Touches.cut 0x1c6 s x; (case' kk => (clear_value x; intro _)); (case' vv => (unfold x; clear x)))
    | (extract_lets -underBinder +onlyGivenNames x; try clear_value x)
    | with_reducible apply Touches.ite
    | ((with_reducible apply ringError_touches); (case hm => rfl))
    | ((with_reducible apply State.modRing_touches); (case hm => rfl))

theorem ringStop_touches {M : Nat} {r : State} (a0 : Sys2Proof.HostId) (a1 : Nat) (a2 : Nat) (s : State) (hs : Touches M r s) (hm : 0x1c0 ||| M = M) :
    Touches M r (ringStop a0 a1 a2 s) := by
  refine Touches.step hs ?_ hm
  clear hs hm r M
  unfold ringStop
  repeat' first
    | with_reducible assumption
    | with_reducible apply Touches.refl
    | (extract_lets -underBinder +onlyGivenNames x; (have hty : TypeOf x = State := by with_reducible rfl); clear hty; apply Touches.cut 0x1c0 s x; (case' kk => (clear_value x; intro _)); (case' vv => (unfold x; clear x)))
    | (extract_lets -underBinder +onlyGivenNames x; try clear_value x)
    | ((with_reducible apply State.modRing_touches); (case hm => rfl))
    | ((with_reducible apply handleIf_touches); (case hm => rfl))
    | split

theorem ringCfgAct_touches {M : Nat} {r : State} (a0 : Sys2Proof.HostId) (a1 : Nat) (a2 : Nat) (s : State) (hs : Touches M r s) (hm : 0x1c6 ||| M = M) :
    Touches M r (ringCfgAct a0 a1 a2 s) := by
  refine Touches.step hs ?_ hm
  clear hs hm r M
  unfold ringCfgAct
  repeat' first
    | with_reducible assumption
    | with_reducible apply Touches.refl
    | with_reducible apply Touches.ite
    | ((with_reducible apply ringEnable_touches); (case hm => rfl))
    | ((with_reducible apply ringStop_touches); (case hm => rfl))

theorem ringCfgWrite_touches {M : Nat} {r : State} (a0 : Sys2Proof.HostId) (a1 : Nat) (a2 : Nat) (a3 : Nat) (s : State) (hs : Touches M r s) (hm : 0x1c6 ||| M = M) :
    Touches M r (ringCfgWrite a0 a1 a2 a3 s) := by
  refine Touches.step hs ?_ hm
  clear hs hm r M
  unfold ringCfgWrite
  repeat' first
    | with_reducible assumption
    | with_reducible apply Touches.refl
    | (extract_lets -underBinder +onlyGivenNames x; (have hty : TypeOf x = State := by with_reducible rfl); clear hty; apply Touches.cut 0x1c6 s x; (case' kk => (clear_value x; intro _)); (case' vv => (unfold x; clear x)))
    | (extract_lets -underBinder +onlyGivenNames x; try clear_value x)
    | ((with_reducible apply ringCfgAct_touches); (case hm => rfl))
    | ((with_reducible apply State.setReg_touches); (case hm => rfl))

theorem execRingEnable_touches {M : Nat} {r : State} (a0 : Sys2Proof.HostId) (a1 : Nat) (a2 : Nat) (a3 : Nat) (s : State) (hs : Touches M r s) (hm : 0x1c6 ||| M = M) :
    TouchesR M r (execRingEnable a0 a1 a2 a3 s) := by
  refine TouchesR.step hs ?_ hm
  clear hs hm r M
  unfold execRingEnable
  repeat' first
    | with_reducible assumption
    | with_reducible apply Touches.refl
    | with_reducible apply TouchesR.next
    | with_reducible apply TouchesR.fault
    | with_reducible apply TouchesR.ite
    | with_reducible apply Touches.ite
    | ((with_reducible apply ringCfgWrite_touches); (case hm => rfl))

theorem execRingStop_touches {M : Nat} {r : State} (a0 : Sys2Proof.HostId) (a1 : Nat) (a2 : Nat) (a3 : Nat) (s : State) (hs : Touches M r s) (hm : 0x1c6 ||| M = M) :
    TouchesR M r (execRingStop a0 a1 a2 a3 s) := by
  refine TouchesR.step hs ?_ hm
  clear hs hm r M
  unfold execRingStop
  repeat' first
    | with_reducible assumption
    | with_reducible apply Touches.refl
    | with_reducible apply TouchesR.next
    | with_reducible apply TouchesR.fault
    | with_reducible apply TouchesR.ite
    | with_reducible apply Touches.ite
    | ((with_reducible apply ringCfgWrite_touches); (case hm => rfl))

theorem execRingStoppingDone_touches {M : Nat} {r : State} (a0 : Sys2Proof.HostId) (a1 : Nat) (a2 : Nat) (s : State) (hs : Touches M r s) (hm : 0xc0 ||| M = M) :
    TouchesR M r (execRingStoppingDone a0 a1 a2 s) := by
  refine TouchesR.step hs ?_ hm
  clear hs hm r M
  unfold execRingStoppingDone
  repeat' first
    | with_reducible assumption
    | with_reducible apply Touches.refl
    | with_reducible apply TouchesR.next
    | with_reducible apply TouchesR.fault
    | with_reducible apply TouchesR.ite
    | with_reducible apply Touches.ite
    | ((with_reducible apply State.modRing_touches); (case hm => rfl))

theorem txCompletion_touches {M : Nat} {r : State} (a0 : Sys2Proof.HostId) (a1 : Nat) (a2 : Sys2Proof.Bytes) (a3 : Nat) (a4 : Bool) (s : State) (hs : Touches M r s) (hm : 0xc0 ||| M = M) :
    Touches M r (txCompletion a0 a1 a2 a3 a4 s) := by
  refine Touches.step hs ?_ hm
  clear hs hm r M
  unfold txCompletion
  repeat' first
    | with_reducible assumption
    | with_reducible apply Touches.refl
    | (extract_lets -underBinder +onlyGivenNames x; (have hty : TypeOf x = State := by with_reducible rfl); clear hty; apply Touches.cut 0xc0 s x; (case' kk => (clear_value x; intro _)); (case' vv => (unfold x; clear x)))
    | (extract_lets -underBinder +onlyGivenNames x; try clear_value x)
    | ((with_reducible apply State.setHost_touches); (case hm => rfl))
    | ((with_reducible apply txFlush_touches); (case hm => rfl))

theorem execTxqDescriptor_touches {M : Nat} {r : State} (a0 : Sys2Proof.HostId) (a1 : Nat) (a2 : Sys2Proof.Bytes) (a3 : Sys2Proof.Bytes) (s : State) (hs : Touches M r s) (hm : 0x82100c4 ||| M = M) :
    TouchesR M r (execTxqDescriptor a0 a1 a2 a3 s) := by
  refine TouchesR.step hs ?_ hm
  clear hs hm r M
  unfold execTxqDescriptor
  repeat' first
    | with_reducible assumption
    | with_reducible apply Touches.refl
    | (extract_lets -underBinder +onlyGivenNames x; (have hty : TypeOf x = State := by with_reducible rfl); clear hty; apply Touches.cut 0x82100c4 s x; (case' kk => (clear_value x; intro _)); (case' vv => (unfold x; clear x)))
    | (extract_lets -underBinder +onlyGivenNames x; try clear_value x)
    | with_reducible apply TouchesR.next
    | with_reducible apply TouchesR.fault
    | with_reducible apply TouchesR.ite
    | with_reducible apply Touches.ite
    | ((with_reducible apply State.modHost_touches); (case hm => rfl))
    | ((with_reducible apply fetchOne_touches); (case hm => rfl))
    | ((with_reducible apply txCompletion_touches); (case hm => rfl))
    | ((with_reducible apply reserveEvq_touches); (case hm => rfl))
    | ((with_reducible apply accept_touches); (case hm => rfl))

theorem vecUnmask_touches {M : Nat} {r : State} (a0 : Sys2Proof.HostId) (a1 : Nat) (s : State) (hs : Touches M r s) (hm : 0xd2 ||| M = M) :
    Touches M r (vecUnmask a0 a1 s) := by
  refine Touches.step hs ?_ hm
  clear hs hm r M
  unfold vecUnmask
  repeat' first
    | with_reducible assumption
    | with_reducible apply Touches.refl
    | (extract_lets -underBinder +onlyGivenNames x; (have hty : TypeOf x = State := by with_reducible rfl); clear hty; apply Touches.cut 0xd2 s x; (case' kk => (clear_value x; intro _)); (case' vv => (unfold x; clear x)))
    | (extract_lets -underBinder +onlyGivenNames x; try clear_value x)
    | with_reducible apply Touches.ite
    | ((with_reducible apply State.setReg_touches); (case hm => rfl))
    | ((with_reducible apply vecFire_touches); (case hm => rfl))

theorem dmaResume_touches {M : Nat} {r : State} (a0 : Sys2Proof.HostId) (s : State) (hs : Touches M r s) (hm : 0xd2 ||| M = M) :
    Touches M r (dmaResume a0 s) := by
  refine Touches.step hs ?_ hm
  clear hs hm r M
  unfold dmaResume
  repeat' first
    | with_reducible assumption
    | (intro _; try dsimp -zeta only)
    | (extract_lets -underBinder +onlyGivenNames x; (have hty : TypeOf x = State := by with_reducible rfl); clear hty; apply Touches.cut 0xd2 s x; (case' kk => (clear_value x; intro _)); (case' vv => (unfold x; clear x)))
    | (extract_lets -underBinder +onlyGivenNames x; try clear_value x)
    | with_reducible apply Touches.refl
    | ((with_reducible apply State.emit_touches); (case hm => rfl))
    | ((with_reducible apply State.modHost_touches); (case hm => rfl))
    | ((with_reducible apply vecUnmask_touches); (case hm => rfl))
    | with_reducible apply Touches.foldlD

theorem execPcieLinkUp_touches {M : Nat} {r : State} (a0 : Sys2Proof.HostId) (a1 : Nat) (a2 : Nat) (a3 : Bool) (s : State) (hs : Touches M r s) (hm : 0x200001d6 ||| M = M) :
    TouchesR M r (execPcieLinkUp a0 a1 a2 a3 s) := by
  refine TouchesR.step hs ?_ hm
  clear hs hm r M
  unfold execPcieLinkUp
  repeat' first
    | with_reducible assumption
    | with_reducible apply Touches.refl
    | ((with_reducible apply dmaResume_touches); (case hm => rfl))
    | (extract_lets -underBinder +onlyGivenNames x; (have hty : TypeOf x = State := by with_reducible rfl); clear hty; apply Touches.cut 0x200001d6 s x; (case' kk => (clear_value x; intro _)); (case' vv => (unfold x; clear x)))
    | (extract_lets -underBinder +onlyGivenNames x; try clear_value x)
    | with_reducible apply TouchesR.next
    | with_reducible apply TouchesR.fault
    | with_reducible apply TouchesR.ite
    | with_reducible apply Touches.ite
    | ((with_reducible apply State.modHost_touches); (case hm => rfl))
    | ((with_reducible apply raiseReady_touches); (case hm => rfl))

theorem writeAll_touches {M : Nat} {r : State} (a0 : Sys2Proof.HostId) (a1 : Nat) (s : State) (hs : Touches M r s) (hm : 0x1d6 ||| M = M) :
    Touches M r (writeAll a0 a1 s) := by
  refine Touches.step hs ?_ hm
  clear hs hm r M
  suffices hq : ∀ r, Touches 0x1d6 r s → Touches 0x1d6 r (writeAll a0 a1 s) from hq _ (Touches.refl _ _)
  induction a1 generalizing a0 s with
  | zero =>
    intro r hs
    unfold writeAll
    repeat' first
      | with_reducible assumption
      | (intro _; try dsimp -zeta only)
      | (extract_lets -underBinder +onlyGivenNames x; (have hty : TypeOf x = State := by with_reducible rfl); clear hty; apply Touches.cut 0x1d6 r x; (case' kk => (clear_value x; intro _)); (case' vv => (unfold x; clear x)))
      | (extract_lets -underBinder +onlyGivenNames x; try clear_value x)
      | with_reducible apply Touches.refl
      | with_reducible apply Touches.ite
      | with_reducible apply ih
      | ((with_reducible apply eventWrite_touches); (case hm => rfl))
      | with_reducible apply Touches.foldlD
      | split
  | succ k ih =>
    intro r hs
    unfold writeAll
    repeat' first
      | with_reducible assumption
      | (intro _; try dsimp -zeta only)
      | (extract_lets -underBinder +onlyGivenNames x; (have hty : TypeOf x = State := by with_reducible rfl); clear hty; apply Touches.cut 0x1d6 r x; (case' kk => (clear_value x; intro _)); (case' vv => (unfold x; clear x)))
      | (extract_lets -underBinder +onlyGivenNames x; try clear_value x)
      | with_reducible apply Touches.refl
      | with_reducible apply Touches.ite
      | with_reducible apply ih
      | ((with_reducible apply eventWrite_touches); (case hm => rfl))
      | with_reducible apply Touches.foldlD
      | split

theorem writeWaiting_touches {M : Nat} {r : State} (a0 : Sys2Proof.HostId) (s : State) (hs : Touches M r s) (hm : 0x1d6 ||| M = M) :
    Touches M r (writeWaiting a0 s) := by
  refine Touches.step hs ?_ hm
  clear hs hm r M
  unfold writeWaiting
  repeat' first
    | with_reducible assumption
    | with_reducible apply Touches.refl
    | with_reducible apply Touches.ite
    | ((with_reducible apply writeAll_touches); (case hm => rfl))

end Sys2Proof.Machine
end

