-- ==== Sys2Proof/Laws/Reset.lean ====
section
/-! SUPPORT. What each function of Machine/Reset.lean touches: one lemma per function that answers a state. -/

set_option linter.tactic.unusedName false

namespace Sys2Proof.Machine

theorem actCut_touches {M : Nat} {r : State} (s : State) (hs : Touches M r s) (hm : 0x10000002 ||| M = M) :
    Touches M r (actCut s) := by
  refine Touches.step hs ?_ hm
  clear hs hm r M
  unfold actCut
  repeat' first
    | with_reducible assumption
    | with_reducible apply Touches.refl
    | (extract_lets -underBinder +onlyGivenNames x; (have hty : TypeOf x = State := by with_reducible rfl); clear hty; apply Touches.cut 0x10000002 s x; (case' kk => (clear_value x; intro _)); (case' vv => (unfold x; clear x)))
    | (extract_lets -underBinder +onlyGivenNames x; try clear_value x)
    | with_reducible apply Touches.ite
    | ((with_reducible apply State.modSup_touches); (case hm => rfl))
    | ((with_reducible apply writeRec_touches); (case hm => rfl))
    | split

theorem cutHeld_touches {M : Nat} {r : State} (s : State) (hs : Touches M r s) (hm : 0x30000 ||| M = M) :
    Touches M r ((cutHeld s).2) := by
  refine Touches.step hs ?_ hm
  clear hs hm r M
  unfold cutHeld
  repeat' first
    | with_reducible assumption
    | with_reducible apply Touches.refl
    | (extract_lets -underBinder +onlyGivenNames x; (have hty : TypeOf x = State := by with_reducible rfl); clear hty; apply Touches.cut 0x30000 s x; (case' kk => (clear_value x; intro _)); (case' vv => (unfold x; clear x)))
    | (extract_lets -underBinder +onlyGivenNames x; try clear_value x)
    | with_reducible apply Touches.ite
    | split
    | (dsimp -zeta only)
    | ((with_reducible apply Touches.mem); (case hm => rfl))
    | ((with_reducible apply Touches.streams); (case hm => rfl))
    | ((with_reducible apply Touches.lit (F := 0x30000)); (case l1 => with_reducible rfl); (case l2 => with_reducible rfl); (case l3 => with_reducible rfl); (case l4 => with_reducible rfl); (case l5 => rfl); (case hm => rfl); (case ag => constructor <;> first | exact tb rfl | exact fun _ => rfl))

theorem cutPort_touches {M : Nat} {r : State} (a0 : Nat × State) (a1 : Nat) (hs : Touches M r a0.2) (hm : 0xb21d6 ||| M = M) :
    Touches M r ((cutPort a0 a1).2) := by
  refine Touches.step hs ?_ hm
  clear hs hm r M
  unfold cutPort
  repeat' first
    | with_reducible assumption
    | with_reducible apply Touches.refl
    | (extract_lets -underBinder +onlyGivenNames x; (have hty : TypeOf x = State := by with_reducible rfl); clear hty; apply Touches.cut 0xb21d6 a0.2 x; (case' kk => (clear_value x; intro _)); (case' vv => (unfold x; clear x)))
    | (extract_lets -underBinder +onlyGivenNames x; try clear_value x)
    | with_reducible apply Touches.ite
    | ((with_reducible apply dropSending_touches); (case hm => rfl))
    | ((with_reducible apply loadedFlush_touches); (case hm => rfl))
    | split
    | (dsimp -zeta only)

theorem cutQueue_touches {M : Nat} {r : State} (a0 : Nat × State) (a1 : Nat) (hs : Touches M r a0.2) (hm : 0x321d6 ||| M = M) :
    Touches M r ((cutQueue a0 a1).2) := by
  refine Touches.step hs ?_ hm
  clear hs hm r M
  unfold cutQueue
  repeat' first
    | with_reducible assumption
    | with_reducible apply Touches.refl
    | ((with_reducible apply keepInQueue_touches); (case hm => rfl))
    | (extract_lets -underBinder +onlyGivenNames x; (have hty : TypeOf x = State := by with_reducible rfl); clear hty; apply Touches.cut 0x321d6 a0.2 x; (case' kk => (clear_value x; intro _)); (case' vv => (unfold x; clear x)))
    | (extract_lets -underBinder +onlyGivenNames x; try clear_value x)
    | ((with_reducible apply discardAll_touches); (case hm => rfl))
    | ((with_reducible apply State.setQueue_touches); (case hm => rfl))
    | split
    | (dsimp -zeta only)

theorem drainCut_touches {M : Nat} {r : State} (s : State) (hs : Touches M r s) (hm : 0xb21d6 ||| M = M) :
    Touches M r ((drainCut s).2) := by
  unfold drainCut
  dsimp only
  generalize List.range 76 = l
  have h1 : Touches M r (cutHeld s).2 := cutHeld_touches s hs (sub_trans (by rfl) hm)
  have h2 := Touches.foldlP (f := cutQueue) (fun t k ht => cutQueue_touches t k ht (sub_trans (by rfl) hm))
    ((cutHeld s).2.mem.queues.map (·.1)) _ h1
  have h3 := Touches.foldlP (f := cutPort) (fun t k ht => cutPort_touches t k ht (sub_trans (by rfl) hm)) l _ h2
  exact Touches.foldlD (Touches.mem h3 (sub_trans (by rfl) hm))
    (fun t w ht => discardCopy_touches _ _ _ _ ht (sub_trans (by rfl) hm))

theorem relevel_touches {M : Nat} {r : State} (s : State) (hs : Touches M r s) (hm : 0x10b21d6 ||| M = M) :
    Touches M r (relevel s) := by
  refine Touches.step hs ?_ hm
  clear hs hm r M
  unfold relevel
  repeat' first
    | with_reducible assumption
    | with_reducible apply Touches.refl
    | ((with_reducible apply portsDestsLost_touches); (case hm => rfl))
    | (extract_lets -underBinder +onlyGivenNames x; (have hty : TypeOf x = State := by with_reducible rfl); clear hty; apply Touches.cut 0x10b21d6 s x; (case' kk => (clear_value x; intro _)); (case' vv => (unfold x; clear x)))
    | (extract_lets -underBinder +onlyGivenNames x; try clear_value x)
    | with_reducible apply Touches.ite
    | ((with_reducible apply setLine_touches); (case hm => rfl))
    | ((with_reducible apply fenceFlush_touches); (case hm => rfl))

theorem setRole_touches {M : Nat} {r : State} (a0 : Nat) (s : State) (hs : Touches M r s) (hm : 0x10b21d6 ||| M = M) :
    Touches M r (setRole a0 s) := by
  refine Touches.step hs ?_ hm
  clear hs hm r M
  unfold setRole
  repeat' first
    | with_reducible assumption
    | with_reducible apply Touches.refl
    | with_reducible apply Touches.ite
    | ((with_reducible apply relevel_touches); (case hm => rfl))
    | ((with_reducible apply State.setFld_touches); (case hm => rfl))

theorem pairStart_touches {M : Nat} {r : State} (s : State) (hs : Touches M r s) (hm : 0x10b29d6 ||| M = M) :
    Touches M r (pairStart s) := by
  refine Touches.step hs ?_ hm
  clear hs hm r M
  unfold pairStart
  repeat' first
    | with_reducible assumption
    | with_reducible apply Touches.refl
    | (extract_lets -underBinder +onlyGivenNames x; (have hty : TypeOf x = State := by with_reducible rfl); clear hty; apply Touches.cut 0x10b29d6 s x; (case' kk => (clear_value x; intro _)); (case' vv => (unfold x; clear x)))
    | (extract_lets -underBinder +onlyGivenNames x; try clear_value x)
    | with_reducible apply Touches.ite
    | ((with_reducible apply State.setFld_touches); (case hm => rfl))
    | ((with_reducible apply State.setReg_touches); (case hm => rfl))
    | ((with_reducible apply setRole_touches); (case hm => rfl))
    | ((with_reducible apply Touches.pairMode); (case hm => rfl))
    | ((with_reducible apply Touches.pair); (case hm => rfl))
    | ((with_reducible apply Touches.lit (F := 0x1000800)); (case l1 => with_reducible rfl); (case l2 => with_reducible rfl); (case l3 => with_reducible rfl); (case l4 => with_reducible rfl); (case l5 => rfl); (case hm => rfl); (case ag => (constructor <;> first | exact tb rfl | exact fun _ => rfl)))

theorem warmForward_touches {M : Nat} {r : State} (a0 : Warm) (s : State) (hs : Touches M r s) (hm : 0x20210004 ||| M = M) :
    Touches M r (warmForward a0 s) := by
  refine Touches.step hs ?_ hm
  clear hs hm r M
  unfold warmForward
  repeat' first
    | with_reducible assumption
    | with_reducible apply Touches.refl
    | (extract_lets -underBinder +onlyGivenNames x; (have hty : TypeOf x = State := by with_reducible rfl); clear hty; apply Touches.cut 0x20210004 s x; (case' kk => (clear_value x; intro _)); (case' vv => (unfold x; clear x)))
    | (extract_lets -underBinder +onlyGivenNames x; try clear_value x)
    | ((with_reducible apply slicesGo_touches); (case hm => rfl))
    | ((with_reducible apply Touches.rst); (case hm => rfl))

theorem drainDone_touches {M : Nat} {r : State} (a0 : Warm) (s : State) (hs : Touches M r s) (hm : 0xf5ff3ff6 ||| M = M) :
    Touches M r (drainDone a0 s) := by
  refine Touches.step hs ?_ hm
  clear hs hm r M
  unfold drainDone
  repeat' first
    | with_reducible assumption
    | with_reducible apply Touches.refl
    | (extract_lets -underBinder +onlyGivenNames x; (have hty : TypeOf x = State := by with_reducible rfl); clear hty; apply Touches.cut 0xf5ff3ff6 s x; (case' kk => (clear_value x; intro _)); (case' vv => (unfold x; clear x)))
    | (extract_lets -underBinder +onlyGivenNames x; try clear_value x)
    | with_reducible apply Touches.ite
    | ((with_reducible apply raise_touches); (case hm => rfl))
    | ((with_reducible apply writeWaiting_touches); (case hm => rfl))
    | ((with_reducible apply warmLose_touches); (case hm => rfl))
    | ((with_reducible apply epochEvents_touches); (case hm => rfl))
    | ((with_reducible apply newEpochs_touches); (case hm => rfl))
    | ((with_reducible apply supRestart_touches); (case hm => rfl))
    | ((with_reducible apply pairStart_touches); (case hm => rfl))
    | ((with_reducible apply relevel_touches); (case hm => rfl))
    | ((with_reducible apply warmForward_touches); (case hm => rfl))
    | ((with_reducible apply Touches.mem); (case hm => rfl))
    | ((with_reducible apply Touches.rst); (case hm => rfl))
    | ((with_reducible apply Touches.lit (F := 0x20010000)); (case l1 => with_reducible rfl); (case l2 => with_reducible rfl); (case l3 => with_reducible rfl); (case l4 => with_reducible rfl); (case l5 => rfl); (case hm => rfl); (case ag => (constructor <;> first | exact tb rfl | exact fun _ => rfl)))

theorem drainStart_touches {M : Nat} {r : State} (a0 : Nat) (s : State) (hs : Touches M r s) (hm : 0x208b25d6 ||| M = M) :
    Touches M r (drainStart a0 s) := by
  refine Touches.step hs ?_ hm
  clear hs hm r M
  unfold drainStart
  repeat' first
    | with_reducible assumption
    | (intro _; try dsimp -zeta only)
    | (extract_lets -underBinder +onlyGivenNames x; (have hty : TypeOf x = State := by with_reducible rfl); clear hty; apply Touches.cut 0x208b25d6 s x; (case' kk => (clear_value x; intro _)); (case' vv => (unfold x; clear x)))
    | (extract_lets -underBinder +onlyGivenNames x; try clear_value x)
    | with_reducible apply Touches.refl
    | ((with_reducible apply withdrawFab_touches); (case hm => rfl))
    | ((with_reducible apply batchClose_touches); (case hm => rfl))
    | with_reducible apply Touches.foldlD
    | ((with_reducible apply Touches.mem); (case hm => rfl))
    | ((with_reducible apply Touches.rst); (case hm => rfl))
    | ((with_reducible apply Touches.lit (F := 0x20010000)); (case l1 => with_reducible rfl); (case l2 => with_reducible rfl); (case l3 => with_reducible rfl); (case l4 => with_reducible rfl); (case l5 => rfl); (case hm => rfl); (case ag => (constructor <;> first | exact tb rfl | exact fun _ => rfl)))

theorem execDrainEnd_touches {M : Nat} {r : State} (s : State) (hs : Touches M r s) (hm : 0xf5ff3ff6 ||| M = M) :
    TouchesR M r (execDrainEnd s) := by
  refine TouchesR.step hs ?_ hm
  clear hs hm r M
  unfold execDrainEnd
  repeat' first
    | with_reducible assumption
    | with_reducible apply Touches.refl
    | with_reducible apply TouchesR.next
    | with_reducible apply TouchesR.fault
    | with_reducible apply TouchesR.ite
    | with_reducible apply Touches.ite
    | ((with_reducible apply drainDone_touches); (case hm => rfl))
    | split

theorem execDrainLimitExpiry_touches {M : Nat} {r : State} (s : State) (hs : Touches M r s) (hm : 0xf5ff3ff6 ||| M = M) :
    TouchesR M r (execDrainLimitExpiry s) := by
  refine TouchesR.step hs ?_ hm
  clear hs hm r M
  unfold execDrainLimitExpiry
  repeat' first
    | with_reducible assumption
    | with_reducible apply Touches.refl
    | with_reducible apply TouchesR.next
    | with_reducible apply TouchesR.fault
    | with_reducible apply TouchesR.ite
    | with_reducible apply Touches.ite
    | ((with_reducible apply drainCut_touches); (case hm => rfl))
    | ((with_reducible apply drainDone_touches); (case hm => rfl))
    | ((with_reducible apply raise_touches); (case hm => rfl))
    | ((with_reducible apply Touches.snd); (case eqn => assumption))
    | split

theorem warmBegin_touches {M : Nat} {r : State} (a0 : Nat) (s : State) (hs : Touches M r s) (hm : 0x30cb25d6 ||| M = M) :
    Touches M r (warmBegin a0 s) := by
  refine Touches.step hs ?_ hm
  clear hs hm r M
  unfold warmBegin
  repeat' first
    | with_reducible assumption
    | with_reducible apply Touches.refl
    | (extract_lets -underBinder +onlyGivenNames x; (have hty : TypeOf x = State := by with_reducible rfl); clear hty; apply Touches.cut 0x30cb25d6 s x; (case' kk => (clear_value x; intro _)); (case' vv => (unfold x; clear x)))
    | (extract_lets -underBinder +onlyGivenNames x; try clear_value x)
    | with_reducible apply Touches.ite
    | ((with_reducible apply drainStart_touches); (case hm => rfl))
    | ((with_reducible apply abandonAct_touches); (case hm => rfl))
    | ((with_reducible apply Touches.rst); (case hm => rfl))

theorem warmStart_touches {M : Nat} {r : State} (a0 : Nat) (s : State) (hs : Touches M r s) (hm : 0x38eb25d6 ||| M = M) :
    Touches M r (warmStart a0 s) := by
  refine Touches.step hs ?_ hm
  clear hs hm r M
  unfold warmStart
  repeat' first
    | with_reducible assumption
    | with_reducible apply Touches.refl
    | with_reducible apply Touches.ite
    | ((with_reducible apply State.modPwr_touches); (case hm => rfl))
    | ((with_reducible apply startExit_touches); (case hm => rfl))
    | ((with_reducible apply warmBegin_touches); (case hm => rfl))
    | ((with_reducible apply abortEntry_touches); (case hm => rfl))
    | split

theorem remoteReset_touches {M : Nat} {r : State} (s : State) (hs : Touches M r s) (hm : 0x38eb25d6 ||| M = M) :
    Touches M r ((remoteReset s).2) := by
  refine Touches.step hs ?_ hm
  clear hs hm r M
  unfold remoteReset
  repeat' first
    | with_reducible assumption
    | with_reducible apply Touches.refl
    | (extract_lets -underBinder +onlyGivenNames x; (have hty : TypeOf x = State := by with_reducible rfl); clear hty; apply Touches.cut 0x38eb25d6 s x; (case' kk => (clear_value x; intro _)); (case' vv => (unfold x; clear x)))
    | (extract_lets -underBinder +onlyGivenNames x; try clear_value x)
    | with_reducible apply Touches.ite
    | ((with_reducible apply warmStart_touches); (case hm => rfl))
    | split
    | (dsimp -zeta only)

theorem execFabReset_touches {M : Nat} {r : State} (a0 : Sys2Proof.CmdCtx) (s : State) (hs : Touches M r s) (hm : 0x38eb25d6 ||| M = M) :
    TouchesR M r (execFabReset a0 s) := by
  refine TouchesR.step hs ?_ hm
  clear hs hm r M
  unfold execFabReset
  repeat' first
    | with_reducible assumption
    | (intro _; try dsimp -zeta only)
    | (extract_lets -underBinder +onlyGivenNames x; (have hty : TypeOf x = State := by with_reducible rfl); clear hty; apply Touches.cut 0x38eb25d6 s x; (case' kk => (clear_value x; intro _)); (case' vv => (unfold x; clear x)))
    | (extract_lets -underBinder +onlyGivenNames x; try clear_value x)
    | with_reducible apply Touches.refl
    | with_reducible apply TouchesR.next
    | with_reducible apply TouchesR.fault
    | with_reducible apply TouchesR.ite
    | with_reducible apply Touches.ite
    | ((with_reducible apply command_touches); (case hm => rfl))
    | ((with_reducible apply complete_touches); (case hm => rfl))
    | ((with_reducible apply remoteReset_touches); (case hm => rfl))
    | ((with_reducible apply farWait_touches); (case hm => rfl))
    | ((with_reducible apply sendTo_touches); (case hm => rfl))
    | ((with_reducible apply Touches.snd); (case eqn => assumption))
    | split

theorem failsafeFence_touches {M : Nat} {r : State} (s : State) (hs : Touches M r s) (hm : 0x10b21d6 ||| M = M) :
    Touches M r (failsafeFence s) := by
  refine Touches.step hs ?_ hm
  clear hs hm r M
  unfold failsafeFence
  repeat' first
    | with_reducible assumption
    | with_reducible apply Touches.refl
    | with_reducible apply Touches.ite
    | ((with_reducible apply relevel_touches); (case hm => rfl))
    | ((with_reducible apply State.setFld_touches); (case hm => rfl))

theorem execHostFailsafeFence_touches {M : Nat} {r : State} (s : State) (hs : Touches M r s) (hm : 0x10b21f6 ||| M = M) :
    TouchesR M r (execHostFailsafeFence s) := by
  refine TouchesR.step hs ?_ hm
  clear hs hm r M
  unfold execHostFailsafeFence
  repeat' first
    | with_reducible assumption
    | (intro _; try dsimp -zeta only)
    | with_reducible apply Touches.refl
    | with_reducible apply TouchesR.next
    | with_reducible apply TouchesR.fault
    | ((with_reducible apply busRow_touches); (case hm => rfl))
    | ((with_reducible apply failsafeFence_touches); (case hm => rfl))

theorem failsafeWrst_touches {M : Nat} {r : State} (s : State) (hs : Touches M r s) (hm : 0x38eb25d6 ||| M = M) :
    Touches M r (failsafeWrst s) := by
  refine Touches.step hs ?_ hm
  clear hs hm r M
  unfold failsafeWrst
  repeat' first
    | with_reducible assumption
    | with_reducible apply Touches.refl
    | ((with_reducible apply warmStart_touches); (case hm => rfl))

theorem execHostFailsafeWrst_touches {M : Nat} {r : State} (s : State) (hs : Touches M r s) (hm : 0x38eb25f6 ||| M = M) :
    TouchesR M r (execHostFailsafeWrst s) := by
  refine TouchesR.step hs ?_ hm
  clear hs hm r M
  unfold execHostFailsafeWrst
  repeat' first
    | with_reducible assumption
    | (intro _; try dsimp -zeta only)
    | with_reducible apply Touches.refl
    | with_reducible apply TouchesR.next
    | with_reducible apply TouchesR.fault
    | ((with_reducible apply busRow_touches); (case hm => rfl))
    | ((with_reducible apply failsafeWrst_touches); (case hm => rfl))

theorem porLose_touches {M : Nat} {r : State} (s : State) (hs : Touches M r s) (hm : 0xffffffe6 ||| M = M) : Touches M r (porLose s) := by
  refine Touches.step (F := 0xffffffe6) (actCut_touches s hs (sub_trans (by rfl) hm)) ?_ hm
  unfold porLose
  exact ⟨by constructor <;> intro h <;> first | with_reducible rfl | exact absurd h (by decide) | rfl,
   ⟨rfl, List.suffix_refl _, Nat.le_refl _, regs_wf_regsRetain, ctrs_wf_ctrsRetain, fun _ => rfl⟩⟩

theorem porHold_touches {M : Nat} {r : State} (a0 : Nat) (a1 : Nat) (s : State) (hs : Touches M r s) (hm : 0xfffffff6 ||| M = M) :
    Touches M r (porHold a0 a1 s) := by
  refine Touches.step hs ?_ hm
  clear hs hm r M
  unfold porHold
  repeat' first
    | with_reducible assumption
    | with_reducible apply Touches.refl
    | (extract_lets -underBinder +onlyGivenNames x; (have hty : TypeOf x = State := by with_reducible rfl); clear hty; apply Touches.cut 0xfffffff6 s x; (case' kk => (clear_value x; intro _)); (case' vv => (unfold x; clear x)))
    | (extract_lets -underBinder +onlyGivenNames x; try clear_value x)
    | ((with_reducible apply porLose_touches); (case hm => rfl))
    | ((with_reducible apply setLine_touches); (case hm => rfl))
    | ((with_reducible apply Touches.pwr); (case hm => rfl))
    | ((with_reducible apply Touches.rst); (case hm => rfl))
    | ((with_reducible apply Touches.lit (F := 0x28000000)); (case l1 => with_reducible rfl); (case l2 => with_reducible rfl); (case l3 => with_reducible rfl); (case l4 => with_reducible rfl); (case l5 => rfl); (case hm => rfl); (case ag => (constructor <;> first | exact tb rfl | exact fun _ => rfl)))

theorem execPoresetAssert_touches {M : Nat} {r : State} (a0 : Nat) (s : State) (hs : Touches M r s) (hm : 0xfffffff6 ||| M = M) :
    TouchesR M r (execPoresetAssert a0 s) := by
  refine TouchesR.step hs ?_ hm
  clear hs hm r M
  unfold execPoresetAssert
  repeat' first
    | with_reducible assumption
    | with_reducible apply Touches.refl
    | with_reducible apply TouchesR.next
    | with_reducible apply TouchesR.fault
    | with_reducible apply TouchesR.ite
    | with_reducible apply Touches.ite
    | ((with_reducible apply porHold_touches); (case hm => rfl))

theorem execRailResetLevel_touches {M : Nat} {r : State} (a0 : Fin 11) (a1 : Nat) (s : State) (hs : Touches M r s) (hm : 0xfffffff6 ||| M = M) :
    TouchesR M r (execRailResetLevel a0 a1 s) := by
  refine TouchesR.step hs ?_ hm
  clear hs hm r M
  unfold execRailResetLevel
  repeat' first
    | with_reducible assumption
    | with_reducible apply Touches.refl
    | (extract_lets -underBinder +onlyGivenNames x; (have hty : TypeOf x = State := by with_reducible rfl); clear hty; apply Touches.cut 0xfffffff6 s x; (case' kk => (clear_value x; intro _)); (case' vv => (unfold x; clear x)))
    | (extract_lets -underBinder +onlyGivenNames x; try clear_value x)
    | with_reducible apply TouchesR.next
    | with_reducible apply TouchesR.fault
    | with_reducible apply TouchesR.ite
    | with_reducible apply Touches.ite
    | ((with_reducible apply porHold_touches); (case hm => rfl))

theorem execResetMessage_touches {M : Nat} {r : State} (a0 : Sys2Proof.Port) (a1 : Nat) (a2 : Nat) (a3 : Sys2Proof.ResetMsg) (s : State) (hs : Touches M r s) (hm : 0x38eb25d6 ||| M = M) :
    TouchesR M r (execResetMessage a0 a1 a2 a3 s) := by
  refine TouchesR.step hs ?_ hm
  clear hs hm r M
  unfold execResetMessage
  repeat' first
    | with_reducible assumption
    | with_reducible apply Touches.refl
    | with_reducible apply TouchesR.next
    | with_reducible apply TouchesR.fault
    | with_reducible apply TouchesR.ite
    | with_reducible apply Touches.ite
    | ((with_reducible apply relay_touches); (case hm => rfl))
    | ((with_reducible apply remoteReset_touches); (case hm => rfl))
    | ((with_reducible apply sendTo_touches); (case hm => rfl))
    | ((with_reducible apply farAnswer_touches); (case hm => rfl))
    | ((with_reducible apply Touches.snd); (case eqn => assumption))
    | split

theorem execWarmReset_touches {M : Nat} {r : State} (a0 : Sys2Proof.CmdCtx) (s : State) (hs : Touches M r s) (hm : 0x38eb25d6 ||| M = M) :
    TouchesR M r (execWarmReset a0 s) := by
  refine TouchesR.step hs ?_ hm
  clear hs hm r M
  unfold execWarmReset
  repeat' first
    | with_reducible assumption
    | (intro _; try dsimp -zeta only)
    | with_reducible apply Touches.refl
    | with_reducible apply TouchesR.next
    | with_reducible apply TouchesR.fault
    | with_reducible apply TouchesR.ite
    | with_reducible apply Touches.ite
    | ((with_reducible apply command_touches); (case hm => rfl))
    | ((with_reducible apply complete_touches); (case hm => rfl))
    | ((with_reducible apply warmStart_touches); (case hm => rfl))

theorem execWresetNAssert_touches {M : Nat} {r : State} (a0 : Nat) (s : State) (hs : Touches M r s) (hm : 0x38eb25d6 ||| M = M) :
    TouchesR M r (execWresetNAssert a0 s) := by
  refine TouchesR.step hs ?_ hm
  clear hs hm r M
  unfold execWresetNAssert
  repeat' first
    | with_reducible assumption
    | with_reducible apply Touches.refl
    | (extract_lets -underBinder +onlyGivenNames x; (have hty : TypeOf x = State := by with_reducible rfl); clear hty; apply Touches.cut 0x38eb25d6 s x; (case' kk => (clear_value x; intro _)); (case' vv => (unfold x; clear x)))
    | (extract_lets -underBinder +onlyGivenNames x; try clear_value x)
    | with_reducible apply TouchesR.next
    | with_reducible apply TouchesR.fault
    | with_reducible apply TouchesR.ite
    | with_reducible apply Touches.ite
    | ((with_reducible apply warmStart_touches); (case hm => rfl))
    | ((with_reducible apply Touches.rst); (case hm => rfl))

theorem execWresetNRelease_touches {M : Nat} {r : State} (a0 : Nat) (s : State) (hs : Touches M r s) (hm : 0x20210004 ||| M = M) :
    TouchesR M r (execWresetNRelease a0 s) := by
  refine TouchesR.step hs ?_ hm
  clear hs hm r M
  unfold execWresetNRelease
  repeat' first
    | with_reducible assumption
    | with_reducible apply Touches.refl
    | (extract_lets -underBinder +onlyGivenNames x; (have hty : TypeOf x = State := by with_reducible rfl); clear hty; apply Touches.cut 0x20210004 s x; (case' kk => (clear_value x; intro _)); (case' vv => (unfold x; clear x)))
    | (extract_lets -underBinder +onlyGivenNames x; try clear_value x)
    | with_reducible apply TouchesR.next
    | with_reducible apply TouchesR.fault
    | with_reducible apply TouchesR.ite
    | with_reducible apply Touches.ite
    | ((with_reducible apply warmForward_touches); (case hm => rfl))
    | split
    | ((with_reducible apply Touches.rst); (case hm => rfl))

theorem warmResume_touches {M : Nat} {r : State} (s : State) (hs : Touches M r s) (hm : 0x208b25d6 ||| M = M) :
    Touches M r (warmResume s) := by
  refine Touches.step hs ?_ hm
  clear hs hm r M
  unfold warmResume
  repeat' first
    | with_reducible assumption
    | with_reducible apply Touches.refl
    | (extract_lets -underBinder +onlyGivenNames x; (have hty : TypeOf x = State := by with_reducible rfl); clear hty; apply Touches.cut 0x208b25d6 s x; (case' kk => (clear_value x; intro _)); (case' vv => (unfold x; clear x)))
    | (extract_lets -underBinder +onlyGivenNames x; try clear_value x)
    | with_reducible apply Touches.ite
    | ((with_reducible apply drainStart_touches); (case hm => rfl))
    | split
    | ((with_reducible apply Touches.rst); (case hm => rfl))

end Sys2Proof.Machine
end

