-- ==== Sys2Proof/Laws/Pair.lean ====
section
/-! SUPPORT. What each function of Machine/Pair.lean touches: one lemma per function that answers a state. -/

set_option linter.tactic.unusedName false

namespace Sys2Proof.Machine

theorem State.modPair_touches {M : Nat} {r : State} (s : State) (a1 : PairSt → PairSt) (hs : Touches M r s) (hm : 0x1000000 ||| M = M) :
    Touches M r (State.modPair s a1) := by
  refine Touches.step hs ?_ hm
  clear hs hm r M
  unfold State.modPair
  repeat' first
    | with_reducible assumption
    | with_reducible apply Touches.refl
    | ((with_reducible apply Touches.pair); (case hm => rfl))

theorem becomeCold_touches {M : Nat} {r : State} (s : State) (hs : Touches M r s) (hm : 0xcdff77fe ||| M = M) :
    Touches M r (becomeCold s) := by
  refine Touches.step hs ?_ hm
  clear hs hm r M
  unfold becomeCold
  repeat' first
    | with_reducible assumption
    | with_reducible apply Touches.refl
    | (extract_lets -underBinder +onlyGivenNames x; (have hty : TypeOf x = State := by with_reducible rfl); clear hty; apply Touches.cut 0xcdff77fe s x; (case' kk => (clear_value x; intro _)); (case' vv => (unfold x; clear x)))
    | (extract_lets -underBinder +onlyGivenNames x; try clear_value x)
    | with_reducible apply Touches.ite
    | ((with_reducible apply raise_touches); (case hm => rfl))
    | ((with_reducible apply State.modPair_touches); (case hm => rfl))
    | ((with_reducible apply commitEntry_touches); (case hm => rfl))
    | ((with_reducible apply setRole_touches); (case hm => rfl))
    | ((with_reducible apply writeWaiting_touches); (case hm => rfl))

theorem ckptApply_touches {M : Nat} {r : State} (a0 : Sys2Proof.Ckpt) (s : State) (hs : Touches M r s) (hm : 0x1000006 ||| M = M) :
    Touches M r (ckptApply a0 s) := by
  refine Touches.step hs ?_ hm
  clear hs hm r M
  unfold ckptApply
  repeat' first
    | with_reducible assumption
    | with_reducible apply Touches.refl
    | (extract_lets -underBinder +onlyGivenNames x; (have hty : TypeOf x = State := by with_reducible rfl); clear hty; apply Touches.cut 0x1000006 s x; (case' kk => (clear_value x; intro _)); (case' vv => (unfold x; clear x)))
    | (extract_lets -underBinder +onlyGivenNames x; try clear_value x)
    | ((with_reducible apply State.bump_touches); (case hm => rfl))
    | ((with_reducible apply State.setFld_touches); (case hm => rfl))
    | ((with_reducible apply State.modPair_touches); (case hm => rfl))

theorem ckptBad_touches {M : Nat} {r : State} (a0 : Nat) (a1 : Nat) (s : State) (hs : Touches M r s) (hm : 0x1c6 ||| M = M) :
    Touches M r (ckptBad a0 a1 s) := by
  refine Touches.step hs ?_ hm
  clear hs hm r M
  unfold ckptBad
  repeat' first
    | with_reducible assumption
    | with_reducible apply Touches.refl
    | ((with_reducible apply raise_touches); (case hm => rfl))
    | ((with_reducible apply State.bump_touches); (case hm => rfl))

theorem decideAs_touches {M : Nat} {r : State} (a0 : Nat) (s : State) (hs : Touches M r s) (hm : 0x10b21d6 ||| M = M) :
    Touches M r (decideAs a0 s) := by
  refine Touches.step hs ?_ hm
  clear hs hm r M
  unfold decideAs
  repeat' first
    | with_reducible assumption
    | with_reducible apply Touches.refl
    | ((with_reducible apply setRole_touches); (case hm => rfl))
    | ((with_reducible apply State.modPair_touches); (case hm => rfl))

theorem decideRole_touches {M : Nat} {r : State} (a0 : Sys2Proof.Heartbeat) (s : State) (hs : Touches M r s) (hm : 0x10b21d6 ||| M = M) :
    Touches M r (decideRole a0 s) := by
  refine Touches.step hs ?_ hm
  clear hs hm r M
  unfold decideRole
  repeat' first
    | with_reducible assumption
    | with_reducible apply Touches.refl
    | (extract_lets -underBinder +onlyGivenNames x; (have hty : TypeOf x = State := by with_reducible rfl); clear hty; apply Touches.cut 0x10b21d6 s x; (case' kk => (clear_value x; intro _)); (case' vv => (unfold x; clear x)))
    | (extract_lets -underBinder +onlyGivenNames x; try clear_value x)
    | with_reducible apply Touches.ite
    | ((with_reducible apply decideAs_touches); (case hm => rfl))

theorem execBusFenceElapsed_touches {M : Nat} {r : State} (s : State) (hs : Touches M r s) (hm : 0x10801c6 ||| M = M) :
    TouchesR M r (execBusFenceElapsed s) := by
  refine TouchesR.step hs ?_ hm
  clear hs hm r M
  unfold execBusFenceElapsed
  repeat' first
    | with_reducible assumption
    | with_reducible apply Touches.refl
    | (extract_lets -underBinder +onlyGivenNames x; (have hty : TypeOf x = State := by with_reducible rfl); clear hty; apply Touches.cut 0x10801c6 s x; (case' kk => (clear_value x; intro _)); (case' vv => (unfold x; clear x)))
    | (extract_lets -underBinder +onlyGivenNames x; try clear_value x)
    | with_reducible apply TouchesR.next
    | with_reducible apply TouchesR.fault
    | with_reducible apply TouchesR.ite
    | with_reducible apply Touches.ite
    | ((with_reducible apply State.modGw_touches); (case hm => rfl))
    | ((with_reducible apply State.modPair_touches); (case hm => rfl))
    | ((with_reducible apply raise_touches); (case hm => rfl))
    | split

theorem execCheckpointReceived_touches {M : Nat} {r : State} (a0 : Sys2Proof.Ckpt) (a1 : Fin 3) (s : State) (hs : Touches M r s) (hm : 0xcdff77fe ||| M = M) :
    TouchesR M r (execCheckpointReceived a0 a1 s) := by
  refine TouchesR.step hs ?_ hm
  clear hs hm r M
  unfold execCheckpointReceived
  repeat' first
    | with_reducible assumption
    | with_reducible apply Touches.refl
    | (extract_lets -underBinder +onlyGivenNames x; (have hty : TypeOf x = State := by with_reducible rfl); clear hty; apply Touches.cut 0xcdff77fe s x; (case' kk => (clear_value x; intro _)); (case' vv => (unfold x; clear x)))
    | (extract_lets -underBinder +onlyGivenNames x; try clear_value x)
    | with_reducible apply TouchesR.next
    | with_reducible apply TouchesR.fault
    | with_reducible apply TouchesR.ite
    | with_reducible apply Touches.ite
    | ((with_reducible apply ckptBad_touches); (case hm => rfl))
    | ((with_reducible apply ckptApply_touches); (case hm => rfl))
    | ((with_reducible apply measureDelta_touches); (case hm => rfl))
    | ((with_reducible apply becomeCold_touches); (case hm => rfl))

theorem sendCkpt_touches {M : Nat} {r : State} (s : State) (hs : Touches M r s) (hm : 0x100001e ||| M = M) :
    Touches M r (sendCkpt s) := by
  refine Touches.step hs ?_ hm
  clear hs hm r M
  unfold sendCkpt
  repeat' first
    | with_reducible assumption
    | with_reducible apply Touches.refl
    | (extract_lets -underBinder +onlyGivenNames x; (have hty : TypeOf x = State := by with_reducible rfl); clear hty; apply Touches.cut 0x100001e s x; (case' kk => (clear_value x; intro _)); (case' vv => (unfold x; clear x)))
    | (extract_lets -underBinder +onlyGivenNames x; try clear_value x)
    | ((with_reducible apply State.bump_touches); (case hm => rfl))
    | ((with_reducible apply State.setFld_touches); (case hm => rfl))
    | ((with_reducible apply State.drew_touches); (case hm => rfl))
    | ((with_reducible apply State.emit_touches); (case hm => rfl))
    | ((with_reducible apply State.modPair_touches); (case hm => rfl))

theorem execCheckpointSend_touches {M : Nat} {r : State} (s : State) (hs : Touches M r s) (hm : 0x100001e ||| M = M) :
    TouchesR M r (execCheckpointSend s) := by
  refine TouchesR.step hs ?_ hm
  clear hs hm r M
  unfold execCheckpointSend
  repeat' first
    | with_reducible assumption
    | with_reducible apply Touches.refl
    | with_reducible apply TouchesR.next
    | with_reducible apply TouchesR.fault
    | with_reducible apply TouchesR.ite
    | with_reducible apply Touches.ite
    | ((with_reducible apply sendCkpt_touches); (case hm => rfl))

theorem execFenceLineHigh_touches {M : Nat} {r : State} (a0 : Bool) (a1 : Nat) (s : State) (hs : Touches M r s) (hm : 0x1000012 ||| M = M) :
    TouchesR M r (execFenceLineHigh a0 a1 s) := by
  refine TouchesR.step hs ?_ hm
  clear hs hm r M
  unfold execFenceLineHigh
  repeat' first
    | with_reducible assumption
    | with_reducible apply Touches.refl
    | with_reducible apply TouchesR.next
    | with_reducible apply TouchesR.fault
    | with_reducible apply TouchesR.ite
    | with_reducible apply Touches.ite
    | ((with_reducible apply setLine_touches); (case hm => rfl))
    | ((with_reducible apply State.setFld_touches); (case hm => rfl))
    | ((with_reducible apply State.modPair_touches); (case hm => rfl))

theorem ownLow_touches {M : Nat} {r : State} (s : State) (hs : Touches M r s) (hm : 0x10b21d6 ||| M = M) :
    Touches M r (ownLow s) := by
  refine Touches.step hs ?_ hm
  clear hs hm r M
  unfold ownLow
  repeat' first
    | with_reducible assumption
    | with_reducible apply Touches.refl
    | ((with_reducible apply portsDestsLost_touches); (case hm => rfl))
    | (extract_lets -underBinder +onlyGivenNames x; (have hty : TypeOf x = State := by with_reducible rfl); clear hty; apply Touches.cut 0x10b21d6 s x; (case' kk => (clear_value x; intro _)); (case' vv => (unfold x; clear x)))
    | (extract_lets -underBinder +onlyGivenNames x; try clear_value x)
    | with_reducible apply Touches.ite
    | ((with_reducible apply fenceFlush_touches); (case hm => rfl))
    | ((with_reducible apply setLine_touches); (case hm => rfl))
    | ((with_reducible apply State.modPair_touches); (case hm => rfl))
    | ((with_reducible apply raise_touches); (case hm => rfl))
    | ((with_reducible apply setRole_touches); (case hm => rfl))

theorem takeover_touches {M : Nat} {r : State} (a0 : Bool) (s : State) (hs : Touches M r s) (hm : 0x9ab25d6 ||| M = M) :
    Touches M r (takeover a0 s) := by
  refine Touches.step hs ?_ hm
  clear hs hm r M
  unfold takeover
  repeat' first
    | with_reducible assumption
    | with_reducible apply Touches.refl
    | (extract_lets -underBinder +onlyGivenNames x; (have hty : TypeOf x = State := by with_reducible rfl); clear hty; apply Touches.cut 0x9ab25d6 s x; (case' kk => (clear_value x; intro _)); (case' vv => (unfold x; clear x)))
    | (extract_lets -underBinder +onlyGivenNames x; try clear_value x)
    | with_reducible apply Touches.ite
    | ((with_reducible apply State.modPair_touches); (case hm => rfl))
    | ((with_reducible apply State.setFld_touches); (case hm => rfl))
    | ((with_reducible apply trigger_touches); (case hm => rfl))
    | ((with_reducible apply setRole_touches); (case hm => rfl))
    | ((with_reducible apply State.bump_touches); (case hm => rfl))

theorem peerLostEvent_touches {M : Nat} {r : State} (a0 : Nat) (s : State) (hs : Touches M r s) (hm : 0x1c6 ||| M = M) :
    Touches M r (peerLostEvent a0 s) := by
  refine Touches.step hs ?_ hm
  clear hs hm r M
  unfold peerLostEvent
  repeat' first
    | with_reducible assumption
    | with_reducible apply Touches.refl
    | ((with_reducible apply raise_touches); (case hm => rfl))

theorem takeFence_touches {M : Nat} {r : State} (s : State) (hs : Touches M r s) (hm : 0x9ab25d6 ||| M = M) :
    Touches M r (takeFence s) := by
  refine Touches.step hs ?_ hm
  clear hs hm r M
  unfold takeFence
  repeat' first
    | with_reducible assumption
    | with_reducible apply Touches.refl
    | with_reducible apply Touches.ite
    | ((with_reducible apply State.modPair_touches); (case hm => rfl))
    | ((with_reducible apply takeover_touches); (case hm => rfl))
    | ((with_reducible apply peerLostEvent_touches); (case hm => rfl))

theorem fencedActive_touches {M : Nat} {r : State} (a0 : Sys2Proof.Heartbeat) (s : State) (hs : Touches M r s) (hm : 0x9ab25d6 ||| M = M) :
    Touches M r (fencedActive a0 s) := by
  refine Touches.step hs ?_ hm
  clear hs hm r M
  unfold fencedActive
  repeat' first
    | with_reducible assumption
    | with_reducible apply Touches.refl
    | with_reducible apply Touches.ite
    | ((with_reducible apply takeFence_touches); (case hm => rfl))

theorem peerLineLow_touches {M : Nat} {r : State} (s : State) (hs : Touches M r s) (hm : 0x9ab25d6 ||| M = M) :
    Touches M r (peerLineLow s) := by
  refine Touches.step hs ?_ hm
  clear hs hm r M
  unfold peerLineLow
  repeat' first
    | with_reducible assumption
    | with_reducible apply Touches.refl
    | (extract_lets -underBinder +onlyGivenNames x; (have hty : TypeOf x = State := by with_reducible rfl); clear hty; apply Touches.cut 0x9ab25d6 s x; (case' kk => (clear_value x; intro _)); (case' vv => (unfold x; clear x)))
    | (extract_lets -underBinder +onlyGivenNames x; try clear_value x)
    | with_reducible apply Touches.ite
    | ((with_reducible apply State.setFld_touches); (case hm => rfl))
    | ((with_reducible apply State.modPair_touches); (case hm => rfl))
    | ((with_reducible apply takeFence_touches); (case hm => rfl))
    | ((with_reducible apply peerLostEvent_touches); (case hm => rfl))

theorem execFenceLineLow_touches {M : Nat} {r : State} (a0 : Bool) (a1 : Nat) (s : State) (hs : Touches M r s) (hm : 0x9ab25d6 ||| M = M) :
    TouchesR M r (execFenceLineLow a0 a1 s) := by
  refine TouchesR.step hs ?_ hm
  clear hs hm r M
  unfold execFenceLineLow
  repeat' first
    | with_reducible assumption
    | with_reducible apply Touches.refl
    | with_reducible apply TouchesR.next
    | with_reducible apply TouchesR.fault
    | with_reducible apply TouchesR.ite
    | with_reducible apply Touches.ite
    | ((with_reducible apply ownLow_touches); (case hm => rfl))
    | ((with_reducible apply peerLineLow_touches); (case hm => rfl))

theorem execFenceWaitExpiry_touches {M : Nat} {r : State} (s : State) (hs : Touches M r s) (hm : 0x9ab25d6 ||| M = M) :
    TouchesR M r (execFenceWaitExpiry s) := by
  refine TouchesR.step hs ?_ hm
  clear hs hm r M
  unfold execFenceWaitExpiry
  repeat' first
    | with_reducible assumption
    | with_reducible apply Touches.refl
    | with_reducible apply TouchesR.next
    | with_reducible apply TouchesR.fault
    | with_reducible apply TouchesR.ite
    | with_reducible apply Touches.ite
    | ((with_reducible apply takeover_touches); (case hm => rfl))
    | split

theorem execHandoverFence_touches {M : Nat} {r : State} (s : State) (hs : Touches M r s) (hm : 0x12b21d6 ||| M = M) :
    TouchesR M r (execHandoverFence s) := by
  refine TouchesR.step hs ?_ hm
  clear hs hm r M
  unfold execHandoverFence
  repeat' first
    | with_reducible assumption
    | with_reducible apply Touches.refl
    | (extract_lets -underBinder +onlyGivenNames x; (have hty : TypeOf x = State := by with_reducible rfl); clear hty; apply Touches.cut 0x12b21d6 s x; (case' kk => (clear_value x; intro _)); (case' vv => (unfold x; clear x)))
    | (extract_lets -underBinder +onlyGivenNames x; try clear_value x)
    | with_reducible apply TouchesR.next
    | with_reducible apply TouchesR.fault
    | ((with_reducible apply dropQueued_touches); (case hm => rfl))
    | ((with_reducible apply setRole_touches); (case hm => rfl))
    | ((with_reducible apply State.modPair_touches); (case hm => rfl))
    | ((with_reducible apply slicesGo_touches); (case hm => rfl))
    | ((with_reducible apply setAddr_touches); (case hm => rfl))
    | split

theorem modeClash_touches {M : Nat} {r : State} (a0 : Sys2Proof.Heartbeat) (s : State) (hs : Touches M r s) (hm : 0x10b21d6 ||| M = M) :
    Touches M r (modeClash a0 s) := by
  refine Touches.step hs ?_ hm
  clear hs hm r M
  unfold modeClash
  repeat' first
    | with_reducible assumption
    | with_reducible apply Touches.refl
    | (extract_lets -underBinder +onlyGivenNames x; (have hty : TypeOf x = State := by with_reducible rfl); clear hty; apply Touches.cut 0x10b21d6 s x; (case' kk => (clear_value x; intro _)); (case' vv => (unfold x; clear x)))
    | (extract_lets -underBinder +onlyGivenNames x; try clear_value x)
    | with_reducible apply Touches.ite
    | ((with_reducible apply State.modPair_touches); (case hm => rfl))
    | ((with_reducible apply raise_touches); (case hm => rfl))
    | ((with_reducible apply decideAs_touches); (case hm => rfl))

theorem handoverReady_touches {M : Nat} {r : State} (a0 : Sys2Proof.Heartbeat) (s : State) (hs : Touches M r s) (hm : 0x10001c6 ||| M = M) :
    Touches M r (handoverReady a0 s) := by
  refine Touches.step hs ?_ hm
  clear hs hm r M
  unfold handoverReady
  repeat' first
    | with_reducible assumption
    | with_reducible apply Touches.refl
    | (extract_lets -underBinder +onlyGivenNames x; (have hty : TypeOf x = State := by with_reducible rfl); clear hty; apply Touches.cut 0x10001c6 s x; (case' kk => (clear_value x; intro _)); (case' vv => (unfold x; clear x)))
    | (extract_lets -underBinder +onlyGivenNames x; try clear_value x)
    | with_reducible apply Touches.ite
    | ((with_reducible apply raise_touches); (case hm => rfl))
    | ((with_reducible apply State.modPair_touches); (case hm => rfl))

theorem execHeartbeatReceived_touches {M : Nat} {r : State} (a0 : Sys2Proof.Heartbeat) (s : State) (hs : Touches M r s) (hm : 0x9ab25d6 ||| M = M) :
    TouchesR M r (execHeartbeatReceived a0 s) := by
  refine TouchesR.step hs ?_ hm
  clear hs hm r M
  unfold execHeartbeatReceived
  repeat' first
    | with_reducible assumption
    | with_reducible apply Touches.refl
    | (extract_lets -underBinder +onlyGivenNames x; (have hty : TypeOf x = State := by with_reducible rfl); clear hty; apply Touches.cut 0x9ab25d6 s x; (case' kk => (clear_value x; intro _)); (case' vv => (unfold x; clear x)))
    | (extract_lets -underBinder +onlyGivenNames x; try clear_value x)
    | with_reducible apply TouchesR.next
    | with_reducible apply TouchesR.fault
    | with_reducible apply TouchesR.ite
    | with_reducible apply Touches.ite
    | ((with_reducible apply State.setFld_touches); (case hm => rfl))
    | ((with_reducible apply State.modPair_touches); (case hm => rfl))
    | ((with_reducible apply modeClash_touches); (case hm => rfl))
    | ((with_reducible apply decideRole_touches); (case hm => rfl))
    | ((with_reducible apply handoverReady_touches); (case hm => rfl))
    | ((with_reducible apply fencedActive_touches); (case hm => rfl))

theorem execHeartbeatSend_touches {M : Nat} {r : State} (s : State) (hs : Touches M r s) (hm : 0x1000010 ||| M = M) :
    TouchesR M r (execHeartbeatSend s) := by
  refine TouchesR.step hs ?_ hm
  clear hs hm r M
  unfold execHeartbeatSend
  repeat' first
    | with_reducible assumption
    | with_reducible apply Touches.refl
    | with_reducible apply TouchesR.next
    | with_reducible apply TouchesR.fault
    | with_reducible apply TouchesR.ite
    | with_reducible apply Touches.ite
    | ((with_reducible apply State.emit_touches); (case hm => rfl))
    | ((with_reducible apply State.modPair_touches); (case hm => rfl))

theorem execPairHandover_touches {M : Nat} {r : State} (a0 : Sys2Proof.CmdCtx) (s : State) (hs : Touches M r s) (hm : 0x90000de ||| M = M) :
    TouchesR M r (execPairHandover a0 s) := by
  refine TouchesR.step hs ?_ hm
  clear hs hm r M
  unfold execPairHandover
  repeat' first
    | with_reducible assumption
    | (intro _; try dsimp -zeta only)
    | (extract_lets -underBinder +onlyGivenNames x; (have hty : TypeOf x = State := by with_reducible rfl); clear hty; apply Touches.cut 0x90000de s x; (case' kk => (clear_value x; intro _)); (case' vv => (unfold x; clear x)))
    | (extract_lets -underBinder +onlyGivenNames x; try clear_value x)
    | with_reducible apply Touches.refl
    | with_reducible apply TouchesR.next
    | with_reducible apply TouchesR.fault
    | with_reducible apply TouchesR.ite
    | with_reducible apply Touches.ite
    | ((with_reducible apply command_touches); (case hm => rfl))
    | ((with_reducible apply complete_touches); (case hm => rfl))
    | ((with_reducible apply State.emit_touches); (case hm => rfl))
    | ((with_reducible apply sendCkpt_touches); (case hm => rfl))
    | ((with_reducible apply State.modPair_touches); (case hm => rfl))

theorem execPeerLost_touches {M : Nat} {r : State} (s : State) (hs : Touches M r s) (hm : 0x9ab25d6 ||| M = M) :
    TouchesR M r (execPeerLost s) := by
  refine TouchesR.step hs ?_ hm
  clear hs hm r M
  unfold execPeerLost
  repeat' first
    | with_reducible assumption
    | with_reducible apply Touches.refl
    | (extract_lets -underBinder +onlyGivenNames x; (have hty : TypeOf x = State := by with_reducible rfl); clear hty; apply Touches.cut 0x9ab25d6 s x; (case' kk => (clear_value x; intro _)); (case' vv => (unfold x; clear x)))
    | (extract_lets -underBinder +onlyGivenNames x; try clear_value x)
    | with_reducible apply TouchesR.next
    | with_reducible apply TouchesR.fault
    | with_reducible apply TouchesR.ite
    | with_reducible apply Touches.ite
    | ((with_reducible apply State.setFld_touches); (case hm => rfl))
    | ((with_reducible apply State.modPair_touches); (case hm => rfl))
    | ((with_reducible apply decideAs_touches); (case hm => rfl))
    | ((with_reducible apply peerLostEvent_touches); (case hm => rfl))
    | ((with_reducible apply State.bump_touches); (case hm => rfl))
    | ((with_reducible apply takeover_touches); (case hm => rfl))

theorem restoreStream_touches {M : Nat} {r : State} (a0 : Nat) (a1 : Sys2Proof.CkStream) (s : State) (hs : Touches M r s) (hm : 0x225d6 ||| M = M) :
    Touches M r (restoreStream a0 a1 s) := by
  refine Touches.step hs ?_ hm
  clear hs hm r M
  unfold restoreStream
  repeat' first
    | with_reducible assumption
    | (intro _; try dsimp -zeta only)
    | (extract_lets -underBinder +onlyGivenNames x; (have hty : TypeOf x = State := by with_reducible rfl); clear hty; apply Touches.cut 0x225d6 s x; (case' kk => (clear_value x; intro _)); (case' vv => (unfold x; clear x)))
    | (extract_lets -underBinder +onlyGivenNames x; try clear_value x)
    | with_reducible apply Touches.refl
    | with_reducible apply Touches.ite
    | ((with_reducible apply State.putStream_touches); (case hm => rfl))
    | ((with_reducible apply State.modTab_touches); (case hm => rfl))
    | ((with_reducible apply sidHops_touches); (case hm => rfl))
    | with_reducible apply Touches.foldlD

theorem restoreCkpt_touches {M : Nat} {r : State} (a0 : Nat) (a1 : Sys2Proof.Ckpt) (s : State) (hs : Touches M r s) (hm : 0x8a27d6 ||| M = M) :
    Touches M r (restoreCkpt a0 a1 s) := by
  refine Touches.step hs ?_ hm
  clear hs hm r M
  unfold restoreCkpt
  repeat' first
    | with_reducible assumption
    | (intro _; try dsimp -zeta only)
    | (extract_lets -underBinder +onlyGivenNames x; (have hty : TypeOf x = State := by with_reducible rfl); clear hty; apply Touches.cut 0x8a27d6 s x; (case' kk => (clear_value x; intro _)); (case' vv => (unfold x; clear x)))
    | (extract_lets -underBinder +onlyGivenNames x)
    | with_reducible apply Touches.refl
    | with_reducible apply Touches.ite
    | ((with_reducible apply restoreStream_touches); (case hm => rfl))
    | ((with_reducible apply State.modTab_touches); (case hm => rfl))
    | ((with_reducible apply tblWrite_touches); (case hm => rfl))
    | ((with_reducible apply showRoots_touches); (case hm => rfl))
    | ((with_reducible apply State.modFab_touches); (case hm => rfl))
    | ((with_reducible apply State.setFld_touches); (case hm => rfl))
    | ((with_reducible apply State.modLin_touches); (case hm => rfl))
    | ((with_reducible apply State.modImage_touches); (case hm => rfl))
    | ((with_reducible apply sillAll_touches); (case hm => rfl))
    | ((with_reducible apply State.setReg_touches); (case hm => rfl))
    | with_reducible apply Touches.foldlD
    | ((with_reducible apply Touches.fst); (case eqn => assumption))
    | ((with_reducible apply Touches.time); (case hm => rfl); (case hl => rfl))

theorem execTakeoverRestoreDone_touches {M : Nat} {r : State} (s : State) (hs : Touches M r s) (hm : 0x38b27d6 ||| M = M) :
    TouchesR M r (execTakeoverRestoreDone s) := by
  refine TouchesR.step hs ?_ hm
  clear hs hm r M
  unfold execTakeoverRestoreDone
  repeat' first
    | with_reducible assumption
    | with_reducible apply Touches.refl
    | (extract_lets -underBinder +onlyGivenNames x; (have hty : TypeOf x = State := by with_reducible rfl); clear hty; apply Touches.cut 0x38b27d6 s x; (case' kk => (clear_value x; intro _)); (case' vv => (unfold x; clear x)))
    | (extract_lets -underBinder +onlyGivenNames x; try clear_value x)
    | with_reducible apply TouchesR.next
    | with_reducible apply TouchesR.fault
    | with_reducible apply TouchesR.ite
    | with_reducible apply Touches.ite
    | ((with_reducible apply restoreCkpt_touches); (case hm => rfl))
    | ((with_reducible apply epochEvents_touches); (case hm => rfl))
    | ((with_reducible apply writeEpochs_touches); (case hm => rfl))
    | ((with_reducible apply setRole_touches); (case hm => rfl))
    | ((with_reducible apply State.modPair_touches); (case hm => rfl))
    | ((with_reducible apply raise_touches); (case hm => rfl))
    | split

theorem pairCfgWrite_touches {M : Nat} {r : State} (a0 : Nat) (s : State) (hs : Touches M r s) (hm : 0x102 ||| M = M) :
    Touches M r (pairCfgWrite a0 s) := by
  refine Touches.step hs ?_ hm
  clear hs hm r M
  unfold pairCfgWrite
  repeat' first
    | with_reducible assumption
    | with_reducible apply Touches.refl
    | with_reducible apply Touches.ite
    | ((with_reducible apply handleIf_touches); (case hm => rfl))
    | ((with_reducible apply State.setReg_touches); (case hm => rfl))

theorem pairEval_touches {M : Nat} {r : State} (s : State) (hs : Touches M r s) (hm : 0x10b21d6 ||| M = M) :
    Touches M r (pairEval s) := by
  refine Touches.step hs ?_ hm
  clear hs hm r M
  unfold pairEval
  repeat' first
    | with_reducible assumption
    | with_reducible apply Touches.refl
    | (extract_lets -underBinder +onlyGivenNames x; (have hty : TypeOf x = State := by with_reducible rfl); clear hty; apply Touches.cut 0x10b21d6 s x; (case' kk => (clear_value x; intro _)); (case' vv => (unfold x; clear x)))
    | (extract_lets -underBinder +onlyGivenNames x; try clear_value x)
    | with_reducible apply Touches.ite
    | ((with_reducible apply setRole_touches); (case hm => rfl))

end Sys2Proof.Machine
end

