-- ==== Sys2Proof/Laws/Timekeeper.lean ====
section
/-! SUPPORT. What each function of Machine/Timekeeper.lean touches: one lemma per function that answers a state. -/

set_option linter.tactic.unusedName false

namespace Sys2Proof.Machine

theorem pendTime_touches {M : Nat} {r : State} (a0 : TimePend) (s : State) (hs : Touches M r s) (hm : 0x200 ||| M = M) :
    Touches M r (pendTime a0 s) := by
  refine Touches.step hs ?_ hm
  clear hs hm r M
  unfold pendTime
  repeat' first
    | with_reducible assumption
    | with_reducible apply Touches.refl
    | (extract_lets -underBinder +onlyGivenNames x; (have hty : TypeOf x = State := by with_reducible rfl); clear hty; apply Touches.cut 0x200 s x; (case' kk => (clear_value x; intro _)); (case' vv => (unfold x; clear x)))
    | (extract_lets -underBinder +onlyGivenNames x)
    | ((with_reducible apply Touches.time); (case hm => rfl); (case hl => rfl))

theorem State.setDom_touches {M : Nat} {r : State} (s : State) (a1 : Nat) (a2 : DomSt) (hs : Touches M r s) (hm : 0x200 ||| M = M) :
    Touches M r (State.setDom s a1 a2) := by
  refine Touches.step hs ?_ hm
  clear hs hm r M
  unfold State.setDom
  repeat' first
    | with_reducible assumption
    | with_reducible apply Touches.refl
    | (extract_lets -underBinder +onlyGivenNames x; (have hty : TypeOf x = State := by with_reducible rfl); clear hty; apply Touches.cut 0x200 s x; (case' kk => (clear_value x; intro _)); (case' vv => (unfold x; clear x)))
    | (extract_lets -underBinder +onlyGivenNames x)
    | with_reducible apply Touches.ite
    | ((with_reducible apply Touches.time); (case hm => rfl); (case hl => rfl))

theorem State.setInPin_touches {M : Nat} {r : State} (s : State) (a1 : Nat) (a2 : InPin) (hs : Touches M r s) (hm : 0x200 ||| M = M) :
    Touches M r (State.setInPin s a1 a2) := by
  refine Touches.step hs ?_ hm
  clear hs hm r M
  unfold State.setInPin
  repeat' first
    | with_reducible assumption
    | with_reducible apply Touches.refl
    | (extract_lets -underBinder +onlyGivenNames x; (have hty : TypeOf x = State := by with_reducible rfl); clear hty; apply Touches.cut 0x200 s x; (case' kk => (clear_value x; intro _)); (case' vv => (unfold x; clear x)))
    | (extract_lets -underBinder +onlyGivenNames x)
    | ((with_reducible apply Touches.time); (case hm => rfl); (case hl => rfl))

theorem applyTimeChange_touches {M : Nat} {r : State} (a0 : TimePend) (s : State) (hs : Touches M r s) (hm : 0x3d6 ||| M = M) :
    Touches M r (applyTimeChange a0 s) := by
  refine Touches.step hs ?_ hm
  clear hs hm r M
  unfold applyTimeChange
  repeat' first
    | with_reducible assumption
    | with_reducible apply Touches.refl
    | (extract_lets -underBinder +onlyGivenNames x; (have hty : TypeOf x = State := by with_reducible rfl); clear hty; apply Touches.cut 0x3d6 s x; (case' kk => (clear_value x; intro _)); (case' vv => (unfold x; clear x)))
    | (extract_lets -underBinder +onlyGivenNames x; try clear_value x)
    | with_reducible apply Touches.ite
    | ((with_reducible apply State.setDom_touches); (case hm => rfl))
    | ((with_reducible apply raise_touches); (case hm => rfl))
    | ((with_reducible apply complete_touches); (case hm => rfl))
    | split

theorem endPulses_touches {M : Nat} {r : State} (a0 : Nat → Bool) (a1 : Bool) (s : State) (hs : Touches M r s) (hm : 0x200 ||| M = M) :
    Touches M r (endPulses a0 a1 s) := by
  refine Touches.step hs ?_ hm
  clear hs hm r M
  unfold endPulses
  repeat' first
    | with_reducible assumption
    | with_reducible apply Touches.refl
    | (extract_lets -underBinder +onlyGivenNames x; (have hty : TypeOf x = State := by with_reducible rfl); clear hty; apply Touches.cut 0x200 s x; (case' kk => (clear_value x; intro _)); (case' vv => (unfold x; clear x)))
    | (extract_lets -underBinder +onlyGivenNames x)
    | with_reducible apply Touches.ite
    | split
    | ((with_reducible apply Touches.time); (case hm => rfl); (case hl => rfl))

theorem domainReset_touches {M : Nat} {r : State} (a0 : Nat) (s : State) (hs : Touches M r s) (hm : 0x202 ||| M = M) :
    Touches M r (domainReset a0 s) := by
  refine Touches.step hs ?_ hm
  clear hs hm r M
  unfold domainReset
  repeat' first
    | with_reducible assumption
    | with_reducible apply Touches.refl
    | ((with_reducible apply State.setFld_touches); (case hm => rfl))
    | (extract_lets -underBinder +onlyGivenNames x; (have hty : TypeOf x = State := by with_reducible rfl); clear hty; apply Touches.cut 0x202 s x; (case' kk => (clear_value x; intro _)); (case' vv => (unfold x; clear x)))
    | (extract_lets -underBinder +onlyGivenNames x; try clear_value x)
    | ((with_reducible apply State.setDom_touches); (case hm => rfl))
    | ((with_reducible apply endPulses_touches); (case hm => rfl))

theorem execPulseLeadingEdge_touches {M : Nat} {r : State} (a0 : Fin 4) (s : State) (hs : Touches M r s) (hm : 0x210 ||| M = M) :
    TouchesR M r (execPulseLeadingEdge a0 s) := by
  refine TouchesR.step hs ?_ hm
  clear hs hm r M
  unfold execPulseLeadingEdge
  repeat' first
    | with_reducible assumption
    | with_reducible apply Touches.refl
    | (extract_lets -underBinder +onlyGivenNames x; (have hty : TypeOf x = State := by with_reducible rfl); clear hty; apply Touches.cut 0x210 s x; (case' kk => (clear_value x; intro _)); (case' vv => (unfold x; clear x)))
    | (extract_lets -underBinder +onlyGivenNames x; try clear_value x)
    | with_reducible apply TouchesR.next
    | with_reducible apply TouchesR.fault
    | with_reducible apply TouchesR.ite
    | with_reducible apply Touches.ite
    | ((with_reducible apply State.setOutPin_touches); (case hm => rfl))
    | ((with_reducible apply State.emit_touches); (case hm => rfl))
    | split

theorem execPulseTrailingEdge_touches {M : Nat} {r : State} (a0 : Fin 4) (s : State) (hs : Touches M r s) (hm : 0x210 ||| M = M) :
    TouchesR M r (execPulseTrailingEdge a0 s) := by
  refine TouchesR.step hs ?_ hm
  clear hs hm r M
  unfold execPulseTrailingEdge
  repeat' first
    | with_reducible assumption
    | with_reducible apply Touches.refl
    | (extract_lets -underBinder +onlyGivenNames x; (have hty : TypeOf x = State := by with_reducible rfl); clear hty; apply Touches.cut 0x210 s x; (case' kk => (clear_value x; intro _)); (case' vv => (unfold x; clear x)))
    | (extract_lets -underBinder +onlyGivenNames x; try clear_value x)
    | with_reducible apply TouchesR.next
    | with_reducible apply TouchesR.fault
    | with_reducible apply TouchesR.ite
    | with_reducible apply Touches.ite
    | ((with_reducible apply State.emit_touches); (case hm => rfl))
    | ((with_reducible apply State.setOutPin_touches); (case hm => rfl))
    | split

theorem execTimeAdjEnd_touches {M : Nat} {r : State} (a0 : Fin 2) (s : State) (hs : Touches M r s) (hm : 0x3c6 ||| M = M) :
    TouchesR M r (execTimeAdjEnd a0 s) := by
  refine TouchesR.step hs ?_ hm
  clear hs hm r M
  unfold execTimeAdjEnd
  repeat' first
    | with_reducible assumption
    | with_reducible apply Touches.refl
    | (extract_lets -underBinder +onlyGivenNames x; (have hty : TypeOf x = State := by with_reducible rfl); clear hty; apply Touches.cut 0x3c6 s x; (case' kk => (clear_value x; intro _)); (case' vv => (unfold x; clear x)))
    | (extract_lets -underBinder +onlyGivenNames x; try clear_value x)
    | with_reducible apply TouchesR.next
    | with_reducible apply TouchesR.fault
    | with_reducible apply TouchesR.ite
    | with_reducible apply Touches.ite
    | ((with_reducible apply raise_touches); (case hm => rfl))
    | ((with_reducible apply State.setDom_touches); (case hm => rfl))
    | split

theorem execTimeCaptureEvent_touches {M : Nat} {r : State} (a0 : Fin 4) (s : State) (hs : Touches M r s) (hm : 0x3c6 ||| M = M) :
    TouchesR M r (execTimeCaptureEvent a0 s) := by
  refine TouchesR.step hs ?_ hm
  clear hs hm r M
  unfold execTimeCaptureEvent
  repeat' first
    | with_reducible assumption
    | with_reducible apply Touches.refl
    | (extract_lets -underBinder +onlyGivenNames x; (have hty : TypeOf x = State := by with_reducible rfl); clear hty; apply Touches.cut 0x3c6 s x; (case' kk => (clear_value x; intro _)); (case' vv => (unfold x; clear x)))
    | (extract_lets -underBinder +onlyGivenNames x; try clear_value x)
    | with_reducible apply TouchesR.next
    | with_reducible apply TouchesR.fault
    | with_reducible apply TouchesR.ite
    | with_reducible apply Touches.ite
    | ((with_reducible apply raise_touches); (case hm => rfl))
    | ((with_reducible apply State.setInPin_touches); (case hm => rfl))
    | ((with_reducible apply raiseAt_touches); (case hm => rfl))
    | split

theorem execTimeInCapture_touches {M : Nat} {r : State} (a0 : Fin 4) (a1 : Bool) (a2 : Bool) (a3 : Nat) (s : State) (hs : Touches M r s) (hm : 0x202 ||| M = M) :
    TouchesR M r (execTimeInCapture a0 a1 a2 a3 s) := by
  refine TouchesR.step hs ?_ hm
  clear hs hm r M
  unfold execTimeInCapture
  repeat' first
    | with_reducible assumption
    | with_reducible apply Touches.refl
    | (extract_lets -underBinder +onlyGivenNames x; (have hty : TypeOf x = State := by with_reducible rfl); clear hty; apply Touches.cut 0x202 s x; (case' kk => (clear_value x; intro _)); (case' vv => (unfold x; clear x)))
    | (extract_lets -underBinder +onlyGivenNames x; try clear_value x)
    | with_reducible apply TouchesR.next
    | with_reducible apply TouchesR.fault
    | with_reducible apply TouchesR.ite
    | with_reducible apply Touches.ite
    | ((with_reducible apply State.setInPin_touches); (case hm => rfl))
    | ((with_reducible apply State.setFld_touches); (case hm => rfl))

theorem readLastNs_touches {M : Nat} {r : State} (a0 : Sys2Proof.Src) (a1 : Nat) (s : State) (hs : Touches M r s) (hm : 0x20 ||| M = M) :
    Touches M r ((readLastNs a0 a1 s).2) := by
  refine Touches.step hs ?_ hm
  clear hs hm r M
  unfold readLastNs
  repeat' first
    | with_reducible assumption
    | with_reducible apply Touches.refl
    | (extract_lets -underBinder +onlyGivenNames x; (have hty : TypeOf x = State := by with_reducible rfl); clear hty; apply Touches.cut 0x20 s x; (case' kk => (clear_value x; intro _)); (case' vv => (unfold x; clear x)))
    | (extract_lets -underBinder +onlyGivenNames x; try clear_value x)
    | ((with_reducible apply setShadow_touches); (case hm => rfl))
    | (dsimp -zeta only)

theorem execTimeInLastNsRead_touches {M : Nat} {r : State} (a0 : Sys2Proof.Src) (a1 : Fin 4) (s : State) (hs : Touches M r s) (hm : 0x30 ||| M = M) :
    TouchesR M r (execTimeInLastNsRead a0 a1 s) := by
  refine TouchesR.step hs ?_ hm
  clear hs hm r M
  unfold execTimeInLastNsRead
  repeat' first
    | with_reducible assumption
    | (intro _; try dsimp -zeta only)
    | with_reducible apply Touches.refl
    | with_reducible apply TouchesR.next
    | with_reducible apply TouchesR.fault
    | ((with_reducible apply busRow_touches); (case hm => rfl))
    | ((with_reducible apply readLastNs_touches); (case hm => rfl))
    | ((with_reducible apply State.emit_touches); (case hm => rfl))
    | ((with_reducible apply Touches.snd); (case eqn => assumption))
    | split

theorem execTimePulseArm_touches {M : Nat} {r : State} (a0 : Sys2Proof.CmdCtx) (s : State) (hs : Touches M r s) (hm : 0x80002d0 ||| M = M) :
    TouchesR M r (execTimePulseArm a0 s) := by
  refine TouchesR.step hs ?_ hm
  clear hs hm r M
  unfold execTimePulseArm
  repeat' first
    | with_reducible assumption
    | (intro _; try dsimp -zeta only)
    | (extract_lets -underBinder +onlyGivenNames x; (have hty : TypeOf x = State := by with_reducible rfl); clear hty; apply Touches.cut 0x80002d0 s x; (case' kk => (clear_value x; intro _)); (case' vv => (unfold x; clear x)))
    | (extract_lets -underBinder +onlyGivenNames x; try clear_value x)
    | with_reducible apply Touches.refl
    | with_reducible apply TouchesR.next
    | with_reducible apply TouchesR.fault
    | with_reducible apply TouchesR.ite
    | with_reducible apply Touches.ite
    | ((with_reducible apply command_touches); (case hm => rfl))
    | ((with_reducible apply complete_touches); (case hm => rfl))
    | ((with_reducible apply State.setOutPin_touches); (case hm => rfl))

theorem execTimeRate_touches {M : Nat} {r : State} (a0 : Sys2Proof.CmdCtx) (s : State) (hs : Touches M r s) (hm : 0x80002d0 ||| M = M) :
    TouchesR M r (execTimeRate a0 s) := by
  refine TouchesR.step hs ?_ hm
  clear hs hm r M
  unfold execTimeRate
  repeat' first
    | with_reducible assumption
    | (intro _; try dsimp -zeta only)
    | (extract_lets -underBinder +onlyGivenNames x; (have hty : TypeOf x = State := by with_reducible rfl); clear hty; apply Touches.cut 0x80002d0 s x; (case' kk => (clear_value x; intro _)); (case' vv => (unfold x; clear x)))
    | (extract_lets -underBinder +onlyGivenNames x; try clear_value x)
    | with_reducible apply Touches.refl
    | with_reducible apply TouchesR.next
    | with_reducible apply TouchesR.fault
    | with_reducible apply TouchesR.ite
    | with_reducible apply Touches.ite
    | ((with_reducible apply command_touches); (case hm => rfl))
    | ((with_reducible apply complete_touches); (case hm => rfl))
    | ((with_reducible apply pendTime_touches); (case hm => rfl))

theorem execTimeStep_touches {M : Nat} {r : State} (a0 : Sys2Proof.CmdCtx) (s : State) (hs : Touches M r s) (hm : 0x80002d0 ||| M = M) :
    TouchesR M r (execTimeStep a0 s) := by
  refine TouchesR.step hs ?_ hm
  clear hs hm r M
  unfold execTimeStep
  repeat' first
    | with_reducible assumption
    | (intro _; try dsimp -zeta only)
    | (extract_lets -underBinder +onlyGivenNames x; (have hty : TypeOf x = State := by with_reducible rfl); clear hty; apply Touches.cut 0x80002d0 s x; (case' kk => (clear_value x; intro _)); (case' vv => (unfold x; clear x)))
    | (extract_lets -underBinder +onlyGivenNames x; try clear_value x)
    | with_reducible apply Touches.refl
    | with_reducible apply TouchesR.next
    | with_reducible apply TouchesR.fault
    | with_reducible apply TouchesR.ite
    | with_reducible apply Touches.ite
    | ((with_reducible apply command_touches); (case hm => rfl))
    | ((with_reducible apply complete_touches); (case hm => rfl))
    | ((with_reducible apply pendTime_touches); (case hm => rfl))
    | ((with_reducible apply State.setDom_touches); (case hm => rfl))

theorem takeTimeSnap_touches {M : Nat} {r : State} (s : State) (hs : Touches M r s) (hm : 0x2 ||| M = M) :
    Touches M r (takeTimeSnap s) := by
  refine Touches.step hs ?_ hm
  clear hs hm r M
  unfold takeTimeSnap
  dsimp only
  repeat' first
    | with_reducible assumption
    | with_reducible apply Touches.refl
    | (extract_lets -underBinder +onlyGivenNames x; (have hty : TypeOf x = State := by with_reducible rfl); clear hty; apply Touches.cut 0x2 s x; (case' kk => (clear_value x; intro _)); (case' vv => (unfold x; clear x)))
    | (extract_lets -underBinder +onlyGivenNames x; try clear_value x)
    | ((with_reducible apply State.setReg_touches); (case hm => rfl))

theorem tick_touches {M : Nat} {r : State} (s : State) (hs : Touches M r s) (hm : 0x600 ||| M = M) : Touches M r (tick s) := by
  refine Touches.step hs (F := 0x600) ?_ hm
  unfold tick
  refine Touches.ite ⟨by constructor <;> intro h <;> first | with_reducible rfl | exact absurd h (by decide) | rfl, ⟨rfl, List.suffix_refl _, Nat.le_refl _, id, id, ?_⟩⟩ (Touches.refl _ _)
  intro h
  show (s.time.lt + 2) % 2 = 0
  omega

theorem timeEffect_touches {M : Nat} {r : State} (a0 : Nat) (s : State) (hs : Touches M r s) (hm : 0x3d6 ||| M = M) :
    Touches M r (timeEffect a0 s) := by
  refine Touches.step hs ?_ hm
  clear hs hm r M
  unfold timeEffect
  repeat' first
    | with_reducible assumption
    | with_reducible apply Touches.refl
    | (extract_lets -underBinder +onlyGivenNames x; (have hty : TypeOf x = State := by with_reducible rfl); clear hty; apply Touches.cut 0x3d6 s x; (case' kk => (clear_value x; intro _)); (case' vv => (unfold x; clear x)))
    | (extract_lets -underBinder +onlyGivenNames x)
    | ((with_reducible apply applyTimeChange_touches); (case hm => rfl))
    | split
    | ((with_reducible apply Touches.time); (case hm => rfl); (case hl => rfl))

theorem writeDomCfg_touches {M : Nat} {r : State} (a0 : Nat) (a1 : Nat) (s : State) (hs : Touches M r s) (hm : 0x202 ||| M = M) :
    Touches M r (writeDomCfg a0 a1 s) := by
  refine Touches.step hs ?_ hm
  clear hs hm r M
  unfold writeDomCfg
  repeat' first
    | with_reducible assumption
    | with_reducible apply Touches.refl
    | (extract_lets -underBinder +onlyGivenNames x; (have hty : TypeOf x = State := by with_reducible rfl); clear hty; apply Touches.cut 0x202 s x; (case' kk => (clear_value x; intro _)); (case' vv => (unfold x; clear x)))
    | (extract_lets -underBinder +onlyGivenNames x; try clear_value x)
    | with_reducible apply Touches.ite
    | ((with_reducible apply State.setFld_touches); (case hm => rfl))
    | ((with_reducible apply State.setDom_touches); (case hm => rfl))

end Sys2Proof.Machine
end

