-- ==== Sys2Proof/Laws/Quiesce.lean ====
section
/-! SUPPORT. What each function of Machine/Quiesce.lean touches: one lemma per function that answers a state. -/

set_option linter.tactic.unusedName false

namespace Sys2Proof.Machine

theorem sessionDefaults_touches {M : Nat} {r : State} (a0 : Nat) (a1 : Nat) (s : State) (hs : Touches M r s) (hm : 0x2 ||| M = M) :
    Touches M r (sessionDefaults a0 a1 s) := by
  refine Touches.step hs ?_ hm
  clear hs hm r M
  unfold sessionDefaults
  repeat' first
    | with_reducible assumption
    | with_reducible apply Touches.refl
    | ((with_reducible apply loseRange_touches); (case hm => rfl))

theorem bufDefaults_touches {M : Nat} {r : State} (s : State) (hs : Touches M r s) (hm : 0x2 ||| M = M) :
    Touches M r (bufDefaults s) := by
  refine Touches.step hs ?_ hm
  clear hs hm r M
  unfold bufDefaults
  repeat' first
    | with_reducible assumption
    | (intro _; try dsimp -zeta only)
    | with_reducible apply Touches.refl
    | ((with_reducible apply State.setFld_touches); (case hm => rfl))
    | ((with_reducible apply sessionDefaults_touches); (case hm => rfl))
    | with_reducible apply Touches.foldlD

theorem carveEmpty_touches {M : Nat} {r : State} (s : State) (hs : Touches M r s) (hm : 0xb21d6 ||| M = M) :
    Touches M r (carveEmpty s) := by
  refine Touches.step hs ?_ hm
  clear hs hm r M
  unfold carveEmpty
  repeat' first
    | with_reducible assumption
    | with_reducible apply Touches.refl
    | ((with_reducible apply dropQueued_touches); (case hm => rfl))
    | ((with_reducible apply fenceFlush_touches); (case hm => rfl))
    | ((with_reducible apply drainCut_touches); (case hm => rfl))
    | ((with_reducible apply Touches.snd); (case eqn => assumption))

theorem stopEnded_touches {M : Nat} {r : State} (s : State) (hs : Touches M r s) (hm : 0x208b25d6 ||| M = M) :
    Touches M r (stopEnded s) := by
  refine Touches.step hs ?_ hm
  clear hs hm r M
  unfold stopEnded
  repeat' first
    | with_reducible assumption
    | with_reducible apply Touches.refl
    | ((with_reducible apply warmResume_touches); (case hm => rfl))

theorem fnDone_touches {M : Nat} {r : State} (a0 : Sys2Proof.CmdCtx) (a1 : Nat) (s : State) (hs : Touches M r s) (hm : 0x400000d0 ||| M = M) :
    Touches M r (fnDone a0 a1 s) := by
  refine Touches.step hs ?_ hm
  clear hs hm r M
  unfold fnDone
  repeat' first
    | with_reducible assumption
    | with_reducible apply Touches.refl
    | (extract_lets -underBinder +onlyGivenNames x; (have hty : TypeOf x = State := by with_reducible rfl); clear hty; apply Touches.cut 0x400000d0 s x; (case' kk => (clear_value x; intro _)); (case' vv => (unfold x; clear x)))
    | (extract_lets -underBinder +onlyGivenNames x; try clear_value x)
    | with_reducible apply Touches.ite
    | ((with_reducible apply complete_touches); (case hm => rfl))
    | split
    | ((with_reducible apply Touches.fn); (case hm => rfl))

theorem carveEnd_touches {M : Nat} {r : State} (a0 : Quiesce) (s : State) (hs : Touches M r s) (hm : 0x60ab25d6 ||| M = M) :
    Touches M r (carveEnd a0 s) := by
  refine Touches.step hs ?_ hm
  clear hs hm r M
  unfold carveEnd
  repeat' first
    | with_reducible assumption
    | with_reducible apply Touches.refl
    | (extract_lets -underBinder +onlyGivenNames x; (have hty : TypeOf x = State := by with_reducible rfl); clear hty; apply Touches.cut 0x60ab25d6 s x; (case' kk => (clear_value x; intro _)); (case' vv => (unfold x; clear x)))
    | (extract_lets -underBinder +onlyGivenNames x; try clear_value x)
    | with_reducible apply Touches.ite
    | ((with_reducible apply bufDefaults_touches); (case hm => rfl))
    | ((with_reducible apply slicesGo_touches); (case hm => rfl))
    | ((with_reducible apply stopEnded_touches); (case hm => rfl))
    | ((with_reducible apply fnDone_touches); (case hm => rfl))
    | split
    | ((with_reducible apply Touches.fn); (case hm => rfl))

theorem carveNew_touches {M : Nat} {r : State} (s : State) (hs : Touches M r s) (hm : 0x121d6 ||| M = M) :
    Touches M r (carveNew s) := by
  refine Touches.step hs ?_ hm
  clear hs hm r M
  unfold carveNew
  repeat' first
    | with_reducible assumption
    | with_reducible apply Touches.refl
    | with_reducible apply Touches.ite
    | ((with_reducible apply carve_touches); (case hm => rfl))
    | ((with_reducible apply sillAll_touches); (case hm => rfl))
    | ((with_reducible apply carvingCounts_touches); (case hm => rfl))
    | ((with_reducible apply emptyMem_touches); (case hm => rfl))

theorem carveNow_touches {M : Nat} {r : State} (a0 : Quiesce) (s : State) (hs : Touches M r s) (hm : 0x60ab25d6 ||| M = M) :
    Touches M r (carveNow a0 s) := by
  refine Touches.step hs ?_ hm
  clear hs hm r M
  unfold carveNow
  repeat' first
    | with_reducible assumption
    | with_reducible apply Touches.refl
    | ((with_reducible apply carveEnd_touches); (case hm => rfl))
    | ((with_reducible apply carveNew_touches); (case hm => rfl))
    | ((with_reducible apply carveEmpty_touches); (case hm => rfl))

theorem carveStart_touches {M : Nat} {r : State} (a0 : Option Sys2Proof.CmdCtx) (s : State) (hs : Touches M r s) (hm : 0x400b21d6 ||| M = M) :
    Touches M r (carveStart a0 s) := by
  refine Touches.step hs ?_ hm
  clear hs hm r M
  unfold carveStart
  repeat' first
    | with_reducible assumption
    | (intro _; try dsimp -zeta only)
    | (extract_lets -underBinder +onlyGivenNames x; (have hty : TypeOf x = State := by with_reducible rfl); clear hty; apply Touches.cut 0x400b21d6 s x; (case' kk => (clear_value x; intro _)); (case' vv => (unfold x; clear x)))
    | (extract_lets -underBinder +onlyGivenNames x; try clear_value x)
    | with_reducible apply Touches.refl
    | ((with_reducible apply batchClose_touches); (case hm => rfl))
    | with_reducible apply Touches.foldlD
    | ((with_reducible apply Touches.mem); (case hm => rfl))
    | ((with_reducible apply Touches.fn); (case hm => rfl))
    | ((with_reducible apply Touches.lit (F := 0x40010000)); (case l1 => with_reducible rfl); (case l2 => with_reducible rfl); (case l3 => with_reducible rfl); (case l4 => with_reducible rfl); (case l5 => rfl); (case hm => rfl); (case ag => (constructor <;> first | exact tb rfl | exact fun _ => rfl)))

theorem cryptoReset_touches {M : Nat} {r : State} (a0 : Bool) (s : State) (hs : Touches M r s) (hm : 0x400002 ||| M = M) :
    Touches M r (cryptoReset a0 s) := by
  refine Touches.step hs ?_ hm
  clear hs hm r M
  unfold cryptoReset
  repeat' first
    | with_reducible assumption
    | (intro _; try dsimp -zeta only)
    | (extract_lets -underBinder +onlyGivenNames x; (have hty : TypeOf x = State := by with_reducible rfl); clear hty; apply Touches.cut 0x400002 s x; (case' kk => (clear_value x; intro _)); (case' vv => (unfold x; clear x)))
    | (extract_lets -underBinder +onlyGivenNames x; try clear_value x)
    | with_reducible apply Touches.refl
    | ((with_reducible apply State.setFld_touches); (case hm => rfl))
    | ((with_reducible apply sessionDefaults_touches); (case hm => rfl))
    | with_reducible apply Touches.foldlD
    | ((with_reducible apply Touches.keys); (case hm => rfl))

theorem escTell_touches {M : Nat} {r : State} (a0 : Nat) (a1 : Nat) (a2 : Nat) (s : State) (hs : Touches M r s) (hm : 0x1c6 ||| M = M) :
    Touches M r (escTell a0 a1 a2 s) := by
  refine Touches.step hs ?_ hm
  clear hs hm r M
  unfold escTell
  repeat' first
    | with_reducible assumption
    | with_reducible apply Touches.refl
    | with_reducible apply Touches.ite
    | ((with_reducible apply raise_touches); (case hm => rfl))
    | ((with_reducible apply State.bump_touches); (case hm => rfl))

theorem forwardReset_touches {M : Nat} {r : State} (a0 : List Nat) (s : State) (hs : Touches M r s) (hm : 0x402 ||| M = M) :
    Touches M r (forwardReset a0 s) := by
  refine Touches.step hs ?_ hm
  clear hs hm r M
  unfold forwardReset
  repeat' first
    | with_reducible assumption
    | (intro _; try dsimp -zeta only)
    | (extract_lets -underBinder +onlyGivenNames x; (have hty : TypeOf x = State := by with_reducible rfl); clear hty; apply Touches.cut 0x402 s x; (case' kk => (clear_value x; intro _)); (case' vv => (unfold x; clear x)))
    | (extract_lets -underBinder +onlyGivenNames x; try clear_value x)
    | with_reducible apply Touches.refl
    | ((with_reducible apply State.setReg_touches); (case hm => rfl))
    | ((with_reducible apply State.modTab_touches); (case hm => rfl))
    | with_reducible apply Touches.foldlD

theorem hedgeQuiesce_touches {M : Nat} {r : State} (a0 : Bool) (s : State) (hs : Touches M r s) (hm : 0x1102 ||| M = M) :
    Touches M r (hedgeQuiesce a0 s) := by
  refine Touches.step hs ?_ hm
  clear hs hm r M
  unfold hedgeQuiesce
  repeat' first
    | with_reducible assumption
    | with_reducible apply Touches.refl
    | (extract_lets -underBinder +onlyGivenNames x; (have hty : TypeOf x = State := by with_reducible rfl); clear hty; apply Touches.cut 0x1102 s x; (case' kk => (clear_value x; intro _)); (case' vv => (unfold x; clear x)))
    | (extract_lets -underBinder +onlyGivenNames x; try clear_value x)
    | with_reducible apply Touches.ite
    | ((with_reducible apply hedgeCopied_touches); (case hm => rfl))
    | ((with_reducible apply hedgeFlipDo_touches); (case hm => rfl))
    | ((with_reducible apply hedgeFnReset_touches); (case hm => rfl))

theorem escalate_touches {M : Nat} {r : State} (a0 : Entry) (a1 : Bool) (s : State) (hs : Touches M r s) (hm : 0xf1cb35de ||| M = M) :
    Touches M r ((escalate a0 a1 s).1) := by
  refine Touches.step hs ?_ hm
  clear hs hm r M
  unfold escalate
  repeat' first
    | with_reducible assumption
    | (intro _; try dsimp -zeta only)
    | (extract_lets -underBinder +onlyGivenNames x; (have hty : TypeOf x = State := by with_reducible rfl); clear hty; apply Touches.cut 0xf1cb35de s x; (case' kk => (clear_value x; intro _)); (case' vv => (unfold x; clear x)))
    | (extract_lets -underBinder +onlyGivenNames x; try clear_value x)
    | with_reducible apply Touches.refl
    | ((with_reducible apply stopBegins_touches); (case hm => rfl))
    | with_reducible apply Touches.ite
    | ((with_reducible apply carveStart_touches); (case hm => rfl))
    | ((with_reducible apply forwardReset_touches); (case hm => rfl))
    | ((with_reducible apply hedgeQuiesce_touches); (case hm => rfl))
    | ((with_reducible apply pairEval_touches); (case hm => rfl))
    | ((with_reducible apply cryptoReset_touches); (case hm => rfl))
    | ((with_reducible apply windowClear_touches); (case hm => rfl))
    | ((with_reducible apply hostReset_touches); (case hm => rfl))
    | ((with_reducible apply supRestart_touches); (case hm => rfl))
    | ((with_reducible apply State.modSup_touches); (case hm => rfl))
    | with_reducible apply Touches.foldlD
    | split
    | (dsimp -zeta only)
    | ((with_reducible apply Touches.flt); (case hm => rfl))

theorem execCarvingFlipDrained_touches {M : Nat} {r : State} (s : State) (hs : Touches M r s) (hm : 0x60ab25d6 ||| M = M) :
    TouchesR M r (execCarvingFlipDrained s) := by
  refine TouchesR.step hs ?_ hm
  clear hs hm r M
  unfold execCarvingFlipDrained
  repeat' first
    | with_reducible assumption
    | with_reducible apply Touches.refl
    | (extract_lets -underBinder +onlyGivenNames x; (have hty : TypeOf x = State := by with_reducible rfl); clear hty; apply Touches.cut 0x60ab25d6 s x; (case' kk => (clear_value x; intro _)); (case' vv => (unfold x; clear x)))
    | (extract_lets -underBinder +onlyGivenNames x; try clear_value x)
    | with_reducible apply TouchesR.next
    | with_reducible apply TouchesR.fault
    | with_reducible apply TouchesR.ite
    | with_reducible apply Touches.ite
    | ((with_reducible apply carveNow_touches); (case hm => rfl))
    | split

theorem execCfgStore_touches {M : Nat} {r : State} (a0 : Sys2Proof.CmdCtx) (a1 : Option Sys2Proof.Bytes) (s : State) (hs : Touches M r s) (hm : 0xa0000d0 ||| M = M) :
    TouchesR M r (execCfgStore a0 a1 s) := by
  refine TouchesR.step hs ?_ hm
  clear hs hm r M
  unfold execCfgStore
  repeat' first
    | with_reducible assumption
    | (intro _; try dsimp -zeta only)
    | (extract_lets -underBinder +onlyGivenNames x; (have hty : TypeOf x = State := by with_reducible rfl); clear hty; apply Touches.cut 0xa0000d0 s x; (case' kk => (clear_value x; intro _)); (case' vv => (unfold x; clear x)))
    | (extract_lets -underBinder +onlyGivenNames x; try clear_value x)
    | with_reducible apply Touches.refl
    | ((with_reducible apply hostFetch_touches); (case hm => rfl))
    | with_reducible apply TouchesR.next
    | with_reducible apply TouchesR.fault
    | with_reducible apply TouchesR.ite
    | with_reducible apply Touches.ite
    | ((with_reducible apply command_touches); (case hm => rfl))
    | ((with_reducible apply complete_touches); (case hm => rfl))
    | split
    | ((with_reducible apply Touches.flash); (case hm => rfl))

theorem execCfgStoreDone_touches {M : Nat} {r : State} (a0 : Bool) (s : State) (hs : Touches M r s) (hm : 0x20001c6 ||| M = M) :
    TouchesR M r (execCfgStoreDone a0 s) := by
  refine TouchesR.step hs ?_ hm
  clear hs hm r M
  unfold execCfgStoreDone
  repeat' first
    | with_reducible assumption
    | with_reducible apply Touches.refl
    | (extract_lets -underBinder +onlyGivenNames x; (have hty : TypeOf x = State := by with_reducible rfl); clear hty; apply Touches.cut 0x20001c6 s x; (case' kk => (clear_value x; intro _)); (case' vv => (unfold x; clear x)))
    | (extract_lets -underBinder +onlyGivenNames x; try clear_value x)
    | with_reducible apply TouchesR.next
    | with_reducible apply TouchesR.fault
    | with_reducible apply TouchesR.ite
    | with_reducible apply Touches.ite
    | ((with_reducible apply raise_touches); (case hm => rfl))
    | split
    | ((with_reducible apply Touches.flash); (case hm => rfl))

theorem gwQuiesce_touches {M : Nat} {r : State} (a0 : Bool) (s : State) (hs : Touches M r s) (hm : 0xb21d6 ||| M = M) :
    Touches M r (gwQuiesce a0 s) := by
  refine Touches.step hs ?_ hm
  clear hs hm r M
  unfold gwQuiesce
  repeat' first
    | with_reducible assumption
    | (intro _; try dsimp -zeta only)
    | (extract_lets -underBinder +onlyGivenNames x; (have hty : TypeOf x = State := by with_reducible rfl); clear hty; apply Touches.cut 0xb21d6 s x; (case' kk => (clear_value x; intro _)); (case' vv => (unfold x; clear x)))
    | (extract_lets -underBinder +onlyGivenNames x; try clear_value x)
    | with_reducible apply Touches.refl
    | with_reducible apply Touches.ite
    | ((with_reducible apply sillAll_touches); (case hm => rfl))
    | ((with_reducible apply gwSwap_touches); (case hm => rfl))
    | ((with_reducible apply State.setFld_touches); (case hm => rfl))
    | ((with_reducible apply imagesInit_touches); (case hm => rfl))
    | with_reducible apply Touches.foldlD

theorem transomReset_touches {M : Nat} {r : State} (a0 : Nat) (s : State) (hs : Touches M r s) (hm : 0x8080001e ||| M = M) :
    Touches M r (transomReset a0 s) := by
  refine Touches.step hs ?_ hm
  clear hs hm r M
  unfold transomReset
  repeat' first
    | with_reducible assumption
    | (intro _; try dsimp -zeta only)
    | with_reducible apply Touches.refl
    | ((with_reducible apply sessionDefaults_touches); (case hm => rfl))
    | ((with_reducible apply lockEnd_touches); (case hm => rfl))
    | ((with_reducible apply windowClear_touches); (case hm => rfl))
    | with_reducible apply Touches.foldlD

theorem fnAct_touches {M : Nat} {r : State} (a0 : Sys2Proof.CmdCtx) (a1 : Bool) (s : State) (hs : Touches M r s) (hm : 0xc1cb37de ||| M = M) :
    Touches M r (fnAct a0 a1 s) := by
  refine Touches.step hs ?_ hm
  clear hs hm r M
  unfold fnAct
  repeat' first
    | with_reducible assumption
    | with_reducible apply Touches.refl
    | with_reducible apply Touches.ite
    | ((with_reducible apply forwardReset_touches); (case hm => rfl))
    | ((with_reducible apply hedgeQuiesce_touches); (case hm => rfl))
    | ((with_reducible apply domainReset_touches); (case hm => rfl))
    | ((with_reducible apply pairEval_touches); (case hm => rfl))
    | ((with_reducible apply gwQuiesce_touches); (case hm => rfl))
    | ((with_reducible apply cryptoReset_touches); (case hm => rfl))
    | ((with_reducible apply transomReset_touches); (case hm => rfl))
    | ((with_reducible apply hostReset_touches); (case hm => rfl))
    | split

theorem fnQuiesce_touches {M : Nat} {r : State} (a0 : Bool) (a1 : Sys2Proof.CmdCtx) (s : State) (hs : Touches M r s) (hm : 0xc1cb37de ||| M = M) :
    Touches M r (fnQuiesce a0 a1 s) := by
  refine Touches.step hs ?_ hm
  clear hs hm r M
  unfold fnQuiesce
  repeat' first
    | with_reducible assumption
    | (intro _; try dsimp -zeta only)
    | (extract_lets -underBinder +onlyGivenNames x; (have hty : TypeOf x = State := by with_reducible rfl); clear hty; apply Touches.cut 0xc1cb37de s x; (case' kk => (clear_value x; intro _)); (case' vv => (unfold x; clear x)))
    | (extract_lets -underBinder +onlyGivenNames x; try clear_value x)
    | with_reducible apply Touches.refl
    | ((with_reducible apply stopBegins_touches); (case hm => rfl))
    | ((with_reducible apply engineRun_touches); (case hm => rfl))
    | with_reducible apply Touches.ite
    | ((with_reducible apply hedgeCopied_touches); (case hm => rfl))
    | ((with_reducible apply gwCopyEnd_touches); (case hm => rfl))
    | ((with_reducible apply complete_touches); (case hm => rfl))
    | ((with_reducible apply carveStart_touches); (case hm => rfl))
    | ((with_reducible apply fixFlip_touches); (case hm => rfl))
    | ((with_reducible apply fnDone_touches); (case hm => rfl))
    | ((with_reducible apply fnAct_touches); (case hm => rfl))
    | ((with_reducible apply State.drew_touches); (case hm => rfl))
    | with_reducible apply Touches.foldlD
    | split
    | ((with_reducible apply Touches.fn); (case hm => rfl))

theorem fnCommand_touches {M : Nat} {r : State} (a0 : Bool) (a1 : Sys2Proof.CmdCtx) (s : State) (hs : Touches M r s) (hm : 0xc9cb37de ||| M = M) :
    TouchesR M r (fnCommand a0 a1 s) := by
  refine TouchesR.step hs ?_ hm
  clear hs hm r M
  unfold fnCommand
  repeat' first
    | with_reducible assumption
    | (intro _; try dsimp -zeta only)
    | with_reducible apply Touches.refl
    | with_reducible apply TouchesR.next
    | with_reducible apply TouchesR.fault
    | with_reducible apply TouchesR.ite
    | with_reducible apply Touches.ite
    | ((with_reducible apply command_touches); (case hm => rfl))
    | ((with_reducible apply fnQuiesce_touches); (case hm => rfl))

theorem execFnQuiesceFlip_touches {M : Nat} {r : State} (a0 : Sys2Proof.CmdCtx) (s : State) (hs : Touches M r s) (hm : 0xc9cb37de ||| M = M) :
    TouchesR M r (execFnQuiesceFlip a0 s) := by
  refine TouchesR.step hs ?_ hm
  clear hs hm r M
  unfold execFnQuiesceFlip
  repeat' first
    | with_reducible assumption
    | with_reducible apply Touches.refl
    | with_reducible apply TouchesR.next
    | with_reducible apply TouchesR.fault
    | ((with_reducible apply fnCommand_touches); (case hm => rfl))

theorem execFnQuiesceReset_touches {M : Nat} {r : State} (a0 : Sys2Proof.CmdCtx) (a1 : Bool) (s : State) (hs : Touches M r s) (hm : 0xc9cb37de ||| M = M) :
    TouchesR M r (execFnQuiesceReset a0 a1 s) := by
  refine TouchesR.step hs ?_ hm
  clear hs hm r M
  unfold execFnQuiesceReset
  repeat' first
    | with_reducible assumption
    | with_reducible apply Touches.refl
    | with_reducible apply TouchesR.next
    | with_reducible apply TouchesR.fault
    | ((with_reducible apply fnCommand_touches); (case hm => rfl))

theorem execFnResume_touches {M : Nat} {r : State} (a0 : Sys2Proof.CmdCtx) (s : State) (hs : Touches M r s) (hm : 0x480000d0 ||| M = M) :
    TouchesR M r (execFnResume a0 s) := by
  refine TouchesR.step hs ?_ hm
  clear hs hm r M
  unfold execFnResume
  repeat' first
    | with_reducible assumption
    | (intro _; try dsimp -zeta only)
    | (extract_lets -underBinder +onlyGivenNames x; (have hty : TypeOf x = State := by with_reducible rfl); clear hty; apply Touches.cut 0x480000d0 s x; (case' kk => (clear_value x; intro _)); (case' vv => (unfold x; clear x)))
    | (extract_lets -underBinder +onlyGivenNames x; try clear_value x)
    | with_reducible apply Touches.refl
    | with_reducible apply TouchesR.next
    | with_reducible apply TouchesR.fault
    | with_reducible apply TouchesR.ite
    | with_reducible apply Touches.ite
    | ((with_reducible apply command_touches); (case hm => rfl))
    | ((with_reducible apply complete_touches); (case hm => rfl))
    | ((with_reducible apply Touches.fn); (case hm => rfl))

theorem graceEnd_touches {M : Nat} {r : State} (a0 : Nat) (a1 : Entry) (a2 : Bool) (s : State) (hs : Touches M r s) (hm : 0xf9eb35de ||| M = M) :
    Touches M r (graceEnd a0 a1 a2 s) := by
  refine Touches.step hs ?_ hm
  clear hs hm r M
  unfold graceEnd
  repeat' first
    | with_reducible assumption
    | with_reducible apply Touches.refl
    | (extract_lets -underBinder +onlyGivenNames x; (have hty : TypeOf x = State := by with_reducible rfl); clear hty; apply Touches.cut 0xf9eb35de s x; (case' kk => (clear_value x; intro _)); (case' vv => (unfold x; clear x)))
    | (extract_lets -underBinder +onlyGivenNames x; try clear_value x)
    | with_reducible apply Touches.ite
    | ((with_reducible apply escalate_touches); (case hm => rfl))
    | ((with_reducible apply escTell_touches); (case hm => rfl))
    | ((with_reducible apply warmStart_touches); (case hm => rfl))
    | ((with_reducible apply Touches.fst); (case eqn => assumption))
    | split
    | ((with_reducible apply Touches.flt); (case hm => rfl))

theorem execGraceExpiry_touches {M : Nat} {r : State} (a0 : Fin 16) (a1 : Bool) (s : State) (hs : Touches M r s) (hm : 0xf9eb35de ||| M = M) :
    TouchesR M r (execGraceExpiry a0 a1 s) := by
  refine TouchesR.step hs ?_ hm
  clear hs hm r M
  unfold execGraceExpiry
  repeat' first
    | with_reducible assumption
    | with_reducible apply Touches.refl
    | with_reducible apply TouchesR.next
    | with_reducible apply TouchesR.fault
    | with_reducible apply TouchesR.ite
    | with_reducible apply Touches.ite
    | ((with_reducible apply graceEnd_touches); (case hm => rfl))
    | split

theorem execHedgeFlip_touches {M : Nat} {r : State} (a0 : Sys2Proof.CmdCtx) (s : State) (hs : Touches M r s) (hm : 0x480011d2 ||| M = M) :
    TouchesR M r (execHedgeFlip a0 s) := by
  refine TouchesR.step hs ?_ hm
  clear hs hm r M
  unfold execHedgeFlip
  repeat' first
    | with_reducible assumption
    | (intro _; try dsimp -zeta only)
    | with_reducible apply Touches.refl
    | with_reducible apply TouchesR.next
    | with_reducible apply TouchesR.fault
    | with_reducible apply TouchesR.ite
    | with_reducible apply Touches.ite
    | ((with_reducible apply hedgeCommand_touches); (case hm => rfl))
    | ((with_reducible apply hedgeFlip_touches); (case hm => rfl))

theorem execTblRehash_touches {M : Nat} {r : State} (a0 : Sys2Proof.CmdCtx) (s : State) (hs : Touches M r s) (hm : 0x80004d8 ||| M = M) :
    TouchesR M r (execTblRehash a0 s) := by
  refine TouchesR.step hs ?_ hm
  clear hs hm r M
  unfold execTblRehash
  repeat' first
    | with_reducible assumption
    | (intro _; try dsimp -zeta only)
    | with_reducible apply Touches.refl
    | with_reducible apply TouchesR.next
    | with_reducible apply TouchesR.fault
    | ((with_reducible apply command_touches); (case hm => rfl))
    | ((with_reducible apply tblRehash_touches); (case hm => rfl))

theorem fnFlipped_touches {M : Nat} {r : State} (a0 : Nat) (s : State) (hs : Touches M r s) (hm : 0x400020d2 ||| M = M) :
    Touches M r (fnFlipped a0 s) := by
  refine Touches.step hs ?_ hm
  clear hs hm r M
  unfold fnFlipped
  repeat' first
    | with_reducible assumption
    | (intro _; try dsimp -zeta only)
    | (extract_lets -underBinder +onlyGivenNames x; (have hty : TypeOf x = State := by with_reducible rfl); clear hty; apply Touches.cut 0x400020d2 s x; (case' kk => (clear_value x; intro _)); (case' vv => (unfold x; clear x)))
    | (extract_lets -underBinder +onlyGivenNames x; try clear_value x)
    | with_reducible apply Touches.refl
    | with_reducible apply Touches.ite
    | ((with_reducible apply fnDone_touches); (case hm => rfl))
    | ((with_reducible apply egrFnReset_touches); (case hm => rfl))
    | with_reducible apply Touches.foldlD
    | split
    | ((with_reducible apply Touches.fn); (case hm => rfl))

end Sys2Proof.Machine
end

