-- ==== Sys2Proof/Laws/EgrRows.lean ====
section
/-! SUPPORT. What each function of Machine/EgrRows.lean touches: one lemma per function that answers a state. -/

set_option linter.tactic.unusedName false

namespace Sys2Proof.Machine

theorem settlePort_touches {M : Nat} {r : State} (a0 : Nat) (s : State) (hs : Touches M r s) (hm : 0x2000 ||| M = M) :
    Touches M r (settlePort a0 s) := by
  refine Touches.step hs ?_ hm
  clear hs hm r M
  unfold settlePort
  repeat' first
    | with_reducible assumption
    | (intro _; try dsimp -zeta only)
    | with_reducible apply Touches.refl
    | ((with_reducible apply settle_touches); (case hm => rfl))
    | with_reducible apply Touches.foldlD

theorem execGateEntryChange_touches {M : Nat} {r : State} (a0 : Sys2Proof.Port) (s : State) (hs : Touches M r s) (hm : 0x2004 ||| M = M) :
    TouchesR M r (execGateEntryChange a0 s) := by
  refine TouchesR.step hs ?_ hm
  clear hs hm r M
  unfold execGateEntryChange
  repeat' first
    | with_reducible assumption
    | with_reducible apply Touches.refl
    | (extract_lets -underBinder +onlyGivenNames x; (have hty : TypeOf x = State := by with_reducible rfl); clear hty; apply Touches.cut 0x2004 s x; (case' kk => (clear_value x; intro _)); (case' vv => (unfold x; clear x)))
    | (extract_lets -underBinder +onlyGivenNames x; try clear_value x)
    | with_reducible apply TouchesR.next
    | with_reducible apply TouchesR.fault
    | with_reducible apply TouchesR.ite
    | with_reducible apply Touches.ite
    | ((with_reducible apply State.modEport_touches); (case hm => rfl))
    | ((with_reducible apply settlePort_touches); (case hm => rfl))
    | ((with_reducible apply parkEnter_touches); (case hm => rfl))

theorem execHistogramSample_touches {M : Nat} {r : State} (s : State) (hs : Touches M r s) (hm : 0x2000 ||| M = M) :
    TouchesR M r (execHistogramSample s) := by
  refine TouchesR.step hs ?_ hm
  clear hs hm r M
  unfold execHistogramSample
  repeat' first
    | with_reducible assumption
    | with_reducible apply Touches.refl
    | with_reducible apply TouchesR.next
    | with_reducible apply TouchesR.fault
    | with_reducible apply TouchesR.ite
    | with_reducible apply Touches.ite
    | ((with_reducible apply histogramSample_touches); (case hm => rfl))

theorem execLaneReady_touches {M : Nat} {r : State} (a0 : Sys2Proof.Port) (s : State) (hs : Touches M r s) (hm : 0x2004 ||| M = M) :
    TouchesR M r (execLaneReady a0 s) := by
  refine TouchesR.step hs ?_ hm
  clear hs hm r M
  unfold execLaneReady
  repeat' first
    | with_reducible assumption
    | with_reducible apply Touches.refl
    | with_reducible apply TouchesR.next
    | with_reducible apply TouchesR.fault
    | ((with_reducible apply laneReady_touches); (case hm => rfl))

theorem execPfcPauseStuck_touches {M : Nat} {r : State} (a0 : Sys2Proof.Port) (a1 : Fin 5) (s : State) (hs : Touches M r s) (hm : 0x321d6 ||| M = M) :
    TouchesR M r (execPfcPauseStuck a0 a1 s) := by
  refine TouchesR.step hs ?_ hm
  clear hs hm r M
  unfold execPfcPauseStuck
  repeat' first
    | with_reducible assumption
    | with_reducible apply Touches.refl
    | (extract_lets -underBinder +onlyGivenNames x; (have hty : TypeOf x = State := by with_reducible rfl); clear hty; apply Touches.cut 0x321d6 s x; (case' kk => (clear_value x; intro _)); (case' vv => (unfold x; clear x)))
    | (extract_lets -underBinder +onlyGivenNames x; try clear_value x)
    | with_reducible apply TouchesR.next
    | with_reducible apply TouchesR.fault
    | with_reducible apply TouchesR.ite
    | with_reducible apply Touches.ite
    | ((with_reducible apply State.modEport_touches); (case hm => rfl))
    | ((with_reducible apply raise_touches); (case hm => rfl))
    | ((with_reducible apply flushQueue_touches); (case hm => rfl))
    | split

theorem tellPreempt_touches {M : Nat} {r : State} (a0 : Nat) (s : State) (hs : Touches M r s) (hm : 0x1c6 ||| M = M) :
    Touches M r (tellPreempt a0 s) := by
  refine Touches.step hs ?_ hm
  clear hs hm r M
  unfold tellPreempt
  repeat' first
    | with_reducible assumption
    | with_reducible apply Touches.refl
    | ((with_reducible apply raise_touches); (case hm => rfl))

theorem execPreemptVerifyResult_touches {M : Nat} {r : State} (a0 : Sys2Proof.Port) (a1 : Bool) (s : State) (hs : Touches M r s) (hm : 0x21c6 ||| M = M) :
    TouchesR M r (execPreemptVerifyResult a0 a1 s) := by
  refine TouchesR.step hs ?_ hm
  clear hs hm r M
  unfold execPreemptVerifyResult
  repeat' first
    | with_reducible assumption
    | with_reducible apply Touches.refl
    | (extract_lets -underBinder +onlyGivenNames x; (have hty : TypeOf x = State := by with_reducible rfl); clear hty; apply Touches.cut 0x21c6 s x; (case' kk => (clear_value x; intro _)); (case' vv => (unfold x; clear x)))
    | (extract_lets -underBinder +onlyGivenNames x; try clear_value x)
    | with_reducible apply TouchesR.next
    | with_reducible apply TouchesR.fault
    | with_reducible apply TouchesR.ite
    | with_reducible apply Touches.ite
    | ((with_reducible apply State.modEport_touches); (case hm => rfl))
    | ((with_reducible apply tellPreempt_touches); (case hm => rfl))

theorem execShutterFlip_touches {M : Nat} {r : State} (a0 : Sys2Proof.CmdCtx) (s : State) (hs : Touches M r s) (hm : 0x80020da ||| M = M) :
    TouchesR M r (execShutterFlip a0 s) := by
  refine TouchesR.step hs ?_ hm
  clear hs hm r M
  unfold execShutterFlip
  repeat' first
    | with_reducible assumption
    | (intro _; try dsimp -zeta only)
    | with_reducible apply Touches.refl
    | with_reducible apply TouchesR.next
    | with_reducible apply TouchesR.fault
    | ((with_reducible apply command_touches); (case hm => rfl))
    | ((with_reducible apply shutterStart_touches); (case hm => rfl))

theorem preemptLost_touches {M : Nat} {r : State} (a0 : Bool) (a1 : Nat) (s : State) (hs : Touches M r s) (hm : 0x1c6 ||| M = M) :
    Touches M r (preemptLost a0 a1 s) := by
  refine Touches.step hs ?_ hm
  clear hs hm r M
  unfold preemptLost
  repeat' first
    | with_reducible assumption
    | with_reducible apply Touches.refl
    | with_reducible apply Touches.ite
    | ((with_reducible apply tellPreempt_touches); (case hm => rfl))

theorem execShutterFlipTime_touches {M : Nat} {r : State} (a0 : Sys2Proof.Port) (s : State) (hs : Touches M r s) (hm : 0x400021d6 ||| M = M) :
    TouchesR M r (execShutterFlipTime a0 s) := by
  refine TouchesR.step hs ?_ hm
  clear hs hm r M
  unfold execShutterFlipTime
  repeat' first
    | with_reducible assumption
    | with_reducible apply Touches.refl
    | (extract_lets -underBinder +onlyGivenNames x; (have hty : TypeOf x = State := by with_reducible rfl); clear hty; apply Touches.cut 0x400021d6 s x; (case' kk => (clear_value x; intro _)); (case' vv => (unfold x; clear x)))
    | (extract_lets -underBinder +onlyGivenNames x; try clear_value x)
    | with_reducible apply TouchesR.next
    | with_reducible apply TouchesR.fault
    | with_reducible apply TouchesR.ite
    | with_reducible apply Touches.ite
    | ((with_reducible apply fnFlipped_touches); (case hm => rfl))
    | ((with_reducible apply preemptLost_touches); (case hm => rfl))
    | ((with_reducible apply flipNow_touches); (case hm => rfl))

theorem execShutterRead_touches {M : Nat} {r : State} (a0 : Sys2Proof.CmdCtx) (s : State) (hs : Touches M r s) (hm : 0x80020da ||| M = M) :
    TouchesR M r (execShutterRead a0 s) := by
  refine TouchesR.step hs ?_ hm
  clear hs hm r M
  unfold execShutterRead
  repeat' first
    | with_reducible assumption
    | (intro _; try dsimp -zeta only)
    | with_reducible apply Touches.refl
    | with_reducible apply TouchesR.next
    | with_reducible apply TouchesR.fault
    | ((with_reducible apply command_touches); (case hm => rfl))
    | ((with_reducible apply shutterStart_touches); (case hm => rfl))

theorem execShutterShadowCopyDone_touches {M : Nat} {r : State} (a0 : Sys2Proof.Port) (s : State) (hs : Touches M r s) (hm : 0x20da ||| M = M) :
    TouchesR M r (execShutterShadowCopyDone a0 s) := by
  refine TouchesR.step hs ?_ hm
  clear hs hm r M
  unfold execShutterShadowCopyDone
  repeat' first
    | with_reducible assumption
    | with_reducible apply Touches.refl
    | with_reducible apply TouchesR.next
    | with_reducible apply TouchesR.fault
    | ((with_reducible apply shutterCopyDone_touches); (case hm => rfl))

theorem execShutterStage_touches {M : Nat} {r : State} (a0 : Sys2Proof.CmdCtx) (s : State) (hs : Touches M r s) (hm : 0x80020da ||| M = M) :
    TouchesR M r (execShutterStage a0 s) := by
  refine TouchesR.step hs ?_ hm
  clear hs hm r M
  unfold execShutterStage
  repeat' first
    | with_reducible assumption
    | (intro _; try dsimp -zeta only)
    | with_reducible apply Touches.refl
    | with_reducible apply TouchesR.next
    | with_reducible apply TouchesR.fault
    | ((with_reducible apply command_touches); (case hm => rfl))
    | ((with_reducible apply shutterStart_touches); (case hm => rfl))

theorem gateOverruns_touches {M : Nat} {r : State} (a0 : Nat) (s : State) (hs : Touches M r s) (hm : 0x1c6 ||| M = M) :
    Touches M r (gateOverruns a0 s) := by
  refine Touches.step hs ?_ hm
  clear hs hm r M
  unfold gateOverruns
  repeat' first
    | with_reducible assumption
    | (intro _; try dsimp -zeta only)
    | (extract_lets -underBinder +onlyGivenNames x; (have hty : TypeOf x = State := by with_reducible rfl); clear hty; apply Touches.cut 0x1c6 s x; (case' kk => (clear_value x; intro _)); (case' vv => (unfold x; clear x)))
    | (extract_lets -underBinder +onlyGivenNames x; try clear_value x)
    | with_reducible apply Touches.refl
    | ((with_reducible apply State.bump_touches); (case hm => rfl))
    | ((with_reducible apply raise_touches); (case hm => rfl))
    | with_reducible apply Touches.foldlD
    | split

theorem execTimeEffectTick_touches {M : Nat} {r : State} (a0 : Fin 2) (s : State) (hs : Touches M r s) (hm : 0x3d6 ||| M = M) :
    TouchesR M r (execTimeEffectTick a0 s) := by
  refine TouchesR.step hs ?_ hm
  clear hs hm r M
  unfold execTimeEffectTick
  repeat' first
    | with_reducible assumption
    | with_reducible apply Touches.refl
    | with_reducible apply TouchesR.next
    | with_reducible apply TouchesR.fault
    | ((with_reducible apply gateOverruns_touches); (case hm => rfl))
    | ((with_reducible apply timeEffect_touches); (case hm => rfl))
    | split

end Sys2Proof.Machine
end

