-- ==== Sys2Proof/Laws/Frames.lean ====
section
/-! SUPPORT. What each function of Machine/Frames.lean touches: one lemma per function that answers a state. -/

set_option linter.tactic.unusedName false

namespace Sys2Proof.Machine

theorem etherStage_touches {M : Nat} {r : State} (a0 : Pkt) (s : State) (hs : Touches M r s) (hm : 0x2901c6 ||| M = M) :
    Touches M r (etherStage a0 s) := by
  refine Touches.step hs ?_ hm
  clear hs hm r M
  unfold etherStage
  repeat' first
    | with_reducible assumption
    | with_reducible apply Touches.refl
    | ((with_reducible apply unpack_touches); (case hm => rfl))
    | ((with_reducible apply stage_touches); (case hm => rfl))
    | split

theorem etherTake_touches {M : Nat} {r : State} (a0 : Nat) (a1 : Sys2Proof.Bytes) (a2 : Sys2Proof.Span) (s : State) (hs : Touches M r s) (hm : 0x6901c6 ||| M = M) :
    Touches M r (etherTake a0 a1 a2 s) := by
  refine Touches.step hs ?_ hm
  clear hs hm r M
  unfold etherTake
  repeat' first
    | with_reducible assumption
    | with_reducible apply Touches.refl
    | (extract_lets -underBinder +onlyGivenNames x; (have hty : TypeOf x = State := by with_reducible rfl); clear hty; apply Touches.cut 0x6901c6 s x; (case' kk => (clear_value x; intro _)); (case' vv => (unfold x; clear x)))
    | (extract_lets -underBinder +onlyGivenNames x; try clear_value x)
    | with_reducible apply Touches.ite
    | ((with_reducible apply rxOk_touches); (case hm => rfl))
    | ((with_reducible apply msecReceive_touches); (case hm => rfl))
    | ((with_reducible apply etherStage_touches); (case hm => rfl))
    | ((with_reducible apply Touches.snd); (case eqn => assumption))
    | split

theorem etherFrame_touches {M : Nat} {r : State} (a0 : Nat) (a1 : Sys2Proof.Bytes) (a2 : Bool) (a3 : Sys2Proof.Span) (s : State) (hs : Touches M r s) (hm : 0x6901c6 ||| M = M) :
    Touches M r (etherFrame a0 a1 a2 a3 s) := by
  refine Touches.step hs ?_ hm
  clear hs hm r M
  unfold etherFrame
  repeat' first
    | with_reducible assumption
    | with_reducible apply Touches.refl
    | (extract_lets -underBinder +onlyGivenNames x; (have hty : TypeOf x = State := by with_reducible rfl); clear hty; apply Touches.cut 0x6901c6 s x; (case' kk => (clear_value x; intro _)); (case' vv => (unfold x; clear x)))
    | (extract_lets -underBinder +onlyGivenNames x; try clear_value x)
    | with_reducible apply Touches.ite
    | ((with_reducible apply State.bump_touches); (case hm => rfl))
    | ((with_reducible apply etherTake_touches); (case hm => rfl))

theorem seen_touches {M : Nat} {r : State} (s : State) (hs : Touches M r s) (hm : 0x8000000 ||| M = M) :
    Touches M r (seen s) := by
  refine Touches.step hs ?_ hm
  clear hs hm r M
  unfold seen
  repeat' first
    | with_reducible assumption
    | with_reducible apply Touches.refl
    | (extract_lets -underBinder +onlyGivenNames x; (have hty : TypeOf x = State := by with_reducible rfl); clear hty; apply Touches.cut 0x8000000 s x; (case' kk => (clear_value x; intro _)); (case' vv => (unfold x; clear x)))
    | (extract_lets -underBinder +onlyGivenNames x; try clear_value x)
    | ((with_reducible apply Touches.pwr); (case hm => rfl))

theorem execEthernetFrameReceived_touches {M : Nat} {r : State} (a0 : Sys2Proof.Port) (a1 : Sys2Proof.Bytes) (a2 : Bool) (a3 : Sys2Proof.Span) (s : State) (hs : Touches M r s) (hm : 0x86901c6 ||| M = M) :
    TouchesR M r (execEthernetFrameReceived a0 a1 a2 a3 s) := by
  refine TouchesR.step hs ?_ hm
  clear hs hm r M
  unfold execEthernetFrameReceived
  repeat' first
    | with_reducible assumption
    | with_reducible apply Touches.refl
    | with_reducible apply TouchesR.next
    | with_reducible apply TouchesR.fault
    | with_reducible apply TouchesR.ite
    | with_reducible apply Touches.ite
    | ((with_reducible apply etherFrame_touches); (case hm => rfl))
    | ((with_reducible apply seen_touches); (case hm => rfl))

theorem execLegacyPduReceived_touches {M : Nat} {r : State} (a0 : Sys2Proof.Port) (a1 : Bool) (a2 : Sys2Proof.LegPdu) (a3 : Sys2Proof.Span) (s : State) (hs : Touches M r s) (hm : 0x8290006 ||| M = M) :
    TouchesR M r (execLegacyPduReceived a0 a1 a2 a3 s) := by
  refine TouchesR.step hs ?_ hm
  clear hs hm r M
  unfold execLegacyPduReceived
  repeat' first
    | with_reducible assumption
    | with_reducible apply Touches.refl
    | with_reducible apply TouchesR.next
    | with_reducible apply TouchesR.fault
    | with_reducible apply TouchesR.ite
    | with_reducible apply Touches.ite
    | ((with_reducible apply legacyPdu_touches); (case hm => rfl))
    | ((with_reducible apply seen_touches); (case hm => rfl))

end Sys2Proof.Machine
end

