-- ==== Sys2Proof/Laws/Pipeline.lean ====
section
/-! SUPPORT. What each function of Machine/Pipeline.lean touches: one lemma per function that answers a state. -/

set_option linter.tactic.unusedName false

namespace Sys2Proof.Machine

theorem viaRoute_touches {M : Nat} {r : State} (a0 : Nat) (a1 : Nat) (a2 : Nat) (a3 : Pkt) (a4 : Fwd) (s : State) (hs : Touches M r s) (hm : 0x4 ||| M = M) :
    Touches M r ((viaRoute a0 a1 a2 a3 a4 s).2) := by
  refine Touches.step hs ?_ hm
  clear hs hm r M
  unfold viaRoute
  repeat' first
    | with_reducible assumption
    | with_reducible apply Touches.refl
    | ((with_reducible apply State.bump_touches); (case hm => rfl))
    | split
    | (dsimp -zeta only)

theorem ihFwd_touches {M : Nat} {r : State} (a0 : Nat) (a1 : Pkt) (s : State) (hs : Touches M r s) (hm : 0x4 ||| M = M) :
    Touches M r ((ihFwd a0 a1 s).2) := by
  refine Touches.step hs ?_ hm
  clear hs hm r M
  unfold ihFwd
  repeat' first
    | with_reducible assumption
    | with_reducible apply Touches.refl
    | (extract_lets -underBinder +onlyGivenNames x; (have hty : TypeOf x = State := by with_reducible rfl); clear hty; apply Touches.cut 0x4 s x; (case' kk => (clear_value x; intro _)); (case' vv => (unfold x; clear x)))
    | (extract_lets -underBinder +onlyGivenNames x; try clear_value x)
    | with_reducible apply Touches.ite
    | ((with_reducible apply viaRoute_touches); (case hm => rfl))
    | ((with_reducible apply State.bump_touches); (case hm => rfl))
    | ((with_reducible apply Touches.snd); (case eqn => assumption))
    | split
    | (dsimp -zeta only)

theorem l2Dest_touches {M : Nat} {r : State} (a0 : Nat) (a1 : Nat) (a2 : Pkt) (s : State) (hs : Touches M r s) (hm : 0x4 ||| M = M) :
    Touches M r ((l2Dest a0 a1 a2 s).2) := by
  refine Touches.step hs ?_ hm
  clear hs hm r M
  unfold l2Dest
  repeat' first
    | with_reducible assumption
    | with_reducible apply Touches.refl
    | (extract_lets -underBinder +onlyGivenNames x; (have hty : TypeOf x = State := by with_reducible rfl); clear hty; apply Touches.cut 0x4 s x; (case' kk => (clear_value x; intro _)); (case' vv => (unfold x; clear x)))
    | (extract_lets -underBinder +onlyGivenNames x; try clear_value x)
    | with_reducible apply Touches.ite
    | ((with_reducible apply viaRoute_touches); (case hm => rfl))
    | ((with_reducible apply State.bump_touches); (case hm => rfl))
    | ((with_reducible apply Touches.snd); (case eqn => assumption))
    | split
    | (dsimp -zeta only)

theorem dfpFwd_touches {M : Nat} {r : State} (a0 : Nat) (a1 : DfpTag) (a2 : Pkt) (s : State) (hs : Touches M r s) (hm : 0x4 ||| M = M) :
    Touches M r ((dfpFwd a0 a1 a2 s).2) := by
  refine Touches.step hs ?_ hm
  clear hs hm r M
  unfold dfpFwd
  repeat' first
    | with_reducible assumption
    | with_reducible apply Touches.refl
    | with_reducible apply Touches.ite
    | ((with_reducible apply State.bump_touches); (case hm => rfl))
    | ((with_reducible apply viaRoute_touches); (case hm => rfl))
    | ((with_reducible apply l2Dest_touches); (case hm => rfl))
    | ((with_reducible apply Touches.snd); (case eqn => assumption))
    | split
    | (dsimp -zeta only)

theorem lookupFwd_touches {M : Nat} {r : State} (a0 : Nat) (a1 : Nat) (a2 : Pkt) (s : State) (hs : Touches M r s) (hm : 0x4 ||| M = M) :
    Touches M r ((lookupFwd a0 a1 a2 s).2) := by
  refine Touches.step hs ?_ hm
  clear hs hm r M
  unfold lookupFwd
  repeat' first
    | with_reducible assumption
    | with_reducible apply Touches.refl
    | with_reducible apply Touches.ite
    | ((with_reducible apply ihFwd_touches); (case hm => rfl))
    | ((with_reducible apply dfpFwd_touches); (case hm => rfl))
    | ((with_reducible apply l2Dest_touches); (case hm => rfl))
    | ((with_reducible apply Touches.snd); (case eqn => assumption))
    | split
    | (dsimp -zeta only)

theorem dropPkt_touches {M : Nat} {r : State} (a0 : Pkt) (s : State) (hs : Touches M r s) (hm : 0xc0 ||| M = M) :
    Touches M r (dropPkt a0 s) := by
  refine Touches.step hs ?_ hm
  clear hs hm r M
  unfold dropPkt
  repeat' first
    | with_reducible assumption
    | with_reducible apply Touches.refl
    | ((with_reducible apply txDropped_touches); (case hm => rfl))
    | ((with_reducible apply txReady_touches); (case hm => rfl))

theorem refused_touches {M : Nat} {r : State} (a0 : Staged) (s : State) (hs : Touches M r s) (hm : 0x20000 ||| M = M) :
    Touches M r (refused a0 s) := by
  refine Touches.step hs ?_ hm
  clear hs hm r M
  unfold refused
  repeat' first
    | with_reducible assumption
    | with_reducible apply Touches.refl
    | with_reducible apply Touches.ite
    | ((with_reducible apply State.modCc_touches); (case hm => rfl))
    | split

theorem zoneFilter_touches {M : Nat} {r : State} (a0 : Staged) (a1 : List Nat) (s : State) (hs : Touches M r s) (hm : 0x21004 ||| M = M) :
    Touches M r ((zoneFilter a0 a1 s).2) := by
  refine Touches.step hs ?_ hm
  clear hs hm r M
  suffices hq : ∀ r, Touches 0x21004 r s → Touches 0x21004 r (zoneFilter a0 a1 s).2 from hq _ (Touches.refl _ _)
  induction a1 generalizing a0 s with
  | nil =>
    intro r hs
    unfold zoneFilter
    repeat' first
      | with_reducible assumption
      | (intro _; try dsimp -zeta only)
      | (extract_lets -underBinder +onlyGivenNames x; (have hty : TypeOf x = State := by with_reducible rfl); clear hty; apply Touches.cut 0x21004 r x; (case' kk => (clear_value x; intro _)); (case' vv => (unfold x; clear x)))
      | (extract_lets -underBinder +onlyGivenNames x; try clear_value x)
      | with_reducible apply Touches.refl
      | with_reducible apply Touches.ite
      | with_reducible apply ih
      | ((with_reducible apply zoneDeny_touches); (case hm => rfl))
      | ((with_reducible apply State.modCc_touches); (case hm => rfl))
      | with_reducible apply Touches.foldlD
      | ((with_reducible apply Touches.snd); (case eqn => assumption))
      | split
      | (dsimp -zeta only)
  | cons hd tl ih =>
    intro r hs
    unfold zoneFilter
    repeat' first
      | with_reducible assumption
      | (intro _; try dsimp -zeta only)
      | (extract_lets -underBinder +onlyGivenNames x; (have hty : TypeOf x = State := by with_reducible rfl); clear hty; apply Touches.cut 0x21004 r x; (case' kk => (clear_value x; intro _)); (case' vv => (unfold x; clear x)))
      | (extract_lets -underBinder +onlyGivenNames x; try clear_value x)
      | with_reducible apply Touches.refl
      | with_reducible apply Touches.ite
      | with_reducible apply ih
      | ((with_reducible apply zoneDeny_touches); (case hm => rfl))
      | ((with_reducible apply State.modCc_touches); (case hm => rfl))
      | with_reducible apply Touches.foldlD
      | ((with_reducible apply Touches.snd); (case eqn => assumption))
      | split
      | (dsimp -zeta only)

theorem mirrorCopy_touches {M : Nat} {r : State} (a0 : Nat) (a1 : Nat) (a2 : Nat) (a3 : HDec) (s : State) (hs : Touches M r s) (hm : 0x1004 ||| M = M) :
    Touches M r ((mirrorCopy a0 a1 a2 a3 s).2) := by
  refine Touches.step hs ?_ hm
  clear hs hm r M
  unfold mirrorCopy
  repeat' first
    | with_reducible assumption
    | with_reducible apply Touches.refl
    | with_reducible apply Touches.ite
    | ((with_reducible apply zoneDeny_touches); (case hm => rfl))
    | ((with_reducible apply State.bump_touches); (case hm => rfl))
    | split
    | (dsimp -zeta only)

theorem drawNumber_touches {M : Nat} {r : State} (a0 : Nat) (a1 : Stream) (a2 : Nat) (a3 : Nat) (s : State) (hs : Touches M r s) (hm : 0x20000 ||| M = M) :
    Touches M r ((drawNumber a0 a1 a2 a3 s).2) := by
  refine Touches.step hs ?_ hm
  clear hs hm r M
  unfold drawNumber
  repeat' first
    | with_reducible assumption
    | with_reducible apply Touches.refl
    | (extract_lets -underBinder +onlyGivenNames x; (have hty : TypeOf x = State := by with_reducible rfl); clear hty; apply Touches.cut 0x20000 s x; (case' kk => (clear_value x; intro _)); (case' vv => (unfold x; clear x)))
    | (extract_lets -underBinder +onlyGivenNames x; try clear_value x)
    | ((with_reducible apply State.modStream_touches); (case hm => rfl))
    | (dsimp -zeta only)

theorem putCopy_touches {M : Nat} {r : State} (a0 : Staged) (a1 : Nat) (a2 : Nat) (a3 : Nat) (a4 : Cell) (s : State) (hs : Touches M r s) (hm : 0xb21d6 ||| M = M) :
    Touches M r (putCopy a0 a1 a2 a3 a4 s) := by
  refine Touches.step hs ?_ hm
  clear hs hm r M
  unfold putCopy
  repeat' first
    | with_reducible assumption
    | with_reducible apply Touches.refl
    | (extract_lets -underBinder +onlyGivenNames x; (have hty : TypeOf x = State := by with_reducible rfl); clear hty; apply Touches.cut 0xb21d6 s x; (case' kk => (clear_value x; intro _)); (case' vv => (unfold x; clear x)))
    | (extract_lets -underBinder +onlyGivenNames x; try clear_value x)
    | with_reducible apply Touches.ite
    | ((with_reducible apply enqueue_touches); (case hm => rfl))
    | ((with_reducible apply batchBefore_touches); (case hm => rfl))
    | ((with_reducible apply Touches.mem); (case hm => rfl))

theorem stage8_touches {M : Nat} {r : State} (a0 : Staged) (a1 : Nat) (a2 : Nat) (a3 : Option (Nat × Nat)) (s : State) (hs : Touches M r s) (hm : 0xb21d6 ||| M = M) :
    Touches M r (stage8 a0 a1 a2 a3 s) := by
  refine Touches.step hs ?_ hm
  clear hs hm r M
  unfold stage8
  dsimp only
  repeat' first
    | with_reducible assumption
    | (intro _; try dsimp -zeta only)
    | (extract_lets -underBinder +onlyGivenNames x; (have hty : TypeOf x = State := by with_reducible rfl); clear hty; apply Touches.cut 0xb21d6 s x; (case' kk => (clear_value x; intro _)); (case' vv => (unfold x; clear x)))
    | (extract_lets -underBinder +onlyGivenNames x; try clear_value x)
    | with_reducible apply Touches.refl
    | with_reducible apply Touches.ite
    | ((with_reducible apply putCopy_touches); (case hm => rfl))
    | with_reducible apply Touches.foldlD
    | split
    | ((with_reducible apply Touches.mem); (case hm => rfl))

theorem store_touches {M : Nat} {r : State} (a0 : Staged) (a1 : Nat) (a2 : Nat) (a3 : Nat) (a4 : Option (Nat × Nat)) (s : State) (hs : Touches M r s) (hm : 0xb21d6 ||| M = M) :
    Touches M r (store a0 a1 a2 a3 a4 s) := by
  refine Touches.step hs ?_ hm
  clear hs hm r M
  unfold store
  repeat' first
    | with_reducible assumption
    | with_reducible apply Touches.refl
    | (extract_lets -underBinder +onlyGivenNames x; (have hty : TypeOf x = State := by with_reducible rfl); clear hty; apply Touches.cut 0xb21d6 s x; (case' kk => (clear_value x; intro _)); (case' vv => (unfold x; clear x)))
    | (extract_lets -underBinder +onlyGivenNames x; try clear_value x)
    | with_reducible apply Touches.ite
    | ((with_reducible apply drawNumber_touches); (case hm => rfl))
    | ((with_reducible apply stage8_touches); (case hm => rfl))
    | ((with_reducible apply poolChanged_touches); (case hm => rfl))
    | ((with_reducible apply putBuf_touches); (case hm => rfl))
    | ((with_reducible apply Touches.snd); (case eqn => assumption))
    | split

theorem stage678_touches {M : Nat} {r : State} (a0 : Staged) (s : State) (hs : Touches M r s) (hm : 0xb31d6 ||| M = M) :
    Touches M r (stage678 a0 s) := by
  refine Touches.step hs ?_ hm
  clear hs hm r M
  unfold stage678
  repeat' first
    | with_reducible assumption
    | with_reducible apply Touches.refl
    | (extract_lets -underBinder +onlyGivenNames x; (have hty : TypeOf x = State := by with_reducible rfl); clear hty; apply Touches.cut 0xb31d6 s x; (case' kk => (clear_value x; intro _)); (case' vv => (unfold x; clear x)))
    | (extract_lets -underBinder +onlyGivenNames x; try clear_value x)
    | with_reducible apply Touches.ite
    | ((with_reducible apply zoneFilter_touches); (case hm => rfl))
    | ((with_reducible apply mirrorCopy_touches); (case hm => rfl))
    | ((with_reducible apply dropPkt_touches); (case hm => rfl))
    | ((with_reducible apply refused_touches); (case hm => rfl))
    | ((with_reducible apply allocUnreserved_touches); (case hm => rfl))
    | ((with_reducible apply store_touches); (case hm => rfl))
    | ((with_reducible apply quotaDiscard_touches); (case hm => rfl))
    | ((with_reducible apply Touches.snd); (case eqn => assumption))
    | split

theorem cutIngress_touches {M : Nat} {r : State} (a0 : Staged) (s : State) (hs : Touches M r s) (hm : 0xb31d6 ||| M = M) :
    Touches M r (cutIngress a0 s) := by
  refine Touches.step hs ?_ hm
  clear hs hm r M
  unfold cutIngress
  repeat' first
    | with_reducible assumption
    | with_reducible apply Touches.refl
    | (extract_lets -underBinder +onlyGivenNames x; (have hty : TypeOf x = State := by with_reducible rfl); clear hty; apply Touches.cut 0xb31d6 s x; (case' kk => (clear_value x; intro _)); (case' vv => (unfold x; clear x)))
    | (extract_lets -underBinder +onlyGivenNames x; try clear_value x)
    | with_reducible apply Touches.ite
    | ((with_reducible apply dropPkt_touches); (case hm => rfl))
    | ((with_reducible apply State.bump_touches); (case hm => rfl))
    | ((with_reducible apply refused_touches); (case hm => rfl))
    | ((with_reducible apply stage678_touches); (case hm => rfl))

theorem forwardOn_touches {M : Nat} {r : State} (a0 : Nat) (a1 : Nat) (a2 : Nat) (a3 : Bool) (a4 : Pkt) (a5 : HDec) (s : State) (hs : Touches M r s) (hm : 0xb31d6 ||| M = M) :
    Touches M r (forwardOn a0 a1 a2 a3 a4 a5 s) := by
  refine Touches.step hs ?_ hm
  clear hs hm r M
  unfold forwardOn
  repeat' first
    | with_reducible assumption
    | with_reducible apply Touches.refl
    | ((with_reducible apply State.bump_touches); (case hm => rfl))
    | ((with_reducible apply lookupFwd_touches); (case hm => rfl))
    | ((with_reducible apply dropPkt_touches); (case hm => rfl))
    | ((with_reducible apply cutIngress_touches); (case hm => rfl))
    | ((with_reducible apply Touches.snd); (case eqn => assumption))
    | split

theorem denied_touches {M : Nat} {r : State} (a0 : Nat) (a1 : Pkt) (a2 : HDec) (s : State) (hs : Touches M r s) (hm : 0xb31d6 ||| M = M) :
    Touches M r (denied a0 a1 a2 s) := by
  refine Touches.step hs ?_ hm
  clear hs hm r M
  unfold denied
  repeat' first
    | with_reducible assumption
    | with_reducible apply Touches.refl
    | ((with_reducible apply stage678_touches); (case hm => rfl))
    | ((with_reducible apply State.bump_touches); (case hm => rfl))

theorem meetEcc_touches {M : Nat} {r : State} (a0 : Nat) (s : State) (a2 : Sys2Proof.EccHit) (hs : Touches M r s) (hm : 0x115c6 ||| M = M) :
    Touches M r (meetEcc a0 s a2) := by
  refine Touches.step hs ?_ hm
  clear hs hm r M
  unfold meetEcc
  repeat' first
    | with_reducible assumption
    | with_reducible apply Touches.refl
    | with_reducible apply Touches.ite
    | ((with_reducible apply memEcc_touches); (case hm => rfl))
    | ((with_reducible apply tableEcc_touches); (case hm => rfl))
    | ((with_reducible apply hedgeEcc_touches); (case hm => rfl))

theorem police_touches {M : Nat} {r : State} (a0 : Nat) (a1 : Stream) (a2 : Pkt) (s : State) (hs : Touches M r s) (hm : 0x20000 ||| M = M) :
    Touches M r ((police a0 a1 a2 s).2) := by
  refine Touches.step hs ?_ hm
  clear hs hm r M
  unfold police
  repeat' first
    | with_reducible assumption
    | with_reducible apply Touches.refl
    | (extract_lets -underBinder +onlyGivenNames x; (have hty : TypeOf x = State := by with_reducible rfl); clear hty; apply Touches.cut 0x20000 s x; (case' kk => (clear_value x; intro _)); (case' vv => (unfold x; clear x)))
    | (extract_lets -underBinder +onlyGivenNames x; try clear_value x)
    | with_reducible apply Touches.ite
    | ((with_reducible apply State.modStream_touches); (case hm => rfl))
    | split
    | (dsimp -zeta only)

theorem sourceLookup_touches {M : Nat} {r : State} (a0 : Nat) (a1 : Nat) (a2 : Pkt) (s : State) (hs : Touches M r s) (hm : 0x404 ||| M = M) :
    Touches M r (sourceLookup a0 a1 a2 s) := by
  refine Touches.step hs ?_ hm
  clear hs hm r M
  unfold sourceLookup
  repeat' first
    | with_reducible assumption
    | with_reducible apply Touches.refl
    | (extract_lets -underBinder +onlyGivenNames x; (have hty : TypeOf x = State := by with_reducible rfl); clear hty; apply Touches.cut 0x404 s x; (case' kk => (clear_value x; intro _)); (case' vv => (unfold x; clear x)))
    | (extract_lets -underBinder +onlyGivenNames x; try clear_value x)
    | with_reducible apply Touches.ite
    | ((with_reducible apply State.modTab_touches); (case hm => rfl))
    | ((with_reducible apply postLearn_touches); (case hm => rfl))
    | split

theorem stage5_touches {M : Nat} {r : State} (a0 : Nat) (a1 : Nat) (a2 : Bool) (a3 : Pkt) (s : State) (hs : Touches M r s) (hm : 0x404 ||| M = M) :
    Touches M r ((stage5 a0 a1 a2 a3 s).2) := by
  refine Touches.step hs ?_ hm
  clear hs hm r M
  unfold stage5
  repeat' first
    | with_reducible assumption
    | with_reducible apply Touches.refl
    | with_reducible apply Touches.ite
    | ((with_reducible apply State.bump_touches); (case hm => rfl))
    | ((with_reducible apply sourceLookup_touches); (case hm => rfl))
    | split
    | (dsimp -zeta only)

theorem taggedFrame_touches {M : Nat} {r : State} (a0 : Nat) (a1 : Nat) (a2 : Nat) (a3 : Stream) (a4 : Nat × Nat) (a5 : Pkt) (a6 : HDec) (s : State) (hs : Touches M r s) (hm : 0xb35d6 ||| M = M) :
    Touches M r (taggedFrame a0 a1 a2 a3 a4 a5 a6 s) := by
  refine Touches.step hs ?_ hm
  clear hs hm r M
  unfold taggedFrame
  repeat' first
    | with_reducible assumption
    | with_reducible apply Touches.refl
    | (extract_lets -underBinder +onlyGivenNames x; (have hty : TypeOf x = State := by with_reducible rfl); clear hty; apply Touches.cut 0xb35d6 s x; (case' kk => (clear_value x; intro _)); (case' vv => (unfold x; clear x)))
    | (extract_lets -underBinder +onlyGivenNames x; try clear_value x)
    | with_reducible apply Touches.ite
    | ((with_reducible apply stage5_touches); (case hm => rfl))
    | ((with_reducible apply dropPkt_touches); (case hm => rfl))
    | ((with_reducible apply forwardOn_touches); (case hm => rfl))
    | ((with_reducible apply cutIngress_touches); (case hm => rfl))
    | ((with_reducible apply Touches.snd); (case eqn => assumption))
    | split
    | ((with_reducible apply Touches.mem); (case hm => rfl))

theorem toSv_touches {M : Nat} {r : State} (a0 : Nat) (a1 : Pkt) (a2 : HDec) (s : State) (hs : Touches M r s) (hm : 0xb35d6 ||| M = M) :
    Touches M r (toSv a0 a1 a2 s) := by
  refine Touches.step hs ?_ hm
  clear hs hm r M
  unfold toSv
  repeat' first
    | with_reducible assumption
    | with_reducible apply Touches.refl
    | (extract_lets -underBinder +onlyGivenNames x; (have hty : TypeOf x = State := by with_reducible rfl); clear hty; apply Touches.cut 0xb35d6 s x; (case' kk => (clear_value x; intro _)); (case' vv => (unfold x; clear x)))
    | (extract_lets -underBinder +onlyGivenNames x; try clear_value x)
    | ((with_reducible apply stage678_touches); (case hm => rfl))
    | ((with_reducible apply stage5_touches); (case hm => rfl))
    | ((with_reducible apply Touches.snd); (case eqn => assumption))

theorem bestEffort_touches {M : Nat} {r : State} (a0 : Nat) (a1 : Nat) (a2 : Nat) (a3 : Bool) (a4 : Pkt) (a5 : HDec) (s : State) (hs : Touches M r s) (hm : 0xb35d6 ||| M = M) :
    Touches M r (bestEffort a0 a1 a2 a3 a4 a5 s) := by
  refine Touches.step hs ?_ hm
  clear hs hm r M
  unfold bestEffort
  repeat' first
    | with_reducible assumption
    | with_reducible apply Touches.refl
    | ((with_reducible apply stage5_touches); (case hm => rfl))
    | ((with_reducible apply forwardOn_touches); (case hm => rfl))
    | ((with_reducible apply State.bump_touches); (case hm => rfl))
    | ((with_reducible apply lookupFwd_touches); (case hm => rfl))
    | ((with_reducible apply dropPkt_touches); (case hm => rfl))
    | ((with_reducible apply cutIngress_touches); (case hm => rfl))
    | ((with_reducible apply Touches.snd); (case eqn => assumption))
    | split

theorem streamFrame_touches {M : Nat} {r : State} (a0 : Nat) (a1 : Nat) (a2 : Nat) (a3 : Nat) (a4 : Stream) (a5 : Pkt) (a6 : HDec) (s : State) (hs : Touches M r s) (hm : 0xb35d6 ||| M = M) :
    Touches M r (streamFrame a0 a1 a2 a3 a4 a5 a6 s) := by
  refine Touches.step hs ?_ hm
  clear hs hm r M
  unfold streamFrame
  repeat' first
    | with_reducible assumption
    | with_reducible apply Touches.refl
    | ((with_reducible apply stage5_touches); (case hm => rfl))
    | ((with_reducible apply forwardOn_touches); (case hm => rfl))
    | (extract_lets -underBinder +onlyGivenNames x; (have hty : TypeOf x = State := by with_reducible rfl); clear hty; apply Touches.cut 0xb35d6 s x; (case' kk => (clear_value x; intro _)); (case' vv => (unfold x; clear x)))
    | (extract_lets -underBinder +onlyGivenNames x; try clear_value x)
    | with_reducible apply Touches.ite
    | ((with_reducible apply State.modCc_touches); (case hm => rfl))
    | ((with_reducible apply police_touches); (case hm => rfl))
    | ((with_reducible apply bestEffort_touches); (case hm => rfl))
    | ((with_reducible apply dropPkt_touches); (case hm => rfl))
    | ((with_reducible apply cutIngress_touches); (case hm => rfl))
    | ((with_reducible apply Touches.snd); (case eqn => assumption))
    | split

theorem plainFrame_touches {M : Nat} {r : State} (a0 : Nat) (a1 : Nat) (a2 : Nat) (a3 : Pkt) (a4 : HDec) (s : State) (hs : Touches M r s) (hm : 0xb35d6 ||| M = M) :
    Touches M r (plainFrame a0 a1 a2 a3 a4 s) := by
  refine Touches.step hs ?_ hm
  clear hs hm r M
  unfold plainFrame
  repeat' first
    | with_reducible assumption
    | with_reducible apply Touches.refl
    | with_reducible apply Touches.ite
    | ((with_reducible apply meterFrame_touches); (case hm => rfl))
    | ((with_reducible apply bestEffort_touches); (case hm => rfl))
    | ((with_reducible apply dropPkt_touches); (case hm => rfl))
    | ((with_reducible apply Touches.fst); (case eqn => assumption))
    | split

theorem stage3_touches {M : Nat} {r : State} (a0 : Nat) (a1 : Nat) (a2 : Nat) (a3 : Pkt) (a4 : HDec) (s : State) (hs : Touches M r s) (hm : 0xb35d6 ||| M = M) :
    Touches M r (stage3 a0 a1 a2 a3 a4 s) := by
  refine Touches.step hs ?_ hm
  clear hs hm r M
  unfold stage3
  repeat' first
    | with_reducible assumption
    | with_reducible apply Touches.refl
    | with_reducible apply Touches.ite
    | ((with_reducible apply taggedFrame_touches); (case hm => rfl))
    | ((with_reducible apply plainFrame_touches); (case hm => rfl))
    | ((with_reducible apply streamFrame_touches); (case hm => rfl))
    | split

theorem stage2_touches {M : Nat} {r : State} (a0 : Nat) (a1 : Pkt) (s : State) (hs : Touches M r s) (hm : 0xb35d6 ||| M = M) :
    Touches M r (stage2 a0 a1 s) := by
  refine Touches.step hs ?_ hm
  clear hs hm r M
  unfold stage2
  repeat' first
    | with_reducible assumption
    | with_reducible apply Touches.refl
    | (extract_lets -underBinder +onlyGivenNames x; (have hty : TypeOf x = State := by with_reducible rfl); clear hty; apply Touches.cut 0xb35d6 s x; (case' kk => (clear_value x; intro _)); (case' vv => (unfold x; clear x)))
    | (extract_lets -underBinder +onlyGivenNames x; try clear_value x)
    | with_reducible apply Touches.ite
    | ((with_reducible apply hedgeDecide_touches); (case hm => rfl))
    | ((with_reducible apply toSv_touches); (case hm => rfl))
    | ((with_reducible apply dropPkt_touches); (case hm => rfl))
    | ((with_reducible apply State.bump_touches); (case hm => rfl))
    | ((with_reducible apply denied_touches); (case hm => rfl))
    | ((with_reducible apply stage3_touches); (case hm => rfl))
    | ((with_reducible apply sourceLookup_touches); (case hm => rfl))
    | ((with_reducible apply Touches.fst); (case eqn => assumption))
    | split

theorem pipeline_touches {M : Nat} {r : State} (a0 : Pkt) (s : State) (hs : Touches M r s) (hm : 0xb35d6 ||| M = M) :
    Touches M r (pipeline a0 s) := by
  refine Touches.step hs ?_ hm
  clear hs hm r M
  unfold pipeline
  repeat' first
    | with_reducible assumption
    | with_reducible apply Touches.refl
    | ((with_reducible apply dropPkt_touches); (case hm => rfl))
    | ((with_reducible apply State.bump_touches); (case hm => rfl))
    | ((with_reducible apply stage2_touches); (case hm => rfl))
    | split

theorem execPipelineFrame_touches {M : Nat} {r : State} (a0 : Sys2Proof.Port) (a1 : List Sys2Proof.EccHit) (s : State) (hs : Touches M r s) (hm : 0x10b35d6 ||| M = M) :
    TouchesR M r (execPipelineFrame a0 a1 s) := by
  refine TouchesR.step hs ?_ hm
  clear hs hm r M
  unfold execPipelineFrame
  repeat' first
    | with_reducible assumption
    | (intro _; try dsimp -zeta only)
    | (extract_lets -underBinder +onlyGivenNames x; (have hty : TypeOf x = State := by with_reducible rfl); clear hty; apply Touches.cut 0x10b35d6 s x; (case' kk => (clear_value x; intro _)); (case' vv => (unfold x; clear x)))
    | (extract_lets -underBinder +onlyGivenNames x; try clear_value x)
    | with_reducible apply Touches.refl
    | with_reducible apply TouchesR.next
    | with_reducible apply TouchesR.fault
    | with_reducible apply TouchesR.ite
    | with_reducible apply Touches.ite
    | ((with_reducible apply dropPkt_touches); (case hm => rfl))
    | ((with_reducible apply f3Check_touches); (case hm => rfl))
    | ((with_reducible apply meetEcc_touches); (case hm => rfl))
    | ((with_reducible apply pipeline_touches); (case hm => rfl))
    | with_reducible apply Touches.foldlD
    | split
    | ((with_reducible apply Touches.mem); (case hm => rfl))

end Sys2Proof.Machine
end

