-- ==== Sys2Proof/Laws/EgrSel.lean ====
section
/-! SUPPORT. What each function of Machine/EgrSel.lean touches: one lemma per function that answers a state. -/

set_option linter.tactic.unusedName false

namespace Sys2Proof.Machine

theorem nextSending_touches {M : Nat} {r : State} (a0 : Nat) (a1 : Sending) (s : State) (hs : Touches M r s) (hm : 0x2000 ||| M = M) :
    Touches M r (nextSending a0 a1 s) := by
  refine Touches.step hs ?_ hm
  clear hs hm r M
  unfold nextSending
  repeat' first
    | with_reducible assumption
    | with_reducible apply Touches.refl
    | (extract_lets -underBinder +onlyGivenNames x; (have hty : TypeOf x = State := by with_reducible rfl); clear hty; apply Touches.cut 0x2000 s x; (case' kk => (clear_value x; intro _)); (case' vv => (unfold x; clear x)))
    | (extract_lets -underBinder +onlyGivenNames x; try clear_value x)
    | ((with_reducible apply settleAt_touches); (case hm => rfl))
    | ((with_reducible apply State.modEport_touches); (case hm => rfl))
    | split

theorem servoSteer_touches {M : Nat} {r : State} (a0 : Nat) (a1 : Int) (s : State) (hs : Touches M r s) (hm : 0x208 ||| M = M) :
    Touches M r (servoSteer a0 a1 s) := by
  refine Touches.step hs ?_ hm
  clear hs hm r M
  unfold servoSteer
  repeat' first
    | with_reducible assumption
    | with_reducible apply Touches.refl
    | (extract_lets -underBinder +onlyGivenNames x; (have hty : TypeOf x = State := by with_reducible rfl); clear hty; apply Touches.cut 0x208 s x; (case' kk => (clear_value x; intro _)); (case' vv => (unfold x; clear x)))
    | (extract_lets -underBinder +onlyGivenNames x; try clear_value x)
    | with_reducible apply Touches.ite
    | ((with_reducible apply pendTime_touches); (case hm => rfl))
    | ((with_reducible apply State.setDom_touches); (case hm => rfl))
    | ((with_reducible apply State.drew_touches); (case hm => rfl))

theorem outBytes_touches {M : Nat} {r : State} (a0 : Nat) (a1 : Nat) (a2 : Cell) (s : State) (hs : Touches M r s) (hm : 0xc ||| M = M) :
    Touches M r ((outBytes a0 a1 a2 s).2) := by
  refine Touches.step hs ?_ hm
  clear hs hm r M
  unfold outBytes
  repeat' first
    | with_reducible assumption
    | with_reducible apply Touches.refl
    | with_reducible apply Touches.ite
    | ((with_reducible apply State.bump_touches); (case hm => rfl))
    | ((with_reducible apply State.drewN_touches); (case hm => rfl))
    | split
    | (dsimp -zeta only)

theorem startLegacy_touches {M : Nat} {r : State} (a0 : Nat) (a1 : Nat) (a2 : Cell) (s : State) (hs : Touches M r s) (hm : 0xb21d6 ||| M = M) :
    Touches M r (startLegacy a0 a1 a2 s) := by
  refine Touches.step hs ?_ hm
  clear hs hm r M
  unfold startLegacy
  repeat' first
    | with_reducible assumption
    | with_reducible apply Touches.refl
    | ((with_reducible apply legacyLoad_touches); (case hm => rfl))
    | split

theorem startWire_touches {M : Nat} {r : State} (a0 : Nat) (a1 : Nat) (a2 : Nat) (a3 : Nat) (a4 : Cell) (a5 : Sys2Proof.Bytes) (s : State) (hs : Touches M r s) (hm : 0x4421c6 ||| M = M) :
    Touches M r (startWire a0 a1 a2 a3 a4 a5 s) := by
  refine Touches.step hs ?_ hm
  clear hs hm r M
  unfold startWire
  repeat' first
    | with_reducible assumption
    | with_reducible apply Touches.refl
    | ((with_reducible apply nextSending_touches); (case hm => rfl))
    | (extract_lets -underBinder +onlyGivenNames x; (have hty : TypeOf x = State := by with_reducible rfl); clear hty; apply Touches.cut 0x4421c6 s x; (case' kk => (clear_value x; intro _)); (case' vv => (unfold x; clear x)))
    | (extract_lets -underBinder +onlyGivenNames x; try clear_value x)
    | with_reducible apply Touches.ite
    | ((with_reducible apply msecSend_touches); (case hm => rfl))
    | ((with_reducible apply State.modEport_touches); (case hm => rfl))
    | ((with_reducible apply Touches.snd); (case eqn => assumption))
    | split

theorem startCopy_touches {M : Nat} {r : State} (a0 : Nat) (a1 : Nat) (a2 : Nat) (a3 : Cell) (s : State) (hs : Touches M r s) (hm : 0x14f21de ||| M = M) :
    Touches M r (startCopy a0 a1 a2 a3 s) := by
  refine Touches.step hs ?_ hm
  clear hs hm r M
  unfold startCopy
  repeat' first
    | with_reducible assumption
    | with_reducible apply Touches.refl
    | ((with_reducible apply dropHead_touches); (case hm => rfl))
    | (extract_lets -underBinder +onlyGivenNames x; (have hty : TypeOf x = State := by with_reducible rfl); clear hty; apply Touches.cut 0x14f21de s x; (case' kk => (clear_value x; intro _)); (case' vv => (unfold x; clear x)))
    | (extract_lets -underBinder +onlyGivenNames x; try clear_value x)
    | with_reducible apply Touches.ite
    | ((with_reducible apply eccDiscard_touches); (case hm => rfl))
    | ((with_reducible apply State.unqueue_touches); (case hm => rfl))
    | ((with_reducible apply settle_touches); (case hm => rfl))
    | ((with_reducible apply outBytes_touches); (case hm => rfl))
    | ((with_reducible apply chargeShaper_touches); (case hm => rfl))
    | ((with_reducible apply State.bump_touches); (case hm => rfl))
    | ((with_reducible apply energyDebit_touches); (case hm => rfl))
    | ((with_reducible apply spend_touches); (case hm => rfl))
    | ((with_reducible apply startLegacy_touches); (case hm => rfl))
    | ((with_reducible apply startWire_touches); (case hm => rfl))
    | ((with_reducible apply Touches.snd); (case eqn => assumption))
    | split
    | ((with_reducible apply Touches.pair); (case hm => rfl))

theorem resumeAt_touches {M : Nat} {r : State} (a0 : Nat) (a1 : Nat) (a2 : Sending) (s : State) (hs : Touches M r s) (hm : 0x2000 ||| M = M) :
    Touches M r (resumeAt a0 a1 a2 s) := by
  refine Touches.step hs ?_ hm
  clear hs hm r M
  unfold resumeAt
  repeat' first
    | with_reducible assumption
    | with_reducible apply Touches.refl
    | ((with_reducible apply nextSending_touches); (case hm => rfl))
    | (extract_lets -underBinder +onlyGivenNames x; (have hty : TypeOf x = State := by with_reducible rfl); clear hty; apply Touches.cut 0x2000 s x; (case' kk => (clear_value x; intro _)); (case' vv => (unfold x; clear x)))
    | (extract_lets -underBinder +onlyGivenNames x; try clear_value x)
    | ((with_reducible apply settleAt_touches); (case hm => rfl))
    | ((with_reducible apply State.modEport_touches); (case hm => rfl))

theorem chooseNext_touches {M : Nat} {r : State} (a0 : Nat) (s : State) (hs : Touches M r s) (hm : 0x14f21de ||| M = M) :
    Touches M r (chooseNext a0 s) := by
  refine Touches.step hs ?_ hm
  clear hs hm r M
  unfold chooseNext
  repeat' first
    | with_reducible assumption
    | with_reducible apply Touches.refl
    | (extract_lets -underBinder +onlyGivenNames x; (have hty : TypeOf x = State := by with_reducible rfl); clear hty; apply Touches.cut 0x14f21de s x; (case' kk => (clear_value x; intro _)); (case' vv => (unfold x; clear x)))
    | (extract_lets -underBinder +onlyGivenNames x; try clear_value x)
    | with_reducible apply Touches.ite
    | ((with_reducible apply startCopy_touches); (case hm => rfl))
    | ((with_reducible apply resumeAt_touches); (case hm => rfl))
    | split

theorem dropQueueHeads_touches {M : Nat} {r : State} (a0 : Nat) (a1 : Nat) (a2 : List Cell) (s : State) (hs : Touches M r s) (hm : 0x321d6 ||| M = M) :
    Touches M r (dropQueueHeads a0 a1 a2 s) := by
  refine Touches.step hs ?_ hm
  clear hs hm r M
  suffices hq : ∀ r, Touches 0x321d6 r s → Touches 0x321d6 r (dropQueueHeads a0 a1 a2 s) from hq _ (Touches.refl _ _)
  induction a2 generalizing a0 a1 s with
  | nil =>
    intro r hs
    unfold dropQueueHeads
    repeat' first
      | with_reducible assumption
      | (intro _; try dsimp -zeta only)
      | (extract_lets -underBinder +onlyGivenNames x; (have hty : TypeOf x = State := by with_reducible rfl); clear hty; apply Touches.cut 0x321d6 r x; (case' kk => (clear_value x; intro _)); (case' vv => (unfold x; clear x)))
      | (extract_lets -underBinder +onlyGivenNames x; try clear_value x)
      | with_reducible apply Touches.refl
      | ((with_reducible apply dropHead_touches); (case hm => rfl))
      | with_reducible apply Touches.ite
      | with_reducible apply ih
      | ((with_reducible apply discardCopy_touches); (case hm => rfl))
      | ((with_reducible apply State.bump_touches); (case hm => rfl))
      | ((with_reducible apply State.unqueue_touches); (case hm => rfl))
      | ((with_reducible apply settle_touches); (case hm => rfl))
      | with_reducible apply Touches.foldlD
      | split
  | cons hd tl ih =>
    intro r hs
    unfold dropQueueHeads
    repeat' first
      | with_reducible assumption
      | (intro _; try dsimp -zeta only)
      | (extract_lets -underBinder +onlyGivenNames x; (have hty : TypeOf x = State := by with_reducible rfl); clear hty; apply Touches.cut 0x321d6 r x; (case' kk => (clear_value x; intro _)); (case' vv => (unfold x; clear x)))
      | (extract_lets -underBinder +onlyGivenNames x; try clear_value x)
      | with_reducible apply Touches.refl
      | ((with_reducible apply dropHead_touches); (case hm => rfl))
      | with_reducible apply Touches.ite
      | with_reducible apply ih
      | ((with_reducible apply discardCopy_touches); (case hm => rfl))
      | ((with_reducible apply State.bump_touches); (case hm => rfl))
      | ((with_reducible apply State.unqueue_touches); (case hm => rfl))
      | ((with_reducible apply settle_touches); (case hm => rfl))
      | with_reducible apply Touches.foldlD
      | split

theorem dropHeads_touches {M : Nat} {r : State} (a0 : Nat) (s : State) (hs : Touches M r s) (hm : 0x321d6 ||| M = M) :
    Touches M r (dropHeads a0 s) := by
  refine Touches.step hs ?_ hm
  clear hs hm r M
  unfold dropHeads
  repeat' first
    | with_reducible assumption
    | (intro _; try dsimp -zeta only)
    | with_reducible apply Touches.refl
    | ((with_reducible apply dropQueueHeads_touches); (case hm => rfl))
    | with_reducible apply Touches.foldlD

theorem heldHeads_touches {M : Nat} {r : State} (a0 : Nat) (s : State) (hs : Touches M r s) (hm : 0x4001c6 ||| M = M) :
    Touches M r (heldHeads a0 s) := by
  refine Touches.step hs ?_ hm
  clear hs hm r M
  unfold heldHeads
  repeat' first
    | with_reducible assumption
    | with_reducible apply Touches.refl
    | with_reducible apply Touches.ite
    | ((with_reducible apply tellHold_touches); (case hm => rfl))

theorem suspendAt_touches {M : Nat} {r : State} (a0 : Nat) (a1 : Sending) (a2 : Nat) (s : State) (hs : Touches M r s) (hm : 0x2004 ||| M = M) :
    Touches M r (suspendAt a0 a1 a2 s) := by
  refine Touches.step hs ?_ hm
  clear hs hm r M
  unfold suspendAt
  repeat' first
    | with_reducible assumption
    | with_reducible apply Touches.refl
    | (extract_lets -underBinder +onlyGivenNames x; (have hty : TypeOf x = State := by with_reducible rfl); clear hty; apply Touches.cut 0x2004 s x; (case' kk => (clear_value x; intro _)); (case' vv => (unfold x; clear x)))
    | (extract_lets -underBinder +onlyGivenNames x; try clear_value x)
    | ((with_reducible apply settleAt_touches); (case hm => rfl))
    | ((with_reducible apply State.bump_touches); (case hm => rfl))
    | ((with_reducible apply State.modEport_touches); (case hm => rfl))

theorem preemptAt_touches {M : Nat} {r : State} (a0 : Nat) (a1 : Sending) (a2 : Nat) (a3 : Nat) (s : State) (hs : Touches M r s) (hm : 0x14f21de ||| M = M) :
    Touches M r (preemptAt a0 a1 a2 a3 s) := by
  refine Touches.step hs ?_ hm
  clear hs hm r M
  unfold preemptAt
  repeat' first
    | with_reducible assumption
    | with_reducible apply Touches.refl
    | with_reducible apply Touches.ite
    | ((with_reducible apply startCopy_touches); (case hm => rfl))
    | ((with_reducible apply suspendAt_touches); (case hm => rfl))
    | split

theorem tryPreempt_touches {M : Nat} {r : State} (a0 : Nat) (a1 : Sending) (s : State) (hs : Touches M r s) (hm : 0x14f21de ||| M = M) :
    Touches M r (tryPreempt a0 a1 s) := by
  unfold tryPreempt
  cases cutAt s a0 a1 with
  | none => exact hs
  | some k => exact preemptAt_touches _ _ _ _ _ hs hm

theorem egressSelect_touches {M : Nat} {r : State} (a0 : Nat) (a1 : Option Sys2Proof.EccHit) (s : State) (hs : Touches M r s) (hm : 0x14f21de ||| M = M) :
    Touches M r (egressSelect a0 a1 s) := by
  refine Touches.step hs ?_ hm
  clear hs hm r M
  unfold egressSelect
  repeat' first
    | with_reducible assumption
    | with_reducible apply Touches.refl
    | (extract_lets -underBinder +onlyGivenNames x; (have hty : TypeOf x = State := by with_reducible rfl); clear hty; apply Touches.cut 0x14f21de s x; (case' kk => (clear_value x; intro _)); (case' vv => (unfold x; clear x)))
    | (extract_lets -underBinder +onlyGivenNames x; try clear_value x)
    | with_reducible apply Touches.ite
    | ((with_reducible apply flushPort_touches); (case hm => rfl))
    | ((with_reducible apply f3Check_touches); (case hm => rfl))
    | ((with_reducible apply memEcc_touches); (case hm => rfl))
    | ((with_reducible apply heldHeads_touches); (case hm => rfl))
    | ((with_reducible apply dropHeads_touches); (case hm => rfl))
    | ((with_reducible apply markHeld_touches); (case hm => rfl))
    | ((with_reducible apply tryPreempt_touches); (case hm => rfl))
    | ((with_reducible apply parkEnter_touches); (case hm => rfl))
    | ((with_reducible apply chooseNext_touches); (case hm => rfl))
    | split

theorem endSending_touches {M : Nat} {r : State} (a0 : Nat) (a1 : Sending) (a2 : Nat) (s : State) (hs : Touches M r s) (hm : 0x2004 ||| M = M) :
    Touches M r (endSending a0 a1 a2 s) := by
  refine Touches.step hs ?_ hm
  clear hs hm r M
  unfold endSending
  repeat' first
    | with_reducible assumption
    | with_reducible apply Touches.refl
    | (extract_lets -underBinder +onlyGivenNames x; (have hty : TypeOf x = State := by with_reducible rfl); clear hty; apply Touches.cut 0x2004 s x; (case' kk => (clear_value x; intro _)); (case' vv => (unfold x; clear x)))
    | (extract_lets -underBinder +onlyGivenNames x; try clear_value x)
    | with_reducible apply Touches.ite
    | ((with_reducible apply settleAt_touches); (case hm => rfl))
    | ((with_reducible apply State.modEport_touches); (case hm => rfl))
    | ((with_reducible apply State.bump_touches); (case hm => rfl))

theorem execEgressSelect_touches {M : Nat} {r : State} (a0 : Sys2Proof.Port) (a1 : Option Sys2Proof.EccHit) (s : State) (hs : Touches M r s) (hm : 0x14f21de ||| M = M) :
    TouchesR M r (execEgressSelect a0 a1 s) := by
  refine TouchesR.step hs ?_ hm
  clear hs hm r M
  unfold execEgressSelect
  repeat' first
    | with_reducible assumption
    | with_reducible apply Touches.refl
    | with_reducible apply TouchesR.next
    | with_reducible apply TouchesR.fault
    | ((with_reducible apply egressSelect_touches); (case hm => rfl))

theorem execFrameDepart_touches {M : Nat} {r : State} (a0 : Sys2Proof.Port) (s : State) (hs : Touches M r s) (hm : 0x321d6 ||| M = M) :
    TouchesR M r (execFrameDepart a0 s) := by
  refine TouchesR.step hs ?_ hm
  clear hs hm r M
  unfold execFrameDepart
  repeat' first
    | with_reducible assumption
    | with_reducible apply Touches.refl
    | (extract_lets -underBinder +onlyGivenNames x; (have hty : TypeOf x = State := by with_reducible rfl); clear hty; apply Touches.cut 0x321d6 s x; (case' kk => (clear_value x; intro _)); (case' vv => (unfold x; clear x)))
    | (extract_lets -underBinder +onlyGivenNames x; try clear_value x)
    | with_reducible apply TouchesR.next
    | with_reducible apply TouchesR.fault
    | with_reducible apply TouchesR.ite
    | with_reducible apply Touches.ite
    | ((with_reducible apply State.emit_touches); (case hm => rfl))
    | ((with_reducible apply endSending_touches); (case hm => rfl))
    | ((with_reducible apply parkEnter_touches); (case hm => rfl))
    | ((with_reducible apply departCopy_touches); (case hm => rfl))
    | split

theorem rxDeliver_touches {M : Nat} {r : State} (a0 : Sys2Proof.HostId) (a1 : Nat) (a2 : Nat) (a3 : Nat) (a4 : Nat) (a5 : Sending) (a6 : Buf) (s : State) (hs : Touches M r s) (hm : 0x321d6 ||| M = M) :
    Touches M r (rxDeliver a0 a1 a2 a3 a4 a5 a6 s) := by
  refine Touches.step hs ?_ hm
  clear hs hm r M
  unfold rxDeliver
  repeat' first
    | with_reducible assumption
    | with_reducible apply Touches.refl
    | (extract_lets -underBinder +onlyGivenNames x; (have hty : TypeOf x = State := by with_reducible rfl); clear hty; apply Touches.cut 0x321d6 s x; (case' kk => (clear_value x; intro _)); (case' vv => (unfold x; clear x)))
    | (extract_lets -underBinder +onlyGivenNames x; try clear_value x)
    | with_reducible apply Touches.ite
    | ((with_reducible apply endSending_touches); (case hm => rfl))
    | ((with_reducible apply putEntry_touches); (case hm => rfl))
    | ((with_reducible apply State.emit_touches); (case hm => rfl))
    | ((with_reducible apply doorbellFetch_touches); (case hm => rfl))
    | ((with_reducible apply departCopy_touches); (case hm => rfl))
    | ((with_reducible apply release_touches); (case hm => rfl))

theorem execHostRxDeliver_touches {M : Nat} {r : State} (a0 : Sys2Proof.HostId) (a1 : Sys2Proof.Bytes) (s : State) (hs : Touches M r s) (hm : 0x321d6 ||| M = M) :
    TouchesR M r (execHostRxDeliver a0 a1 s) := by
  refine TouchesR.step hs ?_ hm
  clear hs hm r M
  unfold execHostRxDeliver
  repeat' first
    | with_reducible assumption
    | with_reducible apply Touches.refl
    | (extract_lets -underBinder +onlyGivenNames x; (have hty : TypeOf x = State := by with_reducible rfl); clear hty; apply Touches.cut 0x321d6 s x; (case' kk => (clear_value x; intro _)); (case' vv => (unfold x; clear x)))
    | (extract_lets -underBinder +onlyGivenNames x; try clear_value x)
    | with_reducible apply TouchesR.next
    | with_reducible apply TouchesR.fault
    | with_reducible apply TouchesR.ite
    | with_reducible apply Touches.ite
    | ((with_reducible apply discardCopy_touches); (case hm => rfl))
    | ((with_reducible apply endSending_touches); (case hm => rfl))
    | ((with_reducible apply rxDeliver_touches); (case hm => rfl))
    | split

theorem execShaperEligible_touches {M : Nat} {r : State} (a0 : Sys2Proof.Port) (s : State) (hs : Touches M r s) (hm : 0x14f21de ||| M = M) :
    TouchesR M r (execShaperEligible a0 s) := by
  refine TouchesR.step hs ?_ hm
  clear hs hm r M
  unfold execShaperEligible
  repeat' first
    | with_reducible assumption
    | with_reducible apply Touches.refl
    | with_reducible apply TouchesR.next
    | with_reducible apply TouchesR.fault
    | ((with_reducible apply egressSelect_touches); (case hm => rfl))

theorem servoTake_touches {M : Nat} {r : State} (a0 : Nat) (a1 : Int) (a2 : Bool) (s : State) (hs : Touches M r s) (hm : 0x3ce ||| M = M) :
    Touches M r (servoTake a0 a1 a2 s) := by
  refine Touches.step hs ?_ hm
  clear hs hm r M
  unfold servoTake
  repeat' first
    | with_reducible assumption
    | with_reducible apply Touches.refl
    | (extract_lets -underBinder +onlyGivenNames x; (have hty : TypeOf x = State := by with_reducible rfl); clear hty; apply Touches.cut 0x3ce s x; (case' kk => (clear_value x; intro _)); (case' vv => (unfold x; clear x)))
    | (extract_lets -underBinder +onlyGivenNames x; try clear_value x)
    | with_reducible apply Touches.ite
    | ((with_reducible apply State.setDom_touches); (case hm => rfl))
    | ((with_reducible apply servoSteer_touches); (case hm => rfl))
    | ((with_reducible apply raise_touches); (case hm => rfl))

theorem execSvFrameTake_touches {M : Nat} {r : State} (a0 : Option Sys2Proof.EccHit) (a1 : Option (Nat × Int × Bool)) (s : State) (hs : Touches M r s) (hm : 0x14f23de ||| M = M) :
    TouchesR M r (execSvFrameTake a0 a1 s) := by
  refine TouchesR.step hs ?_ hm
  clear hs hm r M
  unfold execSvFrameTake
  repeat' first
    | with_reducible assumption
    | with_reducible apply Touches.refl
    | ((with_reducible apply State.bump_touches); (case hm => rfl))
    | (extract_lets -underBinder +onlyGivenNames x; (have hty : TypeOf x = State := by with_reducible rfl); clear hty; apply Touches.cut 0x14f23de s x; (case' kk => (clear_value x; intro _)); (case' vv => (unfold x; clear x)))
    | (extract_lets -underBinder +onlyGivenNames x; try clear_value x)
    | with_reducible apply TouchesR.next
    | with_reducible apply TouchesR.fault
    | with_reducible apply TouchesR.ite
    | with_reducible apply Touches.ite
    | ((with_reducible apply f3Check_touches); (case hm => rfl))
    | ((with_reducible apply memEcc_touches); (case hm => rfl))
    | ((with_reducible apply dropHeads_touches); (case hm => rfl))
    | ((with_reducible apply startCopy_touches); (case hm => rfl))
    | ((with_reducible apply departCopy_touches); (case hm => rfl))
    | ((with_reducible apply endSending_touches); (case hm => rfl))
    | ((with_reducible apply servoTake_touches); (case hm => rfl))
    | split

end Sys2Proof.Machine
end

