-- ==== Sys2Proof/Laws/Wake.lean ====
section
/-! SUPPORT. What each function of Machine/Wake.lean touches: one lemma per function that answers a state. -/

set_option linter.tactic.unusedName false

namespace Sys2Proof.Machine

theorem uncommit_touches {M : Nat} {r : State} (a0 : Nat) (s : State) (hs : Touches M r s) (hm : 0x200000 ||| M = M) :
    Touches M r (uncommit a0 s) := by
  refine Touches.step hs ?_ hm
  clear hs hm r M
  unfold uncommit
  repeat' first
    | with_reducible assumption
    | with_reducible apply Touches.refl
    | (extract_lets -underBinder +onlyGivenNames x; (have hty : TypeOf x = State := by with_reducible rfl); clear hty; apply Touches.cut 0x200000 s x; (case' kk => (clear_value x; intro _)); (case' vv => (unfold x; clear x)))
    | (extract_lets -underBinder +onlyGivenNames x; try clear_value x)
    | ((with_reducible apply State.modWake_touches); (case hm => rfl))

theorem wakeSay_touches {M : Nat} {r : State} (a0 : Nat) (a1 : Nat) (s : State) (hs : Touches M r s) (hm : 0xa00014 ||| M = M) :
    Touches M r (wakeSay a0 a1 s) := by
  refine Touches.step hs ?_ hm
  clear hs hm r M
  unfold wakeSay
  repeat' first
    | with_reducible assumption
    | with_reducible apply Touches.refl
    | with_reducible apply Touches.ite
    | ((with_reducible apply State.modWake_touches); (case hm => rfl))
    | ((with_reducible apply flood_touches); (case hm => rfl))
    | split

theorem abortCommit_touches {M : Nat} {r : State} (a0 : Nat) (a1 : WakeDue) (a2 : Nat) (s : State) (hs : Touches M r s) (hm : 0xab21d6 ||| M = M) :
    Touches M r (abortCommit a0 a1 a2 s) := by
  refine Touches.step hs ?_ hm
  clear hs hm r M
  unfold abortCommit
  repeat' first
    | with_reducible assumption
    | (intro _; try dsimp -zeta only)
    | (extract_lets -underBinder +onlyGivenNames x; (have hty : TypeOf x = State := by with_reducible rfl); clear hty; apply Touches.cut 0xab21d6 s x; (case' kk => (clear_value x; intro _)); (case' vv => (unfold x; clear x)))
    | (extract_lets -underBinder +onlyGivenNames x; try clear_value x)
    | with_reducible apply Touches.refl
    | with_reducible apply Touches.ite
    | ((with_reducible apply portsByCluster_touches); (case hm => rfl))
    | ((with_reducible apply uncommit_touches); (case hm => rfl))
    | ((with_reducible apply State.bumpBy_touches); (case hm => rfl))
    | ((with_reducible apply raise_touches); (case hm => rfl))
    | ((with_reducible apply wakeSay_touches); (case hm => rfl))
    | ((with_reducible apply sendWakeOn_touches); (case hm => rfl))
    | with_reducible apply Touches.foldlD

theorem becomeAwake_touches {M : Nat} {r : State} (a0 : Nat) (a1 : Nat) (s : State) (hs : Touches M r s) (hm : 0x2b21d6 ||| M = M) :
    Touches M r (becomeAwake a0 a1 s) := by
  refine Touches.step hs ?_ hm
  clear hs hm r M
  unfold becomeAwake
  repeat' first
    | with_reducible assumption
    | (intro _; try dsimp -zeta only)
    | (extract_lets -underBinder +onlyGivenNames x; (have hty : TypeOf x = State := by with_reducible rfl); clear hty; apply Touches.cut 0x2b21d6 s x; (case' kk => (clear_value x; intro _)); (case' vv => (unfold x; clear x)))
    | (extract_lets -underBinder +onlyGivenNames x; try clear_value x)
    | with_reducible apply Touches.refl
    | ((with_reducible apply State.modWake_touches); (case hm => rfl))
    | ((with_reducible apply portTo_touches); (case hm => rfl))
    | ((with_reducible apply uncommit_touches); (case hm => rfl))
    | ((with_reducible apply sendWakeOn_touches); (case hm => rfl))
    | with_reducible apply Touches.foldlD

theorem wakeHold_touches {M : Nat} {r : State} (a0 : WakeDue) (s : State) (hs : Touches M r s) (hm : 0x200000 ||| M = M) :
    Touches M r (wakeHold a0 s) := by
  refine Touches.step hs ?_ hm
  clear hs hm r M
  unfold wakeHold
  repeat' first
    | with_reducible assumption
    | (intro _; try dsimp -zeta only)
    | with_reducible apply Touches.refl
    | with_reducible apply Touches.ite
    | ((with_reducible apply State.modWake_touches); (case hm => rfl))
    | with_reducible apply Touches.foldlD

theorem wakeShow_touches {M : Nat} {r : State} (a0 : WakeDue) (s : State) (hs : Touches M r s) (hm : 0x1c6 ||| M = M) :
    Touches M r (wakeShow a0 s) := by
  refine Touches.step hs ?_ hm
  clear hs hm r M
  unfold wakeShow
  repeat' first
    | with_reducible assumption
    | with_reducible apply Touches.refl
    | (extract_lets -underBinder +onlyGivenNames x; (have hty : TypeOf x = State := by with_reducible rfl); clear hty; apply Touches.cut 0x1c6 s x; (case' kk => (clear_value x; intro _)); (case' vv => (unfold x; clear x)))
    | (extract_lets -underBinder +onlyGivenNames x; try clear_value x)
    | with_reducible apply Touches.ite
    | ((with_reducible apply State.setFld_touches); (case hm => rfl))
    | ((with_reducible apply State.bump_touches); (case hm => rfl))
    | ((with_reducible apply raise_touches); (case hm => rfl))

theorem ordinaryWake_touches {M : Nat} {r : State} (a0 : WakeDue) (a1 : Nat) (a2 : Nat) (a3 : Nat) (s : State) (hs : Touches M r s) (hm : 0xab21d6 ||| M = M) :
    Touches M r (ordinaryWake a0 a1 a2 a3 s) := by
  refine Touches.step hs ?_ hm
  clear hs hm r M
  unfold ordinaryWake
  repeat' first
    | with_reducible assumption
    | with_reducible apply Touches.refl
    | (extract_lets -underBinder +onlyGivenNames x; (have hty : TypeOf x = State := by with_reducible rfl); clear hty; apply Touches.cut 0xab21d6 s x; (case' kk => (clear_value x; intro _)); (case' vv => (unfold x; clear x)))
    | (extract_lets -underBinder +onlyGivenNames x; try clear_value x)
    | with_reducible apply Touches.ite
    | ((with_reducible apply becomeAwake_touches); (case hm => rfl))
    | ((with_reducible apply wakeSay_touches); (case hm => rfl))

theorem wakeNow_touches {M : Nat} {r : State} (a0 : WakeDue) (a1 : Nat) (s : State) (hs : Touches M r s) (hm : 0xab21d6 ||| M = M) :
    Touches M r (wakeNow a0 a1 s) := by
  refine Touches.step hs ?_ hm
  clear hs hm r M
  unfold wakeNow
  repeat' first
    | with_reducible assumption
    | with_reducible apply Touches.refl
    | (extract_lets -underBinder +onlyGivenNames x; (have hty : TypeOf x = State := by with_reducible rfl); clear hty; apply Touches.cut 0xab21d6 s x; (case' kk => (clear_value x; intro _)); (case' vv => (unfold x; clear x)))
    | (extract_lets -underBinder +onlyGivenNames x; try clear_value x)
    | with_reducible apply Touches.ite
    | ((with_reducible apply wakeHold_touches); (case hm => rfl))
    | ((with_reducible apply wakeShow_touches); (case hm => rfl))
    | ((with_reducible apply abortCommit_touches); (case hm => rfl))
    | ((with_reducible apply ordinaryWake_touches); (case hm => rfl))

theorem wakeEvent_touches {M : Nat} {r : State} (a0 : WakeDue) (a1 : Nat) (s : State) (hs : Touches M r s) (hm : 0x8ab25d6 ||| M = M) :
    Touches M r (wakeEvent a0 a1 s) := by
  refine Touches.step hs ?_ hm
  clear hs hm r M
  unfold wakeEvent
  repeat' first
    | with_reducible assumption
    | with_reducible apply Touches.refl
    | (extract_lets -underBinder +onlyGivenNames x; (have hty : TypeOf x = State := by with_reducible rfl); clear hty; apply Touches.cut 0x8ab25d6 s x; (case' kk => (clear_value x; intro _)); (case' vv => (unfold x; clear x)))
    | (extract_lets -underBinder +onlyGivenNames x; try clear_value x)
    | with_reducible apply Touches.ite
    | ((with_reducible apply wakeNow_touches); (case hm => rfl))
    | ((with_reducible apply trigger_touches); (case hm => rfl))
    | ((with_reducible apply State.modWake_touches); (case hm => rfl))

theorem execNetSleepVote_touches {M : Nat} {r : State} (a0 : Sys2Proof.CmdCtx) (s : State) (hs : Touches M r s) (hm : 0x8ab25d6 ||| M = M) :
    TouchesR M r (execNetSleepVote a0 s) := by
  refine TouchesR.step hs ?_ hm
  clear hs hm r M
  unfold execNetSleepVote
  repeat' first
    | with_reducible assumption
    | (intro _; try dsimp -zeta only)
    | (extract_lets -underBinder +onlyGivenNames x; (have hty : TypeOf x = State := by with_reducible rfl); clear hty; apply Touches.cut 0x8ab25d6 s x; (case' kk => (clear_value x; intro _)); (case' vv => (unfold x; clear x)))
    | (extract_lets -underBinder +onlyGivenNames x; try clear_value x)
    | with_reducible apply Touches.refl
    | with_reducible apply TouchesR.next
    | with_reducible apply TouchesR.fault
    | with_reducible apply TouchesR.ite
    | with_reducible apply Touches.ite
    | ((with_reducible apply command_touches); (case hm => rfl))
    | ((with_reducible apply complete_touches); (case hm => rfl))
    | ((with_reducible apply State.setFld_touches); (case hm => rfl))
    | ((with_reducible apply State.modWake_touches); (case hm => rfl))
    | ((with_reducible apply wakeEvent_touches); (case hm => rfl))
    | split

theorem sleepRequest_touches {M : Nat} {r : State} (s : State) (hs : Touches M r s) (hm : 0x8ab25de ||| M = M) :
    Touches M r (sleepRequest s) := by
  refine Touches.step hs ?_ hm
  clear hs hm r M
  unfold sleepRequest
  repeat' first
    | with_reducible assumption
    | with_reducible apply Touches.refl
    | with_reducible apply Touches.ite
    | ((with_reducible apply pwrRequest_touches); (case hm => rfl))
    | ((with_reducible apply State.modWake_touches); (case hm => rfl))
    | ((with_reducible apply Touches.snd); (case eqn => assumption))
    | split

theorem settledNow_touches {M : Nat} {r : State} (a0 : Bool) (s : State) (hs : Touches M r s) (hm : 0x8ab25de ||| M = M) :
    Touches M r (settledNow a0 s) := by
  refine Touches.step hs ?_ hm
  clear hs hm r M
  unfold settledNow
  repeat' first
    | with_reducible assumption
    | with_reducible apply Touches.refl
    | with_reducible apply Touches.ite
    | ((with_reducible apply sleepRequest_touches); (case hm => rfl))

theorem execPortStateForced_touches {M : Nat} {r : State} (a0 : Sys2Proof.Port) (s : State) (hs : Touches M r s) (hm : 0x8ab65de ||| M = M) :
    TouchesR M r (execPortStateForced a0 s) := by
  refine TouchesR.step hs ?_ hm
  clear hs hm r M
  unfold execPortStateForced
  repeat' first
    | with_reducible assumption
    | with_reducible apply Touches.refl
    | with_reducible apply TouchesR.next
    | with_reducible apply TouchesR.fault
    | ((with_reducible apply settledNow_touches); (case hm => rfl))
    | ((with_reducible apply portForced_touches); (case hm => rfl))

theorem execPortStateReached_touches {M : Nat} {r : State} (a0 : Sys2Proof.Port) (s : State) (hs : Touches M r s) (hm : 0x8ab65de ||| M = M) :
    TouchesR M r (execPortStateReached a0 s) := by
  refine TouchesR.step hs ?_ hm
  clear hs hm r M
  unfold execPortStateReached
  repeat' first
    | with_reducible assumption
    | with_reducible apply Touches.refl
    | with_reducible apply TouchesR.next
    | with_reducible apply TouchesR.fault
    | ((with_reducible apply settledNow_touches); (case hm => rfl))
    | ((with_reducible apply portReachedNow_touches); (case hm => rfl))

theorem portWake_touches {M : Nat} {r : State} (a0 : Nat) (s : State) (hs : Touches M r s) (hm : 0x8ab25d6 ||| M = M) :
    Touches M r (portWake a0 s) := by
  refine Touches.step hs ?_ hm
  clear hs hm r M
  unfold portWake
  repeat' first
    | with_reducible assumption
    | with_reducible apply Touches.refl
    | ((with_reducible apply wakeEvent_touches); (case hm => rfl))

theorem execPortWakeDetect_touches {M : Nat} {r : State} (a0 : Sys2Proof.Port) (a1 : Bool) (a2 : Nat) (s : State) (hs : Touches M r s) (hm : 0x8ab25d6 ||| M = M) :
    TouchesR M r (execPortWakeDetect a0 a1 a2 s) := by
  refine TouchesR.step hs ?_ hm
  clear hs hm r M
  unfold execPortWakeDetect
  repeat' first
    | with_reducible assumption
    | with_reducible apply Touches.refl
    | with_reducible apply TouchesR.next
    | with_reducible apply TouchesR.fault
    | with_reducible apply TouchesR.ite
    | with_reducible apply Touches.ite
    | ((with_reducible apply portWake_touches); (case hm => rfl))

theorem execSleepCommitTime_touches {M : Nat} {r : State} (s : State) (hs : Touches M r s) (hm : 0x8ab25de ||| M = M) :
    TouchesR M r (execSleepCommitTime s) := by
  refine TouchesR.step hs ?_ hm
  clear hs hm r M
  unfold execSleepCommitTime
  repeat' first
    | with_reducible assumption
    | (intro _; try dsimp -zeta only)
    | (extract_lets -underBinder +onlyGivenNames x; (have hty : TypeOf x = State := by with_reducible rfl); clear hty; apply Touches.cut 0x8ab25de s x; (case' kk => (clear_value x; intro _)); (case' vv => (unfold x; clear x)))
    | (extract_lets -underBinder +onlyGivenNames x; try clear_value x)
    | with_reducible apply Touches.refl
    | with_reducible apply TouchesR.next
    | with_reducible apply TouchesR.fault
    | with_reducible apply TouchesR.ite
    | with_reducible apply Touches.ite
    | ((with_reducible apply State.modWake_touches); (case hm => rfl))
    | ((with_reducible apply sleepRequest_touches); (case hm => rfl))
    | ((with_reducible apply endSettling_touches); (case hm => rfl))
    | ((with_reducible apply portsByCluster_touches); (case hm => rfl))
    | with_reducible apply Touches.foldlD

theorem votedAwake_touches {M : Nat} {r : State} (a0 : Nat) (s : State) (hs : Touches M r s) (hm : 0x200000 ||| M = M) :
    Touches M r (votedAwake a0 s) := by
  refine Touches.step hs ?_ hm
  clear hs hm r M
  unfold votedAwake
  repeat' first
    | with_reducible assumption
    | (intro _; try dsimp -zeta only)
    | with_reducible apply Touches.refl
    | ((with_reducible apply State.modWake_touches); (case hm => rfl))
    | with_reducible apply Touches.foldlD

theorem voteIn_touches {M : Nat} {r : State} (a0 : Sys2Proof.SleepMsg) (s : State) (hs : Touches M r s) (hm : 0x2b21d6 ||| M = M) :
    Touches M r (voteIn a0 s) := by
  refine Touches.step hs ?_ hm
  clear hs hm r M
  unfold voteIn
  repeat' first
    | with_reducible assumption
    | with_reducible apply Touches.refl
    | (extract_lets -underBinder +onlyGivenNames x; (have hty : TypeOf x = State := by with_reducible rfl); clear hty; apply Touches.cut 0x2b21d6 s x; (case' kk => (clear_value x; intro _)); (case' vv => (unfold x; clear x)))
    | (extract_lets -underBinder +onlyGivenNames x; try clear_value x)
    | with_reducible apply Touches.ite
    | ((with_reducible apply votedAwake_touches); (case hm => rfl))
    | ((with_reducible apply State.modWake_touches); (case hm => rfl))
    | ((with_reducible apply becomeAwake_touches); (case hm => rfl))

theorem takeCommit_touches {M : Nat} {r : State} (a0 : Nat) (a1 : Nat) (a2 : Bool) (s : State) (hs : Touches M r s) (hm : 0x2001c6 ||| M = M) :
    Touches M r (takeCommit a0 a1 a2 s) := by
  refine Touches.step hs ?_ hm
  clear hs hm r M
  unfold takeCommit
  repeat' first
    | with_reducible assumption
    | with_reducible apply Touches.refl
    | (extract_lets -underBinder +onlyGivenNames x; (have hty : TypeOf x = State := by with_reducible rfl); clear hty; apply Touches.cut 0x2001c6 s x; (case' kk => (clear_value x; intro _)); (case' vv => (unfold x; clear x)))
    | (extract_lets -underBinder +onlyGivenNames x; try clear_value x)
    | ((with_reducible apply State.modWake_touches); (case hm => rfl))
    | ((with_reducible apply State.bump_touches); (case hm => rfl))
    | ((with_reducible apply raise_touches); (case hm => rfl))

theorem wakeIn_touches {M : Nat} {r : State} (a0 : Sys2Proof.SleepMsg) (s : State) (hs : Touches M r s) (hm : 0x8ab25d6 ||| M = M) :
    Touches M r (wakeIn a0 s) := by
  refine Touches.step hs ?_ hm
  clear hs hm r M
  unfold wakeIn
  repeat' first
    | with_reducible assumption
    | with_reducible apply Touches.refl
    | ((with_reducible apply wakeEvent_touches); (case hm => rfl))
    | ((with_reducible apply votedAwake_touches); (case hm => rfl))

theorem execSleepMessageReceived_touches {M : Nat} {r : State} (a0 : Sys2Proof.Port) (a1 : Sys2Proof.SleepMsg) (s : State) (hs : Touches M r s) (hm : 0x8ab25d6 ||| M = M) :
    TouchesR M r (execSleepMessageReceived a0 a1 s) := by
  refine TouchesR.step hs ?_ hm
  clear hs hm r M
  unfold execSleepMessageReceived
  repeat' first
    | with_reducible assumption
    | with_reducible apply Touches.refl
    | (extract_lets -underBinder +onlyGivenNames x; (have hty : TypeOf x = State := by with_reducible rfl); clear hty; apply Touches.cut 0x8ab25d6 s x; (case' kk => (clear_value x; intro _)); (case' vv => (unfold x; clear x)))
    | (extract_lets -underBinder +onlyGivenNames x; try clear_value x)
    | with_reducible apply TouchesR.next
    | with_reducible apply TouchesR.fault
    | with_reducible apply TouchesR.ite
    | with_reducible apply Touches.ite
    | ((with_reducible apply flood_touches); (case hm => rfl))
    | ((with_reducible apply voteIn_touches); (case hm => rfl))
    | ((with_reducible apply takeCommit_touches); (case hm => rfl))
    | ((with_reducible apply wakeIn_touches); (case hm => rfl))

theorem execSleepSettleExpiry_touches {M : Nat} {r : State} (s : State) (hs : Touches M r s) (hm : 0xa001d6 ||| M = M) :
    TouchesR M r (execSleepSettleExpiry s) := by
  refine TouchesR.step hs ?_ hm
  clear hs hm r M
  unfold execSleepSettleExpiry
  repeat' first
    | with_reducible assumption
    | (intro _; try dsimp -zeta only)
    | (extract_lets -underBinder +onlyGivenNames x; (have hty : TypeOf x = State := by with_reducible rfl); clear hty; apply Touches.cut 0xa001d6 s x; (case' kk => (clear_value x; intro _)); (case' vv => (unfold x; clear x)))
    | (extract_lets -underBinder +onlyGivenNames x; try clear_value x)
    | with_reducible apply Touches.refl
    | with_reducible apply TouchesR.next
    | with_reducible apply TouchesR.fault
    | with_reducible apply TouchesR.ite
    | with_reducible apply Touches.ite
    | ((with_reducible apply flood_touches); (case hm => rfl))
    | ((with_reducible apply takeCommit_touches); (case hm => rfl))
    | with_reducible apply Touches.foldlD

theorem execSleepStateRetry_touches {M : Nat} {r : State} (s : State) (hs : Touches M r s) (hm : 0x8ab25de ||| M = M) :
    TouchesR M r (execSleepStateRetry s) := by
  refine TouchesR.step hs ?_ hm
  clear hs hm r M
  unfold execSleepStateRetry
  repeat' first
    | with_reducible assumption
    | with_reducible apply Touches.refl
    | with_reducible apply TouchesR.next
    | with_reducible apply TouchesR.fault
    | with_reducible apply TouchesR.ite
    | with_reducible apply Touches.ite
    | ((with_reducible apply sleepRequest_touches); (case hm => rfl))
    | split

theorem sayWaiting_touches {M : Nat} {r : State} (s : State) (hs : Touches M r s) (hm : 0xa00014 ||| M = M) :
    Touches M r (sayWaiting s) := by
  refine Touches.step hs ?_ hm
  clear hs hm r M
  unfold sayWaiting
  repeat' first
    | with_reducible assumption
    | with_reducible apply Touches.refl
    | with_reducible apply Touches.ite
    | ((with_reducible apply wakeSay_touches); (case hm => rfl))
    | ((with_reducible apply State.modWake_touches); (case hm => rfl))
    | split

theorem execSleepVoteSend_touches {M : Nat} {r : State} (s : State) (hs : Touches M r s) (hm : 0xa00014 ||| M = M) :
    TouchesR M r (execSleepVoteSend s) := by
  refine TouchesR.step hs ?_ hm
  clear hs hm r M
  unfold execSleepVoteSend
  repeat' first
    | with_reducible assumption
    | with_reducible apply Touches.refl
    | (extract_lets -underBinder +onlyGivenNames x; (have hty : TypeOf x = State := by with_reducible rfl); clear hty; apply Touches.cut 0xa00014 s x; (case' kk => (clear_value x; intro _)); (case' vv => (unfold x; clear x)))
    | (extract_lets -underBinder +onlyGivenNames x; try clear_value x)
    | with_reducible apply TouchesR.next
    | with_reducible apply TouchesR.fault
    | with_reducible apply TouchesR.ite
    | with_reducible apply Touches.ite
    | ((with_reducible apply sayWaiting_touches); (case hm => rfl))
    | ((with_reducible apply votedAwake_touches); (case hm => rfl))
    | ((with_reducible apply State.modWake_touches); (case hm => rfl))
    | ((with_reducible apply flood_touches); (case hm => rfl))

theorem execTc10SleepRequest_touches {M : Nat} {r : State} (a0 : Sys2Proof.Port) (s : State) (hs : Touches M r s) (hm : 0x10 ||| M = M) :
    TouchesR M r (execTc10SleepRequest a0 s) := by
  refine TouchesR.step hs ?_ hm
  clear hs hm r M
  unfold execTc10SleepRequest
  repeat' first
    | with_reducible assumption
    | with_reducible apply Touches.refl
    | with_reducible apply TouchesR.next
    | with_reducible apply TouchesR.fault
    | with_reducible apply TouchesR.ite
    | with_reducible apply Touches.ite
    | ((with_reducible apply State.emit_touches); (case hm => rfl))

theorem execWakeHoldTick_touches {M : Nat} {r : State} (s : State) (hs : Touches M r s) (hm : 0x2001c6 ||| M = M) :
    TouchesR M r (execWakeHoldTick s) := by
  refine TouchesR.step hs ?_ hm
  clear hs hm r M
  unfold execWakeHoldTick
  repeat' first
    | with_reducible assumption
    | with_reducible apply Touches.refl
    | (extract_lets -underBinder +onlyGivenNames x; (have hty : TypeOf x = State := by with_reducible rfl); clear hty; apply Touches.cut 0x2001c6 s x; (case' kk => (clear_value x; intro _)); (case' vv => (unfold x; clear x)))
    | (extract_lets -underBinder +onlyGivenNames x; try clear_value x)
    | with_reducible apply TouchesR.next
    | with_reducible apply TouchesR.fault
    | with_reducible apply TouchesR.ite
    | with_reducible apply Touches.ite
    | ((with_reducible apply State.modWake_touches); (case hm => rfl))
    | ((with_reducible apply raise_touches); (case hm => rfl))
    | ((with_reducible apply State.bumpBy_touches); (case hm => rfl))

theorem execWakeInDetect_touches {M : Nat} {r : State} (a0 : Fin 4) (a1 : Bool) (a2 : Nat) (s : State) (hs : Touches M r s) (hm : 0x8ab25d6 ||| M = M) :
    TouchesR M r (execWakeInDetect a0 a1 a2 s) := by
  refine TouchesR.step hs ?_ hm
  clear hs hm r M
  unfold execWakeInDetect
  repeat' first
    | with_reducible assumption
    | with_reducible apply Touches.refl
    | with_reducible apply TouchesR.next
    | with_reducible apply TouchesR.fault
    | with_reducible apply TouchesR.ite
    | with_reducible apply Touches.ite
    | ((with_reducible apply wakeEvent_touches); (case hm => rfl))

theorem wakeAfterExit_touches {M : Nat} {r : State} (s : State) (hs : Touches M r s) (hm : 0xab21d6 ||| M = M) :
    Touches M r (wakeAfterExit s) := by
  refine Touches.step hs ?_ hm
  clear hs hm r M
  unfold wakeAfterExit
  repeat' first
    | with_reducible assumption
    | (intro _; try dsimp -zeta only)
    | with_reducible apply Touches.refl
    | ((with_reducible apply ordinaryWake_touches); (case hm => rfl))
    | ((with_reducible apply wakeHold_touches); (case hm => rfl))
    | ((with_reducible apply wakeShow_touches); (case hm => rfl))
    | ((with_reducible apply State.modWake_touches); (case hm => rfl))
    | with_reducible apply Touches.foldlD

end Sys2Proof.Machine
end

