-- ==== Sys2Proof/Laws/PowerRows.lean ====
section
/-! SUPPORT. What each function of Machine/PowerRows.lean touches: one lemma per function that answers a state. -/

set_option linter.tactic.unusedName false

namespace Sys2Proof.Machine

theorem braceEnd_touches {M : Nat} {r : State} (s : State) (hs : Touches M r s) (hm : 0x1000a006 ||| M = M) :
    Touches M r (braceEnd s) := by
  refine Touches.step hs ?_ hm
  clear hs hm r M
  unfold braceEnd
  repeat' first
    | with_reducible assumption
    | with_reducible apply Touches.refl
    | (extract_lets -underBinder +onlyGivenNames x; (have hty : TypeOf x = State := by with_reducible rfl); clear hty; apply Touches.cut 0x1000a006 s x; (case' kk => (clear_value x; intro _)); (case' vv => (unfold x; clear x)))
    | (extract_lets -underBinder +onlyGivenNames x; try clear_value x)
    | with_reducible apply Touches.ite
    | ((with_reducible apply settleEnergy_touches); (case hm => rfl))
    | ((with_reducible apply migrateSettings_touches); (case hm => rfl))
    | ((with_reducible apply State.bumpBy_touches); (case hm => rfl))
    | ((with_reducible apply Touches.brace); (case hm => rfl))

theorem braceStart_touches {M : Nat} {r : State} (s : State) (hs : Touches M r s) (hm : 0x1840a0d6 ||| M = M) :
    Touches M r (braceStart s) := by
  refine Touches.step hs ?_ hm
  clear hs hm r M
  unfold braceStart
  repeat' first
    | with_reducible assumption
    | with_reducible apply Touches.refl
    | (extract_lets -underBinder +onlyGivenNames x; (have hty : TypeOf x = State := by with_reducible rfl); clear hty; apply Touches.cut 0x1840a0d6 s x; (case' kk => (clear_value x; intro _)); (case' vv => (unfold x; clear x)))
    | (extract_lets -underBinder +onlyGivenNames x; try clear_value x)
    | with_reducible apply Touches.ite
    | ((with_reducible apply settleEnergy_touches); (case hm => rfl))
    | ((with_reducible apply abandonAct_touches); (case hm => rfl))
    | ((with_reducible apply State.bump_touches); (case hm => rfl))
    | ((with_reducible apply Touches.brace); (case hm => rfl))
    | ((with_reducible apply Touches.pwr); (case hm => rfl))
    | ((with_reducible apply Touches.lit (F := 0x8008000)); (case l1 => with_reducible rfl); (case l2 => with_reducible rfl); (case l3 => with_reducible rfl); (case l4 => with_reducible rfl); (case l5 => rfl); (case hm => rfl); (case ag => (constructor <;> first | exact tb rfl | exact fun _ => rfl)))

theorem execActivationPauseEnd_touches {M : Nat} {r : State} (s : State) (hs : Touches M r s) (hm : 0x3ecb25de ||| M = M) :
    TouchesR M r (execActivationPauseEnd s) := by
  refine TouchesR.step hs ?_ hm
  clear hs hm r M
  unfold execActivationPauseEnd
  repeat' first
    | with_reducible assumption
    | with_reducible apply Touches.refl
    | with_reducible apply TouchesR.next
    | with_reducible apply TouchesR.fault
    | with_reducible apply TouchesR.ite
    | with_reducible apply Touches.ite
    | ((with_reducible apply warmResume_touches); (case hm => rfl))
    | ((with_reducible apply pauseEnd_touches); (case hm => rfl))
    | split

theorem execClockLoss_touches {M : Nat} {r : State} (a0 : Fin 4) (s : State) (hs : Touches M r s) (hm : 0x10b21d6 ||| M = M) :
    TouchesR M r (execClockLoss a0 s) := by
  refine TouchesR.step hs ?_ hm
  clear hs hm r M
  unfold execClockLoss
  repeat' first
    | with_reducible assumption
    | with_reducible apply Touches.refl
    | with_reducible apply TouchesR.next
    | with_reducible apply TouchesR.fault
    | with_reducible apply TouchesR.ite
    | with_reducible apply Touches.ite
    | ((with_reducible apply raiseF3_touches); (case hm => rfl))
    | ((with_reducible apply State.setFld_touches); (case hm => rfl))

theorem execExitTrigger_touches {M : Nat} {r : State} (a0 : Fin 9) (s : State) (hs : Touches M r s) (hm : 0x9ab25d6 ||| M = M) :
    TouchesR M r (execExitTrigger a0 s) := by
  refine TouchesR.step hs ?_ hm
  clear hs hm r M
  unfold execExitTrigger
  repeat' first
    | with_reducible assumption
    | with_reducible apply Touches.refl
    | (extract_lets -underBinder +onlyGivenNames x; (have hty : TypeOf x = State := by with_reducible rfl); clear hty; apply Touches.cut 0x9ab25d6 s x; (case' kk => (clear_value x; intro _)); (case' vv => (unfold x; clear x)))
    | (extract_lets -underBinder +onlyGivenNames x; try clear_value x)
    | with_reducible apply TouchesR.next
    | with_reducible apply TouchesR.fault
    | with_reducible apply TouchesR.ite
    | with_reducible apply Touches.ite
    | ((with_reducible apply takeover_touches); (case hm => rfl))
    | ((with_reducible apply trigger_touches); (case hm => rfl))

theorem execIdleEntryTimer_touches {M : Nat} {r : State} (s : State) (hs : Touches M r s) (hm : 0x8ab25de ||| M = M) :
    TouchesR M r (execIdleEntryTimer s) := by
  refine TouchesR.step hs ?_ hm
  clear hs hm r M
  unfold execIdleEntryTimer
  repeat' first
    | with_reducible assumption
    | with_reducible apply Touches.refl
    | (extract_lets -underBinder +onlyGivenNames x; (have hty : TypeOf x = State := by with_reducible rfl); clear hty; apply Touches.cut 0x8ab25de s x; (case' kk => (clear_value x; intro _)); (case' vv => (unfold x; clear x)))
    | (extract_lets -underBinder +onlyGivenNames x; try clear_value x)
    | with_reducible apply TouchesR.next
    | with_reducible apply TouchesR.fault
    | with_reducible apply TouchesR.ite
    | with_reducible apply Touches.ite
    | ((with_reducible apply State.modPwr_touches); (case hm => rfl))
    | ((with_reducible apply pwrRequest_touches); (case hm => rfl))
    | ((with_reducible apply Touches.snd); (case eqn => assumption))
    | split

theorem execIslandRampDone_touches {M : Nat} {r : State} (s : State) (hs : Touches M r s) (hm : 0x8000002 ||| M = M) :
    TouchesR M r (execIslandRampDone s) := by
  refine TouchesR.step hs ?_ hm
  clear hs hm r M
  unfold execIslandRampDone
  repeat' first
    | with_reducible assumption
    | with_reducible apply Touches.refl
    | with_reducible apply TouchesR.next
    | with_reducible apply TouchesR.fault
    | ((with_reducible apply rampDone_touches); (case hm => rfl))

theorem execPwrRequestState_touches {M : Nat} {r : State} (a0 : Sys2Proof.CmdCtx) (s : State) (hs : Touches M r s) (hm : 0x8ab25de ||| M = M) :
    TouchesR M r (execPwrRequestState a0 s) := by
  refine TouchesR.step hs ?_ hm
  clear hs hm r M
  unfold execPwrRequestState
  repeat' first
    | with_reducible assumption
    | (intro _; try dsimp -zeta only)
    | (extract_lets -underBinder +onlyGivenNames x; (have hty : TypeOf x = State := by with_reducible rfl); clear hty; apply Touches.cut 0x8ab25de s x; (case' kk => (clear_value x; intro _)); (case' vv => (unfold x; clear x)))
    | (extract_lets -underBinder +onlyGivenNames x; try clear_value x)
    | with_reducible apply Touches.refl
    | with_reducible apply TouchesR.next
    | with_reducible apply TouchesR.fault
    | with_reducible apply TouchesR.ite
    | with_reducible apply Touches.ite
    | ((with_reducible apply command_touches); (case hm => rfl))
    | ((with_reducible apply complete_touches); (case hm => rfl))
    | ((with_reducible apply pwrRequest_touches); (case hm => rfl))
    | ((with_reducible apply Touches.snd); (case eqn => assumption))
    | split

theorem railSeen_touches {M : Nat} {r : State} (a0 : Nat) (a1 : Nat) (s : State) (hs : Touches M r s) (hm : 0x2 ||| M = M) :
    Touches M r (railSeen a0 a1 s) := by
  refine Touches.step hs ?_ hm
  clear hs hm r M
  unfold railSeen
  repeat' first
    | with_reducible assumption
    | with_reducible apply Touches.refl
    | (extract_lets -underBinder +onlyGivenNames x; (have hty : TypeOf x = State := by with_reducible rfl); clear hty; apply Touches.cut 0x2 s x; (case' kk => (clear_value x; intro _)); (case' vv => (unfold x; clear x)))
    | (extract_lets -underBinder +onlyGivenNames x; try clear_value x)
    | with_reducible apply Touches.ite
    | ((with_reducible apply State.setFld_touches); (case hm => rfl))

theorem execRailWarningEnter_touches {M : Nat} {r : State} (a0 : Fin 11) (a1 : Nat) (a2 : Nat) (s : State) (hs : Touches M r s) (hm : 0x1840a1d6 ||| M = M) :
    TouchesR M r (execRailWarningEnter a0 a1 a2 s) := by
  refine TouchesR.step hs ?_ hm
  clear hs hm r M
  unfold execRailWarningEnter
  repeat' first
    | with_reducible assumption
    | with_reducible apply Touches.refl
    | (extract_lets -underBinder +onlyGivenNames x; (have hty : TypeOf x = State := by with_reducible rfl); clear hty; apply Touches.cut 0x1840a1d6 s x; (case' kk => (clear_value x; intro _)); (case' vv => (unfold x; clear x)))
    | (extract_lets -underBinder +onlyGivenNames x; try clear_value x)
    | with_reducible apply TouchesR.next
    | with_reducible apply TouchesR.fault
    | with_reducible apply TouchesR.ite
    | with_reducible apply Touches.ite
    | ((with_reducible apply railSeen_touches); (case hm => rfl))
    | ((with_reducible apply braceStart_touches); (case hm => rfl))
    | ((with_reducible apply State.setFld_touches); (case hm => rfl))
    | ((with_reducible apply raise_touches); (case hm => rfl))

theorem execRailWarningExit_touches {M : Nat} {r : State} (a0 : Fin 11) (a1 : Nat) (s : State) (hs : Touches M r s) (hm : 0x308ba5d6 ||| M = M) :
    TouchesR M r (execRailWarningExit a0 a1 s) := by
  refine TouchesR.step hs ?_ hm
  clear hs hm r M
  unfold execRailWarningExit
  repeat' first
    | with_reducible assumption
    | with_reducible apply Touches.refl
    | (extract_lets -underBinder +onlyGivenNames x; (have hty : TypeOf x = State := by with_reducible rfl); clear hty; apply Touches.cut 0x308ba5d6 s x; (case' kk => (clear_value x; intro _)); (case' vv => (unfold x; clear x)))
    | (extract_lets -underBinder +onlyGivenNames x; try clear_value x)
    | with_reducible apply TouchesR.next
    | with_reducible apply TouchesR.fault
    | with_reducible apply TouchesR.ite
    | with_reducible apply Touches.ite
    | ((with_reducible apply State.setFld_touches); (case hm => rfl))
    | ((with_reducible apply railSeen_touches); (case hm => rfl))
    | ((with_reducible apply raise_touches); (case hm => rfl))
    | ((with_reducible apply warmResume_touches); (case hm => rfl))
    | ((with_reducible apply braceEnd_touches); (case hm => rfl))

theorem execStateEntryCommit_touches {M : Nat} {r : State} (s : State) (hs : Touches M r s) (hm : 0xdcfff7fe ||| M = M) :
    TouchesR M r (execStateEntryCommit s) := by
  refine TouchesR.step hs ?_ hm
  clear hs hm r M
  unfold execStateEntryCommit
  repeat' first
    | with_reducible assumption
    | with_reducible apply Touches.refl
    | with_reducible apply TouchesR.next
    | with_reducible apply TouchesR.fault
    | with_reducible apply TouchesR.ite
    | with_reducible apply Touches.ite
    | ((with_reducible apply commitEntry_touches); (case hm => rfl))
    | ((with_reducible apply braceEnd_touches); (case hm => rfl))
    | ((with_reducible apply writeWaiting_touches); (case hm => rfl))
    | split

theorem oddCore_touches {M : Nat} {r : State} (a0 : Nat) (a1 : Nat) (s : State) (hs : Touches M r s) (hm : 0x38eb25d6 ||| M = M) :
    Touches M r (oddCore a0 a1 s) := by
  refine Touches.step hs ?_ hm
  clear hs hm r M
  unfold oddCore
  repeat' first
    | with_reducible assumption
    | with_reducible apply Touches.refl
    | (extract_lets -underBinder +onlyGivenNames x; (have hty : TypeOf x = State := by with_reducible rfl); clear hty; apply Touches.cut 0x38eb25d6 s x; (case' kk => (clear_value x; intro _)); (case' vv => (unfold x; clear x)))
    | (extract_lets -underBinder +onlyGivenNames x; try clear_value x)
    | with_reducible apply Touches.ite
    | ((with_reducible apply markOdd_touches); (case hm => rfl))
    | ((with_reducible apply warmStart_touches); (case hm => rfl))
    | split

theorem execSupLateCore_touches {M : Nat} {r : State} (a0 : Fin 3) (s : State) (hs : Touches M r s) (hm : 0x38eb25d6 ||| M = M) :
    TouchesR M r (execSupLateCore a0 s) := by
  refine TouchesR.step hs ?_ hm
  clear hs hm r M
  unfold execSupLateCore
  repeat' first
    | with_reducible assumption
    | with_reducible apply Touches.refl
    | with_reducible apply TouchesR.next
    | with_reducible apply TouchesR.fault
    | with_reducible apply TouchesR.ite
    | with_reducible apply Touches.ite
    | ((with_reducible apply oddCore_touches); (case hm => rfl))

theorem execSupRestartDone_touches {M : Nat} {r : State} (a0 : Fin 16) (a1 : Bool) (a2 : Bool) (s : State) (hs : Touches M r s) (hm : 0x3fcb25de ||| M = M) :
    TouchesR M r (execSupRestartDone a0 a1 a2 s) := by
  refine TouchesR.step hs ?_ hm
  clear hs hm r M
  unfold execSupRestartDone
  repeat' first
    | with_reducible assumption
    | with_reducible apply Touches.refl
    | with_reducible apply TouchesR.next
    | with_reducible apply TouchesR.fault
    | with_reducible apply TouchesR.ite
    | with_reducible apply Touches.ite
    | ((with_reducible apply warmResume_touches); (case hm => rfl))
    | ((with_reducible apply bootDone_touches); (case hm => rfl))

theorem hotCheck_touches {M : Nat} {r : State} (a0 : List Nat) (s : State) (hs : Touches M r s) (hm : 0x80001c6 ||| M = M) :
    Touches M r (hotCheck a0 s) := by
  refine Touches.step hs ?_ hm
  clear hs hm r M
  unfold hotCheck
  repeat' first
    | with_reducible assumption
    | with_reducible apply Touches.refl
    | (extract_lets -underBinder +onlyGivenNames x; (have hty : TypeOf x = State := by with_reducible rfl); clear hty; apply Touches.cut 0x80001c6 s x; (case' kk => (clear_value x; intro _)); (case' vv => (unfold x; clear x)))
    | (extract_lets -underBinder +onlyGivenNames x; try clear_value x)
    | with_reducible apply Touches.ite
    | ((with_reducible apply raise_touches); (case hm => rfl))
    | ((with_reducible apply State.modPwr_touches); (case hm => rfl))
    | split

theorem execThermalSensorRead_touches {M : Nat} {r : State} (a0 : Nat) (a1 : Nat) (a2 : Nat) (a3 : Nat) (a4 : Nat) (s : State) (hs : Touches M r s) (hm : 0x90b21d6 ||| M = M) :
    TouchesR M r (execThermalSensorRead a0 a1 a2 a3 a4 s) := by
  refine TouchesR.step hs ?_ hm
  clear hs hm r M
  unfold execThermalSensorRead
  repeat' first
    | with_reducible assumption
    | (intro _; try dsimp -zeta only)
    | (extract_lets -underBinder +onlyGivenNames x; (have hty : TypeOf x = State := by with_reducible rfl); clear hty; apply Touches.cut 0x90b21d6 s x; (case' kk => (clear_value x; intro _)); (case' vv => (unfold x; clear x)))
    | (extract_lets -underBinder +onlyGivenNames x; try clear_value x)
    | with_reducible apply Touches.refl
    | with_reducible apply TouchesR.next
    | with_reducible apply TouchesR.fault
    | with_reducible apply TouchesR.ite
    | with_reducible apply Touches.ite
    | ((with_reducible apply State.setFld_touches); (case hm => rfl))
    | ((with_reducible apply setHeadroom_touches); (case hm => rfl))
    | ((with_reducible apply hotCheck_touches); (case hm => rfl))
    | ((with_reducible apply raiseF3_touches); (case hm => rfl))
    | with_reducible apply Touches.foldlD
    | split

end Sys2Proof.Machine
end

