-- ==== Sys2Proof/Laws/RegBus.lean ====
section
/-! SUPPORT. What each function of Machine/RegBus.lean touches: one lemma per function that answers a state. -/

set_option linter.tactic.unusedName false

namespace Sys2Proof.Machine

theorem busError_touches {M : Nat} {r : State} (a0 : Sys2Proof.Src) (a1 : Nat) (a2 : Nat) (s : State) (hs : Touches M r s) (hm : 0x2 ||| M = M) :
    Touches M r (busError a0 a1 a2 s) := by
  refine Touches.step hs ?_ hm
  clear hs hm r M
  unfold busError
  repeat' first
    | with_reducible assumption
    | with_reducible apply Touches.refl
    | (extract_lets -underBinder +onlyGivenNames x; (have hty : TypeOf x = State := by with_reducible rfl); clear hty; apply Touches.cut 0x2 s x; (case' kk => (clear_value x; intro _)); (case' vv => (unfold x; clear x)))
    | (extract_lets -underBinder +onlyGivenNames x; try clear_value x)
    | with_reducible apply Touches.ite
    | ((with_reducible apply State.setReg_touches); (case hm => rfl))

theorem busRead_touches {M : Nat} {r : State} (a0 : Sys2Proof.Src) (a1 : Nat) (s : State) (hs : Touches M r s) (hm : 0x22 ||| M = M) :
    Touches M r ((busRead a0 a1 s).2) := by
  refine Touches.step hs ?_ hm
  clear hs hm r M
  unfold busRead
  repeat' first
    | with_reducible assumption
    | with_reducible apply Touches.refl
    | (extract_lets -underBinder +onlyGivenNames x; (have hty : TypeOf x = State := by with_reducible rfl); clear hty; apply Touches.cut 0x22 s x; (case' kk => (clear_value x; intro _)); (case' vv => (unfold x; clear x)))
    | (extract_lets -underBinder +onlyGivenNames x; try clear_value x)
    | with_reducible apply Touches.ite
    | ((with_reducible apply busError_touches); (case hm => rfl))
    | ((with_reducible apply takeShadow_touches); (case hm => rfl))
    | ((with_reducible apply setShadow_touches); (case hm => rfl))
    | ((with_reducible apply readLastNs_touches); (case hm => rfl))
    | ((with_reducible apply Touches.snd); (case eqn => assumption))
    | split
    | (dsimp -zeta only)

theorem fwRead_touches {M : Nat} {r : State} (a0 : Nat) (a1 : Nat) (a2 : Nat) (s : State) (hs : Touches M r s) (hm : 0x10000032 ||| M = M) :
    Touches M r (fwRead a0 a1 a2 s) := by
  refine Touches.step hs ?_ hm
  clear hs hm r M
  unfold fwRead
  repeat' first
    | with_reducible assumption
    | with_reducible apply Touches.refl
    | (extract_lets -underBinder +onlyGivenNames x; (have hty : TypeOf x = State := by with_reducible rfl); clear hty; apply Touches.cut 0x10000032 s x; (case' kk => (clear_value x; intro _)); (case' vv => (unfold x; clear x)))
    | (extract_lets -underBinder +onlyGivenNames x; try clear_value x)
    | with_reducible apply Touches.ite
    | ((with_reducible apply State.emit_touches); (case hm => rfl))
    | ((with_reducible apply State.modSup_touches); (case hm => rfl))
    | ((with_reducible apply busRead_touches); (case hm => rfl))
    | ((with_reducible apply Touches.snd); (case eqn => assumption))
    | split

theorem readWord_touches {M : Nat} {r : State} (a0 : Sys2Proof.Src) (a1 : Nat) (a2 : Nat) (s : State) (hs : Touches M r s) (hm : 0x32 ||| M = M) :
    Touches M r (readWord a0 a1 a2 s) := by
  refine Touches.step hs ?_ hm
  clear hs hm r M
  unfold readWord
  repeat' first
    | with_reducible assumption
    | with_reducible apply Touches.refl
    | ((with_reducible apply busRead_touches); (case hm => rfl))
    | ((with_reducible apply State.emit_touches); (case hm => rfl))
    | ((with_reducible apply Touches.snd); (case eqn => assumption))
    | split

theorem plainWrite_touches {M : Nat} {r : State} (a0 : RegRow) (a1 : List Nat) (a2 : Nat) (a3 : Nat) (s : State) (hs : Touches M r s) (hm : 0x2 ||| M = M) :
    Touches M r (plainWrite a0 a1 a2 a3 s) := by
  refine Touches.step hs ?_ hm
  clear hs hm r M
  unfold plainWrite
  repeat' first
    | with_reducible assumption
    | with_reducible apply Touches.refl
    | ((with_reducible apply State.setReg_touches); (case hm => rfl))

theorem keepField_touches {M : Nat} {r : State} (a0 : Fld) (a1 : State → Bool) (a2 : Nat) (s : State) (hs : Touches M r s) (hm : 0x2 ||| M = M) :
    Touches M r (keepField a0 a1 a2 s) := by
  refine Touches.step hs ?_ hm
  clear hs hm r M
  unfold keepField
  repeat' first
    | with_reducible assumption
    | with_reducible apply Touches.refl
    | with_reducible apply Touches.ite
    | ((with_reducible apply State.setFld_touches); (case hm => rfl))

theorem portCtrlWrite_touches {M : Nat} {r : State} (a0 : RegRow) (a1 : List Nat) (a2 : Nat) (a3 : Nat) (s : State) (hs : Touches M r s) (hm : 0x2016 ||| M = M) :
    Touches M r (portCtrlWrite a0 a1 a2 a3 s) := by
  refine Touches.step hs ?_ hm
  clear hs hm r M
  unfold portCtrlWrite
  repeat' first
    | with_reducible assumption
    | with_reducible apply Touches.refl
    | (extract_lets -underBinder +onlyGivenNames x; (have hty : TypeOf x = State := by with_reducible rfl); clear hty; apply Touches.cut 0x2016 s x; (case' kk => (clear_value x; intro _)); (case' vv => (unfold x; clear x)))
    | (extract_lets -underBinder +onlyGivenNames x; try clear_value x)
    | with_reducible apply Touches.ite
    | ((with_reducible apply plainWrite_touches); (case hm => rfl))
    | ((with_reducible apply State.setFld_touches); (case hm => rfl))
    | ((with_reducible apply parkEnter_touches); (case hm => rfl))
    | ((with_reducible apply parkWake_touches); (case hm => rfl))
    | ((with_reducible apply pfcUpdate_touches); (case hm => rfl))

theorem canModeWrite_touches {M : Nat} {r : State} (a0 : RegRow) (a1 : List Nat) (a2 : Nat) (a3 : Nat) (s : State) (hs : Touches M r s) (hm : 0xb21d6 ||| M = M) :
    Touches M r (canModeWrite a0 a1 a2 a3 s) := by
  refine Touches.step hs ?_ hm
  clear hs hm r M
  unfold canModeWrite
  repeat' first
    | with_reducible assumption
    | with_reducible apply Touches.refl
    | (extract_lets -underBinder +onlyGivenNames x; (have hty : TypeOf x = State := by with_reducible rfl); clear hty; apply Touches.cut 0xb21d6 s x; (case' kk => (clear_value x; intro _)); (case' vv => (unfold x; clear x)))
    | (extract_lets -underBinder +onlyGivenNames x; try clear_value x)
    | with_reducible apply Touches.ite
    | ((with_reducible apply plainWrite_touches); (case hm => rfl))
    | ((with_reducible apply State.setFld_touches); (case hm => rfl))
    | ((with_reducible apply canSetMode_touches); (case hm => rfl))

theorem freshCtlWrite_touches {M : Nat} {r : State} (a0 : Nat) (a1 : Nat) (s : State) (hs : Touches M r s) (hm : 0x400002 ||| M = M) :
    Touches M r (freshCtlWrite a0 a1 s) := by
  refine Touches.step hs ?_ hm
  clear hs hm r M
  unfold freshCtlWrite
  repeat' first
    | with_reducible assumption
    | with_reducible apply Touches.refl
    | (extract_lets -underBinder +onlyGivenNames x; (have hty : TypeOf x = State := by with_reducible rfl); clear hty; apply Touches.cut 0x400002 s x; (case' kk => (clear_value x; intro _)); (case' vv => (unfold x; clear x)))
    | (extract_lets -underBinder +onlyGivenNames x; try clear_value x)
    | with_reducible apply Touches.ite
    | ((with_reducible apply State.setFld_touches); (case hm => rfl))
    | ((with_reducible apply Touches.keys); (case hm => rfl))

theorem fabStop_touches {M : Nat} {r : State} (s : State) (hs : Touches M r s) (hm : 0x8005d6 ||| M = M) :
    Touches M r (fabStop s) := by
  refine Touches.step hs ?_ hm
  clear hs hm r M
  unfold fabStop
  repeat' first
    | with_reducible assumption
    | (intro _; try dsimp -zeta only)
    | (extract_lets -underBinder +onlyGivenNames x; (have hty : TypeOf x = State := by with_reducible rfl); clear hty; apply Touches.cut 0x8005d6 s x; (case' kk => (clear_value x; intro _)); (case' vv => (unfold x; clear x)))
    | (extract_lets -underBinder +onlyGivenNames x; try clear_value x)
    | with_reducible apply Touches.refl
    | ((with_reducible apply nbrLost_touches); (case hm => rfl))
    | ((with_reducible apply setCoord_touches); (case hm => rfl))
    | ((with_reducible apply setAddr_touches); (case hm => rfl))
    | with_reducible apply Touches.foldlD
    | ((with_reducible apply Touches.fab); (case hm => rfl))

theorem fabCfgWrite_touches {M : Nat} {r : State} (a0 : RegRow) (a1 : List Nat) (a2 : Nat) (a3 : Nat) (s : State) (hs : Touches M r s) (hm : 0x8025d6 ||| M = M) :
    Touches M r (fabCfgWrite a0 a1 a2 a3 s) := by
  refine Touches.step hs ?_ hm
  clear hs hm r M
  unfold fabCfgWrite
  repeat' first
    | with_reducible assumption
    | with_reducible apply Touches.refl
    | (extract_lets -underBinder +onlyGivenNames x; (have hty : TypeOf x = State := by with_reducible rfl); clear hty; apply Touches.cut 0x8025d6 s x; (case' kk => (clear_value x; intro _)); (case' vv => (unfold x; clear x)))
    | (extract_lets -underBinder +onlyGivenNames x; try clear_value x)
    | with_reducible apply Touches.ite
    | ((with_reducible apply plainWrite_touches); (case hm => rfl))
    | ((with_reducible apply takeSize_touches); (case hm => rfl))
    | ((with_reducible apply fabStop_touches); (case hm => rfl))

theorem fabPortsWrite_touches {M : Nat} {r : State} (a0 : RegRow) (a1 : List Nat) (a2 : Nat) (a3 : Nat) (s : State) (hs : Touches M r s) (hm : 0x8005d6 ||| M = M) :
    Touches M r (fabPortsWrite a0 a1 a2 a3 s) := by
  refine Touches.step hs ?_ hm
  clear hs hm r M
  unfold fabPortsWrite
  repeat' first
    | with_reducible assumption
    | (intro _; try dsimp -zeta only)
    | (extract_lets -underBinder +onlyGivenNames x; (have hty : TypeOf x = State := by with_reducible rfl); clear hty; apply Touches.cut 0x8005d6 s x; (case' kk => (clear_value x; intro _)); (case' vv => (unfold x; clear x)))
    | (extract_lets -underBinder +onlyGivenNames x; try clear_value x)
    | with_reducible apply Touches.refl
    | with_reducible apply Touches.ite
    | ((with_reducible apply plainWrite_touches); (case hm => rfl))
    | ((with_reducible apply nbrLost_touches); (case hm => rfl))
    | with_reducible apply Touches.foldlD

theorem pollWrite_touches {M : Nat} {r : State} (a0 : RegRow) (a1 : List Nat) (a2 : Nat) (a3 : Nat) (s : State) (hs : Touches M r s) (hm : 0x80000002 ||| M = M) :
    Touches M r (pollWrite a0 a1 a2 a3 s) := by
  refine Touches.step hs ?_ hm
  clear hs hm r M
  unfold pollWrite
  repeat' first
    | with_reducible assumption
    | with_reducible apply Touches.refl
    | (extract_lets -underBinder +onlyGivenNames x; (have hty : TypeOf x = State := by with_reducible rfl); clear hty; apply Touches.cut 0x80000002 s x; (case' kk => (clear_value x; intro _)); (case' vv => (unfold x; clear x)))
    | (extract_lets -underBinder +onlyGivenNames x; try clear_value x)
    | ((with_reducible apply plainWrite_touches); (case hm => rfl))
    | ((with_reducible apply State.modTrn_touches); (case hm => rfl))

theorem timeOutWrite_touches {M : Nat} {r : State} (a0 : RegRow) (a1 : List Nat) (a2 : Nat) (a3 : Nat) (s : State) (hs : Touches M r s) (hm : 0x12 ||| M = M) :
    Touches M r (timeOutWrite a0 a1 a2 a3 s) := by
  refine Touches.step hs ?_ hm
  clear hs hm r M
  unfold timeOutWrite
  repeat' first
    | with_reducible assumption
    | with_reducible apply Touches.refl
    | (extract_lets -underBinder +onlyGivenNames x; (have hty : TypeOf x = State := by with_reducible rfl); clear hty; apply Touches.cut 0x12 s x; (case' kk => (clear_value x; intro _)); (case' vv => (unfold x; clear x)))
    | (extract_lets -underBinder +onlyGivenNames x; try clear_value x)
    | with_reducible apply Touches.ite
    | ((with_reducible apply plainWrite_touches); (case hm => rfl))
    | ((with_reducible apply State.emit_touches); (case hm => rfl))

theorem wakeSetup_touches {M : Nat} {r : State} (a0 : RegRow) (a1 : List Nat) (a2 : Nat) (a3 : Nat) (s : State) (hs : Touches M r s) (hm : 0x2b21d6 ||| M = M) :
    Touches M r (wakeSetup a0 a1 a2 a3 s) := by
  refine Touches.step hs ?_ hm
  clear hs hm r M
  unfold wakeSetup
  repeat' first
    | with_reducible assumption
    | with_reducible apply Touches.refl
    | (extract_lets -underBinder +onlyGivenNames x; (have hty : TypeOf x = State := by with_reducible rfl); clear hty; apply Touches.cut 0x2b21d6 s x; (case' kk => (clear_value x; intro _)); (case' vv => (unfold x; clear x)))
    | (extract_lets -underBinder +onlyGivenNames x; try clear_value x)
    | with_reducible apply Touches.ite
    | ((with_reducible apply plainWrite_touches); (case hm => rfl))
    | ((with_reducible apply portsByCluster_touches); (case hm => rfl))

theorem writeReg_touches {M : Nat} {r : State} (a0 : Sys2Proof.Src) (a1 : RegRow) (a2 : List Nat) (a3 : Nat) (a4 : Nat) (s : State) (hs : Touches M r s) (hm : 0xb9eb27de ||| M = M) :
    Touches M r (writeReg a0 a1 a2 a3 a4 s) := by
  refine Touches.step hs ?_ hm
  clear hs hm r M
  unfold writeReg
  repeat' first
    | with_reducible assumption
    | with_reducible apply Touches.refl
    | (extract_lets -underBinder +onlyGivenNames x; (have hty : TypeOf x = State := by with_reducible rfl); clear hty; apply Touches.cut 0xb9eb27de s x; (case' kk => (clear_value x; intro _)); (case' vv => (unfold x; clear x)))
    | (extract_lets -underBinder +onlyGivenNames x)
    | with_reducible apply Touches.ite
    | ((with_reducible apply plainWrite_touches); (case hm => rfl))
    | ((with_reducible apply failsafeFence_touches); (case hm => rfl))
    | ((with_reducible apply failsafeWrst_touches); (case hm => rfl))
    | ((with_reducible apply wakeHint_touches); (case hm => rfl))
    | ((with_reducible apply ringCfgWrite_touches); (case hm => rfl))
    | ((with_reducible apply vecUnmask_touches); (case hm => rfl))
    | ((with_reducible apply bdSnapshot_touches); (case hm => rfl))
    | ((with_reducible apply dbgRelease_touches); (case hm => rfl))
    | ((with_reducible apply sillWrite_touches); (case hm => rfl))
    | ((with_reducible apply maxLenWrite_touches); (case hm => rfl))
    | ((with_reducible apply writeDomCfg_touches); (case hm => rfl))
    | ((with_reducible apply takeTimeSnap_touches); (case hm => rfl))
    | ((with_reducible apply settleEnergy_touches); (case hm => rfl))
    | ((with_reducible apply keepField_touches); (case hm => rfl))
    | ((with_reducible apply histSnapshot_touches); (case hm => rfl))
    | ((with_reducible apply portCtrlWrite_touches); (case hm => rfl))
    | ((with_reducible apply pfcUpdate_touches); (case hm => rfl))
    | ((with_reducible apply pathSnapshot_touches); (case hm => rfl))
    | ((with_reducible apply pairCfgWrite_touches); (case hm => rfl))
    | ((with_reducible apply canModeWrite_touches); (case hm => rfl))
    | ((with_reducible apply bitTimingWrite_touches); (case hm => rfl))
    | ((with_reducible apply frConfigWrite_touches); (case hm => rfl))
    | ((with_reducible apply keySnapshot_touches); (case hm => rfl))
    | ((with_reducible apply freshCtlWrite_touches); (case hm => rfl))
    | ((with_reducible apply lockRelease_touches); (case hm => rfl))
    | ((with_reducible apply lockTake_touches); (case hm => rfl))
    | ((with_reducible apply msecCtrlWrite_touches); (case hm => rfl))
    | ((with_reducible apply fabCfgWrite_touches); (case hm => rfl))
    | ((with_reducible apply fabPortsWrite_touches); (case hm => rfl))
    | ((with_reducible apply announceLinks_touches); (case hm => rfl))
    | ((with_reducible apply lockCtrlWrite_touches); (case hm => rfl))
    | ((with_reducible apply pollWrite_touches); (case hm => rfl))
    | ((with_reducible apply supCtrlWrite_touches); (case hm => rfl))
    | ((with_reducible apply fltAck_touches); (case hm => rfl))
    | ((with_reducible apply fltFirstClear_touches); (case hm => rfl))
    | ((with_reducible apply fltHistSnapshot_touches); (case hm => rfl))
    | ((with_reducible apply wakeSetup_touches); (case hm => rfl))
    | ((with_reducible apply timeOutWrite_touches); (case hm => rfl))
    | split
    | ((with_reducible apply Touches.time); (case hm => rfl); (case hl => rfl))

theorem busWrite_touches {M : Nat} {r : State} (a0 : Sys2Proof.Src) (a1 : Nat) (a2 : Nat) (a3 : Nat) (s : State) (hs : Touches M r s) (hm : 0xb9eb27de ||| M = M) :
    Touches M r (busWrite a0 a1 a2 a3 s) := by
  refine Touches.step hs ?_ hm
  clear hs hm r M
  unfold busWrite
  repeat' first
    | with_reducible assumption
    | with_reducible apply Touches.refl
    | (extract_lets -underBinder +onlyGivenNames x; (have hty : TypeOf x = State := by with_reducible rfl); clear hty; apply Touches.cut 0xb9eb27de s x; (case' kk => (clear_value x; intro _)); (case' vv => (unfold x; clear x)))
    | (extract_lets -underBinder +onlyGivenNames x; try clear_value x)
    | with_reducible apply Touches.ite
    | ((with_reducible apply busError_touches); (case hm => rfl))
    | ((with_reducible apply writeReg_touches); (case hm => rfl))
    | split

theorem readOut_touches {M : Nat} {r : State} (a0 : Sys2Proof.Src) (a1 : Nat) (a2 : Nat) (s : State) (hs : Touches M r s) (hm : 0x32 ||| M = M) :
    Touches M r (readOut a0 a1 a2 s) := by
  refine Touches.step hs ?_ hm
  clear hs hm r M
  unfold readOut
  repeat' first
    | with_reducible assumption
    | (intro _; try dsimp -zeta only)
    | with_reducible apply Touches.refl
    | ((with_reducible apply readWord_touches); (case hm => rfl))
    | with_reducible apply Touches.foldlD

theorem srcRead_touches {M : Nat} {r : State} (a0 : Sys2Proof.Src) (a1 : Fin 3) (a2 : Nat) (a3 : Nat) (s : State) (hs : Touches M r s) (hm : 0x10000032 ||| M = M) :
    Touches M r (srcRead a0 a1 a2 a3 s) := by
  refine Touches.step hs ?_ hm
  clear hs hm r M
  unfold srcRead
  repeat' first
    | with_reducible assumption
    | with_reducible apply Touches.refl
    | with_reducible apply Touches.ite
    | ((with_reducible apply fwRead_touches); (case hm => rfl))
    | ((with_reducible apply readOut_touches); (case hm => rfl))
    | split

theorem execCounterLowRead_touches {M : Nat} {r : State} (a0 : Sys2Proof.Src) (a1 : Nat) (a2 : Nat) (a3 : Fin 3) (s : State) (hs : Touches M r s) (hm : 0x10000032 ||| M = M) :
    TouchesR M r (execCounterLowRead a0 a1 a2 a3 s) := by
  refine TouchesR.step hs ?_ hm
  clear hs hm r M
  unfold execCounterLowRead
  repeat' first
    | with_reducible assumption
    | (intro _; try dsimp -zeta only)
    | with_reducible apply Touches.refl
    | with_reducible apply TouchesR.next
    | with_reducible apply TouchesR.fault
    | ((with_reducible apply busRow_touches); (case hm => rfl))
    | ((with_reducible apply srcRead_touches); (case hm => rfl))

theorem execDomainNumberWrite_touches {M : Nat} {r : State} (a0 : Sys2Proof.Src) (a1 : Fin 2) (a2 : Nat) (s : State) (hs : Touches M r s) (hm : 0x222 ||| M = M) :
    TouchesR M r (execDomainNumberWrite a0 a1 a2 s) := by
  refine TouchesR.step hs ?_ hm
  clear hs hm r M
  unfold execDomainNumberWrite
  repeat' first
    | with_reducible assumption
    | (intro _; try dsimp -zeta only)
    | with_reducible apply Touches.refl
    | with_reducible apply TouchesR.next
    | with_reducible apply TouchesR.fault
    | ((with_reducible apply busRow_touches); (case hm => rfl))
    | ((with_reducible apply writeDomCfg_touches); (case hm => rfl))

theorem execFwdEnSet_touches {M : Nat} {r : State} (a0 : Sys2Proof.Src) (s : State) (hs : Touches M r s) (hm : 0x22 ||| M = M) :
    TouchesR M r (execFwdEnSet a0 s) := by
  refine TouchesR.step hs ?_ hm
  clear hs hm r M
  unfold execFwdEnSet
  repeat' first
    | with_reducible assumption
    | (intro _; try dsimp -zeta only)
    | with_reducible apply Touches.refl
    | with_reducible apply TouchesR.next
    | with_reducible apply TouchesR.fault
    | ((with_reducible apply busRow_touches); (case hm => rfl))
    | ((with_reducible apply State.setFld_touches); (case hm => rfl))

theorem execRegisterWrite_touches {M : Nat} {r : State} (a0 : Sys2Proof.Src) (a1 : Nat) (a2 : Nat) (a3 : Nat) (s : State) (hs : Touches M r s) (hm : 0xb9eb27fe ||| M = M) :
    TouchesR M r (execRegisterWrite a0 a1 a2 a3 s) := by
  refine TouchesR.step hs ?_ hm
  clear hs hm r M
  unfold execRegisterWrite
  repeat' first
    | with_reducible assumption
    | (intro _; try dsimp -zeta only)
    | with_reducible apply Touches.refl
    | with_reducible apply TouchesR.next
    | with_reducible apply TouchesR.fault
    | ((with_reducible apply busRow_touches); (case hm => rfl))
    | ((with_reducible apply busWrite_touches); (case hm => rfl))

theorem spiBadLength_touches {M : Nat} {r : State} (s : State) (hs : Touches M r s) (hm : 0x2 ||| M = M) :
    Touches M r (spiBadLength s) := by
  refine Touches.step hs ?_ hm
  clear hs hm r M
  unfold spiBadLength
  repeat' first
    | with_reducible assumption
    | with_reducible apply Touches.refl
    | ((with_reducible apply State.setFld_touches); (case hm => rfl))

theorem execSpiFrameError_touches {M : Nat} {r : State} (a0 : Nat) (s : State) (hs : Touches M r s) (hm : 0x2 ||| M = M) :
    TouchesR M r (execSpiFrameError a0 s) := by
  refine TouchesR.step hs ?_ hm
  clear hs hm r M
  unfold execSpiFrameError
  repeat' first
    | with_reducible assumption
    | with_reducible apply Touches.refl
    | with_reducible apply TouchesR.next
    | with_reducible apply TouchesR.fault
    | with_reducible apply TouchesR.ite
    | with_reducible apply Touches.ite
    | ((with_reducible apply spiBadLength_touches); (case hm => rfl))

theorem execSpiReadFrame_touches {M : Nat} {r : State} (a0 : Sys2Proof.Bytes) (s : State) (hs : Touches M r s) (hm : 0x32 ||| M = M) :
    TouchesR M r (execSpiReadFrame a0 s) := by
  refine TouchesR.step hs ?_ hm
  clear hs hm r M
  unfold execSpiReadFrame
  dsimp only
  repeat' first
    | with_reducible assumption
    | (intro _; try dsimp -zeta only)
    | (extract_lets -underBinder +onlyGivenNames x; (have hty : TypeOf x = State := by with_reducible rfl); clear hty; apply Touches.cut 0x32 s x; (case' kk => (clear_value x; intro _)); (case' vv => (unfold x; clear x)))
    | (extract_lets -underBinder +onlyGivenNames x; try clear_value x)
    | with_reducible apply Touches.refl
    | with_reducible apply TouchesR.next
    | with_reducible apply TouchesR.fault
    | with_reducible apply TouchesR.ite
    | with_reducible apply Touches.ite
    | ((with_reducible apply spiBadLength_touches); (case hm => rfl))
    | ((with_reducible apply State.emit_touches); (case hm => rfl))
    | ((with_reducible apply State.setFld_touches); (case hm => rfl))
    | ((with_reducible apply busRow_touches); (case hm => rfl))
    | ((with_reducible apply busRead_touches); (case hm => rfl))
    | ((with_reducible apply Touches.snd); (case eqn => assumption))
    | split

theorem execSpiStatusFrame_touches {M : Nat} {r : State} (s : State) (hs : Touches M r s) (hm : 0x10 ||| M = M) :
    TouchesR M r (execSpiStatusFrame s) := by
  refine TouchesR.step hs ?_ hm
  clear hs hm r M
  unfold execSpiStatusFrame
  repeat' first
    | with_reducible assumption
    | with_reducible apply Touches.refl
    | with_reducible apply TouchesR.next
    | with_reducible apply TouchesR.fault
    | with_reducible apply TouchesR.ite
    | with_reducible apply Touches.ite
    | ((with_reducible apply State.emit_touches); (case hm => rfl))

theorem execSpiWriteFrame_touches {M : Nat} {r : State} (a0 : Sys2Proof.Bytes) (s : State) (hs : Touches M r s) (hm : 0xb9eb27fe ||| M = M) :
    TouchesR M r (execSpiWriteFrame a0 s) := by
  refine TouchesR.step hs ?_ hm
  clear hs hm r M
  unfold execSpiWriteFrame
  repeat' first
    | with_reducible assumption
    | (intro _; try dsimp -zeta only)
    | with_reducible apply Touches.refl
    | with_reducible apply TouchesR.next
    | with_reducible apply TouchesR.fault
    | with_reducible apply TouchesR.ite
    | with_reducible apply Touches.ite
    | ((with_reducible apply spiBadLength_touches); (case hm => rfl))
    | ((with_reducible apply State.setFld_touches); (case hm => rfl))
    | ((with_reducible apply busRow_touches); (case hm => rfl))
    | ((with_reducible apply busWrite_touches); (case hm => rfl))

theorem execTimeSnapTake_touches {M : Nat} {r : State} (a0 : Sys2Proof.Src) (s : State) (hs : Touches M r s) (hm : 0x22 ||| M = M) :
    TouchesR M r (execTimeSnapTake a0 s) := by
  refine TouchesR.step hs ?_ hm
  clear hs hm r M
  unfold execTimeSnapTake
  repeat' first
    | with_reducible assumption
    | (intro _; try dsimp -zeta only)
    | with_reducible apply Touches.refl
    | with_reducible apply TouchesR.next
    | with_reducible apply TouchesR.fault
    | ((with_reducible apply busRow_touches); (case hm => rfl))
    | ((with_reducible apply takeTimeSnap_touches); (case hm => rfl))

theorem execUnmappedRead_touches {M : Nat} {r : State} (a0 : Sys2Proof.Src) (a1 : Nat) (a2 : Nat) (a3 : Fin 3) (s : State) (hs : Touches M r s) (hm : 0x10000032 ||| M = M) :
    TouchesR M r (execUnmappedRead a0 a1 a2 a3 s) := by
  refine TouchesR.step hs ?_ hm
  clear hs hm r M
  unfold execUnmappedRead
  repeat' first
    | with_reducible assumption
    | (intro _; try dsimp -zeta only)
    | with_reducible apply Touches.refl
    | with_reducible apply TouchesR.next
    | with_reducible apply TouchesR.fault
    | ((with_reducible apply busRow_touches); (case hm => rfl))
    | ((with_reducible apply srcRead_touches); (case hm => rfl))

end Sys2Proof.Machine
end

