-- ==== Sys2Proof/Laws/Transom.lean ====
section
/-! SUPPORT. What each function of Machine/Transom.lean touches: one lemma per function that answers a state. -/

set_option linter.tactic.unusedName false

namespace Sys2Proof.Machine

theorem spiSend_touches {M : Nat} {r : State} (a0 : Nat) (a1 : Sys2Proof.Bytes) (a2 : Nat) (s : State) (hs : Touches M r s) (hm : 0x10 ||| M = M) :
    Touches M r (spiSend a0 a1 a2 s) := by
  refine Touches.step hs ?_ hm
  clear hs hm r M
  unfold spiSend
  repeat' first
    | with_reducible assumption
    | with_reducible apply Touches.refl
    | ((with_reducible apply State.emit_touches); (case hm => rfl))

theorem keepAnswer_touches {M : Nat} {r : State} (a0 : Sys2Proof.TrnReq) (a1 : Nat) (a2 : Sys2Proof.Bytes) (s : State) (hs : Touches M r s) (hm : 0x80000000 ||| M = M) :
    Touches M r (keepAnswer a0 a1 a2 s) := by
  refine Touches.step hs ?_ hm
  clear hs hm r M
  unfold keepAnswer
  repeat' first
    | with_reducible assumption
    | with_reducible apply Touches.refl
    | ((with_reducible apply State.modTrn_touches); (case hm => rfl))

theorem answerReq_touches {M : Nat} {r : State} (a0 : Sys2Proof.TrnReq) (a1 : Nat) (a2 : Sys2Proof.Bytes) (s : State) (hs : Touches M r s) (hm : 0x80800014 ||| M = M) :
    Touches M r (answerReq a0 a1 a2 s) := by
  refine Touches.step hs ?_ hm
  clear hs hm r M
  unfold answerReq
  repeat' first
    | with_reducible assumption
    | with_reducible apply Touches.refl
    | ((with_reducible apply sendTo_touches); (case hm => rfl))
    | ((with_reducible apply keepAnswer_touches); (case hm => rfl))

theorem execSidebandNotifyReceived_touches {M : Nat} {r : State} (a0 : Sys2Proof.Port) (a1 : Nat) (a2 : Nat) (a3 : Nat) (a4 : Nat) (s : State) (hs : Touches M r s) (hm : 0x8001d6 ||| M = M) :
    TouchesR M r (execSidebandNotifyReceived a0 a1 a2 a3 a4 s) := by
  refine TouchesR.step hs ?_ hm
  clear hs hm r M
  unfold execSidebandNotifyReceived
  repeat' first
    | with_reducible assumption
    | with_reducible apply Touches.refl
    | with_reducible apply TouchesR.next
    | with_reducible apply TouchesR.fault
    | with_reducible apply TouchesR.ite
    | with_reducible apply Touches.ite
    | ((with_reducible apply relay_touches); (case hm => rfl))
    | ((with_reducible apply raise_touches); (case hm => rfl))

theorem spiRun_touches {M : Nat} {r : State} (a0 : Nat) (a1 : Nat) (a2 : Nat) (a3 : Bool) (a4 : List TUnit) (s : State) (hs : Touches M r s) (hm : 0x10 ||| M = M) :
    Touches M r (spiRun a0 a1 a2 a3 a4 s) := by
  refine Touches.step hs ?_ hm
  clear hs hm r M
  unfold spiRun
  repeat' first
    | with_reducible assumption
    | (intro _; try dsimp -zeta only)
    | with_reducible apply Touches.refl
    | ((with_reducible apply spiSend_touches); (case hm => rfl))
    | with_reducible apply Touches.ite
    | ((with_reducible apply State.emit_touches); (case hm => rfl))
    | with_reducible apply Touches.foldlD

theorem parCycle_touches {M : Nat} {r : State} (a0 : Nat) (a1 : Nat) (a2 : Bool) (a3 : Bool) (a4 : Bool) (a5 : Bool) (a6 : Nat) (a7 : Nat) (s : State) (hs : Touches M r s) (hm : 0x10 ||| M = M) :
    Touches M r (parCycle a0 a1 a2 a3 a4 a5 a6 a7 s) := by
  refine Touches.step hs ?_ hm
  clear hs hm r M
  unfold parCycle
  repeat' first
    | with_reducible assumption
    | with_reducible apply Touches.refl
    | (extract_lets -underBinder +onlyGivenNames x; (have hty : TypeOf x = State := by with_reducible rfl); clear hty; apply Touches.cut 0x10 s x; (case' kk => (clear_value x; intro _)); (case' vv => (unfold x; clear x)))
    | (extract_lets -underBinder +onlyGivenNames x; try clear_value x)
    | with_reducible apply Touches.ite
    | ((with_reducible apply State.emit_touches); (case hm => rfl))

theorem parUnit_touches {M : Nat} {r : State} (a0 : Nat) (a1 : Nat) (a2 : Bool) (a3 : Bool) (a4 : TUnit) (s : State) (hs : Touches M r s) (hm : 0x10 ||| M = M) :
    Touches M r (parUnit a0 a1 a2 a3 a4 s) := by
  refine Touches.step hs ?_ hm
  clear hs hm r M
  unfold parUnit
  repeat' first
    | with_reducible assumption
    | (intro _; try dsimp -zeta only)
    | (extract_lets -underBinder +onlyGivenNames x; (have hty : TypeOf x = State := by with_reducible rfl); clear hty; apply Touches.cut 0x10 s x; (case' kk => (clear_value x; intro _)); (case' vv => (unfold x; clear x)))
    | (extract_lets -underBinder +onlyGivenNames x; try clear_value x)
    | with_reducible apply Touches.refl
    | with_reducible apply Touches.ite
    | ((with_reducible apply parCycle_touches); (case hm => rfl))
    | with_reducible apply Touches.foldlD

theorem pollRead_touches {M : Nat} {r : State} (a0 : Nat) (s : State) (hs : Touches M r s) (hm : 0x10 ||| M = M) :
    Touches M r (pollRead a0 s) := by
  refine Touches.step hs ?_ hm
  clear hs hm r M
  unfold pollRead
  repeat' first
    | with_reducible assumption
    | with_reducible apply Touches.refl
    | (extract_lets -underBinder +onlyGivenNames x; (have hty : TypeOf x = State := by with_reducible rfl); clear hty; apply Touches.cut 0x10 s x; (case' kk => (clear_value x; intro _)); (case' vv => (unfold x; clear x)))
    | (extract_lets -underBinder +onlyGivenNames x; try clear_value x)
    | with_reducible apply Touches.ite
    | ((with_reducible apply spiRun_touches); (case hm => rfl))
    | ((with_reducible apply parUnit_touches); (case hm => rfl))

theorem execSidebandPoll_touches {M : Nat} {r : State} (a0 : Fin 16) (a1 : Nat) (s : State) (hs : Touches M r s) (hm : 0x808001d6 ||| M = M) :
    TouchesR M r (execSidebandPoll a0 a1 s) := by
  refine TouchesR.step hs ?_ hm
  clear hs hm r M
  unfold execSidebandPoll
  repeat' first
    | with_reducible assumption
    | with_reducible apply Touches.refl
    | (extract_lets -underBinder +onlyGivenNames x; (have hty : TypeOf x = State := by with_reducible rfl); clear hty; apply Touches.cut 0x808001d6 s x; (case' kk => (clear_value x; intro _)); (case' vv => (unfold x; clear x)))
    | (extract_lets -underBinder +onlyGivenNames x; try clear_value x)
    | with_reducible apply TouchesR.next
    | with_reducible apply TouchesR.fault
    | with_reducible apply TouchesR.ite
    | with_reducible apply Touches.ite
    | ((with_reducible apply pollRead_touches); (case hm => rfl))
    | ((with_reducible apply State.setFld_touches); (case hm => rfl))
    | ((with_reducible apply State.modTrn_touches); (case hm => rfl))
    | ((with_reducible apply raise_touches); (case hm => rfl))
    | ((with_reducible apply sendTo_touches); (case hm => rfl))
    | split

theorem readEnd_touches {M : Nat} {r : State} (a0 : Sys2Proof.HostId) (a1 : Nat) (a2 : Sys2Proof.Bytes) (s : State) (hs : Touches M r s) (hm : 0x14 ||| M = M) :
    Touches M r (readEnd a0 a1 a2 s) := by
  refine Touches.step hs ?_ hm
  clear hs hm r M
  unfold readEnd
  repeat' first
    | with_reducible assumption
    | with_reducible apply Touches.refl
    | with_reducible apply Touches.ite
    | ((with_reducible apply State.emit_touches); (case hm => rfl))
    | ((with_reducible apply trnError_touches); (case hm => rfl))

theorem reqEnd_touches {M : Nat} {r : State} (a0 : TrnOut) (a1 : Nat) (a2 : Sys2Proof.Bytes) (s : State) (hs : Touches M r s) (hm : 0x808001de ||| M = M) :
    Touches M r (reqEnd a0 a1 a2 s) := by
  refine Touches.step hs ?_ hm
  clear hs hm r M
  unfold reqEnd
  repeat' first
    | with_reducible assumption
    | with_reducible apply Touches.refl
    | ((with_reducible apply lockClose_touches); (case hm => rfl))
    | (extract_lets -underBinder +onlyGivenNames x; (have hty : TypeOf x = State := by with_reducible rfl); clear hty; apply Touches.cut 0x808001de s x; (case' kk => (clear_value x; intro _)); (case' vv => (unfold x; clear x)))
    | (extract_lets -underBinder +onlyGivenNames x; try clear_value x)
    | with_reducible apply Touches.ite
    | ((with_reducible apply State.modTrn_touches); (case hm => rfl))
    | ((with_reducible apply postedFail_touches); (case hm => rfl))
    | ((with_reducible apply readEnd_touches); (case hm => rfl))

theorem execTransomAnswer_touches {M : Nat} {r : State} (a0 : Sys2Proof.Port) (a1 : Nat) (a2 : Nat) (a3 : Nat) (a4 : Nat) (a5 : Sys2Proof.Bytes) (s : State) (hs : Touches M r s) (hm : 0x808001de ||| M = M) :
    TouchesR M r (execTransomAnswer a0 a1 a2 a3 a4 a5 s) := by
  refine TouchesR.step hs ?_ hm
  clear hs hm r M
  unfold execTransomAnswer
  repeat' first
    | with_reducible assumption
    | with_reducible apply Touches.refl
    | with_reducible apply TouchesR.next
    | with_reducible apply TouchesR.fault
    | with_reducible apply TouchesR.ite
    | with_reducible apply Touches.ite
    | ((with_reducible apply relay_touches); (case hm => rfl))
    | ((with_reducible apply reqEnd_touches); (case hm => rfl))
    | split

theorem regRun_touches {M : Nat} {r : State} (a0 : Sys2Proof.Src) (a1 : Sys2Proof.TrnReq) (s : State) (hs : Touches M r s) (hm : 0xb9eb27fe ||| M = M) :
    Touches M r ((regRun a0 a1 s).2) := by
  refine Touches.step hs ?_ hm
  clear hs hm r M
  unfold regRun
  repeat' first
    | with_reducible assumption
    | (intro _; try dsimp -zeta only)
    | with_reducible apply Touches.refl
    | with_reducible apply Touches.ite
    | ((with_reducible apply busWrite_touches); (case hm => rfl))
    | ((with_reducible apply busRead_touches); (case hm => rfl))
    | with_reducible apply Touches.foldlP
    | with_reducible apply Touches.foldlD
    | ((with_reducible apply Touches.snd); (case eqn => assumption))
    | split
    | (dsimp -zeta only)

theorem lbusRun_touches {M : Nat} {r : State} (a0 : Sys2Proof.TrnReq) (s : State) (hs : Touches M r s) (hm : 0x10 ||| M = M) :
    Touches M r (lbusRun a0 s) := by
  refine Touches.step hs ?_ hm
  clear hs hm r M
  unfold lbusRun
  repeat' first
    | with_reducible assumption
    | (intro _; try dsimp -zeta only)
    | (extract_lets -underBinder +onlyGivenNames x; (have hty : TypeOf x = State := by with_reducible rfl); clear hty; apply Touches.cut 0x10 s x; (case' kk => (clear_value x; intro _)); (case' vv => (unfold x; clear x)))
    | (extract_lets -underBinder +onlyGivenNames x; try clear_value x)
    | with_reducible apply Touches.refl
    | with_reducible apply Touches.ite
    | ((with_reducible apply spiRun_touches); (case hm => rfl))
    | ((with_reducible apply parUnit_touches); (case hm => rfl))
    | with_reducible apply Touches.foldlD

theorem perform_touches {M : Nat} {r : State} (a0 : Sys2Proof.Src) (a1 : Sys2Proof.TrnReq) (a2 : Sys2Proof.Bytes) (a3 : Bool) (s : State) (hs : Touches M r s) (hm : 0xb9eb27fe ||| M = M) :
    Touches M r ((perform a0 a1 a2 a3 s).2.2) := by
  refine Touches.step hs ?_ hm
  clear hs hm r M
  unfold perform
  repeat' first
    | with_reducible assumption
    | with_reducible apply Touches.refl
    | (extract_lets -underBinder +onlyGivenNames x; (have hty : TypeOf x = State := by with_reducible rfl); clear hty; apply Touches.cut 0xb9eb27fe s x; (case' kk => (clear_value x; intro _)); (case' vv => (unfold x; clear x)))
    | (extract_lets -underBinder +onlyGivenNames x; try clear_value x)
    | with_reducible apply Touches.ite
    | ((with_reducible apply regRun_touches); (case hm => rfl))
    | ((with_reducible apply lbusRun_touches); (case hm => rfl))
    | ((with_reducible apply Touches.snd); (case eqn => assumption))
    | split
    | (dsimp -zeta only)
    | ((with_reducible apply Touches.bus); (case hm => rfl))

theorem execTransomFarRequest_touches {M : Nat} {r : State} (a0 : Sys2Proof.Port) (a1 : Nat) (a2 : Sys2Proof.TrnReq) (a3 : Sys2Proof.Bytes) (a4 : Bool) (s : State) (hs : Touches M r s) (hm : 0xb9eb27fe ||| M = M) :
    TouchesR M r (execTransomFarRequest a0 a1 a2 a3 a4 s) := by
  refine TouchesR.step hs ?_ hm
  clear hs hm r M
  unfold execTransomFarRequest
  repeat' first
    | with_reducible assumption
    | with_reducible apply Touches.refl
    | with_reducible apply TouchesR.next
    | with_reducible apply TouchesR.fault
    | with_reducible apply TouchesR.ite
    | with_reducible apply Touches.ite
    | ((with_reducible apply relay_touches); (case hm => rfl))
    | ((with_reducible apply sendTo_touches); (case hm => rfl))
    | ((with_reducible apply answerReq_touches); (case hm => rfl))
    | ((with_reducible apply perform_touches); (case hm => rfl))
    | ((with_reducible apply Touches.thd); (case eqn => assumption))
    | split

theorem execTransomLockBackoff_touches {M : Nat} {r : State} (a0 : Sys2Proof.HostId) (s : State) (hs : Touches M r s) (hm : 0x8080001e ||| M = M) :
    TouchesR M r (execTransomLockBackoff a0 s) := by
  refine TouchesR.step hs ?_ hm
  clear hs hm r M
  unfold execTransomLockBackoff
  repeat' first
    | with_reducible assumption
    | with_reducible apply Touches.refl
    | with_reducible apply TouchesR.next
    | with_reducible apply TouchesR.fault
    | with_reducible apply TouchesR.ite
    | with_reducible apply Touches.ite
    | ((with_reducible apply seqAsk_touches); (case hm => rfl))
    | ((with_reducible apply State.modTrn_touches); (case hm => rfl))
    | split

theorem execTransomLockExpiry_touches {M : Nat} {r : State} (a0 : Fin 5) (s : State) (hs : Touches M r s) (hm : 0x8080001e ||| M = M) :
    TouchesR M r (execTransomLockExpiry a0 s) := by
  refine TouchesR.step hs ?_ hm
  clear hs hm r M
  unfold execTransomLockExpiry
  repeat' first
    | with_reducible assumption
    | with_reducible apply Touches.refl
    | with_reducible apply TouchesR.next
    | with_reducible apply TouchesR.fault
    | with_reducible apply TouchesR.ite
    | with_reducible apply Touches.ite
    | ((with_reducible apply seqGo_touches); (case hm => rfl))
    | ((with_reducible apply freeBus_touches); (case hm => rfl))
    | ((with_reducible apply sendTo_touches); (case hm => rfl))
    | split

theorem grantIn_touches {M : Nat} {r : State} (a0 : Nat) (a1 : Nat × Nat) (s : State) (hs : Touches M r s) (hm : 0x8080001e ||| M = M) :
    Touches M r (grantIn a0 a1 s) := by
  refine Touches.step hs ?_ hm
  clear hs hm r M
  unfold grantIn
  repeat' first
    | with_reducible assumption
    | with_reducible apply Touches.refl
    | with_reducible apply Touches.ite
    | ((with_reducible apply seqGo_touches); (case hm => rfl))
    | ((with_reducible apply seqTake_touches); (case hm => rfl))
    | ((with_reducible apply sendTo_touches); (case hm => rfl))
    | split

theorem seqBroken_touches {M : Nat} {r : State} (a0 : Nat) (a1 : Nat × Nat) (s : State) (hs : Touches M r s) (hm : 0x800001c6 ||| M = M) :
    Touches M r (seqBroken a0 a1 s) := by
  refine Touches.step hs ?_ hm
  clear hs hm r M
  unfold seqBroken
  repeat' first
    | with_reducible assumption
    | with_reducible apply Touches.refl
    | (extract_lets -underBinder +onlyGivenNames x; (have hty : TypeOf x = State := by with_reducible rfl); clear hty; apply Touches.cut 0x800001c6 s x; (case' kk => (clear_value x; intro _)); (case' vv => (unfold x; clear x)))
    | (extract_lets -underBinder +onlyGivenNames x; try clear_value x)
    | with_reducible apply Touches.ite
    | ((with_reducible apply State.modTrn_touches); (case hm => rfl))
    | ((with_reducible apply raise_touches); (case hm => rfl))
    | ((with_reducible apply showSeq_touches); (case hm => rfl))
    | split

theorem execTransomLockRequest_touches {M : Nat} {r : State} (a0 : Sys2Proof.Port) (a1 : Nat) (a2 : Sys2Proof.TrnMsg) (s : State) (hs : Touches M r s) (hm : 0x808001de ||| M = M) :
    TouchesR M r (execTransomLockRequest a0 a1 a2 s) := by
  refine TouchesR.step hs ?_ hm
  clear hs hm r M
  unfold execTransomLockRequest
  repeat' first
    | with_reducible assumption
    | with_reducible apply Touches.refl
    | with_reducible apply TouchesR.next
    | with_reducible apply TouchesR.fault
    | with_reducible apply TouchesR.ite
    | with_reducible apply Touches.ite
    | ((with_reducible apply relay_touches); (case hm => rfl))
    | ((with_reducible apply seqGo_touches); (case hm => rfl))
    | ((with_reducible apply lockAt_touches); (case hm => rfl))
    | ((with_reducible apply grantIn_touches); (case hm => rfl))
    | ((with_reducible apply seqYield_touches); (case hm => rfl))
    | ((with_reducible apply dropLock_touches); (case hm => rfl))
    | ((with_reducible apply seqBroken_touches); (case hm => rfl))
    | split

theorem sendReq_touches {M : Nat} {r : State} (a0 : Nat) (a1 : Nat) (a2 : Nat) (a3 : Sys2Proof.TrnReq) (s : State) (hs : Touches M r s) (hm : 0x80800014 ||| M = M) :
    Touches M r (sendReq a0 a1 a2 a3 s) := by
  refine Touches.step hs ?_ hm
  clear hs hm r M
  unfold sendReq
  repeat' first
    | with_reducible assumption
    | with_reducible apply Touches.refl
    | (extract_lets -underBinder +onlyGivenNames x; (have hty : TypeOf x = State := by with_reducible rfl); clear hty; apply Touches.cut 0x80800014 s x; (case' kk => (clear_value x; intro _)); (case' vv => (unfold x; clear x)))
    | (extract_lets -underBinder +onlyGivenNames x; try clear_value x)
    | ((with_reducible apply State.modTrn_touches); (case hm => rfl))
    | ((with_reducible apply sendTo_touches); (case hm => rfl))
    | ((with_reducible apply State.bump_touches); (case hm => rfl))

theorem execTransomRead_touches {M : Nat} {r : State} (a0 : Sys2Proof.HostId) (a1 : Nat) (a2 : List Bool) (a3 : Sys2Proof.Bytes) (a4 : Bool) (s : State) (hs : Touches M r s) (hm : 0xb9eb27fe ||| M = M) :
    TouchesR M r (execTransomRead a0 a1 a2 a3 a4 s) := by
  refine TouchesR.step hs ?_ hm
  clear hs hm r M
  unfold execTransomRead
  repeat' first
    | with_reducible assumption
    | with_reducible apply Touches.refl
    | (extract_lets -underBinder +onlyGivenNames x; (have hty : TypeOf x = State := by with_reducible rfl); clear hty; apply Touches.cut 0xb9eb27fe s x; (case' kk => (clear_value x; intro _)); (case' vv => (unfold x; clear x)))
    | (extract_lets -underBinder +onlyGivenNames x; try clear_value x)
    | with_reducible apply TouchesR.next
    | with_reducible apply TouchesR.fault
    | with_reducible apply TouchesR.ite
    | with_reducible apply Touches.ite
    | ((with_reducible apply State.emit_touches); (case hm => rfl))
    | ((with_reducible apply readEnd_touches); (case hm => rfl))
    | ((with_reducible apply perform_touches); (case hm => rfl))
    | ((with_reducible apply sendReq_touches); (case hm => rfl))
    | ((with_reducible apply Touches.thd); (case eqn => assumption))
    | split

theorem execTransomReadTimeout_touches {M : Nat} {r : State} (a0 : Sys2Proof.HostId) (a1 : Nat) (s : State) (hs : Touches M r s) (hm : 0x808001de ||| M = M) :
    TouchesR M r (execTransomReadTimeout a0 a1 s) := by
  refine TouchesR.step hs ?_ hm
  clear hs hm r M
  unfold execTransomReadTimeout
  repeat' first
    | with_reducible assumption
    | with_reducible apply Touches.refl
    | with_reducible apply TouchesR.next
    | with_reducible apply TouchesR.fault
    | with_reducible apply TouchesR.ite
    | with_reducible apply Touches.ite
    | ((with_reducible apply reqEnd_touches); (case hm => rfl))
    | split

theorem execTransomRetransmit_touches {M : Nat} {r : State} (a0 : Sys2Proof.HostId) (s : State) (hs : Touches M r s) (hm : 0x808001de ||| M = M) :
    TouchesR M r (execTransomRetransmit a0 s) := by
  refine TouchesR.step hs ?_ hm
  clear hs hm r M
  unfold execTransomRetransmit
  repeat' first
    | with_reducible assumption
    | with_reducible apply Touches.refl
    | (extract_lets -underBinder +onlyGivenNames x; (have hty : TypeOf x = State := by with_reducible rfl); clear hty; apply Touches.cut 0x808001de s x; (case' kk => (clear_value x; intro _)); (case' vv => (unfold x; clear x)))
    | (extract_lets -underBinder +onlyGivenNames x; try clear_value x)
    | with_reducible apply TouchesR.next
    | with_reducible apply TouchesR.fault
    | with_reducible apply TouchesR.ite
    | with_reducible apply Touches.ite
    | ((with_reducible apply State.bump_touches); (case hm => rfl))
    | ((with_reducible apply State.modTrn_touches); (case hm => rfl))
    | ((with_reducible apply sendTo_touches); (case hm => rfl))
    | ((with_reducible apply reqEnd_touches); (case hm => rfl))
    | split

theorem takeTag_touches {M : Nat} {r : State} (a0 : Nat) (a1 : Nat) (s : State) (hs : Touches M r s) (hm : 0x2 ||| M = M) :
    Touches M r (takeTag a0 a1 s) := by
  refine Touches.step hs ?_ hm
  clear hs hm r M
  unfold takeTag
  repeat' first
    | with_reducible assumption
    | with_reducible apply Touches.refl
    | ((with_reducible apply State.setFld_touches); (case hm => rfl))

theorem execTransomWrite_touches {M : Nat} {r : State} (a0 : Sys2Proof.HostId) (a1 : Nat) (a2 : List Bool) (a3 : Sys2Proof.Bytes) (a4 : Bool) (s : State) (hs : Touches M r s) (hm : 0xb9eb27fe ||| M = M) :
    TouchesR M r (execTransomWrite a0 a1 a2 a3 a4 s) := by
  refine TouchesR.step hs ?_ hm
  clear hs hm r M
  unfold execTransomWrite
  repeat' first
    | with_reducible assumption
    | with_reducible apply Touches.refl
    | (extract_lets -underBinder +onlyGivenNames x; (have hty : TypeOf x = State := by with_reducible rfl); clear hty; apply Touches.cut 0xb9eb27fe s x; (case' kk => (clear_value x; intro _)); (case' vv => (unfold x; clear x)))
    | (extract_lets -underBinder +onlyGivenNames x; try clear_value x)
    | with_reducible apply TouchesR.next
    | with_reducible apply TouchesR.fault
    | with_reducible apply TouchesR.ite
    | with_reducible apply Touches.ite
    | ((with_reducible apply trnError_touches); (case hm => rfl))
    | ((with_reducible apply State.bump_touches); (case hm => rfl))
    | ((with_reducible apply postedFail_touches); (case hm => rfl))
    | ((with_reducible apply takeTag_touches); (case hm => rfl))
    | ((with_reducible apply perform_touches); (case hm => rfl))
    | ((with_reducible apply sendReq_touches); (case hm => rfl))
    | ((with_reducible apply Touches.thd); (case eqn => assumption))
    | split

end Sys2Proof.Machine
end

