-- ==== Sys2Proof/Laws/Boot.lean ====
section
/-! SUPPORT. What each function of Machine/Boot.lean touches: one lemma per function that answers a state. -/

set_option linter.tactic.unusedName false

namespace Sys2Proof.Machine

theorem sweepRestart_touches {M : Nat} {r : State} (s : State) (hs : Touches M r s) (hm : 0x1000 ||| M = M) :
    Touches M r (sweepRestart s) := by
  refine Touches.step hs ?_ hm
  clear hs hm r M
  unfold sweepRestart
  repeat' first
    | with_reducible assumption
    | with_reducible apply Touches.refl
    | (extract_lets -underBinder +onlyGivenNames x; (have hty : TypeOf x = State := by with_reducible rfl); clear hty; apply Touches.cut 0x1000 s x; (case' kk => (clear_value x; intro _)); (case' vv => (unfold x; clear x)))
    | (extract_lets -underBinder +onlyGivenNames x; try clear_value x)
    | ((with_reducible apply Touches.hedge); (case hm => rfl))

theorem imageCommand_touches {op : Nat} {c : CmdCtx} {f : State → State} (h : imageCommand op c = some f) (s : State) : Touches 0x835d6 s (f s) := by
  unfold imageCommand at h
  split at h
  · rw [← Option.some.inj h]; exact tblInsert_touches _ _ _ _ (Touches.refl _ _) rfl
  · rw [← Option.some.inj h]; exact tblInsert_touches _ _ _ _ (Touches.refl _ _) rfl
  · rw [← Option.some.inj h]; exact hedgeStage_touches _ _ (Touches.refl _ _) rfl
  · rw [← Option.some.inj h]; exact shutterStage_touches _ _ (Touches.refl _ _) rfl
  · rw [← Option.some.inj h]; exact gwStage_touches _ _ (Touches.refl _ _) rfl
  · exact absurd h (by simp)

theorem imageRun_touches {M : Nat} {r : State} (a0 : Nat) (a1 : CmdCtx) (s : State) (hs : Touches M r s) (hm : 0x835d6 ||| M = M) :
    Touches M r ((imageRun a0 a1 s).1) := by
  refine Touches.step hs ?_ hm
  unfold imageRun
  split
  · exact Touches.refl _ _
  · rename_i f hf
    have h := imageCommand_touches hf s
    dsimp only
    split
    · exact h
    · rename_i hl
      split
      · rename_i op st b l ho
        refine Touches.step (F := 0x835d6) (Touches.refl _ _) ⟨?_, ⟨h.keeps.pending, ?_, h.keeps.free, h.keeps.regs, h.keeps.ctrs, h.keeps.lt⟩⟩ (by rfl)
        · have a := h.agree
          exact ⟨a.regs, a.ctrs, a.free, tb rfl, a.bus, a.hostA, a.hostB, a.flt, a.time, a.tabs, a.pairMode, a.hedge, a.egr, a.links, a.brace, a.mem,
            a.streams, a.pnHold, a.gw, a.dbg, a.wake, a.keys, a.fab, a.pair, a.flash, a.admJob, a.pwr, a.sup, a.rst, a.fn, a.trn⟩
        · have hx := h.keeps.out
          rw [ho] at hx
          rcases List.suffix_cons_iff.mp hx with hx | hx
          · exact absurd (Nat.le_of_eq (by rw [hx, ho])) hl
          · exact hx
      · exact h

theorem applyRecord_touches {M : Nat} {r : State} (a0 : Rec595) (s : State) (hs : Touches M r s) (hm : 0xb9eb37de ||| M = M) :
    Touches M r ((applyRecord a0 s).1) := by
  refine Touches.step hs ?_ hm
  clear hs hm r M
  unfold applyRecord
  repeat' first
    | with_reducible assumption
    | with_reducible apply Touches.refl
    | with_reducible apply Touches.ite
    | ((with_reducible apply writeReg_touches); (case hm => rfl))
    | ((with_reducible apply imageRun_touches); (case hm => rfl))
    | ((with_reducible apply Touches.fst); (case eqn => assumption))
    | split
    | (dsimp -zeta only)

theorem applyRecords_touches {M : Nat} {r : State} (a0 : List Rec595) (s : State) (hs : Touches M r s) (hm : 0xb9eb37de ||| M = M) :
    Touches M r ((applyRecords a0 s).1) := by
  refine Touches.step hs ?_ hm
  clear hs hm r M
  suffices hq : ∀ r, Touches 0xb9eb37de r s → Touches 0xb9eb37de r (applyRecords a0 s).1 from hq _ (Touches.refl _ _)
  induction a0 generalizing s with
  | nil =>
    intro r hs
    unfold applyRecords
    repeat' first
      | with_reducible assumption
      | (intro _; try dsimp -zeta only)
      | (extract_lets -underBinder +onlyGivenNames x; (have hty : TypeOf x = State := by with_reducible rfl); clear hty; apply Touches.cut 0xb9eb37de r x; (case' kk => (clear_value x; intro _)); (case' vv => (unfold x; clear x)))
      | (extract_lets -underBinder +onlyGivenNames x; try clear_value x)
      | with_reducible apply Touches.refl
      | with_reducible apply Touches.ite
      | with_reducible apply ih
      | ((with_reducible apply applyRecord_touches); (case hm => rfl))
      | with_reducible apply Touches.foldlD
      | ((with_reducible apply Touches.fst); (case eqn => assumption))
      | split
      | (dsimp -zeta only)
  | cons hd tl ih =>
    intro r hs
    unfold applyRecords
    repeat' first
      | with_reducible assumption
      | (intro _; try dsimp -zeta only)
      | (extract_lets -underBinder +onlyGivenNames x; (have hty : TypeOf x = State := by with_reducible rfl); clear hty; apply Touches.cut 0xb9eb37de r x; (case' kk => (clear_value x; intro _)); (case' vv => (unfold x; clear x)))
      | (extract_lets -underBinder +onlyGivenNames x; try clear_value x)
      | with_reducible apply Touches.refl
      | with_reducible apply Touches.ite
      | with_reducible apply ih
      | ((with_reducible apply applyRecord_touches); (case hm => rfl))
      | with_reducible apply Touches.foldlD
      | ((with_reducible apply Touches.fst); (case eqn => assumption))
      | split
      | (dsimp -zeta only)

theorem applySections_touches {M : Nat} {r : State} (a0 : Sys2Proof.Bytes) (a1 : List Nat) (s : State) (hs : Touches M r s) (hm : 0xb9eb37de ||| M = M) :
    Touches M r ((applySections a0 a1 s).1) := by
  refine Touches.step hs ?_ hm
  clear hs hm r M
  suffices hq : ∀ r, Touches 0xb9eb37de r s → Touches 0xb9eb37de r (applySections a0 a1 s).1 from hq _ (Touches.refl _ _)
  induction a1 generalizing a0 s with
  | nil =>
    intro r hs
    unfold applySections
    repeat' first
      | with_reducible assumption
      | (intro _; try dsimp -zeta only)
      | (extract_lets -underBinder +onlyGivenNames x; (have hty : TypeOf x = State := by with_reducible rfl); clear hty; apply Touches.cut 0xb9eb37de r x; (case' kk => (clear_value x; intro _)); (case' vv => (unfold x; clear x)))
      | (extract_lets -underBinder +onlyGivenNames x; try clear_value x)
      | with_reducible apply Touches.refl
      | with_reducible apply Touches.ite
      | with_reducible apply ih
      | ((with_reducible apply applyRecords_touches); (case hm => rfl))
      | with_reducible apply Touches.foldlD
      | ((with_reducible apply Touches.fst); (case eqn => assumption))
      | split
      | (dsimp -zeta only)
  | cons hd tl ih =>
    intro r hs
    unfold applySections
    repeat' first
      | with_reducible assumption
      | (intro _; try dsimp -zeta only)
      | (extract_lets -underBinder +onlyGivenNames x; (have hty : TypeOf x = State := by with_reducible rfl); clear hty; apply Touches.cut 0xb9eb37de r x; (case' kk => (clear_value x; intro _)); (case' vv => (unfold x; clear x)))
      | (extract_lets -underBinder +onlyGivenNames x; try clear_value x)
      | with_reducible apply Touches.refl
      | with_reducible apply Touches.ite
      | with_reducible apply ih
      | ((with_reducible apply applyRecords_touches); (case hm => rfl))
      | with_reducible apply Touches.foldlD
      | ((with_reducible apply Touches.fst); (case eqn => assumption))
      | split
      | (dsimp -zeta only)

theorem cfgRejected_touches {M : Nat} {r : State} (a0 : Nat) (a1 : Nat) (a2 : Nat) (s : State) (hs : Touches M r s) (hm : 0x1c6 ||| M = M) :
    Touches M r (cfgRejected a0 a1 a2 s) := by
  refine Touches.step hs ?_ hm
  clear hs hm r M
  unfold cfgRejected
  repeat' first
    | with_reducible assumption
    | with_reducible apply Touches.refl
    | ((with_reducible apply raise_touches); (case hm => rfl))

theorem listsStart_touches {M : Nat} {r : State} (s : State) (hs : Touches M r s) (hm : 0x2000 ||| M = M) :
    Touches M r (listsStart s) := by
  refine Touches.step hs ?_ hm
  clear hs hm r M
  unfold listsStart
  repeat' first
    | with_reducible assumption
    | with_reducible apply Touches.refl
    | (extract_lets -underBinder +onlyGivenNames x; (have hty : TypeOf x = State := by with_reducible rfl); clear hty; apply Touches.cut 0x2000 s x; (case' kk => (clear_value x; intro _)); (case' vv => (unfold x; clear x)))
    | (extract_lets -underBinder +onlyGivenNames x; try clear_value x)
    | ((with_reducible apply Touches.egr); (case hm => rfl))

theorem keyStart_touches {M : Nat} {r : State} (s : State) (hs : Touches M r s) (hm : 0x4401c6 ||| M = M) :
    Touches M r (keyStart s) := by
  refine Touches.step hs ?_ hm
  clear hs hm r M
  unfold keyStart
  repeat' first
    | with_reducible assumption
    | with_reducible apply Touches.refl
    | (extract_lets -underBinder +onlyGivenNames x; (have hty : TypeOf x = State := by with_reducible rfl); clear hty; apply Touches.cut 0x4401c6 s x; (case' kk => (clear_value x; intro _)); (case' vv => (unfold x; clear x)))
    | (extract_lets -underBinder +onlyGivenNames x; try clear_value x)
    | ((with_reducible apply State.setFld_touches); (case hm => rfl))
    | ((with_reducible apply showMeas_touches); (case hm => rfl))
    | ((with_reducible apply keysRestore_touches); (case hm => rfl))

theorem imageFlips_touches {M : Nat} {r : State} (s : State) (hs : Touches M r s) (hm : 0xb31d6 ||| M = M) :
    Touches M r (imageFlips s) := by
  refine Touches.step hs ?_ hm
  clear hs hm r M
  unfold imageFlips
  repeat' first
    | with_reducible assumption
    | (intro _; try dsimp -zeta only)
    | (extract_lets -underBinder +onlyGivenNames x; (have hty : TypeOf x = State := by with_reducible rfl); clear hty; apply Touches.cut 0xb31d6 s x; (case' kk => (clear_value x; intro _)); (case' vv => (unfold x; clear x)))
    | (extract_lets -underBinder +onlyGivenNames x; try clear_value x)
    | with_reducible apply Touches.refl
    | with_reducible apply Touches.ite
    | ((with_reducible apply endHedgeCopy_touches); (case hm => rfl))
    | ((with_reducible apply hedgeSwap_touches); (case hm => rfl))
    | ((with_reducible apply State.setFld_touches); (case hm => rfl))
    | ((with_reducible apply State.modEport_touches); (case hm => rfl))
    | ((with_reducible apply gwCopyEnd_touches); (case hm => rfl))
    | ((with_reducible apply gwSwap_touches); (case hm => rfl))
    | ((with_reducible apply carve_touches); (case hm => rfl))
    | with_reducible apply Touches.foldlD

theorem imageStart_touches {M : Nat} {r : State} (s : State) (hs : Touches M r s) (hm : 0xbbeb37de ||| M = M) :
    Touches M r (imageStart s) := by
  refine Touches.step hs ?_ hm
  clear hs hm r M
  unfold imageStart
  repeat' first
    | with_reducible assumption
    | with_reducible apply Touches.refl
    | (extract_lets -underBinder +onlyGivenNames x; (have hty : TypeOf x = State := by with_reducible rfl); clear hty; apply Touches.cut 0xbbeb37de s x; (case' kk => (clear_value x; intro _)); (case' vv => (unfold x; clear x)))
    | (extract_lets -underBinder +onlyGivenNames x; try clear_value x)
    | with_reducible apply Touches.ite
    | ((with_reducible apply cfgRejected_touches); (case hm => rfl))
    | ((with_reducible apply applySections_touches); (case hm => rfl))
    | ((with_reducible apply imageFlips_touches); (case hm => rfl))
    | ((with_reducible apply State.setFld_touches); (case hm => rfl))
    | ((with_reducible apply showRoots_touches); (case hm => rfl))
    | ((with_reducible apply Touches.fst); (case eqn => assumption))
    | split
    | ((with_reducible apply Touches.keys); (case hm => rfl))
    | ((with_reducible apply Touches.fab); (case hm => rfl))
    | ((with_reducible apply Touches.flash); (case hm => rfl))
    | ((with_reducible apply Touches.lit (F := 0x2c00000)); (case l1 => with_reducible rfl); (case l2 => with_reducible rfl); (case l3 => with_reducible rfl); (case l4 => with_reducible rfl); (case l5 => rfl); (case hm => rfl); (case ag => (constructor <;> first | exact tb rfl | exact fun _ => rfl)))

theorem journalScan_touches {M : Nat} {r : State} (a0 : Bool) (s : State) (hs : Touches M r s) (hm : 0x10400002 ||| M = M) :
    Touches M r (journalScan a0 s) := by
  refine Touches.step hs ?_ hm
  clear hs hm r M
  unfold journalScan
  repeat' first
    | with_reducible assumption
    | with_reducible apply Touches.refl
    | (extract_lets -underBinder +onlyGivenNames x; (have hty : TypeOf x = State := by with_reducible rfl); clear hty; apply Touches.cut 0x10400002 s x; (case' kk => (clear_value x; intro _)); (case' vv => (unfold x; clear x)))
    | (extract_lets -underBinder +onlyGivenNames x; try clear_value x)
    | with_reducible apply Touches.ite
    | ((with_reducible apply dropHandover_touches); (case hm => rfl))
    | ((with_reducible apply State.modSup_touches); (case hm => rfl))
    | ((with_reducible apply showSlot_touches); (case hm => rfl))

theorem showCrash_touches {M : Nat} {r : State} (s : State) (hs : Touches M r s) (hm : 0x2 ||| M = M) :
    Touches M r (showCrash s) := by
  refine Touches.step hs ?_ hm
  clear hs hm r M
  unfold showCrash
  repeat' first
    | with_reducible assumption
    | (intro _; try dsimp -zeta only)
    | (extract_lets -underBinder +onlyGivenNames x; (have hty : TypeOf x = State := by with_reducible rfl); clear hty; apply Touches.cut 0x2 s x; (case' kk => (clear_value x; intro _)); (case' vv => (unfold x; clear x)))
    | (extract_lets -underBinder +onlyGivenNames x; try clear_value x)
    | with_reducible apply Touches.refl
    | ((with_reducible apply State.setReg_touches); (case hm => rfl))
    | ((with_reducible apply State.setFld_touches); (case hm => rfl))
    | with_reducible apply Touches.foldlD
    | split

theorem startUp_touches {M : Nat} {r : State} (a0 : Nat) (a1 : Nat) (a2 : Nat) (a3 : Bool) (s : State) (hs : Touches M r s) (hm : 0xbbff3fde ||| M = M) :
    Touches M r (startUp a0 a1 a2 a3 s) := by
  refine Touches.step hs ?_ hm
  clear hs hm r M
  unfold startUp
  repeat' first
    | with_reducible assumption
    | with_reducible apply Touches.refl
    | (extract_lets -underBinder +onlyGivenNames x; (have hty : TypeOf x = State := by with_reducible rfl); clear hty; apply Touches.cut 0xbbff3fde s x; (case' kk => (clear_value x; intro _)); (case' vv => (unfold x; clear x)))
    | (extract_lets -underBinder +onlyGivenNames x; try clear_value x)
    | with_reducible apply Touches.ite
    | ((with_reducible apply State.setFld_touches); (case hm => rfl))
    | ((with_reducible apply showIslands_touches); (case hm => rfl))
    | ((with_reducible apply keyStart_touches); (case hm => rfl))
    | ((with_reducible apply imageStart_touches); (case hm => rfl))
    | ((with_reducible apply journalScan_touches); (case hm => rfl))
    | ((with_reducible apply showCrash_touches); (case hm => rfl))
    | ((with_reducible apply pairStart_touches); (case hm => rfl))
    | ((with_reducible apply supShow_touches); (case hm => rfl))
    | ((with_reducible apply State.modSup_touches); (case hm => rfl))
    | ((with_reducible apply State.modPwr_touches); (case hm => rfl))
    | ((with_reducible apply Touches.dbg); (case hm => rfl))
    | ((with_reducible apply Touches.rst); (case hm => rfl))
    | ((with_reducible apply Touches.lit (F := 0x20100000)); (case l1 => with_reducible rfl); (case l2 => with_reducible rfl); (case l3 => with_reducible rfl); (case l4 => with_reducible rfl); (case l5 => rfl); (case hm => rfl); (case ag => (constructor <;> first | exact tb rfl | exact fun _ => rfl)))

theorem execPowerOnReset_touches {M : Nat} {r : State} (a0 : Bool) (a1 : Nat) (a2 : List Nat) (a3 : Bool) (a4 : Nat) (s : State) (hs : Touches M r s) (hm : 0xfffffffe ||| M = M) :
    TouchesR M r (execPowerOnReset a0 a1 a2 a3 a4 s) := by
  refine TouchesR.step hs ?_ hm
  clear hs hm r M
  unfold execPowerOnReset
  repeat' first
    | with_reducible assumption
    | with_reducible apply Touches.refl
    | (extract_lets -underBinder +onlyGivenNames x; (have hty : TypeOf x = State := by with_reducible rfl); clear hty; apply Touches.cut 0xfffffffe s x; (case' kk => (clear_value x; intro _)); (case' vv => (unfold x; clear x)))
    | (extract_lets -underBinder +onlyGivenNames x; try clear_value x)
    | with_reducible apply TouchesR.next
    | with_reducible apply TouchesR.fault
    | with_reducible apply TouchesR.ite
    | with_reducible apply Touches.ite
    | ((with_reducible apply listsStart_touches); (case hm => rfl))
    | ((with_reducible apply gwRestart_touches); (case hm => rfl))
    | ((with_reducible apply startUp_touches); (case hm => rfl))
    | ((with_reducible apply porLose_touches); (case hm => rfl))
    | ((with_reducible apply State.drew_touches); (case hm => rfl))
    | ((with_reducible apply porHold_touches); (case hm => rfl))

theorem exitPorts_touches {M : Nat} {r : State} (a0 : Leaving) (s : State) (hs : Touches M r s) (hm : 0xab21d6 ||| M = M) :
    Touches M r (exitPorts a0 s) := by
  refine Touches.step hs ?_ hm
  clear hs hm r M
  unfold exitPorts
  repeat' first
    | with_reducible assumption
    | with_reducible apply Touches.refl
    | (extract_lets -underBinder +onlyGivenNames x; (have hty : TypeOf x = State := by with_reducible rfl); clear hty; apply Touches.cut 0xab21d6 s x; (case' kk => (clear_value x; intro _)); (case' vv => (unfold x; clear x)))
    | (extract_lets -underBinder +onlyGivenNames x; try clear_value x)
    | with_reducible apply Touches.ite
    | ((with_reducible apply portsToNormal_touches); (case hm => rfl))
    | ((with_reducible apply wakeAfterExit_touches); (case hm => rfl))

theorem porLose_woken {M : Nat} {r : State} (s : State) (hs : Touches M r s) (hm : 0xffffffe6 ||| M = M) :
    Touches M r { porLose s with wake := { (porLose s).wake with due := s.wake.due },
                                 time := { (porLose s).time with lt := s.time.lt, d0 := { val := s.time.d0.val }, d1 := { val := s.time.d1.val } } } := by
  refine Touches.step (F := 0xffffffe6) hs ?_ hm
  have h := porLose_touches s (M := 0xffffffe6) (Touches.refl _ _) (by rfl)
  have a := h.agree
  have k := h.keeps
  generalize porLose s = t at h a k ⊢
  exact ⟨⟨a.regs, a.ctrs, a.free, a.out, a.bus, a.hostA, a.hostB, a.flt, tb rfl, a.tabs, a.pairMode, a.hedge, a.egr, a.links, a.brace, a.mem,
    a.streams, a.pnHold, a.gw, a.dbg, tb rfl, a.keys, a.fab, a.pair, a.flash, a.admJob, a.pwr, a.sup, a.rst, a.fn, a.trn⟩,
    ⟨k.pending, k.out, k.free, k.regs, k.ctrs, id⟩⟩

theorem exitSealed_touches {M : Nat} {r : State} (a0 : Leaving) (a1 : Nat) (s : State) (hs : Touches M r s) (hm : 0xfffffffe ||| M = M) :
    Touches M r (exitSealed a0 a1 s) := by
  have h := porLose_woken s hs (sub_trans (by rfl) hm)
  exact exitPorts_touches _ _ (exitShow_touches _ _ _ (State.bumpBy_touches _ _ _ (listsStart_touches _ (gwRestart_touches _
    (sweepRestart_touches _ (startUp_touches _ _ _ _ _ (timeResume_touches _ _ h (sub_trans (by rfl) hm)) (sub_trans (by rfl) hm)) (sub_trans (by rfl) hm)) (sub_trans (by rfl) hm)) (sub_trans (by rfl) hm)) (sub_trans (by rfl) hm)) (sub_trans (by rfl) hm)) (sub_trans (by rfl) hm)

theorem reloadTables_touches {M : Nat} {r : State} (s : State) (hs : Touches M r s) (hm : 0xb9eb37de ||| M = M) :
    Touches M r (reloadTables s) := by
  refine Touches.step hs ?_ hm
  clear hs hm r M
  unfold reloadTables
  repeat' first
    | with_reducible assumption
    | (intro _; try dsimp -zeta only)
    | (extract_lets -underBinder +onlyGivenNames x; (have hty : TypeOf x = State := by with_reducible rfl); clear hty; apply Touches.cut 0xb9eb37de s x; (case' kk => (clear_value x; intro _)); (case' vv => (unfold x; clear x)))
    | (extract_lets -underBinder +onlyGivenNames x; try clear_value x)
    | with_reducible apply Touches.refl
    | ((with_reducible apply applyRecord_touches); (case hm => rfl))
    | with_reducible apply Touches.foldlD
    | ((with_reducible apply Touches.fst); (case eqn => assumption))

theorem exitEpochs_touches {M : Nat} {r : State} (s : State) (hs : Touches M r s) (hm : 0x201c6 ||| M = M) :
    Touches M r (exitEpochs s) := by
  refine Touches.step hs ?_ hm
  clear hs hm r M
  unfold exitEpochs
  repeat' first
    | with_reducible assumption
    | with_reducible apply Touches.refl
    | ((with_reducible apply epochEvents_touches); (case hm => rfl))
    | ((with_reducible apply newEpochs_touches); (case hm => rfl))

theorem exitDeep_touches {M : Nat} {r : State} (a0 : Leaving) (s : State) (hs : Touches M r s) (hm : 0xb9eb37fe ||| M = M) :
    Touches M r (exitDeep a0 s) := by
  refine Touches.step hs ?_ hm
  clear hs hm r M
  unfold exitDeep
  repeat' first
    | with_reducible assumption
    | with_reducible apply Touches.refl
    | ((with_reducible apply sweepRestart_touches); (case hm => rfl))
    | (extract_lets -underBinder +onlyGivenNames x; (have hty : TypeOf x = State := by with_reducible rfl); clear hty; apply Touches.cut 0xb9eb37fe s x; (case' kk => (clear_value x; intro _)); (case' vv => (unfold x; clear x)))
    | (extract_lets -underBinder +onlyGivenNames x; try clear_value x)
    | with_reducible apply Touches.ite
    | ((with_reducible apply finishExit_touches); (case hm => rfl))
    | ((with_reducible apply reloadTables_touches); (case hm => rfl))
    | ((with_reducible apply exitPorts_touches); (case hm => rfl))
    | ((with_reducible apply ordersRestart_touches); (case hm => rfl))
    | ((with_reducible apply exitEpochs_touches); (case hm => rfl))
    | ((with_reducible apply listsStart_touches); (case hm => rfl))
    | ((with_reducible apply gwRestart_touches); (case hm => rfl))

theorem wakeDueNow_touches {M : Nat} {r : State} (s : State) (hs : Touches M r s) (hm : 0xab21d6 ||| M = M) :
    Touches M r (wakeDueNow s) := by
  refine Touches.step hs ?_ hm
  clear hs hm r M
  unfold wakeDueNow
  repeat' first
    | with_reducible assumption
    | (intro _; try dsimp -zeta only)
    | with_reducible apply Touches.refl
    | ((with_reducible apply wakeNow_touches); (case hm => rfl))
    | ((with_reducible apply State.modWake_touches); (case hm => rfl))
    | with_reducible apply Touches.foldlD

theorem execStateExitDone_touches {M : Nat} {r : State} (a0 : Nat) (s : State) (hs : Touches M r s) (hm : 0xfffffffe ||| M = M) :
    TouchesR M r (execStateExitDone a0 s) := by
  refine TouchesR.step hs ?_ hm
  clear hs hm r M
  unfold execStateExitDone
  repeat' first
    | with_reducible assumption
    | with_reducible apply Touches.refl
    | (extract_lets -underBinder +onlyGivenNames x; (have hty : TypeOf x = State := by with_reducible rfl); clear hty; apply Touches.cut 0xfffffffe s x; (case' kk => (clear_value x; intro _)); (case' vv => (unfold x; clear x)))
    | (extract_lets -underBinder +onlyGivenNames x; try clear_value x)
    | with_reducible apply TouchesR.next
    | with_reducible apply TouchesR.fault
    | with_reducible apply TouchesR.ite
    | with_reducible apply Touches.ite
    | ((with_reducible apply exitSealed_touches); (case hm => rfl))
    | ((with_reducible apply exitDeep_touches); (case hm => rfl))
    | ((with_reducible apply wakeDueNow_touches); (case hm => rfl))
    | ((with_reducible apply finishExit_touches); (case hm => rfl))
    | ((with_reducible apply warmBegin_touches); (case hm => rfl))
    | split

end Sys2Proof.Machine
end

