-- ==== Sys2Proof/Laws/Debug.lean ====
section
/-! SUPPORT. What each function of Machine/Debug.lean touches: one lemma per function that answers a state. -/

set_option linter.tactic.unusedName false

namespace Sys2Proof.Machine

theorem State.modDbg_touches {M : Nat} {r : State} (s : State) (a1 : DbgSt → DbgSt) (hs : Touches M r s) (hm : 0x100000 ||| M = M) :
    Touches M r (State.modDbg s a1) := by
  refine Touches.step hs ?_ hm
  clear hs hm r M
  unfold State.modDbg
  repeat' first
    | with_reducible assumption
    | with_reducible apply Touches.refl
    | ((with_reducible apply Touches.dbg); (case hm => rfl))

theorem dbgUnlock_touches {M : Nat} {r : State} (a0 : Sys2Proof.Bytes) (s : State) (hs : Touches M r s) (hm : 0x5001c6 ||| M = M) :
    Touches M r (dbgUnlock a0 s) := by
  refine Touches.step hs ?_ hm
  clear hs hm r M
  unfold dbgUnlock
  repeat' first
    | with_reducible assumption
    | with_reducible apply Touches.refl
    | (extract_lets -underBinder +onlyGivenNames x; (have hty : TypeOf x = State := by with_reducible rfl); clear hty; apply Touches.cut 0x5001c6 s x; (case' kk => (clear_value x; intro _)); (case' vv => (unfold x; clear x)))
    | (extract_lets -underBinder +onlyGivenNames x; try clear_value x)
    | with_reducible apply Touches.ite
    | ((with_reducible apply showMeas_touches); (case hm => rfl))
    | ((with_reducible apply raise_touches); (case hm => rfl))
    | ((with_reducible apply State.modDbg_touches); (case hm => rfl))
    | ((with_reducible apply Touches.keys); (case hm => rfl))

theorem execDbgChallengeExpiry_touches {M : Nat} {r : State} (s : State) (hs : Touches M r s) (hm : 0x100000 ||| M = M) :
    TouchesR M r (execDbgChallengeExpiry s) := by
  refine TouchesR.step hs ?_ hm
  clear hs hm r M
  unfold execDbgChallengeExpiry
  repeat' first
    | with_reducible assumption
    | with_reducible apply Touches.refl
    | with_reducible apply TouchesR.next
    | with_reducible apply TouchesR.fault
    | with_reducible apply TouchesR.ite
    | with_reducible apply Touches.ite
    | ((with_reducible apply State.modDbg_touches); (case hm => rfl))
    | split

theorem execDbgChallengeRead_touches {M : Nat} {r : State} (s : State) (hs : Touches M r s) (hm : 0x100018 ||| M = M) :
    TouchesR M r (execDbgChallengeRead s) := by
  refine TouchesR.step hs ?_ hm
  clear hs hm r M
  unfold execDbgChallengeRead
  repeat' first
    | with_reducible assumption
    | with_reducible apply Touches.refl
    | (extract_lets -underBinder +onlyGivenNames x; (have hty : TypeOf x = State := by with_reducible rfl); clear hty; apply Touches.cut 0x100018 s x; (case' kk => (clear_value x; intro _)); (case' vv => (unfold x; clear x)))
    | (extract_lets -underBinder +onlyGivenNames x; try clear_value x)
    | with_reducible apply TouchesR.next
    | with_reducible apply TouchesR.fault
    | with_reducible apply TouchesR.ite
    | with_reducible apply Touches.ite
    | ((with_reducible apply State.emit_touches); (case hm => rfl))
    | ((with_reducible apply State.modDbg_touches); (case hm => rfl))
    | ((with_reducible apply State.drewN_touches); (case hm => rfl))

theorem execDbgResponseLoad_touches {M : Nat} {r : State} (a0 : Sys2Proof.Bytes) (s : State) (hs : Touches M r s) (hm : 0x100000 ||| M = M) :
    TouchesR M r (execDbgResponseLoad a0 s) := by
  refine TouchesR.step hs ?_ hm
  clear hs hm r M
  unfold execDbgResponseLoad
  repeat' first
    | with_reducible assumption
    | with_reducible apply Touches.refl
    | with_reducible apply TouchesR.next
    | with_reducible apply TouchesR.fault
    | with_reducible apply TouchesR.ite
    | with_reducible apply Touches.ite
    | ((with_reducible apply State.modDbg_touches); (case hm => rfl))

theorem execDbgVerifyDone_touches {M : Nat} {r : State} (s : State) (hs : Touches M r s) (hm : 0x5001c6 ||| M = M) :
    TouchesR M r (execDbgVerifyDone s) := by
  refine TouchesR.step hs ?_ hm
  clear hs hm r M
  unfold execDbgVerifyDone
  repeat' first
    | with_reducible assumption
    | with_reducible apply Touches.refl
    | (extract_lets -underBinder +onlyGivenNames x; (have hty : TypeOf x = State := by with_reducible rfl); clear hty; apply Touches.cut 0x5001c6 s x; (case' kk => (clear_value x; intro _)); (case' vv => (unfold x; clear x)))
    | (extract_lets -underBinder +onlyGivenNames x; try clear_value x)
    | with_reducible apply TouchesR.next
    | with_reducible apply TouchesR.fault
    | with_reducible apply TouchesR.ite
    | with_reducible apply Touches.ite
    | ((with_reducible apply State.modDbg_touches); (case hm => rfl))
    | ((with_reducible apply dbgUnlock_touches); (case hm => rfl))
    | split

theorem execJtagInstructionLoad_touches {M : Nat} {r : State} (a0 : Fin 256) (s : State) (hs : Touches M r s) (hm : 0x100010 ||| M = M) :
    TouchesR M r (execJtagInstructionLoad a0 s) := by
  refine TouchesR.step hs ?_ hm
  clear hs hm r M
  unfold execJtagInstructionLoad
  repeat' first
    | with_reducible assumption
    | with_reducible apply Touches.refl
    | (extract_lets -underBinder +onlyGivenNames x; (have hty : TypeOf x = State := by with_reducible rfl); clear hty; apply Touches.cut 0x100010 s x; (case' kk => (clear_value x; intro _)); (case' vv => (unfold x; clear x)))
    | (extract_lets -underBinder +onlyGivenNames x; try clear_value x)
    | with_reducible apply TouchesR.next
    | with_reducible apply TouchesR.fault
    | with_reducible apply TouchesR.ite
    | with_reducible apply Touches.ite
    | ((with_reducible apply State.modDbg_touches); (case hm => rfl))
    | ((with_reducible apply State.emit_touches); (case hm => rfl))

theorem execTapReset_touches {M : Nat} {r : State} (s : State) (hs : Touches M r s) (hm : 0x100000 ||| M = M) :
    TouchesR M r (execTapReset s) := by
  refine TouchesR.step hs ?_ hm
  clear hs hm r M
  unfold execTapReset
  repeat' first
    | with_reducible assumption
    | with_reducible apply Touches.refl
    | with_reducible apply TouchesR.next
    | with_reducible apply TouchesR.fault
    | ((with_reducible apply State.modDbg_touches); (case hm => rfl))

end Sys2Proof.Machine
end

