-- ==== Sys2Proof/Laws/PortRows.lean ====
section
/-! SUPPORT. What each function of Machine/PortRows.lean touches: one lemma per function that answers a state. -/

set_option linter.tactic.unusedName false

namespace Sys2Proof.Machine

theorem sramWrites_touches {M : Nat} {r : State} (a0 : List (Fin 3 × Nat × Nat)) (s : State) (hs : Touches M r s) (hm : 0x10000000 ||| M = M) :
    Touches M r (sramWrites a0 s) := by
  refine Touches.step hs ?_ hm
  clear hs hm r M
  unfold sramWrites
  repeat' first
    | with_reducible assumption
    | (intro _; try dsimp -zeta only)
    | with_reducible apply Touches.refl
    | ((with_reducible apply State.modSup_touches); (case hm => rfl))
    | with_reducible apply Touches.foldlD

theorem execEthernetLinkDown_touches {M : Nat} {r : State} (a0 : Sys2Proof.Port) (s : State) (hs : Touches M r s) (hm : 0x361d6 ||| M = M) :
    TouchesR M r (execEthernetLinkDown a0 s) := by
  refine TouchesR.step hs ?_ hm
  clear hs hm r M
  unfold execEthernetLinkDown
  repeat' first
    | with_reducible assumption
    | with_reducible apply Touches.refl
    | with_reducible apply TouchesR.next
    | with_reducible apply TouchesR.fault
    | with_reducible apply TouchesR.ite
    | with_reducible apply Touches.ite
    | ((with_reducible apply linkDown_touches); (case hm => rfl))

theorem trainedLatency_touches {M : Nat} {r : State} (a0 : Nat) (a1 : Nat) (s : State) (hs : Touches M r s) (hm : 0x2 ||| M = M) :
    Touches M r (trainedLatency a0 a1 s) := by
  refine Touches.step hs ?_ hm
  clear hs hm r M
  unfold trainedLatency
  repeat' first
    | with_reducible assumption
    | with_reducible apply Touches.refl
    | (extract_lets -underBinder +onlyGivenNames x; (have hty : TypeOf x = State := by with_reducible rfl); clear hty; apply Touches.cut 0x2 s x; (case' kk => (clear_value x; intro _)); (case' vv => (unfold x; clear x)))
    | (extract_lets -underBinder +onlyGivenNames x; try clear_value x)
    | with_reducible apply Touches.ite
    | ((with_reducible apply State.setFld_touches); (case hm => rfl))

theorem flushKeptOff_touches {M : Nat} {r : State} (a0 : Nat) (s : State) (hs : Touches M r s) (hm : 0x321d6 ||| M = M) :
    Touches M r (flushKeptOff a0 s) := by
  refine Touches.step hs ?_ hm
  clear hs hm r M
  unfold flushKeptOff
  repeat' first
    | with_reducible assumption
    | (intro _; try dsimp -zeta only)
    | (extract_lets -underBinder +onlyGivenNames x; (have hty : TypeOf x = State := by with_reducible rfl); clear hty; apply Touches.cut 0x321d6 s x; (case' kk => (clear_value x; intro _)); (case' vv => (unfold x; clear x)))
    | (extract_lets -underBinder +onlyGivenNames x; try clear_value x)
    | with_reducible apply Touches.refl
    | ((with_reducible apply keepInQueue_touches); (case hm => rfl))
    | ((with_reducible apply discardAll_touches); (case hm => rfl))
    | ((with_reducible apply State.setQueue_touches); (case hm => rfl))
    | with_reducible apply Touches.foldlD

theorem linkUp_touches {M : Nat} {r : State} (a0 : Nat) (a1 : Nat) (a2 : Bool) (s : State) (hs : Touches M r s) (hm : 0xab65de ||| M = M) :
    Touches M r (linkUp a0 a1 a2 s) := by
  refine Touches.step hs ?_ hm
  clear hs hm r M
  unfold linkUp
  repeat' first
    | with_reducible assumption
    | with_reducible apply Touches.refl
    | (extract_lets -underBinder +onlyGivenNames x; (have hty : TypeOf x = State := by with_reducible rfl); clear hty; apply Touches.cut 0xab65de s x; (case' kk => (clear_value x; intro _)); (case' vv => (unfold x; clear x)))
    | (extract_lets -underBinder +onlyGivenNames x; try clear_value x)
    | with_reducible apply Touches.ite
    | ((with_reducible apply settlePort_touches); (case hm => rfl))
    | ((with_reducible apply trainedLatency_touches); (case hm => rfl))
    | ((with_reducible apply State.setFld_touches); (case hm => rfl))
    | ((with_reducible apply flushKeptOff_touches); (case hm => rfl))
    | ((with_reducible apply portReachedNow_touches); (case hm => rfl))
    | ((with_reducible apply preemptLost_touches); (case hm => rfl))
    | ((with_reducible apply startVerify_touches); (case hm => rfl))
    | ((with_reducible apply Touches.links); (case hm => rfl))

theorem execEthernetLinkUp_touches {M : Nat} {r : State} (a0 : Sys2Proof.Port) (a1 : Nat) (a2 : Bool) (s : State) (hs : Touches M r s) (hm : 0xab65de ||| M = M) :
    TouchesR M r (execEthernetLinkUp a0 a1 a2 s) := by
  refine TouchesR.step hs ?_ hm
  clear hs hm r M
  unfold execEthernetLinkUp
  repeat' first
    | with_reducible assumption
    | with_reducible apply Touches.refl
    | with_reducible apply TouchesR.next
    | with_reducible apply TouchesR.fault
    | with_reducible apply TouchesR.ite
    | with_reducible apply Touches.ite
    | ((with_reducible apply linkUp_touches); (case hm => rfl))

theorem svSend_touches {M : Nat} {r : State} (a0 : Nat) (a1 : Sys2Proof.Bytes) (s : State) (hs : Touches M r s) (hm : 0x210004 ||| M = M) :
    Touches M r (svSend a0 a1 s) := by
  refine Touches.step hs ?_ hm
  clear hs hm r M
  unfold svSend
  repeat' first
    | with_reducible assumption
    | with_reducible apply Touches.refl
    | with_reducible apply Touches.ite
    | ((with_reducible apply svAccept_touches); (case hm => rfl))

theorem execGptpTimerExpiry_touches {M : Nat} {r : State} (a0 : Fin 2) (a1 : Fin 4) (a2 : List (Sys2Proof.Port × Sys2Proof.Bytes)) (a3 : Bool) (s : State) (hs : Touches M r s) (hm : 0x210204 ||| M = M) :
    TouchesR M r (execGptpTimerExpiry a0 a1 a2 a3 s) := by
  refine TouchesR.step hs ?_ hm
  clear hs hm r M
  unfold execGptpTimerExpiry
  repeat' first
    | with_reducible assumption
    | (intro _; try dsimp -zeta only)
    | (extract_lets -underBinder +onlyGivenNames x; (have hty : TypeOf x = State := by with_reducible rfl); clear hty; apply Touches.cut 0x210204 s x; (case' kk => (clear_value x; intro _)); (case' vv => (unfold x; clear x)))
    | (extract_lets -underBinder +onlyGivenNames x; try clear_value x)
    | with_reducible apply Touches.refl
    | with_reducible apply TouchesR.next
    | with_reducible apply TouchesR.fault
    | with_reducible apply TouchesR.ite
    | with_reducible apply Touches.ite
    | ((with_reducible apply svSend_touches); (case hm => rfl))
    | ((with_reducible apply State.setDom_touches); (case hm => rfl))
    | with_reducible apply Touches.foldlD

theorem releaseWrite_touches {M : Nat} {r : State} (s : State) (a1 : Sys2Proof.BusWrite) (hs : Touches M r s) (hm : 0xb9eb27fe ||| M = M) :
    Touches M r (releaseWrite s a1) := by
  refine Touches.step hs ?_ hm
  clear hs hm r M
  unfold releaseWrite
  repeat' first
    | with_reducible assumption
    | with_reducible apply Touches.refl
    | (extract_lets -underBinder +onlyGivenNames x; (have hty : TypeOf x = State := by with_reducible rfl); clear hty; apply Touches.cut 0xb9eb27fe s x; (case' kk => (clear_value x; intro _)); (case' vv => (unfold x; clear x)))
    | (extract_lets -underBinder +onlyGivenNames x; try clear_value x)
    | with_reducible apply Touches.ite
    | ((with_reducible apply busWrite_touches); (case hm => rfl))
    | ((with_reducible apply State.emit_touches); (case hm => rfl))
    | ((with_reducible apply Touches.bus); (case hm => rfl))

theorem releaseWindow_touches {M : Nat} {r : State} (a0 : List Sys2Proof.BusWrite) (s : State) (hs : Touches M r s) (hm : 0xb9eb27fe ||| M = M) :
    Touches M r (releaseWindow a0 s) := by
  refine Touches.step hs ?_ hm
  clear hs hm r M
  unfold releaseWindow
  repeat' first
    | with_reducible assumption
    | (intro _; try dsimp -zeta only)
    | with_reducible apply Touches.refl
    | ((with_reducible apply restoreLost_touches); (case hm => rfl))
    | ((with_reducible apply State.bump_touches); (case hm => rfl))
    | ((with_reducible apply releaseWrite_touches); (case hm => rfl))
    | with_reducible apply Touches.foldlD

theorem noMajority_touches {M : Nat} {r : State} (s : State) (hs : Touches M r s) (hm : 0x10b21d6 ||| M = M) :
    Touches M r (noMajority s) := by
  refine Touches.step hs ?_ hm
  clear hs hm r M
  unfold noMajority
  repeat' first
    | with_reducible assumption
    | with_reducible apply Touches.refl
    | ((with_reducible apply raiseF3_touches); (case hm => rfl))

theorem windowVote_touches {M : Nat} {r : State} (a0 : List Sys2Proof.BusWrite) (a1 : List Sys2Proof.BusWrite) (a2 : List Sys2Proof.BusWrite) (s : State) (hs : Touches M r s) (hm : 0xb9eb27fe ||| M = M) :
    Touches M r (windowVote a0 a1 a2 s) := by
  refine Touches.step hs ?_ hm
  clear hs hm r M
  unfold windowVote
  repeat' first
    | with_reducible assumption
    | with_reducible apply Touches.refl
    | (extract_lets -underBinder +onlyGivenNames x; (have hty : TypeOf x = State := by with_reducible rfl); clear hty; apply Touches.cut 0xb9eb27fe s x; (case' kk => (clear_value x; intro _)); (case' vv => (unfold x; clear x)))
    | (extract_lets -underBinder +onlyGivenNames x; try clear_value x)
    | with_reducible apply Touches.ite
    | ((with_reducible apply releaseWindow_touches); (case hm => rfl))
    | ((with_reducible apply noMajority_touches); (case hm => rfl))
    | ((with_reducible apply oddCore_touches); (case hm => rfl))
    | split

theorem execSupWindowClose_touches {M : Nat} {r : State} (a0 : List Sys2Proof.BusWrite) (a1 : List Sys2Proof.BusWrite) (a2 : List Sys2Proof.BusWrite) (a3 : List (Fin 3 × Nat × Nat)) (s : State) (hs : Touches M r s) (hm : 0xb9eb27fe ||| M = M) :
    TouchesR M r (execSupWindowClose a0 a1 a2 a3 s) := by
  refine TouchesR.step hs ?_ hm
  clear hs hm r M
  unfold execSupWindowClose
  repeat' first
    | with_reducible assumption
    | with_reducible apply Touches.refl
    | with_reducible apply TouchesR.next
    | with_reducible apply TouchesR.fault
    | with_reducible apply TouchesR.ite
    | with_reducible apply Touches.ite
    | ((with_reducible apply windowVote_touches); (case hm => rfl))
    | ((with_reducible apply sramWrites_touches); (case hm => rfl))

end Sys2Proof.Machine
end

