-- ==== Sys2Proof/Laws/Exec.lean ====
section
/-! SUPPORT. What a command may do to the state, per command and as a whole (`Keeps`). -/

namespace Sys2Proof.Machine

/-- Whatever the command: no command is queued or taken, outputs stay, free values are only taken, and the canonical forms hold. -/
theorem exec_touches (i : Instr) (s : State) : TouchesR 0xfffffffe s (exec i s) := by
  cases i with
  | ethernetFrameReceived p frame phyErr w => exact execEthernetFrameReceived_touches p frame phyErr w s (Touches.refl _ _) (by rfl)
  | legacyPduReceived p ok u w => exact execLegacyPduReceived_touches p ok u w s (Touches.refl _ _) (by rfl)
  | pipelineFrame p ecc => exact execPipelineFrame_touches p ecc s (Touches.refl _ _) (by rfl)
  | learnRequest q => exact execLearnRequest_touches q s (Touches.refl _ _) (by rfl)
  | recoveryCopy => exact execRecoveryCopy_touches s (Touches.refl _ _) (by rfl)
  | skewTick => exact execSkewTick_touches s (Touches.refl _ _) (by rfl)
  | batchAdd => exact execBatchAdd_touches s (Touches.refl _ _) (by rfl)
  | batchTick => exact execBatchTick_touches s (Touches.refl _ _) (by rfl)
  | egressSelect p ecc => exact execEgressSelect_touches p ecc s (Touches.refl _ _) (by rfl)
  | frameDepart p => exact execFrameDepart_touches p s (Touches.refl _ _) (by rfl)
  | svFrameTake ecc servo => exact execSvFrameTake_touches ecc servo s (Touches.refl _ _) (by rfl)
  | hostRxDeliver h entry => exact execHostRxDeliver_touches h entry s (Touches.refl _ _) (by rfl)
  | eventWrite h failed => exact execEventWrite_touches h failed s (Touches.refl _ _) (by rfl)
  | msixTimeFire h v => exact execMsixTimeFire_touches h v s (Touches.refl _ _) (by rfl)
  | doorbellPollTimer h => exact execDoorbellPollTimer_touches h s (Touches.refl _ _) (by rfl)
  | doorbellSlotRead h slot page => exact execDoorbellSlotRead_touches h slot page s (Touches.refl _ _) (by rfl)
  | doorbellReread h slot => exact execDoorbellReread_touches h slot s (Touches.refl _ _) (by rfl)
  | txqDescriptor h qs desc data => exact execTxqDescriptor_touches h qs desc data s (Touches.refl _ _) (by rfl)
  | cmdqFetch h qs entry par => exact execCmdqFetch_touches h qs entry par s (Touches.refl _ _) (by rfl)
  | dmaError h qs r cause => exact execDmaError_touches h qs r cause s (Touches.refl _ _) (by rfl)
  | hostWakeHint h value => exact execHostWakeHint_touches h value s (Touches.refl _ _) (by rfl)
  | ringEnable h qs r value => exact execRingEnable_touches h qs r value s (Touches.refl _ _) (by rfl)
  | ringStop h qs r value => exact execRingStop_touches h qs r value s (Touches.refl _ _) (by rfl)
  | ringStoppingDone h qs r => exact execRingStoppingDone_touches h qs r s (Touches.refl _ _) (by rfl)
  | busMasterDisable h => exact execBusMasterDisable_touches h s (Touches.refl _ _) (by rfl)
  | hostFlr h => exact execHostFlr_touches h s (Touches.refl _ _) (by rfl)
  | pcieLinkDown h => exact execPcieLinkDown_touches h s (Touches.refl _ _) (by rfl)
  | pcieLinkUp h gen lanes bme => exact execPcieLinkUp_touches h gen lanes bme s (Touches.refl _ _) (by rfl)
  | spiWriteFrame frame => exact execSpiWriteFrame_touches frame s (Touches.refl _ _) (by rfl)
  | spiReadFrame frame => exact execSpiReadFrame_touches frame s (Touches.refl _ _) (by rfl)
  | spiStatusFrame => exact execSpiStatusFrame_touches s (Touches.refl _ _) (by rfl)
  | spiFrameError count => exact execSpiFrameError_touches count s (Touches.refl _ _) (by rfl)
  | registerWrite src addr data be => exact execRegisterWrite_touches src addr data be s (Touches.refl _ _) (by rfl)
  | unmappedRead src addr be core => exact execUnmappedRead_touches src addr be core s (Touches.refl _ _) (by rfl)
  | counterLowRead src addr be core => exact execCounterLowRead_touches src addr be core s (Touches.refl _ _) (by rfl)
  | timeInLastNsRead src pin => exact execTimeInLastNsRead_touches src pin s (Touches.refl _ _) (by rfl)
  | fwdEnSet src => exact execFwdEnSet_touches src s (Touches.refl _ _) (by rfl)
  | hostFailsafeWrst => exact execHostFailsafeWrst_touches s (Touches.refl _ _) (by rfl)
  | hostFailsafeFence => exact execHostFailsafeFence_touches s (Touches.refl _ _) (by rfl)
  | bufBdSnapshot src value => exact execBufBdSnapshot_touches src value s (Touches.refl _ _) (by rfl)
  | bufDbgRelease src value => exact execBufDbgRelease_touches src value s (Touches.refl _ _) (by rfl)
  | bufSillWrite src k value => exact execBufSillWrite_touches src k value s (Touches.refl _ _) (by rfl)
  | maxLenWrite src p value => exact execMaxLenWrite_touches src p value s (Touches.refl _ _) (by rfl)
  | domainNumberWrite src d value => exact execDomainNumberWrite_touches src d value s (Touches.refl _ _) (by rfl)
  | canBitTimingWrite src n r value => exact execCanBitTimingWrite_touches src n r value s (Touches.refl _ _) (by rfl)
  | flexrayConfigWrite src r value => exact execFlexrayConfigWrite_touches src r value s (Touches.refl _ _) (by rfl)
  | macsecEnableWrite src p value => exact execMacsecEnableWrite_touches src p value s (Touches.refl _ _) (by rfl)
  | timeSnapTake src => exact execTimeSnapTake_touches src s (Touches.refl _ _) (by rfl)
  | egrHistSnapshot src value => exact execEgrHistSnapshot_touches src value s (Touches.refl _ _) (by rfl)
  | pathSnapshot src value => exact execPathSnapshot_touches src value s (Touches.refl _ _) (by rfl)
  | keySlotSnapshot src value => exact execKeySlotSnapshot_touches src value s (Touches.refl _ _) (by rfl)
  | fltHistSnapshot src value => exact execFltHistSnapshot_touches src value s (Touches.refl _ _) (by rfl)
  | fltAck src value => exact execFltAck_touches src value s (Touches.refl _ _) (by rfl)
  | fltFirstClear src value => exact execFltFirstClear_touches src value s (Touches.refl _ _) (by rfl)
  | supRestart src value => exact execSupRestart_touches src value s (Touches.refl _ _) (by rfl)
  | cryLockTake src => exact execCryLockTake_touches src s (Touches.refl _ _) (by rfl)
  | cryLockRelease src => exact execCryLockRelease_touches src s (Touches.refl _ _) (by rfl)
  | transomLock src h mask => exact execTransomLock_touches src h mask s (Touches.refl _ _) (by rfl)
  | transomUnlock src h => exact execTransomUnlock_touches src h s (Touches.refl _ _) (by rfl)
  | transomRead h off cover rd busErr => exact execTransomRead_touches h off cover rd busErr s (Touches.refl _ _) (by rfl)
  | transomWrite h off cover data busErr => exact execTransomWrite_touches h off cover data busErr s (Touches.refl _ _) (by rfl)
  | transomAnswer p dst host tag cause data => exact execTransomAnswer_touches p dst host tag cause data s (Touches.refl _ _) (by rfl)
  | transomRetransmit h => exact execTransomRetransmit_touches h s (Touches.refl _ _) (by rfl)
  | transomReadTimeout h tag => exact execTransomReadTimeout_touches h tag s (Touches.refl _ _) (by rfl)
  | transomFarRequest p dst r rd busErr => exact execTransomFarRequest_touches p dst r rd busErr s (Touches.refl _ _) (by rfl)
  | transomLockRequest p dst m => exact execTransomLockRequest_touches p dst m s (Touches.refl _ _) (by rfl)
  | transomLockBackoff h => exact execTransomLockBackoff_touches h s (Touches.refl _ _) (by rfl)
  | transomLockExpiry bus => exact execTransomLockExpiry_touches bus s (Touches.refl _ _) (by rfl)
  | sidebandPoll e value => exact execSidebandPoll_touches e value s (Touches.refl _ _) (by rfl)
  | tblSearch c => exact execTblSearch_touches c s (Touches.refl _ _) (by rfl)
  | tblNext c => exact execTblNext_touches c s (Touches.refl _ _) (by rfl)
  | tblInsert c => exact execTblInsert_touches c s (Touches.refl _ _) (by rfl)
  | tblDelete c => exact execTblDelete_touches c s (Touches.refl _ _) (by rfl)
  | tblFlushPort c => exact execTblFlushPort_touches c s (Touches.refl _ _) (by rfl)
  | tblRehash c => exact execTblRehash_touches c s (Touches.refl _ _) (by rfl)
  | tblPin c => exact execTblPin_touches c s (Touches.refl _ _) (by rfl)
  | rehashCheckDone q => exact execRehashCheckDone_touches q s (Touches.refl _ _) (by rfl)
  | rehashCopyDone q => exact execRehashCopyDone_touches q s (Touches.refl _ _) (by rfl)
  | rakeVisit q changed => exact execRakeVisit_touches q changed s (Touches.refl _ _) (by rfl)
  | moveIntervalEnd q => exact execMoveIntervalEnd_touches q s (Touches.refl _ _) (by rfl)
  | hedgeStage c => exact execHedgeStage_touches c s (Touches.refl _ _) (by rfl)
  | hedgeFlip c => exact execHedgeFlip_touches c s (Touches.refl _ _) (by rfl)
  | hedgeShadowCopyDone q => exact execHedgeShadowCopyDone_touches q s (Touches.refl _ _) (by rfl)
  | hedgeRead c => exact execHedgeRead_touches c s (Touches.refl _ _) (by rfl)
  | hedgePinholeList c => exact execHedgePinholeList_touches c s (Touches.refl _ _) (by rfl)
  | hedgePinholeClose c => exact execHedgePinholeClose_touches c s (Touches.refl _ _) (by rfl)
  | hedgePinholeCloseAll c => exact execHedgePinholeCloseAll_touches c s (Touches.refl _ _) (by rfl)
  | hedgePinholeOpen c => exact execHedgePinholeOpen_touches c s (Touches.refl _ _) (by rfl)
  | pinholeSweep hit => exact execPinholeSweep_touches hit s (Touches.refl _ _) (by rfl)
  | timeStep c => exact execTimeStep_touches c s (Touches.refl _ _) (by rfl)
  | timeRate c => exact execTimeRate_touches c s (Touches.refl _ _) (by rfl)
  | timePulseArm c => exact execTimePulseArm_touches c s (Touches.refl _ _) (by rfl)
  | timeEffectTick d => exact execTimeEffectTick_touches d s (Touches.refl _ _) (by rfl)
  | timeAdjEnd d => exact execTimeAdjEnd_touches d s (Touches.refl _ _) (by rfl)
  | pulseLeadingEdge pin => exact execPulseLeadingEdge_touches pin s (Touches.refl _ _) (by rfl)
  | pulseTrailingEdge pin => exact execPulseTrailingEdge_touches pin s (Touches.refl _ _) (by rfl)
  | timeInCapture pin falling late held => exact execTimeInCapture_touches pin falling late held s (Touches.refl _ _) (by rfl)
  | timeCaptureEvent pin => exact execTimeCaptureEvent_touches pin s (Touches.refl _ _) (by rfl)
  | shutterStage c => exact execShutterStage_touches c s (Touches.refl _ _) (by rfl)
  | shutterFlip c => exact execShutterFlip_touches c s (Touches.refl _ _) (by rfl)
  | shutterFlipTime p => exact execShutterFlipTime_touches p s (Touches.refl _ _) (by rfl)
  | shutterShadowCopyDone p => exact execShutterShadowCopyDone_touches p s (Touches.refl _ _) (by rfl)
  | shutterRead c => exact execShutterRead_touches c s (Touches.refl _ _) (by rfl)
  | gateEntryChange p => exact execGateEntryChange_touches p s (Touches.refl _ _) (by rfl)
  | preemptVerifyResult p ok => exact execPreemptVerifyResult_touches p ok s (Touches.refl _ _) (by rfl)
  | pfcReceived p enable quanta => exact execPfcReceived_touches p enable quanta s (Touches.refl _ _) (by rfl)
  | pfcPauseExpiry p c => exact execPfcPauseExpiry_touches p c s (Touches.refl _ _) (by rfl)
  | pfcPauseStuck p c => exact execPfcPauseStuck_touches p c s (Touches.refl _ _) (by rfl)
  | pfcRefresh p => exact execPfcRefresh_touches p s (Touches.refl _ _) (by rfl)
  | energyEmpty => exact execEnergyEmpty_touches s (Touches.refl _ _) (by rfl)
  | thermalSensorRead q0 q1 q2 q3 centre => exact execThermalSensorRead_touches q0 q1 q2 q3 centre s (Touches.refl _ _) (by rfl)
  | laneWakeTimer p => exact execLaneWakeTimer_touches p s (Touches.refl _ _) (by rfl)
  | laneReady p => exact execLaneReady_touches p s (Touches.refl _ _) (by rfl)
  | histogramSample => exact execHistogramSample_touches s (Touches.refl _ _) (by rfl)
  | admitRequest c => exact execAdmitRequest_touches c s (Touches.refl _ _) (by rfl)
  | admitCommit c => exact execAdmitCommit_touches c s (Touches.refl _ _) (by rfl)
  | admitWithdraw c => exact execAdmitWithdraw_touches c s (Touches.refl _ _) (by rfl)
  | admitQuery c => exact execAdmitQuery_touches c s (Touches.refl _ _) (by rfl)
  | admitImage c image => exact execAdmitImage_touches c image s (Touches.refl _ _) (by rfl)
  | admitMessage p m => exact execAdmitMessage_touches p m s (Touches.refl _ _) (by rfl)
  | admitTimeout h => exact execAdmitTimeout_touches h s (Touches.refl _ _) (by rfl)
  | rsvHoldExpiry h => exact execRsvHoldExpiry_touches h s (Touches.refl _ _) (by rfl)
  | withdrawDrained h gone => exact execWithdrawDrained_touches h gone s (Touches.refl _ _) (by rfl)
  | pathSet c => exact execPathSet_touches c s (Touches.refl _ _) (by rfl)
  | pairHandover c => exact execPairHandover_touches c s (Touches.refl _ _) (by rfl)
  | handoverFence => exact execHandoverFence_touches s (Touches.refl _ _) (by rfl)
  | heartbeatSend => exact execHeartbeatSend_touches s (Touches.refl _ _) (by rfl)
  | heartbeatReceived hb => exact execHeartbeatReceived_touches hb s (Touches.refl _ _) (by rfl)
  | peerLost => exact execPeerLost_touches s (Touches.refl _ _) (by rfl)
  | fenceWaitExpiry => exact execFenceWaitExpiry_touches s (Touches.refl _ _) (by rfl)
  | fenceLineLow own held => exact execFenceLineLow_touches own held s (Touches.refl _ _) (by rfl)
  | fenceLineHigh own held => exact execFenceLineHigh_touches own held s (Touches.refl _ _) (by rfl)
  | checkpointSend => exact execCheckpointSend_touches s (Touches.refl _ _) (by rfl)
  | checkpointReceived ck bad => exact execCheckpointReceived_touches ck bad s (Touches.refl _ _) (by rfl)
  | takeoverRestoreDone => exact execTakeoverRestoreDone_touches s (Touches.refl _ _) (by rfl)
  | busFenceElapsed => exact execBusFenceElapsed_touches s (Touches.refl _ _) (by rfl)
  | gwStage c => exact execGwStage_touches c s (Touches.refl _ _) (by rfl)
  | gwFlip c => exact execGwFlip_touches c s (Touches.refl _ _) (by rfl)
  | gwShadowCopyDone => exact execGwShadowCopyDone_touches s (Touches.refl _ _) (by rfl)
  | gwRead c => exact execGwRead_touches c s (Touches.refl _ _) (by rfl)
  | gwImageRead c => exact execGwImageRead_touches c s (Touches.refl _ _) (by rfl)
  | gwImageWrite c => exact execGwImageWrite_touches c s (Touches.refl _ _) (by rfl)
  | gwImageSend c => exact execGwImageSend_touches c s (Touches.refl _ _) (by rfl)
  | gwBusSelectTable c => exact execGwBusSelectTable_touches c s (Touches.refl _ _) (by rfl)
  | gwBusRecover c => exact execGwBusRecover_touches c s (Touches.refl _ _) (by rfl)
  | gwBusSetMode c => exact execGwBusSetMode_touches c s (Touches.refl _ _) (by rfl)
  | gwBusPocCommand c => exact execGwBusPocCommand_touches c s (Touches.refl _ _) (by rfl)
  | signalPeriodTrigger ix => exact execSignalPeriodTrigger_touches ix s (Touches.refl _ _) (by rfl)
  | signalDeferredSend ix => exact execSignalDeferredSend_touches ix s (Touches.refl _ _) (by rfl)
  | signalTimeoutTick => exact execSignalTimeoutTick_touches s (Touches.refl _ _) (by rfl)
  | canTxAttemptEnd p r w => exact execCanTxAttemptEnd_touches p r w s (Touches.refl _ _) (by rfl)
  | busOffDelayExpiry p => exact execBusOffDelayExpiry_touches p s (Touches.refl _ _) (by rfl)
  | busOffRecovered p => exact execBusOffRecovered_touches p s (Touches.refl _ _) (by rfl)
  | linSlotEnd p r w => exact execLinSlotEnd_touches p r w s (Touches.refl _ _) (by rfl)
  | flexraySlot slot cycle w => exact execFlexraySlot_touches slot cycle w s (Touches.refl _ _) (by rfl)
  | keyLoadBlob c flash => exact execKeyLoadBlob_touches c flash s (Touches.refl _ _) (by rfl)
  | keyReplace c flash => exact execKeyReplace_touches c flash s (Touches.refl _ _) (by rfl)
  | keyVerifyCommit c => exact execKeyVerifyCommit_touches c s (Touches.refl _ _) (by rfl)
  | keyCommitRecordWritten n ok => exact execKeyCommitRecordWritten_touches n ok s (Touches.refl _ _) (by rfl)
  | keyDeriveKdf c flash => exact execKeyDeriveKdf_touches c flash s (Touches.refl _ _) (by rfl)
  | keyDeriveRandom c flash => exact execKeyDeriveRandom_touches c flash s (Touches.refl _ _) (by rfl)
  | keyExport c => exact execKeyExport_touches c s (Touches.refl _ _) (by rfl)
  | cryptoGcmEncrypt c data => exact execCryptoGcmEncrypt_touches c data s (Touches.refl _ _) (by rfl)
  | cryptoGcmDecrypt c data => exact execCryptoGcmDecrypt_touches c data s (Touches.refl _ _) (by rfl)
  | cryptoCmacGenerate c data => exact execCryptoCmacGenerate_touches c data s (Touches.refl _ _) (by rfl)
  | cryptoCmacVerify c data => exact execCryptoCmacVerify_touches c data s (Touches.refl _ _) (by rfl)
  | cryptoSha384 c data => exact execCryptoSha384_touches c data s (Touches.refl _ _) (by rfl)
  | cryptoEcdsaVerify c data => exact execCryptoEcdsaVerify_touches c data s (Touches.refl _ _) (by rfl)
  | cryptoCmacFreshGenerate c data => exact execCryptoCmacFreshGenerate_touches c data s (Touches.refl _ _) (by rfl)
  | cryptoCmacFreshVerify c data => exact execCryptoCmacFreshVerify_touches c data s (Touches.refl _ _) (by rfl)
  | macsecSaInstall c => exact execMacsecSaInstall_touches c s (Touches.refl _ _) (by rfl)
  | macsecSaRemove c => exact execMacsecSaRemove_touches c s (Touches.refl _ _) (by rfl)
  | macsecSaTxCommit c => exact execMacsecSaTxCommit_touches c s (Touches.refl _ _) (by rfl)
  | macsecSaRead c => exact execMacsecSaRead_touches c s (Touches.refl _ _) (by rfl)
  | trngHealthFail kind => exact execTrngHealthFail_touches kind s (Touches.refl _ _) (by rfl)
  | cryLockIdleExpiry => exact execCryLockIdleExpiry_touches s (Touches.refl _ _) (by rfl)
  | fabDigestQuery c => exact execFabDigestQuery_touches c s (Touches.refl _ _) (by rfl)
  | fabReset c => exact execFabReset_touches c s (Touches.refl _ _) (by rfl)
  | transomClearErr c => exact execTransomClearErr_touches c s (Touches.refl _ _) (by rfl)
  | helloSend => exact execHelloSend_touches s (Touches.refl _ _) (by rfl)
  | helloReceived p h => exact execHelloReceived_touches p h s (Touches.refl _ _) (by rfl)
  | helloMissExpiry p => exact execHelloMissExpiry_touches p s (Touches.refl _ _) (by rfl)
  | fabricLinkDown p => exact execFabricLinkDown_touches p s (Touches.refl _ _) (by rfl)
  | linkStateSend => exact execLinkStateSend_touches s (Touches.refl _ _) (by rfl)
  | linkStateReceived p l => exact execLinkStateReceived_touches p l s (Touches.refl _ _) (by rfl)
  | gossipSend => exact execGossipSend_touches s (Touches.refl _ _) (by rfl)
  | gossipReceived p g => exact execGossipReceived_touches p g s (Touches.refl _ _) (by rfl)
  | coordSend => exact execCoordSend_touches s (Touches.refl _ _) (by rfl)
  | coordReceived p m => exact execCoordReceived_touches p m s (Touches.refl _ _) (by rfl)
  | coordTimeout => exact execCoordTimeout_touches s (Touches.refl _ _) (by rfl)
  | sizeModeSwitch => exact execSizeModeSwitch_touches s (Touches.refl _ _) (by rfl)
  | pathsMessage p dst m => exact execPathsMessage_touches p dst m s (Touches.refl _ _) (by rfl)
  | withdrawReceived p sender drainLimit => exact execWithdrawReceived_touches p sender drainLimit s (Touches.refl _ _) (by rfl)
  | digestMessage p src dst m => exact execDigestMessage_touches p src dst m s (Touches.refl _ _) (by rfl)
  | resetMessage p src dst m => exact execResetMessage_touches p src dst m s (Touches.refl _ _) (by rfl)
  | imgBegin c => exact execImgBegin_touches c s (Touches.refl _ _) (by rfl)
  | imgBlock c block => exact execImgBlock_touches c block s (Touches.refl _ _) (by rfl)
  | imgEnd c flashErr => exact execImgEnd_touches c flashErr s (Touches.refl _ _) (by rfl)
  | imgActivate c => exact execImgActivate_touches c s (Touches.refl _ _) (by rfl)
  | activationWatchdog => exact execActivationWatchdog_touches s (Touches.refl _ _) (by rfl)
  | firmwareFallback version => exact execFirmwareFallback_touches version s (Touches.refl _ _) (by rfl)
  | trialConfirm => exact execTrialConfirm_touches s (Touches.refl _ _) (by rfl)
  | supWindowClose a b c priv => exact execSupWindowClose_touches a b c priv s (Touches.refl _ _) (by rfl)
  | supLateCore core => exact execSupLateCore_touches core s (Touches.refl _ _) (by rfl)
  | supResyncDone => exact execSupResyncDone_touches s (Touches.refl _ _) (by rfl)
  | supRestartDone fail badA badB => exact execSupRestartDone_touches fail badA badB s (Touches.refl _ _) (by rfl)
  | graceExpiry g ok => exact execGraceExpiry_touches g ok s (Touches.refl _ _) (by rfl)
  | portWakeDetect p alt held => exact execPortWakeDetect_touches p alt held s (Touches.refl _ _) (by rfl)
  | wakeInDetect n level held => exact execWakeInDetect_touches n level held s (Touches.refl _ _) (by rfl)
  | portStateReached p => exact execPortStateReached_touches p s (Touches.refl _ _) (by rfl)
  | portStateForced p => exact execPortStateForced_touches p s (Touches.refl _ _) (by rfl)
  | wakeHoldTick => exact execWakeHoldTick_touches s (Touches.refl _ _) (by rfl)
  | netSleepVote c => exact execNetSleepVote_touches c s (Touches.refl _ _) (by rfl)
  | sleepVoteSend => exact execSleepVoteSend_touches s (Touches.refl _ _) (by rfl)
  | sleepMessageReceived p m => exact execSleepMessageReceived_touches p m s (Touches.refl _ _) (by rfl)
  | sleepSettleExpiry => exact execSleepSettleExpiry_touches s (Touches.refl _ _) (by rfl)
  | sleepCommitTime => exact execSleepCommitTime_touches s (Touches.refl _ _) (by rfl)
  | sleepStateRetry => exact execSleepStateRetry_touches s (Touches.refl _ _) (by rfl)
  | idleEntryTimer => exact execIdleEntryTimer_touches s (Touches.refl _ _) (by rfl)
  | pwrRequestState c => exact execPwrRequestState_touches c s (Touches.refl _ _) (by rfl)
  | stateEntryCommit => exact execStateEntryCommit_touches s (Touches.refl _ _) (by rfl)
  | exitTrigger cause => exact execExitTrigger_touches cause s (Touches.refl _ _) (by rfl)
  | islandRampDone => exact execIslandRampDone_touches s (Touches.refl _ _) (by rfl)
  | stateExitDone straps => exact execStateExitDone_touches straps s (Touches.refl _ _) (by rfl)
  | railWarningEnter r mv held => exact execRailWarningEnter_touches r mv held s (Touches.refl _ _) (by rfl)
  | railWarningExit r mv => exact execRailWarningExit_touches r mv s (Touches.refl _ _) (by rfl)
  | railResetLevel r mv => exact execRailResetLevel_touches r mv s (Touches.refl _ _) (by rfl)
  | clockLoss k => exact execClockLoss_touches k s (Touches.refl _ _) (by rfl)
  | powerOnReset torn straps rails test held => exact execPowerOnReset_touches torn straps rails test held s (Touches.refl _ _) (by rfl)
  | poresetAssert held => exact execPoresetAssert_touches held s (Touches.refl _ _) (by rfl)
  | wresetNAssert held => exact execWresetNAssert_touches held s (Touches.refl _ _) (by rfl)
  | wresetNRelease held => exact execWresetNRelease_touches held s (Touches.refl _ _) (by rfl)
  | warmReset c => exact execWarmReset_touches c s (Touches.refl _ _) (by rfl)
  | drainEnd => exact execDrainEnd_touches s (Touches.refl _ _) (by rfl)
  | drainLimitExpiry => exact execDrainLimitExpiry_touches s (Touches.refl _ _) (by rfl)
  | fnQuiesceFlip c => exact execFnQuiesceFlip_touches c s (Touches.refl _ _) (by rfl)
  | fnQuiesceReset c testsPass => exact execFnQuiesceReset_touches c testsPass s (Touches.refl _ _) (by rfl)
  | carvingFlipDrained => exact execCarvingFlipDrained_touches s (Touches.refl _ _) (by rfl)
  | fnResume c => exact execFnResume_touches c s (Touches.refl _ _) (by rfl)
  | cfgStore c image => exact execCfgStore_touches c image s (Touches.refl _ _) (by rfl)
  | jtagInstructionLoad code => exact execJtagInstructionLoad_touches code s (Touches.refl _ _) (by rfl)
  | dbgChallengeRead => exact execDbgChallengeRead_touches s (Touches.refl _ _) (by rfl)
  | dbgResponseLoad response => exact execDbgResponseLoad_touches response s (Touches.refl _ _) (by rfl)
  | dbgVerifyDone => exact execDbgVerifyDone_touches s (Touches.refl _ _) (by rfl)
  | dbgChallengeExpiry => exact execDbgChallengeExpiry_touches s (Touches.refl _ _) (by rfl)
  | ethernetLinkUp p rate eee => exact execEthernetLinkUp_touches p rate eee s (Touches.refl _ _) (by rfl)
  | ethernetLinkDown p => exact execEthernetLinkDown_touches p s (Touches.refl _ _) (by rfl)
  | flexrayPocStateChange poc => exact execFlexrayPocStateChange_touches poc s (Touches.refl _ _) (by rfl)
  | linHeaderReceived p id baud => exact execLinHeaderReceived_touches p id baud s (Touches.refl _ _) (by rfl)
  | tc10SleepRequest p => exact execTc10SleepRequest_touches p s (Touches.refl _ _) (by rfl)
  | gptpTimerExpiry d kind send lock => exact execGptpTimerExpiry_touches d kind send lock s (Touches.refl _ _) (by rfl)
  | quotaDiscardIntervalEnd h => exact execQuotaDiscardIntervalEnd_touches h s (Touches.refl _ _) (by rfl)
  | sidebandNotifyReceived p dst src entry value => exact execSidebandNotifyReceived_touches p dst src entry value s (Touches.refl _ _) (by rfl)
  | fabRemoteCommandTimeout => exact execFabRemoteCommandTimeout_touches s (Touches.refl _ _) (by rfl)
  | epochRecordWritten => exact execEpochRecordWritten_touches s (Touches.refl _ _) (by rfl)
  | cfgStoreDone flashErr => exact execCfgStoreDone_touches flashErr s (Touches.refl _ _) (by rfl)
  | sealedHandoverDone => exact execSealedHandoverDone_touches s (Touches.refl _ _) (by rfl)
  | activationPauseEnd => exact execActivationPauseEnd_touches s (Touches.refl _ _) (by rfl)
  | imageSlotEraseDone slot => exact execImageSlotEraseDone_touches slot s (Touches.refl _ _) (by rfl)
  | shaperEligible p => exact execShaperEligible_touches p s (Touches.refl _ _) (by rfl)
  | tapReset => exact execTapReset_touches s (Touches.refl _ _) (by rfl)

/-- What every command keeps. -/
theorem exec_keeps {i : Instr} {s t : State} (h : exec i s = .next t) : Keeps s t := (TouchesR.get (exec_touches i s) h).keeps

end Sys2Proof.Machine
end

