-- ==== Sys2Proof/Laws/Frame.lean ====
section
/-! SUPPORT. From `Touches` to the words of Safety.lean, and what the guards of commands and of register accesses come to when they pass. -/

namespace Sys2Proof.Machine

/-- The bit that stands for a part in a mask. -/
def StatePart.bit (p : StatePart) : Nat := p.ctorIdx + 1

theorem Agree.same {M : Nat} {s t : State} (h : Agree M s t) (p : StatePart) (hp : M.testBit p.bit = false) : StatePart.Same s t p := by
  cases p
  · exact h.regs hp
  · exact h.ctrs hp
  · exact h.free hp
  · exact h.out hp
  · exact h.bus hp
  · exact h.hostA hp
  · exact h.hostB hp
  · exact h.flt hp
  · exact h.time hp
  · exact h.tabs hp
  · exact h.pairMode hp
  · exact h.hedge hp
  · exact h.egr hp
  · exact h.links hp
  · exact h.brace hp
  · exact h.mem hp
  · exact h.streams hp
  · exact h.pnHold hp
  · exact h.gw hp
  · exact h.dbg hp
  · exact h.wake hp
  · exact h.keys hp
  · exact h.fab hp
  · exact h.pair hp
  · exact h.flash hp
  · exact h.admJob hp
  · exact h.pwr hp
  · exact h.sup hp
  · exact h.rst hp
  · exact h.fn hp
  · exact h.trn hp

/-- The mask of a list of parts. -/
def maskOf (l : List StatePart) : Nat := l.foldl (fun m p => m ||| 2 ^ p.bit) 0

theorem maskOf_fold (l : List StatePart) (p : StatePart) (hp : p ∉ l) :
    ∀ m : Nat, m.testBit p.bit = false → (l.foldl (fun m p => m ||| 2 ^ p.bit) m).testBit p.bit = false := by
  induction l with
  | nil => exact fun m h => h
  | cons q l ih =>
    intro m h
    refine ih (fun hl => hp (List.mem_cons_of_mem _ hl)) _ ?_
    rw [Nat.testBit_or, h, Bool.false_or, Nat.testBit_two_pow]
    have hne : q.bit ≠ p.bit := by
      intro e
      apply hp
      have : q = p := by
        revert e
        cases q <;> cases p <;> first | exact fun _ => rfl | exact fun e => absurd e (by decide)
      rw [this]
      exact List.mem_cons_self ..
    simp [hne]

/-- What a mask allows, in the words of Safety.lean. -/
theorem Touches.onlyChanges {M : Nat} {l : List StatePart} {s t : State} (h : Touches M s t) (hm : M ||| maskOf l = maskOf l) : OnlyChanges l s t :=
  ⟨h.keeps.pending, fun p hp => h.agree.same p (bit_sub hm _ (maskOf_fold l p hp 0 (Nat.zero_testBit _)))⟩

/-- A command of a sender that may run runs its body. -/
theorem command_run {c : CmdCtx} {op : Nat} {s : State} (h : mayRun c op s) (body : State → State) : command c op s body = body (markStarted c op s) := by
  obtain ⟨h1, h2, h3⟩ := h
  simp [command, h1, h2, h3]

/-- An access that the register bus serves. -/
theorem busRow_run {src : Src} {s : State} (h : busOpen s src = true) (f : State → State) : busRow src f s = f (s.granted src) := by
  simp [busRow, h, State.granted]

/-- A firmware command needs no turn and no permission. -/
theorem mayRun_firmware {c : CmdCtx} {op : Nat} {s : State} (h : c.who = .firmware) (k : starts s op = true) : mayRun c op s := by
  simp [mayRun, outOfTurn, cmdAllowed, h, k]

end Sys2Proof.Machine
end

