-- ==== Sys2Proof/Laws/RegFile.lean ====
section
/-! SUPPORT. Reading back: a keyed table after a change, a register after a write, a bit of a mask of members. -/

namespace Sys2Proof.Machine

/-! Keyed tables: a read after a change. -/

theorem kget_lt {α : Type} {k : Nat} {v : α} {m : Keyed α} {i : Nat} (h : Keyed.rising ((k, v) :: m) = true) (hi : i ≤ k) : kget m i = none := by
  have h1 := (rising_cons.mp h).1
  clear h
  induction m with
  | nil => rfl
  | cons e r ih =>
    obtain ⟨a, b⟩ := e
    have := h1 (a, b) (List.mem_cons_self ..)
    simp only [kget]
    rw [if_neg (by simp only at this; omega)]
    exact ih (fun e he => h1 e (List.mem_cons_of_mem _ he))

/-- What a key holds after it has been set. -/
theorem kget_kset_same {α : Type} {m : Keyed α} {i : Nat} {o : Option α} (h : Keyed.rising m = true) : kget (kset m i o) i = o := by
  induction m with
  | nil => cases o <;> simp [kset, kget]
  | cons e r ih =>
    obtain ⟨k, v⟩ := e
    have hr := (rising_cons.mp h).2
    unfold kset
    split
    · cases o with
      | none =>
        simp only [Option.toList, List.map_nil, List.nil_append, kget]
        rw [if_neg (by omega)]
        exact kget_lt h (by omega)
      | some x => simp [kget]
    · split
      · subst_vars
        cases o with
        | none => exact kget_lt h (Nat.le_refl _)
        | some x => simp [kget]
      · simp only [kget]
        rw [if_neg (by omega)]
        exact ih hr

/-- Setting a key leaves every other key. -/
theorem kget_kset_other {α : Type} {m : Keyed α} {i j : Nat} {o : Option α} (hj : j ≠ i) : kget (kset m i o) j = kget m j := by
  induction m with
  | nil => cases o <;> simp [kset, kget, Ne.symm hj]
  | cons e r ih =>
    obtain ⟨k, v⟩ := e
    unfold kset
    split
    · cases o <;> simp [kget, Ne.symm hj]
    · split
      · subst_vars
        cases o <;> simp [kget, Ne.symm hj]
      · simp only [kget, ih]

/-- Putting a value at a key is setting it. -/
theorem kput_eq_kset {α : Type} {m : Keyed α} {i : Nat} {x : α} : kput m i x = kset m i (some x) := by
  induction m with
  | nil => rfl
  | cons e r ih =>
    obtain ⟨k, v⟩ := e
    unfold kput kset
    split
    · rfl
    · split
      · rfl
      · rw [ih]

/-! Registers: a read after a write. -/

theorem reg_setReg_other {s : State} {a b v : Nat} (h : b ≠ a) : (s.setReg a v).reg b = s.reg b := by
  simp [State.setReg, State.reg, regGet, regSet, kget_kset_other h]

/-- A register reads as the bits written that it implements (R8). -/
theorem reg_setReg_same {s : State} {a v : Nat} (h : Regs.wf s.regs = true) : (s.setReg a v).reg a % 2 ^ 32 = (v &&& wordMask a) % 2 ^ 32 := by
  simp only [State.setReg, State.reg, regGet, regSet, kget_kset_same (regs_wf_iff.mp h).1, regWord]
  by_cases hh : (v &&& wordMask a) % 2 ^ 32 = regReset a % 2 ^ 32
  · rw [if_pos hh]
    exact hh.symm
  · rw [if_neg hh]
    simp only [word_toNat]
    omega

/-! Sets of bits. -/

theorem listMask_fold (l : List Nat) (i : Nat) : ∀ m : Nat, (l.foldl (fun m i => m ||| (1 <<< i)) m).testBit i = (m.testBit i || l.contains i) := by
  induction l with
  | nil => simp
  | cons j l ih =>
    intro m
    rw [List.foldl_cons, ih, Nat.testBit_or, Nat.one_shiftLeft, Nat.testBit_two_pow, List.contains_cons, Bool.or_assoc]
    congr 2
    by_cases h : i = j
    · simp [h]
    · simp [h, Ne.symm h]

theorem listMask_testBit (l : List Nat) (i : Nat) : (listMask l).testBit i = l.contains i := by simp [listMask, listMask_fold]

theorem bit_listMask (l : List Nat) (i : Nat) : bit (listMask l) i = l.contains i := listMask_testBit l i

end Sys2Proof.Machine
end

