-- ==== Sys2Proof/Laws/Access.lean ====
section
/-! SUPPORT. What a general read of the register bus answers, and what a command that is not allowed does. -/

namespace Sys2Proof.Machine

theorem bits_byte (w k : Nat) : bits w (8 * k + 7) (8 * k) = w / 2 ^ (8 * k) % 256 := by
  have h : 8 * k + 7 + 1 - 8 * k = 8 := by omega
  exact congrArg (fun n => w / 2 ^ (8 * k) % 2 ^ n) h

/-- A read of all four bytes gives the word. -/
theorem readBytes_full (w : Nat) : readBytes 15 w = w % 2 ^ 32 := by
  rw [readBytes, show List.range 4 = [0, 1, 2, 3] by decide, List.foldl_cons, List.foldl_cons, List.foldl_cons, List.foldl_cons, List.foldl_nil,
    if_pos (by decide), if_pos (by decide), if_pos (by decide), if_pos (by decide), bits_byte, bits_byte, bits_byte, bits_byte]
  norm_num
  omega

/-- A read of a counter's low word. -/
theorem busRead_low {src : Src} {a : Nat} {r : RegRow} {is : List Nat} {s : State} (ha : a % 4 = 0) (hw : r.wide = true)
    (h1 : regAt a = some (r, is)) (h2 : idxOf r.dims (a - r.base) = some (is, 0)) :
    busRead src a s = (wideCtr s r is a % 2 ^ 32, setShadow src (a + 4) (wideCtr s r is a / 2 ^ 32 % 2 ^ 32) s) := by
  have e1 : a / 4 * 4 = a := by omega
  simp only [busRead, e1, h1, h2, hw, Option.elim]
  rfl

/-- A read of a counter's high word. -/
theorem busRead_high {src : Src} {a : Nat} {r : RegRow} {is : List Nat} {s : State} (ha : a % 4 = 0) (hw : r.wide = true)
    (h1 : regAt (a + 4) = some (r, is)) (h2 : idxOf r.dims (a + 4 - r.base) = some (is, 4)) :
    busRead src (a + 4) s = takeShadow src (a + 4) (wideCtr s r is a / 2 ^ 32 % 2 ^ 32) s := by
  have e1 : (a + 4) / 4 * 4 = a + 4 := by omega
  simp only [busRead, e1, h1, h2, hw, Option.elim, decide_true, if_true, Nat.add_sub_cancel]

/-- A read of one word that is performed now: the word of the bus goes to the reader, and only the values kept for the other cores may change
besides. -/
theorem srcRead_now {src : Src} {core : Fin 3} {addr be : Nat} {s : State} (h : readsNow src core addr s) (hb : be < 16) :
    ∃ l : List Replay, srcRead src core addr be s =
      ({ (busRead src addr s).2 with sup := { (busRead src addr s).2.sup with replay := l } }).emit
        (readGives src core addr (readBytes be (busRead src addr s).1)) := by
  cases src
  case fw =>
    obtain ⟨h1, h2, h3, h4⟩ := h rfl
    refine ⟨(busRead .fw addr s).2.sup.replay ++ (if clrBit (coresRun (busRead .fw addr s).2) core.val = 0 then []
      else [{ addr := addr, value := (busRead .fw addr s).1, left := clrBit (coresRun (busRead .fw addr s).2) core.val }]), ?_⟩
    simp only [srcRead, h1, h2, Bool.and_self, if_true, fwRead, h3, Nat.not_le.mpr h4, if_false]
    rfl
  case ha =>
    refine ⟨(busRead .ha addr s).2.sup.replay, ?_⟩
    simp [srcRead, readOut, readCount, hb, readWord, readGives, Nat.mod_eq_of_lt hb]
  case hb =>
    refine ⟨(busRead .hb addr s).2.sup.replay, ?_⟩
    simp [srcRead, readOut, readCount, hb, readWord, readGives, Nat.mod_eq_of_lt hb]
  case spi =>
    refine ⟨(busRead .spi addr s).2.sup.replay, ?_⟩
    simp [srcRead, readOut, readCount, readWord, readGives, Nat.mod_eq_of_lt hb]

/-- A command that may start, whose turn it is and whose group is not allowed. -/
theorem command_denied {c : CmdCtx} {op : Nat} {s : State} (h1 : starts s op = true) (h2 : outOfTurn s c op = false) (h3 : cmdAllowed s c op = false)
    (body : State → State) : command c op s body = complete c op stDenied [] s := by simp [command, h1, h2, h3]

end Sys2Proof.Machine
end

