-- ==== Sys2Proof/Laws/State.lean ====
section
/-! SUPPORT. Each named update of the state, field by field: what it puts into the one field that it changes, and that it leaves the others. -/

namespace Sys2Proof.Machine

@[simp] theorem State.setReg_pending (s : State) (a v : Nat) : (s.setReg a v).pending = s.pending := rfl
@[simp] theorem State.setReg_regs (s : State) (a v : Nat) : (s.setReg a v).regs = regSet s.regs a v := rfl
@[simp] theorem State.setReg_ctrs (s : State) (a v : Nat) : (s.setReg a v).ctrs = s.ctrs := rfl
@[simp] theorem State.setReg_free (s : State) (a v : Nat) : (s.setReg a v).free = s.free := rfl
@[simp] theorem State.setReg_out (s : State) (a v : Nat) : (s.setReg a v).out = s.out := rfl
@[simp] theorem State.setReg_bus (s : State) (a v : Nat) : (s.setReg a v).bus = s.bus := rfl
@[simp] theorem State.setReg_hostA (s : State) (a v : Nat) : (s.setReg a v).hostA = s.hostA := rfl
@[simp] theorem State.setReg_hostB (s : State) (a v : Nat) : (s.setReg a v).hostB = s.hostB := rfl
@[simp] theorem State.setReg_flt (s : State) (a v : Nat) : (s.setReg a v).flt = s.flt := rfl
@[simp] theorem State.setReg_time (s : State) (a v : Nat) : (s.setReg a v).time = s.time := rfl
@[simp] theorem State.setReg_tabs (s : State) (a v : Nat) : (s.setReg a v).tabs = s.tabs := rfl
@[simp] theorem State.setReg_pairMode (s : State) (a v : Nat) : (s.setReg a v).pairMode = s.pairMode := rfl
@[simp] theorem State.setReg_hedge (s : State) (a v : Nat) : (s.setReg a v).hedge = s.hedge := rfl
@[simp] theorem State.setReg_egr (s : State) (a v : Nat) : (s.setReg a v).egr = s.egr := rfl
@[simp] theorem State.setReg_links (s : State) (a v : Nat) : (s.setReg a v).links = s.links := rfl
@[simp] theorem State.setReg_brace (s : State) (a v : Nat) : (s.setReg a v).brace = s.brace := rfl
@[simp] theorem State.setReg_mem (s : State) (a v : Nat) : (s.setReg a v).mem = s.mem := rfl
@[simp] theorem State.setReg_streams (s : State) (a v : Nat) : (s.setReg a v).streams = s.streams := rfl
@[simp] theorem State.setReg_pnHold (s : State) (a v : Nat) : (s.setReg a v).pnHold = s.pnHold := rfl
@[simp] theorem State.setReg_gw (s : State) (a v : Nat) : (s.setReg a v).gw = s.gw := rfl
@[simp] theorem State.setReg_dbg (s : State) (a v : Nat) : (s.setReg a v).dbg = s.dbg := rfl
@[simp] theorem State.setReg_wake (s : State) (a v : Nat) : (s.setReg a v).wake = s.wake := rfl
@[simp] theorem State.setReg_keys (s : State) (a v : Nat) : (s.setReg a v).keys = s.keys := rfl
@[simp] theorem State.setReg_fab (s : State) (a v : Nat) : (s.setReg a v).fab = s.fab := rfl
@[simp] theorem State.setReg_pair (s : State) (a v : Nat) : (s.setReg a v).pair = s.pair := rfl
@[simp] theorem State.setReg_flash (s : State) (a v : Nat) : (s.setReg a v).flash = s.flash := rfl
@[simp] theorem State.setReg_admJob (s : State) (a v : Nat) : (s.setReg a v).admJob = s.admJob := rfl
@[simp] theorem State.setReg_pwr (s : State) (a v : Nat) : (s.setReg a v).pwr = s.pwr := rfl
@[simp] theorem State.setReg_sup (s : State) (a v : Nat) : (s.setReg a v).sup = s.sup := rfl
@[simp] theorem State.setReg_rst (s : State) (a v : Nat) : (s.setReg a v).rst = s.rst := rfl
@[simp] theorem State.setReg_fn (s : State) (a v : Nat) : (s.setReg a v).fn = s.fn := rfl
@[simp] theorem State.setReg_trn (s : State) (a v : Nat) : (s.setReg a v).trn = s.trn := rfl

@[simp] theorem State.setFld_pending (s : State) (f : Fld) (v : Nat) : (s.setFld f v).pending = s.pending := rfl
@[simp] theorem State.setFld_regs (s : State) (f : Fld) (v : Nat) : (s.setFld f v).regs = regSet s.regs f.addr (setBits (s.reg f.addr) f.hi f.lo v) := rfl
@[simp] theorem State.setFld_ctrs (s : State) (f : Fld) (v : Nat) : (s.setFld f v).ctrs = s.ctrs := rfl
@[simp] theorem State.setFld_free (s : State) (f : Fld) (v : Nat) : (s.setFld f v).free = s.free := rfl
@[simp] theorem State.setFld_out (s : State) (f : Fld) (v : Nat) : (s.setFld f v).out = s.out := rfl
@[simp] theorem State.setFld_bus (s : State) (f : Fld) (v : Nat) : (s.setFld f v).bus = s.bus := rfl
@[simp] theorem State.setFld_hostA (s : State) (f : Fld) (v : Nat) : (s.setFld f v).hostA = s.hostA := rfl
@[simp] theorem State.setFld_hostB (s : State) (f : Fld) (v : Nat) : (s.setFld f v).hostB = s.hostB := rfl
@[simp] theorem State.setFld_flt (s : State) (f : Fld) (v : Nat) : (s.setFld f v).flt = s.flt := rfl
@[simp] theorem State.setFld_time (s : State) (f : Fld) (v : Nat) : (s.setFld f v).time = s.time := rfl
@[simp] theorem State.setFld_tabs (s : State) (f : Fld) (v : Nat) : (s.setFld f v).tabs = s.tabs := rfl
@[simp] theorem State.setFld_pairMode (s : State) (f : Fld) (v : Nat) : (s.setFld f v).pairMode = s.pairMode := rfl
@[simp] theorem State.setFld_hedge (s : State) (f : Fld) (v : Nat) : (s.setFld f v).hedge = s.hedge := rfl
@[simp] theorem State.setFld_egr (s : State) (f : Fld) (v : Nat) : (s.setFld f v).egr = s.egr := rfl
@[simp] theorem State.setFld_links (s : State) (f : Fld) (v : Nat) : (s.setFld f v).links = s.links := rfl
@[simp] theorem State.setFld_brace (s : State) (f : Fld) (v : Nat) : (s.setFld f v).brace = s.brace := rfl
@[simp] theorem State.setFld_mem (s : State) (f : Fld) (v : Nat) : (s.setFld f v).mem = s.mem := rfl
@[simp] theorem State.setFld_streams (s : State) (f : Fld) (v : Nat) : (s.setFld f v).streams = s.streams := rfl
@[simp] theorem State.setFld_pnHold (s : State) (f : Fld) (v : Nat) : (s.setFld f v).pnHold = s.pnHold := rfl
@[simp] theorem State.setFld_gw (s : State) (f : Fld) (v : Nat) : (s.setFld f v).gw = s.gw := rfl
@[simp] theorem State.setFld_dbg (s : State) (f : Fld) (v : Nat) : (s.setFld f v).dbg = s.dbg := rfl
@[simp] theorem State.setFld_wake (s : State) (f : Fld) (v : Nat) : (s.setFld f v).wake = s.wake := rfl
@[simp] theorem State.setFld_keys (s : State) (f : Fld) (v : Nat) : (s.setFld f v).keys = s.keys := rfl
@[simp] theorem State.setFld_fab (s : State) (f : Fld) (v : Nat) : (s.setFld f v).fab = s.fab := rfl
@[simp] theorem State.setFld_pair (s : State) (f : Fld) (v : Nat) : (s.setFld f v).pair = s.pair := rfl
@[simp] theorem State.setFld_flash (s : State) (f : Fld) (v : Nat) : (s.setFld f v).flash = s.flash := rfl
@[simp] theorem State.setFld_admJob (s : State) (f : Fld) (v : Nat) : (s.setFld f v).admJob = s.admJob := rfl
@[simp] theorem State.setFld_pwr (s : State) (f : Fld) (v : Nat) : (s.setFld f v).pwr = s.pwr := rfl
@[simp] theorem State.setFld_sup (s : State) (f : Fld) (v : Nat) : (s.setFld f v).sup = s.sup := rfl
@[simp] theorem State.setFld_rst (s : State) (f : Fld) (v : Nat) : (s.setFld f v).rst = s.rst := rfl
@[simp] theorem State.setFld_fn (s : State) (f : Fld) (v : Nat) : (s.setFld f v).fn = s.fn := rfl
@[simp] theorem State.setFld_trn (s : State) (f : Fld) (v : Nat) : (s.setFld f v).trn = s.trn := rfl

@[simp] theorem State.setCtr_pending (s : State) (a v : Nat) : (s.setCtr a v).pending = s.pending := rfl
@[simp] theorem State.setCtr_regs (s : State) (a v : Nat) : (s.setCtr a v).regs = s.regs := rfl
@[simp] theorem State.setCtr_ctrs (s : State) (a v : Nat) : (s.setCtr a v).ctrs = kset s.ctrs a (if v = 0 then none else some v) := rfl
@[simp] theorem State.setCtr_free (s : State) (a v : Nat) : (s.setCtr a v).free = s.free := rfl
@[simp] theorem State.setCtr_out (s : State) (a v : Nat) : (s.setCtr a v).out = s.out := rfl
@[simp] theorem State.setCtr_bus (s : State) (a v : Nat) : (s.setCtr a v).bus = s.bus := rfl
@[simp] theorem State.setCtr_hostA (s : State) (a v : Nat) : (s.setCtr a v).hostA = s.hostA := rfl
@[simp] theorem State.setCtr_hostB (s : State) (a v : Nat) : (s.setCtr a v).hostB = s.hostB := rfl
@[simp] theorem State.setCtr_flt (s : State) (a v : Nat) : (s.setCtr a v).flt = s.flt := rfl
@[simp] theorem State.setCtr_time (s : State) (a v : Nat) : (s.setCtr a v).time = s.time := rfl
@[simp] theorem State.setCtr_tabs (s : State) (a v : Nat) : (s.setCtr a v).tabs = s.tabs := rfl
@[simp] theorem State.setCtr_pairMode (s : State) (a v : Nat) : (s.setCtr a v).pairMode = s.pairMode := rfl
@[simp] theorem State.setCtr_hedge (s : State) (a v : Nat) : (s.setCtr a v).hedge = s.hedge := rfl
@[simp] theorem State.setCtr_egr (s : State) (a v : Nat) : (s.setCtr a v).egr = s.egr := rfl
@[simp] theorem State.setCtr_links (s : State) (a v : Nat) : (s.setCtr a v).links = s.links := rfl
@[simp] theorem State.setCtr_brace (s : State) (a v : Nat) : (s.setCtr a v).brace = s.brace := rfl
@[simp] theorem State.setCtr_mem (s : State) (a v : Nat) : (s.setCtr a v).mem = s.mem := rfl
@[simp] theorem State.setCtr_streams (s : State) (a v : Nat) : (s.setCtr a v).streams = s.streams := rfl
@[simp] theorem State.setCtr_pnHold (s : State) (a v : Nat) : (s.setCtr a v).pnHold = s.pnHold := rfl
@[simp] theorem State.setCtr_gw (s : State) (a v : Nat) : (s.setCtr a v).gw = s.gw := rfl
@[simp] theorem State.setCtr_dbg (s : State) (a v : Nat) : (s.setCtr a v).dbg = s.dbg := rfl
@[simp] theorem State.setCtr_wake (s : State) (a v : Nat) : (s.setCtr a v).wake = s.wake := rfl
@[simp] theorem State.setCtr_keys (s : State) (a v : Nat) : (s.setCtr a v).keys = s.keys := rfl
@[simp] theorem State.setCtr_fab (s : State) (a v : Nat) : (s.setCtr a v).fab = s.fab := rfl
@[simp] theorem State.setCtr_pair (s : State) (a v : Nat) : (s.setCtr a v).pair = s.pair := rfl
@[simp] theorem State.setCtr_flash (s : State) (a v : Nat) : (s.setCtr a v).flash = s.flash := rfl
@[simp] theorem State.setCtr_admJob (s : State) (a v : Nat) : (s.setCtr a v).admJob = s.admJob := rfl
@[simp] theorem State.setCtr_pwr (s : State) (a v : Nat) : (s.setCtr a v).pwr = s.pwr := rfl
@[simp] theorem State.setCtr_sup (s : State) (a v : Nat) : (s.setCtr a v).sup = s.sup := rfl
@[simp] theorem State.setCtr_rst (s : State) (a v : Nat) : (s.setCtr a v).rst = s.rst := rfl
@[simp] theorem State.setCtr_fn (s : State) (a v : Nat) : (s.setCtr a v).fn = s.fn := rfl
@[simp] theorem State.setCtr_trn (s : State) (a v : Nat) : (s.setCtr a v).trn = s.trn := rfl

@[simp] theorem State.bumpBy_pending (s : State) (a n : Nat) : (s.bumpBy a n).pending = s.pending := rfl
@[simp] theorem State.bumpBy_regs (s : State) (a n : Nat) : (s.bumpBy a n).regs = s.regs := rfl
@[simp] theorem State.bumpBy_ctrs (s : State) (a n : Nat) : (s.bumpBy a n).ctrs = kset s.ctrs a (if ctrAdd a (s.ctr a) n = 0 then none else some (ctrAdd a (s.ctr a) n)) := rfl
@[simp] theorem State.bumpBy_free (s : State) (a n : Nat) : (s.bumpBy a n).free = s.free := rfl
@[simp] theorem State.bumpBy_out (s : State) (a n : Nat) : (s.bumpBy a n).out = s.out := rfl
@[simp] theorem State.bumpBy_bus (s : State) (a n : Nat) : (s.bumpBy a n).bus = s.bus := rfl
@[simp] theorem State.bumpBy_hostA (s : State) (a n : Nat) : (s.bumpBy a n).hostA = s.hostA := rfl
@[simp] theorem State.bumpBy_hostB (s : State) (a n : Nat) : (s.bumpBy a n).hostB = s.hostB := rfl
@[simp] theorem State.bumpBy_flt (s : State) (a n : Nat) : (s.bumpBy a n).flt = s.flt := rfl
@[simp] theorem State.bumpBy_time (s : State) (a n : Nat) : (s.bumpBy a n).time = s.time := rfl
@[simp] theorem State.bumpBy_tabs (s : State) (a n : Nat) : (s.bumpBy a n).tabs = s.tabs := rfl
@[simp] theorem State.bumpBy_pairMode (s : State) (a n : Nat) : (s.bumpBy a n).pairMode = s.pairMode := rfl
@[simp] theorem State.bumpBy_hedge (s : State) (a n : Nat) : (s.bumpBy a n).hedge = s.hedge := rfl
@[simp] theorem State.bumpBy_egr (s : State) (a n : Nat) : (s.bumpBy a n).egr = s.egr := rfl
@[simp] theorem State.bumpBy_links (s : State) (a n : Nat) : (s.bumpBy a n).links = s.links := rfl
@[simp] theorem State.bumpBy_brace (s : State) (a n : Nat) : (s.bumpBy a n).brace = s.brace := rfl
@[simp] theorem State.bumpBy_mem (s : State) (a n : Nat) : (s.bumpBy a n).mem = s.mem := rfl
@[simp] theorem State.bumpBy_streams (s : State) (a n : Nat) : (s.bumpBy a n).streams = s.streams := rfl
@[simp] theorem State.bumpBy_pnHold (s : State) (a n : Nat) : (s.bumpBy a n).pnHold = s.pnHold := rfl
@[simp] theorem State.bumpBy_gw (s : State) (a n : Nat) : (s.bumpBy a n).gw = s.gw := rfl
@[simp] theorem State.bumpBy_dbg (s : State) (a n : Nat) : (s.bumpBy a n).dbg = s.dbg := rfl
@[simp] theorem State.bumpBy_wake (s : State) (a n : Nat) : (s.bumpBy a n).wake = s.wake := rfl
@[simp] theorem State.bumpBy_keys (s : State) (a n : Nat) : (s.bumpBy a n).keys = s.keys := rfl
@[simp] theorem State.bumpBy_fab (s : State) (a n : Nat) : (s.bumpBy a n).fab = s.fab := rfl
@[simp] theorem State.bumpBy_pair (s : State) (a n : Nat) : (s.bumpBy a n).pair = s.pair := rfl
@[simp] theorem State.bumpBy_flash (s : State) (a n : Nat) : (s.bumpBy a n).flash = s.flash := rfl
@[simp] theorem State.bumpBy_admJob (s : State) (a n : Nat) : (s.bumpBy a n).admJob = s.admJob := rfl
@[simp] theorem State.bumpBy_pwr (s : State) (a n : Nat) : (s.bumpBy a n).pwr = s.pwr := rfl
@[simp] theorem State.bumpBy_sup (s : State) (a n : Nat) : (s.bumpBy a n).sup = s.sup := rfl
@[simp] theorem State.bumpBy_rst (s : State) (a n : Nat) : (s.bumpBy a n).rst = s.rst := rfl
@[simp] theorem State.bumpBy_fn (s : State) (a n : Nat) : (s.bumpBy a n).fn = s.fn := rfl
@[simp] theorem State.bumpBy_trn (s : State) (a n : Nat) : (s.bumpBy a n).trn = s.trn := rfl

@[simp] theorem State.bump_pending (s : State) (a : Nat) : (s.bump a).pending = s.pending := rfl
@[simp] theorem State.bump_regs (s : State) (a : Nat) : (s.bump a).regs = s.regs := rfl
@[simp] theorem State.bump_ctrs (s : State) (a : Nat) : (s.bump a).ctrs = (s.bumpBy a 1).ctrs := rfl
@[simp] theorem State.bump_free (s : State) (a : Nat) : (s.bump a).free = s.free := rfl
@[simp] theorem State.bump_out (s : State) (a : Nat) : (s.bump a).out = s.out := rfl
@[simp] theorem State.bump_bus (s : State) (a : Nat) : (s.bump a).bus = s.bus := rfl
@[simp] theorem State.bump_hostA (s : State) (a : Nat) : (s.bump a).hostA = s.hostA := rfl
@[simp] theorem State.bump_hostB (s : State) (a : Nat) : (s.bump a).hostB = s.hostB := rfl
@[simp] theorem State.bump_flt (s : State) (a : Nat) : (s.bump a).flt = s.flt := rfl
@[simp] theorem State.bump_time (s : State) (a : Nat) : (s.bump a).time = s.time := rfl
@[simp] theorem State.bump_tabs (s : State) (a : Nat) : (s.bump a).tabs = s.tabs := rfl
@[simp] theorem State.bump_pairMode (s : State) (a : Nat) : (s.bump a).pairMode = s.pairMode := rfl
@[simp] theorem State.bump_hedge (s : State) (a : Nat) : (s.bump a).hedge = s.hedge := rfl
@[simp] theorem State.bump_egr (s : State) (a : Nat) : (s.bump a).egr = s.egr := rfl
@[simp] theorem State.bump_links (s : State) (a : Nat) : (s.bump a).links = s.links := rfl
@[simp] theorem State.bump_brace (s : State) (a : Nat) : (s.bump a).brace = s.brace := rfl
@[simp] theorem State.bump_mem (s : State) (a : Nat) : (s.bump a).mem = s.mem := rfl
@[simp] theorem State.bump_streams (s : State) (a : Nat) : (s.bump a).streams = s.streams := rfl
@[simp] theorem State.bump_pnHold (s : State) (a : Nat) : (s.bump a).pnHold = s.pnHold := rfl
@[simp] theorem State.bump_gw (s : State) (a : Nat) : (s.bump a).gw = s.gw := rfl
@[simp] theorem State.bump_dbg (s : State) (a : Nat) : (s.bump a).dbg = s.dbg := rfl
@[simp] theorem State.bump_wake (s : State) (a : Nat) : (s.bump a).wake = s.wake := rfl
@[simp] theorem State.bump_keys (s : State) (a : Nat) : (s.bump a).keys = s.keys := rfl
@[simp] theorem State.bump_fab (s : State) (a : Nat) : (s.bump a).fab = s.fab := rfl
@[simp] theorem State.bump_pair (s : State) (a : Nat) : (s.bump a).pair = s.pair := rfl
@[simp] theorem State.bump_flash (s : State) (a : Nat) : (s.bump a).flash = s.flash := rfl
@[simp] theorem State.bump_admJob (s : State) (a : Nat) : (s.bump a).admJob = s.admJob := rfl
@[simp] theorem State.bump_pwr (s : State) (a : Nat) : (s.bump a).pwr = s.pwr := rfl
@[simp] theorem State.bump_sup (s : State) (a : Nat) : (s.bump a).sup = s.sup := rfl
@[simp] theorem State.bump_rst (s : State) (a : Nat) : (s.bump a).rst = s.rst := rfl
@[simp] theorem State.bump_fn (s : State) (a : Nat) : (s.bump a).fn = s.fn := rfl
@[simp] theorem State.bump_trn (s : State) (a : Nat) : (s.bump a).trn = s.trn := rfl

@[simp] theorem State.emit_pending (s : State) (o : Output) : (s.emit o).pending = s.pending := rfl
@[simp] theorem State.emit_regs (s : State) (o : Output) : (s.emit o).regs = s.regs := rfl
@[simp] theorem State.emit_ctrs (s : State) (o : Output) : (s.emit o).ctrs = s.ctrs := rfl
@[simp] theorem State.emit_free (s : State) (o : Output) : (s.emit o).free = s.free := rfl
@[simp] theorem State.emit_out (s : State) (o : Output) : (s.emit o).out = o :: s.out := rfl
@[simp] theorem State.emit_bus (s : State) (o : Output) : (s.emit o).bus = s.bus := rfl
@[simp] theorem State.emit_hostA (s : State) (o : Output) : (s.emit o).hostA = s.hostA := rfl
@[simp] theorem State.emit_hostB (s : State) (o : Output) : (s.emit o).hostB = s.hostB := rfl
@[simp] theorem State.emit_flt (s : State) (o : Output) : (s.emit o).flt = s.flt := rfl
@[simp] theorem State.emit_time (s : State) (o : Output) : (s.emit o).time = s.time := rfl
@[simp] theorem State.emit_tabs (s : State) (o : Output) : (s.emit o).tabs = s.tabs := rfl
@[simp] theorem State.emit_pairMode (s : State) (o : Output) : (s.emit o).pairMode = s.pairMode := rfl
@[simp] theorem State.emit_hedge (s : State) (o : Output) : (s.emit o).hedge = s.hedge := rfl
@[simp] theorem State.emit_egr (s : State) (o : Output) : (s.emit o).egr = s.egr := rfl
@[simp] theorem State.emit_links (s : State) (o : Output) : (s.emit o).links = s.links := rfl
@[simp] theorem State.emit_brace (s : State) (o : Output) : (s.emit o).brace = s.brace := rfl
@[simp] theorem State.emit_mem (s : State) (o : Output) : (s.emit o).mem = s.mem := rfl
@[simp] theorem State.emit_streams (s : State) (o : Output) : (s.emit o).streams = s.streams := rfl
@[simp] theorem State.emit_pnHold (s : State) (o : Output) : (s.emit o).pnHold = s.pnHold := rfl
@[simp] theorem State.emit_gw (s : State) (o : Output) : (s.emit o).gw = s.gw := rfl
@[simp] theorem State.emit_dbg (s : State) (o : Output) : (s.emit o).dbg = s.dbg := rfl
@[simp] theorem State.emit_wake (s : State) (o : Output) : (s.emit o).wake = s.wake := rfl
@[simp] theorem State.emit_keys (s : State) (o : Output) : (s.emit o).keys = s.keys := rfl
@[simp] theorem State.emit_fab (s : State) (o : Output) : (s.emit o).fab = s.fab := rfl
@[simp] theorem State.emit_pair (s : State) (o : Output) : (s.emit o).pair = s.pair := rfl
@[simp] theorem State.emit_flash (s : State) (o : Output) : (s.emit o).flash = s.flash := rfl
@[simp] theorem State.emit_admJob (s : State) (o : Output) : (s.emit o).admJob = s.admJob := rfl
@[simp] theorem State.emit_pwr (s : State) (o : Output) : (s.emit o).pwr = s.pwr := rfl
@[simp] theorem State.emit_sup (s : State) (o : Output) : (s.emit o).sup = s.sup := rfl
@[simp] theorem State.emit_rst (s : State) (o : Output) : (s.emit o).rst = s.rst := rfl
@[simp] theorem State.emit_fn (s : State) (o : Output) : (s.emit o).fn = s.fn := rfl
@[simp] theorem State.emit_trn (s : State) (o : Output) : (s.emit o).trn = s.trn := rfl

@[simp] theorem State.drew_pending (s : State) : s.drew.pending = s.pending := rfl
@[simp] theorem State.drew_regs (s : State) : s.drew.regs = s.regs := rfl
@[simp] theorem State.drew_ctrs (s : State) : s.drew.ctrs = s.ctrs := rfl
@[simp] theorem State.drew_free (s : State) : s.drew.free = s.free + 1 := rfl
@[simp] theorem State.drew_out (s : State) : s.drew.out = s.out := rfl
@[simp] theorem State.drew_bus (s : State) : s.drew.bus = s.bus := rfl
@[simp] theorem State.drew_hostA (s : State) : s.drew.hostA = s.hostA := rfl
@[simp] theorem State.drew_hostB (s : State) : s.drew.hostB = s.hostB := rfl
@[simp] theorem State.drew_flt (s : State) : s.drew.flt = s.flt := rfl
@[simp] theorem State.drew_time (s : State) : s.drew.time = s.time := rfl
@[simp] theorem State.drew_tabs (s : State) : s.drew.tabs = s.tabs := rfl
@[simp] theorem State.drew_pairMode (s : State) : s.drew.pairMode = s.pairMode := rfl
@[simp] theorem State.drew_hedge (s : State) : s.drew.hedge = s.hedge := rfl
@[simp] theorem State.drew_egr (s : State) : s.drew.egr = s.egr := rfl
@[simp] theorem State.drew_links (s : State) : s.drew.links = s.links := rfl
@[simp] theorem State.drew_brace (s : State) : s.drew.brace = s.brace := rfl
@[simp] theorem State.drew_mem (s : State) : s.drew.mem = s.mem := rfl
@[simp] theorem State.drew_streams (s : State) : s.drew.streams = s.streams := rfl
@[simp] theorem State.drew_pnHold (s : State) : s.drew.pnHold = s.pnHold := rfl
@[simp] theorem State.drew_gw (s : State) : s.drew.gw = s.gw := rfl
@[simp] theorem State.drew_dbg (s : State) : s.drew.dbg = s.dbg := rfl
@[simp] theorem State.drew_wake (s : State) : s.drew.wake = s.wake := rfl
@[simp] theorem State.drew_keys (s : State) : s.drew.keys = s.keys := rfl
@[simp] theorem State.drew_fab (s : State) : s.drew.fab = s.fab := rfl
@[simp] theorem State.drew_pair (s : State) : s.drew.pair = s.pair := rfl
@[simp] theorem State.drew_flash (s : State) : s.drew.flash = s.flash := rfl
@[simp] theorem State.drew_admJob (s : State) : s.drew.admJob = s.admJob := rfl
@[simp] theorem State.drew_pwr (s : State) : s.drew.pwr = s.pwr := rfl
@[simp] theorem State.drew_sup (s : State) : s.drew.sup = s.sup := rfl
@[simp] theorem State.drew_rst (s : State) : s.drew.rst = s.rst := rfl
@[simp] theorem State.drew_fn (s : State) : s.drew.fn = s.fn := rfl
@[simp] theorem State.drew_trn (s : State) : s.drew.trn = s.trn := rfl

@[simp] theorem State.drewN_pending (s : State) (n : Nat) : (s.drewN n).pending = s.pending := rfl
@[simp] theorem State.drewN_regs (s : State) (n : Nat) : (s.drewN n).regs = s.regs := rfl
@[simp] theorem State.drewN_ctrs (s : State) (n : Nat) : (s.drewN n).ctrs = s.ctrs := rfl
@[simp] theorem State.drewN_free (s : State) (n : Nat) : (s.drewN n).free = s.free + n := rfl
@[simp] theorem State.drewN_out (s : State) (n : Nat) : (s.drewN n).out = s.out := rfl
@[simp] theorem State.drewN_bus (s : State) (n : Nat) : (s.drewN n).bus = s.bus := rfl
@[simp] theorem State.drewN_hostA (s : State) (n : Nat) : (s.drewN n).hostA = s.hostA := rfl
@[simp] theorem State.drewN_hostB (s : State) (n : Nat) : (s.drewN n).hostB = s.hostB := rfl
@[simp] theorem State.drewN_flt (s : State) (n : Nat) : (s.drewN n).flt = s.flt := rfl
@[simp] theorem State.drewN_time (s : State) (n : Nat) : (s.drewN n).time = s.time := rfl
@[simp] theorem State.drewN_tabs (s : State) (n : Nat) : (s.drewN n).tabs = s.tabs := rfl
@[simp] theorem State.drewN_pairMode (s : State) (n : Nat) : (s.drewN n).pairMode = s.pairMode := rfl
@[simp] theorem State.drewN_hedge (s : State) (n : Nat) : (s.drewN n).hedge = s.hedge := rfl
@[simp] theorem State.drewN_egr (s : State) (n : Nat) : (s.drewN n).egr = s.egr := rfl
@[simp] theorem State.drewN_links (s : State) (n : Nat) : (s.drewN n).links = s.links := rfl
@[simp] theorem State.drewN_brace (s : State) (n : Nat) : (s.drewN n).brace = s.brace := rfl
@[simp] theorem State.drewN_mem (s : State) (n : Nat) : (s.drewN n).mem = s.mem := rfl
@[simp] theorem State.drewN_streams (s : State) (n : Nat) : (s.drewN n).streams = s.streams := rfl
@[simp] theorem State.drewN_pnHold (s : State) (n : Nat) : (s.drewN n).pnHold = s.pnHold := rfl
@[simp] theorem State.drewN_gw (s : State) (n : Nat) : (s.drewN n).gw = s.gw := rfl
@[simp] theorem State.drewN_dbg (s : State) (n : Nat) : (s.drewN n).dbg = s.dbg := rfl
@[simp] theorem State.drewN_wake (s : State) (n : Nat) : (s.drewN n).wake = s.wake := rfl
@[simp] theorem State.drewN_keys (s : State) (n : Nat) : (s.drewN n).keys = s.keys := rfl
@[simp] theorem State.drewN_fab (s : State) (n : Nat) : (s.drewN n).fab = s.fab := rfl
@[simp] theorem State.drewN_pair (s : State) (n : Nat) : (s.drewN n).pair = s.pair := rfl
@[simp] theorem State.drewN_flash (s : State) (n : Nat) : (s.drewN n).flash = s.flash := rfl
@[simp] theorem State.drewN_admJob (s : State) (n : Nat) : (s.drewN n).admJob = s.admJob := rfl
@[simp] theorem State.drewN_pwr (s : State) (n : Nat) : (s.drewN n).pwr = s.pwr := rfl
@[simp] theorem State.drewN_sup (s : State) (n : Nat) : (s.drewN n).sup = s.sup := rfl
@[simp] theorem State.drewN_rst (s : State) (n : Nat) : (s.drewN n).rst = s.rst := rfl
@[simp] theorem State.drewN_fn (s : State) (n : Nat) : (s.drewN n).fn = s.fn := rfl
@[simp] theorem State.drewN_trn (s : State) (n : Nat) : (s.drewN n).trn = s.trn := rfl

@[simp] theorem State.granted_pending (src : Src) (s : State) : (State.granted src s).pending = s.pending := rfl
@[simp] theorem State.granted_regs (src : Src) (s : State) : (State.granted src s).regs = s.regs := rfl
@[simp] theorem State.granted_ctrs (src : Src) (s : State) : (State.granted src s).ctrs = s.ctrs := rfl
@[simp] theorem State.granted_free (src : Src) (s : State) : (State.granted src s).free = s.free := rfl
@[simp] theorem State.granted_out (src : Src) (s : State) : (State.granted src s).out = s.out := rfl
@[simp] theorem State.granted_bus (src : Src) (s : State) : (State.granted src s).bus = { s.bus with last := src } := rfl
@[simp] theorem State.granted_hostA (src : Src) (s : State) : (State.granted src s).hostA = s.hostA := rfl
@[simp] theorem State.granted_hostB (src : Src) (s : State) : (State.granted src s).hostB = s.hostB := rfl
@[simp] theorem State.granted_flt (src : Src) (s : State) : (State.granted src s).flt = s.flt := rfl
@[simp] theorem State.granted_time (src : Src) (s : State) : (State.granted src s).time = s.time := rfl
@[simp] theorem State.granted_tabs (src : Src) (s : State) : (State.granted src s).tabs = s.tabs := rfl
@[simp] theorem State.granted_pairMode (src : Src) (s : State) : (State.granted src s).pairMode = s.pairMode := rfl
@[simp] theorem State.granted_hedge (src : Src) (s : State) : (State.granted src s).hedge = s.hedge := rfl
@[simp] theorem State.granted_egr (src : Src) (s : State) : (State.granted src s).egr = s.egr := rfl
@[simp] theorem State.granted_links (src : Src) (s : State) : (State.granted src s).links = s.links := rfl
@[simp] theorem State.granted_brace (src : Src) (s : State) : (State.granted src s).brace = s.brace := rfl
@[simp] theorem State.granted_mem (src : Src) (s : State) : (State.granted src s).mem = s.mem := rfl
@[simp] theorem State.granted_streams (src : Src) (s : State) : (State.granted src s).streams = s.streams := rfl
@[simp] theorem State.granted_pnHold (src : Src) (s : State) : (State.granted src s).pnHold = s.pnHold := rfl
@[simp] theorem State.granted_gw (src : Src) (s : State) : (State.granted src s).gw = s.gw := rfl
@[simp] theorem State.granted_dbg (src : Src) (s : State) : (State.granted src s).dbg = s.dbg := rfl
@[simp] theorem State.granted_wake (src : Src) (s : State) : (State.granted src s).wake = s.wake := rfl
@[simp] theorem State.granted_keys (src : Src) (s : State) : (State.granted src s).keys = s.keys := rfl
@[simp] theorem State.granted_fab (src : Src) (s : State) : (State.granted src s).fab = s.fab := rfl
@[simp] theorem State.granted_pair (src : Src) (s : State) : (State.granted src s).pair = s.pair := rfl
@[simp] theorem State.granted_flash (src : Src) (s : State) : (State.granted src s).flash = s.flash := rfl
@[simp] theorem State.granted_admJob (src : Src) (s : State) : (State.granted src s).admJob = s.admJob := rfl
@[simp] theorem State.granted_pwr (src : Src) (s : State) : (State.granted src s).pwr = s.pwr := rfl
@[simp] theorem State.granted_sup (src : Src) (s : State) : (State.granted src s).sup = s.sup := rfl
@[simp] theorem State.granted_rst (src : Src) (s : State) : (State.granted src s).rst = s.rst := rfl
@[simp] theorem State.granted_fn (src : Src) (s : State) : (State.granted src s).fn = s.fn := rfl
@[simp] theorem State.granted_trn (src : Src) (s : State) : (State.granted src s).trn = s.trn := rfl

@[simp] theorem State.setTab_pending (s : State) (q : Nat) (t : QTab) : (s.setTab q t).pending = s.pending := rfl
@[simp] theorem State.setTab_regs (s : State) (q : Nat) (t : QTab) : (s.setTab q t).regs = s.regs := rfl
@[simp] theorem State.setTab_ctrs (s : State) (q : Nat) (t : QTab) : (s.setTab q t).ctrs = s.ctrs := rfl
@[simp] theorem State.setTab_free (s : State) (q : Nat) (t : QTab) : (s.setTab q t).free = s.free := rfl
@[simp] theorem State.setTab_out (s : State) (q : Nat) (t : QTab) : (s.setTab q t).out = s.out := rfl
@[simp] theorem State.setTab_bus (s : State) (q : Nat) (t : QTab) : (s.setTab q t).bus = s.bus := rfl
@[simp] theorem State.setTab_hostA (s : State) (q : Nat) (t : QTab) : (s.setTab q t).hostA = s.hostA := rfl
@[simp] theorem State.setTab_hostB (s : State) (q : Nat) (t : QTab) : (s.setTab q t).hostB = s.hostB := rfl
@[simp] theorem State.setTab_flt (s : State) (q : Nat) (t : QTab) : (s.setTab q t).flt = s.flt := rfl
@[simp] theorem State.setTab_time (s : State) (q : Nat) (t : QTab) : (s.setTab q t).time = s.time := rfl
@[simp] theorem State.setTab_tabs (s : State) (q : Nat) (t : QTab) : (s.setTab q t).tabs = kput s.tabs q t := rfl
@[simp] theorem State.setTab_pairMode (s : State) (q : Nat) (t : QTab) : (s.setTab q t).pairMode = s.pairMode := rfl
@[simp] theorem State.setTab_hedge (s : State) (q : Nat) (t : QTab) : (s.setTab q t).hedge = s.hedge := rfl
@[simp] theorem State.setTab_egr (s : State) (q : Nat) (t : QTab) : (s.setTab q t).egr = s.egr := rfl
@[simp] theorem State.setTab_links (s : State) (q : Nat) (t : QTab) : (s.setTab q t).links = s.links := rfl
@[simp] theorem State.setTab_brace (s : State) (q : Nat) (t : QTab) : (s.setTab q t).brace = s.brace := rfl
@[simp] theorem State.setTab_mem (s : State) (q : Nat) (t : QTab) : (s.setTab q t).mem = s.mem := rfl
@[simp] theorem State.setTab_streams (s : State) (q : Nat) (t : QTab) : (s.setTab q t).streams = s.streams := rfl
@[simp] theorem State.setTab_pnHold (s : State) (q : Nat) (t : QTab) : (s.setTab q t).pnHold = s.pnHold := rfl
@[simp] theorem State.setTab_gw (s : State) (q : Nat) (t : QTab) : (s.setTab q t).gw = s.gw := rfl
@[simp] theorem State.setTab_dbg (s : State) (q : Nat) (t : QTab) : (s.setTab q t).dbg = s.dbg := rfl
@[simp] theorem State.setTab_wake (s : State) (q : Nat) (t : QTab) : (s.setTab q t).wake = s.wake := rfl
@[simp] theorem State.setTab_keys (s : State) (q : Nat) (t : QTab) : (s.setTab q t).keys = s.keys := rfl
@[simp] theorem State.setTab_fab (s : State) (q : Nat) (t : QTab) : (s.setTab q t).fab = s.fab := rfl
@[simp] theorem State.setTab_pair (s : State) (q : Nat) (t : QTab) : (s.setTab q t).pair = s.pair := rfl
@[simp] theorem State.setTab_flash (s : State) (q : Nat) (t : QTab) : (s.setTab q t).flash = s.flash := rfl
@[simp] theorem State.setTab_admJob (s : State) (q : Nat) (t : QTab) : (s.setTab q t).admJob = s.admJob := rfl
@[simp] theorem State.setTab_pwr (s : State) (q : Nat) (t : QTab) : (s.setTab q t).pwr = s.pwr := rfl
@[simp] theorem State.setTab_sup (s : State) (q : Nat) (t : QTab) : (s.setTab q t).sup = s.sup := rfl
@[simp] theorem State.setTab_rst (s : State) (q : Nat) (t : QTab) : (s.setTab q t).rst = s.rst := rfl
@[simp] theorem State.setTab_fn (s : State) (q : Nat) (t : QTab) : (s.setTab q t).fn = s.fn := rfl
@[simp] theorem State.setTab_trn (s : State) (q : Nat) (t : QTab) : (s.setTab q t).trn = s.trn := rfl

@[simp] theorem State.modTab_pending (s : State) (q : Nat) (f : QTab → QTab) : (s.modTab q f).pending = s.pending := rfl
@[simp] theorem State.modTab_regs (s : State) (q : Nat) (f : QTab → QTab) : (s.modTab q f).regs = s.regs := rfl
@[simp] theorem State.modTab_ctrs (s : State) (q : Nat) (f : QTab → QTab) : (s.modTab q f).ctrs = s.ctrs := rfl
@[simp] theorem State.modTab_free (s : State) (q : Nat) (f : QTab → QTab) : (s.modTab q f).free = s.free := rfl
@[simp] theorem State.modTab_out (s : State) (q : Nat) (f : QTab → QTab) : (s.modTab q f).out = s.out := rfl
@[simp] theorem State.modTab_bus (s : State) (q : Nat) (f : QTab → QTab) : (s.modTab q f).bus = s.bus := rfl
@[simp] theorem State.modTab_hostA (s : State) (q : Nat) (f : QTab → QTab) : (s.modTab q f).hostA = s.hostA := rfl
@[simp] theorem State.modTab_hostB (s : State) (q : Nat) (f : QTab → QTab) : (s.modTab q f).hostB = s.hostB := rfl
@[simp] theorem State.modTab_flt (s : State) (q : Nat) (f : QTab → QTab) : (s.modTab q f).flt = s.flt := rfl
@[simp] theorem State.modTab_time (s : State) (q : Nat) (f : QTab → QTab) : (s.modTab q f).time = s.time := rfl
@[simp] theorem State.modTab_tabs (s : State) (q : Nat) (f : QTab → QTab) : (s.modTab q f).tabs = kput s.tabs q (f (s.tab q)) := rfl
@[simp] theorem State.modTab_pairMode (s : State) (q : Nat) (f : QTab → QTab) : (s.modTab q f).pairMode = s.pairMode := rfl
@[simp] theorem State.modTab_hedge (s : State) (q : Nat) (f : QTab → QTab) : (s.modTab q f).hedge = s.hedge := rfl
@[simp] theorem State.modTab_egr (s : State) (q : Nat) (f : QTab → QTab) : (s.modTab q f).egr = s.egr := rfl
@[simp] theorem State.modTab_links (s : State) (q : Nat) (f : QTab → QTab) : (s.modTab q f).links = s.links := rfl
@[simp] theorem State.modTab_brace (s : State) (q : Nat) (f : QTab → QTab) : (s.modTab q f).brace = s.brace := rfl
@[simp] theorem State.modTab_mem (s : State) (q : Nat) (f : QTab → QTab) : (s.modTab q f).mem = s.mem := rfl
@[simp] theorem State.modTab_streams (s : State) (q : Nat) (f : QTab → QTab) : (s.modTab q f).streams = s.streams := rfl
@[simp] theorem State.modTab_pnHold (s : State) (q : Nat) (f : QTab → QTab) : (s.modTab q f).pnHold = s.pnHold := rfl
@[simp] theorem State.modTab_gw (s : State) (q : Nat) (f : QTab → QTab) : (s.modTab q f).gw = s.gw := rfl
@[simp] theorem State.modTab_dbg (s : State) (q : Nat) (f : QTab → QTab) : (s.modTab q f).dbg = s.dbg := rfl
@[simp] theorem State.modTab_wake (s : State) (q : Nat) (f : QTab → QTab) : (s.modTab q f).wake = s.wake := rfl
@[simp] theorem State.modTab_keys (s : State) (q : Nat) (f : QTab → QTab) : (s.modTab q f).keys = s.keys := rfl
@[simp] theorem State.modTab_fab (s : State) (q : Nat) (f : QTab → QTab) : (s.modTab q f).fab = s.fab := rfl
@[simp] theorem State.modTab_pair (s : State) (q : Nat) (f : QTab → QTab) : (s.modTab q f).pair = s.pair := rfl
@[simp] theorem State.modTab_flash (s : State) (q : Nat) (f : QTab → QTab) : (s.modTab q f).flash = s.flash := rfl
@[simp] theorem State.modTab_admJob (s : State) (q : Nat) (f : QTab → QTab) : (s.modTab q f).admJob = s.admJob := rfl
@[simp] theorem State.modTab_pwr (s : State) (q : Nat) (f : QTab → QTab) : (s.modTab q f).pwr = s.pwr := rfl
@[simp] theorem State.modTab_sup (s : State) (q : Nat) (f : QTab → QTab) : (s.modTab q f).sup = s.sup := rfl
@[simp] theorem State.modTab_rst (s : State) (q : Nat) (f : QTab → QTab) : (s.modTab q f).rst = s.rst := rfl
@[simp] theorem State.modTab_fn (s : State) (q : Nat) (f : QTab → QTab) : (s.modTab q f).fn = s.fn := rfl
@[simp] theorem State.modTab_trn (s : State) (q : Nat) (f : QTab → QTab) : (s.modTab q f).trn = s.trn := rfl

@[simp] theorem State.modHq_pending (s : State) (q : Nat) (f : HQuad → HQuad) : (s.modHq q f).pending = s.pending := rfl
@[simp] theorem State.modHq_regs (s : State) (q : Nat) (f : HQuad → HQuad) : (s.modHq q f).regs = s.regs := rfl
@[simp] theorem State.modHq_ctrs (s : State) (q : Nat) (f : HQuad → HQuad) : (s.modHq q f).ctrs = s.ctrs := rfl
@[simp] theorem State.modHq_free (s : State) (q : Nat) (f : HQuad → HQuad) : (s.modHq q f).free = s.free := rfl
@[simp] theorem State.modHq_out (s : State) (q : Nat) (f : HQuad → HQuad) : (s.modHq q f).out = s.out := rfl
@[simp] theorem State.modHq_bus (s : State) (q : Nat) (f : HQuad → HQuad) : (s.modHq q f).bus = s.bus := rfl
@[simp] theorem State.modHq_hostA (s : State) (q : Nat) (f : HQuad → HQuad) : (s.modHq q f).hostA = s.hostA := rfl
@[simp] theorem State.modHq_hostB (s : State) (q : Nat) (f : HQuad → HQuad) : (s.modHq q f).hostB = s.hostB := rfl
@[simp] theorem State.modHq_flt (s : State) (q : Nat) (f : HQuad → HQuad) : (s.modHq q f).flt = s.flt := rfl
@[simp] theorem State.modHq_time (s : State) (q : Nat) (f : HQuad → HQuad) : (s.modHq q f).time = s.time := rfl
@[simp] theorem State.modHq_tabs (s : State) (q : Nat) (f : HQuad → HQuad) : (s.modHq q f).tabs = s.tabs := rfl
@[simp] theorem State.modHq_pairMode (s : State) (q : Nat) (f : HQuad → HQuad) : (s.modHq q f).pairMode = s.pairMode := rfl
@[simp] theorem State.modHq_hedge (s : State) (q : Nat) (f : HQuad → HQuad) : (s.modHq q f).hedge = { s.hedge with quads := kput s.hedge.quads q (f (s.hq q)) } := rfl
@[simp] theorem State.modHq_egr (s : State) (q : Nat) (f : HQuad → HQuad) : (s.modHq q f).egr = s.egr := rfl
@[simp] theorem State.modHq_links (s : State) (q : Nat) (f : HQuad → HQuad) : (s.modHq q f).links = s.links := rfl
@[simp] theorem State.modHq_brace (s : State) (q : Nat) (f : HQuad → HQuad) : (s.modHq q f).brace = s.brace := rfl
@[simp] theorem State.modHq_mem (s : State) (q : Nat) (f : HQuad → HQuad) : (s.modHq q f).mem = s.mem := rfl
@[simp] theorem State.modHq_streams (s : State) (q : Nat) (f : HQuad → HQuad) : (s.modHq q f).streams = s.streams := rfl
@[simp] theorem State.modHq_pnHold (s : State) (q : Nat) (f : HQuad → HQuad) : (s.modHq q f).pnHold = s.pnHold := rfl
@[simp] theorem State.modHq_gw (s : State) (q : Nat) (f : HQuad → HQuad) : (s.modHq q f).gw = s.gw := rfl
@[simp] theorem State.modHq_dbg (s : State) (q : Nat) (f : HQuad → HQuad) : (s.modHq q f).dbg = s.dbg := rfl
@[simp] theorem State.modHq_wake (s : State) (q : Nat) (f : HQuad → HQuad) : (s.modHq q f).wake = s.wake := rfl
@[simp] theorem State.modHq_keys (s : State) (q : Nat) (f : HQuad → HQuad) : (s.modHq q f).keys = s.keys := rfl
@[simp] theorem State.modHq_fab (s : State) (q : Nat) (f : HQuad → HQuad) : (s.modHq q f).fab = s.fab := rfl
@[simp] theorem State.modHq_pair (s : State) (q : Nat) (f : HQuad → HQuad) : (s.modHq q f).pair = s.pair := rfl
@[simp] theorem State.modHq_flash (s : State) (q : Nat) (f : HQuad → HQuad) : (s.modHq q f).flash = s.flash := rfl
@[simp] theorem State.modHq_admJob (s : State) (q : Nat) (f : HQuad → HQuad) : (s.modHq q f).admJob = s.admJob := rfl
@[simp] theorem State.modHq_pwr (s : State) (q : Nat) (f : HQuad → HQuad) : (s.modHq q f).pwr = s.pwr := rfl
@[simp] theorem State.modHq_sup (s : State) (q : Nat) (f : HQuad → HQuad) : (s.modHq q f).sup = s.sup := rfl
@[simp] theorem State.modHq_rst (s : State) (q : Nat) (f : HQuad → HQuad) : (s.modHq q f).rst = s.rst := rfl
@[simp] theorem State.modHq_fn (s : State) (q : Nat) (f : HQuad → HQuad) : (s.modHq q f).fn = s.fn := rfl
@[simp] theorem State.modHq_trn (s : State) (q : Nat) (f : HQuad → HQuad) : (s.modHq q f).trn = s.trn := rfl

@[simp] theorem State.modEport_pending (s : State) (p : Nat) (f : EPort → EPort) : (s.modEport p f).pending = s.pending := rfl
@[simp] theorem State.modEport_regs (s : State) (p : Nat) (f : EPort → EPort) : (s.modEport p f).regs = s.regs := rfl
@[simp] theorem State.modEport_ctrs (s : State) (p : Nat) (f : EPort → EPort) : (s.modEport p f).ctrs = s.ctrs := rfl
@[simp] theorem State.modEport_free (s : State) (p : Nat) (f : EPort → EPort) : (s.modEport p f).free = s.free := rfl
@[simp] theorem State.modEport_out (s : State) (p : Nat) (f : EPort → EPort) : (s.modEport p f).out = s.out := rfl
@[simp] theorem State.modEport_bus (s : State) (p : Nat) (f : EPort → EPort) : (s.modEport p f).bus = s.bus := rfl
@[simp] theorem State.modEport_hostA (s : State) (p : Nat) (f : EPort → EPort) : (s.modEport p f).hostA = s.hostA := rfl
@[simp] theorem State.modEport_hostB (s : State) (p : Nat) (f : EPort → EPort) : (s.modEport p f).hostB = s.hostB := rfl
@[simp] theorem State.modEport_flt (s : State) (p : Nat) (f : EPort → EPort) : (s.modEport p f).flt = s.flt := rfl
@[simp] theorem State.modEport_time (s : State) (p : Nat) (f : EPort → EPort) : (s.modEport p f).time = s.time := rfl
@[simp] theorem State.modEport_tabs (s : State) (p : Nat) (f : EPort → EPort) : (s.modEport p f).tabs = s.tabs := rfl
@[simp] theorem State.modEport_pairMode (s : State) (p : Nat) (f : EPort → EPort) : (s.modEport p f).pairMode = s.pairMode := rfl
@[simp] theorem State.modEport_hedge (s : State) (p : Nat) (f : EPort → EPort) : (s.modEport p f).hedge = s.hedge := rfl
@[simp] theorem State.modEport_egr (s : State) (p : Nat) (f : EPort → EPort) : (s.modEport p f).egr = { s.egr with ports := kput s.egr.ports p (f (s.eport p)) } := rfl
@[simp] theorem State.modEport_links (s : State) (p : Nat) (f : EPort → EPort) : (s.modEport p f).links = s.links := rfl
@[simp] theorem State.modEport_brace (s : State) (p : Nat) (f : EPort → EPort) : (s.modEport p f).brace = s.brace := rfl
@[simp] theorem State.modEport_mem (s : State) (p : Nat) (f : EPort → EPort) : (s.modEport p f).mem = s.mem := rfl
@[simp] theorem State.modEport_streams (s : State) (p : Nat) (f : EPort → EPort) : (s.modEport p f).streams = s.streams := rfl
@[simp] theorem State.modEport_pnHold (s : State) (p : Nat) (f : EPort → EPort) : (s.modEport p f).pnHold = s.pnHold := rfl
@[simp] theorem State.modEport_gw (s : State) (p : Nat) (f : EPort → EPort) : (s.modEport p f).gw = s.gw := rfl
@[simp] theorem State.modEport_dbg (s : State) (p : Nat) (f : EPort → EPort) : (s.modEport p f).dbg = s.dbg := rfl
@[simp] theorem State.modEport_wake (s : State) (p : Nat) (f : EPort → EPort) : (s.modEport p f).wake = s.wake := rfl
@[simp] theorem State.modEport_keys (s : State) (p : Nat) (f : EPort → EPort) : (s.modEport p f).keys = s.keys := rfl
@[simp] theorem State.modEport_fab (s : State) (p : Nat) (f : EPort → EPort) : (s.modEport p f).fab = s.fab := rfl
@[simp] theorem State.modEport_pair (s : State) (p : Nat) (f : EPort → EPort) : (s.modEport p f).pair = s.pair := rfl
@[simp] theorem State.modEport_flash (s : State) (p : Nat) (f : EPort → EPort) : (s.modEport p f).flash = s.flash := rfl
@[simp] theorem State.modEport_admJob (s : State) (p : Nat) (f : EPort → EPort) : (s.modEport p f).admJob = s.admJob := rfl
@[simp] theorem State.modEport_pwr (s : State) (p : Nat) (f : EPort → EPort) : (s.modEport p f).pwr = s.pwr := rfl
@[simp] theorem State.modEport_sup (s : State) (p : Nat) (f : EPort → EPort) : (s.modEport p f).sup = s.sup := rfl
@[simp] theorem State.modEport_rst (s : State) (p : Nat) (f : EPort → EPort) : (s.modEport p f).rst = s.rst := rfl
@[simp] theorem State.modEport_fn (s : State) (p : Nat) (f : EPort → EPort) : (s.modEport p f).fn = s.fn := rfl
@[simp] theorem State.modEport_trn (s : State) (p : Nat) (f : EPort → EPort) : (s.modEport p f).trn = s.trn := rfl

@[simp] theorem State.setQueue_pending (s : State) (p c : Nat) (q : List Cell) : (s.setQueue p c q).pending = s.pending := rfl
@[simp] theorem State.setQueue_regs (s : State) (p c : Nat) (q : List Cell) : (s.setQueue p c q).regs = s.regs := rfl
@[simp] theorem State.setQueue_ctrs (s : State) (p c : Nat) (q : List Cell) : (s.setQueue p c q).ctrs = s.ctrs := rfl
@[simp] theorem State.setQueue_free (s : State) (p c : Nat) (q : List Cell) : (s.setQueue p c q).free = s.free := rfl
@[simp] theorem State.setQueue_out (s : State) (p c : Nat) (q : List Cell) : (s.setQueue p c q).out = s.out := rfl
@[simp] theorem State.setQueue_bus (s : State) (p c : Nat) (q : List Cell) : (s.setQueue p c q).bus = s.bus := rfl
@[simp] theorem State.setQueue_hostA (s : State) (p c : Nat) (q : List Cell) : (s.setQueue p c q).hostA = s.hostA := rfl
@[simp] theorem State.setQueue_hostB (s : State) (p c : Nat) (q : List Cell) : (s.setQueue p c q).hostB = s.hostB := rfl
@[simp] theorem State.setQueue_flt (s : State) (p c : Nat) (q : List Cell) : (s.setQueue p c q).flt = s.flt := rfl
@[simp] theorem State.setQueue_time (s : State) (p c : Nat) (q : List Cell) : (s.setQueue p c q).time = s.time := rfl
@[simp] theorem State.setQueue_tabs (s : State) (p c : Nat) (q : List Cell) : (s.setQueue p c q).tabs = s.tabs := rfl
@[simp] theorem State.setQueue_pairMode (s : State) (p c : Nat) (q : List Cell) : (s.setQueue p c q).pairMode = s.pairMode := rfl
@[simp] theorem State.setQueue_hedge (s : State) (p c : Nat) (q : List Cell) : (s.setQueue p c q).hedge = s.hedge := rfl
@[simp] theorem State.setQueue_egr (s : State) (p c : Nat) (q : List Cell) : (s.setQueue p c q).egr = s.egr := rfl
@[simp] theorem State.setQueue_links (s : State) (p c : Nat) (q : List Cell) : (s.setQueue p c q).links = s.links := rfl
@[simp] theorem State.setQueue_brace (s : State) (p c : Nat) (q : List Cell) : (s.setQueue p c q).brace = s.brace := rfl
@[simp] theorem State.setQueue_mem (s : State) (p c : Nat) (q : List Cell) : (s.setQueue p c q).mem = { s.mem with queues := kset s.mem.queues (p * 8 + c) (if q.isEmpty then none else some q) } := rfl
@[simp] theorem State.setQueue_streams (s : State) (p c : Nat) (q : List Cell) : (s.setQueue p c q).streams = s.streams := rfl
@[simp] theorem State.setQueue_pnHold (s : State) (p c : Nat) (q : List Cell) : (s.setQueue p c q).pnHold = s.pnHold := rfl
@[simp] theorem State.setQueue_gw (s : State) (p c : Nat) (q : List Cell) : (s.setQueue p c q).gw = s.gw := rfl
@[simp] theorem State.setQueue_dbg (s : State) (p c : Nat) (q : List Cell) : (s.setQueue p c q).dbg = s.dbg := rfl
@[simp] theorem State.setQueue_wake (s : State) (p c : Nat) (q : List Cell) : (s.setQueue p c q).wake = s.wake := rfl
@[simp] theorem State.setQueue_keys (s : State) (p c : Nat) (q : List Cell) : (s.setQueue p c q).keys = s.keys := rfl
@[simp] theorem State.setQueue_fab (s : State) (p c : Nat) (q : List Cell) : (s.setQueue p c q).fab = s.fab := rfl
@[simp] theorem State.setQueue_pair (s : State) (p c : Nat) (q : List Cell) : (s.setQueue p c q).pair = s.pair := rfl
@[simp] theorem State.setQueue_flash (s : State) (p c : Nat) (q : List Cell) : (s.setQueue p c q).flash = s.flash := rfl
@[simp] theorem State.setQueue_admJob (s : State) (p c : Nat) (q : List Cell) : (s.setQueue p c q).admJob = s.admJob := rfl
@[simp] theorem State.setQueue_pwr (s : State) (p c : Nat) (q : List Cell) : (s.setQueue p c q).pwr = s.pwr := rfl
@[simp] theorem State.setQueue_sup (s : State) (p c : Nat) (q : List Cell) : (s.setQueue p c q).sup = s.sup := rfl
@[simp] theorem State.setQueue_rst (s : State) (p c : Nat) (q : List Cell) : (s.setQueue p c q).rst = s.rst := rfl
@[simp] theorem State.setQueue_fn (s : State) (p c : Nat) (q : List Cell) : (s.setQueue p c q).fn = s.fn := rfl
@[simp] theorem State.setQueue_trn (s : State) (p c : Nat) (q : List Cell) : (s.setQueue p c q).trn = s.trn := rfl

@[simp] theorem State.modStream_pending (s : State) (h : Nat) (f : Stream → Stream) : (s.modStream h f).pending = s.pending := rfl
@[simp] theorem State.modStream_regs (s : State) (h : Nat) (f : Stream → Stream) : (s.modStream h f).regs = s.regs := rfl
@[simp] theorem State.modStream_ctrs (s : State) (h : Nat) (f : Stream → Stream) : (s.modStream h f).ctrs = s.ctrs := rfl
@[simp] theorem State.modStream_free (s : State) (h : Nat) (f : Stream → Stream) : (s.modStream h f).free = s.free := rfl
@[simp] theorem State.modStream_out (s : State) (h : Nat) (f : Stream → Stream) : (s.modStream h f).out = s.out := rfl
@[simp] theorem State.modStream_bus (s : State) (h : Nat) (f : Stream → Stream) : (s.modStream h f).bus = s.bus := rfl
@[simp] theorem State.modStream_hostA (s : State) (h : Nat) (f : Stream → Stream) : (s.modStream h f).hostA = s.hostA := rfl
@[simp] theorem State.modStream_hostB (s : State) (h : Nat) (f : Stream → Stream) : (s.modStream h f).hostB = s.hostB := rfl
@[simp] theorem State.modStream_flt (s : State) (h : Nat) (f : Stream → Stream) : (s.modStream h f).flt = s.flt := rfl
@[simp] theorem State.modStream_time (s : State) (h : Nat) (f : Stream → Stream) : (s.modStream h f).time = s.time := rfl
@[simp] theorem State.modStream_tabs (s : State) (h : Nat) (f : Stream → Stream) : (s.modStream h f).tabs = s.tabs := rfl
@[simp] theorem State.modStream_pairMode (s : State) (h : Nat) (f : Stream → Stream) : (s.modStream h f).pairMode = s.pairMode := rfl
@[simp] theorem State.modStream_hedge (s : State) (h : Nat) (f : Stream → Stream) : (s.modStream h f).hedge = s.hedge := rfl
@[simp] theorem State.modStream_egr (s : State) (h : Nat) (f : Stream → Stream) : (s.modStream h f).egr = s.egr := rfl
@[simp] theorem State.modStream_links (s : State) (h : Nat) (f : Stream → Stream) : (s.modStream h f).links = s.links := rfl
@[simp] theorem State.modStream_brace (s : State) (h : Nat) (f : Stream → Stream) : (s.modStream h f).brace = s.brace := rfl
@[simp] theorem State.modStream_mem (s : State) (h : Nat) (f : Stream → Stream) : (s.modStream h f).mem = s.mem := rfl
@[simp] theorem State.modStream_streams (s : State) (h : Nat) (f : Stream → Stream) : (s.modStream h f).streams = kmapAt s.streams h f := rfl
@[simp] theorem State.modStream_pnHold (s : State) (h : Nat) (f : Stream → Stream) : (s.modStream h f).pnHold = s.pnHold := rfl
@[simp] theorem State.modStream_gw (s : State) (h : Nat) (f : Stream → Stream) : (s.modStream h f).gw = s.gw := rfl
@[simp] theorem State.modStream_dbg (s : State) (h : Nat) (f : Stream → Stream) : (s.modStream h f).dbg = s.dbg := rfl
@[simp] theorem State.modStream_wake (s : State) (h : Nat) (f : Stream → Stream) : (s.modStream h f).wake = s.wake := rfl
@[simp] theorem State.modStream_keys (s : State) (h : Nat) (f : Stream → Stream) : (s.modStream h f).keys = s.keys := rfl
@[simp] theorem State.modStream_fab (s : State) (h : Nat) (f : Stream → Stream) : (s.modStream h f).fab = s.fab := rfl
@[simp] theorem State.modStream_pair (s : State) (h : Nat) (f : Stream → Stream) : (s.modStream h f).pair = s.pair := rfl
@[simp] theorem State.modStream_flash (s : State) (h : Nat) (f : Stream → Stream) : (s.modStream h f).flash = s.flash := rfl
@[simp] theorem State.modStream_admJob (s : State) (h : Nat) (f : Stream → Stream) : (s.modStream h f).admJob = s.admJob := rfl
@[simp] theorem State.modStream_pwr (s : State) (h : Nat) (f : Stream → Stream) : (s.modStream h f).pwr = s.pwr := rfl
@[simp] theorem State.modStream_sup (s : State) (h : Nat) (f : Stream → Stream) : (s.modStream h f).sup = s.sup := rfl
@[simp] theorem State.modStream_rst (s : State) (h : Nat) (f : Stream → Stream) : (s.modStream h f).rst = s.rst := rfl
@[simp] theorem State.modStream_fn (s : State) (h : Nat) (f : Stream → Stream) : (s.modStream h f).fn = s.fn := rfl
@[simp] theorem State.modStream_trn (s : State) (h : Nat) (f : Stream → Stream) : (s.modStream h f).trn = s.trn := rfl

@[simp] theorem State.modGw_pending (s : State) (f : GwSt → GwSt) : (s.modGw f).pending = s.pending := rfl
@[simp] theorem State.modGw_regs (s : State) (f : GwSt → GwSt) : (s.modGw f).regs = s.regs := rfl
@[simp] theorem State.modGw_ctrs (s : State) (f : GwSt → GwSt) : (s.modGw f).ctrs = s.ctrs := rfl
@[simp] theorem State.modGw_free (s : State) (f : GwSt → GwSt) : (s.modGw f).free = s.free := rfl
@[simp] theorem State.modGw_out (s : State) (f : GwSt → GwSt) : (s.modGw f).out = s.out := rfl
@[simp] theorem State.modGw_bus (s : State) (f : GwSt → GwSt) : (s.modGw f).bus = s.bus := rfl
@[simp] theorem State.modGw_hostA (s : State) (f : GwSt → GwSt) : (s.modGw f).hostA = s.hostA := rfl
@[simp] theorem State.modGw_hostB (s : State) (f : GwSt → GwSt) : (s.modGw f).hostB = s.hostB := rfl
@[simp] theorem State.modGw_flt (s : State) (f : GwSt → GwSt) : (s.modGw f).flt = s.flt := rfl
@[simp] theorem State.modGw_time (s : State) (f : GwSt → GwSt) : (s.modGw f).time = s.time := rfl
@[simp] theorem State.modGw_tabs (s : State) (f : GwSt → GwSt) : (s.modGw f).tabs = s.tabs := rfl
@[simp] theorem State.modGw_pairMode (s : State) (f : GwSt → GwSt) : (s.modGw f).pairMode = s.pairMode := rfl
@[simp] theorem State.modGw_hedge (s : State) (f : GwSt → GwSt) : (s.modGw f).hedge = s.hedge := rfl
@[simp] theorem State.modGw_egr (s : State) (f : GwSt → GwSt) : (s.modGw f).egr = s.egr := rfl
@[simp] theorem State.modGw_links (s : State) (f : GwSt → GwSt) : (s.modGw f).links = s.links := rfl
@[simp] theorem State.modGw_brace (s : State) (f : GwSt → GwSt) : (s.modGw f).brace = s.brace := rfl
@[simp] theorem State.modGw_mem (s : State) (f : GwSt → GwSt) : (s.modGw f).mem = s.mem := rfl
@[simp] theorem State.modGw_streams (s : State) (f : GwSt → GwSt) : (s.modGw f).streams = s.streams := rfl
@[simp] theorem State.modGw_pnHold (s : State) (f : GwSt → GwSt) : (s.modGw f).pnHold = s.pnHold := rfl
@[simp] theorem State.modGw_gw (s : State) (f : GwSt → GwSt) : (s.modGw f).gw = f s.gw := rfl
@[simp] theorem State.modGw_dbg (s : State) (f : GwSt → GwSt) : (s.modGw f).dbg = s.dbg := rfl
@[simp] theorem State.modGw_wake (s : State) (f : GwSt → GwSt) : (s.modGw f).wake = s.wake := rfl
@[simp] theorem State.modGw_keys (s : State) (f : GwSt → GwSt) : (s.modGw f).keys = s.keys := rfl
@[simp] theorem State.modGw_fab (s : State) (f : GwSt → GwSt) : (s.modGw f).fab = s.fab := rfl
@[simp] theorem State.modGw_pair (s : State) (f : GwSt → GwSt) : (s.modGw f).pair = s.pair := rfl
@[simp] theorem State.modGw_flash (s : State) (f : GwSt → GwSt) : (s.modGw f).flash = s.flash := rfl
@[simp] theorem State.modGw_admJob (s : State) (f : GwSt → GwSt) : (s.modGw f).admJob = s.admJob := rfl
@[simp] theorem State.modGw_pwr (s : State) (f : GwSt → GwSt) : (s.modGw f).pwr = s.pwr := rfl
@[simp] theorem State.modGw_sup (s : State) (f : GwSt → GwSt) : (s.modGw f).sup = s.sup := rfl
@[simp] theorem State.modGw_rst (s : State) (f : GwSt → GwSt) : (s.modGw f).rst = s.rst := rfl
@[simp] theorem State.modGw_fn (s : State) (f : GwSt → GwSt) : (s.modGw f).fn = s.fn := rfl
@[simp] theorem State.modGw_trn (s : State) (f : GwSt → GwSt) : (s.modGw f).trn = s.trn := rfl

@[simp] theorem State.modDbg_pending (s : State) (f : DbgSt → DbgSt) : (s.modDbg f).pending = s.pending := rfl
@[simp] theorem State.modDbg_regs (s : State) (f : DbgSt → DbgSt) : (s.modDbg f).regs = s.regs := rfl
@[simp] theorem State.modDbg_ctrs (s : State) (f : DbgSt → DbgSt) : (s.modDbg f).ctrs = s.ctrs := rfl
@[simp] theorem State.modDbg_free (s : State) (f : DbgSt → DbgSt) : (s.modDbg f).free = s.free := rfl
@[simp] theorem State.modDbg_out (s : State) (f : DbgSt → DbgSt) : (s.modDbg f).out = s.out := rfl
@[simp] theorem State.modDbg_bus (s : State) (f : DbgSt → DbgSt) : (s.modDbg f).bus = s.bus := rfl
@[simp] theorem State.modDbg_hostA (s : State) (f : DbgSt → DbgSt) : (s.modDbg f).hostA = s.hostA := rfl
@[simp] theorem State.modDbg_hostB (s : State) (f : DbgSt → DbgSt) : (s.modDbg f).hostB = s.hostB := rfl
@[simp] theorem State.modDbg_flt (s : State) (f : DbgSt → DbgSt) : (s.modDbg f).flt = s.flt := rfl
@[simp] theorem State.modDbg_time (s : State) (f : DbgSt → DbgSt) : (s.modDbg f).time = s.time := rfl
@[simp] theorem State.modDbg_tabs (s : State) (f : DbgSt → DbgSt) : (s.modDbg f).tabs = s.tabs := rfl
@[simp] theorem State.modDbg_pairMode (s : State) (f : DbgSt → DbgSt) : (s.modDbg f).pairMode = s.pairMode := rfl
@[simp] theorem State.modDbg_hedge (s : State) (f : DbgSt → DbgSt) : (s.modDbg f).hedge = s.hedge := rfl
@[simp] theorem State.modDbg_egr (s : State) (f : DbgSt → DbgSt) : (s.modDbg f).egr = s.egr := rfl
@[simp] theorem State.modDbg_links (s : State) (f : DbgSt → DbgSt) : (s.modDbg f).links = s.links := rfl
@[simp] theorem State.modDbg_brace (s : State) (f : DbgSt → DbgSt) : (s.modDbg f).brace = s.brace := rfl
@[simp] theorem State.modDbg_mem (s : State) (f : DbgSt → DbgSt) : (s.modDbg f).mem = s.mem := rfl
@[simp] theorem State.modDbg_streams (s : State) (f : DbgSt → DbgSt) : (s.modDbg f).streams = s.streams := rfl
@[simp] theorem State.modDbg_pnHold (s : State) (f : DbgSt → DbgSt) : (s.modDbg f).pnHold = s.pnHold := rfl
@[simp] theorem State.modDbg_gw (s : State) (f : DbgSt → DbgSt) : (s.modDbg f).gw = s.gw := rfl
@[simp] theorem State.modDbg_dbg (s : State) (f : DbgSt → DbgSt) : (s.modDbg f).dbg = f s.dbg := rfl
@[simp] theorem State.modDbg_wake (s : State) (f : DbgSt → DbgSt) : (s.modDbg f).wake = s.wake := rfl
@[simp] theorem State.modDbg_keys (s : State) (f : DbgSt → DbgSt) : (s.modDbg f).keys = s.keys := rfl
@[simp] theorem State.modDbg_fab (s : State) (f : DbgSt → DbgSt) : (s.modDbg f).fab = s.fab := rfl
@[simp] theorem State.modDbg_pair (s : State) (f : DbgSt → DbgSt) : (s.modDbg f).pair = s.pair := rfl
@[simp] theorem State.modDbg_flash (s : State) (f : DbgSt → DbgSt) : (s.modDbg f).flash = s.flash := rfl
@[simp] theorem State.modDbg_admJob (s : State) (f : DbgSt → DbgSt) : (s.modDbg f).admJob = s.admJob := rfl
@[simp] theorem State.modDbg_pwr (s : State) (f : DbgSt → DbgSt) : (s.modDbg f).pwr = s.pwr := rfl
@[simp] theorem State.modDbg_sup (s : State) (f : DbgSt → DbgSt) : (s.modDbg f).sup = s.sup := rfl
@[simp] theorem State.modDbg_rst (s : State) (f : DbgSt → DbgSt) : (s.modDbg f).rst = s.rst := rfl
@[simp] theorem State.modDbg_fn (s : State) (f : DbgSt → DbgSt) : (s.modDbg f).fn = s.fn := rfl
@[simp] theorem State.modDbg_trn (s : State) (f : DbgSt → DbgSt) : (s.modDbg f).trn = s.trn := rfl

@[simp] theorem State.modWake_pending (s : State) (f : WakeSt → WakeSt) : (s.modWake f).pending = s.pending := rfl
@[simp] theorem State.modWake_regs (s : State) (f : WakeSt → WakeSt) : (s.modWake f).regs = s.regs := rfl
@[simp] theorem State.modWake_ctrs (s : State) (f : WakeSt → WakeSt) : (s.modWake f).ctrs = s.ctrs := rfl
@[simp] theorem State.modWake_free (s : State) (f : WakeSt → WakeSt) : (s.modWake f).free = s.free := rfl
@[simp] theorem State.modWake_out (s : State) (f : WakeSt → WakeSt) : (s.modWake f).out = s.out := rfl
@[simp] theorem State.modWake_bus (s : State) (f : WakeSt → WakeSt) : (s.modWake f).bus = s.bus := rfl
@[simp] theorem State.modWake_hostA (s : State) (f : WakeSt → WakeSt) : (s.modWake f).hostA = s.hostA := rfl
@[simp] theorem State.modWake_hostB (s : State) (f : WakeSt → WakeSt) : (s.modWake f).hostB = s.hostB := rfl
@[simp] theorem State.modWake_flt (s : State) (f : WakeSt → WakeSt) : (s.modWake f).flt = s.flt := rfl
@[simp] theorem State.modWake_time (s : State) (f : WakeSt → WakeSt) : (s.modWake f).time = s.time := rfl
@[simp] theorem State.modWake_tabs (s : State) (f : WakeSt → WakeSt) : (s.modWake f).tabs = s.tabs := rfl
@[simp] theorem State.modWake_pairMode (s : State) (f : WakeSt → WakeSt) : (s.modWake f).pairMode = s.pairMode := rfl
@[simp] theorem State.modWake_hedge (s : State) (f : WakeSt → WakeSt) : (s.modWake f).hedge = s.hedge := rfl
@[simp] theorem State.modWake_egr (s : State) (f : WakeSt → WakeSt) : (s.modWake f).egr = s.egr := rfl
@[simp] theorem State.modWake_links (s : State) (f : WakeSt → WakeSt) : (s.modWake f).links = s.links := rfl
@[simp] theorem State.modWake_brace (s : State) (f : WakeSt → WakeSt) : (s.modWake f).brace = s.brace := rfl
@[simp] theorem State.modWake_mem (s : State) (f : WakeSt → WakeSt) : (s.modWake f).mem = s.mem := rfl
@[simp] theorem State.modWake_streams (s : State) (f : WakeSt → WakeSt) : (s.modWake f).streams = s.streams := rfl
@[simp] theorem State.modWake_pnHold (s : State) (f : WakeSt → WakeSt) : (s.modWake f).pnHold = s.pnHold := rfl
@[simp] theorem State.modWake_gw (s : State) (f : WakeSt → WakeSt) : (s.modWake f).gw = s.gw := rfl
@[simp] theorem State.modWake_dbg (s : State) (f : WakeSt → WakeSt) : (s.modWake f).dbg = s.dbg := rfl
@[simp] theorem State.modWake_wake (s : State) (f : WakeSt → WakeSt) : (s.modWake f).wake = f s.wake := rfl
@[simp] theorem State.modWake_keys (s : State) (f : WakeSt → WakeSt) : (s.modWake f).keys = s.keys := rfl
@[simp] theorem State.modWake_fab (s : State) (f : WakeSt → WakeSt) : (s.modWake f).fab = s.fab := rfl
@[simp] theorem State.modWake_pair (s : State) (f : WakeSt → WakeSt) : (s.modWake f).pair = s.pair := rfl
@[simp] theorem State.modWake_flash (s : State) (f : WakeSt → WakeSt) : (s.modWake f).flash = s.flash := rfl
@[simp] theorem State.modWake_admJob (s : State) (f : WakeSt → WakeSt) : (s.modWake f).admJob = s.admJob := rfl
@[simp] theorem State.modWake_pwr (s : State) (f : WakeSt → WakeSt) : (s.modWake f).pwr = s.pwr := rfl
@[simp] theorem State.modWake_sup (s : State) (f : WakeSt → WakeSt) : (s.modWake f).sup = s.sup := rfl
@[simp] theorem State.modWake_rst (s : State) (f : WakeSt → WakeSt) : (s.modWake f).rst = s.rst := rfl
@[simp] theorem State.modWake_fn (s : State) (f : WakeSt → WakeSt) : (s.modWake f).fn = s.fn := rfl
@[simp] theorem State.modWake_trn (s : State) (f : WakeSt → WakeSt) : (s.modWake f).trn = s.trn := rfl

@[simp] theorem State.setSlot_pending (s : State) (n : Nat) (x : Slot) : (s.setSlot n x).pending = s.pending := rfl
@[simp] theorem State.setSlot_regs (s : State) (n : Nat) (x : Slot) : (s.setSlot n x).regs = s.regs := rfl
@[simp] theorem State.setSlot_ctrs (s : State) (n : Nat) (x : Slot) : (s.setSlot n x).ctrs = s.ctrs := rfl
@[simp] theorem State.setSlot_free (s : State) (n : Nat) (x : Slot) : (s.setSlot n x).free = s.free := rfl
@[simp] theorem State.setSlot_out (s : State) (n : Nat) (x : Slot) : (s.setSlot n x).out = s.out := rfl
@[simp] theorem State.setSlot_bus (s : State) (n : Nat) (x : Slot) : (s.setSlot n x).bus = s.bus := rfl
@[simp] theorem State.setSlot_hostA (s : State) (n : Nat) (x : Slot) : (s.setSlot n x).hostA = s.hostA := rfl
@[simp] theorem State.setSlot_hostB (s : State) (n : Nat) (x : Slot) : (s.setSlot n x).hostB = s.hostB := rfl
@[simp] theorem State.setSlot_flt (s : State) (n : Nat) (x : Slot) : (s.setSlot n x).flt = s.flt := rfl
@[simp] theorem State.setSlot_time (s : State) (n : Nat) (x : Slot) : (s.setSlot n x).time = s.time := rfl
@[simp] theorem State.setSlot_tabs (s : State) (n : Nat) (x : Slot) : (s.setSlot n x).tabs = s.tabs := rfl
@[simp] theorem State.setSlot_pairMode (s : State) (n : Nat) (x : Slot) : (s.setSlot n x).pairMode = s.pairMode := rfl
@[simp] theorem State.setSlot_hedge (s : State) (n : Nat) (x : Slot) : (s.setSlot n x).hedge = s.hedge := rfl
@[simp] theorem State.setSlot_egr (s : State) (n : Nat) (x : Slot) : (s.setSlot n x).egr = s.egr := rfl
@[simp] theorem State.setSlot_links (s : State) (n : Nat) (x : Slot) : (s.setSlot n x).links = s.links := rfl
@[simp] theorem State.setSlot_brace (s : State) (n : Nat) (x : Slot) : (s.setSlot n x).brace = s.brace := rfl
@[simp] theorem State.setSlot_mem (s : State) (n : Nat) (x : Slot) : (s.setSlot n x).mem = s.mem := rfl
@[simp] theorem State.setSlot_streams (s : State) (n : Nat) (x : Slot) : (s.setSlot n x).streams = s.streams := rfl
@[simp] theorem State.setSlot_pnHold (s : State) (n : Nat) (x : Slot) : (s.setSlot n x).pnHold = s.pnHold := rfl
@[simp] theorem State.setSlot_gw (s : State) (n : Nat) (x : Slot) : (s.setSlot n x).gw = s.gw := rfl
@[simp] theorem State.setSlot_dbg (s : State) (n : Nat) (x : Slot) : (s.setSlot n x).dbg = s.dbg := rfl
@[simp] theorem State.setSlot_wake (s : State) (n : Nat) (x : Slot) : (s.setSlot n x).wake = s.wake := rfl
@[simp] theorem State.setSlot_keys (s : State) (n : Nat) (x : Slot) : (s.setSlot n x).keys = { s.keys with slots := kput s.keys.slots n x } := rfl
@[simp] theorem State.setSlot_fab (s : State) (n : Nat) (x : Slot) : (s.setSlot n x).fab = s.fab := rfl
@[simp] theorem State.setSlot_pair (s : State) (n : Nat) (x : Slot) : (s.setSlot n x).pair = s.pair := rfl
@[simp] theorem State.setSlot_flash (s : State) (n : Nat) (x : Slot) : (s.setSlot n x).flash = s.flash := rfl
@[simp] theorem State.setSlot_admJob (s : State) (n : Nat) (x : Slot) : (s.setSlot n x).admJob = s.admJob := rfl
@[simp] theorem State.setSlot_pwr (s : State) (n : Nat) (x : Slot) : (s.setSlot n x).pwr = s.pwr := rfl
@[simp] theorem State.setSlot_sup (s : State) (n : Nat) (x : Slot) : (s.setSlot n x).sup = s.sup := rfl
@[simp] theorem State.setSlot_rst (s : State) (n : Nat) (x : Slot) : (s.setSlot n x).rst = s.rst := rfl
@[simp] theorem State.setSlot_fn (s : State) (n : Nat) (x : Slot) : (s.setSlot n x).fn = s.fn := rfl
@[simp] theorem State.setSlot_trn (s : State) (n : Nat) (x : Slot) : (s.setSlot n x).trn = s.trn := rfl

@[simp] theorem State.setMsec_pending (s : State) (p : Nat) (x : Msec) : (s.setMsec p x).pending = s.pending := rfl
@[simp] theorem State.setMsec_regs (s : State) (p : Nat) (x : Msec) : (s.setMsec p x).regs = s.regs := rfl
@[simp] theorem State.setMsec_ctrs (s : State) (p : Nat) (x : Msec) : (s.setMsec p x).ctrs = s.ctrs := rfl
@[simp] theorem State.setMsec_free (s : State) (p : Nat) (x : Msec) : (s.setMsec p x).free = s.free := rfl
@[simp] theorem State.setMsec_out (s : State) (p : Nat) (x : Msec) : (s.setMsec p x).out = s.out := rfl
@[simp] theorem State.setMsec_bus (s : State) (p : Nat) (x : Msec) : (s.setMsec p x).bus = s.bus := rfl
@[simp] theorem State.setMsec_hostA (s : State) (p : Nat) (x : Msec) : (s.setMsec p x).hostA = s.hostA := rfl
@[simp] theorem State.setMsec_hostB (s : State) (p : Nat) (x : Msec) : (s.setMsec p x).hostB = s.hostB := rfl
@[simp] theorem State.setMsec_flt (s : State) (p : Nat) (x : Msec) : (s.setMsec p x).flt = s.flt := rfl
@[simp] theorem State.setMsec_time (s : State) (p : Nat) (x : Msec) : (s.setMsec p x).time = s.time := rfl
@[simp] theorem State.setMsec_tabs (s : State) (p : Nat) (x : Msec) : (s.setMsec p x).tabs = s.tabs := rfl
@[simp] theorem State.setMsec_pairMode (s : State) (p : Nat) (x : Msec) : (s.setMsec p x).pairMode = s.pairMode := rfl
@[simp] theorem State.setMsec_hedge (s : State) (p : Nat) (x : Msec) : (s.setMsec p x).hedge = s.hedge := rfl
@[simp] theorem State.setMsec_egr (s : State) (p : Nat) (x : Msec) : (s.setMsec p x).egr = s.egr := rfl
@[simp] theorem State.setMsec_links (s : State) (p : Nat) (x : Msec) : (s.setMsec p x).links = s.links := rfl
@[simp] theorem State.setMsec_brace (s : State) (p : Nat) (x : Msec) : (s.setMsec p x).brace = s.brace := rfl
@[simp] theorem State.setMsec_mem (s : State) (p : Nat) (x : Msec) : (s.setMsec p x).mem = s.mem := rfl
@[simp] theorem State.setMsec_streams (s : State) (p : Nat) (x : Msec) : (s.setMsec p x).streams = s.streams := rfl
@[simp] theorem State.setMsec_pnHold (s : State) (p : Nat) (x : Msec) : (s.setMsec p x).pnHold = s.pnHold := rfl
@[simp] theorem State.setMsec_gw (s : State) (p : Nat) (x : Msec) : (s.setMsec p x).gw = s.gw := rfl
@[simp] theorem State.setMsec_dbg (s : State) (p : Nat) (x : Msec) : (s.setMsec p x).dbg = s.dbg := rfl
@[simp] theorem State.setMsec_wake (s : State) (p : Nat) (x : Msec) : (s.setMsec p x).wake = s.wake := rfl
@[simp] theorem State.setMsec_keys (s : State) (p : Nat) (x : Msec) : (s.setMsec p x).keys = { s.keys with msec := kput s.keys.msec p x } := rfl
@[simp] theorem State.setMsec_fab (s : State) (p : Nat) (x : Msec) : (s.setMsec p x).fab = s.fab := rfl
@[simp] theorem State.setMsec_pair (s : State) (p : Nat) (x : Msec) : (s.setMsec p x).pair = s.pair := rfl
@[simp] theorem State.setMsec_flash (s : State) (p : Nat) (x : Msec) : (s.setMsec p x).flash = s.flash := rfl
@[simp] theorem State.setMsec_admJob (s : State) (p : Nat) (x : Msec) : (s.setMsec p x).admJob = s.admJob := rfl
@[simp] theorem State.setMsec_pwr (s : State) (p : Nat) (x : Msec) : (s.setMsec p x).pwr = s.pwr := rfl
@[simp] theorem State.setMsec_sup (s : State) (p : Nat) (x : Msec) : (s.setMsec p x).sup = s.sup := rfl
@[simp] theorem State.setMsec_rst (s : State) (p : Nat) (x : Msec) : (s.setMsec p x).rst = s.rst := rfl
@[simp] theorem State.setMsec_fn (s : State) (p : Nat) (x : Msec) : (s.setMsec p x).fn = s.fn := rfl
@[simp] theorem State.setMsec_trn (s : State) (p : Nat) (x : Msec) : (s.setMsec p x).trn = s.trn := rfl

@[simp] theorem State.modFab_pending (s : State) (f : FabSt → FabSt) : (s.modFab f).pending = s.pending := rfl
@[simp] theorem State.modFab_regs (s : State) (f : FabSt → FabSt) : (s.modFab f).regs = s.regs := rfl
@[simp] theorem State.modFab_ctrs (s : State) (f : FabSt → FabSt) : (s.modFab f).ctrs = s.ctrs := rfl
@[simp] theorem State.modFab_free (s : State) (f : FabSt → FabSt) : (s.modFab f).free = s.free := rfl
@[simp] theorem State.modFab_out (s : State) (f : FabSt → FabSt) : (s.modFab f).out = s.out := rfl
@[simp] theorem State.modFab_bus (s : State) (f : FabSt → FabSt) : (s.modFab f).bus = s.bus := rfl
@[simp] theorem State.modFab_hostA (s : State) (f : FabSt → FabSt) : (s.modFab f).hostA = s.hostA := rfl
@[simp] theorem State.modFab_hostB (s : State) (f : FabSt → FabSt) : (s.modFab f).hostB = s.hostB := rfl
@[simp] theorem State.modFab_flt (s : State) (f : FabSt → FabSt) : (s.modFab f).flt = s.flt := rfl
@[simp] theorem State.modFab_time (s : State) (f : FabSt → FabSt) : (s.modFab f).time = s.time := rfl
@[simp] theorem State.modFab_tabs (s : State) (f : FabSt → FabSt) : (s.modFab f).tabs = s.tabs := rfl
@[simp] theorem State.modFab_pairMode (s : State) (f : FabSt → FabSt) : (s.modFab f).pairMode = s.pairMode := rfl
@[simp] theorem State.modFab_hedge (s : State) (f : FabSt → FabSt) : (s.modFab f).hedge = s.hedge := rfl
@[simp] theorem State.modFab_egr (s : State) (f : FabSt → FabSt) : (s.modFab f).egr = s.egr := rfl
@[simp] theorem State.modFab_links (s : State) (f : FabSt → FabSt) : (s.modFab f).links = s.links := rfl
@[simp] theorem State.modFab_brace (s : State) (f : FabSt → FabSt) : (s.modFab f).brace = s.brace := rfl
@[simp] theorem State.modFab_mem (s : State) (f : FabSt → FabSt) : (s.modFab f).mem = s.mem := rfl
@[simp] theorem State.modFab_streams (s : State) (f : FabSt → FabSt) : (s.modFab f).streams = s.streams := rfl
@[simp] theorem State.modFab_pnHold (s : State) (f : FabSt → FabSt) : (s.modFab f).pnHold = s.pnHold := rfl
@[simp] theorem State.modFab_gw (s : State) (f : FabSt → FabSt) : (s.modFab f).gw = s.gw := rfl
@[simp] theorem State.modFab_dbg (s : State) (f : FabSt → FabSt) : (s.modFab f).dbg = s.dbg := rfl
@[simp] theorem State.modFab_wake (s : State) (f : FabSt → FabSt) : (s.modFab f).wake = s.wake := rfl
@[simp] theorem State.modFab_keys (s : State) (f : FabSt → FabSt) : (s.modFab f).keys = s.keys := rfl
@[simp] theorem State.modFab_fab (s : State) (f : FabSt → FabSt) : (s.modFab f).fab = f s.fab := rfl
@[simp] theorem State.modFab_pair (s : State) (f : FabSt → FabSt) : (s.modFab f).pair = s.pair := rfl
@[simp] theorem State.modFab_flash (s : State) (f : FabSt → FabSt) : (s.modFab f).flash = s.flash := rfl
@[simp] theorem State.modFab_admJob (s : State) (f : FabSt → FabSt) : (s.modFab f).admJob = s.admJob := rfl
@[simp] theorem State.modFab_pwr (s : State) (f : FabSt → FabSt) : (s.modFab f).pwr = s.pwr := rfl
@[simp] theorem State.modFab_sup (s : State) (f : FabSt → FabSt) : (s.modFab f).sup = s.sup := rfl
@[simp] theorem State.modFab_rst (s : State) (f : FabSt → FabSt) : (s.modFab f).rst = s.rst := rfl
@[simp] theorem State.modFab_fn (s : State) (f : FabSt → FabSt) : (s.modFab f).fn = s.fn := rfl
@[simp] theorem State.modFab_trn (s : State) (f : FabSt → FabSt) : (s.modFab f).trn = s.trn := rfl

@[simp] theorem State.modPair_pending (s : State) (f : PairSt → PairSt) : (s.modPair f).pending = s.pending := rfl
@[simp] theorem State.modPair_regs (s : State) (f : PairSt → PairSt) : (s.modPair f).regs = s.regs := rfl
@[simp] theorem State.modPair_ctrs (s : State) (f : PairSt → PairSt) : (s.modPair f).ctrs = s.ctrs := rfl
@[simp] theorem State.modPair_free (s : State) (f : PairSt → PairSt) : (s.modPair f).free = s.free := rfl
@[simp] theorem State.modPair_out (s : State) (f : PairSt → PairSt) : (s.modPair f).out = s.out := rfl
@[simp] theorem State.modPair_bus (s : State) (f : PairSt → PairSt) : (s.modPair f).bus = s.bus := rfl
@[simp] theorem State.modPair_hostA (s : State) (f : PairSt → PairSt) : (s.modPair f).hostA = s.hostA := rfl
@[simp] theorem State.modPair_hostB (s : State) (f : PairSt → PairSt) : (s.modPair f).hostB = s.hostB := rfl
@[simp] theorem State.modPair_flt (s : State) (f : PairSt → PairSt) : (s.modPair f).flt = s.flt := rfl
@[simp] theorem State.modPair_time (s : State) (f : PairSt → PairSt) : (s.modPair f).time = s.time := rfl
@[simp] theorem State.modPair_tabs (s : State) (f : PairSt → PairSt) : (s.modPair f).tabs = s.tabs := rfl
@[simp] theorem State.modPair_pairMode (s : State) (f : PairSt → PairSt) : (s.modPair f).pairMode = s.pairMode := rfl
@[simp] theorem State.modPair_hedge (s : State) (f : PairSt → PairSt) : (s.modPair f).hedge = s.hedge := rfl
@[simp] theorem State.modPair_egr (s : State) (f : PairSt → PairSt) : (s.modPair f).egr = s.egr := rfl
@[simp] theorem State.modPair_links (s : State) (f : PairSt → PairSt) : (s.modPair f).links = s.links := rfl
@[simp] theorem State.modPair_brace (s : State) (f : PairSt → PairSt) : (s.modPair f).brace = s.brace := rfl
@[simp] theorem State.modPair_mem (s : State) (f : PairSt → PairSt) : (s.modPair f).mem = s.mem := rfl
@[simp] theorem State.modPair_streams (s : State) (f : PairSt → PairSt) : (s.modPair f).streams = s.streams := rfl
@[simp] theorem State.modPair_pnHold (s : State) (f : PairSt → PairSt) : (s.modPair f).pnHold = s.pnHold := rfl
@[simp] theorem State.modPair_gw (s : State) (f : PairSt → PairSt) : (s.modPair f).gw = s.gw := rfl
@[simp] theorem State.modPair_dbg (s : State) (f : PairSt → PairSt) : (s.modPair f).dbg = s.dbg := rfl
@[simp] theorem State.modPair_wake (s : State) (f : PairSt → PairSt) : (s.modPair f).wake = s.wake := rfl
@[simp] theorem State.modPair_keys (s : State) (f : PairSt → PairSt) : (s.modPair f).keys = s.keys := rfl
@[simp] theorem State.modPair_fab (s : State) (f : PairSt → PairSt) : (s.modPair f).fab = s.fab := rfl
@[simp] theorem State.modPair_pair (s : State) (f : PairSt → PairSt) : (s.modPair f).pair = f s.pair := rfl
@[simp] theorem State.modPair_flash (s : State) (f : PairSt → PairSt) : (s.modPair f).flash = s.flash := rfl
@[simp] theorem State.modPair_admJob (s : State) (f : PairSt → PairSt) : (s.modPair f).admJob = s.admJob := rfl
@[simp] theorem State.modPair_pwr (s : State) (f : PairSt → PairSt) : (s.modPair f).pwr = s.pwr := rfl
@[simp] theorem State.modPair_sup (s : State) (f : PairSt → PairSt) : (s.modPair f).sup = s.sup := rfl
@[simp] theorem State.modPair_rst (s : State) (f : PairSt → PairSt) : (s.modPair f).rst = s.rst := rfl
@[simp] theorem State.modPair_fn (s : State) (f : PairSt → PairSt) : (s.modPair f).fn = s.fn := rfl
@[simp] theorem State.modPair_trn (s : State) (f : PairSt → PairSt) : (s.modPair f).trn = s.trn := rfl

@[simp] theorem State.modJob_pending (s : State) (f : AdmJob → AdmJob) : (s.modJob f).pending = s.pending := rfl
@[simp] theorem State.modJob_regs (s : State) (f : AdmJob → AdmJob) : (s.modJob f).regs = s.regs := rfl
@[simp] theorem State.modJob_ctrs (s : State) (f : AdmJob → AdmJob) : (s.modJob f).ctrs = s.ctrs := rfl
@[simp] theorem State.modJob_free (s : State) (f : AdmJob → AdmJob) : (s.modJob f).free = s.free := rfl
@[simp] theorem State.modJob_out (s : State) (f : AdmJob → AdmJob) : (s.modJob f).out = s.out := rfl
@[simp] theorem State.modJob_bus (s : State) (f : AdmJob → AdmJob) : (s.modJob f).bus = s.bus := rfl
@[simp] theorem State.modJob_hostA (s : State) (f : AdmJob → AdmJob) : (s.modJob f).hostA = s.hostA := rfl
@[simp] theorem State.modJob_hostB (s : State) (f : AdmJob → AdmJob) : (s.modJob f).hostB = s.hostB := rfl
@[simp] theorem State.modJob_flt (s : State) (f : AdmJob → AdmJob) : (s.modJob f).flt = s.flt := rfl
@[simp] theorem State.modJob_time (s : State) (f : AdmJob → AdmJob) : (s.modJob f).time = s.time := rfl
@[simp] theorem State.modJob_tabs (s : State) (f : AdmJob → AdmJob) : (s.modJob f).tabs = s.tabs := rfl
@[simp] theorem State.modJob_pairMode (s : State) (f : AdmJob → AdmJob) : (s.modJob f).pairMode = s.pairMode := rfl
@[simp] theorem State.modJob_hedge (s : State) (f : AdmJob → AdmJob) : (s.modJob f).hedge = s.hedge := rfl
@[simp] theorem State.modJob_egr (s : State) (f : AdmJob → AdmJob) : (s.modJob f).egr = s.egr := rfl
@[simp] theorem State.modJob_links (s : State) (f : AdmJob → AdmJob) : (s.modJob f).links = s.links := rfl
@[simp] theorem State.modJob_brace (s : State) (f : AdmJob → AdmJob) : (s.modJob f).brace = s.brace := rfl
@[simp] theorem State.modJob_mem (s : State) (f : AdmJob → AdmJob) : (s.modJob f).mem = s.mem := rfl
@[simp] theorem State.modJob_streams (s : State) (f : AdmJob → AdmJob) : (s.modJob f).streams = s.streams := rfl
@[simp] theorem State.modJob_pnHold (s : State) (f : AdmJob → AdmJob) : (s.modJob f).pnHold = s.pnHold := rfl
@[simp] theorem State.modJob_gw (s : State) (f : AdmJob → AdmJob) : (s.modJob f).gw = s.gw := rfl
@[simp] theorem State.modJob_dbg (s : State) (f : AdmJob → AdmJob) : (s.modJob f).dbg = s.dbg := rfl
@[simp] theorem State.modJob_wake (s : State) (f : AdmJob → AdmJob) : (s.modJob f).wake = s.wake := rfl
@[simp] theorem State.modJob_keys (s : State) (f : AdmJob → AdmJob) : (s.modJob f).keys = s.keys := rfl
@[simp] theorem State.modJob_fab (s : State) (f : AdmJob → AdmJob) : (s.modJob f).fab = s.fab := rfl
@[simp] theorem State.modJob_pair (s : State) (f : AdmJob → AdmJob) : (s.modJob f).pair = s.pair := rfl
@[simp] theorem State.modJob_flash (s : State) (f : AdmJob → AdmJob) : (s.modJob f).flash = s.flash := rfl
@[simp] theorem State.modJob_admJob (s : State) (f : AdmJob → AdmJob) : (s.modJob f).admJob = f s.admJob := rfl
@[simp] theorem State.modJob_pwr (s : State) (f : AdmJob → AdmJob) : (s.modJob f).pwr = s.pwr := rfl
@[simp] theorem State.modJob_sup (s : State) (f : AdmJob → AdmJob) : (s.modJob f).sup = s.sup := rfl
@[simp] theorem State.modJob_rst (s : State) (f : AdmJob → AdmJob) : (s.modJob f).rst = s.rst := rfl
@[simp] theorem State.modJob_fn (s : State) (f : AdmJob → AdmJob) : (s.modJob f).fn = s.fn := rfl
@[simp] theorem State.modJob_trn (s : State) (f : AdmJob → AdmJob) : (s.modJob f).trn = s.trn := rfl

@[simp] theorem State.modPwr_pending (s : State) (f : PwrSt → PwrSt) : (s.modPwr f).pending = s.pending := rfl
@[simp] theorem State.modPwr_regs (s : State) (f : PwrSt → PwrSt) : (s.modPwr f).regs = s.regs := rfl
@[simp] theorem State.modPwr_ctrs (s : State) (f : PwrSt → PwrSt) : (s.modPwr f).ctrs = s.ctrs := rfl
@[simp] theorem State.modPwr_free (s : State) (f : PwrSt → PwrSt) : (s.modPwr f).free = s.free := rfl
@[simp] theorem State.modPwr_out (s : State) (f : PwrSt → PwrSt) : (s.modPwr f).out = s.out := rfl
@[simp] theorem State.modPwr_bus (s : State) (f : PwrSt → PwrSt) : (s.modPwr f).bus = s.bus := rfl
@[simp] theorem State.modPwr_hostA (s : State) (f : PwrSt → PwrSt) : (s.modPwr f).hostA = s.hostA := rfl
@[simp] theorem State.modPwr_hostB (s : State) (f : PwrSt → PwrSt) : (s.modPwr f).hostB = s.hostB := rfl
@[simp] theorem State.modPwr_flt (s : State) (f : PwrSt → PwrSt) : (s.modPwr f).flt = s.flt := rfl
@[simp] theorem State.modPwr_time (s : State) (f : PwrSt → PwrSt) : (s.modPwr f).time = s.time := rfl
@[simp] theorem State.modPwr_tabs (s : State) (f : PwrSt → PwrSt) : (s.modPwr f).tabs = s.tabs := rfl
@[simp] theorem State.modPwr_pairMode (s : State) (f : PwrSt → PwrSt) : (s.modPwr f).pairMode = s.pairMode := rfl
@[simp] theorem State.modPwr_hedge (s : State) (f : PwrSt → PwrSt) : (s.modPwr f).hedge = s.hedge := rfl
@[simp] theorem State.modPwr_egr (s : State) (f : PwrSt → PwrSt) : (s.modPwr f).egr = s.egr := rfl
@[simp] theorem State.modPwr_links (s : State) (f : PwrSt → PwrSt) : (s.modPwr f).links = s.links := rfl
@[simp] theorem State.modPwr_brace (s : State) (f : PwrSt → PwrSt) : (s.modPwr f).brace = s.brace := rfl
@[simp] theorem State.modPwr_mem (s : State) (f : PwrSt → PwrSt) : (s.modPwr f).mem = s.mem := rfl
@[simp] theorem State.modPwr_streams (s : State) (f : PwrSt → PwrSt) : (s.modPwr f).streams = s.streams := rfl
@[simp] theorem State.modPwr_pnHold (s : State) (f : PwrSt → PwrSt) : (s.modPwr f).pnHold = s.pnHold := rfl
@[simp] theorem State.modPwr_gw (s : State) (f : PwrSt → PwrSt) : (s.modPwr f).gw = s.gw := rfl
@[simp] theorem State.modPwr_dbg (s : State) (f : PwrSt → PwrSt) : (s.modPwr f).dbg = s.dbg := rfl
@[simp] theorem State.modPwr_wake (s : State) (f : PwrSt → PwrSt) : (s.modPwr f).wake = s.wake := rfl
@[simp] theorem State.modPwr_keys (s : State) (f : PwrSt → PwrSt) : (s.modPwr f).keys = s.keys := rfl
@[simp] theorem State.modPwr_fab (s : State) (f : PwrSt → PwrSt) : (s.modPwr f).fab = s.fab := rfl
@[simp] theorem State.modPwr_pair (s : State) (f : PwrSt → PwrSt) : (s.modPwr f).pair = s.pair := rfl
@[simp] theorem State.modPwr_flash (s : State) (f : PwrSt → PwrSt) : (s.modPwr f).flash = s.flash := rfl
@[simp] theorem State.modPwr_admJob (s : State) (f : PwrSt → PwrSt) : (s.modPwr f).admJob = s.admJob := rfl
@[simp] theorem State.modPwr_pwr (s : State) (f : PwrSt → PwrSt) : (s.modPwr f).pwr = f s.pwr := rfl
@[simp] theorem State.modPwr_sup (s : State) (f : PwrSt → PwrSt) : (s.modPwr f).sup = s.sup := rfl
@[simp] theorem State.modPwr_rst (s : State) (f : PwrSt → PwrSt) : (s.modPwr f).rst = s.rst := rfl
@[simp] theorem State.modPwr_fn (s : State) (f : PwrSt → PwrSt) : (s.modPwr f).fn = s.fn := rfl
@[simp] theorem State.modPwr_trn (s : State) (f : PwrSt → PwrSt) : (s.modPwr f).trn = s.trn := rfl

@[simp] theorem State.modSup_pending (s : State) (f : SupSt → SupSt) : (s.modSup f).pending = s.pending := rfl
@[simp] theorem State.modSup_regs (s : State) (f : SupSt → SupSt) : (s.modSup f).regs = s.regs := rfl
@[simp] theorem State.modSup_ctrs (s : State) (f : SupSt → SupSt) : (s.modSup f).ctrs = s.ctrs := rfl
@[simp] theorem State.modSup_free (s : State) (f : SupSt → SupSt) : (s.modSup f).free = s.free := rfl
@[simp] theorem State.modSup_out (s : State) (f : SupSt → SupSt) : (s.modSup f).out = s.out := rfl
@[simp] theorem State.modSup_bus (s : State) (f : SupSt → SupSt) : (s.modSup f).bus = s.bus := rfl
@[simp] theorem State.modSup_hostA (s : State) (f : SupSt → SupSt) : (s.modSup f).hostA = s.hostA := rfl
@[simp] theorem State.modSup_hostB (s : State) (f : SupSt → SupSt) : (s.modSup f).hostB = s.hostB := rfl
@[simp] theorem State.modSup_flt (s : State) (f : SupSt → SupSt) : (s.modSup f).flt = s.flt := rfl
@[simp] theorem State.modSup_time (s : State) (f : SupSt → SupSt) : (s.modSup f).time = s.time := rfl
@[simp] theorem State.modSup_tabs (s : State) (f : SupSt → SupSt) : (s.modSup f).tabs = s.tabs := rfl
@[simp] theorem State.modSup_pairMode (s : State) (f : SupSt → SupSt) : (s.modSup f).pairMode = s.pairMode := rfl
@[simp] theorem State.modSup_hedge (s : State) (f : SupSt → SupSt) : (s.modSup f).hedge = s.hedge := rfl
@[simp] theorem State.modSup_egr (s : State) (f : SupSt → SupSt) : (s.modSup f).egr = s.egr := rfl
@[simp] theorem State.modSup_links (s : State) (f : SupSt → SupSt) : (s.modSup f).links = s.links := rfl
@[simp] theorem State.modSup_brace (s : State) (f : SupSt → SupSt) : (s.modSup f).brace = s.brace := rfl
@[simp] theorem State.modSup_mem (s : State) (f : SupSt → SupSt) : (s.modSup f).mem = s.mem := rfl
@[simp] theorem State.modSup_streams (s : State) (f : SupSt → SupSt) : (s.modSup f).streams = s.streams := rfl
@[simp] theorem State.modSup_pnHold (s : State) (f : SupSt → SupSt) : (s.modSup f).pnHold = s.pnHold := rfl
@[simp] theorem State.modSup_gw (s : State) (f : SupSt → SupSt) : (s.modSup f).gw = s.gw := rfl
@[simp] theorem State.modSup_dbg (s : State) (f : SupSt → SupSt) : (s.modSup f).dbg = s.dbg := rfl
@[simp] theorem State.modSup_wake (s : State) (f : SupSt → SupSt) : (s.modSup f).wake = s.wake := rfl
@[simp] theorem State.modSup_keys (s : State) (f : SupSt → SupSt) : (s.modSup f).keys = s.keys := rfl
@[simp] theorem State.modSup_fab (s : State) (f : SupSt → SupSt) : (s.modSup f).fab = s.fab := rfl
@[simp] theorem State.modSup_pair (s : State) (f : SupSt → SupSt) : (s.modSup f).pair = s.pair := rfl
@[simp] theorem State.modSup_flash (s : State) (f : SupSt → SupSt) : (s.modSup f).flash = s.flash := rfl
@[simp] theorem State.modSup_admJob (s : State) (f : SupSt → SupSt) : (s.modSup f).admJob = s.admJob := rfl
@[simp] theorem State.modSup_pwr (s : State) (f : SupSt → SupSt) : (s.modSup f).pwr = s.pwr := rfl
@[simp] theorem State.modSup_sup (s : State) (f : SupSt → SupSt) : (s.modSup f).sup = f s.sup := rfl
@[simp] theorem State.modSup_rst (s : State) (f : SupSt → SupSt) : (s.modSup f).rst = s.rst := rfl
@[simp] theorem State.modSup_fn (s : State) (f : SupSt → SupSt) : (s.modSup f).fn = s.fn := rfl
@[simp] theorem State.modSup_trn (s : State) (f : SupSt → SupSt) : (s.modSup f).trn = s.trn := rfl

@[simp] theorem State.modTrn_pending (s : State) (f : TrnSt → TrnSt) : (s.modTrn f).pending = s.pending := rfl
@[simp] theorem State.modTrn_regs (s : State) (f : TrnSt → TrnSt) : (s.modTrn f).regs = s.regs := rfl
@[simp] theorem State.modTrn_ctrs (s : State) (f : TrnSt → TrnSt) : (s.modTrn f).ctrs = s.ctrs := rfl
@[simp] theorem State.modTrn_free (s : State) (f : TrnSt → TrnSt) : (s.modTrn f).free = s.free := rfl
@[simp] theorem State.modTrn_out (s : State) (f : TrnSt → TrnSt) : (s.modTrn f).out = s.out := rfl
@[simp] theorem State.modTrn_bus (s : State) (f : TrnSt → TrnSt) : (s.modTrn f).bus = s.bus := rfl
@[simp] theorem State.modTrn_hostA (s : State) (f : TrnSt → TrnSt) : (s.modTrn f).hostA = s.hostA := rfl
@[simp] theorem State.modTrn_hostB (s : State) (f : TrnSt → TrnSt) : (s.modTrn f).hostB = s.hostB := rfl
@[simp] theorem State.modTrn_flt (s : State) (f : TrnSt → TrnSt) : (s.modTrn f).flt = s.flt := rfl
@[simp] theorem State.modTrn_time (s : State) (f : TrnSt → TrnSt) : (s.modTrn f).time = s.time := rfl
@[simp] theorem State.modTrn_tabs (s : State) (f : TrnSt → TrnSt) : (s.modTrn f).tabs = s.tabs := rfl
@[simp] theorem State.modTrn_pairMode (s : State) (f : TrnSt → TrnSt) : (s.modTrn f).pairMode = s.pairMode := rfl
@[simp] theorem State.modTrn_hedge (s : State) (f : TrnSt → TrnSt) : (s.modTrn f).hedge = s.hedge := rfl
@[simp] theorem State.modTrn_egr (s : State) (f : TrnSt → TrnSt) : (s.modTrn f).egr = s.egr := rfl
@[simp] theorem State.modTrn_links (s : State) (f : TrnSt → TrnSt) : (s.modTrn f).links = s.links := rfl
@[simp] theorem State.modTrn_brace (s : State) (f : TrnSt → TrnSt) : (s.modTrn f).brace = s.brace := rfl
@[simp] theorem State.modTrn_mem (s : State) (f : TrnSt → TrnSt) : (s.modTrn f).mem = s.mem := rfl
@[simp] theorem State.modTrn_streams (s : State) (f : TrnSt → TrnSt) : (s.modTrn f).streams = s.streams := rfl
@[simp] theorem State.modTrn_pnHold (s : State) (f : TrnSt → TrnSt) : (s.modTrn f).pnHold = s.pnHold := rfl
@[simp] theorem State.modTrn_gw (s : State) (f : TrnSt → TrnSt) : (s.modTrn f).gw = s.gw := rfl
@[simp] theorem State.modTrn_dbg (s : State) (f : TrnSt → TrnSt) : (s.modTrn f).dbg = s.dbg := rfl
@[simp] theorem State.modTrn_wake (s : State) (f : TrnSt → TrnSt) : (s.modTrn f).wake = s.wake := rfl
@[simp] theorem State.modTrn_keys (s : State) (f : TrnSt → TrnSt) : (s.modTrn f).keys = s.keys := rfl
@[simp] theorem State.modTrn_fab (s : State) (f : TrnSt → TrnSt) : (s.modTrn f).fab = s.fab := rfl
@[simp] theorem State.modTrn_pair (s : State) (f : TrnSt → TrnSt) : (s.modTrn f).pair = s.pair := rfl
@[simp] theorem State.modTrn_flash (s : State) (f : TrnSt → TrnSt) : (s.modTrn f).flash = s.flash := rfl
@[simp] theorem State.modTrn_admJob (s : State) (f : TrnSt → TrnSt) : (s.modTrn f).admJob = s.admJob := rfl
@[simp] theorem State.modTrn_pwr (s : State) (f : TrnSt → TrnSt) : (s.modTrn f).pwr = s.pwr := rfl
@[simp] theorem State.modTrn_sup (s : State) (f : TrnSt → TrnSt) : (s.modTrn f).sup = s.sup := rfl
@[simp] theorem State.modTrn_rst (s : State) (f : TrnSt → TrnSt) : (s.modTrn f).rst = s.rst := rfl
@[simp] theorem State.modTrn_fn (s : State) (f : TrnSt → TrnSt) : (s.modTrn f).fn = s.fn := rfl
@[simp] theorem State.modTrn_trn (s : State) (f : TrnSt → TrnSt) : (s.modTrn f).trn = f s.trn := rfl

end Sys2Proof.Machine
end

