-- ==== Sys2Proof/WellFormed.lean ====
section
/-! DEFINITION. Which commands a sender of the spec can form: the widths of the operands, and the ports and lengths that the rules give. The
meanings do not rest on it: a value that is too wide is cut where a register or a field takes it. -/

namespace Sys2Proof

/-- A value of a 32-bit word. -/
def wordOk (v : Nat) : Bool := decide (v < 2 ^ 32)

/-- The byte enables of a read (R34): of one word; of a PCIe read, four for each of up to 1024 words, lowest address first. -/
def enablesOk (src : Src) (be : Nat) : Bool :=
  match src with
  | .ha | .hb => decide (be < 2 ^ 4096)
  | .spi | .fw => decide (be < 16)

/-- A stream handle (R306). -/
def handleOk (h : Nat) : Bool := decide (h < 0xFFFF)

/-- A fabric address (R460). -/
def addrOk (a : Nat) : Bool := decide (a < 256)

/-- An identity (R458). -/
def uidOk (u : Nat) : Bool := decide (u < 2 ^ 64)

/-- An Ethernet port: P0 to P39 and PL (R1). -/
def isEther (p : Port) : Bool := decide (p.val ≤ 39) || decide (p.val = 75)

/-- A legacy port: P40 to P71 (R1). -/
def legacyPort (p : Port) : Bool := decide (40 ≤ p.val) && decide (p.val ≤ 71)

/-- A port that can be a fabric port (R452). -/
def fabricIn (p : Port) : Bool := decide (p.val ≤ 7) || decide (p.val = 75)

/-- A port whose link trains: the serdes ports and the T1 ports. -/
def trainable (p : Port) : Bool := decide (p.val ≤ 31) || decide (p.val = 75)

/-- A line rate of a port in kb/s (R1). -/
def rateOk (p : Port) (rate : Nat) : Bool :=
  if 16 ≤ p.val && p.val ≤ 31 then decide (rate = 1000000) || decide (rate = 100000)
  else decide (1 ≤ rate) && decide (rate ≤ (if p.val ≤ 7 then 25000000 else 10000000))

/-- Counts of SPI bytes that are a whole frame (R80 to R82). (DEDUCED, log entry 96) -/
def spiCountOk (n : Nat) : Bool := decide (n = 2) || decide (n = 9) || decide (n = 11)

/-- A read or write through a window of 64 MiB: at most 4096 bytes (R476). -/
def windowOk (off : Nat) (cover : List Bool) : Bool := decide (off < 2 ^ 26) && decide (1 ≤ cover.length) && decide (cover.length ≤ 4096)

/-- A command entry (R103). -/
def CmdCtx.wf (c : CmdCtx) : Bool :=
  decide (c.tag < 2 ^ 16) && decide (c.rlen ≤ 65536) && decide (c.raddr < 2 ^ 64) && decide (c.par.length ≤ 4096) &&
  (match c.who with
   | .host _ qs => decide (qs < 64)
   | .firmware => true)

/-- What a job brings from memory: a context of 192 bytes at most, and key material of 96 (R442, R446). -/
def JobData.wf (d : JobData) : Bool := decide (d.src.length < 2 ^ 32) && decide (d.ctx.length ≤ 4096) && decide (d.key.length ≤ 4096)

/-- A memory error. -/
def EccHit.wf (e : EccHit) : Bool := decide (e.mem < 5) && decide (e.index < 2 ^ 17)

/-- A received PDU (R382): its kind and as many data bytes as CAN XL can carry. -/
def pduOk (u : LegPdu) : Bool := decide (1 ≤ u.kind) && decide (u.kind ≤ 5) && decide (u.data.length ≤ 2048) && decide (u.id < 2 ^ 29)

/-- A path of at most 15 further hops (R343). -/
def PathRec.wf (r : PathRec) : Bool := decide (r.first < 76) && decide (r.hops.length ≤ 15) && r.hops.all (fun e => addrOk e.1 && decide (e.2 < 76))

/-- The messages of DFP (R457). -/
def Hello.wf (h : Hello) : Bool := uidOk h.uid && addrOk h.addr && decide (h.port < 76) && wordOk h.gen && uidOk h.peer
def LinkState.wf (l : LinkState) : Bool := uidOk l.uid && addrOk l.addr && l.links.all (fun k => decide (k.port < 76) && decide (k.nbrPort < 76) && uidOk k.nbr)
def Gossip.wf (g : Gossip) : Bool := addrOk g.addr && decide (g.liveOk < 65536) && wordOk g.gen && decide (g.root.length = 48)
def CoordMsg.wf (m : CoordMsg) : Bool := uidOk m.coord && addrOk m.coordAddr && uidOk m.succ && addrOk m.succAddr && decide (m.devices ≤ 256)
def AdmMsg.wf (m : AdmMsg) : Bool :=
  match m with
  | .request contract _ path r hop _ _ _ => decide (contract.length = 64) && decide (path < 2) && r.wf && decide (hop ≤ 16)
  | .verdict h path v dev port _ _ _ _ => handleOk h && decide (path < 2) && decide (v < 256) && addrOk dev && decide (port < 76)
  | .commit h path e n => handleOk h && decide (path < 2) && decide (e < 4) && decide (n < 2 ^ 14)
  | .ack h path dev _ => handleOk h && decide (path < 2) && addrOk dev
  | .withdraw h path => handleOk h && decide (path < 2)
def PathsMsg.wf (m : PathsMsg) : Bool :=
  match m with
  | .request i contract => addrOk i && decide (contract.length = 64)
  | .records h path paths => handleOk h && path.all (fun i => decide (i < 2)) && paths.all PathRec.wf
  | .report i contract paths _ _ _ => addrOk i && decide (contract.length = 64) && paths.all PathRec.wf
  | .copy i contract paths _ _ _ _ => addrOk i && decide (contract.length = 64) && paths.all PathRec.wf
  | .copyAck h => handleOk h
  | .states h _ _ _ => handleOk h
  | .collect i => addrOk i
  | .clash h => handleOk h
def DigestMsg.wf (m : DigestMsg) : Bool :=
  match m with
  | .query asker => addrOk asker
  | .reply b => decide (b.length = 824)
def ResetMsg.wf (m : ResetMsg) : Bool :=
  match m with
  | .request asker => addrOk asker
  | .answer _ => true
def SleepMsg.wf (m : SleepMsg) : Bool := decide (m.kind < 3) && addrOk m.addr && decide (m.clusters < 65536) && decide (m.part < 65536) && decide (m.cause < 3)
def TrnReq.wf (r : TrnReq) : Bool :=
  addrOk r.src && decide (r.host < 2) && decide (r.tag < 65536) && r.prev.all (fun t => decide (t < 65536)) && decide (r.window < 16) && decide (r.width < 3) && decide (1 ≤ r.cover.length) &&
  decide (r.cover.length ≤ 256) && (!r.write || decide (r.data.length = r.cover.length))
def TrnMsg.wf (m : TrnMsg) : Bool :=
  match m with
  | .request r => r.wf
  | .answer host tag cause _ => decide (host < 2) && decide (tag < 65536) && decide (cause < 16)
  | .lock src host bus | .unlock src host bus => addrOk src && decide (host < 2) && decide (bus < 5)
  | .granted dev host bus | .retry dev host bus | .broken dev host bus => addrOk dev && decide (host < 2) && decide (bus < 5)
  | .sideband src entry value => addrOk src && decide (entry < 16) && wordOk value

/-- A frame stands on its medium for at most 200 ms: the longest is a LIN frame at 1 kbit/s. -/
def Span.wf (w : Span) : Bool := decide (w.ago ≤ 200000000)

/-- A heartbeat: a role and a mode of R365, an identity (R363). -/
def Heartbeat.wf (h : Heartbeat) : Bool := decide (h.role ≤ 6) && decide (h.mode < 3) && uidOk h.uid && decide (h.seq < 2 ^ 14)

/-- A checkpoint: at most 64 KiB, in full at most 192 KiB (R366, R554). -/
def Ckpt.wf (k : Ckpt) : Bool := decide (k.size ≤ (if k.full then 196608 else 65536)) && decide (k.seq < 2 ^ 14)

/-- A write of a core (R493). -/
def BusWrite.wf (w : BusWrite) : Bool := wordOk w.addr && wordOk w.data && decide (w.be < 16)

/-- Is a command one that its sender can form? -/
def Instr.wf : Instr → Bool
  | .ethernetFrameReceived p frame _ w => isEther p && decide (frame.length ≤ 16384) && w.wf
  | .legacyPduReceived p _ u w => legacyPort p && pduOk u && w.wf
  | .pipelineFrame _ ecc => ecc.all EccHit.wf
  | .learnRequest _ => true
  | .recoveryCopy => true
  | .skewTick => true
  | .batchAdd => true
  | .batchTick => true
  | .egressSelect _ ecc => ecc.all EccHit.wf
  | .frameDepart _ => true
  | .svFrameTake ecc servo => ecc.all EccHit.wf && servo.all (fun x => decide (x.1 < 2))
  | .hostRxDeliver _ entry => decide (entry.length = 32)
  | .eventWrite _ _ => true
  | .msixTimeFire _ v => decide (v < 64)
  | .doorbellPollTimer _ => true
  | .doorbellSlotRead _ slot page => decide (slot < 64) && decide (page.length = 64)
  | .doorbellReread _ slot => decide (slot < 64)
  | .txqDescriptor _ qs desc data => decide (qs < 64) && decide (desc.length = 32) && decide (data.length < 2 ^ 16)
  | .cmdqFetch _ qs entry par => decide (qs < 64) && decide (entry.length = 32) && par.all (fun b => decide (b.length ≤ 4096))
  | .dmaError _ qs r cause => qs.all (fun q => decide (q < 64)) && decide (r < 4) && decide (cause < 3)
  | .hostWakeHint _ value => wordOk value
  | .ringEnable _ qs r value => decide (qs < 64) && decide (r < 4) && wordOk value
  | .ringStop _ qs r value => decide (qs < 64) && decide (r < 4) && wordOk value
  | .ringStoppingDone _ qs r => decide (qs < 64) && decide (r < 4)
  | .busMasterDisable _ => true
  | .hostFlr _ => true
  | .pcieLinkDown _ => true
  | .pcieLinkUp _ gen lanes _ => decide (1 ≤ gen) && decide (gen ≤ 4) && decide (lanes = 1 || lanes = 2 || lanes = 4)
  | .spiWriteFrame frame => decide (frame.length = 9)
  | .spiReadFrame frame => decide (frame.length = 6)
  | .spiStatusFrame => true
  | .spiFrameError count => !spiCountOk count
  | .registerWrite _ addr data be => wordOk addr && wordOk data && decide (be < 16)
  | .unmappedRead src addr be _ => wordOk addr && enablesOk src be
  | .counterLowRead src addr be _ => wordOk addr && enablesOk src be
  | .timeInLastNsRead _ _ => true
  | .fwdEnSet _ => true
  | .hostFailsafeWrst => true
  | .hostFailsafeFence => true
  | .bufBdSnapshot _ value => wordOk value
  | .bufDbgRelease _ value => wordOk value
  | .bufSillWrite _ _ value => wordOk value
  | .maxLenWrite _ _ value => wordOk value
  | .domainNumberWrite _ _ value => wordOk value
  | .canBitTimingWrite _ _ _ value => wordOk value
  | .flexrayConfigWrite _ _ value => wordOk value
  | .macsecEnableWrite _ _ value => wordOk value
  | .timeSnapTake _ => true
  | .egrHistSnapshot _ value => wordOk value
  | .pathSnapshot _ value => wordOk value
  | .keySlotSnapshot _ value => wordOk value
  | .fltHistSnapshot _ value => wordOk value
  | .fltAck _ value => wordOk value
  | .fltFirstClear _ value => wordOk value
  | .supRestart _ value => wordOk value
  | .cryLockTake _ => true
  | .cryLockRelease _ => true
  | .transomLock _ _ mask => decide (mask < 32)
  | .transomUnlock _ _ => true
  | .transomRead _ off cover rd _ => windowOk off cover && decide (rd.length ≤ cover.length)
  | .transomWrite _ off cover data _ => windowOk off cover && decide (data.length = cover.length)
  | .transomAnswer p dst host tag cause _ => fabricIn p && addrOk dst && decide (host < 2) && decide (tag < 65536) && decide (cause < 16)
  | .transomRetransmit _ => true
  | .transomReadTimeout _ tag => decide (tag < 65536)
  | .transomFarRequest p dst r _ _ => fabricIn p && addrOk dst && r.wf
  | .transomLockRequest p dst m => fabricIn p && addrOk dst && m.wf
  | .transomLockBackoff _ => true
  | .transomLockExpiry _ => true
  | .sidebandPoll _ value => wordOk value
  | .tblSearch c => c.wf
  | .tblNext c => c.wf
  | .tblInsert c => c.wf
  | .tblDelete c => c.wf
  | .tblFlushPort c => c.wf
  | .tblRehash c => c.wf
  | .tblPin c => c.wf
  | .rehashCheckDone _ => true
  | .rehashCopyDone _ => true
  | .rakeVisit _ _ => true
  | .moveIntervalEnd _ => true
  | .hedgeStage c => c.wf
  | .hedgeFlip c => c.wf
  | .hedgeShadowCopyDone _ => true
  | .hedgeRead c => c.wf
  | .hedgePinholeList c => c.wf
  | .hedgePinholeClose c => c.wf
  | .hedgePinholeCloseAll c => c.wf
  | .hedgePinholeOpen c => c.wf
  | .pinholeSweep hit => hit.all (fun i => decide (i < 65536))
  | .timeStep c => c.wf
  | .timeRate c => c.wf
  | .timePulseArm c => c.wf
  | .timeEffectTick _ => true
  | .timeAdjEnd _ => true
  | .pulseLeadingEdge _ => true
  | .pulseTrailingEdge _ => true
  | .timeInCapture _ _ _ _ => true
  | .timeCaptureEvent _ => true
  | .shutterStage c => c.wf
  | .shutterFlip c => c.wf
  | .shutterFlipTime _ => true
  | .shutterShadowCopyDone _ => true
  | .shutterRead c => c.wf
  | .gateEntryChange _ => true
  | .preemptVerifyResult _ _ => true
  | .pfcReceived _ enable quanta => decide (enable < 256) && decide (quanta.length = 8) && quanta.all (fun x => decide (x < 65536))
  | .pfcPauseExpiry _ _ => true
  | .pfcPauseStuck _ _ => true
  | .pfcRefresh _ => true
  | .energyEmpty => true
  | .thermalSensorRead q0 q1 q2 q3 centre => [q0, q1, q2, q3, centre].all (fun x => decide (x < 65536))
  | .laneWakeTimer _ => true
  | .laneReady _ => true
  | .histogramSample => true
  | .admitRequest c => c.wf
  | .admitCommit c => c.wf
  | .admitWithdraw c => c.wf
  | .admitQuery c => c.wf
  | .admitImage c image => c.wf && image.all (fun b => decide (b.length < 2 ^ 32))
  | .admitMessage p m => fabricIn p && m.wf
  | .admitTimeout h => handleOk h
  | .rsvHoldExpiry h => handleOk h
  | .withdrawDrained h _ => handleOk h
  | .pathSet c => c.wf
  | .pairHandover c => c.wf
  | .handoverFence => true
  | .heartbeatSend => true
  | .heartbeatReceived hb => hb.wf
  | .peerLost => true
  | .fenceWaitExpiry => true
  | .fenceLineLow _ held => decide (held < 2 ^ 40)
  | .fenceLineHigh _ held => decide (held < 2 ^ 40)
  | .checkpointSend => true
  | .checkpointReceived ck _ => ck.wf
  | .takeoverRestoreDone => true
  | .busFenceElapsed => true
  | .gwStage c => c.wf
  | .gwFlip c => c.wf
  | .gwShadowCopyDone => true
  | .gwRead c => c.wf
  | .gwImageRead c => c.wf
  | .gwImageWrite c => c.wf
  | .gwImageSend c => c.wf
  | .gwBusSelectTable c => c.wf
  | .gwBusRecover c => c.wf
  | .gwBusSetMode c => c.wf
  | .gwBusPocCommand c => c.wf
  | .signalPeriodTrigger ix => decide (ix < 4096)
  | .signalDeferredSend ix => decide (ix < 4096)
  | .signalTimeoutTick => true
  | .canTxAttemptEnd _ _ w => w.wf
  | .busOffDelayExpiry _ => true
  | .busOffRecovered _ => true
  | .linSlotEnd _ _ w => w.wf
  | .flexraySlot slot _ w => decide (1 ≤ slot) && decide (slot ≤ 2047) && w.wf
  | .keyLoadBlob c _ => c.wf
  | .keyReplace c _ => c.wf
  | .keyVerifyCommit c => c.wf
  | .keyCommitRecordWritten n _ => decide (n < 256)
  | .keyDeriveKdf c _ => c.wf
  | .keyDeriveRandom c _ => c.wf
  | .keyExport c => c.wf
  | .cryptoGcmEncrypt c data => c.wf && data.all JobData.wf
  | .cryptoGcmDecrypt c data => c.wf && data.all JobData.wf
  | .cryptoCmacGenerate c data => c.wf && data.all JobData.wf
  | .cryptoCmacVerify c data => c.wf && data.all JobData.wf
  | .cryptoSha384 c data => c.wf && data.all JobData.wf
  | .cryptoEcdsaVerify c data => c.wf && data.all JobData.wf
  | .cryptoCmacFreshGenerate c data => c.wf && data.all JobData.wf
  | .cryptoCmacFreshVerify c data => c.wf && data.all JobData.wf
  | .macsecSaInstall c => c.wf
  | .macsecSaRemove c => c.wf
  | .macsecSaTxCommit c => c.wf
  | .macsecSaRead c => c.wf
  | .trngHealthFail _ => true
  | .cryLockIdleExpiry => true
  | .fabDigestQuery c => c.wf
  | .fabReset c => c.wf
  | .transomClearErr c => c.wf
  | .helloSend => true
  | .helloReceived p h => fabricIn p && h.wf
  | .helloMissExpiry _ => true
  | .fabricLinkDown p => fabricIn p
  | .linkStateSend => true
  | .linkStateReceived p l => fabricIn p && l.wf
  | .gossipSend => true
  | .gossipReceived p g => fabricIn p && g.wf
  | .coordSend => true
  | .coordReceived p m => fabricIn p && m.wf
  | .coordTimeout => true
  | .sizeModeSwitch => true
  | .pathsMessage p dst m => fabricIn p && addrOk dst && m.wf
  | .withdrawReceived p sender drainLimit => fabricIn p && addrOk sender && wordOk drainLimit
  | .digestMessage p src dst m => fabricIn p && addrOk src && addrOk dst && m.wf
  | .resetMessage p src dst m => fabricIn p && addrOk src && addrOk dst && m.wf
  | .imgBegin c => c.wf
  | .imgBlock c block => c.wf && block.all (fun b => decide (b.length = 4096))
  | .imgEnd c _ => c.wf
  | .imgActivate c => c.wf
  | .activationWatchdog => true
  | .firmwareFallback version => wordOk version
  | .trialConfirm => true
  | .supWindowClose a b c priv =>
    [a, b, c].all (fun l => decide (l.length ≤ 64) && l.all BusWrite.wf) && priv.all (fun e => decide (e.2.1 < 2 ^ 21) && decide (e.2.2 < 256))
  | .supLateCore _ => true
  | .supResyncDone => true
  | .supRestartDone _ _ _ => true
  | .graceExpiry _ _ => true
  | .portWakeDetect _ _ held => decide (held < 2 ^ 40)
  | .wakeInDetect _ _ held => decide (held < 2 ^ 40)
  | .portStateReached _ => true
  | .portStateForced _ => true
  | .wakeHoldTick => true
  | .netSleepVote c => c.wf
  | .sleepVoteSend => true
  | .sleepMessageReceived p m => fabricIn p && m.wf
  | .sleepSettleExpiry => true
  | .sleepCommitTime => true
  | .sleepStateRetry => true
  | .idleEntryTimer => true
  | .pwrRequestState c => c.wf
  | .stateEntryCommit => true
  | .exitTrigger _ => true
  | .islandRampDone => true
  | .stateExitDone straps => decide (straps < 2 ^ 16)
  | .railWarningEnter _ mv held => decide (mv < 65536) && decide (held < 2 ^ 40)
  | .railWarningExit _ mv => decide (mv < 65536)
  | .railResetLevel _ mv => decide (mv < 65536)
  | .clockLoss _ => true
  | .powerOnReset _ straps rails _ held => decide (held < 2 ^ 40) && decide (straps < 2 ^ 16) && decide (rails.length = 11) && rails.all (fun v => decide (v < 65536))
  | .poresetAssert held => decide (held < 2 ^ 40)
  | .wresetNAssert held => decide (held < 2 ^ 40)
  | .wresetNRelease held => decide (held < 2 ^ 40)
  | .warmReset c => c.wf
  | .drainEnd => true
  | .drainLimitExpiry => true
  | .fnQuiesceFlip c => c.wf
  | .fnQuiesceReset c _ => c.wf
  | .carvingFlipDrained => true
  | .fnResume c => c.wf
  | .cfgStore c image => c.wf && image.all (fun b => decide (b.length < 2 ^ 32))
  | .jtagInstructionLoad _ => true
  | .dbgChallengeRead => true
  | .dbgResponseLoad response => decide (response.length = 97)
  | .dbgVerifyDone => true
  | .dbgChallengeExpiry => true
  | .ethernetLinkUp p rate _ => trainable p && rateOk p rate
  | .ethernetLinkDown p => isEther p
  | .flexrayPocStateChange _ => true
  | .linHeaderReceived p _ baud => decide (64 ≤ p.val) && decide (p.val ≤ 69) && decide (0 < baud)
  | .tc10SleepRequest _ => true
  | .gptpTimerExpiry _ _ send _ => send.all (fun e => decide (60 ≤ e.2.length) && decide (e.2.length ≤ 1518))
  | .quotaDiscardIntervalEnd h => handleOk h
  | .sidebandNotifyReceived p dst src entry value => fabricIn p && addrOk dst && addrOk src && decide (entry < 16) && wordOk value
  | .fabRemoteCommandTimeout => true
  | .epochRecordWritten => true
  | .cfgStoreDone _ => true
  | .sealedHandoverDone => true
  | .activationPauseEnd => true
  | .imageSlotEraseDone _ => true
  | .shaperEligible _ => true
  | .tapReset => true

end Sys2Proof
end

