-- ==== Sys2Proof/Tests/Slice0.lean ====
section
/-! SUPPORT. Tests: commands that `Instr.wf` refuses, a few single steps, and for every statement values that meet its conditions, clause by clause. -/

open Sys2Proof Sys2Proof.Machine

namespace Sys2Proof.Tests

set_option Elab.async false

/-- The block in S0 with firmware running. -/
def tRun : State := ({} : State).setFld GLB_STATUS.SUP_RUN 1

/-- A command of firmware with its parameter bytes. -/
def tCmd (par : Bytes) : CmdCtx := { who := .firmware, tag := 1, rlen := 65536, raddr := 0, par := par }

/-- The same later, with the timekeeper running. -/
def tTime : State := { tRun with time := { running := true, lt := 1000000000000 } }

/-- A device of a fabric: it holds address 1, has a link on P0, and that port takes part. -/
def tFab : State := { (((tTime.setFld FAB_CFG.DFP_EN 1).setFld FAB_STATUS.ADDR 1).setFld FAB_STATUS.ADDR_VALID 1).setFld FAB_PORTS.BB 1 with
  links := [(0, { rate := 10000000 }), (16, { rate := 1000000 })] }

/-- Host HA with its link up and queue set 0 running, EVQ empty. -/
def tHost : State := ({ tTime with hostA := { linkUp := true, bme := true, rings := [(0, { state := .running }), (1, { state := .running, hostIdx := 4 }), (2, { state := .running }), (3, { state := .running })] } }
  ).setFld (HOST_CTRL.EN 0) 1

/-- Host HA with a command of its queue set 0 fetched, every group allowed. -/
def tAsked (opcode : Nat) (c : CmdCtx) : State :=
  (tHost.setReg (HOST_CMD_ALLOW 0) 0xFFFF).modHost 0 (fun x => { x with cmds := [{ seq := 0, qs := 0, opcode := opcode, ctx := c, fence := false }] })

/-- Zeros, but for the bytes named. -/
def tBytes (n : Nat) (l : List (Nat × Nat)) : Bytes := (List.range n).map (fun i => byte (kgetD l i 0))

/-- A contract of stream 5: TC5, one frame of 100 bytes every 100 µs from P16 to P17 of a device. -/
def tContract (dev : Nat) : Bytes :=
  tBytes 64 [(0, 5), (2, 5), (4, 100), (6, 1), (8, 0xA0), (9, 0x86), (10, 1), (16, 16), (18, 1), (32, dev), (33, 17)]

/-- A unit of a cold-frame pair in a role. -/
def tPair (role : Nat) : State := ({ tTime with pairMode := 1 } : State).setFld PAIR_STATUS.ROLE role

/-- A device whose slot 5 holds a key for a use, with the engine's lock and context. -/
def tJob (attr : Nat) (x : Option JobCtx) : State :=
  ({ tTime with keys := { slots := [(5, { attr := some attr, act := some { key := tBytes 16 [] } })], lock := some (.fw, 5), ctx := x } } : State).setFld
    KEY_STATUS.TRNG_OK 1

/-- Commands that no sender can form, one for each check of registers, frames, rings and windows: `Instr.wf` refuses them. -/
theorem test_wf_refuses_bus_and_host_commands :
    (([.ethernetFrameReceived 40 [] false {}, .ethernetFrameReceived 0 (List.replicate 16385 0) false {},
      .legacyPduReceived 39 false { kind := 1, flags := 0, id := 0, dlc := 0, data := [] },
      .legacyPduReceived 40 false { kind := 0, flags := 0, id := 0, dlc := 0, data := [] },
      .legacyPduReceived 40 false { kind := 6, flags := 0, id := 0, dlc := 0, data := [] },
      .legacyPduReceived 40 false { kind := 1, flags := 0, id := 2 ^ 29, dlc := 0, data := [] },
      .legacyPduReceived 40 false { kind := 1, flags := 0, id := 0, dlc := 0, data := List.replicate 2049 0 },
      .hostRxDeliver 0 [], .hostRxDeliver 0 (List.replicate 33 0), .msixTimeFire 0 64,
      .doorbellSlotRead 0 64 (List.replicate 64 0), .doorbellSlotRead 0 0 [], .doorbellReread 0 64,
      .txqDescriptor 0 64 (List.replicate 32 0) [], .txqDescriptor 0 0 [] [], .cmdqFetch 0 64 (List.replicate 32 0) none, .cmdqFetch 0 0 [] none,
      .cmdqFetch 0 0 (List.replicate 32 0) (some (List.replicate 4097 0)), .dmaError 0 (some 64) 0 0, .dmaError 0 none 4 0, .dmaError 0 none 0 3,
      .hostWakeHint 0 (2 ^ 32), .ringEnable 0 64 0 0, .ringEnable 0 0 4 0, .ringEnable 0 0 0 (2 ^ 32), .ringStop 0 64 0 0, .ringStoppingDone 0 0 4,
      .pcieLinkUp 0 0 1 false, .pcieLinkUp 0 5 1 false, .pcieLinkUp 0 1 3 false, .spiWriteFrame [1], .spiReadFrame [1], .spiFrameError 9,
      .registerWrite .fw (2 ^ 32) 0 15, .registerWrite .fw 0 (2 ^ 32) 15, .registerWrite .fw 0 0 16, .unmappedRead .fw (2 ^ 32) 0,
      .counterLowRead .fw 0 16, .transomLock .fw 0 32, .transomRead 0 (2 ^ 26) [true] [] false, .transomRead 0 0 [] [] false,
      .transomRead 0 0 [true] [0, 0] false, .transomWrite 0 0 [true] [] false] : List Instr).all (fun i => !i.wf)) = true := by
  decide +kernel

/-- The same for commands with a parameter block, messages of the fabric, images, supplies and debug. -/
theorem test_wf_refuses_commands_and_messages :
    (([.tblSearch { tCmd [] with tag := 2 ^ 16 }, .tblSearch { tCmd [] with rlen := 65537 }, .tblSearch { tCmd [] with raddr := 2 ^ 64 },
      .tblSearch { tCmd [] with who := .host 0 64 }, .tblSearch (tCmd (List.replicate 4097 0)), .pinholeSweep [65536],
      .pfcReceived 0 256 (List.replicate 8 0), .pfcReceived 0 0 [], .pfcReceived 0 0 (List.replicate 8 65536), .thermalSensorRead 65536 0 0 0 0,
      .admitMessage 8 (.withdraw 0 0), .admitMessage 0 (.withdraw 0xFFFF 0), .admitMessage 0 (.withdraw 0 2), .admitTimeout 0xFFFF,
      .heartbeatReceived { role := 7, mode := 1, uid := 0 }, .heartbeatReceived { role := 1, mode := 3, uid := 0 },
      .checkpointReceived { seq := 0, size := 65537 } 0, .checkpointReceived { seq := 2 ^ 14, size := 0 } 0, .signalPeriodTrigger 4096,
      .flexraySlot 0 0, .flexraySlot 2048 0, .keyCommitRecordWritten 256 true, .helloReceived 8 { uid := 0, addr := 0, addrValid := false, seat := false },
      .helloReceived 0 { uid := 2 ^ 64, addr := 0, addrValid := false, seat := false }, .fabricLinkDown 16,
      .gossipReceived 0 { addr := 1, liveOk := 0, gen := 0, root := [] }, .coordReceived 0 { coord := 0, coordAddr := 256 },
      .pathsMessage 0 256 (.collect 1), .pathsMessage 0 1 (.collect 256), .digestMessage 0 1 1 (.reply []), .resetMessage 0 256 1 (.answer true),
      .withdrawReceived 0 256 0, .sleepMessageReceived 0 { kind := 3, addr := 0, clusters := 0 }, .transomLockRequest 0 256 (.lock 1 0 0),
      .transomLockRequest 0 1 (.lock 1 0 5), .transomAnswer 0 1 2 0 0 [], .transomAnswer 0 1 0 65536 0 [], .transomAnswer 0 1 0 0 16 [],
      .sidebandNotifyReceived 0 1 1 16 0, .imgBlock (tCmd []) (some []), .firmwareFallback (2 ^ 32),
      .supWindowClose [⟨0, 0, 16⟩] [] [], .supWindowClose (List.replicate 65 ⟨0, 0, 15⟩) [] [], .stateExitDone (2 ^ 16), .railWarningEnter 0 65536 0,
      .powerOnReset false (2 ^ 16) [] false 0, .dbgResponseLoad [], .ethernetLinkUp 40 1000000 false, .ethernetLinkUp 16 10000000 false,
      .ethernetLinkDown 40, .linHeaderReceived 40 0 19200, .linHeaderReceived 64 0 0, .gptpTimerExpiry 0 0 [(0, [])] false] : List Instr).all
      (fun i => !i.wf)) = true := by
  decide +kernel

/-- Commands that can be formed are accepted, at the bounds of their operands. -/
theorem test_wf_accepts :
    (([.ethernetFrameReceived 75 [] false {}, .registerWrite .ha 0xFFFFFFFF 0xFFFFFFFF 15, .transomRead 0 0x3FFFFFF [true] [0] false,
      .hostRxDeliver 1 (List.replicate 32 255), .pcieLinkUp 0 4 4 true, .spiFrameError 5, .admitTimeout 0xFFFE,
      .ethernetLinkUp 16 100000 true, .flexraySlot 2047 63, .supWindowClose [⟨0x50000, 1, 15⟩] [] []] : List Instr).all Instr.wf) = true := by
  decide +kernel

/-- The CRC of the SPI frames is the one that R81 names: its check value over the bytes of "123456789" is 0xDF. -/
theorem test_spi_crc : spiCrc [0x31, 0x32, 0x33, 0x34, 0x35, 0x36, 0x37, 0x38, 0x39] = 0xDF := by decide +kernel

/-- The FCS over the same bytes is the check value 0xCBF43926 of IEEE 802.3, least significant byte first. -/
theorem test_fcs : fcsOf [0x31, 0x32, 0x33, 0x34, 0x35, 0x36, 0x37, 0x38, 0x39] = [0x26, 0x39, 0xF4, 0xCB] := by decide +kernel

/-- AES-256 on the example of FIPS 197, appendix C.3. -/
theorem test_aes :
    aes ((List.range 32).map byte) ((List.range 16).map (fun i => byte (17 * i))) =
      [0x8e, 0xa2, 0xb7, 0xca, 0x51, 0x67, 0x45, 0xbf, 0xea, 0xfc, 0x49, 0x90, 0x4b, 0x49, 0x60, 0x89] := by decide +kernel

/-- The next state of an outcome. -/
def tNext (o : Host.Outcome State Fault Refusal) : State :=
  match o with
  | .next t => t
  | _ => {}

/-- The TAP's reset loads IDCODE (R633). -/
theorem test_tap_reset : (tNext (exec .tapReset { tRun with dbg := { instr := 0x11 } })).dbg.instr = 0x02 := by rfl

/-- A tick of 2 ns: LT advances by 2 while the timekeeper runs (R226). -/
theorem test_idle_tick : (tNext (step tTime)).time.lt = 1000000000002 := by decide +kernel

/-- A leading edge drives the pin to its active level, low while `POL` is 1 (R252, R255). -/
theorem test_pulse_leading_edge :
    (tNext (exec (.pulseLeadingEdge 1) ({ tTime with time := { tTime.time with outs :=
      [(1, { prog := some { periodic := false, dom := 2, start := 1000000000000, period := 0, width := 10, count := 0, k := 0 } })] } }.setReg
        (TIME_OUT_CFG 1) 3))).out = [.pulse 1 (some false)] := by decide +kernel

/-- A frame of 63 bytes is short: it is not staged (R124). -/
theorem test_short_frame_is_not_staged : (tNext (exec (.ethernetFrameReceived 0 (tBytes 63 []) false {}) tFab)).mem.staging = [] := by decide +kernel

/-- A frame of 64 bytes with a right FCS is staged without its FCS (R123, R124). -/
theorem test_frame_is_staged :
    ((tNext (exec (.ethernetFrameReceived 0 (tBytes 60 [] ++ fcsOf (tBytes 60 [])) false {}) tFab)).stagingOf 0).map (·.bytes) = [tBytes 60 []] := by
  decide +kernel

/-- A command that answers a next state, and a step that does. -/
theorem test_witness_commands_and_steps :
    (State.Inv tRun ∧ ∃ t, step tRun = .next t) ∧ (∃ t, exec .tapReset tRun = .next t) ∧
    (let s : State := tRun
     s.pending = []) :=
  ⟨⟨by decide +kernel, _, rfl⟩, ⟨_, rfl⟩, rfl⟩

/-- `ADeniedCommandHasNoEffect`: a command of host HA whose group is not allowed. -/
theorem test_witness_ADeniedCommandHasNoEffect :
    (let c : CmdCtx := { tCmd (tBytes 24 []) with who := .host 0 0 }
     let s : State := (tAsked 0x0201 c).setReg (HOST_CMD_ALLOW 0) 0
     asCommand (.tblSearch c) = some (c, 0x0201) ∧ starts s 0x0201 = true ∧ outOfTurn s c 0x0201 = false ∧ cmdAllowed s c 0x0201 = false) :=
  ⟨rfl, by decide +kernel, by decide +kernel, by decide +kernel⟩

/-- `OnlyAPowerOnResetLiftsTheLockOut`: a locked-out debug port, and a command that answers. -/
theorem test_witness_OnlyAPowerOnResetLiftsTheLockOut :
    (let s : State := { tRun with dbg := { lockedOut := true } }
     (∃ t, exec .tapReset s = .next t) ∧ s.dbg.lockedOut = true) := ⟨⟨_, rfl⟩, rfl⟩

/-- `EveryCommandAnswers`: the one command that stops the run. -/
theorem test_linkUp_at_a_rate_of_no_port :
    rateOfPort 16 7 = false ∧ exec (.ethernetLinkUp 16 7 false) tFab = .fault .illFormed := ⟨by decide +kernel, by rfl⟩

/-- `FenceLinesAndCheckpointsActOnThePair`: the two clauses on the size of what differs share every other condition, and as that size is a free
value (log entry 68), one of them holds. -/
theorem test_witness_checkpoint_received_while_syncing :
    (let s : State := tPair 2
     let c : Ckpt := { seq := 1, size := 0, full := true }
     let u := measureDelta 4 s
     pairOn s = true ∧ s.pair.deciding = false ∧ pairRole s = 2 ∧ c.full = true ∧ s.pwr.state = 0 ∧ s.pwr.exit = none ∧
     (u.fld PWR_RESTORE.DELTA_KIB ≤ 60 ∨ 60 < u.fld PWR_RESTORE.DELTA_KIB)) :=
  ⟨by decide +kernel, rfl, by decide +kernel, rfl, rfl, ⟨rfl, by omega⟩⟩

/-- `GossipAndCoordinatorRun`: a device alone elects itself, where the identity that production gave it is not 0. -/
theorem test_witness_first_coordinator (h : ownUid ≠ 0) :
    (let s : State := { tFab with fab := { firstUp := some 5 } }
     s.fab.firstUp = some 5 ∧ dfpOn s = true ∧ s.fab.coord ≠ ownUid ∧ hasAddr s = true ∧ s.fld FAB_CFG.COORD_PRIO ≠ 0 ∧ s.fab.coord = 0 ∧
     (∃ e, highest (candidates s) = some e ∧ e.1 = ownUid) ∧ max 5 s.fab.lastCoord + 300000000 ≤ s.lt) := by
  refine ⟨rfl, by decide +kernel, fun e => h e.symm, by decide +kernel, by decide +kernel, rfl, ⟨(ownUid, ownLs { tFab with fab := { firstUp := some 5 } }), ?_, rfl⟩, by decide +kernel⟩
  have ha : (ownLs { tFab with fab := { firstUp := some 5 } }).addrValid = true := by decide +kernel
  have hp : (ownLs { tFab with fab := { firstUp := some 5 } }).prio ≠ 0 := by decide +kernel
  have hl : (ownLs { tFab with fab := { firstUp := some 5 } }).links = [] := rfl
  simp [candidates, reachable, linkDb, distFrom, kput, relaxN, relaxOnce, khas, kget, highest, hl, ha, hp]

/-- R58: the link of a port goes that is the destination (1, 17) of stream 5, which enters here, and the newest event is 0x0602 with handle 5, device
1 and port 17; a port that is no destination raises none. -/
def tLost : State :=
  { tFab with links := [(17, { rate := 100000, eee := false }), (18, { rate := 100000, eee := false })],
              streams := [(5, { contract := patch (zeros 64) 18 [1] |> fun b => patch b 32 [1, 17], phase := .committed, ingress := true, dests := [17] })] }

theorem test_link_down_at_a_destination :
    portUp tLost 17 = true ∧
    (match exec (.ethernetLinkDown 17) tLost with
     | .next t => t.flt.hist.map (fun e => (e.entry.code, e.entry.payload.take 4))
     | _ => []) = [(0x0602, [5, 0, 1, 17])] ∧
    (match exec (.ethernetLinkDown 18) tLost with
     | .next t => t.flt.hist.length
     | _ => 9) = 0 := by decide +kernel

/-- Each clause of `PlainRegisterWritesStoreTheirWord` has values that meet its conditions. -/
theorem test_witness_PlainRegisterWritesStoreTheirWord :
   (let src : Src := .fw
    let addr : Nat := 0x50000
    let r : RegRow := ((regAt 0x50000).map (·.1)).getD ⟨0, [], false, []⟩
    let is : List Nat := []
    let s : State := tRun
    State.Inv s ∧ busOpen s src = true ∧ addr % 4 = 0 ∧ regAt addr = some (r, is) ∧ r.wide = false ∧ (∀ (v : Nat) (u : State), writeReg src r is addr v u = plainWrite r is addr v u)) :=
  ⟨by decide +kernel, by decide +kernel, by decide +kernel, by decide +kernel, by decide +kernel, by intro v u; rfl⟩

/-- Each clause of `ReservedAccessesReportThemselves` has values that meet its conditions. -/
theorem test_witness_ReservedAccessesReportThemselves :
   (let src : Src := .fw
    let addr : Nat := 0x3FFFF0
    let s : State := tRun
    State.Inv s ∧ busOpen s src = true ∧ regAt (addr / 4 * 4) = none) ∧
   (let src : Src := .fw
    let core : Fin 3 := 0
    let addr : Nat := 0x3FFFF0
    let be : Nat := 0
    let s : State := tRun
    State.Inv s ∧ busOpen s src = true ∧ regAt (addr / 4 * 4) = none ∧ be < 16 ∧ readsNow src core addr s) :=
  ⟨by decide +kernel, by decide +kernel⟩

/-- Each clause of `CounterReadsAreCoherent` has values that meet its conditions. -/
theorem test_witness_CounterReadsAreCoherent :
   (let src : Src := .fw
    let core : Fin 3 := 0
    let a : Nat := 0x280000
    let r : RegRow := ((regAt 0x280000).map (·.1)).getD ⟨0, [], false, []⟩
    let is : List Nat := [0]
    let s : State := tRun
    busOpen s src = true ∧ a % 4 = 0 ∧ r.wide = true ∧ regAt a = some (r, is) ∧ idxOf r.dims (a - r.base) = some (is, 0) ∧ regAt (a + 4) = some (r, is) ∧ idxOf r.dims (a + 4 - r.base) = some (is, 4) ∧ readsNow src core a s) ∧
   (let src : Src := .fw
    let core : Fin 3 := 0
    let a : Nat := 0x280000
    let r : RegRow := ((regAt 0x280000).map (·.1)).getD ⟨0, [], false, []⟩
    let is : List Nat := [0]
    let s : State := tRun
    busOpen s src = true ∧ a % 4 = 0 ∧ r.wide = true ∧ regAt a = some (r, is) ∧ idxOf r.dims (a - r.base) = some (is, 0) ∧ regAt (a + 4) = some (r, is) ∧ idxOf r.dims (a + 4 - r.base) = some (is, 4) ∧ s.bus.shadow.find? (fun e => decide (e.1 = src) && decide (e.2.1 = a + 4)) = none ∧ readsNow src core (a + 4) s) :=
  ⟨by decide +kernel, by decide +kernel⟩

/-- Each clause of `TheMatrixDecidesEgressZones` has values that meet its conditions. -/
theorem test_witness_TheMatrixDecidesEgressZones :
   (let p : Pkt := { bytes := List.replicate 64 0, inPort := 74, cls := some 7 }
    let s : State := tRun
    let ze : Nat := 0
    ze < 16 ∧ controlPath s p = true) ∧
   (let p : Pkt := { bytes := List.replicate 64 0, inPort := 16 }
    let s : State := tRun
    let ze : Nat := 0
    ze < 16 ∧ controlPath s p = false) ∧
   (let p : Pkt := { bytes := List.replicate 64 0, inPort := 16 }
    let s : State := { tRun with hedge := { quads := [(0, { active := { matrix := [(0, 1)] } })] } }
    let ze : Nat := 0
    let h := s.hq (homeQuad p.inPort)
    let c := actCell h p.inPort ze
    ze < 16 ∧ controlPath s p = false ∧ c = 1) ∧
   (let p : Pkt := { bytes := List.replicate 64 0, inPort := 16 }
    let s : State := { tRun with hedge := { quads := [(0, { active := { matrix := [(0, 2)], rules := [(0, { value := 0, mask := 0, result := 2 ^ 127 + 2 ^ 119 + 2 ^ 117 })] } })] } }
    let ze : Nat := 0
    let h := s.hq (homeQuad p.inPort)
    let v :=  match firstMatch h (composeKey s h p) (setProfile h.active p.inPort) with
      | some (_, r) => hrVerdict r
      | none => 0
    let c := actCell h p.inPort ze
    ze < 16 ∧ controlPath s p = false ∧ c = 2 ∧ (v = 1 ∨ v = 3)) ∧
   (let p : Pkt := { bytes := List.replicate 64 0, inPort := 16 }
    let s : State := { tRun with hedge := { quads := [(0, { active := { matrix := [(0, 2)], rules := [(0, { value := 0, mask := 0, result := 2 ^ 127 + 2 ^ 119 + 2 ^ 118 })] } })] } }
    let ze : Nat := 0
    let h := s.hq (homeQuad p.inPort)
    let v :=  match firstMatch h (composeKey s h p) (setProfile h.active p.inPort) with
      | some (_, r) => hrVerdict r
      | none => 0
    let c := actCell h p.inPort ze
    ze < 16 ∧ controlPath s p = false ∧ c = 2 ∧ v = 2) ∧
   (let p : Pkt := { bytes := List.replicate 64 0, inPort := 16 }
    let s : State := { tRun with hedge := { quads := [(0, { active := { matrix := [(0, 2)] } })], holes := [(0, { key := { type := 1, pS := 1 }, zone := 0, opener := 0, rule := 0, idle := 4, remain := 4 })] } }
    let ze : Nat := 0
    let h := s.hq (homeQuad p.inPort)
    let v :=  match firstMatch h (composeKey s h p) (setProfile h.active p.inPort) with
      | some (_, r) => hrVerdict r
      | none => 0
    let c := actCell h p.inPort ze
    ze < 16 ∧ controlPath s p = false ∧ c = 2 ∧ v = 0 ∧ bit (hedgeDecide p s).2.zones ze = true) ∧
   (let p : Pkt := { bytes := List.replicate 64 0, inPort := 16 }
    let s : State := { tRun with hedge := { quads := [(0, { active := { matrix := [(0, 3)] } })] } }
    let ze : Nat := 0
    let h := s.hq (homeQuad p.inPort)
    let c := actCell h p.inPort ze
    ze < 16 ∧ controlPath s p = false ∧ (c = 0 ∨ c = 3)) :=
  ⟨by decide +kernel, by decide +kernel, by decide +kernel, by decide +kernel, by decide +kernel, ⟨by decide +kernel, by decide +kernel⟩⟩

/-- Each clause of `AReleaseByANonOwnerIsRefused` has values that meet its conditions. -/
theorem test_witness_AReleaseByANonOwnerIsRefused :
   (let b : Nat := 0
    let p : Nat := 0
    let s : State := tRun
    State.Inv s ∧ (∀ x : Buf, s.buf b = some x → bit x.owner p = false)) :=
  ⟨by decide +kernel, by intro x h; exact nomatch (show (none : Option Buf) = some x from h)⟩

/-- Each clause of `DebugReleaseNeedsUnlockedDebug` has values that meet its conditions. -/
theorem test_witness_DebugReleaseNeedsUnlockedDebug :
   (let src : Src := .fw
    let s : State := tRun
    busOpen s src = true) :=
  by decide +kernel

/-- Each clause of `DrainLimitIsTheLargestHopBound` has values that meet its conditions. -/
theorem test_witness_DrainLimitIsTheLargestHopBound :
   (let s : State := { tRun with streams := [(5, { contract := [], phase := .committed, hops := [{ path := 0, inPort := 1, outPort := 2, aUp := 0, bound := 500 }] })] }
    let e := ((s.reserved)[0]?).getD (0, { contract := [], phase := .asking })
    let g := ((e.2.hops)[0]?).getD { path := 0, inPort := 0, outPort := 0, aUp := 0 }
    e ∈ s.streams ∧ e.2.committed = true ∧ g ∈ e.2.hops ∧ g.tent = false) :=
  by decide +kernel

/-- Each clause of `NoMajorityDiscardsTheWindow` has values that meet its conditions. -/
theorem test_witness_NoMajorityDiscardsTheWindow :
   (let a : List BusWrite := [⟨0x50000, 1, 15⟩]
    let b : List BusWrite := [⟨0x50000, 2, 15⟩]
    let c : List BusWrite := []
    let s : State := tRun
    let sig (k : Nat) : Nat := windowSig (coreWrites a b c k)
    s.pwr.state = 0 ∧ triadRun s = true ∧ s.flt.f3 = false ∧ s.sup.resync = none ∧ sig 0 ≠ sig 1 ∧ sig 0 ≠ sig 2 ∧ sig 1 ≠ sig 2) ∧
   (let a : List BusWrite := [⟨0x50000, 1, 15⟩]
    let b : List BusWrite := [⟨0x50000, 2, 15⟩]
    let c : List BusWrite := []
    let s : State := { tRun with sup := { resync := some (1, 1000) } }
    let sig (k : Nat) : Nat := windowSig (coreWrites a b c k)
    let x : Nat × Nat := (1, 1000)
    s.pwr.state = 0 ∧ triadRun s = true ∧ s.flt.f3 = false ∧ s.sup.resync = some x ∧ sig (if x.1 = 0 then 1 else 0) ≠ sig (if x.1 = 2 then 1 else 2)) :=
  ⟨by decide +kernel, by decide +kernel⟩

/-- Each clause of `KeyCommandsRespectTheUseOfTheirSlot` has values that meet its conditions. -/
theorem test_witness_KeyCommandsRespectTheUseOfTheirSlot :
   (let c : CmdCtx := tCmd (tBytes 32 [(0, 2), (1, 5), (4, 16)])
    let s : State := { tRun.setFld GLB_CTRL.FWD_EN 0 with keys := { msec := [(0, { tx := [(0, { slot := 5, ssci := 0, salt := [], pn := 1 })] })] } }
    let k : NewKey := { attr := 0, half := { key := tBytes 16 [] } }
    mayRun c 0x0902 s ∧ loadHeld s (byteAt c.par 1) = false ∧ loadSource (markStarted c 0x0902 s) c = .inr k ∧ saRefs s (byteAt c.par 1) ≠ 0) ∧
   (let c : CmdCtx := tCmd (tBytes 96 [(2, 5), (4, 16)])
    let s : State := { tRun with keys := { msec := [(0, { tx := [(0, { slot := 5, ssci := 0, salt := [], pn := 1 })] })] } }
    mayRun c 0x0906 s ∧ loadHeld s (byteAt c.par 2) = false ∧ deriveOk c = true ∧ saRefs s (byteAt c.par 2) ≠ 0) ∧
   (let c : CmdCtx := tCmd [5]
    let s : State := { tRun with keys := { ctx := some { op := 0, slot := 5 } } }
    slotBusy s (byteAt c.par 0) = true) :=
  ⟨by decide +kernel, by decide +kernel, by decide +kernel⟩

/-- Each clause of `PathCommandsCheckTheirLengthAndMode` has values that meet its conditions. -/
theorem test_witness_PathCommandsCheckTheirLengthAndMode :
   (let c : CmdCtx := tCmd []
    let s : State := tRun
    mayRun c 0x0701 s ∧ c.par.length ≠ 40) ∧
   (let c : CmdCtx := tCmd []
    let s : State := tRun
    mayRun c 0x0702 s ∧ c.par.length ≠ 8) ∧
   (let c : CmdCtx := tCmd (tBytes 8 [])
    let s : State := tRun
    mayRun c 0x0702 s ∧ c.par.length = 8 ∧ parZero c 0 8 = true ∧ s.pairMode ≠ 1) :=
  ⟨by decide +kernel, by decide +kernel, by decide +kernel⟩

/-- Each clause of `AnEventIsKeptByItsClass` has values that meet its conditions. -/
theorem test_witness_AnEventIsKeptByItsClass :
   (let cls : Nat := 0
    let s : State := tTime
    cls ≤ 3 ∧ State.Inv s) ∧
   (let code : Nat := 0
    let cls : Nat := 0
    let s : State := { tTime with flt := { first := some { entry := { kind := .event, qs := 0, code := 1, tag := 0, cls := 1, status := 0, ns := 0, secLo := 0, payload := [] }, routedHA := false, routedHB := false, lost := false, number := 1 } } }
    let x : HistEntry := { entry := { kind := .event, qs := 0, code := 1, tag := 0, cls := 1, status := 0, ns := 0, secLo := 0, payload := [] }, routedHA := false, routedHB := false, lost := false, number := 1 }
    cls ≤ 3 ∧ State.Inv s ∧ s.flt.first = some x) ∧
   (let cls : Nat := 0
    let s : State := tTime
    cls ≤ 3 ∧ State.Inv s ∧ s.flt.first = none) ∧
   (let cls : Nat := 0
    let s : State := tTime
    cls ≤ 3 ∧ State.Inv s) ∧
   (let cls : Nat := 0
    let s : State := tTime
    cls ≤ 3 ∧ State.Inv s) :=
  ⟨by decide +kernel, by decide +kernel, by decide +kernel, by decide +kernel, by decide +kernel⟩

/-- Each clause of `ReceivedFramesAreCountedAndStaged` has values that meet its conditions. -/
theorem test_witness_ReceivedFramesAreCountedAndStaged :
   (let p : Port := 0
    let frame : Bytes := [1, 2, 3]
    let s : State := tFab
    let n := rxLength (s.fabricPort p.val) frame
    etherListens s p.val = true ∧ (n < 64 ∨ s.fld (PORT_RX_CFG.MAX_LEN p.val) < n)) ∧
   (let p : Port := 0
    let frame : Bytes := tBytes 64 []
    let err : Bool := false
    let s : State := tFab
    let n := rxLength (s.fabricPort p.val) frame
    let body := frame.take (frame.length - 4)
    etherListens s p.val = true ∧ 64 ≤ n ∧ n ≤ s.fld (PORT_RX_CFG.MAX_LEN p.val) ∧ (err = true ∨ frame.drop (frame.length - 4) ≠ fcsOf body)) ∧
   (let p : Port := 0
    let frame : Bytes := tBytes 60 [] ++ fcsOf (tBytes 60 [])
    let err : Bool := false
    let s : State := { tFab with mem := { stopped := true } }
    let n := rxLength (s.fabricPort p.val) frame
    let body := frame.take (frame.length - 4)
    etherListens s p.val = true ∧ 64 ≤ n ∧ n ≤ s.fld (PORT_RX_CFG.MAX_LEN p.val) ∧ err = false ∧ frame.drop (frame.length - 4) = fcsOf body ∧ (s.mem.stopped = true ∨ stagingRoom s p.val body.length = false)) ∧
   (let p : Port := 0
    let frame : Bytes := tBytes 60 [] ++ fcsOf (tBytes 60 [])
    let err : Bool := false
    let st : Span := {}
    let s : State := tFab
    let u := seen s
    let n := rxLength (s.fabricPort p.val) frame
    let body := frame.take (frame.length - 4)
    let v := rxOk p.val u
    let x : Pkt := { bytes := body, dfp := v.fabricPort p.val && decide (etype body 12 = dfpEtype), inPort := p.val, start := rxStart v p.val st, arrive := v.endPoint st }
    etherListens s p.val = true ∧ 64 ≤ n ∧ n ≤ s.fld (PORT_RX_CFG.MAX_LEN p.val) ∧ err = false ∧ frame.drop (frame.length - 4) = fcsOf body ∧ s.mem.stopped = false ∧ stagingRoom s p.val body.length = true ∧ p.val ≠ 75 ∧ msecOn (rxOk p.val u) p.val = false ∧ unpackEntry v x.tag body = none) ∧
   (let p : Port := 64
    let s : State := tTime.setFld (LEG_LIN_CFG.ROLE 0) 1
    s.pwr.state ≤ 2 ∧ isLegacyPort p.val = true ∧ legacyListens (seen s) p.val = true) ∧
   (let p : Port := 64
    let s : State := { tTime with mem := { stopped := true } }.setFld (LEG_LIN_CFG.ROLE 0) 1
    let v := canRec p.val true (seen s)
    s.pwr.state ≤ 2 ∧ isLegacyPort p.val = true ∧ legacyListens (seen s) p.val = true ∧ v.mem.stopped = true) ∧
   (let p : Port := 64
    let u : LegPdu := { kind := 1, flags := 0, id := 5, dlc := 0, data := [] }
    let st : Span := {}
    let s : State := tTime.setFld (LEG_LIN_CFG.ROLE 0) 1
    let v := canRec p.val true (seen s)
    let d : LegPdu := { u with start := rxStart v p.val st }
    let w := sigWrite p.val false d v
    s.pwr.state ≤ 2 ∧ isLegacyPort p.val = true ∧ legacyListens (seen s) p.val = true ∧ v.mem.stopped = false ∧ rtFrame w p.val false d = none) ∧
   (let p : Port := 64
    let u : LegPdu := { kind := 1, flags := 0, id := 5, dlc := 0, data := [] }
    let st : Span := {}
    let s : State := { tTime with gw := { active := [(0, toLe 16 (2 ^ 127 + 64 * 2 ^ 120))] } }.setFld (LEG_LIN_CFG.ROLE 0) 1
    let v := canRec p.val true (seen s)
    let d : LegPdu := { u with start := rxStart v p.val st }
    let w := sigWrite p.val false d v
    let f := (rtFrame s 64 false u).getD []
    s.pwr.state ≤ 2 ∧ isLegacyPort p.val = true ∧ legacyListens (seen s) p.val = true ∧ v.mem.stopped = false ∧ rtFrame w p.val false d = some f) :=
  ⟨by decide +kernel, by decide +kernel, by decide +kernel, by decide +kernel, by decide +kernel, ⟨by decide +kernel, by decide +kernel, by decide +kernel⟩⟩

/-- Each clause of `FramesLeaveThroughTheScheduler` has values that meet its conditions. -/
theorem test_witness_FramesLeaveThroughTheScheduler :
   (let p : Port := 3
    let s : State := tFab
    s.pwr.state = 0 ∧ p.val ≠ 74 ∧ s.flt.f3 = false ∧ portUp s p.val = false) ∧
   (let p : Port := 0
    let s : State := tFab
    let u := heldHeads p.val (dropHeads p.val (markHeld p.val s))
    s.pwr.state = 0 ∧ p.val ≠ 74 ∧ s.flt.f3 = false ∧ portUp s p.val = true ∧ laneAwake (s.eport p.val) = true ∧ portFree u p.val = true ∧ (isEthPort p.val = true ∨ (u.eport p.val).sending = none)) ∧
   (let p : Port := 16
    let s : State := { tFab with egr := { ports := [(16, { freeAt := 2000000000000, active := { preemptEn := true }, sending := some { tc := 0, cell := { buf := 1 }, first := 0, wire := 84, preemptable := true } })] } }
    let u := heldHeads p.val (dropHeads p.val (markHeld p.val s))
    let g := { tc := 0, cell := { buf := 1 }, first := 0, wire := 84, preemptable := true }
    s.pwr.state = 0 ∧ p.val ≠ 74 ∧ s.flt.f3 = false ∧ portUp s p.val = true ∧ laneAwake (s.eport p.val) = true ∧ portFree u p.val = false ∧ (u.eport p.val).sending = some g ∧ g.preemptable = true ∧ preemptActive u p.val = true) ∧
   (let p : Port := 16
    let g : Sending := { tc := 0, cell := { buf := 1 }, first := 0, wire := 84 }
    let r : List Sending := []
    let s : State := { tFab with egr := { ports := [(16, { sending := some { tc := 0, cell := { buf := 1 }, first := 0, wire := 84 } })] } }
    (s.eport p.val).onWire = g :: r ∧ isEthPort p.val = true ∧ lastBit s p.val g ≤ s.lt ∧ s.pwr.state ≤ 2) ∧
   (let s : State := { tFab with mem := { bufs := [(1, { pkt := { bytes := tBytes 60 [], inPort := 0 }, len := 60, owner := 2 ^ 74 })], queues := [(598, [{ buf := 1 }])] }, egr := { ports := [(74, { freeAt := 999999999990 })] } }
    let c : Nat := 6
    let x : Cell := { buf := 1 }
    let g : Sending := ((startCopy 74 6 (startAt s 74) x (dropHeads 74 s)).eport 74).sending.getD { tc := 0, cell := x, first := 0, wire := 0 }
    let w := dropHeads 74 s
    let u := startCopy 74 c (startAt s 74) x (if unknownMsg w x = true then w.bump FAB_BAD_TAG else w)
    s.pwr.state = 0 ∧ s.flt.f3 = false ∧ triadRun s = true ∧ portFree s 74 = true ∧ (dropHeads 74 s).flt.f3 = false ∧ selectClass (dropHeads 74 s) 74 (startAt s 74) (fun _ => true) = some (c, x) ∧ (u.eport 74).sending = some g) ∧
   (let h : HostId := 0
    let g : Sending := { tc := 0, cell := { buf := 1 }, first := 0, wire := 84 }
    let s : State := { tFab with egr := { ports := [(72, { sending := some { tc := 0, cell := { buf := 1 }, first := 0, wire := 84 } })] } }
    (s.eport (hostPort h)).sending = some g ∧ lastBit s (hostPort h) g ≤ s.lt ∧ s.pwr.state ≤ 2 ∧ rxStopped s (hostPort h) g.tc g.cell = true) ∧
   (let h : HostId := 0
    let entry : Bytes := tBytes 32 [(9, 4)]
    let g : Sending := { tc := 0, cell := { buf := 1 }, first := 0, wire := 84 }
    let b : Buf := { pkt := { bytes := tBytes 60 [], inPort := 0 }, len := 60, owner := 2 ^ 72 }
    let s : State := { tHost with mem := { bufs := [(1, { pkt := { bytes := tBytes 60 [], inPort := 0 }, len := 60, owner := 2 ^ 72 })] }, egr := { ports := [(72, { sending := some { tc := 0, cell := { buf := 1 }, first := 0, wire := 84 } })] } }
    (s.eport (hostPort h)).sending = some g ∧ lastBit s (hostPort h) g ≤ s.lt ∧ s.pwr.state ≤ 2 ∧ rxStopped s (hostPort h) g.tc g.cell = false ∧ s.buf g.cell.buf = some b ∧ rxPosted s (hostPort h) g.tc g.cell = true ∧ posted entry = true) :=
  ⟨by decide +kernel, by decide +kernel, ⟨by decide +kernel, by decide +kernel, by decide +kernel, by decide +kernel, by decide +kernel, ⟨by have h : ∀ a b c : Nat, c + 308 < a → decide (a ≤ c + min 308 b) = false := fun a b c h => decide_eq_false (by omega); exact h _ _ _ (by decide +kernel), by decide +kernel, by decide +kernel, by decide +kernel⟩⟩, by decide +kernel, ⟨by decide +kernel, by decide +kernel, by decide +kernel, by have h : ∀ a b c : Nat, a ≤ c → decide (a ≤ c + b) = true := fun a b c h => decide_eq_true (by omega); exact h _ _ _ (by decide +kernel), ⟨by decide +kernel, by decide +kernel, by have h : ∀ (o : Option Sending) (d : Sending), o.isSome = true → o = some (o.getD d) := fun o d h => (by cases o <;> simp_all); exact h _ _ (by decide +kernel)⟩⟩, ⟨by decide +kernel, by decide +kernel⟩⟩

/-- Each clause of `SlicesWorkOnWhatWaits` has values that meet its conditions. -/
theorem test_witness_SlicesWorkOnWhatWaits :
   (let p : Port := 0
    let x : Pkt := { bytes := tBytes 60 [], inPort := 16 }
    let r : List Pkt := []
    let s : State := { tFab with mem := { staging := [(0, [{ bytes := tBytes 60 [], inPort := 16 }])] }, flt := { f3 := true } }
    s.stagingOf p.val = x :: r ∧ s.pwr.state = 0 ∧ s.flt.f3 = true) ∧
   (let p : Port := 0
    let x : Pkt := { bytes := tBytes 60 [], inPort := 16 }
    let r : List Pkt := []
    let s : State := { tFab with mem := { staging := [(0, [{ bytes := tBytes 60 [], inPort := 16 }])] } }
    let u : State := { s with mem := { s.mem with staging := if r.isEmpty then kdel s.mem.staging p.val else kput s.mem.staging p.val r } }
    s.stagingOf p.val = x :: r ∧ s.pwr.state = 0 ∧ s.flt.f3 = false ∧ (f3Check u).flt.f3 = false ∧ fabricDrop (f3Check u) x = none) ∧
   (let p : Port := 0
    let x : Pkt := { bytes := tBytes 60 [], inPort := 0 }
    let r : List Pkt := []
    let s : State := { tFab with mem := { staging := [(0, [{ bytes := tBytes 60 [], inPort := 0 }])] } }
    let u : State := { s with mem := { s.mem with staging := if r.isEmpty then kdel s.mem.staging p.val else kput s.mem.staging p.val r } }
    let k := FAB_BAD_TAG
    s.stagingOf p.val = x :: r ∧ s.pwr.state = 0 ∧ s.flt.f3 = false ∧ (f3Check u).flt.f3 = false ∧ fabricDrop (f3Check u) x = some k) ∧
   (let w : Waiting := { quad := 1, buf := 0, cell := some { buf := 0, void := some (5, 1, 7) } }
    let h : Nat := 5
    let c : HeldCopy := { epoch := 1, number := 7, buf := 0xFFFF, at_ := 1000000000000 }
    let s : State := { tFab with mem := { recWait := [{ quad := 1, buf := 0, cell := some { buf := 0, void := some (5, 1, 7) } }] } }
    let u : State := { s with mem := { s.mem with recWait := [], recLast := 1 } }
    takeRecovery s = some (w, u) ∧ waitingCopy u w = some (h, c)) ∧
   (let s : State := tFab
    s.lt % 100 = 0) ∧
   (let w : Waiting := { quad := 1, buf := 3 }
    let s : State := { tFab with mem := { batchWait := [{ quad := 1, buf := 3 }] } }
    nextWaiting s.mem.batchWait s.mem.batchLast = some w) ∧
   (let s : State := { tFab with mem := { staging := [(0, [{ bytes := tBytes 60 [], inPort := 16 }])] } }
    s.lt % 100 = 0) :=
  ⟨by decide +kernel, by decide +kernel, by decide +kernel, by decide +kernel, by decide +kernel, ⟨by decide +kernel, by decide +kernel⟩⟩

/-- Each clause of `EndpointsServeTheirRings` has values that meet its conditions. -/
theorem test_witness_EndpointsServeTheirRings :
   (let h : HostId := 0
    let s : State := tHost.modHost 0 (fun x => { x with lostPend := 2, waiting := [{ kind := .event, qs := 0, code := 0x0101, tag := 0, cls := 1, status := 0, ns := 0, secLo := 0, payload := [] }] })
    let u := faultyAll h s
    let qs := 0
    served s h = true ∧ (u.host h).lostPend ≠ 0 ∧ overflowSet u h = some qs) ∧
   (let h : HostId := 0
    let s : State := tHost.modHost 0 (fun x => { x with waiting := [{ kind := .event, qs := 0, code := 0x0101, tag := 0, cls := 1, status := 0, ns := 0, secLo := 0, payload := [] }] })
    let u := faultyAll h s
    let e := { kind := .event, qs := 0, code := 0x0101, tag := 0, cls := 1, status := 0, ns := 0, secLo := 0, payload := [] : Entry }
    served s h = true ∧ ((u.host h).lostPend = 0 ∨ overflowSet u h = none) ∧ firstFit u h [] (u.host h).waiting = some e) ∧
   (let h : HostId := 0
    let v : Nat := 0
    let s : State := (tHost.modHost 0 (fun x => { x with vecs := [(0, { count := 1, first := 0 })] })).setFld (HOST_MOD.TIME 0 0) 1
    let x := kgetD (s.host h).vecs v {}
    x.count ≠ 0 ∧ s.fld (HOST_MOD.TIME h.val v) ≠ 0 ∧ x.first + s.fld (HOST_MOD.TIME h.val v) * 1000 ≤ s.lt) ∧
   (let h : HostId := 0
    let s : State := tHost
    served s h = true ∧ (s.host h).lastPoll + pollPeriod s h ≤ s.lt) ∧
   (let h : HostId := 0
    let slot : Nat := 0
    let no : Nat := 1
    let again : Bool := false
    let page : Bytes := []
    let s : State := tHost.modHost 0 (fun x => { x with slots := [(0, 1, false)] })
    kget (s.host h).slots slot = some (no, again) ∧ leAt page 0 4 = leAt page 60 4) ∧
   (let h : HostId := 0
    let slot : Nat := 0
    let no : Nat := 1
    let again : Bool := false
    let page : Bytes := tBytes 64 [(0, 1)]
    let s : State := tHost.modHost 0 (fun x => { x with slots := [(0, 1, false)] })
    kget (s.host h).slots slot = some (no, again) ∧ leAt page 0 4 ≠ leAt page 60 4) ∧
   (let h : HostId := 0
    let slot : Nat := 0
    let s : State := tHost.modHost 0 (fun x => { x with reread := [(0, 5)] })
    (s.host h).reread.any (fun e => e.1 = slot && decide (e.2 ≤ s.lt)) = true ∧ khas (s.host h).slots slot = false ∧ served s h = true) ∧
   (let h : HostId := 0
    let s : State := tHost.setFld (HOST_CTRL.DB_EN 0) 1
    served s h = true ∧ s.flag (HOST_CTRL.DB_EN h.val) = true ∧ (s.host h).slots = []) :=
  ⟨by decide +kernel, by decide +kernel, by decide +kernel, by decide +kernel, by decide +kernel, ⟨by decide +kernel, by decide +kernel, by decide +kernel⟩⟩

/-- Each clause of `RingsFetchStartStopAndFail` has values that meet its conditions. -/
theorem test_witness_RingsFetchStartStopAndFail :
   (let h : HostId := 0
    let qs : Nat := 0
    let d : Bytes := tBytes 32 []
    let data : Bytes := tBytes 60 []
    let s : State := tHost.modHost 0 (fun x => { x with rings := [(0, { state := .running, hostIdx := 1 }), (1, { state := .running, hostIdx := 4 }), (2, { state := .running, hostIdx := 1 }), (3, { state := .running })] })
    txqTurn s h qs = true ∧ descOk d data = false) ∧
   (let h : HostId := 0
    let qs : Nat := 0
    let d : Bytes := tBytes 32 [(8, 60)]
    let data : Bytes := tBytes 60 []
    let s : State := tHost.modHost 0 (fun x => { x with rings := [(0, { state := .running, hostIdx := 1 }), (1, { state := .running, hostIdx := 4 }), (2, { state := .running, hostIdx := 1 }), (3, { state := .running })] })
    txqTurn s h qs = true ∧ descOk d data = true ∧ s.mem.stopped = false ∧ stagingRoom s (hostPort h) (leAt d 8 2) = true) ∧
   (let h : HostId := 0
    let qs : Nat := 0
    let s : State := (tHost.setReg (HOST_CMD_ALLOW 0) 0xFFFF).modHost 0 (fun x => { x with rings := [(2, { state := .running, hostIdx := 1 }), (3, { state := .running })] })
    cmdqTurn s h qs = true ∧ triadRun s = true) ∧
   (let h : HostId := 0
    let r : CmdRec := { seq := 0, qs := 0, opcode := 0x0201, ctx := { tCmd [] with who := .host 0 0 }, fence := false, bad := some 3 }
    let st : Nat := 3
    let s : State := tHost.modHost 0 (fun x => { x with cmds := [{ seq := 0, qs := 0, opcode := 0x0201, ctx := { tCmd [] with who := .host 0 0 }, fence := false, bad := some 3 }] })
    faultyDue s h = some (r, st)) ∧
   (let h : HostId := 0
    let r : CmdRec := { seq := 0, qs := 0, opcode := 0x0201, ctx := { tCmd [] with who := .host 0 0 }, fence := false, bad := some 3 }
    let st : Nat := 3
    let s : State := tHost.modHost 0 (fun x => { x with cmds := [{ seq := 0, qs := 0, opcode := 0x0201, ctx := { tCmd [] with who := .host 0 0 }, fence := false, bad := some 3 }] })
    r ∈ (s.host h).cmds ∧ r.bad = some st ∧ starts s r.opcode = true ∧ recWaits s h r = false) ∧
   (let h : HostId := 0
    let q : Nat := 0
    let r : Nat := 0
    let s : State := tHost.modHost 0 (fun x => { x with rings := [(0, { state := .running, hostIdx := 1 }), (1, { state := .running, hostIdx := 4 }), (2, { state := .running, hostIdx := 1 }), (3, { state := .running })] })
    (s.ring h q r).state ≠ .disabled) ∧
   (let qs : Nat := 0
    let r : Nat := 0
    let v : Nat := 1
    qs < 64 ∧ r < 4 ∧ bit v 0 = true) ∧
   (let qs : Nat := 0
    let r : Nat := 0
    let v : Nat := 0
    qs < 64 ∧ r < 4 ∧ bit v 0 = false) ∧
   (let h : HostId := 0
    let qs : Nat := 0
    let r : Nat := 0
    let s : State := tHost.modHost 0 (fun x => { x with rings := [(0, { state := .stopping })] })
    (s.ring h qs r).state = .stopping ∧ ringDrained s h qs r = true) ∧
   (let gen : Nat := 1
    let lanes : Nat := 1
    let s : State := tHost.modHost 0 (fun x => { x with rings := [(0, { state := .running, hostIdx := 1 }), (1, { state := .running, hostIdx := 4 }), (2, { state := .running, hostIdx := 1 }), (3, { state := .running })] })
    s.pwr.state ≤ 2 ∧ s.rst.porLow = false ∧ 1 ≤ gen ∧ gen ≤ 4 ∧ (lanes = 1 ∨ lanes = 2 ∨ lanes = 4)) :=
  ⟨by decide +kernel, by decide +kernel, by decide +kernel, by decide +kernel, by decide +kernel, ⟨by decide +kernel, by decide +kernel, by decide +kernel, by decide +kernel, by decide +kernel⟩⟩

/-- Each clause of `RegisterAccessesAreServed` has values that meet its conditions. -/
theorem test_witness_RegisterAccessesAreServed :
   (let src : Src := .fw
    let a : Nat := 0x50000
    let r : RegRow := ((regAt 0x50000).map (·.1)).getD ⟨0, [], false, []⟩
    let is : List Nat := []
    let s : State := tRun
    busOpen s src = true ∧ a % 4 = 0 ∧ regAt a = some (r, is) ∧ r.wide = false) ∧
   (let src : Src := .fw
    let a : Nat := 0x50000
    let r : RegRow := ((regAt 0x50000).map (·.1)).getD ⟨0, [], false, []⟩
    let is : List Nat := []
    let s : State := tRun
    let be := 3
    busOpen s src = true ∧ a % 4 = 0 ∧ regAt a = some (r, is) ∧ be % 16 ≠ 15) ∧
   (let src : Src := .fw
    let a : Nat := 0x3FFFF0
    let s : State := tRun
    busOpen s src = true ∧ a % 4 = 0 ∧ regAt a = none) ∧
   (let src : Src := .ha
    let a : Nat := 0x3FFFF0
    let be : Nat := 15
    let s : State := tHost
    busOpen s src = true ∧ src ≠ .fw ∧ be < 16 ∧ regAt (a / 4 * 4) = none) ∧
   (let src : Src := .ha
    let a : Nat := 0x280000
    let be : Nat := 15
    let s : State := tHost
    let r := ((regAt 0x280000).map (·.1)).getD ⟨0, [], false, []⟩
    let is := [0]
    busOpen s src = true ∧ src ≠ .fw ∧ be < 16 ∧ regAt (a / 4 * 4) = some (r, is) ∧ r.wide = true ∧ (idxOf r.dims (a / 4 * 4 - r.base)).elim 0 (·.2) ≠ 4) ∧
   (let src : Src := .ha
    let n : Nat := 1
    let be : Nat := 255
    let s : State := tHost
    busOpen s src = true ∧ (src = .ha ∨ src = .hb) ∧ 16 ^ n ≤ be ∧ be < 16 ^ (n + 1)) ∧
   (let core : Fin 3 := 0
    let s : State := tRun
    busOpen s .fw = true ∧ triadRun s = true ∧ bit (coresRun s) core.val = true) ∧
   (let f : Bytes := [2, 5, 0, 0, 0, 0, 0, 1, byte (spiCrc [2, 5, 0, 0, 0, 0, 0, 1])]
    let s : State := tRun
    busOpen s .spi = true ∧ f.length = 9 ∧ byteAt f 0 = 2 ∧ byteAt f 8 = spiCrc (f.take 8)) ∧
   (let f : Bytes := [2, 5, 0, 0, 0, 0, 0, 1, byte (spiCrc [2, 5, 0, 0, 0, 0, 0, 1] + 1)]
    let s : State := tRun
    busOpen s .spi = true ∧ f.length = 9 ∧ byteAt f 0 = 2 ∧ byteAt f 8 ≠ spiCrc (f.take 8)) ∧
   (let f : Bytes := [3, 5, 0, 0, byte (spiCrc [3, 5, 0, 0]), 0]
    let s : State := tRun
    busOpen s .spi = true ∧ f.length = 6 ∧ byteAt f 0 = 3 ∧ byteAt f 4 = spiCrc (f.take 4)) ∧
   (let f : Bytes := [3, 5, 0, 0, byte (spiCrc [3, 5, 0, 0] + 1), 0]
    let s : State := tRun
    busOpen s .spi = true ∧ f.length = 6 ∧ byteAt f 0 = 3 ∧ byteAt f 4 ≠ spiCrc (f.take 4)) ∧
   (let s : State := tRun
    busOpen s .spi = true) ∧
   (let s : State := tRun
    let n := 5
    busOpen s .spi = true ∧ n ≠ 9 ∧ n ≠ 11 ∧ n ≠ 2) :=
  ⟨by decide +kernel, by decide +kernel, by decide +kernel, by decide +kernel, by decide +kernel, ⟨by decide +kernel, by decide +kernel, by decide +kernel, by decide +kernel, ⟨by decide +kernel, by decide +kernel, by decide +kernel, by decide +kernel⟩⟩⟩

/-- Each clause of `ActingRegistersOfThePathAct` has values that meet its conditions. -/
theorem test_witness_ActingRegistersOfThePathAct :
   (let src : Src := .fw
    let s : State := tRun
    busOpen s src = true) ∧
   (let src : Src := .fw
    let s : State := tRun
    busOpen s src = true) ∧
   (let src : Src := .fw
    let s : State := tRun
    busOpen s src = true) ∧
   (let src : Src := .fw
    let s : State := tRun
    busOpen s src = true) ∧
   (let src : Src := .fw
    let s : State := tRun
    busOpen s src = true) ∧
   (let src : Src := .fw
    let s : State := tRun
    busOpen s src = true) ∧
   (let src : Src := .fw
    let s : State := tRun
    busOpen s src = true) ∧
   (let src : Src := .fw
    let s : State := tRun
    busOpen s src = true) ∧
   (let s : State := tRun
    busOpen s .spi = true) ∧
   (let s : State := tRun
    busOpen s .spi = true ∧ s.flt.f3 = false) :=
  ⟨by decide +kernel, by decide +kernel, by decide +kernel, by decide +kernel, by decide +kernel, ⟨by decide +kernel, by decide +kernel, by decide +kernel, by decide +kernel, by decide +kernel⟩⟩

/-- Each clause of `ActingRegistersOfTheServicesAct` has values that meet its conditions. -/
theorem test_witness_ActingRegistersOfTheServicesAct :
   (let src : Src := .fw
    let s : State := tRun
    busOpen s src = true) ∧
   (let src : Src := .fw
    let s : State := tRun
    let v : Nat := 1
    busOpen s src = true ∧ bit v 0 = true) ∧
   (let src : Src := .fw
    let s : State := tRun
    let v : Nat := 1
    busOpen s src = true ∧ bit v 0 = true ∧ s.sup.restartAt = none ∧ triadRun s = true) ∧
   (let src : Src := .fw
    let s : State := tRun
    busOpen s src = true ∧ src ≠ .spi ∧ s.keys.lock = none) ∧
   (let src : Src := .fw
    let s : State := { tRun with keys := { lock := some (.fw, 5) } }
    let t : Nat := 5
    busOpen s src = true ∧ s.keys.lock = some (src, t)) ∧
   (let src : Src := .fw
    let s : State := tRun
    busOpen s src = true) :=
  ⟨by decide +kernel, by decide +kernel, by decide +kernel, by decide +kernel, by decide +kernel, by decide +kernel⟩

/-- Each clause of `TransomAccessesReachTheirTargets` has values that meet its conditions. -/
theorem test_witness_TransomAccessesReachTheirTargets :
   (let h : HostId := 0
    let off : Nat := 0
    let cover : List Bool := [true, true, true, true]
    let s : State := ((tFab.modHost 0 (fun x => { x with linkUp := true, bme := true })).setFld (TRN_WIN_CFG.VALID 0 0) 1).setFld (TRN_WIN_CFG.DEVICE 0 0) 1
    let n := off / 2 ^ 26 % 16
    let r := windowReq s h.val n (off % 2 ^ 26) false cover []
    barOpen s h = true ∧ s.flag (TRN_WIN_CFG.VALID h.val n) = true ∧ issueCause s h.val n r = 0 ∧ windowHere s h.val n = true ∧ busAnswer s r (ownAddr s) = some false) ∧
   (let h : HostId := 0
    let off : Nat := 0
    let cover : List Bool := [true, true, true, true]
    let s : State := { (((tFab.modHost 0 (fun x => { x with linkUp := true, bme := true })).setFld (TRN_WIN_CFG.VALID 0 0) 1).setFld (TRN_WIN_CFG.DEVICE 0 0) 2) with tabs := [(0, { route := [(2, 2 ^ 63)] })] }
    let n := off / 2 ^ 26 % 16
    let r := windowReq s h.val n (off % 2 ^ 26) false cover []
    barOpen s h = true ∧ s.flag (TRN_WIN_CFG.VALID h.val n) = true ∧ issueCause s h.val n r = 0 ∧ windowHere s h.val n = false ∧ channelOpen s h.val = true) ∧
   (let h : HostId := 0
    let off : Nat := 0
    let cover : List Bool := [true, true, true, true]
    let d : Bytes := []
    let s : State := ((tFab.modHost 0 (fun x => { x with linkUp := true, bme := true })).setFld (TRN_WIN_CFG.VALID 0 0) 1).setFld (TRN_WIN_CFG.DEVICE 0 0) 1
    let n := off / 2 ^ 26 % 16
    let r := windowReq s h.val n (off % 2 ^ 26) true cover d
    barOpen s h = true ∧ s.flag (TRN_WIN_CFG.VALID h.val n) = true ∧ (s.flag (TRN_WIN_STATUS.ERR h.val n) = false ∨ s.flag (TRN_WIN_CFG.FENCE_EN h.val n) = false) ∧ issueCause s h.val n r = 0 ∧ windowHere s h.val n = true ∧ busAnswer s r (ownAddr s) = some false) ∧
   (let h : HostId := 0
    let off : Nat := 0
    let cover : List Bool := [true, true, true, true]
    let d : Bytes := []
    let s : State := { (((tFab.modHost 0 (fun x => { x with linkUp := true, bme := true })).setFld (TRN_WIN_CFG.VALID 0 0) 1).setFld (TRN_WIN_CFG.DEVICE 0 0) 2) with tabs := [(0, { route := [(2, 2 ^ 63)] })] }
    let n := off / 2 ^ 26 % 16
    let r := windowReq s h.val n (off % 2 ^ 26) true cover d
    barOpen s h = true ∧ s.flag (TRN_WIN_CFG.VALID h.val n) = true ∧ (s.flag (TRN_WIN_STATUS.ERR h.val n) = false ∨ s.flag (TRN_WIN_CFG.FENCE_EN h.val n) = false) ∧ issueCause s h.val n r = 0 ∧ windowHere s h.val n = false ∧ channelOpen s h.val = true) ∧
   (let h : HostId := 0
    let off : Nat := 0
    let s : State := ((((tFab.modHost 0 (fun x => { x with linkUp := true, bme := true })).setFld (TRN_WIN_CFG.VALID 0 0) 1).setFld (TRN_WIN_CFG.DEVICE 0 0) 1).setFld (TRN_WIN_CFG.FENCE_EN 0 0) 1).setFld (TRN_WIN_STATUS.ERR 0 0) 1
    let n := off / 2 ^ 26 % 16
    barOpen s h = true ∧ s.flag (TRN_WIN_CFG.VALID h.val n) = true ∧ s.flag (TRN_WIN_STATUS.ERR h.val n) = true ∧ s.flag (TRN_WIN_CFG.FENCE_EN h.val n) = true) ∧
   (let p : Port := 0
    let host : Nat := 0
    let tag : Nat := 0
    let o : TrnOut := { device := 2, req := { src := 1, host := 0, tag := 0, window := 0, space := 0, target := 0, width := 2, burst := 0, lane := false, write := false, addr := 0x50000, cover := [true, true, true, true], data := [] }, wtag := 0, start := 0, sent := 0 }
    let s : State := { tFab with trn := { outs := [{ device := 2, req := { src := 1, host := 0, tag := 0, window := 0, space := 0, target := 0, width := 2, burst := 0, lane := false, write := false, addr := 0x50000, cover := [true, true, true, true], data := [] }, wtag := 0, start := 0, sent := 0 }] } }
    fabIn s p.val = true ∧ hasAddr s = true ∧ outOf s host tag = some o) ∧
   (let h : HostId := 0
    let o : TrnOut := { device := 2, req := { src := 1, host := 0, tag := 0, window := 0, space := 0, target := 0, width := 2, burst := 0, lane := false, write := false, addr := 0x50000, cover := [true, true, true, true], data := [] }, wtag := 0, start := 0, sent := 0 }
    let s : State := { tFab with trn := { outs := [{ device := 2, req := { src := 1, host := 0, tag := 0, window := 0, space := 0, target := 0, width := 2, burst := 0, lane := false, write := false, addr := 0x50000, cover := [true, true, true, true], data := [] }, wtag := 0, start := 0, sent := 0 }] } }
    s.trn.outs.find? (fun o => decide (o.req.host = h.val) && decide (o.sent + 1000000 ≤ s.lt)) = some o ∧ o.again < 3) ∧
   (let h : HostId := 0
    let o : TrnOut := { device := 2, req := { src := 1, host := 0, tag := 0, window := 0, space := 0, target := 0, width := 2, burst := 0, lane := false, write := false, addr := 0x50000, cover := [true, true, true, true], data := [] }, wtag := 0, start := 0, sent := 0, again := 3 }
    let s : State := { tFab with trn := { outs := [{ device := 2, req := { src := 1, host := 0, tag := 0, window := 0, space := 0, target := 0, width := 2, burst := 0, lane := false, write := false, addr := 0x50000, cover := [true, true, true, true], data := [] }, wtag := 0, start := 0, sent := 0, again := 3 }] } }
    s.trn.outs.find? (fun o => decide (o.req.host = h.val) && decide (o.sent + 1000000 ≤ s.lt)) = some o ∧ 3 ≤ o.again) ∧
   (let h : HostId := 0
    let tag : Nat := 0
    let o : TrnOut := { device := 2, req := { src := 1, host := 0, tag := 0, window := 0, space := 0, target := 0, width := 2, burst := 0, lane := false, write := false, addr := 0x50000, cover := [true, true, true, true], data := [] }, wtag := 0, start := 0, sent := 0 }
    let s : State := { tFab with trn := { outs := [{ device := 2, req := { src := 1, host := 0, tag := 0, window := 0, space := 0, target := 0, width := 2, burst := 0, lane := false, write := false, addr := 0x50000, cover := [true, true, true, true], data := [] }, wtag := 0, start := 0, sent := 0 }] } }
    outOf s h.val tag = some o ∧ o.req.write = false ∧ o.start + s.fld TRN_CTRL.TIMEOUT * 1000 ≤ s.lt) ∧
   (let p : Port := 0
    let r : TrnReq := { src := 1, host := 0, tag := 0, window := 0, space := 0, target := 0, width := 2, burst := 0, lane := false, write := false, addr := 0x50000, cover := [true, true, true, true], data := [] }
    let s : State := tFab
    fabIn s p.val = true ∧ hasAddr s = true ∧ (keptOf s r).find? (fun k => k.1 = r.tag) = none ∧ (∀ t, r.prev = some t → ∃ k ∈ keptOf s r, k.1 = t) ∧ farDenied s r = true) ∧
   (let p : Port := 0
    let r : TrnReq := { src := 1, host := 0, tag := 0, window := 0, space := 0, target := 0, width := 2, burst := 0, lane := false, write := false, addr := 0x50000, cover := [true, true, true, true], data := [] }
    let s : State := tFab.setFld TRN_FAR.REG_EN 1
    fabIn s p.val = true ∧ hasAddr s = true ∧ (keptOf s r).find? (fun k => k.1 = r.tag) = none ∧ (∀ t, r.prev = some t → ∃ k ∈ keptOf s r, k.1 = t) ∧ farDenied s r = false ∧ busAnswer s r r.src = some false) :=
  ⟨by decide +kernel, by decide +kernel, by decide +kernel, by decide +kernel, by decide +kernel, ⟨by decide +kernel, by decide +kernel, by decide +kernel, by decide +kernel, ⟨by decide +kernel, by decide +kernel⟩⟩⟩

/-- Each clause of `TransomLocksAndSidebandRun` has values that meet its conditions. -/
theorem test_witness_TransomLocksAndSidebandRun :
   (let p : Port := 0
    let s : State := tFab
    let bus : Nat := 0
    fabIn s p.val = true ∧ hasAddr s = true ∧ bus < 5) ∧
   (let p : Port := 0
    let s : State := tFab
    fabIn s p.val = true ∧ hasAddr s = true) ∧
   (let p : Port := 0
    let s : State := tFab
    fabIn s p.val = true ∧ hasAddr s = true) ∧
   (let p : Port := 0
    let s : State := tFab
    fabIn s p.val = true ∧ hasAddr s = true) ∧
   (let p : Port := 0
    let s : State := { tFab with trn := { seqs := [(0, { all := [(2, 1)], asked := some (2, 1) })] } }
    let dev : Nat := 2
    let host : Nat := 0
    let bus : Nat := 1
    let q : LockSeq := { all := [(2, 1)], asked := some (2, 1) }
    fabIn s p.val = true ∧ hasAddr s = true ∧ seqOf s host = some q ∧ q.asked = some (dev, bus) ∧ q.held.contains (dev, bus) = false) ∧
   (let h : HostId := 0
    let q : LockSeq := { all := [(2, 1)], backoff := some 7 }
    let t : Nat := 7
    let s : State := { tFab with trn := { seqs := [(0, { all := [(2, 1)], backoff := some 7 })] } }
    seqOf s h.val = some q ∧ q.backoff = some t ∧ t ≤ s.lt) ∧
   (let bus : Fin 5 := 0
    let l : BusLock := { dev := 2, host := 0, at_ := 0 }
    let s : State := { tFab with trn := { locks := [(0, { dev := 2, host := 0, at_ := 0 })] } }
    kget s.trn.locks bus.val = some l ∧ l.dev ≠ ownAddr s ∧ l.at_ + s.fld TRN_CTRL.LOCK_MAX * 10000 ≤ s.lt) ∧
   (let e : Fin 16 := 0
    let value : Nat := 1
    let w : Nat := 0
    let s : State := ((({ tFab with trn := { refs := [(0, 0)] } }.setFld (TRN_POLL0.VALID 0) 1).setFld (TRN_POLL0.KIND 0) 1)).setFld (TRN_POLL2.MASK 0) 1
    s.pwr.state = 0 ∧ s.flag (TRN_POLL0.VALID e.val) = true ∧ s.flag (TRN_POLL0.KIND e.val) = true ∧ (kget s.trn.polled e.val = none ∨ ∃ t, kget s.trn.polled e.val = some t ∧ t + s.fld (TRN_POLL0.INTERVAL e.val) * 10000 ≤ s.lt) ∧ kget s.trn.refs e.val = some w ∧ (value % 2) &&& s.fld (TRN_POLL2.MASK e.val) ≠ w &&& s.fld (TRN_POLL2.MASK e.val)) ∧
   (let p : Port := 0
    let s : State := tFab
    fabIn s p.val = true ∧ hasAddr s = true) ∧
   (let c : CmdCtx := { tCmd (tBytes 8 []) with who := .host 0 0 }
    let h : HostId := 0
    let qs : Nat := 0
    let s : State := tAsked 0x0B01 { tCmd (tBytes 8 []) with who := .host 0 0 }
    mayRun c 0x0B01 s ∧ c.who = .host h qs ∧ plenIs c 8 = true ∧ byteAt c.par 0 ≤ 15 ∧ parZero c 1 8 = true) :=
  ⟨by decide +kernel, by decide +kernel, by decide +kernel, by decide +kernel, by decide +kernel, ⟨by decide +kernel, by decide +kernel, ⟨by decide +kernel, by decide +kernel, by decide +kernel, Or.inl (by decide +kernel), by decide +kernel, by decide +kernel⟩, by decide +kernel, by decide +kernel⟩⟩

/-- Each clause of `TableCommandsActOnTheirQuadrants` has values that meet its conditions. -/
theorem test_witness_TableCommandsActOnTheirQuadrants :
   (let c : CmdCtx := tCmd (tBytes 24 [(1, 1), (15, 0xF0), (16, 0xFF), (17, 0x0F)])
    let s : State := tRun
    let q := 0
    tblHeaderOk c = true ∧ mayRun c 0x0201 s ∧ tblQuads c = [q]) ∧
   (let c : CmdCtx := tCmd (tBytes 24 [(1, 1)])
    let s : State := tRun
    let q := 0
    let u := drainLearn q (markStarted c 0x0202 s)
    tblHeaderOk c = true ∧ mayRun c 0x0202 s ∧ tblQuads c = [q] ∧ 32 ≤ c.rlen ∧ parZero c 12 24 = true ∧ leAt c.par 8 4 = 0 ∧ rehashing (u.tab q) = false) ∧
   (let c : CmdCtx := tCmd (tBytes 24 [(1, 1), (15, 0xF0), (16, 0xFF), (17, 0x0F)])
    let s : State := tRun
    let u := (tblQuads c).foldl (fun v q => drainLearn q v) (markStarted c 0x0203 s)
    tblHeaderOk c = true ∧ tblWord c &&& entryReserved (tblTable c) = 0 ∧ entryFieldsOk (tblTable c) (tblWord c) = true ∧ tblTable c ≠ 1 ∧ tblTable c ≠ 2 ∧ mayRun c 0x0203 s ∧ (tblTable c = 0 → touchesOwned u (tblQuads c) (tblWord c) = false)) ∧
   (let c : CmdCtx := tCmd (tBytes 24 [(1, 1), (15, 0xF0), (16, 0xFF), (17, 0x0F)])
    let s : State := tRun
    let u := (tblQuads c).foldl (fun v q => drainLearn q v) (markStarted c 0x0207 s)
    tblHeaderOk c = true ∧ tblWord c &&& entryReserved (tblTable c) = 0 ∧ entryFieldsOk (tblTable c) (tblWord c) = true ∧ tblTable c ≠ 1 ∧ tblTable c ≠ 2 ∧ mayRun c 0x0207 s ∧ tblTable c = 0 ∧ touchesOwned u (tblQuads c) (tblWord c) = false) ∧
   (let c : CmdCtx := tCmd (tBytes 24 [(0, 3), (1, 1)])
    let s : State := tRun
    tblHeaderOk c = true ∧ mayRun c 0x0204 s ∧ 3 ≤ tblTable c) ∧
   (let c : CmdCtx := tCmd (tBytes 24 [(1, 1)])
    let s : State := tRun
    tblHeaderOk c = true ∧ mayRun c 0x0205 s ∧ tblTable c = 0 ∧ byteAt c.par 8 ≤ 75 ∧ byteAt c.par 10 < 4 ∧ parZero c 11 24 = true) ∧
   (let c : CmdCtx := tCmd (tBytes 24 [(1, 1)])
    let s : State := tRun
    let u := markStarted c 0x0206 s
    tblHeaderOk c = true ∧ mayRun c 0x0206 s ∧ parZero c 12 24 = true ∧ (tblQuads c).any (rehashBlocked u) = false ∧ (tblQuads c).any (fun q => rehashing (u.tab q)) = false) :=
  ⟨by decide +kernel, by decide +kernel, by decide +kernel, by decide +kernel, by decide +kernel, ⟨by decide +kernel, by decide +kernel⟩⟩

/-- Each clause of `TableEnginesWorkByThemselves` has values that meet its conditions. -/
theorem test_witness_TableEnginesWorkByThemselves :
   (let q : Quad := 0
    let r : LearnReq := { fid := 1, mac := 2, kind := 0, device := 0, port := 16 }
    let l : List LearnReq := []
    let s : State := { tTime with tabs := [(0, { queue := [{ fid := 1, mac := 2, kind := 0, device := 0, port := 16 }] })] }
    (s.tab q.val).queue = r :: l) ∧
   (let q : Quad := 0
    let seed : Nat := 3
    let s : State := { tTime with tabs := [(0, { rehash := .check 3 })] }
    let t := s.tab q.val
    t.rehash = .check seed ∧ rehashFits seed t.serve = true ∧ stopFree s = true) ∧
   (let q : Quad := 0
    let seed : Nat := 3
    let s : State := { tTime with tabs := [(0, { rehash := .check 3, serve := (List.range 300).map (fun i => (i, { pin := true })) })] }
    let t := s.tab q.val
    t.rehash = .check seed ∧ rehashFits seed t.serve = false) ∧
   (let q : Quad := 0
    let seed : Nat := 3
    let s : State := { tTime with tabs := [(0, { rehash := .copy 3 })] }
    (s.tab q.val).rehash = .copy seed ∧ stopFree s = true) ∧
   (let q : Quad := 0
    let s : State := tTime.setFld (QD_L2_CTRL.AGE_EN 0) 1
    s.pwr.state = 0 ∧ s.flag (QD_L2_CTRL.AGE_EN q.val) = true ∧ (s.tab q.val).rehash = .idle ∧ (s.tab q.val).rakeDue ≤ (s.tab q.val).rakeRan) ∧
   (let q : Quad := 0
    let s : State := { tTime with tabs := [(0, { queue := [{ fid := 1, mac := 2, kind := 0, device := 0, port := 16 }] })] }
    (s.tab q.val).moveEnd ≤ s.lt) :=
  ⟨by decide +kernel, by decide +kernel, by decide +kernel, by decide +kernel, by decide +kernel, by decide +kernel⟩

/-- Each clause of `HedgeCommandsActOnTheirQuadrants` has values that meet its conditions. -/
theorem test_witness_HedgeCommandsActOnTheirQuadrants :
   (let c : CmdCtx := tCmd (tBytes 16 [(1, 1)])
    let s : State := tRun
    mayRun c 0x0301 s ∧ hsOk c = true) ∧
   (let c : CmdCtx := tCmd (tBytes 8 [(0, 1)])
    let s : State := tRun
    let u (op : Nat) := hedgeCopied (markStarted c op s)
    let m := byteAt c.par 0
    let f := byteAt c.par 1
    mayRun c 0x0302 s ∧ plenIs c 8 = true ∧ m ≠ 0 ∧ m < 16 ∧ f < 4 ∧ parZero c 2 8 = true ∧ flipFault hedgePairs (maskList m 4) (u 0x0302) = none ∧ stopFree s = true) ∧
   (let c : CmdCtx := tCmd (tBytes 16 [(1, 1)])
    let s : State := tRun
    let q : Nat := 0
    mayRun c 0x0303 s ∧ maskList (hsQmask c) 4 = [q] ∧ hsItem c ≤ 5 ∧ plenIs c 16 = true ∧ hsQmask c < 16 ∧ byteAt c.par 6 < 2 ∧ parZero c 7 16 = true ∧ (∀ n, hrLimit (hsItem c) = some n → hsFirst c + hsCount c ≤ n) ∧ hsCount c ≤ hsMax (hsItem c)) ∧
   (let c : CmdCtx := tCmd (tBytes 16 [])
    let s : State := tRun
    mayRun c 0x0304 s ∧ plenIs c (if byteAt c.par 0 = 3 then 64 else 16) = true ∧ parZero c 1 2 = true ∧ parZero c 6 16 = true ∧ byteAt c.par 0 = 0) ∧
   (let c : CmdCtx := tCmd (tBytes 16 [(0, 1)])
    let s : State := tRun
    mayRun c 0x0304 s ∧ plenIs c (if byteAt c.par 0 = 3 then 64 else 16) = true ∧ parZero c 1 2 = true ∧ parZero c 6 16 = true ∧ byteAt c.par 0 = 1) ∧
   (let c : CmdCtx := tCmd (tBytes 16 [(0, 2)])
    let s : State := tRun
    mayRun c 0x0304 s ∧ plenIs c (if byteAt c.par 0 = 3 then 64 else 16) = true ∧ parZero c 1 2 = true ∧ parZero c 6 16 = true ∧ byteAt c.par 0 = 2) ∧
   (let c : CmdCtx := tCmd (tBytes 64 [(0, 3), (18, 1), (22, 4)])
    let s : State := tRun
    let u (op : Nat) := hedgeCopied (markStarted c op s)
    let i : Nat := 0
    let e := slice c.par 16 48
    let r := phInsert (phKeyOf e) (byteAt e 3 / 16) 4 0xFFFF (leAt e 6 2) (u 0x0304)
    mayRun c 0x0304 s ∧ plenIs c (if byteAt c.par 0 = 3 then 64 else 16) = true ∧ parZero c 1 2 = true ∧ parZero c 6 16 = true ∧ byteAt c.par 0 = 3 ∧ phInputOk e = true ∧ r.2 = some i) ∧
   (let q : Quad := 0
    let s : State := tRun.setFld (QD_HEDGE_STATUS.COPYING 0) 1
    s.flag (QD_HEDGE_STATUS.COPYING q.val) = true) ∧
   (let s : State := tTime
    s.hedge.sweepDue ≤ s.lt) :=
  ⟨by decide +kernel, by decide +kernel, ⟨by decide +kernel, by decide +kernel, by decide +kernel, by decide +kernel, by decide +kernel, ⟨by decide +kernel, by decide +kernel, by intro n _; exact Nat.zero_le n, by decide +kernel⟩⟩, by decide +kernel, by decide +kernel, ⟨by decide +kernel, by decide +kernel, by decide +kernel, by decide +kernel⟩⟩

/-- Each clause of `TimescalesChangeAndPulsesLeave` has values that meet its conditions. -/
theorem test_witness_TimescalesChangeAndPulsesLeave :
   (let c : CmdCtx := tCmd (tBytes 16 [])
    let s : State := tTime
    let d := byteAt c.par 0
    let u := markStarted c 0x0401 s
    mayRun c 0x0401 s ∧ timeStepParamOk u c = true ∧ servoOk u c d = true ∧ (u.dom d).stepArmed = true) ∧
   (let c : CmdCtx := tCmd (tBytes 16 [])
    let s : State := tTime
    let d := byteAt c.par 0
    let u := markStarted c 0x0402 s
    mayRun c 0x0402 s ∧ timeRateParamOk c = true ∧ servoOk u c d = true) ∧
   (let c : CmdCtx := tCmd (tBytes 32 [])
    let s : State := tTime
    let u := markStarted c 0x0403 s
    let dom := byteAt c.par 2
    let start := leAt c.par 8 6 * sec + leAt c.par 4 4
    mayRun c 0x0403 s ∧ pulseParamOk c = true ∧ (byteAt c.par 1 = 1 → u.scale dom + 1000 ≤ start)) ∧
   (let d : Fin 2 := 0
    let p : TimePend := { dom := 0, start := 0, cmd := tCmd [], change := .step 0 5 }
    let s : State := { tTime with time := { tTime.time with pend := [{ dom := 0, start := 0, cmd := tCmd [], change := .step 0 5 }] } }
    let a := 0
    let b := 5
    duePend s d.val = some p ∧ p.change = .step a b) ∧
   (let d : Fin 2 := 0
    let p : TimePend := { dom := 0, start := 0, cmd := tCmd [], change := .rate 7 none }
    let s : State := { tTime with time := { tTime.time with pend := [{ dom := 0, start := 0, cmd := tCmd [], change := .rate 7 none }] } }
    let a := (7 : Int)
    let b := (none : Option (Int × Nat))
    duePend s d.val = some p ∧ p.change = .rate a b) ∧
   (let d : Fin 2 := 0
    let a : AdjSt := { rate := 0, endLt := 5, us := 1 }
    let s : State := { tTime with time := { tTime.time with d0 := { adj := some { rate := 0, endLt := 5, us := 1 } } } }
    (s.dom d.val).adj = some a ∧ a.endLt ≤ s.lt ∧ a.cut = false) ∧
   (let d : Fin 2 := 0
    let a : AdjSt := { rate := 0, endLt := 5, us := 1, cut := true }
    let s : State := { tTime with time := { tTime.time with d0 := { adj := some { rate := 0, endLt := 5, us := 1, cut := true } } } }
    (s.dom d.val).adj = some a ∧ a.endLt ≤ s.lt ∧ a.cut = true) ∧
   (let pin : Fin 4 := 0
    let g : PulseProg := { periodic := false, dom := 2, start := 5, period := 0, width := 10, count := 0, k := 0 }
    let s : State := { tTime with time := { tTime.time with outs := [(0, { prog := some { periodic := false, dom := 2, start := 5, period := 0, width := 10, count := 0, k := 0 } })] } }
    (s.outPin pin.val).prog = some g ∧ s.time.running = true ∧ progDone g = false ∧ nextEdge g ≤ s.scale g.dom ∧ (s.outPin pin.val).active = false) ∧
   (let pin : Fin 4 := 0
    let g : PulseProg := { periodic := false, dom := 2, start := 5, period := 0, width := 10, count := 0, k := 0 }
    let s : State := { tTime with time := { tTime.time with outs := [(0, { active := true, prog := some { periodic := false, dom := 2, start := 5, period := 0, width := 10, count := 0, k := 0 } })] } }
    (s.outPin pin.val).prog = some g ∧ s.time.running = true ∧ progDone g = false ∧ nextEdge g ≤ s.scale g.dom ∧ (s.outPin pin.val).active = true) ∧
   (let pin : Fin 4 := 0
    let d : Nat := 2
    let t : Nat := 7
    let s : State := { tTime with time := { tTime.time with outs := [(0, { active := true, trail := some (2, 7) })] } }
    (s.outPin pin.val).trail = some (d, t) ∧ s.time.running = true ∧ t ≤ s.scale d) :=
  ⟨by decide +kernel, by decide +kernel, by decide +kernel, by decide +kernel, by decide +kernel, ⟨by decide +kernel, by decide +kernel, by decide +kernel, by decide +kernel, by decide +kernel⟩⟩

/-- Each clause of `CapturesWaitForTheirEvents` has values that meet its conditions. -/
theorem test_witness_CapturesWaitForTheirEvents :
   (let pin : Fin 4 := 0
    let falling : Bool := false
    let held : Nat := 29
    let s : State := ((tTime.setFld (TIME_IN_CFG.EDGE 0) 1).setFld (TIME_IN_CFG.FILTER 0) 3)
    let n := pin.val
    s.time.running = true ∧ edgeChosen (s.fld (TIME_IN_CFG.EDGE n)) falling = true ∧ held < s.fld (TIME_IN_CFG.FILTER n) * 10) ∧
   (let pin : Fin 4 := 0
    let falling : Bool := false
    let held : Nat := 30
    let s : State := ((tTime.setFld (TIME_IN_CFG.EDGE 0) 1).setFld (TIME_IN_CFG.FILTER 0) 3)
    let n := pin.val
    s.time.running = true ∧ edgeChosen (s.fld (TIME_IN_CFG.EDGE n)) falling = true ∧ s.fld (TIME_IN_CFG.FILTER n) * 10 ≤ held ∧ s.flag (TIME_IN_CFG.EV_EN n) = false) ∧
   (let pin : Fin 4 := 0
    let falling : Bool := false
    let held : Nat := 30
    let s : State := ((tTime.setFld (TIME_IN_CFG.EDGE 0) 1).setFld (TIME_IN_CFG.FILTER 0) 3).setFld (TIME_IN_CFG.EV_EN 0) 1
    let n := pin.val
    let p := s.inPin n
    s.time.running = true ∧ edgeChosen (s.fld (TIME_IN_CFG.EDGE n)) falling = true ∧ s.fld (TIME_IN_CFG.FILTER n) * 10 ≤ held ∧ s.flag (TIME_IN_CFG.EV_EN n) = true ∧ p.queue.length < 8) ∧
   (let pin : Fin 4 := 0
    let falling : Bool := false
    let held : Nat := 30
    let s : State := { ((tTime.setFld (TIME_IN_CFG.EDGE 0) 1).setFld (TIME_IN_CFG.FILTER 0) 3).setFld (TIME_IN_CFG.EV_EN 0) 1 with time := { tTime.time with ins := [(0, { queue := List.replicate 8 { dom := 0, time := 5, falling := false } })] } }
    let n := pin.val
    let p := s.inPin n
    s.time.running = true ∧ edgeChosen (s.fld (TIME_IN_CFG.EDGE n)) falling = true ∧ s.fld (TIME_IN_CFG.FILTER n) * 10 ≤ held ∧ s.flag (TIME_IN_CFG.EV_EN n) = true ∧ 8 ≤ p.queue.length) ∧
   (let pin : Fin 4 := 0
    let s : State := { tTime with time := { tTime.time with ins := [(0, { lost := 1 })] } }
    let n := pin.val
    let p := s.inPin n
    p.lost ≠ 0) ∧
   (let pin : Fin 4 := 0
    let s : State := { tTime with time := { tTime.time with ins := [(0, { queue := [{ dom := 0, time := 5, falling := false }] })] } }
    let n := pin.val
    let p := s.inPin n
    let c : Capture := { dom := 0, time := 5, falling := false }
    let r : List Capture := []
    p.lost = 0 ∧ p.queue = c :: r) :=
  ⟨by decide +kernel, by decide +kernel, by decide +kernel, by decide +kernel, by decide +kernel, by decide +kernel⟩

/-- Each clause of `SchedulesAreStagedFlippedAndFollowed` has values that meet its conditions. -/
theorem test_witness_SchedulesAreStagedFlippedAndFollowed :
   (let c : CmdCtx := tCmd (tBytes 16 [])
    let s : State := tTime
    let u := markStarted c 0x0501 s
    mayRun c 0x0501 s ∧ flipPending (u.eport (shPort c)) = false ∧ shOk u c = true) ∧
   (let c : CmdCtx := tCmd (tBytes 16 [])
    let s : State := { tTime with egr := { ports := [(0, { copying := true })] } }
    let u := markStarted c 0x0501 s
    mayRun c 0x0501 s ∧ flipPending (u.eport (shPort c)) = true) ∧
   (let c : CmdCtx := tCmd (tBytes 16 [])
    let s : State := tTime
    let u := markStarted c 0x0502 s
    let p := byteAt c.par 0
    let change := leAt c.par 8 6 * sec + leAt c.par 4 4
    mayRun c 0x0502 s ∧ plenIs c 16 = true ∧ p ≤ 75 ∧ parZero c 1 4 = true ∧ parZero c 14 16 = true ∧ change ≤ u.scale (flipDom (u.eport p)) + 10 * sec ∧ flipPending (u.eport p) = false ∧ recheck u p (u.eport p).shadow = none) ∧
   (let c : CmdCtx := tCmd (tBytes 16 [])
    let s : State := { tTime with egr := { ports := [(0, { shadow := { classes := [(5, { mode := 0, rate := 7, burst := 0 })] } })] }, streams := [(5, { contract := tContract 2, phase := .committed, hops := [{ path := 0, inPort := 16, outPort := 0, aUp := 0, bound := 500 }] })] }
    let u := markStarted c 0x0502 s
    let p := byteAt c.par 0
    let change := leAt c.par 8 6 * sec + leAt c.par 4 4
    let h := 5
    mayRun c 0x0502 s ∧ plenIs c 16 = true ∧ p ≤ 75 ∧ parZero c 1 4 = true ∧ parZero c 14 16 = true ∧ change ≤ u.scale (flipDom (u.eport p)) + 10 * sec ∧ flipPending (u.eport p) = false ∧ recheck u p (u.eport p).shadow = some h) ∧
   (let c : CmdCtx := tCmd (tBytes 16 [])
    let s : State := { tTime with egr := { ports := [(0, { copying := true })] } }
    let u := markStarted c 0x0502 s
    let p := byteAt c.par 0
    let change := leAt c.par 8 6 * sec + leAt c.par 4 4
    mayRun c 0x0502 s ∧ plenIs c 16 = true ∧ p ≤ 75 ∧ parZero c 1 4 = true ∧ parZero c 14 16 = true ∧ change ≤ u.scale (flipDom (u.eport p)) + 10 * sec ∧ flipPending (u.eport p) = true) ∧
   (let c : CmdCtx := tCmd (tBytes 16 [(0, 3)])
    let s : State := tTime
    let u := markStarted c 0x0503 s
    let p := shPort c
    mayRun c 0x0503 s ∧ flipPending (u.eport p) = false ∧ plenIs c 16 = true ∧ p ≤ 75 ∧ byteAt c.par 6 < 2 ∧ parZero c 7 16 = true ∧ shItem c = 3 ∧ shFirst c + shCount c ≤ 8) ∧
   (let c : CmdCtx := tCmd (tBytes 16 [])
    let s : State := tTime
    let u := markStarted c 0x0503 s
    let p := shPort c
    mayRun c 0x0503 s ∧ flipPending (u.eport p) = false ∧ plenIs c 16 = true ∧ p ≤ 75 ∧ byteAt c.par 6 < 2 ∧ parZero c 7 16 = true ∧ shItem c < 3 ∧ shFirst c + shCount c ≤ shLimit (shItem c) ∧ shCount c ≤ shMax (shItem c)) ∧
   (let c : CmdCtx := tCmd (tBytes 16 [])
    let s : State := { tTime with egr := { ports := [(0, { copying := true })] } }
    let u := markStarted c 0x0503 s
    let p := shPort c
    mayRun c 0x0503 s ∧ flipPending (u.eport p) = true) ∧
   (let p : Port := 0
    let s : State := { tTime with egr := { ports := [(0, { flip := some { f := 0, dom := 0, cmd := none } })] } }
    flipDue s p.val = true) ∧
   (let p : Port := 0
    let s : State := { tTime with egr := { ports := [(0, { copying := true })] } }
    (s.eport p.val).copying = true) ∧
   (let s : State := tTime
    s.pwr.state < 3) ∧
   (let p : Port := 0
    let s : State := { tTime with egr := { ports := [(0, { verify := 1 })] } }
    (s.eport p.val).verify = 1) :=
  ⟨by decide +kernel, by decide +kernel, by decide +kernel, by decide +kernel, by decide +kernel, ⟨by decide +kernel, by decide +kernel, by decide +kernel, by decide +kernel, ⟨by decide +kernel, by decide +kernel, by decide +kernel⟩⟩⟩

/-- Each clause of `PausesEnergyLanesAndSensorsRun` has values that meet its conditions. -/
theorem test_witness_PausesEnergyLanesAndSensorsRun :
   (let p : Port := 0
    pfcPort p.val = true) ∧
   (let p : Port := 0
    let c : Fin 5 := 0
    let t : Nat := 5
    let s : State := { tFab with egr := { ports := [(0, { paused := [(0, 5)] })] } }
    kget (s.eport p.val).paused c.val = some t ∧ t ≤ s.lt) ∧
   (let p : Port := 0
    let c : Fin 5 := 0
    let t : Nat := 5
    let s : State := { tFab with egr := { ports := [(0, { paused := [(0, 2000000000000)], pausedAt := [(0, 5)] })] } }
    kget (s.eport p.val).pausedAt c.val = some t ∧ t + 100000000 ≤ s.lt ∧ isPaused s p.val c.val = true ∧ (s.eport p.val).stuck.contains c.val = false) ∧
   (let p : Port := 0
    let s : State := ({ tFab with egr := { ports := [(0, { pfcOut := 1 })] } }.setFld FAB_STATUS.LARGE 1).setFld (EGR_PORT_CTRL.PFC_EN 0) 1
    pfcPort p.val = true ∧ largeFabric s = true ∧ s.flag (EGR_PORT_CTRL.PFC_EN p.val) = true ∧ portUp s p.val = true) ∧
   (let t : Nat := 5
    let s : State := { tFab with egr := { energy := -5, energyAt := 1000000000000, emptySince := some 5 } }.setFld EGR_CTRL.ENERGY_EN 1
    let u := settleEnergy s
    u.egr.emptySince = some t ∧ u.flag EGR_CTRL.ENERGY_EN = true ∧ t + 10000000 ≤ u.lt ∧ u.egr.emptyTold = false ∧ (∀ l, u.egr.emptyLast = some l → l + sec ≤ u.lt)) ∧
   (let p : Port := 0
    let s : State := { tFab with egr := { ports := [(0, { park := 1 })] } }
    ((s.eport p.val).park = 1 ∨ (s.eport p.val).park = 2) ∧ (tc56Opens s p.val ≤ wakeLead s p.val ∨ ∃ t, (s.eport p.val).beFirst = some t ∧ t + beWaitMax s p.val ≤ s.lt)) ∧
   (let p : Port := 0
    let s : State := { tFab with egr := { ports := [(0, { park := 3 })] } }
    (s.eport p.val).park = 3 ∧ (s.eport p.val).readyAt ≤ s.lt) ∧
   (let s : State := tFab
    s.pwr.state ≤ 2 ∧ s.egr.histDue ≤ s.lt) ∧
   (let q0 : Nat := 0
    let q1 : Nat := 0
    let q2 : Nat := 0
    let q3 : Nat := 0
    let centre : Nat := 0
    let s : State := tFab
    let l := [q0, q1, q2, q3, centre]
    s.pwr.state ≤ 2 ∧ s.lt % 100000 = 0 ∧ (∀ e ∈ l.zipIdx, ¬ (280 ≤ halfDeg e.1 ∧ 280 ≤ halfDeg (s.fld (PWR_TJ.TJ e.2))))) :=
  ⟨by decide +kernel, by decide +kernel, by decide +kernel, by decide +kernel, ⟨by decide +kernel, by decide +kernel, by decide +kernel, by decide +kernel, by intro l h; exact nomatch (show (none : Option Nat) = some l from h)⟩, ⟨⟨by decide +kernel, Or.inl (by decide +kernel)⟩, by decide +kernel, by decide +kernel, by decide +kernel⟩⟩

/-- Each clause of `AdmissionCommandsActOnTheirStream` has values that meet its conditions. -/
theorem test_witness_AdmissionCommandsActOnTheirStream :
   (let c : CmdCtx := tCmd (tContract 1)
    let s : State := tFab
    let u := markStarted c 0x0601 s
    let h := contractHandle c.par
    let x : Stream := { contract := c.par, phase := .asking, ingress := true, cmd := some (0x0601, c), since := u.lt, deadline := u.lt + u.fld ADM_TIMERS.ADM_TIMEOUT * 1000000 }
    let v := (u.bump ADM_REQ_CNT).putStream h x
    mayRun c 0x0601 s ∧ plenIs c 64 = true ∧ contractOk u c.par = true ∧ hopClosed u = none ∧ khas u.streams h = false ∧ (remoteDests c.par (ownAddr v)).isEmpty = true ∧ hasAddr v = true) ∧
   (let c : CmdCtx := tCmd (tContract 2)
    let s : State := tFab
    let u := markStarted c 0x0601 s
    let h := contractHandle c.par
    let x : Stream := { contract := c.par, phase := .asking, ingress := true, cmd := some (0x0601, c), since := u.lt, deadline := u.lt + u.fld ADM_TIMERS.ADM_TIMEOUT * 1000000 }
    let v := (u.bump ADM_REQ_CNT).putStream h x
    mayRun c 0x0601 s ∧ plenIs c 64 = true ∧ contractOk u c.par = true ∧ hopClosed u = none ∧ khas u.streams h = false ∧ ((remoteDests c.par (ownAddr v)).isEmpty = false ∨ hasAddr v = false)) ∧
   (let c : CmdCtx := tCmd (tBytes 8 [(0, 5)])
    let s : State := { tFab with streams := [(5, { contract := tContract 2, phase := .tentative, ingress := true })] }
    let x : Stream := { contract := tContract 2, phase := .tentative, ingress := true }
    let u := markStarted c 0x0602 s
    let acks := (x.paths.zipIdx).flatMap (fun p => p.1.hops.map (fun k => (p.2, k.1)))
    mayRun c 0x0602 s ∧ plenIs c 8 = true ∧ parZero c 2 8 = true ∧ u.stream (cmdHandle c) = some x ∧ x.ingress = true ∧ x.phase = .tentative ∧ acks = []) ∧
   (let c : CmdCtx := tCmd (tBytes 8 [(0, 5)])
    let s : State := { tFab with streams := [(5, { contract := tContract 2, phase := .tentative, ingress := true, paths := [{ first := 0, hops := [(2, 17)] }] })] }
    let x : Stream := { contract := tContract 2, phase := .tentative, ingress := true, paths := [{ first := 0, hops := [(2, 17)] }] }
    let u := markStarted c 0x0602 s
    let acks := (x.paths.zipIdx).flatMap (fun p => p.1.hops.map (fun k => (p.2, k.1)))
    mayRun c 0x0602 s ∧ plenIs c 8 = true ∧ parZero c 2 8 = true ∧ u.stream (cmdHandle c) = some x ∧ x.ingress = true ∧ x.phase = .tentative ∧ acks ≠ []) ∧
   (let c : CmdCtx := tCmd (tBytes 8 [(0, 5)])
    let s : State := { tFab with streams := [(5, { contract := tContract 2, phase := .tentative, ingress := true })] }
    let x : Stream := { contract := tContract 2, phase := .tentative, ingress := true }
    let u := markStarted c 0x0603 s
    mayRun c 0x0603 s ∧ plenIs c 8 = true ∧ parZero c 2 8 = true ∧ u.stream (cmdHandle c) = some x ∧ x.ingress = true ∧ x.phase = .tentative) ∧
   (let c : CmdCtx := tCmd (tBytes 8 [(0, 5)])
    let s : State := { tFab with streams := [(5, { contract := tContract 2, phase := .committed, ingress := true })] }
    let x : Stream := { contract := tContract 2, phase := .committed, ingress := true }
    let u := markStarted c 0x0603 s
    mayRun c 0x0603 s ∧ plenIs c 8 = true ∧ parZero c 2 8 = true ∧ u.stream (cmdHandle c) = some x ∧ x.ingress = true ∧ x.phase = .committed) ∧
   (let c : CmdCtx := tCmd (tBytes 8 [(0, 5)])
    let s : State := { tFab with streams := [(5, { contract := tContract 2, phase := .tentative, ingress := true })] }
    let x : Stream := { contract := tContract 2, phase := .tentative, ingress := true }
    let u := markStarted c 0x0604 s
    mayRun c 0x0604 s ∧ plenIs c 8 = true ∧ parZero c 2 8 = true ∧ u.stream (cmdHandle c) = some x) ∧
   (let c : CmdCtx := tCmd (tBytes 16 [])
    let s : State := { tFab with streams := [(5, { contract := tContract 2, phase := .tentative, ingress := true })] }
    mayRun c 0x0605 s ∧ engineHeld s = false ∧ plenIs c 16 = true ∧ parZero c 12 16 = true) ∧
   (let c : CmdCtx := tCmd (tBytes 40 [(0, 5), (3, 1), (8, 2), (9, 17)])
    let s : State := { tFab with streams := [(5, { contract := tContract 2, phase := .committed, ingress := true })] }
    let x : Stream := { contract := tContract 2, phase := .committed, ingress := true }
    let u := markStarted c 0x0701 s
    let r := pathSetRec c
    mayRun c 0x0701 s ∧ plenIs c 40 = true ∧ pathSetOk c = true ∧ u.stream (cmdHandle c) = some x ∧ isDest u x (byteAt c.par 2) ((r.hops.getLast?).getD (0, 0)) = true ∧ x.ingress = true ∧ x.phase = .committed ∧ x.rerun = none ∧ (byteAt c.par 2 = 1 → x.protect = true)) :=
  ⟨by decide +kernel, by decide +kernel, by decide +kernel, by decide +kernel, by decide +kernel, ⟨by decide +kernel, by decide +kernel, by decide +kernel, by decide +kernel⟩⟩

/-- Each clause of `StreamsFollowMessagesAndTimers` has values that meet its conditions. -/
theorem test_witness_StreamsFollowMessagesAndTimers :
   (let p : Port := 0
    let s : State := tFab
    dfpOn s = true ∧ s.fabricPort p.val = true ∧ portUp s p.val = true) ∧
   (let p : Port := 0
    let s : State := tFab
    dfpOn s = true ∧ s.fabricPort p.val = true ∧ portUp s p.val = true) ∧
   (let p : Port := 0
    let s : State := tFab
    dfpOn s = true ∧ s.fabricPort p.val = true ∧ portUp s p.val = true) ∧
   (let p : Port := 0
    let s : State := tFab
    dfpOn s = true ∧ s.fabricPort p.val = true ∧ portUp s p.val = true) ∧
   (let p : Port := 0
    let s : State := tFab
    dfpOn s = true ∧ s.fabricPort p.val = true ∧ portUp s p.val = true) ∧
   (let h : Nat := 5
    let x : Stream := { contract := tContract 2, phase := .committed, rerun := some 0, ingress := true }
    let s : State := { tFab with streams := [(5, { contract := tContract 2, phase := .committed, rerun := some 0, ingress := true })] }
    s.stream h = some x ∧ x.deadline ≤ s.lt ∧ x.rerun.isSome = true) ∧
   (let h : Nat := 5
    let x : Stream := { contract := tContract 2, phase := .requested, ingress := true }
    let s : State := { tFab with streams := [(5, { contract := tContract 2, phase := .requested, ingress := true })] }
    s.stream h = some x ∧ x.deadline ≤ s.lt ∧ x.rerun = none ∧ (x.phase = .requested ∨ x.phase = .asking ∧ x.ingress = true)) ∧
   (let h : Nat := 5
    let x : Stream := { contract := tContract 1, phase := .asking }
    let s : State := { tFab with streams := [(5, { contract := tContract 1, phase := .asking })] }
    s.stream h = some x ∧ x.deadline ≤ s.lt ∧ x.rerun = none ∧ x.phase = .asking ∧ x.ingress = false) ∧
   (let h : Nat := 5
    let x : Stream := { contract := tContract 2, phase := .committing, ingress := true }
    let s : State := { tFab with streams := [(5, { contract := tContract 2, phase := .committing, ingress := true })] }
    s.stream h = some x ∧ x.deadline ≤ s.lt ∧ x.rerun = none ∧ x.phase = .committing) ∧
   (let h : Nat := 5
    let x : Stream := { contract := tContract 2, phase := .tentative, ingress := true }
    let s : State := { tFab with streams := [(5, { contract := tContract 2, phase := .tentative, ingress := true })] }
    s.stream h = some x ∧ x.deadline ≤ s.lt ∧ x.phase = .tentative) ∧
   (let h : Nat := 5
    let x : Stream := { contract := tContract 1, phase := .committed, hops := [{ path := 0, inPort := 0, outPort := 16, aUp := 0, tent := true }] }
    let s : State := { tFab with streams := [(5, { contract := tContract 1, phase := .committed, hops := [{ path := 0, inPort := 0, outPort := 16, aUp := 0, tent := true }] })] }
    s.stream h = some x ∧ x.deadline ≤ s.lt ∧ x.phase = .committed ∧ x.ingress = false ∧ x.hops.any (·.tent) = true) ∧
   (let h : Nat := 5
    let x : Stream := { contract := tContract 2, phase := .withdrawing, ingress := true }
    let s : State := { tFab with streams := [(5, { contract := tContract 2, phase := .withdrawing, ingress := true })] }
    let gone : Bool := true
    s.stream h = some x ∧ x.phase = .withdrawing ∧ x.ingress = true ∧ (x.deadline ≤ s.lt ∨ gone = true ∧ streamGone s h = true)) ∧
   (let h : Nat := 5
    let x : Stream := { contract := tContract 2, phase := .committed, quotaUntil := some 5, ingress := true }
    let s : State := { tFab with streams := [(5, { contract := tContract 2, phase := .committed, quotaUntil := some 5, ingress := true })] }
    let t : Nat := 5
    s.stream h = some x ∧ x.quotaUntil = some t ∧ t ≤ s.lt ∧ x.quotaCount = 0) ∧
   (let h : Nat := 5
    let x : Stream := { contract := tContract 2, phase := .committed, quotaUntil := some 5, quotaCount := 1, ingress := true }
    let s : State := { tFab with streams := [(5, { contract := tContract 2, phase := .committed, quotaUntil := some 5, quotaCount := 1, ingress := true })] }
    let t : Nat := 5
    s.stream h = some x ∧ x.quotaUntil = some t ∧ t ≤ s.lt ∧ x.quotaCount ≠ 0) :=
  ⟨by decide +kernel, by decide +kernel, by decide +kernel, by decide +kernel, by decide +kernel, ⟨by decide +kernel, by decide +kernel, by decide +kernel, by decide +kernel, ⟨by decide +kernel, by decide +kernel, by decide +kernel, by decide +kernel, by decide +kernel⟩⟩⟩

/-- Each clause of `PairUnitsWatchEachOther` has values that meet its conditions. -/
theorem test_witness_PairUnitsWatchEachOther :
   (let c : CmdCtx := tCmd (tBytes 8 [])
    let s : State := ((tPair 1).modPair (fun p => { p with peer := some { role := 3, mode := 1, uid := 9 }, lastCkpt := 999999000000, ckDone := 999999000000 }))
    let u := markStarted c 0x0702 s
    mayRun c 0x0702 s ∧ plenIs c 8 = true ∧ parZero c 0 8 = true ∧ u.pairMode = 1 ∧ pairRole u = 1 ∧ u.pair.lost = false ∧ (∃ hb, u.pair.peer = some hb ∧ hb.role = 3) ∧ u.pair.ckDone ≠ 0 ∧ u.lt ≤ u.pair.ckDone + 2 * ckptPeriod u) ∧
   (let t : Nat := 5
    let s : State := (tPair 1).modPair (fun p => { p with overlap := some 5 })
    s.pair.overlap = some t) ∧
   (let s : State := tPair 1
    pairOn s = true ∧ s.pair.sentHb + 50000 ≤ s.lt) ∧
   (let s : State := tPair 1
    pairOn s = true) ∧
   (let s : State := (tPair 1).modPair (fun p => { p with deciding := true })
    let u := (s.modPair (fun p => { p with lost := true })).setFld PAIR_STATUS.PEER_SEEN 0
    pairOn s = true ∧ s.pair.lost = false ∧ lostAt s ≤ s.lt ∧ (s.pairMode = 0 → s.pair.peer ≠ none) ∧ u.pair.deciding = true) ∧
   (let s : State := tPair 1
    let u := (s.modPair (fun p => { p with lost := true })).setFld PAIR_STATUS.PEER_SEEN 0
    let v := peerLostEvent 0 (u.bump PAIR_HB_LOST)
    pairOn s = true ∧ s.pair.lost = false ∧ lostAt s ≤ s.lt ∧ (s.pairMode = 0 → s.pair.peer ≠ none) ∧ u.pair.deciding = false ∧ pairRole v ≠ 3) ∧
   (let s : State := (tPair 3).modPair (fun p => { p with peerLow := some 5 })
    let u := (s.modPair (fun p => { p with lost := true })).setFld PAIR_STATUS.PEER_SEEN 0
    let v := peerLostEvent 0 (u.bump PAIR_HB_LOST)
    let w := v.modPair (fun p => { p with detected := v.lt })
    pairOn s = true ∧ s.pair.lost = false ∧ lostAt s ≤ s.lt ∧ (s.pairMode = 0 → s.pair.peer ≠ none) ∧ u.pair.deciding = false ∧ pairRole v = 3 ∧ w.pair.peerLow.isSome = true) ∧
   (let s : State := tPair 3
    let u := (s.modPair (fun p => { p with lost := true })).setFld PAIR_STATUS.PEER_SEEN 0
    let v := peerLostEvent 0 (u.bump PAIR_HB_LOST)
    let w := v.modPair (fun p => { p with detected := v.lt })
    pairOn s = true ∧ s.pair.lost = false ∧ lostAt s ≤ s.lt ∧ (s.pairMode = 0 → s.pair.peer ≠ none) ∧ u.pair.deciding = false ∧ pairRole v = 3 ∧ w.pair.peerLow = none) ∧
   (let t : Nat := 5
    let s : State := (tPair 3).modPair (fun p => { p with waitTill := some 5 })
    s.pair.waitTill = some t ∧ t ≤ s.lt ∧ pairRole s = 3) :=
  ⟨⟨by decide +kernel, by decide +kernel, by decide +kernel, by decide +kernel, by decide +kernel, ⟨by decide +kernel, ⟨_, rfl, rfl⟩, by decide +kernel, by decide +kernel⟩⟩, by decide +kernel, by decide +kernel, by decide +kernel, by decide +kernel, ⟨by decide +kernel, by decide +kernel, by decide +kernel, by decide +kernel⟩⟩

/-- Each clause of `FenceLinesAndCheckpointsActOnThePair` has values that meet its conditions. -/
theorem test_witness_FenceLinesAndCheckpointsActOnThePair :
   (let held : Nat := 0
    let s : State := tPair 1
    held < fenceFilter s.dbg.straps) ∧
   (let held : Nat := 1000
    let s : State := tPair 1
    fenceFilter s.dbg.straps ≤ held ∧ s.pair.forced = false) ∧
   (let held : Nat := 1000
    let s : State := tPair 1
    fenceFilter s.dbg.straps ≤ held ∧ s.pair.peerLow = none) ∧
   (let held : Nat := 1000
    let s : State := tPair 1
    fenceFilter s.dbg.straps ≤ held) ∧
   (let held : Nat := 1000
    let s : State := tPair 1
    fenceFilter s.dbg.straps ≤ held ∧ s.flag PAIR_STATUS.FORCING = false) ∧
   (let s : State := tPair 1
    pairOn s = true ∧ pairRole s = 1 ∧ triadRun s = true ∧ s.pwr.state = 0 ∧ s.pair.lastCkpt + ckptPeriod s ≤ s.lt) ∧
   (let s : State := tPair 2
    pairOn s = true ∧ s.pair.deciding = false ∧ (pairRole s = 2 ∨ pairRole s = 3)) ∧
   (let s : State := tPair 3
    pairOn s = true ∧ s.pair.deciding = false ∧ pairRole s = 3) ∧
   (let s : State := (tPair 4).modPair (fun p => { p with handover := true })
    let h := s.pair.handover
    pairRole s = 4 ∧ s.pwr.state = 0 ∧ s.pwr.exit = none ∧ h = true) ∧
   (let s : State := tPair 4
    let h := s.pair.handover
    pairRole s = 4 ∧ s.pwr.state = 0 ∧ s.pwr.exit = none ∧ h = false) ∧
   (let t : Nat := 5
    let s : State := (tPair 1).modPair (fun p => { p with peerLow := some 5, busWait := true, handover := true, told := false })
    let u := s.modGw (fun g => { g with lins := g.lins.map (fun e => (e.1, { e.2 with entry := linFirst (linTable s e.1 e.2.table) })) })
    s.pair.peerLow = some t ∧ s.pair.busWait = true ∧ pairRole s = 1 ∧ t + s.fld PAIR_BUS_FENCE.BUS_FENCE * 1000 ≤ s.lt ∧ u.pair.handover = true ∧ u.pair.told = false) ∧
   (let t : Nat := 5
    let s : State := (tPair 1).modPair (fun p => { p with peerLow := some 5, busWait := true })
    let u := s.modGw (fun g => { g with lins := g.lins.map (fun e => (e.1, { e.2 with entry := linFirst (linTable s e.1 e.2.table) })) })
    s.pair.peerLow = some t ∧ s.pair.busWait = true ∧ pairRole s = 1 ∧ t + s.fld PAIR_BUS_FENCE.BUS_FENCE * 1000 ≤ s.lt ∧ (u.pair.handover = false ∨ u.pair.told = true)) :=
  ⟨by decide +kernel, by decide +kernel, by decide +kernel, by decide +kernel, by decide +kernel, ⟨by decide +kernel, by decide +kernel, by decide +kernel, by decide +kernel, ⟨by decide +kernel, by decide +kernel, by decide +kernel⟩⟩⟩

/-- Each clause of `GatewayCommandsActOnSetsImagesAndBuses` has values that meet its conditions. -/
theorem test_witness_GatewayCommandsActOnSetsImagesAndBuses :
   (let c : CmdCtx := tCmd (tBytes 16 [])
    let s : State := tTime
    let u := gwCopyEnd (markStarted c 0x0801 s)
    let item := gwItem c
    let n := gwCount c
    mayRun c 0x0801 s ∧ item < 7 ∧ byteAt c.par 1 = 0 ∧ parZero c 6 16 = true ∧ gwFirst c + n ≤ gwLimit item ∧ n ≤ gwMax item ∧ plenIs c (16 + n * gwSize item) = true ∧ (∀ k < n, gwEntryOk u.gw.shadow item (gwStaged c k) = true)) ∧
   (let c : CmdCtx := tCmd (tBytes 16 [(0, 7), (1, 127)])
    let s : State := tTime
    let item := gwItem c
    let m := byteAt c.par 1
    mayRun c 0x0801 s ∧ item = 7 ∧ plenIs c 16 = true ∧ m < 128 ∧ parZero c 6 16 = true) ∧
   (let c : CmdCtx := tCmd (tBytes 8 [])
    let s : State := tTime
    let u := gwCopyEnd (markStarted c 0x0802 s)
    mayRun c 0x0802 s ∧ plenIs c 8 = true ∧ byteAt c.par 0 < 2 ∧ parZero c 1 8 = true ∧ gwFlipParam u.gw.shadow = none ∧ gwFlipState u = none ∧ stopFree s = true) ∧
   (let c : CmdCtx := tCmd (tBytes 16 [])
    let s : State := tTime
    mayRun c 0x0803 s ∧ gwItem c ≤ 6 ∧ byteAt c.par 1 < 2 ∧ plenIs c 16 = true ∧ parZero c 6 16 = true ∧ gwFirst c + gwCount c ≤ gwLimit (gwItem c) ∧ gwCount c ≤ gwMax (gwItem c)) ∧
   (let c : CmdCtx := tCmd (tBytes 16 [])
    let s : State := tTime
    let op := byteAt c.par 0
    let i := leAt c.par 2 2
    let off := byteAt c.par 4
    let n := byteAt c.par 5
    mayRun c 0x0804 s ∧ byteAt c.par 1 = 0 ∧ i ≤ 1023 ∧ off + n ≤ 64 ∧ byteAt c.par 6 < 2 ∧ parZero c 7 16 = true ∧ plenIs c (16 + n) = true ∧ op = 0) ∧
   (let c : CmdCtx := tCmd (tBytes 18 [(0, 1), (5, 2)])
    let s : State := { tTime with gw := { active := [(12288, tBytes 96 [(0, 0xC0), (12, 1)])] } }
    let u := markStarted c 0x0804 s
    let op := byteAt c.par 0
    let i := leAt c.par 2 2
    let off := byteAt c.par 4
    let n := byteAt c.par 5
    mayRun c 0x0804 s ∧ byteAt c.par 1 = 0 ∧ i ≤ 1023 ∧ off + n ≤ 64 ∧ byteAt c.par 6 < 2 ∧ parZero c 7 16 = true ∧ plenIs c (16 + n) = true ∧ op = 1 ∧ imValid (gwImage u i) = true ∧ imTx (gwImage u i) = true) ∧
   (let c : CmdCtx := tCmd (tBytes 16 [(0, 2)])
    let s : State := { tTime with gw := { active := [(12288, tBytes 96 [(0, 0xC0), (12, 1)])] } }
    let u := markStarted c 0x0804 s
    let op := byteAt c.par 0
    let i := leAt c.par 2 2
    let off := byteAt c.par 4
    let n := byteAt c.par 5
    mayRun c 0x0804 s ∧ byteAt c.par 1 = 0 ∧ i ≤ 1023 ∧ off + n ≤ 64 ∧ byteAt c.par 6 < 2 ∧ parZero c 7 16 = true ∧ plenIs c (16 + n) = true ∧ op = 2 ∧ imValid (gwImage u i) = true ∧ imTx (gwImage u i) = true) ∧
   (let c : CmdCtx := tCmd (tBytes 8 [(0, 64), (2, 7)])
    let s : State := tTime.setFld (LEG_LIN_CFG.ROLE 0) 1
    let u := markStarted c 0x0805 s
    let p := byteAt c.par 0
    let op := byteAt c.par 1
    let k := byteAt c.par 2
    mayRun c 0x0805 s ∧ plenIs c 8 = true ∧ isLegacyPort p = true ∧ parZero c 3 8 = true ∧ op = 0 ∧ k ≤ 7 ∧ isLinPort p = true ∧ u.fld (LEG_LIN_CFG.ROLE (p - 64)) = 1) ∧
   (let c : CmdCtx := tCmd (tBytes 8 [(0, 40), (1, 1)])
    let s : State := tTime.setFld (LEG_CAN_STATUS.STATE 0) 2
    let u := markStarted c 0x0805 s
    let p := byteAt c.par 0
    let op := byteAt c.par 1
    let k := byteAt c.par 2
    mayRun c 0x0805 s ∧ plenIs c 8 = true ∧ isLegacyPort p = true ∧ parZero c 3 8 = true ∧ op = 1 ∧ k = 0 ∧ isCanPort p = true ∧ u.fld (LEG_CAN_STATUS.STATE (p - 40)) = 2) ∧
   (let c : CmdCtx := tCmd (tBytes 8 [(0, 40), (1, 2), (2, 3)])
    let s : State := tTime
    let p := byteAt c.par 0
    let op := byteAt c.par 1
    let k := byteAt c.par 2
    mayRun c 0x0805 s ∧ plenIs c 8 = true ∧ isLegacyPort p = true ∧ parZero c 3 8 = true ∧ op = 2 ∧ k ≤ 3 ∧ isCanPort p = true) ∧
   (let c : CmdCtx := tCmd (tBytes 8 [(0, 70), (1, 3), (2, 3)])
    let s : State := tTime
    let u := markStarted c 0x0805 s
    let p := byteAt c.par 0
    let op := byteAt c.par 1
    let k := byteAt c.par 2
    let n := 7
    mayRun c 0x0805 s ∧ plenIs c 8 = true ∧ isLegacyPort p = true ∧ parZero c 3 8 = true ∧ op = 3 ∧ k ≤ 3 ∧ 70 ≤ p ∧ frCommand u k = some n) ∧
   (let s : State := { tTime with gw := { copying := true } }
    s.gw.copying = true) :=
  ⟨by decide +kernel, by decide +kernel, by decide +kernel, by decide +kernel, by decide +kernel, ⟨by decide +kernel, by decide +kernel, by decide +kernel, by decide +kernel, ⟨by decide +kernel, by decide +kernel, by decide +kernel⟩⟩⟩

/-- Each clause of `SignalsAndBusesRun` has values that meet its conditions. -/
theorem test_witness_SignalsAndBusesRun :
   (let i : Nat := 0
    let s : State := { tTime with gw := { active := [(12288, tBytes 96 [(0, 0xC0), (12, 1)])] } }.setFld GW_CTRL.SIG_EN 1
    let e := gwImage s i
    s.flag GW_CTRL.SIG_EN = true ∧ s.pwr.state ≤ 2 ∧ imValid e = true ∧ imTx e = true ∧ imPeriod e ≠ 0 ∧ (s.image i).cyclic ≤ s.lt) ∧
   (let i : Nat := 0
    let s : State := { tTime with gw := { images := [(0, { data := [], written := 0, deferred := true })] } }.setFld GW_CTRL.SIG_EN 1
    s.flag GW_CTRL.SIG_EN = true ∧ s.pwr.state ≤ 2 ∧ (s.image i).deferred = true ∧ imGapPast s i = true) ∧
   (let s : State := tTime.setFld GW_CTRL.SIG_EN 1
    s.flag GW_CTRL.SIG_EN = true ∧ s.pwr.state ≤ 2 ∧ s.lt % 1000000 = 0) ∧
   (let p : Port := 40
    let k : Nat := 0
    let x : Loaded := { cell := { buf := 1 }, tc := 4, inPort := 72, frame := tBytes 48 [(0, 1)], order := 0 }
    let s : State := { tTime with gw := { cans := [(0, { slots := [(0, { cell := { buf := 1 }, tc := 4, inPort := 72, frame := tBytes 48 [(0, 1)], order := 0 })] })] } }.setFld (LEG_CAN_MODE.MODE 0) 1
    let n := p.val - 40
    isCanPort p.val = true ∧ portUp s p.val = true ∧ canOffer (s.can n).slots = some (k, x)) ∧
   (let p : Port := 40
    let k : Nat := 0
    let x : Loaded := { cell := { buf := 1 }, tc := 4, inPort := 72, frame := tBytes 48 [(0, 1)], order := 0 }
    let s : State := { tTime with gw := { cans := [(0, { slots := [(0, { cell := { buf := 1 }, tc := 4, inPort := 72, frame := tBytes 48 [(0, 1)], order := 0 })] })] } }.setFld (LEG_CAN_MODE.MODE 0) 1
    let n := p.val - 40
    isCanPort p.val = true ∧ portUp s p.val = true ∧ canOffer (s.can n).slots = some (k, x)) ∧
   (let p : Port := 40
    let k : Nat := 0
    let x : Loaded := { cell := { buf := 1 }, tc := 4, inPort := 72, frame := tBytes 48 [(0, 1)], order := 0 }
    let s : State := ({ tTime with gw := { cans := [(0, { slots := [(0, { cell := { buf := 1 }, tc := 4, inPort := 72, frame := tBytes 48 [(0, 1)], order := 0 })] })] } }.setFld (LEG_CAN_MODE.MODE 0) 1).setFld (LEG_CAN_STATUS.TEC 0) 248
    let n := p.val - 40
    let u := s.bump (LEG_CAN_ERR_FRAMES n)
    let t := u.fld (LEG_CAN_STATUS.TEC n) + 8
    isCanPort p.val = true ∧ portUp s p.val = true ∧ canOffer (s.can n).slots = some (k, x) ∧ 255 < t) ∧
   (let p : Port := 40
    let k : Nat := 0
    let x : Loaded := { cell := { buf := 1 }, tc := 4, inPort := 72, frame := tBytes 48 [(0, 1)], order := 0 }
    let s : State := ({ tTime with gw := { cans := [(0, { slots := [(0, { cell := { buf := 1 }, tc := 4, inPort := 72, frame := tBytes 48 [(0, 1)], order := 0 })] })] } }.setFld (LEG_CAN_MODE.MODE 0) 1).setFld (LEG_CAN_STATUS.TEC 0) 247
    let n := p.val - 40
    let u := s.bump (LEG_CAN_ERR_FRAMES n)
    let t := u.fld (LEG_CAN_STATUS.TEC n) + 8
    isCanPort p.val = true ∧ portUp s p.val = true ∧ canOffer (s.can n).slots = some (k, x) ∧ t ≤ 255) ∧
   (let p : Port := 40
    let s : State := { tTime with gw := { cans := [(0, { autoAt := some 5 })] } }.setFld (LEG_CAN_STATUS.STATE 0) 2
    let n := p.val - 40
    let t : Nat := 5
    isCanPort p.val = true ∧ (s.can n).autoAt = some t ∧ t ≤ s.lt ∧ s.fld (LEG_CAN_STATUS.STATE n) = 2) ∧
   (let p : Port := 40
    let s : State := tTime.setFld (LEG_CAN_STATUS.STATE 0) 3
    let n := p.val - 40
    isCanPort p.val = true ∧ s.fld (LEG_CAN_STATUS.STATE n) = 3) ∧
   (let p : Port := 64
    let s : State := { tTime with gw := { active := [(20480, tBytes 8 [(2, 1), (6, 1), (7, 128)])] } }.setFld (LEG_LIN_CFG.ROLE 0) 1
    let n := p.val - 64
    let r : LinResult := .collision
    let w : Span := {}
    let e : Bytes := tBytes 8 [(2, 1), (6, 1), (7, 128)]
    let x := s.lin n
    let start := s.endPoint w - w.ago
    isLinPort p.val = true ∧ s.fld (LEG_LIN_CFG.ROLE n) = 1 ∧ (linTable s n x.table).find? (fun y => y.1 = x.entry) = some (x.entry, e) ∧ x.slotAt ≤ start ∧ r = .collision ∧ byteAt e 2 = 1) ∧
   (let p : Port := 64
    let s : State := { tTime with gw := { active := [(20480, tBytes 8 [(7, 128)])] } }.setFld (LEG_LIN_CFG.ROLE 0) 1
    let n := p.val - 64
    let r : LinResult := .done
    let w : Span := {}
    let e : Bytes := tBytes 8 [(7, 128)]
    let x := s.lin n
    let start := s.endPoint w - w.ago
    isLinPort p.val = true ∧ s.fld (LEG_LIN_CFG.ROLE n) = 1 ∧ (linTable s n x.table).find? (fun y => y.1 = x.entry) = some (x.entry, e) ∧ x.slotAt ≤ start ∧ (r ≠ .collision ∨ byteAt e 2 ≠ 1)) ∧
   (let p : Port := 64
    let s : State := { tTime with gw := { lins := [(0, { answer := some (1, false), bufs := [(1, { last := some (tBytes 48 []) })] })] } }.setFld (LEG_LIN_CFG.ROLE 0) 2
    let n := p.val - 64
    let r : LinResult := .checksum
    let id : Nat := 1
    let fresh : Bool := false
    let k := 1
    isLinPort p.val = true ∧ s.fld (LEG_LIN_CFG.ROLE n) = 2 ∧ (s.lin n).answer = some (id, fresh) ∧ linErr r = some k) ∧
   (let p : Port := 64
    let s : State := { tTime with gw := { lins := [(0, { answer := some (1, true), bufs := [(1, { last := some (tBytes 48 []) })] })] } }.setFld (LEG_LIN_CFG.ROLE 0) 2
    let n := p.val - 64
    let r : LinResult := .done
    let id : Nat := 1
    let fresh : Bool := true
    isLinPort p.val = true ∧ s.fld (LEG_LIN_CFG.ROLE n) = 2 ∧ (s.lin n).answer = some (id, fresh) ∧ linErr r = none ∧ fresh = true) ∧
   (let p : Port := 64
    let s : State := { tTime with gw := { lins := [(0, { answer := some (1, false), bufs := [(1, { last := some (tBytes 48 []) })] })] } }.setFld (LEG_LIN_CFG.ROLE 0) 2
    let n := p.val - 64
    let r : LinResult := .done
    let id : Nat := 1
    let fresh : Bool := false
    let u := s.modLin n (fun l => { l with answer := none })
    let f := tBytes 48 []
    isLinPort p.val = true ∧ s.fld (LEG_LIN_CFG.ROLE n) = 2 ∧ (s.lin n).answer = some (id, fresh) ∧ linErr r = none ∧ fresh = false ∧ (kgetD (u.lin n).bufs id {}).last = some f) ∧
   (let p : Port := 64
    let s : State := (tTime.setFld (LEG_LIN_CFG.ROLE 0) 2).setFld (LEG_LIN_ID.DIR 0 0) 1
    let n := p.val - 64
    isLinPort p.val = true ∧ s.fld (LEG_LIN_CFG.ROLE n) = 2) ∧
   (let cycle : Fin 64 := 0
    let s : State := tTime.setFld LEG_FR_STATUS.POC 5
    let u := (if s.fld LEG_FR_STATUS.CYCLE = cycle.val then s else frTake s).setFld LEG_FR_STATUS.CYCLE cycle.val
    u.fld LEG_FR_STATUS.POC = 5) ∧
   (let cycle : Fin 64 := 0
    let s : State := tTime
    let u := (if s.fld LEG_FR_STATUS.CYCLE = cycle.val then s else frTake s).setFld LEG_FR_STATUS.CYCLE cycle.val
    u.fld LEG_FR_STATUS.POC ≠ 5) :=
  ⟨by decide +kernel, by decide +kernel, by decide +kernel, by decide +kernel, by decide +kernel, ⟨by decide +kernel, by decide +kernel, by decide +kernel, by decide +kernel, ⟨by decide +kernel, by decide +kernel, by decide +kernel, by decide +kernel, by decide +kernel, ⟨by decide +kernel, by decide +kernel, by decide +kernel⟩⟩⟩⟩

/-- Each clause of `KeysAreLoadedCommittedDerivedAndExported` has values that meet its conditions. -/
theorem test_witness_KeysAreLoadedCommittedDerivedAndExported :
   (let c : CmdCtx := tCmd (tBytes 32 [(0, 2), (1, 5), (4, 16)])
    let s : State := tTime.setFld GLB_CTRL.FWD_EN 0
    let k : NewKey := { attr := 0, half := { key := tBytes 16 [] } }
    let u := markStarted c 0x0901 s
    mayRun c 0x0901 s ∧ loadHeld s (byteAt c.par 1) = false ∧ loadSource u c = .inr k) ∧
   (let c : CmdCtx := tCmd (tBytes 32 [(0, 2), (1, 5), (4, 16)])
    let s : State := { tTime with keys := { slots := [(5, { act := some { key := tBytes 16 [] } })] } }.setFld GLB_CTRL.FWD_EN 0
    let k : NewKey := { attr := 0, half := { key := tBytes 16 [] } }
    let u := markStarted c 0x0902 s
    mayRun c 0x0902 s ∧ loadHeld s (byteAt c.par 1) = false ∧ loadSource u c = .inr k ∧ (u.slot (byteAt c.par 1)).act ≠ none ∧ saRefs u (byteAt c.par 1) = 0) ∧
   (let c : CmdCtx := tCmd (tBytes 8 [(0, 5)] ++ [0x66, 0xe9, 0x4b, 0xd4, 0xef, 0x8a, 0x2c, 0x3b])
    let s : State := { tTime with keys := { slots := [(5, { pend := some { key := tBytes 16 [] } })] } }
    let k : KeyHalf := { key := tBytes 16 [] }
    let u := markStarted c 0x0903 s
    let n := byteAt c.par 0
    mayRun c 0x0903 s ∧ commitWaits s n = false ∧ plenIs c 16 = true ∧ n ≠ 0 ∧ parZero c 1 8 = true ∧ (u.slot n).pend = some k ∧ saRefs u n = 0 ∧ kcv k.key = slice c.par 8 8) ∧
   (let c : CmdCtx := tCmd (tBytes 16 [(0, 5)])
    let s : State := { tTime with keys := { slots := [(5, { pend := some { key := tBytes 16 [] } })] } }
    let k : KeyHalf := { key := tBytes 16 [] }
    let u := markStarted c 0x0903 s
    let n := byteAt c.par 0
    mayRun c 0x0903 s ∧ commitWaits s n = false ∧ plenIs c 16 = true ∧ n ≠ 0 ∧ parZero c 1 8 = true ∧ (u.slot n).pend = some k ∧ saRefs u n = 0 ∧ kcv k.key ≠ slice c.par 8 8) ∧
   (let c : CmdCtx := tCmd (tBytes 96 [(1, 3), (2, 5), (4, 16)])
    let s : State := { tTime with keys := { slots := [(3, { attr := some 3, act := some { key := tBytes 16 [] } })] } }
    let u := markStarted c 0x0906 s
    let n := byteAt c.par 2
    let k : Bytes := tBytes 16 []
    mayRun c 0x0906 s ∧ loadHeld s n = false ∧ deriveOk c = true ∧ deriveTarget u c = true ∧ byteAt c.par 0 = 0 ∧ keyFor u (byteAt c.par 1) 3 = some k) ∧
   (let c : CmdCtx := tCmd (tBytes 96 [(0, 1), (2, 5), (4, 16)])
    let s : State := tTime.setFld KEY_STATUS.TRNG_OK 1
    let u := markStarted c 0x0906 s
    let n := byteAt c.par 2
    mayRun c 0x0906 s ∧ loadHeld s n = false ∧ deriveOk c = true ∧ deriveTarget u c = true ∧ byteAt c.par 0 = 1 ∧ trngOk u = true) ∧
   (let c : CmdCtx := tCmd (tBytes 8 [(0, 5), (1, 6)])
    let s : State := { tTime with keys := { slots := [(5, { act := some { key := tBytes 16 [], exportable := true } }), (6, { attr := some 2, act := some { key := tBytes 16 [] } })] } }.setFld KEY_STATUS.TRNG_OK 1
    let h : KeyHalf := { key := tBytes 16 [], exportable := true }
    let kek : Bytes := tBytes 16 []
    let u := markStarted c 0x0907 s
    let n := byteAt c.par 0
    let w := byteAt c.par 1
    mayRun c 0x0907 s ∧ plenIs c 8 = true ∧ parZero c 2 8 = true ∧ n ≠ 0 ∧ (u.slot n).act = some h ∧ keyFor u w 2 = some kek ∧ h.exportable = true ∧ trngOk u = true) ∧
   (let n : Nat := 5
    let c : CmdCtx := tCmd []
    let s : State := { tTime with keys := { writing := [(5, tCmd [])] } }
    kget s.keys.writing n = some c) ∧
   (let n : Nat := 5
    let c : CmdCtx := tCmd []
    let s : State := { tTime with keys := { writing := [(5, tCmd [])] } }
    kget s.keys.writing n = some c) :=
  ⟨by decide +kernel, by decide +kernel, by decide +kernel, by decide +kernel, by decide +kernel, ⟨by decide +kernel, by decide +kernel, by decide +kernel, by decide +kernel⟩⟩

/-- Each clause of `CryptoJobsProcessTheirParts` has values that meet its conditions. -/
theorem test_witness_CryptoJobsProcessTheirParts :
   (let c : CmdCtx := tCmd (tBytes 64 [(1, 3), (2, 5)])
    let raw : JobData := { src := [], ctx := [], key := [] }
    let x : JobCtx := { op := 0, slot := 5 }
    let s : State := tJob 0 none
    let m := markStarted c 0x0904 s
    let u := jobReads c m
    let d := jobData c raw
    let key := (slotKey u (leAt c.par 2 2)).getD []
    let sl : Slot := { attr := some 0, act := some { key := tBytes 16 [] }, nonce := 1, ceil := 1 + 2 ^ 20 }
    fwWaits s c = false ∧ mayRun c 0x0904 s ∧ jobParamOk c = true ∧ jobStateOk m c = true ∧ jobStart u c d = .inr x ∧ (x.op ≤ 1 → leAt c.par 20 4 ≠ 0 → x.text = []) ∧ x.op = 0 ∧ x.iv = [] ∧ nextNonce u (u.slot x.slot) = some sl) ∧
   (let c : CmdCtx := tCmd (tBytes 64 [(1, 2), (2, 5)])
    let raw : JobData := { src := [], ctx := [], key := [] }
    let x : JobCtx := { op := 0, slot := 5, iv := tBytes 12 [] }
    let s : State := tJob 0 (some { op := 0, slot := 5, iv := tBytes 12 [] })
    let m := markStarted c 0x0904 s
    let u := jobReads c m
    let d := jobData c raw
    fwWaits s c = false ∧ mayRun c 0x0904 s ∧ jobParamOk c = true ∧ jobStateOk m c = true ∧ jobStart u c d = .inr x ∧ (x.op ≤ 1 → leAt c.par 20 4 ≠ 0 → x.text = []) ∧ x.op = 0 ∧ x.iv ≠ []) ∧
   (let c : CmdCtx := tCmd (tBytes 64 [(0, 1), (1, 3), (2, 5)])
    let raw : JobData := { src := [], ctx := [], key := tBytes 12 [] }
    let x : JobCtx := { op := 1, slot := 5, iv := tBytes 12 [] }
    let s : State := tJob 1 none
    let m := markStarted c 0x0904 s
    let u := jobReads c m
    let d := jobData c raw
    fwWaits s c = false ∧ mayRun c 0x0904 s ∧ jobParamOk c = true ∧ jobStateOk m c = true ∧ jobStart u c d = .inr x ∧ (x.op ≤ 1 → leAt c.par 20 4 ≠ 0 → x.text = []) ∧ x.op = 1) ∧
   (let c : CmdCtx := tCmd (tBytes 64 [(0, 2), (1, 3), (2, 5), (6, 16)])
    let raw : JobData := { src := [], ctx := [], key := [] }
    let x : JobCtx := { op := 2, slot := 5 }
    let s : State := tJob 0 none
    let m := markStarted c 0x0904 s
    let u := jobReads c m
    let d := jobData c raw
    fwWaits s c = false ∧ mayRun c 0x0904 s ∧ jobParamOk c = true ∧ jobStateOk m c = true ∧ jobStart u c d = .inr x ∧ (x.op ≤ 1 → leAt c.par 20 4 ≠ 0 → x.text = []) ∧ x.op = 2) ∧
   (let c : CmdCtx := tCmd (tBytes 64 [(0, 3), (1, 3), (2, 5), (6, 4)])
    let raw : JobData := { src := [], ctx := [], key := [] }
    let x : JobCtx := { op := 3, slot := 5 }
    let s : State := tJob 1 none
    let m := markStarted c 0x0904 s
    let u := jobReads c m
    let d := jobData c raw
    fwWaits s c = false ∧ mayRun c 0x0904 s ∧ jobParamOk c = true ∧ jobStateOk m c = true ∧ jobStart u c d = .inr x ∧ (x.op ≤ 1 → leAt c.par 20 4 ≠ 0 → x.text = []) ∧ x.op = 3) ∧
   (let c : CmdCtx := tCmd (tBytes 64 [(0, 4), (1, 3)])
    let raw : JobData := { src := [], ctx := [], key := [] }
    let x : JobCtx := { op := 4, slot := 0 }
    let s : State := tJob 0 none
    let m := markStarted c 0x0904 s
    let u := jobReads c m
    let d := jobData c raw
    fwWaits s c = false ∧ mayRun c 0x0904 s ∧ jobParamOk c = true ∧ jobStateOk m c = true ∧ jobStart u c d = .inr x ∧ (x.op ≤ 1 → leAt c.par 20 4 ≠ 0 → x.text = []) ∧ x.op = 4) ∧
   (let c : CmdCtx := tCmd (tBytes 64 [(0, 5), (1, 3)])
    let raw : JobData := { src := [], ctx := [], key := [] }
    let x : JobCtx := { op := 5, slot := 0 }
    let s : State := tJob 0 none
    let m := markStarted c 0x0904 s
    let u := jobReads c m
    let d := jobData c raw
    fwWaits s c = false ∧ mayRun c 0x0904 s ∧ jobParamOk c = true ∧ jobStateOk m c = true ∧ jobStart u c d = .inr x ∧ (x.op ≤ 1 → leAt c.par 20 4 ≠ 0 → x.text = []) ∧ x.op = 5) ∧
   (let c : CmdCtx := tCmd (tBytes 64 [(0, 6), (1, 3), (2, 5), (4, 255), (5, 1), (6, 16)])
    let raw : JobData := { src := [], ctx := [], key := [] }
    let x : JobCtx := { op := 6, slot := 5 }
    let s : State := (tJob 0 none).setFld (KEY_FRESH_CTL.VALID 511) 1
    let m := markStarted c 0x0904 s
    let u := jobReads c m
    let d := jobData c raw
    fwWaits s c = false ∧ mayRun c 0x0904 s ∧ jobParamOk c = true ∧ jobStateOk m c = true ∧ jobStart u c d = .inr x ∧ (x.op ≤ 1 → leAt c.par 20 4 ≠ 0 → x.text = []) ∧ x.op = 6) ∧
   (let c : CmdCtx := tCmd (tBytes 64 [(0, 7), (1, 3), (2, 5), (6, 16)])
    let raw : JobData := { src := [], ctx := [], key := [] }
    let x : JobCtx := { op := 7, slot := 5 }
    let s : State := (tJob 1 none).setFld (KEY_FRESH_CTL.VALID 0) 1
    let m := markStarted c 0x0904 s
    let u := jobReads c m
    let d := jobData c raw
    fwWaits s c = false ∧ mayRun c 0x0904 s ∧ jobParamOk c = true ∧ jobStateOk m c = true ∧ jobStart u c d = .inr x ∧ (x.op ≤ 1 → leAt c.par 20 4 ≠ 0 → x.text = []) ∧ x.op = 7) ∧
   (let o : Src := .ha
    let t : Nat := 5
    let s : State := { tTime with keys := { lock := some (.ha, 5) } }
    s.keys.lock = some (o, t) ∧ t + s.fld CRY_CTRL.LOCK_IDLE * 1000000 ≤ s.lt) :=
  ⟨by decide +kernel, by decide +kernel, by decide +kernel, by decide +kernel, by decide +kernel, ⟨by decide +kernel, by decide +kernel, by decide +kernel, by decide +kernel, by decide +kernel⟩⟩

/-- Each clause of `SecureAssociationsAreSetAndRead` has values that meet its conditions. -/
theorem test_witness_SecureAssociationsAreSetAndRead :
   (let c : CmdCtx := tCmd (tBytes 48 [(4, 5), (32, 1)])
    let s : State := { tTime with keys := { slots := [(5, { attr := some 0, act := some { key := tBytes 16 [] } })] } }
    let u := markStarted c 0x0905 s
    let p := byteAt c.par 1
    let an := byteAt c.par 3
    let tx := byteAt c.par 2 = 0
    mayRun c 0x0905 s ∧ saParamOk c = true ∧ byteAt c.par 0 = 0 ∧ (¬ (tx ∧ (u.msec p).txAn = some an)) ∧ slotAttr u (leAt c.par 4 2) = some (if byteAt c.par 2 = 0 then 0 else 1)) ∧
   (let c : CmdCtx := tCmd (tBytes 48 [(0, 1)])
    let s : State := { tTime with keys := { slots := [(5, { attr := some 0, act := some { key := tBytes 16 [] } })] } }
    let u := markStarted c 0x0905 s
    let p := byteAt c.par 1
    let an := byteAt c.par 3
    let tx := byteAt c.par 2 = 0
    mayRun c 0x0905 s ∧ saParamOk c = true ∧ byteAt c.par 0 = 1 ∧ (¬ (tx ∧ (u.msec p).txAn = some an))) ∧
   (let c : CmdCtx := tCmd (tBytes 48 [(0, 2)])
    let s : State := { tTime with keys := { msec := [(0, { tx := [(0, { slot := 5, ssci := 0, salt := [], pn := 1 })] })] } }
    let u := markStarted c 0x0905 s
    let p := byteAt c.par 1
    let an := byteAt c.par 3
    mayRun c 0x0905 s ∧ saParamOk c = true ∧ byteAt c.par 0 = 2 ∧ khas (u.msec p).tx an = true) ∧
   (let c : CmdCtx := tCmd (tBytes 48 [(0, 3)])
    let s : State := { tTime with keys := { slots := [(5, { attr := some 0, act := some { key := tBytes 16 [] } })] } }
    mayRun c 0x0905 s ∧ saParamOk c = true ∧ byteAt c.par 0 = 3) :=
  ⟨by decide +kernel, by decide +kernel, by decide +kernel, by decide +kernel⟩

/-- Each clause of `FabricNeighboursAndLinksAreKept` has values that meet its conditions. -/
theorem test_witness_FabricNeighboursAndLinksAreKept :
   (let c : CmdCtx := tCmd (tBytes 8 [])
    let s : State := tFab
    let d := byteAt c.par 0
    let u := markStarted c 0x0A01 s
    mayRun c 0x0A01 s ∧ plenIs c 8 = true ∧ byteAt c.par 1 ≤ 1 ∧ parZero c 2 8 = true ∧ (byteAt c.par 1 = 0 ∨ hasAddr u = true ∧ d = ownAddr u)) ∧
   (let c : CmdCtx := tCmd (tBytes 8 [(1, 1)])
    let s : State := tFab
    let d := byteAt c.par 0
    let u := markStarted c 0x0A01 s
    mayRun c 0x0A01 s ∧ plenIs c 8 = true ∧ byteAt c.par 1 ≤ 1 ∧ parZero c 2 8 = true ∧ byteAt c.par 1 = 1 ∧ (hasAddr u = false ∨ d ≠ ownAddr u)) ∧
   (let c : CmdCtx := tCmd (tBytes 8 [(0, 2)])
    let s : State := tFab
    let d := byteAt c.par 0
    let u := markStarted c 0x0A02 s
    mayRun c 0x0A02 s ∧ plenIs c 8 = true ∧ parZero c 1 8 = true ∧ (hasAddr u = false ∨ d ≠ ownAddr u)) ∧
   (let c : CmdCtx := tCmd (tBytes 8 [(0, 1)])
    let s : State := { tFab with rst := { waiting := some 1 } }.setFld FAB_CFG.REMOTE_RST 1
    let d := byteAt c.par 0
    let u := markStarted c 0x0A02 s
    let v := warmStart 5 u
    mayRun c 0x0A02 s ∧ plenIs c 8 = true ∧ parZero c 1 8 = true ∧ hasAddr u = true ∧ d = ownAddr u ∧ u.flag FAB_CFG.REMOTE_RST = true ∧ (v.rst.warm ≠ none ∨ v.rst.waiting ≠ none)) ∧
   (let c : CmdCtx := tCmd (tBytes 8 [(0, 1)])
    let s : State := { tFab with flt := { f3 := true } }.setFld FAB_CFG.REMOTE_RST 1
    let d := byteAt c.par 0
    let u := markStarted c 0x0A02 s
    let v := warmStart 5 u
    mayRun c 0x0A02 s ∧ plenIs c 8 = true ∧ parZero c 1 8 = true ∧ hasAddr u = true ∧ d = ownAddr u ∧ u.flag FAB_CFG.REMOTE_RST = true ∧ v.rst.warm = none ∧ v.rst.waiting = none) ∧
   (let s : State := tFab
    s.fab.lastHello + 1000000 ≤ s.lt ∧ dfpOn s = true) ∧
   (let s : State := tFab.setFld GLB_STATUS.SUP_RUN 0
    s.fab.lastHello + 1000000 ≤ s.lt ∧ dfpOn s = false ∧ hwSender s = true) ∧
   (let p : Port := 0
    let s : State := tFab
    fabIn s p.val = true) ∧
   (let p : Port := 0
    let h : Hello := { uid := 9, addr := 2, addrValid := true, seat := false }
    let s : State := { tFab with pwr := { state := 1 }, fab := { nbrs := [(0, { hello := { uid := 9, addr := 2, addrValid := true, seat := false }, last := 0, count := 3 })] } }
    let n := ({ hello := { uid := 9, addr := 2, addrValid := true, seat := false }, last := 0, count := 3 } : Nbr)
    fabIn s p.val = false ∧ s.flag FAB_CFG.DFP_EN = true ∧ (s.pwr.state = 1 ∨ s.pwr.state = 2) ∧ s.fabricPort p.val = true ∧ portUp s p.val = true ∧ kget s.fab.nbrs p.val = some n ∧ n.hello = h) ∧
   (let p : Port := 0
    let n : Nbr := { hello := { uid := 9, addr := 2, addrValid := true, seat := false }, last := 0, count := 3 }
    let s : State := { tFab with fab := { nbrs := [(0, { hello := { uid := 9, addr := 2, addrValid := true, seat := false }, last := 0, count := 3 })] } }
    dfpOn s = true ∧ kget s.fab.nbrs p.val = some n ∧ n.last + s.fld FAB_TIMERS.HELLO_MISS * 1000000 ≤ s.lt) ∧
   (let p : Port := 0
    let s : State := tFab
    s.fabricPort p.val = true ∧ khas s.links p.val = true) ∧
   (let s : State := tFab
    dfpOn s = true ∧ s.fab.lastLs + sec ≤ s.lt) ∧
   (let p : Port := 0
    let s : State := tFab
    fabIn s p.val = true) :=
  ⟨by decide +kernel, by decide +kernel, by decide +kernel, by decide +kernel, by decide +kernel, ⟨by decide +kernel, by decide +kernel, by decide +kernel, by decide +kernel, ⟨by decide +kernel, by decide +kernel, by decide +kernel, by decide +kernel⟩⟩⟩

/-- Each clause of `GossipAndCoordinatorRun` has values that meet its conditions. -/
theorem test_witness_GossipAndCoordinatorRun :
   (let s : State := tFab
    s.fab.lastGossip + 100000000 ≤ s.lt ∧ dfpOn s = true ∧ hasAddr s = true) ∧
   (let s : State := { tFab with fab := { gossipSaid := some { addr := 2, liveOk := 0, gen := 0, root := [] } } }.setFld GLB_STATUS.SUP_RUN 0
    let g := ({ addr := 2, liveOk := 0, gen := 0, root := [] } : Gossip)
    s.fab.lastGossip + 100000000 ≤ s.lt ∧ (dfpOn s = false ∨ hasAddr s = false) ∧ hwSender s = true ∧ s.fab.gossipSaid = some g) ∧
   (let p : Port := 0
    let s : State := tFab
    fabIn s p.val = true) ∧
   (let s : State := { tFab with fab := { coord := ownUid } }
    dfpOn s = true ∧ s.fab.coord = ownUid ∧ s.fab.sentCoord + 100000000 ≤ s.lt) ∧
   (let p : Port := 0
    let s : State := tFab
    fabIn s p.val = true) ∧
   (let t : Nat := 5
    let s : State := { tFab with fab := { coord := ownUid + 1, succ := ownUid, firstUp := some 5 } }
    s.fab.firstUp = some t ∧ dfpOn s = true ∧ s.fab.coord ≠ ownUid ∧ hasAddr s = true ∧ s.fld FAB_CFG.COORD_PRIO ≠ 0 ∧ s.fab.succ = ownUid ∧ s.fab.coord ≠ 0 ∧ (max t s.fab.lastCoord + 300000000 ≤ s.lt ∨ reachCoord s = none)) ∧
   (let t : Nat := 0
    let large : Bool := false
    let s : State := { tFab with fab := { switch := some (0, false) } }
    s.fab.switch = some (t, large) ∧ t ≤ s.scale 0) :=
  ⟨by decide +kernel, by decide +kernel, by decide +kernel, ⟨by decide +kernel, rfl, by decide +kernel⟩, by decide +kernel, ⟨⟨by decide +kernel, by decide +kernel, Nat.succ_ne_self _, by decide +kernel, by decide +kernel, ⟨rfl, Nat.succ_ne_zero _, Or.inl (by decide +kernel)⟩⟩, by decide +kernel⟩⟩

/-- Each clause of `FabricMessagesAreRelayedOrActOn` has values that meet its conditions. -/
theorem test_witness_FabricMessagesAreRelayedOrActOn :
   (let p : Port := 0
    let dst : Nat := 2
    let s : State := tFab
    fabIn s p.val = true ∧ (hasAddr s = false ∨ dst ≠ ownAddr s)) ∧
   (let p : Port := 0
    let dst : Nat := 2
    let s : State := tFab
    fabIn s p.val = true ∧ (hasAddr s = false ∨ dst ≠ ownAddr s)) ∧
   (let p : Port := 0
    let s : State := tFab
    fabIn s p.val = true ∧ hasAddr s = true) ∧
   (let p : Port := 0
    let s : State := tFab
    fabIn s p.val = true ∧ hasAddr s = true) ∧
   (let p : Port := 0
    let s : State := tFab
    fabIn s p.val = true ∧ hasAddr s = true) ∧
   (let p : Port := 0
    let s : State := tFab
    fabIn s p.val = true ∧ hasAddr s = true) ∧
   (let p : Port := 0
    let s : State := tFab
    fabIn s p.val = true ∧ hasAddr s = true ∧ s.flag FAB_CFG.REMOTE_RST = false) ∧
   (let p : Port := 0
    let s : State := { tFab with rst := { waiting := some 1 } }.setFld FAB_CFG.REMOTE_RST 1
    let u := warmStart 5 s
    fabIn s p.val = true ∧ hasAddr s = true ∧ s.flag FAB_CFG.REMOTE_RST = true ∧ (u.rst.warm ≠ none ∨ u.rst.waiting ≠ none)) ∧
   (let p : Port := 0
    let s : State := { tFab with pwr := { exit := some { left := 1, cause := 0, start := 0 } } }.setFld FAB_CFG.REMOTE_RST 1
    let u := warmStart 5 s
    fabIn s p.val = true ∧ hasAddr s = true ∧ s.flag FAB_CFG.REMOTE_RST = true ∧ u.rst.warm = none ∧ u.rst.waiting = none) ∧
   (let p : Port := 0
    let sender : Nat := 255
    let limit : Nat := 65535
    let n : Nbr := { hello := { uid := 9, addr := 2, addrValid := true, seat := false }, last := 0, count := 3 }
    let s : State := { tFab with fab := { nbrs := [(0, { hello := { uid := 9, addr := 2, addrValid := true, seat := false }, last := 0, count := 3 })] } }
    fabIn s p.val = true ∧ sender ≤ 255 ∧ limit ≤ 65535 ∧ kget s.fab.nbrs p.val = some n) ∧
   (let f : FarCmd := { cmd := tCmd [], opcode := 0x0A01, device := 2, deadline := 5 }
    let s : State := { tFab with fab := { far := [{ cmd := tCmd [], opcode := 0x0A01, device := 2, deadline := 5 }] } }
    s.fab.far.find? (fun f => decide (f.deadline ≤ s.lt)) = some f) :=
  ⟨by decide +kernel, by decide +kernel, by decide +kernel, by decide +kernel, by decide +kernel, ⟨by decide +kernel, by decide +kernel, by decide +kernel, by decide +kernel, ⟨by decide +kernel, by decide +kernel⟩⟩⟩

/-- Each clause of `FirmwareImagesAreReceivedAndActivated` has values that meet its conditions. -/
theorem test_witness_FirmwareImagesAreReceivedAndActivated :
   (let c : CmdCtx := tCmd (tBytes 512 [])
    let s : State := tTime
    imgHeld s = false ∧ mayRun c 0x0D01 s ∧ engineHeld s = false ∧ plenIs c 512 = true) ∧
   (let c : CmdCtx := tCmd (tBytes 16 [])
    let s : State := { tTime with sup := { slots := [(0, { state := 4 }), (1, { state := 1, header := tBytes 512 [(21, 16)] })] } }
    let block : Option Bytes := some []
    let n := idleSlot s
    let off := leAt c.par 0 4
    let b := ([] : Bytes)
    imgHeld s = false ∧ mayRun c 0x0D02 s ∧ s.brace = false ∧ (s.imgSlot n).state = 1 ∧ (s.imgSlot n).erased = true ∧ plenIs c 16 = true ∧ parZero c 4 8 = true ∧ off % 4096 = 0 ∧ off < hdrField (s.imgSlot n).header 20 4 ∧ block = some b) ∧
   (let c : CmdCtx := tCmd (tBytes 16 [])
    let s : State := { tTime with sup := { slots := [(0, { state := 4 }), (1, { state := 1, header := tBytes 512 [(21, 16)] })] } }
    let block : Option Bytes := none
    let n := idleSlot s
    let off := leAt c.par 0 4
    imgHeld s = false ∧ mayRun c 0x0D02 s ∧ s.brace = false ∧ (s.imgSlot n).state = 1 ∧ (s.imgSlot n).erased = true ∧ plenIs c 16 = true ∧ parZero c 4 8 = true ∧ off % 4096 = 0 ∧ off < hdrField (s.imgSlot n).header 20 4 ∧ block = none) ∧
   (let c : CmdCtx := tCmd (tBytes 8 [])
    let s : State := { tTime with sup := { slots := [(0, { state := 4 }), (1, { state := 1, header := tBytes 512 [(21, 16)] })] } }
    let u := markStarted c 0x0D03 s
    let n := idleSlot u
    imgHeld s = false ∧ mayRun c 0x0D03 s ∧ engineHeld s = false ∧ plenIs c 8 = true ∧ parZero c 0 8 = true ∧ (u.imgSlot n).state = 1) ∧
   (let c : CmdCtx := tCmd (tBytes 8 [(0, 1)])
    let s : State := { tTime with sup := { slots := [(0, { state := 4 }), (1, { state := 2, header := tBytes 512 [(21, 16)] })] } }
    let u := markStarted c 0x0D04 s
    let n := byteAt c.par 0
    imgHeld s = false ∧ mayRun c 0x0D04 s ∧ plenIs c 8 = true ∧ parZero c 1 8 = true ∧ n ≤ 1 ∧ (u.imgSlot n).state = 2 ∧ u.flag SUP_STATUS.TRIAL = false ∧ u.brace = false ∧ hdrField (u.imgSlot n).header 104 4 ≤ u.sup.setVersion ∧ u.sup.restartAt = none) ∧
   (let a : Activation := { cmd := tCmd [], slot := 1, prev := 0 }
    let s : State := { tTime with sup := { act := some { cmd := tCmd [], slot := 1, prev := 0 } } }
    s.sup.act = some a ∧ a.phase = 1 ∧ longStop s = false) ∧
   (let a : Activation := { cmd := tCmd [], slot := 1, prev := 0, phase := 2, pauseAt := 999970000001 }
    let s : State := { tTime with sup := { act := some { cmd := tCmd [], slot := 1, prev := 0, phase := 2, pauseAt := 999970000001 }, slots := [(1, { state := 4 })] } }
    s.sup.act = some a ∧ a.phase = 2 ∧ s.lt < a.pauseAt + 30000000 ∧ s.flt.f3 = false ∧ romFails s a.slot false = false) ∧
   (let a : Activation := { cmd := tCmd [], slot := 1, prev := 0, phase := 2, pauseAt := 999970000000 }
    let s : State := { tTime with sup := { act := some { cmd := tCmd [], slot := 1, prev := 0, phase := 2, pauseAt := 999970000000 } } }
    s.sup.act = some a ∧ a.phase = 2 ∧ a.pauseAt + 30000000 ≤ s.lt) ∧
   (let a : Activation := { cmd := tCmd [], slot := 1, prev := 0, phase := 2 }
    let s : State := { tTime with sup := { act := some { cmd := tCmd [], slot := 1, prev := 0, phase := 2 } } }
    s.sup.act = some a ∧ a.phase = 2 ∧ s.sup.restartAt = none) ∧
   (let t : Nat := 5
    let s : State := { tTime with sup := { restartAt := some 5, journal := [(1, 1, 3)] } }
    let r := newestRec s
    s.sup.act = none ∧ s.sup.restartAt = some t ∧ r.2.2 = 3) ∧
   (let t : Nat := 5
    let s : State := { tTime with sup := { trialAt := some 5 } }
    s.sup.trialAt = some t ∧ triadRun s = true ∧ s.brace = false ∧ t + s.fld SUP_CFG.CONFIRM_S * sec ≤ s.lt) :=
  ⟨by decide +kernel, by decide +kernel, by decide +kernel, by decide +kernel, by decide +kernel, ⟨by decide +kernel, by decide +kernel, by decide +kernel, by decide +kernel, ⟨by decide +kernel, by decide +kernel⟩⟩⟩

/-- Each clause of `SupervisorReleasesByMajority` has values that meet its conditions. -/
theorem test_witness_SupervisorReleasesByMajority :
   (let a : List BusWrite := []
    let b : List BusWrite := []
    let c : List BusWrite := []
    let s : State := tTime
    let w (k : Nat) : List BusWrite := coreWrites a b c k
    let sig (k : Nat) : Nat := windowSig (w k)
    triadRun s = true ∧ s.flt.f3 = false ∧ s.pwr.state = 0 ∧ s.sup.resync = none ∧ sig 0 = sig 1 ∧ sig 0 = sig 2) ∧
   (let a : List BusWrite := []
    let b : List BusWrite := []
    let c : List BusWrite := [⟨0x50000, 1, 15⟩]
    let s : State := tTime
    let w (k : Nat) : List BusWrite := coreWrites a b c k
    let sig (k : Nat) : Nat := windowSig (w k)
    triadRun s = true ∧ s.flt.f3 = false ∧ s.pwr.state = 0 ∧ s.sup.resync = none ∧ sig 0 = sig 1 ∧ sig 0 ≠ sig 2) ∧
   (let a : List BusWrite := []
    let b : List BusWrite := [⟨0x50000, 1, 15⟩]
    let c : List BusWrite := []
    let s : State := tTime
    let w (k : Nat) : List BusWrite := coreWrites a b c k
    let sig (k : Nat) : Nat := windowSig (w k)
    triadRun s = true ∧ s.flt.f3 = false ∧ s.pwr.state = 0 ∧ s.sup.resync = none ∧ sig 0 ≠ sig 1 ∧ sig 0 = sig 2) ∧
   (let a : List BusWrite := [⟨0x50000, 1, 15⟩]
    let b : List BusWrite := []
    let c : List BusWrite := []
    let s : State := tTime
    let w (k : Nat) : List BusWrite := coreWrites a b c k
    let sig (k : Nat) : Nat := windowSig (w k)
    triadRun s = true ∧ s.flt.f3 = false ∧ s.pwr.state = 0 ∧ s.sup.resync = none ∧ sig 0 ≠ sig 1 ∧ sig 0 ≠ sig 2 ∧ sig 1 = sig 2) ∧
   (let a : List BusWrite := [⟨0x50000, 1, 15⟩]
    let b : List BusWrite := [⟨0x50000, 2, 15⟩]
    let c : List BusWrite := []
    let s : State := tTime
    let w (k : Nat) : List BusWrite := coreWrites a b c k
    let sig (k : Nat) : Nat := windowSig (w k)
    triadRun s = true ∧ s.flt.f3 = false ∧ s.pwr.state = 0 ∧ s.sup.resync = none ∧ sig 0 ≠ sig 1 ∧ sig 0 ≠ sig 2 ∧ sig 1 ≠ sig 2) ∧
   (let a : List BusWrite := []
    let b : List BusWrite := []
    let c : List BusWrite := []
    let s : State := { tTime with sup := { resync := some (0, 1000) } }
    let w (k : Nat) : List BusWrite := coreWrites a b c k
    let sig (k : Nat) : Nat := windowSig (w k)
    let k := 0
    let t := 1000
    let x := if k = 0 then 1 else 0
    let y := if k = 2 then 1 else 2
    triadRun s = true ∧ s.flt.f3 = false ∧ s.pwr.state = 0 ∧ s.sup.resync = some (k, t) ∧ sig x = sig y) ∧
   (let a : List BusWrite := []
    let b : List BusWrite := []
    let c : List BusWrite := [⟨0x50000, 1, 15⟩]
    let s : State := { tTime with sup := { resync := some (0, 1000) } }
    let w (k : Nat) : List BusWrite := coreWrites a b c k
    let sig (k : Nat) : Nat := windowSig (w k)
    let k := 0
    let t := 1000
    let x := if k = 0 then 1 else 0
    let y := if k = 2 then 1 else 2
    triadRun s = true ∧ s.flt.f3 = false ∧ s.pwr.state = 0 ∧ s.sup.resync = some (k, t) ∧ sig x ≠ sig y) ∧
   (let s : State := tTime
    triadRun s = true ∧ s.sup.resync = none) ∧
   (let k : Nat := 0
    let n : Nat := 1000
    let s : State := { tTime with sup := { resync := some (0, 1000) } }
    s.sup.resync = some (k, n)) ∧
   (let s : State := { tTime with sup := { restartAt := some 5 } }
    s.sup.restartAt ≠ none ∧ s.flt.f3 = false ∧ s.rst.warm = none ∧ s.pwr.state = 0) ∧
   (let g : Fin 16 := 1
    let t : Nat := 5
    let e : Entry := { kind := .event, qs := 0, code := 0x0101, tag := 0, cls := 2, status := 0, ns := 0, secLo := 0, payload := [] }
    let s : State := { tTime with flt := { grace := [(1, 5)], unhandled := [(1, { kind := .event, qs := 0, code := 0x0101, tag := 0, cls := 2, status := 0, ns := 0, secLo := 0, payload := [] })] } }
    kget s.flt.grace g.val = some t ∧ kget s.flt.unhandled g.val = some e ∧ t / 1000 ≤ s.lt / 1000 ∧ s.flt.f3 = false ∧ s.pwr.state ≤ 2 ∧ escWaits s e = false) :=
  ⟨by decide +kernel, by decide +kernel, by decide +kernel, by decide +kernel, by decide +kernel, ⟨by decide +kernel, by decide +kernel, by decide +kernel, by decide +kernel, ⟨by decide +kernel, by decide +kernel⟩⟩⟩

/-- Each clause of `WakesVotesAndCommitsAct` has values that meet its conditions. -/
theorem test_witness_WakesVotesAndCommitsAct :
   (let p : Port := 16
    let alt : Bool := false
    let held : Nat := 0
    let s : State := (tFab.setFld (WAKE_PORT_CFG.WAKE_EN 16) 1).setFld (WAKE_PORT_STATUS.STATE 16) 3
    portRecognises s p.val alt held = true) ∧
   (let n : Fin 4 := 0
    let held : Nat := 2000000
    let s : State := tFab.setFld (WAKE_IN_CFG.EN 0) 1
    s.flag (WAKE_IN_CFG.EN n.val) = true ∧ s.fld (WAKE_IN_CFG.FILTER n.val) * 10 ≤ held) ∧
   (let p : Port := 40
    let t : Nat := 5
    let s : State := { tFab with wake := { since := [(40, 5)] } }
    kget s.wake.since p.val = some t ∧ t + portTime s p.val ≤ s.lt ∧ (¬ (16 ≤ p.val ∧ p.val ≤ 31 ∧ s.fld (WAKE_PORT_STATUS.TARGET p.val) = 0 ∧ khas s.links p.val = false))) ∧
   (let p : Port := 40
    let t : Nat := 5
    let s : State := { tFab with wake := { since := [(40, 5)] } }.setFld (WAKE_PORT_STATUS.TARGET 40) 2
    kget s.wake.since p.val = some t ∧ t + 20000000 ≤ s.lt ∧ 2 ≤ s.fld (WAKE_PORT_STATUS.TARGET p.val)) ∧
   (let s : State := { tFab with wake := { holds := [(3, 5)] } }
    let m := listMask ((s.wake.holds.filter (fun e => decide (e.2 ≤ s.lt) && !bit s.wake.confirmed e.1)).map (·.1))
    s.pwr.state = 0 ∧ s.lt % 1000000 = 0 ∧ m ≠ 0) ∧
   (let c : CmdCtx := { tCmd (tBytes 8 [(0, 1)]) with who := .host 0 0 }
    let h : Nat := 0
    let f : Fld := WAKE_HOST_VOTE.HA
    let s : State := tAsked 0x0E02 { tCmd (tBytes 8 [(0, 1)]) with who := .host 0 0 }
    let mask := leAt c.par 0 2
    mayRun c 0x0E02 s ∧ plenIs c 8 = true ∧ parZero c 4 8 = true ∧ mask ≠ 0 ∧ hostVote c.who = some (h, f)) ∧
   (let p : Port := 16
    let s : State := tFab
    16 ≤ p.val ∧ p.val ≤ 39 ∧ portState s p.val = 0 ∧ khas s.links p.val = true) :=
  ⟨by decide +kernel, by decide +kernel, by decide +kernel, by decide +kernel, by decide +kernel, ⟨by decide +kernel, by decide +kernel⟩⟩

/-- Each clause of `ClustersSleepByCommits` has values that meet its conditions. -/
theorem test_witness_ClustersSleepByCommits :
   (let s : State := tFab
    let u := sayWaiting s
    let v := localVote u
    let part := wakePart u
    s.pwr.state = 0 ∧ (v ≠ u.wake.sentVote ∨ part ≠ u.wake.sentPart ∨ u.wake.lastVote + 100000000 ≤ u.lt) ∧ triadRun u = true ∧ wakeRole u = true) ∧
   (let p : Port := 0
    let m : SleepMsg := { kind := 0, addr := 1, clusters := 1 }
    let s : State := tFab
    let u := flood (some p.val) (.sleep m) s
    fabIn s p.val = true ∧ m.addr = ownAddr u ∧ hasAddr u = true) ∧
   (let p : Port := 0
    let m : SleepMsg := { kind := 0, addr := 2, clusters := 1 }
    let s : State := tFab
    let u := flood (some p.val) (.sleep m) s
    fabIn s p.val = true ∧ (m.addr ≠ ownAddr u ∨ hasAddr u = false) ∧ m.kind = 0) ∧
   (let p : Port := 0
    let m : SleepMsg := { kind := 1, addr := 2, clusters := 1 }
    let s : State := tFab
    let u := flood (some p.val) (.sleep m) s
    fabIn s p.val = true ∧ (m.addr ≠ ownAddr u ∨ hasAddr u = false) ∧ m.kind = 1) ∧
   (let p : Port := 0
    let m : SleepMsg := { kind := 2, addr := 2, clusters := 1 }
    let s : State := tFab
    let u := flood (some p.val) (.sleep m) s
    fabIn s p.val = true ∧ (m.addr ≠ ownAddr u ∨ hasAddr u = false) ∧ m.kind = 2) ∧
   (let s : State := tTime.setFld FAB_CFG.DFP_EN 0
    let pending := s.wake.commits.foldl (fun m c => m ||| c.clusters) s.wake.committed
    let settle := s.fld WAKE_TIMERS.SETTLE * 10000000
    let v := localVote s
    let m := listMask ((List.range 16).filter (fun c => !bit pending c && !bit v c && decide (kgetD s.wake.quiet c s.pwr.stateAt + settle ≤ s.lt)))
    s.pwr.state = 0 ∧ sleepCoord s = true ∧ triadRun s = true ∧ wakeRole s = true ∧ m ≠ 0) ∧
   (let s : State := { tFab with wake := { commits := [{ clusters := 1, at_ := 0, may := true }] } }
    let due (c : SleepCommit) : Bool := !c.done && decide (c.at_ ≤ s.scale 0)
    s.pwr.state = 0 ∧ s.wake.commits.any due = true) ∧
   (let t : Nat := 5
    let s : State := { tFab with wake := { retry := some 5 } }
    s.wake.retry = some t ∧ t ≤ s.lt) :=
  ⟨by decide +kernel, by decide +kernel, by decide +kernel, by decide +kernel, by decide +kernel, ⟨by decide +kernel, by decide +kernel, by decide +kernel⟩⟩

/-- Each clause of `PowerStatesAreEnteredAndLeft` has values that meet its conditions. -/
theorem test_witness_PowerStatesAreEnteredAndLeft :
   (let s : State := tTime.setFld PWR_CTRL.AUTO_STATE 1
    let n := s.fld PWR_CTRL.AUTO_STATE
    s.pwr.state = 0 ∧ s.pwr.entry = none ∧ (n = 1 ∨ n = 2) ∧ longStop s = false ∧ queuesEmpty s = true ∧ ringWork s 0 = false ∧ ringWork s 1 = false ∧ s.pwr.active + s.fld PWR_CTRL.AUTO_IDLE * 1000 ≤ s.lt) ∧
   (let s : State := { tTime with mem := { queues := [(0, [{ buf := 1 }])] } }.setFld PWR_CTRL.AUTO_STATE 2
    let n := s.fld PWR_CTRL.AUTO_STATE
    s.pwr.state = 0 ∧ s.pwr.entry = none ∧ (n = 1 ∨ n = 2) ∧ longStop s = false ∧ queuesEmpty s = false) ∧
   (let c : CmdCtx := tCmd (tBytes 8 [])
    let s : State := tTime.setFld PWR_CTRL.AUTO_STATE 1
    let n := byteAt c.par 0
    mayRun c 0x0E01 s ∧ longStop s = false ∧ plenIs c 8 = true ∧ parZero c 1 8 = true ∧ n = 0) ∧
   (let c : CmdCtx := tCmd (tBytes 8 [(0, 5)])
    let s : State := tTime.setFld PWR_CTRL.AUTO_STATE 1
    let n := byteAt c.par 0
    mayRun c 0x0E01 s ∧ longStop s = false ∧ plenIs c 8 = true ∧ parZero c 1 8 = true ∧ 1 ≤ n ∧ n ≤ 5) ∧
   (let e : Entering := { target := 2, who := 0, start := 0 }
    let s : State := { tTime with pwr := { entry := some { target := 2, who := 0, start := 0 } } }
    s.pwr.entry = some e ∧ longStop s = false ∧ e.target ≤ 2) ∧
   (let e : Entering := { target := 3, who := 0, start := 0 }
    let s : State := { tTime with pwr := { entry := some { target := 3, who := 0, start := 0 } } }
    s.pwr.entry = some e ∧ longStop s = false ∧ 3 ≤ e.target ∧ s.wake.since = []) ∧
   (let cause : Fin 9 := 7
    let s : State := tPair 3
    let cold := s.pairMode = 1 ∧ s.fld PAIR_STATUS.ROLE = 3
    cause.val = 7 ∧ cold) ∧
   (let cause : Fin 9 := 0
    let s : State := { tTime with pwr := { entry := some { target := 1, who := 0, start := 0 } } }
    let cold := s.pairMode = 1 ∧ s.fld PAIR_STATUS.ROLE = 3
    let e := ({ target := 1, who := 0, start := 0 } : Entering)
    (¬ cold) ∧ s.pwr.entry = some e ∧ triggers cause.val e.target = true) ∧
   (let cause : Fin 9 := 0
    let s : State := { tTime with pwr := { state := 1 } }
    let cold := s.pairMode = 1 ∧ s.fld PAIR_STATUS.ROLE = 3
    (¬ cold) ∧ s.pwr.entry = none ∧ s.pwr.exit = none ∧ triggers cause.val s.pwr.state = true) ∧
   (let cause : Fin 9 := 8
    let s : State := { tTime with pwr := { state := 3, exit := some { left := 3, cause := 7, start := 0 } } }
    let cold := s.pairMode = 1 ∧ s.fld PAIR_STATUS.ROLE = 3
    let x := ({ left := 3, cause := 7, start := 0 } : Leaving)
    (¬ cold) ∧ s.pwr.entry = none ∧ s.pwr.exit = some x ∧ cause.val = 8 ∧ triggers 8 s.pwr.state = true) ∧
   (let x : Leaving := { left := 3, cause := 7, start := 0 }
    let s : State := { tTime with pwr := { state := 3, exit := some { left := 3, cause := 7, start := 0 }, ramping := 1 } }
    s.pwr.exit = some x ∧ 0 < s.pwr.ramping) ∧
   (let x : Leaving := { left := 3, cause := 7, start := 0 }
    let s : State := { tTime with pwr := { state := 3, exit := some { left := 3, cause := 7, start := 0 } } }
    s.pwr.exit = some x ∧ s.pwr.ramps = 0 ∧ s.pwr.ramping = 0 ∧ x.warm = none) ∧
   (let x : Leaving := { left := 3, cause := 7, start := 0, warm := some 1 }
    let s : State := { tTime with pwr := { state := 3, exit := some { left := 3, cause := 7, start := 0, warm := some 1 } } }
    let k := (1 : Nat)
    s.pwr.exit = some x ∧ s.pwr.ramps = 0 ∧ s.pwr.ramping = 0 ∧ x.warm = some k) :=
  ⟨by decide +kernel, by decide +kernel, by decide +kernel, by decide +kernel, by decide +kernel, ⟨by decide +kernel, by decide +kernel, by decide +kernel, by decide +kernel, ⟨by decide +kernel, by decide +kernel, by decide +kernel, by decide +kernel⟩⟩⟩

/-- Each clause of `SuppliesClocksAndPowerOnResetAct` has values that meet its conditions. -/
theorem test_witness_SuppliesClocksAndPowerOnResetAct :
   (let r : Fin 11 := 0
    let mv : Nat := 0
    let held : Nat := 2000000
    let s : State := tTime
    s.pwr.state ≤ 2 ∧ s.flag (PWR_RAIL_STATUS.WARNING r.val) = false ∧ mv * 200 < railNominal s.dbg.straps r.val * (200 - s.fld (PWR_RAIL_CFG.WARN r.val)) ∧ s.fld (PWR_RAIL_CFG.FILTER r.val) * 50 ≤ held) ∧
   (let r : Fin 11 := 0
    let mv : Nat := 0
    let held : Nat := 2000000
    let s : State := tTime.setFld (PWR_RAIL_STATUS.WARNING 0) 1
    s.pwr.state ≤ 2 ∧ (s.flag (PWR_RAIL_STATUS.WARNING r.val) = true ∨ railWarns s r.val mv held = false)) ∧
   (let r : Fin 11 := 0
    let s : State := tTime.setFld (PWR_RAIL_STATUS.WARNING 0) 1
    s.flag (PWR_RAIL_STATUS.WARNING r.val) = true) ∧
   (let r : Fin 11 := 0
    let mv : Nat := 0
    let s : State := tTime
    s.rst.porLow = false ∧ mv * 10 < railNominal s.dbg.straps r.val * 9 ∧ (s.pwr.state ≤ 2 ∨ s.pwr.state ≤ 4 ∧ r.val ≤ 2 ∨ r.val = 2)) ∧
   (let s : State := tTime
    (s.pwr.state ≤ 2 ∨ s.pwr.exit ≠ none)) ∧
   (let test : Bool := false
    let straps : Nat := 0
    let held : Nat := 2000000
    let rails : List Nat := [750, 800, 750, 850, 1200, 1800, 3300, 1800, 1800, 1800, 1800]
    let s : State := { tTime with rst := { porLow := true } }
    s.rst.porLow = true ∧ rstFilter straps ≤ held ∧ test = false ∧ (∀ r : Nat, r < 11 → railNominal straps r * 9 < nth rails r * 10 ∧ bankAgrees straps r (nth rails r) = true)) ∧
   (let test : Bool := false
    let straps : Nat := 0
    let held : Nat := 2000000
    let rails : List Nat := []
    let s : State := { tTime with rst := { porLow := true } }
    s.rst.porLow = true ∧ rstFilter straps ≤ held ∧ supplyOk straps rails test = false) ∧
   (let held : Nat := 2000000
    let s : State := tTime
    rstFilter s.dbg.straps ≤ held) :=
  ⟨by decide +kernel, by decide +kernel, by decide +kernel, by decide +kernel, by decide +kernel, ⟨by decide +kernel, by decide +kernel, by decide +kernel⟩⟩

/-- Each clause of `WarmResetIsRequestedDrainsAndEnds` has values that meet its conditions. -/
theorem test_witness_WarmResetIsRequestedDrainsAndEnds :
   (let held : Nat := 1000
    let s : State := tTime
    rstFilter s.dbg.straps ≤ held) ∧
   (let held : Nat := 1000
    let s : State := tTime
    rstFilter s.dbg.straps ≤ held ∧ s.flt.f3 = false ∧ s.rst.warm = none ∧ s.rst.waiting = none ∧ s.pwr.exit = none ∧ s.pwr.state = 0 ∧ s.pwr.entry = none) ∧
   (let held : Nat := 1000
    let s : State := { tTime with rst := { warm := some { kind := 1, start := 0, limit := 5, done := true }, pinLow := true } }
    let w := ({ kind := 1, start := 0, limit := 5, done := true } : Warm)
    rstFilter s.dbg.straps ≤ held ∧ s.rst.warm = some w ∧ w.done = true) ∧
   (let held : Nat := 1000
    let s : State := tTime
    rstFilter s.dbg.straps ≤ held ∧ s.rst.warm = none) ∧
   (let c : CmdCtx := tCmd (tBytes 8 [])
    let s : State := tTime
    let u := markStarted c 0x0F03 s
    mayRun c 0x0F03 s ∧ plenIs c 8 = true ∧ parZero c 0 8 = true ∧ u.flt.f3 = false) ∧
   (let w : Warm := { kind := 1, start := 0, limit := 5 }
    let s : State := { tTime with rst := { warm := some { kind := 1, start := 0, limit := 5 } } }
    s.rst.warm = some w ∧ w.done = false ∧ drained s = true) ∧
   (let w : Warm := { kind := 1, start := 0, limit := 5 }
    let s : State := { tTime with rst := { warm := some { kind := 1, start := 0, limit := 5 } } }
    s.rst.warm = some w ∧ w.done = false ∧ w.limit ≤ s.lt) :=
  ⟨by decide +kernel, by decide +kernel, by decide +kernel, by decide +kernel, by decide +kernel, ⟨by decide +kernel, by decide +kernel⟩⟩

/-- Each clause of `FunctionsQuiesceAndResumeAndImagesAreStored` has values that meet its conditions. -/
theorem test_witness_FunctionsQuiesceAndResumeAndImagesAreStored :
   (let c : CmdCtx := tCmd (tBytes 16 [(0, 1)])
    let s : State := tTime
    let f := fnFunc c
    let m := markStarted c 0x0F01 s
    let k := if f = 3 then hedgeCopied m else if f = 8 then gwCopyEnd m else m
    let u := if f = 5 then (fnPorts c).foldl (fun w _ => engineRun w) k else k
    mayRun c 0x0F01 s ∧ fnParamOk c = true ∧ fnBusy s f = false ∧ k.flt.f3 = false ∧ heldByOther k c f (fnTarget c) = false ∧ fnCheck u c = none ∧ f = 1) ∧
   (let c : CmdCtx := tCmd (tBytes 16 [(0, 5), (4, 1)])
    let s : State := tTime
    let f := fnFunc c
    let m := markStarted c 0x0F01 s
    let k := if f = 3 then hedgeCopied m else if f = 8 then gwCopyEnd m else m
    let u := if f = 5 then (fnPorts c).foldl (fun w _ => engineRun w) k else k
    mayRun c 0x0F01 s ∧ fnParamOk c = true ∧ fnBusy s f = false ∧ k.flt.f3 = false ∧ heldByOther k c f (fnTarget c) = false ∧ fnCheck u c = none ∧ f = 5) ∧
   (let c : CmdCtx := tCmd (tBytes 16 [(0, 3)])
    let s : State := tTime
    let f := fnFunc c
    let m := markStarted c 0x0F01 s
    let k := if f = 3 then hedgeCopied m else if f = 8 then gwCopyEnd m else m
    let u := if f = 5 then (fnPorts c).foldl (fun w _ => engineRun w) k else k
    mayRun c 0x0F01 s ∧ fnParamOk c = true ∧ fnBusy s f = false ∧ k.flt.f3 = false ∧ heldByOther k c f (fnTarget c) = false ∧ fnCheck u c = none ∧ f ≠ 1 ∧ f ≠ 5 ∧ fnWindow f = true) ∧
   (let c : CmdCtx := tCmd (tBytes 16 [(0, 4)])
    let s : State := tTime
    let f := fnFunc c
    let m := markStarted c 0x0F01 s
    let k := if f = 3 then hedgeCopied m else if f = 8 then gwCopyEnd m else m
    let u := if f = 5 then (fnPorts c).foldl (fun w _ => engineRun w) k else k
    mayRun c 0x0F01 s ∧ fnParamOk c = true ∧ fnBusy s f = false ∧ k.flt.f3 = false ∧ heldByOther k c f (fnTarget c) = false ∧ fnCheck u c = none ∧ f ≠ 1 ∧ f ≠ 5 ∧ fnWindow f = false) ∧
   (let q : Quiesce := { cmd := none, start := 0 }
    let s : State := { tTime with fn := { carve := some { cmd := none, start := 0 } } }
    s.fn.carve = some q ∧ (s.mem.staging.all (fun e => e.2.isEmpty) = true ∧ s.mem.bufs.any (fun e => allocated e.2) = false ∨ q.start + 5000000 ≤ s.lt)) ∧
   (let c : CmdCtx := tCmd (tBytes 8 [(0, 4), (3, 1)])
    let s : State := tTime
    let u := markStarted c 0x0F02 s
    let f := fnFunc c
    let t := fnTarget c
    mayRun c 0x0F02 s ∧ plenIs c 8 = true ∧ parZero c 1 3 = true ∧ parZero c 4 8 = true ∧ fnKnown f = true ∧ (f = 4 ∨ f = 11 ∨ f = 12 → t < 2) ∧ (f ≠ 4 → f ≠ 11 → f ≠ 12 → t = 0) ∧ heldByOther u c f t = false) ∧
   (let c : CmdCtx := tCmd (tBytes 16 [])
    let s : State := tTime
    let u := markStarted c 0x0F04 s
    mayRun c 0x0F04 s ∧ s.flash.store = none ∧ plenIs c 16 = true ∧ parZero c 12 16 = true ∧ u.brace = false) ∧
   (let c : CmdCtx := tCmd []
    let img : Bytes := [1]
    let s : State := { tTime with flash := { store := some (tCmd [], [1]) } }
    s.flash.store = some (c, img) ∧ triadRun s = true ∧ engineHeld s = false) :=
  ⟨by decide +kernel, by decide +kernel, by decide +kernel, by decide +kernel, by decide +kernel, ⟨by decide +kernel, by decide +kernel, by decide +kernel⟩⟩

/-- Each clause of `DebugPortAndLinksAct` has values that meet its conditions. -/
theorem test_witness_DebugPortAndLinksAct :
   (let s : State := { tFab with dbg := { instr := 0x11 } }
    s.dbg.instr = 0x11 ∧ s.dbg.verifying = none) ∧
   (let s : State := { tFab with dbg := { instr := 0x12 } }
    s.dbg.instr = 0x12 ∧ dbgDis s = false ∧ s.dbg.verifying = none) ∧
   (let r : Bytes := []
    let s : State := { tFab with dbg := { verifying := some [] } }
    s.pwr.state = 0 ∧ s.dbg.verifying = some r) ∧
   (let ch : Bytes := [1]
    let t : Nat := 5
    let s : State := { tFab with dbg := { challenge := some ([1], 5) } }
    s.dbg.challenge = some (ch, t) ∧ t ≤ s.lt ∧ s.dbg.verifying = none) ∧
   (let p : Port := 16
    let rate : Nat := 100000
    let s : State := tFab
    isEthPort p.val = true ∧ (¬ (32 ≤ p.val ∧ p.val ≤ 39)) ∧ mayTrain s p.val = true ∧ rateOfPort p.val rate = true) ∧
   (let p : Port := 16
    let rate : Nat := 100001
    let s : State := tFab
    isEthPort p.val = true ∧ (¬ (32 ≤ p.val ∧ p.val ≤ 39)) ∧ mayTrain s p.val = true ∧ rateOfPort p.val rate = false) ∧
   (let p : Port := 16
    let s : State := tFab
    khas s.links p.val = true ∧ s.fabricPort p.val = false) ∧
   (let d : Fin 2 := 0
    let s : State := tFab.setFld (TIME_DOM_CFG.SERVO 0) 1
    s.pwr.state = 0 ∧ triadRun s = true ∧ s.flt.f3 = false ∧ s.flag (TIME_DOM_CFG.SERVO d.val) = true) :=
  ⟨by decide +kernel, by decide +kernel, by decide +kernel, by decide +kernel, by decide +kernel, ⟨by decide +kernel, by decide +kernel, by decide +kernel⟩⟩

end Sys2Proof.Tests
end

section
/-! Proofs: the invariant of Safety.lean over resets and steps, and a plain write of a word on the register bus. -/

namespace Sys2Proof.Machine

/-! What stands while the device is not in S0. -/

/-- The register bus serves nobody outside S0 (R550). -/
theorem busOpen_eq_false_of_state_ne {s : State} (h : s.pwr.state ≠ 0) (src : Src) : busOpen s src = false := by simp [busOpen, h]

/-- No command starts outside S0 (R549). -/
theorem starts_eq_false_of_state_ne {s : State} (h : s.pwr.state ≠ 0) (op : Nat) : starts s op = false := by simp [starts, h]

theorem reset_state_ne : State.reset.pwr.state ≠ 0 := by decide

/-! The invariant. -/

/-- What every function of the model keeps includes the invariant. -/
theorem Keeps.inv {s t : State} (k : Keeps s t) : State.Inv s → State.Inv t
  | ⟨hregs, hctrs, hlt⟩ => ⟨k.regs hregs, k.ctrs hctrs, k.lt hlt⟩

/-- The queue has no part in the invariant, so a command may be taken from it. -/
theorem inv_setPending {s : State} (h : State.Inv s) (rest : List Instr) : State.Inv { s with pending := rest } := h

theorem tick_keeps (s : State) : Keeps s (tick s) := (tick_touches s (Touches.refl 0x600 s) rfl).keeps

theorem step_of_pending_nil {s : State} (h : s.pending = []) : step s = .next (tick s) := by rw [step, h]

theorem step_of_pending_cons {s : State} {i : Instr} {rest : List Instr} (h : s.pending = i :: rest) :
    step s = exec i { s with pending := rest } := by rw [step, h]

/-- Settles O3: the tables of the reset state are empty, and LT is 0. -/
theorem resetHoldsTheInvariant : Obligations.ResetHoldsTheInvariant := ⟨rfl, rfl, rfl⟩

/-- Settles O4: an empty table reads as the reset values, and the device stands outside S0. -/
theorem resetLeavesTheStartValues : Obligations.ResetLeavesTheStartValues :=
  ⟨fun _ => ⟨rfl, rfl⟩, rfl, rfl, rfl, rfl, rfl, rfl, rfl, rfl,
    busOpen_eq_false_of_state_ne reset_state_ne, starts_eq_false_of_state_ne reset_state_ne⟩

/-- Settles O5: a step is a tick or the command at the front of the queue, and each keeps the canonical forms and the parity of LT (`Keeps`). -/
theorem everyStepKeepsTheInvariant : Obligations.EveryStepKeepsTheInvariant := by
  intro s t hinv hstep
  cases hq : s.pending with
  | nil =>
    obtain rfl : tick s = t := by simpa [step_of_pending_nil hq] using hstep
    exact (tick_keeps s).inv hinv
  | cons i rest =>
    rw [step_of_pending_cons hq] at hstep
    exact (exec_keeps hstep).inv (inv_setPending hinv rest)

/-! A write of a whole aligned word. -/

/-- The bus's turn has no part in what the registers hold. -/
@[simp] theorem State.granted_reg (src : Src) (s : State) (a : Nat) : (s.granted src).reg a = s.reg a := rfl

theorem State.granted_touches (src : Src) (s : State) : Touches 0x20 s (s.granted src) := Touches.bus (Touches.refl _ _) rfl

/-- A whole aligned word reaches the register at its address (R34). -/
theorem busWrite_word {src : Src} {addr data : Nat} {r : RegRow} {is : List Nat} (halign : addr % 4 = 0) (hreg : regAt addr = some (r, is))
    (hwide : r.wide = false) (s : State) : busWrite src addr data 15 s = writeReg src r is addr (data % 2 ^ 32) s := by
  have haddr : addr / 4 * 4 = addr := by omega
  simp [busWrite, haddr, halign, hreg, hwide]

/-- REGISTER_WRITE is a write of the bus, once it grants the access (R37). -/
theorem exec_registerWrite (src : Src) (addr data be : Nat) (s : State) :
    exec (.registerWrite src addr data be) s = .next (busRow src (busWrite src addr data be) s) := rfl

/-- REGISTER_WRITE of such a word, by a source that the bus serves, is the write of that register after the grant (R34, R37). -/
theorem exec_registerWrite_word {src : Src} {addr data : Nat} {r : RegRow} {is : List Nat} {s : State} (hopen : busOpen s src = true)
    (halign : addr % 4 = 0) (hreg : regAt addr = some (r, is)) (hwide : r.wide = false) :
    exec (.registerWrite src addr data 15) s = .next (writeReg src r is addr (data % 2 ^ 32) (s.granted src)) := by
  rw [exec_registerWrite, busRow_run hopen, busWrite_word halign hreg hwide]

/-- A plain write touches the registers alone, and the grant before it the bus. -/
theorem plainWrite_granted_onlyChanges (src : Src) (r : RegRow) (is : List Nat) (a v : Nat) (s : State) :
    OnlyChanges [.regs, .bus] s (plainWrite r is a v (s.granted src)) :=
  (plainWrite_touches (M := 0x22) r is a v _ ((State.granted_touches src s).mono rfl) rfl).onlyChanges (by decide)

/-- What the register reads back after a plain write: the written word without the bits that it does not implement (R8). -/
theorem reg_plainWrite_same {r : RegRow} {is : List Nat} {a v : Nat} {s : State} (h : Regs.wf s.regs = true) :
    (plainWrite r is a v s).reg a % 2 ^ 32 = (writtenWord r is (s.reg a) v &&& wordMask a) % 2 ^ 32 := reg_setReg_same h

theorem reg_plainWrite_other {r : RegRow} {is : List Nat} {a b v : Nat} {s : State} (h : b ≠ a) :
    (plainWrite r is a v s).reg b = s.reg b := reg_setReg_other h

/-- Settles O11: the access comes down to `plainWrite` of the register at its address, which is one `setReg`. -/
theorem plainRegisterWritesStoreTheirWord : Obligations.PlainRegisterWritesStoreTheirWord := by
  intro src addr data r is s ⟨hregs, _, _⟩ hopen halign hreg hwide hplain
  refine ⟨plainWrite r is addr (data % 2 ^ 32) (s.granted src), ?next, ?frame, ?same, ?others⟩
  case next => rw [exec_registerWrite_word hopen halign hreg hwide, hplain]
  case frame => exact plainWrite_granted_onlyChanges src r is addr _ s
  case same => exact reg_plainWrite_same (s := s.granted src) hregs
  case others => exact fun b hb => reg_plainWrite_other hb

end Sys2Proof.Machine
end

section
/-! Proofs: the rows of the register bus, register-access errors and their flags, and accesses of reserved addresses. -/

namespace Sys2Proof.Machine

/-! Rows of the register bus. -/

/-- A row of the register bus, granted, has its effect on the state in which its source was served last (R37). -/
theorem exec_granted {i : Instr} {src : Src} {f : State → State} {s : State} (hopen : busOpen s src = true) (hrow : exec i s = .next (busRow src f s)) :
    exec i s = .next (f (s.granted src)) := by
  rw [hrow, busRow_run hopen]

/-! Registers bit by bit: a bit that a register implements reads back as it was written (R8). -/

theorem bits_single_eq_one {v n : Nat} : bits v n n = 1 ↔ bit v n = true := by
  rw [bits, bit, Nat.testBit_eq_decide_div_mod_eq, Nat.add_sub_cancel_left, pow_one, decide_eq_true_iff]

theorem bit_reg_setReg_same {s : State} {a v n : Nat} (hwf : Regs.wf s.regs = true) (hn : n < 32) (hmask : bit (wordMask a) n = true) :
    bit ((s.setReg a v).reg a) n = bit v n := by
  have hword := congrArg (Nat.testBit · n) (reg_setReg_same (a := a) (v := v) hwf)
  rw [bit] at hmask
  simpa only [bit, Nat.testBit_mod_two_pow, Nat.testBit_and, hn, hmask, decide_true, Bool.true_and, Bool.and_true] using hword

/-! Register-access errors (R35, R39). -/

/-- The state once an access error has been captured, where it is the first one, and before its flags are set (R39). -/
def captureError (src : Src) (a : Nat) (s : State) : State :=
  if bits (s.reg GLB_ERR_STATUS) 2 0 = 0 then
    (s.setReg GLB_ERR_ADDR (a % 2 ^ 22 / 4 * 4)).setReg GLB_ERR_STATUS (setBits (s.reg GLB_ERR_STATUS) 5 4 (srcCode src))
  else s

theorem busError_eq (src : Src) (a flags : Nat) (s : State) :
    busError src a flags s = (captureError src a s).setReg GLB_ERR_STATUS ((captureError src a s).reg GLB_ERR_STATUS ||| flags) := rfl

theorem captureError_regs_wf {src : Src} {a : Nat} {s : State} (hwf : Regs.wf s.regs = true) : Regs.wf (captureError src a s).regs = true := by
  unfold captureError
  split
  case isTrue => exact regs_wf_regSet (regs_wf_regSet hwf)
  case isFalse => exact hwf

theorem captureError_reg_other {src : Src} {a b : Nat} {s : State} (hstatus : b ≠ GLB_ERR_STATUS) (haddr : b ≠ GLB_ERR_ADDR) :
    (captureError src a s).reg b = s.reg b := by
  unfold captureError
  split
  case isTrue => rw [reg_setReg_other hstatus, reg_setReg_other haddr]
  case isFalse => rfl

/-- An access error leaves every register but the two that report it. -/
theorem busError_reg_other {src : Src} {a flags b : Nat} {s : State} (hstatus : b ≠ GLB_ERR_STATUS) (haddr : b ≠ GLB_ERR_ADDR) :
    (busError src a flags s).reg b = s.reg b := by
  rw [busError_eq, reg_setReg_other hstatus, captureError_reg_other hstatus haddr]

/-- `GLB_ERR_STATUS` implements its three flags. -/
theorem wordMask_err_status : wordMask GLB_ERR_STATUS = 0x37 := by decide

/-- After an access error each of its flags reads 1, whatever was reported before. -/
theorem busError_sets_flag {src : Src} {a flags n : Nat} {s : State} (hwf : Regs.wf s.regs = true) (hn : n < 3) (hflag : bit flags n = true) :
    (busError src a flags s).fld ⟨GLB_ERR_STATUS, n, n⟩ = 1 := by
  have hmask : bit (wordMask GLB_ERR_STATUS) n = true := by
    rw [wordMask_err_status]
    interval_cases n <;> rfl
  rw [State.fld, bits_single_eq_one, busError_eq, bit_reg_setReg_same (captureError_regs_wf hwf) (by omega) hmask, bit, Nat.testBit_or, ← bit, ← bit,
    hflag, Bool.or_true]

/-! Reserved addresses (R35). -/

/-- The flags of a write to a reserved address: `UNMAP_WR`, and `PART_WR` where it is not a whole aligned word. -/
def reservedWriteFlags (addr be : Nat) : Nat := 2 + b2n (decide (be % 16 ≠ 15) || decide (addr % 4 ≠ 0)) * 4

theorem reservedWriteFlags_unmap (addr be : Nat) : bit (reservedWriteFlags addr be) 1 = true := by
  unfold reservedWriteFlags
  cases decide (be % 16 ≠ 15) || decide (addr % 4 ≠ 0) <;> rfl

theorem reservedWriteFlags_part {addr be : Nat} (hbe : be % 16 ≠ 15) : bit (reservedWriteFlags addr be) 2 = true := by
  simp [reservedWriteFlags, hbe, b2n, bit, Nat.testBit]

theorem reservedWriteFlags_word {addr : Nat} (halign : addr % 4 = 0) : reservedWriteFlags addr 15 = 2 := by
  simp [reservedWriteFlags, halign, b2n]

/-- A write to a reserved address only reports itself. -/
theorem busWrite_reserved {addr : Nat} (hreg : regAt (addr / 4 * 4) = none) (src : Src) (data be : Nat) (s : State) :
    busWrite src addr data be s = busError src (addr / 4 * 4) (reservedWriteFlags addr be) s := by
  simp only [busWrite, hreg]
  rfl

/-- A read of a reserved address gives 0 and reports itself. -/
theorem busRead_reserved {addr : Nat} (hreg : regAt (addr / 4 * 4) = none) (src : Src) (s : State) :
    busRead src addr s = (0, busError src (addr / 4 * 4) 1 s) := by
  simp only [busRead, hreg]

/-- Any bytes of the word 0 are 0. -/
theorem readBytes_zero (be : Nat) : readBytes be 0 = 0 := by
  simp [readBytes, bits, List.range_succ]

/-- What an access error touches, after the grant of its access. -/
theorem busError_granted_touches (src : Src) (a flags : Nat) (s : State) : Touches 0x22 s (busError src a flags (s.granted src)) :=
  busError_touches src a flags _ ((State.granted_touches src s).mono rfl) rfl

/-- UNMAPPED_READ and COUNTER_LOW_READ are reads of the bus, once it grants the access (R35 to R37). -/
theorem exec_unmappedRead {src : Src} {s : State} (hopen : busOpen s src = true) (addr be : Nat) (core : Fin 3) :
    exec (.unmappedRead src addr be core) s = .next (srcRead src core addr be (s.granted src)) :=
  exec_granted (f := srcRead src core addr be) hopen rfl

theorem exec_counterLowRead {src : Src} {s : State} (hopen : busOpen s src = true) (addr be : Nat) (core : Fin 3) :
    exec (.counterLowRead src addr be core) s = .next (srcRead src core addr be (s.granted src)) :=
  exec_granted (f := srcRead src core addr be) hopen rfl

/-- The write's half of `ReservedAccessesReportThemselves`. -/
theorem registerWrite_reserved {src : Src} {addr : Nat} {s : State} (hwf : Regs.wf s.regs = true) (hopen : busOpen s src = true)
    (hreg : regAt (addr / 4 * 4) = none) (data be : Nat) :
    ∃ t, exec (.registerWrite src addr data be) s = .next t ∧ OnlyChanges [.regs, .bus] s t ∧ t.fld GLB_ERR_STATUS.UNMAP_WR = 1 ∧
      (be % 16 ≠ 15 → t.fld GLB_ERR_STATUS.PART_WR = 1) ∧ ∀ b : Nat, b ≠ GLB_ERR_STATUS → b ≠ GLB_ERR_ADDR → t.reg b = s.reg b := by
  refine ⟨busError src (addr / 4 * 4) (reservedWriteFlags addr be) (s.granted src), ?next, ?frame, ?unmapped, ?part, ?others⟩
  case next => rw [exec_granted hopen (exec_registerWrite ..), busWrite_reserved hreg]
  case frame => exact (busError_granted_touches src _ _ s).onlyChanges (by decide)
  case unmapped => exact busError_sets_flag (n := 1) hwf (by decide) (reservedWriteFlags_unmap addr be)
  case part => exact fun hbe => busError_sets_flag (n := 2) hwf (by decide) (reservedWriteFlags_part hbe)
  case others => exact fun b hstatus haddr => busError_reg_other hstatus haddr

/-- The read's half: only the values kept for the cores of the triad may change besides (`srcRead_now`). -/
theorem unmappedRead_reserved {src : Src} {core : Fin 3} {addr be : Nat} {s : State} (hwf : Regs.wf s.regs = true) (hopen : busOpen s src = true)
    (hreg : regAt (addr / 4 * 4) = none) (hbe : be < 16) (hnow : readsNow src core addr s) :
    ∃ t, exec (.unmappedRead src addr be core) s = .next t ∧ OnlyChanges [.regs, .bus, .sup, .out] s t ∧ t.fld GLB_ERR_STATUS.UNMAP_RD = 1 ∧
      t.out = readGives src core addr 0 :: s.out ∧ ∀ b : Nat, b ≠ GLB_ERR_STATUS → b ≠ GLB_ERR_ADDR → t.reg b = s.reg b := by
  obtain ⟨kept, hread⟩ := srcRead_now (s := s.granted src) hnow hbe
  simp only [busRead_reserved hreg, readBytes_zero] at hread
  have hframe := busError_granted_touches src (addr / 4 * 4) 1 s
  refine ⟨_, (exec_unmappedRead hopen addr be core).trans (congrArg _ hread), ?frame, ?flag, ?out, ?others⟩
  case frame => exact (State.emit_touches (M := 0x10000032) _ _ (Touches.sup (hframe.mono rfl) rfl) rfl).onlyChanges (by decide)
  case flag => exact busError_sets_flag (s := s.granted src) (n := 0) hwf (by decide) (by decide)
  case out => exact congrArg _ (hframe.agree.out (by decide))
  case others => exact fun b hstatus haddr => busError_reg_other (s := s.granted src) hstatus haddr

/-- Settles O12: both accesses come down to `busError`, which sets the flags of the access and leaves all registers but the two that report it. -/
theorem reservedAccessesReportThemselves : Obligations.ReservedAccessesReportThemselves := by
  intro src core addr data be s ⟨hregs, _, _⟩ hopen hreg
  exact ⟨registerWrite_reserved hregs hopen hreg data be, unmappedRead_reserved hregs hopen hreg⟩

end Sys2Proof.Machine
end

section
/-! Proofs: writes and reads of the register space as its sources make them, and the registers of the frame path that act. -/

namespace Sys2Proof.Machine

/-! Writes of a word (R34, R35). -/

/-- A write of a part of a mapped word is discarded and reports itself. -/
theorem busWrite_part {src : Src} {addr data be : Nat} {r : RegRow} {is : List Nat} (hreg : regAt (addr / 4 * 4) = some (r, is)) (hbe : be % 16 ≠ 15)
    (s : State) : busWrite src addr data be s = busError src (addr / 4 * 4) 4 s := by
  simp [busWrite, hreg, hbe]

/-! Reads word by word (R34 to R36). -/

/-- What a read of one word leaves and answers, from what the bus reads. -/
theorem readWord_eq {src : Src} {addr be w : Nat} {s t : State} (hread : busRead src addr s = (w, t)) :
    readWord src addr be s = t.emit (.regRead src addr (readBytes be w)) := by
  rw [readWord, hread]

/-- A read of the low word of a counter, or of one that has no high word there, gives it and shadows the high one (R36). -/
theorem busRead_counterLow {src : Src} {addr : Nat} {r : RegRow} {is : List Nat} (hreg : regAt (addr / 4 * 4) = some (r, is)) (hwide : r.wide = true)
    (hlow : (idxOf r.dims (addr / 4 * 4 - r.base)).elim 0 (·.2) ≠ 4) (s : State) :
    busRead src addr s = (wideCtr s r is (addr / 4 * 4) % 2 ^ 32,
      setShadow src (addr / 4 * 4 + 4) (wideCtr s r is (addr / 4 * 4) / 2 ^ 32 % 2 ^ 32) s) := by
  simp [busRead, hreg, hwide, hlow]

/-- A read by another source than firmware takes its words one after another. -/
theorem srcRead_of_ne_fw {src : Src} (hsrc : src ≠ .fw) (core : Fin 3) (addr be : Nat) (s : State) :
    srcRead src core addr be s = readOut src addr be s := by
  cases src
  case fw => exact absurd rfl hsrc
  all_goals rfl

/-- A read by a core of the triad that runs (R492). -/
theorem srcRead_fw {core : Fin 3} {s : State} (hrun : triadRun s = true) (hcore : bit (coresRun s) core.val = true) (addr be : Nat) :
    srcRead .fw core addr be s = fwRead core.val addr be s := by
  simp [srcRead, hrun, hcore]

/-- Enables of four bytes at most take one word. -/
theorem readCount_word {be : Nat} (hbe : be < 16) (src : Src) : readCount src be = 1 := by
  cases src <;> simp [readCount, hbe]

/-- Enables whose highest hexadecimal digit is the n-th take n + 1 words of a PCIe read. -/
theorem readCount_pcie {src : Src} {be n : Nat} (hsrc : src = .ha ∨ src = .hb) (hlo : 16 ^ n ≤ be) (hhi : be < 16 ^ (n + 1)) :
    readCount src be = n + 1 := by
  have hpow (m : Nat) : 16 ^ m = 2 ^ (4 * m) := by rw [pow_mul]; rfl
  have hne : be ≠ 0 := (Nat.lt_of_lt_of_le (Nat.pow_pos (by decide)) hlo).ne'
  have hge : 4 * n ≤ Nat.log2 be := (Nat.le_log2 hne).mpr (hpow n ▸ hlo)
  have hlt : Nat.log2 be < 4 * (n + 1) := (Nat.log2_lt hne).mpr (hpow (n + 1) ▸ hhi)
  have hword : be < 16 → n = 0 := fun h => by
    by_contra hn
    exact absurd (Nat.lt_of_le_of_lt hlo h) (Nat.not_lt.mpr (Nat.le_self_pow hn 16))
  have hcount : (if be < 16 then 1 else Nat.log2 be / 4 + 1) = n + 1 := by
    split
    case isTrue h => rw [hword h]
    case isFalse => omega
  rcases hsrc with rfl | rfl <;> exact hcount

/-- A read of one word by another source than firmware. -/
theorem srcRead_word {src : Src} {be : Nat} (hsrc : src ≠ .fw) (hbe : be < 16) (core : Fin 3) (addr : Nat) (s : State) :
    srcRead src core addr be s = readWord src addr be s := by
  simp [srcRead_of_ne_fw hsrc, readOut, readCount_word hbe, Nat.mod_eq_of_lt hbe]

/-- A longer read of PCIe. -/
theorem srcRead_pcie {src : Src} {be n : Nat} (hsrc : src = .ha ∨ src = .hb) (hlo : 16 ^ n ≤ be) (hhi : be < 16 ^ (n + 1)) (core : Fin 3) (addr : Nat)
    (s : State) : srcRead src core addr be s =
      (List.range (n + 1)).foldl (fun u i => readWord src (addr + 4 * i) (be / 16 ^ i % 16) u) s := by
  have hne : src ≠ .fw := by rcases hsrc with rfl | rfl <;> decide
  rw [srcRead_of_ne_fw hne, readOut, readCount_pcie hsrc hlo hhi]

/-! The SPI port (R80 to R82). -/

section spi

variable {f : Bytes} {s : State} (hopen : busOpen s .spi = true)
include hopen

theorem exec_spiWriteFrame_good (hlen : f.length = 9) (hop : byteAt f 0 = 2) (hcrc : byteAt f 8 = spiCrc (f.take 8)) :
    exec (.spiWriteFrame f) s = .next (busWrite .spi (beAt f 1 3) (beAt f 4 4) 15 (s.granted .spi)) := by
  simp [exec, execSpiWriteFrame, hopen, hlen, hop, hcrc, busRow_run hopen]

theorem exec_spiWriteFrame_badCrc (hlen : f.length = 9) (hop : byteAt f 0 = 2) (hcrc : byteAt f 8 ≠ spiCrc (f.take 8)) :
    exec (.spiWriteFrame f) s = .next (s.setFld HOST_SPI_STATUS.CRC_ERR 1) := by
  simp [exec, execSpiWriteFrame, hopen, hlen, hop, hcrc]

theorem exec_spiReadFrame_good (hlen : f.length = 6) (hop : byteAt f 0 = 3) (hcrc : byteAt f 4 = spiCrc (f.take 4)) :
    exec (.spiReadFrame f) s =
      .next ((busRead .spi (beAt f 1 3) (s.granted .spi)).2.emit (.spiReply (toBe 4 (busRead .spi (beAt f 1 3) (s.granted .spi)).1 ++
        [byte (spiCrc (toBe 4 (busRead .spi (beAt f 1 3) (s.granted .spi)).1))]))) := by
  simp [exec, execSpiReadFrame, hopen, hlen, hop, hcrc, busRow_run hopen]

theorem exec_spiReadFrame_badCrc (hlen : f.length = 6) (hop : byteAt f 0 = 3) (hcrc : byteAt f 4 ≠ spiCrc (f.take 4)) :
    exec (.spiReadFrame f) s =
      .next ((s.setFld HOST_SPI_STATUS.CRC_ERR 1).emit (.spiReply (toBe 4 0 ++ [byte (spiCrc (toBe 4 0))]))) := by
  simp [exec, execSpiReadFrame, hopen, hlen, hop, hcrc]

theorem exec_spiStatusFrame_open :
    exec .spiStatusFrame s = .next (s.emit (.spiReply [byte (s.fld HOST_SPI_STATUS.CRC_ERR + 2 * s.fld HOST_SPI_STATUS.FRAME_ERR)])) := by
  simp [exec, execSpiStatusFrame, hopen]

theorem exec_spiFrameError_badCount {n : Nat} (hcount : spiCountOk n = false) :
    exec (.spiFrameError n) s = .next (s.setFld HOST_SPI_STATUS.FRAME_ERR 1) := by
  simp [exec, execSpiFrameError, hopen, hcount, spiBadLength]

end spi

theorem spiCountOk_eq_false {n : Nat} (hwrite : n ≠ 9) (hread : n ≠ 11) (hstatus : n ≠ 2) : spiCountOk n = false := by
  simp [spiCountOk, hwrite, hread, hstatus]

/-- Settles O27: each access is `busWrite` or `busRead` of one word after the grant, and a read repeats that for its words. -/
theorem registerAccessesAreServed : Obligations.RegisterAccessesAreServed := by
  refine ⟨?writes, ?words, ?pcie, ?cores, ?spi⟩
  case writes =>
    intro src a d r is s hopen halign
    have ha : a / 4 * 4 = a := by omega
    refine ⟨exec_registerWrite_word hopen halign, fun hreg be hbe => ?part, fun hreg => ?reserved⟩
    case part => rw [exec_granted hopen (exec_registerWrite ..), busWrite_part (by rwa [ha]) hbe, ha]
    case reserved =>
      rw [exec_granted hopen (exec_registerWrite ..), busWrite_reserved (by rwa [ha]), reservedWriteFlags_word halign, ha]
  case words =>
    intro src core a be s hopen hsrc hbe
    refine ⟨fun hreg => ?reserved, fun r is hreg hwide hlow => ?counter⟩
    case reserved => rw [exec_unmappedRead hopen, srcRead_word hsrc hbe, readWord_eq (busRead_reserved hreg ..)]
    case counter => rw [exec_counterLowRead hopen, srcRead_word hsrc hbe, readWord_eq (busRead_counterLow hreg hwide hlow _)]
  case pcie =>
    intro src core a n be s hopen hsrc hlo hhi
    rw [exec_unmappedRead hopen, srcRead_pcie hsrc hlo hhi]
  case cores =>
    intro core a be s hopen hrun hcore
    have hfw : srcRead .fw core a be (s.granted .fw) = fwRead core.val a be (s.granted .fw) :=
      srcRead_fw (s := s.granted .fw) hrun hcore a be
    exact ⟨by rw [exec_unmappedRead hopen, hfw], by rw [exec_counterLowRead hopen, hfw]⟩
  case spi =>
    intro f s hopen
    exact ⟨exec_spiWriteFrame_good hopen, exec_spiWriteFrame_badCrc hopen, exec_spiReadFrame_good hopen, exec_spiReadFrame_badCrc hopen,
      exec_spiStatusFrame_open hopen, fun _ hwrite hread hstatus => exec_spiFrameError_badCount hopen (spiCountOk_eq_false hwrite hread hstatus)⟩

/-! Registers that act (R38, R83 and the rules of the path). -/

/-- `FENCE` of `HOST_FAILSAFE` fences every output unless an F3 fault has stopped the device (R83, R517). -/
theorem failsafeFence_running {s : State} (hrun : s.flt.f3 = false) : failsafeFence s = relevel (s.setFld HOST_FAILSAFE.FENCE 1) := by
  simp [failsafeFence, hrun]

/-- Settles O28: every row is a row of the register bus (`exec_granted`) with the register's own rule as its effect. -/
theorem actingRegistersOfThePathAct : Obligations.ActingRegistersOfThePathAct := by
  refine ⟨fun src s hopen => ?anySource, fun s hopen => ⟨exec_granted hopen rfl, fun hrun => ?fence⟩⟩
  case anySource =>
    have hlast (pin : Fin 4) := exec_granted (i := .timeInLastNsRead src pin) (s := s)
      (f := fun u => (readLastNs src pin.val u).2.emit (.regRead src (TIME_IN_LAST_NS pin.val) (readLastNs src pin.val u).1)) hopen rfl
    exact ⟨exec_granted (f := (State.setFld · GLB_CTRL.FWD_EN 1)) hopen rfl, exec_granted hopen rfl, hlast,
      fun _ => ⟨exec_granted hopen rfl, exec_granted hopen rfl, exec_granted hopen rfl⟩, fun _ _ => exec_granted hopen rfl,
      fun _ _ => ⟨exec_granted hopen rfl, exec_granted hopen rfl⟩, fun _ _ => exec_granted hopen rfl, fun _ _ _ => exec_granted hopen rfl,
      fun _ _ => exec_granted hopen rfl⟩
  case fence => rw [exec_granted (f := failsafeFence) hopen rfl, failsafeFence_running (s := s.granted .spi) hrun]

end Sys2Proof.Machine
end

section
/-! Proofs: the work of a slice: the oldest frame of a partition, the copies that wait for recovery and for the batch builder, and the epoch records. -/

namespace Sys2Proof.Machine

/-! The oldest frame of a partition (R26, R455). -/

/-- The state without the oldest frame of a partition, the others being `rest`. -/
def State.unstaged (p : Nat) (rest : List Pkt) (s : State) : State :=
  { s with mem := { s.mem with staging := if rest.isEmpty then kdel s.mem.staging p else kput s.mem.staging p rest } }

section pipeline

variable {p : Port} {x : Pkt} {rest : List Pkt} {s : State} (hstaged : s.stagingOf p.val = x :: rest) (hs0 : s.pwr.state = 0)
include hstaged hs0

/-- In S0 the frame leaves the partition, and an F3 fault, standing or met on its way out, drops it (R517). -/
theorem exec_pipelineFrame_staged : exec (.pipelineFrame p []) s = if s.flt.f3 then .next (dropPkt x (s.unstaged p.val rest)) else
    .next (if (f3Check (s.unstaged p.val rest)).flt.f3 then dropPkt x (f3Check (s.unstaged p.val rest))
      else f3Check (pipeline x (f3Check (s.unstaged p.val rest)))) := by
  change execPipelineFrame p [] s = _
  rw [execPipelineFrame, hstaged]
  exact if_neg (not_not_intro hs0)

theorem exec_pipelineFrame_stopped (hf3 : s.flt.f3 = true) : exec (.pipelineFrame p []) s = .next (dropPkt x (s.unstaged p.val rest)) := by
  rw [exec_pipelineFrame_staged hstaged hs0, if_pos hf3]

/-- Without an F3 fault it passes the stages. -/
theorem exec_pipelineFrame_runs (hf3 : s.flt.f3 = false) (hrun : (f3Check (s.unstaged p.val rest)).flt.f3 = false) :
    exec (.pipelineFrame p []) s = .next (f3Check (pipeline x (f3Check (s.unstaged p.val rest)))) := by
  rw [exec_pipelineFrame_staged hstaged hs0, if_neg (by simp [hf3]), if_neg (by simp [hrun])]

end pipeline

/-- A frame that the rows of R455 do not discard begins with stage 2. -/
theorem pipeline_of_kept {x : Pkt} {s : State} (h : fabricDrop s x = none) : pipeline x s = stage2 (homeQuad x.inPort) x s := by rw [pipeline, h]

theorem pipeline_of_discarded {x : Pkt} {s : State} {k : Nat} (h : fabricDrop s x = some k) : pipeline x s = dropPkt x (s.bump k) := by rw [pipeline, h]

/-! Recovery (R347, R352, R353). -/

theorem exec_recoveryCopy (s : State) : exec .recoveryCopy s = .next (recoverNext s) := rfl

/-- The copy that is taken passes recovery, and a void is counted. -/
theorem recoverNext_taken {w : Waiting} {h : Nat} {c : HeldCopy} {s u : State} (htake : takeRecovery s = some (w, u))
    (hcopy : waitingCopy u w = some (h, c)) : recoverNext s = recoverCopy h c (if isVoid c then u.bump PATH_VOID_RCVD else u) := by
  simp only [recoverNext, htake, hcopy]

/-- A tick of 100 ns judges the holds of every stream with recovery, after what has arrived. -/
theorem exec_skewTick_due {s : State} (hdue : s.lt % 100 = 0) :
    exec .skewTick s = .next (((recoverAll s.mem.recWait.length s).streams.filter (fun e => e.2.recov.isSome)).foldl
      (fun v e => skewTick e.1 v) (recoverAll s.mem.recWait.length s)) := by
  simp [exec, execSkewTick, hdue]

/-! Batches (R398, R399). -/

theorem exec_batchAdd (s : State) : exec .batchAdd s = .next (batchStep s) := rfl

/-- The builder takes the copy whose quadrant is next. -/
theorem batchStep_taken {w : Waiting} {s : State} (hnext : nextWaiting s.mem.batchWait s.mem.batchLast = some w) :
    batchStep s =
      batchAdd w { s with mem := { s.mem with batchWait := removeFirst (fun y => y = w) s.mem.batchWait, batchLast := w.quad } } := by
  simp only [batchStep, hnext]

/-! Epoch records (R357). -/

theorem exec_epochRecordWritten (s : State) : exec .epochRecordWritten s = .next (writeEpochs s) := rfl

/-- Every stream keeps its handle. -/
theorem writeEpochs_keys (s : State) : (writeEpochs s).streams.map (·.1) = s.streams.map (·.1) := by
  simp only [writeEpochs, List.map_map]
  refine List.map_congr_left fun e _ => ?_
  simp only [Function.comp_apply]
  split <;> rfl

/-- Afterwards the record of every stream that enters here is written. -/
theorem writeEpochs_written {s : State} : ∀ e ∈ (writeEpochs s).streams, e.2.ingress = true → e.2.written = true := by
  intro e he hin
  obtain ⟨old, -, rfl⟩ := List.mem_map.mp he
  by_cases hnew : (old.2.ingress && !old.2.written) = true
  · simp only [if_pos hnew]
  · simp only [if_neg hnew] at hin ⊢
    simpa [hin] using hnew

/-- Settles O24: each row takes what waits, by the lemma of its function, or leaves the slice's work to the fold that the rule names. -/
theorem slicesWorkOnWhatWaits : Obligations.SlicesWorkOnWhatWaits := by
  refine ⟨?pipeline, ?recovery, fun s hdue => exec_skewTick_due hdue, ?batch, ?timeout, ?epochs⟩
  case pipeline =>
    intro p x rest s hstaged hs0
    refine ⟨fun hf3 => exec_pipelineFrame_stopped hstaged hs0 hf3, fun hf3 hrun => ⟨fun hkept => ?kept, fun k hdrop => ?discarded⟩⟩
    case kept => exact pipeline_of_kept hkept ▸ exec_pipelineFrame_runs hstaged hs0 hf3 hrun
    case discarded => exact pipeline_of_discarded hdrop ▸ exec_pipelineFrame_runs hstaged hs0 hf3 hrun
  case recovery =>
    intro w h c s u htake hcopy
    rw [exec_recoveryCopy, recoverNext_taken htake hcopy]
  case batch =>
    intro w s hnext
    rw [exec_batchAdd, batchStep_taken hnext]
  case timeout =>
    intro s hdue
    exact if_neg (not_not_intro hdue)
  case epochs => exact fun s => ⟨writeEpochs s, exec_epochRecordWritten s, writeEpochs_keys s, writeEpochs_written, rfl⟩

end Sys2Proof.Machine
end

section
/-! Proofs: the drain limit, a warm reset from its request to its end. -/

namespace Sys2Proof.Machine

/-! The drain limit (R66). -/

/-- The bounds of the hops that the committed streams have here. -/
def State.hopBounds (s : State) : List Nat :=
  (s.streams.filter (fun e => e.2.committed)).flatMap (fun e => (e.2.hops.filter (fun g => !g.tent)).map (·.bound))

theorem drainLimit_eq (s : State) : drainLimit s = min 20000000 (s.hopBounds.foldl max 0 + 100000) := by
  simp only [drainLimit, State.hopBounds, List.foldl_flatMap, List.foldl_map]

theorem mem_hopBounds {s : State} {b : Nat} :
    b ∈ s.hopBounds ↔ ∃ e ∈ s.streams, e.2.committed = true ∧ ∃ g ∈ e.2.hops, g.tent = false ∧ g.bound = b := by
  simp [State.hopBounds, and_assoc]

/-- The largest of some numbers and 0 is 0 or one of them, and none of them is larger. -/
theorem foldl_max_zero_spec (l : List Nat) : (l.foldl max 0 = 0 ∨ l.foldl max 0 ∈ l) ∧ ∀ b ∈ l, b ≤ l.foldl max 0 := by
  obtain ⟨hmem, hle⟩ := List.max?_eq_some_iff.mp (List.max?_cons' (x := 0) (xs := l))
  exact ⟨List.mem_cons.mp hmem, fun b hb => hle b (List.mem_cons_of_mem 0 hb)⟩

/-- Settles O17: the fold over the hops is the largest of their bounds, so it is one of them, and none is larger. -/
theorem drainLimitIsTheLargestHopBound : Obligations.DrainLimitIsTheLargestHopBound := by
  intro s
  obtain ⟨hattained, hlargest⟩ := foldl_max_zero_spec s.hopBounds
  rw [drainLimit_eq]
  refine ⟨by omega, by omega, ?everyHop, ?attained⟩
  case everyHop =>
    intro e he hcommitted g hg htent
    have hle := hlargest g.bound (mem_hopBounds.mpr ⟨e, he, hcommitted, g, hg, htent, rfl⟩)
    omega
  case attained =>
    rcases hattained with hzero | hmem
    · exact .inl (by rw [hzero]; rfl)
    · obtain ⟨e, he, hcommitted, g, hg, htent, hbound⟩ := mem_hopBounds.mp hmem
      exact .inr ⟨e, he, hcommitted, g, hg, htent, by rw [hbound]⟩

/-! The request of a warm reset (R580, R584, R585, R601). -/

/-- In S0, with neither an entry nor an exit in progress nor a reset before it, the request begins a warm reset. -/
theorem warmStart_inS0 {kind : Nat} {s : State} (hf3 : s.flt.f3 = false) (hwarm : s.rst.warm = none) (hwaiting : s.rst.waiting = none)
    (hexit : s.pwr.exit = none) (hs0 : s.pwr.state = 0) (hentry : s.pwr.entry = none) : warmStart kind s = warmBegin kind s := by
  simp [warmStart, hf3, hwarm, hwaiting, hexit, hs0, hentry]

/-- The state once the level of `WRESET_N` has been taken over. -/
def State.wresetPin (low : Bool) (s : State) : State := { s with rst := { s.rst with pinLow := low } }

section pin

variable {held : Nat} {s : State} (hfilter : rstFilter s.dbg.straps ≤ held)
include hfilter

theorem exec_wresetNAssert_filtered : exec (.wresetNAssert held) s = .next (warmStart 2 (s.wresetPin true)) :=
  congrArg _ (if_neg (Nat.not_lt.mpr hfilter))

/-- A reset whose drain is done waits for the pin's release, and then goes on (R584). -/
theorem exec_wresetNRelease_held {w : Warm} (hwarm : s.rst.warm = some w) (hdone : w.done = true) :
    exec (.wresetNRelease held) s = .next (warmForward w (s.wresetPin false)) := by
  simp [exec, execWresetNRelease, Nat.not_lt.mpr hfilter, hwarm, hdone, State.wresetPin]

theorem exec_wresetNRelease_idle (hwarm : s.rst.warm = none) : exec (.wresetNRelease held) s = .next (s.wresetPin false) := by
  simp [exec, execWresetNRelease, Nat.not_lt.mpr hfilter, hwarm, State.wresetPin]

end pin

/-- The command completes with status "draining" and requests the reset (R580). -/
theorem exec_warmReset_accepted {c : CmdCtx} {s : State} (hrun : mayRun c 0x0F03 s) (hlen : plenIs c 8 = true) (hzero : parZero c 0 8 = true)
    (hf3 : (markStarted c 0x0F03 s).flt.f3 = false) :
    exec (.warmReset c) s = .next (warmStart 3 (complete c 0x0F03 stDraining [] (markStarted c 0x0F03 s))) := by
  simp [exec, execWarmReset, command_run hrun, hlen, hzero, hf3]

/-! The end of the drain (R67, R583). -/

section drain

variable {w : Warm} {s : State} (hwarm : s.rst.warm = some w) (hdone : w.done = false)
include hwarm hdone

theorem exec_drainEnd_drained (hdrained : drained s = true) : exec .drainEnd s = .next (drainDone w s) := by
  simp [exec, execDrainEnd, hwarm, hdone, hdrained]

/-- At the limit what is still held is discarded, and its number is told (R67). -/
theorem exec_drainLimitExpiry_due (hlimit : w.limit ≤ s.lt) : exec .drainLimitExpiry s =
    .next (drainDone { w with cut := (drainCut s).1 } (raise 0x0F02 0 (evPay [(20, 4, (drainCut s).1)]) (drainCut s).2)) := by
  simp [exec, execDrainLimitExpiry, hwarm, hdone, hlimit]

end drain

/-- Settles O57: the pin and the command come down to `warmStart`, the end of the drain and its limit to `drainDone`, the pin's release to
`warmForward`. -/
theorem warmResetIsRequestedDrainsAndEnds : Obligations.WarmResetIsRequestedDrainsAndEnds := by
  refine ⟨?assert, ?release, fun c s => exec_warmReset_accepted,
    fun w s hwarm hdone => ⟨exec_drainEnd_drained hwarm hdone, exec_drainLimitExpiry_due hwarm hdone⟩⟩
  case assert =>
    intro held s u hfilter
    refine ⟨exec_wresetNAssert_filtered hfilter, fun hf3 hwarm hwaiting hexit hs0 hentry => ?begins⟩
    exact (exec_wresetNAssert_filtered hfilter).trans
      (congrArg _ (warmStart_inS0 (s := s.wresetPin true) hf3 hwarm hwaiting hexit hs0 hentry))
  case release =>
    intro held s u hfilter
    exact ⟨fun _ => exec_wresetNRelease_held hfilter, exec_wresetNRelease_idle hfilter⟩

end Sys2Proof.Machine
end

section
/-! Proofs: the frames that leave: the scheduler of a port, the last bit of a frame, and the copies that firmware and the hosts take. -/

namespace Sys2Proof.Machine

/-! The scheduler of a port (R266). -/

/-- EGRESS_SELECT without a memory error and SHAPER_ELIGIBLE both evaluate the scheduler. -/
theorem exec_scheduler {p : Port} {s t : State} (h : egressSelect p.val none s = t) :
    exec (.egressSelect p none) s = .next t ∧ exec (.shaperEligible p) s = .next t :=
  ⟨congrArg _ h, congrArg _ h⟩

/-- The state in which a port selects: its heads that never start are gone, and an admitted one under a packet-number hold is told. -/
def judgeHeads (p : Nat) (s : State) : State := heldHeads p (dropHeads p (markHeld p s))

section scheduler

variable {p : Nat} {s : State} (hs0 : s.pwr.state = 0) (hp : p ≠ 74) (hf3 : s.flt.f3 = false)
include hs0 hp hf3

theorem egressSelect_down (hdown : portUp s p = false) : egressSelect p none s = flushPort p s := by
  simp [egressSelect, hs0, hp, hf3, hdown]

variable (hup : portUp s p = true) (hawake : laneAwake (s.eport p) = true)
include hup hawake

/-- A free port starts what R266 returns, and may park after that. -/
theorem egressSelect_free (hfree : portFree (judgeHeads p s) p = true)
    (hidle : isEthPort p = true ∨ ((judgeHeads p s).eport p).sending = none) :
    egressSelect p none s = parkEnter p (portEmpty (judgeHeads p s) p) (chooseNext p (judgeHeads p s)) := by
  rw [judgeHeads] at hfree hidle ⊢
  simp [egressSelect, hs0, hp, hf3, hup, hawake, hfree, hidle]

/-- A port that sends a preemptable frame looks for an express one (R286). -/
theorem egressSelect_preemptable {g : Sending} (hbusy : portFree (judgeHeads p s) p = false) (hsending : ((judgeHeads p s).eport p).sending = some g)
    (hpre : g.preemptable = true) (hactive : preemptActive (judgeHeads p s) p = true) :
    egressSelect p none s = tryPreempt p g (judgeHeads p s) := by
  rw [judgeHeads] at hbusy hsending hactive ⊢
  simp [egressSelect, hs0, hp, hf3, hup, hawake, hbusy, hsending, hpre, hactive]

end scheduler

/-! The last bit (R43). -/

/-- The state as the oldest frame that an Ethernet port sends has passed its last bit. -/
def sentOut (p : Nat) (g : Sending) (s : State) : State :=
  (endSending p g (lastBit s p g) s).emit (.frame p (g.bytes ++ fcsOf g.bytes) (txStart s p g.started) (lastBit s p g))

theorem exec_frameDepart_due {p : Port} {g : Sending} {rest : List Sending} {s : State} (hwire : (s.eport p.val).onWire = g :: rest)
    (heth : isEthPort p.val = true) (hlast : lastBit s p.val g ≤ s.lt) (hs2 : s.pwr.state ≤ 2) :
    exec (.frameDepart p) s =
      .next (parkEnter p.val (portEmpty (sentOut p.val g s) p.val) (departCopy p.val (lastBit s p.val g) g.cell (sentOut p.val g s))) := by
  simp [exec, execFrameDepart, hwire, heth, hlast, hs2, sentOut]

/-! Delivery to firmware (R148). -/

/-- The state as firmware takes the head that is selected among SV's queues: the heads that never start are gone, and an unknown control message is
counted (R457). -/
def svTaken (c : Nat) (x : Cell) (s : State) : State :=
  startCopy 74 c (startAt s 74) x (if unknownMsg (dropHeads 74 s) x = true then (dropHeads 74 s).bump FAB_BAD_TAG else dropHeads 74 s)

theorem exec_svFrameTake_selected {c : Nat} {x : Cell} {g : Sending} {s : State} (hs0 : s.pwr.state = 0) (hf3 : s.flt.f3 = false)
    (htriad : triadRun s = true) (hfree : portFree s 74 = true) (hstays : (dropHeads 74 s).flt.f3 = false)
    (hselect : selectClass (dropHeads 74 s) 74 (startAt s 74) (fun _ => true) = some (c, x))
    (hsending : ((svTaken c x s).eport 74).sending = some g) :
    exec (.svFrameTake none none) s = .next (departCopy 74 (svTaken c x s).lt g.cell (endSending 74 g (svTaken c x s).lt (svTaken c x s))) := by
  have hturn : ¬ (decide (s.pwr.state ≠ 0) || s.flt.f3 || !triadRun s || !portFree s 74) = true := by simp [hs0, hf3, htriad, hfree]
  rw [svTaken] at hsending ⊢
  refine (if_neg hturn).trans ?_
  simp only [hstays, Bool.false_eq_true, if_false, hselect, hsending]

/-! Delivery to a host (R100). -/

section host

variable {h : HostId} {g : Sending} {s : State} (hsending : (s.eport (hostPort h)).sending = some g) (hlast : lastBit s (hostPort h) g ≤ s.lt)
  (hs2 : s.pwr.state ≤ 2)
include hsending hlast hs2

/-- Where the RXQ no longer runs, the copy is discarded. -/
theorem exec_hostRxDeliver_stopped (hstopped : rxStopped s (hostPort h) g.tc g.cell = true) (entry : Bytes) :
    exec (.hostRxDeliver h entry) s =
      .next (discardCopy (hostPort h) g.cell false (endSending (hostPort h) g (lastBit s (hostPort h) g) s)) := by
  simp [exec, execHostRxDeliver, hsending, Nat.not_lt.mpr hlast, Nat.not_lt.mpr hs2, hstopped]

theorem exec_hostRxDeliver_posted {b : Buf} {entry : Bytes} (hruns : rxStopped s (hostPort h) g.tc g.cell = false)
    (hbuf : s.buf g.cell.buf = some b) (hposted : rxPosted s (hostPort h) g.tc g.cell = true) (hentry : posted entry = true) :
    exec (.hostRxDeliver h entry) s =
      .next (rxDeliver h (hostPort h) (leAt entry 0 8) (leAt entry 8 4) (leAt entry 12 4) g b s) := by
  simp [exec, execHostRxDeliver, hsending, Nat.not_lt.mpr hlast, Nat.not_lt.mpr hs2, hruns, hbuf, hposted, hentry]

end host

/-- Settles O23: the scheduler's rows come down to `egressSelect`, and each other row to what becomes of the copy that its port sends. -/
theorem framesLeaveThroughTheScheduler : Obligations.FramesLeaveThroughTheScheduler := by
  refine ⟨?scheduler, fun p g rest s => exec_frameDepart_due, fun s c x g => exec_svFrameTake_selected, ?host⟩
  case scheduler =>
    intro p s hs0 hp hf3
    refine ⟨fun hdown => exec_scheduler (egressSelect_down hs0 hp hf3 hdown), fun hup hawake => ⟨fun hfree hidle => ?free, fun g => ?preempt⟩⟩
    case free => exact exec_scheduler (egressSelect_free hs0 hp hf3 hup hawake hfree hidle)
    case preempt =>
      intro hbusy hsending hpre hactive
      exact exec_scheduler (egressSelect_preemptable hs0 hp hf3 hup hawake hbusy hsending hpre hactive)
  case host =>
    intro h entry g b s hsending hlast hs2
    exact ⟨fun hstopped => exec_hostRxDeliver_stopped hsending hlast hs2 hstopped entry,
      exec_hostRxDeliver_posted hsending hlast hs2⟩

end Sys2Proof.Machine
end

section
/-! Proofs: a command whose group its sender may not use. -/

namespace Sys2Proof.Machine

/-- A row of a command waits as it stands, or starts by `command`. -/
def WaitsOrStarts (c : CmdCtx) (op : Nat) (s : State) (r : Res) : Prop := r = .next s ∨ ∃ body, r = .next (command c op s body)

theorem WaitsOrStarts.ite {c : CmdCtx} {op : Nat} {s : State} {r : Res} (h : WaitsOrStarts c op s r) (p : Prop) [Decidable p] :
    WaitsOrStarts c op s (if p then .next s else r) := by
  by_cases hp : p
  · exact .inl (if_pos hp)
  · rwa [if_neg hp]

theorem WaitsOrStarts.command (c : CmdCtx) (op : Nat) (s : State) (body : State → State) :
    WaitsOrStarts c op s (.next (Machine.command c op s body)) := .inr ⟨body, rfl⟩

theorem cryptoJob_waitsOrStarts (c : CmdCtx) (data : Option JobData) (s : State) : WaitsOrStarts c 0x0904 s (.next (cryptoJob c data s)) := by
  unfold cryptoJob
  rw [apply_ite Host.Outcome.next]
  exact (WaitsOrStarts.command ..).ite _

/-- Every row of a command waits or starts: what holds a row back stands before `command`, and holds the whole row back. -/
theorem exec_waitsOrStarts {i : Instr} {c : CmdCtx} {op : Nat} (h : asCommand i = some (c, op)) (s : State) : WaitsOrStarts c op s (exec i s) := by
  cases i with
  | tblSearch _ | tblNext _ | tblInsert _ | tblDelete _ | tblFlushPort _ | tblRehash _ | tblPin _
  | hedgeStage _ | hedgeRead _ | hedgePinholeList _ | hedgePinholeClose _ | hedgePinholeCloseAll _ | hedgePinholeOpen _
  | timeStep _ | timeRate _ | timePulseArm _ | shutterStage _ | shutterFlip _ | shutterRead _
  | admitRequest _ | admitCommit _ | admitWithdraw _ | admitQuery _ | pairHandover _
  | gwStage _ | gwRead _ | gwImageRead _ | gwImageWrite _ | gwImageSend _ | gwBusSelectTable _ | gwBusRecover _ | gwBusSetMode _ | gwBusPocCommand _
  | keyExport _ | macsecSaInstall _ | macsecSaRemove _ | macsecSaTxCommit _ | macsecSaRead _
  | fabDigestQuery _ | fabReset _ | transomClearErr _ | netSleepVote _ | warmReset _ | fnResume _ =>
    cases h
    exact .command ..
  | hedgeFlip _ | admitImage _ _ | pathSet _ | gwFlip _
  | keyLoadBlob _ _ | keyReplace _ _ | keyVerifyCommit _ | keyDeriveKdf _ _ | keyDeriveRandom _ _
  | imgBegin _ | imgBlock _ _ | imgEnd _ _ | imgActivate _ | pwrRequestState _ | fnQuiesceFlip _ | fnQuiesceReset _ _ | cfgStore _ _ =>
    cases h
    exact (WaitsOrStarts.command ..).ite _
  | cryptoGcmEncrypt _ _ | cryptoGcmDecrypt _ _ | cryptoCmacGenerate _ _ | cryptoCmacVerify _ _
  | cryptoSha384 _ _ | cryptoEcdsaVerify _ _ | cryptoCmacFreshGenerate _ _ | cryptoCmacFreshVerify _ _ =>
    cases h
    exact cryptoJob_waitsOrStarts ..
  | _ => cases h

/-- Settles O9: a row that waits leaves the state as it is, and `command` completes one whose group is not allowed (`command_denied`). -/
theorem aDeniedCommandHasNoEffect : Obligations.ADeniedCommandHasNoEffect := by
  intro i c op s hrow hstarts hturn hdenied
  obtain hwaits | ⟨body, hcommand⟩ := exec_waitsOrStarts hrow s
  · exact .inr hwaits
  · exact .inl (hcommand.trans (congrArg _ (command_denied hstarts hturn hdenied body)))

end Sys2Proof.Machine
end

section
/-! Proofs: what an endpoint writes and reads in host memory. -/

namespace Sys2Proof.Machine

/-! Entries of the event queue (R105, R109, R110). -/

/-- EVENT_WRITE of an endpoint that is served: what is due to commands at fault comes first. -/
theorem exec_eventWrite_served {h : HostId} {s : State} (hserved : served s h = true) (failed : Bool) :
    exec (.eventWrite h failed) s = .next (eventWrite h failed (faultyAll h s)) := if_pos hserved

theorem eventWrite_overflow {h : HostId} {qs : Nat} {s : State} (hlost : (s.host h).lostPend ≠ 0) (hset : overflowSet s h = some qs) (failed : Bool) :
    eventWrite h failed s = overflowEntry h qs s := by simp [eventWrite, hlost, hset]

/-- Without an overflow entry to write, the first waiting entry that fits is written. -/
theorem eventWrite_waiting {h : HostId} {e : Entry} {s : State} (hlost : (s.host h).lostPend = 0 ∨ overflowSet s h = none)
    (hfits : firstFit s h [] (s.host h).waiting = some e) (failed : Bool) : eventWrite h failed s =
      writeEntry h failed e (s.modHost h (fun x => { x with waiting := removeFirst (fun y => y = e) x.waiting })) := by
  have hnone : (if (s.host h).lostPend ≠ 0 then overflowSet s h else none) = none := by
    rcases hlost with hzero | hset
    · exact if_neg (not_not_intro hzero)
    · rw [hset, ite_self]
  simp only [eventWrite, hnone, hfits]

/-! Interrupts (R117). -/

theorem exec_msixTimeFire_due {h : HostId} {v : Nat} {s : State} (hcount : (kgetD (s.host h).vecs v {}).count ≠ 0)
    (htime : s.fld (HOST_MOD.TIME h.val v) ≠ 0)
    (hdue : (kgetD (s.host h).vecs v {}).first + s.fld (HOST_MOD.TIME h.val v) * 1000 ≤ s.lt) :
    exec (.msixTimeFire h v) s = .next (vecFire h v s) := if_pos (by simp [hcount, htime, hdue])

/-! Doorbells (R89 to R92). -/

theorem exec_doorbellPollTimer_due {h : HostId} {s : State} (hserved : served s h = true) (hdue : (s.host h).lastPoll + pollPeriod s h ≤ s.lt) :
    exec (.doorbellPollTimer h) s = .next (doorbellFetch h (s.modHost h (fun x => { x with lastPoll := s.lt }))) := if_pos (by simp [hserved, hdue])

theorem exec_doorbellSlotRead (h : HostId) (slot : Nat) (page : Bytes) (s : State) :
    exec (.doorbellSlotRead h slot page) s = execDoorbellSlotRead h slot page s := rfl

section slot

variable {h : HostId} {slot no : Nat} {again : Bool} {page : Bytes} {s : State} (hreading : kget (s.host h).slots slot = some (no, again))
include hreading

/-- A slot whose generation reads alike at both ends is accepted. -/
theorem exec_doorbellSlotRead_whole (hgen : leAt page 0 4 = leAt page 60 4) :
    exec (.doorbellSlotRead h slot page) s = .next (acceptSlot h slot no page (slotArrived h slot s)) := by
  simp [exec_doorbellSlotRead, execDoorbellSlotRead, hreading, hgen]

/-- One that is torn is read again, once. -/
theorem exec_doorbellSlotRead_torn (hgen : leAt page 0 4 ≠ leAt page 60 4) :
    exec (.doorbellSlotRead h slot page) s =
      .next (if again then slotArrived h slot s
        else (slotArrived h slot s).modHost h (fun x => { x with reread := x.reread ++ [(slot, (slotArrived h slot s).lt + 250)] })) := by
  simp only [exec_doorbellSlotRead, execDoorbellSlotRead, hreading, hgen, if_false]
  exact (apply_ite _ _ _ _).symm

end slot

theorem exec_doorbellReread_due {h : HostId} {slot : Nat} {s : State}
    (hdue : (s.host h).reread.any (fun e => e.1 = slot && decide (e.2 ≤ s.lt)) = true) (hidle : khas (s.host h).slots slot = false)
    (hserved : served s h = true) :
    exec (.doorbellReread h slot) s =
      .next (readSlots h true [slot] (s.modHost h (fun x => { x with reread := removeFirst (fun e => e.1 = slot) x.reread }))) :=
  if_pos (by rw [hdue, hidle, hserved]; rfl)

theorem exec_hostWakeHint (h : HostId) (v : Nat) (s : State) : exec (.hostWakeHint h v) s = .next (wakeHint h v s) := rfl

/-- A doorbell fetch with no slot on its way reads the slots of the rings that run. -/
theorem doorbellFetch_idle {h : HostId} {s : State} (hserved : served s h = true) (hen : s.flag (HOST_CTRL.DB_EN h.val) = true)
    (hidle : (s.host h).slots = []) : doorbellFetch h s = readSlots h false (maskList (activeSets s h) 64) s := by
  simp [doorbellFetch, hserved, hen, hidle]

/-- Settles O25: each row comes down to the one function that acts on its part of the host's memory. -/
theorem endpointsServeTheirRings : Obligations.EndpointsServeTheirRings := by
  refine ⟨?events, fun h v s => exec_msixTimeFire_due, fun h s => exec_doorbellPollTimer_due, ?slots, fun h slot s => exec_doorbellReread_due,
    exec_hostWakeHint, fun h s => doorbellFetch_idle⟩
  case events =>
    intro h failed s hserved u
    rw [exec_eventWrite_served hserved]
    exact ⟨fun qs hlost hset => congrArg _ (eventWrite_overflow hlost hset failed),
      fun e hlost hfits => congrArg _ (eventWrite_waiting hlost hfits failed)⟩
  case slots =>
    intro h slot no again page s hreading u
    exact ⟨exec_doorbellSlotRead_whole hreading, exec_doorbellSlotRead_torn hreading⟩

end Sys2Proof.Machine
end

section
/-! Proofs: the rings of an endpoint: how they fetch, start, stop and fail. -/

namespace Sys2Proof.Machine

/-! Transmit descriptors (R95 to R99). -/

/-- The state once the descriptor of a queue set has been fetched in its turn. -/
def txFetched (h : HostId) (qs : Nat) (s : State) : State := (fetchOne h qs 0 s).modHost h (fun x => { x with txqLast := qs })

theorem exec_txqDescriptor (h : HostId) (qs : Nat) (d data : Bytes) (s : State) :
    exec (.txqDescriptor h qs d data) s = execTxqDescriptor h qs d data s := rfl

section descriptor

variable {h : HostId} {qs : Nat} {d data : Bytes} {s : State} (hturn : txqTurn s h qs = true)
include hturn

/-- A bad descriptor completes with `PARAM` (R97). -/
theorem exec_txqDescriptor_bad (hbad : descOk d data = false) :
    exec (.txqDescriptor h qs d data) s = .next (txCompletion h qs d stParam true (reserveEvq h qs (txFetched h qs s))) := by
  simp [exec_txqDescriptor, execTxqDescriptor, hturn, hbad, txFetched]

/-- The frame of a good one is accepted, and completes where the descriptor asks for it (R98). -/
theorem exec_txqDescriptor_good (hok : descOk d data = true) (hrun : s.mem.stopped = false) (hroom : stagingRoom s (hostPort h) (leAt d 8 2) = true) :
    let u := txFetched h qs s
    let ts := bit (byteAt d 10) 1
    let v := accept (txPkt u h d data (if ts then some (h, (u.host h).txNext) else none)) u
    exec (.txqDescriptor h qs d data) s =
      .next (if ts || bit (byteAt d 10) 0 then txCompletion h qs d stOk (!ts) (reserveEvq h qs v) else v) := by
  simp only [exec_txqDescriptor, execTxqDescriptor, hturn, hok, hrun, hroom, txFetched, Bool.not_true, Bool.or_self, Bool.and_false,
    Bool.false_eq_true, if_false]

end descriptor

/-! Commands (R103, R104, R112). -/

/-- The status of a fetched entry, as a chain of conditions. -/
theorem entryStatus_eq (s : State) (c : CmdCtx) (op plen : Nat) (par : Option Bytes) : entryStatus s c op plen par =
    if knownOpcode op = false then some stOpcode else if cmdAllowed s c op = false then some stDenied
    else if 4096 < plen ∨ 65536 < c.rlen then some stParam else if par = none ∧ plen ≠ 0 then some stDma else none := by
  simp [entryStatus]

/-- The command of an entry of a CMDQ. -/
def entryCmd (h : HostId) (qs : Nat) (e : Bytes) (par : Option Bytes) : CmdCtx :=
  { who := .host h qs, tag := leAt e 2 2, rlen := leAt e 8 4, raddr := leAt e 24 8, par := slice (par.getD []) 0 (leAt e 6 2) }

/-- The record of an entry that is fetched. -/
def entryRec (h : HostId) (qs : Nat) (e : Bytes) (par : Option Bytes) (s : State) : CmdRec :=
  { seq := s.bus.fetched, qs := qs, opcode := leAt e 0 2, ctx := entryCmd h qs e par, fence := bit (byteAt e 4) 0,
    bad := entryStatus s (entryCmd h qs e par) (leAt e 0 2) (leAt e 6 2) par }

/-- The state once an entry and its parameters have been read. -/
def entryRead (h : HostId) (qs : Nat) (e : Bytes) (par : Option Bytes) (s : State) : State :=
  hostFetch (entryCmd h qs e par) (leAt e 16 8) (if 4096 < leAt e 6 2 then 0 else leAt e 6 2) (reserveEvq h qs (fetchOne h qs 2 s))

/-- A fetched command joins those of its host, and those at fault whose turn has come complete. -/
theorem exec_cmdqFetch_turn {h : HostId} {qs : Nat} {s : State} (hturn : cmdqTurn s h qs = true) (hrun : triadRun s = true) (e : Bytes)
    (par : Option Bytes) :
    let v := entryRead h qs e par s
    exec (.cmdqFetch h qs e par) s = .next (faultyAll h (({ v with bus := { v.bus with fetched := v.bus.fetched + 1 } }).modHost h
      (fun x => { x with cmds := x.cmds ++ [entryRec h qs e par s] }))) :=
  if_neg (by simp [hturn, hrun])

theorem faultyDone_due {h : HostId} {r : CmdRec} {st : Nat} {s : State} (hdue : faultyDue s h = some (r, st)) (n : Nat) :
    faultyDone h (n + 1) s = faultyDone h n (complete r.ctx r.opcode st [] s) := by
  rw [faultyDone, hdue]

/-- A command at fault whose turn has come makes one due. -/
theorem faultyDue_ne_none {h : HostId} {r : CmdRec} {st : Nat} {s : State} (hmem : r ∈ (s.host h).cmds) (hbad : r.bad = some st)
    (hstarts : starts s r.opcode = true) (hturn : recWaits s h r = false) : faultyDue s h ≠ none := by
  intro hnone
  have hr := List.findSome?_eq_none_iff.mp hnone r hmem
  simp [hbad, hstarts, hturn] at hr

/-! An endpoint's part of the state. -/

/-- What a change of an endpoint makes of it. -/
@[simp] theorem State.host_modHost_same (s : State) (h : HostId) (f : HostSt → HostSt) : (s.modHost h f).host h = f (s.host h) := by
  unfold State.modHost State.setHost State.host
  split <;> rfl

/-- A change of an endpoint leaves everything but that endpoint's part. -/
theorem State.modHost_onlyChanges (s : State) (h : HostId) (f : HostSt → HostSt) :
    OnlyChanges [if h.val = 0 then .hostA else .hostB] s (s.modHost h f) := by
  unfold State.modHost State.setHost
  split
  case isTrue => exact (Touches.hostA (Touches.refl 0x40 s) rfl).onlyChanges (by decide)
  case isFalse => exact (Touches.hostB (Touches.refl 0x80 s) rfl).onlyChanges (by decide)

/-! How rings start, stop and fail (R78, R87, R88, R122). -/

theorem exec_dmaError_ring {h : HostId} {q r : Nat} {s : State} (henabled : (s.ring h q r).state ≠ .disabled) (cause : Nat) :
    exec (.dmaError h (some q) r cause) s = .next (raise 0x0C03 2 (evPay [(16, 1, h.val), (17, 1, q), (18, 1, r), (19, 1, cause)])
      (if (s.ring h q r).state = .error then s else ringError h q r 3 s)) := if_neg henabled

section cfg

variable {qs r v : Nat} (hqs : qs < 64) (hr : r < 4)
include hqs hr

theorem exec_ringEnable_set (hen : bit v 0 = true) (h : HostId) (s : State) : exec (.ringEnable h qs r v) s = .next (ringCfgWrite h qs r v s) :=
  if_pos (by simp [hqs, hr, hen])

theorem exec_ringStop_clear (hen : bit v 0 = false) (h : HostId) (s : State) : exec (.ringStop h qs r v) s = .next (ringCfgWrite h qs r v s) :=
  if_pos (by simp [hqs, hr, hen])

end cfg

theorem exec_ringStoppingDone_drained {h : HostId} {qs r : Nat} {s : State} (hstate : (s.ring h qs r).state = .stopping)
    (hdrained : ringDrained s h qs r = true) :
    exec (.ringStoppingDone h qs r) s = .next (s.modRing h qs r (fun x => { x with state := .disabled })) :=
  if_pos (by simp [hstate, hdrained])

/-- An endpoint whose Bus Master Enable is 0: its rings that ran are stopping. -/
def HostSt.masterOff (x : HostSt) : HostSt :=
  { x with bme := false, rings := x.rings.map (fun e => if e.2.state = .running then (e.1, { e.2 with state := .stopping }) else e) }

theorem exec_busMasterDisable (h : HostId) (s : State) : exec (.busMasterDisable h) s = .next (s.modHost h HostSt.masterOff) := rfl

theorem HostSt.masterOff_rings (x : HostSt) : ∀ e ∈ x.masterOff.rings, e.2.state ≠ .running := by
  intro e he
  obtain ⟨old, -, rfl⟩ := List.mem_map.mp he
  split
  case isTrue => simp
  case isFalse hnot => exact hnot

/-! The link of an endpoint (R642). -/

theorem pcieMode_of {gen lanes : Nat} (hlo : 1 ≤ gen) (hhi : gen ≤ 4) (hlanes : lanes = 1 ∨ lanes = 2 ∨ lanes = 4) : pcieMode gen lanes = true := by
  simp [pcieMode, hlo, hhi, or_assoc, hlanes]

theorem exec_pcieLinkUp_trains {h : HostId} {gen lanes : Nat} {bme : Bool} {s : State} (hs2 : s.pwr.state ≤ 2) (hpor : s.rst.porLow = false)
    (hmode : pcieMode gen lanes = true) :
    let u := s.modHost h (fun x => { x with linkUp := true, speed := gen, width := lanes, bme := bme })
    exec (.pcieLinkUp h gen lanes bme) s = .next (raiseReady (if bme then dmaResume h u else u)) :=
  if_neg (by simp [hs2, hpor, hmode])

/-- Settles O26: a fetch comes down to what its entry is worth, and each other row to the change of the rings that its rule names. -/
theorem ringsFetchStartStopAndFail : Obligations.RingsFetchStartStopAndFail := by
  refine ⟨?descriptor, ?fetch, fun h r st n s => ⟨fun hdue => faultyDone_due hdue n, faultyDue_ne_none⟩,
    fun h q r cause s henabled => exec_dmaError_ring henabled cause, fun h r cause s => rfl,
    fun h qs r v s hqs hr => ⟨fun hen => exec_ringEnable_set hqs hr hen h s, fun hen => exec_ringStop_clear hqs hr hen h s⟩,
    fun h qs r s => exec_ringStoppingDone_drained, ?masterOff, fun h s => ⟨rfl, rfl⟩, ?linkUp⟩
  case descriptor =>
    intro h qs d data s hturn u ts
    exact ⟨exec_txqDescriptor_bad hturn, exec_txqDescriptor_good hturn⟩
  case fetch =>
    intro h qs e par s hturn hrun op plen c bad r u v
    have hbad : bad = entryStatus s c op plen par := (entryStatus_eq s c op plen par).symm
    have hrec : r = entryRec h qs e par s := by
      simp only [r, hbad]
      rfl
    rw [hrec]
    exact exec_cmdqFetch_turn hturn hrun e par
  case masterOff =>
    intro h s
    refine ⟨_, exec_busMasterDisable h s, ?bme, ?rings, s.modHost_onlyChanges h _⟩
    case bme => exact congrArg HostSt.bme (s.host_modHost_same h HostSt.masterOff)
    case rings => exact (s.host_modHost_same h HostSt.masterOff).symm ▸ (s.host h).masterOff_rings
  case linkUp =>
    intro h gen lanes bme s hs2 hpor hlo hhi hlanes u
    exact exec_pcieLinkUp_trains hs2 hpor (pcieMode_of hlo hhi hlanes)

end Sys2Proof.Machine
end

section
/-! Proofs: the messages of the admission protocol that reach a hop, and the timers of a stream. -/

namespace Sys2Proof.Machine

theorem exec_admitTimeout (h : Nat) (s : State) : exec (.admitTimeout h) s = execAdmitTimeout h s := rfl

theorem exec_rsvHoldExpiry (h : Nat) (s : State) : exec (.rsvHoldExpiry h) s = execRsvHoldExpiry h s := rfl

theorem exec_withdrawDrained (h : Nat) (gone : Bool) (s : State) : exec (.withdrawDrained h gone) s = execWithdrawDrained h gone s := rfl

theorem exec_quotaDiscardIntervalEnd (h : Nat) (s : State) : exec (.quotaDiscardIntervalEnd h) s = execQuotaDiscardIntervalEnd h s := rfl

section timers

variable {h : Nat} {x : Stream} {s : State} (hstream : s.stream h = some x)
include hstream

section due

variable (hdue : x.deadline ≤ s.lt)
include hdue

/-! A request that nobody answers (R310, R313, R316). -/

theorem exec_admitTimeout_rerun (hrerun : x.rerun.isSome = true) : exec (.admitTimeout h) s = .next (admGo (rerunRefused h vTimeout true s)) := by
  simp [exec_admitTimeout, execAdmitTimeout, hstream, Nat.not_lt.mpr hdue, hrerun]

theorem exec_admitTimeout_request (hrerun : x.rerun = none) (hphase : x.phase = .requested ∨ x.phase = .asking ∧ x.ingress = true) :
    exec (.admitTimeout h) s = .next (admGo (requestRefused h vTimeout 0xFF 0 0 0 0 0 true s)) := by
  obtain hreq | ⟨hask, hin⟩ := hphase
  · simp [exec_admitTimeout, execAdmitTimeout, hstream, Nat.not_lt.mpr hdue, hrerun, hreq]
  · simp [exec_admitTimeout, execAdmitTimeout, hstream, Nat.not_lt.mpr hdue, hrerun, hask, hin]

/-- A destination forgets a request whose other path never came. -/
theorem exec_admitTimeout_destination (hrerun : x.rerun = none) (hphase : x.phase = .asking) (hin : x.ingress = false) :
    exec (.admitTimeout h) s = .next (freeStream h s) := by
  simp [exec_admitTimeout, execAdmitTimeout, hstream, Nat.not_lt.mpr hdue, hrerun, hphase, hin]

theorem exec_admitTimeout_commit (hrerun : x.rerun = none) (hphase : x.phase = .committing) :
    exec (.admitTimeout h) s = .next (admGo (commitFailed h s)) := by
  simp [exec_admitTimeout, execAdmitTimeout, hstream, Nat.not_lt.mpr hdue, hrerun, hphase]

/-! A Tentative state that lapses (R315). -/

theorem exec_rsvHoldExpiry_tentative (hphase : x.phase = .tentative) :
    exec (.rsvHoldExpiry h) s = .next (admGo ((raise 0x0604 0 (evPay [(16, 2, h)])
      (if x.ingress then reportStream x false false true (freeStream h s) else freeStream h s)).bump ADM_EXPIRED_CNT)) := by
  simp [exec_rsvHoldExpiry, execRsvHoldExpiry, hstream, Nat.not_lt.mpr hdue, hphase]

/-- A committed stream loses the hops that a re-run has left Tentative. -/
theorem exec_rsvHoldExpiry_hops (hphase : x.phase = .committed) (hin : x.ingress = false) (htent : x.hops.any (·.tent) = true) :
    exec (.rsvHoldExpiry h) s = .next ((raise 0x0604 0 (evPay [(16, 2, h)])
      (s.putStream h (tally s { x with hops := x.hops.filter (fun g => !g.tent) }))).bump ADM_EXPIRED_CNT) := by
  simp only [exec_rsvHoldExpiry, execRsvHoldExpiry, hstream, Nat.not_lt.mpr hdue, hphase, hin, htent, reduceCtorEq, decide_true,
    Bool.not_false, Bool.and_self, if_true, if_false]

end due

/-! A withdrawn stream that has drained (R314). -/

theorem exec_withdrawDrained_over {gone : Bool} (hphase : x.phase = .withdrawing) (hin : x.ingress = true)
    (hover : x.deadline ≤ s.lt ∨ gone = true ∧ streamGone s h = true) : exec (.withdrawDrained h gone) s = .next (withdrawDone h s) := by
  simp [exec_withdrawDrained, execWithdrawDrained, hstream, hphase, hin, hover]

/-! The discards of an interval (R121). -/

section quota

variable {t : Nat} (huntil : x.quotaUntil = some t) (hend : t ≤ s.lt)
include huntil hend

theorem exec_quotaDiscardIntervalEnd_none (hcount : x.quotaCount = 0) :
    exec (.quotaDiscardIntervalEnd h) s = .next (s.modStream h (fun y => { y with quotaUntil := none })) := by
  simp [exec_quotaDiscardIntervalEnd, execQuotaDiscardIntervalEnd, hstream, huntil, Nat.not_lt.mpr hend, hcount]

theorem exec_quotaDiscardIntervalEnd_some (hcount : x.quotaCount ≠ 0) :
    exec (.quotaDiscardIntervalEnd h) s = .next (quotaEvent h x.quotaCount s) := by
  simp [exec_quotaDiscardIntervalEnd, execQuotaDiscardIntervalEnd, hstream, huntil, Nat.not_lt.mpr hend, hcount]

end quota

end timers

/-- Settles O40: a message has the effect of its kind, and each timer goes by the phase of its stream. -/
theorem streamsFollowMessagesAndTimers : Obligations.StreamsFollowMessagesAndTimers := by
  refine ⟨?messages, fun h x s hstream => ⟨?timeout, ?hold, fun gone => exec_withdrawDrained_over hstream, ?quota⟩⟩
  case messages =>
    intro p s hon hfabric hup
    have hserved : ¬ (!dfpOn s || !s.fabricPort p.val || !portUp s p.val) = true := by simp [hon, hfabric, hup]
    exact ⟨fun _ _ _ _ _ _ _ _ => if_neg hserved, fun _ _ _ _ _ _ _ _ _ => if_neg hserved, fun _ _ _ _ => if_neg hserved,
      fun _ _ _ _ => if_neg hserved, fun _ _ => if_neg hserved⟩
  case timeout =>
    intro hdue
    exact ⟨exec_admitTimeout_rerun hstream hdue, fun hrerun => ⟨exec_admitTimeout_request hstream hdue hrerun,
      exec_admitTimeout_destination hstream hdue hrerun, exec_admitTimeout_commit hstream hdue hrerun⟩⟩
  case hold =>
    intro tell hdue
    exact ⟨exec_rsvHoldExpiry_tentative hstream hdue, exec_rsvHoldExpiry_hops hstream hdue⟩
  case quota =>
    intro t huntil hend
    exact ⟨exec_quotaDiscardIntervalEnd_none hstream huntil hend, exec_quotaDiscardIntervalEnd_some hstream huntil hend⟩

end Sys2Proof.Machine
end

section
/-! Proofs: a release that is refused, and the release that the debug register asks for. -/

namespace Sys2Proof.Machine

/-! Fields that fill a register, and counters in them. -/

/-- Replacing all 32 bits of a word gives the new value. -/
theorem setBits_word_mod (v x : Nat) : setBits v 31 0 x % 2 ^ 32 = x % 2 ^ 32 := by
  simp only [setBits, bits, Nat.shiftLeft_zero, pow_zero, Nat.div_one]
  omega

/-- A field that is a whole register whose bits are all implemented. -/
structure Fld.Whole (f : Fld) : Prop where
  hi : f.hi = 31
  lo : f.lo = 0
  mask : wordMask f.addr = 2 ^ 32 - 1

theorem Fld.Whole.fld_eq {f : Fld} (hf : f.Whole) (s : State) : s.fld f = s.reg f.addr % 2 ^ 32 := by
  simp [State.fld, bits, hf.hi, hf.lo]

/-- Such a field reads back as it was stored. -/
theorem Fld.Whole.fld_setFld_same {f : Fld} (hf : f.Whole) {s : State} (hwf : Regs.wf s.regs = true) (v : Nat) :
    (s.setFld f v).fld f = v % 2 ^ 32 := by
  rw [hf.fld_eq, State.setFld, reg_setReg_same hwf, hf.mask, hf.hi, hf.lo, Nat.and_two_pow_sub_one_eq_mod, Nat.mod_mod, setBits_word_mod]

/-- A counter in such a field goes up and stays at its greatest value. -/
theorem Fld.Whole.fld_bumpFld {f : Fld} (hf : f.Whole) {s : State} (hwf : Regs.wf s.regs = true) (n : Nat) :
    (s.bumpFld f n).fld f = min (2 ^ 32 - 1) (s.fld f + n) := by
  have hmax : 2 ^ (f.hi + 1 - f.lo) - 1 = 2 ^ 32 - 1 := by rw [hf.hi, hf.lo]
  rw [State.bumpFld, hf.fld_setFld_same hwf, hmax, Nat.mod_eq_of_lt (by omega)]

theorem badFreeCnt_whole : BUF_BAD_FREE_CNT.COUNT.Whole := ⟨rfl, rfl, by decide⟩

/-! A refused release (R150). -/

/-- What a refused release leaves: it is counted and reported. -/
def badFree (b p : Nat) (s : State) : State :=
  raise 0x0101 1 (evPay [(16, 2, b), (18, 1, p)]) (s.bumpFld BUF_BAD_FREE_CNT.COUNT 1)

/-- A free buffer has no owner bit that is 1, so both grounds of R150 come to one. -/
theorem release_refused {b p : Nat} {s : State} (howner : ∀ x : Buf, s.buf b = some x → bit x.owner p = false) (departed : Bool) :
    release b p departed s = badFree b p s := by
  cases hbuf : s.buf b with
  | none => simp only [release, hbuf, badFree]
  | some x => simp only [release, hbuf, howner x hbuf, Bool.false_eq_true, if_false, badFree]

theorem badFree_onlyChanges (b p : Nat) (s : State) : OnlyChanges [.regs, .ctrs, .hostA, .hostB, .flt] s (badFree b p s) :=
  (raise_touches (M := 0x1c6) _ _ _ _ (State.bumpFld_touches s _ 1 (Touches.refl _ s) rfl) rfl).onlyChanges (by decide)

/-- Settles O15: the release comes down to `badFree` (`release_refused`), whose counter fills its register. -/
theorem aReleaseByANonOwnerIsRefused : Obligations.AReleaseByANonOwnerIsRefused := by
  intro b p departed s ⟨hregs, _, _⟩ howner
  have hrefused := release_refused howner departed
  exact ⟨hrefused, badFreeCnt_whole.fld_bumpFld hregs 1, hrefused ▸ badFree_onlyChanges b p s⟩

/-! The debug release (R163). -/

/-- The register's rule as one condition on the lock and the port. -/
theorem dbgRelease_eq (v : Nat) (s : State) : dbgRelease v s =
    if s.dbg.unlocked = true ∧ bits v 22 16 ≤ 75 then release (v % 65536) (bits v 22 16) false s else s := by
  simp only [dbgRelease, Bool.and_eq_true, decide_eq_true_eq]

/-- Settles O16: the row is a row of the register bus, and the grant leaves the debug lock. -/
theorem debugReleaseNeedsUnlockedDebug : Obligations.DebugReleaseNeedsUnlockedDebug := by
  intro src v s hopen
  rw [exec_granted (f := dbgRelease v) hopen rfl, dbgRelease_eq, State.granted_dbg]

end Sys2Proof.Machine
end

section
/-! Proofs: frames and PDUs that arrive: the checks of a port, and how a frame that passes them reaches its partition. -/

namespace Sys2Proof.Machine

/-! A frame of an Ethernet port (R124 to R126, R422). -/

section ether

variable {p : Nat} {frame : Bytes} {err : Bool} {s : State}

theorem exec_ethernetFrameReceived_listens {p : Port} (hlistens : etherListens s p.val = true) (frame : Bytes) (err : Bool) (w : Span) :
    exec (.ethernetFrameReceived p frame err w) s = .next (etherFrame p.val frame err w (seen s)) := if_pos hlistens

theorem etherFrame_badLength (hlen : rxLength (s.fabricPort p) frame < 64 ∨ s.fld (PORT_RX_CFG.MAX_LEN p) < rxLength (s.fabricPort p) frame)
    (w : Span) : etherFrame p frame err w s = s.bump (PORT_RX_LEN_ERR p) := by
  simp [etherFrame, hlen]

section length

variable (hmin : 64 ≤ rxLength (s.fabricPort p) frame) (hmax : rxLength (s.fabricPort p) frame ≤ s.fld (PORT_RX_CFG.MAX_LEN p))
include hmin hmax

theorem etherFrame_badFcs (hbad : err = true ∨ frame.drop (frame.length - 4) ≠ fcsOf (frame.take (frame.length - 4))) (w : Span) :
    etherFrame p frame err w s = s.bump (PORT_RX_CRC_ERR p) := by
  simp [etherFrame, Nat.not_lt.mpr hmin, Nat.not_lt.mpr hmax, hbad]

variable (herr : err = false) (hfcs : frame.drop (frame.length - 4) = fcsOf (frame.take (frame.length - 4)))
include herr hfcs

theorem etherFrame_noRoom (hfull : s.mem.stopped = true ∨ stagingRoom s p (frame.take (frame.length - 4)).length = false) (w : Span) :
    etherFrame p frame err w s = s.bump (PORT_RX_DROP p) := by
  have hdrop : (s.mem.stopped || !stagingRoom s p (frame.take (frame.length - 4)).length) = true := by simpa using hfull
  simp only [etherFrame, Nat.not_lt.mpr hmin, Nat.not_lt.mpr hmax, herr, hfcs, hdrop, decide_false, ne_eq, not_true_eq_false, Bool.or_self,
    Bool.false_eq_true, if_false, if_true]

theorem etherFrame_taken (hrun : s.mem.stopped = false) (hroom : stagingRoom s p (frame.take (frame.length - 4)).length = true) (w : Span) :
    etherFrame p frame err w s = etherTake p (frame.take (frame.length - 4)) w s := by
  simp only [etherFrame, Nat.not_lt.mpr hmin, Nat.not_lt.mpr hmax, herr, hfcs, hrun, hroom, decide_false, ne_eq, not_true_eq_false, Bool.not_true,
    Bool.or_self, Bool.false_eq_true, if_false]

end length

/-- Without MACsec the island lets every frame pass as it is. -/
theorem msecReceive_off (hoff : msecOn s p = false) (bs : Bytes) : msecReceive p bs s = (some (bs, false), s) := by
  simp [msecReceive, hoff]

/-- A frame as a port stages it that applies no MACsec (R123, R243). -/
def plainPkt (p : Nat) (body : Bytes) (w : Span) (s : State) : Pkt :=
  { bytes := body, dfp := s.fabricPort p && decide (etype body 12 = dfpEtype), inPort := p, start := rxStart s p w, arrive := s.endPoint w }

theorem etherTake_plain (hp : p ≠ 75) {body : Bytes} (hoff : msecOn (rxOk p s) p = false) (w : Span) :
    etherTake p body w s = etherStage (plainPkt p body w (rxOk p s)) (rxOk p s) := by
  simp only [etherTake, hp, decide_false, Bool.false_and, Bool.false_eq_true, if_false, msecReceive_off hoff, plainPkt]

theorem etherStage_notUnpacked {x : Pkt} (hnone : unpackEntry s x.tag x.bytes = none) : etherStage x s = stage x s := by
  rw [etherStage, hnone]

end ether

/-! A PDU of a legacy port (R127, R384). -/

section legacy

variable {p : Nat} {u : LegPdu} {w : Span} {s : State}

theorem exec_legacyPduReceived_awake (hs2 : s.pwr.state ≤ 2) (p : Port) (ok : Bool) (u : LegPdu) (w : Span) :
    exec (.legacyPduReceived p ok u w) s = .next (legacyPdu p.val ok u w (seen s)) := if_pos hs2

variable (hleg : isLegacyPort p = true) (hlistens : legacyListens s p = true)
include hleg hlistens

theorem legacyPdu_bad : legacyPdu p false u w s = (canRec p false s).bump (PORT_RX_CRC_ERR p) := by
  simp [legacyPdu, hleg, hlistens]

theorem legacyPdu_stopped (hstopped : (canRec p true s).mem.stopped = true) :
    legacyPdu p true u w s = (canRec p true s).bump (PORT_RX_DROP p) := by
  simp [legacyPdu, hleg, hlistens, hstopped]

/-- The PDU of a good reception as its slice hands it on, with its start point (R243). -/
def stampedPdu (p : Nat) (u : LegPdu) (w : Span) (s : State) : LegPdu := { u with start := rxStart (canRec p true s) p w }

/-- The frame in which it is routed. -/
def routedPkt (p : Nat) (f : Bytes) (u : LegPdu) (w : Span) (s : State) : Pkt :=
  { bytes := f, internal := true, inPort := p, start := u.start, arrive := s.endPoint w }

/-- The state once such a PDU has been offered to the signal mover (R384, R406). -/
def signalled (p : Nat) (u : LegPdu) (w : Span) (s : State) : State := sigWrite p false (stampedPdu p u w s) (canRec p true s)

variable (hrun : (canRec p true s).mem.stopped = false)
include hrun

theorem legacyPdu_unrouted (hroute : rtFrame (signalled p u w s) p false (stampedPdu p u w s) = none) :
    legacyPdu p true u w s = (rxOk p (signalled p u w s)).bump GW_NO_ROUTE := by
  rw [signalled, stampedPdu] at hroute ⊢
  simp [legacyPdu, hleg, hlistens, hrun, hroute]

theorem legacyPdu_routed {f : Bytes} (hroute : rtFrame (signalled p u w s) p false (stampedPdu p u w s) = some f) :
    legacyPdu p true u w s = accept (routedPkt p f (stampedPdu p u w s) w (signalled p u w s)) (signalled p u w s) := by
  rw [signalled, stampedPdu] at hroute
  simp [legacyPdu, hleg, hlistens, hrun, hroute, signalled, stampedPdu, routedPkt]

end legacy

/-- Settles O22: each clause is one branch of the port's checks, on the state in which the frame has been seen. -/
theorem receivedFramesAreCountedAndStaged : Obligations.ReceivedFramesAreCountedAndStaged := by
  refine ⟨?ether, ?legacy⟩
  case ether =>
    intro p frame err w s hlistens u n body
    rw [exec_ethernetFrameReceived_listens hlistens]
    refine ⟨fun hlen => congrArg _ (etherFrame_badLength (s := u) hlen w), fun hmin hmax => ⟨fun hbad => congrArg _ (etherFrame_badFcs (s := u) hmin hmax hbad w),
      fun herr hfcs => ⟨fun hfull => congrArg _ (etherFrame_noRoom (s := u) hmin hmax herr hfcs hfull w), ?staged⟩⟩⟩
    intro hrun hroom hp hoff v x hnone
    refine congrArg _ ?_
    calc etherFrame p.val frame err w u
      _ = etherTake p.val body w u := etherFrame_taken (s := u) hmin hmax herr hfcs hrun hroom w
      _ = etherStage x v := etherTake_plain hp hoff w
      _ = stage x v := etherStage_notUnpacked hnone
  case legacy =>
    intro p u w s hs2 hleg hlistens
    refine ⟨?bad, fun hstopped => ?stopped, fun hrun => ⟨fun hroute => ?unrouted, fun f hroute => ?routed⟩⟩
    case bad => rw [exec_legacyPduReceived_awake hs2, legacyPdu_bad hleg hlistens]
    case stopped => rw [exec_legacyPduReceived_awake hs2, legacyPdu_stopped hleg hlistens hstopped]
    case unrouted => exact (exec_legacyPduReceived_awake hs2 ..).trans (congrArg _ (legacyPdu_unrouted hleg hlistens hrun hroute))
    case routed => exact (exec_legacyPduReceived_awake hs2 ..).trans (congrArg _ (legacyPdu_routed hleg hlistens hrun hroute))

end Sys2Proof.Machine
end

section
/-! Proofs: functions that quiesce and resume, the flip of the carving, and the store of a configuration image. -/

namespace Sys2Proof.Machine

/-! The quiesce of a function (R586 to R590, R610). -/

/-- The state once the copies that follow a function's flip have ended. -/
def copiesEnded (f : Nat) (s : State) : State := if f = 3 then hedgeCopied s else if f = 8 then gwCopyEnd s else s

/-- The state in which the function's own check stands: for the egress function each port takes a run of the engine. -/
def checkState (c : CmdCtx) (s : State) : State :=
  if fnFunc c = 5 then (fnPorts c).foldl (fun w _ => engineRun w) (copiesEnded (fnFunc c) s) else copiesEnded (fnFunc c) s

/-- A quiesce whose function nothing else keeps busy runs; the two rows differ in how the start-up tests of the noise source end. -/
theorem exec_fnQuiesce {c : CmdCtx} {s : State} {f : Bool → State} (hrun : mayRun c 0x0F01 s) (hbusy : fnBusy s (fnFunc c) = false)
    (hquiesce : ∀ pass, fnQuiesce pass c (markStarted c 0x0F01 s) = f pass) (pass : Bool) :
    exec (.fnQuiesceFlip c) s = .next (f true) ∧ exec (.fnQuiesceReset c pass) s = .next (f pass) := by
  have hfree : ¬ (fnParamOk c && fnBusy s (fnFunc c)) = true := by simp [hbusy]
  have hcommand (b : Bool) : fnCommand b c s = .next (f b) := by rw [fnCommand, if_neg hfree, command_run hrun, hquiesce]
  exact ⟨hcommand true, hcommand pass⟩

/-- The egress function flips its ports, and ends with the last one (R284). -/
def egressQuiesce (c : CmdCtx) (s : State) : State :=
  let v := (fnPorts c).foldl (fun w p => fixFlip p 0 none w) s
  { v with fn := { v.fn with flips := v.fn.flips ++ [{ cmd := some c, start := v.lt, ports := fnPorts c }] } }

/-- What a quiesce does that the function's own check allows. -/
def fnStart (pass : Bool) (c : CmdCtx) (s : State) : State :=
  if fnFunc c = 1 then carveStart (some c) s
  else if fnFunc c = 5 then egressQuiesce c s
  else if fnWindow (fnFunc c) then fnDone c (s.freeVal % 1001) (fnAct c pass (stopBegins s.drew))
  else fnDone c 0 (fnAct c pass s)

/-- A quiesce that nothing refuses (R589, R590). -/
theorem fnQuiesce_allowed {c : CmdCtx} {s : State} (hpar : fnParamOk c = true) (hf3 : (copiesEnded (fnFunc c) s).flt.f3 = false)
    (hheld : heldByOther (copiesEnded (fnFunc c) s) c (fnFunc c) (fnTarget c) = false) (hcheck : fnCheck (checkState c s) c = none) (pass : Bool) :
    fnQuiesce pass c s = fnStart pass c (checkState c s) := by
  rw [checkState] at hcheck ⊢
  rw [fnQuiesce, ← copiesEnded]
  simp only [hpar, hf3, hheld, hcheck, Bool.not_true, Bool.false_eq_true, if_false, fnStart, egressQuiesce]

/-! The cases of `fnStart`. -/

section start

variable {c : CmdCtx} (pass : Bool) (s : State)

theorem fnStart_carving (hf : fnFunc c = 1) : fnStart pass c s = carveStart (some c) s := if_pos hf

theorem fnStart_egress (hf : fnFunc c = 5) : fnStart pass c s = egressQuiesce c s := by simp [fnStart, hf]

variable (hcarving : fnFunc c ≠ 1) (hegress : fnFunc c ≠ 5)
include hcarving hegress

theorem fnStart_window (hwindow : fnWindow (fnFunc c) = true) :
    fnStart pass c s = fnDone c (s.freeVal % 1001) (fnAct c pass (stopBegins s.drew)) := by simp [fnStart, hcarving, hegress, hwindow]

theorem fnStart_atOnce (hwindow : fnWindow (fnFunc c) = false) : fnStart pass c s = fnDone c 0 (fnAct c pass s) := by
  simp [fnStart, hcarving, hegress, hwindow]

end start


/-! The flip of the carving (R159). -/

/-- The drain is over: nothing is staged and every buffer is free, or 5 ms have passed. -/
theorem exec_carvingFlipDrained_over {q : Quiesce} {s : State} (hcarve : s.fn.carve = some q)
    (hover : s.mem.staging.all (fun e => e.2.isEmpty) = true ∧ s.mem.bufs.any (fun e => allocated e.2) = false ∨ q.start + 5000000 ≤ s.lt) :
    exec .carvingFlipDrained s = .next (carveNow q s) := by
  change execCarvingFlipDrained s = _
  rw [execCarvingFlipDrained, hcarve]
  exact if_pos (by simpa using hover)

/-! The end of a hold (R591, R601). -/

/-- What `FN_RESUME` names beside its function: the domain or host where there are two, else 0. -/
theorem resumeTarget_ok {f t : Nat} (htwo : f = 4 ∨ f = 11 ∨ f = 12 → t < 2) (hone : f ≠ 4 → f ≠ 11 → f ≠ 12 → t = 0) :
    (if f = 4 || f = 11 || f = 12 then decide (t < 2) else decide (t = 0)) = true := by
  simp only [Bool.or_eq_true, decide_eq_true_eq, or_assoc]
  split
  case isTrue hf => exact decide_eq_true (htwo hf)
  case isFalse hf =>
    simp only [not_or] at hf
    obtain ⟨htime, htransom, hhost⟩ := hf
    exact decide_eq_true (hone htime htransom hhost)

/-- The state without a hold. -/
def State.unheld (k : Nat × Nat) (s : State) : State :=
  { s with fn := { s.fn with holds := s.fn.holds.filter (fun e => (e.1, e.2.1) ≠ k) } }

theorem exec_fnResume_ok {c : CmdCtx} {s : State} (hrun : mayRun c 0x0F02 s) (hlen : plenIs c 8 = true) (hzero : parZero c 1 3 = true)
    (hrest : parZero c 4 8 = true) (hknown : fnKnown (fnFunc c) = true)
    (htwo : fnFunc c = 4 ∨ fnFunc c = 11 ∨ fnFunc c = 12 → fnTarget c < 2)
    (hone : fnFunc c ≠ 4 → fnFunc c ≠ 11 → fnFunc c ≠ 12 → fnTarget c = 0)
    (hheld : heldByOther (markStarted c 0x0F02 s) c (fnFunc c) (fnTarget c) = false) :
    exec (.fnResume c) s = .next (complete c 0x0F02 stOk [] ((markStarted c 0x0F02 s).unheld (holdKey (fnFunc c) (fnTarget c)))) := by
  change execFnResume c s = _
  rw [execFnResume, command_run hrun]
  simp only [hlen, hzero, hrest, hknown, resumeTarget_ok htwo hone, hheld, Bool.and_self, Bool.not_true, Bool.false_eq_true, if_false, State.unheld]

/-! The store of a configuration image (R595 to R597). -/

/-- The state once the image that a host stores has been read. -/
def imageFetched (c : CmdCtx) (s : State) : State := hostFetch c (leAt c.par 0 8) (leAt c.par 8 4) s

/-- The image waits for its verification, and the command is accepted. -/
theorem exec_cfgStore_accepted {c : CmdCtx} {image : Bytes} {s : State} (hrun : mayRun c 0x0F04 s) (hidle : s.flash.store = none)
    (hlen : plenIs c 16 = true) (hzero : parZero c 12 16 = true) (hbrace : (markStarted c 0x0F04 s).brace = false) :
    let v := imageFetched c (markStarted c 0x0F04 s)
    exec (.cfgStore c (some image)) s = .next (complete c 0x0F04 stAccepted []
      { v with flash := { v.flash with store := some (c, image.take (leAt c.par 8 4)) } }) := by
  simp [exec, execCfgStore, hidle, command_run hrun, hlen, hzero, hbrace, imageFetched]

/-- The state once the waiting image has been judged: only a good one replaces the stored image. -/
def imageStored (img : Bytes) (r : Nat) (s : State) : State :=
  { s with flash := { s.flash with store := none, image := if r = 0 then img else s.flash.image } }

theorem exec_cfgStoreDone_judged {c : CmdCtx} {img : Bytes} {s : State} (hstore : s.flash.store = some (c, img)) (htriad : triadRun s = true)
    (hengine : engineHeld s = false) (flashErr : Bool) :
    exec (.cfgStoreDone flashErr) s = .next (raise 0x0F09 0 (evPay [(16, 1, storeResult s img flashErr), (20, 4, leAt img 8 4)])
      (imageStored img (storeResult s img flashErr) s)) := by
  simp [exec, execCfgStoreDone, hstore, htriad, hengine, imageStored]

/-- Settles O58: a quiesce that nothing refuses comes down to the case of its function in `fnStart`, and each other row to what it leaves once its
condition holds. -/
theorem functionsQuiesceAndResumeAndImagesAreStored : Obligations.FunctionsQuiesceAndResumeAndImagesAreStored := by
  refine ⟨?quiesce, fun q s => exec_carvingFlipDrained_over, fun c s => exec_fnResume_ok, fun c image s => exec_cfgStore_accepted,
    fun c img flashErr s hstore htriad hengine => exec_cfgStoreDone_judged hstore htriad hengine flashErr⟩
  intro c pass s f m k u hrun hpar hbusy hf3 hheld hcheck
  have hstart (b : Bool) : fnQuiesce b c m = fnStart b c u := fnQuiesce_allowed hpar hf3 hheld hcheck b
  have hrows {g : Bool → State} (hcase : ∀ b, fnStart b c u = g b) := exec_fnQuiesce hrun hbusy (fun b => (hstart b).trans (hcase b)) pass
  exact ⟨fun hf => hrows (fnStart_carving · u hf), fun hf => hrows (fnStart_egress · u hf),
    fun hcarving hegress hwindow => hrows (fnStart_window · u hcarving hegress hwindow),
    fun hcarving hegress hwindow => hrows (fnStart_atOnce · u hcarving hegress hwindow)⟩

end Sys2Proof.Machine
end

section
/-! Proofs: what the engines of the forwarding tables do by themselves. -/

namespace Sys2Proof.Machine

/-! The learn engine (R177). -/

/-- A request at the front of the queue leaves it and is served. -/
theorem serveLearn_cons {q : Nat} {r : LearnReq} {l : List LearnReq} {s : State} (hqueue : (s.tab q).queue = r :: l) :
    serveLearn q s = learn q r (s.modTab q (fun t => { t with queue := l })) := by
  rw [serveLearn, hqueue]

theorem exec_learnRequest (q : Quad) (s : State) : exec (.learnRequest q) s = .next (serveLearn q.val s) := rfl

/-! The two ends of a rehash (R184). -/

/-- The target bank with the pinned entries alone, and how many of them found no room. -/
def pinsCopied (seed : Nat) (t : QTab) : Keyed L2Entry × Nat := copyInto seed ((t.serve.filter (fun e => e.2.pin)).map (·.2)) [] 0

/-- The tables of a quadrant once the opening stop has moved its pinned entries. -/
def QTab.opened (seed : Nat) (t : QTab) : QTab :=
  { t with rehash := .copy seed, target := (pinsCopied seed t).1, serve := t.serve.filter (fun e => !e.2.pin) }

/-- The entries that still stood in the serving bank, copied behind those of the target bank. -/
def restCopied (seed : Nat) (t : QTab) : Keyed L2Entry × Nat := copyInto seed (t.serve.map (·.2)) t.target 0

/-- The tables of a quadrant once the target bank serves, in the next generation. -/
def QTab.swapped (t : QTab) : QTab := { t with serve := t.target, target := [], rehash := .idle, gen := (t.gen + 1) % 16 }

theorem exec_rehashCheckDone (q : Quad) (s : State) : exec (.rehashCheckDone q) s = execRehashCheckDone q s := rfl

theorem exec_rehashCopyDone (q : Quad) (s : State) : exec (.rehashCopyDone q) s = execRehashCopyDone q s := rfl

section check

variable {q : Quad} {seed : Nat} {s : State} (hcheck : (s.tab q.val).rehash = .check seed)
include hcheck

/-- Where the pinned entries have room, the opening stop moves them and installs the seed. -/
theorem exec_rehashCheckDone_opens (hfits : rehashFits seed (s.tab q.val).serve = true) (hfree : stopFree s = true) :
    exec (.rehashCheckDone q) s = .next ((((stopBegins s).setTab q.val ((s.tab q.val).opened seed)).setReg (QD_L2_SEED_NEXT q.val) seed).setCtr
      (QD_REHASH_REMOVED q.val) (min ctrMax (pinsCopied seed (s.tab q.val)).2)) := by
  rw [exec_rehashCheckDone, execRehashCheckDone, hcheck]
  exact (if_neg (by simp [hfits])).trans (if_neg (by simp [hfree]))

/-- Where they have none, the rehash ends with status 1. -/
theorem exec_rehashCheckDone_fails (hfull : rehashFits seed (s.tab q.val).serve = false) :
    exec (.rehashCheckDone q) s = .next (rehashDone q.val 1 0 (s.setTab q.val { s.tab q.val with rehash := .idle })) := by
  rw [exec_rehashCheckDone, execRehashCheckDone, hcheck]
  exact if_pos (by simp [hfull])

end check

/-- The closing stop copies the last entries, serves the learn queue and swaps the banks. -/
theorem exec_rehashCopyDone_swaps {q : Quad} {seed : Nat} {s : State} (hcopy : (s.tab q.val).rehash = .copy seed) (hfree : stopFree s = true) :
    let w := stopBegins s
    let x := restCopied seed (w.tab q.val)
    let u := drainLearn q.val (w.setTab q.val { w.tab q.val with target := x.1, serve := [] })
    exec (.rehashCopyDone q) s = .next (rehashDone q.val (if x.2 = 0 then 0 else 2) x.2
      (((u.setTab q.val (u.tab q.val).swapped).setReg (QD_L2_SEED q.val) seed).bumpBy (QD_REHASH_REMOVED q.val) x.2)) := by
  rw [exec_rehashCopyDone, execRehashCopyDone, hcopy]
  exact if_neg (by simp [hfree])

/-! The rake (R180). -/

/-- The tables of a quadrant with the rake at its next group, due `step` later. -/
def QTab.raked (step : Nat) (t : QTab) : QTab := { t with rakeNext := (t.rakeNext + 1) % 8256, rakeDue := t.rakeDue + step }

/-- The time between two visits of a quadrant's rake. -/
def rakeStep (s : State) (q : Nat) : Nat := s.fld (QD_RAKE_CFG.PERIOD q) * sec / 8256

section rake

variable {q : Quad} {s : State} (hs0 : s.pwr.state = 0) (hage : s.flag (QD_L2_CTRL.AGE_EN q.val) = true) (hidle : (s.tab q.val).rehash = .idle)
include hs0 hage hidle

theorem rakeRuns_of_idle : rakeRuns s q.val (s.tab q.val) = true := by simp [rakeRuns, hs0, hage, hidle]

variable (hdue : (s.tab q.val).rakeDue ≤ (s.tab q.val).rakeRan)
include hdue

/-- A visit that is due, by whether the group's version changed between its read and its commit. -/
theorem exec_rakeVisit_due (changed : Bool) :
    let t := s.tab q.val
    let b := rakeGroup t.rakeNext t.serve
    exec (.rakeVisit q changed) s =
      if changed then .next ((s.setTab q.val (t.raked (rakeStep s q.val))).bump (QD_RAKE_ABORT q.val))
      else .next ((s.setTab q.val { t.raked (rakeStep s q.val) with serve := b }).bumpBy (QD_RAKE_REMOVED q.val) (t.serve.length - b.length)) :=
  if_neg (by simp [rakeRuns_of_idle hs0 hage hidle, hdue])

end rake

/-! The interval of station moves (R179). -/

/-- A bank whose stations count their moves from 0. -/
def movesCleared (b : Keyed L2Entry) : Keyed L2Entry := b.map (fun e => (e.1, { e.2 with moves := 0 }))

theorem exec_moveIntervalEnd_over {q : Quad} {s : State} (hover : (s.tab q.val).moveEnd ≤ s.lt) :
    let t := s.tab q.val
    exec (.moveIntervalEnd q) s = .next (s.setTab q.val
      { t with serve := movesCleared t.serve, target := movesCleared t.target, moveEnd := (s.lt / sec + 1) * sec }) :=
  if_neg (Nat.not_lt.mpr hover)

/-- Settles O33: each engine's row is the branch of its condition. -/
theorem tableEnginesWorkByThemselves : Obligations.TableEnginesWorkByThemselves := by
  refine ⟨?learn, ?check, fun q seed s => exec_rehashCopyDone_swaps, ?rake, fun q s => exec_moveIntervalEnd_over⟩
  case learn =>
    intro q r l s hqueue
    rw [exec_learnRequest, serveLearn_cons hqueue]
  case check =>
    intro q seed s t hcheck
    exact ⟨exec_rehashCheckDone_opens hcheck, exec_rehashCheckDone_fails hcheck⟩
  case rake =>
    intro q s hs0 hage hidle hdue t n
    exact ⟨exec_rakeVisit_due hs0 hage hidle hdue true, exec_rakeVisit_due hs0 hage hidle hdue false⟩

end Sys2Proof.Machine
end

section
/-! Proofs: the table commands, on operands and a state that none of their checks refuses. -/

namespace Sys2Proof.Machine

/-- The state once the learn queues of a command's quadrants have been served (R177). -/
def learnServed (c : CmdCtx) (s : State) : State := (tblQuads c).foldl (fun v q => drainLearn q v) s

/-! What a walk from the first position answers (R188). -/

/-- The entries that a walk from the first position meets. -/
def walkAll (c : CmdCtx) (t : QTab) : List (Nat × Bytes) := (tblEntries t (tblTable c)).filter (fun e => cursorPos 0 ≤ e.1)

/-- The entries that one reply has room for. -/
def walkRoom (c : CmdCtx) : Nat := min 256 ((c.rlen - 8) / 24)

/-- The cursor at which the next walk goes on. -/
def walkNext (c : CmdCtx) (t : QTab) : Nat :=
  match ((walkAll c t).take (walkRoom c)).getLast?, (walkAll c t).drop (walkRoom c) with
  | some l, _ :: _ => posCursor (tblTable c) t.gen (l.1 + 1)
  | _, _ => 0xFFFFFFFF

/-- The reply of a walk from the first position. -/
def walkReply (c : CmdCtx) (t : QTab) : Bytes :=
  let now := (walkAll c t).take (walkRoom c)
  toLe 4 now.length ++ toLe 4 (walkNext c t) ++ now.flatMap (·.2)

/-! What the flush of a port leaves (R187, R190). -/

/-- The entries that the flush a command asks for leaves. -/
def flushKeeps (c : CmdCtx) (e : Nat × L2Entry) : Bool :=
  !flushes (byteAt c.par 8) (byteAt c.par 9) (bit (byteAt c.par 10) 0) (bit (byteAt c.par 10) 1) e.2

/-- The state once the named quadrants have been flushed. -/
def flushed (c : CmdCtx) (s : State) : State :=
  (tblQuads c).foldl (fun v q => v.modTab q (fun t => { t with serve := t.serve.filter (flushKeeps c), target := t.target.filter (flushKeeps c) })) s

/-- The entries of a quadrant, in both banks. -/
def l2Size (s : State) (q : Nat) : Nat := (s.tab q).serve.length + (s.tab q).target.length

section command

variable {c : CmdCtx} {s : State}

/-! The two commands that write an entry share one body. -/

theorem exec_tblInsert (hrun : mayRun c 0x0203 s) :
    exec (.tblInsert c) s = .next (tblInsert c 0x0203 false (markStarted c 0x0203 s)) := congrArg _ (command_run hrun _)

theorem exec_tblPin (hrun : mayRun c 0x0207 s) :
    exec (.tblPin c) s = .next (tblInsert c 0x0207 true (markStarted c 0x0207 s)) := congrArg _ (command_run hrun _)

variable (hok : tblHeaderOk c = true)
include hok

/-! Search and walk of one quadrant (R187 to R189). -/

theorem exec_tblSearch_one {q : Nat} (hrun : mayRun c 0x0201 s) (hquad : tblQuads c = [q]) :
    let u := drainLearn q (markStarted c 0x0201 s)
    exec (.tblSearch c) s = .next (complete c 0x0201 stOk (tblSearchReply (u.tab q) (tblTable c) (tblWord c)) u) := by
  change execTblSearch c s = _
  rw [execTblSearch, command_run hrun]
  simp only [hquad]
  exact congrArg _ (if_neg (by simp [hok]))

/-- A walk from cursor 0 needs no generation; only a rehash holds it off. -/
theorem exec_tblNext_first {q : Nat} (hrun : mayRun c 0x0202 s) (hquad : tblQuads c = [q]) (hroom : 32 ≤ c.rlen) (hzero : parZero c 12 24 = true)
    (hcur : leAt c.par 8 4 = 0) (hidle : rehashing ((drainLearn q (markStarted c 0x0202 s)).tab q) = false) :
    let u := drainLearn q (markStarted c 0x0202 s)
    exec (.tblNext c) s = .next (complete c 0x0202 stOk (walkReply c (u.tab q)) u) := by
  change execTblNext c s = _
  rw [execTblNext, command_run hrun]
  simp only [hquad, hcur]
  exact congrArg _ ((if_neg (by simp [hok, hroom, hzero])).trans (if_neg (by simp [hidle])))

/-! Insert, pin and delete (R181, R182, R187, R189). -/

/-- Neither command may touch what a stream owns. -/
theorem tblInsert_written {op : Nat} {pin : Bool} (hreserved : tblWord c &&& entryReserved (tblTable c) = 0)
    (hfields : entryFieldsOk (tblTable c) (tblWord c) = true) (hsid : tblTable c ≠ 1) (hroute : tblTable c ≠ 2) (hpin : pin = true → tblTable c = 0)
    (howned : tblTable c = 0 → touchesOwned (learnServed c s) (tblQuads c) (tblWord c) = false) :
    let r := tblWriteAll (tblTable c) (tblWord c) pin (tblQuads c) (learnServed c s)
    tblInsert c op pin s = complete c op (if r.2.2 = 0 then stOk else stState) [byte r.2.1, byte r.2.2, 0, 0] r.1 := by
  have hparam : ¬ (!tblHeaderOk c || (pin && tblTable c ≠ 0) || tblWord c &&& entryReserved (tblTable c) ≠ 0 ||
      !entryFieldsOk (tblTable c) (tblWord c)) = true := by simpa [hok, hreserved, hfields] using hpin
  have htable : ¬ (tblTable c = 1 || tblTable c = 2) = true := by simp [hsid, hroute]
  have hfree : ¬ (tblTable c = 0 && touchesOwned (learnServed c s) (tblQuads c) (tblWord c)) = true := by simpa using howned
  exact (if_neg hparam).trans ((if_neg htable).trans (if_neg hfree))

/-- A deletion from the FID or group table, which no stream owns an entry of. -/
theorem exec_tblDelete_removed (hrun : mayRun c 0x0204 s) (htable : 3 ≤ tblTable c) :
    let r := tblRemoveAll (tblTable c) (tblWord c) (tblQuads c) (learnServed c (markStarted c 0x0204 s))
    exec (.tblDelete c) s = .next (complete c 0x0204 stOk [byte r.2, 0, 0, 0] r.1) := by
  have hl2 : tblTable c ≠ 0 := by omega
  have hsid : tblTable c ≠ 1 := by omega
  have hroute : tblTable c ≠ 2 := by omega
  change execTblDelete c s = _
  rw [execTblDelete, command_run hrun]
  exact congrArg _ ((if_neg (by simp [hok])).trans ((if_neg (by simp [hsid, hroute])).trans (if_neg (by simp [hl2]))))

/-! The flush of a port (R187, R190). -/

theorem exec_tblFlushPort_flushed (hrun : mayRun c 0x0205 s) (htable : tblTable c = 0) (hport : byteAt c.par 8 ≤ 75) (hflags : byteAt c.par 10 < 4)
    (hzero : parZero c 11 24 = true) :
    let u := learnServed c (markStarted c 0x0205 s)
    exec (.tblFlushPort c) s =
      .next (complete c 0x0205 stOk ((List.range 4).flatMap (fun q => toLe 4 (l2Size u q - l2Size (flushed c u) q))) (flushed c u)) := by
  change execTblFlushPort c s = _
  rw [execTblFlushPort, command_run hrun]
  exact congrArg _ (if_neg (by simp [hok, htable, hport, hflags, hzero]))

/-! The start of a rehash (R69, R184). -/

theorem exec_tblRehash_accepted (hrun : mayRun c 0x0206 s) (hzero : parZero c 12 24 = true)
    (hfree : (tblQuads c).any (rehashBlocked (markStarted c 0x0206 s)) = false)
    (hidle : (tblQuads c).any (fun q => rehashing ((markStarted c 0x0206 s).tab q)) = false) :
    exec (.tblRehash c) s = .next (complete c 0x0206 stAccepted []
      ((tblQuads c).foldl (fun v q => rehashStart (leAt c.par 8 4) q v) (markStarted c 0x0206 s))) := by
  change execTblRehash c s = _
  rw [execTblRehash, command_run hrun, tblRehash]
  exact congrArg _ ((if_neg (by simp [hok, hzero])).trans ((if_neg (by simp [hfree])).trans (if_neg (by simp [hidle]))))

end command

/-- Settles O32: each command starts, passes its checks and comes down to the one operation on its quadrants. -/
theorem tableCommandsActOnTheirQuadrants : Obligations.TableCommandsActOnTheirQuadrants := by
  intro c s hok
  refine ⟨fun q => exec_tblSearch_one hok, fun q => exec_tblNext_first hok, ?write, exec_tblDelete_removed hok, exec_tblFlushPort_flushed hok,
    exec_tblRehash_accepted hok⟩
  case write =>
    intro hreserved hfields hsid hroute
    refine ⟨?insert, ?pin⟩
    case insert =>
      intro hrun u howned
      exact (exec_tblInsert hrun).trans (congrArg _ (tblInsert_written hok hreserved hfields hsid hroute (by simp) howned))
    case pin =>
      intro hrun htable u howned
      rw [exec_tblPin hrun, tblInsert_written hok hreserved hfields hsid hroute (fun _ => htable) (fun _ => howned), htable]
      rfl

end Sys2Proof.Machine
end

section
/-! Proofs: the commands of the hedge, on operands and a state that none of their checks refuses, and the sweeper of the pinholes. -/

namespace Sys2Proof.Machine

/-- The state in which a hedge command acts: the copies under way when it arrives have ended (R219). -/
def hedgeStarted (c : CmdCtx) (op : Nat) (s : State) : State := hedgeCopied (markStarted c op s)

/-- A hedge command of a sender that may run runs its body once the copies have ended. -/
theorem hedgeCommand_run {c : CmdCtx} {op : Nat} {s : State} (hrun : mayRun c op s) (body : State → State) :
    hedgeCommand c op s body = .next (body (hedgeStarted c op s)) := congrArg _ (command_run hrun _)

/-! The stage (R216, R217). -/

/-- A quadrant once the k-th staged entry stands in its shadow set; the errors that the entry answers wait for the flip. -/
def hsPut (c : CmdCtx) (h : HQuad) (k : Nat) : HQuad :=
  { h with shadow := hsWrite (hsItem c) (hsFirst c + k) (hsEntry c k) h.shadow,
           restaged := h.errs.filter (hsAnswers (hsItem c) (hsFirst c + k)) ++ h.restaged }

/-- The state once every staged entry stands in the shadow sets of the named quadrants. -/
def hedgeStaged (c : CmdCtx) (s : State) : State :=
  (maskList (hsQmask c) 4).foldl
    (fun v q => (v.modHq q (fun h => (List.range (hsCount c)).foldl (hsPut c) h)).setFld (QD_HEDGE_STATUS.DIRTY q) 1) s

theorem exec_hedgeStage_accepted {c : CmdCtx} {s : State} (hrun : mayRun c 0x0301 s) (hok : hsOk c = true) :
    exec (.hedgeStage c) s = .next (complete c 0x0301 stOk [] (hedgeStaged c (hedgeStarted c 0x0301 s))) := by
  change execHedgeStage c s = _
  rw [execHedgeStage, hedgeCommand_run hrun]
  exact congrArg _ (if_neg (by simp [hok]))

/-! The flip (R218, R219) and the end of the copy that follows it. -/

/-- The reply of an accepted flip: the mask, no fault, and the generation of the first named quadrant. -/
def flipReply (m : Nat) (s : State) : Bytes :=
  [byte m, 0xFF, 0xFF, 0xFF] ++ toLe 2 (s.fld (QD_HEDGE_STATUS.ACT_GEN (nth (maskList m 4) 0))) ++ zeros 2

/-- A flip whose operands are valid and whose shadow sets show no fault opens a stop window and swaps the sets. -/
theorem hedgeFlip_accepted {pairs : State → Nat → List (Nat × Nat)} {c : CmdCtx} {s : State} (hlen : plenIs c 8 = true) (hsome : byteAt c.par 0 ≠ 0)
    (hmask : byteAt c.par 0 < 16) (hflags : byteAt c.par 1 < 4) (hzero : parZero c 2 8 = true)
    (hfault : flipFault pairs (maskList (byteAt c.par 0) 4) s = none) :
    let v := hedgeFlipDo (maskList (byteAt c.par 0) 4) (bit (byteAt c.par 1) 0) (bit (byteAt c.par 1) 1) (stopBegins s)
    hedgeFlip pairs c s = complete c 0x0302 stOk (flipReply (byteAt c.par 0) v) v := by
  have hparam : ¬ (!plenIs c 8 || byteAt c.par 0 = 0 || 16 ≤ byteAt c.par 0 || 4 ≤ byteAt c.par 1 || !parZero c 2 8) = true := by
    simp [hlen, hsome, hmask, hflags, hzero]
  refine (if_neg hparam).trans ?_
  rw [hfault]
  rfl

/-- The row waits until a stop window may start. -/
theorem exec_hedgeFlip_run {c : CmdCtx} {s : State} (hrun : mayRun c 0x0302 s) (hstop : stopFree s = true) :
    exec (.hedgeFlip c) s = .next (hedgeFlip hedgePairs c (hedgeStarted c 0x0302 s)) := by
  change execHedgeFlip c s = _
  rw [execHedgeFlip, if_neg (by simp [hstop]), hedgeCommand_run hrun]

theorem exec_hedgeShadowCopyDone_copying {q : Quad} {s : State} (hcopying : s.flag (QD_HEDGE_STATUS.COPYING q.val) = true) :
    exec (.hedgeShadowCopyDone q) s = .next (((s.modHq q.val (fun h => { h with shadow := h.active })).setFld
      (QD_HEDGE_STATUS.COPYING q.val) 0).setFld (QD_HEDGE_STATUS.DIRTY q.val) 0) := congrArg _ (if_pos hcopying)

/-! Reading (R220). -/

/-- The entries that a read asks for, out of the set that its operand names. -/
def hedgeReadReply (c : CmdCtx) (h : HQuad) : Bytes :=
  ((List.range (hsCount c)).map (· + hsFirst c)).flatMap (setEntry (if byteAt c.par 6 = 1 then h.shadow else h.active) (hsItem c))

/-- Every item that a set holds has a limit. -/
theorem hrLimit_of_setItem {item : Nat} (hitem : item ≤ 5) : ∃ n, hrLimit item = some n := by
  interval_cases item <;> exact ⟨_, rfl⟩

theorem exec_hedgeRead_set {c : CmdCtx} {s : State} {q : Nat} (hrun : mayRun c 0x0303 s) (hquad : maskList (hsQmask c) 4 = [q]) (hitem : hsItem c ≤ 5)
    (hlen : plenIs c 16 = true) (hmask : hsQmask c < 16) (hset : byteAt c.par 6 < 2) (hzero : parZero c 7 16 = true)
    (hlimit : ∀ n, hrLimit (hsItem c) = some n → hsFirst c + hsCount c ≤ n) (hmost : hsCount c ≤ hsMax (hsItem c)) :
    let u := hedgeStarted c 0x0303 s
    exec (.hedgeRead c) s = .next (complete c 0x0303 stOk (hedgeReadReply c (u.hq q)) u) := by
  obtain ⟨n, hn⟩ := hrLimit_of_setItem hitem
  have hfits : hsFirst c + hsCount c ≤ n := hlimit n hn
  change execHedgeRead c s = _
  rw [execHedgeRead, hedgeCommand_run hrun]
  simp only [hquad, hn, hitem, if_true]
  exact congrArg _ (if_neg (by simp [hlen, hmask, hset, hzero, hfits, hmost]))

/-! The pinholes (R221). -/

/-- What `HEDGE_PINHOLE` does on operands that pass the checks common to its operations. -/
def phOp (c : CmdCtx) (s : State) : State :=
  if byteAt c.par 0 = 0 then phList c s
  else if byteAt c.par 0 = 1 then phClose c s
  else if byteAt c.par 0 = 2 then phCloseAll c s
  else phOpen c s

section pinhole

variable {c : CmdCtx} {s : State}

theorem hedgePinhole_checked (hop : byteAt c.par 0 ≤ 3) (hlen : plenIs c (if byteAt c.par 0 = 3 then 64 else 16) = true)
    (hlow : parZero c 1 2 = true) (hhigh : parZero c 6 16 = true) : hedgePinhole c s = phOp c s :=
  if_neg (by simp [hop, hlen, hlow, hhigh])

/-- The four rows of the command share one body. -/
theorem hedgeCommand_pinhole (hrun : mayRun c 0x0304 s) (hop : byteAt c.par 0 ≤ 3)
    (hlen : plenIs c (if byteAt c.par 0 = 3 then 64 else 16) = true) (hlow : parZero c 1 2 = true) (hhigh : parZero c 6 16 = true) :
    hedgeCommand c 0x0304 s (hedgePinhole c) = .next (phOp c (hedgeStarted c 0x0304 s)) := by
  rw [hedgeCommand_run hrun, hedgePinhole_checked hop hlen hlow hhigh]

theorem phOp_list (hop : byteAt c.par 0 = 0) : phOp c s = phList c s := by simp [phOp, hop]

theorem phOp_close (hop : byteAt c.par 0 = 1) : phOp c s = phClose c s := by simp [phOp, hop]

theorem phOp_closeAll (hop : byteAt c.par 0 = 2) : phOp c s = phCloseAll c s := by simp [phOp, hop]

theorem phOp_open (hop : byteAt c.par 0 = 3) : phOp c s = phOpen c s := by simp [phOp, hop]

/-- The pinhole that an input entry asks for, put where there is room. -/
def phOpenEntry (e : Bytes) (s : State) : State × Option Nat := phInsert (phKeyOf e) (byteAt e 3 / 16) 4 0xFFFF (leAt e 6 2) s

theorem phOpen_opened {i : Nat} (hok : phInputOk (slice c.par 16 48) = true) (hroom : (phOpenEntry (slice c.par 16 48) s).2 = some i) :
    phOpen c s = complete c 0x0304 stOk (toLe 4 i) (phOpenEntry (slice c.par 16 48) s).1 := by
  have hinsert : phOpenEntry (slice c.par 16 48) s = ((phOpenEntry (slice c.par 16 48) s).1, some i) := Prod.ext rfl hroom
  refine (if_neg (by simp [hok])).trans ?_
  rw [← phOpenEntry, hinsert]

end pinhole

/-! The sweeper (R214). -/

/-- What the sweeper leaves of an entry. -/
def swept (hit : List Nat) (e : Nat × Pinhole) : Option (Nat × Pinhole) :=
  if hit.contains e.1 then some e else if e.2.remain ≤ 1 then none else some (e.1, { e.2 with remain := e.2.remain - 1 })

theorem exec_pinholeSweep_due {hit : List Nat} {s : State} (hdue : s.hedge.sweepDue ≤ s.lt) :
    let holes := s.hedge.holes.filterMap (swept hit)
    exec (.pinholeSweep hit) s = .next ({ s with hedge := { s.hedge with holes := holes, sweepDue := s.hedge.sweepDue + 100000000 } }.bumpBy
      (QD_PH_EXPIRED 0) (s.hedge.holes.length - holes.length)) := if_neg (Nat.not_lt.mpr hdue)

/-- Settles O34: each command acts once the copies have ended (`hedgeCommand_run`) and passes its checks; the copy's end and the sweeper are the branch
of their condition. -/
theorem hedgeCommandsActOnTheirQuadrants : Obligations.HedgeCommandsActOnTheirQuadrants := by
  refine ⟨?commands, fun q s => exec_hedgeShadowCopyDone_copying, fun hit s => exec_pinholeSweep_due⟩
  intro c s u
  refine ⟨exec_hedgeStage_accepted, ?flip, fun q => exec_hedgeRead_set, ?pinholes⟩
  case flip =>
    intro m f hrun hlen hsome hmask hflags hzero hfault hstop
    exact (exec_hedgeFlip_run hrun hstop).trans (congrArg _ (hedgeFlip_accepted hlen hsome hmask hflags hzero hfault))
  case pinholes =>
    intro hrun hlen hlow hhigh
    have hrow {t : State} (hop : byteAt c.par 0 ≤ 3) (hphOp : phOp c (u 0x0304) = t) :
        hedgeCommand c 0x0304 s (hedgePinhole c) = .next t :=
      (hedgeCommand_pinhole hrun hop hlen hlow hhigh).trans (congrArg _ hphOp)
    refine ⟨?list, ?close, ?closeAll, ?opens⟩
    case list =>
      intro hop
      exact hrow (by omega) (phOp_list hop)
    case close =>
      intro hop
      exact hrow (by omega) (phOp_close hop)
    case closeAll =>
      intro hop
      exact hrow (by omega) (phOp_closeAll hop)
    case opens =>
      intro i e r hop hok hroom
      exact hrow (by omega) ((phOp_open hop).trans (phOpen_opened hok hroom))

end Sys2Proof.Machine
end

section
/-! Proofs: the commands that change a timescale, the tick at which they act, and the pulses of the output pins. -/

namespace Sys2Proof.Machine

@[simp] theorem State.setDom_lt (s : State) (d : Nat) (x : DomSt) : (s.setDom d x).lt = s.lt := by
  unfold State.setDom
  split <;> rfl

/-! Steps, rates and programmes on operands and a state that none of their checks refuses (R235, R236, R241, R252 to R254). -/

section command

variable {c : CmdCtx} {s : State}

/-- A step that waits for its effect tick: `STEP_ARMED` is spent and `SET` reads 1 from the start on (log entry 11). -/
def stepPending (c : CmdCtx) (s : State) : State :=
  let d := byteAt c.par 0
  pendTime { dom := d, start := s.lt, cmd := c, change := .step (byteAt c.par 1) (leAt c.par 8 6 * sec + leAt c.par 4 4) }
    (s.setDom d { s.dom d with stepArmed := false, set := true })

theorem exec_timeStep_accepted (hrun : mayRun c 0x0401 s) (hparam : timeStepParamOk (markStarted c 0x0401 s) c = true)
    (hservo : servoOk (markStarted c 0x0401 s) c (byteAt c.par 0) = true) (harmed : ((markStarted c 0x0401 s).dom (byteAt c.par 0)).stepArmed = true) :
    exec (.timeStep c) s = .next (stepPending c (markStarted c 0x0401 s)) := by
  refine congrArg _ ((command_run hrun _).trans ?_)
  exact (if_neg (by simp [hparam])).trans (if_neg (by simp [hservo, harmed]))

/-- A rate that waits for its effect tick, with the adjustment that it asks for. -/
def ratePending (c : CmdCtx) (s : State) : State :=
  let adj := if byteAt c.par 1 = 1 then some (toSigned 32 (leAt c.par 8 4), leAt c.par 12 4) else none
  pendTime { dom := byteAt c.par 0, start := s.lt, cmd := c, change := .rate (toSigned 32 (leAt c.par 4 4)) adj } s

theorem exec_timeRate_accepted (hrun : mayRun c 0x0402 s) (hparam : timeRateParamOk c = true)
    (hservo : servoOk (markStarted c 0x0402 s) c (byteAt c.par 0) = true) :
    exec (.timeRate c) s = .next (ratePending c (markStarted c 0x0402 s)) := by
  refine congrArg _ ((command_run hrun _).trans ?_)
  exact (if_neg (by simp [hparam])).trans (if_neg (by simp [hservo]))

/-- The programme that the operands describe, at its first edge that is far enough ahead of the scale (R253). -/
def armedProg (c : CmdCtx) (s : State) : PulseProg :=
  let start := leAt c.par 8 6 * sec + leAt c.par 4 4
  let period := leAt c.par 16 4
  { periodic := decide (byteAt c.par 1 = 2), dom := byteAt c.par 2, start := start, period := period, width := leAt c.par 20 4,
    count := leAt c.par 24 4, k := if byteAt c.par 1 = 2 then firstK start period (s.scale (byteAt c.par 2)) else 0 }

/-- A programme takes the place of the pin's; `MODE` 0, and a programme with no edge left, leave the pin without one. -/
def pulseArmed (c : CmdCtx) (s : State) : State :=
  s.setOutPin (byteAt c.par 0)
    { s.outPin (byteAt c.par 0) with prog := if byteAt c.par 1 = 0 || progDone (armedProg c s) then none else some (armedProg c s) }

theorem exec_timePulseArm_accepted (hrun : mayRun c 0x0403 s) (hparam : pulseParamOk c = true)
    (hahead : byteAt c.par 1 = 1 → (markStarted c 0x0403 s).scale (byteAt c.par 2) + 1000 ≤ leAt c.par 8 6 * sec + leAt c.par 4 4) :
    exec (.timePulseArm c) s = .next (complete c 0x0403 stOk [] (pulseArmed c (markStarted c 0x0403 s))) := by
  refine congrArg _ ((command_run hrun _).trans ?_)
  exact (if_neg (by simp [hparam])).trans (if_neg (by simpa using hahead))

end command

/-! The effect tick (R237) and the end of an adjustment (R241). -/

theorem exec_timeEffectTick_step {d : Fin 2} {p : TimePend} {s : State} {m n : Nat} (hdue : duePend s d.val = some p) (hstep : p.change = .step m n) :
    exec (.timeEffectTick d) s = .next (gateOverruns d.val (timeEffect d.val s)) := by
  change execTimeEffectTick d s = _
  simp only [execTimeEffectTick, hdue, hstep]

theorem exec_timeEffectTick_rate {d : Fin 2} {p : TimePend} {s : State} {r : Int} {adj : Option (Int × Nat)} (hdue : duePend s d.val = some p)
    (hrate : p.change = .rate r adj) : exec (.timeEffectTick d) s = .next (timeEffect d.val s) := by
  change execTimeEffectTick d s = _
  simp only [execTimeEffectTick, hdue, hrate]

/-- The domain once its adjustment has run out. -/
def adjEnded (d : Nat) (s : State) : State := s.setDom d { closeStretch s.lt (s.dom d) with adj := none }

/-- An adjustment that has run out ends; its event is left out where a reset had cut it short. -/
theorem exec_timeAdjEnd_due {d : Fin 2} {a : AdjSt} {s : State} (hadj : (s.dom d.val).adj = some a) (hend : a.endLt ≤ s.lt) :
    exec (.timeAdjEnd d) s = if a.cut then .next (adjEnded d.val s) else
      .next (raise 0x0403 0 (evPay [(16, 1, d.val), (20, 8, ofSigned 64 (adjPhase a (s.dom d.val).rate))]) (adjEnded d.val s)) := by
  change execTimeAdjEnd d s = _
  simp only [execTimeAdjEnd, hadj]
  exact if_neg (Nat.not_lt.mpr hend)

/-! Pulses (R252, R254). -/

section pulse

variable {pin : Fin 4} {s : State}

/-- A leading edge that is due starts a pulse, unless the pin is still at the active level of an earlier one. -/
theorem exec_pulseLeadingEdge_due {g : PulseProg} (hprog : (s.outPin pin.val).prog = some g) (hrunning : s.time.running = true)
    (hmore : progDone g = false) (hdue : nextEdge g ≤ s.scale g.dom) :
    let next : Option PulseProg := some { g with k := g.k + 1 }
    exec (.pulseLeadingEdge pin) s = if (s.outPin pin.val).active then .next (s.setOutPin pin.val { s.outPin pin.val with prog := next }) else
      .next ((s.setOutPin pin.val { prog := next, active := true, trail := some (g.dom, nextEdge g + g.width) }).emit
        (.pulse pin.val (timeOutLevel s pin.val true))) := by
  change execPulseLeadingEdge pin s = _
  simp only [execPulseLeadingEdge, hprog]
  exact if_neg (by simp [hrunning, hmore, hdue])

theorem exec_pulseTrailingEdge_due {d t : Nat} (htrail : (s.outPin pin.val).trail = some (d, t)) (hrunning : s.time.running = true)
    (hdue : t ≤ s.scale d) :
    let rest := (s.outPin pin.val).prog.bind (fun g => if progDone g then none else some g)
    exec (.pulseTrailingEdge pin) s = .next ((s.setOutPin pin.val { prog := rest, active := false, trail := none }).emit
      (.pulse pin.val (timeOutLevel s pin.val false))) := by
  change execPulseTrailingEdge pin s = _
  simp only [execPulseTrailingEdge, htrail]
  exact if_neg (by simp [hrunning, hdue])

end pulse

/-- Settles O35: an accepted command is left pending or armed, and each other row is the branch of its condition. -/
theorem timescalesChangeAndPulsesLeave : Obligations.TimescalesChangeAndPulsesLeave := by
  refine ⟨fun c s => ⟨?step, exec_timeRate_accepted, exec_timePulseArm_accepted⟩, ?effect, ?adjustment, ?leading,
    fun pin d t s => exec_pulseTrailingEdge_due⟩
  case step =>
    intro u hrun hparam hservo harmed
    simpa [stepPending, pendTime] using exec_timeStep_accepted hrun hparam hservo harmed
  case effect =>
    intro d p s hdue
    exact ⟨fun m n => exec_timeEffectTick_step hdue, fun r adj => exec_timeEffectTick_rate hdue⟩
  case adjustment =>
    intro d a s hadj hend
    exact ⟨fun hcut => (exec_timeAdjEnd_due hadj hend).trans (if_neg (by simp [hcut])),
      fun hcut => (exec_timeAdjEnd_due hadj hend).trans (if_pos hcut)⟩
  case leading =>
    intro pin g s hprog hrunning hmore hdue
    have hrow := exec_pulseLeadingEdge_due hprog hrunning hmore hdue
    exact ⟨fun hidle => hrow.trans (if_neg (by simp [hidle])), fun hactive => hrow.trans (if_pos hactive)⟩

end Sys2Proof.Machine
end

section
/-! Proofs: the captures of the input pins, and the events that tell them. -/

namespace Sys2Proof.Machine

/-! An edge on a pin (R256, R257). -/

section edge

variable {pin : Fin 4} {falling late : Bool} {held : Nat} {s : State}

/-- A level shorter than the filter time is no edge. -/
theorem exec_timeInCapture_glitch (hshort : held < filterTime s pin.val) : exec (.timeInCapture pin falling late held) s = .next s :=
  if_pos (by simp [hshort])

/-- What is latched for an edge: the scale that the pin chooses, when the new level began. -/
def edgeCapture (n : Nat) (falling late : Bool) (s : State) : Capture :=
  let d := s.fld (TIME_IN_CFG.DOM n)
  { dom := d, time := stampOn (s.latched (s.lt + b2n late - filterTime s n)) d, falling := falling }

/-- The pin keeps a capture: as its last, and where it tells its events also in its queue, or as lost where the queue is full. -/
def keepCapture (n : Nat) (c : Capture) (s : State) : State :=
  let p := s.inPin n
  if s.flag (TIME_IN_CFG.EV_EN n) = false then s.setInPin n { p with last := some c }
  else if p.queue.length < 8 then s.setInPin n { p with last := some c, queue := p.queue ++ [c] }
  else (s.setInPin n { p with last := some c, lost := p.lost + 1 }).setFld (TIME_IN_STATUS.OVF n) 1

/-- A chosen edge whose level outlasts the filter time is captured. -/
theorem exec_timeInCapture_edge (hrunning : s.time.running = true) (hchosen : edgeChosen (s.fld (TIME_IN_CFG.EDGE pin.val)) falling = true)
    (hlong : filterTime s pin.val ≤ held) :
    exec (.timeInCapture pin falling late held) s = .next (keepCapture pin.val (edgeCapture pin.val falling late s) s) := by
  refine (if_neg (by simp [hrunning, hchosen, hlong])).trans ?_
  simp only [keepCapture, apply_ite Host.Outcome.next, Bool.not_eq_true']
  rfl

end edge

section capture

variable {n : Nat} {c : Capture} {s : State}

theorem keepCapture_silent (hsilent : s.flag (TIME_IN_CFG.EV_EN n) = false) :
    keepCapture n c s = s.setInPin n { s.inPin n with last := some c } := if_pos hsilent

theorem keepCapture_queued (htells : s.flag (TIME_IN_CFG.EV_EN n) = true) (hroom : (s.inPin n).queue.length < 8) :
    keepCapture n c s = s.setInPin n { s.inPin n with last := some c, queue := (s.inPin n).queue ++ [c] } :=
  (if_neg (by simp [htells])).trans (if_pos hroom)

theorem keepCapture_lost (htells : s.flag (TIME_IN_CFG.EV_EN n) = true) (hfull : 8 ≤ (s.inPin n).queue.length) :
    keepCapture n c s = (s.setInPin n { s.inPin n with last := some c, lost := (s.inPin n).lost + 1 }).setFld (TIME_IN_STATUS.OVF n) 1 :=
  (if_neg (by simp [htells])).trans (if_neg (Nat.not_lt.mpr hfull))

end capture

/-! The next event of a pin (R257). -/

theorem exec_timeCaptureEvent_lost {pin : Fin 4} {s : State} (hlost : (s.inPin pin.val).lost ≠ 0) :
    exec (.timeCaptureEvent pin) s = .next (raise 0x0404 0 (evPay [(16, 1, pin.val), (20, 4, (s.inPin pin.val).lost)])
      (s.setInPin pin.val { s.inPin pin.val with lost := 0 })) := if_pos hlost

theorem exec_timeCaptureEvent_oldest {pin : Fin 4} {s : State} {c : Capture} {rest : List Capture} (hnone : (s.inPin pin.val).lost = 0)
    (hqueue : (s.inPin pin.val).queue = c :: rest) :
    exec (.timeCaptureEvent pin) s = .next (raiseAt 0x0401 0
      (evPay [(16, 1, pin.val), (17, 1, c.dom + 4 * b2n c.falling), (18, 2, secOf c.time / 2 ^ 32)]) c.time
      (s.setInPin pin.val { s.inPin pin.val with queue := rest })) := by
  refine (if_neg (not_not.mpr hnone)).trans ?_
  simp only [hqueue]

/-- Settles O36: an edge that is no glitch comes down to `keepCapture`, whose three cases the pin's settings and queue tell apart. -/
theorem capturesWaitForTheirEvents : Obligations.CapturesWaitForTheirEvents := by
  refine ⟨?edges, fun pin s => ⟨exec_timeCaptureEvent_lost, fun c rest => exec_timeCaptureEvent_oldest⟩⟩
  intro pin falling late held s n hrunning hchosen
  refine ⟨exec_timeInCapture_glitch, fun hlong => ?_⟩
  have hrow : exec (.timeInCapture pin falling late held) s = .next (keepCapture n (edgeCapture n falling late s) s) :=
    exec_timeInCapture_edge hrunning hchosen hlong
  exact ⟨fun hsilent => hrow.trans (congrArg _ (keepCapture_silent hsilent)),
    fun htells hroom => hrow.trans (congrArg _ (keepCapture_queued htells hroom)),
    fun htells hfull => hrow.trans (congrArg _ (keepCapture_lost htells hfull))⟩

end Sys2Proof.Machine
end

section
/-! Proofs: the debug port, the links of Ethernet ports, and firmware's gPTP timers. -/

namespace Sys2Proof.Machine

/-! The debug port (R633 to R638). -/

/-- The code acts or is refused; the outputs at the load are log entry 75. -/
theorem exec_jtagInstructionLoad (code : Fin 256) (s : State) :
    let a := jtagActs s code.val
    let refused := decide (code.val = 0x00 ∨ code.val = 0x03 ∨ code.val = 0x04) && decide (a = 0xFF)
    let u := s.modDbg (fun d => { d with instr := a, refused := d.refused || refused })
    exec (.jtagInstructionLoad code) s = .next (if a = 0x02 then u.emit (.jtag a (toLe 4 idcode))
      else if a = 0x10 then u.emit (.jtag a (toLe 4 (dbgStatus u))) else u) := by
  change execJtagInstructionLoad code s = _
  simp only [execJtagInstructionLoad, Bool.decide_or, Bool.or_assoc, Bool.decide_eq_true]

theorem exec_tapReset (s : State) : exec .tapReset s = .next (s.modDbg (fun d => { d with instr := 0x02 })) := rfl

section challenge

variable {s : State}

theorem exec_dbgChallengeRead_new (hinstr : s.dbg.instr = 0x11) (hidle : s.dbg.verifying = none) :
    exec .dbgChallengeRead s = .next
      (((s.drewN 16).modDbg (fun d => { d with challenge := some (newChallenge s, s.lt + 60 * sec) })).emit (.jtag 0x11 (newChallenge s))) :=
  if_neg (by simp [hinstr, hidle])

theorem exec_dbgResponseLoad_taken {r : Bytes} (hinstr : s.dbg.instr = 0x12) (hstrap : dbgDis s = false) (hidle : s.dbg.verifying = none) :
    exec (.dbgResponseLoad r) s = .next (s.modDbg (fun d => { d with verifying := some (slice r 0 97), attempts := d.attempts + 1 })) :=
  if_neg (by simp [hinstr, hstrap, hidle])

/-- The end of a verification unlocks the port, or consumes the challenge and counts the failure (R636, R637). -/
theorem exec_dbgVerifyDone_verified {r : Bytes} (hon : s.pwr.state = 0) (hverifying : s.dbg.verifying = some r) :
    let u := s.modDbg (fun d => { d with verifying := none })
    exec .dbgVerifyDone s = .next (if dbgCorrect s r then dbgUnlock ((s.dbg.challenge.map (·.1)).getD []) u
      else u.modDbg (fun d => { d with challenge := none, fails := min 3 (d.fails + 1), lockedOut := d.lockedOut || decide (2 ≤ d.fails) })) := by
  refine (if_neg (not_not.mpr hon)).trans ?_
  simp only [hverifying]
  exact (apply_ite Host.Outcome.next _ _ _).symm

theorem exec_dbgChallengeExpiry_due {ch : Bytes} {t : Nat} (hchallenge : s.dbg.challenge = some (ch, t)) (hdue : t ≤ s.lt)
    (hidle : s.dbg.verifying = none) : exec .dbgChallengeExpiry s = .next (s.modDbg (fun d => { d with challenge := none })) := by
  change execDbgChallengeExpiry s = _
  simp only [execDbgChallengeExpiry, hchallenge]
  exact if_pos (by simp [hdue, hidle])

end challenge

/-! Links (R244, R286, R524, R604, R649). -/

/-- A link may train: it comes up at a rate of its port; a rate that the port kind does not have is the model's one fault (log entry 102). -/
theorem exec_ethernetLinkUp_trains {p : Port} {s : State} (heth : isEthPort p.val = true) (hkind : ¬ (32 ≤ p.val ∧ p.val ≤ 39))
    (htrain : mayTrain s p.val = true) (rate : Nat) (eee : Bool) :
    exec (.ethernetLinkUp p rate eee) s = if rateOfPort p.val rate then .next (linkUp p.val rate eee s) else .fault .illFormed :=
  if_neg (by simpa [heth, htrain] using hkind)

theorem exec_ethernetLinkDown_up {p : Port} {s : State} (hup : khas s.links p.val = true) (hfabric : s.fabricPort p.val = false) :
    exec (.ethernetLinkDown p) s = .next (linkDown p.val s) := if_pos (by simp [hup, hfabric])

/-! Timers of gPTP (R248). -/

theorem exec_gptpTimerExpiry_served {d : Fin 2} {kind : Fin 4} {send : List (Port × Bytes)} {lock : Bool} {s : State} (hon : s.pwr.state = 0)
    (htriad : triadRun s = true) (hf3 : s.flt.f3 = false) (hservo : s.flag (TIME_DOM_CFG.SERVO d.val) = true) :
    let on (p : Nat) : Bool := gptpPort s d.val p || (kind.val = 1 && gptpPort s (1 - d.val) p)
    let u := send.foldl (fun v e => if on e.1.val then svSend e.1.val e.2 v else v) s
    exec (.gptpTimerExpiry d kind send lock) s = .next (if kind.val = 3 then u.setDom d.val { u.dom d.val with locked := lock } else u) :=
  if_neg (by simp [hon, htriad, hf3, hservo])

/-- Settles O59: each row of the debug port and of gPTP is the branch of its conditions, and a link that may train goes by its rate. -/
theorem debugPortAndLinksAct : Obligations.DebugPortAndLinksAct := by
  refine ⟨exec_jtagInstructionLoad, exec_tapReset, fun s => exec_dbgChallengeRead_new, fun r s => exec_dbgResponseLoad_taken,
    fun r s => exec_dbgVerifyDone_verified, fun ch t s => exec_dbgChallengeExpiry_due, ?linkUp, fun p s => exec_ethernetLinkDown_up,
    fun d kind send lock s => exec_gptpTimerExpiry_served⟩
  intro p rate eee s heth hkind htrain
  have hrow := exec_ethernetLinkUp_trains heth hkind htrain rate eee
  exact ⟨fun hrate => hrow.trans (if_pos hrate), fun hrate => hrow.trans (if_neg (by simp [hrate]))⟩

end Sys2Proof.Machine
end

section
/-! Proofs: the commands that stage, flip and read the schedule of a port, the flip and the copy after it, the gates, and preemption's verification. -/

namespace Sys2Proof.Machine

/-! A command of group 0x05 waits for a pending flip of its port; a flip does not (R281, R283). -/

/-- The state with one more command that waits for the copy of its port's schedule to end. -/
def shutterQueued (op : Nat) (c : CmdCtx) (s : State) : State := { s with egr := { s.egr with waiting := s.egr.waiting ++ [(op, c)] } }

section start

variable {re : Recheck} {waiting : State → Nat → Nat → Bool} {c : CmdCtx} {s : State}

theorem shutterStart_pending {op : Nat} (hflip : op ≠ 0x0502) (hpending : flipPending (s.eport (shPort c)) = true) :
    shutterStart re waiting op c s = shutterQueued op c s := if_pos (by simp [hflip, hpending])

theorem shutterStart_stage (hfree : flipPending (s.eport (shPort c)) = false) : shutterStart re waiting 0x0501 c s = shutterStage c s := by
  simp [shutterStart, hfree]

theorem shutterStart_flip : shutterStart re waiting 0x0502 c s = shutterFlip re c s := by simp [shutterStart]

theorem shutterStart_read (hfree : flipPending (s.eport (shPort c)) = false) : shutterStart re waiting 0x0503 c s = shutterRead waiting c s := by
  simp [shutterStart, hfree]

end start

/-! The three commands on operands that none of their checks refuses (R278 to R281, R285). -/

section command

variable {c : CmdCtx} {s : State}

theorem exec_shutterStage (hrun : mayRun c 0x0501 s) :
    exec (.shutterStage c) s = .next (shutterStart recheck waits 0x0501 c (markStarted c 0x0501 s)) := congrArg _ (command_run hrun _)

theorem exec_shutterFlip (hrun : mayRun c 0x0502 s) :
    exec (.shutterFlip c) s = .next (shutterFlip recheck c (markStarted c 0x0502 s)) :=
  congrArg _ ((command_run hrun _).trans shutterStart_flip)

theorem exec_shutterRead (hrun : mayRun c 0x0503 s) :
    exec (.shutterRead c) s = .next (shutterStart recheck waits 0x0503 c (markStarted c 0x0503 s)) := congrArg _ (command_run hrun _)

/-- A set once the k-th staged entry stands in it. -/
def shPut (c : CmdCtx) (x : ESet) (k : Nat) : ESet := shWrite (shItem c) (shFirst c + k) (shEntry c k) x

/-- The state once every staged entry stands in the shadow set of the named port. -/
def shutterStaged (c : CmdCtx) (s : State) : State :=
  s.modEport (shPort c) (fun e => { e with shadow := (List.range (shCount c)).foldl (shPut c) e.shadow })

theorem shutterStage_accepted (hok : shOk s c = true) : shutterStage c s = complete c 0x0501 stOk [] (shutterStaged c s) := if_neg (by simp [hok])

/-- The operands of a flip: its port, and the time at which it shall take place at the earliest. -/
def flipPort (c : CmdCtx) : Nat := byteAt c.par 0
def flipChange (c : CmdCtx) : Nat := leAt c.par 8 6 * sec + leAt c.par 4 4

/-- The operands of a flip are valid: a port, reserved bytes 0, and a time at most 10 s ahead (R280). -/
structure FlipOperandsOk (c : CmdCtx) (s : State) : Prop where
  len : plenIs c 16 = true
  port : flipPort c ≤ 75
  low : parZero c 1 4 = true
  high : parZero c 14 16 = true
  near : flipChange c ≤ s.scale (flipDom (s.eport (flipPort c))) + 10 * sec

/-- What a flip on valid operands comes to: refused while another is pending, else as the re-check says (R281). -/
def flipDecided (re : Recheck) (c : CmdCtx) (s : State) : State :=
  let refused (h : Nat) : Bytes := zeros 14 ++ toLe 2 h
  if flipPending (s.eport (flipPort c)) then complete c 0x0502 stState (refused 0xFFFF) s
  else match re s (flipPort c) (s.eport (flipPort c)).shadow with
    | some h => complete c 0x0502 stState (refused h) (engineRun s)
    | none => fixFlip (flipPort c) (flipChange c) (some c) (engineRun s)

theorem shutterFlip_checked {re : Recheck} (hok : FlipOperandsOk c s) : shutterFlip re c s = flipDecided re c s := by
  obtain ⟨hlen, hport, hlow, hhigh, hnear⟩ := hok
  rw [flipPort] at hport
  rw [flipPort, flipChange] at hnear
  exact if_neg (by simp [hlen, hport, hlow, hhigh, hnear])

section decided

variable {re : Recheck}

theorem flipDecided_pending (hpending : flipPending (s.eport (flipPort c)) = true) :
    flipDecided re c s = complete c 0x0502 stState (zeros 14 ++ toLe 2 0xFFFF) s := if_pos hpending

variable (hfree : flipPending (s.eport (flipPort c)) = false)
include hfree

theorem flipDecided_fixed (hpass : re s (flipPort c) (s.eport (flipPort c)).shadow = none) :
    flipDecided re c s = fixFlip (flipPort c) (flipChange c) (some c) (engineRun s) := by
  simp only [flipDecided, hfree, hpass, Bool.false_eq_true, if_false]

theorem flipDecided_blamed {h : Nat} (hfail : re s (flipPort c) (s.eport (flipPort c)).shadow = some h) :
    flipDecided re c s = complete c 0x0502 stState (zeros 14 ++ toLe 2 h) (engineRun s) := by
  simp only [flipDecided, hfree, hfail, Bool.false_eq_true, if_false]

end decided

/-- The indices that a read asks for, and the set that it names. -/
def shIndices (c : CmdCtx) : List Nat := (List.range (shCount c)).map (· + shFirst c)
def shSet (c : CmdCtx) (s : State) : ESet := if byteAt c.par 6 = 1 then (s.eport (shPort c)).shadow else (s.eport (shPort c)).active

section read

variable {waiting : State → Nat → Nat → Bool} (hlen : plenIs c 16 = true) (hport : shPort c ≤ 75) (hset : byteAt c.par 6 < 2)
  (hzero : parZero c 7 16 = true)
include hlen hport hset hzero

/-- Item 3 is the live state of the shapers, one for each of the eight classes. -/
theorem shutterRead_shapers (hitem : shItem c = 3) (hfits : shFirst c + shCount c ≤ 8) :
    shutterRead waiting c s =
      complete c 0x0503 stOk ((shIndices c).flatMap (fun i => shaperBytes s (shPort c) i (waiting s (shPort c) i))) s := by
  have hmost : shCount c ≤ 8 := by omega
  simp [shutterRead, shIndices, hitem, hlen, hport, hset, hzero, hfits, hmost]

/-- The items below 3 are those that staging writes. -/
theorem shutterRead_entries (hitem : shItem c < 3) (hfits : shFirst c + shCount c ≤ shLimit (shItem c)) (hmost : shCount c ≤ shMax (shItem c)) :
    shutterRead waiting c s =
      complete c 0x0503 stOk ((shIndices c).flatMap (fun i => shBytes (shSet c s) (shPort c) (shItem c) i)) s := by
  have hlive : shItem c ≠ 3 := by omega
  have hknown : shItem c ≤ 3 := by omega
  simp [shutterRead, shIndices, shSet, hlive, hknown, hlen, hport, hset, hzero, hfits, hmost]

end read

end command

/-! The flip and the end of the copy that follows it (R283). -/

theorem exec_shutterFlipTime_due {p : Port} {s : State} (hdue : flipDue s p.val = true) :
    exec (.shutterFlipTime p) s = .next (fnFlipped p.val (preemptLost (preemptActive s p.val) p.val (flipNow p.val waits s))) := if_pos hdue

/-- The state as the copy of a port's schedule ends: both sets are equal, and nothing waits any more. -/
def shutterCopied (p : Nat) (s : State) : State :=
  let u := s.modEport p (fun e => { e with shadow := e.active, copying := false })
  { u with egr := { u.egr with waiting := [] } }

/-- The commands that waited start in the order in which they came. -/
theorem exec_shutterShadowCopyDone_copying {p : Port} {s : State} (hcopying : (s.eport p.val).copying = true) :
    exec (.shutterShadowCopyDone p) s =
      .next (s.egr.waiting.foldl (fun v x => shutterStart recheck waits x.1 x.2 v) (shutterCopied p.val s)) := congrArg _ (if_pos hcopying)

/-! The gates (R273, R289, R300) and the end of a verification (R286, R287, R290). -/

/-- The state as the entry in force takes force on a port: where it changes the gates, the shapers count up to now by the old ones. -/
def gatesTaken (p : Nat) (s : State) : State :=
  (if gatesNow s p = (s.eport p).gates then s else settlePort p s).modEport p (takeEntry s)

theorem exec_gateEntryChange_runs {p : Port} {s : State} (hruns : s.pwr.state < 3) :
    exec (.gateEntryChange p) s = .next (parkEnter p.val (portEmpty (gatesTaken p.val s) p.val) (gatesTaken p.val s)) :=
  if_neg (Nat.not_le.mpr hruns)

theorem exec_preemptVerifyResult_running {p : Port} {s : State} (hverifying : (s.eport p.val).verify = 1) (ok : Bool) :
    exec (.preemptVerifyResult p ok) s = if ok then .next (s.modEport p.val (fun e => { e with verify := 2 }))
      else .next (tellPreempt p.val (s.modEport p.val (fun e => { e with verify := 3 }))) := if_neg (not_not.mpr hverifying)

/-- Settles O37: a command of the group waits or acts by `shutterStart`, where its checks pass, and each other row is the branch of its condition. -/
theorem schedulesAreStagedFlippedAndFollowed : Obligations.SchedulesAreStagedFlippedAndFollowed := by
  refine ⟨fun c s => ⟨?stage, ?flip, ?read⟩, fun p s => exec_shutterFlipTime_due, fun p s => exec_shutterShadowCopyDone_copying,
    fun p s => exec_gateEntryChange_runs, ?verified⟩
  case stage =>
    intro u put hrun
    have hrow := exec_shutterStage hrun
    exact ⟨fun hfree hok => hrow.trans (congrArg _ ((shutterStart_stage hfree).trans (shutterStage_accepted hok))),
      fun hpending => hrow.trans (congrArg _ (shutterStart_pending (by decide) hpending))⟩
  case flip =>
    intro u p change hrun hlen hport hlow hhigh hnear
    have hrow : exec (.shutterFlip c) s = .next (flipDecided recheck c u) :=
      (exec_shutterFlip hrun).trans (congrArg _ (shutterFlip_checked ⟨hlen, hport, hlow, hhigh, hnear⟩))
    exact ⟨fun hfree hpass => hrow.trans (congrArg _ (flipDecided_fixed hfree hpass)),
      fun h hfree hfail => hrow.trans (congrArg _ (flipDecided_blamed hfree hfail)),
      fun hpending => hrow.trans (congrArg _ (flipDecided_pending hpending))⟩
  case read =>
    intro u p x is hrun
    have hrow := exec_shutterRead hrun
    refine ⟨fun hfree hlen hport hset hzero => ?reads, fun hpending => hrow.trans (congrArg _ (shutterStart_pending (by decide) hpending))⟩
    case reads =>
      have hread := hrow.trans (congrArg _ (shutterStart_read hfree))
      exact ⟨fun hitem hfits => hread.trans (congrArg _ (shutterRead_shapers hlen hport hset hzero hitem hfits)),
        fun hitem hfits hmost => hread.trans (congrArg _ (shutterRead_entries hlen hport hset hzero hitem hfits hmost))⟩
  case verified =>
    intro p s hverifying
    exact ⟨exec_preemptVerifyResult_running hverifying true, exec_preemptVerifyResult_running hverifying false⟩

end Sys2Proof.Machine
end

section
/-! Proofs: pauses of a neighbour and own ones, the energy bucket, lanes that park, the histograms and the temperature sensors. -/

namespace Sys2Proof.Machine

/-! Pauses that a neighbour asks for (R294). -/

/-- The state once a PFC frame has paused and released the classes that it names; its three upper priorities are only counted. -/
def pausesTaken (p enable : Nat) (quanta : List Nat) (s : State) : State :=
  ((maskList enable 5).foldl (fun u c => pauseClass p c (nth quanta c % 65536) u) (s.bump (EGR_PAUSE_RCVD p))).bumpBy (EGR_PAUSE_IGNORED p)
    (((List.range 3).filter (fun i => bit enable (i + 5))).length)

theorem exec_pfcReceived_heard {p : Port} (hpfc : pfcPort p.val = true) (enable : Nat) (quanta : List Nat) (s : State) :
    exec (.pfcReceived p enable quanta) s = .next (pausesTaken p.val enable quanta s) := if_neg (by simp [hpfc])

/-- A port whose neighbour no longer pauses a class. -/
def EPort.unpaused (c : Nat) (e : EPort) : EPort :=
  { e with paused := kdel e.paused c, pausedAt := kdel e.pausedAt c, stuck := e.stuck.filter (· ≠ c) }

theorem exec_pfcPauseExpiry_due {p : Port} {c : Fin 5} {t : Nat} {s : State} (hpaused : kget (s.eport p.val).paused c.val = some t)
    (hdue : t ≤ s.lt) : exec (.pfcPauseExpiry p c) s = .next (s.modEport p.val (EPort.unpaused c.val)) := by
  change execPfcPauseExpiry p c s = _
  simp only [execPfcPauseExpiry, hpaused]
  exact if_pos hdue

/-- The state once a stuck pause has been told: `drop` says whether the queue is to be dropped. -/
def pauseTold (p c : Nat) (drop : Bool) (s : State) : State :=
  raise 0x0503 0 (evPay [(16, 1, p), (17, 1, c), (18, 1, b2n drop)]) (s.modEport p (fun e => { e with stuck := c :: e.stuck }))

/-- A class that is stuck is told once a pause; where the watchdog drops, its queue empties and further pauses have no effect. -/
theorem exec_pfcPauseStuck_stuck {p : Port} {c : Fin 5} {t : Nat} {s : State} (hsince : kget (s.eport p.val).pausedAt c.val = some t)
    (hlong : t + 100000000 ≤ s.lt) (hpaused : isPaused s p.val c.val = true) (hnew : (s.eport p.val).stuck.contains c.val = false) :
    let drop := s.flag (EGR_PORT_CTRL.PFC_WD_DROP p.val)
    let u := pauseTold p.val c.val drop s
    exec (.pfcPauseStuck p c) s = .next (if drop then (flushQueue p.val c.val false u).modEport p.val (fun e =>
      { e with ignore := kput e.ignore c.val u.lt }) else u) := by
  change execPfcPauseStuck p c s = _
  simp only [execPfcPauseStuck, hsince]
  exact if_pos (by simp only [hlong, hpaused, hnew, decide_true, Bool.not_false, Bool.and_self])

/-! Pauses that this device asks for (R293). -/

theorem pfcRuns_eq_true {s : State} {p : Nat} (hpfc : pfcPort p = true) (hlarge : largeFabric s = true)
    (hon : s.flag (EGR_PORT_CTRL.PFC_EN p) = true) (hup : portUp s p = true) : pfcRuns s p = true := by simp [pfcRuns, hpfc, hlarge, hon, hup]

/-- The classes whose standing pause is due to be sent again. -/
def pauseDue (s : State) (p : Nat) : List Nat :=
  let e := s.eport p
  (List.range 5).filter (fun c => bit e.pfcOut c && decide (kgetD e.pfcAt c 0 + txTime (s.lineRate p) (32768 * 64) ≤ s.lt))

theorem exec_pfcRefresh_runs {p : Port} {s : State} (hruns : pfcRuns s p.val = true) :
    exec (.pfcRefresh p) s = .next (sendPfc p.val (listMask (pauseDue s p.val)) true s) := congrArg _ (if_pos hruns)

/-! The energy bucket (R295). -/

/-- The state once an empty bucket has been told. -/
def bucketEmptyTold (s : State) : State :=
  raise 0x0504 0 (evPay [(20, 4, ofSigned 32 (s.egr.energy / 1000))])
    { s with egr := { s.egr with emptyTold := true, emptyLast := some s.lt } }

/-- A bucket that has been empty for 10 ms is told, if it was not told within the last second. -/
theorem exec_energyEmpty_due {t : Nat} {s : State} (hsince : (settleEnergy s).egr.emptySince = some t)
    (hon : (settleEnergy s).flag EGR_CTRL.ENERGY_EN = true) (hlong : t + 10000000 ≤ (settleEnergy s).lt)
    (hnew : (settleEnergy s).egr.emptyTold = false) (hlast : ∀ l, (settleEnergy s).egr.emptyLast = some l → l + sec ≤ (settleEnergy s).lt) :
    exec .energyEmpty s = .next (bucketEmptyTold (settleEnergy s)) := by
  change execEnergyEmpty s = _
  simp only [execEnergyEmpty, bucketEmptyTold, hsince]
  cases hbefore : (settleEnergy s).egr.emptyLast with
  | none => exact if_pos (by simp [hon, hlong, hnew])
  | some l => exact if_pos (by simp [hon, hlong, hnew, hlast l hbefore])

/-! Lanes (R300, R301). -/

/-- A parked lane wakes for a gate that is about to open, or for a best-effort frame that has waited long enough. -/
theorem exec_laneWakeTimer_due {p : Port} {s : State} (hparked : (s.eport p.val).park = 1 ∨ (s.eport p.val).park = 2)
    (hdue : tc56Opens s p.val ≤ wakeLead s p.val ∨ ∃ t, (s.eport p.val).beFirst = some t ∧ t + beWaitMax s p.val ≤ s.lt) :
    exec (.laneWakeTimer p) s = .next (parkWake p.val s) := by
  change execLaneWakeTimer p s = _
  obtain hopens | ⟨t, hfirst, hwaited⟩ := hdue
  · exact if_pos (by simp [hparked, hopens])
  · simp only [execLaneWakeTimer, hfirst]
    exact if_pos (by simp [hparked, hwaited])

/-- The state as a lane has woken. -/
def laneWoken (p : Nat) (s : State) : State := s.modEport p (fun e => { e with park := 0, beFirst := none })

theorem exec_laneReady_woken {p : Port} {s : State} (hwaking : (s.eport p.val).park = 3) (hready : (s.eport p.val).readyAt ≤ s.lt) :
    exec (.laneReady p) s = .next (parkEnter p.val (portEmpty (laneWoken p.val s) p.val) (laneWoken p.val s)) :=
  congrArg _ (if_pos (by simp [hwaking, hready]))

/-! Histograms (R302, R303). -/

/-- The bins with one more sample of each of the 608 queues. -/
def binsSampled (s : State) : Keyed Nat :=
  (List.range 608).foldl (fun m k => sampleQueue s m k (queueBytes s (k / 8) (k % 8)) (headAge s (k / 8) (k % 8))) s.egr.bins

theorem exec_histogramSample_due {s : State} (hruns : s.pwr.state ≤ 2) (hdue : s.egr.histDue ≤ s.lt) :
    exec .histogramSample s = .next
      { s with egr := { s.egr with bins := binsSampled s, histDue := s.egr.histDue + max 1 (s.fld EGR_HIST_CFG.SAMPLE) * 1000 } } :=
  congrArg _ ((if_neg (by omega)).trans (if_neg (Nat.not_lt.mpr hdue)))

/-! The sensors (R297, R575). -/

/-- The state once the sensors' readings stand in their registers. -/
def readingsTaken (l : List Nat) (s : State) : State := l.zipIdx.foldl (fun v e => v.setFld (PWR_TJ.TJ e.2) (e.1 % 65536)) s

/-- The state once the four quadrants have their headroom, where heat limits the ports. -/
def headroomsTaken (l : List Nat) (s : State) : State :=
  if s.flag EGR_CTRL.THERM_EN then (List.range 4).foldl (fun w q => setHeadroom q (headroomOf w (l.getD q 0)) w) s else s

/-- No sensor is at fault where none read 140 °C or more both before and now. -/
theorem find_hotTwice_eq_none {l : List Nat} {s : State}
    (hcool : ∀ e ∈ l.zipIdx, ¬ (280 ≤ halfDeg e.1 ∧ 280 ≤ halfDeg (s.fld (PWR_TJ.TJ e.2)))) :
    (l.zipIdx.map (fun e => (e.2, e.1))).find? (fun e =>
      decide (280 ≤ halfDeg e.2) && decide (280 ≤ halfDeg (s.fld (PWR_TJ.TJ e.1)))) = none := by
  simpa only [List.find?_map, Option.map_eq_none_iff, List.find?_eq_none, Function.comp_apply, Bool.and_eq_true, decide_eq_true_eq] using hcool

/-- The readings are taken at whole 100 µs of LT (log entry 22). -/
theorem exec_thermalSensorRead_cool {q0 q1 q2 q3 centre : Nat} {s : State} (hruns : s.pwr.state ≤ 2) (htime : s.lt % 100000 = 0)
    (hcool : ∀ e ∈ [q0, q1, q2, q3, centre].zipIdx, ¬ (280 ≤ halfDeg e.1 ∧ 280 ≤ halfDeg (s.fld (PWR_TJ.TJ e.2)))) :
    let l := [q0, q1, q2, q3, centre]
    exec (.thermalSensorRead q0 q1 q2 q3 centre) s = .next (hotCheck l (headroomsTaken l (readingsTaken l s))) := by
  refine (if_neg (by simp [hruns, htime])).trans ?_
  simp only [find_hotTwice_eq_none hcool]
  rfl

/-- Settles O38: each row is the branch of its condition, and what it leaves is named by the definition above it. -/
theorem pausesEnergyLanesAndSensorsRun : Obligations.PausesEnergyLanesAndSensorsRun := by
  refine ⟨fun p enable quanta s hpfc => exec_pfcReceived_heard hpfc enable quanta s, fun p c t s => exec_pfcPauseExpiry_due,
    fun p c t s => exec_pfcPauseStuck_stuck, ?refresh, fun t s => exec_energyEmpty_due, fun p s => exec_laneWakeTimer_due,
    fun p s => exec_laneReady_woken, fun s => exec_histogramSample_due, fun q0 q1 q2 q3 centre s => exec_thermalSensorRead_cool⟩
  intro p s hpfc hlarge hon hup
  exact exec_pfcRefresh_runs (pfcRuns_eq_true hpfc hlarge hon hup)

end Sys2Proof.Machine
end

section
/-! Proofs: the admission commands at the ingress device, and a path that is set anew. -/

namespace Sys2Proof.Machine

/-- The start of a command leaves the streams as they are. -/
@[simp] theorem markStarted_stream (c : CmdCtx) (op : Nat) (s : State) (h : Nat) : (markStarted c op s).stream h = s.stream h :=
  congrArg (kget · h) ((markStarted_touches (M := 0x80000c0) c op s (Touches.refl _ _) rfl).agree.streams (by decide))

/-! A request (R310, R340). -/

section request

variable {c : CmdCtx} {s : State}

/-- The state once a request has been counted and its handle taken: the stream asks for paths until `ADM_TIMEOUT` has passed. -/
def requestTaken (c : CmdCtx) (s : State) : State :=
  (s.bump ADM_REQ_CNT).putStream (contractHandle c.par)
    { contract := c.par, phase := .asking, ingress := true, cmd := some (0x0601, c), since := s.lt,
      deadline := s.lt + s.fld ADM_TIMERS.ADM_TIMEOUT * 1000000 }

/-- Does a request reserve at this device alone: is every destination of its contract local to an addressed device? -/
def staysHere (contract : Bytes) (s : State) : Bool := (remoteDests contract (ownAddr s)).isEmpty && hasAddr s

theorem admRequest_taken (hopen : hopClosed s = none) (hnew : khas s.streams (contractHandle c.par) = false) :
    admRequest (some (0x0601, c)) c.par s =
      if staysHere c.par (requestTaken c s) then ingressHop (contractHandle c.par) [] (requestTaken c s)
      else askPaths (contractHandle c.par) c.par (requestTaken c s) := by
  simp only [admRequest, hopen, hnew]
  rfl

/-- A request on good operands, at an open hop and for a free handle, takes the handle and reserves here or asks for paths. -/
theorem exec_admitRequest_taken (hrun : mayRun c 0x0601 s) (hlen : plenIs c 64 = true) (hcontract : contractOk (markStarted c 0x0601 s) c.par = true)
    (hopen : hopClosed (markStarted c 0x0601 s) = none) (hnew : khas (markStarted c 0x0601 s).streams (contractHandle c.par) = false) :
    let v := requestTaken c (markStarted c 0x0601 s)
    exec (.admitRequest c) s = .next
      (if staysHere c.par v then ingressHop (contractHandle c.par) [] v else askPaths (contractHandle c.par) c.par v) := by
  refine congrArg _ ((command_run hrun _).trans ?_)
  exact (if_neg (by simp [hlen, hcontract])).trans (admRequest_taken hopen hnew)

end request

/-! Commands on the handle of a stream that stands here (R313, R314, R340, R341). -/

section handle

variable {c : CmdCtx} {s : State} {x : Stream}

theorem onHandle_held (hlen : plenIs c 8 = true) (hzero : parZero c 2 8 = true) (hstream : s.stream (cmdHandle c) = some x) (op : Nat)
    (body : Stream → State → State) : onHandle c op s body = body x s := by
  simp [onHandle, hlen, hzero, hstream]

/-- A command on a held handle runs its body on the stream. -/
theorem command_onHandle_held {op : Nat} (hrun : mayRun c op s) (hlen : plenIs c 8 = true) (hzero : parZero c 2 8 = true)
    (hstream : (markStarted c op s).stream (cmdHandle c) = some x) (body : Stream → State → State) :
    command c op s (fun u => onHandle c op u body) = body x (markStarted c op s) :=
  (command_run hrun _).trans (onHandle_held hlen hzero hstream op body)

/-- The acknowledgements that the commit of a stream waits for: one of each device along each of its paths. -/
def Stream.commitAcks (x : Stream) : List (Nat × Nat) := x.paths.zipIdx.flatMap (fun p => p.1.hops.map (fun k => (p.2, k.1)))

/-- The state once the commit of a stream has begun. -/
def commitBegun (cmd : Option (Nat × CmdCtx)) (h : Nat) (x : Stream) (s : State) : State :=
  s.putStream h { x with phase := .committing, cmd := cmd, acks := x.commitAcks, deadline := s.lt + s.fld ADM_TIMERS.ADM_TIMEOUT * 1000000 }

/-- The commits leave along every path of a stream (R313). -/
def commitsSent (h : Nat) (x : Stream) (s : State) : State :=
  x.paths.zipIdx.foldl (fun w p => sendAdm p.1.first (.commit h p.2 (commitEpoch w h) 0) w) s

/-- A commit that has no device to wait for ends at once. -/
theorem startCommit_held {h : Nat} (hstream : s.stream h = some x) (cmd : Option (Nat × CmdCtx)) :
    startCommit cmd h s = if x.commitAcks.isEmpty then commitDone h (commitBegun cmd h x s) else commitsSent h x (commitBegun cmd h x s) := by
  simp only [startCommit, hstream]
  rfl

theorem exec_admitCommit_tentative (hrun : mayRun c 0x0602 s) (hlen : plenIs c 8 = true) (hzero : parZero c 2 8 = true)
    (hstream : (markStarted c 0x0602 s).stream (cmdHandle c) = some x) (hin : x.ingress = true) (hphase : x.phase = .tentative) :
    let v := commitBegun (some (0x0602, c)) (cmdHandle c) x (markStarted c 0x0602 s)
    exec (.admitCommit c) s = .next (if x.commitAcks.isEmpty then commitDone (cmdHandle c) v else commitsSent (cmdHandle c) x v) := by
  refine congrArg _ ((command_onHandle_held hrun hlen hzero hstream _).trans ?_)
  exact (if_pos (by simp [hin, hphase])).trans (startCommit_held hstream _)

/-- The state once a stream withdraws: its entries have left the table where it comes in, and it drains for its stated bound (R314). -/
def withdrawBegun (c : CmdCtx) (x : Stream) (s : State) : State :=
  (s.putStream (cmdHandle c) { x with phase := .withdrawing, cmd := some (0x0603, c), deadline := s.lt + x.stated }).modTab (homeQuad x.inPort)
    (fun t => sidDropHandle t (cmdHandle c))

section withdraw

variable (hrun : mayRun c 0x0603 s) (hlen : plenIs c 8 = true) (hzero : parZero c 2 8 = true)
  (hstream : (markStarted c 0x0603 s).stream (cmdHandle c) = some x) (hin : x.ingress = true)
include hrun hlen hzero hstream hin

/-- A Tentative stream has nothing to drain: its withdrawal ends at once. -/
theorem exec_admitWithdraw_tentative (hphase : x.phase = .tentative) :
    exec (.admitWithdraw c) s = .next (withdrawDone (cmdHandle c) (withdrawBegun c x (markStarted c 0x0603 s))) := by
  refine congrArg _ ((command_onHandle_held hrun hlen hzero hstream _).trans ?_)
  exact (if_neg (by simp [hin, hphase])).trans (if_pos hphase)

/-- A Committed one keeps its state until it has drained. -/
theorem exec_admitWithdraw_committed (hphase : x.phase = .committed) :
    exec (.admitWithdraw c) s = .next (withdrawBegun c x (markStarted c 0x0603 s)) := by
  refine congrArg _ ((command_onHandle_held hrun hlen hzero hstream _).trans ?_)
  exact (if_neg (by simp [hin, hphase])).trans (if_neg (by simp [hphase]))

end withdraw

theorem exec_admitQuery_held (hrun : mayRun c 0x0604 s) (hlen : plenIs c 8 = true) (hzero : parZero c 2 8 = true)
    (hstream : (markStarted c 0x0604 s).stream (cmdHandle c) = some x) :
    exec (.admitQuery c) s = .next (complete c 0x0604 stOk (queryReply (cmdHandle c) x) (markStarted c 0x0604 s)) :=
  congrArg _ (command_onHandle_held hrun hlen hzero hstream _)

end handle

/-! The admission image (R338) and a path set anew (R358). -/

/-- An image that host memory holds is accepted at once and applied. -/
theorem exec_admitImage_read {c : CmdCtx} {s : State} (hrun : mayRun c 0x0605 s) (hfree : engineHeld s = false) (hlen : plenIs c 16 = true)
    (hzero : parZero c 12 16 = true) (image : Bytes) :
    exec (.admitImage c (some image)) s =
      .next (applyAdmImage (slice image 0 (leAt c.par 8 4)) (complete c 0x0605 stAccepted [] (markStarted c 0x0605 s))) := by
  refine (if_neg (by simp [hfree])).trans (congrArg _ ((command_run hrun _).trans ?_))
  exact if_neg (by simp [hlen, hzero])

/-- No re-run runs of the stream that a command names, so the next `PATH_SET` need not wait (R311). -/
theorem rerunRuns_eq_false {c : CmdCtx} {s : State} {x : Stream} (hstream : s.stream (cmdHandle c) = some x) (hrerun : x.rerun = none) :
    rerunRuns c s = false := by
  simp [rerunRuns, hstream, hrerun]

theorem exec_pathSet_rerun {c : CmdCtx} {s : State} {x : Stream} (hrun : mayRun c 0x0701 s) (hlen : plenIs c 40 = true) (hok : pathSetOk c = true)
    (hstream : (markStarted c 0x0701 s).stream (cmdHandle c) = some x)
    (hdest : isDest (markStarted c 0x0701 s) x (byteAt c.par 2) (((pathSetRec c).hops.getLast?).getD (0, 0)) = true) (hin : x.ingress = true)
    (hphase : x.phase = .committed) (hrerun : x.rerun = none) (hprotect : byteAt c.par 2 = 1 → x.protect = true) :
    exec (.pathSet c) s = .next (startRerun (some (0x0701, c)) (cmdHandle c) (byteAt c.par 2) (pathSetRec c) (markStarted c 0x0701 s)) := by
  have hidle : rerunRuns c s = false := rerunRuns_eq_false ((markStarted_stream c 0x0701 s _).symm.trans hstream) hrerun
  refine (if_neg (by simp [hidle])).trans (congrArg _ ((command_run hrun _).trans ?_))
  refine (if_neg (by simp [hlen, hok])).trans ?_
  simp only [hstream]
  exact (if_neg (by simp [hdest])).trans ((if_neg (by simp [hin])).trans (if_neg (by simpa [hphase] using hprotect)))

/-- Settles O39: a request and a commit go by what they find to wait for, a withdrawal by the phase of its stream, and each other row runs its
one body. -/
theorem admissionCommandsActOnTheirStream : Obligations.AdmissionCommandsActOnTheirStream := by
  intro c s
  refine ⟨?request, ?commit, ?withdraw, fun x => exec_admitQuery_held, fun image hrun hfree hlen hzero =>
    exec_admitImage_read hrun hfree hlen hzero image, fun x => exec_pathSet_rerun⟩
  case request =>
    intro u h hrun hlen hcontract hopen hnew x v
    have hnext := exec_admitRequest_taken hrun hlen hcontract hopen hnew
    exact ⟨fun hlocal haddr => hnext.trans (congrArg _ (if_pos (Bool.and_eq_true_iff.mpr ⟨hlocal, haddr⟩))),
      fun hfar => hnext.trans (congrArg _ (if_neg (Bool.eq_false_iff.mp (Bool.and_eq_false_iff.mpr hfar))))⟩
  case commit =>
    intro x u hrun hlen hzero hstream hin hphase acks v
    have hnext := exec_admitCommit_tentative hrun hlen hzero hstream hin hphase
    exact ⟨fun hnone => hnext.trans (congrArg _ (if_pos (List.isEmpty_iff.mpr hnone))),
      fun hsome => hnext.trans (congrArg _ (if_neg (mt List.isEmpty_iff.mp hsome)))⟩
  case withdraw =>
    intro x u hrun hlen hzero hstream hin v
    exact ⟨exec_admitWithdraw_tentative hrun hlen hzero hstream hin, exec_admitWithdraw_committed hrun hlen hzero hstream hin⟩

end Sys2Proof.Machine
end

section
/-! Proofs: the checks of the path commands, and how the units of a pair hand over, hear each other and lose each other. -/

namespace Sys2Proof.Machine

/-- The start of a command leaves the mode of the pair as it is. -/
@[simp] theorem markStarted_pairMode (c : CmdCtx) (op : Nat) (s : State) : (markStarted c op s).pairMode = s.pairMode :=
  (markStarted_touches (M := 0x80000c0) c op s (Touches.refl _ _) rfl).agree.pairMode (by decide)

/-! The path commands (R358, R370, R375). -/

section command

variable {c : CmdCtx} {s : State}

theorem plenIs_eq_false {n : Nat} (hlen : c.par.length ≠ n) : plenIs c n = false := decide_eq_false hlen

theorem exec_pathSet_badLength (hrun : mayRun c 0x0701 s) (hlen : c.par.length ≠ 40) :
    exec (.pathSet c) s = .next (complete c 0x0701 stParam [] (markStarted c 0x0701 s)) := by
  refine (if_neg (by simp [plenIs_eq_false hlen])).trans (congrArg _ ((command_run hrun _).trans ?_))
  exact if_pos (by simp [plenIs_eq_false hlen])

variable (hrun : mayRun c 0x0702 s)
include hrun

theorem exec_pairHandover_badLength (hlen : c.par.length ≠ 8) :
    exec (.pairHandover c) s = .next (complete c 0x0702 stParam [] (markStarted c 0x0702 s)) := by
  refine congrArg _ ((command_run hrun _).trans ?_)
  exact if_pos (by simp [plenIs_eq_false hlen])

variable (hlen : plenIs c 8 = true) (hzero : parZero c 0 8 = true)
include hlen hzero

theorem exec_pairHandover_otherMode (hmode : s.pairMode ≠ 1) :
    exec (.pairHandover c) s = .next (complete c 0x0702 stState [] (markStarted c 0x0702 s)) := by
  refine congrArg _ ((command_run hrun _).trans ?_)
  exact (if_neg (by simp [hlen, hzero])).trans (if_pos (by simp [hmode]))

/-- An Active unit of a cold-frame pair hands over to a Cold peer that is heard and holds a checkpoint of the last two periods. -/
theorem exec_pairHandover_accepted {u : State} (hstarted : markStarted c 0x0702 s = u) (hmode : u.pairMode = 1) (hrole : pairRole u = 1)
    (hheard : u.pair.lost = false) {hb : Heartbeat} (hpeer : u.pair.peer = some hb) (hcold : hb.role = 3) (hheld : u.pair.ckDone ≠ 0)
    (hfresh : u.lt ≤ u.pair.ckDone + 2 * ckptPeriod u) :
    exec (.pairHandover c) s = .next (((sendCkpt (complete c 0x0702 stAccepted [] u)).emit .wakePeer).modPair
      (fun p => { p with handover := true, overlap := none })) := by
  subst hstarted
  rw [markStarted_pairMode] at hmode
  refine congrArg _ ((command_run hrun _).trans ?_)
  exact (if_neg (by simp [hlen, hzero])).trans (if_neg (by simp [hmode, hrole, hheard, hpeer, hcold, hheld, hfresh]))

end command

/-- Settles O20: a wrong length fails the first check of either command, and the wrong mode the second of the handover. -/
theorem pathCommandsCheckTheirLengthAndMode : Obligations.PathCommandsCheckTheirLengthAndMode :=
  fun _ _ => ⟨exec_pathSet_badLength, exec_pairHandover_badLength,
    fun hrun hlen => exec_pairHandover_otherMode hrun (decide_eq_true hlen)⟩

/-! The old Active unit fences itself (R370). -/

theorem exec_handoverFence_overlaps {t : Nat} {s : State} (hoverlap : s.pair.overlap = some t) :
    exec .handoverFence s = .next (slicesGo (setAddr none (dropQueued (setRole 2 (s.modPair (fun p => { p with overlap := none })))))) := by
  change execHandoverFence s = _
  simp only [execHandoverFence, hoverlap]

/-! Heartbeats (R363). -/

theorem exec_heartbeatSend_due {s : State} (hon : pairOn s = true) (hdue : s.pair.sentHb + 50000 ≤ s.lt) :
    exec .heartbeatSend s = .next ((s.modPair (fun p => { p with sentHb := s.lt })).emit (.heartbeat (ownBeat s))) :=
  if_pos (by simp [hon, hdue])

/-! A peer that stays silent (R363, R365, R367). -/

/-- The state once the peer is declared lost. -/
def peerSilent (s : State) : State := (s.modPair (fun p => { p with lost := true })).setFld PAIR_STATUS.PEER_SEEN 0

/-- The state once a loss has been counted and told. -/
def lossTold (s : State) : State := peerLostEvent 0 ((peerSilent s).bump PAIR_HB_LOST)

/-- The state once a Cold unit has noted when it saw the loss. -/
def lossDetected (s : State) : State := (lossTold s).modPair (fun p => { p with detected := (lossTold s).lt })

section silence

variable {s : State} (hon : pairOn s = true) (hheard : s.pair.lost = false) (hdue : lostAt s ≤ s.lt) (hpeer : s.pairMode = 0 → s.pair.peer ≠ none)
include hon hheard hdue hpeer

/-- Nothing keeps `PEER_LOST` from its effect: with `MODE` 0 a peer was heard (log entry 48). -/
theorem peerLost_not_idle : ¬ (!pairOn s || s.pair.lost || decide (s.lt < lostAt s) || (decide (s.pairMode = 0) && s.pair.peer.isNone)) = true := by
  simpa [hon, hheard, hdue] using hpeer

theorem exec_peerLost_deciding (hdeciding : (peerSilent s).pair.deciding = true) : exec .peerLost s = .next (decideAs 1 (peerSilent s)) :=
  (if_neg (peerLost_not_idle hon hheard hdue hpeer)).trans (if_pos hdeciding)

variable (hdecided : (peerSilent s).pair.deciding = false)
include hdecided

theorem exec_peerLost_notCold (hrole : pairRole (lossTold s) ≠ 3) : exec .peerLost s = .next (lossTold s) :=
  (if_neg (peerLost_not_idle hon hheard hdue hpeer)).trans ((if_neg (Bool.eq_false_iff.mp hdecided)).trans (if_pos hrole))

variable (hrole : pairRole (lossTold s) = 3)
include hrole

/-- A Cold unit goes by the peer's fence line. -/
theorem exec_peerLost_cold : exec .peerLost s = if (lossDetected s).pair.peerLow.isSome then .next (takeover false (lossDetected s)) else
    .next ((lossDetected s).modPair (fun p =>
      { p with waitTill := some ((lossDetected s).lt + (lossDetected s).fld PAIR_TIMERS.FENCE_WAIT * 10000) })) :=
  (if_neg (peerLost_not_idle hon hheard hdue hpeer)).trans ((if_neg (Bool.eq_false_iff.mp hdecided)).trans (if_neg (not_not.mpr hrole)))

end silence

theorem exec_fenceWaitExpiry_due {t : Nat} {s : State} (hwait : s.pair.waitTill = some t) (hdue : t ≤ s.lt) (hrole : pairRole s = 3) :
    exec .fenceWaitExpiry s = .next (takeover false s) := by
  change execFenceWaitExpiry s = _
  simp only [execFenceWaitExpiry, hwait]
  exact if_pos (by simp [hdue, hrole])

/-- Settles O41: each row is the branch of its conditions, and a loss goes by whether the role is still to be decided and by what it is. -/
theorem pairUnitsWatchEachOther : Obligations.PairUnitsWatchEachOther := by
  refine ⟨?handover, fun t s => exec_handoverFence_overlaps, fun s => exec_heartbeatSend_due, ?received, ?lost,
    fun t s => exec_fenceWaitExpiry_due⟩
  case handover =>
    intro c s u hrun hlen hzero hmode hrole hheard ⟨hb, hpeer, hcold⟩
    exact exec_pairHandover_accepted hrun hlen hzero rfl hmode hrole hheard hpeer hcold
  case received =>
    intro hb s hon
    exact if_neg (by simp [hon])
  case lost =>
    intro s hon hheard hdue hpeer u
    refine ⟨exec_peerLost_deciding hon hheard hdue hpeer, fun hdecided => ⟨exec_peerLost_notCold hon hheard hdue hpeer hdecided, ?low, ?high⟩⟩
    case low =>
      intro hrole hlow
      exact (exec_peerLost_cold hon hheard hdue hpeer hdecided hrole).trans (if_pos hlow)
    case high =>
      intro hrole hhigh
      exact (exec_peerLost_cold hon hheard hdue hpeer hdecided hrole).trans (if_neg (Option.not_isSome_iff_eq_none.mpr hhigh))

end Sys2Proof.Machine
end

section
/-! Proofs: the fence lines of a pair, its checkpoints, and the end of a takeover. -/

namespace Sys2Proof.Machine

/-! The fence lines (R360, R367, R624). -/

section line

variable {held : Nat} {s : State}

/-- An edge that does not outlast the filter has no effect, on either line and in either direction. -/
theorem exec_fenceLine_glitch (hglitch : held < fenceFilter s.dbg.straps) (own : Bool) :
    exec (.fenceLineLow own held) s = .next s ∧ exec (.fenceLineHigh own held) s = .next s := ⟨if_pos hglitch, if_pos hglitch⟩

variable (hheld : fenceFilter s.dbg.straps ≤ held)
include hheld

theorem exec_fenceLineLow_own (hfree : s.pair.forced = false) : exec (.fenceLineLow true held) s = .next (ownLow s) :=
  (if_neg (Nat.not_lt.mpr hheld)).trans (if_neg (Bool.eq_false_iff.mp hfree))

theorem exec_fenceLineLow_peer (hhigh : s.pair.peerLow = none) : exec (.fenceLineLow false held) s = .next (peerLineLow s) :=
  (if_neg (Nat.not_lt.mpr hheld)).trans (if_neg (Option.not_isSome_iff_eq_none.mpr hhigh))

theorem exec_fenceLineHigh_own : exec (.fenceLineHigh true held) s = .next (setLine s.pair.pull false s) := if_neg (Nat.not_lt.mpr hheld)

theorem exec_fenceLineHigh_peer (hforcing : s.flag PAIR_STATUS.FORCING = false) :
    exec (.fenceLineHigh false held) s = .next ((s.modPair (fun p => { p with peerLow := none })).setFld PAIR_STATUS.PEER_FENCED 0) :=
  (if_neg (Nat.not_lt.mpr hheld)).trans (if_neg (Bool.eq_false_iff.mp hforcing))

end line

/-! Checkpoints (R366, R554). -/

theorem exec_checkpointSend_due {s : State} (hon : pairOn s = true) (hrole : pairRole s = 1) (htriad : triadRun s = true) (hs0 : s.pwr.state = 0)
    (hdue : s.pair.lastCkpt + ckptPeriod s ≤ s.lt) : exec .checkpointSend s = .next (sendCkpt s) :=
  if_pos (by simp [hon, hrole, htriad, hs0, hdue])

section received

variable {s : State} (hon : pairOn s = true) (hdecided : s.pair.deciding = false) {c : Ckpt}
include hon hdecided

/-- A checkpoint with a wrong CRC, or one that was cut off, is discarded. -/
theorem exec_checkpointReceived_bad (hrole : pairRole s = 2 ∨ pairRole s = 3) {bad : Fin 3} (hbad : bad.val ≠ 0) :
    exec (.checkpointReceived c bad) s = .next (ckptBad c.seq (bad.val - 1) s) :=
  (if_neg (by simpa [hon, hdecided] using or_iff_not_imp_left.mp hrole)).trans (if_pos hbad)

theorem exec_checkpointReceived_cold (hrole : pairRole s = 3) : exec (.checkpointReceived c 0) s = .next (ckptApply c s) :=
  (if_neg (by simp [hon, hdecided, hrole])).trans ((if_neg (by decide)).trans (if_pos hrole))

/-- A Syncing unit takes a checkpoint in full if the keep store has room for its delta, whose size is a free value (log entry 68). -/
theorem exec_checkpointReceived_syncing (hrole : pairRole s = 2) (hfull : c.full = true) (hs0 : s.pwr.state = 0) (hexit : s.pwr.exit = none) :
    exec (.checkpointReceived c 0) s = if 60 < (measureDelta 4 s).fld PWR_RESTORE.DELTA_KIB then .next (ckptBad c.seq 2 (measureDelta 4 s))
      else .next (becomeCold (ckptApply c (measureDelta 4 s))) := by
  refine (if_neg (by simp [hon, hdecided, hrole])).trans ((if_neg (by decide)).trans ((if_neg (by simp [hrole])).trans ?_))
  exact if_neg (by simp [hfull, hs0, hexit])

end received

/-! The end of a takeover (R368, R370). -/

/-- The state with its last checkpoint restored, if it holds one. -/
def ckptRestored (s : State) : State :=
  match s.pair.ckpt with
  | some c => restoreCkpt (if s.pair.handover then 1 else 2) c s
  | none => s

/-- The streams at the epochs that the old Active unit wrote: a handover has advanced them by 1 and a takeover by 2, modulo 4. -/
def epochsBefore (handover : Bool) (l : Keyed Stream) : Keyed Stream :=
  l.map (fun e => (e.1, { e.2 with epoch := (e.2.epoch + (if handover then 3 else 2)) % 4 }))

/-- The Active unit that a Waking one becomes. -/
def restoreEnded (s : State) : State :=
  let t := ckptRestored s
  setRole 1 ((epochEvents (epochsBefore s.pair.handover t.streams) (writeEpochs t)).modPair (fun p => { p with ckpt := none, forwarded := true }))

/-- A Waking unit becomes Active; the end of a takeover is told, that of a handover once its buses start. -/
theorem exec_takeoverRestoreDone_waking {s : State} (hrole : pairRole s = 4) (hs0 : s.pwr.state = 0) (hexit : s.pwr.exit = none) :
    exec .takeoverRestoreDone s = if s.pair.handover then .next (restoreEnded s) else
      .next (raise 0x0702 0 (evPay [(16, 1, 1), (20, 4, ((restoreEnded s).lt - (restoreEnded s).pair.detected) / 1000)])
        ((restoreEnded s).modPair (fun p => { p with told := true }))) :=
  if_neg (by simp [hrole, hs0, hexit])

/-- The LIN schedules stand at their first entries. -/
def linsRestarted (s : State) : State :=
  s.modGw (fun g => { g with lins := g.lins.map (fun e => (e.1, { e.2 with entry := linFirst (linTable s e.1 e.2.table) })) })

/-- The state once the buses start. -/
def busesStarted (s : State) : State := (linsRestarted s).modPair (fun p => { p with busWait := false, handover := false, told := true })

/-- The buses start `BUS_FENCE` after the peer's line fell; a handover that is not told yet is told. -/
theorem exec_busFenceElapsed_due {t : Nat} {s : State} (hlow : s.pair.peerLow = some t) (hwait : s.pair.busWait = true) (hrole : pairRole s = 1)
    (hdue : t + s.fld PAIR_BUS_FENCE.BUS_FENCE * 1000 ≤ s.lt) :
    exec .busFenceElapsed s = .next (if s.pair.handover && !s.pair.told then
      raise 0x0702 0 (evPay [(16, 1, 1), (17, 1, 1)]) (busesStarted s) else busesStarted s) := by
  change execBusFenceElapsed s = _
  simp only [execBusFenceElapsed, hlow]
  exact if_pos (by simp [hwait, hrole, hdue])

/-- Settles O42: each row is the branch of its conditions: a line that outlasts the filter acts, a checkpoint goes by the role and its size, and the
events tell a handover from a takeover. -/
theorem fenceLinesAndCheckpointsActOnThePair : Obligations.FenceLinesAndCheckpointsActOnThePair := by
  refine ⟨?lines, fun s => exec_checkpointSend_due, ?received, ?restored, ?buses⟩
  case lines =>
    intro held s
    exact ⟨exec_fenceLine_glitch, exec_fenceLineLow_own, exec_fenceLineLow_peer, exec_fenceLineHigh_own, exec_fenceLineHigh_peer⟩
  case received =>
    intro c s hon hdecided
    refine ⟨fun hrole => ?bad, exec_checkpointReceived_cold hon hdecided, fun hrole hfull hs0 hexit => ?syncing⟩
    case bad =>
      exact ⟨exec_checkpointReceived_bad hon hdecided hrole (by decide), exec_checkpointReceived_bad hon hdecided hrole (by decide)⟩
    case syncing =>
      have hrow := exec_checkpointReceived_syncing hon hdecided hrole hfull hs0 hexit
      exact ⟨fun hroom => hrow.trans (if_neg (Nat.not_lt.mpr hroom)), fun hlarge => hrow.trans (if_pos hlarge)⟩
  case restored =>
    intro s hrole hs0 hexit h t old u
    have hrow := exec_takeoverRestoreDone_waking hrole hs0 hexit
    exact ⟨fun hhandover => hrow.trans (if_pos hhandover), fun htakeover => hrow.trans (if_neg (Bool.eq_false_iff.mp htakeover))⟩
  case buses =>
    intro t s hlow hwait hrole hdue u v
    have hrow := exec_busFenceElapsed_due hlow hwait hrole hdue
    exact ⟨fun hhandover huntold => hrow.trans (congrArg _ (if_pos (Bool.and_eq_true_iff.mpr ⟨hhandover, congrArg not huntold⟩))),
      fun hquiet => hrow.trans (congrArg _ (if_neg (Bool.eq_false_iff.mp (Bool.and_eq_false_iff.mpr (hquiet.imp_right (congrArg not))))))⟩

end Sys2Proof.Machine
end

section
/-! Proofs: what every step and every command keeps, and that every command answers. -/

namespace Sys2Proof.Machine

/-! Frames. -/

/-- Settles O1: `step` takes the command at the front of the queue. -/
theorem stepRunsTheFrontCommand : Obligations.StepRunsTheFrontCommand := fun _ _ _ => step_of_pending_cons rfl

/-- Every row touches no part that `mayChange` does not list for it: its own lemma names its parts, and their mask lies in that of the list. -/
theorem exec_touches_mayChange (i : Instr) (s : State) : TouchesR (maskOf (mayChange i)) s (exec i s) := by
  cases i with dsimp only [mayChange]
  | ethernetFrameReceived p frame phyErr w => exact execEthernetFrameReceived_touches p frame phyErr w s (Touches.refl _ _) (by rfl)
  | legacyPduReceived p ok u w => exact execLegacyPduReceived_touches p ok u w s (Touches.refl _ _) (by rfl)
  | pipelineFrame p ecc => exact execPipelineFrame_touches p ecc s (Touches.refl _ _) (by rfl)
  | learnRequest q => exact execLearnRequest_touches q s (Touches.refl _ _) (by rfl)
  | recoveryCopy => exact execRecoveryCopy_touches s (Touches.refl _ _) (by rfl)
  | skewTick => exact execSkewTick_touches s (Touches.refl _ _) (by rfl)
  | batchAdd => exact execBatchAdd_touches s (Touches.refl _ _) (by rfl)
  | batchTick => exact execBatchTick_touches s (Touches.refl _ _) (by rfl)
  | egressSelect p ecc => exact execEgressSelect_touches p ecc s (Touches.refl _ _) (by rfl)
  | frameDepart p => exact execFrameDepart_touches p s (Touches.refl _ _) (by rfl)
  | svFrameTake ecc servo => exact execSvFrameTake_touches ecc servo s (Touches.refl _ _) (by rfl)
  | hostRxDeliver h entry => exact execHostRxDeliver_touches h entry s (Touches.refl _ _) (by rfl)
  | eventWrite h failed => exact execEventWrite_touches h failed s (Touches.refl _ _) (by rfl)
  | msixTimeFire h v => exact execMsixTimeFire_touches h v s (Touches.refl _ _) (by rfl)
  | doorbellPollTimer h => exact execDoorbellPollTimer_touches h s (Touches.refl _ _) (by rfl)
  | doorbellSlotRead h slot page => exact execDoorbellSlotRead_touches h slot page s (Touches.refl _ _) (by rfl)
  | doorbellReread h slot => exact execDoorbellReread_touches h slot s (Touches.refl _ _) (by rfl)
  | txqDescriptor h qs desc data => exact execTxqDescriptor_touches h qs desc data s (Touches.refl _ _) (by rfl)
  | cmdqFetch h qs entry par => exact execCmdqFetch_touches h qs entry par s (Touches.refl _ _) (by rfl)
  | dmaError h qs r cause => exact execDmaError_touches h qs r cause s (Touches.refl _ _) (by rfl)
  | hostWakeHint h value => exact execHostWakeHint_touches h value s (Touches.refl _ _) (by rfl)
  | ringEnable h qs r value => exact execRingEnable_touches h qs r value s (Touches.refl _ _) (by rfl)
  | ringStop h qs r value => exact execRingStop_touches h qs r value s (Touches.refl _ _) (by rfl)
  | ringStoppingDone h qs r => exact execRingStoppingDone_touches h qs r s (Touches.refl _ _) (by rfl)
  | busMasterDisable h => exact execBusMasterDisable_touches h s (Touches.refl _ _) (by rfl)
  | hostFlr h => exact execHostFlr_touches h s (Touches.refl _ _) (by rfl)
  | pcieLinkDown h => exact execPcieLinkDown_touches h s (Touches.refl _ _) (by rfl)
  | pcieLinkUp h gen lanes bme => exact execPcieLinkUp_touches h gen lanes bme s (Touches.refl _ _) (by rfl)
  | spiWriteFrame frame => exact execSpiWriteFrame_touches frame s (Touches.refl _ _) (by rfl)
  | spiReadFrame frame => exact execSpiReadFrame_touches frame s (Touches.refl _ _) (by rfl)
  | spiStatusFrame => exact execSpiStatusFrame_touches s (Touches.refl _ _) (by rfl)
  | spiFrameError count => exact execSpiFrameError_touches count s (Touches.refl _ _) (by rfl)
  | registerWrite src addr data be => exact execRegisterWrite_touches src addr data be s (Touches.refl _ _) (by rfl)
  | unmappedRead src addr be core => exact execUnmappedRead_touches src addr be core s (Touches.refl _ _) (by rfl)
  | counterLowRead src addr be core => exact execCounterLowRead_touches src addr be core s (Touches.refl _ _) (by rfl)
  | timeInLastNsRead src pin => exact execTimeInLastNsRead_touches src pin s (Touches.refl _ _) (by rfl)
  | fwdEnSet src => exact execFwdEnSet_touches src s (Touches.refl _ _) (by rfl)
  | hostFailsafeWrst => exact execHostFailsafeWrst_touches s (Touches.refl _ _) (by rfl)
  | hostFailsafeFence => exact execHostFailsafeFence_touches s (Touches.refl _ _) (by rfl)
  | bufBdSnapshot src value => exact execBufBdSnapshot_touches src value s (Touches.refl _ _) (by rfl)
  | bufDbgRelease src value => exact execBufDbgRelease_touches src value s (Touches.refl _ _) (by rfl)
  | bufSillWrite src k value => exact execBufSillWrite_touches src k value s (Touches.refl _ _) (by rfl)
  | maxLenWrite src p value => exact execMaxLenWrite_touches src p value s (Touches.refl _ _) (by rfl)
  | domainNumberWrite src d value => exact execDomainNumberWrite_touches src d value s (Touches.refl _ _) (by rfl)
  | canBitTimingWrite src n r value => exact execCanBitTimingWrite_touches src n r value s (Touches.refl _ _) (by rfl)
  | flexrayConfigWrite src r value => exact execFlexrayConfigWrite_touches src r value s (Touches.refl _ _) (by rfl)
  | macsecEnableWrite src p value => exact execMacsecEnableWrite_touches src p value s (Touches.refl _ _) (by rfl)
  | timeSnapTake src => exact execTimeSnapTake_touches src s (Touches.refl _ _) (by rfl)
  | egrHistSnapshot src value => exact execEgrHistSnapshot_touches src value s (Touches.refl _ _) (by rfl)
  | pathSnapshot src value => exact execPathSnapshot_touches src value s (Touches.refl _ _) (by rfl)
  | keySlotSnapshot src value => exact execKeySlotSnapshot_touches src value s (Touches.refl _ _) (by rfl)
  | fltHistSnapshot src value => exact execFltHistSnapshot_touches src value s (Touches.refl _ _) (by rfl)
  | fltAck src value => exact execFltAck_touches src value s (Touches.refl _ _) (by rfl)
  | fltFirstClear src value => exact execFltFirstClear_touches src value s (Touches.refl _ _) (by rfl)
  | supRestart src value => exact execSupRestart_touches src value s (Touches.refl _ _) (by rfl)
  | cryLockTake src => exact execCryLockTake_touches src s (Touches.refl _ _) (by rfl)
  | cryLockRelease src => exact execCryLockRelease_touches src s (Touches.refl _ _) (by rfl)
  | transomLock src h mask => exact execTransomLock_touches src h mask s (Touches.refl _ _) (by rfl)
  | transomUnlock src h => exact execTransomUnlock_touches src h s (Touches.refl _ _) (by rfl)
  | transomRead h off cover rd busErr => exact execTransomRead_touches h off cover rd busErr s (Touches.refl _ _) (by rfl)
  | transomWrite h off cover data busErr => exact execTransomWrite_touches h off cover data busErr s (Touches.refl _ _) (by rfl)
  | transomAnswer p dst host tag cause data => exact execTransomAnswer_touches p dst host tag cause data s (Touches.refl _ _) (by rfl)
  | transomRetransmit h => exact execTransomRetransmit_touches h s (Touches.refl _ _) (by rfl)
  | transomReadTimeout h tag => exact execTransomReadTimeout_touches h tag s (Touches.refl _ _) (by rfl)
  | transomFarRequest p dst r rd busErr => exact execTransomFarRequest_touches p dst r rd busErr s (Touches.refl _ _) (by rfl)
  | transomLockRequest p dst m => exact execTransomLockRequest_touches p dst m s (Touches.refl _ _) (by rfl)
  | transomLockBackoff h => exact execTransomLockBackoff_touches h s (Touches.refl _ _) (by rfl)
  | transomLockExpiry bus => exact execTransomLockExpiry_touches bus s (Touches.refl _ _) (by rfl)
  | sidebandPoll e value => exact execSidebandPoll_touches e value s (Touches.refl _ _) (by rfl)
  | tblSearch c => exact execTblSearch_touches c s (Touches.refl _ _) (by rfl)
  | tblNext c => exact execTblNext_touches c s (Touches.refl _ _) (by rfl)
  | tblInsert c => exact execTblInsert_touches c s (Touches.refl _ _) (by rfl)
  | tblDelete c => exact execTblDelete_touches c s (Touches.refl _ _) (by rfl)
  | tblFlushPort c => exact execTblFlushPort_touches c s (Touches.refl _ _) (by rfl)
  | tblRehash c => exact execTblRehash_touches c s (Touches.refl _ _) (by rfl)
  | tblPin c => exact execTblPin_touches c s (Touches.refl _ _) (by rfl)
  | rehashCheckDone q => exact execRehashCheckDone_touches q s (Touches.refl _ _) (by rfl)
  | rehashCopyDone q => exact execRehashCopyDone_touches q s (Touches.refl _ _) (by rfl)
  | rakeVisit q changed => exact execRakeVisit_touches q changed s (Touches.refl _ _) (by rfl)
  | moveIntervalEnd q => exact execMoveIntervalEnd_touches q s (Touches.refl _ _) (by rfl)
  | hedgeStage c => exact execHedgeStage_touches c s (Touches.refl _ _) (by rfl)
  | hedgeFlip c => exact execHedgeFlip_touches c s (Touches.refl _ _) (by rfl)
  | hedgeShadowCopyDone q => exact execHedgeShadowCopyDone_touches q s (Touches.refl _ _) (by rfl)
  | hedgeRead c => exact execHedgeRead_touches c s (Touches.refl _ _) (by rfl)
  | hedgePinholeList c => exact execHedgePinholeList_touches c s (Touches.refl _ _) (by rfl)
  | hedgePinholeClose c => exact execHedgePinholeClose_touches c s (Touches.refl _ _) (by rfl)
  | hedgePinholeCloseAll c => exact execHedgePinholeCloseAll_touches c s (Touches.refl _ _) (by rfl)
  | hedgePinholeOpen c => exact execHedgePinholeOpen_touches c s (Touches.refl _ _) (by rfl)
  | pinholeSweep hit => exact execPinholeSweep_touches hit s (Touches.refl _ _) (by rfl)
  | timeStep c => exact execTimeStep_touches c s (Touches.refl _ _) (by rfl)
  | timeRate c => exact execTimeRate_touches c s (Touches.refl _ _) (by rfl)
  | timePulseArm c => exact execTimePulseArm_touches c s (Touches.refl _ _) (by rfl)
  | timeEffectTick d => exact execTimeEffectTick_touches d s (Touches.refl _ _) (by rfl)
  | timeAdjEnd d => exact execTimeAdjEnd_touches d s (Touches.refl _ _) (by rfl)
  | pulseLeadingEdge pin => exact execPulseLeadingEdge_touches pin s (Touches.refl _ _) (by rfl)
  | pulseTrailingEdge pin => exact execPulseTrailingEdge_touches pin s (Touches.refl _ _) (by rfl)
  | timeInCapture pin falling late held => exact execTimeInCapture_touches pin falling late held s (Touches.refl _ _) (by rfl)
  | timeCaptureEvent pin => exact execTimeCaptureEvent_touches pin s (Touches.refl _ _) (by rfl)
  | shutterStage c => exact execShutterStage_touches c s (Touches.refl _ _) (by rfl)
  | shutterFlip c => exact execShutterFlip_touches c s (Touches.refl _ _) (by rfl)
  | shutterFlipTime p => exact execShutterFlipTime_touches p s (Touches.refl _ _) (by rfl)
  | shutterShadowCopyDone p => exact execShutterShadowCopyDone_touches p s (Touches.refl _ _) (by rfl)
  | shutterRead c => exact execShutterRead_touches c s (Touches.refl _ _) (by rfl)
  | gateEntryChange p => exact execGateEntryChange_touches p s (Touches.refl _ _) (by rfl)
  | preemptVerifyResult p ok => exact execPreemptVerifyResult_touches p ok s (Touches.refl _ _) (by rfl)
  | pfcReceived p enable quanta => exact execPfcReceived_touches p enable quanta s (Touches.refl _ _) (by rfl)
  | pfcPauseExpiry p c => exact execPfcPauseExpiry_touches p c s (Touches.refl _ _) (by rfl)
  | pfcPauseStuck p c => exact execPfcPauseStuck_touches p c s (Touches.refl _ _) (by rfl)
  | pfcRefresh p => exact execPfcRefresh_touches p s (Touches.refl _ _) (by rfl)
  | energyEmpty => exact execEnergyEmpty_touches s (Touches.refl _ _) (by rfl)
  | thermalSensorRead q0 q1 q2 q3 centre => exact execThermalSensorRead_touches q0 q1 q2 q3 centre s (Touches.refl _ _) (by rfl)
  | laneWakeTimer p => exact execLaneWakeTimer_touches p s (Touches.refl _ _) (by rfl)
  | laneReady p => exact execLaneReady_touches p s (Touches.refl _ _) (by rfl)
  | histogramSample => exact execHistogramSample_touches s (Touches.refl _ _) (by rfl)
  | admitRequest c => exact execAdmitRequest_touches c s (Touches.refl _ _) (by rfl)
  | admitCommit c => exact execAdmitCommit_touches c s (Touches.refl _ _) (by rfl)
  | admitWithdraw c => exact execAdmitWithdraw_touches c s (Touches.refl _ _) (by rfl)
  | admitQuery c => exact execAdmitQuery_touches c s (Touches.refl _ _) (by rfl)
  | admitImage c image => exact execAdmitImage_touches c image s (Touches.refl _ _) (by rfl)
  | admitMessage p m => exact execAdmitMessage_touches p m s (Touches.refl _ _) (by rfl)
  | admitTimeout h => exact execAdmitTimeout_touches h s (Touches.refl _ _) (by rfl)
  | rsvHoldExpiry h => exact execRsvHoldExpiry_touches h s (Touches.refl _ _) (by rfl)
  | withdrawDrained h gone => exact execWithdrawDrained_touches h gone s (Touches.refl _ _) (by rfl)
  | pathSet c => exact execPathSet_touches c s (Touches.refl _ _) (by rfl)
  | pairHandover c => exact execPairHandover_touches c s (Touches.refl _ _) (by rfl)
  | handoverFence => exact execHandoverFence_touches s (Touches.refl _ _) (by rfl)
  | heartbeatSend => exact execHeartbeatSend_touches s (Touches.refl _ _) (by rfl)
  | heartbeatReceived hb => exact execHeartbeatReceived_touches hb s (Touches.refl _ _) (by rfl)
  | peerLost => exact execPeerLost_touches s (Touches.refl _ _) (by rfl)
  | fenceWaitExpiry => exact execFenceWaitExpiry_touches s (Touches.refl _ _) (by rfl)
  | fenceLineLow own held => exact execFenceLineLow_touches own held s (Touches.refl _ _) (by rfl)
  | fenceLineHigh own held => exact execFenceLineHigh_touches own held s (Touches.refl _ _) (by rfl)
  | checkpointSend => exact execCheckpointSend_touches s (Touches.refl _ _) (by rfl)
  | checkpointReceived ck bad => exact execCheckpointReceived_touches ck bad s (Touches.refl _ _) (by rfl)
  | takeoverRestoreDone => exact execTakeoverRestoreDone_touches s (Touches.refl _ _) (by rfl)
  | busFenceElapsed => exact execBusFenceElapsed_touches s (Touches.refl _ _) (by rfl)
  | gwStage c => exact execGwStage_touches c s (Touches.refl _ _) (by rfl)
  | gwFlip c => exact execGwFlip_touches c s (Touches.refl _ _) (by rfl)
  | gwShadowCopyDone => exact execGwShadowCopyDone_touches s (Touches.refl _ _) (by rfl)
  | gwRead c => exact execGwRead_touches c s (Touches.refl _ _) (by rfl)
  | gwImageRead c => exact execGwImageRead_touches c s (Touches.refl _ _) (by rfl)
  | gwImageWrite c => exact execGwImageWrite_touches c s (Touches.refl _ _) (by rfl)
  | gwImageSend c => exact execGwImageSend_touches c s (Touches.refl _ _) (by rfl)
  | gwBusSelectTable c => exact execGwBusSelectTable_touches c s (Touches.refl _ _) (by rfl)
  | gwBusRecover c => exact execGwBusRecover_touches c s (Touches.refl _ _) (by rfl)
  | gwBusSetMode c => exact execGwBusSetMode_touches c s (Touches.refl _ _) (by rfl)
  | gwBusPocCommand c => exact execGwBusPocCommand_touches c s (Touches.refl _ _) (by rfl)
  | signalPeriodTrigger ix => exact execSignalPeriodTrigger_touches ix s (Touches.refl _ _) (by rfl)
  | signalDeferredSend ix => exact execSignalDeferredSend_touches ix s (Touches.refl _ _) (by rfl)
  | signalTimeoutTick => exact execSignalTimeoutTick_touches s (Touches.refl _ _) (by rfl)
  | canTxAttemptEnd p r w => exact execCanTxAttemptEnd_touches p r w s (Touches.refl _ _) (by rfl)
  | busOffDelayExpiry p => exact execBusOffDelayExpiry_touches p s (Touches.refl _ _) (by rfl)
  | busOffRecovered p => exact execBusOffRecovered_touches p s (Touches.refl _ _) (by rfl)
  | linSlotEnd p r w => exact execLinSlotEnd_touches p r w s (Touches.refl _ _) (by rfl)
  | flexraySlot slot cycle w => exact execFlexraySlot_touches slot cycle w s (Touches.refl _ _) (by rfl)
  | keyLoadBlob c flash => exact execKeyLoadBlob_touches c flash s (Touches.refl _ _) (by rfl)
  | keyReplace c flash => exact execKeyReplace_touches c flash s (Touches.refl _ _) (by rfl)
  | keyVerifyCommit c => exact execKeyVerifyCommit_touches c s (Touches.refl _ _) (by rfl)
  | keyCommitRecordWritten n ok => exact execKeyCommitRecordWritten_touches n ok s (Touches.refl _ _) (by rfl)
  | keyDeriveKdf c flash => exact execKeyDeriveKdf_touches c flash s (Touches.refl _ _) (by rfl)
  | keyDeriveRandom c flash => exact execKeyDeriveRandom_touches c flash s (Touches.refl _ _) (by rfl)
  | keyExport c => exact execKeyExport_touches c s (Touches.refl _ _) (by rfl)
  | cryptoGcmEncrypt c data => exact execCryptoGcmEncrypt_touches c data s (Touches.refl _ _) (by rfl)
  | cryptoGcmDecrypt c data => exact execCryptoGcmDecrypt_touches c data s (Touches.refl _ _) (by rfl)
  | cryptoCmacGenerate c data => exact execCryptoCmacGenerate_touches c data s (Touches.refl _ _) (by rfl)
  | cryptoCmacVerify c data => exact execCryptoCmacVerify_touches c data s (Touches.refl _ _) (by rfl)
  | cryptoSha384 c data => exact execCryptoSha384_touches c data s (Touches.refl _ _) (by rfl)
  | cryptoEcdsaVerify c data => exact execCryptoEcdsaVerify_touches c data s (Touches.refl _ _) (by rfl)
  | cryptoCmacFreshGenerate c data => exact execCryptoCmacFreshGenerate_touches c data s (Touches.refl _ _) (by rfl)
  | cryptoCmacFreshVerify c data => exact execCryptoCmacFreshVerify_touches c data s (Touches.refl _ _) (by rfl)
  | macsecSaInstall c => exact execMacsecSaInstall_touches c s (Touches.refl _ _) (by rfl)
  | macsecSaRemove c => exact execMacsecSaRemove_touches c s (Touches.refl _ _) (by rfl)
  | macsecSaTxCommit c => exact execMacsecSaTxCommit_touches c s (Touches.refl _ _) (by rfl)
  | macsecSaRead c => exact execMacsecSaRead_touches c s (Touches.refl _ _) (by rfl)
  | trngHealthFail kind => exact execTrngHealthFail_touches kind s (Touches.refl _ _) (by rfl)
  | cryLockIdleExpiry => exact execCryLockIdleExpiry_touches s (Touches.refl _ _) (by rfl)
  | fabDigestQuery c => exact execFabDigestQuery_touches c s (Touches.refl _ _) (by rfl)
  | fabReset c => exact execFabReset_touches c s (Touches.refl _ _) (by rfl)
  | transomClearErr c => exact execTransomClearErr_touches c s (Touches.refl _ _) (by rfl)
  | helloSend => exact execHelloSend_touches s (Touches.refl _ _) (by rfl)
  | helloReceived p h => exact execHelloReceived_touches p h s (Touches.refl _ _) (by rfl)
  | helloMissExpiry p => exact execHelloMissExpiry_touches p s (Touches.refl _ _) (by rfl)
  | fabricLinkDown p => exact execFabricLinkDown_touches p s (Touches.refl _ _) (by rfl)
  | linkStateSend => exact execLinkStateSend_touches s (Touches.refl _ _) (by rfl)
  | linkStateReceived p l => exact execLinkStateReceived_touches p l s (Touches.refl _ _) (by rfl)
  | gossipSend => exact execGossipSend_touches s (Touches.refl _ _) (by rfl)
  | gossipReceived p g => exact execGossipReceived_touches p g s (Touches.refl _ _) (by rfl)
  | coordSend => exact execCoordSend_touches s (Touches.refl _ _) (by rfl)
  | coordReceived p m => exact execCoordReceived_touches p m s (Touches.refl _ _) (by rfl)
  | coordTimeout => exact execCoordTimeout_touches s (Touches.refl _ _) (by rfl)
  | sizeModeSwitch => exact execSizeModeSwitch_touches s (Touches.refl _ _) (by rfl)
  | pathsMessage p dst m => exact execPathsMessage_touches p dst m s (Touches.refl _ _) (by rfl)
  | withdrawReceived p sender drainLimit => exact execWithdrawReceived_touches p sender drainLimit s (Touches.refl _ _) (by rfl)
  | digestMessage p src dst m => exact execDigestMessage_touches p src dst m s (Touches.refl _ _) (by rfl)
  | resetMessage p src dst m => exact execResetMessage_touches p src dst m s (Touches.refl _ _) (by rfl)
  | imgBegin c => exact execImgBegin_touches c s (Touches.refl _ _) (by rfl)
  | imgBlock c block => exact execImgBlock_touches c block s (Touches.refl _ _) (by rfl)
  | imgEnd c flashErr => exact execImgEnd_touches c flashErr s (Touches.refl _ _) (by rfl)
  | imgActivate c => exact execImgActivate_touches c s (Touches.refl _ _) (by rfl)
  | activationWatchdog => exact execActivationWatchdog_touches s (Touches.refl _ _) (by rfl)
  | firmwareFallback version => exact execFirmwareFallback_touches version s (Touches.refl _ _) (by rfl)
  | trialConfirm => exact execTrialConfirm_touches s (Touches.refl _ _) (by rfl)
  | supWindowClose a b c priv => exact execSupWindowClose_touches a b c priv s (Touches.refl _ _) (by rfl)
  | supLateCore core => exact execSupLateCore_touches core s (Touches.refl _ _) (by rfl)
  | supResyncDone => exact execSupResyncDone_touches s (Touches.refl _ _) (by rfl)
  | supRestartDone fail badA badB => exact execSupRestartDone_touches fail badA badB s (Touches.refl _ _) (by rfl)
  | graceExpiry g ok => exact execGraceExpiry_touches g ok s (Touches.refl _ _) (by rfl)
  | portWakeDetect p alt held => exact execPortWakeDetect_touches p alt held s (Touches.refl _ _) (by rfl)
  | wakeInDetect n level held => exact execWakeInDetect_touches n level held s (Touches.refl _ _) (by rfl)
  | portStateReached p => exact execPortStateReached_touches p s (Touches.refl _ _) (by rfl)
  | portStateForced p => exact execPortStateForced_touches p s (Touches.refl _ _) (by rfl)
  | wakeHoldTick => exact execWakeHoldTick_touches s (Touches.refl _ _) (by rfl)
  | netSleepVote c => exact execNetSleepVote_touches c s (Touches.refl _ _) (by rfl)
  | sleepVoteSend => exact execSleepVoteSend_touches s (Touches.refl _ _) (by rfl)
  | sleepMessageReceived p m => exact execSleepMessageReceived_touches p m s (Touches.refl _ _) (by rfl)
  | sleepSettleExpiry => exact execSleepSettleExpiry_touches s (Touches.refl _ _) (by rfl)
  | sleepCommitTime => exact execSleepCommitTime_touches s (Touches.refl _ _) (by rfl)
  | sleepStateRetry => exact execSleepStateRetry_touches s (Touches.refl _ _) (by rfl)
  | idleEntryTimer => exact execIdleEntryTimer_touches s (Touches.refl _ _) (by rfl)
  | pwrRequestState c => exact execPwrRequestState_touches c s (Touches.refl _ _) (by rfl)
  | stateEntryCommit => exact execStateEntryCommit_touches s (Touches.refl _ _) (by rfl)
  | exitTrigger cause => exact execExitTrigger_touches cause s (Touches.refl _ _) (by rfl)
  | islandRampDone => exact execIslandRampDone_touches s (Touches.refl _ _) (by rfl)
  | stateExitDone straps => exact execStateExitDone_touches straps s (Touches.refl _ _) (by rfl)
  | railWarningEnter r mv held => exact execRailWarningEnter_touches r mv held s (Touches.refl _ _) (by rfl)
  | railWarningExit r mv => exact execRailWarningExit_touches r mv s (Touches.refl _ _) (by rfl)
  | railResetLevel r mv => exact execRailResetLevel_touches r mv s (Touches.refl _ _) (by rfl)
  | clockLoss k => exact execClockLoss_touches k s (Touches.refl _ _) (by rfl)
  | powerOnReset torn straps rails test held => exact execPowerOnReset_touches torn straps rails test held s (Touches.refl _ _) (by rfl)
  | poresetAssert held => exact execPoresetAssert_touches held s (Touches.refl _ _) (by rfl)
  | wresetNAssert held => exact execWresetNAssert_touches held s (Touches.refl _ _) (by rfl)
  | wresetNRelease held => exact execWresetNRelease_touches held s (Touches.refl _ _) (by rfl)
  | warmReset c => exact execWarmReset_touches c s (Touches.refl _ _) (by rfl)
  | drainEnd => exact execDrainEnd_touches s (Touches.refl _ _) (by rfl)
  | drainLimitExpiry => exact execDrainLimitExpiry_touches s (Touches.refl _ _) (by rfl)
  | fnQuiesceFlip c => exact execFnQuiesceFlip_touches c s (Touches.refl _ _) (by rfl)
  | fnQuiesceReset c testsPass => exact execFnQuiesceReset_touches c testsPass s (Touches.refl _ _) (by rfl)
  | carvingFlipDrained => exact execCarvingFlipDrained_touches s (Touches.refl _ _) (by rfl)
  | fnResume c => exact execFnResume_touches c s (Touches.refl _ _) (by rfl)
  | cfgStore c image => exact execCfgStore_touches c image s (Touches.refl _ _) (by rfl)
  | jtagInstructionLoad code => exact execJtagInstructionLoad_touches code s (Touches.refl _ _) (by rfl)
  | dbgChallengeRead => exact execDbgChallengeRead_touches s (Touches.refl _ _) (by rfl)
  | dbgResponseLoad response => exact execDbgResponseLoad_touches response s (Touches.refl _ _) (by rfl)
  | dbgVerifyDone => exact execDbgVerifyDone_touches s (Touches.refl _ _) (by rfl)
  | dbgChallengeExpiry => exact execDbgChallengeExpiry_touches s (Touches.refl _ _) (by rfl)
  | ethernetLinkUp p rate eee => exact execEthernetLinkUp_touches p rate eee s (Touches.refl _ _) (by rfl)
  | ethernetLinkDown p => exact execEthernetLinkDown_touches p s (Touches.refl _ _) (by rfl)
  | flexrayPocStateChange poc => exact execFlexrayPocStateChange_touches poc s (Touches.refl _ _) (by rfl)
  | linHeaderReceived p id baud => exact execLinHeaderReceived_touches p id baud s (Touches.refl _ _) (by rfl)
  | tc10SleepRequest p => exact execTc10SleepRequest_touches p s (Touches.refl _ _) (by rfl)
  | gptpTimerExpiry d kind send lock => exact execGptpTimerExpiry_touches d kind send lock s (Touches.refl _ _) (by rfl)
  | quotaDiscardIntervalEnd h => exact execQuotaDiscardIntervalEnd_touches h s (Touches.refl _ _) (by rfl)
  | sidebandNotifyReceived p dst src entry value => exact execSidebandNotifyReceived_touches p dst src entry value s (Touches.refl _ _) (by rfl)
  | fabRemoteCommandTimeout => exact execFabRemoteCommandTimeout_touches s (Touches.refl _ _) (by rfl)
  | epochRecordWritten => exact execEpochRecordWritten_touches s (Touches.refl _ _) (by rfl)
  | cfgStoreDone flashErr => exact execCfgStoreDone_touches flashErr s (Touches.refl _ _) (by rfl)
  | sealedHandoverDone => exact execSealedHandoverDone_touches s (Touches.refl _ _) (by rfl)
  | activationPauseEnd => exact execActivationPauseEnd_touches s (Touches.refl _ _) (by rfl)
  | imageSlotEraseDone slot => exact execImageSlotEraseDone_touches slot s (Touches.refl _ _) (by rfl)
  | shaperEligible p => exact execShaperEligible_touches p s (Touches.refl _ _) (by rfl)
  | tapReset => exact execTapReset_touches s (Touches.refl _ _) (by rfl)

/-- Settles O6: what a row touches, in the words of Safety.lean (`Touches.onlyChanges`). -/
theorem everyCommandKeepsItsFrame : Obligations.EveryCommandKeepsItsFrame :=
  fun i s _ hnext => (TouchesR.get (exec_touches_mayChange i s) hnext).onlyChanges (Nat.or_self _)

/-- Settles O7: a tick takes nothing from an empty queue, and a command runs on the queue's rest; both keep outputs and free values (`Keeps`). -/
theorem everyStepKeepsOutputsAndQueue : Obligations.EveryStepKeepsOutputsAndQueue := by
  intro s t hstep
  cases hq : s.pending with
  | nil =>
    obtain rfl : tick s = t := by simpa [step_of_pending_nil hq] using hstep
    exact ⟨(tick_keeps s).out, (tick_keeps s).free, (tick_keeps s).pending.trans hq⟩
  | cons i rest =>
    rw [step_of_pending_cons hq] at hstep
    have hkeeps := exec_keeps hstep
    exact ⟨hkeeps.out, hkeeps.free, hkeeps.pending⟩

/-! Answers. -/

/-- A meaning that comes to a next state. -/
def Answers (r : Res) : Prop := ∃ t, r = .next t

theorem Answers.next (t : State) : Answers (.next t) := ⟨t, rfl⟩

theorem Answers.ite {p : Prop} [Decidable p] {a b : Res} (ha : Answers a) (hb : Answers b) : Answers (if p then a else b) := by
  split <;> assumption

/-- Every row but the training of a link comes to a next state: most are one outright, and the others are conditions and cases whose every end is
one. -/
theorem exec_answers {i : Instr} (hrow : ∀ p rate eee, i ≠ .ethernetLinkUp p rate eee) (s : State) : Answers (exec i s) := by
  cases i with (simp only [exec])
  | ethernetLinkUp p rate eee => exact absurd rfl (hrow p rate eee)
  | learnRequest _ | recoveryCopy | batchAdd | egressSelect _ _ | hostWakeHint _ _ | hostFlr _ | pcieLinkDown _ | registerWrite _ _ _ _
  | unmappedRead _ _ _ _ | counterLowRead _ _ _ _ | timeInLastNsRead _ _ | fwdEnSet _ | hostFailsafeWrst | hostFailsafeFence | bufBdSnapshot _ _
  | bufDbgRelease _ _ | bufSillWrite _ _ _ | maxLenWrite _ _ _ | domainNumberWrite _ _ _ | canBitTimingWrite _ _ _ _ | flexrayConfigWrite _ _ _
  | macsecEnableWrite _ _ _ | timeSnapTake _ | egrHistSnapshot _ _ | pathSnapshot _ _ | keySlotSnapshot _ _ | fltHistSnapshot _ _ | fltAck _ _
  | fltFirstClear _ _ | supRestart _ _ | cryLockTake _ | cryLockRelease _ | transomLock _ _ _ | transomUnlock _ _ | tblSearch _ | tblNext _
  | tblInsert _ | tblDelete _ | tblFlushPort _ | tblRehash _ | tblPin _ | hedgeShadowCopyDone _ | timeStep _ | timeRate _ | timePulseArm _
  | shutterStage _ | shutterFlip _ | shutterShadowCopyDone _ | shutterRead _ | laneReady _ | histogramSample | admitRequest _ | admitCommit _
  | admitWithdraw _ | admitQuery _ | pairHandover _ | gwStage _ | gwShadowCopyDone | gwRead _ | gwImageRead _ | gwImageWrite _ | gwImageSend _
  | gwBusSelectTable _ | gwBusRecover _ | gwBusSetMode _ | gwBusPocCommand _ | keyExport _ | cryptoGcmEncrypt _ _ | cryptoGcmDecrypt _ _
  | cryptoCmacGenerate _ _ | cryptoCmacVerify _ _ | cryptoSha384 _ _ | cryptoEcdsaVerify _ _ | cryptoCmacFreshGenerate _ _
  | cryptoCmacFreshVerify _ _ | macsecSaInstall _ | macsecSaRemove _ | macsecSaTxCommit _ | macsecSaRead _ | trngHealthFail _ | fabDigestQuery _
  | fabReset _ | transomClearErr _ | portWakeDetect _ _ _ | wakeInDetect _ _ _ | portStateReached _ | portStateForced _ | netSleepVote _
  | islandRampDone | poresetAssert _ | wresetNAssert _ | warmReset _ | fnResume _ | flexrayPocStateChange _ | tc10SleepRequest _
  | epochRecordWritten | imageSlotEraseDone _ | shaperEligible _ | tapReset =>
    exact .next _
  | _ =>
    delta execEthernetFrameReceived execLegacyPduReceived execPipelineFrame execSkewTick execBatchTick execFrameDepart execSvFrameTake
      execHostRxDeliver execEventWrite execMsixTimeFire execDoorbellPollTimer execDoorbellSlotRead execDoorbellReread execTxqDescriptor
      execCmdqFetch execDmaError execRingEnable execRingStop execRingStoppingDone execBusMasterDisable execPcieLinkUp execSpiWriteFrame
      execSpiReadFrame execSpiStatusFrame execSpiFrameError execTransomRead execTransomWrite execTransomAnswer execTransomRetransmit
      execTransomReadTimeout execTransomFarRequest execTransomLockRequest execTransomLockBackoff execTransomLockExpiry execSidebandPoll
      execRehashCheckDone execRehashCopyDone execRakeVisit execMoveIntervalEnd execHedgeStage execHedgeFlip execHedgeRead execHedgePinholeList
      execHedgePinholeClose execHedgePinholeCloseAll execHedgePinholeOpen execPinholeSweep execTimeEffectTick execTimeAdjEnd execPulseLeadingEdge
      execPulseTrailingEdge execTimeInCapture execTimeCaptureEvent execShutterFlipTime execGateEntryChange execPreemptVerifyResult execPfcReceived
      execPfcPauseExpiry execPfcPauseStuck execPfcRefresh execEnergyEmpty execThermalSensorRead execLaneWakeTimer execAdmitImage execAdmitMessage
      execAdmitTimeout execRsvHoldExpiry execWithdrawDrained execPathSet execHandoverFence execHeartbeatSend execHeartbeatReceived execPeerLost
      execFenceWaitExpiry execFenceLineLow execFenceLineHigh execCheckpointSend execCheckpointReceived execTakeoverRestoreDone execBusFenceElapsed
      execGwFlip execSignalPeriodTrigger execSignalDeferredSend execSignalTimeoutTick execCanTxAttemptEnd execBusOffDelayExpiry execBusOffRecovered
      execLinSlotEnd execFlexraySlot execKeyLoadBlob execKeyReplace execKeyVerifyCommit execKeyCommitRecordWritten execKeyDeriveKdf
      execKeyDeriveRandom execCryLockIdleExpiry execHelloSend execHelloReceived execHelloMissExpiry execFabricLinkDown execLinkStateSend
      execLinkStateReceived execGossipSend execGossipReceived execCoordSend execCoordReceived execCoordTimeout execSizeModeSwitch execPathsMessage
      execWithdrawReceived execDigestMessage execResetMessage execImgBegin execImgBlock execImgEnd execImgActivate execActivationWatchdog
      execFirmwareFallback execTrialConfirm execSupWindowClose execSupLateCore execSupResyncDone execSupRestartDone execGraceExpiry execWakeHoldTick
      execSleepVoteSend execSleepMessageReceived execSleepSettleExpiry execSleepCommitTime execSleepStateRetry execIdleEntryTimer
      execPwrRequestState execStateEntryCommit execExitTrigger execStateExitDone execRailWarningEnter execRailWarningExit execRailResetLevel
      execClockLoss execPowerOnReset execWresetNRelease execDrainEnd execDrainLimitExpiry execFnQuiesceFlip execFnQuiesceReset
      execCarvingFlipDrained execCfgStore execJtagInstructionLoad execDbgChallengeRead execDbgResponseLoad execDbgVerifyDone execDbgChallengeExpiry
      execEthernetLinkDown execLinHeaderReceived execGptpTimerExpiry execQuotaDiscardIntervalEnd execSidebandNotifyReceived
      execFabRemoteCommandTimeout execCfgStoreDone execSealedHandoverDone execActivationPauseEnd hedgeCommand fnCommand
    repeat' first
      | with_reducible exact .next _
      | with_reducible refine .ite ?_ ?_
      | (extract_lets; clear_value *)
      | split

/-- A link that would train at a rate that its port kind does not have stops the run where it would train; any other answers. -/
theorem exec_ethernetLinkUp_answers (p : Port) (rate : Nat) (eee : Bool) (s : State) :
    Answers (exec (.ethernetLinkUp p rate eee) s) ∨ rateOfPort p.val rate = false ∧ exec (.ethernetLinkUp p rate eee) s = .fault .illFormed := by
  change Answers (execEthernetLinkUp p rate eee s) ∨ _ ∧ execEthernetLinkUp p rate eee s = _
  unfold execEthernetLinkUp
  split
  case isTrue => exact .inl (.next _)
  case isFalse =>
    cases hrate : rateOfPort p.val rate with
    | true => exact .inl (.next _)
    | false => exact .inr ⟨rfl, rfl⟩

/-- Settles O8: every row but one answers (`exec_answers`), and the training of a link does so or has a wrong rate. -/
theorem everyCommandAnswers : Obligations.EveryCommandAnswers := by
  intro i s
  by_cases hrow : ∀ p rate eee, i ≠ .ethernetLinkUp p rate eee
  · exact .inl (exec_answers hrow s)
  · push Not at hrow
    obtain ⟨p, rate, eee, rfl⟩ := hrow
    exact (exec_ethernetLinkUp_answers p rate eee s).imp_right fun ⟨hrate, hfault⟩ => ⟨p, rate, eee, rfl, hrate, hfault⟩

end Sys2Proof.Machine
end

section
/-! Proofs: the key store: keys that are loaded, replaced, derived, committed and exported, and the uses that hold them. -/

namespace Sys2Proof.Machine

/-- The start of a command leaves the key store as it is. -/
@[simp] theorem markStarted_keys (c : CmdCtx) (op : Nat) (s : State) : (markStarted c op s).keys = s.keys :=
  (markStarted_touches (M := 0x80000c0) c op s (Touches.refl _ _) rfl).agree.keys (by decide)

theorem saRefs_markStarted (c : CmdCtx) (op : Nat) (s : State) (n : Nat) : saRefs (markStarted c op s) n = saRefs s n := by
  rw [saRefs, saRefs, markStarted_keys]

section command

variable {c : CmdCtx} {flash : Bool} {s : State}

/-! Keys that come in wrapped (R434, R435, R440). -/

theorem exec_keyLoadBlob_opened {k : NewKey} (hrun : mayRun c 0x0901 s) (hfree : loadHeld s (byteAt c.par 1) = false)
    (hkey : loadSource (markStarted c 0x0901 s) c = .inr k) :
    exec (.keyLoadBlob c flash) s = .next (finishLoad c 0x0901 (byteAt c.par 1) flash k (markStarted c 0x0901 s)) := by
  refine (if_neg (Bool.eq_false_iff.mp hfree)).trans (congrArg _ ((command_run hrun _).trans ?_))
  simp only [hkey]

section replace

variable {k : NewKey} (hrun : mayRun c 0x0902 s) (hfree : loadHeld s (byteAt c.par 1) = false)
  (hkey : loadSource (markStarted c 0x0902 s) c = .inr k)
include hrun hfree hkey

/-- A replacement needs an active key in its slot, and no SA that refers to it. -/
theorem exec_keyReplace_opened : let u := markStarted c 0x0902 s
    exec (.keyReplace c flash) s = .next (if (u.slot (byteAt c.par 1)).act.isNone || saRefs u (byteAt c.par 1) ≠ 0 then complete c 0x0902 stState [] u
      else finishLoad c 0x0902 (byteAt c.par 1) flash k u) := by
  refine (if_neg (Bool.eq_false_iff.mp hfree)).trans (congrArg _ ((command_run hrun _).trans ?_))
  simp only [hkey]

theorem exec_keyReplace_referred (hrefs : saRefs s (byteAt c.par 1) ≠ 0) :
    exec (.keyReplace c flash) s = .next (complete c 0x0902 stState [] (markStarted c 0x0902 s)) :=
  (exec_keyReplace_opened hrun hfree hkey).trans (congrArg _ (if_pos (by simp [saRefs_markStarted, hrefs])))

theorem exec_keyReplace_replaced (hact : ((markStarted c 0x0902 s).slot (byteAt c.par 1)).act ≠ none)
    (hrefs : saRefs (markStarted c 0x0902 s) (byteAt c.par 1) = 0) :
    exec (.keyReplace c flash) s = .next (finishLoad c 0x0902 (byteAt c.par 1) flash k (markStarted c 0x0902 s)) :=
  (exec_keyReplace_opened hrun hfree hkey).trans (congrArg _ (if_neg (by simp [hact, hrefs])))

end replace

/-! The commit (R438, R439). -/

/-- A slot that a lookaside job uses holds the commit back (R440). -/
theorem exec_keyVerifyCommit_busy (hbusy : slotBusy s (byteAt c.par 0) = true) : exec (.keyVerifyCommit c) s = .next s :=
  if_pos (by simp [commitWaits, hbusy])

/-- The pending key's check value is compared: on a match the commit record is written, else the key is dropped. -/
theorem exec_keyVerifyCommit_compared {k : KeyHalf} (hrun : mayRun c 0x0903 s) (hfree : commitWaits s (byteAt c.par 0) = false)
    (hlen : plenIs c 16 = true) (hslot : byteAt c.par 0 ≠ 0) (hzero : parZero c 1 8 = true)
    (hpend : ((markStarted c 0x0903 s).slot (byteAt c.par 0)).pend = some k) (hrefs : saRefs (markStarted c 0x0903 s) (byteAt c.par 0) = 0) :
    let u := markStarted c 0x0903 s
    let n := byteAt c.par 0
    let v := u.setSlot n { u.slot n with checked := true }
    exec (.keyVerifyCommit c) s = .next (if kcv k.key ≠ slice c.par 8 8 then
        complete c 0x0903 stState [] (u.setSlot n { u.slot n with pend := none, checked := false })
      else { v with keys := { v.keys with writing := kput v.keys.writing n c } }) := by
  refine (if_neg (Bool.eq_false_iff.mp hfree)).trans (congrArg _ ((command_run hrun _).trans ?_))
  simp [hlen, hslot, hzero, hpend, hrefs]

/-! Derived keys (R434, R437). -/

theorem exec_keyDeriveKdf_free (hfree : loadHeld s (byteAt c.par 2) = false) : exec (.keyDeriveKdf c flash) s = .next (keyDerive c flash s) :=
  if_neg (Bool.eq_false_iff.mp hfree)

theorem exec_keyDeriveRandom_free (hfree : loadHeld s (byteAt c.par 2) = false) : exec (.keyDeriveRandom c flash) s = .next (keyDerive c flash s) :=
  if_neg (Bool.eq_false_iff.mp hfree)

section derive

variable (hrun : mayRun c 0x0906 s) (hok : deriveOk c = true)
include hrun hok

theorem keyDerive_referred (hrefs : saRefs s (byteAt c.par 2) ≠ 0) :
    keyDerive c flash s = complete c 0x0906 stState [] (markStarted c 0x0906 s) := by
  have htarget : deriveTarget (markStarted c 0x0906 s) c = false := by simp [deriveTarget, saRefs_markStarted, hrefs]
  exact (command_run hrun _).trans ((if_neg (by simp [hok])).trans (if_pos (by simp [htarget])))

variable (htarget : deriveTarget (markStarted c 0x0906 s) c = true)
include htarget

theorem keyDerive_kdf {k : Bytes} (hop : byteAt c.par 0 = 0) (hkey : keyFor (markStarted c 0x0906 s) (byteAt c.par 1) 3 = some k) :
    keyDerive c flash s = finishLoad c 0x0906 (byteAt c.par 2) flash
      { attr := byteAt c.par 3 % 4, half := derivedKey (markStarted c 0x0906 s) c k } (markStarted c 0x0906 s) := by
  refine (command_run hrun _).trans ?_
  simp [hok, htarget, hop, hkey]

theorem keyDerive_random (hop : byteAt c.par 0 = 1) (hrandom : trngOk (markStarted c 0x0906 s) = true) :
    keyDerive c flash s = finishLoad c 0x0906 (byteAt c.par 2) flash
      { attr := byteAt c.par 3 % 4,
        half := { key := freeBytes (markStarted c 0x0906 s).free (byteAt c.par 4), exportable := bit (byteAt c.par 3) 7 } }
      ((markStarted c 0x0906 s).drewN (byteAt c.par 4)) := by
  refine (command_run hrun _).trans ?_
  simp [hok, htarget, hop, hrandom]

end derive

/-! Export (R435). -/

theorem exec_keyExport_wrapped {h : KeyHalf} {kek : Bytes} (hrun : mayRun c 0x0907 s) (hlen : plenIs c 8 = true) (hzero : parZero c 2 8 = true)
    (hslot : byteAt c.par 0 ≠ 0) (hact : ((markStarted c 0x0907 s).slot (byteAt c.par 0)).act = some h)
    (hkek : keyFor (markStarted c 0x0907 s) (byteAt c.par 1) 2 = some kek) (hexport : h.exportable = true)
    (hrandom : trngOk (markStarted c 0x0907 s) = true) :
    let u := markStarted c 0x0907 s
    let n := byteAt c.par 0
    let w := byteAt c.par 1
    exec (.keyExport c) s = .next (complete c 0x0907 stOk (makeBlob kek w ((u.slot w).act.any (fun k => k.bound.isSome)) ((u.slot n).attr.getD 0) h
      (freeBytes u.free 12)) (u.drewN 12)) := by
  refine congrArg _ ((command_run hrun _).trans ?_)
  simp [hlen, hzero, hslot, hact, hkek, hexport, hrandom]

end command

/-! The commit record (R441). -/

/-- A slot whose pending key serves from now on. -/
def Slot.committed (x : Slot) : Slot :=
  { x with act := x.pend, blob := x.pend, pend := none, checked := false, half := 1 - x.half, gen := (x.gen + 1) % 2 ^ 32, hand := none }

theorem exec_keyCommitRecordWritten_writing {n : Nat} {c : CmdCtx} {s : State} (hwriting : kget s.keys.writing n = some c) (ok : Bool) :
    let u := (handleIf 0x090A s).setSlot n (s.slot n).committed
    exec (.keyCommitRecordWritten n ok) s =
      if ok then .next (complete c 0x0903 stOk (toLe 4 (((s.slot n).gen + 1) % 2 ^ 32)) { u with keys := { u.keys with writing := kdel u.keys.writing n } })
      else .next (raise 0x090A 2 (evPay [(16, 1, n), (17, 1, 1)]) s) := by
  change execKeyCommitRecordWritten n ok s = _
  simp only [execKeyCommitRecordWritten, hwriting]
  cases ok <;> rfl

/-- Settles O19: a refused command fails the check of its slot, which an SA that refers to it decides, and a busy slot holds the commit back. -/
theorem keyCommandsRespectTheUseOfTheirSlot : Obligations.KeyCommandsRespectTheUseOfTheirSlot := by
  intro c flash s
  refine ⟨fun k hrun hfree hkey hrefs => exec_keyReplace_referred hrun hfree hkey hrefs, fun hrun hfree hok hrefs => ?derive,
    exec_keyVerifyCommit_busy⟩
  case derive =>
    have hderive : keyDerive c flash s = _ := keyDerive_referred hrun hok hrefs
    exact ⟨(exec_keyDeriveKdf_free hfree).trans (congrArg _ hderive), (exec_keyDeriveRandom_free hfree).trans (congrArg _ hderive)⟩

/-- Settles O45: each command whose checks pass is the end of its body, by the lemma of its operation. -/
theorem keysAreLoadedCommittedDerivedAndExported : Obligations.KeysAreLoadedCommittedDerivedAndExported := by
  refine ⟨fun c s => ⟨fun k flash => exec_keyLoadBlob_opened, fun k flash => exec_keyReplace_replaced, ?commit, ?derive, ?wrap⟩, ?record,
    fun kind s => rfl⟩
  case commit =>
    intro k u n hrun hfree hlen hslot hzero hpend hrefs v
    have hrow := exec_keyVerifyCommit_compared hrun hfree hlen hslot hzero hpend hrefs
    exact ⟨fun hmatch => hrow.trans (congrArg _ (if_neg (not_not.mpr hmatch))), fun hdiffers => hrow.trans (congrArg _ (if_pos hdiffers))⟩
  case derive =>
    intro flash u n hrun hfree hok htarget
    exact ⟨fun k hop hkey => (exec_keyDeriveKdf_free hfree).trans (congrArg _ (keyDerive_kdf hrun hok htarget hop hkey)),
      fun hop hrandom => (exec_keyDeriveRandom_free hfree).trans (congrArg _ (keyDerive_random hrun hok htarget hop hrandom))⟩
  case wrap =>
    intro h kek u n w hrun hlen hzero hslot hact hkek hexport hrandom
    exact exec_keyExport_wrapped hrun hlen hzero hslot hact hkek hexport hrandom
  case record =>
    intro n c s hwriting
    exact ⟨exec_keyCommitRecordWritten_writing hwriting true, exec_keyCommitRecordWritten_writing hwriting false⟩

end Sys2Proof.Machine
end

section
/-! Proofs: what an event does by its class. -/

namespace Sys2Proof.Machine

/-! Reading back. -/

/-- What a key holds after a value has been put there. -/
theorem kget_kput {α : Type} (m : Keyed α) (i j : Nat) (x : α) : kget (kput m i x) j = if j = i then some x else kget m j := by
  induction m with
  | nil => simp [kput, kget, eq_comm]
  | cons e r ih =>
    obtain ⟨k, v⟩ := e
    unfold kput
    split_ifs <;> simp only [kget, ih] <;> split_ifs <;> first | rfl | omega

/-- What a counter reads after an addition, to that counter or to another. -/
theorem ctr_bumpBy_same {s : State} (hwf : Ctrs.wf s.ctrs = true) (a n : Nat) : (s.bumpBy a n).ctr a = ctrAdd a (s.ctr a) n := by
  rw [State.ctr, kgetD, State.bumpBy_ctrs, kget_kset_same (ctrs_wf_iff.mp hwf).1]
  split_ifs with hzero
  · exact hzero.symm
  · rfl

theorem ctr_bumpBy_other {s : State} {a b n : Nat} (hne : b ≠ a) : (s.bumpBy a n).ctr b = s.ctr b := by
  rw [State.ctr, kgetD, State.bumpBy_ctrs, kget_kset_other hne, State.ctr, kgetD]

/-! The fault registers (R513). -/

/-- The entry that an event gets in the history. -/
def histEntry (code cls : Nat) (pay : Bytes) (t : Nat) (lost : Bool) (s : State) : HistEntry :=
  { entry := eventEntry s (if Config.histHost % 2 = 0 then 0 else 1) code cls pay t, routedHA := s.evRouted 0 (code / 256),
    routedHB := s.evRouted 1 (code / 256), lost := lost, number := s.flt.number }

/-- The history takes the entry of an event. -/
def FltSt.noted (e : HistEntry) (f : FltSt) : FltSt := { f with hist := (e :: f.hist).take 16, number := (f.number + 1) % 65536 }

/-- The first event of F1 to F3 is captured. -/
def FltSt.captured (cls : Nat) (e : HistEntry) (f : FltSt) : FltSt :=
  { f with first := if cls ≠ 0 ∧ f.first = none then some e else f.first }

/-- F2 starts the grace timer of its group unless it runs. -/
def FltSt.timed (g cls due : Nat) (e : Entry) (f : FltSt) : FltSt :=
  if cls = 2 ∧ kget f.grace g = none then { f with grace := kput f.grace g due, unhandled := kput f.unhandled g e } else f

/-- F3 stops the device. -/
def FltSt.stopped (cls : Nat) (f : FltSt) : FltSt := { f with f3 := f.f3 || decide (cls = 3) }

theorem FltSt.captured_eq (cls : Nat) (e : HistEntry) (f : FltSt) :
    (if (decide (cls ≠ 0) && decide (f.first = none)) = true then { f with first := some e } else f) = f.captured cls e := by
  by_cases h : cls ≠ 0 ∧ f.first = none <;> simp [captured, h]

theorem FltSt.timed_eq (g cls due : Nat) (e : Entry) (f : FltSt) :
    (if (decide (cls = 2) && !khas f.grace g) = true then { f with grace := kput f.grace g due, unhandled := kput f.unhandled g e } else f) =
      f.timed g cls due e := by
  simp [timed, khas]

theorem FltSt.stopped_eq (cls : Nat) (f : FltSt) : (if cls = 3 then { f with f3 := true } else f) = f.stopped cls := by
  by_cases h : cls = 3 <;> simp [stopped, h]

/-- What a key of the grace timers holds after an event. -/
theorem FltSt.timed_grace (g cls due : Nat) (e : Entry) (f : FltSt) (i : Nat) :
    kget (f.timed g cls due e).grace i = if cls = 2 ∧ i = g ∧ kget f.grace i = none then some due else kget f.grace i := by
  by_cases hstarts : cls = 2 ∧ kget f.grace g = none
  · simp only [timed, if_pos hstarts, kget_kput]
    by_cases hi : i = g <;> simp [hi, hstarts]
  · have hquiet : ¬ (cls = 2 ∧ i = g ∧ kget f.grace i = none) := by
      rintro ⟨hcls, rfl, hnone⟩
      exact hstarts ⟨hcls, hnone⟩
    rw [timed, if_neg hstarts, if_neg hquiet]

/-! A start of a grace timer leaves the rest. -/

section timed

variable (g cls due : Nat) (e : Entry) (f : FltSt)

theorem FltSt.timed_hist : (f.timed g cls due e).hist = f.hist := by
  unfold timed
  split_ifs <;> rfl

theorem FltSt.timed_number : (f.timed g cls due e).number = f.number := by
  unfold timed
  split_ifs <;> rfl

theorem FltSt.timed_first : (f.timed g cls due e).first = f.first := by
  unfold timed
  split_ifs <;> rfl

theorem FltSt.timed_f3 : (f.timed g cls due e).f3 = f.f3 := by
  unfold timed
  split_ifs <;> rfl

end timed

/-- The fault registers after an event with that entry of the history, whose group's grace timer, if it starts one, ends at `due`. -/
def FltSt.recorded (code cls due : Nat) (e : HistEntry) (f : FltSt) : FltSt :=
  (((f.noted e).captured cls e).timed (code / 256) cls due e.entry).stopped cls

section recorded

variable (code cls due : Nat) (e : HistEntry) (f : FltSt)

theorem FltSt.recorded_hist : (f.recorded code cls due e).hist = (e :: f.hist).take 16 := timed_hist ..

theorem FltSt.recorded_number : (f.recorded code cls due e).number = (f.number + 1) % 65536 := timed_number ..

theorem FltSt.recorded_first : (f.recorded code cls due e).first = if cls ≠ 0 ∧ f.first = none then some e else f.first := timed_first ..

theorem FltSt.recorded_grace (i : Nat) : kget (f.recorded code cls due e).grace i =
    if cls = 2 ∧ i = code / 256 ∧ kget f.grace i = none then some due else kget f.grace i :=
  timed_grace ..

theorem FltSt.recorded_f3 : (f.recorded code cls due e).f3 = (f.f3 || decide (cls = 3)) := congrArg (· || _) (timed_f3 ..)

end recorded

section event

variable (code cls : Nat) (pay : Bytes)

theorem recordEvent_flt (t : Nat) (lost : Bool) (s : State) :
    let e := histEntry code cls pay t lost s
    (recordEvent code cls pay t lost s).flt =
      s.flt.recorded code cls (s.lt + s.fld FLT_CTRL.GRACE * 1000) e := by
  have hcount (u : State) : (if cls = 1 || cls = 3 then u.bump FLT_F1_CNT else if cls = 2 then u.bump FLT_F2_CNT else u).flt = u.flt := by
    split_ifs <;> rfl
  intro e
  rw [recordEvent, hcount, FltSt.recorded, ← FltSt.stopped_eq, ← FltSt.timed_eq, ← FltSt.captured_eq]
  rfl

theorem recordEvent_ctrs (t : Nat) (lost : Bool) (s : State) :
    (recordEvent code cls pay t lost s).ctrs =
      if cls = 1 ∨ cls = 3 then (s.bump FLT_F1_CNT).ctrs else if cls = 2 then (s.bump FLT_F2_CNT).ctrs else s.ctrs := by
  simp only [recordEvent, Bool.or_eq_true, decide_eq_true_eq, apply_ite State.ctrs]
  rfl

/-- What the hosts are told of an event touches neither the fault registers nor the counters. -/
theorem raise_eq_recordEvent (s : State) : ∃ t lost, (raise code cls pay s).flt = (recordEvent code cls pay t lost s).flt ∧
    (raise code cls pay s).ctrs = (recordEvent code cls pay t lost s).ctrs := by
  have hqueue := queueEvent_touches 1 code cls pay (s.scale (s.hostDom 1)) _ (queueEvent_touches (M := 0xc2) 0 code cls pay (s.scale (s.hostDom 0))
    (recordEvent code cls pay (s.scale (s.hostDom (if Config.histHost % 2 = 0 then 0 else 1))) (eventLost s 0 code || eventLost s 1 code) s)
    (Touches.refl _ _) rfl) rfl
  exact ⟨_, _, hqueue.agree.flt (by decide), hqueue.agree.ctrs (by decide)⟩

end event

theorem ctr_bump_same {s : State} (hwf : Ctrs.wf s.ctrs = true) {a : Nat} (hport : a < 0x280000) :
    (s.bump a).ctr a = min ctrMax (s.ctr a + 1) := by
  rw [State.bump, ctr_bumpBy_same hwf, ctrAdd, if_neg (by simp; omega)]

/-- Settles O21: the fault registers after an event are those that `recordEvent` makes, field by field, and its counter goes up by its class. -/
theorem anEventIsKeptByItsClass : Obligations.AnEventIsKeptByItsClass := by
  intro code cls pay s hcls ⟨_, hctrs, _⟩ t
  obtain ⟨time, lost, hflt, hctr⟩ := raise_eq_recordEvent code cls pay s
  have hentry : (histEntry code cls pay time lost s).entry.code = code := rfl
  rw [recordEvent_flt] at hflt
  generalize histEntry code cls pay time lost s = e at hflt hentry
  have hread (a : Nat) : t.ctr a = if cls = 1 ∨ cls = 3 then (s.bump FLT_F1_CNT).ctr a else if cls = 2 then (s.bump FLT_F2_CNT).ctr a else s.ctr a := by
    rw [State.ctr, hctr, recordEvent_ctrs]
    split_ifs <;> rfl
  rw [show t.flt = _ from hflt]
  refine ⟨(raise_touches (M := 0x1c6) code cls pay s (Touches.refl _ _) rfl).onlyChanges (by decide), ?history, ?head, FltSt.recorded_number .., ?stands,
    ?captured, FltSt.recorded_grace _ _ _ _ _, FltSt.recorded_f3 .., ?f1, ?f2⟩
  case history => rw [FltSt.recorded_hist, List.take_succ_cons, List.tail_cons]
  case head => rw [FltSt.recorded_hist, List.take_succ_cons, List.head?_cons, Option.map_some, hentry]
  case stands =>
    intro x hx
    rw [FltSt.recorded_first, if_neg (by simp [hx]), hx]
  case captured =>
    intro hnone
    rw [FltSt.recorded_first, FltSt.recorded_hist, hnone]
    by_cases hzero : cls = 0 <;> simp [hzero]
  case f1 =>
    rw [hread]
    split_ifs with hone htwo
    · exact ctr_bump_same hctrs (by decide)
    · exact ctr_bumpBy_other (by decide)
    · rfl
  case f2 =>
    rw [hread]
    split_ifs with hone htwo htwo
    · omega
    · exact ctr_bumpBy_other (by decide)
    · exact ctr_bump_same hctrs (by decide)
    · rfl

end Sys2Proof.Machine
end

section
/-! Proofs: the windows of the supervisor triad, its restart, and the grace timers. -/

namespace Sys2Proof.Machine

/-! The comparison of a window (R493 to R495). -/

/-- What the cores wrote into their own SRAM has no part in a resynchronisation. -/
@[simp] theorem sramWrites_resync (own : List (Fin 3 × Nat × Nat)) (s : State) : (sramWrites own s).sup.resync = s.sup.resync := rfl

section window

variable {a b c : List BusWrite}

section vote

variable {s : State}

/-- With all three cores running, a window is compared from core 0 on. -/
theorem windowVote_of_all (hall : s.sup.resync = none) :
    let w := coreWrites a b c
    let sig (k : Nat) : Nat := windowSig (w k)
    windowVote a b c s = if sig 0 = sig 1 then if sig 0 = sig 2 then releaseWindow (w 0) s else oddCore 2 0 (releaseWindow (w 0) s)
      else if sig 0 = sig 2 then oddCore 1 0 (releaseWindow (w 0) s)
      else if sig 1 = sig 2 then oddCore 0 0 (releaseWindow (w 1) s) else noMajority s := by
  simp only [windowVote, hall]

/-- While a core is resynchronised, the other two must agree. -/
theorem windowVote_of_two {k t : Nat} (hresync : s.sup.resync = some (k, t)) :
    let w := coreWrites a b c
    let x := if k = 0 then 1 else 0
    windowVote a b c s = if windowSig (w x) = windowSig (w (if k = 2 then 1 else 2)) then releaseWindow (w x) s else noMajority s := by
  simp only [windowVote, hresync]

end vote

variable {own : List (Fin 3 × Nat × Nat)} {s : State} (htriad : triadRun s = true) (hf3 : s.flt.f3 = false) (hs0 : s.pwr.state = 0)
include htriad hf3 hs0

theorem exec_supWindowClose_runs : exec (.supWindowClose a b c own) s = .next (windowVote a b c (sramWrites own s)) :=
  if_neg (by simp [htriad, hf3, hs0])

theorem exec_supWindowClose_all (hall : s.sup.resync = none) :
    let u := sramWrites own s
    let w := coreWrites a b c
    let sig (k : Nat) : Nat := windowSig (w k)
    exec (.supWindowClose a b c own) s =
      .next (if sig 0 = sig 1 then if sig 0 = sig 2 then releaseWindow (w 0) u else oddCore 2 0 (releaseWindow (w 0) u)
        else if sig 0 = sig 2 then oddCore 1 0 (releaseWindow (w 0) u)
        else if sig 1 = sig 2 then oddCore 0 0 (releaseWindow (w 1) u) else noMajority u) :=
  (exec_supWindowClose_runs htriad hf3 hs0).trans (congrArg _ (windowVote_of_all hall))

theorem exec_supWindowClose_two {k t : Nat} (hresync : s.sup.resync = some (k, t)) :
    let u := sramWrites own s
    let w := coreWrites a b c
    let x := if k = 0 then 1 else 0
    exec (.supWindowClose a b c own) s =
      .next (if windowSig (w x) = windowSig (w (if k = 2 then 1 else 2)) then releaseWindow (w x) u else noMajority u) :=
  (exec_supWindowClose_runs htriad hf3 hs0).trans (congrArg _ (windowVote_of_two hresync))

end window

/-- Settles O18: a window without a majority comes to the last branch of the comparison, with all cores running or with two. -/
theorem noMajorityDiscardsTheWindow : Obligations.NoMajorityDiscardsTheWindow := by
  intro a b c own s hs0 htriad hf3 u sig
  refine ⟨fun hall h01 h02 h12 => ?all, fun x hresync hdiffers => ?two⟩
  case all =>
    have hrow := exec_supWindowClose_all (a := a) (b := b) (c := c) (own := own) htriad hf3 hs0 hall
    exact hrow.trans (congrArg _ ((if_neg h01).trans ((if_neg h02).trans (if_neg h12))))
  case two =>
    exact (exec_supWindowClose_two htriad hf3 hs0 hresync).trans (congrArg _ (if_neg hdiffers))

/-! The ends of a resynchronisation and of a restart, and a late core (R494, R496, R498). -/

theorem exec_supLateCore_running {core : Fin 3} {s : State} (htriad : triadRun s = true) (hall : s.sup.resync = none) :
    exec (.supLateCore core) s = .next (oddCore core.val 1 s) := if_pos (by simp [htriad, hall])

theorem exec_supResyncDone_resync {k n : Nat} {s : State} (hresync : s.sup.resync = some (k, n)) :
    exec .supResyncDone s =
      .next ((s.modSup (fun p => { p with resync := none, sram := sramCopy k (if k = 0 then 1 else 0) p.sram })).setFld SUP_STATUS.RESYNC 0) := by
  change execSupResyncDone s = _
  simp only [execSupResyncDone, hresync]

theorem exec_supRestartDone_restarting {fail : Fin 16} {badA badB : Bool} {s : State} (hrestart : s.sup.restartAt ≠ none) (hf3 : s.flt.f3 = false)
    (hwarm : s.rst.warm = none) (hs0 : s.pwr.state = 0) :
    exec (.supRestartDone fail badA badB) s = .next (warmResume (bootDone fail.val badA badB s)) :=
  if_pos (by simp [Option.isSome_iff_ne_none, hrestart, hf3, hwarm, hs0])

/-! The grace timers (R514, R515). -/

/-- An event that is still unhandled as its group's timer ends, in the 1 µs tick of its end or later, escalates. -/
theorem exec_graceExpiry_unhandled {g : Fin 16} {ok : Bool} {t : Nat} {e : Entry} {s : State} (htimer : kget s.flt.grace g.val = some t)
    (hevent : kget s.flt.unhandled g.val = some e) (hdue : t / 1000 ≤ s.lt / 1000) (hf3 : s.flt.f3 = false) (hs2 : s.pwr.state ≤ 2)
    (hready : escWaits s e = false) : exec (.graceExpiry g ok) s = .next (graceEnd g.val e ok s) := by
  change execGraceExpiry g ok s = _
  simp only [execGraceExpiry, htimer, hevent]
  exact if_neg (by simp [Nat.not_lt.mpr hdue, hf3, Nat.not_lt.mpr hs2, hready])

/-- Settles O52: a window goes by the equal signatures of its cores, and each other row is the branch of its conditions. -/
theorem supervisorReleasesByMajority : Obligations.SupervisorReleasesByMajority := by
  refine ⟨?windows, fun core s => exec_supLateCore_running, fun k n s => exec_supResyncDone_resync, fun fail badA badB s => exec_supRestartDone_restarting,
    fun g ok t e s => exec_graceExpiry_unhandled⟩
  case windows =>
    intro a b c own s htriad hf3 hs0 u w sig
    refine ⟨fun hall => ?all, fun k t hresync => ?two⟩
    case all =>
      have hrow := exec_supWindowClose_all (a := a) (b := b) (c := c) (own := own) htriad hf3 hs0 hall
      exact ⟨fun h01 h02 => hrow.trans (congrArg _ ((if_pos h01).trans (if_pos h02))),
        fun h01 h02 => hrow.trans (congrArg _ ((if_pos h01).trans (if_neg h02))),
        fun h01 h02 => hrow.trans (congrArg _ ((if_neg h01).trans (if_pos h02))),
        fun h01 h02 h12 => hrow.trans (congrArg _ ((if_neg h01).trans ((if_neg h02).trans (if_pos h12)))),
        fun h01 h02 h12 => hrow.trans (congrArg _ ((if_neg h01).trans ((if_neg h02).trans (if_neg h12))))⟩
    case two =>
      have hrow := exec_supWindowClose_two (a := a) (b := b) (c := c) (own := own) htriad hf3 hs0 hresync
      exact ⟨fun hagree => hrow.trans (congrArg _ (if_pos hagree)), fun hdiffers => hrow.trans (congrArg _ (if_neg hdiffers))⟩

end Sys2Proof.Machine
end

section
/-! Proofs: the registers of the services that act: snapshots, acknowledgements, locks and the restart of the triad. -/

namespace Sys2Proof.Machine

section

variable {s : State}

/-- Bit 0 clears the captured first event (R518). -/
theorem fltFirstClear_set {v : Nat} (hset : bit v 0 = true) : fltFirstClear v s = { s with flt := { s.flt with first := none } } := if_pos hset

/-- Bit 0 restarts a triad that runs (R498). -/
theorem supCtrlWrite_runs {v : Nat} (hset : bit v 0 = true) (hidle : s.sup.restartAt = none) (htriad : triadRun s = true) :
    supCtrlWrite v s = supRestart true s := if_pos (by simp [hset, hidle, htriad])

/-- A free lock goes to a source other than the SPI port (R445). -/
theorem lockTake_free {src : Src} (hsrc : src ≠ .spi) (hfree : s.keys.lock = none) : lockTake src s = s.setLock (some (src, s.lt)) :=
  if_neg (by simp [hsrc, hfree])

/-- The owner's release ends the context that the lock has kept (R445, R446). -/
theorem lockRelease_owner {src : Src} {t : Nat} (howner : s.keys.lock = some (src, t)) : lockRelease src s = (s.setLock none).setCtx none :=
  if_pos (by simp [holdsLock, howner])

end

/-- Settles O29: every row is a row of the register bus (`exec_granted`), and the register's rule acts on the granted state. -/
theorem actingRegistersOfTheServicesAct : Obligations.ActingRegistersOfTheServicesAct := by
  intro src s hopen g
  refine ⟨fun v => ⟨exec_granted hopen rfl, exec_granted hopen rfl, exec_granted hopen rfl⟩, fun v => exec_granted (f := fltAck v) hopen rfl,
    fun v hset => ?clear, fun v hset hidle htriad => ?restart, fun hsrc hfree => ?take, fun t howner => ?release,
    fun h m => ⟨exec_granted hopen rfl, exec_granted hopen rfl⟩⟩
  case clear => rw [exec_granted (f := fltFirstClear v) hopen rfl, fltFirstClear_set hset]
  case restart => rw [exec_granted (f := supCtrlWrite v) hopen rfl, supCtrlWrite_runs (s := s.granted src) hset hidle htriad]
  case take =>
    rw [exec_granted (f := lockTake src) hopen rfl, lockTake_free (s := s.granted src) hsrc hfree]
    rfl
  case release =>
    rw [exec_granted (f := lockRelease src) hopen rfl, lockRelease_owner (s := s.granted src) howner]
    rfl

end Sys2Proof.Machine
end

section
/-! Proofs: firmware images, from the header of a slot to the end of a trial. -/

namespace Sys2Proof.Machine

/-! Receiving an image (R501 to R503). -/

section command

variable {c : CmdCtx} {s : State} (hturn : imgHeld s = false)
include hturn

/-- A correct header begins the slot that does not run. -/
theorem exec_imgBegin_checked (hrun : mayRun c 0x0D01 s) (hengine : engineHeld s = false) (hlen : plenIs c 512 = true) :
    let u := markStarted c 0x0D01 s
    let r := headerCheck u c.par
    exec (.imgBegin c) s = .next (complete c 0x0D01 r.2 (imgReply r.1 0)
      (if r.1 = 0 then modSlot (idleSlot u) (fun _ => { state := 1, header := c.par, erased := false }) u else u)) :=
  (if_neg (by simp [hturn, hengine])).trans (congrArg _ ((command_run hrun _).trans (if_neg (by simp [hlen]))))

/-- A block of an erased slot is read, and stored where the read succeeds. -/
theorem exec_imgBlock_fetched {block : Option Bytes} (hrun : mayRun c 0x0D02 s) (hbrace : s.brace = false) (hstate : (s.imgSlot (idleSlot s)).state = 1)
    (herased : (s.imgSlot (idleSlot s)).erased = true) (hlen : plenIs c 16 = true) (hzero : parZero c 4 8 = true) (hoff : leAt c.par 0 4 % 4096 = 0)
    (hsize : leAt c.par 0 4 < hdrField (s.imgSlot (idleSlot s)).header 20 4) :
    let v := hostFetch c (leAt c.par 8 8) 4096 (markStarted c 0x0D02 s)
    exec (.imgBlock c block) s = .next (match block with
      | none => complete c 0x0D02 stDma [] v
      | some b => complete c 0x0D02 stOk (imgReply 0 0)
          (modSlot (idleSlot s) (fun x => { x with blocks := kput x.blocks (leAt c.par 0 4 / 4096) (slice b 0 4096) }) v)) := by
  refine (if_neg (by simp [hturn, hbrace, hstate, herased])).trans (congrArg _ ((command_run hrun _).trans ?_))
  exact (if_neg (by simp [hlen, hzero])).trans ((if_neg (not_not.mpr hstate)).trans (if_neg (by simp [hoff, Nat.not_le.mpr hsize])))

/-- The end of an image makes its slot Valid or Bad, unless blocks are missing. -/
theorem exec_imgEnd_checked {flashErr : Bool} (hrun : mayRun c 0x0D03 s) (hengine : engineHeld s = false) (hlen : plenIs c 8 = true)
    (hzero : parZero c 0 8 = true) (hstate : ((markStarted c 0x0D03 s).imgSlot (idleSlot (markStarted c 0x0D03 s))).state = 1) :
    let u := markStarted c 0x0D03 s
    let r := bodyCheck (u.imgSlot (idleSlot u)) flashErr
    exec (.imgEnd c flashErr) s = .next (complete c 0x0D03 r.2.1 (imgReply r.1 r.2.2)
      (if r.1 = 7 then u else modSlot (idleSlot u) (fun x => { x with state := if r.1 = 0 then 2 else 5 }) u)) := by
  refine (if_neg (by simp [hturn, hengine])).trans (congrArg _ ((command_run hrun _).trans ?_))
  exact (if_neg (by simp [hlen, hzero])).trans (if_neg (not_not.mpr hstate))

/-! Activation (R505 to R510). -/

/-- A Valid slot outside a trial, whose firmware can read the settings, is activated. -/
theorem exec_imgActivate_valid (hrun : mayRun c 0x0D04 s) (hlen : plenIs c 8 = true) (hzero : parZero c 1 8 = true) (hslot : byteAt c.par 0 ≤ 1)
    {u : State} (hstarted : markStarted c 0x0D04 s = u) (hvalid : (u.imgSlot (byteAt c.par 0)).state = 2) (htrial : u.flag SUP_STATUS.TRIAL = false)
    (hbrace : u.brace = false) (hversion : hdrField (u.imgSlot (byteAt c.par 0)).header 104 4 ≤ u.sup.setVersion) (hidle : u.sup.restartAt = none) :
    exec (.imgActivate c) s =
      .next (u.modSup (fun p => { p with act := some { cmd := c, slot := byteAt c.par 0, prev := u.fld SUP_STATUS.RUN_SLOT } })) := by
  subst hstarted
  refine (if_neg (Bool.eq_false_iff.mp hturn)).trans (congrArg _ ((command_run hrun _).trans ?_))
  exact (if_neg (by simp [hlen, hzero, Nat.not_lt.mpr hslot])).trans
    (if_neg (by simp [hvalid, htrial, hbrace, Nat.not_lt.mpr hversion, hidle]))

end command

section activation

variable {a : Activation} {s : State} (hact : s.sup.act = some a)
include hact

/-- The pause starts once the sealed handover is done. -/
theorem exec_sealedHandoverDone_first (hphase : a.phase = 1) (hstop : longStop s = false) :
    exec .sealedHandoverDone s = .next (supShow 3 false ((rewrap (slotMeas s a.slot) s).modSup (fun p =>
      { p with act := some { a with phase := 2, pauseAt := s.lt } }))) := by
  change execSealedHandoverDone s = _
  simp only [execSealedHandoverDone, hact]
  exact if_pos (by simp [hphase, hstop])

variable (hphase : a.phase = 2)
include hphase

theorem exec_activationPauseEnd_inTime (hdue : s.lt < a.pauseAt + 30000000) (hf3 : s.flt.f3 = false) (hrom : romFails s a.slot false = false) :
    exec .activationPauseEnd s = .next (warmResume (pauseEnd a s)) := by
  change execActivationPauseEnd s = _
  simp only [execActivationPauseEnd, hact]
  exact if_pos (by simp [hphase, hdue, hf3, hrom])

/-- A pause of 30 ms ends by the watchdog. -/
theorem exec_activationWatchdog_due (hdue : a.pauseAt + 30000000 ≤ s.lt) : exec .activationWatchdog s = .next (startFallback a 1 s) := by
  change execActivationWatchdog s = _
  simp only [execActivationWatchdog, hact]
  exact if_pos (by simp [hphase, hdue])

/-- Firmware that gives up in the pause falls back. -/
theorem exec_firmwareFallback_pause (hidle : s.sup.restartAt = none) (v : Nat) :
    exec (.firmwareFallback v) s = .next (startFallback a 0 (raise 0x0D01 1 (evPay [(16, 1, a.slot), (20, 4, v)]) s)) := by
  change execFirmwareFallback v s = _
  simp only [execFirmwareFallback, hact, hidle]
  exact if_pos hphase

end activation

/-! The end of a trial (R511). -/

/-- A restart during a trial falls back to the other slot. -/
theorem exec_firmwareFallback_restart {s : State} {t : Nat} (hact : s.sup.act = none) (hrestart : s.sup.restartAt = some t)
    (htrial : (newestRec s).2.2 = 3) (v : Nat) :
    exec (.firmwareFallback v) s = .next ((fallBack (newestRec s).2.1 (otherSlot (newestRec s).2.1)
      (raise 0x0D01 1 (evPay [(16, 1, (newestRec s).2.1), (20, 4, v)]) s)).modSup (fun p => { p with fallback := some 0 })) := by
  change execFirmwareFallback v s = _
  simp only [execFirmwareFallback, hact, hrestart]
  exact if_pos htrial

/-- A trial that has lasted `CONFIRM_S` is confirmed: the anti-rollback counter rises to that of the image, and the other slot is no longer the
confirmed one. -/
theorem exec_trialConfirm_due {s : State} {t : Nat} (htrial : s.sup.trialAt = some t) (htriad : triadRun s = true) (hbrace : s.brace = false)
    (hdue : t + s.fld SUP_CFG.CONFIRM_S * sec ≤ s.lt) :
    let n := (newestRec s).2.1
    let fuse := max (byteAt (s.imgSlot n).header 16) (s.fld SUP_ARC_FUSE.ARC)
    let u := modSlot (otherSlot n) (fun x => { x with state := if x.state = 4 then 2 else x.state })
      (keepHandover (writeRec n 4 (s.setFld SUP_ARC_FUSE.ARC fuse)))
    exec .trialConfirm s = .next (raise 0x0D04 0 (evPay [(16, 1, n), (17, 1, fuse)])
      ((u.modSup (fun p => { p with trialAt := none })).setFld SUP_STATUS.TRIAL 0)) := by
  intro n fuse u
  change execTrialConfirm s = _
  simp only [execTrialConfirm, htrial]
  exact if_pos (by simp [htriad, hbrace, hdue])

/-- Settles O51: each command whose checks pass is the end of its body, and each other row the branch of its conditions. -/
theorem firmwareImagesAreReceivedAndActivated : Obligations.FirmwareImagesAreReceivedAndActivated := by
  refine ⟨fun c s hturn => ⟨exec_imgBegin_checked hturn, ?block, ?end_, ?activate⟩, fun slot s => rfl, ?activation,
    fun v t s hact hrestart htrial => exec_firmwareFallback_restart hact hrestart htrial v, fun t s => exec_trialConfirm_due⟩
  case block =>
    intro block u n off v hrun hbrace hstate herased hlen hzero hoff hsize
    have hrow (x : Option Bytes) := exec_imgBlock_fetched (block := x) hturn hrun hbrace hstate herased hlen hzero hoff hsize
    exact ⟨fun b hblock => hblock ▸ hrow (some b), fun hblock => hblock ▸ hrow none⟩
  case end_ => exact fun flashErr => exec_imgEnd_checked hturn
  case activate =>
    intro u n hrun hlen hzero hslot hvalid htrial hbrace hversion hidle
    exact exec_imgActivate_valid hturn hrun hlen hzero hslot rfl hvalid htrial hbrace hversion hidle
  case activation =>
    intro a s hact
    exact ⟨exec_sealedHandoverDone_first hact, exec_activationPauseEnd_inTime hact, exec_activationWatchdog_due hact,
      fun v hphase hidle => exec_firmwareFallback_pause hact hphase hidle v⟩

end Sys2Proof.Machine
end

section
/-! Proofs: the commands of the gateway on its sets, images and buses. -/

namespace Sys2Proof.Machine

variable {c : CmdCtx} {s u : State}

/-! The sets (R412 to R416). A command on them ends a copy under way first. -/

section sets

variable (hu : gwCopyEnd s = u)
include hu

/-- Accepted entries go into the shadow set. -/
theorem gwStage_entries (hitem : gwItem c < 7) (hset : byteAt c.par 1 = 0) (hzero : parZero c 6 16 = true)
    (hlimit : gwFirst c + gwCount c ≤ gwLimit (gwItem c)) (hmax : gwCount c ≤ gwMax (gwItem c))
    (hlen : plenIs c (16 + gwCount c * gwSize (gwItem c)) = true)
    (hentry : ∀ k < gwCount c, gwEntryOk u.gw.shadow (gwItem c) (gwStaged c k) = true) :
    gwStage c s = complete c 0x0801 stOk [] (u.modGw (fun g => { g with
      shadow := (List.range (gwCount c)).foldl (fun x k => gwPut (gwItem c) (gwFirst c + k) (gwStaged c k) x) g.shadow })) := by
  subst hu
  have hall : (List.range (gwCount c)).all (fun k => gwEntryOk (gwCopyEnd s).gw.shadow (gwItem c) (gwStaged c k)) = true := by simpa using hentry
  exact (if_neg (by omega)).trans (if_neg (by
    simp [hset, hzero, hlen, hall, Nat.not_lt.mpr hlimit, Nat.not_lt.mpr hmax, Nat.not_lt.mpr hitem.le]))

/-- Item 7 clears the items of its mask. -/
theorem gwStage_cleared (hitem : gwItem c = 7) (hlen : plenIs c 16 = true) (hmask : byteAt c.par 1 < 128) (hzero : parZero c 6 16 = true) :
    let f (e : Nat × Bytes) : Nat × Bytes := if bit (byteAt c.par 1) (e.1 / 4096) then (e.1, gwClear (e.1 / 4096) e.2) else e
    gwStage c s = complete c 0x0801 stOk [] (u.modGw (fun g => { g with
      shadow := (g.shadow.map f).filter (fun e => !e.2.all (fun b => b = 0)) })) := by
  subst hu
  exact (if_pos hitem).trans (if_pos (by simp [hlen, hmask, hzero]))

/-- A flip without a reason against it swaps the sets. -/
theorem gwFlip_accepted (hlen : plenIs c 8 = true) (hkeep : byteAt c.par 0 < 2) (hzero : parZero c 1 8 = true)
    (hparam : gwFlipParam u.gw.shadow = none) (hstate : gwFlipState u = none) :
    let v := sillAll (gwSwap (bit (byteAt c.par 0) 0) (stopBegins u))
    gwFlip c s = complete c 0x0802 stOk (gwFlipReply v 0xFFFF) v := by
  subst hu
  refine (if_neg (by simp [hlen, hzero, hkeep])).trans ?_
  simp only [hparam, hstate]

theorem gwRead_answered (hitem : gwItem c ≤ 6) (hset : byteAt c.par 1 < 2) (hlen : plenIs c 16 = true) (hzero : parZero c 6 16 = true)
    (hlimit : gwFirst c + gwCount c ≤ gwLimit (gwItem c)) (hmax : gwCount c ≤ gwMax (gwItem c)) :
    let g := if byteAt c.par 1 = 1 then u.gw.shadow else u.gw.active
    gwRead c s = complete c 0x0803 stOk
      ((List.range (gwCount c)).flatMap (fun k => slice (gwEntry g (gwItem c) (gwFirst c + k)) 0 (gwSize (gwItem c)))) u := by
  subst hu
  exact if_neg (by simp [hset, hlen, hzero, Nat.not_lt.mpr hitem, Nat.not_lt.mpr hlimit, Nat.not_lt.mpr hmax])

end sets

theorem gwCopyEnd_copying (hcopy : s.gw.copying = true) : gwCopyEnd s = s.modGw (fun g => { g with shadow := g.active, copying := false }) :=
  if_pos hcopy

/-! The images (R409, R416). -/

section images

variable (hres : byteAt c.par 1 = 0) (hindex : leAt c.par 2 2 ≤ 1023) (hrange : byteAt c.par 4 + byteAt c.par 5 ≤ 64) (hflags : byteAt c.par 6 < 2)
  (hzero : parZero c 7 16 = true) (hlen : plenIs c (16 + byteAt c.par 5) = true)
include hres hindex hrange hflags hzero hlen

/-- A correct image command goes by its operation. -/
theorem gwImageCmd_checked (hop : byteAt c.par 0 ≤ 2) :
    let i := leAt c.par 2 2
    let v := s.modImage i (fun m => { m with data := patch (slice m.data 0 64) (byteAt c.par 4) (slice c.par 16 (byteAt c.par 5)), written := s.lt })
    gwImageCmd c s =
      if byteAt c.par 0 = 0 then complete c 0x0804 stOk (slice (s.image i).data 0 64 ++ toLe 4 ((s.lt - (s.image i).written) / 1000000)) s
      else if !(imValid (gwImage s i) && imTx (gwImage s i)) then complete c 0x0804 stState [] s
      else if byteAt c.par 0 = 1 then complete c 0x0804 stOk [] (if bit (byteAt c.par 6) 0 then imTrigger i v else v)
      else complete c 0x0804 stOk [] (imTrigger i s) :=
  if_neg (by simp [hres, hflags, hzero, hlen, Nat.not_lt.mpr hop, Nat.not_lt.mpr hindex, Nat.not_lt.mpr hrange])

theorem gwImageCmd_read (hop : byteAt c.par 0 = 0) :
    gwImageCmd c s = complete c 0x0804 stOk
      (slice (s.image (leAt c.par 2 2)).data 0 64 ++ toLe 4 ((s.lt - (s.image (leAt c.par 2 2)).written) / 1000000)) s :=
  (gwImageCmd_checked hres hindex hrange hflags hzero hlen (by omega)).trans (if_pos hop)

variable (hvalid : imValid (gwImage s (leAt c.par 2 2)) = true) (htx : imTx (gwImage s (leAt c.par 2 2)) = true)
include hvalid htx

theorem gwImageCmd_write (hop : byteAt c.par 0 = 1) :
    let v := s.modImage (leAt c.par 2 2) (fun m =>
      { m with data := patch (slice m.data 0 64) (byteAt c.par 4) (slice c.par 16 (byteAt c.par 5)), written := s.lt })
    gwImageCmd c s = complete c 0x0804 stOk [] (if bit (byteAt c.par 6) 0 then imTrigger (leAt c.par 2 2) v else v) :=
  (gwImageCmd_checked hres hindex hrange hflags hzero hlen (by omega)).trans
    ((if_neg (by omega)).trans ((if_neg (by simp [hvalid, htx])).trans (if_pos hop)))

theorem gwImageCmd_send (hop : byteAt c.par 0 = 2) : gwImageCmd c s = complete c 0x0804 stOk [] (imTrigger (leAt c.par 2 2) s) :=
  (gwImageCmd_checked hres hindex hrange hflags hzero hlen (by omega)).trans
    ((if_neg (by omega)).trans ((if_neg (by simp [hvalid, htx])).trans (if_neg (by omega))))

end images

/-! The buses (R379, R381, R390). -/

section buses

variable (hlen : plenIs c 8 = true) (hport : isLegacyPort (byteAt c.par 0) = true) (hzero : parZero c 3 8 = true)
include hlen hport hzero

/-- A LIN commander switches its schedule table. -/
theorem gwBus_selectTable (hop : byteAt c.par 1 = 0) (htable : byteAt c.par 2 ≤ 7) (hlin : isLinPort (byteAt c.par 0) = true)
    (hrole : s.fld (LEG_LIN_CFG.ROLE (byteAt c.par 0 - 64)) = 1) :
    gwBus c s = complete c 0x0805 stOk [] (s.modLin (byteAt c.par 0 - 64) (fun x => { x with switch := some (byteAt c.par 2) })) := by
  refine (if_neg (by simp [hlen, hport, hzero, hop])).trans ?_
  simp only [hop]
  exact (if_neg (Nat.not_lt.mpr htable)).trans (if_pos (by simp [hlin, hrole]))

/-- A CAN controller in bus-off begins to recover. -/
theorem gwBus_recover (hop : byteAt c.par 1 = 1) (harg : byteAt c.par 2 = 0) (hcan : isCanPort (byteAt c.par 0) = true)
    (hoff : s.fld (LEG_CAN_STATUS.STATE (byteAt c.par 0 - 40)) = 2) :
    gwBus c s = complete c 0x0805 stOk []
      ((s.modCan (byteAt c.par 0 - 40) (fun x => { x with autoAt := none })).setFld (LEG_CAN_STATUS.STATE (byteAt c.par 0 - 40)) 3) := by
  refine (if_neg (by simp [hlen, hport, hzero, hop, harg])).trans ?_
  simp only [hop]
  exact if_pos (by simp [hcan, hoff])

theorem gwBus_setMode (hop : byteAt c.par 1 = 2) (hmode : byteAt c.par 2 ≤ 3) (hcan : isCanPort (byteAt c.par 0) = true) :
    gwBus c s = complete c 0x0805 stOk [] (canSetMode (byteAt c.par 0 - 40) (byteAt c.par 2) s) := by
  refine (if_neg (by simp [hlen, hport, hzero, hop])).trans ?_
  simp only [hop]
  exact (if_neg (Nat.not_lt.mpr hmode)).trans (if_pos hcan)

theorem gwBus_pocCommand {n : Nat} (hop : byteAt c.par 1 = 3) (harg : byteAt c.par 2 ≤ 3) (hflexray : 70 ≤ byteAt c.par 0)
    (hpoc : frCommand s (byteAt c.par 2) = some n) : gwBus c s = complete c 0x0805 stOk [] (frPoc n s) := by
  refine (if_neg (by simp [hlen, hport, hzero, hop])).trans ?_
  simp only [hop, hpoc]
  exact (if_neg (Nat.not_lt.mpr harg)).trans (if_neg (Nat.not_lt.mpr hflexray))

end buses

/-- Settles O43: each command runs its function on the started state, and the function's checks pass. -/
theorem gatewayCommandsActOnSetsImagesAndBuses : Obligations.GatewayCommandsActOnSetsImagesAndBuses := by
  refine ⟨fun c s => ⟨?stage, ?flip, ?read, ?image, ?bus⟩, fun s hcopy => congrArg _ (gwCopyEnd_copying hcopy)⟩
  case stage =>
    intro u item n hrun
    refine ⟨fun hitem hset hzero hlimit hmax hlen hentry => ?entries, fun hitem hlen hmask hzero => ?cleared⟩
    case entries => exact congrArg _ ((command_run hrun _).trans (gwStage_entries rfl hitem hset hzero hlimit hmax hlen hentry))
    case cleared => exact congrArg _ ((command_run hrun _).trans (gwStage_cleared rfl hitem hlen hmask hzero))
  case flip =>
    intro u v hrun hlen hkeep hzero hparam hstate hfree
    exact (if_neg (by simp [hfree])).trans (congrArg _ ((command_run hrun _).trans (gwFlip_accepted rfl hlen hkeep hzero hparam hstate)))
  case read =>
    intro u g hrun hitem hset hlen hzero hlimit hmax
    exact congrArg _ ((command_run hrun _).trans (gwRead_answered rfl hitem hset hlen hzero hlimit hmax))
  case image =>
    intro u op i off n hrun hres hindex hrange hflags hzero hlen
    refine ⟨fun hop => ?_, fun hop hvalid htx => ?_, fun hop hvalid htx => ?_⟩
    · exact congrArg _ ((command_run hrun _).trans (gwImageCmd_read hres hindex hrange hflags hzero hlen hop))
    · exact congrArg _ ((command_run hrun _).trans (gwImageCmd_write hres hindex hrange hflags hzero hlen hvalid htx hop))
    · exact congrArg _ ((command_run hrun _).trans (gwImageCmd_send hres hindex hrange hflags hzero hlen hvalid htx hop))
  case bus =>
    intro u p op k hrun hlen hport hzero
    refine ⟨fun hop htable hlin hrole => ?_, fun hop harg hcan hoff => ?_, fun hop hmode hcan => ?_, fun n hop harg hflexray hpoc => ?_⟩
    · exact congrArg _ ((command_run hrun _).trans (gwBus_selectTable hlen hport hzero hop htable hlin hrole))
    · exact congrArg _ ((command_run hrun _).trans (gwBus_recover hlen hport hzero hop harg hcan hoff))
    · exact congrArg _ ((command_run hrun _).trans (gwBus_setMode hlen hport hzero hop hmode hcan))
    · exact congrArg _ ((command_run hrun _).trans (gwBus_pocCommand hlen hport hzero hop harg hflexray hpoc))

end Sys2Proof.Machine
end

section
/-! Proofs: the signal engine, and the ends of transmissions, slots and recoveries on the buses. -/

namespace Sys2Proof.Machine

/-! Signals (R409, R410). -/

section signals

variable {i : Nat} {s : State} (hon : s.flag GW_CTRL.SIG_EN = true) (hstate : s.pwr.state ≤ 2)
include hon hstate

theorem sigRuns_on : sigRuns s = true := by simp [sigRuns, hon, hstate]

theorem exec_signalPeriodTrigger_due (hvalid : imValid (gwImage s i) = true) (htx : imTx (gwImage s i) = true) (hperiod : imPeriod (gwImage s i) ≠ 0)
    (hdue : (s.image i).cyclic ≤ s.lt) :
    exec (.signalPeriodTrigger i) s =
      .next (imTrigger i (s.modImage i (fun m => { m with cyclic := m.cyclic + imPeriod (gwImage s i) }))) :=
  if_pos (by simp [sigRuns_on hon hstate, hvalid, htx, hperiod, hdue])

theorem exec_signalDeferredSend_due (hdeferred : (s.image i).deferred = true) (hgap : imGapPast s i = true) :
    exec (.signalDeferredSend i) s = .next (imSend i s) :=
  if_pos (by simp [sigRuns_on hon hstate, hdeferred, hgap])

theorem exec_signalTimeoutTick_due (hdue : s.lt % 1000000 = 0) :
    exec .signalTimeoutTick s = .next ((List.range 4096).foldl (fun u k => sigTimeout k u) s) :=
  if_pos (by simp [sigRuns_on hon hstate, hdue])

end signals

/-! CAN (R388, R390). -/

section attempt

variable {p : Port} {k : Nat} {x : Loaded} {s : State} (hcan : isCanPort p.val = true) (hup : portUp s p.val = true)
  (hoffer : canOffer (s.can (p.val - 40)).slots = some (k, x)) (w : Span)
include hcan hup hoffer

/-- A transmission that ends well leaves its slot, lowers the error counter and departs. -/
theorem exec_canTxAttemptEnd_sent :
    let n := p.val - 40
    let u := ((s.modCan n (fun c => { c with slots := kdel c.slots k })).setFld (LEG_CAN_STATUS.TEC n) (s.fld (LEG_CAN_STATUS.TEC n) - 1)).bump
      (LEG_CAN_TX_OK n)
    exec (.canTxAttemptEnd p .sent w) s =
      .next (legacyDepart p.val x.frame x.cell w (u.setFld (LEG_CAN_STATUS.STATE n) (canErrState u n))) := by
  refine (if_neg (by simp [hcan, hup])).trans ?_
  simp only [hoffer]

theorem exec_canTxAttemptEnd_arbitrationLost :
    exec (.canTxAttemptEnd p .arbitrationLost w) s = .next (s.bump (LEG_CAN_ARB_LOST (p.val - 40))) := by
  refine (if_neg (by simp [hcan, hup])).trans ?_
  simp only [hoffer]

/-- An error raises the error counter by 8; beyond 255 the controller goes bus-off. -/
theorem exec_canTxAttemptEnd_error :
    let n := p.val - 40
    let u := s.bump (LEG_CAN_ERR_FRAMES n)
    let v := u.setFld (LEG_CAN_STATUS.TEC n) (u.fld (LEG_CAN_STATUS.TEC n) + 8)
    exec (.canTxAttemptEnd p .error w) s = if 255 < u.fld (LEG_CAN_STATUS.TEC n) + 8 then .next (canBusOff n u)
      else .next (v.setFld (LEG_CAN_STATUS.STATE n) (canErrState v n)) := by
  refine (if_neg (by simp [hcan, hup])).trans ?_
  simp only [hoffer]

end attempt

section busOff

variable {p : Port} {s : State} (hcan : isCanPort p.val = true)
include hcan

theorem exec_busOffDelayExpiry_due {t : Nat} (hauto : (s.can (p.val - 40)).autoAt = some t) (hdue : t ≤ s.lt)
    (hoff : s.fld (LEG_CAN_STATUS.STATE (p.val - 40)) = 2) :
    exec (.busOffDelayExpiry p) s =
      .next ((s.modCan (p.val - 40) (fun c => { c with autoAt := none })).setFld (LEG_CAN_STATUS.STATE (p.val - 40)) 3) := by
  change execBusOffDelayExpiry p s = _
  simp only [execBusOffDelayExpiry, hcan, hauto]
  exact if_pos (by simp [hdue, hoff])

theorem exec_busOffRecovered_recovering (hstate : s.fld (LEG_CAN_STATUS.STATE (p.val - 40)) = 3) :
    let n := p.val - 40
    exec (.busOffRecovered p) s = .next (raise 0x0802 0 (evPay [(16, 1, p.val)])
      (((s.setFld (LEG_CAN_STATUS.STATE n) 0).setFld (LEG_CAN_STATUS.TEC n) 0).setFld (LEG_CAN_STATUS.REC n) 0)) :=
  if_pos (by simp [hcan, hstate])

end busOff

/-! LIN (R380, R391 to R393). -/

section lin

variable {p : Port} {s : State} (hlin : isLinPort p.val = true)
include hlin

theorem exec_linSlotEnd_commander (hrole : s.fld (LEG_LIN_CFG.ROLE (p.val - 64)) = 1) (r : LinResult) (w : Span) :
    exec (.linSlotEnd p r w) s = .next (linCommander p.val r w s) := by
  refine (if_neg (by simp [hlin])).trans ?_
  simp only [hrole]

theorem exec_linSlotEnd_responder (hrole : s.fld (LEG_LIN_CFG.ROLE (p.val - 64)) = 2) (r : LinResult) (w : Span) :
    exec (.linSlotEnd p r w) s = .next (linResponder p.val r w s) := by
  refine (if_neg (by simp [hlin])).trans ?_
  simp only [hrole]

/-- A responder takes a measured baud rate, and answers a published identifier that has data. -/
theorem exec_linHeaderReceived_responder (hrole : s.fld (LEG_LIN_CFG.ROLE (p.val - 64)) = 2) (id : Fin 64) (baud : Nat) :
    let n := p.val - 64
    let u := if s.flag (LEG_LIN_CFG.AUTOBAUD n) then s.setFld (LEG_LIN_CFG.BAUD n) (clamp 1000 20000 baud) else s
    let b := kgetD (u.lin n).bufs id.val {}
    let answers := decide (u.fld (LEG_LIN_ID.DIR n id.val) = 1) && portUp u p.val && (b.fresh.isSome || b.last.isSome)
    exec (.linHeaderReceived p id baud) s =
      .next (u.modLin n (fun l => { l with answer := if answers then some (id.val, b.fresh.isSome) else none })) :=
  if_neg (by simp [hlin, hrole])

end lin

/-- What the end of a commander's slot reports: the event of an error, else the departure of its data. -/
def linOutcome (p id : Nat) (r : LinResult) (w : Span) (s : State) : State :=
  match linErr r with
  | some k => raise 0x0804 0 (evPay [(16, 1, p), (17, 1, id), (18, 1, k)]) s
  | none => if s.fld (LEG_LIN_ID.DIR (p - 64) id) = 1 && portUp s p then linDepart p id w s else s

/-- A commander's slot that has begun reports its outcome; a collision in an event-triggered slot is resolved, else the table advances. -/
theorem linCommander_begun {p : Nat} {e : Bytes} {w : Span} {s : State}
    (hentry : (linTable s (p - 64) (s.lin (p - 64)).table).find? (fun y => y.1 = (s.lin (p - 64)).entry) = some ((s.lin (p - 64)).entry, e))
    (hstart : (s.lin (p - 64)).slotAt ≤ s.endPoint w - w.ago) (r : LinResult) :
    let u := linOutcome p (byteAt e 3) r w (s.modLin (p - 64) (fun y => { y with slotAt := s.endPoint w - w.ago + leAt e 4 2 * 100000 }))
    linCommander p r w s = if r = .collision && byteAt e 2 = 1 then linCollision (p - 64) (byteAt e 6) u else linAdvance (p - 64) u := by
  intro u
  unfold linCommander
  extract_lets n x
  rw [hentry]
  exact if_neg (Nat.not_lt.mpr hstart)

section responder

variable {p : Nat} {r : LinResult} {id : Nat} {fresh : Bool} {s : State} (hanswer : (s.lin (p - 64)).answer = some (id, fresh)) (w : Span)
include hanswer

theorem linResponder_error {k : Nat} (herr : linErr r = some k) :
    linResponder p r w s = raise 0x0804 0 (evPay [(16, 1, p), (17, 1, id), (18, 1, k)]) (s.modLin (p - 64) (fun l => { l with answer := none })) := by
  simp only [linResponder, hanswer, herr]

theorem linResponder_fresh (herr : linErr r = none) (hfresh : fresh = true) :
    linResponder p r w s = linDepart p id w (s.modLin (p - 64) (fun l => { l with answer := none })) := by
  subst hfresh
  simp only [linResponder, hanswer, herr]

/-- A stale buffer sends its last data again. -/
theorem linResponder_stale {f : Bytes} (herr : linErr r = none) (hfresh : fresh = false)
    (hlast : (kgetD ((s.modLin (p - 64) (fun l => { l with answer := none })).lin (p - 64)).bufs id {}).last = some f) :
    linResponder p r w s = (s.modLin (p - 64) (fun l => { l with answer := none })).emit (.resend p f) := by
  subst hfresh
  simp only [linResponder, hanswer, herr, hlast]

end responder

/-- Settles O44: each row is the branch of its conditions; a LIN slot's end goes by the role of its port. -/
theorem signalsAndBusesRun : Obligations.SignalsAndBusesRun := by
  refine ⟨fun i s hon hstate => ⟨exec_signalPeriodTrigger_due hon hstate, exec_signalDeferredSend_due hon hstate,
      exec_signalTimeoutTick_due hon hstate⟩, ?attempt, ?busOff, ?lin, fun slot cycle w s => ⟨fun hpoc => if_pos hpoc, fun hpoc => if_neg hpoc⟩,
    fun poc s => rfl⟩
  case attempt =>
    intro p k x w s n hcan hup hoffer
    have herror := exec_canTxAttemptEnd_error hcan hup hoffer w
    exact ⟨exec_canTxAttemptEnd_sent hcan hup hoffer w, exec_canTxAttemptEnd_arbitrationLost hcan hup hoffer w,
      fun hoff => herror.trans (if_pos hoff), fun hon => herror.trans (if_neg (Nat.not_lt.mpr hon))⟩
  case busOff => exact fun p s hcan => ⟨fun t => exec_busOffDelayExpiry_due hcan, exec_busOffRecovered_recovering hcan⟩
  case lin =>
    intro p s n hlin
    refine ⟨?commander, ?responder, fun id baud hrole => exec_linHeaderReceived_responder hlin hrole id baud⟩
    case commander =>
      intro r w e hrole x hentry id start hstart v u
      have hslot : exec (.linSlotEnd p r w) s = .next _ :=
        (exec_linSlotEnd_commander hlin hrole r w).trans (congrArg _ (linCommander_begun hentry hstart r))
      refine ⟨fun hr hevent => hslot.trans (congrArg _ (if_pos (by simp [hr, hevent]))), fun hother => hslot.trans (congrArg _ (if_neg ?_))⟩
      simpa [or_iff_not_imp_left] using hother
    case responder =>
      intro r w id fresh hrole hanswer u
      have hslot := exec_linSlotEnd_responder hlin hrole r w
      exact ⟨fun k herr => hslot.trans (congrArg _ (linResponder_error hanswer w herr)),
        fun herr hfresh => hslot.trans (congrArg _ (linResponder_fresh hanswer w herr hfresh)),
        fun f herr hfresh hlast => hslot.trans (congrArg _ (linResponder_stale hanswer w herr hfresh hlast))⟩

end Sys2Proof.Machine
end

section
/-! Proofs: jobs of the lookaside engine, and the secure associations of a port. -/

namespace Sys2Proof.Machine

/-! A part of a job (R442 to R446). -/

/-- A part whose parameters, lock, slot and context are as they must be is processed by its operation. -/
theorem cryptoJob_started {c : CmdCtx} {raw : JobData} {x : JobCtx} {s u : State} (hu : jobReads c (markStarted c 0x0904 s) = u)
    (hfw : fwWaits s c = false) (hrun : mayRun c 0x0904 s) (hparam : jobParamOk c = true) (hstate : jobStateOk (markStarted c 0x0904 s) c = true)
    (hctx : jobStart u c (jobData c raw) = .inr x) (haad : x.op ≤ 1 → leAt c.par 20 4 ≠ 0 → x.text = []) :
    let d := jobData c raw
    let key := (slotKey u (leAt c.par 2 2)).getD []
    cryptoJob c (some raw) s =
      if x.op = 0 then jobEncrypt c d key x u
      else if x.op = 1 then jobGcm c d key x (jobTake c d x) u
      else if x.op ≤ 5 then jobPlain c d key (jobTake c d x) u
      else jobFresh c d key (jobTake c d x) u := by
  subst hu
  intro d key
  refine (if_neg (Bool.eq_false_iff.mp hfw)).trans ((command_run hrun _).trans ?_)
  refine (if_neg (by simp [hparam])).trans ((if_neg (by simp [hstate])).trans ?_)
  simp only [Option.map_some, hctx]
  exact if_neg (by simpa using haad)

section encrypt

variable {c : CmdCtx} {d : JobData} {key : Bytes} {x : JobCtx} {s : State}

/-- The first part of an encryption takes the next nonce of its slot (R443). -/
theorem jobEncrypt_newNonce {sl : Slot} (hiv : x.iv = []) (hnonce : nextNonce s (s.slot x.slot) = some sl) :
    let y := { x with iv := toBe 4 x.slot ++ toBe 8 (s.slot x.slot).nonce }
    jobEncrypt c d key x s = jobGcm c d key y (jobTake c d y) (s.setSlot x.slot sl) := by
  refine (if_pos (by simp [hiv])).trans ?_
  simp only [hnonce]

/-- Each further part keeps it. -/
theorem jobEncrypt_keptNonce (hiv : x.iv ≠ []) : jobEncrypt c d key x s = jobGcm c d key x (jobTake c d x) s := if_neg (by simpa using hiv)

end encrypt

theorem exec_cryLockIdleExpiry_due {o : Src} {t : Nat} {s : State} (hlock : s.keys.lock = some (o, t))
    (hdue : t + s.fld CRY_CTRL.LOCK_IDLE * 1000000 ≤ s.lt) :
    exec .cryLockIdleExpiry s = .next (raise 0x0906 0 (evPay [(16, 1, srcCode o)]) ((s.setLock none).setCtx none)) := by
  change execCryLockIdleExpiry s = _
  simp only [execCryLockIdleExpiry, hlock]
  exact if_pos hdue

/-- Settles O46: the eight operations are one command, which goes by the operation of its context. -/
theorem cryptoJobsProcessTheirParts : Obligations.CryptoJobsProcessTheirParts := by
  refine ⟨?jobs, fun o t s => exec_cryLockIdleExpiry_due⟩
  case jobs =>
    intro c raw x s m u d hfw hrun hparam hstate hctx haad key
    have hjob := cryptoJob_started rfl hfw hrun hparam hstate hctx haad
    have hencrypt (hop : x.op = 0) : cryptoJob c (some raw) s = jobEncrypt c d key x u := hjob.trans (if_pos hop)
    have hplain (hlow : x.op ≠ 0) (hgcm : x.op ≠ 1) (hhigh : x.op ≤ 5) : cryptoJob c (some raw) s = jobPlain c d key (jobTake c d x) u :=
      hjob.trans ((if_neg hlow).trans ((if_neg hgcm).trans (if_pos hhigh)))
    have hfresh (hop : 5 < x.op) : cryptoJob c (some raw) s = jobFresh c d key (jobTake c d x) u :=
      hjob.trans ((if_neg (by omega)).trans ((if_neg (by omega)).trans (if_neg (by omega))))
    refine ⟨fun hop => ⟨fun sl hiv hnonce => ?first, fun hiv => ?further⟩, fun hop => ?decrypt, fun hop => ?generate, fun hop => ?verify,
      fun hop => ?sha, fun hop => ?ecdsa, fun hop => ?freshGenerate, fun hop => ?freshVerify⟩
    case first => exact congrArg _ ((hencrypt hop).trans (jobEncrypt_newNonce hiv hnonce))
    case further => exact congrArg _ ((hencrypt hop).trans (jobEncrypt_keptNonce hiv))
    case decrypt => exact congrArg _ (hjob.trans ((if_neg (by omega)).trans (if_pos hop)))
    case generate | verify | sha | ecdsa => exact congrArg _ (hplain (by omega) (by omega) (by omega))
    case freshGenerate | freshVerify => exact congrArg _ (hfresh (by omega))

/-! The secure associations (R424 to R426). -/

section association

variable {c : CmdCtx} {s u : State} (hu : markStarted c 0x0905 s = u) (hrun : mayRun c 0x0905 s) (hparam : saParamOk c = true)
include hu hrun hparam

theorem macsecSa_install (hop : byteAt c.par 0 = 0) (hserving : ¬(byteAt c.par 2 = 0 ∧ (u.msec (byteAt c.par 1)).txAn = some (byteAt c.par 3)))
    (hslot : slotAttr u (leAt c.par 4 2) = some (if byteAt c.par 2 = 0 then 0 else 1)) :
    macsecSa c s = complete c 0x0905 stOk [] (u.setMsec (byteAt c.par 1) (saInstall c (u.msec (byteAt c.par 1)))) := by
  subst hu
  refine (command_run hrun _).trans ((if_neg (by simp [hparam])).trans ((if_pos hop).trans (if_neg ?_)))
  simpa [hslot] using hserving

theorem macsecSa_remove (hop : byteAt c.par 0 = 1) (hserving : ¬(byteAt c.par 2 = 0 ∧ (u.msec (byteAt c.par 1)).txAn = some (byteAt c.par 3))) :
    macsecSa c s = complete c 0x0905 stOk [] (u.setMsec (byteAt c.par 1) (saRemove c (u.msec (byteAt c.par 1)))) := by
  subst hu
  refine (command_run hrun _).trans ((if_neg (by simp [hparam])).trans ((if_neg (by omega)).trans ((if_pos hop).trans (if_neg ?_))))
  simpa using hserving

theorem macsecSa_txCommit (hop : byteAt c.par 0 = 2) (hheld : khas (u.msec (byteAt c.par 1)).tx (byteAt c.par 3) = true) :
    macsecSa c s = complete c 0x0905 stOk [] (saCommit (byteAt c.par 1) (byteAt c.par 3) u) := by
  subst hu
  exact (command_run hrun _).trans ((if_neg (by simp [hparam])).trans ((if_neg (by omega)).trans ((if_neg (by omega)).trans
    ((if_pos hop).trans (if_pos hheld)))))

theorem macsecSa_read (hop : byteAt c.par 0 = 3) : macsecSa c s = complete c 0x0905 stOk (saReadReply c (u.msec (byteAt c.par 1))) u := by
  subst hu
  exact (command_run hrun _).trans ((if_neg (by simp [hparam])).trans ((if_neg (by omega)).trans ((if_neg (by omega)).trans (if_neg (by omega)))))

end association

/-- Settles O47: the four operations are one command, which goes by its byte 0. -/
theorem secureAssociationsAreSetAndRead : Obligations.SecureAssociationsAreSetAndRead :=
  fun _ _ hrun hparam => ⟨fun hop hserving hslot => congrArg _ (macsecSa_install rfl hrun hparam hop hserving hslot),
    fun hop hserving => congrArg _ (macsecSa_remove rfl hrun hparam hop hserving),
    fun hop hheld => congrArg _ (macsecSa_txCommit rfl hrun hparam hop hheld), fun hop => congrArg _ (macsecSa_read rfl hrun hparam hop)⟩

end Sys2Proof.Machine
end

section
/-! Proofs: accesses through a window of the transom, and the requests of other devices. -/

namespace Sys2Proof.Machine

/-! Reads through a window (R476 to R483). -/

section read

variable {h : HostId} {off : Nat} {cover : List Bool} {s : State} {r : TrnReq} (hbar : barOpen s h = true)
  (hr : windowReq s h.val (off / 2 ^ 26 % 16) (off % 2 ^ 26) false cover [] = r)
  (hvalid : s.flag (TRN_WIN_CFG.VALID h.val (off / 2 ^ 26 % 16)) = true) (hcause : issueCause s h.val (off / 2 ^ 26 % 16) r = 0)
include hbar hr hvalid hcause

/-- Here a read is performed and answered. -/
theorem exec_transomRead_here (hhere : windowHere s h.val (off / 2 ^ 26 % 16) = true) (hbus : busAnswer s r (ownAddr s) = some false)
    (rd : Bytes) (e : Bool) :
    let x := perform (hostSrc h) r rd e s
    exec (.transomRead h off cover rd e) s = .next (readEnd h x.1 x.2.1 x.2.2) := by
  subst hr
  refine (if_neg (by simp [hbar])).trans ((if_neg (by simp [-Nat.reducePow, hvalid])).trans ((if_neg (not_not.mpr hcause)).trans ((if_pos hhere).trans ?_)))
  simp only [hbus]

/-- Elsewhere it is sent. -/
theorem exec_transomRead_far (hfar : windowHere s h.val (off / 2 ^ 26 % 16) = false) (hopen : channelOpen s h.val = true) (rd : Bytes) (e : Bool) :
    exec (.transomRead h off cover rd e) s = .next (sendReq h.val (off / 2 ^ 26 % 16) 0 r s) := by
  subst hr
  exact (if_neg (by simp [hbar])).trans ((if_neg (by simp [-Nat.reducePow, hvalid])).trans ((if_neg (not_not.mpr hcause)).trans
    ((if_neg (Bool.eq_false_iff.mp hfar)).trans (if_pos hopen))))

end read

/-! Writes through a window. -/

section write

variable {h : HostId} {off : Nat} {cover : List Bool} {d : Bytes} {s : State} (hbar : barOpen s h = true)
  (hvalid : s.flag (TRN_WIN_CFG.VALID h.val (off / 2 ^ 26 % 16)) = true)
include hbar hvalid

/-- A window in error with its fence on counts the write and drops it. -/
theorem exec_transomWrite_fenced (herr : s.flag (TRN_WIN_STATUS.ERR h.val (off / 2 ^ 26 % 16)) = true)
    (hfence : s.flag (TRN_WIN_CFG.FENCE_EN h.val (off / 2 ^ 26 % 16)) = true) (e : Bool) :
    exec (.transomWrite h off cover d e) s = .next (s.bump (TRN_FENCED h.val)) :=
  (if_neg (by simp [hbar])).trans ((if_neg (by simp [-Nat.reducePow, hvalid])).trans (if_pos (by simp [-Nat.reducePow, herr, hfence])))

variable (hfence : s.flag (TRN_WIN_STATUS.ERR h.val (off / 2 ^ 26 % 16)) = false ∨
    s.flag (TRN_WIN_CFG.FENCE_EN h.val (off / 2 ^ 26 % 16)) = false) {r : TrnReq}
  (hr : windowReq s h.val (off / 2 ^ 26 % 16) (off % 2 ^ 26) true cover d = r) (hcause : issueCause s h.val (off / 2 ^ 26 % 16) r = 0)
include hfence hr hcause

/-- Here a write is performed; one that fails leaves its error in the window. -/
theorem exec_transomWrite_here (hhere : windowHere s h.val (off / 2 ^ 26 % 16) = true) (hbus : busAnswer s r (ownAddr s) = some false) (e : Bool) :
    let x := perform (hostSrc h) r [] e (takeTag h.val (off / 2 ^ 26 % 16) s)
    exec (.transomWrite h off cover d e) s =
      .next (if x.1 = 0 then x.2.2
        else postedFail h.val (off / 2 ^ 26 % 16) (s.fld (TRN_WIN_STATUS.NEXT_TAG h.val (off / 2 ^ 26 % 16))) x.1 x.2.2) := by
  subst hr
  refine (if_neg (by simp [hbar])).trans ((if_neg (by simp [-Nat.reducePow, hvalid])).trans ((if_neg ?_).trans ((if_neg (not_not.mpr hcause)).trans
    ((if_pos hhere).trans ?_))))
  · simpa [-Nat.reducePow, or_iff_not_imp_left] using hfence
  · simp only [hbus]

/-- Elsewhere it is sent with its window's tag. -/
theorem exec_transomWrite_far (hfar : windowHere s h.val (off / 2 ^ 26 % 16) = false) (hopen : channelOpen s h.val = true) (e : Bool) :
    exec (.transomWrite h off cover d e) s = .next (sendReq h.val (off / 2 ^ 26 % 16)
      (s.fld (TRN_WIN_STATUS.NEXT_TAG h.val (off / 2 ^ 26 % 16))) r (takeTag h.val (off / 2 ^ 26 % 16) s)) := by
  subst hr
  refine (if_neg (by simp [hbar])).trans ((if_neg (by simp [-Nat.reducePow, hvalid])).trans ((if_neg ?_).trans ((if_neg (not_not.mpr hcause)).trans
    ((if_neg (Bool.eq_false_iff.mp hfar)).trans (if_pos hopen)))))
  simpa [-Nat.reducePow, or_iff_not_imp_left] using hfence

end write

/-! The requests of this device that wait for their answers (R478, R481, R482). -/

theorem exec_transomAnswer_outstanding {p : Port} {host tag : Nat} {o : TrnOut} {s : State} (hin : fabIn s p.val = true) (haddr : hasAddr s = true)
    (hout : outOf s host tag = some o) (cause : Nat) (d : Bytes) :
    exec (.transomAnswer p (ownAddr s) host tag cause d) s = .next (reqEnd o cause d s) := by
  refine (if_neg (by simp [hin])).trans ((if_neg (by simp [haddr])).trans ?_)
  simp only [hout]

section retransmit

variable {h : HostId} {o : TrnOut} {s : State}
  (hout : s.trn.outs.find? (fun o => decide (o.req.host = h.val) && decide (o.sent + 1000000 ≤ s.lt)) = some o)
include hout

/-- A request that is not answered in time is repeated up to three times. -/
theorem exec_transomRetransmit_again (hagain : o.again < 3) :
    let up (x : TrnOut) : TrnOut := if x.req.host = h.val && x.req.tag = o.req.tag then { x with sent := s.lt, again := x.again + 1 } else x
    exec (.transomRetransmit h) s = .next (sendTo o.device (.transom (.request { o.req with
      prev := lastTag (s.trn.outs.takeWhile (fun x => !(decide (x.req.host = h.val) && decide (x.req.tag = o.req.tag)))) h.val o.device }))
      ((s.modTrn (fun t => { t with outs := t.outs.map up })).bump (TRN_RETRANSMIT h.val))) := by
  intro up
  change execTransomRetransmit h s = _
  simp only [execTransomRetransmit, hout]
  exact if_pos hagain

theorem exec_transomRetransmit_givenUp (hagain : 3 ≤ o.again) : exec (.transomRetransmit h) s = .next (reqEnd o 1 [] s) := by
  change execTransomRetransmit h s = _
  simp only [execTransomRetransmit, hout]
  exact if_neg (Nat.not_lt.mpr hagain)

end retransmit

theorem exec_transomReadTimeout_due {h : HostId} {tag : Nat} {o : TrnOut} {s : State} (hout : outOf s h.val tag = some o) (hread : o.req.write = false)
    (hdue : o.start + s.fld TRN_CTRL.TIMEOUT * 1000 ≤ s.lt) : exec (.transomReadTimeout h tag) s = .next (reqEnd o 1 [] s) := by
  change execTransomReadTimeout h tag s = _
  simp only [execTransomReadTimeout, hout]
  exact if_pos (by simp [hread, hdue])

/-! The requests of other devices (R477, R478, R483). -/

/-- A request whose predecessor has its answer kept is in turn. -/
theorem channelTurn_of_prev {s : State} {r : TrnReq} (hprev : ∀ t, r.prev = some t → ∃ k ∈ keptOf s r, k.1 = t) : channelTurn s r = true := by
  cases hr : r.prev with
  | none => simp [channelTurn, hr]
  | some t => simpa [channelTurn, hr] using hprev t hr

section farRequest

variable {p : Port} {r : TrnReq} {s : State} (hin : fabIn s p.val = true) (haddr : hasAddr s = true)
  (hnew : (keptOf s r).find? (fun k => k.1 = r.tag) = none) (hprev : ∀ t, r.prev = some t → ∃ k ∈ keptOf s r, k.1 = t)
include hin haddr hnew hprev

theorem exec_transomFarRequest_denied (hdenied : farDenied s r = true) (rd : Bytes) (e : Bool) :
    exec (.transomFarRequest p (ownAddr s) r rd e) s = .next (answerReq r 2 [] s) := by
  change execTransomFarRequest p (ownAddr s) r rd e s = _
  simp only [execTransomFarRequest, hnew]
  exact (if_neg (by simp [hin])).trans ((if_neg (by simp [haddr])).trans ((if_neg (by simp [channelTurn_of_prev hprev])).trans (if_pos hdenied)))

/-- An allowed request acts as this device's firmware. -/
theorem exec_transomFarRequest_performed (hallowed : farDenied s r = false) (hbus : busAnswer s r r.src = some false) (rd : Bytes) (e : Bool) :
    let x := perform .fw r rd e s
    exec (.transomFarRequest p (ownAddr s) r rd e) s = .next (answerReq r x.1 x.2.1 x.2.2) := by
  intro x
  change execTransomFarRequest p (ownAddr s) r rd e s = _
  simp only [execTransomFarRequest, hnew, hbus]
  exact (if_neg (by simp [hin])).trans ((if_neg (by simp [haddr])).trans ((if_neg (by simp [channelTurn_of_prev hprev])).trans
    (if_neg (Bool.eq_false_iff.mp hallowed))))

end farRequest

/-- Settles O30: each access is performed here or sent on, and each outstanding request answered, repeated or given up, by the branch of its
conditions. -/
theorem transomAccessesReachTheirTargets : Obligations.TransomAccessesReachTheirTargets := by
  refine ⟨?read, ?write, fun h off cover d e s hbar hvalid herr hfence => exec_transomWrite_fenced hbar hvalid herr hfence e,
    fun p host tag cause d o s hin haddr hout => exec_transomAnswer_outstanding hin haddr hout cause d,
    fun h o s hout => ⟨exec_transomRetransmit_again hout, exec_transomRetransmit_givenUp hout⟩,
    fun h tag o s => exec_transomReadTimeout_due, fun p r rd e s hin haddr hnew hprev => ⟨?denied, ?performed⟩⟩
  case read =>
    exact fun h off cover rd e s hbar hvalid hcause => ⟨fun hhere hbus => exec_transomRead_here hbar rfl hvalid hcause hhere hbus rd e,
      fun hfar hopen => exec_transomRead_far hbar rfl hvalid hcause hfar hopen rd e⟩
  case write =>
    exact fun h off cover d e s hbar hvalid hfence hcause =>
      ⟨fun hhere hbus => exec_transomWrite_here hbar hvalid hfence rfl hcause hhere hbus e,
        fun hfar hopen => exec_transomWrite_far hbar hvalid hfence rfl hcause hfar hopen e⟩
  case denied => exact fun hdenied => exec_transomFarRequest_denied hin haddr hnew hprev hdenied rd e
  case performed => exact fun hallowed hbus => exec_transomFarRequest_performed hin haddr hnew hprev hallowed hbus rd e

end Sys2Proof.Machine
end

section
/-! Proofs: locks of buses and the sideband of the transom. -/

namespace Sys2Proof.Machine

/-! Messages of the locks (R484, R485). -/

section message

variable {p : Port} {s : State} (hin : fabIn s p.val = true) (haddr : hasAddr s = true)
include hin haddr

theorem exec_transomLockRequest_lock (src host : Nat) {bus : Nat} (hbus : bus < 5) :
    exec (.transomLockRequest p (ownAddr s) (.lock src host bus)) s = .next (seqGo (lockAt bus src host s)) :=
  (if_neg (by simp [hin])).trans ((if_neg (by simp [haddr])).trans (congrArg _ (if_pos hbus)))

theorem exec_transomLockRequest_granted (dev host bus : Nat) :
    exec (.transomLockRequest p (ownAddr s) (.granted dev host bus)) s = .next (grantIn host (dev, bus) s) :=
  (if_neg (by simp [hin])).trans (if_neg (by simp [haddr]))

theorem exec_transomLockRequest_unlock (src host bus : Nat) :
    exec (.transomLockRequest p (ownAddr s) (.unlock src host bus)) s = .next (seqGo (dropLock src host (ownAddr s, bus) s)) :=
  (if_neg (by simp [hin])).trans (if_neg (by simp [haddr]))

theorem exec_transomLockRequest_broken (dev host bus : Nat) :
    exec (.transomLockRequest p (ownAddr s) (.broken dev host bus)) s = .next (seqBroken host (dev, bus) s) :=
  (if_neg (by simp [hin])).trans (if_neg (by simp [haddr]))

/-- A sequence whose request for a bus it does not hold is turned away yields. -/
theorem exec_transomLockRequest_retry {dev host bus : Nat} {q : LockSeq} (hseq : seqOf s host = some q) (hasked : q.asked = some (dev, bus))
    (hheld : q.held.contains (dev, bus) = false) :
    exec (.transomLockRequest p (ownAddr s) (.retry dev host bus)) s = .next (seqYield host s) := by
  refine (if_neg (by simp [hin])).trans ((if_neg (by simp [haddr])).trans ?_)
  simp only [hseq]
  exact congrArg _ (if_pos (by rw [hasked, hheld]; simp))

end message

/-! Backoff and expiry (R484). -/

theorem exec_transomLockBackoff_due {h : HostId} {q : LockSeq} {t : Nat} {s : State} (hseq : seqOf s h.val = some q) (hback : q.backoff = some t)
    (hdue : t ≤ s.lt) :
    exec (.transomLockBackoff h) s =
      .next (seqAsk h.val 3 (s.modTrn (fun x => { x with seqs := kput x.seqs h.val { q with backoff := none, asked := none } }))) := by
  change execTransomLockBackoff h s = _
  simp only [execTransomLockBackoff, hseq, hback]
  exact if_pos hdue

theorem exec_transomLockExpiry_far {bus : Fin 5} {l : BusLock} {s : State} (hlock : kget s.trn.locks bus.val = some l) (hfar : l.dev ≠ ownAddr s)
    (hdue : l.at_ + s.fld TRN_CTRL.LOCK_MAX * 10000 ≤ s.lt) :
    exec (.transomLockExpiry bus) s = .next (seqGo (freeBus bus.val (sendTo l.dev (.transom (.broken (ownAddr s) l.host bus.val)) s))) := by
  change execTransomLockExpiry bus s = _
  simp only [execTransomLockExpiry, hlock]
  exact if_pos (by simp [hfar, hdue])

/-! The sideband (R486). -/

/-- A pin whose masked value changes is reported here, and sent on where its entry names another device. -/
theorem exec_sidebandPoll_changed {e : Fin 16} {value w : Nat} {s : State} (hstate : s.pwr.state = 0) (hvalid : s.flag (TRN_POLL0.VALID e.val) = true)
    (hpin : s.flag (TRN_POLL0.KIND e.val) = true)
    (hdue : kget s.trn.polled e.val = none ∨
      ∃ t, kget s.trn.polled e.val = some t ∧ t + s.fld (TRN_POLL0.INTERVAL e.val) * 10000 ≤ s.lt)
    (href : kget s.trn.refs e.val = some w)
    (hchanged : (value % 2) &&& s.fld (TRN_POLL2.MASK e.val) ≠ w &&& s.fld (TRN_POLL2.MASK e.val)) :
    let u := (s.modTrn (fun t => { t with polled := kput t.polled e.val s.lt })).setFld (TRN_POLL3.LAST e.val) (value % 2)
    let v := raise 0x0B02 0 (evPay [(16, 1, e.val), (17, 1, ownAddr (u.modTrn (fun t => { t with refs := kput t.refs e.val (value % 2) }))),
      (20, 4, value % 2)]) (u.modTrn (fun t => { t with refs := kput t.refs e.val (value % 2) }))
    exec (.sidebandPoll e value) s = .next (if v.flag (TRN_POLL0.NOTIFY_EN e.val) && hasAddr v && decide (v.fld (TRN_POLL0.NOTIFY_DEV e.val) ≠ ownAddr v)
      then sendTo (v.fld (TRN_POLL0.NOTIFY_DEV e.val)) (.transom (.sideband (ownAddr v) e.val (value % 2))) v else v) := by
  intro u v
  refine (if_neg ?due).trans ?_
  case due =>
    obtain hnone | ⟨t, hsome, ht⟩ := hdue
    · simp [hstate, hvalid, hpin, hnone]
    · simp [hstate, hvalid, hpin, hsome, ht]
  simp only [hpin, if_true, href]
  exact if_neg hchanged

theorem exec_sidebandNotifyReceived_here {p : Port} {s : State} (hin : fabIn s p.val = true) (haddr : hasAddr s = true) (src entry value : Nat) :
    exec (.sidebandNotifyReceived p (ownAddr s) src entry value) s = .next (raise 0x0B02 0 (evPay [(16, 1, entry), (17, 1, src), (20, 4, value)]) s) :=
  (if_neg (by simp [hin])).trans (if_neg (by simp [haddr]))

/-! The error of a window (R482, R489). -/

theorem exec_transomClearErr_host {c : CmdCtx} {h : HostId} {qs : Nat} {s : State} (hrun : mayRun c 0x0B01 s) (hwho : c.who = .host h qs)
    (hlen : plenIs c 8 = true) (hwin : byteAt c.par 0 ≤ 15) (hzero : parZero c 1 8 = true) :
    let u := markStarted c 0x0B01 s
    exec (.transomClearErr c) s = .next (complete c 0x0B01 stOk [] (if u.flag (TRN_WIN_STATUS.ERR h.val (byteAt c.par 0))
      then handleIf 0x0B01 (windowClear h.val (byteAt c.par 0) u) else u)) := by
  intro u
  refine congrArg _ ((command_run hrun _).trans ?_)
  refine (if_neg ?_).trans ?_
  · simp [hlen, hzero, Nat.not_lt.mpr hwin]
  · simp only [hwho, u]

/-- Settles O31: each message of a lock, timer, poll and report is the branch of its conditions. -/
theorem transomLocksAndSidebandRun : Obligations.TransomLocksAndSidebandRun := by
  refine ⟨fun p s hin haddr => ⟨fun src host bus => exec_transomLockRequest_lock hin haddr src host, exec_transomLockRequest_granted hin haddr,
      exec_transomLockRequest_unlock hin haddr, exec_transomLockRequest_broken hin haddr,
      fun dev host bus q => exec_transomLockRequest_retry hin haddr⟩, fun h q t s => exec_transomLockBackoff_due,
    fun bus l s => exec_transomLockExpiry_far, fun e value w s => exec_sidebandPoll_changed,
    fun p src entry value s hin haddr => exec_sidebandNotifyReceived_here hin haddr src entry value, fun c h qs s => exec_transomClearErr_host⟩

end Sys2Proof.Machine
end

section
/-! Proofs: neighbours and links of the fabric, and the two commands on another device. -/

namespace Sys2Proof.Machine

/-! A request to reset this device (R475). -/

theorem remoteReset_denied {s : State} (hoff : s.flag FAB_CFG.REMOTE_RST = false) : remoteReset s = (some false, s) := if_pos (by simp [hoff])

section allowed

variable {s : State} (hon : s.flag FAB_CFG.REMOTE_RST = true)
include hon

/-- A reset that drains first, or waits to do so, is answered at once. -/
theorem remoteReset_drains (hwarm : (warmStart 5 s).rst.warm ≠ none ∨ (warmStart 5 s).rst.waiting ≠ none) :
    remoteReset s = (some true, warmStart 5 s) := by
  simp only [remoteReset, hon]
  exact congrArg (·, _) (if_pos (by simpa [Option.isSome_iff_ne_none] using hwarm))

/-- A reset that does neither leaves the request open. -/
theorem remoteReset_open (hwarm : (warmStart 5 s).rst.warm = none) (hwaiting : (warmStart 5 s).rst.waiting = none) :
    remoteReset s = (none, warmStart 5 s) := by
  simp only [remoteReset, hon]
  exact congrArg (·, _) (if_neg (by simp [hwarm, hwaiting]))

end allowed

/-! The commands FAB_DIGEST_QUERY and FAB_RESET (R474, R475). -/

section digest

variable {c : CmdCtx} {s : State} (hrun : mayRun c 0x0A01 s) (hlen : plenIs c 8 = true) (hscope : byteAt c.par 1 ≤ 1) (hzero : parZero c 2 8 = true)
include hrun hlen hscope hzero

theorem exec_fabDigestQuery_here {u : State} (hu : markStarted c 0x0A01 s = u)
    (hhere : byteAt c.par 1 = 0 ∨ hasAddr u = true ∧ byteAt c.par 0 = ownAddr u) :
    exec (.fabDigestQuery c) s = .next (complete c 0x0A01 stOk (digestReply u) u) := by
  subst hu
  refine congrArg _ ((command_run hrun _).trans ?_)
  exact (if_neg (by simp [hlen, hzero, Nat.not_lt.mpr hscope])).trans (if_pos (by simpa using hhere))

theorem exec_fabDigestQuery_far {u : State} (hu : markStarted c 0x0A01 s = u) (hother : byteAt c.par 1 = 1)
    (hfar : hasAddr u = false ∨ byteAt c.par 0 ≠ ownAddr u) :
    exec (.fabDigestQuery c) s = .next (sendTo (byteAt c.par 0) (.digest (.query (ownAddr u))) (farWait c 0x0A01 (byteAt c.par 0) u)) := by
  subst hu
  refine congrArg _ ((command_run hrun _).trans ?_)
  exact (if_neg (by simp [hlen, hzero, Nat.not_lt.mpr hscope])).trans (if_neg (by simpa [hother, or_iff_not_imp_left] using hfar))

end digest

section reset

variable {c : CmdCtx} {s : State} (hrun : mayRun c 0x0A02 s) (hlen : plenIs c 8 = true) (hzero : parZero c 1 8 = true) {u : State}
  (hu : markStarted c 0x0A02 s = u)
include hrun hlen hzero hu

theorem exec_fabReset_far (hfar : hasAddr u = false ∨ byteAt c.par 0 ≠ ownAddr u) :
    exec (.fabReset c) s = .next (sendTo (byteAt c.par 0) (.reset (.request (ownAddr u))) (farWait c 0x0A02 (byteAt c.par 0) u)) := by
  subst hu
  refine congrArg _ ((command_run hrun _).trans ?_)
  exact (if_neg (by simp [hlen, hzero])).trans (if_neg (by simpa [or_iff_not_imp_left] using hfar))

variable (haddr : hasAddr u = true) (hown : byteAt c.par 0 = ownAddr u) (hon : u.flag FAB_CFG.REMOTE_RST = true)
include haddr hown hon

theorem exec_fabReset_drains (hwarm : (warmStart 5 u).rst.warm ≠ none ∨ (warmStart 5 u).rst.waiting ≠ none) :
    exec (.fabReset c) s = .next (complete c 0x0A02 stOk [] (warmStart 5 u)) := by
  subst hu
  refine congrArg _ ((command_run hrun _).trans ?_)
  simp [hlen, hzero, haddr, hown, remoteReset_drains hon hwarm]

theorem exec_fabReset_open (hwarm : (warmStart 5 u).rst.warm = none) (hwaiting : (warmStart 5 u).rst.waiting = none) :
    exec (.fabReset c) s = .next (farWait c 0x0A02 (byteAt c.par 0) (warmStart 5 u)) := by
  subst hu
  refine congrArg _ ((command_run hrun _).trans ?_)
  simp [hlen, hzero, haddr, hown, remoteReset_open hon hwarm hwaiting]

end reset

/-! Hellos and LINK_STATE (R456 to R461). -/

section hello

variable {s : State} (hdue : s.fab.lastHello + 1000000 ≤ s.lt)
include hdue

theorem exec_helloSend_dfp (hdfp : dfpOn s = true) :
    let u := (takeSeat s).modFab (fun f => { f with lastHello := (takeSeat s).lt })
    exec .helloSend s = .next ((fabUp u).foldl sayHello u) :=
  (if_neg (Nat.not_lt.mpr hdue)).trans (if_pos hdfp)

/-- Without its firmware the sender repeats the last hellos. -/
theorem exec_helloSend_hardware (hdfp : dfpOn s = false) (hhw : hwSender s = true) :
    exec .helloSend s = .next ((fabUp s).foldl repeatHello (s.modFab (fun f => { f with lastHello := s.lt }))) :=
  (if_neg (Nat.not_lt.mpr hdue)).trans ((if_neg (Bool.eq_false_iff.mp hdfp)).trans (if_pos hhw))

end hello

/-- An unchanged hello keeps its neighbour while the firmware does not run. -/
theorem exec_helloReceived_unchanged {p : Port} {h : Hello} {n : Nbr} {s : State} (hin : fabIn s p.val = false) (hdfp : s.flag FAB_CFG.DFP_EN = true)
    (hstate : s.pwr.state = 1 ∨ s.pwr.state = 2) (hport : s.fabricPort p.val = true) (hup : portUp s p.val = true)
    (hnbr : kget s.fab.nbrs p.val = some n) (hsame : n.hello = h) :
    exec (.helloReceived p h) s = .next (s.modFab (fun f => { f with nbrs := kput f.nbrs p.val { n with last := s.lt } })) := by
  change execHelloReceived p h s = _
  simp only [execHelloReceived, hnbr]
  exact (if_neg (Bool.eq_false_iff.mp hin)).trans ((if_pos (by simp [hdfp, hstate, hport, hup])).trans (if_pos hsame))

theorem exec_helloMissExpiry_due {p : Port} {n : Nbr} {s : State} (hdfp : dfpOn s = true) (hnbr : kget s.fab.nbrs p.val = some n)
    (hdue : n.last + s.fld FAB_TIMERS.HELLO_MISS * 1000000 ≤ s.lt) :
    exec (.helloMissExpiry p) s = .next (coordReview (nbrLost p.val 0 s)) := by
  change execHelloMissExpiry p s = _
  simp only [execHelloMissExpiry, hnbr]
  exact (if_neg (by simp [hdfp])).trans (if_pos hdue)

/-- Settles O48: the two commands are answered here or sent on, and each other row is the branch of its conditions. -/
theorem fabricNeighboursAndLinksAreKept : Obligations.FabricNeighboursAndLinksAreKept := by
  refine ⟨fun c s => ⟨?digest, ?reset⟩, fun s hdue => ⟨exec_helloSend_dfp hdue, exec_helloSend_hardware hdue⟩, fun p h s => ⟨fun hin => if_pos hin,
    fun n => exec_helloReceived_unchanged⟩, fun p n s => exec_helloMissExpiry_due, fun p s hport hlink => if_pos (by simp [hport, hlink]),
    fun s hdfp hdue => if_neg (by simp [hdfp, Nat.not_lt.mpr hdue]), fun p l s hin => if_pos hin⟩
  case digest =>
    exact fun hrun hlen hscope hzero => ⟨exec_fabDigestQuery_here hrun hlen hscope hzero rfl, exec_fabDigestQuery_far hrun hlen hscope hzero rfl⟩
  case reset =>
    exact fun hrun hlen hzero => ⟨exec_fabReset_far hrun hlen hzero rfl, fun haddr hown hon =>
      ⟨exec_fabReset_drains hrun hlen hzero rfl haddr hown hon, exec_fabReset_open hrun hlen hzero rfl haddr hown hon⟩⟩

end Sys2Proof.Machine
end

section
/-! Proofs: gossip, the coordinator, and messages between the devices of a fabric. -/

namespace Sys2Proof.Machine

/-! Gossip (R473). -/

section gossip

variable {s : State} (hdue : s.fab.lastGossip + 100000000 ≤ s.lt)
include hdue

theorem exec_gossipSend_dfp (hdfp : dfpOn s = true) (haddr : hasAddr s = true) :
    exec .gossipSend s = .next (compareGossip (flood none (.gossip (ownGossip s))
      (s.modFab (fun f => { f with lastGossip := s.lt, gossipSaid := some (ownGossip s) })))) :=
  (if_neg (Nat.not_lt.mpr hdue)).trans (if_pos (by simp [hdfp, haddr]))

/-- Without its firmware the sender repeats what it said last. -/
theorem exec_gossipSend_hardware {g : Gossip} (hoff : dfpOn s = false ∨ hasAddr s = false) (hhw : hwSender s = true)
    (hsaid : s.fab.gossipSaid = some g) :
    let u := s.modFab (fun f => { f with lastGossip := s.lt })
    exec .gossipSend s = .next ((fabUp u).foldl (fun v p => sendOn p 0 (.gossip g) v) u) := by
  intro u
  refine (if_neg (Nat.not_lt.mpr hdue)).trans ((if_neg (by simpa [or_iff_not_imp_left] using hoff)).trans ((if_pos hhw).trans ?_))
  have hsame : u.fab.gossipSaid = some g := hsaid
  simp only [u] at hsame ⊢
  rw [hsame]

end gossip

/-! The coordinator (R464 to R468). -/

section coordinator

variable {s : State} {t : Nat} (hfirst : s.fab.firstUp = some t) (hdfp : dfpOn s = true) (hother : s.fab.coord ≠ ownUid) (haddr : hasAddr s = true)
  (hprio : s.fld FAB_CFG.COORD_PRIO ≠ 0)
include hfirst hdfp hother haddr hprio

/-- The successor follows a coordinator that is silent or out of reach. -/
theorem exec_coordTimeout_successor (hsucc : s.fab.succ = ownUid) (hcoord : s.fab.coord ≠ 0)
    (hgone : max t s.fab.lastCoord + 300000000 ≤ s.lt ∨ reachCoord s = none) :
    exec .coordTimeout s = .next (coordReview (sendWholeDb 0 (becomeCoord 1 s))) := by
  change execCoordTimeout s = _
  simp only [execCoordTimeout, hfirst]
  refine (if_neg (by simp [hdfp, hother, haddr, hprio])).trans ((if_pos (by simp [hsucc, hcoord])).trans (if_pos ?_))
  simpa [hcoord] using hgone

/-- The highest candidate is the first coordinator. -/
theorem exec_coordTimeout_first (hcoord : s.fab.coord = 0) (hhigh : ∃ e, highest (candidates s) = some e ∧ e.1 = ownUid)
    (hsilent : max t s.fab.lastCoord + 300000000 ≤ s.lt) :
    exec .coordTimeout s = .next (coordReview (takeAssigned (becomeCoord 0 s).fab.assigned (becomeCoord 0 s))) := by
  obtain ⟨e, he, hown⟩ := hhigh
  change execCoordTimeout s = _
  simp only [execCoordTimeout, hfirst]
  refine (if_neg (by simp [hdfp, hother, haddr, hprio])).trans ((if_neg (by simp [hcoord])).trans ((if_pos ?_).trans ?_))
  · simp [he, hown, hcoord, hsilent]
  · simp [hcoord]

end coordinator

theorem exec_sizeModeSwitch_due {s : State} {t : Nat} {large : Bool} (hswitch : s.fab.switch = some (t, large)) (hdue : t ≤ s.scale 0) :
    let u := s.modFab (fun f => { f with switch := none, large := large, smallSince := if large then none else f.smallSince })
    exec .sizeModeSwitch s = .next (takeSize (sizeForced u large) u) := by
  intro u
  change execSizeModeSwitch s = _
  simp only [execSizeModeSwitch, hswitch]
  exact if_neg (Nat.not_lt.mpr hdue)

/-- Settles O49: each row is the branch of its conditions. -/
theorem gossipAndCoordinatorRun : Obligations.GossipAndCoordinatorRun := by
  refine ⟨fun s hdue => ⟨exec_gossipSend_dfp hdue, fun g => exec_gossipSend_hardware hdue⟩, fun p g s hin => if_neg (by simp [hin]),
    fun s hdfp hown hdue => if_neg (by simp [hdfp, hown, Nat.not_lt.mpr hdue]), fun p m s hin => if_pos hin, ?coord,
    fun t large s => exec_sizeModeSwitch_due⟩
  case coord =>
    exact fun t s hfirst hdfp hother haddr hprio => ⟨exec_coordTimeout_successor hfirst hdfp hother haddr hprio,
      exec_coordTimeout_first hfirst hdfp hother haddr hprio⟩

/-! Messages between devices (R463, R465 to R467, R474, R475). -/

section message

variable {p : Port} {s : State} (hin : fabIn s p.val = true)
include hin

section far

variable {dst : Nat} (hfar : hasAddr s = false ∨ dst ≠ ownAddr s)
include hfar

theorem exec_pathsMessage_far (m : PathsMsg) : exec (.pathsMessage p dst m) s = .next (relay dst (.paths m) s) :=
  (if_neg (by simp [hin])).trans (if_pos (by simpa using hfar))

theorem exec_digestMessage_far (src : Nat) (m : DigestMsg) : exec (.digestMessage p src dst m) s = .next (relay dst (.digest m) s) :=
  (if_neg (by simp [hin])).trans (if_pos (by simpa using hfar))

theorem exec_resetMessage_far (src : Nat) (m : ResetMsg) : exec (.resetMessage p src dst m) s = .next (relay dst (.reset m) s) :=
  (if_neg (by simp [hin])).trans (if_pos (by simpa using hfar))

end far

variable (haddr : hasAddr s = true)
include haddr

theorem exec_pathsMessage_here (m : PathsMsg) : exec (.pathsMessage p (ownAddr s) m) s = .next (pathsIn m s) :=
  (if_neg (by simp [hin])).trans (if_neg (by simp [haddr]))

theorem exec_digestMessage_query (src asker : Nat) :
    exec (.digestMessage p src (ownAddr s) (.query asker)) s = .next (sendTo asker (.digest (.reply (digestReply s))) s) :=
  (if_neg (by simp [hin])).trans (if_neg (by simp [haddr]))

theorem exec_digestMessage_reply (src : Nat) (b : Bytes) :
    exec (.digestMessage p src (ownAddr s) (.reply b)) s = .next (compareGossip (farAnswer 0x0A01 src stOk b
      (s.modFab (fun f => { f with digests := kput f.digests src (slice b 56 768) })))) :=
  (if_neg (by simp [hin])).trans (if_neg (by simp [haddr]))

theorem exec_resetMessage_answer (src : Nat) (ok : Bool) :
    exec (.resetMessage p src (ownAddr s) (.answer ok)) s = .next (farAnswer 0x0A02 src (if ok then stOk else stDenied) [] s) :=
  (if_neg (by simp [hin])).trans (if_neg (by simp [haddr]))

/-- A request answers as `remoteReset` says. -/
theorem exec_resetMessage_request (src asker : Nat) :
    exec (.resetMessage p src (ownAddr s) (.request asker)) s = match remoteReset s with
      | (some ok, t) => .next (sendTo asker (.reset (.answer ok)) t)
      | (none, t) => .next t :=
  (if_neg (by simp [hin])).trans (if_neg (by simp [haddr]))

end message

theorem exec_withdrawReceived_neighbour {p : Port} {sender limit : Nat} {n : Nbr} {s : State} (hin : fabIn s p.val = true) (hsender : sender ≤ 255)
    (hlimit : limit ≤ 65535) (hnbr : kget s.fab.nbrs p.val = some n) :
    exec (.withdrawReceived p sender limit) s = .next (coordReview (fabRecompute (s.modFab (fun f => { f with
      nbrs := kput f.nbrs p.val { n with hello := { n.hello with withdrawing := true } },
      db := kmapAt f.db n.hello.uid (fun l => { l with withdrawing := true }) })))) := by
  change execWithdrawReceived p sender limit s = _
  simp only [execWithdrawReceived, hnbr]
  exact if_neg (by simp [hin, Nat.not_lt.mpr hsender, Nat.not_lt.mpr hlimit])

theorem exec_fabRemoteCommandTimeout_due {f : FarCmd} {s : State} (hfar : s.fab.far.find? (fun f => decide (f.deadline ≤ s.lt)) = some f) :
    exec .fabRemoteCommandTimeout s = .next (complete f.cmd f.opcode stState [] (s.modFab (fun x =>
      { x with far := removeFirst (fun g => g.deadline ≤ s.lt) x.far }))) := by
  change execFabRemoteCommandTimeout s = _
  simp only [execFabRemoteCommandTimeout, hfar]

/-- Settles O50: a message for another device is relayed, and one for this device is the branch of its kind. -/
theorem fabricMessagesAreRelayedOrActOn : Obligations.FabricMessagesAreRelayedOrActOn := by
  refine ⟨fun p dst s hin hfar => ⟨exec_pathsMessage_far hin hfar, exec_digestMessage_far hin hfar, exec_resetMessage_far hin hfar⟩, ?here,
    fun p sender limit n s => exec_withdrawReceived_neighbour, fun f s => exec_fabRemoteCommandTimeout_due⟩
  case here =>
    intro p src s hin haddr dst
    have hask (asker : Nat) := exec_resetMessage_request hin haddr src asker
    refine ⟨exec_pathsMessage_here hin haddr, exec_digestMessage_query hin haddr src, exec_digestMessage_reply hin haddr src,
      exec_resetMessage_answer hin haddr src, fun asker hoff => ?denied, fun asker hon => ⟨fun hdrain => ?drains, fun hwarm hwaiting => ?isOpen⟩⟩
    case denied => exact (hask asker).trans (by rw [remoteReset_denied hoff])
    case drains => exact (hask asker).trans (by rw [remoteReset_drains hon hdrain])
    case isOpen => exact (hask asker).trans (by rw [remoteReset_open hon hwarm hwaiting])

end Sys2Proof.Machine
end

section
/-! Proofs: wakes of ports and pins, votes, and the sleep of clusters by commits. -/

namespace Sys2Proof.Machine

/-! Wakes (R524, R527 to R531). -/

/-- A pin that has held its wake level for its filter time wakes its clusters. -/
theorem exec_wakeInDetect_filtered {n : Fin 4} {held : Nat} {s : State} (hon : s.flag (WAKE_IN_CFG.EN n.val) = true)
    (hfilter : s.fld (WAKE_IN_CFG.FILTER n.val) * 10 ≤ held) :
    exec (.wakeInDetect n (!bit (s.fld (WAKE_IN_CFG.MODE n.val)) 0) held) s =
      .next (wakeEvent { source := 1, which := n.val, clusters := s.fld (WAKE_IN_CFG.CLUSTERS n.val), at_ := s.lt } 0 s) :=
  congrArg _ (if_pos (by simp [pinWakes, hon, hfilter]))

section port

variable {p : Nat} {t : Nat} {s : State} (hsince : kget s.wake.since p = some t)
include hsince

/-- A port whose change has run its time reaches its state, but for a T1 port that still trains. -/
theorem portReachedNow_due (hdue : t + portTime s p ≤ s.lt)
    (htrained : ¬(16 ≤ p ∧ p ≤ 31 ∧ s.fld (WAKE_PORT_STATUS.TARGET p) = 0 ∧ khas s.links p = false)) : portReachedNow p s = portReached p s := by
  simp only [portReachedNow, hsince]
  exact if_pos (by simpa [hdue, -not_and, not_and_or, or_assoc] using htrained)

/-- After 20 ms a port is forced into a state below normal. -/
theorem portForced_due (hdue : t + 20000000 ≤ s.lt) (htarget : 2 ≤ s.fld (WAKE_PORT_STATUS.TARGET p)) :
    portForced p s =
      raise 0x0E06 0 (evPay [(16, 1, p), (17, 1, s.fld (WAKE_PORT_STATUS.TARGET p))]) (portReached p (s.bump WAKE_STUCK)) := by
  simp only [portForced, hsince]
  exact if_pos (by simp [hdue, htarget])

theorem khas_since : khas s.wake.since p = true := by simp [khas, hsince]

end port

theorem exec_wakeHoldTick_ended {s : State} (hstate : s.pwr.state = 0) (htick : s.lt % 1000000 = 0) {m : Nat}
    (hm : listMask ((s.wake.holds.filter (fun e => decide (e.2 ≤ s.lt) && !bit s.wake.confirmed e.1)).map (·.1)) = m) (hended : m ≠ 0) :
    exec .wakeHoldTick s = .next (raise 0x0E03 0 (evPay [(18, 2, m)])
      ((s.modWake (fun w => { w with holds := w.holds.filter (fun e => !bit m e.1) })).bumpBy WAKE_FALSE_CNT (popCount m 16))) := by
  subst hm
  exact (if_neg (by simp [hstate, htick])).trans (if_neg hended)

/-! Votes (R535 to R537). -/

/-- A host's vote sets its register, ends the confirmed holds that it names, and wakes the clusters that it newly keeps awake. -/
theorem exec_netSleepVote_host {c : CmdCtx} {h : Nat} {f : Fld} {s u : State} (hu : markStarted c 0x0E02 s = u) (hrun : mayRun c 0x0E02 s)
    (hlen : plenIs c 8 = true) (hzero : parZero c 4 8 = true) (hmask : leAt c.par 0 2 ≠ 0) (hvote : hostVote c.who = some (h, f)) :
    let mask := leAt c.par 0 2
    let x := u.setFld f ((u.fld f &&& (0xFFFF - mask)) ||| (leAt c.par 2 2 &&& mask))
    let v := x.modWake (fun w => { w with
      holds := w.holds.filter (fun e => !bit (mask &&& x.wake.confirmed) e.1), confirmed := w.confirmed &&& (0xFFFF - (mask &&& x.wake.confirmed)) })
    let new := localVote v &&& mask &&& (0xFFFF - localVote u)
    exec (.netSleepVote c) s = .next (complete c 0x0E02 stOk []
      (if new = 0 then v else wakeEvent { source := 2, which := h, clusters := new, at_ := v.lt } 1 v)) := by
  subst hu
  intro mask x v new
  refine congrArg _ ((command_run hrun _).trans ?_)
  refine (if_neg (by simp [hlen, hzero, hmask])).trans ?_
  rw [hvote]

/-- Settles O53: each row is the branch of its conditions. -/
theorem wakesVotesAndCommitsAct : Obligations.WakesVotesAndCommitsAct := by
  refine ⟨fun p alt held s hseen => congrArg _ (if_pos hseen), fun n held s => exec_wakeInDetect_filtered, fun p t s hsince => ⟨?reached, ?forced⟩,
    fun s hstate htick hended => exec_wakeHoldTick_ended hstate htick rfl hended, fun c h f s => exec_netSleepVote_host rfl,
    fun p s hlow hhigh hstate hlink => congrArg _ (if_pos (by simp [hlow, hhigh, hstate, hlink]))⟩
  case reached => exact fun hdue htrained => congrArg _ (congrArg₂ settledNow (khas_since hsince) (portReachedNow_due hsince hdue htrained))
  case forced => exact fun hdue htarget => congrArg _ (congrArg₂ settledNow (khas_since hsince) (portForced_due hsince hdue htarget))

/-! The sleep of clusters (R536 to R539, R608, R609). -/

/-- A changed vote, or one that is 100 ms old, is sent while firmware runs and the role takes part. -/
theorem exec_sleepVoteSend_due {s u : State} (hstate : s.pwr.state = 0) (hu : sayWaiting s = u)
    (hdue : localVote u ≠ u.wake.sentVote ∨ wakePart u ≠ u.wake.sentPart ∨ u.wake.lastVote + 100000000 ≤ u.lt) (htriad : triadRun u = true)
    (hrole : wakeRole u = true) :
    let w := votedAwake (localVote u ||| u.wake.sentVote) u
    let x := w.modWake (fun y => { y with lastVote := w.lt, sentVote := localVote u, sentPart := wakePart u })
    exec .sleepVoteSend s =
      .next (if dfpOn x then flood none (.sleep { kind := 0, addr := ownAddr x, clusters := localVote u, part := wakePart u }) x else x) := by
  subst hu
  refine (if_neg (by simp [hstate])).trans (if_neg ?_)
  simpa [htriad, hrole, or_assoc, or_iff_not_imp_left] using hdue

section message

variable {p : Port} {m : SleepMsg} {s u : State} (hin : fabIn s p.val = true) (hu : flood (some p.val) (.sleep m) s = u)
include hin hu

theorem exec_sleepMessageReceived_own (hown : m.addr = ownAddr u) (haddr : hasAddr u = true) : exec (.sleepMessageReceived p m) s = .next u := by
  subst hu
  exact (if_neg (by simp [hin])).trans (congrArg _ (if_pos (by simp [hown, haddr])))

/-- Another device's message goes by its kind. -/
theorem exec_sleepMessageReceived_other (hother : m.addr ≠ ownAddr u ∨ hasAddr u = false) :
    exec (.sleepMessageReceived p m) s = .next (if m.kind = 0 then voteIn m u
      else if m.kind = 1 then takeCommit (m.clusters % 2 ^ 16) m.at_ (bit m.may (ownAddr u)) u
      else if m.kind = 2 then wakeIn m u
      else u) := by
  subst hu
  refine (if_neg (by simp [hin])).trans (congrArg _ (if_neg ?_))
  simpa [or_iff_not_imp_left] using hother

end message

/-- The coordinator commits the clusters that have been quiet for `SETTLE`. -/
theorem exec_sleepSettleExpiry_settled {s : State} (hstate : s.pwr.state = 0) (hcoord : sleepCoord s = true) (htriad : triadRun s = true)
    (hrole : wakeRole s = true) {pending m : Nat} (hpending : s.wake.commits.foldl (fun m c => m ||| c.clusters) s.wake.committed = pending)
    (hm : listMask ((List.range 16).filter (fun c => !bit pending c && !bit (localVote s) c &&
      decide (kgetD s.wake.quiet c s.pwr.stateAt + s.fld WAKE_TIMERS.SETTLE * 10000000 ≤ s.lt))) = m) (hsettled : m ≠ 0) :
    let t := s.scale 0 + s.fld WAKE_TIMERS.COMMIT_LEAD * 1000000
    let may := mayMask s (0xFFFF - ((pending ||| m) &&& 0xFFFF))
    let u := if s.flag FAB_CFG.DFP_EN then flood none (.sleep { kind := 1, addr := ownAddr s, clusters := m, at_ := t, may := may }) s else s
    exec .sleepSettleExpiry s = .next (takeCommit m t (bit may (ownAddr u)) u) := by
  subst hpending hm
  exact (if_neg (by simp [hstate, hcoord, htriad, hrole])).trans (if_neg hsettled)

/-- A commit whose time has come acts. -/
theorem exec_sleepCommitTime_due {s : State} (hstate : s.pwr.state = 0) {due : SleepCommit → Bool}
    (hdef : (fun c => !c.done && decide (c.at_ ≤ s.scale 0)) = due) (hany : s.wake.commits.any due = true) :
    let m := (s.wake.commits.filter due).foldl (fun m c => m ||| c.clusters) 0
    let may := (s.wake.commits.filter due).foldl (fun _ c => c.may) s.wake.may
    exec .sleepCommitTime s = .next (sleepRequest (endSettling (portsByCluster (s.modWake (fun w => { w with
      committed := w.committed ||| m, may := may, commits := w.commits.map (fun c => if due c then { c with done := true } else c) }))))) := by
  subst hdef
  exact if_neg (by rw [hany]; simp [hstate])

theorem exec_sleepStateRetry_due {t : Nat} {s : State} (hretry : s.wake.retry = some t) (hdue : t ≤ s.lt) :
    exec .sleepStateRetry s = .next (sleepRequest s) := by
  change execSleepStateRetry s = _
  simp only [execSleepStateRetry, hretry]
  exact congrArg _ (if_pos hdue)

/-- Settles O54: each row is the branch of its conditions. -/
theorem clustersSleepByCommits : Obligations.ClustersSleepByCommits := by
  refine ⟨fun s hstate => exec_sleepVoteSend_due hstate rfl, ?message,
    fun s hstate hcoord htriad hrole => exec_sleepSettleExpiry_settled hstate hcoord htriad hrole rfl rfl,
    fun s hstate hany => exec_sleepCommitTime_due hstate rfl hany, fun t s => exec_sleepStateRetry_due⟩
  case message =>
    intro p m s hin u
    refine ⟨exec_sleepMessageReceived_own hin rfl, fun hother => ?_⟩
    have hmessage := exec_sleepMessageReceived_other hin rfl hother
    exact ⟨fun hkind => hmessage.trans (congrArg _ (if_pos hkind)),
      fun hkind => hmessage.trans (congrArg _ ((if_neg (by omega)).trans (if_pos hkind))),
      fun hkind => hmessage.trans (congrArg _ ((if_neg (by omega)).trans ((if_neg (by omega)).trans (if_pos hkind))))⟩

end Sys2Proof.Machine
end

section
/-! Proofs: power states, supplies, clocks and power-on reset. -/

namespace Sys2Proof.Machine

/-! Entry into a state (R552 to R556). -/

section idle

variable {s : State} (hstate : s.pwr.state = 0) (hentry : s.pwr.entry = none) (hauto : s.fld PWR_CTRL.AUTO_STATE = 1 ∨ s.fld PWR_CTRL.AUTO_STATE = 2)
  (hstop : longStop s = false)
include hstate hentry hauto hstop

/-- The idle timer may run. -/
theorem idleEntry_possible :
    ¬(s.pwr.state ≠ 0 || s.pwr.entry.isSome || s.fld PWR_CTRL.AUTO_STATE = 0 || 2 < s.fld PWR_CTRL.AUTO_STATE || longStop s) = true := by
  obtain h1 | h2 := hauto
  · simp [hstate, hentry, h1, hstop]
  · simp [hstate, hentry, h2, hstop]

/-- A device idle for `AUTO_IDLE` asks for its state; a refusal starts the time again. -/
theorem exec_idleEntryTimer_due (hqueues : queuesEmpty s = true) (hring0 : ringWork s 0 = false) (hring1 : ringWork s 1 = false)
    (hdue : s.pwr.active + s.fld PWR_CTRL.AUTO_IDLE * 1000 ≤ s.lt) :
    let r := pwrRequest (s.fld PWR_CTRL.AUTO_STATE) 2 s
    exec .idleEntryTimer s = .next (if r.1 = 0 then r.2 else r.2.modPwr (fun p => { p with active := r.2.lt })) :=
  (if_neg (idleEntry_possible hstate hentry hauto hstop)).trans
    ((if_neg (by simp [hqueues, hring0, hring1])).trans (if_neg (Nat.not_lt.mpr hdue)))

/-- Work starts the time again. -/
theorem exec_idleEntryTimer_work (hqueues : queuesEmpty s = false) : exec .idleEntryTimer s = .next (s.modPwr (fun p => { p with active := s.lt })) :=
  (if_neg (idleEntry_possible hstate hentry hauto hstop)).trans (if_pos (by simp [hqueues]))

end idle

section request

variable {c : CmdCtx} {s u : State} (hu : markStarted c 0x0E01 s = u) (hrun : mayRun c 0x0E01 s) (hstop : longStop s = false)
  (hlen : plenIs c 8 = true) (hzero : parZero c 1 8 = true)
include hu hrun hstop hlen hzero

theorem exec_pwrRequestState_zero (hn : byteAt c.par 0 = 0) : exec (.pwrRequestState c) s = .next (complete c 0x0E01 stOk (zeros 8) u) := by
  subst hu
  refine (if_neg (by simp [hstop])).trans (congrArg _ ((command_run hrun _).trans ?_))
  exact (if_neg (by simp [hlen, hzero, hn])).trans (if_pos hn)

theorem exec_pwrRequestState_state (hpos : 1 ≤ byteAt c.par 0) (hn : byteAt c.par 0 ≤ 5) :
    let r := pwrRequest (byteAt c.par 0) 0 u
    exec (.pwrRequestState c) s = .next (complete c 0x0E01 (if r.1 = 0 then stOk else stState) (byte r.1 :: zeros 7) r.2) := by
  subst hu
  refine (if_neg (by simp [hstop])).trans (congrArg _ ((command_run hrun _).trans ?_))
  exact (if_neg (by simp [hlen, hzero, Nat.not_lt.mpr hn])).trans (if_neg (by omega))

end request

section commit

variable {e : Entering} {s : State} (hentry : s.pwr.entry = some e) (hstop : longStop s = false)
include hentry hstop

theorem exec_stateEntryCommit_shallow (htarget : e.target ≤ 2) : exec .stateEntryCommit s = .next (commitEntry e s) := by
  change execStateEntryCommit s = _
  simp only [execStateEntryCommit, hentry]
  exact (if_neg (Bool.eq_false_iff.mp hstop)).trans (if_pos htarget)

/-- A deep state is entered once no port changes its state; what waits to be written is written first. -/
theorem exec_stateEntryCommit_deep (htarget : 3 ≤ e.target) (hports : s.wake.since = []) :
    exec .stateEntryCommit s = .next (commitEntry e (braceEnd (writeWaiting 0 (writeWaiting 1 s)))) := by
  change execStateEntryCommit s = _
  simp only [execStateEntryCommit, hentry]
  exact (if_neg (Bool.eq_false_iff.mp hstop)).trans ((if_neg (by omega)).trans (if_pos (by simp [hports])))

end commit

/-! Exit from a state (R558, R559, R563, R576). -/

section trigger

variable {cause : Nat} {s : State}

/-- A trigger aborts an entry. -/
theorem trigger_entering {e : Entering} (hentry : s.pwr.entry = some e) (htriggers : triggers cause e.target = true) :
    trigger cause s = abortEntry e cause s := by
  simp only [trigger, hentry]
  exact if_pos htriggers

theorem trigger_resting (hentry : s.pwr.entry = none) (hexit : s.pwr.exit = none) (htriggers : triggers cause s.pwr.state = true) :
    trigger cause s = startExit cause s := by
  simp only [trigger, hentry, hexit]
  exact if_pos htriggers

/-- During an exit cause 8 marks it to end in a warm reset. -/
theorem trigger_leaving {x : Leaving} (hentry : s.pwr.entry = none) (hexit : s.pwr.exit = some x) (hcause : cause = 8)
    (htriggers : triggers 8 s.pwr.state = true) : trigger cause s = s.modPwr (fun p => { p with exit := some { x with warm := some 2 } }) := by
  subst hcause
  simp only [trigger, hentry, hexit]
  exact if_pos (by simp [htriggers])

end trigger

section exitTrigger

variable {cause : Fin 9} {s : State}

theorem exec_exitTrigger_cold (hcause : cause.val = 7) (hcold : s.pairMode = 1 ∧ s.fld PAIR_STATUS.ROLE = 3) :
    exec (.exitTrigger cause) s = .next (takeover true s) :=
  if_pos (by simp [hcause, hcold])

/-- A device that is not Cold takes its triggers. -/
theorem exec_exitTrigger_warm (hwarm : ¬(s.pairMode = 1 ∧ s.fld PAIR_STATUS.ROLE = 3)) :
    exec (.exitTrigger cause) s = .next (trigger cause.val s) := by
  have hcold : (decide (s.pairMode = 1) && decide (s.fld PAIR_STATUS.ROLE = 3)) = false := by simpa using hwarm
  exact (if_neg (by rw [hcold]; simp)).trans (if_neg (by rw [hcold]; simp))

end exitTrigger

theorem exec_islandRampDone_ramping {x : Leaving} {s : State} (hexit : s.pwr.exit = some x) (hramp : 0 < s.pwr.ramping) :
    let done := (rampList x.left).length - s.pwr.ramps - s.pwr.ramping
    exec .islandRampDone s = .next (grantRamps ((s.setFld (islandFld (((rampList x.left)[done]?).getD 53)) 0).modPwr (fun p =>
      { p with ramping := p.ramping - 1 }))) := by
  intro done
  change Host.Outcome.next (rampDone s) = _
  simp only [rampDone, hexit]
  exact congrArg _ (if_pos hramp)

section exitDone

variable {straps : Nat} {x : Leaving} {s u : State} (hexit : s.pwr.exit = some x) (hramps : s.pwr.ramps = 0) (hramping : s.pwr.ramping = 0)
  (hu : (if x.left = 5 then exitSealed x straps s else if 3 ≤ x.left then exitDeep x s else wakeDueNow (finishExit x s)) = u)
include hexit hramps hramping hu

theorem exec_stateExitDone_running (hwarm : x.warm = none) : exec (.stateExitDone straps) s = .next u := by
  change execStateExitDone straps s = _
  simp only [execStateExitDone, hexit, hwarm, hu]
  exact if_neg (by simp [hramps, hramping])

/-- An exit that was marked ends in a warm reset, but for S5. -/
theorem exec_stateExitDone_warm {k : Nat} (hwarm : x.warm = some k) :
    exec (.stateExitDone straps) s = .next (if x.left ≤ 4 then warmBegin k u else u) := by
  change execStateExitDone straps s = _
  simp only [execStateExitDone, hexit, hwarm, hu]
  exact if_neg (by simp [hramps, hramping])

end exitDone

/-- Settles O55: each row is the branch of its conditions; a trigger goes by the entry or exit under way. -/
theorem powerStatesAreEnteredAndLeft : Obligations.PowerStatesAreEnteredAndLeft := by
  refine ⟨?idle, ?request, fun e s hentry hstop => ⟨exec_stateEntryCommit_shallow hentry hstop, exec_stateEntryCommit_deep hentry hstop⟩, ?trigger,
    fun x s => exec_islandRampDone_ramping, ?done⟩
  case idle =>
    exact fun s hstate hentry hauto hstop => ⟨exec_idleEntryTimer_due hstate hentry hauto hstop, exec_idleEntryTimer_work hstate hentry hauto hstop⟩
  case request =>
    exact fun c s hrun hstop hlen hzero => ⟨exec_pwrRequestState_zero rfl hrun hstop hlen hzero,
      exec_pwrRequestState_state rfl hrun hstop hlen hzero⟩
  case trigger =>
    intro cause s cold
    refine ⟨exec_exitTrigger_cold, fun hwarm => ⟨fun e hentry htriggers => ?entering, fun hentry hexit htriggers => ?resting,
      fun x hentry hexit hcause htriggers => ?leaving⟩⟩
    case entering => exact (exec_exitTrigger_warm hwarm).trans (congrArg _ (trigger_entering hentry htriggers))
    case resting => exact (exec_exitTrigger_warm hwarm).trans (congrArg _ (trigger_resting hentry hexit htriggers))
    case leaving => exact (exec_exitTrigger_warm hwarm).trans (congrArg _ (trigger_leaving hentry hexit hcause htriggers))
  case done =>
    exact fun straps x s hexit hramps hramping => ⟨exec_stateExitDone_running hexit hramps hramping rfl,
      fun k => exec_stateExitDone_warm hexit hramps hramping rfl⟩

/-! Supplies (R568, R571, R572). -/

section rail

variable {r : Fin 11} {mv held : Nat} {s : State}

/-- A rail that dips below its warning level for its filter time starts brace. -/
theorem exec_railWarningEnter_warns (hstate : s.pwr.state ≤ 2) (hnew : s.flag (PWR_RAIL_STATUS.WARNING r.val) = false)
    (hlevel : mv * 200 < railNominal s.dbg.straps r.val * (200 - s.fld (PWR_RAIL_CFG.WARN r.val)))
    (hfilter : s.fld (PWR_RAIL_CFG.FILTER r.val) * 50 ≤ held) :
    exec (.railWarningEnter r mv held) s = .next (raise 0x0E01 0 (evPay [(16, 1, r.val), (17, 1, 0), (20, 2, mv)])
      (braceStart ((railSeen r.val mv s).setFld (PWR_RAIL_STATUS.WARNING r.val) 1))) :=
  (if_neg (Nat.not_lt.mpr hstate)).trans (if_neg (by simp [railWarns, hnew, hlevel, hfilter]))

theorem exec_railWarningEnter_seen (hstate : s.pwr.state ≤ 2)
    (hquiet : s.flag (PWR_RAIL_STATUS.WARNING r.val) = true ∨ railWarns s r.val mv held = false) :
    exec (.railWarningEnter r mv held) s = .next (railSeen r.val mv s) :=
  (if_neg (Nat.not_lt.mpr hstate)).trans (if_pos (by simpa using hquiet))

theorem exec_railWarningExit_warning (hwarning : s.flag (PWR_RAIL_STATUS.WARNING r.val) = true) :
    let u := raise 0x0E01 0 (evPay [(16, 1, r.val), (17, 1, 1), (20, 2, mv)]) ((railSeen r.val mv s).setFld (PWR_RAIL_STATUS.WARNING r.val) 0)
    exec (.railWarningExit r mv) s =
      .next (if (List.range 11).any (fun k => u.flag (PWR_RAIL_STATUS.WARNING k)) then u else warmResume (braceEnd u)) :=
  if_pos hwarning

/-- A monitored rail below its reset level holds the device in reset. -/
theorem exec_railResetLevel_below (hlow : s.rst.porLow = false) (hlevel : mv * 10 < railNominal s.dbg.straps r.val * 9)
    (hmonitored : s.pwr.state ≤ 2 ∨ s.pwr.state ≤ 4 ∧ r.val ≤ 2 ∨ r.val = 2) :
    exec (.railResetLevel r mv) s = .next (porHold 1 r.val s) :=
  (if_neg (by simp [hlow, belowReset, hlevel])).trans (if_pos (by simpa [or_assoc] using hmonitored))

end rail

theorem exec_clockLoss_clocked {k : Fin 4} {s : State} (hclocked : s.pwr.state ≤ 2 ∨ s.pwr.exit ≠ none) :
    exec (.clockLoss k) s = .next (raiseF3 0x0E0A (evPay [(16, 1, k.val)]) (triadRun s) (s.setFld (clockFld k.val) 0)) := by
  refine if_neg ?_
  obtain hstate | hexit := hclocked
  · simp [Nat.not_lt.mpr hstate]
  · simp [hexit]

/-! Power-on reset (R598, R619, R625, R626). -/

theorem supplyOk_of_rails {straps : Nat} {rails : List Nat}
    (hrails : ∀ r : Nat, r < 11 → railNominal straps r * 9 < nth rails r * 10 ∧ bankAgrees straps r (nth rails r) = true) :
    supplyOk straps rails false = true := by
  simpa [supplyOk] using hrails

section powerOn

variable {torn test : Bool} {straps held : Nat} {rails : List Nat} {s : State} (hlow : s.rst.porLow = true) (hfilter : rstFilter straps ≤ held)
include hlow hfilter

theorem exec_powerOnReset_started (hsupply : supplyOk straps rails test = true) :
    exec (.powerOnReset torn straps rails test held) s =
      .next (listsStart (gwRestart (startUp 0 (s.freeVal % 7929) straps torn (porLose s.drew)))) :=
  (if_neg (by simp [hlow, Nat.not_lt.mpr hfilter])).trans (if_pos hsupply)

theorem exec_powerOnReset_held (hsupply : supplyOk straps rails test = false) :
    exec (.powerOnReset torn straps rails test held) s = .next (porHold s.rst.cause s.rst.rail s) :=
  (if_neg (by simp [hlow, Nat.not_lt.mpr hfilter])).trans (if_neg (Bool.eq_false_iff.mp hsupply))

end powerOn

/-- Settles O56: each row is the branch of its conditions. -/
theorem suppliesClocksAndPowerOnResetAct : Obligations.SuppliesClocksAndPowerOnResetAct := by
  refine ⟨fun r mv held s => ⟨exec_railWarningEnter_warns, exec_railWarningEnter_seen, exec_railWarningExit_warning, exec_railResetLevel_below⟩,
    fun k s => exec_clockLoss_clocked, fun torn test straps held rails s => ⟨?started, exec_powerOnReset_held,
      fun hfilter => congrArg _ (if_neg (Nat.not_lt.mpr hfilter))⟩⟩
  case started =>
    intro hlow hfilter htest hrails
    subst htest
    exact exec_powerOnReset_started hlow hfilter (supplyOk_of_rails hrails)

end Sys2Proof.Machine
end
